-- ==== Sys2Proof/Word.lean ====
section
/-! DEFINITION. The word types of the SHK-2700 (R3) and the exact numbers its engines carry (R90). -/

namespace Sys2Proof

/-- A dword, 64 bits (R3). -/
abbrev Word := BitVec 64
/-- A byte (R3). -/
abbrev Byte := BitVec 8
/-- A half, 16 bits (R3). -/
abbrev Half := BitVec 16
/-- A word of 32 bits: an instruction word (R3). -/
abbrev W32 := BitVec 32

/-- An exact floating-point value before any rounding: a NaN, an infinity, or the number
`(-1)^neg × m × 2^e`; the sign of a zero is kept (R84, R87, R90). -/
inductive FVal where
  | nan
  | inf (neg : Bool)
  | fin (neg : Bool) (m : Nat) (e : Int)
  deriving DecidableEq, Repr

end Sys2Proof
end

