-- ==== Sys2Proof/Config.lean ====
section
/-! DEFINITION. What the manual leaves to the implementation or leaves open: opaque constants, so that no
proof can rest on a value of theirs (notes/assumptions/2.md). -/

namespace Sys2Proof.Config

/-- The router's hash among the up ports of one direction: a fixed, implementation-defined function of the
flow (source device, unit, slot, destination device) (R203). -/
opaque flowHash : Nat → Nat → Nat → Nat → Nat

/-- A measured temperature in 1/16 K (R219, R237); the argument is the model's counter of free values. -/
opaque measuredTemp : Nat → BitVec 16
/-- A monitor photodiode reading, 12 bits (R219): of a refresh and a ring. -/
opaque measuredLight : Nat → Nat → BitVec 12

/-- The modulus and the exponent that the bytes of an RSA-4096 public key give (R228): the manual gives the key no layout. -/
opaque rsaKey : List Byte → Nat × Nat
/-- The report signature by the device's attestation key, 512 bytes (R230). -/
opaque attestSign : List Byte → BitVec 4096
/-- The device serial (R222, R230), 64 bits. -/
opaque serial : Word

/-- Whether the power manager raises the mill clock by a step after a window within the design power (R27): by the count of clock steps and
the power. -/
opaque clockRaise : Nat → Nat → Bool

/-- The value that the upset of a soft error leaves in a twin's fingerprint step; zero when there is none
(R376): pairing exists because either copy may be upset at any time. -/
opaque twinUpset : Nat → Word

/-- The result that a residency command with an operation R234 does not give leaves in its dword 3. -/
opaque resUnknown : Nat → Word

/-- What the fuse map and self-test find bad, by stack × 36 + position: front ends and slabs (R18, R227). -/
opaque feBad : Nat → Bool
opaque slabBad : Nat → Bool
/-- The failure cause that BOOTSTAT records, for both slots (0) and the stack image (1) (R229, R233, R380). -/
opaque bootCause : Nat → BitVec 8
/-- What a read that is no thread's or engine's returns of a poisoned dword (R395). -/
opaque poisonRead : Nat → Word
/-- The result of a mailbox command that is known (R231): by whether it was done. -/
opaque mbxDone : Bool → BitVec 8

/-- Whether the package firmware knows a mailbox command, and the status of one it does not (R231): the manual names the commands and
the status UNKNOWN and gives no codes. -/
opaque mbxKnown : Word → Bool
opaque mbxUnknown : BitVec 8

/-- Bytes of the ring of the steward log (R373), in records of 64; and the record, counted from the latest, that a mailbox command reads from it,
which the manual does not number. -/
opaque logSize : Nat
opaque mbxLogRead : Word → Option Nat

/-- The shape record of a ring latch slot as a fault reports it (R351, R389): C_B, K, the width of B, the class of FMT. The manual gives
its fields and no layout. -/
opaque shapeRecord : Nat → Nat → Nat → Nat → Word

/-- What a saved image holds, by offset, in the parts whose layout R51 does not give; the argument is the model's counter of free values. -/
opaque imageRest : Nat → List (Nat × Byte)

end Sys2Proof.Config
end

