-- ==== Sys2Proof/Syntax.lean ====
section
/-! DEFINITION. The steps of the machine as syntax: every instruction of the instruction set (chapters 11 to
14) and every event of the table of operations and events (chapter 95), one constructor each. -/

namespace Sys2Proof

/-- A register operand (R56): main file 0 to 31 (k, a, l, o), operand file p0 to p7, or the latch. -/
inductive Operand where
  | main (i : BitVec 5)
  | opf (i : BitVec 3)
  | lat
  deriving DecidableEq, Repr

/-- `k0`: reads zero, discards writes (R58). -/
abbrev Operand.k0 : Operand := .main 0

/-- The second operand of CMP: a register, or the signed imm7 (R240). -/
inductive CmpSrc where
  | reg (b : Operand)
  | imm (v : BitVec 7)
  deriving DecidableEq, Repr

/-- The fields of an extended instruction (R242) with its switch marker. -/
structure Ext where
  sm : Bool
  x : Bool
  b : Operand
  a : Operand
  d : Operand
  n : Operand
  c : Operand
  sat : Bool
  csem : BitVec 3
  cen : Bool
  dsem : BitVec 3
  shape : BitVec 20
  fmt : BitVec 8
  fsrc : Bool
  rm : BitVec 3
  deriving DecidableEq, Repr

/-- A thread slot together with the generation of its occupant (R156, R299). -/
structure ThreadRef where
  unit : Nat
  slot : Nat
  gen : Nat
  deriving DecidableEq, Repr

/-- The source of an uncorrectable error: its CAUSE and DETAIL (R374, R395). -/
structure Poison where
  cause : Nat
  detail : Nat
  deriving DecidableEq, Repr

/-- A value with the poison it may carry (R395). -/
structure Val where
  v : Word
  psn : Option Poison
  deriving DecidableEq, Repr

/-- The flow of a packet (R203). -/
structure Flow where
  src : Nat
  unit : Nat
  slot : Nat
  dst : Nat
  deriving DecidableEq, Repr

/-- A Pallyn packet (R205, R207). `payload` holds its payload dwords; bit i of `poisoned` says that payload dword i is poisoned (R408).
`input` and `arr` are the model's own: where it entered this device's router, and its order at the fabric interface. -/
structure Packet where
  kind : Nat
  vc : Nat
  dst : Nat
  src : Nat
  tag : Nat
  nleaf : Nat
  win : Bool
  opsz : Nat
  status : Nat
  aux : Nat
  addr : Nat
  payload : List Word
  flow : Flow
  poisoned : Nat
  input : Nat := 16
  arr : Nat := 0
  /-- When it left the fabric interface; the model's own. -/
  sent : Nat := 0
  /-- It is a mirror copy (R378), or the report that one was dropped (R406). -/
  copy : Bool := false
  deriving DecidableEq, Repr

/-- The nine atomic operations, in the order of their codes in AUX (R207, R287). -/
inductive AtomOp where
  | add | and | or | xor | min | max | xchg | cas | fadd
  deriving DecidableEq, Repr

/-- What an access does at its bank (R137). -/
inductive AccKind where
  | ld (sx : Bool)
  | st
  | ldbd
  | stbd
  | atom (op : AtomOp)
  /-- A block of a spilled frame, and one of a filled frame, its o registers if `hi` (R62). -/
  | frame (vs : List Val)
  | fill (hi : Bool)
  deriving DecidableEq, Repr

/-- An access on its way from a thread to its home bank (R137): the thread, the return-buffer entry that takes its value,
the local physical address, the size in bytes, data and comparison value, when the value returns. -/
structure Access where
  t : ThreadRef
  id : Nat
  rb : Option Nat
  kind : AccKind
  pa : Nat
  size : Nat
  data : Word
  data2 : Word
  retAt : Nat
  va : Word
  pc : Word
  /-- The poison of a stored value, and the mirror device of a write (R135). -/
  psn : Option Poison
  mirror : Option Nat
  /-- The launch of its thread. -/
  ltag : Nat := 0
  deriving DecidableEq, Repr

/-- Status codes of posts and replies (R71, R205): OK 0, FAULT 1, REFUSED 2, FULL 3, BROKEN 4, CANCELLED 5. -/
abbrev Status := Nat

/-- Where a status is posted (R68, R71), and the INFO code of an overflow it may cause (R382). -/
structure PostTo where
  t : ThreadRef
  sem : BitVec 3
  src : Nat
  deriving DecidableEq, Repr

/-- A message on its way to a JU (R181): target, sender, and where its status goes. -/
structure AppendReq where
  ltag : Nat
  unit : Nat
  port : Nat
  msg : List Val
  senderDev : Nat
  senderLtag : Nat
  senderWid : Nat
  senderUnit : Nat
  reply : Option PostTo
  replyPkt : Option Packet
  deriving DecidableEq, Repr

/-- A remote spawn on its way to a JU (R195). -/
structure SpawnReq where
  ltag : Nat
  unit : Nat
  pc : Word
  args : List Word
  prio : Nat
  senderDev : Nat
  senderLtag : Nat
  senderUnit : Nat
  reply : Option PostTo
  replyPkt : Option Packet
  /-- Bit i: argument i is poisoned (R408). -/
  psn : Nat := 0
  deriving DecidableEq, Repr

/-- The engines of a unit (R156); the numbers are those of AGENT (R372). -/
inductive EngKind where
  | vx | mx | tmv
  deriving DecidableEq, Repr

/-- A firmware image as it lies in flash or is staged (R228), and what its firmware extends M2 to M7 by as it starts (R230; log entry 67). -/
structure Image where
  key : List Byte
  svn : Nat
  body : List Byte
  sig : List Byte
  exts : List (Nat × List Byte)
  deriving DecidableEq, Repr

/-- The transmit fibres that are up as a link trains, bit f for fibre f: this end's, and the far end's (R411). -/
structure LinkFibres where
  tx : Nat
  rx : Nat
  deriving DecidableEq, Repr

/-- A transmit fibre of a link, of this end or of the far end (R411). -/
structure FibreEnd where
  far : Bool
  fibre : Nat
  deriving DecidableEq, Repr

/-- What APPLY binds (R14 to R16): a stack, by what stands in LBPOS, or by what the vendor's firmware first writes there, which is to gang
the logical units of this list. -/
structure BindCommand where
  stack : Nat
  gangs : Option (List Nat)
  deriving DecidableEq, Repr

/-- A transfer of HBM4E (R397, R398): its physical address, and the launch and the unit that asked for it, 0 where none did. -/
structure HbmAccess where
  pa : Nat
  ltag : Nat
  unit : Nat
  deriving DecidableEq, Repr

/-- A forwarded B image on the ring (R173, R351): rows, K, width, format class, then its blocks with their
descriptors and what of them carries an error: a dword of the data by its number, the descriptor as 8. -/
structure RingImage where
  cb : Nat
  k : Nat
  wb : Nat
  cls : Nat
  blocks : List (List Byte × Half × List (Nat × Poison))
  /-- The unit and number of the command that sends it (the model's own), the elements of a row that each of its K-steps sends, and the cycle
  after the first line in which the data of each comes (R22, R173, R176); a command that stops sends no more. -/
  src : Nat × Nat
  group : Nat
  times : List Nat
  deriving DecidableEq, Repr

/-- A register of a thread as a debugger names it (R76). -/
inductive DebugReg where
  | operand (r : Operand)
  | q (i : BitVec 2)
  | sem (i : BitVec 3)
  | special (n : BitVec 7)
  | pc
  deriving DecidableEq, Repr

/-- How the steward firmware resolves a walk fault (R125, R388). -/
inductive WalkAnswer where
  | mapped (entryAddr : Nat) (entry : Word)
  | deliver
  deriving DecidableEq, Repr

/-- What a scrub read finds (R394, R396). -/
inductive ScrubFind where
  | clean | corrected | uncorrectable
  deriving DecidableEq, Repr

/-- Storage in which an error is found (R394, R396): a dword, a descriptor, a register of the vault by its number there, a register with
parity, a value in the return buffer, a port's state words, other state that a crew shares (R371). -/
inductive ScrubTarget where
  | dword (pa : Nat)
  | desc (pa : Nat)
  | vault (t : ThreadRef) (key : Nat)
  | parity (t : ThreadRef) (r : DebugReg)
  | result (t : ThreadRef) (id : Nat)
  | port (ltag unit p : Nat)
  | shared (ltag unit : Nat)
  | crumb (c : Nat)
  deriving DecidableEq, Repr

/-- What a command does to the key policy (R228): it fills the owner slot with the hash of a key, or moves MODE. -/
inductive KeyCommand where
  | owner (hash : BitVec 512)
  | mode (m : BitVec 2)
  deriving DecidableEq, Repr

/-- What the host writes as a register (R222, R223): a register at an offset in BAR 0; in the configuration space of the function, the
power state, the size of BAR 2, and the uncorrectable error status. -/
inductive HostReg where
  | bar0 (off : Nat)
  | power
  | bar2Size
  | errors
  deriving DecidableEq, Repr

/-- A residency command (R132, R234), with the HBM address of its ring entry where it has one. -/
structure ResCmd where
  va : Nat
  dev : Nat
  port : Nat
  entry : Option Nat
  deriving DecidableEq, Repr

/-- One step of the machine (chapter 95): an instruction of the issuing thread, or an event. Every instruction carries
its switch marker `sm` first (R239). -/
inductive Instr where
  -- bring-up, host and registers
  | boot (slotA slotB : Option Image)
  | stackImageVerify (img : Image)
  | hbmTrain (h : Nat) (ok : Bool) (lanes : List (Nat × Half))
  | linkTrain (p : Nat) (theirs12 theirs20 : Bool) (partnerDev partnerPort : Nat) (fibres : LinkFibres)
  | registerWrite (r : HostReg) (size : Nat) (data : Word)
  | apply (c : BindCommand)
  | launchRecordCommit (port : Nat) (dw7 : Word)
  | lpstatRead (block off size : Nat)
  | lpcqhWrite (port : Nat) (v : Word)
  | lpcqbWrite (port : Nat) (v : Word)
  -- dispatcher
  | launchHeadCheck (port : Nat)
  | backoffExpiry (port : Nat)
  | crewStart (ltag : Nat) (unit : Nat)
  | launchEnd (ltag : Nat) (status code : Nat)
  | crewSaved (ltag gang crew : Nat)
  | crewRestore (ltag gang : Nat)
  -- thread events
  | resultReturn (t : ThreadRef) (id : Nat) (vals : List Val)
  | switchPointCommit (t : ThreadRef)
  | bankAccept (acc : Access)
  | semPost (p : PostTo) (count : Nat) (status : Status)
  | debugHalt (t : ThreadRef)
  | debugResume (t : ThreadRef)
  | debugWrite (t : ThreadRef) (r : DebugReg) (v : Word)
  -- translation and the host's memory
  | pageWalkEnd (cluster root va : Nat)
  | walkFaultResolve (cluster root va : Nat) (ans : WalkAnswer)
  | hbmplaceWrite (hi : Bool) (v : Word)
  | descriptorWindowWrite (off size : Nat) (data : Word)
  | hostBar2Write (off : Nat) (data : List Byte)
  | hostBar2Read (off n : Nat)
  | msixUnmask (vec : Nat)
  | ownerset (c : KeyCommand) (key sig : List Byte)
  | stagedImage (img : Image)
  -- engines
  | mxStart (unit : Nat)
  | vxStart (unit : Nat)
  | consumedPost (unit : Nat) (id : Nat)
  | donePost (unit : Nat) (id : Nat)
  | engineFault (unit : Nat) (id : Nat)
  | tmvBlockDone (unit : Nat) (id : Nat)
  | cxBlockWrite (unit : Nat) (chan : Nat)
  | ringBArrive (unit : Nat) (img : RingImage)
  | ringTimeout (unit : Nat) (id : Nat)
  -- join unit, barriers, firmware
  | appendAccept (r : AppendReq)
  | spawnrAccept (r : SpawnReq)
  | handlerCreate (ltag unit pat frame : Nat) (pc : Word) (pri : BitVec 3)
  | wakePost (ltag unit pat epoch tid : Nat) (sem : BitVec 3)
  | recvTake (t : ThreadRef)
  | barrierRegister (t : ThreadRef) (rb : Nat) (va : Word) (need : Nat)
  | barrierArrival (t : ThreadRef) (sem : BitVec 3) (va : Word) (pa : Nat) (bwait : Option Nat)
  | barrierBroken (pa : Nat) (reinit : Bool) (writer : Option ThreadRef)
  | syscAnswer (t : ThreadRef) (v : Word)
  | fingerprintExchange (t : ThreadRef)
  | unitRetire (stack fe slab : Nat) (isSlab : Bool)
  -- fabric: routing
  | packetRoute (input : Nat) (p : Packet)
  | holdExpiry (port : Nat) (vc : Nat)
  | deadlockTimer (port : Nat) (vc : Nat)
  -- fabric: packets at a home, and replies at a requester
  | retryResend (tag : Nat)
  | retryTimeout (tag : Nat)
  | crumbTimeout (i : Nat)
  | crumbHoldExpiry (i : Nat)
  -- links, optics, power, memory errors
  | linkReplay (port : Nat) (nth : Nat)
  | retrainEnd (port : Nat) (ok : Bool)
  | fibredown (port : Nat) (fibre : FibreEnd)
  | ringWrite (port fibre ring : Nat) (size : Nat) (hi : Bool) (data : Word)
  | wavelengthMove (port fibre wave : Nat)
  | powerWindow (mw : Nat)
  | patrolScrub (tgt : ScrubTarget) (find : ScrubFind)
  | hbmRead (r : HbmAccess) (sev : Nat) (bit : Nat) (multi : Bool)
  | hbmTransferRetry (r : HbmAccess) (tries : Nat) (ok : Bool)
  | laneTestEnd (r : HbmAccess) (lane : Nat) (retryOk : Bool)
  | segmentFree (t : ThreadRef) (va : Word)
  -- integer register forms
  | add (sm : Bool) (d a b : Operand)
  | sub (sm : Bool) (d a b : Operand)
  | mul (sm : Bool) (d a b : Operand)
  | mulh (sm x : Bool) (d a b : Operand)
  | div (sm x : Bool) (d a b : Operand)
  | rem (sm x : Bool) (d a b : Operand)
  | and (sm : Bool) (d a b : Operand)
  | or (sm : Bool) (d a b : Operand)
  | xor (sm : Bool) (d a b : Operand)
  | andn (sm : Bool) (d a b : Operand)
  | shl (sm : Bool) (d a b : Operand)
  | shr (sm x : Bool) (d a b : Operand)
  | rot (sm : Bool) (d a b : Operand)
  | min (sm x : Bool) (d a b : Operand)
  | max (sm x : Bool) (d a b : Operand)
  | clz (sm : Bool) (d a : Operand)
  | ctz (sm : Bool) (d a : Operand)
  | popc (sm : Bool) (d a : Operand)
  | brev (sm : Bool) (d a : Operand)
  | sext (sm : Bool) (w : BitVec 2) (d a : Operand)
  | zext (sm : Bool) (w : BitVec 2) (d a : Operand)
  -- immediate, move and bit-field forms
  | addi (sm : Bool) (i : BitVec 8) (d a : Operand)
  | addiLit (sm : Bool) (lit : Word) (d a : Operand)
  | muli (sm : Bool) (i : BitVec 8) (d a : Operand)
  | muliLit (sm : Bool) (lit : Word) (d a : Operand)
  | andi (sm : Bool) (i : BitVec 8) (d a : Operand)
  | andiLit (sm : Bool) (lit : Word) (d a : Operand)
  | ori (sm : Bool) (i : BitVec 8) (d a : Operand)
  | oriLit (sm : Bool) (lit : Word) (d a : Operand)
  | xori (sm : Bool) (i : BitVec 8) (d a : Operand)
  | xoriLit (sm : Bool) (lit : Word) (d a : Operand)
  | shli (sm : Bool) (c : BitVec 6) (d a : Operand)
  | shri (sm arith : Bool) (c : BitVec 6) (d a : Operand)
  | roti (sm : Bool) (c : BitVec 6) (d a : Operand)
  | mini (sm : Bool) (i : BitVec 8) (d a : Operand)
  | miniLit (sm : Bool) (lit : Word) (d a : Operand)
  | maxi (sm : Bool) (i : BitVec 8) (d a : Operand)
  | maxiLit (sm : Bool) (lit : Word) (d a : Operand)
  | li (sm : Bool) (i : BitVec 8) (d : Operand)
  | liLit (sm : Bool) (lit : Word) (d : Operand)
  | lea (sm x : Bool) (d a b : Operand)
  | bfx (sm : Bool) (pos wid1 : BitVec 6) (d a : Operand)
  | bfi (sm : Bool) (pos wid1 : BitVec 6) (d a : Operand)
  | mov (sm : Bool) (d a : Operand)
  | pfr (sm : Bool) (d : BitVec 3) (a : Operand)
  -- compare and control
  | cmp (sm : Bool) (cond : BitVec 3) (k : BitVec 2) (a : Operand) (b : CmpSrc)
  | cmpLit (sm : Bool) (cond : BitVec 3) (k : BitVec 2) (a : Operand) (lit : Word)
  | fcmp (sm dbl : Bool) (cond : BitVec 3) (k : BitVec 2) (a b : Operand)
  | br (sm : Bool) (off : BitVec 22)
  | call (sm : Bool) (off : BitVec 22)
  | jmp (sm : Bool) (a : Operand)
  | callr (sm : Bool) (a : Operand)
  | ret (sm : Bool)
  | loop (sm : Bool) (off : BitVec 15) (d : Operand)
  -- scalar floating point
  | fadd (sm x : Bool) (d a b : Operand)
  | faddExt (sm x : Bool) (rm : BitVec 3) (d a b : Operand)
  | fsub (sm x : Bool) (d a b : Operand)
  | fsubExt (sm x : Bool) (rm : BitVec 3) (d a b : Operand)
  | fmul (sm x : Bool) (d a b : Operand)
  | fmulExt (sm x : Bool) (rm : BitVec 3) (d a b : Operand)
  | ffma (sm x : Bool) (rm : BitVec 3) (d a b c : Operand)
  | fdiv (sm x : Bool) (d a b : Operand)
  | fdivExt (sm x : Bool) (rm : BitVec 3) (d a b : Operand)
  | fsqrt (sm x : Bool) (d a : Operand)
  | fsqrtExt (sm x : Bool) (rm : BitVec 3) (d a : Operand)
  | fmin (sm x : Bool) (d a b : Operand)
  | fminExt (sm x : Bool) (rm : BitVec 3) (d a b : Operand)
  | fmax (sm x : Bool) (d a b : Operand)
  | fmaxExt (sm x : Bool) (rm : BitVec 3) (d a b : Operand)
  | fcvt (sm sat : Bool) (rm : BitVec 3) (dfm sfm : BitVec 8) (d a : Operand)
  | fclass (sm x : Bool) (d a : Operand)
  -- memory
  | ld (sm rx sx : Bool) (sz : BitVec 2) (off : BitVec 4) (d a : Operand)
  | ldLit (sm rx sx : Bool) (sz : BitVec 2) (off : Word) (d a : Operand)
  | st (sm rx : Bool) (sz : BitVec 2) (off : BitVec 4) (d a : Operand)
  | stLit (sm rx : Bool) (sz : BitVec 2) (off : Word) (d a : Operand)
  | ldbd (sm : Bool) (off : BitVec 4) (d a : Operand)
  | ldbdLit (sm : Bool) (off : Word) (d a : Operand)
  | stbd (sm : Bool) (off : BitVec 4) (d a : Operand)
  | stbdLit (sm : Bool) (off : Word) (d a : Operand)
  | fence (sm : Bool) (scope : BitVec 3)
  | flushr (sm : Bool) (a : Operand)
  | stq (sm : Bool) (q : BitVec 2) (off : BitVec 4) (a : Operand)
  | stqLit (sm : Bool) (q : BitVec 2) (off : Word) (a : Operand)
  | qmov (sm : Bool) (q : BitVec 2) (d : Operand)
  | salloc (sm : Bool) (level : BitVec 2) (d a : Operand)
  | sfree (sm : Bool) (a : Operand)
  -- atomics and APPEND
  | aadd (sm x : Bool) (d a b : Operand)
  | aand (sm x : Bool) (d a b : Operand)
  | aor (sm x : Bool) (d a b : Operand)
  | axor (sm x : Bool) (d a b : Operand)
  | amin (sm x : Bool) (d a b : Operand)
  | amax (sm x : Bool) (d a b : Operand)
  | axchg (sm x : Bool) (d a b : Operand)
  | acas (sm x : Bool) (d a b c : Operand)
  | afadd (sm x : Bool) (d a b : Operand)
  | append (sm : Bool) (cnt : BitVec 3) (dsem : BitVec 3) (a b : Operand)
  -- threads and synchronisation
  | spawn (sm : Bool) (argc prio : BitVec 3) (pexp : Bool) (tidreq : BitVec 8) (tiden : Bool) (d a b : Operand)
  | spawnLit (sm : Bool) (argc prio : BitVec 3) (pexp : Bool) (tidreq : BitVec 8) (tiden : Bool) (pc : Word) (d b : Operand)
  | spawnr (sm : Bool) (argc prio dsem : BitVec 3) (a b c : Operand)
  | spawnrLit (sm : Bool) (argc prio dsem : BitVec 3) (pc : Word) (a b : Operand)
  | exit (sm : Bool)
  | yield (sm : Bool)
  | setpri (sm : Bool) (i : BitVec 8) (a : Operand)
  | wait (sm : Bool) (sem : BitVec 3) (i : BitVec 8) (a : Operand)
  | post (sm : Bool) (dsem : BitVec 3) (cnt : BitVec 16) (a : Operand)
  | semset (sm : Bool) (sem : BitVec 3) (i : BitVec 8) (a : Operand)
  | trig (sm : Bool)
  | barinit (sm : Bool) (d a b : Operand)
  | bararr (sm : Bool) (sem : BitVec 3) (a : Operand)
  | barwait (sm : Bool) (sem : BitVec 3) (a : Operand)
  | patset (sm : Bool) (idx : BitVec 5) (a b c : Operand)
  | patsetLit (sm : Bool) (idx : BitVec 5) (hpc : Word) (a c : Operand)
  | patclr (sm : Bool) (i : BitVec 8) (a : Operand)
  | portcfg (sm : Bool) (idx : BitVec 6) (a b : Operand)
  | recv (sm : Bool) (cnt : BitVec 3) (port : BitVec 6) (hdr : Bool) (d : Operand)
  -- system
  | trap (sm : Bool) (code : BitVec 8)
  | sysc (sm : Bool) (code : BitVec 8)
  | eret (sm : Bool)
  | mfs (sm : Bool) (n : BitVec 7) (d : Operand)
  | mts (sm : Bool) (n : BitVec 7) (a : Operand)
  | rgn (sm : Bool)
  | pair (sm : Bool)
  | unpair (sm : Bool)
  | msync (sm : Bool)
  | clk (sm : Bool) (q : BitVec 2)
  | physid (sm : Bool) (q : BitVec 2)
  | capx (sm : Bool) (a b : Operand)
  | halt (sm : Bool)
  | portstat (sm w : Bool) (port : BitVec 6) (d : Operand)
  | ill (sm : Bool) (len : BitVec 2) (u : BitVec 22)
  -- engines
  | tmv (e : Ext)
  | cxtpl (e : Ext)
  | cxgo (e : Ext)
  | cxwm (e : Ext)
  | cxstop (e : Ext)
  | cxrst (e : Ext)
  | vadd (e : Ext)
  | vsub (e : Ext)
  | vmul (e : Ext)
  | vfma (e : Ext)
  | vmin (e : Ext)
  | vmax (e : Ext)
  | vabs (e : Ext)
  | vneg (e : Ext)
  | vrcp (e : Ext)
  | vrsq (e : Ext)
  | vexp2 (e : Ext)
  | vlog2 (e : Ext)
  | vlut (e : Ext)
  | vcmp (e : Ext)
  | vsel (e : Ext)
  | vcvt (e : Ext)
  | vscale (e : Ext)
  | vred (e : Ext)
  | vscan (e : Ext)
  | vtopk (e : Ext)
  | vgath (e : Ext)
  | vscat (e : Ext)
  | vfill (e : Ext)
  | viota (e : Ext)
  | vpack (e : Ext)
  | vunpk (e : Ext)
  | mma (e : Ext)
  | mmas (e : Ext)
  | mald (e : Ext)
  | mast (e : Ext)
  | maz (e : Ext)
  | mstat (e : Ext)
  | mring (e : Ext)
  -- events named last in the table
  | packetTransmit (port : Nat)
  | tagReuse (tag : Nat)
  | capxComplete (t : ThreadRef)
  | dispReady (savebase savesz dirbase rufree : Word) (esc : List Word)
  | ringRetire (port fibre ring : Nat)
  | debugEnd (t : ThreadRef)
  -- packets at a home, at a requester and at a residency unit: they act on the packet that State.pkt holds
  | rd
  | wr
  | wrn
  | atm
  | atmp
  | matm
  | app
  | spw
  | flu
  | rdr
  | atr
  | matr
  | sts
  | ack
  | retry
  | mgt
  | resCollapse
  | resInval
  | resAck
  | resDone
  | resMoved
  | resDup
  | resMigrate
  | resCollapseCommand
  | resSplit
  | resMapped
  -- residency commands: they act on the command that State.cmd holds
  | dup
  | migrate
  | collapse
  | split
  -- steps that act on registers or on the whole device
  | tinv
  | tinvComplete
  | preemptSave
  | preemptRestore
  | attest
  | patternEvaluation
  | coldReset
  | functionLevelReset
  | hostLinkTrain
  | endSweep
  | annulment
  | asyncTrap
  | residencyResume
  | pdRefresh
  | tempRefresh
  deriving DecidableEq, Repr

end Sys2Proof
end

