-- ==== Sys2Proof/Machine/Legal.lean ====
section
/-! DEFINITION. Format codes (R83) and the checks that make the fields of an instruction illegal
(R243, R247, R326 to R355): which field, reported as SUB and WORD of TRAPINFO (R381, R382). -/

namespace Sys2Proof

/-- Format class of a code, bits 7:6 (R79, R83). -/
def fmtClass (c : BitVec 8) : Nat := c.toNat / 64

/-- A code of the binary8 family with its precision 1 to 7 (R83). -/
def isB8 (c : BitVec 8) : Bool := fmtClass c == 1 && c.toNat % 8 != 0

/-- The sparse codes (R83). -/
def isSparse (c : BitVec 8) : Bool :=
  (isB8 c && c.toNat / 8 % 2 == 1) || c == 0x88 || c == 0x89 || c == 0xC8

/-- The dense code that corresponds to a sparse one (R83, R89). -/
def denseOf (c : BitVec 8) : BitVec 8 := if isSparse c then c &&& 0xF7 else c

/-- Whether the code is an integer format (R83). -/
def isInt (c : BitVec 8) : Bool := c == 1 || c == 2 || c == 4 || c == 5 || c == 6

/-- Width of an element in bits; zero for untyped and for a code that R83 faults. -/
def fmtWidth (c : BitVec 8) : Nat :=
  if isB8 c || c == 1 || c == 2 then 8
  else if c == 4 || c == 0x80 || c == 0x81 || c == 0x88 || c == 0x89 then 16
  else if c == 5 || c == 0xC0 || c == 0xC8 then 32
  else if c == 6 || c == 0xC1 then 64
  else 0

/-- Logical elements of a block (R83). -/
def fmtCount (c : BitVec 8) : Nat := if fmtWidth c = 0 then 0 else 512 / fmtWidth c

/-- A code that R83 lists and that is not untyped. -/
def fmtTyped (c : BitVec 8) : Bool := fmtWidth c != 0

/-- A declared format of a VX function, dense (R341). -/
def vxDense (c : BitVec 8) : Bool :=
  !isSparse c && (fmtWidth c == 8 || fmtWidth c == 16 || fmtWidth c == 32)

/-- A declared format of a VX function, dense or sparse (R341). -/
def vxAny (c : BitVec 8) : Bool := vxDense (denseOf c)

/-- The six codes of FCVT (R276). -/
def fcvtCode (c : BitVec 8) : Bool :=
  c == 5 || c == 6 || c == 0x80 || c == 0x81 || c == 0xC0 || c == 0xC1

/-- The floating-point formats of the matrix engine other than binary64 (R95, R353). -/
def mxFloat (c : BitVec 8) : Bool := fmtTyped c && !isInt c && c != 0xC1

/-- The first failing check of a list of (holds, SUB, WORD). -/
def firstBad : List (Bool × Nat × Nat) → Option (Nat × Nat)
  | [] => none
  | (ok, w) :: r => if ok then firstBad r else some w

/-- A run of `n` registers upwards from `r` stays within its level (R289). -/
def runOk (r : Operand) (n : Nat) : Bool :=
  match r with
  | .main i => i.toNat + n ≤ 32
  | .opf i => i.toNat + n ≤ 8
  | .lat => n ≤ 1

namespace Ext

/-- SHAPE bits hi:lo as a number (R294). -/
def sh (e : Ext) (lo n : Nat) : Nat := (e.shape.extractLsb' lo n).toNat
/-- The scale mode of a VX function or of MAST (R339, R353). -/
def smode (e : Ext) : Nat := e.sh 16 2
/-- The scale byte SCL (R339). -/
def scl (e : Ext) : Nat := e.sh 8 8
/-- The declared source format SFMT (R339). -/
def sfmt (e : Ext) : BitVec 8 := e.shape.extractLsb' 0 8

/-- Operand fields that must be k0: reported as reserved fields (R243). -/
def unused (ds as bs : Bool) (cs ns : Bool) (e : Ext) : List (Bool × Nat × Nat) :=
  [(!ds || e.d == .k0, 1, 0), (!as || e.a == .k0, 1, 0), (!bs || e.b == .k0, 1, 0),
   (!cs || e.c == .k0, 1, 1), (!ns || e.n == .k0, 1, 1)]

/-- No consumed post (R328). -/
def noCons (e : Ext) : List (Bool × Nat × Nat) := [(!e.cen, 1, 1), (e.csem == 0, 1, 1)]
/-- No semaphore at all (R328). -/
def noSem (e : Ext) : List (Bool × Nat × Nat) := noCons e ++ [(e.dsem == 0, 1, 1)]
/-- SAT and RM zero (R243). -/
def noRound (e : Ext) : List (Bool × Nat × Nat) := [(!e.sat, 1, 1), (e.rm == 0, 1, 2)]
/-- X, SAT, FMT, FSRC and RM zero, SHAPE zero above its first `n` bits (R243). -/
def plainShape (n : Nat) (e : Ext) : List (Bool × Nat × Nat) :=
  [(!e.x, 1, 0), (!e.sat, 1, 1), (e.shape.toNat < 2 ^ n, 1, 2), (e.fmt == 0, 1, 2), (!e.fsrc, 1, 2), (e.rm == 0, 1, 2)]

/-- A consumed semaphore that no post uses is zero (R243, R328). -/
def consUsed (e : Ext) : List (Bool × Nat × Nat) := [(e.cen || e.csem == 0, 1, 1)]

/-- The destination scale of a VX function or of MAST: SMODE, and SCL, which is zero where SMODE does not use it (R243, R339, R353). -/
def scaleUsed (e : Ext) : List (Bool × Nat × Nat) := [(e.smode != 3, 3, 2), (e.scl != 255, 3, 2), (e.smode == 1 || e.scl == 0, 1, 2)]

/-- Checks common to the VX functions but VTOPK: X, CSEM, SHAPE 19:18, SMODE, SCL, RM (R338, R339, R91). -/
def vxCommon (e : Ext) : List (Bool × Nat × Nat) :=
  [(!e.x, 1, 0)] ++ consUsed e ++ [(e.sh 18 2 == 0, 1, 2)] ++ scaleUsed e ++
  [(decide (e.rm.toNat ≤ 5), 3, 2),
   (e.smode == 0 || fmtClass e.fmt == 1 || fmtClass e.fmt == 2, 3, 2)]

/-- Declared formats of an element-wise function: any SFMT, dense FMT (R341). -/
def vxElem (e : Ext) : List (Bool × Nat × Nat) := [(vxAny e.sfmt, 3, 2), (vxDense e.fmt, 3, 2)]
/-- Declared formats of the other functions: dense (R341). -/
def vxStrict (e : Ext) : List (Bool × Nat × Nat) := [(vxDense e.sfmt, 3, 2), (vxDense e.fmt, 3, 2)]

/-- An element-wise function of one, two or three streams. -/
def vx1 (e : Ext) := firstBad (unused false false true true false e ++ vxCommon e ++ vxElem e)
def vx2 (e : Ext) := firstBad (unused false false false true false e ++ vxCommon e ++ vxElem e)
def vx3 (e : Ext) := firstBad (vxCommon e ++ vxElem e)

/-- The static checks of MMA and MMAS (R348, R350). -/
def mmaChecks (sparse : Bool) (e : Ext) : Option (Nat × Nat) :=
  let bf := e.shape.extractLsb' 12 8
  let okF (c : BitVec 8) : Bool :=
    if e.x then c == 0xC1 else mxFloat c && (sparse || !isSparse c)
  firstBad (unused true false false false false e ++ consUsed e ++ noRound e ++
    [(e.sh 9 3 == 0, 1, 2), (e.sh 3 2 == 3 || e.sh 5 2 == 0, 3, 2), (!e.x || e.sh 0 1 == 0, 3, 2),
     (okF e.fmt, 3, 2), (okF bf, 3, 2), ((e.sh 8 1 == 1) == (e.b == .k0), 3, 0)])

/-- The checks of TMASK and BANK that MALD, MAST and MAZ share (R353). -/
def maChecks (e : Ext) : List (Bool × Nat × Nat) :=
  [(e.sh 3 4 != 0, 3, 2), (!e.x || e.sh 0 1 == 0, 3, 2), (e.sh 7 1 == 0, 1, 2), (e.sh 18 2 == 0, 1, 2)]

/-- The declared formats MALD accepts (R353). -/
def maldFmt (e : Ext) : Bool := (mxFloat e.fmt) || (e.x && e.fmt == 0xC1)

/-- The destination formats MAST accepts (R353). -/
def mastFmt (e : Ext) : Bool := fmtTyped e.fmt && !isSparse e.fmt

end Ext

/-- Rounding codes of a scalar instruction: 0 to 4 (R91, R247). -/
def scalarRm (rm : BitVec 3) : Option (Nat × Nat) := firstBad [(rm.toNat ≤ 4, 3, 2)]

/-- The field values that make an instruction illegal, though its layout holds them: `none` when it is legal, else the
SUB and WORD of the trap (R243, R247, R382). -/
def Instr.illegal : Instr → Option (Nat × Nat)
  | .sext _ w _ _ | .zext _ w _ _ => firstBad [(w != 3, 3, 0)]
  | .bfx _ p w _ _ | .bfi _ p w _ _ => firstBad [(p.toNat + w.toNat + 1 ≤ 64, 3, 1)]
  | .cmp _ _ k _ _ | .cmpLit _ _ k _ _ | .fcmp _ _ _ k _ _ => firstBad [(k != 0, 3, 0)]
  | .faddExt _ _ rm _ _ _ | .fsubExt _ _ rm _ _ _ | .fmulExt _ _ rm _ _ _ | .ffma _ _ rm _ _ _ _
  | .fdivExt _ _ rm _ _ _ | .fsqrtExt _ _ rm _ _ | .fminExt _ _ rm _ _ _ | .fmaxExt _ _ rm _ _ _ => scalarRm rm
  | .fcvt _ _ rm t f _ _ => firstBad [(rm.toNat ≤ 4, 3, 2), (fcvtCode t, 3, 2), (fcvtCode f, 3, 2)]
  | .ld _ _ sx sz _ _ _ | .ldLit _ _ sx sz _ _ _ => firstBad [(!(sx && sz == 3), 1, 0)]
  | .fence _ sc => firstBad [(sc.toNat ≤ 5, 3, 0)]
  | .salloc _ l _ _ => firstBad [(l != 0, 3, 0)]
  | .append _ n _ _ b => firstBad [(runOk b (n.toNat + 1), 2, 0)]
  | .spawn _ n pr pe tq te _ _ b | .spawnLit _ n pr pe tq te _ _ b =>
    firstBad [(n.toNat ≤ 4, 3, 1), (n != 0 || b == .k0, 1, 0), (runOk b n.toNat, 2, 0), ((pe || pr == 0) && (te || tq == 0), 1, 2)]
  | .spawnr _ n _ _ _ b _ | .spawnrLit _ n _ _ _ _ b =>
    firstBad [(n.toNat ≤ 4, 3, 1), (n != 0 || b == .k0, 1, 0), (runOk b n.toNat, 2, 0)]
  | .post _ _ c _ => firstBad [(c != 0, 3, 2)]
  | .recv _ n _ _ d => firstBad [(runOk d (n.toNat + 1), 2, 0)]
  | .tmv e => firstBad (Ext.unused false false true false false e ++ Ext.consUsed e ++ Ext.plainShape 0 e)
  | .cxtpl e => firstBad (Ext.unused true false true true true e ++ Ext.plainShape 8 e ++ Ext.noSem e)
  | .cxgo e => firstBad (Ext.unused true false true true true e ++ Ext.plainShape 0 e ++ Ext.noSem e)
  | .cxwm e => firstBad (Ext.unused true false false true true e ++ Ext.plainShape 6 e ++ Ext.noSem e)
  | .cxstop e => firstBad (Ext.unused false true true true true e ++ Ext.plainShape 6 e ++ Ext.noSem e)
  | .cxrst e => firstBad (Ext.unused true true true true true e ++ Ext.plainShape 6 e ++ Ext.noSem e)
  | .vadd e | .vsub e | .vmul e | .vmin e | .vmax e | .vcmp e => Ext.vx2 e
  | .vfma e | .vsel e => Ext.vx3 e
  | .vabs e | .vneg e | .vrcp e | .vrsq e | .vexp2 e | .vlog2 e => Ext.vx1 e
  | .vcvt e =>
    firstBad (Ext.unused false false true true false e ++ Ext.vxCommon e ++ [(vxAny e.sfmt, 3, 2), (vxAny e.fmt, 3, 2)])
  | .vscale e =>
    firstBad (Ext.unused false false false true false e ++ Ext.vxCommon e ++
      [(vxAny e.sfmt, 3, 2), (vxAny e.fmt, 3, 2), (e.smode == 2, 3, 2)])
  | .vlut e =>
    firstBad (Ext.vxCommon e ++ Ext.noRound e ++ Ext.vxStrict e ++ [(isInt e.sfmt, 3, 2), (e.smode == 0, 3, 2)])
  | .vred e | .vscan e =>
    firstBad (Ext.unused false false true true false e ++ Ext.vxCommon e ++ Ext.vxStrict e)
  | .vtopk e =>
    firstBad (Ext.consUsed e ++ Ext.noRound e ++ Ext.vxStrict e ++ [(e.fmt == e.sfmt, 3, 2)])
  | .vgath e => firstBad (Ext.vxCommon e ++ Ext.vxStrict e)
  | .vscat e => firstBad (Ext.vxCommon e ++ Ext.vxStrict e ++ [(e.smode != 2, 3, 2)])
  | .vfill e =>
    firstBad (Ext.unused false false true true false e ++ Ext.vxCommon e ++ Ext.noCons e ++ Ext.noRound e ++
      [(vxDense e.fmt, 3, 2), (e.sfmt == 0, 1, 2), (!e.fsrc, 1, 2), (e.smode != 2, 3, 2)])
  | .viota e =>
    firstBad (Ext.unused false false false true false e ++ Ext.vxCommon e ++ Ext.noCons e ++
      [(vxDense e.fmt, 3, 2), (e.sfmt == 0, 1, 2), (!e.fsrc, 1, 2)])
  | .vpack e => firstBad (Ext.vxCommon e ++ Ext.vxStrict e)
  | .vunpk e => firstBad (Ext.unused false false false true false e ++ Ext.vxCommon e ++ Ext.vxStrict e)
  | .mma e => Ext.mmaChecks false e
  | .mmas e => Ext.mmaChecks true e
  | .mald e =>
    firstBad (Ext.unused true false true false true e ++ Ext.consUsed e ++ Ext.noRound e ++ Ext.maChecks e ++
      [(e.sh 8 10 == 0, 1, 2), (Ext.maldFmt e, 3, 2)])
  | .mast e =>
    firstBad (Ext.unused false true true false true e ++ Ext.noCons e ++ Ext.maChecks e ++
      [(!e.fsrc, 1, 2)] ++ Ext.scaleUsed e ++ [(decide (e.rm.toNat ≤ 5), 3, 2), (Ext.mastFmt e, 3, 2),
       (e.smode == 0 || fmtClass e.fmt == 1 || fmtClass e.fmt == 2, 3, 2),
       (fmtWidth e.fmt != 8 || [3, 12, 15].contains (e.sh 3 4), 3, 2)])
  | .maz e =>
    firstBad (Ext.unused true true true true true e ++ Ext.noCons e ++ Ext.noRound e ++ Ext.maChecks e ++
      [(e.sh 8 10 == 0, 1, 2), (e.fmt == 0, 1, 2), (!e.fsrc, 1, 2)])
  | .mstat e => firstBad (Ext.unused false true true true true e ++ Ext.plainShape 1 e ++ Ext.noSem e)
  | .mring e => firstBad (Ext.unused true true true true true e ++ Ext.plainShape 0 e ++ Ext.noCons e)
  | _ => none

end Sys2Proof
end

