-- ==== Sys2Proof/Machine/State.lean ====
section
/-! DEFINITION. The state of one device: everything the manual gives it, as plain data (INVENTORY.md, State). -/

namespace Sys2Proof.Machine

/-- Sparse storage by number: sorted, no repeats; what an unlisted number reads as is said where it is read. -/
abbrev Map (α : Type) := List (Nat × α)

/-- Bytes at local physical addresses (R106), in canonical form; an unlisted byte reads zero (log entry 4). -/
abbrev Memory := List Host.Cell

/-- Why the machine stops with a fault. -/
inductive Fault where
  /-- An instruction is executed where no thread occupies the issuing slot: `exec` of an instruction raises it, `step` never
  does. Safe: the manual has no such step. -/
  | noThread
  deriving DecidableEq, Repr

/-- Why the machine refuses a step. -/
inductive Refusal where
  /-- An instruction that has no meaning in this model: raised by Dispatch.lean alone. Safe. -/
  | notModelled (mnemonic : String)
  deriving DecidableEq, Repr

/-! ## Threads -/

/-- The registers of one call level (R59). -/
structure Frame where
  l : Vector Word 8
  o : Vector Word 8
  deriving DecidableEq, Repr

/-- A buffered long-class result (R42): where its values go, which of its registers a later ALU-class write has
overtaken (R43), its values once returned, whether a remote reply brings them (R49), the PC of its instruction, and the virtual and global
physical address of its access (R372). -/
structure RbEntry where
  id : Nat
  dests : List Operand
  dead : List Operand
  vals : Option (List Val)
  remote : Bool
  pc : Word
  va : Word
  pa : Word
  deriving DecidableEq, Repr

/-- An access issued and not yet accepted (R46, R142). -/
structure OutAcc where
  id : Nat
  plain : Bool
  store : Bool
  block : Nat
  deriving DecidableEq, Repr

/-- What a parked thread waits for (R40). All but `switch` and `event` are conditions on the state; a thread that waits
on one has not advanced its PC, and issues the instruction again. -/
inductive WaitFor where
  /-- A switch point: every outstanding result (R44). -/
  | switch
  /-- An event that wakes the thread itself: CAPX, an exchange of fingerprints, a remote load, a remote word of a fetch. `sm`: a switch
  point follows. -/
  | event (sm : Bool)
  /-- A cycle (R320). -/
  | until (c : Nat) (sm : Bool)
  /-- The data of a fill, from a cycle on (R62). -/
  | fill (c : Nat) (sm : Bool)
  /-- No plain access unaccepted (R46). -/
  | plain
  /-- No access of the thread to that block unaccepted (R142). -/
  | block (b : Nat)
  /-- Every local access accepted, every remote load performed (R291, R295, R143). -/
  | accepted
  /-- Every earlier store accepted (R152). -/
  | stores
  /-- No scoreboard entry conflicts, and `n` are free (R153). -/
  | board (ext : List (Nat × Nat)) (wr : Bool) (eng : Bool) (n : Nat)
  /-- No channel watermark, but for that of a copy's own channel, holds the range (R154). -/
  | mark (ext : List (Nat × Nat)) (but : Option Nat)
  /-- No residency hold on the page (R129). -/
  | hold (va : Nat)
  /-- READY.HBM of a stack (R226). -/
  | stack (h : Nat)
  /-- The page walk of the VA (R125); `kind` 0 data, 1 fetch, 2 engine operand. -/
  | walk (va kind : Nat)
  /-- A place in an engine's queue (R157). -/
  | queue (e : EngKind)
  /-- Fewer than 1,024 copies in flight (R335). -/
  | copies
  /-- A semaphore count (R302). -/
  | sem (i : BitVec 3) (v : Nat)
  /-- The post of its own arrival (R308). -/
  | barrier (i : BitVec 3)
  /-- A takeable message, for so many registers from `d` on, the header first (R312). -/
  | recv (port count : Nat) (hdr : Bool) (d : Operand)
  /-- The status of the previous APPEND (R183). -/
  | det
  /-- The conditions of SFREE (R116). -/
  | segment (va : Nat) (sm : Bool)
  /-- The implicit flush of posted accesses to a peer (R146). -/
  | implicit (peer : Nat)
  /-- 4,096: the flushes of every peer (R143); from 4,097: the acknowledgements of windowed atomics to the peer (R208). -/
  | flush (peer : Nat)
  deriving DecidableEq, Repr

inductive TState where
  | ready
  | parked (w : WaitFor)
  | halted
  deriving DecidableEq, Repr

/-- A trap to be taken: TRAPINFO, the address it reports, the PC it saves, and SKIPC to save (R315, R381). -/
structure TrapReq where
  info : Word
  va : Word
  pc : Word
  deriving DecidableEq, Repr

/-- What follows the commit at a switch point. -/
inductive After where
  | go
  | trap (r : TrapReq)
  | exit
  | halt
  /-- The fill of the frame to which a region restart slides back (R374). -/
  | refill
  deriving DecidableEq, Repr

/-- A value that a paired thread folds: awaited from a return-buffer entry, by its place there, until it has come (R376). -/
structure FoldVal where
  id : Nat
  idx : Nat
  v : Option Word
  deriving DecidableEq, Repr

/-- The twin of a paired thread (R320, R376): its slot, its fingerprint, the values that it has still to fold, and its own registers: those
whose value is not the primary's, by `twinKey`, with the value that they have in the twin. -/
structure Twin where
  unit : Nat
  slot : Nat
  fp : Word
  fpq : List FoldVal := []
  own : Map Word := []
  deriving DecidableEq, Repr

/-- A thread slot that is not FREE, with all its registers (chapter 3). -/
structure Thread where
  unit : Nat
  slot : Nat
  gen : Nat
  ltag : Nat
  gang : Nat
  crew : Nat
  tid : Nat
  seed : Word
  k : Vector Word 8
  a : Vector Word 8
  /-- The resident frames, the current one first: WDEPTH.RES is their number (R59, R60). -/
  frames : List Frame
  p : Vector Word 8
  lat : Word
  q : Vector Word 4
  sems : Vector Half 8
  /-- Poison of vault registers (R395), by `vaultKey`. -/
  psn : Map Poison
  /-- Registers outside the vault in which a parity error stands (R394). -/
  par : List DebugReg
  pc : Word
  depth : Nat
  spillp : Word
  spilllim : Word
  skipc : BitVec 2
  -- TSTAT (R71)
  eng : Byte
  esem : BitVec 3
  /-- One more than the cycle of the post that set ENG, while it stands (R71). -/
  engAt : Nat
  semerr : Byte
  /-- The cycle of the latest change of SEMERR by posts, and the bits they set in it (R9). -/
  semerrAt : Nat × Byte
  inrgn : Bool
  trigd : Bool
  svc : Bool
  det : Bool
  -- trap registers (R69, R70)
  trapvec : Word
  trappc : Word
  trapinfo : Word
  traplat : Word
  trapSkip : BitVec 2
  trapWin : Bool
  rgnpc : Word
  rgnwd : Half
  restarts : Nat
  -- scheduling (R196 to R198)
  base : BitVec 3
  eff : BitVec 3
  wait : Nat
  eligRound : Nat
  /-- The cycle from which its last POST lets it issue (R303). -/
  holdTo : Nat
  yielded : Bool
  st : TState
  parkSeq : Nat
  -- runs (R42 to R46)
  rb : List RbEntry
  nextId : Nat
  out : List OutAcc
  /-- Remote accesses on their way to the fabric interface: the block, whether the access is plain, the cycle in which the interface takes it
  (R142, R144, R413). -/
  taking : List (Nat × Bool × Nat)
  /-- What held the access with which it has been released, while it has not issued again (R129, R153). -/
  released : Option WaitFor
  after : After
  /-- Semaphore overflows that await the next issue: semaphore and INFO (R386). -/
  async : List (BitVec 3 × Nat)
  /-- Posts of the current cycle, for SEMSET (R304): the cycle, semaphore, count and source, and whether it overflowed; the latest first. -/
  recent : List (Nat × BitVec 3 × Nat × Nat × Bool)
  /-- Tags of the flushes this switch point waits for (R284, R322, R143). -/
  flushing : List Nat
  /-- Flows with a posted access since the last FLUSHR or FENCE, those whose implicit flush has come back for the access to be issued (R146),
  unacknowledged windowed atomics by tag (R208), the flows on which mirror copies are outstanding (R322), those copies that await their place
  in program order, by access (R378), and the failure of a mirror (R406). -/
  posted : List Flow
  flushed : List Flow
  winAck : List (Nat × Nat)
  mirrors : List Flow
  copies : List (Nat × Option Packet)
  mirrFail : Option Poison
  /-- Words of the instruction at PC fetched from another device (R416). -/
  fetched : List (Word × Val)
  /-- The join frame that a handler holds (R188), and whether an APPEND awaits its status (R183). -/
  frame : Option Nat
  appendWait : Bool
  /-- The arrival whose post a BARWAIT awaits, and whether that post has come (R308). -/
  barId : Nat
  barrierGot : Bool
  haltReq : Bool
  /-- What a halted thread was parked on (R75). -/
  held : Option WaitFor
  -- pairing (R376)
  twin : Option Twin
  fp : Word
  /-- Values that are still to be folded, in program order, and the first return-buffer entry of which none is (R376). -/
  fpq : List FoldVal
  fpSeen : Nat
  retired : Nat
  exchanged : Bool
  mismatch : Option Word
  /-- Its slots and generations before it was restored elsewhere: posts and replies for them come to it (R305). -/
  former : List ThreadRef
  deriving DecidableEq, Repr

/-! ## Crews and launches -/

/-- A scratchpad segment (R103, R114): its number, length in bytes, and its granules in order. -/
structure Seg where
  num : Nat
  len : Nat
  granules : List Nat
  deriving DecidableEq, Repr

/-- An untaken message of a DET port (R183, R184). -/
structure DetMsg where
  slot : Nat
  writer : Nat
  rank : Nat
  deriving DecidableEq, Repr

/-- A port (R179), and for a DET launch its messages, how many it accepted from each sender, and the takeable batch. -/
structure Port where
  en : Bool
  pol : Bool
  closed : Bool
  depth : Nat
  base : Nat
  slo : Nat
  ns : Nat
  q : Nat
  head : Nat
  tail : Nat
  count : Nat
  det : List DetMsg
  accepted : Map Nat
  batch : Nat
  psn : Option Poison
  deriving DecidableEq, Repr

/-- A pattern (R185): its dwords, FIRES, its posts fired and not delivered (PEND, R189), and the identity of its PATSET. -/
structure Pat where
  d0 : Word
  hpc : Word
  d2 : Word
  fires : W32
  pend : Nat
  /-- The frame of its ring that the next firing writes: the number of firings since PATSET, modulo FN + 1 (R189). -/
  ring : Nat
  epoch : Nat
  deriving DecidableEq, Repr

/-- A crew on a unit (R38). -/
structure Crew where
  ltag : Nat
  gang : Nat
  idx : Nat
  unit : Nat
  ports : Map Port
  pats : Map Pat
  /-- Busy join frames (R188). -/
  busy : List Nat
  s1 : List Seg
  closed : Bool
  started : Bool
  sent : Nat
  recvd : Nat
  deriving DecidableEq, Repr

/-- A range entry (R118). -/
structure RangeEnt where
  base : Nat
  limit : Nat
  offset : Word
  anyw : Bool
  writer : Nat
  mirdev : Nat
  reduce : Bool
  mirror : Bool
  prof : Bool
  a : Bool
  x : Bool
  w : Bool
  rd : Bool
  deriving DecidableEq, Repr

/-- An active launch: its record's fields and what the dispatcher keeps for it (R32, R47, R52, R54). -/
structure Launch where
  ltag : Nat
  port : Nat
  det : Bool
  svc : Bool
  prio : BitVec 3
  gcount : Nat
  gsize : Nat
  quota : Nat
  init : Nat
  pc : Word
  arg : Word
  errp : Byte
  s1sz : Nat
  s2sz : Nat
  s3sz : Nat
  seed : Word
  vec : Nat
  vecen : Bool
  ranges : List RangeEnt
  windows : List (Nat × Nat)
  trig : Bool
  tstart : Option Word
  s2 : List (Nat × Seg)
  s3 : List (Nat × Seg)
  sweep : Option (Nat × Nat)
  /-- Flows with posted accesses not known to be performed (R54), and the tags of the final flushes. -/
  posted : List Flow
  flushTags : List Nat
  ending : Option (Nat × Nat)
  deriving DecidableEq, Repr

/-! ## Engines -/

/-- An operand range on the scoreboard (R153): pieces of local physical memory, whether it is a destination, the command. -/
structure BoardEnt where
  cmd : Nat
  ext : List (Nat × Nat)
  dest : Bool
  deriving DecidableEq, Repr

/-- A block to be written whole, data and descriptor in one step (R81), with its poison: of its dwords 0 to 7, and of its descriptor, 8. -/
structure BlockW where
  pa : Nat
  data : List Byte
  desc : Half
  psn : Map Poison
  /-- The bytes to be written, where the others of the block are kept (R345); empty: all of it. -/
  mask : List Bool := []
  deriving DecidableEq, Repr

/-- A tile of an accumulator bank with its bound and suspect bit (R100, R170): index (slab × 8 + bank) × 4 + tile. -/
structure TileW where
  idx : Nat
  data : List W32
  beta : FVal
  susp : Bool
  deriving DecidableEq, Repr

/-- What an engine met when it stopped: CAUSE, DETAIL, VA, PA (R389). -/
structure EngFault where
  cause : Nat
  detail : Word
  va : Word
  pa : Word
  deriving DecidableEq, Repr

/-- What stops an engine as it reads a block: a fault, or data that carries an uncorrectable error. -/
inductive Stop where
  | fault (f : EngFault)
  | poison (p : Poison) (va pa : Word)
  deriving DecidableEq, Repr

/-- A block of an operand with the code and scale it is read under. -/
structure Typed where
  b : BlockW
  code : BitVec 8
  sc : Nat
  deriving DecidableEq, Repr

/-- A matrix operand as the engine reads it: rows of blocks, and the K-step that met something it cannot read. -/
structure MxSrc where
  rows : List (List Typed)
  bad : Option (Nat × Stop)
  deriving DecidableEq, Repr

/-- An element of a vector destination: a value still to be converted, or a code. -/
inductive Elem where
  | val (x : FVal)
  | code (n : Nat)
  deriving DecidableEq, Repr

/-- A ranked element of VTOPK: its value, global index, place in the input, and code. -/
structure Rank where
  v : FVal
  idx : Nat
  pos : Nat
  code : Nat
  deriving DecidableEq, Repr

/-- What an element of a vector command has given: the running value and the count after it, its results by position, its rank (R177). -/
structure VxStep where
  acc : FVal
  n : Nat
  outs : List (Nat × Elem)
  rank : Option Rank
  deriving DecidableEq, Repr

/-- What an engine has read for a command, each block once (R152): for a vector command the elements so far, from which of them it reads on
since it last began, and the common descriptor of a table or input; for a matrix command its A operands, by slab, and B; for MALD its blocks
in order. -/
inductive EngRead where
  | none
  | vx (since : Nat) (steps : List VxStep) (desc : Option Half)
  | mx (as : List MxSrc) (b : MxSrc)
  | mald (blocks : List (Nat × Nat × Typed)) (bad : Option (Nat × Stop))
  deriving DecidableEq, Repr

/-- What a command will have done at its end: blocks and tiles written, and the fault that stopped it. -/
structure CmdResult where
  blocks : List BlockW
  tiles : List TileW
  fault : Option EngFault
  restart : Option Poison
  /-- Lines or K-steps done before the end (R158). -/
  steps : Nat
  deriving DecidableEq, Repr

/-- A command in an engine (R156): its tag, its fields and operand values as captured at issue. -/
structure Cmd where
  id : Nat
  eng : EngKind
  t : ThreadRef
  ltag : Nat
  gang : Nat
  crew : Nat
  tid : Nat
  ins : Instr
  d : Word
  a : Word
  b : Word
  c : Word
  n : Word
  p7 : Word
  seed : Word
  csem : Option (BitVec 3)
  dsem : Option (BitVec 3)
  pc : Word
  inrgn : Bool
  issued : Nat
  start : Option Nat
  /-- The cycle of its first K-step (R176). -/
  first : Nat
  consumed : Bool
  /-- When its done post is due (R158, R176). -/
  doneAt : Nat
  read : EngRead
  res : Option CmdResult
  /-- Its results are written (R160); blocks of a vector command, or elements of a VSCAT, written before a pre-emption (R177). -/
  applied : Bool
  wrote : Nat
  /-- Where it was cancelled: the cycle in which its engine stopped, and that of its posts (R158). -/
  stopAt : Option (Nat × Nat)
  /-- Tile moves: source and destination extents as translated at issue, the destination blocks that are mirrored, with their device (R378), the
  next block, and whether a block is in flight. -/
  src : List (Nat × Nat × Nat)
  dst : List (Nat × Nat × Nat)
  mirror : List (Nat × Nat × Nat)
  next : Nat
  waiting : Bool
  cancelled : Bool
  subs : List Nat
  latch : Option Nat
  /-- The source block in flight that has been read and not yet written. -/
  inHand : Option BlockW := none
  /-- Of a command on LATCH data: the earliest cycle of each K-step whose data comes, counted from `first` (R173); and the K-steps that it had
  done when a pre-emption stopped it (R177). -/
  waits : Option (List Nat) := none
  kdone : Nat := 0
  /-- Cycles in which accesses that wait at its banks have gone before it (R109). -/
  tries : Nat := 0
  deriving DecidableEq, Repr

/-- A started copy (R161, R163): the template it captured, its repeats, its tag. -/
structure Copy where
  /-- The model's own: which copy a reply is for. -/
  id : Nat
  /-- The template's number, and the template as it was captured. -/
  num : Nat
  tmpl : List Word
  repeats : Nat
  t : ThreadRef
  dsem : Option (BitVec 3)
  ltag : Nat
  crew : Nat
  gang : Nat
  tid : Nat
  svc : Bool
  pc : Word
  inrgn : Bool
  next : Nat
  /-- A source block is in flight. -/
  waiting : Bool
  cancelled : Bool
  /-- The latency of its source's level has begun to run (R176). -/
  timed : Bool := false
  /-- The source block in flight that has been read and not yet written. -/
  inHand : Option BlockW := none
  deriving DecidableEq, Repr

inductive ChanState where
  | idle | run | stopped
  deriving DecidableEq, Repr

/-- A copy channel (R162). -/
structure Chan where
  st : ChanState
  /-- Launch of the crew whose range it is. -/
  ltag : Nat
  base : Word
  lim : Word
  wm : Word
  cur : Option Copy
  queue : List Copy
  /-- It stops once the block in flight is written, and the CXSTOPs that await its watermark (R162, R337). -/
  halt : Bool
  stops : List (ThreadRef × Nat)
  /-- The place in parking order of an access of its copy that a residency hold keeps, and the VA (R129). -/
  held : Option (Nat × Nat) := none
  deriving DecidableEq, Repr

inductive SlotState where
  | free | filling | full | read
  deriving DecidableEq, Repr

/-- A slot of the ring latch (R173); `order`: the cycle in which its data arrived, or that after which it has been free. -/
structure LatchSlot where
  st : SlotState
  img : Option RingImage
  order : Nat
  deriving DecidableEq, Repr

/-- A unit's mill registers (R69, R198), slot generations, engines and their state. -/
structure UnitSt where
  ptr : Nat
  ageStep : Nat
  slotMax : Nat
  gens : Map Nat
  draining : Bool
  retired : Bool
  cmds : List Cmd
  board : List BoardEnt
  /-- Templates and channels of the crews on the unit (R161): by LTAG × 256 + template, and by LTAG × 64 + channel. -/
  tmpls : Map (List Word)
  chans : Map Chan
  /-- Accumulator tiles, β and suspect bits (R100, R170); an unlisted tile is zero with β = 0. -/
  tiles : Map TileW
  latch0 : LatchSlot
  latch1 : LatchSlot
  /-- The cycle after the last line the VX reads (R168), and those from which the sub-arrays are free (R171). -/
  vxFree : Nat
  subFree : List Nat
  /-- The cycle after the latest done post of the MX (R160, R176). -/
  mxPost : Nat
  /-- MRINGs that have still to act (R355), and MSTATs that have still to read (R354): thread, return-buffer entry, slab. -/
  mrings : List (Nat × PostTo)
  mstats : List (ThreadRef × Nat × Nat)
  deriving DecidableEq, Repr

/-! ## Barriers -/

/-- A registered barrier (R191 to R194): its home (level 1, 2 or 3 and its index), its place, its waiters, with the arrival of a BARWAIT. -/
structure Barrier where
  level : Nat
  home : Nat
  pa : Nat
  va : Word
  ltag : Nat
  need : Nat
  arr : Nat
  gen : Nat
  waiters : List (ThreadRef × BitVec 3 × Option Nat)
  deriving DecidableEq, Repr

/-! ## Dispatcher -/

/-- A queued launch record, and whether its committer may ask for service level (R33). -/
structure QRec where
  dw : Vector Word 8
  svcOk : Bool
  deriving DecidableEq, Repr

/-- A launch port (R29, R30). -/
structure LPort where
  win : Vector Word 8
  queue : List QRec
  ovf : Bool
  drops : Nat
  /-- The cycle in which a record was last dropped, and how many were in it (R9). -/
  dropAt : Nat × Nat
  headwait : Bool
  placing : Bool
  /-- The tables of the head record, as its check read them (R33). -/
  tabs : Option (List RangeEnt × List (Nat × Nat))
  backoff : Nat
  backing : Bool
  cqb : Word
  cqn : Nat
  cqt : Nat
  cqh : Nat
  /-- Completion entries held while the ring is full or EN is 0 (R54). -/
  held : List (List Word × Option Nat)
  deriving DecidableEq, Repr

/-- An S2 or S3 segment saved with the last crew of its launch there (R49): its level, itself, its bytes, descriptors and poison by
offset. -/
structure SharedImg where
  lvl : Nat
  seg : Seg
  mem : List (Nat × Byte)
  desc : Map Half
  psn : Map Poison
  descPsn : Map Poison
  deriving DecidableEq, Repr

/-- A saved crew (R49 to R51): its state, and the HBM address and length of its image. -/
structure Saved where
  crew : Crew
  threads : List Thread
  ganged : Bool
  image : Nat
  size : Nat
  cmds : List Cmd
  board : List BoardEnt
  tmpls : Map (List Word)
  chans : Map Chan
  tiles : Map TileW
  latch0 : LatchSlot
  latch1 : LatchSlot
  shared : List SharedImg
  /-- Registered barriers in the saved segments: level, segment number, offset. -/
  bars : List (Nat × Nat × Nat × Barrier)
  deriving DecidableEq, Repr

/-- A SALLOC at its level's allocator (R285): its thread and return-buffer entry, the level and its instance, the length asked for. -/
structure SallocReq where
  t : ThreadRef
  id : Nat
  lvl : Nat
  inst : Nat
  len : Nat
  deriving DecidableEq, Repr

structure Dispatcher where
  ports : Vector LPort 8
  /-- The rotating placement pointer (R35) and the port served next (R31). -/
  ptr : Nat
  rr : Nat
  /-- The last 256 ended launches and their STATUS (R34). -/
  ended : List (Nat × Nat)
  launches : Map Launch
  crews : List Crew
  saved : List Saved
  preempt : Word
  preBusy : Bool
  preResult : Byte
  savebase : Word
  savesz : Word
  /-- SALLOCs that the allocators of the levels serve or keep waiting, in order of arrival (R285). -/
  sallocs : List SallocReq
  deriving DecidableEq, Repr

/-! ## Translation and residency -/

/-- A cached page entry (R125), with the root it was walked from. -/
structure TlbEnt where
  cluster : Nat
  root : Nat
  va : Nat
  size : Nat
  entry : Word
  deriving DecidableEq, Repr

/-- A node that a cluster's walks have read and keep (R125): the root and the VA of what it covers, its level, its local address. -/
structure Upper where
  cluster : Nat
  root : Nat
  va : Nat
  lvl : Nat
  node : Nat
  deriving DecidableEq, Repr

/-- A hold on a piece of a DUPL page (R129) on this device: as the writer that waits for DONE, or as a holder of
a replica. `page` and `pa` are the page's base VA and base PA, by which a root names it (R415). -/
structure Hold where
  va : Nat
  size : Nat
  page : Nat
  pageSize : Nat
  pa : Nat
  /-- The write that asked for the collapse: its cluster, root and VA. -/
  write : Option (Nat × Nat × Nat)
  deriving DecidableEq, Repr

/-- A collapse that this device serves as owner (R129, R367): the piece, the writer and its PA, the devices whose
acknowledgement is awaited, and the requests for it that arrived meanwhile. -/
structure Collapse where
  va : Nat
  size : Nat
  writer : Nat
  pa : Nat
  acks : List Nat
  later : List Packet
  /-- The tag of the COLLAPSE that it serves (R211). -/
  tag : Nat
  deriving DecidableEq, Repr

/-- A residency command in progress (R132, R234): its operation, 5 for the part of a COLLAPSE at its writer, the page, the address of its copy
or of the new one, the next block to copy, the devices whose answer it awaits, and the request of another device that it serves (log entry
23). -/
structure ResWork where
  cmd : ResCmd
  asked : Option Packet
  op : Nat
  page : Nat
  size : Nat
  src : Nat
  dst : Nat
  next : Nat
  await : List Nat
  /-- The next block waits for its bank. -/
  held : Bool := false
  deriving DecidableEq, Repr

structure Translation where
  ptroot : Vector Word 8
  tinvbase : Word
  tinvlim : Word
  tinvBusy : Bool
  /-- When the latest invalidation began. -/
  tinvAt : Nat
  hbmplace0 : Word
  hbmplace1 : Word
  hwinbase : Word
  dwinbase : Word
  dirbase : Word
  rufree : Word
  rcqb : Word
  rcqn : Nat
  rcqt : Nat
  rcqh : Nat
  tlb : List TlbEnt
  uppers : List Upper
  /-- Walks in progress: cluster, root, VA; and those that the firmware holds (R125, R388). -/
  walks : List (Nat × Nat × Nat)
  faults : List (Nat × Nat × Nat)
  /-- Walks whose fault the firmware delivers to the thread (R388). -/
  deliver : List (Nat × Nat × Nat)
  holds : List Hold
  serving : List Collapse
  /-- Residency work parked for lack of nodes or directory slots (R130, R366). -/
  stalled : List Packet
  /-- The command of R132 in progress and those served for other devices; one of the ring whose event is due; the requests of other devices
  that wait for work on their page. -/
  works : List ResWork
  cmdDue : Bool
  asks : List Packet
  deriving DecidableEq, Repr

/-! ## Fabric -/

/-- What the reply to a request completes (R206, R211). -/
inductive ReqWhat where
  | load (t : ThreadRef) (id : Nat) (size : Nat) (sx : Bool) (dev : Nat)
  | flush (t : ThreadRef) (f : Flow)
  | implicit (t : ThreadRef) (f : Flow)
  | winAck (t : ThreadRef) (peer : Nat)
  | msync (t : ThreadRef) (f : Flow)
  | post (p : PostTo)
  | tmvRead (unit id blk : Nat)
  | tmvWrite (unit id blk : Nat)
  | cxRead (unit chan id blk : Nat)
  | fetch (t : ThreadRef) (va : Word)
  | launchFlush (ltag : Nat)
  | residency (va : Nat)
  /-- A residency message that is answered (R206): its answer acts by itself. -/
  | res
  | none
  deriving DecidableEq, Repr

/-- An outstanding request (R211). -/
structure Req where
  tag : Nat
  pkt : Packet
  sends : Nat
  sentAt : Nat
  what : ReqWhat
  deriving DecidableEq, Repr

/-- An entry of the reply cache (R212). -/
structure Cached where
  src : Nat
  tag : Nat
  value : Word
  status : Nat
  at_ : Nat
  deriving DecidableEq, Repr

/-- A packet in an output queue of the router (R213, R418). -/
structure Queued where
  port : Nat
  vc : Nat
  pkt : Packet
  input : Nat
  /-- When it reached the head of its queue, and the head of the packets of its VC that came by its input. -/
  headAt : Option Nat
  frontAt : Option Nat
  crumb : Option Nat
  deriving DecidableEq, Repr

/-- A member of a crumb (R215). -/
structure Member where
  src : Nat
  tag : Nat
  noreply : Bool
  input : Nat
  first : Nat
  nl : Nat
  deriving DecidableEq, Repr

/-- A crumb (R215). -/
structure Crumb where
  op : BitVec 2
  dst : Nat
  addr : Nat
  members : List Member
  addends : List Word
  psn : Bool
  deriving DecidableEq, Repr

/-- A packet in the escape lane of a stack (R218, R408): where in the lane it lies, and its length. -/
structure Lane where
  stack : Nat
  off : Nat
  len : Nat
  q : Queued
  deriving DecidableEq, Repr

/-- A Pallyn port's link (R209, R210, R236); `debt`: what the packets sent still took of its rate at cycle
`paidAt`, where a flit is 243 and a live wavelength pays 5 a cycle (R24). `rx` has a bit for each transmit fibre of the far end that is up
(R411). -/
structure Link where
  up : Bool
  ver20 : Bool
  fibres : Nat
  partnerDev : Nat
  partnerPort : Nat
  replays : Nat
  retrains : Nat
  holding : Bool
  debt : Nat
  paidAt : Nat
  rx : Byte
  deriving DecidableEq, Repr

structure Fabric where
  grpcfg : Word
  portdir : Word
  comb : Bool
  hold : Nat
  dltimer : Nat
  retryto : Nat
  links : Vector Link 16
  /-- The route table: V and the port of each entry (R235). -/
  route : Map (Bool × Nat)
  escbase : Vector Word 4
  queues : List Queued
  /-- Ports whose next of request and posted is posted (R418). -/
  postedTurn : List Nat
  lanes : List Lane
  crumbs : Map Crumb
  /-- Crumb indices held out of use (R410). -/
  crumbHeld : List Nat
  reqs : Map Req
  /-- Tags not yet reusable (R211). -/
  cooling : List Nat
  cache : List Cached
  /-- Flows for which a posted packet was not performed here, and flows of this device's threads of which a mirror copy was lost on the way
  (R405, R406). -/
  failed : List Flow
  /-- Flows, the port they last took, and the cycle by which the next router has acknowledged what left by it (R203). -/
  paths : List (Flow × Nat × Nat)
  /-- Packets transmitted, by port: the model's record of what left the device. -/
  wire : List (Nat × Packet)
  /-- Packets discarded and logged (R206, R207). -/
  discarded : List Packet
  deriving DecidableEq, Repr

/-! ## Package, host, photonics, lattice -/

/-- A modulator ring (R219). -/
structure Ring where
  men : Bool
  map : Nat
  htr : Nat
  deriving DecidableEq, Repr

structure Photonics where
  fup : Vector Byte 16
  temp : Vector Half 16
  /-- By (port × 8 + fibre) × 68 + ring; an unlisted ring is as reset leaves it. -/
  rings : Map Ring
  /-- The free value of the latest refresh of the photodiodes (R219); none before the first, when they read 0. -/
  pd : Option Nat
  /-- Wavelengths whose light has not yet moved: port, fibre, wavelength, the ring that still modulates (R221). -/
  light : List (Nat × Nat × Nat × Nat)
  deriving DecidableEq, Repr

/-- A lattice position (R18). -/
structure LbPos where
  en : Bool
  gang : Bool
  psel : BitVec 2
  lunit : Nat
  febad : Bool
  slbad : Bool
  feret : Bool
  slret : Bool
  deriving DecidableEq, Repr

/-- LBSTAT (R19). -/
structure LbStat where
  bound : Bool
  short : Bool
  units : Nat
  ganged : Nat
  code : Nat
  deriving DecidableEq, Repr

/-- A unit of the unit map (R14): its package number, front end, primary slab, gang. -/
structure UnitBind where
  unit : Nat
  fe : Nat
  slab : Nat
  ganged : Bool
  deriving DecidableEq, Repr

structure Lattice where
  /-- By stack × 36 + position; an unlisted position is as reset leaves it. -/
  pos : Map LbPos
  stat : Vector LbStat 4
  units : List UnitBind
  deriving DecidableEq, Repr

/-- An MSI-X table entry (R224). -/
structure MsixEnt where
  addr : Word
  data : W32
  ctrl : W32
  deriving DecidableEq, Repr

structure HostPort where
  msix : Map MsixEnt
  pending : List Nat
  /-- Vectors whose message was sent. -/
  sent : List Nat
  bar2 : Nat
  /-- The power state is D3hot, and the uncorrectable error status of Advanced Error Reporting (R222). -/
  d3hot : Bool
  aer : W32
  /-- Dropped posted writes (host-link error log), and answers to reads: `none` is Unsupported Request. -/
  log : Nat
  reads : List (Option Word)
  mbxBusy : Bool
  mbxResult : Byte
  mbxCmd : Word
  mbxVec : Word
  mbxData : Map Byte
  deriving DecidableEq, Repr

/-- The logs of an HBM4E stack (R399). -/
structure HbmLog where
  arr : Map (Word × Word)
  xfer : Map (Word × Word)
  /-- Pseudo-channels whose queue a lane test holds (R398). -/
  testing : List Nat
  alogn : Nat
  tlogn : Nat
  lanemap : Map Word
  deriving DecidableEq, Repr

structure Package where
  stew : Bool
  hostUp : Bool
  disp : Bool
  lat : BitVec 4
  hbm : Byte
  opt : Half
  replace : BitVec 7
  /-- The cycle in which a cause was last set, the causes set in it (R9), and those of them that raised the request. -/
  replaceAt : Nat × BitVec 7 × BitVec 7
  repcfg : Word
  ceCount : Nat
  bootstat : Word
  recovery : Bool
  mode : BitVec 2
  owner : Option (BitVec 512)
  vendor : BitVec 512
  minSvn : Nat
  /-- M0 to M7 (R230). -/
  measures : Map (BitVec 512)
  /-- What step 3 of bring-up has done: bit h for the training of HBM4E stack h, bit 8 + s for the binding of stack s (R227). -/
  step3 : BitVec 12
  /-- The fatal path has been taken: only a cold reset recovers the package (R370). -/
  dead : Bool
  telpwr : W32
  clkStep : BitVec 6
  clkCount : W32
  telTemp : Vector Half 4
  hbmLogs : Vector HbmLog 8
  /-- Records of the steward log (R373), the next SEQ, the drops of error ports. -/
  log : List (List Word)
  seq : W32
  drops : Nat
  notices : List Nat
  deriving DecidableEq, Repr

/-! ## The machine -/

/-- An event with what it acts on: a packet or a residency command where the event names one. -/
structure Event where
  op : Instr
  pkt : Option Packet
  cmd : Option ResCmd
  deriving DecidableEq, Repr

/-- A scheduled event: when it is due, the rank of its requester in a cycle (R109), its place among equals. -/
structure Sched where
  due : Nat
  rank : Nat
  seq : Nat
  ev : Event
  deriving DecidableEq, Repr

structure State where
  /-- PKTCNT (R233), the cycle of the machine. -/
  now : Nat
  /-- What the outside world does next; the model's own (log entry 1). -/
  inputs : List Event
  /-- What is due later; the model's own (log entry 1). -/
  agenda : List Sched
  seq : Nat
  /-- The slot that issues now, and the packet or command an event acts on; the model's own. -/
  cur : Nat × Nat
  pkt : Option Packet
  cmd : Option ResCmd
  /-- The mill asked next in this cycle and how many it has issued (R196). -/
  scan : Nat
  issued : Nat
  /-- Banks that have accepted an access in this cycle (R109). -/
  busy : List Nat
  /-- How many thread accesses in a row a bank has accepted while an engine stream waited for it; and the banks for which one has waited, with
  the cycle (R109). -/
  streak : Map Nat
  engWaits : List (Nat × Nat)
  /-- The counter of free values (log entry 2). -/
  free : Nat
  nextId : Nat
  mem : Memory
  /-- Block descriptors by block number (R78); an unlisted block has descriptor 0x0000. -/
  desc : Map Half
  /-- Poisoned dwords, by dword number, and poisoned descriptors, by block number (R395). -/
  psn : Map Poison
  descPsn : Map Poison
  threads : List Thread
  units : Map UnitSt
  barriers : List Barrier
  disp : Dispatcher
  trans : Translation
  fab : Fabric
  phot : Photonics
  lat : Lattice
  host : HostPort
  pkg : Package
  deriving DecidableEq, Repr

/-! ## Reset -/

/-- A launch port after reset (R29, R30). -/
def LPort.reset : LPort :=
  { win := Vector.replicate 8 0, queue := [], ovf := false, drops := 0, dropAt := (0, 0), headwait := false, placing := false, tabs := none,
    backoff := 2700,
    backing := false, cqb := 0, cqn := 64, cqt := 0, cqh := 0, held := [] }

def LatchSlot.reset : LatchSlot := { st := .free, img := none, order := 0 }

/-- A unit whose mill holds no thread and whose engines are empty; AGESTEP 4,096 (R69) and SLOTMAX 256 (R73). -/
def UnitSt.reset : UnitSt :=
  { ptr := 0, ageStep := 4096, slotMax := 256, gens := [], draining := false, retired := false, cmds := [], board := [],
    tmpls := [], chans := [], tiles := [], latch0 := .reset, latch1 := .reset, vxFree := 0, subFree := [0, 0, 0, 0], mxPost := 0,
    mrings := [], mstats := [] }

def Dispatcher.reset : Dispatcher :=
  { ports := Vector.replicate 8 .reset, ptr := 0, rr := 0, ended := [], launches := [], crews := [], saved := [], preempt := 0,
    preBusy := false, preResult := 0, savebase := 0, savesz := 0, sallocs := [] }

def Translation.reset : Translation :=
  { ptroot := Vector.replicate 8 0, tinvbase := 0, tinvlim := 0, tinvBusy := false, tinvAt := 0, hbmplace0 := 0, hbmplace1 := 0, hwinbase := 0,
    dwinbase := 0, dirbase := 0, rufree := 0, rcqb := 0, rcqn := 64, rcqt := 0, rcqh := 0, tlb := [], uppers := [], walks := [],
    faults := [], deliver := [], holds := [], serving := [], stalled := [], works := [], cmdDue := false, asks := [] }

def Link.reset : Link :=
  { up := false, ver20 := false, fibres := 0, partnerDev := 0, partnerPort := 0, replays := 0, retrains := 0, holding := false, debt := 0, paidAt := 0,
    rx := 0 }

/-- FABCFG after reset: DLTIMER 20, RETRYTO 30 (R201). -/
def Fabric.reset : Fabric :=
  { grpcfg := 0, portdir := 0, comb := false, hold := 0, dltimer := 20, retryto := 30, links := Vector.replicate 16 .reset,
    route := [], escbase := Vector.replicate 4 0, queues := [], postedTurn := [], lanes := [], crumbs := [], crumbHeld := [],
    reqs := [], cooling := [], cache := [], failed := [], paths := [], wire := [], discarded := [] }

/-- Ring `r` after reset (R219). -/
def Ring.reset (r : Nat) : Ring := { men := r < 64, map := r % 64, htr := 0 }

def Photonics.reset : Photonics :=
  { fup := Vector.replicate 16 0, temp := Vector.replicate 16 0, rings := [], pd := none, light := [] }

/-- PSEL reads 0b01 after reset (R18). -/
def LbPos.reset : LbPos :=
  { en := false, gang := false, psel := 1, lunit := 0, febad := false, slbad := false, feret := false, slret := false }

def Lattice.reset : Lattice :=
  { pos := [], stat := Vector.replicate 4 { bound := false, short := false, units := 0, ganged := 0, code := 0 }, units := [] }

/-- BAR 2 is 1 GiB after reset (R223). -/
def HostPort.reset : HostPort :=
  { msix := [], pending := [], sent := [], bar2 := 2 ^ 30, d3hot := false, aer := 0, log := 0, reads := [], mbxBusy := false, mbxResult := 0,
    mbxCmd := 0,
    mbxVec := 0, mbxData := [] }

def Package.reset : Package :=
  { stew := false, hostUp := false, disp := false, lat := 0, hbm := 0, opt := 0, replace := 0, replaceAt := (0, 0, 0), repcfg := 0, ceCount := 0,
    bootstat := 0, recovery := false, mode := 0, owner := none, vendor := 0, minSvn := 0, measures := [], step3 := 0, dead := false, telpwr := 0,
    clkStep := 0, clkCount := 0, telTemp := Vector.replicate 4 0,
    hbmLogs := Vector.replicate 8 { arr := [], xfer := [], testing := [], alogn := 0, tlogn := 0, lanemap := [] }, log := [], seq := 0,
    drops := 0, notices := [] }

/-- The machine right after a cold reset (R7, R225). -/
def State.reset : State :=
  { now := 0, inputs := [], agenda := [], seq := 0, cur := (0, 0), pkt := none, cmd := none, scan := 0, issued := 0, busy := [],
    streak := [], engWaits := [], free := 0, nextId := 0, mem := [], desc := [], psn := [], descPsn := [], threads := [], units := [], barriers := [],
    disp := .reset, trans := .reset, fab := .reset, phot := .reset, lat := .reset, host := .reset, pkg := .reset }

end Sys2Proof.Machine
end

