-- ==== Sys2Proof/Machine/Maps.lean ====
section
/-! DEFINITION. Sparse maps, and memory as bytes: the operations every other file uses on them (R3, R106). -/

namespace Sys2Proof.Machine

variable {α : Type}

/-- What a map lists at `k`. -/
def mget : Map α → Nat → Option α
  | [], _ => none
  | (j, v) :: r, k => if j = k then some v else mget r k

/-- Lists `v` at `k`, keeping the numbers rising. -/
def mset : Map α → Nat → α → Map α
  | [], k, v => [(k, v)]
  | (j, w) :: r, k, v => if k < j then (k, v) :: (j, w) :: r else if j = k then (k, v) :: r else (j, w) :: mset r k v

/-- Lists nothing at `k`. -/
def mdel : Map α → Nat → Map α
  | [], _ => []
  | (j, w) :: r, k => if j = k then r else (j, w) :: mdel r k

/-- Lists nothing in [lo, hi). -/
def mclear (m : Map α) (lo hi : Nat) : Map α := m.filter fun e => !(lo ≤ e.1 && e.1 < hi)

/-- Writes the descriptor of a block by its number; an unlisted block has descriptor 0x0000 (log entry 4). -/
def wrDesc (m : Map Half) (b : Nat) (d : Half) : Map Half := if d = 0 then mdel m b else mset m b d

/-- Numbers strictly rising. -/
def rising : Map α → Bool
  | [] => true
  | [_] => true
  | (i, _) :: (j, w) :: r => i < j && rising ((j, w) :: r)

/-- Memory in its one canonical form: addresses rising, and no byte listed that an unlisted address reads as (zero). -/
def Memory.wf (m : Memory) : Bool := rising m && m.all fun c => c.2 != 0

/-- The byte at an address; an unlisted byte reads zero (log entry 4). -/
def rdByte (m : Memory) (a : Nat) : Byte := (mget m a).getD 0

/-- Writes a byte, keeping the canonical form. -/
def wrByte (m : Memory) (a : Nat) (b : Byte) : Memory := if b = 0 then mdel m a else mset m a b

def rdBytes (m : Memory) (a : Nat) : Nat → List Byte
  | 0 => []
  | n + 1 => rdByte m a :: rdBytes m (a + 1) n

def wrBytes (m : Memory) (a : Nat) : List Byte → Memory
  | [] => m
  | b :: r => wrBytes (wrByte m a b) (a + 1) r

/-- The number of little-endian bytes (R3). -/
def leNat : List Byte → Nat
  | [] => 0
  | b :: r => b.toNat + 256 * leNat r

/-- The low `n` bytes of a number, little-endian. -/
def natLe : Nat → Nat → List Byte
  | 0, _ => []
  | n + 1, v => BitVec.ofNat 8 v :: natLe n (v / 256)

/-- A word of 64 bits from up to eight bytes. -/
def leWord (bs : List Byte) : Word := BitVec.ofNat 64 (leNat bs)

/-- Bits lo .. lo + n − 1 of a dword as a number. -/
def bits (w : Word) (lo n : Nat) : Nat := w.toNat / 2 ^ lo % 2 ^ n

/-- A dword from a number. -/
def wd (n : Nat) : Word := BitVec.ofNat 64 n

/-- One if true. -/
def b01 (b : Bool) : Nat := if b then 1 else 0

/-- The next multiple of `q` at or above `n`. -/
def roundUp (n q : Nat) : Nat := (n + q - 1) / q * q

/-- ceil(a ÷ b) (R176, R347). -/
def ceilDiv (a b : Nat) : Nat := (a + b - 1) / b

/-- Whether [a, a + n) and [b, b + m) meet. -/
def meets (a n b m : Nat) : Bool := a < b + m && b < a + n

/-- Whether two extents, lists of (start, length), meet. -/
def extMeets (x y : List (Nat × Nat)) : Bool := x.any fun p => y.any fun q => meets p.1 p.2 q.1 q.2

/-- A three-bit register index into eight registers. -/
def vget (v : Vector α 8) (i : BitVec 3) : α := v[i.toNat]'i.isLt
def vset (v : Vector α 8) (i : BitVec 3) (x : α) : Vector α 8 := v.set i.toNat x i.isLt

/-- An element by number, or a default beyond the end. -/
def nget {n : Nat} (v : Vector α n) (i : Nat) (d : α) : α := if h : i < n then v[i] else d
def nset {n : Nat} (v : Vector α n) (i : Nat) (x : α) : Vector α n := if h : i < n then v.set i x else v

end Sys2Proof.Machine
end

