-- ==== Sys2Proof/Machine/Numbers.lean ====
section
/-! DEFINITION. Exact numbers, formats, rounding, and the functions that the engines and the scalar instructions compute
(chapter 4). -/

namespace Sys2Proof

namespace FVal

def neg : FVal → FVal
  | .nan => .nan
  | .inf n => .inf (!n)
  | .fin n m e => .fin (!n) m e

def abs : FVal → FVal
  | .nan => .nan
  | .inf _ => .inf false
  | .fin _ m e => .fin false m e

def zero : FVal := .fin false 0 0

def isNan : FVal → Bool
  | .nan => true
  | _ => false
def isInf : FVal → Bool
  | .inf _ => true
  | _ => false
def isFin : FVal → Bool
  | .fin .. => true
  | _ => false
def isZero : FVal → Bool
  | .fin _ m _ => m == 0
  | _ => false
def negative : FVal → Bool
  | .nan => false
  | .inf n => n
  | .fin n _ _ => n

/-- The value × 2^k. -/
def scale (k : Int) : FVal → FVal
  | .fin n m e => .fin n m (e + k)
  | x => x

end FVal

end Sys2Proof

namespace Sys2Proof.Machine

/-! ## Exact arithmetic -/


def signed (n : Bool) (m : Nat) : Int := if n then -(m : Int) else m

/-- m × 2^e as an integer multiple of 2^f, for f ≤ e. -/
def atExp (m : Nat) (e f : Int) : Nat := m * 2 ^ (e - f).toNat

def ofInt (v e : Int) : FVal := .fin (v < 0) v.natAbs e

/-- The exact sum; an exact zero is +0, or −0 when both terms are −0, and −0 under RDN when the signs differ (R275). -/
def fAdd (rdn : Bool) : FVal → FVal → FVal
  | .nan, _ => .nan
  | _, .nan => .nan
  | .inf a, .inf b => if a = b then .inf a else .nan
  | .inf a, _ => .inf a
  | _, .inf b => .inf b
  | .fin a m e, .fin b n f =>
    let g := min e f
    let v := signed a (atExp m e g) + signed b (atExp n f g)
    if v = 0 then .fin (if a = b then a else rdn) 0 g else ofInt v g

/-- The exact product (R275). -/
def fMul : FVal → FVal → FVal
  | .nan, _ => .nan
  | _, .nan => .nan
  | .inf a, .inf b => .inf (a != b)
  | .inf a, .fin b n _ => if n = 0 then .nan else .inf (a != b)
  | .fin a m _, .inf b => if m = 0 then .nan else .inf (a != b)
  | .fin a m e, .fin b n f => .fin (a != b) (m * n) (e + f)

/-- a × b + c with one rounding to come; 0 × inf is NaN whatever c is (R275). -/
def fFma (rdn : Bool) (a b c : FVal) : FVal := fAdd rdn (fMul a b) c

/-- The quotient, with a last sticky bit where it is not exact (R275). -/
def fDiv : FVal → FVal → FVal
  | .nan, _ => .nan
  | _, .nan => .nan
  | .inf _, .inf _ => .nan
  | .inf a, .fin b _ _ => .inf (a != b)
  | .fin a _ _, .inf b => .fin (a != b) 0 0
  | .fin a m e, .fin b n f =>
    if n = 0 then (if m = 0 then .nan else .inf (a != b))
    else
      let k := 128 + n.log2 - m.log2
      let x := m * 2 ^ k
      .fin (a != b) (2 * (x / n) + b01 (x % n != 0)) (e - f - k - 1)

/-- floor(√n) by Newton's iteration from above. -/
def isqrtFrom : Nat → Nat → Nat → Nat
  | 0, _, x => x
  | fuel + 1, n, x =>
    let y := (x + n / x) / 2
    if y < x then isqrtFrom fuel n y else x

def isqrt (n : Nat) : Nat := if n = 0 then 0 else isqrtFrom 64 n (2 ^ (n.log2 / 2 + 1))

/-- The square root, with a last sticky bit where it is not exact; √(−0) is −0 (R275). -/
def fSqrt : FVal → FVal
  | .nan => .nan
  | .inf n => if n then .nan else .inf false
  | .fin n m e =>
    if m = 0 then .fin n 0 e
    else if n then .nan
    else
      let k := 256 + (e % 2).toNat
      let x := m * 2 ^ k
      let r := isqrt x
      .fin false (2 * r + b01 (r * r != x)) ((e - k) / 2 - 1)

/-- 1 ÷ √a (R342). -/
def fRsq : FVal → FVal
  | .nan => .nan
  | .inf n => if n then .nan else .fin false 0 0
  | .fin n m e =>
    if m = 0 then .inf n
    else if n then .nan
    else
      let m' := if e % 2 = 0 then m else 2 * m
      let e' := if e % 2 = 0 then e else e - 1
      let k := 130 + m'.log2
      let r := isqrt (2 ^ (2 * k) / m')
      .fin false (2 * r + b01 (r * r * m' != 2 ^ (2 * k))) (-(e' / 2) - k - 1)

/-- Exact comparison of two values that are not NaN: −1, 0 or 1; the zeros are equal. -/
def fOrd : FVal → FVal → Int
  | .inf a, .inf b => if a = b then 0 else if a then -1 else 1
  | .inf a, _ => if a then -1 else 1
  | _, .inf b => if b then 1 else -1
  | .fin a m e, .fin b n f =>
    let x : Int := e + m.log2
    let y : Int := f + n.log2
    if m = 0 || n = 0 || a != b || x = y then
      -- values of one leading digit, or of different signs: a zero's exponent is of no account
      let e := if m = 0 then f else if n = 0 || a = b then e else 0
      let f := if n = 0 then e else if m = 0 || a = b then f else 0
      let g := min e f
      let v := signed a (atExp m e g) - signed b (atExp n f g)
      if v < 0 then -1 else if v = 0 then 0 else 1
    else if decide (x < y) == a then 1 else -1
  | _, _ => 0

def fLt (a b : FVal) : Bool := !a.isNan && !b.isNan && fOrd a b == -1
def fEq (a b : FVal) : Bool := !a.isNan && !b.isNan && fOrd a b == 0

/-- The smaller; −0 below +0; NaN if either is NaN (R275, R342). -/
def fMin (a b : FVal) : FVal :=
  if a.isNan || b.isNan then .nan
  else if fLt a b then a else if fLt b a then b else if a.negative then a else b

/-- The larger; +0 above −0; NaN if either is NaN. -/
def fMax (a b : FVal) : FVal :=
  if a.isNan || b.isNan then .nan
  else if fLt a b then b else if fLt b a then a else if a.negative then b else a

/-! ### Powers of two and logarithms: enclosed until their digits are certain (R342) -/

/-- floor or ceiling of 2^W × 2^(f / 2^n), by n square roots from the last digit of f (`up` adds one at each). -/
def pow2Frac (w : Nat) (up : Bool) (f : Nat) : Nat → Nat → Nat
  | 0, r => r
  | n + 1, r =>
    let x := (if f % 2 = 1 then 2 * r else r) * 2 ^ w
    pow2Frac w up (f / 2) n (isqrt x + b01 up)

/-- 2^(i + f / 2^k) for 0 < f < 2^k, with a sticky bit: it is irrational, so its digits are certain once both bounds agree. -/
def pow2Search (i : Int) (f k : Nat) : Nat → Nat → FVal
  | 0, w => .fin false (2 * (2 ^ w) + 1) (i - w - 1)
  | fuel + 1, w =>
    let n := min k (w + 32)
    let fl := f / 2 ^ (k - n)
    let fh := if f % 2 ^ (k - n) = 0 then fl else fl + 1
    let ww := w + 64
    let lo := pow2Frac ww false fl n (2 ^ ww) / 2 ^ 64
    let hi := (if fh = 2 ^ n then 2 ^ (ww + 1) else pow2Frac ww true fh n (2 ^ ww)) / 2 ^ 64
    if lo = hi then .fin false (2 * lo + 1) (i - w - 1) else pow2Search i f k fuel (2 * w)

/-- 2^a (R342). -/
def fExp2 : FVal → FVal
  | .nan => .nan
  | .inf n => if n then .fin false 0 0 else .inf false
  | .fin n m e =>
    if 0 ≤ e then .fin false 1 (signed n (m * 2 ^ e.toNat))
    else
      let k := (-e).toNat
      let v := signed n m
      let i := v.fdiv (2 ^ k)
      let f := (v - i * 2 ^ k).toNat
      if f = 0 then .fin false 1 i else pow2Search i f k 6 128

/-- Digits of log2 of a number in [1, 2) given as bounds lo, hi over 2^w: `none` when a digit is not certain. -/
def log2Digits (w : Nat) : Nat → Nat → Nat → Nat → Option Nat
  | 0, _, _, acc => some acc
  | n + 1, lo, hi, acc =>
    let l := lo * lo / 2 ^ w
    let h := hi * hi / 2 ^ w + 1
    if 2 ^ (w + 1) ≤ l then log2Digits w n (l / 2) (h / 2 + 1) (2 * acc + 1)
    else if h < 2 ^ (w + 1) then log2Digits w n l h (2 * acc)
    else none

def log2Search (i : Int) (m l : Nat) : Nat → Nat → FVal
  | 0, n => ofInt (2 * i * 2 ^ n + 1) (-(n : Int) - 1)
  | fuel + 1, n =>
    let w := 2 * n + 64 + l
    let x := m * 2 ^ (w - l)
    match log2Digits w n x (x + 1) 0 with
    | some d =>
      let v : Int := i * 2 ^ n + d
      if v < 0 then .fin true (2 * (v.natAbs - 1) + 1) (-(n : Int) - 1) else .fin false (2 * v.natAbs + 1) (-(n : Int) - 1)
    | none => log2Search i m l fuel (2 * n)

/-- log2 a (R342). -/
def fLog2 : FVal → FVal
  | .nan => .nan
  | .inf n => if n then .nan else .inf false
  | .fin n m e =>
    if m = 0 then .inf true
    else if n then .nan
    else
      let l := m.log2
      if m = 2 ^ l then ofInt (e + l) 0 else log2Search (e + l) m l 4 128

/-! ## Formats (R79 to R88) -/

/-- A floating-point format: width, precision P with the leading digit, exponent of the last digit of a subnormal, ordinal of
the largest finite code, infinities, a sign bit, a negative zero. -/
structure Fmt where
  width : Nat
  prec : Nat
  qmin : Int
  maxOrd : Nat
  infs : Bool
  sign : Bool
  ieee : Bool
  deriving DecidableEq, Repr

/-- The format of a code that is a floating-point format, dense or sparse (R83 to R87). -/
def fmtOf (c : BitVec 8) : Fmt :=
  if isB8 c then
    let p := c.toNat % 8
    let i := c.getLsbD 4
    if c.getLsbD 5 then
      { width := 8, prec := p, qmin := 1 - 2 ^ (7 - p) - (p - 1), maxOrd := if i then 0x7E else 0x7F, infs := i, sign := true, ieee := false }
    else
      { width := 8, prec := p, qmin := 1 - 2 ^ (8 - p) - (p - 1), maxOrd := if i then 0xFD else 0xFE, infs := i, sign := false, ieee := false }
  else if c = 0x80 || c = 0x88 then
    { width := 16, prec := 11, qmin := -24, maxOrd := 0x7BFF, infs := true, sign := true, ieee := true }
  else if c = 0x81 || c = 0x89 then
    { width := 16, prec := 8, qmin := -133, maxOrd := 0x7F7F, infs := true, sign := true, ieee := true }
  else if c = 0xC1 then
    { width := 64, prec := 53, qmin := -1074, maxOrd := 0x7FEFFFFFFFFFFFFF, infs := true, sign := true, ieee := true }
  else
    { width := 32, prec := 24, qmin := -149, maxOrd := 0x7F7FFFFF, infs := true, sign := true, ieee := true }

/-- The value of an ordinal: exponent field above, trailing field below (R84). -/
def ordVal (f : Fmt) (neg : Bool) (o : Nat) : FVal :=
  let h := 2 ^ (f.prec - 1)
  if o / h = 0 then .fin neg (o % h) f.qmin else .fin neg (h + o % h) (f.qmin + (o / h : Nat) - 1)

/-- The canonical NaN (R88). -/
def nanCode (f : Fmt) : Nat :=
  if f.ieee then f.maxOrd + 1 + 2 ^ (f.prec - 2) else if f.sign then 0x80 else 0xFF

/-- Sign and ordinal as a code. -/
def codeOf (f : Fmt) (neg : Bool) (o : Nat) : Nat :=
  if !f.sign then o else if o = 0 && !f.ieee then 0 else o + b01 neg * 2 ^ (f.width - 1)

/-- The value of a code of a floating-point format (R84, R85, R87). -/
def floatVal (f : Fmt) (code : Nat) : FVal :=
  if !f.sign then
    if code = 0xFF then .nan else if f.infs && code = f.maxOrd + 1 then .inf false else ordVal f false code
  else
    let neg := code / 2 ^ (f.width - 1) = 1
    let o := code % 2 ^ (f.width - 1)
    if !f.ieee && code = 0x80 then .nan
    else if o ≤ f.maxOrd then ordVal f neg o
    else if f.infs && o = f.maxOrd + 1 then .inf neg
    else .nan

/-- The value of an element's code in a format (R83 to R87). -/
def codeVal (c : BitVec 8) (code : Nat) : FVal :=
  if isInt c then
    if c = 2 then .fin false code 0
    else
      let w := fmtWidth c
      if code < 2 ^ (w - 1) then .fin false code 0 else .fin true (2 ^ w - code) 0
  else floatVal (fmtOf c) code

/-- Largest finite value of a format (R86). -/
def fmtMax (c : BitVec 8) : FVal := ordVal (fmtOf c) false (fmtOf c).maxOrd

/-! ## Rounding (R91 to R93) -/

/-- Whether to take the neighbour away from zero: the mode, the sign, the lower neighbour's parity, the remainder over its
divisor, and the 24 drawn bits. -/
def roundsUp (rm : Nat) (neg odd : Bool) (rem den r : Nat) : Bool :=
  if rem = 0 then false
  else match rm with
    | 0 => den < 2 * rem || (2 * rem = den && odd)
    | 1 => false
    | 2 => neg
    | 3 => !neg
    | 4 => den ≤ 2 * rem
    | _ => r < 2 ^ 24 * rem / den

/-- The ordinal nearest to m × 2^e under the mode, as if the range had no upper limit (R92). -/
def roundOrd (f : Fmt) (rm r : Nat) (neg : Bool) (m : Nat) (e : Int) : Nat :=
  if m = 0 then 0
  else
    let top : Int := e + m.log2
    let small := top < f.qmin - 64
    let m := if small then 1 else m
    let e := if small then f.qmin - 65 else e
    let q := max f.qmin ((if small then e else top) - (f.prec - 1 : Nat))
    let base := (q - f.qmin).toNat * 2 ^ (f.prec - 1)
    if q ≤ e then base + m * 2 ^ (e - q).toNat
    else
      let d := 2 ^ (q - e).toNat
      let n := base + m / d
      n + b01 (roundsUp rm neg (n % 2 = 1) (m % d) d r)

/-- A result beyond the largest finite magnitude (R92). -/
def overflow (f : Fmt) (rm : Nat) (sat neg : Bool) : Nat :=
  let mx := codeOf f neg f.maxOrd
  let inf := if f.infs then codeOf f neg (f.maxOrd + 1) else nanCode f
  if sat then mx
  else match rm with
    | 1 => mx
    | 2 => if neg then inf else mx
    | 3 => if neg then mx else inf
    | _ => inf

/-- Rounds a value into a floating-point format, by the first row of R92 that applies. -/
def roundFloat (f : Fmt) (rm : Nat) (sat : Bool) (r : Nat) : FVal → Nat
  | .nan => nanCode f
  | .inf neg =>
    if !f.sign && neg then (if sat then 0 else nanCode f)
    else if sat then codeOf f neg f.maxOrd
    else if f.infs then codeOf f neg (f.maxOrd + 1) else nanCode f
  | .fin neg m e =>
    let o := roundOrd f rm r neg m e
    if !f.sign && neg && o != 0 then (if sat then 0 else nanCode f)
    else if f.maxOrd < o then overflow f rm sat neg
    else codeOf f (neg && f.ieee || neg && o != 0) o

/-- Rounds to an integer (R91, R92). -/
def roundInt (rm r : Nat) (neg : Bool) (m : Nat) (e : Int) : Int :=
  if 0 ≤ e then signed neg (m * 2 ^ e.toNat)
  else
    let small := e + m.log2 < -64
    let m := if small && m != 0 then 1 else m
    let e := if small then -65 else e
    let d := 2 ^ (-e).toNat
    signed neg (m / d + b01 (roundsUp rm neg (m / d % 2 = 1) (m % d) d r))

/-- An integer target always saturates; NaN becomes 0 (R92). -/
def toIntCode (lo hi : Int) (w rm r : Nat) (x : FVal) : Nat :=
  let v : Int := match x with
    | .nan => 0
    | .inf neg => if neg then lo else hi
    | .fin neg m e => if 0 ≤ e && 64 < e + m.log2 && m != 0 then (if neg then lo else hi) else roundInt rm r neg m e
  ((max lo (min hi v)) % 2 ^ w).toNat

/-- Converts a value to a format's code by RM, SAT and the drawn bits (R92, R93). -/
def convert (c : BitVec 8) (rm : Nat) (sat : Bool) (r : Nat) (x : FVal) : Nat :=
  if isInt c then
    let w := fmtWidth c
    if c = 2 then toIntCode 0 255 8 rm r x else toIntCode (-(2 ^ (w - 1))) (2 ^ (w - 1) - 1) w rm r x
  else roundFloat (fmtOf c) rm sat r x

/-- The stochastic draw: 24 bits of SEED, stream tag and index (R93). -/
def srDraw (seed : Word) (tag idx : Nat) : Nat :=
  let z := seed ^^^ wd (tag % 2 ^ 32 * 2 ^ 32 + idx % 2 ^ 32)
  let z := z + 0x9E3779B97F4A7C15
  let z := (z ^^^ (z >>> 30)) * 0xBF58476D1CE4E5B9
  let z := (z ^^^ (z >>> 27)) * 0x94D049BB133111EB
  let z := z ^^^ (z >>> 31)
  (z >>> 40).toNat

/-- Chooses a block scale from the finite values (R94): the smallest e with m ≤ M × 2^e, clamped. -/
def chooseScale (c : BitVec 8) (xs : List FVal) : Nat :=
  let m := (xs.filter FVal.isFin).foldl (fun a x => if fLt a x.abs then x.abs else a) FVal.zero
  if m.isZero then 127
  else match m, fmtMax c with
    | .fin _ n e, .fin _ k f =>
      -- the estimate of e from the leading digits is right or one too small
      let e0 : Int := e + n.log2 - (f + k.log2)
      let fits (g : Int) : Bool := !fLt (.fin false k (f + g)) (.fin false n e)
      let g := if fits (e0 - 1) then e0 - 1 else if fits e0 then e0 else e0 + 1
      (min 254 (max 0 (127 + g))).toNat
    | _, _ => 127

/-! ## IEEE values in registers -/

def f32 : Fmt := fmtOf 0xC0
def f64 : Fmt := fmtOf 0xC1
/-- The format of a scalar instruction with variant X (R275). -/
def scalarFmt (x : Bool) : Fmt := if x then f64 else f32
/-- A scalar operand (R265). -/
def scalarVal (x : Bool) (w : Word) : FVal := if x then floatVal f64 w.toNat else floatVal f32 (bits w 0 32)
/-- A scalar result, rounded once with SAT = 0 (R275). -/
def scalarRes (x : Bool) (rm : Nat) (v : FVal) : Word := wd (roundFloat (scalarFmt x) rm false 0 v)

end Sys2Proof.Machine
end

