-- ==== Sys2Proof/Machine/Flags.lean ====
section
/-! DEFINITION. Conditions of CMP and FCMP (R248), and the integer functions of R266 to R268 and R287. -/

namespace Sys2Proof.Machine

/-- The condition of CMP on two dwords (R248). -/
def cmpHolds (c : BitVec 3) (a b : Word) : Bool :=
  match c.toNat with
  | 0 => a == b
  | 1 => a != b
  | 2 => a.slt b
  | 3 => !a.slt b
  | 4 => a.ult b
  | 5 => !a.ult b
  | 6 => a &&& b != 0
  | _ => a &&& b == 0

/-- The condition of FCMP on two values (R248). -/
def fcmpHolds (c : BitVec 3) (a b : FVal) : Bool :=
  match c.toNat with
  | 0 => fEq a b
  | 1 => !fEq a b
  | 2 => fLt a b
  | 3 => fLt a b || fEq a b
  | 4 => fLt b a
  | 5 => fLt b a || fEq a b
  | 6 => a.isNan || b.isNan
  | _ => !a.isNan && !b.isNan

/-- bits 127:64 of the signed or unsigned product (R266). -/
def mulHigh (unsigned : Bool) (a b : Word) : Word :=
  if unsigned then wd (a.toNat * b.toNat / 2 ^ 64) else BitVec.ofInt 64 ((a.toInt * b.toInt).fdiv (2 ^ 64))

/-- The quotient truncated towards zero; all ones for b = 0 (R266). -/
def divide (unsigned : Bool) (a b : Word) : Word :=
  if b = 0 then BitVec.allOnes 64
  else if unsigned then wd (a.toNat / b.toNat) else BitVec.ofInt 64 (a.toInt.tdiv b.toInt)

/-- a − b × quotient; a for b = 0 (R266). -/
def remainder (unsigned : Bool) (a b : Word) : Word := if b = 0 then a else a - b * divide unsigned a b

/-- Shifts and rotation by b mod 64 (R266). -/
def shiftLeft (a b : Word) : Word := a <<< (b.toNat % 64)
def shiftRight (arith : Bool) (a b : Word) : Word :=
  if arith then a.sshiftRight (b.toNat % 64) else a >>> (b.toNat % 64)
def rotate (a b : Word) : Word := a.rotateLeft (b.toNat % 64)

def minOf (unsigned : Bool) (a b : Word) : Word :=
  if unsigned then (if b.ult a then b else a) else (if b.slt a then b else a)
def maxOf (unsigned : Bool) (a b : Word) : Word :=
  if unsigned then (if a.ult b then b else a) else (if a.slt b then b else a)

/-- Leading zeros of a number of `n` bits (R267). -/
def leadingZeros (a : Word) : Word := if a = 0 then 64 else wd (63 - a.toNat.log2)
/-- Trailing zeros: the place of the lowest set bit (R267). -/
def trailingZeros (a : Word) : Word := if a = 0 then 64 else wd (a &&& (0 - a)).toNat.log2
/-- Set bits among the low `n` of a number. -/
def countOnes : Nat → Nat → Nat
  | 0, _ => 0
  | n + 1, v => v % 2 + countOnes n (v / 2)
def popCount (a : Word) : Word := wd (countOnes 64 a.toNat)
/-- Bit i moved to bit 63 − i. -/
def reverseBits (a : Word) : Word := a.reverse

/-- Width in bits of SEXT and ZEXT (R244). -/
def extWidth (w : BitVec 2) : Nat := 8 * 2 ^ w.toNat
/-- bits w−1:0 sign-extended or zero-extended (R267). -/
def signExtend (n : Nat) (a : Word) : Word := (a <<< (64 - n)).sshiftRight (64 - n)
def zeroExtend (n : Nat) (a : Word) : Word := (a <<< (64 - n)) >>> (64 - n)

/-- BFX and BFI (R270). -/
def fieldMask (wid : Nat) : Word := wd (2 ^ wid - 1)
def extractField (pos wid : Nat) (a : Word) : Word := (a >>> pos) &&& fieldMask wid
def insertField (pos wid : Nat) (d a : Word) : Word :=
  (d &&& ~~~(fieldMask wid <<< pos)) ||| ((a &&& fieldMask wid) <<< pos)

/-- The new value of an atomic on n bytes (R287). -/
def atomNew (op : AtomOp) (n : Nat) (old b c : Word) : Word :=
  let k := 8 * n
  let lt (x y : Word) : Bool := (signExtend k x).slt (signExtend k y)
  zeroExtend k <| match op with
    | .add => old + b
    | .and => old &&& b
    | .or => old ||| b
    | .xor => old ^^^ b
    | .min => if lt b old then b else old
    | .max => if lt old b then b else old
    | .xchg => b
    | .cas => if zeroExtend k old = zeroExtend k c then b else old
    | .fadd => scalarRes (n == 8) 0 (fAdd false (scalarVal (n == 8) old) (scalarVal (n == 8) b))

/-- FCLASS (R277): the one bit that is set. -/
def classOf (x : Bool) (w : Word) : Word :=
  let f := scalarFmt x
  let code := if x then w.toNat else bits w 0 32
  let neg := code / 2 ^ (f.width - 1) = 1
  let o := code % 2 ^ (f.width - 1)
  let bit :=
    if f.maxOrd + 1 < o then (if o / 2 ^ (f.prec - 2) % 2 = 1 then 9 else 8)
    else if o = f.maxOrd + 1 then (if neg then 0 else 7)
    else if o = 0 then (if neg then 3 else 4)
    else if o < 2 ^ (f.prec - 1) then (if neg then 2 else 5)
    else (if neg then 1 else 6)
  wd (2 ^ bit)

/-- The value an FCVT source code reads from a register (R276). -/
def fcvtSource (c : BitVec 8) (w : Word) : FVal := codeVal c (w.toNat % 2 ^ fmtWidth c)

/-- FCVT (R276): when the formats are equal an integer passes through unchanged, and a floating-point value too, an infinity under SAT as well, with
any NaN made canonical; an int32 result is sign-extended. -/
def fcvtResult (dst src : BitVec 8) (rm : Nat) (sat : Bool) (w : Word) : Word :=
  let v := wd (convert dst rm (sat && dst != src) 0 (fcvtSource src w))
  if dst = src && isInt dst then (if dst = 5 then signExtend 32 w else w) else if dst = 5 then signExtend 32 v else v

end Sys2Proof.Machine
end

