-- ==== Sys2Proof/Machine/Ops.lean ====
section
/-! DEFINITION. The named operations on the machine: threads and their registers, the agenda, records, posts, switch points,
taking an exception and returning from one. -/

namespace Sys2Proof.Machine

/-! ## Threads, units, crews, launches -/

def findThread (ts : List Thread) (u n : Nat) : Option Thread := ts.find? fun t => t.unit == u && t.slot == n

/-- Puts a thread into its slot, keeping the list in order of unit and slot. -/
def putThread : List Thread → Thread → List Thread
  | [], t => [t]
  | x :: r, t =>
    if t.unit < x.unit || (t.unit == x.unit && t.slot < x.slot) then t :: x :: r
    else if t.unit == x.unit && t.slot == x.slot then t :: r
    else x :: putThread r t

/-- Puts a crew in its place, or at the end. -/
def putCrew : List Crew → Crew → List Crew
  | [], c => [c]
  | x :: r, c => if x.ltag == c.ltag && x.unit == c.unit then c :: r else x :: putCrew r c

/-- Closes the crews of a launch (R54). -/
def closeCrews (tag : Nat) (cs : List Crew) : List Crew :=
  cs.map fun c => if c.ltag == tag then { c with closed := true } else c

namespace State
variable (s : State)

def thread? (u n : Nat) : Option Thread := findThread s.threads u n
/-- The thread that a tag names, while its generation stands (R159); one restored elsewhere answers to its earlier tags (R305). -/
def ref? (r : ThreadRef) : Option Thread :=
  ((s.thread? r.unit r.slot).filter fun t => t.gen == r.gen).or (s.threads.find? fun t => t.former.contains r)
/-- The thread that issues. -/
def curThread? : Option Thread := s.thread? s.cur.1 s.cur.2
def setThread (t : Thread) : State := { s with threads := putThread s.threads t }
def dropThread (t : Thread) : State :=
  { s with threads := s.threads.filter fun x => !(x.unit == t.unit && x.slot == t.slot) }
def onRef (r : ThreadRef) (f : Thread → Thread) : State :=
  match s.ref? r with
  | some t => s.setThread (f t)
  | none => s

def unit (u : Nat) : UnitSt := (mget s.units u).getD .reset
def setUnit (u : Nat) (x : UnitSt) : State := { s with units := mset s.units u x }
def onUnit (u : Nat) (f : UnitSt → UnitSt) : State := s.setUnit u (f (s.unit u))

def launch? (tag : Nat) : Option Launch := mget s.disp.launches tag
def setLaunch (l : Launch) : State := { s with disp := { s.disp with launches := mset s.disp.launches l.ltag l } }
def onLaunch (tag : Nat) (f : Launch → Launch) : State :=
  match s.launch? tag with
  | some l => s.setLaunch (f l)
  | none => s

def crew? (tag u : Nat) : Option Crew := s.disp.crews.find? fun c => c.ltag == tag && c.unit == u
/-- The crew is being pre-empted: it is closed, and its launch is not ending (R49). -/
def stopping (tag u : Nat) : Bool :=
  match s.crew? tag u, s.launch? tag with
  | some c, some l => c.closed && l.ending.isNone
  | _, _ => false
def setCrew (c : Crew) : State := { s with disp := { s.disp with crews := putCrew s.disp.crews c } }
def onCrew (tag u : Nat) (f : Crew → Crew) : State :=
  match s.crew? tag u with
  | some c => s.setCrew (f c)
  | none => s

/-- This device's id (R201). -/
def devid : Nat := bits s.fab.grpcfg 52 12
/-- The logical unit is bound and not retired (R14, R412). -/
def present (u : Nat) : Bool := s.lat.units.any fun b => b.unit == u
def bind? (u : Nat) : Option UnitBind := s.lat.units.find? fun b => b.unit == u
def ganged (u : Nat) : Bool := s.lat.units.any fun b => b.unit == u && b.ganged
/-- The round of the mill clock (R196). -/
def round : Nat := s.now / 4
/-- A counter of the model for identities. -/
def fresh : State := { s with nextId := s.nextId + 1 }

end State

/-- Cluster and stack of a unit (R6). -/
def clusterOf (u : Nat) : Nat := u / 4
def stackOf (u : Nat) : Nat := u / 32

def Thread.ref (t : Thread) : ThreadRef := ⟨t.unit, t.slot, t.gen⟩
def Thread.answers (t : Thread) (r : ThreadRef) : Bool := t.ref == r || t.former.contains r

/-- The logical writer id (R133). -/
def writerId (l : Launch) (t : Thread) : Nat := 256 * (l.gsize * t.gang + t.crew) + t.tid

/-! ## The agenda -/

/-- Requester ranks of R109; rank 0 is for what looks at the state left by earlier cycles (R187), rank 1 for what a bank or a JU has
kept waiting, in its order of arrival. -/
def rankMill (u : Nat) : Nat := 8 * u + 2
def rankEng (u : Nat) : EngKind → Nat
  | .vx => 8 * u + 3
  | .mx => 8 * u + 4
  | .tmv => 8 * u + 6
def rankCx (u : Nat) : Nat := 8 * u + 5
def rankJu (u : Nat) : Nat := 8 * u + 7
def rankPort (p : Nat) : Nat := 1024 + p
def rankHost : Nat := 1041
def rankDisp : Nat := 1042
def rankRes : Nat := 1043
/-- Returns and posts come after the accesses of a cycle; posts in the order of their semaphores (R71). -/
def rankPost (i : BitVec 3) : Nat := 1050 + i.toNat
def rankLate : Nat := 1060

/-- Cycles of a microsecond at the package clock of 2.7 GHz. -/
def us (n : Nat) : Nat := 2700 * n

def Sched.before (x y : Sched) : Bool :=
  x.due < y.due || (x.due == y.due && (x.rank < y.rank || (x.rank == y.rank && x.seq < y.seq)))

def insertSched : List Sched → Sched → List Sched
  | [], e => [e]
  | x :: r, e => if e.before x then e :: x :: r else x :: insertSched r e

namespace State
variable (s : State)

def schedEv (delay rank : Nat) (ev : Event) : State :=
  { s with agenda := insertSched s.agenda { due := s.now + delay, rank := rank, seq := s.seq, ev := ev }, seq := s.seq + 1 }
def sched (delay rank : Nat) (op : Instr) : State := s.schedEv delay rank { op := op, pkt := none, cmd := none }
def schedPkt (delay rank : Nat) (op : Instr) (p : Packet) : State :=
  s.schedEv delay rank { op := op, pkt := some p, cmd := none }

end State

/-! ## Registers -/

/-- The register of a frame pair that index bits 2:0 name, bit 3 choosing o. -/
def Frame.get (f : Frame) (isO : Bool) (i : BitVec 3) : Word := if isO then vget f.o i else vget f.l i
def Frame.set (f : Frame) (isO : Bool) (i : BitVec 3) (v : Word) : Frame :=
  if isO then { f with o := vset f.o i v } else { f with l := vset f.l i v }

/-- A frame as CALL and trap entry push it: all zero (R74). -/
def Frame.zero : Frame := { l := Vector.replicate 8 0, o := Vector.replicate 8 0 }

/-- The number under which the vault holds a register: 0 to 15 for k and a; a frame's sixteen by the frame's depth. -/
def Thread.vaultKey (t : Thread) (i : BitVec 5) : Nat := if i.toNat < 16 then i.toNat else 16 + 16 * t.depth + (i.toNat - 16)

/-! ### The registers of a twin (R320) -/

/-- The number under which a twin keeps a register of its own: a main-file register as the vault does, any other from 2^32 on. -/
def twinKey (d : DebugReg) (vault : BitVec 5 → Nat) : Nat :=
  match d with
  | .operand (.main i) => vault i
  | .operand (.opf i) => 2 ^ 32 + i.toNat
  | .operand .lat => 2 ^ 32 + 8
  | .q i => 2 ^ 32 + 16 + i.toNat
  | .sem i => 2 ^ 32 + 24 + i.toNat
  | .special n => 2 ^ 32 + 64 + n.toNat
  | .pc => 2 ^ 32 + 32

/-- The registers of its own that a twin keeps, by number: what is written in both threads alike is the primary's again. -/
def Twin.keep (w : Twin) (p : Nat → Bool) : Twin := { w with own := w.own.filter fun e => p e.1 }
/-- A semaphore whose count is the twin's own rises by a post, which the twin receives as well (R320). -/
def Twin.raise (key count : Nat) (w : Twin) : Twin :=
  { w with own := w.own.map fun e => if e.1 = key then (e.1, wd (min 65535 (e.2.toNat + count))) else e }
/-- One falls by what a WAIT takes. -/
def Twin.lower (key count : Nat) (w : Twin) : Twin :=
  { w with own := w.own.map fun e => if e.1 = key then (e.1, wd (e.2.toNat - count)) else e }
/-- Those of frames up to a depth, and those outside the frames. -/
def Twin.below (w : Twin) (d : Nat) : Twin := w.keep fun k => k < 16 + 16 * (d + 1) || 2 ^ 32 ≤ k

namespace Thread
variable (t : Thread)

/-- A register is written in both threads of a pair. -/
def both (d : DebugReg) : Thread := { t with twin := t.twin.map (·.keep (· != twinKey d t.vaultKey)) }

def frame0 : Frame := t.frames.headD Frame.zero

/-- The value of a register operand (R56, R58, R59). -/
def rd : Operand → Word
  | .main i =>
    match (i.extractLsb' 3 2).toNat with
    | 0 => if i = 0 then 0 else vget t.k (i.extractLsb' 0 3)
    | 1 => vget t.a (i.extractLsb' 0 3)
    | 2 => t.frame0.get false (i.extractLsb' 0 3)
    | _ => t.frame0.get true (i.extractLsb' 0 3)
  | .opf i => vget t.p i
  | .lat => t.lat

/-- Writes a register operand; a write to k0 is discarded (R58). A whole register written is no longer poisoned (R395). -/
def wr (r : Operand) (v : Word) : Thread :=
  match r with
  | .main i =>
    let t := { t.both (.operand r) with psn := mdel t.psn (t.vaultKey i) }
    match (i.extractLsb' 3 2).toNat with
    | 0 => if i = 0 then t else { t with k := vset t.k (i.extractLsb' 0 3) v }
    | 1 => { t with a := vset t.a (i.extractLsb' 0 3) v }
    | 2 => { t with frames := t.frame0.set false (i.extractLsb' 0 3) v :: t.frames.tail }
    | _ => { t with frames := t.frame0.set true (i.extractLsb' 0 3) v :: t.frames.tail }
  | .opf i => { t.both (.operand r) with p := vset t.p i v, par := t.par.filter (· != .operand r) }
  | .lat => { t.both (.operand r) with lat := v, par := t.par.filter (· != .operand r) }

/-- The poison of a register outside the vault: a parity error is MILLPAR as its value is consumed (R394). -/
def parity (r : DebugReg) : Option Poison := if t.par.contains r then some ⟨0x044, 0⟩ else none
/-- A register outside the vault is wholly written, and holds no parity error any more (R395). -/
def mend (r : DebugReg) : Thread := { t.both r with par := t.par.filter (· != r) }
/-- TRAPPC, TRAPINFO, TRAPLAT and TRAPST are. -/
def mendTrap : Thread := (((t.mend (.special 0x0B)).mend (.special 0x0C)).mend (.special 0x0D)).mend (.special 0x0E)

/-- The poison of a source register, if any. -/
def psnOf : Operand → Option Poison
  | .main i => if i = 0 then none else mget t.psn (t.vaultKey i)
  | r => t.parity (.operand r)
/-- A source with its poison. -/
def val (r : Operand) : Val := ⟨t.rd r, t.psnOf r⟩

/-- A later ALU-class write overtakes buffered results for the same register, and any for lat (R43, R66). -/
def overtake (d : Operand) : Thread :=
  { t with rb := t.rb.map fun e => { e with dead := d :: .lat :: e.dead } }

/-- An ALU-class result goes to D and to lat (R65, R264). -/
def alu (d : Operand) (v : Word) : Thread := { ((t.overtake d).wr d v).mend (.operand .lat) with lat := v }

/-- The `n` registers upwards from `r` (R289). -/
def run (r : Operand) : Nat → List Operand
  | 0 => []
  | n + 1 =>
    r :: (match r with
      | .main i => run (.main (i + 1)) n
      | .opf i => run (.opf (i + 1)) n
      | .lat => run .lat n)

/-- WDEPTH.RES (R59, R60). -/
def res : Nat := t.frames.length

/-- Every result of the run has returned, and every access it waits for is accepted (R44; R254's example for stores). -/
def complete : Bool := t.rb.all (fun e => e.vals.isSome) && t.out.isEmpty && t.flushing.isEmpty
/-- A long-class result is outstanding or not yet committed (R44). -/
def pending : Bool := !t.rb.isEmpty

end Thread

/-! ## TSTAT and other special registers as words (R69 to R73, R381) -/

def Thread.tstat (t : Thread) : Word :=
  wd (t.eng.toNat + t.esem.toNat * 2 ^ 8 + b01 t.inrgn * 2 ^ 11 + b01 t.twin.isSome * 2 ^ 12 + b01 t.trigd * 2 ^ 13 +
    b01 t.svc * 2 ^ 14 + b01 t.det * 2 ^ 15 + t.semerr.toNat * 2 ^ 16)

def Thread.wdepth (t : Thread) : Word := wd (t.depth + t.res * 2 ^ 16)

/-- TRAPINFO of a cause that concerns an address (R381). -/
def infoVa (cause : Nat) (va : Word) (fetch : Bool) (word : Nat) : Word :=
  wd (cause + word * 2 ^ 15 + bits va 60 4 * 2 ^ 18 + b01 (bits va 40 17 != 0) * 2 ^ 22 + b01 fetch * 2 ^ 23 +
    bits va 0 40 * 2 ^ 24)

/-- TRAPINFO of any other cause (R381, R382). -/
def infoOf (cause sub info word : Nat) : Word := wd (cause + word * 2 ^ 15 + sub * 2 ^ 18 + info * 2 ^ 24)

/-! ## Records (R372, R373) -/

/-- What a record says beside its SEQ and TIME. -/
structure RecInfo where
  cls : Nat
  scope : Nat
  cause : Nat
  ltag : Nat := 0
  gang : Nat := 0
  crew : Nat := 0
  tid : Nat := 0
  slot : Nat := 0
  unit : Nat := 0
  agent : Nat := 0
  pc : Word := 0
  va : Word := 0
  pa : Word := 0
  detail : Word := 0
  restarts : Nat := 0
  deriving DecidableEq, Repr

def recordWords (seq : W32) (now : Nat) (r : RecInfo) : List Word :=
  [wd (r.cls * 2 ^ 60 + r.scope * 2 ^ 56 + r.cause * 2 ^ 40 + 2 ^ 32 + seq.toNat), wd now,
   wd (r.ltag * 2 ^ 48 + r.gang * 2 ^ 40 + r.crew * 2 ^ 32 + r.tid * 2 ^ 24 + r.slot * 2 ^ 16 + r.unit * 2 ^ 9 + r.agent),
   r.pc, r.va, r.pa, r.detail, wd (r.restarts * 2 ^ 48)]

namespace State
variable (s : State)

/-- An MSI-X vector is signalled: pending while masked, else its message is sent (R224). A vector's entry is masked until it
is written (log entry 5). -/
def msi (v : Nat) : State :=
  let e := (mget s.host.msix v).getD ⟨0, 0, 1⟩
  if e.ctrl.getLsbD 0 then
    { s with host := { s.host with pending := if s.host.pending.contains v then s.host.pending else v :: s.host.pending } }
  else { s with host := { s.host with sent := v :: s.host.sent } }

/-! ### The route of a packet (R202, R203) -/

/-- The ports of a direction of PORTDIR that serve, by READY.OPT (R226); where none does, those whose traffic a retrain holds (R407). While the
only port of a direction retrains R226 would have its packets answered UNREACH and R407 has them held: DESIGN CHOICE, they are held (log entry
85). -/
def upPorts (dir : Nat) : List Nat :=
  let ps := (List.range 16).filter fun p => bits s.fab.portdir (4 * p) 4 == dir && (nget s.fab.links p Link.reset).up
  let serve := ps.filter fun p => s.pkg.opt.getLsbD p
  if serve.isEmpty then ps.filter fun p => (nget s.fab.links p Link.reset).holding else serve

/-- The direction in which a torus of this size takes a packet: X first, then Y, then Z, a tie positive. -/
def torusDir (dst : Nat) : Option Nat :=
  let x := bits s.fab.grpcfg 44 4 + 1
  let y := bits s.fab.grpcfg 40 4 + 1
  let z := bits s.fab.grpcfg 36 4 + 1
  let dir (n dec coord here : Nat) : Option Nat :=
    let d := (coord + n - here) % n
    if d = 0 then none else some (if d ≤ n - d then dec else dec + 1)
  if x * y * z ≤ dst || x * y * z ≤ s.devid then none
  else (dir x 1 (dst % x) (s.devid % x)).or ((dir y 3 (dst / x % y) (s.devid / x % y)).or (dir z 5 (dst / (x * y)) (s.devid / (x * y))))

/-- The output port of a flow to a device; none for this device, whose entry of the route table is ignored (R235), and where no route is up
(R202 to R204). Among the up ports of a direction the flow's hash chooses. -/
def routePort (f : Flow) (dst : Nat) : Option Nat :=
  if dst = s.devid then none
  else match bits s.fab.grpcfg 50 2 with
  | 1 => match s.torusDir dst with
    | some d =>
      let ps := s.upPorts d
      ps[Config.flowHash f.src f.unit f.slot f.dst % ps.length]?
    | none => none
  | 2 => ((mget s.fab.route dst).filter fun e => e.1 && (s.upPorts 7).contains e.2).map (·.2)
  | _ => none

/-- When the last packet of local injection of a flow, of those that left the fabric interface by a cycle, reaches the router. -/
def lastOf (f : Flow) (t : Nat) : Nat :=
  s.agenda.foldl (fun n e => match e.ev.op with
    | .packetRoute 16 q => if q.flow == f && q.sent ≤ t then max n e.due else n
    | _ => n) 0

/-- The fabric interface takes the packet after `delay` cycles, and it leaves for the router, where it is local injection, input 16: 14
cycles, and 45 where it crosses the interposer to the stack of its port (R200, R419). It does not reach the router before a packet of its flow
that left earlier, though the flow's port has changed since (R146, R362). -/
def injectAfter (delay fromStack : Nat) (p : Packet) : State :=
  let far := match s.routePort p.flow p.dst with
    | some q => q / 4 != fromStack
    | none => false
  let at_ := s.now + delay
  let due := max (at_ + if far then 59 else 14) (s.lastOf p.flow at_)
  s.fresh.sched (due - s.now) (rankPort 16) (.packetRoute 16 { p with sent := at_, arr := s.nextId + 1 })
def inject (fromStack : Nat) (p : Packet) : State := s.injectAfter 0 fromStack p

/-! ### Requests that are answered (R211) -/

/-- Events of one kind that are due no more fall away. -/
def cancel (i : Instr) : State := { s with agenda := s.agenda.filter fun e => e.ev.op != i }

/-- The lowest requester tag that is neither outstanding nor held back (R211). With all of 0x0_0000 to 0x7_FFFF in use it goes on above them
(DESIGN CHOICE: R211 does not say what a requester does then; log entry 75). -/
def nextTag : Nat :=
  ((List.range (s.fab.reqs.length + s.fab.cooling.length + 1)).find? fun n =>
    (mget s.fab.reqs n).isNone && !s.fab.cooling.contains n).getD 0

/-- Sends a request that expects a reply, with the tag `nextTag`; its first time-out is due after RETRYTO (R211). -/
def sendReqAfter (delay fromStack : Nat) (p : Packet) (w : ReqWhat) : State :=
  let tag := s.nextTag
  let p := { p with tag := tag }
  let s := { s with fab := { s.fab with reqs := mset s.fab.reqs tag { tag := tag, pkt := p, sends := 1, sentAt := s.now, what := w } } }
  (s.injectAfter delay fromStack p).sched (us s.fab.retryto) rankLate (.retryTimeout tag)
def sendReq (fromStack : Nat) (p : Packet) (w : ReqWhat) : State := s.sendReqAfter 0 fromStack p w

/-- A request is over: its tag can be used again 200 µs after its last send (R211). -/
def closeReq (r : Req) : State :=
  let s := (s.cancel (.retryTimeout r.tag)).cancel (.retryResend r.tag)
  let s := { s with fab := { s.fab with reqs := mdel s.fab.reqs r.tag, cooling := r.tag :: s.fab.cooling } }
  s.sched (r.sentAt + us 200 - s.now) rankLate (.tagReuse r.tag)

/-- Bit i of the mask: value i carries poison. -/
def psnMask (vs : List Val) : Nat := (vs.zipIdx.map fun (v, i) => b01 v.psn.isSome * 2 ^ i).sum

/-- A packet with nothing in it. -/
def blankPkt (kind vc dst : Nat) : Packet :=
  { kind := kind, vc := vc, dst := dst, src := s.devid, tag := 0, nleaf := 0, win := false, opsz := 0, status := 0, aux := 0,
    addr := 0, payload := [], flow := ⟨s.devid, 0, 0, dst⟩, poisoned := 0 }

/-- The replace request: VEC is signalled and, with MGTEN, an MGT packet sent (R238). -/
def raiseReplace : State :=
  let s := s.msi (bits s.pkg.repcfg 0 11)
  if s.pkg.repcfg.getLsbD 28 then
    s.inject 0 { s.blankPkt 0x30 2 (bits s.pkg.repcfg 16 12) with
      payload := [1, (s.pkg.replace.setWidth 64), wd s.now] }
  else s

/-- The causes of REPLACE that events of this cycle have set, and those of them that raised the request (R9). -/
def replacedNow : BitVec 7 × BitVec 7 := if s.pkg.replaceAt.1 = s.now then s.pkg.replaceAt.2 else (0, 0)

/-- An event of a cause of REPLACE: a new bit raises the request; one that is set already raises nothing (R238). -/
def replace (bit : Nat) : State :=
  let b := BitVec.ofNat 7 (2 ^ bit)
  let old := s.pkg.replace.getLsbD bit
  let r := s.replacedNow
  let s := { s with pkg := { s.pkg with
    replace := s.pkg.replace ||| b, replaceAt := (s.now, r.1 ||| b, if old then r.2 else r.2 ||| b) } }
  if old then s else s.raiseReplace

/-- A W1C write of REPLACE: a bit that an event sets in this cycle stays, and the request is raised for it (R9, R238). -/
def clearReplace (w : BitVec 7) : State :=
  let r := s.replacedNow
  let left := s.pkg.replace &&& ~~~(w &&& ~~~r.1)
  let again := s.pkg.replace &&& w &&& r.1 &&& ~~~r.2
  let s := { s with pkg := { s.pkg with
    replace := left, replaceAt := (s.now, r.1, r.2 ||| again), ceCount := if s.pkg.replace.getLsbD 3 && !left.getLsbD 3 then 0 else s.pkg.ceCount } }
  ((List.range 7).filter again.getLsbD).foldl (fun s _ => s.raiseReplace) s

/-- A corrected error counts towards CEHIGH; a CETHR of 0 disables it (R238). -/
def countCorrected : State :=
  let n := s.pkg.ceCount + 1
  let s := { s with pkg := { s.pkg with ceCount := n } }
  let thr := bits s.pkg.repcfg 48 16
  if thr != 0 && thr ≤ n then s.replace 3 else s

/-- Writes words as a record of the steward log, with the next SEQ (R373). -/
def logWords (f : W32 → List Word) : State :=
  { s with pkg := { s.pkg with log := f s.pkg.seq :: s.pkg.log, seq := s.pkg.seq + 1 } }

/-- The crew error port of a record of class recovered or contained that names a launch (R373): its message goes to the JU
of UNIT, as one the device writes itself. -/
def errPort (r : RecInfo) (ws : List Word) : State :=
  if r.cls == 2 || r.cls == 3 then
    match s.launch? r.ltag with
    | some l =>
      if r.ltag = 0 || !l.errp.getLsbD 7 then s
      else if (s.crew? r.ltag r.unit).isNone then { s with pkg := { s.pkg with drops := s.pkg.drops + 1 } }
      else
        s.sched 0 (rankJu r.unit) (.appendAccept
          { ltag := r.ltag, unit := r.unit, port := (l.errp.extractLsb' 0 6).toNat, msg := ws.map (⟨·, none⟩),
            senderDev := s.devid, senderLtag := 0, senderWid := 0, senderUnit := 0, reply := none, replyPkt := none })
    | none => s
  else s

/-- Writes a record (R372, R373). -/
def record (r : RecInfo) : State :=
  let ws := recordWords s.pkg.seq s.now r
  let s := s.logWords fun _ => ws
  let s := if r.cls == 1 then s.countCorrected else s
  s.errPort r ws

/-- A record that names a thread. -/
def recOf (t : Thread) (cls scope cause : Nat) : RecInfo :=
  { cls := cls, scope := scope, cause := cause, ltag := t.ltag, gang := t.gang, crew := t.crew, tid := t.tid, slot := t.slot,
    unit := t.unit, pc := t.pc }

end State

/-! ## Ending threads and launches -/

namespace State
variable (s : State)

/-- Every live thread of the launch is triggered, once all its crews have started: the trigger condition, which then holds for
good (R47). The threads of a saved gang live (R49). -/
def trigCheck (tag : Nat) : State :=
  match s.launch? tag with
  | some l =>
    if l.trig then s
    else if (s.disp.crews.filter (fun c => c.ltag == tag)).all (·.started) &&
        (s.threads.filter (fun t => t.ltag == tag)).all (·.trigd) &&
        (s.disp.saved.filter (fun v => v.crew.ltag == tag)).all (fun v => v.crew.started && v.threads.all (·.trigd)) then s.setLaunch { l with trig := true }
    else s
  | none => s

/-- A slot is freed: its generation rises (R156). -/
def raiseGen (u n : Nat) : State := s.onUnit u fun x => { x with gens := mset x.gens n ((mget x.gens n).getD 0 + 1) }

/-- The slot of a thread's twin, if it has one, is freed (R321). -/
def freeTwin (t : Thread) : State :=
  match t.twin with
  | some w => s.raiseGen w.unit w.slot
  | none => s

/-- Frees a thread's slot and its twin's: the generations rise (R156, R299, R321). Mirror copies that awaited an earlier one of a thread
stopped by the end of its launch leave (R378). -/
def freeSlot (t : Thread) : State :=
  let s := ((s.dropThread t).raiseGen t.unit t.slot).freeTwin t
  let s := t.copies.foldl (fun s c => match c.2 with | some p => s.inject (stackOf t.unit) p | none => s) s
  s.trigCheck t.ltag

/-- The thread has ended (R299): a mirror failure not yet consumed is a MIRRFAIL record of scope thread (R406). -/
def endThread (t : Thread) : State :=
  let mine (f : Flow) : Bool := f.src == s.devid && ((f.unit == t.unit && f.slot == t.slot) || t.former.any fun r => f.unit == r.unit && f.slot == r.slot)
  let lost := t.mirrFail.or ((s.fab.failed.find? mine).map fun f => ⟨0x074, f.dst⟩)
  let s := match lost with
    | some p => s.record { State.recOf t 3 2 0x074 with agent := 9, detail := wd p.detail }
    | none => s
  { s with fab := { s.fab with failed := s.fab.failed.filter fun f => !mine f } }.freeSlot t

/-- The thread ends with a contained error of scope thread (R383). -/
def endContained (t : Thread) (cause : Nat) (va detail : Word) (pc : Word) : State :=
  (s.record { State.recOf t 3 2 cause with va := va, detail := detail, pc := pc }).endThread t

/-- The launch begins to end with a status and a code (R54): its threads stop, its crews close. The end itself comes once its
posted remote stores are performed. -/
def endLaunch (tag status code : Nat) : State :=
  match s.launch? tag with
  | some l =>
    if l.ending.isSome then s
    else
      let s := (s.threads.filter fun t => t.ltag == tag).foldl (fun s t => s.freeSlot t) s
      let s := s.setLaunch { l with ending := some (status, code) }
      let s := { s with disp := { s.disp with crews := closeCrews tag s.disp.crews } }
      s.sched 0 rankDisp (.launchEnd tag status code)
  | none => s

/-- The fatal path (R370). -/
def fatal : State :=
  let s := s.disp.launches.foldl (fun s l => s.endLaunch l.1 2 0x78) s
  { s with pkg := { s.pkg with disp := false, lat := 0, hbm := 0, opt := 0, dead := true } }

end State

/-! ## Posts (R68, R71, R159) -/

/-- The status of a post in TSTAT: of the posts of one cycle, that to the lowest semaphore sets ENG and ESEM (R71). -/
def Thread.postStatus (t : Thread) (now : Nat) (i : BitVec 3) (status : Nat) : Thread :=
  if status = 0 then t
  else if t.eng = 0 then { t with eng := BitVec.ofNat 8 status, esem := i, engAt := now + 1 }
  else
    let first := t.engAt = now + 1 && i.toNat < t.esem.toNat
    let b := BitVec.ofNat 8 (2 ^ (if first then t.esem else i).toNat)
    let t := if first then { t with eng := BitVec.ofNat 8 status, esem := i } else t
    { t with semerr := t.semerr ||| b, semerrAt := (now, if t.semerrAt.1 = now then t.semerrAt.2 ||| b else b) }

/-- The source of the post of a BARWAIT's arrival, by the arrival's number (R308). -/
def barSrc (id : Nat) : Nat := 2 ^ 20 + id

/-- INFO of the overflow that a post from a source causes (R382): 5 is the reply to a SPAWNR, from 2^20 on the post of a BARWAIT's own
arrival, and from 16 on a POST of the thread in the slot src − 16, counted as 256 × unit + slot. -/
def infoSrc (src : Nat) : Nat := if src = 5 then 2 else if 2 ^ 20 ≤ src then 3 else if 16 ≤ src then 0 else src

/-- A post reaches a thread: the count rises unless it would pass 65,535, which is an overflow for the thread's next issue;
the status is recorded (R68, R71, R386). -/
def Thread.post (t : Thread) (now : Nat) (i : BitVec 3) (count src status : Nat) : Thread :=
  let old := (vget t.sems i).toNat
  let t := { t with recent := (now, i, count, src, 65536 ≤ old + count) :: t.recent.filter fun r => r.1 == now }
  let t := { t with twin := t.twin.map (Twin.raise (twinKey (.sem i) t.vaultKey) count) }
  let t := if old + count < 65536 then { t with sems := vset t.sems i (BitVec.ofNat 16 (old + count)) }
    else { t with async := (i, infoSrc src) :: t.async }
  let t := if src = 2 then { t with appendWait := false }
    else if src = barSrc t.barId && old + count < 65536 then { t with barrierGot := true } else t
  t.postStatus now i status

/-! ## Memory of the device, with poison and descriptors -/

/-- The poison that a poisoned dword is written with: HBM's array ECC reports it as its own on every read; a scratchpad keeps the source
(R374, R395). -/
def lodged (pa : Nat) (p : Poison) : Poison := if pa < 2 ^ 39 && p.cause != 0x051 then ⟨0x051, 0⟩ else p

namespace State
variable (s : State)

/-- The poison of the dword that holds a byte (R395). -/
def psnAt (pa : Nat) : Option Poison := mget s.psn (pa / 8)

/-- The value of `n` bytes, with the poison of their dword. -/
def load (pa n : Nat) : Val := ⟨leWord (rdBytes s.mem pa n), s.psnAt pa⟩

/-- A store of the low `n` bytes; a store of the whole dword settles its poison. A narrower one leaves it, and carries its own into the dword
that it merges with (R395). -/
def store (pa n : Nat) (v : Val) : State :=
  let s := { s with mem := wrBytes s.mem pa (natLe n v.v.toNat) }
  if n = 8 then
    { s with psn := match v.psn with
        | some p => mset s.psn (pa / 8) (lodged pa p)
        | none => mdel s.psn (pa / 8) }
  else match v.psn with
    | some p => { s with psn := mset s.psn (pa / 8) (lodged pa p) }
    | none => s

def descOf (pa : Nat) : Half := (mget s.desc (pa / 64)).getD 0
/-- A descriptor is poisoned by the poisoned value that it takes (R395). -/
def poisonDesc (pa : Nat) (p : Option Poison) : State :=
  match p with
  | some p => { s with descPsn := mset s.descPsn (pa / 64) (lodged pa p) }
  | none => s
/-- Writes a block's descriptor, which clears its poison (R81, R395). -/
def setDesc (pa : Nat) (d : Half) : State :=
  { s with desc := wrDesc s.desc (pa / 64) d, descPsn := mdel s.descPsn (pa / 64) }

/-- The first poison of a block: of its eight dwords, or of its descriptor. -/
def blockPsn (pa : Nat) : Option Poison :=
  ((List.range 8).findSome? fun i => mget s.psn (pa / 64 * 8 + i)).or (mget s.descPsn (pa / 64))

/-- A block read, data and descriptor in one step (R81). -/
def readBlock (pa : Nat) : BlockW :=
  { pa := pa, data := rdBytes s.mem (pa / 64 * 64) 64, desc := s.descOf pa,
    psn := ((List.range 8).filterMap fun i => (mget s.psn (pa / 64 * 8 + i)).map fun p => (i, p)) ++
      (mget s.descPsn (pa / 64)).toList.map fun p => (8, p) }

/-- A block write, data and descriptor in one step; poison travels with the data (R81, R395). -/
def writeBlock (b : BlockW) : State :=
  let a := b.pa / 64 * 64
  let s := { s with mem := wrBytes s.mem a b.data }.setDesc a b.desc
  { s with psn := (b.psn.filter fun e => e.1 < 8).foldl (fun m e => mset m (a / 8 + e.1) (lodged a e.2)) (mclear s.psn (a / 8) (a / 8 + 8)),
           descPsn := (b.psn.filter fun e => e.1 == 8).foldl (fun m e => mset m (a / 64) (lodged a e.2)) s.descPsn }

/-- Zeroes memory and descriptors of [pa, pa + n) (R38, R111, R115). -/
def zero (pa n : Nat) : State :=
  { s with mem := mclear s.mem pa (pa + n), desc := mclear s.desc (pa / 64) ((pa + n) / 64),
           psn := mclear s.psn (pa / 8) ((pa + n) / 8), descPsn := mclear s.descPsn (pa / 64) ((pa + n) / 64) }

end State

/-! ## Saved threads (R50, R51, R77, R305) -/

/-- The offset of a thread record in an image (R51). -/
def recordOff (i : Nat) : Nat := 0x68000 + 2048 * i

/-- A thread record (R51, R77): the vault, each register with its poison, k and a and then the resident frames, the current one first; PC,
SKIPC, the state, the semaphores, p0 to p7, lat, q0 to q3, the special registers by number, the restarts of its region, and the tags of its
remote loads. R51 gives the order and not the widths: DESIGN CHOICE, a dword each, two for the semaphores (log entry 17). -/
def Thread.record (t : Thread) (tags : List Nat) : List Val :=
  let reg (key : Nat) (v : Word) : Val := ⟨v, mget t.psn key⟩
  let frame (i : Nat) : List Val :=
    let f := t.frames.getD i Frame.zero
    (f.l.toList ++ f.o.toList).zipIdx.map fun (v, r) => reg (16 + 16 * (t.depth - i) + r) v
  let plain (ws : List Word) : List Val := ws.map (⟨·, none⟩)
  let sems := t.sems.toList.zipIdx.foldl (fun n (v, i) => n + v.toNat * 2 ^ (16 * i)) 0
  ((t.k.toList ++ t.a.toList).zipIdx.map fun (v, i) => reg i v) ++ (List.range 12).flatMap frame ++
  plain ([t.pc, t.skipc.setWidth 64, wd (match t.st with | .ready => 0 | .parked _ => 1 | .halted => 2), wd sems, wd (sems / 2 ^ 64)] ++
    t.p.toList ++ [t.lat] ++ t.q.toList ++
    [wd t.tid, wd t.crew, wd t.gang, wd t.ltag, wd (t.base.toNat + t.eff.toNat * 256), t.wdepth, t.spillp, t.spilllim, t.skipc.setWidth 64,
     t.tstat, t.trapvec, t.trappc, t.trapinfo, t.traplat, wd (t.trapSkip.toNat + b01 t.trapWin * 4), t.rgnpc, t.rgnwd.setWidth 64, t.seed,
     wd t.restarts] ++ tags.map wd)

/-- A thread as a restore finds it in its record: its registers take the values that stand there, with their poison. -/
def Thread.ofRecord (t : Thread) (vs : List Val) : Thread :=
  let w (i : Nat) : Word := (vs.getD i ⟨0, none⟩).v
  let eight (i : Nat) : Vector Word 8 := Vector.ofFn fun j : Fin 8 => w (i + j.val)
  let sems := (w 211).toNat + (w 212).toNat * 2 ^ 64
  let key (i : Nat) : Nat := if i < 16 then i else 16 + 16 * (t.depth - (i - 16) / 16) + i % 16
  { t with
    k := eight 0, a := eight 8, frames := (List.range t.frames.length).map fun i => { l := eight (16 + 16 * i), o := eight (24 + 16 * i) },
    psn := (List.range (16 + 16 * t.frames.length)).foldl (fun m i => match (vs.getD i ⟨0, none⟩).psn with
      | some p => mset m (key i) p
      | none => m) [],
    pc := w 208, skipc := (w 209).setWidth 2, sems := Vector.ofFn fun j : Fin 8 => BitVec.ofNat 16 (sems / 2 ^ (16 * j.val)), p := eight 213,
    lat := w 221, q := Vector.ofFn fun j : Fin 4 => w (222 + j.val), spillp := w 232, spilllim := w 233, trapvec := w 236, trappc := w 237,
    trapinfo := w 238, traplat := w 239, rgnpc := w 241, rgnwd := (w 242).setWidth 16 }

/-- Remote loads of a saved crew that have not been answered (R50). -/
def Saved.outstanding (v : Saved) : Nat := (v.threads.map fun t => (t.rb.filter fun e => e.vals.isNone).length).sum

/-- The tags of the requests whose replies a thread awaits. -/
def State.replyTags (s : State) (t : Thread) : List Nat :=
  s.fab.reqs.filterMap fun e => match e.2.what with
    | .load r _ _ _ _ => if t.answers r then some e.1 else none
    | _ => none

namespace State
variable (s : State)

/-- Writes dwords at an address. -/
def putVals (a : Nat) (vs : List Val) : State := vs.zipIdx.foldl (fun s (v, i) => s.store (a + 8 * i) 8 v) s

/-- Writes the record of thread `i` of a saved crew into its image, and the count of its outstanding remote loads into the header (R50, R51). -/
def putRecord (v : Saved) (i : Nat) (t : Thread) : State :=
  (s.putVals (v.image + recordOff i) (t.record (s.replyTags t))).putVals (v.image + 16) [⟨wd v.outstanding, none⟩]

/-- Changes a thread of a saved crew, in the dispatcher's keeping and in the image (R50, R305). -/
def onSaved (r : ThreadRef) (f : Thread → Thread) : State :=
  let up (v : Saved) : Saved := { v with threads := v.threads.map fun t => if t.answers r then f t else t }
  (s.disp.saved.map up).foldl (fun s v => v.threads.zipIdx.foldl (fun s (t, i) => if t.answers r then s.putRecord v i t else s) s)
    { s with disp := { s.disp with saved := s.disp.saved.map up } }

/-- A post to a thread that lives, or to its record in a saved image (R305); else it is discarded (R159). -/
def post (p : PostTo) (count status : Nat) : State :=
  match s.ref? p.t with
  | some t => s.setThread (t.post s.now p.sem count p.src status)
  | none => s.onSaved p.t fun t => t.post s.now p.sem count p.src status

/-- A post due later. -/
def postLater (delay : Nat) (p : PostTo) (count status : Nat) : State :=
  s.sched delay (rankPost p.sem) (.semPost p count status)

end State

/-- The first poison of a block that was read, and its mask over the nine dwords in which a packet carries the block (R207). -/
def BlockW.first (b : BlockW) : Option Poison := b.psn.head?.map (·.2)
def BlockW.psnBits (b : BlockW) : Nat := (b.psn.map fun e => 2 ^ e.1).sum

/-! ## Scratchpad segments (R103, R114) -/

/-- Granule of a level in bytes (R103). -/
def granule : Nat → Nat
  | 1 => 4096
  | 2 => 65536
  | _ => 1048576
/-- Bytes of a level's instance (R108). -/
def levelSize : Nat → Nat
  | 1 => 2 ^ 21
  | 2 => 2 ^ 24
  | _ => 2 ^ 27
/-- Base of instance `i` of a level in the local physical map (R106). -/
def levelBase : Nat → Nat → Nat
  | 1, i => 0xE000000000 + i * 0x1000000
  | 2, i => 0xD000000000 + i * 0x10000000
  | _, i => 0xC000000000 + i * 0x100000000

/-- Local physical address of an offset in a segment, through its granules (R114). -/
def segAddr (lvl inst : Nat) (g : Seg) (off : Nat) : Nat :=
  levelBase lvl inst + g.granules.getD (off / granule lvl) 0 * granule lvl + off % granule lvl

namespace State
variable (s : State)

/-- The instance of a level that a unit reaches. -/
def inst (lvl u : Nat) : Nat := if lvl = 1 then u else if lvl = 2 then clusterOf u else stackOf u

/-- The segments of a level that a thread of the launch on the unit reaches (R103, R114). -/
def segs (tag u lvl : Nat) : List Seg :=
  if lvl = 1 then match s.crew? tag u with | some c => c.s1 | none => []
  else match s.launch? tag with
    | some l =>
      if lvl = 2 then (l.s2.filter fun x => x.1 == clusterOf u).map (·.2) else (l.s3.filter fun x => x.1 == stackOf u).map (·.2)
    | none => []

def seg? (tag u lvl num : Nat) : Option Seg := (s.segs tag u lvl).find? fun g => g.num == num

/-- Granules of a level's instance that are taken. -/
def taken (lvl i : Nat) : List Nat :=
  if lvl = 1 then (s.disp.crews.filter fun c => c.unit == i).flatMap fun c => c.s1.flatMap (·.granules)
  else s.disp.launches.flatMap fun l =>
    ((if lvl = 2 then l.2.s2 else l.2.s3).filter fun x => x.1 == i).flatMap (·.2.granules)

/-- The escape lane's granules of a stack's S3 (R218, R235): offset in bits 63:32, size in bits 31:0 (log entry 6). -/
def laneGranules (st : Nat) : List Nat :=
  let w := nget s.fab.escbase st 0
  let off := bits w 32 32
  let n := ceilDiv (bits w 0 32) 1048576
  (List.range n).map (· + off / 1048576)

/-- `n` free granules, the lowest first (R115; log entry 7). -/
def freeGranules (lvl i n : Nat) : Option (List Nat) :=
  let used := s.taken lvl i ++ (if lvl = 3 then s.laneGranules i else [])
  let fs := (List.range (levelSize lvl / granule lvl)).filter fun g => !used.contains g
  if n ≤ fs.length then some (fs.take n) else none

/-- Bytes of segment 0 of the crew's S1: S1SZ × 4 KiB (R103). -/
def s1Bytes (tag : Nat) : Nat := match s.launch? tag with | some l => l.s1sz * 4096 | none => 0

/-- Local physical address of an offset in S1 segment 0 of a crew. -/
def s1Addr (tag u off : Nat) : Option Nat := (s.seg? tag u 1 0).map fun g => segAddr 1 u g off

/-- The address an offset of S1 segment 0 has in region 0x1. -/
def s1Va (off : Nat) : Word := wd (2 ^ 60 + off)

/-! ## Extents, and what holds an access to one (R46, R153, R154) -/

/-- The pieces of local memory of [off, off + len) in a segment (R114). -/
def segExtent (lvl i : Nat) (g : Seg) (off len : Nat) : Nat → List (Nat × Nat)
  | 0 => []
  | fuel + 1 =>
    if len = 0 then []
    else
      let n := min len (granule lvl - off % granule lvl)
      (segAddr lvl i g off, n) :: segExtent lvl i g (off + n) (len - n) fuel

/-- The extent of a region-0x1, 0x2 or 0x3 range of the launch's crew on the unit, if it lies in one segment. -/
def vaExtent (tag u : Nat) (va len : Nat) : Option (List (Nat × Nat)) :=
  let lvl := va / 2 ^ 60
  if lvl = 0 || 3 < lvl then none
  else
    let w := wd va
    let (num, off) := if lvl = 1 then (bits w 22 4, bits w 0 22) else if lvl = 2 then (bits w 24 4, bits w 0 24) else (bits w 27 4, bits w 0 27)
    let zero := if lvl = 1 then bits w 26 34 else if lvl = 2 then bits w 28 32 else bits w 31 29
    match s.seg? tag u lvl num with
    | some g => if zero = 0 && off + len ≤ g.len then some (segExtent lvl (inst lvl u) g off len (len / granule lvl + 2)) else none
    | none => none

/-- The scoreboard of a unit holds an access to the extent (R153): a thread's or command's write meets any entry, a read a destination. -/
def boardHolds (u : Nat) (ext : List (Nat × Nat)) (wr : Bool) : Bool :=
  (s.unit u).board.any fun b => (wr || b.dest) && extMeets b.ext ext

/-- A channel watermark of the unit, but for that of the channel `but`, holds an access to the extent (R154). -/
def markHolds (u : Nat) (ext : List (Nat × Nat)) (but : Option Nat := none) : Bool :=
  (s.unit u).chans.any fun e =>
    let c := e.2
    but != some e.1 && c.wm.toNat < c.lim.toNat &&
    (match s.vaExtent c.ltag u c.wm.toNat (c.lim.toNat - c.wm.toNat) with
     | some x => extMeets x ext
     | none => false)

/-- A plain access of the thread is not yet accepted, or taken by the fabric interface (R46, R144). -/
def plainOut (t : Thread) : Bool := t.out.any (·.plain) || t.taking.any fun x => x.2.1 && s.now < x.2.2

/-- What holds a spill or a fill of 128 bytes at an offset of S1 segment 0, as it holds any plain access (R62, R142). -/
def frameStall (t : Thread) (off : Nat) (wr : Bool) : Option WaitFor :=
  if s.plainOut t then some .plain
  else match s.vaExtent t.ltag t.unit (2 ^ 60 + off) 128 with
    | some x =>
      match t.out.find? fun o => extMeets x [(64 * o.block, 64)] with
      | some o => some (.block o.block)
      | none => if s.boardHolds t.unit x wr then some (.board x wr false 0) else if s.markHolds t.unit x then some (.mark x none) else none
    | none => none

/-- Parks a thread. -/
def park (t : Thread) (w : WaitFor) : State :=
  s.fresh.setThread { t with st := .parked w, parkSeq := s.nextId }

/-- Parks the thread that a tag names. -/
def thenPark (r : ThreadRef) (w : WaitFor) : State :=
  match s.ref? r with
  | some t => s.park t w
  | none => s

end State

/-! ## Frames: spill and fill (R60 to R64) -/

namespace State
variable (s : State)

/-- The two block accesses of a spill or a fill at an offset of S1 segment 0, on their way to the unit's own banks (R413), and the thread
that has them outstanding, as plain ones (R62). -/
def frameAccess (t : Thread) (off : Nat) (wr : Bool) (kind : Bool → AccKind) : State × Thread :=
  match s.s1Addr t.ltag t.unit off with
  | none => (s, t)
  | some pa =>
    let acc (hi : Bool) : Access :=
      { t := t.ref, id := t.nextId + b01 hi, rb := none, kind := kind hi, pa := pa + 64 * b01 hi, size := 64, data := 0, data2 := 0,
        retAt := s.now + 12, va := s1Va (off + 64 * b01 hi), pc := t.pc, psn := none, mirror := none, ltag := t.ltag }
    let out (hi : Bool) : OutAcc := { id := t.nextId + b01 hi, plain := true, store := wr, block := pa / 64 + b01 hi }
    ((s.sched 4 (rankMill t.unit) (.bankAccept (acc false))).sched 4 (rankMill t.unit) (.bankAccept (acc true)),
     { t with nextId := t.nextId + 2, out := out true :: out false :: t.out })

/-- Stores the oldest resident frame at an offset of S1 segment 0, l then o, poison with it (R62, R395). -/
def spill (t : Thread) (off : Nat) : State × Thread :=
  let f := t.frames.getLastD Frame.zero
  let d := t.depth - (t.res - 1)
  s.frameAccess t off true fun hi => .frame ((List.range 8).map fun i =>
    ⟨if hi then nget f.o i 0 else nget f.l i 0, mget t.psn (16 + 16 * d + 8 * b01 hi + i)⟩)

/-- Loads the current frame from an offset of S1 segment 0 (R62); its registers take their values as the banks accept the loads. -/
def fill (t : Thread) (off : Nat) : State × Thread := s.frameAccess t off false .fill

end State

/-- Half of the current frame takes the values that a fill has read, and their poison (R62, R395). -/
def Thread.fillHalf (t : Thread) (hi : Bool) (vs : List Val) : Thread :=
  let xs : Vector Word 8 := Vector.ofFn fun i : Fin 8 => (vs.getD i.val ⟨0, none⟩).v
  let f := t.frame0
  { t with frames := (if hi then { f with o := xs } else { f with l := xs }) :: t.frames.tail,
           psn := vs.zipIdx.foldl (fun m (v, i) => match v.psn with
             | some p => mset m (16 + 16 * t.depth + 8 * b01 hi + i) p
             | none => mdel m (16 + 16 * t.depth + 8 * b01 hi + i)) t.psn,
           twin := t.twin.map (·.keep fun k => !(16 + 16 * t.depth + 8 * b01 hi ≤ k && k < 24 + 16 * t.depth + 8 * b01 hi)) }

/-- Drops the poison of frames deeper than `d`. -/
def clearAbove (m : Map Poison) (d : Nat) : Map Poison := m.filter fun e => e.1 < 16 + 16 * (d + 1)

/-- Why a window operation cannot be done: SUB of the window trap (R382). -/
inductive Window where
  | ok (s : State) (t : Thread)
  | trap (sub : Nat)

/-- Pushes a frame of zeros as CALL does, spilling the oldest where twelve are resident; `check` is the SPILLLIM check, which trap
entry leaves out (R60, R64). The stores of a spill are then on their way (R62). After the spill of a trap entry at 0x1F_FF80 of an S1 of 2 MiB
SPILLP is 0x20_0000, which R60 and R61 compute with and R69's field of bits 20:7 does not hold: DESIGN CHOICE, it keeps bit 21, and reads so
(log entry 78). -/
def pushFrame (s : State) (t : Thread) (check : Bool) : Window :=
  if t.depth = 65535 then .trap 0
  else if t.res < 12 then
    .ok s { t with frames := Frame.zero :: t.frames, depth := t.depth + 1 }
  else if (!check || t.spillp.toNat + 128 ≤ t.spilllim.toNat) && t.spillp.toNat + 128 ≤ s.s1Bytes t.ltag then
    let r := s.spill t t.spillp.toNat
    .ok r.1
      { r.2 with frames := Frame.zero :: t.frames.dropLast, depth := t.depth + 1, spillp := t.spillp + 128,
                 psn := t.psn.filter fun e => e.1 < 16 || 16 + 16 * (t.depth + 2 - t.res) ≤ e.1,
                 twin := t.twin.map (·.keep fun k => k < 16 || 16 + 16 * (t.depth + 2 - t.res) ≤ k) }
  else .trap 1

/-- Pops the current frame as RET does; where the caller's is not resident, its loads are then on their way (R61, R62). -/
def popFrame (s : State) (t : Thread) : Window :=
  if t.depth = 0 then .trap 2
  else if 1 < t.res then
    .ok s { t with frames := t.frames.tail, depth := t.depth - 1, psn := clearAbove t.psn (t.depth - 1), twin := t.twin.map (·.below (t.depth - 1)) }
  else if 128 ≤ t.spillp.toNat && t.spillp.toNat ≤ s.s1Bytes t.ltag then
    let off := t.spillp.toNat - 128
    let r := s.fill t off
    .ok r.1 { r.2 with frames := [Frame.zero], depth := t.depth - 1, spillp := t.spillp - 128, psn := clearAbove t.psn (t.depth - 1),
                       twin := t.twin.map (·.below (t.depth - 1)) }
  else .trap 3

/-! ## Taking an exception and returning from one -/

namespace State
variable (s : State)

/-- Window exhaustion ends the thread (R64, R383). -/
def winexh (t : Thread) (pc : Word) : State :=
  s.endContained t 0x010 0 (wd (t.wdepth.toNat % 2 ^ 32 * 2 ^ 32 + t.spillp.toNat)) pc

/-- Trap entry (R315, R64, R70): TRAPVEC zero ends the thread; else PC, lat and SKIPC are saved, TRAPINFO written, a frame of zeros
pushed, and PC ← TRAPVEC. `r.pc` is the PC that TRAPPC takes, whose bits 1:0 read zero (R69). An entry that cannot be is WINEXH at once; a spill
that is held waits, and the entry is taken after it (R62). TRAPPC, TRAPINFO, TRAPLAT and TRAPST, wholly written, hold no parity error (R395). -/
def trapEntry (t : Thread) (r : TrapReq) : State :=
  if t.trapvec = 0 then s.endContained t (bits r.info 0 9) r.va r.info t.pc
  else match pushFrame s t false with
  | .trap _ => s.winexh t t.pc
  | .ok s' t' =>
    match if t.res = 12 then s.frameStall t t.spillp.toNat true else none with
    | some w => s.park { t with after := .trap r } w
    | none =>
      let u : Thread :=
        { t'.mendTrap with trappc := r.pc &&& ~~~3, traplat := t.lat, trapSkip := t.skipc, skipc := 0, trapinfo := r.info, trapWin := t.res == 12,
                           pc := t.trapvec, st := .ready, after := .go, fetched := [], eligRound := max t.eligRound (s.round + 1) }
      if t.res = 12 then s'.park u .accepted else s'.setThread u

/-- The return from a trap (R316, R64): PC ← TRAPPC, lat ← TRAPLAT, SKIPC ← TRAPST.SKIP, and the window slides back as RET; a window that
cannot be filled ends the thread, and one that is filled parks it until the data has returned (R62). -/
def trapReturn (t : Thread) : State :=
  match popFrame s t with
  | .trap _ => s.winexh t t.pc
  | .ok s' t' =>
    let u := { t'.mend (.operand .lat) with pc := t.trappc, lat := t.traplat, skipc := t.trapSkip }
    if 1 < t.res then s'.setThread u else s'.park u (.fill (s.now + 12) false)

end State

/-! ## Commits and uncorrectable data (R42 to R44, R374) -/

/-- What a thread consumes: the poison, and the addresses of the access that brought it (R372). -/
structure Consumed where
  p : Poison
  va : Word
  pa : Word
  deriving DecidableEq, Repr

/-- One buffered result: its registers that no later write has overtaken take their values. The first value that carries poison is
consumed instead, PC being then that of its instruction; it and what follows are discarded (R374). -/
def commitEntry (t : Thread) (e : RbEntry) : Thread × Option Consumed :=
  (e.dests.zip (e.vals.getD [])).foldl (fun (t, p) (d, v) =>
    if p.isSome || e.dead.contains d || d == .k0 then (t, p)
    else match v.psn with
      | some q => ({ t with pc := e.pc }, some ⟨q, e.va, e.pa⟩)
      | none => (t.wr d v.v, none)) (t, none)

/-- Commits results in program order (R43). -/
def commitEntries (t : Thread) (es : List RbEntry) : Thread × Option Consumed :=
  es.foldl (fun (t, p) e => if p.isSome then (t, p) else commitEntry t e) (t, none)

/-- Commits the return buffer (R43). -/
def commitAll (t : Thread) : Thread × Option Consumed :=
  let r := commitEntries t t.rb
  ({ r.1 with rb := [] }, r.2.or (t.mirrFail.map fun p => ⟨p, 0, 0⟩))

/-- The value that the twin folds beside the primary: an upset may strike it at any instruction (R376). -/
def foldFp (f v : Word) : Word := (f.rotateLeft 7) ^^^ v

/-- A fingerprint with the values that have come folded into it, up to the first that is awaited (R376). -/
def foldQueue (fp : Word) (q : List FoldVal) : Word := ((q.takeWhile (·.v.isSome)).filterMap (·.v)).foldl foldFp fp

/-- Values that are awaited fall away at a restart (R374). -/
def Twin.dropAwaited (w : Twin) : Twin := { w with fpq := w.fpq.filter (·.v.isSome) }

/-- Each thread of a pair folds the values that have come (R376). -/
def Thread.foldReady (t : Thread) : Thread :=
  { t with fp := foldQueue t.fp t.fpq, fpq := t.fpq.dropWhile (·.v.isSome),
           twin := t.twin.map fun w => { w with fp := foldQueue w.fp w.fpq, fpq := w.fpq.dropWhile (·.v.isSome) } }

/-- A copy that the thread started in its region is cancelled (R374). -/
def Copy.cancelFor (t : Thread) (c : Copy) : Copy := if c.t == t.ref && c.inrgn then { c with cancelled := true } else c

namespace State
variable (s : State)

/-- AGENT of the record of a consumption: the fabric for a failed remote access (R400), else the mill. -/
def agentOf (p : Poison) : Nat := if 0x070 ≤ p.cause && p.cause ≤ 0x074 then 9 else 0

/-- The end of a thread that consumed uncorrectable data outside a region, or restarted its region too often (R374). -/
def consumeEnd (t : Thread) (cause : Nat) (p : Poison) (va pa : Word) (by_ : Option (Nat × Word) := none) : State :=
  (s.record { State.recOf t 3 2 cause with agent := (by_.map (·.1)).getD (agentOf p), pc := (by_.map (·.2)).getD t.pc, va := va, pa := pa,
                                           detail := wd (p.cause * 2 ^ 48 + p.detail % 2 ^ 48), restarts := t.restarts }).endThread
    { t with mirrFail := none }

/-- Cancels the commands that the thread issued in its region and whose end it has not seen: they end with CANCELLED at their
engine's next event (R374, R158). -/
def cancelRegion (t : Thread) : State :=
  let s := s.onUnit t.unit fun u =>
    { u with cmds := u.cmds.map fun c => if c.t == t.ref && c.inrgn then { c with cancelled := true } else c,
             chans := u.chans.map fun e => (e.1, { e.2 with cur := e.2.cur.map (Copy.cancelFor t), queue := e.2.queue.map (Copy.cancelFor t) }) }
  (s.unit t.unit).cmds.foldl (fun s c =>
    if c.t == t.ref && c.inrgn && c.cancelled then s.sched 0 rankLate (.engineFault t.unit c.id) else s) s

/-- The frame to which a restart has slid back lies spilled at SPILLP: it is filled as a RET fills, once nothing holds the loads (R62,
R374). -/
def refill (t : Thread) : State :=
  match s.frameStall t t.spillp.toNat false with
  | some w => s.park { t with after := .refill } w
  | none =>
    let r := s.fill t t.spillp.toNat
    r.1.park { r.2 with after := .go } (.fill (s.now + 12) false)

/-- A region restart (R374): buffered results discarded, commands cancelled, SKIPC cleared, the window slid back to RGNWD where DEPTH exceeds
it, and PC ← RGNPC. -/
def regionRestart (t : Thread) (p : Poison) (va pa : Word) (by_ : Option (Nat × Word) := none) : State :=
  let n := t.depth - t.rgnwd.toNat
  let d := min t.depth t.rgnwd.toNat
  let t := { t with rb := [], skipc := 0, restarts := t.restarts + 1, mirrFail := none, flushing := [], after := .go, fpq := t.fpq.filter (·.v.isSome),
                    twin := t.twin.map Twin.dropAwaited }.foldReady
  let s := (s.cancelRegion t).record
    { State.recOf t 2 2 p.cause with agent := (by_.map (·.1)).getD (agentOf p), pc := (by_.map (·.2)).getD t.pc, va := va, pa := pa,
                                     detail := wd p.detail, restarts := t.restarts }
  let fin (t : Thread) : Thread :=
    { t with depth := d, pc := t.rgnpc, st := .ready, fetched := [], eligRound := max t.eligRound (s.round + 1), psn := clearAbove t.psn d,
             twin := t.twin.map (·.below d) }
  if n < t.res then s.setThread (fin { t with frames := t.frames.drop n })
  else
    let back := 128 * (n - t.res + 1)
    if back ≤ t.spillp.toNat && t.spillp.toNat - back + 128 ≤ s.s1Bytes t.ltag then
      s.refill (fin { t with frames := [Frame.zero], spillp := wd (t.spillp.toNat - back) })
    else s.winexh t t.pc

/-- A thread consumes uncorrectable data: a restart inside a region, up to three of one entry, else its end (R374). `by_`: the AGENT of the
engine that read it for a command of the thread, and the PC of the command's issue (R372). A restart consumes RGNPC and RGNWD: one with a parity
error leaves no point to restart from, and the thread ends with NOREGION naming MILLPAR (DESIGN CHOICE, log entry 84). -/
def consume (t : Thread) (p : Poison) (va pa : Word := 0) (by_ : Option (Nat × Word) := none) : State :=
  if t.inrgn && (t.par.contains (.special 0x0F) || t.par.contains (.special 0x10)) then s.consumeEnd t 0x201 ⟨0x044, 0⟩ 0 0
  else if t.inrgn then
    if t.restarts < 3 then s.regionRestart t p va pa by_ else s.consumeEnd { t with restarts := t.restarts + 1 } 0x200 p va pa by_
  else s.consumeEnd t 0x201 p va pa by_

/-- A handler that exits frees its join frame (R188). -/
def freeJoinFrame (t : Thread) : State :=
  match t.frame with
  | some f => s.onCrew t.ltag t.unit fun c => { c with busy := c.busy.filter (· != f) }
  | none => s

/-- The parity error of a register that trap entry uses: TRAPVEC, and SPILLP where it spills (R394, R315, R64). -/
def entryPsn (t : Thread) : Option Poison := (t.parity (.special 0x0A)).or (if t.res = 12 then t.parity (.special 0x06) else none)

/-- The thread, whose results have all returned, commits and goes on with what follows the commit (R44, R45, R299). -/
def settle (t : Thread) : State :=
  let r := commitAll t
  match r.2 with
  | some c => s.consume { r.1 with mirrFail := none } c.p c.va c.pa
  | none =>
    match t.after with
    | .refill => s.refill r.1
    | .go => s.setThread { r.1 with st := .ready, eligRound := max r.1.eligRound (s.round + 1) }
    | .trap q => (match entryPsn r.1 with
      | some p => s.consume { r.1 with after := .go } p
      | none => s.trapEntry r.1 q)
    | .exit => (s.freeJoinFrame r.1).endThread r.1
    | .halt => s.setThread { r.1 with st := .halted, after := .go, haltReq := false, held := none }

/-- A switch point (R44): with nothing outstanding it costs nothing; else the thread parks. -/
def switchPoint (t : Thread) : State := if t.complete then s.settle t else s.park t .switch

/-- Takes a trap once the results of the earlier instructions are committed (R45). -/
def raise (t : Thread) (r : TrapReq) : State := s.switchPoint { t with after := .trap r }

/-- A fault of the instruction at PC. -/
def fault (t : Thread) (info va : Word) : State := s.raise t ⟨info, va, t.pc⟩
/-- The illegal-instruction trap (R382). -/
def illegal (t : Thread) (sub word : Nat) : State := s.fault t (infoOf 1 sub 0 word) 0

end State

/-! ## The shape of an instruction's meaning -/

/-- Acts on the issuing thread. -/
def onCur (s : State) (f : Thread → State) : Host.Outcome State Fault Refusal :=
  match s.curThread? with
  | some t => .next (f t)
  | none => .fault .noThread

/-- An event: always a next state. -/
def event (s : State) : Host.Outcome State Fault Refusal := .next s

/-- The register results of the instruction that is completing, which its return-buffer entry will bring. -/
def Thread.newFolds (t : Thread) : List FoldVal :=
  (t.rb.filter fun e => t.fpSeen ≤ e.id).flatMap fun e => e.dests.zipIdx.map fun d => ⟨e.id, d.2, (e.vals.bind (·[d.2]?)).map (·.v)⟩

/-- A value that is awaited from a return-buffer entry has come (R376). -/
def FoldVal.fill (id : Nat) (vals : List Val) (f : FoldVal) : FoldVal :=
  if f.v.isNone && f.id == id then { f with v := some (vals.getD f.idx ⟨0, none⟩).v } else f

def Twin.fill (id : Nat) (vals : List Val) (w : Twin) : Twin := { w with fpq := w.fpq.map (FoldVal.fill id vals) }

/-- Values of a return-buffer entry are there to be folded by both threads, to which each result is delivered (R320, R376). -/
def Thread.foldResult (t : Thread) (id : Nat) (vals : List Val) : Thread :=
  { t with fpq := t.fpq.map (FoldVal.fill id vals), twin := t.twin.map (Twin.fill id vals) }.foldReady

/-- The instruction completes: PC goes to the next instruction, and a paired thread folds the values it produced: its register result, which may
still be on its way, then the address and the data of a store (R239, R376). -/
def Thread.retire (t : Thread) (next : Word) (vs : List Word) (upset : Word) : Thread :=
  let t := { t with pc := next, fetched := [], exchanged := false }
  match t.twin with
  | none => t
  | some w =>
    let new := t.newFolds ++ vs.map fun v => ({ id := 0, idx := 0, v := some v } : FoldVal)
    { t with fpq := t.fpq ++ new, fpSeen := t.nextId, retired := t.retired + 1, twin := some { w with fp := w.fp ^^^ upset, fpq := w.fpq ++ new } }.foldReady

/-- The thread with a new return-buffer entry for the registers. -/
def Thread.take (t : Thread) (dests : List Operand) (vals : Option (List Val)) (remote : Bool) (va pa : Word := 0) : Thread :=
  { t with rb := t.rb ++ [{ id := t.nextId, dests := dests, dead := [], vals := vals, remote := remote, pc := t.pc, va := va, pa := pa }],
           nextId := t.nextId + 1 }

namespace State
variable (s : State)

/-- Completes the instruction, PC going to `next`, with switch marker `sm` (R44). -/
def doneAt (t : Thread) (next : Word) (sm : Bool) (vs : List Word) : State :=
  let up := if t.twin.isSome then Config.twinUpset s.free else 0
  let s := if t.twin.isSome then { s with free := s.free + 1 } else s
  let t := t.retire next vs up
  if sm then s.switchPoint t else s.setThread t

/-- Completes the instruction of `words` words (R239). -/
def done (t : Thread) (words : Nat) (sm : Bool) (vs : List Word) : State := s.doneAt t (t.pc + wd (4 * words)) sm vs

/-- An ALU-class instruction (R65). -/
def aluDone (t : Thread) (words : Nat) (sm : Bool) (d : Operand) (v : Word) : State := s.done (t.alu d v) words sm [v]

/-- Ends an idempotent region (R375). -/
def endRegion (t : Thread) : Thread := { t with inrgn := false, restarts := 0 }

/-- A long-class instruction takes a return-buffer entry; with eight held, a switch point comes first (R42, R44). -/
def withEntry (t : Thread) (k : Nat → State) : State :=
  if t.rb.length = 8 then s.switchPoint t else k t.nextId

/-- A long-class instruction whose value is known at issue and returns `delay` cycles later (R41, R42). -/
def longDone (t : Thread) (words : Nat) (sm : Bool) (d : Operand) (v : Val) (delay : Nat) : State :=
  s.withEntry t fun id =>
    (s.sched delay rankLate (.resultReturn t.ref id [v])).done (t.take [d] none false) words sm []

/-- Parks both threads of a pair for the 8 cycles of an exchange of fingerprints (R376). -/
def exchange (t : Thread) : State := (s.park t (.event false)).sched 8 rankLate (.fingerprintExchange t.ref)

end State

end Sys2Proof.Machine
end

