-- ==== Sys2Proof/Machine/Operands.lean ====
section
/-! DEFINITION. Operand forms: immediates, the SY value, offsets, and which registers an instruction reads (R57, R240, R241, R264). -/

namespace Sys2Proof.Machine

/-- imm8 of an RRI instruction, signed (R268). -/
def imm8 (i : BitVec 8) : Word := i.signExtend 64
/-- The SY value: A plus the zero-extended imm8 (R240, R292). -/
def syVal (t : Thread) (i : BitVec 8) (a : Operand) : Word := t.rd a + i.setWidth 64
/-- The scaled offset of a one-word M-format instruction (R241). -/
def imm4 (i : BitVec 4) (size : Nat) : Word := i.signExtend 64 * wd size
/-- Bytes of an access from SZ (R240). -/
def szBytes (sz : BitVec 2) : Nat := 2 ^ sz.toNat
/-- A PC-relative target (R249). -/
def relTarget (pc : Word) {n : Nat} (off : BitVec n) : Word := pc + off.signExtend 64 * 4
/-- The second operand of CMP (R271). -/
def cmpVal (t : Thread) : CmpSrc → Word
  | .reg b => t.rd b
  | .imm v => v.signExtend 64

/-- Registers that an instruction reads by its operand fields (R264), beside those of `carried`. -/
def sources : Instr → List Operand
  | .add _ _ a b | .sub _ _ a b | .mul _ _ a b | .mulh _ _ _ a b | .div _ _ _ a b | .rem _ _ _ a b | .and _ _ a b
  | .or _ _ a b | .xor _ _ a b | .andn _ _ a b | .shl _ _ a b | .shr _ _ _ a b | .rot _ _ a b | .min _ _ _ a b
  | .max _ _ _ a b | .lea _ _ _ a b | .fcmp _ _ _ _ a b | .fadd _ _ _ a b | .faddExt _ _ _ _ a b | .fsub _ _ _ a b
  | .fsubExt _ _ _ _ a b | .fmul _ _ _ a b | .fmulExt _ _ _ _ a b | .fdiv _ _ _ a b | .fdivExt _ _ _ _ a b
  | .fmin _ _ _ a b | .fminExt _ _ _ _ a b | .fmax _ _ _ a b | .fmaxExt _ _ _ _ a b
  | .aadd _ _ _ a b | .aand _ _ _ a b | .aor _ _ _ a b | .axor _ _ _ a b | .amin _ _ _ a b | .amax _ _ _ a b
  | .axchg _ _ _ a b | .afadd _ _ _ a b | .capx _ a b | .barinit _ _ a b | .portcfg _ _ a b => [a, b]
  | .clz _ _ a | .ctz _ _ a | .popc _ _ a | .brev _ _ a | .sext _ _ _ a | .zext _ _ _ a | .addi _ _ _ a
  | .addiLit _ _ _ a | .muli _ _ _ a | .muliLit _ _ _ a | .andi _ _ _ a | .andiLit _ _ _ a | .ori _ _ _ a
  | .oriLit _ _ _ a | .xori _ _ _ a | .xoriLit _ _ _ a | .shli _ _ _ a | .shri _ _ _ _ a | .roti _ _ _ a
  | .mini _ _ _ a | .miniLit _ _ _ a | .maxi _ _ _ a | .maxiLit _ _ _ a | .bfx _ _ _ _ a | .mov _ _ a | .pfr _ _ a
  | .cmpLit _ _ _ a _ | .jmp _ a | .callr _ a | .fsqrt _ _ _ a | .fsqrtExt _ _ _ _ a | .fcvt _ _ _ _ _ _ a
  | .fclass _ _ _ a | .ld _ _ _ _ _ _ a | .ldLit _ _ _ _ _ _ a | .st _ _ _ _ _ a | .stLit _ _ _ _ _ a
  | .ldbd _ _ _ a | .ldbdLit _ _ _ a | .stbd _ _ _ a | .stbdLit _ _ _ a | .flushr _ a | .stq _ _ _ a
  | .stqLit _ _ _ a | .salloc _ _ _ a | .sfree _ a | .append _ _ _ a _ | .spawn _ _ _ _ _ _ _ a _ | .setpri _ _ a | .wait _ _ _ a
      | .post _ _ _ a | .semset _ _ _ a | .bararr _ _ a
  | .barwait _ _ a | .patclr _ _ a | .mts _ _ a => [a]
  | .cmp _ _ _ a (.reg b) => [a, b]
  | .cmp _ _ _ a (.imm _) => [a]
  | .bfi _ _ _ d a => [a, d]
  | .loop _ _ d => [d]
  | .spawnrLit _ n _ _ _ a b => a :: Thread.run b n.toNat
  | .ffma _ _ _ _ a b c | .acas _ _ _ a b c | .patset _ _ a b c => [a, b, c]
  | .patsetLit _ _ _ a c => [a, c]
  | .spawnr _ n _ _ a b c => a :: c :: Thread.run b n.toNat
  | .tmv e => [e.d, e.a, e.c, e.n]
  | .cxtpl e | .cxgo e => [e.a]
  | .cxwm e => [e.a, e.b]
  | .vadd e | .vsub e | .vmul e | .vfma e | .vmin e | .vmax e | .vabs e | .vneg e | .vrcp e | .vrsq e | .vexp2 e
  | .vlog2 e | .vlut e | .vcmp e | .vsel e | .vcvt e | .vscale e | .vred e | .vscan e | .vtopk e | .vgath e
  | .vscat e | .vfill e | .viota e | .vpack e | .vunpk e | .mma e | .mmas e => [e.d, e.a, e.b, e.c, e.n]
  | .mald e | .mast e => [e.d, e.a, e.c]
  | _ => []

/-- Registers whose values an instruction carries on with their poison: the data of a store, the payload of a message, the
arguments of a SPAWN (R402; log entry 9). -/
def carried : Instr → List Operand
  | .st _ _ _ _ d _ | .stLit _ _ _ _ d _ | .stbd _ _ d _ | .stbdLit _ _ d _ => [d]
  | .append _ n _ _ b => Thread.run b (n.toNat + 1)
  | .spawn _ n _ _ _ _ _ _ b | .spawnLit _ n _ _ _ _ _ _ b => Thread.run b n.toNat
  | _ => []

/-- A main-file register other than k0: it is read from the vault (R57, R264). -/
def fromVault : Operand → Bool
  | .main i => i != 0
  | _ => false

/-- The instruction reads a main-file source, and so occupies its thread for two rounds (R57). -/
def readsVault (i : Instr) : Bool := (sources i ++ carried i).any fromVault

/-- The name under which parity is kept for a register: SEM0 to SEM7 are the semaphores (R69). -/
def canonReg : DebugReg → DebugReg
  | .special n => if 0x18 ≤ n.toNat && n.toNat ≤ 0x1F then .sem (n.setWidth 3) else .special n
  | r => r

/-- Queue, semaphore and special registers whose values an instruction uses (R394): that which it names or waits on, the window state and the
spill area of a CALL, RET or ERET (R60 to R62), what ERET returns from, and what rounds stochastically (R84). -/
def namedRegs (t : Thread) : Instr → List DebugReg
  | .mfs _ n _ => [canonReg (.special n)]
  | .qmov _ q _ => [.q q]
  | .wait _ i _ _ => [.sem i]
  | .barwait _ i _ => [.sem i]
  | .call .. | .callr .. => .special 0x05 :: if t.res = 12 then [.special 0x06, .special 0x07] else []
  | .ret .. => .special 0x05 :: (if t.res = 1 then [.special 0x06] else []) ++ if t.inrgn then [.special 0x10] else []
  | .eret .. => .special 0x05 :: (if t.res = 1 then [.special 0x06] else []) ++ [.special 0x0B, .special 0x0D, .special 0x0E]
  | .mma e | .mmas e | .vred e | .vcvt e | .vadd e | .vsub e | .vmul e | .vfma e => if e.rm = 5 then [.operand (.opf 7)] else []
  | _ => []

/-- Registers that an instruction reads without naming them: l7 of a RET, and the arguments of SYSC that its code takes (R273, R317). -/
def impliedRegs : Instr → List Operand
  | .ret _ => [.main 23]
  | .sysc _ c => if c = 1 then [.main 8, .main 9, .main 10, .main 11] else if c = 2 || c = 3 then [.main 8] else []
  | _ => []

/-- The poison of such registers. -/
def namedPsn (t : Thread) (i : Instr) : Option Poison := ((namedRegs t i).findSome? t.parity).or ((impliedRegs i).findSome? t.psnOf)

/-- Poison that an instruction consumes as it reads its registers (R374, R394, R395; log entry 9). -/
def sourcePsn (t : Thread) (i : Instr) : Option Poison := ((sources i).findSome? t.psnOf).or (namedPsn t i)

end Sys2Proof.Machine
end

