-- ==== Sys2Proof/Machine/Alu.lean ====
section
/-! DEFINITION. Integer register forms (R266, R267). -/

namespace Sys2Proof.Machine

/-- ADD (R266): a + b. -/
def execAdd (sm : Bool) (d a b : Operand) (s : State) : Host.Outcome State Fault Refusal :=
  onCur s fun t => s.aluDone t 1 sm d (t.rd a + t.rd b)

/-- SUB (R266): a − b. -/
def execSub (sm : Bool) (d a b : Operand) (s : State) : Host.Outcome State Fault Refusal :=
  onCur s fun t => s.aluDone t 1 sm d (t.rd a - t.rd b)

/-- MUL (R266): bits 63:0 of the product. -/
def execMul (sm : Bool) (d a b : Operand) (s : State) : Host.Outcome State Fault Refusal :=
  onCur s fun t => s.aluDone t 1 sm d (t.rd a * t.rd b)

/-- MULH (R266): bits 127:64 of the product; X unsigned. -/
def execMulh (sm x : Bool) (d a b : Operand) (s : State) : Host.Outcome State Fault Refusal :=
  onCur s fun t => s.aluDone t 1 sm d (mulHigh x (t.rd a) (t.rd b))

/-- DIV (R266): the quotient, long class, after 24 cycles; X unsigned. -/
def execDiv (sm x : Bool) (d a b : Operand) (s : State) : Host.Outcome State Fault Refusal :=
  onCur s fun t => s.longDone t 1 sm d ⟨divide x (t.rd a) (t.rd b), none⟩ 24

/-- REM (R266): a − b × quotient, long class, after 24 cycles; X unsigned. -/
def execRem (sm x : Bool) (d a b : Operand) (s : State) : Host.Outcome State Fault Refusal :=
  onCur s fun t => s.longDone t 1 sm d ⟨remainder x (t.rd a) (t.rd b), none⟩ 24

/-- AND (R266). -/
def execAnd (sm : Bool) (d a b : Operand) (s : State) : Host.Outcome State Fault Refusal :=
  onCur s fun t => s.aluDone t 1 sm d (t.rd a &&& t.rd b)

/-- OR (R266). -/
def execOr (sm : Bool) (d a b : Operand) (s : State) : Host.Outcome State Fault Refusal :=
  onCur s fun t => s.aluDone t 1 sm d (t.rd a ||| t.rd b)

/-- XOR (R266). -/
def execXor (sm : Bool) (d a b : Operand) (s : State) : Host.Outcome State Fault Refusal :=
  onCur s fun t => s.aluDone t 1 sm d (t.rd a ^^^ t.rd b)

/-- ANDN (R266): a and not b. -/
def execAndn (sm : Bool) (d a b : Operand) (s : State) : Host.Outcome State Fault Refusal :=
  onCur s fun t => s.aluDone t 1 sm d (t.rd a &&& ~~~(t.rd b))

/-- SHL (R266): a << (b mod 64). -/
def execShl (sm : Bool) (d a b : Operand) (s : State) : Host.Outcome State Fault Refusal :=
  onCur s fun t => s.aluDone t 1 sm d (shiftLeft (t.rd a) (t.rd b))

/-- SHR (R266): a >> (b mod 64); X arithmetic. -/
def execShr (sm x : Bool) (d a b : Operand) (s : State) : Host.Outcome State Fault Refusal :=
  onCur s fun t => s.aluDone t 1 sm d (shiftRight x (t.rd a) (t.rd b))

/-- ROT (R266): a rotated left by b mod 64. -/
def execRot (sm : Bool) (d a b : Operand) (s : State) : Host.Outcome State Fault Refusal :=
  onCur s fun t => s.aluDone t 1 sm d (rotate (t.rd a) (t.rd b))

/-- MIN (R266); X unsigned. -/
def execMin (sm x : Bool) (d a b : Operand) (s : State) : Host.Outcome State Fault Refusal :=
  onCur s fun t => s.aluDone t 1 sm d (minOf x (t.rd a) (t.rd b))

/-- MAX (R266); X unsigned. -/
def execMax (sm x : Bool) (d a b : Operand) (s : State) : Host.Outcome State Fault Refusal :=
  onCur s fun t => s.aluDone t 1 sm d (maxOf x (t.rd a) (t.rd b))

/-- CLZ (R267): leading zero bits. -/
def execClz (sm : Bool) (d a : Operand) (s : State) : Host.Outcome State Fault Refusal :=
  onCur s fun t => s.aluDone t 1 sm d (leadingZeros (t.rd a))

/-- CTZ (R267): trailing zero bits. -/
def execCtz (sm : Bool) (d a : Operand) (s : State) : Host.Outcome State Fault Refusal :=
  onCur s fun t => s.aluDone t 1 sm d (trailingZeros (t.rd a))

/-- POPC (R267): set bits. -/
def execPopc (sm : Bool) (d a : Operand) (s : State) : Host.Outcome State Fault Refusal :=
  onCur s fun t => s.aluDone t 1 sm d (popCount (t.rd a))

/-- BREV (R267): bit i moved to bit 63 − i. -/
def execBrev (sm : Bool) (d a : Operand) (s : State) : Host.Outcome State Fault Refusal :=
  onCur s fun t => s.aluDone t 1 sm d (reverseBits (t.rd a))

/-- SEXT (R267): bits w−1:0, sign-extended. -/
def execSext (sm : Bool) (w : BitVec 2) (d a : Operand) (s : State) : Host.Outcome State Fault Refusal :=
  onCur s fun t => s.aluDone t 1 sm d (signExtend (extWidth w) (t.rd a))

/-- ZEXT (R267): bits w−1:0, zero-extended. -/
def execZext (sm : Bool) (w : BitVec 2) (d a : Operand) (s : State) : Host.Outcome State Fault Refusal :=
  onCur s fun t => s.aluDone t 1 sm d (zeroExtend (extWidth w) (t.rd a))

end Sys2Proof.Machine
end

