-- ==== Sys2Proof/Machine/Trans.lean ====
section
/-! DEFINITION. Addresses: the regions (R102 to R107), translation and rights (R117 to R125), the checks of an access in their
order (R278), and what may park one that passes. -/

namespace Sys2Proof.Machine

/-- Bytes of a page of a KIND; zero for a node or a reserved one (R123). -/
def kindSize : Nat → Nat
  | 0 => 2 ^ 12
  | 1 => 2 ^ 16
  | 2 => 2 ^ 21
  | 3 => 2 ^ 25
  | 4 => 2 ^ 28
  | 5 => 2 ^ 30
  | _ => 0

end Sys2Proof.Machine

namespace Sys2Proof.Packet
open Sys2Proof.Machine

/-! ## The fields of residency packets (R207) -/

def dw (p : Packet) (i : Nat) : Word := p.payload.getD i 0
def resOp (p : Packet) : Nat := bits (p.dw 0) 60 4
def resDev (p : Packet) : Nat := bits (p.dw 0) 48 12
def resSize (p : Packet) : Nat := kindSize (bits (p.dw 0) 1 3)
def resVa (p : Packet) : Nat := (p.dw 1).toNat
def resPa (p : Packet) : Nat := bits (p.dw 2) 12 40 * 4096

/-- A residency message that is itself an answer (R129, R132): an acknowledgement, DONE, MOVED, and a MAPPED by the device that it names. -/
def resAnswer (p : Packet) : Bool := p.resOp == 3 || p.resOp == 4 || p.resOp == 5 || (p.resOp == 10 && p.resDev == p.src)

/-- OP of the answer to a residency request (R129, R132; log entry 23). -/
def resReply (p : Packet) : Nat :=
  match p.resOp with
  | 1 => 5
  | 2 | 10 => 3
  | _ => 10

end Sys2Proof.Packet

namespace Sys2Proof.Machine

/-- The event of a residency packet (R207). -/
def resEvent : Nat → Option Instr
  | 1 => some .resCollapse
  | 2 => some .resInval
  | 3 => some .resAck
  | 4 => some .resDone
  | 5 => some .resMoved
  | 6 => some .resDup
  | 7 => some .resMigrate
  | 8 => some .resCollapseCommand
  | 9 => some .resSplit
  | 10 => some .resMapped
  | _ => none

/-! ## The local physical map (R106) -/

inductive Space where
  | hbm
  | s3 (st : Nat)
  | s2 (c : Nat)
  | s1 (u : Nat)
  | regs
  | hole
  deriving DecidableEq, Repr

namespace State
variable (s : State)

/-- What lies at a local physical address; the S1 window of an absent unit is a hole (R106). -/
def space (pa : Nat) : Space :=
  if pa < 2 ^ 39 then .hbm
  else if 0xC000000000 ≤ pa && pa < 0xC400000000 then
    if pa % 2 ^ 32 < 2 ^ 27 then .s3 ((pa - 0xC000000000) / 2 ^ 32) else .hole
  else if 0xD000000000 ≤ pa && pa < 0xD200000000 then
    if pa % 2 ^ 28 < 2 ^ 24 then .s2 ((pa - 0xD000000000) / 2 ^ 28) else .hole
  else if 0xE000000000 ≤ pa && pa < 0xE080000000 then
    let u := (pa - 0xE000000000) / 2 ^ 24
    if pa % 2 ^ 24 < 2 ^ 21 && s.present u then .s1 u else .hole
  else if 0xF000000000 ≤ pa && pa < 2 ^ 40 then .regs
  else .hole

/-- The pseudo-channel of an HBM address (R110). -/
def channel (pa : Nat) : Nat :=
  let g := pa / 2 ^ 30
  let q := g % 128
  let j := g / 128
  let o := pa % 2 ^ 30
  let local_ := if q < 64 then s.trans.hbmplace0.getLsbD q else s.trans.hbmplace1.getLsbD (q - 64)
  if local_ then 128 * j + ((o / 2 ^ 8 % 2 ^ 7) ^^^ (o / 2 ^ 15 % 2 ^ 7)) else (o / 2 ^ 8 % 2 ^ 9) ^^^ (o / 2 ^ 17 % 2 ^ 9)

/-- A lane test holds the queue of the pseudo-channel of an HBM address (R398). -/
def chanHeld (pa : Nat) : Bool :=
  (nget s.pkg.hbmLogs (s.channel pa / 64) { arr := [], xfer := [], testing := [], alogn := 0, tlogn := 0, lanemap := [] }).testing.contains
    (s.channel pa % 64)

/-- The compute stack on which a local address lies: of its HBM channel (R110), its scratchpad, or its register block (R413). -/
def stackAt (pa : Nat) : Nat :=
  match s.space pa with
  | .hbm => s.channel pa / 128
  | .s3 st => st
  | .s2 c => c / 8
  | .s1 u => stackOf u
  | .regs =>
    let off := pa - 0xF000000000
    if 0x20000 ≤ off && off < 0x30000 then (off - 0x20000) / 0x1000 % 4
    else if 0x200000 ≤ off && off < 0x300000 then (off - 0x200000) / 0x10000 / 4
    else if 0x31000 ≤ off && off < 0x39000 then (off - 0x31000) / 0x1000 / 2
    else 0
  | .hole => 0

/-- Cycles from issue to acceptance for a thread of the unit (R413). -/
def acceptAfter (u pa : Nat) : Nat :=
  let far := if s.stackAt pa = stackOf u then 0 else 45
  far + match s.space pa with
    | .s1 v => if v = u then 4 else 20
    | .s2 c => if c = clusterOf u then 16 else 24
    | .s3 _ => 48
    | _ => 40

/-- Cycles from issue to return of a load by a thread of the unit (R108, R112; a register as log entry 10 gives). -/
def returnAfter (u pa : Nat) : Nat :=
  let far := s.stackAt pa != stackOf u
  match s.space pa with
  | .s1 v => if v = u then 12 else if far then 138 else 48
  | .s2 c => if c = clusterOf u then 40 else if far then 146 else 56
  | .s3 _ => if far then 200 else 110
  | .hbm =>
    let q := pa / 2 ^ 30 % 128
    let local_ := if q < 64 then s.trans.hbmplace0.getLsbD q else s.trans.hbmplace1.getLsbD (q - 64)
    if local_ then (if far then 780 else 620) else 700
  | _ => s.acceptAfter u pa + 40

/-- The load latency of a level as its own unit sees it (R108, R307, R308). -/
def levelLatency (lvl : Nat) : Nat := if lvl = 1 then 12 else if lvl = 2 then 40 else 110

/-- The block of the register space, in the list of R232, in which an offset lies. -/
def regBlock (off : Nat) : Nat :=
  if off < 0x50000 then off / 0x10000
  else if off < 0x200000 then 5
  else if off < 0x300000 then 6
  else if off < 0x800000 then 7
  else if off < 0x1000000 then 8 else 9

/-- The bank, pseudo-channel or register block that accepts an access (R108, R109, R413): each accepts one in a cycle. -/
def bankOf (pa : Nat) : Nat :=
  match s.space pa with
  | .hbm => s.channel pa
  | .s1 u => 1000 + u * 64 + pa / 64 % 64
  | .s2 c => 20000 + c * 32 + pa / 64 % 32
  | .s3 st => 30000 + st * 128 + pa / 64 % 128
  | _ => 40000 + regBlock (pa - 0xF000000000)

/-! ### Acceptance at the banks (R109) -/

/-- A cycle of a bank that is an engine's: a stream of one has waited for it since the cycle before, while it accepted three thread accesses
in a row. -/
def engTurn (b : Nat) : Bool := s.engWaits.any (fun w => w.1 == b && w.2 + 1 == s.now) && 3 ≤ (mget s.streak b).getD 0

/-- The bank accepts an access of a thread in this cycle; the row of them that an engine stream has waited for grows. -/
def acceptThread (b : Nat) : State :=
  { s with busy := b :: s.busy,
           streak := if s.engWaits.any (·.1 == b) then mset s.streak b ((mget s.streak b).getD 0 + 1) else mdel s.streak b }

/-- The bank of an address is free in this cycle for an agent that is no thread. -/
def bankFree (pa : Nat) : Bool := !s.busy.contains (s.bankOf pa)

/-- The bank of an address has accepted an access of an agent that is no thread. -/
def takeBank (pa : Nat) : State := { s with busy := s.bankOf pa :: s.busy, streak := mdel s.streak (s.bankOf pa) }

/-- An engine stream waits for the bank of an address. -/
def engWaitsAt (pa : Nat) : State := { s with engWaits := (s.bankOf pa, s.now) :: s.engWaits }

/-- The rank at which an access that a bank has not accepted is tried again, in its order of arrival. -/
def rankAgain : Nat := 1

/-- An access that reached its bank before, and that waits there, meets an extent: an agent that reads or writes many blocks in one step lets it
go first (R109). `host`: writes of the host among them. -/
def waitsOn (ext : List (Nat × Nat)) (host : Bool := true) : Bool :=
  s.agenda.any fun e => e.rank == rankAgain && match e.ev.op, e.ev.pkt with
    | .bankAccept a, _ => extMeets ext [(a.pa, a.size)]
    | .hostBar2Write off data, _ => host && extMeets ext [(s.trans.hwinbase.toNat + off, data.length)]
    | _, some p => p.kind < 0x10 && extMeets ext [(p.addr, 64)]
    | _, none => false

end State

/-! ## Page tables (R122 to R124) -/

/-- Whether a level takes a KIND (R123). -/
def kindAt (lvl kind : Nat) : Bool :=
  if lvl ≤ 1 then kind == 6
  else if lvl = 2 then kind == 5 || kind == 6
  else if lvl = 3 then kind == 2 || kind == 3 || kind == 4 || kind == 6
  else kind == 0 || kind == 1

def entPa (e : Word) : Nat := bits e 12 40 * 4096
def entKind (e : Word) : Nat := bits e 1 3
def entRes (e : Word) : Nat := bits e 4 2
def entOwner (e : Word) : Nat := bits e 52 12

/-- A well-formed entry of a level on the device `dev` (R123). -/
def entOk (dev lvl : Nat) (e : Word) : Bool :=
  let k := entKind e
  e.getLsbD 0 && bits e 10 2 == 0 && kindAt lvl k && entRes e != 3 && (entRes e == 2 || entOwner e == 0) &&
  (k == 6 || entPa e % kindSize k == 0) &&
  (if k == 6 || entRes e != 1 then entPa e / 2 ^ 40 == dev else entPa e / 2 ^ 40 != dev)

/-- Walks from a node: the page's base VA, size, entry and the address of that entry; `none` at an invalid or malformed entry
(R122, R125). -/
def walkFrom (dev : Nat) (m : Memory) (va : Nat) : List Nat → Nat → Nat → Option (Nat × Nat × Word × Nat)
  | [], _, _ => none
  | sh :: r, lvl, node =>
    let at_ := node + 8 * (va / 2 ^ sh % 512)
    let e := leWord (rdBytes m at_ 8)
    if !entOk dev lvl e then none
    else if entKind e = 6 then walkFrom dev m va r (lvl + 1) (entPa e % 2 ^ 40)
    else
      let size := kindSize (entKind e)
      some (va / size * size, size, e, at_)

/-- The addresses of the entries that the same walk reads, one a level (R125). -/
def walkReads (dev : Nat) (m : Memory) (va : Nat) : List Nat → Nat → Nat → List Nat
  | [], _, _ => []
  | sh :: r, lvl, node =>
    let at_ := node + 8 * (va / 2 ^ sh % 512)
    let e := leWord (rdBytes m at_ 8)
    at_ :: if entOk dev lvl e && entKind e = 6 then walkReads dev m va r (lvl + 1) (entPa e % 2 ^ 40) else []

/-- The nodes that the same walk finds below the one it starts from, with their levels: the upper levels that it reads (R125). -/
def walkNodes (dev : Nat) (m : Memory) (va : Nat) : List Nat → Nat → Nat → List (Nat × Nat)
  | [], _, _ => []
  | sh :: r, lvl, node =>
    let e := leWord (rdBytes m (node + 8 * (va / 2 ^ sh % 512)) 8)
    if entOk dev lvl e && entKind e = 6 then (lvl + 1, entPa e % 2 ^ 40) :: walkNodes dev m va r (lvl + 1) (entPa e % 2 ^ 40) else []

/-- Address bits below the index of each level of a table (R122). -/
def walkShifts : List Nat := [48, 39, 30, 21, 12]
/-- Bytes that a node of level `lvl` covers. -/
def nodeSpan (lvl : Nat) : Nat := 2 ^ (walkShifts.getD (lvl - 1) 57)

namespace State
variable (s : State)

/-- The top node of a root. -/
def rootNode (root : Nat) : Nat := (nget s.trans.ptroot root 0).toNat / 4096 * 4096

/-- The page walk of a VA from a node of a level. A poisoned entry is malformed (DESIGN CHOICE: the manual says of no walk what it does with
one; log entry 13). -/
def walkAt (va lvl node : Nat) : Option (Nat × Nat × Word × Nat) :=
  if (walkReads s.devid s.mem va (walkShifts.drop lvl) lvl node).any fun a => (mget s.psn (a / 8)).isSome then none
  else walkFrom s.devid s.mem va (walkShifts.drop lvl) lvl node

/-- The page walk of a VA through a root (R122). -/
def walk (root va : Nat) : Option (Nat × Nat × Word × Nat) := s.walkAt va 0 (s.rootNode root)

/-- Where a walk of a cluster starts: at the lowest node over the VA that it has kept, else at the root's (R125). -/
def walkStart (cluster root va : Nat) : Nat × Nat :=
  ((s.trans.uppers.filter fun u => u.cluster == cluster && u.root == root && u.va ≤ va && va < u.va + nodeSpan u.lvl).map fun u =>
    (u.lvl, u.node)).foldl (fun b x => if b.1 < x.1 then x else b) (0, s.rootNode root)

/-- The entries that such a walk reads. -/
def walkEntries (cluster root va : Nat) : List Nat :=
  let x := s.walkStart cluster root va
  walkReads s.devid s.mem va (walkShifts.drop x.1) x.1 x.2

/-- The nodes that a walk of a cluster has read are kept (R125): how many, the manual does not say; DESIGN CHOICE, all, until an invalidation
covers them (log entry 13). -/
def keepUppers (cluster root va : Nat) : State :=
  let x := s.walkStart cluster root va
  let new := (walkNodes s.devid s.mem va (walkShifts.drop x.1) x.1 x.2).map fun n =>
    ({ cluster := cluster, root := root, va := va / nodeSpan n.1 * nodeSpan n.1, lvl := n.1, node := n.2 } : Upper)
  { s with trans := { s.trans with uppers := new ++ s.trans.uppers.filter fun u => !new.any fun n =>
      n.cluster == u.cluster && n.root == u.root && n.lvl == u.lvl && n.va == u.va } }

/-- The cached page entry of a cluster (R125). -/
def cached (cluster root va : Nat) : Option TlbEnt :=
  s.trans.tlb.find? fun e => e.cluster == cluster && e.root == root && e.va ≤ va && va < e.va + e.size

/-- A residency hold covers the address, whose entry names the held page (R129, R415). -/
def heldAt (e : TlbEnt) (va : Nat) : Bool :=
  s.trans.holds.any fun h => h.page ≤ va && va < h.page + h.pageSize && h.pa + e.va == entPa e.entry + h.page

/-- The same of the entry that a cluster has read through a root. -/
def held (cluster root va : Nat) : Bool :=
  match s.cached cluster root va with
  | some e => s.heldAt e va
  | none => false

end State

/-! ## Accesses -/

/-- Kinds of access, for rights and checks (R120, R278). -/
inductive AKind where
  | load
  | store
  | atomic (returning fadd : Bool)
  | ldbd
  | stbd
  | stq
  | fetch
  /-- An engine or copy read or write. -/
  | read
  | write
  deriving DecidableEq, Repr

def AKind.writes : AKind → Bool
  | .store | .atomic .. | .stbd | .stq | .write => true
  | _ => false

/-- Where an access goes: this device, another, or the start of a copy channel; with the range entry that mapped it. -/
inductive Place where
  | here (pa : Nat)
  | there (dev pa : Nat)
  | chan (c : Nat)
  deriving DecidableEq, Repr

inductive Chk where
  | ok (p : Place) (r : Option RangeEnt)
  | bad (info va : Word)
  | wait (w : WaitFor)
  deriving DecidableEq, Repr

/-- The offsets of the register space that the BAR 0 map lists (R232). -/
def regListed (off : Nat) : Bool :=
  off < 0x50000 || (0x100000 ≤ off && off < 0x110000) || (0x200000 ≤ off && off < 0x310000) ||
  (0x800000 ≤ off && off < 0xA00000) || (0x1000000 ≤ off && off < 0x2000000)

/-- The registers that a crew-level thread may read (R232). -/
def crewVisible (off : Nat) : Bool := [0x00, 0x08, 0x20, 0x28, 0x30, 0x38].contains (off / 8 * 8)

/-- The rights of an access (R120): read, write, execute, atomic as the entry gives them. -/
def rightsOk (k : AKind) (rd w x a : Bool) : Bool :=
  match k with
  | .load | .ldbd | .read => rd
  | .store | .stbd | .stq | .write => w
  | .atomic .. => a && w
  | .fetch => x

/-- An access that reaches the register space (R278, R279, R414): a hole first; then, for an access of a crew-level thread, the privilege
trap where the register is not visible to it, and the visible ones only to be read; then the kinds: plain loads and stores of 4 or 8 bytes.
An engine's operand there is an address fault at either level. -/
def regCheck (t : Thread) (k : AKind) (n : Nat) (rx : Bool) (va : Word) (off : Nat) (r : Option RangeEnt) : Chk :=
  if !regListed off then .bad (infoVa 3 va (k == .fetch) 0) va
  else if !t.svc && !(k == .read || k == .write) && !(crewVisible off && k != .store) then .bad (infoVa 2 va (k == .fetch) 0) va
  else if (k == .load || k == .store) && !rx && (n == 4 || n == 8) && off % n == 0 then .ok (.here (0xF000000000 + off)) r
  else .bad (infoVa 3 va (k == .fetch) 0) va

/-- A launch with nothing in it. -/
def Launch.empty : Launch :=
  { ltag := 0, port := 0, det := false, svc := false, prio := 0, gcount := 0, gsize := 0, quota := 0, init := 0, pc := 0, arg := 0,
    errp := 0, s1sz := 0, s2sz := 0, s3sz := 0, seed := 0, vec := 0, vecen := false, ranges := [], windows := [], trig := false,
    tstart := none, s2 := [], s3 := [], sweep := none, posted := [], flushTags := [], ending := none }

namespace State
variable (s : State)

/-- The launch of a thread; a thread of no launch has an empty one. -/
def launchOf (t : Thread) : Launch := (s.launch? t.ltag).getD Launch.empty

/-- The rules of a DET launch on an access that a range entry maps (R133, R134, R288). R134 names a load, which a fetch is as well (R416), an
atomic or an engine read from a PROF range; whether LDBD, which reads a descriptor, is such a load it does not say: DESIGN CHOICE, it is none
(log entry 69). -/
def detCheck (t : Thread) (l : Launch) (k : AKind) (va : Word) (r : Option RangeEnt) : Option Word :=
  if !t.det then none
  else
    let inWin := l.windows.any fun w => w.1 ≤ va.toNat && va.toNat < w.2
    let capBad := match r with
      | some e => k.writes && !e.anyw && e.writer != writerId l t
      | none => false
    let prof := match r with | some e => e.prof | none => false
    let detBad := match k with
      | .stq => !prof
      | .load | .read | .fetch => prof
      | .atomic ret fadd => prof || fadd || (ret && inWin)
      | _ => false
    if capBad then some (infoVa 6 va false 0) else if detBad then some (infoVa 7 va (k == .fetch) 0) else none

/-- A local physical address reached through translation or region 0x4: holes, registers, READY (R106, R226, R414). -/
def localCheck (t : Thread) (k : AKind) (n : Nat) (rx : Bool) (va : Word) (pa : Nat) (r : Option RangeEnt) : Chk :=
  match s.space pa with
  | .hole => .bad (infoVa 3 va (k == .fetch) 0) va
  | .regs => regCheck t k n rx va (pa - 0xF000000000) r
  | .hbm =>
    let h := s.channel pa / 64
    if s.pkg.hbm.getLsbD h then .ok (.here pa) r else .wait (.stack h)
  | _ => .ok (.here pa) r

/-- A global physical address (R107). -/
def globalCheck (t : Thread) (k : AKind) (n : Nat) (rx : Bool) (va : Word) (gpa : Nat) (r : Option RangeEnt) : Chk :=
  if gpa / 2 ^ 40 = s.devid then s.localCheck t k n rx va (gpa % 2 ^ 40) r else .ok (.there (gpa / 2 ^ 40) (gpa % 2 ^ 40)) r

/-- Rights and DET rules, then the place (R278, steps 5 and 6). -/
def afterRights (t : Thread) (l : Launch) (k : AKind) (n : Nat) (rx : Bool) (va : Word) (gpa : Nat) (rights : Bool)
    (r : Option RangeEnt) : Chk :=
  let fetch := k == .fetch
  if !rights then .bad (infoVa 4 va fetch 0) va
  else match detCheck t l k va r with
    | some info => .bad info va
    | none => s.globalCheck t k n rx va gpa r

/-- Region 0x0 (R117): range entries first, then the page-entry cache or a walk; a write to a DUPL page collapses it first (R127). -/
def region0 (t : Thread) (k : AKind) (n : Nat) (rx : Bool) (va : Word) : Chk :=
  match s.launch? t.ltag with
  | none => .bad (infoVa 3 va (k == .fetch) 0) va
  | some l =>
    match l.ranges.find? fun e => e.base ≤ va.toNat && va.toNat < e.limit with
    | some e => s.afterRights t l k n rx va (va + e.offset).toNat (rightsOk k e.rd e.w e.x e.a) (some e)
    | none =>
      let kind := if k == .fetch then 1 else if k == .read || k == .write then 2 else 0
      match s.cached (clusterOf t.unit) l.port va.toNat with
      | none => .wait (.walk va.toNat kind)
      | some e =>
        if s.heldAt e va.toNat then .wait (.hold va.toNat)
        else
          let ok := rightsOk k (e.entry.getLsbD 6) (e.entry.getLsbD 7) (e.entry.getLsbD 8) (e.entry.getLsbD 9)
          if ok && k.writes && entRes e.entry = 2 then
            match detCheck t l k va none with
            | some info => .bad info va
            | none =>
              let key := (clusterOf t.unit, l.port, va.toNat / 4096 * 4096)
              .wait (if s.trans.faults.contains key || s.trans.deliver.contains key then .walk va.toNat kind else .hold va.toNat)
          else s.afterRights t l k n rx va (entPa e.entry + va.toNat % e.size) ok none

/-- Regions 0x1 to 0x3 (R103): the segment must exist and hold the access. -/
def regionSeg (t : Thread) (lvl : Nat) (k : AKind) (n : Nat) (va : Word) : Chk :=
  let (zero, num, off) :=
    if lvl = 1 then (bits va 26 34, bits va 22 4, bits va 0 22)
    else if lvl = 2 then (bits va 28 32, bits va 24 4, bits va 0 24)
    else (bits va 31 29, bits va 27 4, bits va 0 27)
  let size := if k == .ldbd || k == .stbd then 1 else n
  match s.seg? t.ltag t.unit lvl num with
  | some g =>
    if zero != 0 || g.len < off + size then .bad (infoVa 3 va (k == .fetch) 0) va
    else if k == .fetch && va.toNat % 4 != 0 || !(k == .ldbd || k == .stbd || k == .fetch) && va.toNat % n != 0 then
      .bad (infoVa 3 va (k == .fetch) 0) va
    else match detCheck t (s.launchOf t) k va none with
      | some info => .bad info va
      | none => .ok (.here (segAddr lvl (inst lvl t.unit) g off)) none
  | none => .bad (infoVa 3 va (k == .fetch) 0) va

/-- Region 0xF (R105, R279). -/
def regionF (t : Thread) (k : AKind) (n : Nat) (rx : Bool) (va : Word) : Chk :=
  let bad := Chk.bad (infoVa 3 va (k == .fetch) 0) va
  let off := bits va 0 40
  if bits va 40 20 != 0 then bad
  else if off < 0x200 then
    if k == .store && n == 8 && !rx && off % 8 == 0 then .ok (.chan (off / 8)) none else bad
  else if 0xF000000000 ≤ off then regCheck t k n rx va (off - 0xF000000000) none
  else bad

/-- An access of a thread, checked in the order of R278. -/
def check (t : Thread) (k : AKind) (n : Nat) (rx : Bool) (va : Word) : Chk :=
  let bad := Chk.bad (infoVa 3 va (k == .fetch) 0) va
  let aligned := k == .ldbd || k == .stbd || va.toNat % (if k == .fetch then 4 else n) == 0
  match bits va 60 4 with
  | 0 => if bits va 57 3 != 0 || !aligned then bad else s.region0 t k n rx va
  | 1 => s.regionSeg t 1 k n va
  | 2 => s.regionSeg t 2 k n va
  | 3 => s.regionSeg t 3 k n va
  | 4 =>
    if bits va 40 20 != 0 || s.space (bits va 0 40) == .hole || (s.space (bits va 0 40) == .regs && !regListed (bits va 0 40 - 0xF000000000)) then bad
    else if !t.svc then .bad (infoVa 2 va (k == .fetch) 0) va
    else if !aligned then bad
    else match s.localCheck t k n rx va (bits va 0 40) none with
      | .bad i v => .bad i v
      | c => match detCheck t (s.launchOf t) k va none with
        | some info => .bad info va
        | none => c
  | 0xF => regionF t k n rx va
  | _ => bad

/-! ## What parks an access that passes (R278) -/

/-- Starts the walk of a VA, unless the cluster runs 32 (R125). -/
def startWalk (cluster root va : Nat) : State :=
  let w := (cluster, root, va / 4096 * 4096)
  if s.trans.walks.contains w || s.trans.faults.contains w || 32 ≤ (s.trans.walks.filter fun x => x.1 == cluster).length then s
  else
    let s := { s with trans := { s.trans with walks := w :: s.trans.walks } }
    s.sched (700 * (s.walkEntries cluster root va).length) rankLate (.pageWalkEnd cluster root (va / 4096 * 4096))

/-- The page that a cluster's cache holds for a VA through a root. -/
def pageOf (cluster root va : Nat) : Option TlbEnt := s.cached cluster root va

/-- The piece of a page that a collapse moves: the whole page below 2 MiB, else the aligned 64 KiB (R129). -/
def pieceOf (e : TlbEnt) (va : Nat) : Nat × Nat := if e.size < 2 ^ 21 then (e.va, e.size) else (va / 65536 * 65536, 65536)

/-- The code of a size as KIND (R123). -/
def kindOf (size : Nat) : Nat :=
  if size = 2 ^ 12 then 0 else if size = 2 ^ 16 then 1 else if size = 2 ^ 21 then 2 else if size = 2 ^ 25 then 3
  else if size = 2 ^ 28 then 4 else 5

/-- TAG of a residency packet that no request has asked for: above every requester tag and crumb tag (DESIGN CHOICE; log entry 23). -/
def noTag : Nat := 0xFFFFF

/-- A residency packet to a device: OP, device field, KIND of a size, VA, PA (R207). -/
def resPkt (dst op dev size va pa : Nat) : Packet :=
  { s.blankPkt 0x20 0 dst with
    tag := noTag,
    payload := [wd (op * 2 ^ 60 + dev * 2 ^ 48 + kindOf size * 2), wd va, wd (pa / 4096 * 4096 % 2 ^ 52)] }

/-- A residency packet that has arrived is taken up, or taken up again, after some cycles. -/
def schedRes (delay : Nat) (p : Packet) : State :=
  match resEvent p.resOp with
  | some i => s.schedPkt delay rankRes i p
  | none => s

/-- Sends a residency message to a device; to this one it comes by itself. One that is answered is a request under R211. -/
def sendRes (p : Packet) : State :=
  if p.dst = s.devid then s.fresh.schedRes 8 { p with arr := s.nextId, tag := if p.resAnswer then p.tag else noTag }
  else if p.resAnswer then s.inject 0 p
  else s.sendReq 0 p .res

/-- Starts the collapse of a DUPL page for a write: holds the page and sends COLLAPSE to its owner (R129). -/
def startCollapse (cluster root va : Nat) : State :=
  match s.cached cluster root va with
  | none => s
  | some e =>
    if s.heldAt e va then s
    else
      let (pv, sz) := pieceOf e va
      let h : Hold := { va := pv, size := sz, page := e.va, pageSize := e.size, pa := entPa e.entry, write := some (cluster, root, va) }
      let s := { s with trans := { s.trans with holds := h :: s.trans.holds } }
      s.sendRes (s.resPkt (entOwner e.entry) 1 s.devid sz pv (entPa e.entry + (pv - e.va)))

/-- A walk whose fault the firmware delivers to the thread (R125, R388): TRANSLATION, with the word of a fetch. -/
def deliverWalk (t : Thread) (root va kind : Nat) : State :=
  let key := (clusterOf t.unit, root, va / 4096 * 4096)
  let word := if kind = 1 then (va - t.pc.toNat) / 4 else 0
  { s with trans := { s.trans with deliver := s.trans.deliver.filter (· != key) } }.fault t (infoVa 5 (wd va) (kind == 1) word) (wd va)

/-- Parks a thread at issue, starting the walk or the collapse that it waits for. -/
def parkOn (t : Thread) (w : WaitFor) : State :=
  let root := (s.launchOf t).port
  match w with
  | .walk va kind =>
    if s.trans.deliver.contains (clusterOf t.unit, root, va / 4096 * 4096) then s.deliverWalk t root va kind
    else (s.startWalk (clusterOf t.unit) root va).park t w
  | .hold va => (s.startCollapse (clusterOf t.unit) root va).park t w
  | _ => s.park t w

/-- The number under which a thread's list of remote accesses holds a block of another device. -/
def farBlock (dev pa : Nat) : Nat := 2 ^ 46 + (dev * 2 ^ 40 + pa) / 64

/-- An earlier access of the thread to a block is not yet accepted (R142). -/
def blockOut (t : Thread) (b : Nat) : Bool := t.out.any (fun o => o.block == b) || t.taking.any fun x => x.1 == b && s.now < x.2.2

/-- What parks a thread's access that has passed its checks (R46, R142, R144, R153, R154). An access to a descriptor touches its block and no
other (R281). -/
def stall (t : Thread) (p : Place) (n : Nat) (wr rx desc : Bool) : Option WaitFor :=
  if !rx && s.plainOut t then some .plain
  else match p with
    | .here pa =>
      let x := if desc then [(pa / 64 * 64, 64)] else [(pa, n)]
      if s.blockOut t (pa / 64) then some (.block (pa / 64))
      else if s.boardHolds t.unit x wr then some (.board x wr false 0)
      else if s.markHolds t.unit x then some (.mark x none)
      else none
    | .there dev pa => if s.blockOut t (farBlock dev pa) then some (.block (farBlock dev pa)) else none
    | .chan _ => none

/-! ## The array ECC of HBM (R397, R399) -/

/-- The record of an error found in storage: AGENT 0x08 of memory, its PA, and the requester's launch, crew and unit (R372, R394, R399). -/
def memRecord (ltag unit cls cause pa : Nat) (detail : Word) : State :=
  let c := s.crew? ltag unit
  s.record { cls := cls, scope := 0, cause := cause, ltag := ltag, gang := (c.map (·.gang)).getD 0, crew := (c.map (·.idx)).getD 0,
             unit := unit, agent := 8, pa := wd (s.devid * 2 ^ 40 + pa), detail := detail }

/-- The logs of an HBM4E stack (R399). -/
def hbmLog (h : Nat) : HbmLog := nget s.pkg.hbmLogs h { arr := [], xfer := [], testing := [], alogn := 0, tlogn := 0, lanemap := [] }
def setHbmLog (h : Nat) (x : HbmLog) : State := { s with pkg := { s.pkg with hbmLogs := nset s.pkg.hbmLogs h x } }

/-- An entry of the array log (R399), and the entry itself. -/
def logArray (pa sev bit : Nat) (multi : Bool) : State × Word :=
  let h := s.channel pa / 64
  let w := wd (sev * 2 ^ 62 + (if sev = 1 && !multi then bit % 512 else 0) * 2 ^ 53 + b01 (sev == 1 && multi) * 2 ^ 52 + s.channel pa % 64 * 2 ^ 46 +
    pa / 64 * 64)
  let x := s.hbmLog h
  (s.setHbmLog h { x with arr := mset x.arr (x.alogn % 64) (w, wd s.now), alogn := x.alogn + 1 }, w)

/-- An uncorrectable block of HBM is read for a requester: it is logged and recorded (R397), and the poison that it is delivered with. -/
def arrayUe (ltag unit pa : Nat) : State × Poison :=
  let r := s.logArray pa 2 0 false
  (r.1.memRecord ltag unit 3 0x051 (pa / 64 * 64) r.2, ⟨0x051, r.2.toNat⟩)

/-- A read of HBM finds what an earlier write of poison left there: the array ECC reports it on every read, and the poison then names that
entry of its log (R395, R397). -/
def eccVal (ltag unit pa : Nat) (v : Val) : State × Val :=
  match v.psn with
  | some p => if pa < 2 ^ 39 && p.cause == 0x051 then let r := s.arrayUe ltag unit pa; (r.1, ⟨v.v, some r.2⟩) else (s, v)
  | none => (s, v)
/-- The same of a block, its descriptor included. -/
def eccBlock (ltag unit pa : Nat) (b : BlockW) : State × BlockW :=
  if pa < 2 ^ 39 && b.psn.any (·.2.cause == 0x051) then
    let r := s.arrayUe ltag unit pa
    (r.1, { b with psn := b.psn.map fun e => if e.2.cause == 0x051 then (e.1, r.2) else e })
  else (s, b)

/-- Reads of HBM by another agent, at some addresses: what the array ECC finds in their blocks is logged and recorded (R397). -/
def ueReads (ltag unit : Nat) (pas : List Nat) : State :=
  pas.foldl (fun s a => if a < 2 ^ 39 && (s.blockPsn a).any (·.cause == 0x051) then (s.arrayUe ltag unit a).1 else s) s

/-- A read of HBM must wait: for a pseudo-channel that a lane test holds (R398), or for the stack (R226). -/
def hbmWaits (pa : Nat) : Bool := s.space pa == .hbm && (s.chanHeld pa || !s.pkg.hbm.getLsbD (s.channel pa / 64))

/-- The blocks of a range of local memory that hold poison. -/
def poisonedIn (a n : Nat) : List Nat :=
  ((s.psn.filter fun e => a ≤ 8 * e.1 + 7 && 8 * e.1 < a + n).map fun e => e.1 / 8 * 64).eraseDups

/-- A lane test holds a block of the range (R398). -/
def rangeHeld (a n : Nat) : Bool :=
  s.pkg.hbmLogs.toList.any (fun x => !x.testing.isEmpty) && (List.range (n / 64 + 2)).any fun i => s.chanHeld (min (a + 64 * i) (a + n - 1))

/-- A region-0x0 or 0x4 range piece by piece, as far as it names this device: what it covers of local memory. -/
def spanPieces (name : Word → Word) (va : Nat) : Nat → Nat → List (Nat × Nat)
  | 0, _ => []
  | fuel + 1, len =>
    if len = 0 then []
    else
      let n := min len (4096 - va % 4096)
      let g := (name (wd va)).toNat
      let rest := spanPieces name (va + n) fuel (len - n)
      if g != 0 && g / 2 ^ 40 = s.devid then (g % 2 ^ 40, n) :: rest else rest

end State

end Sys2Proof.Machine
end

