-- ==== Sys2Proof/Machine/Ports.lean ====
section
/-! DEFINITION. Requests of threads to other devices (R206 to R211), ports, patterns and join frames in S1 (R178 to R188). -/

namespace Sys2Proof.Machine

/-! ## Requests -/

namespace State
variable (s : State)

/-- A thread's request: the fabric interface takes it 8 cycles after issue (R413). -/
def threadReq (t : Thread) (p : Packet) (w : ReqWhat) : State := s.sendReqAfter 8 (stackOf t.unit) p w

/-- The flow of a thread to a device (R203). -/
def flowTo (t : Thread) (dev : Nat) : Flow := ⟨s.devid, t.unit, t.slot, dev⟩

/-- A packet on the flow of a thread (R203). -/
def pktOf (t : Thread) (kind vc dev : Nat) : Packet := { s.blankPkt kind vc dev with flow := s.flowTo t dev }

/-- A posted packet of a thread leaves; its flow is unflushed until a later FLU (R54, R145, R146). -/
def sendPosted (t : Thread) (p : Packet) : State :=
  let s := s.onLaunch t.ltag fun l => { l with posted := if l.posted.contains p.flow then l.posted else p.flow :: l.posted }
  s.injectAfter 8 (stackOf t.unit) p

/-- FLU on a flow of a thread (R208); its tag is `nextTag`. -/
def sendFlush (t : Thread) (f : Flow) (w : ReqWhat) : State := s.threadReq t { s.pktOf t 0x09 2 f.dst with flow := f } w

/-- FLU on each of some flows, and their tags, before those given. -/
def flushEach (t : Thread) (w : Flow → ReqWhat) (fs : List Flow) (tags : List Nat) : State × List Nat :=
  fs.foldl (fun (s, tags) f => (s.sendFlush t f (w f), s.nextTag :: tags)) (s, tags)

end State

/-- The thread after a posted access on a flow (R146). -/
def Thread.postedTo (t : Thread) (f : Flow) : Thread :=
  { t with posted := if t.posted.contains f then t.posted else f :: t.posted, flushed := t.flushed.filter (· != f) }

/-- The implicit flush of a flow has come back (R146). -/
def Thread.flushedOn (t : Thread) (f : Flow) : Thread := { t with flushed := if t.flushed.contains f then t.flushed else f :: t.flushed }

/-- Its flows to a peer with a posted access since the last FLUSHR or FENCE: one, and those of its slots before a restore. -/
def Thread.postedOn (t : Thread) (peer : Nat) : List Flow := t.posted.filter (·.dst == peer)

/-- Those of them whose implicit flush has still to come back (R146). -/
def Thread.unflushed (t : Thread) (peer : Nat) : List Flow := (t.postedOn peer).filter fun f => !t.flushed.contains f

/-! ## Ports (R178, R179) -/

/-- A port that PORTCFG has not configured. -/
def Port.empty : Port :=
  { en := false, pol := false, closed := false, depth := 0, base := 0, slo := 0, ns := 0, q := 0, head := 0, tail := 0, count := 0,
    det := [], accepted := [], batch := 0, psn := none }

def Crew.port (c : Crew) (n : Nat) : Port := (mget c.ports n).getD Port.empty
def Crew.setPort (c : Crew) (n : Nat) (p : Port) : Crew := { c with ports := mset c.ports n p }

/-- The state words of a port (R179); `closed` is the crew's as well. -/
def Port.word0 (p : Port) (closed : Bool) : Word :=
  wd (b01 p.en * 2 ^ 63 + b01 p.pol * 2 ^ 62 + b01 (p.closed || closed) * 2 ^ 61 + p.depth * 2 ^ 48 + p.base / 64 * 2 ^ 6)
def Port.word1 (p : Port) : Word :=
  wd (p.slo * 2 ^ 44 + p.ns * 2 ^ 36 + p.q * 2 ^ 32 + p.head * 2 ^ 22 + p.tail * 2 ^ 12 + p.count * 2)

/-- Slot and header offsets in S1 segment 0 (R178). -/
def Port.slotOff (p : Port) (i : Nat) : Nat := p.base + 64 * i
def Port.hdrOff (p : Port) (i : Nat) : Nat := p.base + 64 * p.depth + 8 * i

/-- Every sender has had Q messages of the batch accepted (R183). -/
def Port.batchFull (p : Port) : Bool :=
  (List.range (p.ns + 1)).all fun i => (p.batch + 1) * (p.q + 1) ≤ (mget p.accepted (p.slo + i)).getD 0

/-- The order of messages of a batch (R184). -/
def DetMsg.before (x y : DetMsg) : Bool := x.writer < y.writer || (x.writer == y.writer && x.rank < y.rank)

/-- The slot of the takeable message, if there is one (R182, R184). -/
def Port.head? (p : Port) (det : Bool) : Option Nat :=
  if !det then (if p.count = 0 then none else some p.head)
  else if p.batchFull then
    ((p.det.filter fun m => m.rank / (p.q + 1) == p.batch).foldl (fun b m => match b with
      | none => some m
      | some x => if m.before x then some m else some x) (none : Option DetMsg)).map (·.slot)
  else none

/-- The port after its takeable message has been taken (R182, R184). -/
def Port.take (p : Port) (det : Bool) (slot : Nat) : Port :=
  if !det then { p with head := (p.head + 1) % p.depth, count := p.count - 1 }
  else
    let rest := p.det.filter fun m => m.slot != slot
    let p := { p with det := rest, count := p.count - 1 }
    if rest.any fun m => m.rank / (p.q + 1) == p.batch then p else { p with batch := p.batch + 1 }

/-! ## Patterns (R185) -/

def Pat.v (p : Pat) : Bool := p.d0.getLsbD 63
def Pat.wake (p : Pat) : Bool := p.d0.getLsbD 62
def Pat.one (p : Pat) : Bool := p.d0.getLsbD 61
def Pat.pri (p : Pat) : Nat := bits p.d0 58 3
/-- The member ports, NP + 1 of them. -/
def patPorts (d0 : Word) : List Nat := ([bits d0 0 6, bits d0 8 6, bits d0 16 6, bits d0 24 6]).take (bits d0 56 2 + 1)
def Pat.ports (p : Pat) : List Nat := patPorts p.d0
def Pat.wtid (p : Pat) : Nat := bits p.d2 24 8
def Pat.wsem (p : Pat) : BitVec 3 := p.d2.extractLsb' 20 3
def Pat.fn (p : Pat) : Nat := bits p.d2 16 4
def Pat.fboff (p : Pat) : Nat := bits p.d2 0 13

/-- A port is a member of a pattern whose V is set (R180, R182). -/
def Crew.member (c : Crew) (n : Nat) : Bool := c.pats.any fun e => e.2.v && e.2.ports.contains n

namespace State
variable (s : State)

/-- The launch of a crew is deterministic (R55). -/
def isDet (tag : Nat) : Bool := match s.launch? tag with | some l => l.det | none => false

/-- The slot of the message that a firing or RECV would take from a port of a crew; none while the crew is closed (R49). -/
def takeable (c : Crew) (n : Nat) : Option Nat :=
  if c.closed || !(c.port n).en then none else (c.port n).head? (s.isDet c.ltag)

/-- Threads of a crew that live; a twin is none of them (R320). -/
def crewThreads (tag u : Nat) : List Thread := s.threads.filter fun t => t.ltag == tag && t.unit == u

/-- The live thread of a crew with a logical index. -/
def byTid (tag u tid : Nat) : Option Thread := (s.crewThreads tag u).find? fun t => t.tid == tid

/-- Slots that hold threads or twins on a unit. -/
def usedSlots (u : Nat) : List Nat :=
  (s.threads.filter fun t => t.unit == u).map (·.slot) ++
  s.threads.filterMap fun t => match t.twin with
    | some w => if w.unit = u then some w.slot else none
    | none => none

/-- Slots held at crew level on a unit (R73). -/
def crewLevelSlots (u : Nat) : Nat :=
  (s.threads.filter fun t => t.unit == u && !t.svc).length +
  (s.threads.filter fun t => !t.svc && match t.twin with | some w => w.unit == u | none => false).length

/-- The lowest free slot of a mill. -/
def freeSlot? (u : Nat) : Option Nat := (List.range 256).find? fun n => !(s.usedSlots u).contains n

/-- The lowest logical index that no live thread of the crew holds (R297). -/
def freeTid (tag u : Nat) : Nat := ((List.range 256).find? fun n => (s.byTid tag u n).isNone).getD 255

/-- Handlers fired and not yet created on a unit, by launch (R188). -/
def firedHandlers (u : Nat) : List Nat :=
  s.agenda.filterMap fun e => match e.ev.op with
    | .handlerCreate tag v _ _ _ _ => if v = u then some tag else none
    | _ => none

/-- Handlers fired and not yet created on a unit, of crews at crew level (R73, R188). -/
def crewFired (u : Nat) : Nat := ((s.firedHandlers u).filter fun tag => !(match s.launch? tag with | some l => l.svc | none => false)).length

/-- Initial threads that crews placed on a unit have still to start (R35, R39): of all launches, or of those at crew level. Whether they hold slots
before the crew has started the manual does not say: DESIGN CHOICE, they do, and count towards SLOTMAX (log entry 72). -/
def toStart (u : Nat) (crewLevel : Bool) : Nat :=
  ((s.disp.crews.filter fun c => c.unit == u && !c.started).map fun c => match s.launch? c.ltag with
    | some l => if crewLevel && l.svc then 0 else l.init
    | none => 0).sum

/-- Free thread slots of a unit; a handler that has fired holds one, and a placed crew holds those of its initial threads. -/
def freeSlots (u : Nat) : Nat := 256 - (s.usedSlots u).length - (s.firedHandlers u).length - s.toStart u false

/-- SLOTMAX is reached on a unit (R73). -/
def crewFull (u : Nat) : Bool := (s.unit u).slotMax ≤ s.crewLevelSlots u + s.crewFired u + s.toStart u true

/-- A creation in the crew is refused: quota, slots, SLOTMAX (R195, R296). -/
def noRoom (tag u : Nat) (svc : Bool) : Bool :=
  let quota := match s.launch? tag with | some l => l.quota | none => 0
  quota ≤ (s.crewThreads tag u).length + ((s.firedHandlers u).filter (· == tag)).length || s.freeSlots u = 0 ||
    (!svc && s.crewFull u)

/-- A value of S1 segment 0 of a crew, by offset; beyond the allocation nothing lies, and zero is read. -/
def loadS1 (tag u off : Nat) : Val :=
  match s.s1Addr tag u off with
  | some pa => s.load pa 8
  | none => ⟨0, none⟩

/-- A write to [pa, pa + n) by any agent breaks a registered barrier that it meets while arrivals wait there (R194), before anything else that
is due in the cycle. Of a plain write where none
waits the manual says nothing: DESIGN CHOICE, the barrier stays registered, and its home keeps its own fields (log entry 71). -/
def touch (pa n : Nat) (w : Option ThreadRef) : State :=
  s.barriers.foldl (fun s b => if b.arr != 0 && meets b.pa 16 pa n then s.sched 0 0 (.barrierBroken b.pa false w) else s) s

/-- A store of a dword into S1 segment 0 of a crew, as its JU makes it. -/
def storeS1 (tag u off : Nat) (v : Val) : State :=
  match s.s1Addr tag u off with
  | some pa => (s.store pa 8 v).touch pa 8 none
  | none => s

/-- Error in the ports' own state, which the crew shares: the launch ends (R371, R402). -/
def portData (c : Crew) (port slot : Nat) : State :=
  (s.record { cls := 3, scope := 3, cause := 0x061, ltag := c.ltag, gang := c.gang, crew := c.idx, unit := c.unit, agent := 5,
              detail := wd (port + slot * 64) }).endLaunch c.ltag 2 0x61

/-- What taking a message gives: its header and its eight dwords (R182), or the end of the launch (R402). -/
inductive Taken where
  | msg (s : State) (hdr : Word) (dws : List Val)
  | lost (s : State)

/-- What the JU reads and writes of a message: its slot and its header. -/
def msgExt (c : Crew) (n slot : Nat) : List (Nat × Nat) :=
  [((c.port n).slotOff slot, 64), ((c.port n).hdrOff slot, 8)].filterMap fun x => (s.s1Addr c.ltag c.unit x.1).map fun pa => (pa, x.2)

/-- Takes the message in `slot` from port `n` of a crew: V of its header is cleared, and the port moves on, in one step (R182). -/
def takeMsg (c : Crew) (n slot : Nat) : Taken :=
  let p := c.port n
  let hdr := s.loadS1 c.ltag c.unit (p.hdrOff slot)
  if hdr.psn.isSome || p.psn.isSome then .lost (s.portData c n slot)
  else
    let dws := (List.range 8).map fun i => s.loadS1 c.ltag c.unit (p.slotOff slot + 8 * i)
    let s := s.storeS1 c.ltag c.unit (p.hdrOff slot) ⟨hdr.v &&& ~~~(wd (2 ^ 63)), none⟩
    .msg (s.setCrew (c.setPort n (p.take (s.isDet c.ltag) slot))) hdr.v dws

/-- A segment that SFREE names may be freed: no access to it awaits its bank, no scoreboard entry and no channel's destination
range meets it (R116). -/
def segIdle (u lvl : Nat) (g : Seg) : Bool :=
  let ext := g.granules.map fun n => (levelBase lvl (inst lvl u) + n * granule lvl, granule lvl)
  (s.agenda.all fun e => match e.ev.op with
    | .bankAccept a => !extMeets ext [(a.pa, a.size)]
    | _ => true) &&
  s.units.all fun e => e.2.board.all (fun b => !extMeets b.ext ext) &&
    e.2.chans.all fun c => match s.vaExtent c.2.ltag e.1 c.2.base.toNat (c.2.lim.toNat - c.2.base.toNat) with
      | some x => c.2.lim.toNat ≤ c.2.base.toNat || !extMeets x ext
      | none => true

/-- The level of a region-0x1, 0x2 or 0x3 address and its segment number. -/
def segOf (va : Nat) : Nat × Nat :=
  let lvl := va / 2 ^ 60
  (lvl, if lvl = 1 then bits (wd va) 22 4 else if lvl = 2 then bits (wd va) 24 4 else bits (wd va) 27 4)

end State

/-! ## New threads (R39, R74) -/

namespace State
variable (s : State)

/-- A thread as it is born in a slot: READY from the next round, every register zero (R74), RES 1 and DEPTH 0 (R69). -/
def newThread (l : Launch) (gang crew u slot tid : Nat) (pc : Word) (base : BitVec 3) : Thread :=
  { unit := u, slot := slot, gen := (mget (s.unit u).gens slot).getD 0, ltag := l.ltag, gang := gang, crew := crew, tid := tid,
    seed := l.seed, k := Vector.replicate 8 0, a := Vector.replicate 8 0, frames := [Frame.zero], p := Vector.replicate 8 0, lat := 0,
    q := Vector.replicate 4 0, sems := Vector.replicate 8 0, psn := [], par := [], pc := pc, depth := 0, spillp := 0, spilllim := 0, skipc := 0,
    eng := 0, esem := 0, engAt := 0, semerr := 0, semerrAt := (0, 0), inrgn := false, trigd := false, svc := l.svc, det := l.det, trapvec := 0,
    trappc := 0,
    trapinfo := 0, traplat := 0, trapSkip := 0, trapWin := false, rgnpc := 0, rgnwd := 0, restarts := 0, base := base, eff := 0,
    wait := 0, eligRound := s.round + 1, holdTo := 0, yielded := false, st := .ready, parkSeq := 0, rb := [], nextId := 0, out := [],
    taking := [], released := none, after := .go,
    async := [], recent := [], flushing := [], posted := [], flushed := [], winAck := [], mirrors := [], copies := [], mirrFail := none,
    fetched := [], frame := none,
    appendWait := false, barId := 0, barrierGot := false, haltReq := false, held := none, twin := none, fp := 0, fpq := [], fpSeen := 0,
    retired := 0, exchanged := false,
    mismatch := none, former := [] }

/-- Creates a thread in a crew, on the lowest free slot, with a0 upwards holding `args` (R39, R188, R195, R296). -/
def create (l : Launch) (c : Crew) (tid : Nat) (pc : Word) (base : BitVec 3) (args : List Word) (f : Thread → Thread) : State :=
  match s.freeSlot? c.unit with
  | none => s
  | some slot =>
    let t := s.newThread l c.gang c.idx c.unit slot tid pc base
    let t := { t with a := (args.zipIdx).foldl (fun v (x, i) => nset v i x) t.a }
    s.setThread (f t)

/-- A reply on the reply VC, with the tag of its request (R206, R211). -/
def replyTo (p : Packet) (kind status aux : Nat) (payload : List Word) (psn : Nat) : State :=
  s.inject (if p.input < 16 then p.input / 4 else stackOf p.flow.unit) { s.blankPkt kind 1 p.src with
    tag := p.tag, opsz := p.opsz, status := status, aux := aux, payload := payload, poisoned := psn }

/-- An entry of the reply cache stands for 100 µs (R212). -/
def young (c : Cached) : Bool := s.now < c.at_ + us 100
def cachedOf (src tag : Nat) : Option Cached := s.fab.cache.find? fun c => s.young c && c.src == src && c.tag == tag

/-- An applied request enters the reply cache, which keeps its entries for 100 µs (R212). -/
def cacheReply (src tag : Nat) (value : Word) (status : Nat) : State :=
  let e : Cached := { src := src, tag := tag, value := value, status := status, at_ := s.now }
  { s with fab := { s.fab with cache := e :: s.fab.cache.filter (fun x => s.now < x.at_ + us 100) } }

end State

/-! ## Copies and queues of a unit -/

/-- Copies started and not ended (R335). -/
def UnitSt.copies (u : UnitSt) : Nat := (u.chans.map fun e => b01 e.2.cur.isSome + e.2.queue.length).sum

/-- Places in the queue of an engine (R157, R51): eight matrix commands, 16 vector commands, 32 tile moves. -/
def queueSize : EngKind → Nat
  | .mx => 8
  | .vx => 16
  | .tmv => 32
def UnitSt.queued (u : UnitSt) (e : EngKind) : Nat := (u.cmds.filter fun c => c.eng == e).length

/-- What comes of a slot's data has come. -/
def LatchSlot.settled (l : LatchSlot) (now : Nat) : Bool := l.img.all fun i => l.order + i.times.getLast?.getD 0 < now

/-- A slot's data has arrived whole. -/
def LatchSlot.whole (l : LatchSlot) (now : Nat) : Bool := l.settled now && l.img.any fun i => i.k ≤ i.times.length * i.group

/-- The code of a latch slot (R354). -/
def LatchSlot.code (l : LatchSlot) (now : Nat) : Nat :=
  match l.st with
  | .free => 0
  | .read => 3
  | _ => if l.whole now then 2 else 1

/-- Bits 36:32 of MSTAT (R354, R389). -/
def UnitSt.latchBits (u : UnitSt) (now : Nat) : Nat :=
  u.latch0.code now + u.latch1.code now * 4 +
    b01 (u.latch1.st != .free && (u.latch0.st == .free || u.latch1.order < u.latch0.order)) * 16

/-- MSTAT of a slab (R354). -/
def UnitSt.mstat (u : UnitSt) (now slab : Nat) : Word :=
  wd (u.queued .mx * 2 ^ 40 + u.latchBits now * 2 ^ 32 +
    ((List.range 32).map fun i => match mget u.tiles (slab * 32 + i) with
      | some t => b01 t.susp * 2 ^ i
      | none => 0).sum)

end Sys2Proof.Machine
end

