-- ==== Sys2Proof/Machine/Copy.lean ====
section
/-! DEFINITION. Engine commands in common (R156 to R159, R389), copy channels (R161 to R164, R333 to R337) and tile moves (R165, R331,
R332). -/

namespace Sys2Proof.Machine

/-- The device to which writes through a range entry are mirrored (R135). -/
def mirrorDev : Option RangeEnt → Option Nat
  | some e => if e.mirror then some e.mirdev else none
  | none => none

/-- A mirror copy of the thread is outstanding on a flow (R322). -/
def Thread.mirroring (t : Thread) (f : Flow) : Thread := { t with mirrors := if t.mirrors.contains f then t.mirrors else f :: t.mirrors }

namespace State
variable (s : State)

/-! ## Writes as every agent makes them -/

/-- The payload of a block: 64 bytes, then its descriptor (R207). -/
def blockPayload (b : BlockW) : List Word := (List.range 8).map (fun i => leWord ((b.data.drop (8 * i)).take 8)) ++ [b.desc.setWidth 64]

/-- An engine's block write: data and descriptor in one step (R81), and its copy to the device that mirrors the range through which it is
written, on the flow of the thread that issued the command (R135, R378). -/
def engWrite (t : ThreadRef) (b : BlockW) (mirror : Option Nat) : State :=
  let old := s.readBlock b.pa
  let b := if b.mask.isEmpty then b
    else { b with data := (List.range 64).map fun i => if b.mask.getD i false then b.data.getD i 0 else old.data.getD i 0, mask := [] }
  let s := (s.writeBlock b).touch (b.pa / 64 * 64) 64 none
  match mirror with
  | some dev =>
    let f : Flow := ⟨s.devid, t.unit, t.slot, dev⟩
    (s.inject (stackOf t.unit) { s.blankPkt 0x02 2 dev with
      flow := f, opsz := 5, addr := b.pa / 64 * 64, payload := blockPayload b, poisoned := b.psnBits, copy := true }).onRef t (·.mirroring f)
  | none => s

/-! ## The agent of an engine -/

/-- A thread of the launch, crew and index for which an engine acts: the rights of its accesses (R332, R335). -/
def ghost (tag gang crew tid u : Nat) : Thread := s.newThread ((s.launch? tag).getD Launch.empty) gang crew u 0 tid 0 0

/-- Where an operand block of an engine lies, with the device that mirrors it, the CAUSE of a fault, or what it waits for (R332, R335, R388). -/
inductive EngPlace where
  | here (pa : Nat) (mirror : Option Nat)
  | there (dev pa : Nat)
  | bad (cause : Nat)
  | wait (w : WaitFor)
  deriving DecidableEq, Repr

def engPlace (g : Thread) (k : AKind) (va : Word) : EngPlace :=
  match s.check g k 64 false va with
  | .ok (.here pa) r => .here pa (mirrorDev r)
  | .ok (.there d pa) _ => .there d pa
  | .ok (.chan _) _ => .bad 3
  | .bad info _ => .bad (bits info 0 9)
  | .wait (.walk v kd) =>
    if s.trans.deliver.contains (clusterOf g.unit, (s.launchOf g).port, v / 4096 * 4096) then .bad 5 else .wait (.walk v kd)
  | .wait w => .wait w

/-- The global physical address that a VA has for a thread, whatever its rights there; zero where it has none (R372). -/
def namedPa (g : Thread) (va : Word) : Word :=
  let own := s.devid * 2 ^ 40
  match bits va 60 4 with
  | 0 =>
    let l := s.launchOf g
    (match l.ranges.find? fun e => e.base ≤ va.toNat && va.toNat < e.limit with
    | some e => va + e.offset
    | none => match s.cached (clusterOf g.unit) l.port va.toNat with
      | some e => wd (entPa e.entry + va.toNat % e.size)
      | none => 0)
  | 4 => wd (own + bits va 0 40)
  | 0xF => wd (own + bits va 0 40)
  | _ => match s.vaExtent g.ltag g.unit va.toNat 1 with
    | some (x :: _) => wd (own + x.1)
    | _ => 0

/-- The local extents of an operand range at any address: of regions 0x1 to 0x3 through its segment, of regions 0x0 and 0x4 through what its pages
name now (R153, R154, R332). -/
def rangeExtent (t : Thread) (va len : Nat) : List (Nat × Nat) :=
  match s.vaExtent t.ltag t.unit va len with
  | some x => x
  | none => s.spanPieces (s.namedPa t) va (len / 4096 + 2) len

/-- Starts what an engine's access waits for. -/
def engWait (g : Thread) : WaitFor → State
  | .walk va _ => s.startWalk (clusterOf g.unit) (s.launchOf g).port va
  | .hold va => s.startCollapse (clusterOf g.unit) (s.launchOf g).port va
  | _ => s

/-! ## Commands (R156 to R159) -/

def cmd? (u id : Nat) : Option Cmd := (s.unit u).cmds.find? fun c => c.id == id
def onCmd (u id : Nat) (f : Cmd → Cmd) : State :=
  s.onUnit u fun x => { x with cmds := x.cmds.map fun c => if c.id == id then f c else c }

/-- The record of an engine fault (R389). -/
def engRecord (c : Cmd) (agent : Nat) (f : EngFault) : State :=
  s.record { cls := 3, scope := 1, cause := f.cause, ltag := c.ltag, gang := c.gang, crew := c.crew, tid := c.tid, slot := c.t.slot,
             unit := c.t.unit, agent := agent, pc := c.pc, va := f.va, pa := f.pa, detail := f.detail }

/-- The consumed post of a command, once (R156), and the release of its source ranges (R153). -/
def consumed (u id status : Nat) : State :=
  match s.cmd? u id with
  | some c =>
    let s := s.onCmd u id fun c => { c with consumed := true }
    let s := s.onUnit u fun x => { x with board := x.board.filter fun b => b.cmd != id || b.dest }
    match c.csem with
    | some i => if c.consumed then s else s.post ⟨c.t, i, 1⟩ 1 status
    | none => s
  | none => s

/-- The end of a command: its consumed post if it is still to come, its done post, and the release of its ranges (R156, R158). -/
def finish (u id status : Nat) : State :=
  match s.cmd? u id with
  | some c =>
    let s := if c.consumed then s else s.consumed u id status
    let s := s.onUnit u fun x => { x with cmds := x.cmds.filter (fun c => c.id != id), board := x.board.filter fun b => b.cmd != id }
    match c.dsem with
    | some i => s.post ⟨c.t, i, 1⟩ 1 status
    | none => s
  | none => s

end State

/-! ## Copy templates (R161) -/

namespace Tmpl
variable (t : List Word)
def dw (i : Nat) : Word := t.getD i 0
def src : Nat := (dw t 0).toNat
def srstr : Nat := (dw t 1).toNat
def rowBytes : Nat := bits (dw t 2) 32 32
def doff : Nat := bits (dw t 2) 0 32
def rows : Nat := bits (dw t 3) 0 32
def sstride : Nat := (dw t 4).toNat
def dstride : Nat := (dw t 5).toNat
def valid : Bool := (dw t 6).getLsbD 31
def chan : Nat := bits (dw t 6) 24 6
def semen : Bool := (dw t 6).getLsbD 22
def sem : BitVec 3 := (dw t 6).extractLsb' 19 3
def dmode : Nat := bits (dw t 6) 16 2
def ddesc : Half := (dw t 6).extractLsb' 0 16
/-- Blocks of a row, and of a repeat. -/
def rowBlocks : Nat := rowBytes t / 64
def blocks : Nat := rows t * rowBlocks t

/-- The checks that CXTPL makes of an image (R161). -/
def ok : Bool :=
  bits (dw t 3) 32 32 == 0 && bits (dw t 6) 32 32 == 0 && !(dw t 6).getLsbD 30 && !(dw t 6).getLsbD 23 && !(dw t 6).getLsbD 18 &&
  dw t 7 == 0 && dmode t != 3 && 64 ≤ rowBytes t && rowBytes t ≤ 1048576 && rowBytes t % 64 == 0 && 1 ≤ rows t && rows t ≤ 65536 &&
  [src t, srstr t, doff t, sstride t, dstride t].all (· % 64 == 0) && rowBytes t ≤ dstride t

/-- Source VA and destination offset of block `n` of a copy (R163). -/
def srcOf (n : Nat) : Word :=
  let m := n % blocks t
  wd (src t + n / blocks t * srstr t + m / rowBlocks t * sstride t + 64 * (m % rowBlocks t))
def dstOff (n : Nat) : Nat :=
  let m := n % blocks t
  doff t + n / blocks t * (rows t * dstride t) + m / rowBlocks t * dstride t + 64 * (m % rowBlocks t)
/-- Bytes of the channel range from CHBASE to the end of the last row. -/
def span (repeats : Nat) : Nat := doff t + (repeats - 1) * (rows t * dstride t) + (rows t - 1) * dstride t + rowBytes t
/-- Bytes from the first of a copy's source to the end of its last row. -/
def srcSpan (repeats : Nat) : Nat := (repeats - 1) * srstr t + (rows t - 1) * sstride t + rowBytes t
end Tmpl

/-- A channel after a crew's start (R162). -/
def Chan.reset : Chan := { st := .idle, ltag := 0, base := 0, lim := 0, wm := 0, cur := none, queue := [], halt := false, stops := [] }

/-- The numbers under which a unit holds a crew's template and channel (R161). -/
def tmplKey (ltag i : Nat) : Nat := 256 * ltag + i
def chanKey (ltag c : Nat) : Nat := 64 * ltag + c

namespace State
variable (s : State)

def chan (u c : Nat) : Chan := (mget (s.unit u).chans c).getD .reset
def setChan (u c : Nat) (x : Chan) : State := s.onUnit u fun y => { y with chans := mset y.chans c x }
def tmpl (u i : Nat) : List Word := (mget (s.unit u).tmpls i).getD []

/-- Whether a start by a thread is refused (R163): the template is not VALID, a reserved bit of the data is set, or the destination does not
fit. -/
def startRefused (th : Thread) (ch : Nat) (v : Word) : Bool :=
  let t := s.tmpl th.unit (tmplKey th.ltag (bits v 0 8))
  let x := s.chan th.unit ch
  !Tmpl.valid t || bits v 24 40 != 0 || x.lim.toNat < x.base.toNat + Tmpl.span t (bits v 8 16 + 1)

/-- The steps that a reset channel had still to take fall away. -/
def dropSteps (u ch : Nat) : State :=
  { s with agenda := s.agenda.filter fun e => match e.ev.op with
      | .cxBlockWrite v i => !(v == u && i == ch)
      | _ => true }

/-- The source of a copy names the register space by its own address: an address fault at issue (R414). -/
def copyInRegs (t : Thread) (v : Word) : Bool :=
  let tm := s.tmpl t.unit (tmplKey t.ltag (bits v 0 8))
  let va := Tmpl.src tm
  (va / 2 ^ 60 == 4 || va / 2 ^ 60 == 0xF) && va / 2 ^ 40 % 2 ^ 20 == 0 && 0xF000000000 < va % 2 ^ 40 + Tmpl.srcSpan tm (bits v 8 16 + 1)

/-- What holds the start of a copy, as it holds an engine command (R153, R154, R327): an entry or a watermark that meets its destination,
where its own channel's does not count, or its source. A source in region 0x0 is translated as the copy runs (R335): what its pages name at the
start is compared (DESIGN CHOICE, log entry 70). -/
def copyHold (t : Thread) (ch : Nat) (v : Word) : Option WaitFor :=
  let tm := s.tmpl t.unit (tmplKey t.ltag (bits v 0 8))
  let n := bits v 8 16
  let x := s.chan t.unit ch
  let sx := s.rangeExtent t (Tmpl.src tm) (Tmpl.srcSpan tm (n + 1))
  let dx := s.rangeExtent t (x.base.toNat + Tmpl.doff tm) (Tmpl.span tm (n + 1) - Tmpl.doff tm)
  if s.boardHolds t.unit sx false then some (.board sx false false 0)
  else if s.boardHolds t.unit dx true then some (.board dx true false 0)
  else if s.markHolds t.unit sx then some (.mark sx none)
  else if s.markHolds t.unit dx (some ch) then some (.mark dx (some ch))
  else none

/-- What holds the start of a copy: an earlier store that awaits its bank (R152), the 1,024 copies in flight, or its ranges (R327). -/
def startHold (t : Thread) (ch : Nat) (v : Word) : Option WaitFor :=
  if t.out.any (·.store) then some .stores
  else if 1024 ≤ (s.unit t.unit).copies then some .copies
  else s.copyHold t ch v

/-- The latency of the level of a copy's source, once it is translated (R108, R112, R176). For a source on another device the manual gives none:
DESIGN CHOICE, as for a tile move, that of the same local address goes by before the first request leaves (log entry 81). -/
def copyLead (u : Nat) (c : Copy) : Option Nat :=
  match s.engPlace (s.ghost c.ltag c.gang c.crew c.tid u) .read (Tmpl.srcOf c.tmpl c.next) with
  | .here pa _ => some (s.returnAfter u pa)
  | .there _ pa => some (s.returnAfter u pa)
  | _ => none

/-- From the start of a copy to its first read, or to its first attempt at it, as for a tile move (R176). -/
def copyDelay (u : Nat) (c : Copy) : Nat := (s.copyLead u c).getD 0

/-- A channel that is to stop has no block in flight any more: it is STOPPED, and the CXSTOPs that waited take its watermark (R162, R337). -/
def haltNow (u ch : Nat) : State :=
  let x := s.chan u ch
  if x.halt && !x.cur.any (·.waiting) then
    x.stops.foldl (fun s e => s.sched 0 rankLate (.resultReturn e.1 e.2 [⟨x.wm, none⟩]))
      (s.setChan u ch { x with st := if x.st == .run then .stopped else x.st, halt := false, stops := [] })
  else s

/-- A copy starts on a channel: CHWM takes its start address (R162). -/
def copyGo (u ch : Nat) (x : Chan) (c : Copy) : State :=
  ((s.setChan u ch { x with st := .run, held := none, cur := some { c with timed := (s.copyLead u c).isSome },
                            wm := x.base + wd (Tmpl.doff c.tmpl) }).sched (s.copyDelay u c) (rankCx u)
    (.cxBlockWrite u ch)).haltNow u ch

/-- Starts a copy on a channel, or queues it behind those there (R162 to R164). The states of R162 name no start on a STOPPED channel: DESIGN
CHOICE, the copy is queued there as on one in RUN (log entry 70). -/
def startCopy (t : Thread) (ch : Nat) (v : Word) : State :=
  let x := s.chan t.unit ch
  let tm := s.tmpl t.unit (tmplKey t.ltag (bits v 0 8))
  let c : Copy := { id := s.nextId, num := bits v 0 8, tmpl := tm, repeats := bits v 8 16 + 1, t := t.ref,
                    dsem := if Tmpl.semen tm then some (Tmpl.sem tm) else none,
                    ltag := t.ltag, crew := t.crew, gang := t.gang, tid := t.tid, svc := t.svc, pc := t.pc, inrgn := t.inrgn,
                    next := 0, waiting := false, cancelled := false }
  let s := s.fresh
  match x.st with
  | .idle => (s.dropSteps t.unit ch).copyGo t.unit ch x c
  | _ => s.setChan t.unit ch { x with queue := x.queue ++ [c] }

/-- Posts the end of a copy (R335). -/
def copyPost (c : Copy) (status : Nat) : State :=
  match c.dsem with
  | some i => s.post ⟨c.t, i, 1⟩ 1 status
  | none => s

/-- A copy ends: the channel takes the next queued copy, or goes IDLE with CHWM at CHLIM (R162). -/
def copyEnd (u ch status : Nat) : State :=
  let x := s.chan u ch
  let s := match x.cur with | some c => s.copyPost c status | none => s
  match x.queue with
  | c :: r => s.copyGo u ch { x with queue := r } c
  | [] => (s.setChan u ch { x with st := .idle, cur := none, wm := x.lim }).haltNow u ch

/-- A copy that faults stops its channel, posts FAULT and writes its record (R158, R335, R389, R391). -/
def copyFault (u ch : Nat) (c : Copy) (cause : Nat) (va : Word) : State :=
  let g := s.ghost c.ltag c.gang c.crew c.tid u
  let key := (clusterOf u, (s.launchOf g).port, va.toNat / 4096 * 4096)
  let s := { s with trans := { s.trans with deliver := if cause = 5 then s.trans.deliver.filter (· != key) else s.trans.deliver } }
  let s := (s.setChan u ch { s.chan u ch with st := .stopped, cur := none }).haltNow u ch
  let s := s.record { cls := 3, scope := 1, cause := 0x021, ltag := c.ltag, gang := c.gang, crew := c.crew, tid := c.tid, slot := c.t.slot,
                      unit := u, agent := 3, pc := c.pc, va := va, pa := s.namedPa g va, detail := wd cause }
  s.copyPost c 1

/-- Writes the next block of the current copy of a channel, and moves its watermark (R164); a cancelled copy ends with the block that was in
flight (R158). -/
def copyBlock (u ch : Nat) (c : Copy) (dpa : Nat) (mirror : Option Nat) (b : BlockW) : State :=
  let desc := match Tmpl.dmode c.tmpl with | 0 => b.desc | 1 => Tmpl.ddesc c.tmpl | _ => s.descOf dpa
  let psn := match Tmpl.dmode c.tmpl with
    | 0 => b.psn
    | 1 => b.psn.filter fun e => e.1 < 8
    | _ => (b.psn.filter fun e => e.1 < 8) ++ (s.readBlock dpa).psn.filter fun e => e.1 == 8
  let s := (s.takeBank dpa).engWrite c.t { b with pa := dpa, desc := desc, psn := psn } mirror
  let n := c.next + 1
  if c.cancelled then s.copyEnd u ch 5
  else if n < c.repeats * Tmpl.blocks c.tmpl then
    let x := s.chan u ch
    ((s.setChan u ch { x with cur := some { c with next := n, waiting := false, inHand := none }, wm := x.base + wd (Tmpl.dstOff c.tmpl n) }).sched
      (if n % 4 = 0 then 1 else 0) (rankCx u) (.cxBlockWrite u ch)).haltNow u ch
  else s.copyEnd u ch 0

/-- A copy's access waits: one that a residency hold keeps goes on in the order in which accesses parked (R129), any other is tried again. -/
def copyWait (u ch : Nat) (g : Thread) (w : WaitFor) : State :=
  let s := s.engWait g w
  match w with
  | .hold va => s.fresh.setChan u ch { s.chan u ch with held := some (s.nextId, va) }
  | _ => s.sched 8 (rankCx u) (.cxBlockWrite u ch)

/-- A bank or a stack does not take the access of a channel in this cycle: it keeps its order of arrival (R109). -/
def copyAgain (u ch pa : Nat) : State := (s.engWaitsAt pa).sched 1 rankAgain (.cxBlockWrite u ch)

/-- The block that a copy has read is written, once the bank of its destination is free (R109, R164, R335). -/
def copyPut (u ch : Nat) : State :=
  let x := s.chan u ch
  match x.st, x.cur with
  | .run, some c => (match c.inHand with
    | none => s
    | some b =>
      match s.engPlace (s.ghost c.ltag c.gang c.crew c.tid u) .write (x.base + wd (Tmpl.dstOff c.tmpl c.next)) with
      | .here dpa m => if s.hbmWaits dpa || !s.bankFree dpa then s.copyAgain u ch dpa else s.copyBlock u ch c dpa m b
      | .bad e => if c.cancelled then s.copyEnd u ch 5 else s.copyFault u ch c e (x.base + wd (Tmpl.dstOff c.tmpl c.next))
      | _ => ((s.setChan u ch { x with cur := some { c with waiting := false, inHand := none } }).sched 8 (rankCx u) (.cxBlockWrite u ch)).haltNow u ch)
  | _, _ => s

/-- The next block of the running copy of a channel: its source read, its destination written (R164, R335), each as its bank accepts it (R109). -/
def copyStep (u ch : Nat) : State :=
  let x := s.chan u ch
  match x.st, x.cur with
  | .run, some c =>
    if c.waiting then s.copyPut u ch
    else if c.cancelled then s.copyEnd u ch 5
    else
      let g := s.ghost c.ltag c.gang c.crew c.tid u
      let sva := Tmpl.srcOf c.tmpl c.next
      let dva := x.base + wd (Tmpl.dstOff c.tmpl c.next)
      match s.engPlace g .write dva with
      | .bad e => s.copyFault u ch c e dva
      | .there _ _ => s.copyFault u ch c 3 dva
      | .wait w => s.copyWait u ch g w
      | .here _ _ =>
        match s.engPlace g .read sva with
        | .bad e => s.copyFault u ch c e sva
        | .wait w => s.copyWait u ch g w
        | .here pa _ =>
          if !c.timed then (s.setChan u ch { x with cur := some { c with timed := true } }).sched (s.returnAfter u pa) (rankCx u) (.cxBlockWrite u ch)
          else if s.hbmWaits pa || !s.bankFree pa then s.copyAgain u ch pa
          else
            let r := (s.takeBank pa).eccBlock c.ltag u pa (s.readBlock pa)
            (r.1.setChan u ch { x with cur := some { c with waiting := true, inHand := some r.2 } }).copyPut u ch
        | .there dev pa =>
          if !c.timed then (s.setChan u ch { x with cur := some { c with timed := true } }).sched (s.returnAfter u pa) (rankCx u) (.cxBlockWrite u ch)
          else
            (s.setChan u ch { x with cur := some { c with waiting := true } }).sendReq (stackOf u)
              { s.blankPkt 0x01 0 dev with opsz := 5, addr := pa, flow := ⟨s.devid, u, c.t.slot, dev⟩ }
              (.cxRead u ch c.id c.next)
  | _, _ => s

end State

/-! ## The CX group (R333 to R337) -/

/-- CXTPL (R334): the image is read as one block and checked; the template is written whole. -/
def execCxtpl (e : Ext) (s : State) : Host.Outcome State Fault Refusal :=
  onCur s fun t =>
    let va := t.rd e.a
    if bits va 60 4 != 1 then s.fault t (infoVa 3 va false 0) va
    else match s.check t .load 64 false va with
    | .bad info v => s.fault t info v
    | .wait w => s.parkOn t w
    | .ok (.here pa) _ =>
      if t.out.any (·.store) then s.park t .stores
      else match s.stall t (.here pa) 64 false false false with
      | some w => s.parkOn t w
      | none =>
        let b := s.readBlock pa
        let tm := (State.blockPayload b).take 8
        match b.first with
        | some p => s.consume t p va (wd (s.devid * 2 ^ 40 + pa))
        | none =>
          if Tmpl.ok tm then
            let tm := tm.set 6 (Tmpl.dw tm 6 ||| 0x80000000)
            (s.onUnit t.unit fun x => { x with tmpls := mset x.tmpls (tmplKey t.ltag (e.sh 0 8)) tm }).done
              { t with eligRound := max t.eligRound (s.round + 4) } 3 e.sm []
          else s.illegal t 3 0
    | .ok _ _ => s.fault t (infoVa 3 va false 0) va

/-- CXGO (R335). -/
def execCxgo (e : Ext) (s : State) : Host.Outcome State Fault Refusal :=
  onCur s fun t =>
    let v := t.rd e.a
    let ch := chanKey t.ltag (Tmpl.chan (s.tmpl t.unit (tmplKey t.ltag (bits v 0 8))))
    let src := wd (Tmpl.src (s.tmpl t.unit (tmplKey t.ltag (bits v 0 8))))
    if s.startRefused t ch v then s.illegal t 3 0
    else if s.copyInRegs t v then s.fault t (infoVa 3 src false 0) src
    else match s.startHold t ch v with
      | some w => s.park t w
      | none => (s.startCopy t ch v).done t 3 e.sm []

/-- CXWM (R336): a channel that is not IDLE refuses it before its addresses are checked (R327). -/
def execCxwm (e : Ext) (s : State) : Host.Outcome State Fault Refusal :=
  onCur s fun t =>
    let a := t.rd e.a
    let b := t.rd e.b
    let x := s.chan t.unit (chanKey t.ltag (e.sh 0 6))
    if x.st != .idle then s.illegal t 3 0
    else if a.toNat % 64 != 0 || b.toNat % 64 != 0 || b.toNat ≤ a.toNat || (s.vaExtent t.ltag t.unit a.toNat (b.toNat - a.toNat)).isNone then
      s.fault t (infoVa 3 a false 0) a
    else if t.out.any (·.store) then s.park t .stores
    else (s.setChan t.unit (chanKey t.ltag (e.sh 0 6)) { x with ltag := t.ltag, base := a, lim := b, wm := b }).done t 3 e.sm []

/-- CXSTOP (R337): of a channel in RUN, D takes CHWM once the block in flight, if there is one, is written. A result that waits for none returns 12
cycles after issue (DESIGN CHOICE: R337 calls it long class and gives no time; log entry 82). -/
def execCxstop (e : Ext) (s : State) : Host.Outcome State Fault Refusal :=
  onCur s fun t =>
    if t.out.any (·.store) then s.park t .stores
    else
      let ch := chanKey t.ltag (e.sh 0 6)
      let x := s.chan t.unit ch
      s.withEntry t fun id =>
        if x.st == .run && x.cur.any (·.waiting) then
          (s.setChan t.unit ch { x with halt := true, stops := x.stops ++ [(t.ref, id)] }).done (t.take [e.d] none false) 3 e.sm []
        else (s.setChan t.unit ch (if x.st == .run then { x with st := .stopped } else x)).longDone t 3 e.sm e.d ⟨x.wm, none⟩ 12

/-- CXRST (R337), at once: CXSTOPs that still waited take CHBASE. -/
def execCxrst (e : Ext) (s : State) : Host.Outcome State Fault Refusal :=
  onCur s fun t =>
    if t.out.any (·.store) then s.park t .stores
    else
      let ch := chanKey t.ltag (e.sh 0 6)
      let x := s.chan t.unit ch
      let s := (s.setChan t.unit ch { x with st := .idle, held := none, cur := none, queue := [], wm := x.base }).haltNow t.unit ch
      let s := (x.cur.toList ++ x.queue).foldl (fun s c => s.copyPost c 5) s
      -- the posts may have reached this thread
      match s.ref? t.ref with
      | some t => s.done t 3 e.sm []
      | none => s

/-- CX_BLOCK_WRITE (R164). -/
def execCxBlockWrite (unit : Nat) (chan : Nat) (s : State) : Host.Outcome State Fault Refusal := event (s.copyStep unit chan)

/-! ## Tile moves (R331, R332) -/

/-- The pieces of a row of an operand: cut at every 4 KiB of VA. -/
def rowPieces (va : Nat) : Nat → Nat → List (Nat × Nat)
  | 0, _ => []
  | fuel + 1, len => if len = 0 then [] else
      let n := min len (4096 - va % 4096)
      (va, n) :: rowPieces (va + n) fuel (len - n)

def tilePieces (va stride rowBytes rows : Nat) : List (Nat × Nat) :=
  (List.range rows).flatMap fun i => rowPieces (va + i * stride) 18 rowBytes

namespace State
variable (s : State)

/-- The translation of an operand of a tile move, as it stands at issue (R332): pieces (first block, global physical address, blocks). -/
def tileTrans (t : Thread) (k : AKind) : List (Nat × Nat) → Nat → List (Nat × Nat × Nat) → Chk ⊕ List (Nat × Nat × Nat)
  | [], _, acc => .inr acc.reverse
  | (va, n) :: r, b, acc =>
    match s.check t k 64 false (wd va) with
    | .ok (.here pa) _ => tileTrans t k r (b + n / 64) ((b, s.devid * 2 ^ 40 + pa, n / 64) :: acc)
    | .ok (.there d pa) _ => tileTrans t k r (b + n / 64) ((b, d * 2 ^ 40 + pa, n / 64) :: acc)
    | c => .inl c

/-- A failed translation: the fault, or what the thread waits for (R125, R129, R332). -/
def tileBad (t : Thread) : Chk → State
  | .bad info va => s.fault t info va
  | .wait w => s.parkOn t w
  | .ok _ _ => s

/-- The destination blocks of a tile move that are mirrored, with their device (R378). -/
def tileMirror (t : Thread) : List (Nat × Nat) → Nat → List (Nat × Nat × Nat)
  | [], _ => []
  | (va, n) :: r, b =>
    let rest := tileMirror t r (b + n / 64)
    match s.check t .write 64 false (wd va) with
    | .ok _ e => (match mirrorDev e with | some d => (b, d, n / 64) :: rest | none => rest)
    | _ => rest

/-- An operand is remote when its translation names another device (R332). -/
def tileRemote (ps : List (Nat × Nat × Nat)) : Bool := ps.any fun p => p.2.1 / 2 ^ 40 != s.devid

/-- The global physical address of block `n` of an operand. -/
def tileBlock (ps : List (Nat × Nat × Nat)) (n : Nat) : Nat :=
  match ps.find? fun p => p.1 ≤ n && n < p.1 + p.2.2 with
  | some p => p.2.1 + 64 * (n - p.1)
  | none => 0

/-- The device that mirrors a destination block of a tile move. -/
def tileMirrorOf (c : Cmd) (n : Nat) : Option Nat := (c.mirror.find? fun p => p.1 ≤ n && n < p.1 + p.2.2).map (·.2.1)

def tileBlocks (ps : List (Nat × Nat × Nat)) : Nat := (ps.map (·.2.2)).sum

/-- A command as the thread issues it, its operands read (R156, R327). -/
def newCmd (t : Thread) (k : EngKind) (i : Instr) (e : Ext) (sems : Bool) : Cmd :=
  { id := s.nextId, eng := k, t := t.ref, ltag := t.ltag, gang := t.gang, crew := t.crew, tid := t.tid, ins := i, d := t.rd e.d,
    a := t.rd e.a, b := t.rd e.b, c := t.rd e.c, n := t.rd e.n, p7 := if e.rm = 5 then vget t.p 7 else 0, seed := t.seed,
    csem := if e.cen then some e.csem else none, dsem := if sems then some e.dsem else none, pc := t.pc, inrgn := t.inrgn,
    issued := s.now, start := none, first := 0, consumed := false, doneAt := 0, read := .none, res := none, applied := false, wrote := 0,
    stopAt := none, src := [], dst := [], mirror := [], next := 0, waiting := false, cancelled := false,
    subs := [], latch := none }

/-- Puts a command into its engine's queue with its scoreboard entries (R153, R156). -/
def accept (c : Cmd) (entries : List (List (Nat × Nat) × Bool)) : State :=
  s.fresh.onUnit c.t.unit fun x =>
    { x with cmds := x.cmds ++ [c], board := x.board ++ entries.map fun e => { cmd := c.id, ext := e.1, dest := e.2 } }

/-- A block of a tile move has been written: the move ends with its last block (R176), a cancelled one with the block that was in flight (R158,
R332). -/
def tileNext (c : Cmd) (delay : Nat) : State :=
  let u := c.t.unit
  if c.cancelled then s.finish u c.id 5
  else if tileBlocks c.dst ≤ c.next + 1 then s.finish u c.id 0
  else (s.onCmd u c.id fun c => { c with next := c.next + 1, waiting := false, inHand := none }).sched delay (rankEng u .tmv) (.tmvBlockDone u c.id)

/-- A bank or a stack does not take the access of a tile move in this cycle: it keeps its order of arrival (R109). -/
def tileAgain (u id pa : Nat) : State := (s.engWaitsAt pa).sched 1 rankAgain (.tmvBlockDone u id)

/-- The block that a tile move has read is written, once the bank of its destination is free (R109, R332). -/
def tilePut (u id : Nat) : State :=
  match s.cmd? u id with
  | some c => (match c.inHand with
    | none => s
    | some b =>
      let pa := tileBlock c.dst c.next % 2 ^ 40
      if s.hbmWaits pa || !s.bankFree pa then s.tileAgain u id pa
      else ((s.takeBank pa).engWrite c.t { b with pa := pa } (tileMirrorOf c c.next)).tileNext c (if c.next % 4 = 3 then 1 else 0))
  | none => s

/-- The next block of a tile move (R332): read, written, or asked of another device, each as its bank accepts it (R109) and its stack serves
(R226); the source read in full releases it. -/
def tileStep (u id : Nat) : State :=
  match s.cmd? u id with
  | some c =>
    if c.waiting then s.tilePut u id
    else if c.cancelled || s.stopping c.ltag u then s
    else if tileBlocks c.dst ≤ c.next then s.finish u id 0
    else
      let origin := tileBlock c.src c.next
      let dest := tileBlock c.dst c.next
      let away (d : Nat) : Bool := d / 2 ^ 40 != s.devid
      if away origin then
        (s.onCmd u id fun c => { c with waiting := true }).sendReq (stackOf u) { s.blankPkt 0x01 0 (origin / 2 ^ 40) with
          opsz := 5, addr := origin % 2 ^ 40, flow := ⟨s.devid, u, c.t.slot, origin / 2 ^ 40⟩ } (.tmvRead u id c.next)
      else if s.hbmWaits (origin % 2 ^ 40) || !s.bankFree (origin % 2 ^ 40) then s.tileAgain u id (origin % 2 ^ 40)
      else
        let r := (s.takeBank (origin % 2 ^ 40)).eccBlock c.ltag u (origin % 2 ^ 40) (s.readBlock (origin % 2 ^ 40))
        let b := r.2
        let s := if c.next + 1 = tileBlocks c.src then r.1.consumed u id 0 else r.1
        if away dest then
          (s.onCmd u id fun c => { c with waiting := true }).sendReq (stackOf u) { s.blankPkt 0x03 0 (dest / 2 ^ 40) with
            opsz := 5, addr := dest % 2 ^ 40, payload := blockPayload b, poisoned := b.psnBits,
            flow := ⟨s.devid, u, c.t.slot, dest / 2 ^ 40⟩ } (.tmvWrite u id c.next)
        else (s.onCmd u id fun c => { c with waiting := true, inHand := some b }).tilePut u id
  | none => s

end State

/-- TMV_BLOCK_DONE (R332). -/
def execTmvBlockDone (unit : Nat) (id : Nat) (s : State) : Host.Outcome State Fault Refusal := event (s.tileStep unit id)

/-- TMV (R331, R332). The first block is read, or asked of another device, after the latency of its source's level; of a source on another device
that of the same local address (DESIGN CHOICE: R108 and R112 give the levels of this device alone; log entry 81). -/
def execTmv (e : Ext) (s : State) : Host.Outcome State Fault Refusal :=
  onCur s fun t =>
    let n := t.rd e.n
    let rows := bits n 0 12 + 1
    let rb := 64 * (bits n 12 10 + 1)
    let ss := bits (t.rd e.c) 0 32
    let ds := bits (t.rd e.c) 32 32
    let a := (t.rd e.a).toNat
    let d := (t.rd e.d).toNat
    let aspan := (rows - 1) * ss + rb
    let dspan := (rows - 1) * ds + rb
    if bits n 22 42 != 0 || ss % 64 != 0 || ds % 64 != 0 || (1 < rows && (ss < rb || ds < rb)) then s.illegal t 3 0
    else if a % 64 != 0 then s.fault t (infoVa 3 (wd a) false 0) (wd a)
    else if d % 64 != 0 then s.fault t (infoVa 3 (wd d) false 0) (wd d)
    else if a / 2 ^ 60 = d / 2 ^ 60 && meets a aspan d dspan then s.fault t (infoVa 3 (wd d) false 0) (wd d)
    else match s.tileTrans t .read (tilePieces a ss rb rows) 0 [] with
    | .inl c => s.tileBad t c
    | .inr sp =>
      let dv := tilePieces d ds rb rows
      match s.tileTrans t .write dv 0 [] with
      | .inl c => s.tileBad t c
      | .inr dp =>
        let sr := s.tileRemote sp
        let dr := s.tileRemote dp
        let sx := if sr then [] else s.rangeExtent t a aspan
        let dx := if dr then [] else s.rangeExtent t d dspan
        let k := b01 (!sr) + b01 (!dr)
        if sr && dr then s.fault t (infoVa 3 (wd d) false 0) (wd d)
        else if t.out.any (·.store) then s.park t .stores
        else if queueSize .tmv ≤ (s.unit t.unit).queued .tmv then s.park t (.queue .tmv)
        else if s.boardHolds t.unit sx false || 64 < (s.unit t.unit).board.length + k then s.park t (.board sx false true k)
        else if s.boardHolds t.unit dx true then s.park t (.board dx true true k)
        else if s.markHolds t.unit (sx ++ dx) then s.park t (.mark (sx ++ dx) none)
        else
          let c := { s.newCmd t .tmv (.tmv e) e true with src := sp, dst := dp, mirror := s.tileMirror t dv 0 }
          let entries := (if sr then [] else [(sx, false)]) ++ (if dr then [] else [(dx, true)])
          ((s.accept c entries).sched (s.returnAfter t.unit (State.tileBlock sp 0 % 2 ^ 40)) (rankEng t.unit .tmv)
            (.tmvBlockDone t.unit c.id)).done t 3 e.sm []

end Sys2Proof.Machine
end

