-- ==== Sys2Proof/Machine/Regs.lean ====
section
/-! DEFINITION. The register space (R7 to R9, R18 to R20, R29, R30, R201, R219, R223, R224, R232 to R238): what each register reads
and what a write of it does. -/

namespace Sys2Proof.Machine

/-- The bits of `v` that `m` covers, the rest as in `old`. -/
def merge (old v m : Word) : Word := (old &&& ~~~m) ||| (v &&& m)

/-- A power of two from 64 to 4,096 (R29). -/
def ringSize (v : Word) : Option Nat := [64, 128, 256, 512, 1024, 2048, 4096].find? fun n => v.toNat == n

namespace State
variable (s : State)

/-! ## Launch ports (R28 to R30, R54) -/

def lport (p : Nat) : LPort := nget s.disp.ports p LPort.reset
def setPort (p : Nat) (x : LPort) : State := { s with disp := { s.disp with ports := nset s.disp.ports p x } }

/-- LPSTAT (R30). -/
def lpstat (p : Nat) : Word :=
  let q := s.lport p
  wd (b01 q.ovf * 2 ^ 31 + b01 q.headwait * 2 ^ 30 + b01 q.placing * 2 ^ 29 + (64 - q.queue.length) * 2 ^ 8 + q.drops)

/-- A record is committed: it joins the queue, or is dropped when the queue is full (R29, R30). -/
def commitRecord (p : Nat) (r : QRec) : State :=
  let q := s.lport p
  if 64 ≤ q.queue.length then 
    s.setPort p { q with ovf := true, drops := min 255 (q.drops + 1),
                         dropAt := (s.now, if q.dropAt.1 = s.now then q.dropAt.2 + 1 else 1) }
  else s.setPort p { q with queue := q.queue ++ [r] }

/-- The held completion entries of a port are written at LPCQT while the ring takes them; each advances LPCQT and signals its vector
(R54). One waits for a lane test (R398) and for an access that reached its bank before (R109). -/
def writeHeld : State → Nat → Nat → State
  | s, _, 0 => s
  | s, p, fuel + 1 =>
    let q := s.lport p
    match q.held with
    | (ws, vec) :: r =>
      let a := q.cqb.toNat / 64 * 64 + 64 * q.cqt
      if !q.cqb.getLsbD 0 || (q.cqt + 1) % q.cqn = q.cqh % q.cqn || s.chanHeld a || s.waitsOn [(a, 64)] then s
      else
        let s := ws.zipIdx.foldl (fun s (w, i) => s.store (a + 8 * i) 8 ⟨w, none⟩) s
        let s := s.setPort p { q with held := r, cqt := (q.cqt + 1) % q.cqn }
        let s := match vec with | some v => s.msi v | none => s
        writeHeld s p fuel
    | [] => s

/-- A completion entry, held until the ring takes it (R54). -/
def completion (p : Nat) (ws : List Word) (vec : Option Nat) : State :=
  let q := s.lport p
  (s.setPort p { q with held := q.held ++ [(ws, vec)] }).writeHeld p (q.held.length + 1)

/-! ## The lattice (R12 to R20) -/

def lpos (st f : Nat) : LbPos := (mget s.lat.pos (36 * st + f)).getD .reset
/-- The primary slab of a position, plus one; the reserved PSEL names none. -/
def slab1 (f : Nat) (q : LbPos) : Nat := f + q.psel.toNat
def enabled (st : Nat) : List (Nat × LbPos) := ((List.range 36).map fun f => (f, s.lpos st f)).filter fun e => e.2.en

/-- The slabs that the enabled positions take, plus one, in the order of the positions; one with the reserved PSEL takes none. -/
def slabs1 (st : Nat) : List Nat :=
  ((s.enabled st).filter fun e => e.2.psel != 3).flatMap fun e => if e.2.gang then [slab1 e.1 e.2, slab1 e.1 e.2 + 1] else [slab1 e.1 e.2]

/-- Strictly rising numbers. -/
def risingNat : List Nat → Bool
  | a :: b :: r => a < b && risingNat (b :: r)
  | _ => true

/-- The code of an APPLY (R20): BUSY before the others, which the table orders (log entry 20). -/
def applyCode (st : Nat) : Nat :=
  let en := s.enabled st
  if s.pkg.lat.getLsbD st then 5
  else if !risingNat (s.slabs1 st) then 1
  else if en.any fun e => e.2.psel == 3 || (e.2.gang && e.2.psel == 2) || slab1 e.1 e.2 == 0 || 36 < slab1 e.1 e.2 + b01 e.2.gang then 2
  else if en.any fun e => e.2.febad || e.2.feret ||
      (((if e.2.gang then [slab1 e.1 e.2, slab1 e.1 e.2 + 1] else [slab1 e.1 e.2]).any fun x =>
        (s.lpos st (x - 1)).slbad || (s.lpos st (x - 1)).slret)) then 3
  else if 32 < en.length then 4
  else 0

/-- Where a byte of S1 lies after a stack is bound anew (R11): the S1 of a slab goes with it, to the unit whose primary slab it now is. That of a
slab which was no unit's primary slab, left out by the binding before or retired since, is not kept, and reads zero once a binding makes it one
(DESIGN CHOICE: R11 does not say whether it keeps its contents; log entry 89). -/
def movedS1 (st : Nat) (old new : List UnitBind) (a : Nat) : Option Nat :=
  let u := (a - levelBase 1 0) / 0x1000000
  if a < levelBase 1 (32 * st) || levelBase 1 (32 * st + 32) ≤ a then some a
  else (old.find? fun b => b.unit == u).bind fun b =>
    (new.find? fun c => c.unit / 32 == st && c.slab == b.slab).map fun c => a % 0x1000000 + levelBase 1 c.unit

/-- A map by quanta of `q` bytes whose entries move to other addresses, or go. -/
def moveMap {α : Type} (put : Map α → Nat → α → Map α) (f : Nat → Option Nat) (q : Nat) (m : Map α) : Map α :=
  m.foldl (fun r e => match f (q * e.1) with
    | some a => put r (a / q) e.2
    | none => r) []

/-- The contents of the stack's S1 go with their slabs (R11). -/
def moveS1 (st : Nat) (old new : List UnitBind) : State :=
  let f := movedS1 st old new
  { s with mem := moveMap wrByte f 1 s.mem, desc := moveMap wrDesc f 64 s.desc,
           psn := moveMap mset f 8 s.psn, descPsn := moveMap mset f 64 s.descPsn }

/-- APPLY (R14 to R20, R227): a valid binding takes effect, numbers the units in lattice order and sets the stack's READY bit; a refused one
leaves the binding as it is, with a LATTICE record at bring-up (R380). A stack short of units raises REPLACE (R17), which does not say by
which cause: DESIGN CHOICE, SLAB where a slab of the stack is bad or retired and MILL where a front end is (log entry 65). -/
def applyBinding (st : Nat) : State :=
  let code := s.applyCode st
  let old := nget s.lat.stat st { bound := false, short := false, units := 0, ganged := 0, code := 0 }
  if code != 0 then
    let s := { s with lat := { s.lat with stat := nset s.lat.stat st { old with code := code } } }
    if code = 5 then s else s.record { cls := 4, scope := 4, cause := 0x212, agent := 11, detail := wd (st + code * 256) }
  else
    let en := s.enabled st
    let units := en.zipIdx.map fun (e, i) =>
      ({ unit := 32 * st + i, fe := e.1, slab := slab1 e.1 e.2 - 1, ganged := e.2.gang } : UnitBind)
    let pos := en.zipIdx.foldl (fun m (e, i) => mset m (36 * st + e.1) { e.2 with lunit := i }) s.lat.pos
    let short := en.length < 32
    let s := { s.moveS1 st s.lat.units units with
      lat := { pos := pos, units := (s.lat.units.filter fun b => b.unit / 32 != st) ++ units,
               stat := nset s.lat.stat st { bound := true, short := short, units := en.length,
                                            ganged := (en.filter fun e => e.2.gang).length, code := 0 } },
      units := s.units.map fun e => if e.1 / 32 = st then (e.1, { e.2 with retired := false, draining := false }) else e,
      pkg := { s.pkg with lat := if s.pkg.dead then s.pkg.lat else s.pkg.lat ||| BitVec.ofNat 4 (2 ^ st) } }
    if short then
      let bad := (List.range 36).map fun f => s.lpos st f
      let s := if bad.any fun q => q.slbad || q.slret then s.replace 0 else s
      if bad.any fun q => q.febad || q.feret then s.replace 1 else s
    else s

/-! ## Translation registers (R110, R111, R126, R233) -/

/-- HBMPLACE0 or 1: each quad whose bit changes is zeroed, then takes its mode (R111). -/
def placeWrite (hi : Bool) (v : Word) : State :=
  let old := if hi then s.trans.hbmplace1 else s.trans.hbmplace0
  let s := (List.range 64).foldl (fun s i =>
    if old.getLsbD i != v.getLsbD i then
      (List.range 4).foldl (fun s j => s.zero ((i + (if hi then 64 else 0) + 128 * j) * 2 ^ 30) (2 ^ 30)) s
    else s) s
  { s with trans := if hi then { s.trans with hbmplace1 := v } else { s.trans with hbmplace0 := v } }

/-- The descriptor window (R233): each half covered is one STBD of its block. -/
def descWindow (off size : Nat) (v : Word) : State :=
  (List.range (size / 2)).foldl (fun s i =>
    s.setDesc (s.trans.dwinbase.toNat + 64 * (off / 2 + i)) (v.extractLsb' (16 * i) 16)) s

/-! ## Photonics (R219, R221) -/

def ring (p f r : Nat) : Ring := (mget s.phot.rings ((8 * p + f) * 68 + r)).getD (.reset r)
def setRing (p f r : Nat) (x : Ring) : State :=
  { s with phot := { s.phot with rings := mset s.phot.rings ((8 * p + f) * 68 + r) x } }
def ringWord (p f r : Nat) : Word :=
  let x := s.ring p f r
  let pd := match s.phot.pd with
    | some n => (Config.measuredLight n ((8 * p + f) * 68 + r)).toNat
    | none => 0
  wd (b01 x.men * 2 ^ 47 + b01 (64 ≤ r) * 2 ^ 46 + x.map * 2 ^ 40 + pd * 2 ^ 16 + x.htr)

/-- A write of RING (R219, R221): MAP is ignored while MEN is 1; MEN set takes the wavelength from the ring that held it, whose light
moves at the next flit boundary. -/
def ringStore (p f r : Nat) (v m : Word) : State :=
  let x := s.ring p f r
  let w := merge (s.ringWord p f r) v m
  let y := { x with men := w.getLsbD 47, map := if x.men then x.map else bits w 40 6, htr := bits w 0 12 }
  let s := s.setRing p f r y
  if y.men && !x.men then
    match (List.range 68).find? fun b => b != r && (s.ring p f b).men && (s.ring p f b).map == y.map with
    | some b =>
      let s := s.setRing p f b { s.ring p f b with men := false }
      { s with phot := { s.phot with light := (p, f, y.map, b) :: s.phot.light } }.sched 1 rankLate (.wavelengthMove p f y.map)
    | none => s
  else s

/-! ## MSI-X (R224) -/

def msixEnt (v : Nat) : MsixEnt := (mget s.host.msix v).getD ⟨0, 0, 1⟩

/-- A vector whose mask bit is clear and whose pending bit is set sends its message. -/
def sendPending (v : Nat) : State :=
  if s.host.pending.contains v && !(s.msixEnt v).ctrl.getLsbD 0 then
    { s with host := { s.host with pending := s.host.pending.filter (· != v), sent := v :: s.host.sent } }
  else s

/-- A write of half `h` of the table entry of a vector: address, or data and control. -/
def msixWrite (v h : Nat) (x m : Word) : State :=
  let e := s.msixEnt v
  let e := if h = 0 then { e with addr := merge e.addr x m }
    else
      let w := merge (e.ctrl ++ e.data) x m
      { e with data := w.extractLsb' 0 32, ctrl := w.extractLsb' 32 32 }
  { s with host := { s.host with msix := mset s.host.msix v e } }.sendPending v

/-- The pending-bit array (R224). -/
def pba (i : Nat) : Word := (List.range 64).foldl (fun w b => if s.host.pending.contains (64 * i + b) then w ||| wd (2 ^ b) else w) 0

/-! ## Crumbs in the router debug window (R215) -/

def crumbWord (c i : Nat) : Word :=
  match mget s.fab.crumbs c with
  | none => 0
  | some x =>
    if i = 0 then
      wd (2 ^ 63 + x.op.toNat * 2 ^ 61 + (x.members.length - 1) * 2 ^ 57 + (x.addends.length - 1) * 2 ^ 53 + x.dst * 2 ^ 41 + x.addr)
    else if i ≤ 16 then
      match x.members[i - 1]? with
      | some q => wd (q.src * 2 ^ 52 + q.tag * 2 ^ 32 + b01 q.noreply * 2 ^ 31 + q.input * 2 ^ 26 + q.first * 2 ^ 22 + (q.nl - 1) * 2 ^ 18)
      | none => 0
    else x.addends.getD (i - 17) 0

/-! ## What a register reads -/

def readyWord : Word :=
  wd (s.pkg.opt.toNat * 2 ^ 16 + s.pkg.hbm.toNat * 2 ^ 8 + s.pkg.lat.toNat * 2 ^ 4 + b01 s.pkg.disp * 4 + b01 s.pkg.hostUp * 2 + b01 s.pkg.stew)

def packageReg (o : Nat) : Word :=
  match o with
  | 0x00 => 0x27000000
  | 0x08 => s.readyWord
  | 0x10 => s.pkg.replace.setWidth 64
  | 0x18 => s.pkg.repcfg
  | 0x20 => wd s.now
  | 0x28 => s.pkg.telpwr.setWidth 64
  | 0x30 => wd (s.pkg.clkStep.toNat + s.pkg.clkCount.toNat * 2 ^ 16)
  | 0x38 => wd ((List.range 4).map fun i => (nget s.pkg.telTemp i 0).toNat * 2 ^ (16 * i)).sum
  | 0x40 => s.pkg.bootstat
  | 0x48 => wd (s.pkg.mode.toNat + b01 s.pkg.owner.isSome * 4)
  | _ => 0

def portReg (p o : Nat) : Word :=
  let q := s.lport p
  match o with
  | 0x40 => s.lpstat p
  | 0x48 => q.cqb
  | 0x50 => wd q.cqn
  | 0x58 => wd q.cqt
  | 0x60 => wd q.cqh
  | _ => 0

def dispReg (o : Nat) : Word :=
  if o < 0x800 then s.portReg (o / 0x100) (o % 0x100)
  else match o with
  | 0x1008 => wd (b01 s.disp.preBusy * 2 ^ 63 + s.disp.preResult.toNat)
  | 0x1010 => s.disp.savebase
  | 0x1018 => s.disp.savesz
  | _ => 0

def latticeReg (st o : Nat) : Word :=
  if o = 8 then
    let x := nget s.lat.stat st { bound := false, short := false, units := 0, ganged := 0, code := 0 }
    wd (b01 x.bound * 2 ^ 31 + b01 x.short * 2 ^ 30 + x.units * 2 ^ 16 + x.ganged * 2 ^ 8 + x.code)
  else if 0x100 ≤ o && o < 0x220 then
    let q := s.lpos st ((o - 0x100) / 8)
    wd (b01 q.en * 2 ^ 31 + b01 q.gang * 2 ^ 30 + q.psel.toNat * 2 ^ 26 + q.lunit * 2 ^ 16 + b01 q.febad * 2 ^ 7 +
      b01 q.slbad * 2 ^ 6 + b01 q.feret * 2 ^ 5 + b01 q.slret * 2 ^ 4)
  else 0

/-- A register of the log block of an HBM4E stack (R399). -/
def logReg (h o : Nat) : Word :=
  let x := nget s.pkg.hbmLogs h { arr := [], xfer := [], testing := [], alogn := 0, tlogn := 0, lanemap := [] }
  let half (m : Map (Word × Word)) (i : Nat) : Word :=
    let e := (mget m (i / 2)).getD (0, 0)
    if i % 2 = 0 then e.1 else e.2
  if o < 0x400 then half x.arr (o / 8)
  else if o < 0x800 then half x.xfer ((o - 0x400) / 8)
  else if o = 0x800 then wd (x.alogn % 2 ^ 32)
  else if o = 0x808 then wd (x.tlogn % 2 ^ 32)
  else if 0x900 ≤ o && o < 0xB00 then (mget x.lanemap ((o - 0x900) / 8)).getD 0
  else 0

def memoryReg (o : Nat) : Word :=
  if o < 0x40 then nget s.trans.ptroot (o / 8) 0
  else if 0x1000 ≤ o && o < 0x9000 then s.logReg ((o - 0x1000) / 0x1000) (o % 0x1000)
  else match o with
  | 0x40 => s.trans.tinvbase
  | 0x48 => s.trans.tinvlim
  | 0x50 => s.trans.hbmplace0
  | 0x58 => s.trans.hbmplace1
  | 0x60 => s.trans.hwinbase
  | 0x68 => s.trans.dwinbase
  | 0x70 => s.trans.dirbase
  | 0x78 => s.trans.rufree
  | 0x80 => s.trans.rcqb
  | 0x88 => wd s.trans.rcqn
  | 0x90 => wd s.trans.rcqt
  | 0x98 => wd s.trans.rcqh
  | _ => 0

def mailboxReg (o : Nat) : Word :=
  if 0x1000 ≤ o && o < 0x2000 then leWord ((List.range 8).map fun i => (mget s.host.mbxData (o - 0x1000 + i)).getD 0)
  else match o with
  | 0x00 => 0x0100
  | 0x10 => wd (b01 s.host.mbxBusy * 2 ^ 63 + s.host.mbxResult.toNat)
  | 0x18 => s.host.mbxVec
  | _ => 0

def pstat (p : Nat) : Word :=
  let x := nget s.fab.links p Link.reset
  wd (b01 x.up * 2 ^ 63 + b01 x.ver20 * 2 ^ 62 + x.fibres * 2 ^ 48 + x.partnerDev * 2 ^ 36 + x.partnerPort * 2 ^ 32 + min 65535 x.replays)

def fabricReg (o : Nat) : Word :=
  if 0x8000 ≤ o then match mget s.fab.route ((o - 0x8000) / 8) with
    | some e => wd (b01 e.1 * 2 ^ 63 + e.2)
    | none => 0
  else if 0x100 ≤ o && o < 0x180 then s.pstat ((o - 0x100) / 8)
  else if 0x200 ≤ o && o < 0x220 then nget s.fab.escbase ((o - 0x200) / 8) 0
  else match o with
  | 0x00 => s.fab.grpcfg
  | 0x08 => s.fab.portdir
  | 0x10 => wd (b01 s.fab.comb * 2 ^ 63 + s.fab.hold * 2 ^ 32 + s.fab.dltimer * 2 ^ 24 + s.fab.retryto * 2 ^ 16)
  | _ => 0

def photonicReg (p o : Nat) : Word :=
  if o = 0 then wd ((nget s.phot.fup p 0).toNat * 2 ^ 16 + (nget s.phot.temp p 0).toNat)
  else if 0x1000 ≤ o && o < 0x3000 && (o - 0x1000) % 0x400 < 8 * 68 then s.ringWord p ((o - 0x1000) / 0x400) ((o - 0x1000) % 0x400 / 8)
  else 0

/-- The 64-bit register at an offset of the register space that is a multiple of 8; an offset of a listed region at which no register
lies reads zero (log entry 21). -/
def regRead (o : Nat) : Word :=
  if o < 0x10000 then s.packageReg o
  else if o < 0x20000 then s.dispReg (o - 0x10000)
  else if o < 0x30000 then (if o - 0x20000 < 0x4000 then s.latticeReg ((o - 0x20000) / 0x1000) (o % 0x1000) else 0)
  else if o < 0x40000 then s.memoryReg (o - 0x30000)
  else if o < 0x50000 then s.mailboxReg (o - 0x40000)
  else if 0x100000 ≤ o && o < 0x110000 then s.fabricReg (o - 0x100000)
  else if 0x200000 ≤ o && o < 0x300000 then s.photonicReg ((o - 0x200000) / 0x10000) (o % 0x10000)
  else if 0x300000 ≤ o && o < 0x308000 then
    let e := s.msixEnt ((o - 0x300000) / 16)
    if o % 16 = 0 then e.addr else e.ctrl ++ e.data
  else if 0x308000 ≤ o && o < 0x308100 then s.pba ((o - 0x308000) / 8)
  else if 0x800000 ≤ o && o < 0xA00000 then
    (if o % 0x200 < 264 then s.crumbWord ((o - 0x800000) / 0x200) (o % 0x200 / 8) else 0)
  else if 0x1000000 ≤ o && o < 0x2000000 then
    let b := s.trans.dwinbase.toNat / 64 + (o - 0x1000000) / 2
    leWord ((List.range 4).flatMap fun i => natLe 2 ((mget s.desc (b + i)).getD 0).toNat)
  else 0

/-! ## What a write does: `v` in the bits that `m` covers; `act` when it covers bits 63:32 (R223) -/

def packageWrite (o : Nat) (v m : Word) : State :=
  match o with
  | 0x10 => s.clearReplace ((v &&& m).setWidth 7)
  | 0x18 => { s with pkg := { s.pkg with repcfg := merge s.pkg.repcfg v (m &&& 0xFFFF00001FFF07FF) } }
  | _ => s

def portWrite (p o : Nat) (v m : Word) (act : Bool) : State :=
  let q := s.lport p
  if o < 0x40 then
    let x := merge (nget q.win (o / 8) 0) v m
    let q := { q with win := nset q.win (o / 8) x }
    let s := s.setPort p q
    if o = 0x38 && act then s.commitRecord p ⟨q.win, true⟩ else s
  else match o with
  | 0x40 => s.setPort p { q with ovf := q.ovf && (!(v &&& m).getLsbD 31 || (q.dropAt.1 = s.now && q.dropAt.2 != 0)) }
  | 0x48 =>
    let s := s.setPort p { q with cqb := merge q.cqb v m &&& ~~~0x3E }
    if act then s.writeHeld p (q.held.length + 1) else s
  | 0x50 => match ringSize (merge (wd q.cqn) v m) with
    | some n => s.setPort p { q with cqn := n }
    | none => s
  | 0x60 => (s.setPort p { q with cqh := (merge (wd q.cqh) v m).toNat }).writeHeld p (q.held.length + 1)
  | _ => s

def dispWrite (o : Nat) (v m : Word) (act : Bool) : State :=
  if o < 0x800 then s.portWrite (o / 0x100) (o % 0x100) v m act
  else match o with
  | 0x1000 =>
    if s.disp.preBusy then s
    else
      let x := merge s.disp.preempt v m
      let s := { s with disp := { s.disp with preempt := x, preBusy := act } }
      if act then s.sched 0 rankDisp (if x.getLsbD 63 then .preemptRestore else .preemptSave) else s
  | 0x1010 => { s with disp := { s.disp with savebase := merge s.disp.savebase v m &&& ~~~0xFFFF } }
  | 0x1018 => { s with disp := { s.disp with savesz := merge s.disp.savesz v m } }
  | _ => s

/-- The lattice block: 32-bit registers in 64-bit slots, on which a write of bits 31:0 acts (R18, R19, R223). -/
def latticeWrite (st o : Nat) (v m : Word) : State :=
  if !m.getLsbD 0 then s
  else if o = 0 then (if v.getLsbD 0 then s.applyBinding st else s)
  else if 0x100 ≤ o && o < 0x220 then
    let f := (o - 0x100) / 8
    let q := { s.lpos st f with en := v.getLsbD 31, gang := v.getLsbD 30, psel := v.extractLsb' 26 2 }
    { s with lat := { s.lat with pos := mset s.lat.pos (36 * st + f) q } }
  else s

/-- The residency unit takes the next command of its ring (R132, R233, R234): RCQT is the next entry that it takes, RCQH the next that
software writes (log entry 22). An operation that R234 does not give, and an entry that reads poisoned, has no effect, and an open result. An
entry that cannot be read yet, for a lane test or an access that reached its bank before, is looked at again in the next cycle (R109, R398). -/
def serveRing : State → Nat → State
  | s, 0 => s
  | s, fuel + 1 =>
    if !s.trans.rcqb.getLsbD 0 || s.trans.rcqt = s.trans.rcqh % s.trans.rcqn || s.trans.cmdDue || s.trans.works.any (fun w => w.asked.isNone) then s
    else
      let a := s.trans.rcqb.toNat / 64 * 64 + 32 * s.trans.rcqt
      if s.chanHeld a || s.waitsOn [(a, 32)] then s.sched 1 rankRes .residencyResume
      else
      let bad := (List.range 4).any fun i => (s.psnAt (a + 8 * i)).isSome
      let s := s.ueReads 0 0 [a]
      let d0 := (s.load a 8).v
      let c : ResCmd := { va := (s.load (a + 8) 8).v.toNat, dev := bits d0 48 12, port := bits (s.load (a + 16) 8).v 0 3, entry := some a }
      let s := { s with trans := { s.trans with rcqt := (s.trans.rcqt + 1) % s.trans.rcqn } }
      let go (i : Instr) : State :=
        { s with trans := { s.trans with cmdDue := true } }.schedEv 8 rankRes { op := i, pkt := none, cmd := some c }
      match if bad then 0 else bits d0 60 4 with
      | 1 => go .dup
      | 2 => go .migrate
      | 3 => go .collapse
      | 4 => go .split
      | _ => serveRing ({ s with free := s.free + 1 }.store (a + 24) 8 ⟨Config.resUnknown s.free, none⟩) fuel

/-- New hold window and deadlock timer: what waits for either is looked at again (R218, R364). -/
def retime : State :=
  let s := (s.fab.queues.map fun e => (e.port, e.vc)).eraseDups.foldl (fun (s : State) x => s.sched 0 rankLate (.holdExpiry x.1 x.2)) s
  (s.fab.queues.map fun e => (e.input, e.vc)).eraseDups.foldl (fun (s : State) x => s.sched 0 rankLate (.deadlockTimer x.1 x.2)) s

/-- A window base: aligned, and inside HBM, or the write is ignored (R223, R233). -/
def windowBase (old v : Word) (size : Nat) : Word := if v.toNat % size = 0 && v.toNat + size ≤ 2 ^ 39 then v else old

def memoryWrite (o : Nat) (v m : Word) (act : Bool) : State :=
  if o < 0x40 then { s with trans := { s.trans with ptroot := nset s.trans.ptroot (o / 8) (merge (nget s.trans.ptroot (o / 8) 0) v m) } }
  else match o with
  | 0x40 => { s with trans := { s.trans with tinvbase := merge s.trans.tinvbase v m } }
  | 0x48 =>
    let s := { s with trans := { s.trans with tinvlim := merge s.trans.tinvlim v m } }
    if act then s.sched 0 rankRes .tinv else s
  | 0x50 => s.placeWrite false (merge s.trans.hbmplace0 v m)
  | 0x58 => s.placeWrite true (merge s.trans.hbmplace1 v m)
  | 0x60 => { s with trans := { s.trans with hwinbase := windowBase s.trans.hwinbase (merge s.trans.hwinbase v m) s.host.bar2 } }
  | 0x68 => { s with trans := { s.trans with dwinbase := windowBase s.trans.dwinbase (merge s.trans.dwinbase v m) (2 ^ 29) } }
  | 0x70 => { s with trans := { s.trans with dirbase := merge s.trans.dirbase v m &&& ~~~(0xFFFFF : Word) } }
  | 0x78 =>
    let s := { s with trans := { s.trans with rufree := merge s.trans.rufree v m } }
    if !act || s.trans.stalled.isEmpty then s else s.sched 0 rankRes .residencyResume
  | 0x80 =>
    let s := { s with trans := { s.trans with rcqb := merge s.trans.rcqb v m &&& ~~~0x3E } }
    if act then s.serveRing s.trans.rcqn else s
  | 0x88 => match ringSize (merge (wd s.trans.rcqn) v m) with
    | some n => { s with trans := { s.trans with rcqn := n } }
    | none => s
  | 0x98 =>
    let s := { s with trans := { s.trans with rcqh := (merge (wd s.trans.rcqh) v m).toNat } }
    if act then s.serveRing s.trans.rcqn else s
  | _ => s

/-- The ring of the steward log (R373): the latest records, as many as it has room for, the latest first. How large the ring is, where in HBM it
lies, and which mailbox command reads it the manual leaves to the firmware (log entry 19). -/
def logRing : List (List Word) := s.pkg.log.take (Config.logSize / 64)

/-- A mailbox command that reads a record of the steward log: the record stands in MBXDATA, and the command is done. -/
def mailboxLog (i : Nat) : State :=
  let r := s.logRing[i]?
  let bs := ((r.getD []).take 8).flatMap fun w => natLe 8 w.toNat
  let h := { s.host with mbxData := bs.zipIdx.foldl (fun m e => mset m e.2 e.1) s.host.mbxData, mbxResult := Config.mbxDone r.isSome }
  { s with host := h }.msi (bits s.host.mbxVec 0 11)

def mailboxWrite (o : Nat) (v m : Word) (act : Bool) : State :=
  if 0x1000 ≤ o && o < 0x2000 then
    { s with host := { s.host with mbxData := (List.range 8).foldl (fun d i =>
        if m.getLsbD (8 * i) then mset d (o - 0x1000 + i) (v.extractLsb' (8 * i) 8) else d) s.host.mbxData } }
  else match o with
  | 0x08 =>
    if s.host.mbxBusy then s
    else
      let x := merge s.host.mbxCmd v m
      let h := { s.host with mbxCmd := x }
      if !act then { s with host := h }
      else if let some i := Config.mbxLogRead x then { s with host := h }.mailboxLog i
      else if Config.mbxKnown x then { s with host := { h with mbxBusy := true } }
      else { s with host := { h with mbxResult := Config.mbxUnknown } }.msi (bits s.host.mbxVec 0 11)
  | 0x18 => { s with host := { s.host with mbxVec := merge s.host.mbxVec v m } }
  | _ => s

def fabricWrite (o : Nat) (v m : Word) : State :=
  if 0x8000 ≤ o then
    let d := (o - 0x8000) / 8
    let x := merge (s.fabricReg o) v m
    { s with fab := { s.fab with route := if x &&& 0x800000000000000F = 0 then mdel s.fab.route d else mset s.fab.route d (x.getLsbD 63, bits x 0 4) } }
  else if 0x200 ≤ o && o < 0x220 then
    { s with fab := { s.fab with escbase := nset s.fab.escbase ((o - 0x200) / 8) (merge (nget s.fab.escbase ((o - 0x200) / 8) 0) v m) } }
  else match o with
  | 0x00 =>
    let x := merge s.fab.grpcfg v (m &&& 0xFFFCFFF000000000)
    let x := if bits x 50 2 = 3 then merge x s.fab.grpcfg 0x000C000000000000 else x
    { s with fab := { s.fab with grpcfg := x } }
  | 0x08 => { s with fab := { s.fab with portdir := merge s.fab.portdir v m } }
  | 0x10 =>
    let x := merge (s.fabricReg 0x10) v m
    { s with fab := { s.fab with comb := x.getLsbD 63, hold := bits x 32 16,
                                 dltimer := if bits x 24 8 = 0 then s.fab.dltimer else bits x 24 8,
                                 retryto := if bits x 16 8 = 0 then s.fab.retryto else bits x 16 8 } }.retime
  | _ => s

/-- A write of a register at an offset that is a multiple of 8. -/
def regWrite (o : Nat) (v m : Word) : State :=
  let act := m.getLsbD 32
  if o < 0x10000 then s.packageWrite o v m
  else if o < 0x20000 then s.dispWrite (o - 0x10000) v m act
  else if o < 0x30000 then (if o - 0x20000 < 0x4000 then s.latticeWrite ((o - 0x20000) / 0x1000) (o % 0x1000) v m else s)
  else if o < 0x40000 then s.memoryWrite (o - 0x30000) v m act
  else if o < 0x50000 then s.mailboxWrite (o - 0x40000) v m act
  else if 0x100000 ≤ o && o < 0x110000 then s.fabricWrite (o - 0x100000) v m
  else if 0x200000 ≤ o && o < 0x300000 then
    let p := (o - 0x200000) / 0x10000
    let x := o % 0x10000
    if 0x1000 ≤ x && x < 0x3000 && (x - 0x1000) % 0x400 < 8 * 68 then s.ringStore p ((x - 0x1000) / 0x400) ((x - 0x1000) % 0x400 / 8) v m
    else s
  else if 0x300000 ≤ o && o < 0x308000 then s.msixWrite ((o - 0x300000) / 16) (o % 16 / 8) v m
  else if 0x1000000 ≤ o && o < 0x2000000 then
    if m.getLsbD 0 then s.descWindow (o - 0x1000000) (if act then 8 else 4) v else s.descWindow (o - 0x1000000 + 4) 4 (v >>> 32)
  else s

/-! ## Accesses of 4 and 8 bytes (R223) -/

/-- The bits that an access covers in its 64-bit register. -/
def halfMask (off n : Nat) : Word := if n = 8 then BitVec.allOnes 64 else if off % 8 = 0 then 0xFFFFFFFF else 0xFFFFFFFF00000000

/-- A load of a register: its value, and the state with the RC fields that it read cleared (R8, R9). -/
def regLoad (off n : Nat) : Word × State :=
  let o := off / 8 * 8
  let w := s.regRead o
  let v := if n = 8 then w else if off % 8 = 0 then w &&& 0xFFFFFFFF else w >>> 32
  let s := if 0x10000 ≤ o && o < 0x10800 && o % 0x100 = 0x40 && (halfMask off n).getLsbD 0 then
      let q := s.lport ((o - 0x10000) / 0x100)
      s.setPort ((o - 0x10000) / 0x100) { q with drops := if q.dropAt.1 = s.now then q.dropAt.2 else 0 }
    else s
  (v, s)

/-- A store of a register. -/
def regStore (off n : Nat) (v : Word) : State :=
  s.regWrite (off / 8 * 8) (if off % 8 = 0 then v else v <<< 32) (halfMask off n)

end State

/-! ## The host's accesses (R223) -/

/-- A register access of the host is aligned, of 4 or 8 bytes, and reaches a listed region (R106, R223, R232). -/
def barOk (off size : Nat) : Bool := (size == 4 || size == 8) && off % size == 0 && off < 0x4000000 && regListed off

namespace State
variable (s : State)

/-- An unsupported request of the host: Advanced Error Reporting notes it, in bit 20 of the uncorrectable error status (R222; log entry
66). -/
def noteUnsupported : State := { s with host := { s.host with aer := s.host.aer ||| 0x100000 } }
/-- An access of the host that is dropped, with an entry in the host-link error log (R223). -/
def hostLog : State := { s with host := { s.host with log := s.host.log + 1 } }.noteUnsupported
/-- A read of the host that completes with Unsupported Request (R223). -/
def unsupportedRead : State := { s with host := { s.host with reads := none :: s.host.reads } }.noteUnsupported

end State

end Sys2Proof.Machine
end

