-- ==== Sys2Proof/Machine/MemAccess.lean ====
section
/-! DEFINITION. Loads, stores, descriptor and quarantine accesses, fences, flushes and scratch allocation (R278 to R286), their acceptance
at the banks (R137) and their return (R42). -/

namespace Sys2Proof

/-- The access writes its location (R139). -/
def AccKind.writes : AccKind → Bool
  | .ld _ | .ldbd | .fill _ => false
  | _ => true

/-- OPSZ of an access of `n` bytes (R205). -/
def opszOf (k : AccKind) (n : Nat) : Nat :=
  match k with
  | .ldbd | .stbd => 4
  | _ => n.log2

/-- The code of an atomic in AUX (R207). -/
def AtomOp.code : AtomOp → Nat
  | .add => 0 | .and => 1 | .or => 2 | .xor => 3 | .min => 4 | .max => 5 | .xchg => 6 | .cas => 7 | .fadd => 8

/-- The atomic of a code (R207). -/
def atomOf : Nat → Option AtomOp
  | 0 => some .add | 1 => some .and | 2 => some .or | 3 => some .xor | 4 => some .min | 5 => some .max | 6 => some .xchg
  | 7 => some .cas | 8 => some .fadd | _ => none

end Sys2Proof

namespace Sys2Proof.Machine

/-! ## Values -/

/-- A loaded value of `n` bytes (R280). -/
def loaded (sx : Bool) (n : Nat) (v : Word) : Word := if sx then signExtend (8 * n) v else zeroExtend (8 * n) v

/-- The return-buffer entry `id` takes its values. -/
def fillRb (id : Nat) (vals : List Val) (rb : List RbEntry) : List RbEntry :=
  rb.map fun e => if e.id == id && e.vals.isNone then { e with vals := some vals } else e

/-- A thread whose return buffer takes a value, which a paired thread folds (R42, R376). -/
def Thread.gotResult (t : Thread) (id : Nat) (vals : List Val) : Thread := { t with rb := fillRb id vals t.rb }.foldResult id vals

namespace State
variable (s : State)

/-! ## At the bank -/

/-- A lost posted access ends its launch (R287, R405): STATUS ENDED, CODE 0x73, and a POSTLOST record naming the device. -/
def postLost (ltag unit dev kind : Nat) : State :=
  (s.record { cls := 3, scope := 3, cause := 0x073, ltag := ltag, unit := unit, agent := 9, detail := wd (dev + kind * 2 ^ 16) }).endLaunch
    ltag 2 0x73

/-- The mirror copies that no earlier access of the thread holds back leave (R378). -/
def sendCopies (t : Thread) : State :=
  ((t.copies.takeWhile (·.2.isSome)).filterMap (·.2)).foldl (fun s p => s.inject (stackOf t.unit) p)
    (s.setThread { t with copies := t.copies.dropWhile (·.2.isSome) })

/-- The mirror copy of a write, on the thread's flow and in the thread's program order (R135, R378). -/
def mirrorCopy (a : Access) : State :=
  match a.mirror with
  | some dev =>
    let v := if a.kind == .stbd then wd (s.descOf a.pa).toNat else (s.load a.pa a.size).v
    let p := { s.blankPkt 0x02 2 dev with
      flow := ⟨s.devid, a.t.unit, a.t.slot, dev⟩, opsz := opszOf a.kind a.size, addr := a.pa, payload := [v], poisoned := b01 a.psn.isSome,
      copy := true }
    match s.ref? a.t with
    | some t => s.sendCopies { t with copies := t.copies.map fun c => if c.1 == a.id then (c.1, some p) else c }
    | none => s.inject (stackOf a.t.unit) p
  | none => s

/-- An access as its bank performs it (R137): the state after it, and the value it returns. -/
def perform (a : Access) : State × Val :=
  match s.space a.pa with
  | .regs =>
    let off := a.pa - 0xF000000000
    match a.kind with
    | .ld sx => let r := s.regLoad off a.size; (r.2, ⟨loaded sx a.size r.1, none⟩)
    | _ => (s.regStore off a.size a.data, ⟨0, none⟩)
  | _ =>
    let ltag := a.ltag
    match a.kind with
    | .ld sx => let r := s.eccVal ltag a.t.unit a.pa (s.load a.pa a.size); (r.1, ⟨loaded sx a.size r.2.v, r.2.psn⟩)
    | .st => ((s.store a.pa a.size ⟨a.data, a.psn⟩).touch a.pa a.size (some a.t) |>.mirrorCopy a, ⟨0, none⟩)
    | .ldbd => s.eccVal ltag a.t.unit a.pa ⟨wd (s.descOf a.pa).toNat, mget s.descPsn (a.pa / 64)⟩
    | .stbd => (((s.setDesc a.pa (a.data.setWidth 16)).poisonDesc a.pa a.psn).mirrorCopy a, ⟨0, none⟩)
    | .frame vs => ((vs.zipIdx.foldl (fun s (v, i) => s.store (a.pa + 8 * i) 8 v) s).touch a.pa 64 (some a.t), ⟨0, none⟩)
    | .fill hi => (s.onRef a.t (·.fillHalf hi ((List.range 8).map fun i => s.load (a.pa + 8 * i) 8)), ⟨0, none⟩)
    | .atom op =>
      let r := s.eccVal ltag a.t.unit a.pa (s.load a.pa a.size)
      let s := r.1
      let old := r.2
      match old.psn with
      | some _ =>
        (if a.rb.isNone then s.postLost ltag a.t.unit s.devid 0x05 else s, old)
      | none =>
        ((s.store a.pa a.size ⟨atomNew op a.size old.v a.data a.data2, none⟩).touch a.pa a.size (some a.t) |>.mirrorCopy a, old)

/-- A thread whose results have all returned commits at its switch point (R44). -/
def nudge (r : ThreadRef) : State :=
  match s.ref? r with
  | some t => (match t.st with
    | .parked .switch => if t.complete then s.sched 0 rankLate (.switchPointCommit r) else s
    | _ => s)
  | none => s

/-- A value that comes for a saved thread is written at its destination; one that carries poison is consumed once the thread is restored
(R50, R374). -/
def savedResult (t : Thread) (id : Nat) (vals : List Val) : Thread :=
  let t := t.gotResult id vals
  match t.rb.find? fun e => e.id == id with
  | some e =>
    let c := commitEntry t e
    if c.2.isSome then t else { c.1 with rb := t.rb.filter fun e => e.id != id }
  | none => t

/-- A value reaches the return buffer of its thread (R42): of a halted one it commits at once, and poison is consumed then (R76, R374); of a saved
one it enters the image (R50). -/
def giveResult (r : ThreadRef) (id : Nat) (vals : List Val) : State :=
  match s.ref? r with
  | some t =>
    let t := t.gotResult id vals
    match t.st with
    | .halted =>
      match t.rb.find? (fun e => e.id == id) with
      | some e =>
        let c := commitEntry t e
        let u := { c.1 with rb := t.rb.filter fun e => e.id != id }
        (match c.2 with
         | some c => (s.consume u c.p c.va c.pa).onRef r fun t => { t with st := .halted }
         | none => s.setThread u)
      | none => s.setThread t
    | _ => (s.setThread t).nudge r
  | none => s.onSaved r fun t => savedResult t id vals

/-! ## At issue -/

/-- The address lies in a reduction window of the launch (R121, R288). -/
def inWindow (t : Thread) (ea : Word) : Bool := (s.launchOf t).windows.any fun w => w.1 ≤ ea.toNat && ea.toNat < w.2

/-- An access that passed its checks and goes to a bank of this device. -/
def localAccess (t : Thread) (words : Nat) (sm : Bool) (kind : AccKind) (n : Nat) (rx : Bool) (ea : Word) (d : Option Operand)
    (data data2 : Word) (psn : Option Poison) (pa : Nat) (mirror : Option Nat) : State :=
  let id := t.nextId
  let u := match d with | some d => t.take [d] none false ea (wd (s.devid * 2 ^ 40 + pa)) | none => { t with nextId := id + 1 }
  let u := { u with out := { id := id, plain := !rx, store := kind.writes, block := pa / 64 } :: u.out }
  let u := match mirror with
    | some m => { u.mirroring (s.flowTo t m) with copies := u.copies ++ [(id, none)] }
    | none => u
  let a : Access := { t := t.ref, id := id, rb := d.map fun _ => id, kind := kind, pa := pa, size := n, data := data, data2 := data2,
                      retAt := s.now + s.returnAfter t.unit pa, va := ea, pc := t.pc, psn := psn, mirror := mirror, ltag := t.ltag }
  (s.sched (s.acceptAfter t.unit pa) (rankMill t.unit) (.bankAccept a)).done u words sm (if kind == .st || kind == .stbd then [ea, data] else [])

/-- A remote load, LDBD or returning atomic (R144, R146): after a posted access to that peer it waits for an implicit flush; the thread parks
until its reply has returned. -/
def remoteLoad (t : Thread) (words : Nat) (sm : Bool) (kind : AccKind) (n : Nat) (ea : Word) (d : Operand) (data data2 : Word)
    (dev pa : Nat) : State :=
  if s.plainOut t then s.park t .plain
  else if !(t.unflushed dev).isEmpty then (s.flushEach t (.implicit t.ref) (t.unflushed dev) []).1.park t (.implicit dev)
  else
    let u := { t.take [d] none true ea (wd (dev * 2 ^ 40 + pa)) with flushed := [] }
    let sx := match kind with | .ld sx => sx | _ => false
    let w := ReqWhat.load t.ref t.nextId n sx dev
    let s := match kind with
      | .atom op =>
        s.threadReq t { s.pktOf t 0x04 0 dev with
          opsz := n.log2, aux := op.code, addr := pa, payload := [data, if op == AtomOp.cas then data2 else 0],
          win := s.inWindow t ea && (op == AtomOp.add || op == AtomOp.fadd) } w
      | _ => s.threadReq t { s.pktOf t 0x01 0 dev with opsz := opszOf kind n, addr := pa } w
    let s := s.done u words sm []
    if sm then s else match s.ref? t.ref with
      | some t => s.park t (.event false)
      | none => s

/-- A remote store or posted atomic (R145, R146): it leaves at once, and ends an open region (R375). -/
def remoteStore (t : Thread) (words : Nat) (sm : Bool) (kind : AccKind) (n : Nat) (rx : Bool) (ea data data2 : Word) (psn : Option Poison)
    (dev pa : Nat) : State :=
  if t.twin.isSome && !t.exchanged then s.exchange t
  else
    let t := { endRegion t with taking := (farBlock dev pa, !rx, s.now + 8) :: t.taking.filter fun x => s.now < x.2.2 }
    match kind with
    | .atom op =>
      let win := s.inWindow t ea && (op == .add || op == .fadd)
      let p := { s.pktOf t 0x05 (if win then 0 else 2) dev with
        opsz := n.log2, aux := op.code, addr := pa, payload := [data, if op == .cas then data2 else 0], win := win }
      if win then
        let tag := s.nextTag
        let s := s.onLaunch t.ltag fun l => { l with flushTags := tag :: l.flushTags }
        (s.threadReq t p (.winAck t.ref dev)).done { t.postedTo p.flow with winAck := (tag, dev) :: t.winAck } words sm []
      else (s.sendPosted t p).done (t.postedTo p.flow) words sm []
    | _ =>
      let p := { s.pktOf t 0x02 2 dev with
        opsz := opszOf kind n, addr := pa, payload := [if kind == .stbd then data &&& 0xFFFF else zeroExtend (8 * n) data], poisoned := b01 psn.isSome }
      (s.sendPosted t p).done (t.postedTo p.flow) words sm [ea, data]

/-- An access of a thread (R278): the checks in their order, what parks it, and where it goes. `d` is the destination of a long-class
access. -/
def access (t : Thread) (words : Nat) (sm : Bool) (kind : AccKind) (ak : AKind) (n : Nat) (rx : Bool) (ea : Word) (d : Option Operand)
    (data data2 : Word) (psn : Option Poison) : State :=
  if d.isSome && t.rb.length == 8 then s.switchPoint t
  else match s.check t ak n rx ea with
  | .bad info va => s.fault t info va
  | .wait w => s.parkOn t w
  | .ok p r =>
    let mirror := if kind.writes then mirrorDev r else none
    match s.stall t p n kind.writes rx (kind == .ldbd || kind == .stbd) with
    | some w => s.parkOn t w
    | none =>
      let atomic := match kind with | .atom _ => true | _ => false
      match p with
      | .here pa => s.localAccess (if atomic then endRegion t else t) words sm kind n rx ea d data data2 psn pa mirror
      | .there dev pa =>
        match d with
        | some d => s.remoteLoad (if atomic then endRegion t else t) words sm kind n ea d data data2 dev pa
        | none => s.remoteStore t words sm kind n rx ea data data2 psn dev pa
      | .chan c =>
        let ch := chanKey t.ltag c
        if s.startRefused t ch data || s.copyInRegs t data then s.fault t (infoVa 3 ea false 0) ea
        else match s.startHold t ch data with
          | some w => s.park t w
          | none => (s.startCopy t ch data).done t words sm [ea, data]

end State

/-- LD (R280). -/
def execLd (sm rx sx : Bool) (sz : BitVec 2) (off : BitVec 4) (d a : Operand) (s : State) : Host.Outcome State Fault Refusal :=
  onCur s fun t => s.access t 1 sm (.ld sx) .load (szBytes sz) rx (t.rd a + imm4 off (szBytes sz)) (some d) 0 0 none

/-- LD with a literal offset (R280, R241). -/
def execLdLit (sm rx sx : Bool) (sz : BitVec 2) (off : Word) (d a : Operand) (s : State) : Host.Outcome State Fault Refusal :=
  onCur s fun t => s.access t 3 sm (.ld sx) .load (szBytes sz) rx (t.rd a + off) (some d) 0 0 none

/-- ST (R280). -/
def execSt (sm rx : Bool) (sz : BitVec 2) (off : BitVec 4) (d a : Operand) (s : State) : Host.Outcome State Fault Refusal :=
  onCur s fun t => s.access t 1 sm .st .store (szBytes sz) rx (t.rd a + imm4 off (szBytes sz)) none (t.rd d) 0 (t.psnOf d)

/-- ST with a literal offset (R280, R241). -/
def execStLit (sm rx : Bool) (sz : BitVec 2) (off : Word) (d a : Operand) (s : State) : Host.Outcome State Fault Refusal :=
  onCur s fun t => s.access t 3 sm .st .store (szBytes sz) rx (t.rd a + off) none (t.rd d) 0 (t.psnOf d)

/-- LDBD (R281): the offset is imm4 × 64. -/
def execLdbd (sm : Bool) (off : BitVec 4) (d a : Operand) (s : State) : Host.Outcome State Fault Refusal :=
  onCur s fun t => s.access t 1 sm .ldbd .ldbd 2 false (t.rd a + imm4 off 64) (some d) 0 0 none

/-- LDBD with a literal offset (R281). -/
def execLdbdLit (sm : Bool) (off : Word) (d a : Operand) (s : State) : Host.Outcome State Fault Refusal :=
  onCur s fun t => s.access t 3 sm .ldbd .ldbd 2 false (t.rd a + off) (some d) 0 0 none

/-- STBD (R281). -/
def execStbd (sm : Bool) (off : BitVec 4) (d a : Operand) (s : State) : Host.Outcome State Fault Refusal :=
  onCur s fun t => s.access t 1 sm .stbd .stbd 2 false (t.rd a + imm4 off 64) none (t.rd d) 0 (t.psnOf d)

/-- STBD with a literal offset (R281). -/
def execStbdLit (sm : Bool) (off : Word) (d a : Operand) (s : State) : Host.Outcome State Fault Refusal :=
  onCur s fun t => s.access t 3 sm .stbd .stbd 2 false (t.rd a + off) none (t.rd d) 0 (t.psnOf d)

/-- STQ (R282). -/
def execStq (sm : Bool) (q : BitVec 2) (off : BitVec 4) (a : Operand) (s : State) : Host.Outcome State Fault Refusal :=
  onCur s fun t => s.access t 1 sm .st .stq 8 false (t.rd a + imm4 off 8) none (nget t.q q.toNat 0) 0 (t.parity (.q q))

/-- STQ with a literal offset (R282). -/
def execStqLit (sm : Bool) (q : BitVec 2) (off : Word) (a : Operand) (s : State) : Host.Outcome State Fault Refusal :=
  onCur s fun t => s.access t 3 sm .st .stq 8 false (t.rd a + off) none (nget t.q q.toNat 0) 0 (t.parity (.q q))

/-- QMOV (R282): a determinism fault in a launch with DET set. -/
def execQmov (sm : Bool) (q : BitVec 2) (d : Operand) (s : State) : Host.Outcome State Fault Refusal :=
  onCur s fun t =>
    if t.det then s.fault t (infoOf 7 0 0 0) 0
    else s.aluDone t 1 sm d (nget t.q q.toNat 0)

/-- FENCE (R143, R283). -/
def execFence (sm : Bool) (scope : BitVec 3) (s : State) : Host.Outcome State Fault Refusal :=
  onCur s fun t =>
    if !t.out.isEmpty then s.park t .accepted
    else if scope = 5 && !(t.posted.isEmpty && t.winAck.isEmpty) then
      (s.flushEach t (.flush t.ref) t.posted []).1.park t (.flush 4096)
    else s.done t 1 sm []

/-- FLUSHR (R147, R208, R284). -/
def execFlushr (sm : Bool) (a : Operand) (s : State) : Host.Outcome State Fault Refusal :=
  onCur s fun t =>
    let v := t.rd a
    let peer := bits v 0 12
    if bits v 12 52 != 0 then s.fault t (infoVa 3 v false 0) v
    else if t.winAck.any fun w => w.2 == peer then s.park t (.flush (4097 + peer))
    else if peer != s.devid then
      let r := s.flushEach t (.flush t.ref) (t.postedOn peer) t.flushing
      r.1.done { t with flushing := r.2 } 1 true []
    else s.done t 1 true []

/-! ## Scratch allocation (R115, R116, R285, R286) -/

namespace State
variable (s : State)

/-- Bytes zeroed in a cycle (R115). -/
def zeroRate : Nat → Nat
  | 1 => 4096
  | 2 => 2048
  | _ => 8192

/-- The region address of a segment at offset 0 (R103). -/
def segVa (lvl num : Nat) : Word := wd (lvl * 2 ^ 60 + num * 2 ^ (if lvl = 1 then 22 else if lvl = 2 then 24 else 27))

/-- Zeroes the granules of a segment: data and descriptors (R38, R115); barriers there break as by any write (R194). -/
def zeroSeg (lvl i : Nat) (g : Seg) : State :=
  g.granules.foldl (fun s n =>
    (s.zero (levelBase lvl i + n * granule lvl) (granule lvl)).touch (levelBase lvl i + n * granule lvl) (granule lvl) none) s

/-- Adds a segment to those of the thread's crew or launch (R103, R115). -/
def addSeg (t : Thread) (lvl : Nat) (g : Seg) : State :=
  if lvl = 1 then s.onCrew t.ltag t.unit fun c => { c with s1 := c.s1 ++ [g] }
  else s.onLaunch t.ltag fun l =>
    if lvl = 2 then { l with s2 := l.s2 ++ [(clusterOf t.unit, g)] } else { l with s3 := l.s3 ++ [(stackOf t.unit, g)] }

def dropSeg (t : Thread) (lvl num : Nat) : State :=
  if lvl = 1 then s.onCrew t.ltag t.unit fun c => { c with s1 := c.s1.filter fun g => g.num != num }
  else s.onLaunch t.ltag fun l =>
    if lvl = 2 then { l with s2 := l.s2.filter fun x => !(x.1 == clusterOf t.unit && x.2.num == num) }
    else { l with s3 := l.s3.filter fun x => !(x.1 == stackOf t.unit && x.2.num == num) }

/-- What SALLOC would grant: the lowest free number, of 1 to 15, and the granules (R103, R115). -/
def grant (t : Thread) (lvl len : Nat) : Option Seg :=
  if len = 0 || levelSize lvl < len then none
  else
    let have_ := (s.segs t.ltag t.unit lvl).map (·.num)
    match (List.range 16).find? (fun n => n != 0 && !have_.contains n), s.freeGranules lvl (inst lvl t.unit) (ceilDiv len (granule lvl)) with
    | some num, some gs => some { num := num, len := gs.length * granule lvl, granules := gs }
    | _, _ => none

end State

namespace State
variable (s : State)

/-- The allocator of a level serves a SALLOC: what it grants is zeroed, and the result returns once it is (R115, R285). -/
def allocate (q : SallocReq) (t : Thread) : State :=
  match s.grant t q.lvl q.len with
  | some g =>
    ((s.zeroSeg q.lvl q.inst g).addSeg t q.lvl g).sched (levelLatency q.lvl + ceilDiv g.len (zeroRate q.lvl)) rankLate
      (.resultReturn q.t q.id [⟨segVa q.lvl g.num, none⟩])
  | none => s.sched (levelLatency q.lvl) rankLate (.resultReturn q.t q.id [⟨0, none⟩])

/-- The SALLOC that a return-buffer entry awaits. -/
def sallocOf (r : ThreadRef) (id : Nat) : Option SallocReq := s.disp.sallocs.find? fun q => q.t == r && q.id == id

/-- The allocator of a level and instance serves the next of those that wait whose thread still lives (R285). -/
def allocateNext (lvl inst : Nat) : List SallocReq → State
  | [] => s
  | q :: r =>
    if q.lvl == lvl && q.inst == inst then match s.ref? q.t with
      | some t => s.allocate q t
      | none => allocateNext lvl inst r
    else allocateNext lvl inst r

/-- A SALLOC that has returned leaves the allocator of its level, which serves the next; requests of threads that are gone fall away (R285). -/
def sallocEnd (q : SallocReq) : State :=
  let rest := s.disp.sallocs.filter fun x => x != q && (s.ref? x.t).isSome
  { s with disp := { s.disp with sallocs := rest } }.allocateNext q.lvl q.inst rest

end State

/-- SALLOC (R115, R285): the allocator of the level serves one at a time, in order of arrival. -/
def execSalloc (sm : Bool) (level : BitVec 2) (d a : Operand) (s : State) : Host.Outcome State Fault Refusal :=
  onCur s fun t => s.withEntry t fun id =>
    let q : SallocReq := { t := t.ref, id := id, lvl := level.toNat, inst := State.inst level.toNat t.unit, len := (t.rd a).toNat }
    let s1 := if s.disp.sallocs.any fun x => x.lvl == q.lvl && x.inst == q.inst then s else s.allocate q t
    { s1 with disp := { s1.disp with sallocs := s1.disp.sallocs ++ [q] } }.done (t.take [d] none false) 1 sm []

/-- SFREE (R116, R286): of segment 0, of a segment that does not exist or of any other address it faults; else it parks until the segment
is idle, and frees it. -/
def execSfree (sm : Bool) (a : Operand) (s : State) : Host.Outcome State Fault Refusal :=
  onCur s fun t =>
    let va := t.rd a
    let (lvl, num) := State.segOf va.toNat
    match if 1 ≤ lvl && lvl ≤ 3 && va == State.segVa lvl num && num != 0 then s.seg? t.ltag t.unit lvl num else none with
    | none => s.fault t (infoVa 3 va false 0) va
    | some g =>
      if s.segIdle t.unit lvl g && t.out.isEmpty then (s.dropSeg t lvl num).done t 1 sm []
      else s.park t (.segment va.toNat sm)

/-- SEGMENT_FREE (R116): the segment that a parked SFREE names is freed once it is idle; one already freed faults (R286). -/
def execSegmentFree (t : ThreadRef) (va : Word) (s : State) : Host.Outcome State Fault Refusal :=
  event <| match s.ref? t with
  | some t => (match t.st with
    | .parked (.segment v sm) =>
      let (lvl, num) := State.segOf v
      if v != va.toNat then s
      else match s.seg? t.ltag t.unit lvl num with
        | none => s.fault { t with st := .ready } (infoVa 3 va false 0) va
        | some g => if s.segIdle t.unit lvl g then (s.dropSeg t lvl num).done { t with st := .ready,
                                                                                       eligRound := max t.eligRound (s.round + 1) } 1 sm [] else s
    | _ => s)
  | none => s

/-! ## Acceptance, return and commit -/

/-- BANK_ACCEPT (R109, R137): a bank accepts one access a cycle; one that meets an accepted one waits, in its order of arrival, as does one in a
cycle that is an engine's. -/
def execBankAccept (acc : Access) (s : State) : Host.Outcome State Fault Refusal :=
  event <|
    let b := s.bankOf acc.pa
    if s.busy.contains b || s.engTurn b || s.hbmWaits acc.pa then s.sched 1 State.rankAgain (.bankAccept acc)
    else
      let r := (s.acceptThread b).perform acc
      let s := r.1.onRef acc.t fun t => { t with out := t.out.filter fun o => o.id != acc.id }
      let s := match acc.rb with
        | some id => s.sched (acc.retAt - s.now) rankLate (.resultReturn acc.t id [r.2])
        | none => s
      s.nudge acc.t

/-- RESULT_RETURN (R42); an MSTAT reads the state of its engine now (R354), and a SALLOC leaves its level's allocator to the next (R285). -/
def execResultReturn (t : ThreadRef) (id : Nat) (vals : List Val) (s : State) : Host.Outcome State Fault Refusal :=
  event <|
    let s := match s.sallocOf t id with
      | some q => s.sallocEnd q
      | none => s
    match (s.unit t.unit).mstats.find? fun m => m.1 == t && m.2.1 == id with
    | some m =>
      (s.onUnit t.unit fun u => { u with mstats := u.mstats.filter fun m => !(m.1 == t && m.2.1 == id) }).giveResult t id
        [⟨(s.unit t.unit).mstat s.now m.2.2, none⟩]
    | none => s.giveResult t id vals

/-- SWITCH_POINT_COMMIT (R44). -/
def execSwitchPointCommit (t : ThreadRef) (s : State) : Host.Outcome State Fault Refusal :=
  event <| match s.ref? t with
  | some t => (match t.st with
    | .parked .switch => if t.complete then s.settle t else s
    | _ => s)
  | none => s

end Sys2Proof.Machine
end

