-- ==== Sys2Proof/Machine/Atomics.lean ====
section
/-! DEFINITION. The atomics (R287, R288) and APPEND (R289 to R291, R401, R417). -/

namespace Sys2Proof.Machine

/-- An atomic of 4 or 8 bytes (R287): posted with D = k0, else returning and long class. -/
def State.atomic (s : State) (t : Thread) (words : Nat) (sm x : Bool) (op : AtomOp) (d a : Operand) (b c : Word) : State :=
  let n := if x then 8 else 4
  let ret := d != .k0
  s.access t words sm (.atom op) (.atomic ret (op == AtomOp.fadd)) n false (t.rd a) (if ret then some d else none)
    (zeroExtend (8 * n) b) (zeroExtend (8 * n) c) none

/-- AADD (R287, R288). -/
def execAadd (sm x : Bool) (d a b : Operand) (s : State) : Host.Outcome State Fault Refusal :=
  onCur s fun t => s.atomic t 1 sm x .add d a (t.rd b) 0

/-- AAND (R287). -/
def execAand (sm x : Bool) (d a b : Operand) (s : State) : Host.Outcome State Fault Refusal :=
  onCur s fun t => s.atomic t 1 sm x .and d a (t.rd b) 0

/-- AOR (R287). -/
def execAor (sm x : Bool) (d a b : Operand) (s : State) : Host.Outcome State Fault Refusal :=
  onCur s fun t => s.atomic t 1 sm x .or d a (t.rd b) 0

/-- AXOR (R287). -/
def execAxor (sm x : Bool) (d a b : Operand) (s : State) : Host.Outcome State Fault Refusal :=
  onCur s fun t => s.atomic t 1 sm x .xor d a (t.rd b) 0

/-- AMIN (R287). -/
def execAmin (sm x : Bool) (d a b : Operand) (s : State) : Host.Outcome State Fault Refusal :=
  onCur s fun t => s.atomic t 1 sm x .min d a (t.rd b) 0

/-- AMAX (R287). -/
def execAmax (sm x : Bool) (d a b : Operand) (s : State) : Host.Outcome State Fault Refusal :=
  onCur s fun t => s.atomic t 1 sm x .max d a (t.rd b) 0

/-- AXCHG (R287). -/
def execAxchg (sm x : Bool) (d a b : Operand) (s : State) : Host.Outcome State Fault Refusal :=
  onCur s fun t => s.atomic t 1 sm x .xchg d a (t.rd b) 0

/-- ACAS (R287). -/
def execAcas (sm x : Bool) (d a b c : Operand) (s : State) : Host.Outcome State Fault Refusal :=
  onCur s fun t => s.atomic t 3 sm x .cas d a (t.rd b) (t.rd c)

/-- AFADD (R287, R288). -/
def execAfadd (sm x : Bool) (d a b : Operand) (s : State) : Host.Outcome State Fault Refusal :=
  onCur s fun t => s.atomic t 1 sm x .fadd d a (t.rd b) 0

/-! ## Targets of messages (R290) -/

/-- A reserved bit of a port handle is set. -/
def handleBad (a : Word) : Bool := bits a 14 17 != 0 || a.getLsbD 6
/-- The launch that a handle names; 0 is the sender's own. -/
def handleLtag (t : Thread) (a : Word) : Nat := if bits a 44 16 = 0 then t.ltag else bits a 44 16
/-- The launch port whose aperture address it is (R232). -/
def apertureOf (a : Word) : Option Nat := (List.range 8).find? fun p => a.toNat == 0xF000000000010000 + 0x40 * p

namespace State
variable (s : State)

/-- The device that a handle names. -/
def handleDev (a : Word) : Nat := if a.getLsbD 31 then s.devid else bits a 32 12

/-- The logical writer id of a thread (R133). -/
def widOf (t : Thread) : Nat := writerId (s.launchOf t) t

/-- A message of the launch leaves a thread's unit (R52). -/
def countSent (t : Thread) : State := s.onCrew t.ltag t.unit fun c => { c with sent := c.sent + 1 }
/-- A message of the launch is decided on a unit (R52, R417). -/
def countRecvd (ltag unit : Nat) : State := s.onCrew ltag unit fun c => { c with recvd := c.recvd + 1 }

/-- Sends a message or a spawn: to a unit of this device, where an absent unit is refused on its behalf (R417), or to another device.
`local_` is what a present unit receives. -/
def dispatchMsg (t : Thread) (a : Word) (src : Nat) (dsem : BitVec 3) (local_ : Instr) (pkt : Packet) : State :=
  let unit := bits a 7 7
  let own := s.handleDev a == s.devid && handleLtag t a == t.ltag
  let s := if own then s.countSent t else s
  if s.handleDev a != s.devid then s.threadReq t pkt (.post ⟨t.ref, dsem, src⟩)
  else if s.present unit then s.sched 6 (rankJu t.unit) local_
  else
    let s := if own then s.countRecvd t.ltag t.unit else s
    s.postLater 8 ⟨t.ref, dsem, src⟩ 1 2

end State

/-- APPEND (R289 to R291). -/
def execAppend (sm : Bool) (cnt : BitVec 3) (dsem : BitVec 3) (a b : Operand) (s : State) : Host.Outcome State Fault Refusal :=
  onCur s fun t =>
    let h := t.rd a
    let msg := (Thread.run b (cnt.toNat + 1)).map t.val
    let kind := bits h 60 4
    let dev := s.handleDev h
    if kind != 0 && kind != 0xF || (kind == 0 && handleBad h) || (kind == 0xF && (apertureOf h).isNone) then s.fault t (infoVa 3 h false 0) h
    else if !t.out.isEmpty then s.park t .accepted
    else if t.det && t.appendWait then s.park t .det
    else
      let u := { State.endRegion t with appendWait := t.det }
      match apertureOf h with
      | some p =>
        (match msg.findSome? (·.psn) with
        | some q => s.consume (State.endRegion t) q
        | none =>
          let dws := (List.range 8).map fun i => (msg.getD i ⟨0, none⟩).v
          let r : QRec := ⟨Vector.ofFn fun i : Fin 8 => dws.getD i.val 0, t.svc⟩
          let full := 64 ≤ (s.lport p).queue.length
          ((if full then s else s.commitRecord p r).postLater 8 ⟨t.ref, dsem, 2⟩ 1 (if full then 3 else 0)).done u 3 sm [])
      | none =>
        let req : AppendReq := { ltag := handleLtag t h, unit := bits h 7 7, port := bits h 0 6, msg := msg, senderDev := s.devid,
                                 senderLtag := t.ltag, senderWid := s.widOf t, senderUnit := t.unit, reply := some ⟨t.ref, dsem, 2⟩,
                                 replyPkt := none }
        let pkt := { s.pktOf t 0x07 0 dev with
          aux := bits h 7 7 * 2 ^ 9 + bits h 0 6 * 2 ^ 3 + cnt.toNat,
          payload := wd (handleLtag t h * 2 ^ 48 + s.widOf t * 2 ^ 12) :: msg.map (·.v), poisoned := State.psnMask (⟨0, none⟩ :: msg) }
        (s.dispatchMsg t h 2 dsem (.appendAccept req) pkt).done u 3 sm []

end Sys2Proof.Machine
end

