-- ==== Sys2Proof/WellFormed.lean ====
section
/-! DEFINITION. Which instructions are well formed: those that some words encode (R243, R247). -/

namespace Sys2Proof

/-- The steps of the table that are instructions, with an encoding; the others are events. -/
def Instr.encodable : Instr → Bool
  | .coldReset | .functionLevelReset .. | .boot .. | .hostLinkTrain | .stackImageVerify .. | .hbmTrain ..
  | .linkTrain .. | .registerWrite .. | .apply .. | .launchRecordCommit .. | .lpstatRead .. | .lpcqhWrite ..
  | .lpcqbWrite .. | .launchHeadCheck .. | .backoffExpiry .. | .crewStart .. | .endSweep | .launchEnd ..
  | .preemptSave | .crewSaved .. | .preemptRestore | .crewRestore .. | .annulment | .asyncTrap
  | .resultReturn .. | .switchPointCommit .. | .bankAccept .. | .semPost .. | .debugHalt .. | .debugResume ..
  | .debugWrite .. | .pageWalkEnd .. | .walkFaultResolve .. | .tinv | .tinvComplete | .hbmplaceWrite ..
  | .descriptorWindowWrite .. | .hostBar2Write .. | .hostBar2Read .. | .msixUnmask .. | .attest .. | .ownerset ..
  | .stagedImage .. | .mxStart .. | .vxStart .. | .consumedPost .. | .donePost .. | .engineFault ..
  | .tmvBlockDone .. | .cxBlockWrite .. | .ringBArrive .. | .ringTimeout .. | .appendAccept .. | .spawnrAccept ..
  | .patternEvaluation | .handlerCreate .. | .wakePost .. | .recvTake .. | .barrierRegister ..
  | .barrierArrival .. | .barrierBroken .. | .syscAnswer .. | .fingerprintExchange .. | .unitRetire ..
  | .packetRoute .. | .holdExpiry .. | .deadlockTimer .. | .rd | .wr | .wrn | .atm | .atmp
  | .matm | .app | .spw | .flu | .rdr | .atr | .matr | .sts | .ack | .retry
  | .retryResend .. | .retryTimeout .. | .crumbTimeout .. | .crumbHoldExpiry .. | .mgt | .resCollapse
  | .resInval | .resAck | .resDone | .resMoved | .resDup | .resMigrate | .resCollapseCommand
  | .resSplit | .resMapped | .dup | .migrate | .collapse | .split | .residencyResume
  | .linkReplay .. | .retrainEnd .. | .fibredown .. | .ringWrite .. | .wavelengthMove .. | .pdRefresh
  | .tempRefresh | .powerWindow .. | .patrolScrub .. | .hbmRead .. | .hbmTransferRetry .. | .laneTestEnd ..
  | .segmentFree .. | .packetTransmit .. | .tagReuse .. | .capxComplete .. | .dispReady .. | .ringRetire ..
  | .debugEnd .. => false
  | _ => true

/-- ILL is written with the words of its LEN, and its trap is taken at its first word (R252). -/
def Instr.isIll : Instr → Bool
  | .ill .. => true
  | _ => false

/-- Well formed: it has an encoding, and no field makes it illegal (R243, R247). -/
def Instr.wf (i : Instr) : Bool := i.encodable && i.illegal.isNone

end Sys2Proof
end

