-- ==== Sys2Proof/Decode.lean ====
section
/-! DEFINITION. The decoder (R239 to R247, R250) and the encoder of the same tables. -/

namespace Sys2Proof

/-- Why words are refused: SUB and WORD of the illegal-instruction trap (R381, R382). -/
structure DecErr where
  sub : Nat
  word : Nat
  deriving DecidableEq, Repr

/-- Words of the instruction whose first word is `w`, from LEN (R239, R253). -/
def lenWords (w : W32) : Nat :=
  match (w.extractLsb' 0 2).toNat with
  | 0 => 1
  | 1 => 3
  | 2 => 3
  | _ => 5

/-- The switch marker of a first word (R239). -/
def markOf (w : W32) : Bool := w.getLsbD 2
/-- The major opcode of a first word (R239). -/
def majOf (w : W32) : Nat := (w.extractLsb' 3 7).toNat

/-- An operand field (R56): `none` for level 0b11 or a non-zero bit that the level gives as zero. -/
def operand? (f : BitVec 7) : Option Operand :=
  if f.extractLsb' 5 2 = 0 then some (.main (f.extractLsb' 0 5))
  else if f.extractLsb' 3 4 = 4 then some (.opf (f.extractLsb' 0 3))
  else if f = 64 then some .lat
  else none

/-- The operand field of a register (R56). -/
def Operand.enc : Operand → BitVec 7
  | .main i => (0 : BitVec 2) ++ i
  | .opf i => (4 : BitVec 4) ++ i
  | .lat => 64

abbrev Dec := Except DecErr Instr

/-- A reserved field or value must hold, else the trap with that SUB at that word. -/
def need (ok : Bool) (sub word : Nat) (k : Dec) : Dec := if ok then k else .error ⟨sub, word⟩
/-- An operand field at a legal level, else SUB 2 at that word (R247). -/
def opnd (f : BitVec 7) (word : Nat) (k : Operand → Dec) : Dec :=
  match operand? f with
  | some r => k r
  | none => .error ⟨2, word⟩

/-- The checks on field values come last. -/
def checked (i : Instr) : Dec :=
  match i.illegal with
  | none => .ok i
  | some (sub, word) => .error ⟨sub, word⟩

/-- Unassigned major, LEN or FUNC. -/
def unassigned (word : Nat) : Dec := .error ⟨0, word⟩

section Fields
variable (w : W32)
def fX : Bool := w.getLsbD 31
def fB : BitVec 7 := w.extractLsb' 24 7
def fA : BitVec 7 := w.extractLsb' 17 7
def fD : BitVec 7 := w.extractLsb' 10 7
def fI : BitVec 8 := w.extractLsb' 24 8
def fImm4 : BitVec 4 := w.extractLsb' 28 4
def fRX : Bool := w.getLsbD 27
def fSX : Bool := w.getLsbD 26
def fSZ : BitVec 2 := w.extractLsb' 24 2
end Fields

/-- RRR with three operands and X free or zero. -/
def decRRR (x : Bool) (w : W32) (k : Bool → Operand → Operand → Operand → Instr) : Dec :=
  need (x || !fX w) 1 0 (opnd (fD w) 0 fun d => opnd (fA w) 0 fun a => opnd (fB w) 0 fun b =>
    checked (k (fX w) d a b))

/-- RRR with D and A, and B zero. -/
def decRR (w : W32) (k : Bool → Operand → Operand → Instr) : Dec :=
  need (fB w == 0) 1 0 (opnd (fD w) 0 fun d => opnd (fA w) 0 fun a => checked (k (fX w) d a))

/-- RRR with A alone. -/
def decA (w : W32) (k : Operand → Instr) : Dec :=
  need (fB w == 0 && fD w == 0 && !fX w) 1 0 (opnd (fA w) 0 fun a => checked (k a))

/-- RRI with D and A. -/
def decRRI (w : W32) (k : BitVec 8 → Operand → Operand → Instr) : Dec :=
  opnd (fD w) 0 fun d => opnd (fA w) 0 fun a => checked (k (fI w) d a)

/-- SY: value A + imm8, with SEM; the reserved bits are zero. -/
def decSY (w : W32) (k : BitVec 3 → BitVec 8 → Operand → Instr) : Dec :=
  need (w.extractLsb' 13 4 == 0) 1 0 (opnd (fA w) 0 fun a => checked (k (w.extractLsb' 10 3) (fI w) a))

/-- Z: nothing but the common bits. -/
def decZ (w : W32) (i : Instr) : Dec := need (w.extractLsb' 10 22 == 0) 1 0 (checked i)

/-- BITS (R267). -/
def decBits (w : W32) : Dec :=
  let s := markOf w
  let fn := (w.extractLsb' 24 3).toNat
  let wd := w.extractLsb' 27 2
  need (fn < 6) 0 0 <| need (!fX w && w.extractLsb' 29 2 == 0 && (fn ≥ 4 || wd == 0)) 1 0 <|
  opnd (fD w) 0 fun d => opnd (fA w) 0 fun a => checked <|
    match fn with
    | 0 => .clz s d a | 1 => .ctz s d a | 2 => .popc s d a | 3 => .brev s d a
    | 4 => .sext s wd d a | _ => .zext s wd d a

/-- One-word instructions (LEN 0b00). -/
def decodeOne (w : W32) : Dec :=
  let s := markOf w
  match majOf w with
  | 0x00 => decRRR false w fun _ d a b => .add s d a b
  | 0x01 => decRRR false w fun _ d a b => .sub s d a b
  | 0x02 => decRRR false w fun _ d a b => .mul s d a b
  | 0x03 => decRRR true w fun x d a b => .mulh s x d a b
  | 0x04 => decRRR true w fun x d a b => .div s x d a b
  | 0x05 => decRRR true w fun x d a b => .rem s x d a b
  | 0x06 => decRRR false w fun _ d a b => .and s d a b
  | 0x07 => decRRR false w fun _ d a b => .or s d a b
  | 0x08 => decRRR false w fun _ d a b => .xor s d a b
  | 0x09 => decRRR false w fun _ d a b => .andn s d a b
  | 0x0A => decRRR false w fun _ d a b => .shl s d a b
  | 0x0B => decRRR true w fun x d a b => .shr s x d a b
  | 0x0C => decRRR false w fun _ d a b => .rot s d a b
  | 0x0D => decRRR true w fun x d a b => .min s x d a b
  | 0x0E => decRRR true w fun x d a b => .max s x d a b
  | 0x0F => decBits w
  | 0x10 => decRRI w fun i d a => .addi s i d a
  | 0x11 => decRRI w fun i d a => .muli s i d a
  | 0x12 => decRRI w fun i d a => .andi s i d a
  | 0x13 => decRRI w fun i d a => .ori s i d a
  | 0x14 => decRRI w fun i d a => .xori s i d a
  | 0x15 => need (w.extractLsb' 30 2 == 0) 1 0 (decRRI w fun _ d a => .shli s (w.extractLsb' 24 6) d a)
  | 0x16 => need (!fX w) 1 0 (decRRI w fun _ d a => .shri s (w.getLsbD 30) (w.extractLsb' 24 6) d a)
  | 0x17 => need (w.extractLsb' 30 2 == 0) 1 0 (decRRI w fun _ d a => .roti s (w.extractLsb' 24 6) d a)
  | 0x18 => decRRI w fun i d a => .mini s i d a
  | 0x19 => decRRI w fun i d a => .maxi s i d a
  | 0x1A => need (fA w == 0) 1 0 (opnd (fD w) 0 fun d => checked (.li s (fI w) d))
  | 0x1B => decRRR true w fun x d a b => .lea s x d a b
  | 0x1E => need (fI w == 0) 1 0 (decRRI w fun _ d a => .mov s d a)
  | 0x1F => need (fI w == 0) 1 0 (opnd (fD w) 0 fun d => opnd (fA w) 0 fun a =>
      match d with
      | .opf p => checked (.pfr s p a)
      | _ => .error ⟨2, 0⟩)
  | 0x20 => need (w.extractLsb' 15 2 == 0) 1 0 (opnd (fA w) 0 fun a =>
      if fX w then checked (.cmp s (w.extractLsb' 10 3) (w.extractLsb' 13 2) a (.imm (fB w)))
      else opnd (fB w) 0 fun b => checked (.cmp s (w.extractLsb' 10 3) (w.extractLsb' 13 2) a (.reg b)))
  | 0x21 => need (w.extractLsb' 15 2 == 0) 1 0 (opnd (fA w) 0 fun a => opnd (fB w) 0 fun b =>
      checked (.fcmp s (fX w) (w.extractLsb' 10 3) (w.extractLsb' 13 2) a b))
  | 0x22 => checked (.br s (w.extractLsb' 10 22))
  | 0x23 => checked (.call s (w.extractLsb' 10 22))
  | 0x24 => decA w fun a => .jmp s a
  | 0x25 => decA w fun a => .callr s a
  | 0x26 => decZ w (.ret s)
  | 0x27 => opnd (fD w) 0 fun d => checked (.loop s (w.extractLsb' 17 15) d)
  | 0x30 => decRRR true w fun x d a b => .fadd s x d a b
  | 0x31 => decRRR true w fun x d a b => .fsub s x d a b
  | 0x32 => decRRR true w fun x d a b => .fmul s x d a b
  | 0x34 => decRRR true w fun x d a b => .fdiv s x d a b
  | 0x35 => decRR w fun x d a => .fsqrt s x d a
  | 0x36 => decRRR true w fun x d a b => .fmin s x d a b
  | 0x37 => decRRR true w fun x d a b => .fmax s x d a b
  | 0x39 => decRR w fun x d a => .fclass s x d a
  | 0x40 => opnd (fD w) 0 fun d => opnd (fA w) 0 fun a => checked (.ld s (fRX w) (fSX w) (fSZ w) (fImm4 w) d a)
  | 0x41 => need (!fSX w) 1 0 (opnd (fD w) 0 fun d => opnd (fA w) 0 fun a => checked (.st s (fRX w) (fSZ w) (fImm4 w) d a))
  | 0x42 => need (!fSX w && !fRX w) 1 0 (need (fSZ w == 1) 3 0 (opnd (fD w) 0 fun d => opnd (fA w) 0 fun a =>
      checked (.ldbd s (fImm4 w) d a)))
  | 0x43 => need (!fSX w && !fRX w) 1 0 (need (fSZ w == 1) 3 0 (opnd (fD w) 0 fun d => opnd (fA w) 0 fun a =>
      checked (.stbd s (fImm4 w) d a)))
  | 0x44 => need (fI w == 0 && fA w == 0 && w.extractLsb' 13 4 == 0) 1 0 (checked (.fence s (w.extractLsb' 10 3)))
  | 0x45 => decA w fun a => .flushr s a
  | 0x46 => need (!fSX w && !fRX w && w.extractLsb' 12 5 == 0) 1 0 (need (fSZ w == 3) 3 0 (opnd (fA w) 0 fun a =>
      checked (.stq s (w.extractLsb' 10 2) (fImm4 w) a)))
  | 0x47 => need (w.extractLsb' 19 13 == 0) 1 0 (opnd (fD w) 0 fun d => checked (.qmov s (w.extractLsb' 17 2) d))
  | 0x48 => need (!fSX w && !fRX w && fImm4 w == 0) 1 0 (opnd (fD w) 0 fun d => opnd (fA w) 0 fun a =>
      checked (.salloc s (fSZ w) d a))
  | 0x49 => decA w fun a => .sfree s a
  | 0x50 => decRRR true w fun x d a b => .aadd s x d a b
  | 0x51 => decRRR true w fun x d a b => .aand s x d a b
  | 0x52 => decRRR true w fun x d a b => .aor s x d a b
  | 0x53 => decRRR true w fun x d a b => .axor s x d a b
  | 0x54 => decRRR true w fun x d a b => .amin s x d a b
  | 0x55 => decRRR true w fun x d a b => .amax s x d a b
  | 0x56 => decRRR true w fun x d a b => .axchg s x d a b
  | 0x58 => decRRR true w fun x d a b => .afadd s x d a b
  | 0x62 => decZ w (.exit s)
  | 0x63 => decZ w (.yield s)
  | 0x64 => need (w.extractLsb' 10 3 == 0) 1 0 (decSY w fun _ i a => .setpri s i a)
  | 0x65 => decSY w fun n i a => .wait s n i a
  | 0x67 => decSY w fun n i a => .semset s n i a
  | 0x68 => decZ w (.trig s)
  | 0x6A => need (fI w == 0) 1 0 (decSY w fun n _ a => .bararr s n a)
  | 0x6B => need (fI w == 0) 1 0 (decSY w fun n _ a => .barwait s n a)
  | 0x6D => need (w.extractLsb' 10 3 == 0) 1 0 (decSY w fun _ i a => .patclr s i a)
  | 0x70 => need (w.extractLsb' 10 14 == 0) 1 0 (checked (.trap s (fI w)))
  | 0x71 => need (w.extractLsb' 10 14 == 0) 1 0 (checked (.sysc s (fI w)))
  | 0x72 => decZ w (.eret s)
  | 0x73 => need (fA w == 0 && !fX w) 1 0 (opnd (fD w) 0 fun d => checked (.mfs s (fB w) d))
  | 0x74 => need (fD w == 0 && !fX w) 1 0 (opnd (fA w) 0 fun a => checked (.mts s (fB w) a))
  | 0x75 => decZ w (.rgn s)
  | 0x76 => decZ w (.pair s)
  | 0x77 => decZ w (.unpair s)
  | 0x78 => decZ w (.msync s)
  | 0x79 => need (w.extractLsb' 19 13 == 0 && fD w == 0) 1 0 (checked (.clk s (w.extractLsb' 17 2)))
  | 0x7A => need (w.extractLsb' 19 13 == 0 && fD w == 0) 1 0 (checked (.physid s (w.extractLsb' 17 2)))
  | 0x7B => need (fD w == 0 && !fX w) 1 0 (opnd (fA w) 0 fun a => opnd (fB w) 0 fun b => checked (.capx s a b))
  | 0x7C => decZ w (.halt s)
  | 0x7D => need (fA w == 0 && !fX w) 1 0 (opnd (fD w) 0 fun d =>
      checked (.portstat s (w.getLsbD 30) (w.extractLsb' 24 6) d))
  | _ => unassigned 0

/-- One word and a literal (LEN 0b10, R241). -/
def decodeLit (w : W32) (l : Word) : Dec :=
  let s := markOf w
  let rri (k : Operand → Operand → Instr) : Dec := need (fI w == 0) 1 0 (decRRI w fun _ d a => k d a)
  match majOf w with
  | 0x10 => rri fun d a => .addiLit s l d a
  | 0x11 => rri fun d a => .muliLit s l d a
  | 0x12 => rri fun d a => .andiLit s l d a
  | 0x13 => rri fun d a => .oriLit s l d a
  | 0x14 => rri fun d a => .xoriLit s l d a
  | 0x18 => rri fun d a => .miniLit s l d a
  | 0x19 => rri fun d a => .maxiLit s l d a
  | 0x1A => need (fI w == 0 && fA w == 0) 1 0 (opnd (fD w) 0 fun d => checked (.liLit s l d))
  | 0x1C => need (l.extractLsb' 6 2 == 0 && l.extractLsb' 14 18 == 0) 1 1 (need (l.extractLsb' 32 32 == 0) 1 2
      (rri fun d a => .bfx s (l.extractLsb' 0 6) (l.extractLsb' 8 6) d a))
  | 0x1D => need (l.extractLsb' 6 2 == 0 && l.extractLsb' 14 18 == 0) 1 1 (need (l.extractLsb' 32 32 == 0) 1 2
      (rri fun d a => .bfi s (l.extractLsb' 0 6) (l.extractLsb' 8 6) d a))
  | 0x20 => need (w.extractLsb' 15 2 == 0 && fB w == 0) 1 0 (need (fX w) 3 0 (opnd (fA w) 0 fun a =>
      checked (.cmpLit s (w.extractLsb' 10 3) (w.extractLsb' 13 2) a l)))
  | 0x40 => need (fImm4 w == 0) 1 0 (opnd (fD w) 0 fun d => opnd (fA w) 0 fun a =>
      checked (.ldLit s (fRX w) (fSX w) (fSZ w) l d a))
  | 0x41 => need (fImm4 w == 0 && !fSX w) 1 0 (opnd (fD w) 0 fun d => opnd (fA w) 0 fun a =>
      checked (.stLit s (fRX w) (fSZ w) l d a))
  | 0x42 => need (fImm4 w == 0 && !fSX w && !fRX w) 1 0 (need (fSZ w == 1) 3 0 (opnd (fD w) 0 fun d =>
      opnd (fA w) 0 fun a => checked (.ldbdLit s l d a)))
  | 0x43 => need (fImm4 w == 0 && !fSX w && !fRX w) 1 0 (need (fSZ w == 1) 3 0 (opnd (fD w) 0 fun d =>
      opnd (fA w) 0 fun a => checked (.stbdLit s l d a)))
  | 0x46 => need (fImm4 w == 0 && !fSX w && !fRX w && w.extractLsb' 12 5 == 0) 1 0 (need (fSZ w == 3) 3 0
      (opnd (fA w) 0 fun a => checked (.stqLit s (w.extractLsb' 10 2) l a)))
  | _ => unassigned 0

/-- The fields of words 1 and 2 (R242). -/
structure Ext12 where
  n : BitVec 7
  c : BitVec 7
  sat : Bool
  csem : BitVec 3
  cen : Bool
  dsem : BitVec 3
  func : BitVec 8
  shape : BitVec 20
  fmt : BitVec 8
  fsrc : Bool
  rm : BitVec 3
  deriving DecidableEq, Repr

def ext12 (w1 w2 : W32) : Ext12 :=
  { n := w1.extractLsb' 23 7, c := w1.extractLsb' 16 7, sat := w1.getLsbD 15, csem := w1.extractLsb' 12 3,
    cen := w1.getLsbD 11, dsem := w1.extractLsb' 8 3, func := w1.extractLsb' 0 8,
    shape := w2.extractLsb' 12 20, fmt := w2.extractLsb' 4 8, fsrc := w2.getLsbD 3, rm := w2.extractLsb' 0 3 }

/-- N, C, SAT, CSEM, CEN, DSEM, FUNC all zero but those listed as used, of N its low three bits; word 1 (R243). -/
def Ext12.zero1 (e : Ext12) (n c sat dsem : Bool) : Bool :=
  (if n then e.n.extractLsb' 3 4 == 0 else e.n == 0) && (c || e.c == 0) && (sat || !e.sat) && e.csem == 0 && !e.cen && (dsem || e.dsem == 0) &&
  e.func == 0

/-- SHAPE below 2^n, and FMT, FSRC, RM zero but those listed as used; word 2 (R243). -/
def Ext12.zero2 (e : Ext12) (n : Nat) (fmt rm : Bool) : Bool :=
  e.shape.toNat < 2 ^ n && (fmt || e.fmt == 0) && !e.fsrc && (rm || e.rm == 0)

/-- An extended engine instruction: all its fields, its operand levels checked (R326). -/
def decExt (w : W32) (w1 : W32) (e : Ext12) (k : Ext → Instr) : Dec :=
  need (w1.extractLsb' 30 2 == 0) 1 1 <|
  opnd (fD w) 0 fun d => opnd (fA w) 0 fun a => opnd (fB w) 0 fun b => opnd e.n 1 fun n => opnd e.c 1 fun c =>
  checked (k { sm := markOf w, x := fX w, b := b, a := a, d := d, n := n, c := c, sat := e.sat, csem := e.csem,
               cen := e.cen, dsem := e.dsem, shape := e.shape, fmt := e.fmt, fsrc := e.fsrc, rm := e.rm })

/-- A scalar floating-point instruction in its extended form: RM alone (R275). -/
def decFext (w w1 : W32) (e : Ext12) (k : Bool → Operand → Operand → Operand → Instr) : Dec :=
  need (w1.extractLsb' 30 2 == 0 && e.zero1 false false false false) 1 1 <| need (e.zero2 0 false true) 1 2 <|
  decRRR true w k

/-- The VX group by FUNC (R246). -/
def vxOf : Nat → Option (Ext → Instr)
  | 0x00 => some .vadd | 0x01 => some .vsub | 0x02 => some .vmul | 0x03 => some .vfma | 0x04 => some .vmin
  | 0x05 => some .vmax | 0x06 => some .vabs | 0x07 => some .vneg | 0x08 => some .vrcp | 0x09 => some .vrsq
  | 0x0A => some .vexp2 | 0x0B => some .vlog2 | 0x0C => some .vlut | 0x0D => some .vcmp | 0x0E => some .vsel
  | 0x0F => some .vcvt | 0x10 => some .vscale | 0x11 => some .vred | 0x12 => some .vscan | 0x13 => some .vtopk
  | 0x14 => some .vgath | 0x15 => some .vscat | 0x16 => some .vfill | 0x17 => some .viota | 0x18 => some .vpack
  | 0x19 => some .vunpk | _ => none

/-- The CX and MX groups by FUNC (R245). -/
def cxOf : Nat → Option (Ext → Instr)
  | 0 => some .cxtpl | 1 => some .cxgo | 2 => some .cxwm | 3 => some .cxstop | 4 => some .cxrst | _ => none
def mxOf : Nat → Option (Ext → Instr)
  | 0 => some .mma | 1 => some .mmas | 2 => some .mald | 3 => some .mast | 4 => some .maz | 5 => some .mstat
  | 6 => some .mring | _ => none

/-- An instruction of a group: an unassigned FUNC traps at word 1 (R247). -/
def decGroup (o : Option (Ext → Instr)) (w w1 : W32) (e : Ext12) : Dec :=
  match o with
  | some k => decExt w w1 e k
  | none => unassigned 1

/-- Three words (LEN 0b01). -/
def decodeExt (w w1 w2 : W32) : Dec :=
  let s := markOf w
  let e := ext12 w1 w2
  let z1 (n c sat dsem : Bool) (k : Dec) : Dec := need (w1.extractLsb' 30 2 == 0 && e.zero1 n c sat dsem) 1 1 k
  match majOf w with
  | 0x30 => decFext w w1 e fun x d a b => .faddExt s x e.rm d a b
  | 0x31 => decFext w w1 e fun x d a b => .fsubExt s x e.rm d a b
  | 0x32 => decFext w w1 e fun x d a b => .fmulExt s x e.rm d a b
  | 0x33 => z1 false true false false (need (e.zero2 0 false true) 1 2 (opnd e.c 1 fun c =>
      decRRR true w fun x d a b => .ffma s x e.rm d a b c))
  | 0x34 => decFext w w1 e fun x d a b => .fdivExt s x e.rm d a b
  | 0x35 => z1 false false false false (need (e.zero2 0 false true) 1 2 (decRR w fun x d a => .fsqrtExt s x e.rm d a))
  | 0x36 => decFext w w1 e fun x d a b => .fminExt s x e.rm d a b
  | 0x37 => decFext w w1 e fun x d a b => .fmaxExt s x e.rm d a b
  | 0x38 => need (!fX w) 1 0 (z1 false false true false (need (e.zero2 8 true true) 1 2
      (decRR w fun _ d a => .fcvt s e.sat e.rm e.fmt (e.shape.extractLsb' 0 8) d a)))
  | 0x3C => if e.func = 0 then decExt w w1 e .tmv else unassigned 1
  | 0x3D => decGroup (cxOf e.func.toNat) w w1 e
  | 0x3E => decGroup (vxOf e.func.toNat) w w1 e
  | 0x3F => decGroup (mxOf e.func.toNat) w w1 e
  | 0x57 => z1 false true false false (need (e.zero2 0 false false) 1 2 (opnd e.c 1 fun c =>
      decRRR true w fun x d a b => .acas s x d a b c))
  | 0x59 => z1 true false false true (need (e.zero2 0 false false) 1 2 (need (fD w == 0 && !fX w) 1 0
      (opnd (fA w) 0 fun a => opnd (fB w) 0 fun b => checked (.append s (e.n.extractLsb' 0 3) e.dsem a b))))
  | 0x60 => z1 true false false false (need (e.zero2 13 false false) 1 2
      (decRRR false w fun _ d a b => .spawn s (e.n.extractLsb' 0 3) (e.shape.extractLsb' 0 3) (e.shape.getLsbD 3)
        (e.shape.extractLsb' 4 8) (e.shape.getLsbD 12) d a b))
  | 0x61 => z1 true true false true (need (e.zero2 3 false false) 1 2
      (need (fD w == 0 && !fX w) 1 0 (opnd (fA w) 0 fun a => opnd (fB w) 0 fun b => opnd e.c 1 fun c =>
        checked (.spawnr s (e.n.extractLsb' 0 3) (e.shape.extractLsb' 0 3) e.dsem a b c))))
  | 0x66 => z1 false false false true (need (e.zero2 16 false false) 1 2 (need (fD w == 0 && fB w == 0 && !fX w) 1 0
      (opnd (fA w) 0 fun a => checked (.post s e.dsem (e.shape.extractLsb' 0 16) a))))
  | 0x69 => z1 false false false false (need (e.zero2 0 false false) 1 2
      (decRRR false w fun _ d a b => .barinit s d a b))
  | 0x6C => z1 false true false false (need (e.zero2 5 false false) 1 2 (need (fD w == 0 && !fX w) 1 0
      (opnd (fA w) 0 fun a => opnd (fB w) 0 fun b => opnd e.c 1 fun c =>
        checked (.patset s (e.shape.extractLsb' 0 5) a b c))))
  | 0x6E => z1 false false false false (need (e.zero2 6 false false) 1 2 (need (fD w == 0 && !fX w) 1 0
      (opnd (fA w) 0 fun a => opnd (fB w) 0 fun b => checked (.portcfg s (e.shape.extractLsb' 0 6) a b))))
  | 0x6F => z1 true false false false (need (e.zero2 7 false false) 1 2
      (need (fA w == 0 && fB w == 0 && !fX w) 1 0 (opnd (fD w) 0 fun d =>
        checked (.recv s (e.n.extractLsb' 0 3) (e.shape.extractLsb' 0 6) (e.shape.getLsbD 6) d))))
  | _ => unassigned 0

/-- Three words and a literal (LEN 0b11). -/
def decodeExtLit (w w1 w2 : W32) (l : Word) : Dec :=
  let s := markOf w
  let e := ext12 w1 w2
  let z1 (n c sat dsem : Bool) (k : Dec) : Dec := need (w1.extractLsb' 30 2 == 0 && e.zero1 n c sat dsem) 1 1 k
  match majOf w with
  | 0x60 => z1 true false false false (need (e.zero2 13 false false) 1 2
      (need (fA w == 0 && !fX w) 1 0 (opnd (fD w) 0 fun d => opnd (fB w) 0 fun b =>
        checked (.spawnLit s (e.n.extractLsb' 0 3) (e.shape.extractLsb' 0 3) (e.shape.getLsbD 3)
          (e.shape.extractLsb' 4 8) (e.shape.getLsbD 12) l d b))))
  | 0x61 => z1 true false false true (need (e.zero2 3 false false) 1 2
      (need (fD w == 0 && !fX w) 1 0 (opnd (fA w) 0 fun a => opnd (fB w) 0 fun b =>
        checked (.spawnrLit s (e.n.extractLsb' 0 3) (e.shape.extractLsb' 0 3) e.dsem l a b))))
  | 0x6C => z1 false true false false (need (e.zero2 5 false false) 1 2 (need (fD w == 0 && fB w == 0 && !fX w) 1 0
      (opnd (fA w) 0 fun a => opnd e.c 1 fun c => checked (.patsetLit s (e.shape.extractLsb' 0 5) l a c))))
  | _ => unassigned 0

/-- The literal of its two words, low word first (R239). -/
def litOf (lo hi : W32) : Word := hi ++ lo

/-- Decodes the words of one instruction, exactly as many as its LEN gives (R250); ILL needs its first word alone
(R252). -/
def decode : List W32 → Dec
  | [] => unassigned 0
  | w :: r =>
    if majOf w = 0x7F then .ok (.ill (markOf w) (w.extractLsb' 0 2) (w.extractLsb' 10 22))
    else match (w.extractLsb' 0 2).toNat, r with
      | 0, [] => decodeOne w
      | 2, [l0, l1] => decodeLit w (litOf l0 l1)
      | 1, [w1, w2] => decodeExt w w1 w2
      | 3, [w1, w2, l0, l1] => decodeExtLit w w1 w2 (litOf l0 l1)
      | _, _ => unassigned 0

/-! The encoder, from the same tables. -/

/-- The common bits 9:0 of a first word (R239). -/
def encLow (maj : BitVec 7) (s : Bool) (len : BitVec 2) : BitVec 10 := maj ++ BitVec.ofBool s ++ len

def encRRR (x : Bool) (b a d maj : BitVec 7) (s : Bool) (len : BitVec 2 := 0) : W32 :=
  BitVec.ofBool x ++ b ++ a ++ d ++ encLow maj s len
def encRRI (i : BitVec 8) (a d maj : BitVec 7) (s : Bool) (len : BitVec 2 := 0) : W32 :=
  i ++ a ++ d ++ encLow maj s len
def encM (i : BitVec 4) (rx sx : Bool) (sz : BitVec 2) (a d maj : BitVec 7) (s : Bool) (len : BitVec 2 := 0) : W32 :=
  i ++ BitVec.ofBool rx ++ BitVec.ofBool sx ++ sz ++ a ++ d ++ encLow maj s len
def encCMP (x : Bool) (b a : BitVec 7) (k : BitVec 2) (cond : BitVec 3) (maj : BitVec 7) (s : Bool)
    (len : BitVec 2 := 0) : W32 :=
  BitVec.ofBool x ++ b ++ a ++ (0 : BitVec 2) ++ k ++ cond ++ encLow maj s len
def encBR (off : BitVec 22) (maj : BitVec 7) (s : Bool) (len : BitVec 2 := 0) : W32 := off ++ encLow maj s len
def encLP (off : BitVec 15) (d maj : BitVec 7) (s : Bool) : W32 := off ++ d ++ encLow maj s 0
def encSY (i : BitVec 8) (a : BitVec 7) (sem : BitVec 3) (maj : BitVec 7) (s : Bool) : W32 :=
  i ++ a ++ (0 : BitVec 4) ++ sem ++ encLow maj s 0
def encQM (q : BitVec 2) (d maj : BitVec 7) (s : Bool) : W32 := (0 : BitVec 13) ++ q ++ d ++ encLow maj s 0

/-- Words 1 and 2 (R242). -/
def encExt1 (n c : BitVec 7) (sat : Bool) (csem : BitVec 3) (cen : Bool) (dsem : BitVec 3) (func : BitVec 8) : W32 :=
  (0 : BitVec 2) ++ n ++ c ++ BitVec.ofBool sat ++ csem ++ BitVec.ofBool cen ++ dsem ++ func
def encExt2 (shape : BitVec 20) (fmt : BitVec 8) (fsrc : Bool) (rm : BitVec 3) : W32 :=
  shape ++ fmt ++ BitVec.ofBool fsrc ++ rm

/-- The two words of a literal. -/
def encLit (l : Word) : List W32 := [l.extractLsb' 0 32, l.extractLsb' 32 32]

/-- An engine instruction. -/
def encEngine (maj : BitVec 7) (func : BitVec 8) (e : Ext) : List W32 :=
  [encRRR e.x e.b.enc e.a.enc e.d.enc maj e.sm 1, encExt1 e.n.enc e.c.enc e.sat e.csem e.cen e.dsem func,
   encExt2 e.shape e.fmt e.fsrc e.rm]

/-- A scalar floating-point instruction in its extended form. -/
def encFext (x : Bool) (b a d maj : BitVec 7) (s : Bool) (c : BitVec 7) (rm : BitVec 3) : List W32 :=
  [encRRR x b a d maj s 1, encExt1 0 c false 0 false 0 0, encExt2 0 0 false rm]

/-- The words of an instruction; an event has none. -/
def encode : Instr → List W32
  | .add s d a b => [encRRR false b.enc a.enc d.enc 0x00 s]
  | .sub s d a b => [encRRR false b.enc a.enc d.enc 0x01 s]
  | .mul s d a b => [encRRR false b.enc a.enc d.enc 0x02 s]
  | .mulh s x d a b => [encRRR x b.enc a.enc d.enc 0x03 s]
  | .div s x d a b => [encRRR x b.enc a.enc d.enc 0x04 s]
  | .rem s x d a b => [encRRR x b.enc a.enc d.enc 0x05 s]
  | .and s d a b => [encRRR false b.enc a.enc d.enc 0x06 s]
  | .or s d a b => [encRRR false b.enc a.enc d.enc 0x07 s]
  | .xor s d a b => [encRRR false b.enc a.enc d.enc 0x08 s]
  | .andn s d a b => [encRRR false b.enc a.enc d.enc 0x09 s]
  | .shl s d a b => [encRRR false b.enc a.enc d.enc 0x0A s]
  | .shr s x d a b => [encRRR x b.enc a.enc d.enc 0x0B s]
  | .rot s d a b => [encRRR false b.enc a.enc d.enc 0x0C s]
  | .min s x d a b => [encRRR x b.enc a.enc d.enc 0x0D s]
  | .max s x d a b => [encRRR x b.enc a.enc d.enc 0x0E s]
  | .clz s d a => [encRRR false 0 a.enc d.enc 0x0F s]
  | .ctz s d a => [encRRR false 1 a.enc d.enc 0x0F s]
  | .popc s d a => [encRRR false 2 a.enc d.enc 0x0F s]
  | .brev s d a => [encRRR false 3 a.enc d.enc 0x0F s]
  | .sext s w d a => [encRRR false ((0 : BitVec 2) ++ w ++ (4 : BitVec 3)) a.enc d.enc 0x0F s]
  | .zext s w d a => [encRRR false ((0 : BitVec 2) ++ w ++ (5 : BitVec 3)) a.enc d.enc 0x0F s]
  | .addi s i d a => [encRRI i a.enc d.enc 0x10 s]
  | .addiLit s l d a => encRRI 0 a.enc d.enc 0x10 s 2 :: encLit l
  | .muli s i d a => [encRRI i a.enc d.enc 0x11 s]
  | .muliLit s l d a => encRRI 0 a.enc d.enc 0x11 s 2 :: encLit l
  | .andi s i d a => [encRRI i a.enc d.enc 0x12 s]
  | .andiLit s l d a => encRRI 0 a.enc d.enc 0x12 s 2 :: encLit l
  | .ori s i d a => [encRRI i a.enc d.enc 0x13 s]
  | .oriLit s l d a => encRRI 0 a.enc d.enc 0x13 s 2 :: encLit l
  | .xori s i d a => [encRRI i a.enc d.enc 0x14 s]
  | .xoriLit s l d a => encRRI 0 a.enc d.enc 0x14 s 2 :: encLit l
  | .shli s c d a => [encRRI ((0 : BitVec 2) ++ c) a.enc d.enc 0x15 s]
  | .shri s ar c d a => [encRRI ((0 : BitVec 1) ++ BitVec.ofBool ar ++ c) a.enc d.enc 0x16 s]
  | .roti s c d a => [encRRI ((0 : BitVec 2) ++ c) a.enc d.enc 0x17 s]
  | .mini s i d a => [encRRI i a.enc d.enc 0x18 s]
  | .miniLit s l d a => encRRI 0 a.enc d.enc 0x18 s 2 :: encLit l
  | .maxi s i d a => [encRRI i a.enc d.enc 0x19 s]
  | .maxiLit s l d a => encRRI 0 a.enc d.enc 0x19 s 2 :: encLit l
  | .li s i d => [encRRI i 0 d.enc 0x1A s]
  | .liLit s l d => encRRI 0 0 d.enc 0x1A s 2 :: encLit l
  | .lea s x d a b => [encRRR x b.enc a.enc d.enc 0x1B s]
  | .bfx s p w d a => encRRI 0 a.enc d.enc 0x1C s 2 :: encLit ((0 : BitVec 50) ++ w ++ (0 : BitVec 2) ++ p)
  | .bfi s p w d a => encRRI 0 a.enc d.enc 0x1D s 2 :: encLit ((0 : BitVec 50) ++ w ++ (0 : BitVec 2) ++ p)
  | .mov s d a => [encRRI 0 a.enc d.enc 0x1E s]
  | .pfr s d a => [encRRI 0 a.enc (Operand.opf d).enc 0x1F s]
  | .cmp s c k a (.reg b) => [encCMP false b.enc a.enc k c 0x20 s]
  | .cmp s c k a (.imm v) => [encCMP true v a.enc k c 0x20 s]
  | .cmpLit s c k a l => encCMP true 0 a.enc k c 0x20 s 2 :: encLit l
  | .fcmp s x c k a b => [encCMP x b.enc a.enc k c 0x21 s]
  | .br s o => [encBR o 0x22 s]
  | .call s o => [encBR o 0x23 s]
  | .jmp s a => [encRRR false 0 a.enc 0 0x24 s]
  | .callr s a => [encRRR false 0 a.enc 0 0x25 s]
  | .ret s => [encBR 0 0x26 s]
  | .loop s o d => [encLP o d.enc 0x27 s]
  | .fadd s x d a b => [encRRR x b.enc a.enc d.enc 0x30 s]
  | .faddExt s x rm d a b => encFext x b.enc a.enc d.enc 0x30 s 0 rm
  | .fsub s x d a b => [encRRR x b.enc a.enc d.enc 0x31 s]
  | .fsubExt s x rm d a b => encFext x b.enc a.enc d.enc 0x31 s 0 rm
  | .fmul s x d a b => [encRRR x b.enc a.enc d.enc 0x32 s]
  | .fmulExt s x rm d a b => encFext x b.enc a.enc d.enc 0x32 s 0 rm
  | .ffma s x rm d a b c => encFext x b.enc a.enc d.enc 0x33 s c.enc rm
  | .fdiv s x d a b => [encRRR x b.enc a.enc d.enc 0x34 s]
  | .fdivExt s x rm d a b => encFext x b.enc a.enc d.enc 0x34 s 0 rm
  | .fsqrt s x d a => [encRRR x 0 a.enc d.enc 0x35 s]
  | .fsqrtExt s x rm d a => encFext x 0 a.enc d.enc 0x35 s 0 rm
  | .fmin s x d a b => [encRRR x b.enc a.enc d.enc 0x36 s]
  | .fminExt s x rm d a b => encFext x b.enc a.enc d.enc 0x36 s 0 rm
  | .fmax s x d a b => [encRRR x b.enc a.enc d.enc 0x37 s]
  | .fmaxExt s x rm d a b => encFext x b.enc a.enc d.enc 0x37 s 0 rm
  | .fcvt s sat rm t f d a =>
    [encRRR false 0 a.enc d.enc 0x38 s 1, encExt1 0 0 sat 0 false 0 0, encExt2 ((0 : BitVec 12) ++ f) t false rm]
  | .fclass s x d a => [encRRR x 0 a.enc d.enc 0x39 s]
  | .ld s rx sx sz o d a => [encM o rx sx sz a.enc d.enc 0x40 s]
  | .ldLit s rx sx sz o d a => encM 0 rx sx sz a.enc d.enc 0x40 s 2 :: encLit o
  | .st s rx sz o d a => [encM o rx false sz a.enc d.enc 0x41 s]
  | .stLit s rx sz o d a => encM 0 rx false sz a.enc d.enc 0x41 s 2 :: encLit o
  | .ldbd s o d a => [encM o false false 1 a.enc d.enc 0x42 s]
  | .ldbdLit s o d a => encM 0 false false 1 a.enc d.enc 0x42 s 2 :: encLit o
  | .stbd s o d a => [encM o false false 1 a.enc d.enc 0x43 s]
  | .stbdLit s o d a => encM 0 false false 1 a.enc d.enc 0x43 s 2 :: encLit o
  | .fence s sc => [encSY 0 0 sc 0x44 s]
  | .flushr s a => [encRRR false 0 a.enc 0 0x45 s]
  | .stq s q o a => [encM o false false 3 a.enc ((0 : BitVec 5) ++ q) 0x46 s]
  | .stqLit s q o a => encM 0 false false 3 a.enc ((0 : BitVec 5) ++ q) 0x46 s 2 :: encLit o
  | .qmov s q d => [encQM q d.enc 0x47 s]
  | .salloc s l d a => [encM 0 false false l a.enc d.enc 0x48 s]
  | .sfree s a => [encRRR false 0 a.enc 0 0x49 s]
  | .aadd s x d a b => [encRRR x b.enc a.enc d.enc 0x50 s]
  | .aand s x d a b => [encRRR x b.enc a.enc d.enc 0x51 s]
  | .aor s x d a b => [encRRR x b.enc a.enc d.enc 0x52 s]
  | .axor s x d a b => [encRRR x b.enc a.enc d.enc 0x53 s]
  | .amin s x d a b => [encRRR x b.enc a.enc d.enc 0x54 s]
  | .amax s x d a b => [encRRR x b.enc a.enc d.enc 0x55 s]
  | .axchg s x d a b => [encRRR x b.enc a.enc d.enc 0x56 s]
  | .acas s x d a b c => [encRRR x b.enc a.enc d.enc 0x57 s 1, encExt1 0 c.enc false 0 false 0 0, encExt2 0 0 false 0]
  | .afadd s x d a b => [encRRR x b.enc a.enc d.enc 0x58 s]
  | .append s n ds a b =>
    [encRRR false b.enc a.enc 0 0x59 s 1, encExt1 ((0 : BitVec 4) ++ n) 0 false 0 false ds 0, encExt2 0 0 false 0]
  | .spawn s n pr pe tq te d a b =>
    [encRRR false b.enc a.enc d.enc 0x60 s 1, encExt1 ((0 : BitVec 4) ++ n) 0 false 0 false 0 0,
     encExt2 ((0 : BitVec 7) ++ BitVec.ofBool te ++ tq ++ BitVec.ofBool pe ++ pr) 0 false 0]
  | .spawnLit s n pr pe tq te pc d b =>
    [encRRR false b.enc 0 d.enc 0x60 s 3, encExt1 ((0 : BitVec 4) ++ n) 0 false 0 false 0 0,
     encExt2 ((0 : BitVec 7) ++ BitVec.ofBool te ++ tq ++ BitVec.ofBool pe ++ pr) 0 false 0] ++ encLit pc
  | .spawnr s n pr ds a b c =>
    [encRRR false b.enc a.enc 0 0x61 s 1, encExt1 ((0 : BitVec 4) ++ n) c.enc false 0 false ds 0,
     encExt2 ((0 : BitVec 17) ++ pr) 0 false 0]
  | .spawnrLit s n pr ds pc a b =>
    [encRRR false b.enc a.enc 0 0x61 s 3, encExt1 ((0 : BitVec 4) ++ n) 0 false 0 false ds 0,
     encExt2 ((0 : BitVec 17) ++ pr) 0 false 0] ++ encLit pc
  | .exit s => [encBR 0 0x62 s]
  | .yield s => [encBR 0 0x63 s]
  | .setpri s i a => [encSY i a.enc 0 0x64 s]
  | .wait s n i a => [encSY i a.enc n 0x65 s]
  | .post s ds c a =>
    [encRRR false 0 a.enc 0 0x66 s 1, encExt1 0 0 false 0 false ds 0, encExt2 ((0 : BitVec 4) ++ c) 0 false 0]
  | .semset s n i a => [encSY i a.enc n 0x67 s]
  | .trig s => [encBR 0 0x68 s]
  | .barinit s d a b => [encRRR false b.enc a.enc d.enc 0x69 s 1, encExt1 0 0 false 0 false 0 0, encExt2 0 0 false 0]
  | .bararr s n a => [encSY 0 a.enc n 0x6A s]
  | .barwait s n a => [encSY 0 a.enc n 0x6B s]
  | .patset s i a b c =>
    [encRRR false b.enc a.enc 0 0x6C s 1, encExt1 0 c.enc false 0 false 0 0, encExt2 ((0 : BitVec 15) ++ i) 0 false 0]
  | .patsetLit s i pc a c =>
    [encRRR false 0 a.enc 0 0x6C s 3, encExt1 0 c.enc false 0 false 0 0, encExt2 ((0 : BitVec 15) ++ i) 0 false 0]
      ++ encLit pc
  | .patclr s i a => [encSY i a.enc 0 0x6D s]
  | .portcfg s i a b =>
    [encRRR false b.enc a.enc 0 0x6E s 1, encExt1 0 0 false 0 false 0 0, encExt2 ((0 : BitVec 14) ++ i) 0 false 0]
  | .recv s n p h d =>
    [encRRR false 0 0 d.enc 0x6F s 1, encExt1 ((0 : BitVec 4) ++ n) 0 false 0 false 0 0,
     encExt2 ((0 : BitVec 13) ++ BitVec.ofBool h ++ p) 0 false 0]
  | .trap s c => [encSY c 0 0 0x70 s]
  | .sysc s c => [encSY c 0 0 0x71 s]
  | .eret s => [encBR 0 0x72 s]
  | .mfs s n d => [encRRR false n 0 d.enc 0x73 s]
  | .mts s n a => [encRRR false n a.enc 0 0x74 s]
  | .rgn s => [encBR 0 0x75 s]
  | .pair s => [encBR 0 0x76 s]
  | .unpair s => [encBR 0 0x77 s]
  | .msync s => [encBR 0 0x78 s]
  | .clk s q => [encQM q 0 0x79 s]
  | .physid s q => [encQM q 0 0x7A s]
  | .capx s a b => [encRRR false b.enc a.enc 0 0x7B s]
  | .halt s => [encBR 0 0x7C s]
  | .portstat s w p d => [encRRI ((0 : BitVec 1) ++ BitVec.ofBool w ++ p) 0 d.enc 0x7D s]
  | .ill s l u => [encBR u 0x7F s l]
  | .tmv e => encEngine 0x3C 0 e
  | .cxtpl e => encEngine 0x3D 0 e
  | .cxgo e => encEngine 0x3D 1 e
  | .cxwm e => encEngine 0x3D 2 e
  | .cxstop e => encEngine 0x3D 3 e
  | .cxrst e => encEngine 0x3D 4 e
  | .vadd e => encEngine 0x3E 0x00 e
  | .vsub e => encEngine 0x3E 0x01 e
  | .vmul e => encEngine 0x3E 0x02 e
  | .vfma e => encEngine 0x3E 0x03 e
  | .vmin e => encEngine 0x3E 0x04 e
  | .vmax e => encEngine 0x3E 0x05 e
  | .vabs e => encEngine 0x3E 0x06 e
  | .vneg e => encEngine 0x3E 0x07 e
  | .vrcp e => encEngine 0x3E 0x08 e
  | .vrsq e => encEngine 0x3E 0x09 e
  | .vexp2 e => encEngine 0x3E 0x0A e
  | .vlog2 e => encEngine 0x3E 0x0B e
  | .vlut e => encEngine 0x3E 0x0C e
  | .vcmp e => encEngine 0x3E 0x0D e
  | .vsel e => encEngine 0x3E 0x0E e
  | .vcvt e => encEngine 0x3E 0x0F e
  | .vscale e => encEngine 0x3E 0x10 e
  | .vred e => encEngine 0x3E 0x11 e
  | .vscan e => encEngine 0x3E 0x12 e
  | .vtopk e => encEngine 0x3E 0x13 e
  | .vgath e => encEngine 0x3E 0x14 e
  | .vscat e => encEngine 0x3E 0x15 e
  | .vfill e => encEngine 0x3E 0x16 e
  | .viota e => encEngine 0x3E 0x17 e
  | .vpack e => encEngine 0x3E 0x18 e
  | .vunpk e => encEngine 0x3E 0x19 e
  | .mma e => encEngine 0x3F 0 e
  | .mmas e => encEngine 0x3F 1 e
  | .mald e => encEngine 0x3F 2 e
  | .mast e => encEngine 0x3F 3 e
  | .maz e => encEngine 0x3F 4 e
  | .mstat e => encEngine 0x3F 5 e
  | .mring e => encEngine 0x3F 6 e
  | _ => []

/-- The words of an instruction whose bits are `w` with bit 0 the least significant of the first word: as many words
as the first word's LEN gives, those above the table's bits zero. ILL needs its first word alone. -/
def tableWords (w : Nat) : List W32 :=
  let w0 : W32 := BitVec.ofNat 32 w
  let ws : List W32 := [w0, BitVec.ofNat 32 (w / 2 ^ 32), BitVec.ofNat 32 (w / 2 ^ 64), BitVec.ofNat 32 (w / 2 ^ 96),
    BitVec.ofNat 32 (w / 2 ^ 128)]
  ws.take (lenWords w0)

/-- The instruction the decoder reads from an instruction whose low `nbits` bits are `w`, the rest zero. -/
def decodeTableWord (nbits w : Nat) : Option Instr :=
  match decode (tableWords (w % 2 ^ nbits)) with
  | .ok i => some i
  | .error _ => none

end Sys2Proof
end

