-- ==== Sys2Proof/Machine/Wake.lean ====
section
/-! DEFINITION. Fetching (R239, R416), choosing the thread that issues (R196 to R198), and the end of a cycle: what wakes the
parked threads (R40), and the next cycle. -/

namespace Sys2Proof.Machine

/-! ## Fetch -/

/-- What the fetch of a word gives. -/
inductive FWord where
  | got (w : W32) (psn : Option (Poison × Word × Word))
  | bad (info va : Word)
  | wait (w : WaitFor)
  | far (dev pa : Nat) (va : Word)
  deriving DecidableEq, Repr

/-- What the fetch of an instruction gives. -/
inductive Fetch where
  | words (ws : List W32)
  | bad (info va : Word)
  | wait (w : WaitFor)
  | far (dev pa : Nat) (va : Word)
  | psn (p : Poison) (va pa : Word)
  deriving DecidableEq, Repr

namespace State
variable (s : State)

/-- Fetches word `k` of the instruction at PC: a load that needs the X right (R416). -/
def fetchWord (t : Thread) (k : Nat) : FWord :=
  let va := t.pc + wd (4 * k)
  match s.check t .fetch 4 false va with
  | .bad info v => .bad (info + wd (k * 2 ^ 15)) v
  | .wait w => .wait w
  | .ok (.here pa) _ =>
    let v := s.load pa 4
    if s.space pa == .hbm && s.chanHeld pa then .wait (.until (s.now + 1) false)
    else .got (v.v.setWidth 32) (v.psn.map fun p => (p, va, wd (s.devid * 2 ^ 40 + pa)))
  | .ok (.there dev pa) _ =>
    match t.fetched.find? fun e => e.1 == va with
    | some e => .got (e.2.v.setWidth 32) (e.2.psn.map fun p => (p, va, wd (dev * 2 ^ 40 + pa)))
    | none => .far dev pa va
  | .ok (.chan _) _ => .bad (infoVa 3 va true k) va

/-- Fetches `n` further words from word `k` on, then gives them all. -/
def fetchMore (t : Thread) (acc : List W32) : Nat → Nat → Fetch
  | 0, _ => .words acc
  | n + 1, k =>
    match s.fetchWord t k with
    | .got w none => fetchMore t (acc ++ [w]) n (k + 1)
    | .got _ (some (p, va, pa)) => .psn p va pa
    | .bad i v => .bad i v
    | .wait w => .wait w
    | .far d p v => .far d p v

/-- Fetches the instruction at PC: every word its LEN gives (R250), but the first alone where it is annulled (R253) or is ILL
(R252). -/
def fetch (t : Thread) : Fetch :=
  match s.fetchWord t 0 with
  | .got w none =>
    if t.skipc != 0 || majOf w = 0x7F then .words [w] else s.fetchMore t [w] (lenWords w - 1) 1
  | .got _ (some (p, va, pa)) => .psn p va pa
  | .bad i v => .bad i v
  | .wait w => .wait w
  | .far d p v => .far d p v

/-- A fetch that gives no instruction: it faults, parks the thread, reads a remote word, or consumes poison (R239, R416). -/
def fetchFails (t : Thread) : Fetch → State
  | .bad info va => s.fault t info va
  | .wait w => s.parkOn t w
  | .far dev pa va =>
    let s := s.threadReq t { s.pktOf t 0x01 0 dev with opsz := 2, addr := pa } (.fetch t.ref va)
    s.park t (.event false)
  | .psn p va pa =>
    if pa.toNat / 2 ^ 40 = s.devid then
      let r := s.eccVal t.ltag t.unit (pa.toNat % 2 ^ 40) ⟨0, some p⟩
      r.1.consume t (r.2.psn.getD p) va pa
    else s.consume t p va pa
  | .words _ => s

/-! ## Selection (R196 to R198) -/

/-- EFF of a thread in this cycle (R197); one that yielded counts from base 0 (R300). -/
def effOf (t : Thread) : Nat :=
  min 7 ((if t.yielded then 0 else t.base.toNat) + t.wait / (s.unit t.unit).ageStep)

/-- READY, and no pre-emption stops the issue of its crew's threads (R49). -/
def mayIssue (t : Thread) : Bool := match t.st with | .ready => !s.stopping t.ltag t.unit | _ => false

/-- Eligible in this cycle (R196), and not held by its last POST (R303). -/
def eligible (t : Thread) : Bool := t.eligRound ≤ s.round && t.holdTo ≤ s.now && s.mayIssue t

/-- Whether `x` stands before `y` in the order of R198. -/
def standsBefore (p : Nat) (x y : Thread) : Bool :=
  s.effOf y < s.effOf x || (s.effOf x == s.effOf y && (x.slot + 256 - p) % 256 < (y.slot + 256 - p) % 256)

/-- The first of the threads in the order of R198. -/
def firstOf (p : Nat) : List Thread → Option Thread
  | [] => none
  | t :: r => match firstOf p r with
    | none => some t
    | some x => if s.standsBefore p x t then some x else some t

/-- The pointer of the mill that issued moves past its first issued thread (R198). -/
def settlePtr : State :=
  if s.issued = 0 then s else (s.onUnit s.scan fun u => { u with ptr := s.issued % 256 })

/-- The thread that issues next in this cycle, with the mill scan moved to it; none when every mill is done. Whether a twin, which runs the same
instructions (R320), takes issue positions of its own mill and moves its pointer the manual does not say: DESIGN CHOICE, it takes none (log
entry 79). `scan` is the mill asked,
and `issued` is zero or one more than the slot of its first issued thread. -/
def nextIssue : Option (State × Thread) :=
  match s.threads.filter fun t => s.scan ≤ t.unit && s.eligible t with
  | [] => none
  | x :: r =>
    if x.unit = s.scan && s.issued != 0 then
      match s.firstOf (s.unit x.unit).ptr ((x :: r).filter fun t => t.unit == x.unit) with
      | some t => some ({ s.settlePtr with scan := x.unit + 1, issued := 0 }, t)
      | none => none
    else
      let s := s.settlePtr
      match s.firstOf (s.unit x.unit).ptr ((x :: r).filter fun t => t.unit == x.unit) with
      | some t => some ({ s with scan := x.unit, issued := t.slot + 1 }, t)
      | none => none

/-- Takes an issue position: EFF recorded, the wait count cleared, and the thread due again in the next round (R196 to R198). -/
def takePosition (t : Thread) : Thread :=
  { t with eff := BitVec.ofNat 3 (s.effOf t), wait := 0, yielded := false, released := none, eligRound := s.round + 1 }

/-! ## What stands before an instruction -/

/-- The instructions before which a paired thread exchanges fingerprints, because they end a region (R375, R376). -/
def endsRegion : Instr → Bool
  | .append .. | .spawn .. | .spawnLit .. | .spawnr .. | .spawnrLit .. | .aadd .. | .aand .. | .aor .. | .axor .. | .amin ..
  | .amax .. | .axchg .. | .acas .. | .afadd .. | .post .. | .bararr .. | .barwait .. | .capx .. | .sysc .. | .exit ..
  | .unpair .. => true
  | _ => false

/-- An instruction that ends its thread's region whatever it accesses, and so lies outside it: one of those, or a RET below RGNWD (R375). -/
def leavesRegion (t : Thread) (i : Instr) : Bool :=
  match i with
  | .ret .. => t.depth ≤ t.rgnwd.toNat
  | .unpair .. => false
  | i => endsRegion i

/-- Whether an instruction goes on to its meaning. -/
inductive Before where
  | go (s : State)
  | stop (s : State)
  deriving DecidableEq, Repr

/-- An exchange of fingerprints that is due, and poison that the instruction's sources carry, come before it (R376, R374); an instruction
that reads the vault holds its thread for two rounds (R57). -/
def before (t : Thread) (i : Instr) : Before :=
  if t.twin.isSome && !t.exchanged && (256 ≤ t.retired || endsRegion i) then
    .stop (s.exchange t)
  else
    let t := if readsVault i then { t with eligRound := s.round + 2 } else t
    match sourcePsn t i with
    | some p => .stop (s.consume (if leavesRegion t i then endRegion t else t) p)
    | none => .go (s.setThread t)

end State

/-! ## The twin's own registers (R320, R376) -/

/-- The registers of a thread, by the numbers of `twinKey`. -/
def Thread.regList (t : Thread) : List (Nat × Word) :=
  let from_ (base : Nat) (vs : List Word) : List (Nat × Word) := vs.zipIdx.map fun (v, i) => (base + i, v)
  from_ 0 (t.k.toList ++ t.a.toList) ++
  (t.frames.zipIdx.flatMap fun (f, i) => from_ (16 + 16 * (t.depth - i)) (f.l.toList ++ f.o.toList)) ++
  from_ (2 ^ 32) (t.p.toList ++ [t.lat]) ++ from_ (2 ^ 32 + 16) t.q.toList ++ from_ (2 ^ 32 + 24) (t.sems.toList.map (·.setWidth 64)) ++
  [(2 ^ 32 + 70, t.spillp), (2 ^ 32 + 71, t.spilllim)] ++ from_ (2 ^ 32 + 74) [t.trapvec, t.trappc, t.trapinfo, t.traplat]

/-- The thread with a value in the register of a number. -/
def Thread.withReg (t : Thread) (key : Nat) (v : Word) : Thread :=
  if key < 8 then { t with k := nset t.k key v }
  else if key < 16 then { t with a := nset t.a (key - 8) v }
  else if key < 2 ^ 32 then
    { t with frames := t.frames.zipIdx.map fun (f, i) =>
        if 16 + 16 * (t.depth - i) = key / 16 * 16 then f.set (8 ≤ key % 16) (BitVec.ofNat 3 key) v else f }
  else
    let i := key - 2 ^ 32
    if i < 8 then { t with p := nset t.p i v }
    else if i = 8 then { t with lat := v }
    else if i < 20 then { t with q := nset t.q (i - 16) v }
    else if i < 32 then { t with sems := nset t.sems (i - 24) (v.setWidth 16) }
    else match i - 64 with
      | 0x06 => { t with spillp := v }
      | 0x07 => { t with spilllim := v }
      | 0x0A => { t with trapvec := v }
      | 0x0B => { t with trappc := v }
      | 0x0C => { t with trapinfo := v }
      | 0x0D => { t with traplat := v }
      | _ => t

/-- The value in the register of a number. -/
def Thread.regAt (t : Thread) (key : Nat) : Option Word := (t.regList.find? fun e => e.1 == key).map (·.2)

/-- A register has been written in the primary alone, which is then `u`: the twin keeps the value that it has (R76, R320). -/
def Thread.primaryOnly (t : Thread) (r : DebugReg) (u : Thread) : Thread :=
  let key := twinKey (canonReg r) t.vaultKey
  match t.twin, t.regAt key, u.regAt key with
  | some w, some old, some new =>
    let v := (mget w.own key).getD old
    { u with twin := some { w with own := if v = new then mdel w.own key else mset w.own key v } }
  | _, _, _ => u

/-- The twin, as a thread: its own registers, and its fingerprint with what may strike it at an instruction (R376). -/
def Thread.asTwin (t : Thread) (w : Twin) (upset : Word) : Thread :=
  { w.own.foldl (fun t e => t.withReg e.1 e.2) t with fp := w.fp ^^^ upset, fpq := w.fpq }

/-- What a twin with registers of its own has done beside an instruction of its primary, which was `old`: the primary as the instruction leaves it
in `s`, and the twin as it leaves it in `v`, where it ran with the twin's registers. All else that it did there falls away (R320). -/
def State.followTwin (s v : State) (old : Thread) : State :=
  match s.ref? old.ref, v.ref? old.ref with
  | some x, some y =>
    (match x.twin with
    | some w =>
      if x.retired = old.retired + 1 && y.retired = x.retired then
        s.setThread { x with twin := some { w with fp := y.fp, fpq := y.fpq, own := y.regList.filter fun e => x.regAt e.1 != some e.2 } }
      else s
    | none => s)
  | _, _ => s

/-- Runs an instruction of a thread; a twin whose registers differ runs it with its own (R320). -/
def twinned (run : State → Host.Outcome State Fault Refusal) (s : State) (t : Thread) : Host.Outcome State Fault Refusal :=
  match t.twin with
  | none => run s
  | some w =>
    if w.own.isEmpty then run s
    else match run s with
      | .next u => (match run (s.onRef t.ref fun x => x.asTwin w (Config.twinUpset s.free)) with
        | .next v => .next (u.followTwin v t)
        | _ => .next u)
      | o => o

namespace State
variable (s : State)

/-! ## What comes from outside -/

/-- The rank at which what the outside world does takes its place among what is due in the cycle (R109): packets by their port, then the host;
any other before the accesses of the cycle. -/
def inputRank : Instr → Nat
  | .packetRoute p _ => rankPort p
  | .registerWrite .. | .hostBar2Write .. | .hostBar2Read .. | .launchRecordCommit .. | .lpstatRead .. | .lpcqhWrite .. | .lpcqbWrite ..
  | .hbmplaceWrite .. | .descriptorWindowWrite .. | .msixUnmask .. | .functionLevelReset .. => rankHost
  | _ => 0

/-- What the outside world does is due in this cycle. -/
def arriveInput (e : Event) : State := s.schedEv 0 (inputRank e.op) e

/-! ## The end of a cycle -/

/-- Whether the obstacle that a parked thread waits at is gone. -/
def clear (t : Thread) : WaitFor → Bool
  | .switch => false
  | .event _ => false
  | .until c _ => c ≤ s.now
  | .fill c _ => c ≤ s.now && t.out.isEmpty
  | .plain => !s.plainOut t
  | .block b => !s.blockOut t b
  | .accepted => t.out.isEmpty
  | .stores => !t.out.any (·.store)
  | .board ext wr eng n =>
    !s.boardHolds t.unit ext wr && (!eng || (s.unit t.unit).board.length + n ≤ 64)
  | .mark ext but => !s.markHolds t.unit ext but
  | .hold va => !s.held (clusterOf t.unit) (s.launchOf t).port va
  | .stack h => s.pkg.hbm.getLsbD h
  | .walk va _ =>
    let root := (s.launchOf t).port
    let w := (clusterOf t.unit, root, va / 4096 * 4096)
    s.trans.deliver.contains w || !(s.trans.walks.contains w || s.trans.faults.contains w)
  | .queue e => (s.unit t.unit).queued e < queueSize e
  | .copies => (s.unit t.unit).copies < 1024
  | .sem i v => v ≤ (vget t.sems i).toNat
  | .barrier _ => t.barrierGot
  | .recv .. => false
  | .det => !t.appendWait
  | .segment va _ =>
    let (lvl, num) := segOf va
    match s.seg? t.ltag t.unit lvl num with
    | some g => s.segIdle t.unit lvl g
    | none => true
  | .implicit peer => (t.unflushed peer).isEmpty
  | .flush peer =>
    if peer = 4096 then t.posted.isEmpty && t.winAck.isEmpty && t.out.isEmpty
    else !t.winAck.any fun w => w.2 + 4097 == peer

/-- Takes `v` from a semaphore, completes the one-word instruction that waited for it, and ends its run (R302, R308). -/
def takeSem (t : Thread) (i : BitVec 3) (v : Nat) : State :=
  let t := { t with sems := vset t.sems i (vget t.sems i - BitVec.ofNat 16 v), barrierGot := false,
                    twin := t.twin.map (Twin.lower (twinKey (.sem i) t.vaultKey) v) }
  s.done t 1 true []

/-- A hold that kept an access of a running copy is gone (R129). -/
def chanClear (u : Nat) (c : Chan) (va : Nat) : Bool := !s.held (clusterOf u) (((s.launch? c.ltag).map (·.port)).getD 0) va

/-- An access that a residency hold kept, and that parked before the one with the number `seq`, is still to go on: its hold is gone and it is not
released, or it has been released and has not issued again (R129). -/
def holdBefore (seq : Nat) : Bool :=
  s.threads.any (fun x =>
    (match x.st with
      | .parked (.hold va) => x.parkSeq < seq && s.clear x (.hold va)
      | _ => false) ||
    (s.mayIssue x && match x.released with | some (.hold _) => true | _ => false)) ||
  s.units.any fun u => u.2.chans.any fun c => match c.2.held with
    | some h => h.1 < seq && s.chanClear u.1 c.2 h.2
    | none => false

/-- An access that the unit's scoreboard or a watermark held has been released, and has not issued again (R153). -/
def boardBefore (u : Nat) : Bool :=
  s.threads.any fun x => x.unit == u && s.mayIssue x && match x.released with
    | some (.board ..) | some (.mark ..) => true
    | _ => false

/-- Its obstacle gone, the thread is READY from the next round; what was held is released in the order in which it parked, one when that before
has issued (R129, R153). -/
def releaseHeld (t : Thread) (w : WaitFor) : State :=
  s.setThread { t with st := .ready, eligRound := max t.eligRound (s.round + 1), released := some w }

/-- A parked thread at the end of a cycle: an asynchronous fault wakes a thread that has consumed nothing (R386); a WAIT or BARWAIT takes
its posts; RECV takes a message; any other thread whose obstacle is gone is READY from the next round, or takes the trap whose spill was held. -/
def wakeOne (t : Thread) : State :=
  let ready := s.setThread { t with st := .ready, eligRound := max t.eligRound (s.round + 1) }
  match t.st with
  | .parked w =>
    match w with
    | .sem i v => if !t.async.isEmpty then ready else if s.clear t w then s.takeSem t i v else s
    | .barrier i => if !t.async.isEmpty then ready else if s.clear t w then s.takeSem t i 1 else s
    | .recv p _ _ _ =>
      if !t.async.isEmpty then ready
      else match s.crew? t.ltag t.unit with
        | some c => if (s.takeable c p).isSome then s.sched 0 (rankJu t.unit) (.recvTake t.ref) else s
        | none => s
    | .until _ sm | .fill _ sm => if s.clear t w then (if sm then s.switchPoint t else ready) else s
    | .board .. | .mark .. =>
      if s.clear t w && !s.boardBefore t.unit then (match t.after with | .go => s.releaseHeld t w | _ => s.settle t) else s
    | .hold va => if s.clear t (.hold va) && !s.holdBefore t.parkSeq then s.releaseHeld t (.hold va) else s
    | .segment va _ => if s.clear t w then s.sched 0 rankLate (.segmentFree t.ref (wd va)) else s
    | w => if s.clear t w then (match t.after with | .go => ready | _ => s.settle t) else s
  | _ => s

/-- Parked threads in the order in which they parked (R153, R312). -/
def insertPark (t : Thread) : List Thread → List Thread
  | [] => [t]
  | x :: r => if t.parkSeq < x.parkSeq then t :: x :: r else x :: insertPark t r

def parkedThreads : List Thread :=
  (s.threads.filter fun t => match t.st with | .parked _ => true | _ => false).foldl (fun l t => insertPark t l) []

/-- A copy whose access a residency hold kept goes on, in the order in which accesses parked (R129). -/
def wakeCopies : State :=
  s.units.foldl (fun s u => u.2.chans.foldl (fun s c => match c.2.held with
    | some h => if s.chanClear u.1 c.2 h.2 && !s.holdBefore h.1 then
        (s.onUnit u.1 fun x => { x with chans := mset x.chans c.1 { c.2 with held := none } }).sched 1 (rankCx u.1) (.cxBlockWrite u.1 c.1) else s
    | none => s) s) s

/-- Wakes what can be woken. -/
def wakeAll : State := (s.parkedThreads.foldl (fun s t => match s.ref? t.ref with | some t => s.wakeOne t | none => s) s).wakeCopies

/-- The wait count rises in every cycle in which a thread is READY (R197). Whether it does between the event that wakes or creates a thread and the
round from which R196 has it eligible the manual does not say: DESIGN CHOICE, it does, from the cycle of the event (log entry 80). -/
def ageAll : State :=
  { s with threads := s.threads.map fun t => match t.st with | .ready => { t with wait := t.wait + 1 } | _ => t }

/-- What happens in a cycle of itself: the pattern evaluation of every even cycle (R187), the dispatcher's sweep and the refresh of the
photodiodes every 1,024 cycles (R52, R219). -/
def periodic : State :=
  let s := if s.now % 2 = 0 && s.disp.crews.any (fun c => c.pats.any fun e => e.2.v) then s.sched 0 0 .patternEvaluation else s
  if s.now % 1024 = 0 then
    let s := if s.disp.launches.isEmpty then s else s.sched 0 rankDisp .endSweep
    (s.sched 0 rankLate .pdRefresh).sched 0 rankLate .tempRefresh
  else s

/-- The heads of the launch ports that may be served are looked at once a cycle, in round-robin order (R31), and the completion entries that wait
for memory alone. -/
def serveHeads : State :=
  ((List.range 8).map fun i => (s.disp.rr + i) % 8).foldl (fun s p =>
    let q := nget s.disp.ports p LPort.reset
    let held := !q.held.isEmpty && q.cqb.getLsbD 0 && (q.cqt + 1) % q.cqn != q.cqh % q.cqn
    if held || !q.queue.isEmpty && !q.backing && q.held.isEmpty && s.pkg.disp then s.sched 0 rankDisp (.launchHeadCheck p) else s) s

/-- A debug halt that has not yet found its thread at a boundary is tried again (R75). -/
def retryHalts : State :=
  (s.threads.filter (·.haltReq)).foldl (fun s t => s.sched 0 rankLate (.debugHalt t.ref)) s

/-- The end of the cycle: parked threads wake, wait counts rise, and the next cycle begins. -/
def tick : State :=
  let s := { s.settlePtr with scan := 0, issued := 0, busy := [], streak := s.streak.filter fun e => s.busy.contains e.1,
                              engWaits := s.engWaits.filter fun w => w.2 == s.now }.wakeAll.ageAll
  ({ s with now := s.now + 1 }.retryHalts.periodic).serveHeads

end State

end Sys2Proof.Machine
end

