-- ==== Sys2Proof/Machine/Control.lean ====
section
/-! DEFINITION. Compare and skip (R271), branches, calls and loops (R272 to R274), ILL (R252), annulment (R253). -/

namespace Sys2Proof.Machine

/-- The end of a compare: SKIPC takes K when the condition holds (R253, R271). -/
def State.skipIf (s : State) (t : Thread) (words : Nat) (sm holds : Bool) (k : BitVec 2) : State :=
  s.done (if holds then { t with skipc := k } else t) words sm []

/-- CMP (R271). -/
def execCmp (sm : Bool) (cond : BitVec 3) (k : BitVec 2) (a : Operand) (b : CmpSrc) (s : State) :
    Host.Outcome State Fault Refusal :=
  onCur s fun t => s.skipIf t 1 sm (cmpHolds cond (t.rd a) (cmpVal t b)) k

/-- CMP with a literal (R271). -/
def execCmpLit (sm : Bool) (cond : BitVec 3) (k : BitVec 2) (a : Operand) (lit : Word) (s : State) :
    Host.Outcome State Fault Refusal :=
  onCur s fun t => s.skipIf t 3 sm (cmpHolds cond (t.rd a) lit) k

/-- FCMP (R271). -/
def execFcmp (sm dbl : Bool) (cond : BitVec 3) (k : BitVec 2) (a b : Operand) (s : State) :
    Host.Outcome State Fault Refusal :=
  onCur s fun t => s.skipIf t 1 sm (fcmpHolds cond (scalarVal dbl (t.rd a)) (scalarVal dbl (t.rd b))) k

/-- BR (R272). -/
def execBr (sm : Bool) (off : BitVec 22) (s : State) : Host.Outcome State Fault Refusal :=
  onCur s fun t => s.doneAt t (relTarget t.pc off) sm []

/-- JMP (R272). -/
def execJmp (sm : Bool) (a : Operand) (s : State) : Host.Outcome State Fault Refusal :=
  onCur s fun t => s.doneAt t (t.rd a) sm []

/-- CALL and CALLR (R273): the switch point, then the window of R60, the link in l7 and lat, and PC at the target. A spill parks the thread
until its banks have accepted it (R62). -/
def State.callTo (s : State) (t : Thread) (target : Word) (sm : Bool) : State :=
  if t.pending then s.switchPoint t
  else
    let ret := t.pc + 4
    match pushFrame s t true with
    | .trap sub => s.fault t (infoOf 8 sub t.spillp.toNat 0) 0
    | .ok s1 u =>
      match if t.res = 12 then s.frameStall t t.spillp.toNat true else none with
      | some w => s.park t w
      | none =>
        let s1 := s1.doneAt (u.alu (.main 23) ret) target sm [ret]
        if t.res = 12 && !sm then s1.thenPark t.ref .accepted else s1

/-- CALL (R273). -/
def execCall (sm : Bool) (off : BitVec 22) (s : State) : Host.Outcome State Fault Refusal :=
  onCur s fun t => s.callTo t (relTarget t.pc off) sm

/-- CALLR (R273). -/
def execCallr (sm : Bool) (a : Operand) (s : State) : Host.Outcome State Fault Refusal :=
  onCur s fun t => s.callTo t (t.rd a) sm

/-- RET (R273): the switch point, then PC at l7 and the window of R61; a fill parks the thread until its data has returned, 12 cycles later
at the earliest (R62); a RET below the region's depth ends the region (R375). -/
def execRet (sm : Bool) (s : State) : Host.Outcome State Fault Refusal :=
  onCur s fun t =>
    let target := t.rd (.main 23)
    let ends := t.inrgn && t.depth ≤ t.rgnwd.toNat
    if t.pending then s.switchPoint t
    else if ends && t.twin.isSome && !t.exchanged then s.exchange t
    else match popFrame s t with
    | .trap sub => s.fault t (infoOf 8 sub t.spillp.toNat 0) 0
    | .ok s1 u =>
      match if t.res = 1 then s.frameStall t (t.spillp.toNat - 128) false else none with
      | some w => s.park t w
      | none =>
        let u := if ends then State.endRegion u else u
        if 1 < t.res then s1.doneAt u target sm []
        else (s1.doneAt u target false []).thenPark t.ref (.fill (s.now + 12) sm)

/-- LOOP (R274). -/
def execLoop (sm : Bool) (off : BitVec 15) (d : Operand) (s : State) : Host.Outcome State Fault Refusal :=
  onCur s fun t =>
    let v := t.rd d - 1
    s.doneAt (t.alu d v) (if v = 0 then t.pc + 4 else relTarget t.pc off) sm [v]

/-- ILL raises the illegal-instruction trap (R252, R382). -/
def execIll (sm : Bool) (len : BitVec 2) (u : BitVec 22) (s : State) : Host.Outcome State Fault Refusal :=
  onCur s fun t => s.illegal t 4 0

/-- Annulment (R253): the first word alone is fetched; SKIPC falls by one, PC passes the instruction, and its marker is honoured. A fetch
fault is taken with SKIPC as it stands (R254). -/
def State.annul (s : State) (t : Thread) (w : W32) : State :=
  let t := { t with skipc := t.skipc - 1, pc := t.pc + wd (4 * lenWords w), fetched := [] }
  if markOf w then s.switchPoint t else s.setThread t

/-- ANNULMENT: the issuing thread's next instruction is annulled (R253, R254, R384). -/
def execAnnulment (s : State) : Host.Outcome State Fault Refusal :=
  onCur s fun t =>
    match s.fetch t with
    | .words (w :: _) => s.annul t w
    | f => s.fetchFails t f

/-- ASYNC_TRAP: the semaphore overflows that await this issue are taken as one trap, of the lowest semaphore (R386). -/
def execAsyncTrap (s : State) : Host.Outcome State Fault Refusal :=
  onCur s fun t =>
    match t.async with
    | [] => s
    | x :: r =>
      let m := r.foldl (fun m e => if e.1.toNat < m.1.toNat then e else m) x
      s.raise { t with async := [] } ⟨infoOf 9 m.1.toNat m.2 0, 0, t.pc⟩

end Sys2Proof.Machine
end

