-- ==== Sys2Proof/Machine/Threads.lean ====
section
/-! DEFINITION. Threads, semaphores, barriers, ports and patterns as instructions reach them (R292 to R314). -/

namespace Sys2Proof.Machine

namespace State
variable (s : State)

/-- A value or field out of range (R292, R382). -/
def outOfRange (t : Thread) (word : Nat) : State := s.illegal t 3 word

/-! ## SPAWN and SPAWNR -/

/-- The parked wait of R295: every local access of the thread accepted. -/
def released (t : Thread) (k : State) : State := if !t.out.isEmpty then s.park t .accepted else k

/-- The poison of the argument registers of a new thread (R395). -/
def argPsn (args : List Val) : Map Poison := args.zipIdx.filterMap fun (v, i) => v.psn.map fun p => (8 + i, p)

/-- SPAWN (R296, R297): the thread's own crew and the mill decide. -/
def spawn (t : Thread) (words : Nat) (sm : Bool) (argc prio : BitVec 3) (pexp : Bool) (tidreq : BitVec 8) (tiden : Bool)
    (d : Operand) (pc : Word) (b : Operand) : State :=
  if pc.toNat % 4 != 0 then s.fault t (infoVa 3 pc false 0) pc
  else s.released t <|
    let t := endRegion t
    let refused := (s.aluDone t words sm d (BitVec.allOnes 64))
    if s.noRoom t.ltag t.unit t.svc || (tiden && (s.byTid t.ltag t.unit tidreq.toNat).isSome) then refused
    else match s.launch? t.ltag, s.crew? t.ltag t.unit with
    | some l, some c =>
      let tid := if tiden then tidreq.toNat else s.freeTid t.ltag t.unit
      let args := (Thread.run b argc.toNat).map t.val
      (s.create l c tid pc (if pexp then prio else t.base) (args.map (·.v)) fun n => { n with trigd := t.trigd, psn := argPsn args }).aluDone
        t words sm d (wd tid)
    | _, _ => refused

/-- SPAWNR (R298): the JU of the target unit decides (R195). -/
def spawnr (t : Thread) (words : Nat) (sm : Bool) (argc prio dsem : BitVec 3) (a : Operand) (pc : Word) (b : Operand) : State :=
  let h := t.rd a
  if bits h 60 4 != 0 || handleBad h || bits h 0 6 != 0 then s.fault t (infoVa 3 h false 0) h
  else s.released t <|
    let args := (Thread.run b argc.toNat).map t.rd
    let req : SpawnReq := { ltag := handleLtag t h, unit := bits h 7 7, pc := pc, args := args, prio := prio.toNat,
                            senderDev := s.devid, senderLtag := t.ltag, senderUnit := t.unit, reply := some ⟨t.ref, dsem, 5⟩,
                            replyPkt := none }
    let pkt := { s.pktOf t 0x08 0 (s.handleDev h) with
      aux := bits h 7 7 * 2 ^ 9 + prio.toNat * 2 ^ 6 + argc.toNat * 2 ^ 3,
      payload := wd (handleLtag t h * 2 ^ 48) :: pc :: args }
    (s.dispatchMsg t h 5 dsem (.spawnrAccept req) pkt).done (endRegion t) words sm []

end State

/-- SPAWN (R296). -/
def execSpawn (sm : Bool) (argc prio : BitVec 3) (pexp : Bool) (tidreq : BitVec 8) (tiden : Bool) (d a b : Operand) (s : State) :
    Host.Outcome State Fault Refusal :=
  onCur s fun t => s.spawn t 3 sm argc prio pexp tidreq tiden d (t.rd a) b

/-- SPAWN with a PC literal (R294, R296). -/
def execSpawnLit (sm : Bool) (argc prio : BitVec 3) (pexp : Bool) (tidreq : BitVec 8) (tiden : Bool) (pc : Word) (d b : Operand)
    (s : State) : Host.Outcome State Fault Refusal :=
  onCur s fun t => s.spawn t 5 sm argc prio pexp tidreq tiden d pc b

/-- SPAWNR (R298). -/
def execSpawnr (sm : Bool) (argc prio dsem : BitVec 3) (a b c : Operand) (s : State) : Host.Outcome State Fault Refusal :=
  onCur s fun t => s.spawnr t 3 sm argc prio dsem a (t.rd c) b

/-- SPAWNR with a PC literal (R294, R298). -/
def execSpawnrLit (sm : Bool) (argc prio dsem : BitVec 3) (pc : Word) (a b : Operand) (s : State) : Host.Outcome State Fault Refusal :=
  onCur s fun t => s.spawnr t 5 sm argc prio dsem a pc b

/-- EXIT (R299): the switch point, after which the thread ends. -/
def execExit (sm : Bool) (s : State) : Host.Outcome State Fault Refusal :=
  onCur s fun t => s.released t (s.switchPoint { State.endRegion t with after := .exit })

/-- YIELD (R300). -/
def execYield (sm : Bool) (s : State) : Host.Outcome State Fault Refusal :=
  onCur s fun t => s.done { t with yielded := true } 1 true []

/-- SETPRI (R301). -/
def execSetpri (sm : Bool) (i : BitVec 8) (a : Operand) (s : State) : Host.Outcome State Fault Refusal :=
  onCur s fun t =>
    let v := syVal t i a
    if 7 < v.toNat then s.outOfRange t 0 else s.done { t with base := v.setWidth 3 } 1 sm []

/-! ## Semaphores -/

/-- WAIT (R302). -/
def execWait (sm : Bool) (sem : BitVec 3) (i : BitVec 8) (a : Operand) (s : State) : Host.Outcome State Fault Refusal :=
  onCur s fun t =>
    let v := (syVal t i a).toNat
    if 65535 < v then s.outOfRange t 0
    else if v ≤ (vget t.sems sem).toNat then s.takeSem t sem v
    else s.park t (.sem sem v)

/-- POST (R303): the post arrives 2 cycles later, and the thread issues no earlier than the cycle after: those of one cycle are judged together with
a SEMSET in it (R304; log entry 83). -/
def execPost (sm : Bool) (dsem : BitVec 3) (cnt : BitVec 16) (a : Operand) (s : State) : Host.Outcome State Fault Refusal :=
  onCur s fun t =>
    let v := (t.rd a).toNat
    if 255 < v || cnt = 0 then s.outOfRange t (if cnt = 0 then 2 else 0)
    else s.released t <|
      let s := match s.byTid t.ltag t.unit v with
        | some x => s.postLater 2 ⟨x.ref, dsem, 16 + 256 * t.unit + t.slot⟩ cnt.toNat 0
        | none => s
      s.done { State.endRegion t with holdTo := s.now + 3 } 3 sm []

namespace State

/-- The semaphore overflow fault of a POST, in the thread that issued it, three words before the PC to which that has moved (R303, R386). -/
def postFault (s : State) (src : Nat) (sem : BitVec 3) : State :=
  match s.thread? ((src - 16) / 256) ((src - 16) % 256) with
  | some x => s.fault { x with pc := x.pc - 12 } (infoOf 9 sem.toNat 0 0) 0
  | none => s

/-- The source of a post is a POST of a thread. -/
def isPost (src : Nat) : Bool := 16 ≤ src && src < 2 ^ 20

/-- The place of a post's sender in the requester order, for a thread of the unit (R109): mills, then engines and JU of its own unit. -/
def postRank (u src : Nat) : Nat :=
  if src = 1 then rankEng u .vx else if isPost src then rankMill ((src - 16) / 256) else rankJu u

/-- Posts in the order of their senders, those of one sender as they came. -/
def insertPost (u : Nat) (x : Nat × BitVec 3 × Nat × Nat × Bool) : List (Nat × BitVec 3 × Nat × Nat × Bool) → List (Nat × BitVec 3 × Nat × Nat × Bool)
  | [] => [x]
  | y :: r => if postRank u x.2.2.2.1 < postRank u y.2.2.2.1 then x :: y :: r else y :: insertPost u x r

/-- The overflow of a post falls away: that of a POST, which its issuer was to take, or an asynchronous one. -/
def forgive (s : State) (t : Thread) (sem : BitVec 3) (src : Nat) : State × Thread :=
  if isPost src then
    ({ s with agenda := s.agenda.filter fun e => match e.ev.op with
        | .semPost p 0 _ => !(p.t == t.ref && p.sem == sem && p.src == src)
        | _ => true }, t)
  else (s, { t with async := t.async.erase (sem, infoSrc src) })

/-- Adds the posts of a SEMSET's own cycle after it, one at a time: an overflow of the old count is judged anew (R304). -/
def addPosts (sem : BitVec 3) : State → Thread → List (Nat × BitVec 3 × Nat × Nat × Bool) → State × Thread
  | s, t, [] => (s, t)
  | s, t, (at_, i, n, src, lost) :: r =>
    let old := (vget t.sems sem).toNat
    if at_ != s.now || i != sem then addPosts sem s t r
    else if old + n < 65536 then
      let t := { t with sems := vset t.sems sem (BitVec.ofNat 16 (old + n)) }
      if lost then let q := s.forgive t sem src; addPosts sem q.1 q.2 r else addPosts sem s t r
    else if lost then addPosts sem s t r
    else if isPost src then addPosts sem (s.sched 1 0 (.semPost ⟨t.ref, sem, src⟩ 0 0)) t r
    else addPosts sem s { t with async := (sem, infoSrc src) :: t.async } r

end State

/-- SEMSET (R304). -/
def execSemset (sm : Bool) (sem : BitVec 3) (i : BitVec 8) (a : Operand) (s : State) : Host.Outcome State Fault Refusal :=
  onCur s fun t =>
    let v := syVal t i a
    if 65535 < v.toNat then s.outOfRange t 0
    else
      let r := State.addPosts sem s { t.mend (.sem sem) with sems := vset t.sems sem (v.setWidth 16) }
        (t.recent.reverse.foldl (fun l x => State.insertPost t.unit x l) [])
      r.1.done r.2 1 sm []

/-- TRIG (R47, R306). -/
def execTrig (sm : Bool) (s : State) : Host.Outcome State Fault Refusal :=
  onCur s fun t => s.released t ((s.setThread { t with trigd := true }).trigCheck t.ltag |>.done { t with trigd := true } 1 sm [])

/-! ## Barriers -/

/-- An address that BARINIT, BARARR and BARWAIT take: in a segment of region 0x1, 0x2 or 0x3, aligned to 16 bytes (R307). -/
def State.barrierAddr (s : State) (t : Thread) (va : Word) : Option Nat :=
  if va.toNat % 16 = 0 then (s.vaExtent t.ltag t.unit va.toNat 16).map fun x => (x.headD (0, 0)).1 else none

/-- BARINIT (R307). -/
def execBarinit (sm : Bool) (d a b : Operand) (s : State) : Host.Outcome State Fault Refusal :=
  onCur s fun t =>
    let va := t.rd a
    let need := (t.rd b).toNat
    if (s.barrierAddr t va).isNone then s.fault t (infoVa 3 va false 0) va
    else if need = 0 || 65535 < need then s.outOfRange t 0
    else s.withEntry t fun id =>
      (s.sched (State.levelLatency (va.toNat / 2 ^ 60)) rankLate (.barrierRegister t.ref id va need)).done (t.take [d] none false) 3 sm []

/-- BARARR (R308). -/
def execBararr (sm : Bool) (sem : BitVec 3) (a : Operand) (s : State) : Host.Outcome State Fault Refusal :=
  onCur s fun t =>
    let va := t.rd a
    match s.barrierAddr t va with
    | none => s.fault t (infoVa 3 va false 0) va
    | some pa => s.released t
      ((s.sched (State.levelLatency (va.toNat / 2 ^ 60)) rankLate (.barrierArrival t.ref sem va pa none)).done (State.endRegion t) 1 sm [])

/-- BARWAIT (R308): it parks until the post of its own arrival, which bears a number, and takes 1. -/
def execBarwait (sm : Bool) (sem : BitVec 3) (a : Operand) (s : State) : Host.Outcome State Fault Refusal :=
  onCur s fun t =>
    let va := t.rd a
    match s.barrierAddr t va with
    | none => s.fault t (infoVa 3 va false 0) va
    | some pa => s.released t
      ((s.sched (State.levelLatency (va.toNat / 2 ^ 60)) rankLate (.barrierArrival t.ref sem va pa (some s.nextId))).fresh.park
        { State.endRegion t with barId := s.nextId, barrierGot := false } (.barrier sem))

/-! ## Ports and patterns -/

namespace State
variable (s : State)

/-- A thread of the crew is parked in RECV on the port (R186, R309). -/
def receiving (t : Thread) (n : Nat) : Bool :=
  (s.crewThreads t.ltag t.unit).any fun x => match x.st with | .parked (.recv p _ _ _) => p == n | _ => false

/-- The crew of a thread; it always has one. -/
def crewOf (t : Thread) : Crew :=
  (s.crew? t.ltag t.unit).getD
    { ltag := t.ltag, gang := t.gang, idx := t.crew, unit := t.unit, ports := [], pats := [], busy := [], s1 := [], closed := false,
      started := true, sent := 0, recvd := 0 }

/-- PORTCFG refuses these images (R180, R309). -/
def portRefused (t : Thread) (n : Nat) (d0 d1 : Word) : Bool :=
  let depth := bits d0 48 11
  bits d0 59 3 != 0 || bits d0 21 27 != 0 || bits d0 0 6 != 0 || (if t.det then bits d1 0 32 != 0 else d1 != 0) ||
  (s.crewOf t).member n || s.receiving t n ||
  (d0.getLsbD 63 &&
    (depth < 4 || 1024 < depth || s.s1Bytes t.ltag < bits d0 6 15 * 64 + 72 * depth ||
      (t.det && depth < (bits d1 36 8 + 1) * (bits d1 32 4 + 1))))

/-- PATSET refuses these images (R185, R186, R310). -/
def patRefused (t : Thread) (d0 hpc d2 : Word) : Bool :=
  let np := bits d0 56 2 + 1
  let ports := patPorts d0
  !d0.getLsbD 63 || bits d0 30 26 != 0 || bits d0 22 2 != 0 || bits d0 14 2 != 0 || bits d0 6 2 != 0 || bits d0 0 30 / 2 ^ (8 * np) != 0 ||
  !ports.Nodup || ports.any (fun n => !((s.crewOf t).port n).en || s.receiving t n) ||
  (if d0.getLsbD 62 then
    hpc != 0 || bits d2 32 32 != 0 || d2.getLsbD 23 || bits d2 13 3 != 0 ||
      s.s1Bytes t.ltag < bits d2 0 13 * 256 + 256 * (bits d2 16 4 + 1)
  else d2 != 0 || hpc.toNat % 4 != 0 || s.s1Bytes t.ltag < 4 * 4096)

/-- PATSET (R310). -/
def patset (t : Thread) (words : Nat) (sm : Bool) (idx : Nat) (d0 hpc d2 : Word) : State :=
  if s.patRefused t d0 hpc d2 then s.outOfRange t 0
  else
    let p : Pat := { d0 := d0, hpc := hpc, d2 := d2, fires := 0, pend := 0, ring := 0, epoch := s.nextId }
    (s.onCrew t.ltag t.unit fun c => { c with pats := mset c.pats idx p }).fresh.done
      t words sm []

end State

/-- PATSET (R310). -/
def execPatset (sm : Bool) (idx : BitVec 5) (a b c : Operand) (s : State) : Host.Outcome State Fault Refusal :=
  onCur s fun t => s.patset t 3 sm idx.toNat (t.rd a) (t.rd b) (t.rd c)

/-- PATSET with an HPC literal (R294, R310). -/
def execPatsetLit (sm : Bool) (idx : BitVec 5) (hpc : Word) (a c : Operand) (s : State) : Host.Outcome State Fault Refusal :=
  onCur s fun t => s.patset t 5 sm idx.toNat (t.rd a) hpc (t.rd c)

/-- PATCLR (R311). -/
def execPatclr (sm : Bool) (i : BitVec 8) (a : Operand) (s : State) : Host.Outcome State Fault Refusal :=
  onCur s fun t =>
    let v := (syVal t i a).toNat
    if 31 < v then s.outOfRange t 0
    else
      (s.onCrew t.ltag t.unit fun c => { c with pats := c.pats.map fun e =>
        if e.1 == v then (e.1, { e.2 with d0 := e.2.d0 &&& ~~~(wd (2 ^ 63)) }) else e }).done t 1 sm []

/-- PORTCFG (R180, R309). -/
def execPortcfg (sm : Bool) (idx : BitVec 6) (a b : Operand) (s : State) : Host.Outcome State Fault Refusal :=
  onCur s fun t =>
    let d0 := t.rd a
    let d1 := t.rd b
    if s.portRefused t idx.toNat d0 d1 then s.outOfRange t 0
    else
      let p : Port := if d0.getLsbD 63 then
          { Port.empty with en := true, pol := d0.getLsbD 62, depth := bits d0 48 11, base := bits d0 6 15 * 64, slo := bits d1 44 20,
                            ns := bits d1 36 8, q := bits d1 32 4 }
        else Port.empty
      (s.onCrew t.ltag t.unit fun c => c.setPort idx.toNat p).done t 3 sm []

/-- PORTSTAT (R314). -/
def execPortstat (sm w : Bool) (port : BitVec 6) (d : Operand) (s : State) : Host.Outcome State Fault Refusal :=
  onCur s fun t =>
    let c := s.crewOf t
    let p := c.port port.toNat
    s.longDone t 1 sm d ⟨if w then p.word1 else p.word0 c.closed, p.psn⟩ 8

namespace State

/-- The JU takes a message for a RECV of a thread: the return buffer has it 8 cycles later, and a switch point follows (R312). -/
def recv (s : State) (t : Thread) (c : Crew) (port slot count : Nat) (hdr : Bool) (d : Operand) : State :=
  match s.takeMsg c port slot with
  | .lost s => s
  | .msg s h dws =>
    let vals := (if hdr then ⟨h, none⟩ :: dws else dws).take count
    (s.sched 8 rankLate (.resultReturn t.ref t.nextId vals)).done (t.take (Thread.run d count) none false) 3 true []

end State

/-- RECV (R312, R402): the JU reads the state words of the port, and takes a message once the accesses that reached its banks before have been
accepted (R109). -/
def execRecv (sm : Bool) (cnt : BitVec 3) (port : BitVec 6) (hdr : Bool) (d : Operand) (s : State) : Host.Outcome State Fault Refusal :=
  onCur s fun t =>
    let c := s.crewOf t
    if !(c.port port.toNat).en || c.member port.toNat then s.outOfRange t 0
    else if t.rb.length = 8 then s.switchPoint t
    else if (c.port port.toNat).psn.isSome then s.portData c port.toNat (c.port port.toNat).head
    else match (s.takeable c port.toNat).filter fun slot => !s.waitsOn (s.msgExt c port.toNat slot) with
    | some slot => s.recv t c port.toNat slot (cnt.toNat + 1) hdr d
    | none => s.park t (.recv port.toNat (cnt.toNat + 1) hdr d)

/-- RECV_TAKE (R312): the JU takes a message for a thread parked in RECV. -/
def execRecvTake (t : ThreadRef) (s : State) : Host.Outcome State Fault Refusal :=
  event <| match s.ref? t with
  | some t => (match t.st, s.crew? t.ltag t.unit with
    | .parked (.recv p count hdr d), some c =>
      (match (s.takeable c p).filter fun slot => !s.waitsOn (s.msgExt c p slot) with
      | some slot => s.recv { t with st := .ready, eligRound := max t.eligRound (s.round + 1) } c p slot count hdr d
      | none => s)
    | _, _ => s)
  | none => s

end Sys2Proof.Machine
end

