-- ==== Sys2Proof/Machine/System.lean ====
section
/-! DEFINITION. Traps, service calls, special registers, regions, pairing, mirrors, clock, identity, capabilities and halt (R315 to R325). -/

namespace Sys2Proof.Machine

/-- TRAP (R315): it completes, so TRAPPC takes the address of the next instruction. -/
def execTrap (sm : Bool) (code : BitVec 8) (s : State) : Host.Outcome State Fault Refusal :=
  onCur s fun t => s.raise (t.retire t.pc [] 0) ⟨infoOf 0xA 0 code.toNat 0, 0, t.pc + 4⟩

namespace State
variable (s : State)

/-- The user entry of SYSC LOG (R317, R372). -/
def userEntry (t : Thread) : State :=
  s.logWords fun seq =>
    (recordWords seq s.now { State.recOf t 0 0 0x300 with agent := 11 }).take 4 ++ [vget t.a 0, vget t.a 1, vget t.a 2, vget t.a 3]

/-- Cycles that the model's firmware takes to answer a service call: 2 µs. -/
def syscDelay : Nat := us 2

/-- What the firmware does with a service call, and the answer that follows by itself (R317); a PAGEIN of an address that no walk
finds awaits the firmware's answer from outside. -/
def serve (t : Thread) (code : Nat) : State :=
  let answer (s : State) (v : Word) : State := s.sched syscDelay rankLate (.syscAnswer t.ref v)
  match code with
  | 0 => answer s (s.mailboxReg 0)
  | 1 => answer (s.userEntry t) 0
  | 2 => match s.walk (s.launchOf t).port (vget t.a 0).toNat with
    | some _ => answer s 0
    | none => s
  | _ => answer s (BitVec.allOnes 64)

end State

/-- SYSC (R317): the thread parks at the switch point until the firmware's answer, which commits to a0; ABORT ends the launch. -/
def execSysc (sm : Bool) (code : BitVec 8) (s : State) : Host.Outcome State Fault Refusal :=
  onCur s fun t =>
    if code = 3 then s.endLaunch t.ltag 2 (bits (vget t.a 0) 0 8)
    else (s.serve t code.toNat).done ((State.endRegion t).take [.main 8] none false) 1 true []

/-- SYSC_ANSWER (R317). -/
def execSyscAnswer (t : ThreadRef) (v : Word) (s : State) : Host.Outcome State Fault Refusal :=
  event <| match s.ref? t with
  | some x => (match x.rb.reverse.find? fun e => e.dests == [Operand.main 8] && e.vals.isNone with
    | some e => s.giveResult t e.id [⟨v, none⟩]
    | none => s)
  | none => s

/-- ERET (R64, R316). -/
def execEret (sm : Bool) (s : State) : Host.Outcome State Fault Refusal :=
  onCur s fun t =>
    if t.pending then s.switchPoint t
    else match if t.res = 1 && t.depth != 0 && 128 ≤ t.spillp.toNat && t.spillp.toNat ≤ s.s1Bytes t.ltag then
        s.frameStall t (t.spillp.toNat - 128) false else none with
    | some w => s.park t w
    | none => s.trapReturn (t.retire t.pc [] 0)

/-! ## Special registers (R69 to R73) -/

inductive SpecialAcc where
  | illegal | privilege | ro | rw
  deriving DecidableEq, Repr

/-- Whether a special register exists, and who may name and write it (R69). -/
def specialAcc (svc : Bool) (n : Nat) : SpecialAcc :=
  if n = 0x40 || n = 0x41 then (if svc then .rw else .privilege)
  else if [4, 6, 7, 8, 9, 0xA, 0xB, 0xC, 0xD, 0xE].contains n then .rw
  else if n ≤ 0x13 || (0x18 ≤ n && n ≤ 0x1F) then .ro
  else .illegal

/-- The value of a special register (R69 to R73, R381). -/
def State.special (s : State) (t : Thread) (n : Nat) : Word :=
  match n with
  | 0x00 => wd t.tid
  | 0x01 => wd t.crew
  | 0x02 => wd t.gang
  | 0x03 => wd t.ltag
  | 0x04 => wd (t.base.toNat + t.eff.toNat * 256)
  | 0x05 => t.wdepth
  | 0x06 => t.spillp
  | 0x07 => t.spilllim
  | 0x08 => t.skipc.setWidth 64
  | 0x09 => t.tstat
  | 0x0A => t.trapvec
  | 0x0B => t.trappc
  | 0x0C => t.trapinfo
  | 0x0D => t.traplat
  | 0x0E => wd (t.trapSkip.toNat + b01 t.trapWin * 4)
  | 0x0F => t.rgnpc
  | 0x10 => t.rgnwd.setWidth 64
  | 0x11 => t.seed
  | 0x12 => 0x27000100
  | 0x13 => 0x7FF
  | 0x40 => wd (s.unit t.unit).ageStep
  | 0x41 => wd (s.unit t.unit).slotMax
  | _ => if 0x18 ≤ n && n ≤ 0x1F then (vget t.sems (BitVec.ofNat 3 n)).setWidth 64 else 0

/-- TSTAT takes ENG, and SEMERR loses the bits written as 1, but for those set in this cycle (R8, R9, R71). -/
def Thread.setTstat (t : Thread) (now : Nat) (v : Word) : Thread :=
  let keep := if t.semerrAt.1 = now then t.semerrAt.2 else 0
  { t with eng := v.setWidth 8, engAt := 0, semerr := t.semerr &&& ~~~((v.extractLsb' 16 8) &&& ~~~keep) }

/-- A write of a special register of the thread: its writable fields (R69 to R71, R381). -/
def Thread.setSpecial (t : Thread) (now n : Nat) (v : Word) : Thread :=
  match n with
  | 0x04 => { t with base := v.setWidth 3 }
  | 0x06 => { t with spillp := v &&& 0x1FFF80 }
  | 0x07 => { t with spilllim := v &&& 0x1FFF80 }
  | 0x08 => { t with skipc := v.setWidth 2 }
  | 0x09 => t.setTstat now v
  | 0x0A => { t with trapvec := v &&& ~~~3 }
  | 0x0B => { t with trappc := v &&& ~~~3 }
  | 0x0C => { t with trapinfo := v &&& ~~~0x7E00 }
  | 0x0D => { t with traplat := v }
  | 0x0E => { t with trapSkip := v.setWidth 2, trapWin := v.getLsbD 2 }
  | _ => t

/-- A write of AGESTEP or SCHCFG (R73). -/
def UnitSt.setSpecial (u : UnitSt) (n : Nat) (v : Word) : UnitSt :=
  if n = 0x40 then (if bits v 0 16 = 0 then u else { u with ageStep := bits v 0 16 })
  else if bits v 0 9 = 0 || 256 < bits v 0 9 then u else { u with slotMax := bits v 0 9 }

/-- MFS (R318). -/
def execMfs (sm : Bool) (n : BitVec 7) (d : Operand) (s : State) : Host.Outcome State Fault Refusal :=
  onCur s fun t =>
    match specialAcc t.svc n.toNat with
    | .illegal => s.illegal t 3 0
    | .privilege => s.fault t (infoOf 2 0 n.toNat 0) 0
    | _ => s.aluDone t 1 sm d (s.special t n.toNat)

/-- MTS (R318). -/
def execMts (sm : Bool) (n : BitVec 7) (a : Operand) (s : State) : Host.Outcome State Fault Refusal :=
  onCur s fun t =>
    match specialAcc t.svc n.toNat with
    | .illegal | .ro => s.illegal t 3 0
    | .privilege => s.fault t (infoOf 2 0 n.toNat 0) 0
    | .rw =>
      if 0x40 ≤ n.toNat then (s.onUnit t.unit fun u => u.setSpecial n.toNat (t.rd a)).done t 1 sm []
      else s.done ((t.setSpecial s.now n.toNat (t.rd a)).mend (.special n)) 1 sm []

/-! ## Regions, pairing and mirrors -/

/-- Commands and copies that the thread issued before lie in no region that opens now (R374). -/
def State.closeRegion (s : State) (t : Thread) : State :=
  let out (c : Copy) : Copy := if c.t == t.ref then { c with inrgn := false } else c
  s.onUnit t.unit fun u =>
    { u with cmds := u.cmds.map fun c => if c.t == t.ref then { c with inrgn := false } else c,
             chans := u.chans.map fun e => (e.1, { e.2 with cur := e.2.cur.map out, queue := e.2.queue.map out }) }

/-- RGN (R319). -/
def execRgn (sm : Bool) (s : State) : Host.Outcome State Fault Refusal :=
  onCur s fun t =>
    if t.pending then s.switchPoint t
    else (s.closeRegion t).done { (t.mend (.special 0x0F)).mend (.special 0x10) with rgnpc := t.pc + 4, rgnwd := BitVec.ofNat 16 t.depth,
                                                                                     inrgn := true, restarts := 0 } 1 sm []

/-- PAIR (R320): a twin on the mill of unit n xor 1. -/
def execPair (sm : Bool) (s : State) : Host.Outcome State Fault Refusal :=
  onCur s fun t =>
    let v := t.unit ^^^ 1
    if t.pending then s.switchPoint t
    else if t.twin.isSome || !s.present v || s.freeSlots v = 0 || (!t.svc && s.crewFull v) then s.done t 1 sm []
    else match s.freeSlot? v with
    | none => s.done t 1 sm []
    | some slot =>
      s.park { t with pc := t.pc + 4, fetched := [], exchanged := false, twin := some { unit := v, slot := slot, fp := 0 }, fp := 0,
                      fpq := [], fpSeen := t.nextId, retired := 0, mismatch := none } (.until (s.now + 16 + 8 * t.res) sm)

/-- UNPAIR (R321): after the exchange that comes before it, the twin's slot is free. -/
def execUnpair (sm : Bool) (s : State) : Host.Outcome State Fault Refusal :=
  onCur s fun t => (s.freeTwin t).done { t with twin := none } 1 sm []

/-- MSYNC (R322, R378, R406): a flush of each flow on which mirror copies left, once the writes themselves are accepted. -/
def execMsync (sm : Bool) (s : State) : Host.Outcome State Fault Refusal :=
  onCur s fun t =>
    if !t.out.isEmpty then s.park t .accepted
    else
      let r := s.flushEach t (.msync t.ref) t.mirrors t.flushing
      r.1.done { t with flushing := r.2, mirrors := [] } 1 true []

/-! ## Clock, identity, capabilities, halt -/

/-- CLK (R323). -/
def execClk (sm : Bool) (q : BitVec 2) (s : State) : Host.Outcome State Fault Refusal :=
  onCur s fun t => s.done ({ t with q := nset t.q q.toNat (wd s.now) }.mend (.q q)) 1 sm []

/-- The physical identity of a thread (R323). -/
def State.physid (s : State) (t : Thread) : Word :=
  let b := (s.bind? t.unit).getD { unit := t.unit, fe := 0, slab := 0, ganged := false }
  wd (s.devid * 2 ^ 52 + t.unit * 2 ^ 41 + clusterOf t.unit * 2 ^ 36 + stackOf t.unit * 2 ^ 34 + b.fe * 2 ^ 28 + b.slab * 2 ^ 22 +
    b01 b.ganged * 2 ^ 21 + t.slot * 2 ^ 8 + t.gen % 256)

/-- PHYSID (R323). -/
def execPhysid (sm : Bool) (q : BitVec 2) (s : State) : Host.Outcome State Fault Refusal :=
  onCur s fun t => s.done ({ t with q := nset t.q q.toNat (s.physid t) }.mend (.q q)) 1 sm []

/-- The first range entry that holds the address takes a new writer (R324). -/
def passWriter (a b : Nat) : List RangeEnt → List RangeEnt
  | [] => []
  | e :: r => if e.base ≤ a && a < e.limit then { e with writer := b } :: r else e :: passWriter a b r

/-- CAPX (R324): every translation unit has the new writer 400 cycles later at the latest. -/
def execCapx (sm : Bool) (a b : Operand) (s : State) : Host.Outcome State Fault Refusal :=
  onCur s fun t =>
    let va := t.rd a
    let w := (t.rd b).toNat
    let l := s.launchOf t
    match l.ranges.find? fun e => e.base ≤ va.toNat && va.toNat < e.limit with
    | none => s.fault t (infoVa 3 va false 0) va
    | some e =>
      if !l.det || e.anyw then s.released t (s.done (State.endRegion t) 1 sm [])
      else if writerId l t != e.writer || 2 ^ 20 ≤ w then s.fault t (infoVa 6 va false 0) va
      else s.released t
        (((s.onLaunch t.ltag fun l => { l with ranges := passWriter va.toNat w l.ranges }).park
          ((State.endRegion t).retire (t.pc + 4) [] 0) (.event sm)).sched 400 rankLate (.capxComplete t.ref))

/-- A thread that an event wakes goes on, through a switch point where its instruction carried the marker. -/
def State.wakeEvent (s : State) (t : Thread) : State :=
  match t.st with
  | .parked (.event true) => s.switchPoint { t with st := .ready }
  | .parked (.event false) => s.setThread { t with st := .ready, eligRound := max t.eligRound (s.round + 1) }
  | .halted => s.setThread { t with held := none }
  | _ => s

/-- CAPX_COMPLETE (R324). -/
def execCapxComplete (t : ThreadRef) (s : State) : Host.Outcome State Fault Refusal :=
  event <| match s.ref? t with
  | some t => s.wakeEvent t
  | none => s

/-- HALT (R325): the results commit, and the thread is HALTED at the next instruction; the firmware is told. -/
def execHalt (sm : Bool) (s : State) : Host.Outcome State Fault Refusal :=
  onCur s fun t =>
    { s with pkg := { s.pkg with notices := (256 * t.unit + t.slot) :: s.pkg.notices } }.switchPoint
      { t.retire (t.pc + 4) [] 0 with after := .halt }

end Sys2Proof.Machine
end

