-- ==== Sys2Proof/Machine/Blocks.lean ====
section
/-! DEFINITION. What the vector and matrix engines share: the issue of a command (R156, R327), and blocks as elements: formats from
descriptors or from the instruction (R82, R330), sparse blocks (R89), and what stops an engine (R158, R390). -/

namespace Sys2Proof.Machine

/-! ## Sparse blocks (R89) -/

/-- Bytes of the bitmap, offset of the values, and how many may be present, by the width of an element. -/
def sparseMap : Nat → Nat × Nat × Nat
  | 8 => (8, 8, 56)
  | 16 => (4, 4, 30)
  | _ => (2, 4, 15)

/-- The bitmap of a sparse block. -/
def bitmap (w : Nat) (data : List Byte) : Nat := leNat (data.take (sparseMap w).1)

/-- The bitmap has more set bits than the format allows. -/
def overfull (c : BitVec 8) (data : List Byte) : Bool :=
  isSparse c && (sparseMap (fmtWidth c)).2.2 < countOnes (fmtCount c) (bitmap (fmtWidth c) data)

/-- The code of `w` bits at a byte offset. -/
def codeAt (data : List Byte) (w off : Nat) : Nat := leNat ((data.drop off).take (w / 8))

/-- The code of logical element `i` of a block; `none`: absent from a sparse one. -/
def blockCode (c : BitVec 8) (data : List Byte) (i : Nat) : Option Nat :=
  let w := fmtWidth c
  if isSparse c then
    let bm := bitmap w data
    if bm / 2 ^ i % 2 = 1 then some (codeAt data w ((sparseMap w).2.1 + countOnes i bm * (w / 8))) else none
  else some (codeAt data w (i * (w / 8)))

/-- Classes 01 and 10: a scale applies (R79). -/
def scaled (c : BitVec 8) : Bool := fmtClass c == 1 || fmtClass c == 2

/-- The value of an element of a block with scale `sc` (R80, R89, R90). -/
def elemVal (c : BitVec 8) (sc : Nat) (code : Option Nat) : FVal :=
  if scaled c && sc = 255 then .nan
  else match code with
    | some n => (codeVal c n).scale ((sc : Int) - 127)
    | none => FVal.zero

/-- Codes as a dense block of 64 bytes. -/
def packDense (w : Nat) (codes : List Nat) : List Byte := (codes.flatMap fun n => natLe (w / 8) n) ++ List.replicate (64 - codes.length * (w / 8)) 0

/-- Codes as a block of the format with its code: a sparse one leaves out zero codes, and is written dense where too many are
present (R89). -/
def packBlock (c : BitVec 8) (codes : List Nat) : List Byte × BitVec 8 :=
  let w := fmtWidth c
  let present := codes.filter (· != 0)
  if !isSparse c || (sparseMap w).2.2 < present.length then (packDense w codes, denseOf c)
  else
    let bm := codes.zipIdx.foldl (fun b x => if x.1 = 0 then b else b + 2 ^ x.2) 0
    let data := natLe (sparseMap w).2.1 bm ++ present.flatMap fun n => natLe (w / 8) n
    (data ++ List.replicate (64 - data.length) 0, c)

/-! ## Operands -/

/-- How an operand of an engine is read: its number in OPND of R390 (4: the ring latch, whose blocks have no address), the VA of its first
byte, its declared code, and whether the code
comes from the instruction, sparse blocks are accepted, it is an index stream, and the matrix engine reads it. -/
structure Opnd where
  num : Nat
  base : Nat
  decl : BitVec 8
  instr : Bool
  sparse : Bool
  index : Bool := false
  mx : Bool := false
  /-- The number of its block that is read, where rows lie apart. -/
  blk : Option Nat := none
  deriving DecidableEq, Repr

def Typed.elem (b : Typed) (i : Nat) : FVal := elemVal b.code b.sc (blockCode b.code b.b.data i)

/-- The code and scale of a block, or WHY it cannot be read (R82, R83, R89, R95, R330, R345). -/
def Opnd.format (o : Opnd) (b : BlockW) : Except Nat (BitVec 8 × Nat) :=
  if o.instr then (if overfull o.decl b.data then .error 4 else .ok (o.decl, 127))
  else
    let c := b.desc.setWidth 8
    if c = 0 then .error 1
    else if fmtWidth c = 0 then .error 2
    else if o.index && c != 5 then .error 8
    else if isSparse c && !o.sparse then .error 5
    else if fmtWidth c != fmtWidth o.decl then .error 3
    else if o.mx && isInt c then .error 6
    else if overfull c b.data then .error 4
    else .ok (c, if scaled c then b.desc.toNat / 256 else 127)

/-- DETAIL of a format fault (R390): an index stream declares no code. -/
def Opnd.detail (o : Opnd) (desc : Half) (why blk : Nat) : Word :=
  wd (desc.toNat * 2 ^ 48 + (if o.index then 0 else o.decl.toNat) * 2 ^ 40 + why * 2 ^ 32 + o.num * 2 ^ 24 + blk % 2 ^ 24)

/-- The address of the block that a record names (R389). -/
def Opnd.blockVa (o : Opnd) (va : Nat) : Word := if o.num = 4 then 0 else wd (va / 64 * 64)

/-- A format fault at a block. -/
def Opnd.bad (o : Opnd) (b : BlockW) (va : Nat) (gpa : Word) (why : Nat) : Stop :=
  .fault { cause := 0x020, detail := o.detail b.desc why (o.blk.getD (va / 64 - o.base / 64)), va := o.blockVa va, pa := gpa }

/-- A block of an operand, read: with source INSTR the descriptor is not (R82). -/
def Opnd.typed (o : Opnd) (b : BlockW) (va : Nat) (gpa : Word) : Except Stop Typed :=
  match (b.psn.find? fun e => !(o.instr && e.1 == 8)).map (·.2) with
  | some p => .error (.poison p (o.blockVa va) gpa)
  | none => match o.format b with
    | .ok (c, sc) => .ok ⟨b, c, sc⟩
    | .error why => .error (o.bad b va gpa why)

namespace State
variable (s : State)

/-- Local physical address of a region-0x1 address of a crew. -/
def s1Pa (tag u va : Nat) : Nat :=
  match s.seg? tag u 1 (bits (wd va) 22 4) with
  | some g => segAddr 1 u g (va % 2 ^ 22)
  | none => 0

/-- The block of an operand that holds an address. -/
def operandBlock (c : Cmd) (o : Opnd) (va : Nat) : Except Stop Typed :=
  let pa := s.s1Pa c.ltag c.t.unit (va / 64 * 64)
  o.typed (s.readBlock pa) va (wd (s.devid * 2 ^ 40 + pa))

/-- An operand range of a VX or MX command that lies in one segment of S1 (R327). -/
def s1Range (t : Thread) (va len : Nat) : Option (List (Nat × Nat)) :=
  if va / 2 ^ 60 = 1 then s.vaExtent t.ltag t.unit va len else none

/-! ## Issue (R327) -/

/-- The obstacle that parks an engine command at issue, if any (R152 to R154, R157, R327). -/
def engObstacle (t : Thread) (k : EngKind) (entries : List (List (Nat × Nat) × Bool)) : Option WaitFor :=
  if t.out.any (·.store) then some .stores
  else if queueSize k ≤ (s.unit t.unit).queued k then some (.queue k)
  else match entries.find? fun e => s.boardHolds t.unit e.1 e.2 with
    | some e => some (.board e.1 e.2 true entries.length)
    | none =>
      if 64 < (s.unit t.unit).board.length + entries.length then some (.board [] false true entries.length)
      else if s.markHolds t.unit (entries.flatMap (·.1)) then some (.mark (entries.flatMap (·.1)) none)
      else none

/-- Issues an engine command whose checks have passed, or parks its thread; `go` starts the engine. -/
def engIssue (t : Thread) (sm : Bool) (c : Cmd) (entries : List (List (Nat × Nat) × Bool)) (go : State → State) : State :=
  match s.engObstacle t c.eng entries with
  | some w => s.park t w
  | none => (go (s.accept c entries)).done t 3 sm []

/-- Accesses that reached the banks of a command's sources, or of its destinations, before it wait there and go first, three cycles of them at the
most (R109). -/
def yields (c : Cmd) (dest : Bool) : Bool :=
  c.tries < (if dest then 6 else 3) &&
    s.waitsOn (((s.unit c.t.unit).board.filter fun b => b.cmd == c.id && b.dest == dest).flatMap (·.ext))

/-- The command lets them, and looks again in the next cycle. -/
def yield (c : Cmd) (op : Instr) : State :=
  (s.onCmd c.t.unit c.id fun c => { c with tries := c.tries + 1 }).sched 1 (rankEng c.t.unit c.eng) op

/-- An earlier command of an engine that posts in issue order has not ended (R160). -/
def prior (u : Nat) (c : Cmd) : Bool :=
  c.eng != .tmv && ((s.unit u).cmds.takeWhile fun x => x.id != c.id).any fun x => x.eng == c.eng

end State

end Sys2Proof.Machine
end

