-- ==== Sys2Proof/Machine/Vector.lean ====
section
/-! DEFINITION. The vector engine: its commands (R338 to R347), what they compute (R342 to R346), and its timing (R168, R176). -/

namespace Sys2Proof.Machine

/-- A vector command's function (R246) and fields. -/
structure Vx where
  f : Nat
  e : Ext
  deriving DecidableEq, Repr

/-- The function code of a vector instruction (R246). -/
def vxOf : Instr → Option Vx
  | .vadd e => some ⟨0x00, e⟩ | .vsub e => some ⟨0x01, e⟩ | .vmul e => some ⟨0x02, e⟩ | .vfma e => some ⟨0x03, e⟩
  | .vmin e => some ⟨0x04, e⟩ | .vmax e => some ⟨0x05, e⟩ | .vabs e => some ⟨0x06, e⟩ | .vneg e => some ⟨0x07, e⟩
  | .vrcp e => some ⟨0x08, e⟩ | .vrsq e => some ⟨0x09, e⟩ | .vexp2 e => some ⟨0x0A, e⟩ | .vlog2 e => some ⟨0x0B, e⟩
  | .vlut e => some ⟨0x0C, e⟩ | .vcmp e => some ⟨0x0D, e⟩ | .vsel e => some ⟨0x0E, e⟩ | .vcvt e => some ⟨0x0F, e⟩
  | .vscale e => some ⟨0x10, e⟩ | .vred e => some ⟨0x11, e⟩ | .vscan e => some ⟨0x12, e⟩ | .vtopk e => some ⟨0x13, e⟩
  | .vgath e => some ⟨0x14, e⟩ | .vscat e => some ⟨0x15, e⟩ | .vfill e => some ⟨0x16, e⟩ | .viota e => some ⟨0x17, e⟩
  | .vpack e => some ⟨0x18, e⟩ | .vunpk e => some ⟨0x19, e⟩
  | _ => none

namespace Vx
variable (v : Vx)

/-- The streams of the function: 0 A, 1 B, 2 C (R342, R344, R345, R346). -/
def streams : List Nat :=
  if v.f = 3 || v.f = 0x0E then [0, 1, 2]
  else if v.f = 0x13 then (if v.e.x then [0, 1] else [0])
  else if v.f = 0x16 || v.f = 0x17 then []
  else if (6 ≤ v.f && v.f ≤ 0x0C) || (0x0F ≤ v.f && v.f ≤ 0x12) || v.f = 0x14 then [0]
  else [0, 1]

/-- B is a table (R345). -/
def hasTable : Bool := v.f == 0x0C || v.f == 0x14
/-- C is the number L of table entries (R345). -/
def hasLen : Bool := v.f == 0x0C || v.f == 0x14 || v.f == 0x15
/-- Stream `k` is an int32 index stream. -/
def isIndex (k : Nat) : Bool := (v.f == 0x13 && k == 1) || (v.f == 0x14 && k == 0) || (v.f == 0x15 && k == 1)
/-- The declared code of a stream, and of the table (R339, R344, R345). -/
def decl (k : Nat) : BitVec 8 := if v.isIndex k then 5 else v.e.sfmt
def tableDecl : BitVec 8 := if v.f = 0x0C then v.e.fmt else v.e.sfmt
/-- Sparse blocks are accepted (R341). -/
def takesSparse : Bool := v.f ≤ 0x10 && v.f != 0x0C
/-- k of VTOPK (R344). -/
def topK : Nat := v.e.sh 8 12 + 1
/-- The highest OP (R338, R342, R343). -/
def opMax : Nat := if v.f = 0x0D then 7 else if v.f = 0x11 then 3 else if v.f = 0x12 then 2 else 0

/-! ### The parameter dword (R338) -/
def count (n : Word) : Nat := bits n 0 24
def op (n : Word) : Nat := bits n 56 8
def stride (n : Word) (k : Nat) : Nat := bits n (24 + 8 * k) 8

/-- Elements of the destination: COUNT, 1 for VRED, k for VTOPK, L for VSCAT. -/
def outCount (n c : Word) : Nat :=
  if v.f = 0x11 then 1 else if v.f = 0x13 then v.topK else if v.f = 0x15 then c.toNat else count n

/-- Largest stream stride, at least 1 (R347). -/
def smax (n : Word) : Nat := v.streams.foldl (fun m k => max m (stride n k)) 1

/-- Elements per cycle (R347). -/
def rate : Nat :=
  let m := 32 / max (fmtWidth v.e.fmt) (fmtWidth v.e.sfmt)
  if v.f = 0x13 || v.f = 0x14 || v.f = 0x15 then 16
  else if (8 ≤ v.f && v.f ≤ 0x0B) || v.f = 0x12 then 16 * m
  else 64 * m

/-- Lines of the loading of VLUT's table, and of VTOPK's results (R347). -/
def extra (c : Word) : Nat := if v.f = 0x0C then ceilDiv c.toNat 16 else if v.f = 0x13 then ceilDiv v.topK 16 else 0

/-- E (R176, R347). -/
def lines (n c : Word) : Nat := ceilDiv (count n * v.smax n) v.rate + v.extra c

/-- The line that reads element `j`, counted after the loading of a table. -/
def lineOf (n : Word) (j : Nat) : Nat := j * v.smax n / v.rate
/-- The first element of a line. -/
def firstOf (n : Word) (line : Nat) : Nat := ceilDiv (line * v.rate) (v.smax n)
/-- Lines before the first element. -/
def lead (c : Word) : Nat := if v.f = 0x0C then v.extra c else 0

/-! ### Checks at issue (R338, R344, R345) -/
def paramsOk (n c : Word) : Bool :=
  1 ≤ count n && count n ≤ 2097152 && bits n 48 8 == 0 && op n ≤ v.opMax &&
  [0, 1, 2].all (fun k => v.streams.contains k || stride n k == 0) &&
  (!v.hasLen || (1 ≤ c.toNat && c.toNat ≤ (if v.f = 0x0C then 256 else 2097152))) &&
  (v.f != 0x13 || v.topK ≤ count n)

end Vx

/-- An operand of a command: its number, the address and length of its range, and the alignment of the address. -/
structure VRange where
  num : Nat
  va : Nat
  len : Nat
  align : Nat
  deriving DecidableEq, Repr

/-- The value of operand A, B or C of a command. -/
def Cmd.opnd (c : Cmd) (k : Nat) : Word := if k = 0 then c.a else if k = 1 then c.b else c.c

namespace Vx
variable (v : Vx)

/-- Sources of a command: its streams, and its table (R340, R345). -/
def sources (c : Cmd) : List VRange :=
  v.streams.map (fun k =>
    let w := fmtWidth (v.decl k) / 8
    { num := k, va := (c.opnd k).toNat, len := ((count c.n - 1) * stride c.n k + 1) * w, align := w }) ++
  (if v.hasTable then
    let w := fmtWidth v.tableDecl / 8
    [{ num := 1, va := c.b.toNat, len := c.c.toNat * w, align := w }] else [])

/-- Destinations of a command: D, whole blocks of it but for VSCAT; the indices of VTOPK, and the count block of VPACK. -/
def dests (c : Cmd) : List VRange :=
  let w := fmtWidth v.e.fmt / 8
  let len := v.outCount c.n c.c * w
  { num := 3, va := c.d.toNat, len := if v.f = 0x15 then len else roundUp len 64, align := 64 } ::
  (if v.f = 0x13 then [{ num := 2, va := c.c.toNat, len := roundUp (4 * v.topK) 64, align := 64 }]
   else if v.f = 0x18 then [{ num := 2, va := c.c.toNat, len := 64, align := 64 }] else [])

/-- A destination that meets a source otherwise than R167 allows: a contiguous stream at its address with as many elements. VSCAT's may not
meet its sources at all (R345). -/
def overlapBad (c : Cmd) : Bool :=
  (v.sources c).any fun x => (v.dests c).any fun d =>
    meets x.va x.len d.va d.len &&
    !(d.num = 3 && v.f != 0x15 && v.streams.contains x.num && x.va = d.va && stride c.n x.num = 1 &&
      v.outCount c.n c.c = count c.n)

end Vx

/-! ## What an engine keeps of a command (R101, R152, R177, R344) -/

/-- `x` stands above `y` (R101). -/
def Rank.above (x y : Rank) : Bool :=
  if x.v.isNan && y.v.isNan then x.idx < y.idx || (x.idx == y.idx && x.pos < y.pos)
  else if x.v.isNan then false
  else if y.v.isNan then true
  else if fLt y.v x.v then true
  else if fLt x.v y.v then false
  else x.idx < y.idx || (x.idx == y.idx && x.pos < y.pos)

/-- Puts an element in its rank, keeping the `k` highest. -/
def Rank.insert (k : Nat) (x : Rank) : List Rank → List Rank
  | [] => if k = 0 then [] else [x]
  | y :: r => if k = 0 then [] else if x.above y then (x :: y :: r).take k else y :: Rank.insert (k - 1) x r

/-- Elements by position: the last one given to a position wins. -/
def vxMap (es : List (Nat × Elem)) : Map Elem := es.foldl (fun m e => mset m e.1 e.2) []

/-- The descriptor that blocks of the destination take with the codes of a source: byte 1 is 0x7F where no scale applies (R79, R344, R345). -/
def outDesc (d : Half) : Half := if scaled (d.setWidth 8) then d else (d &&& 0xFF) ||| 0x7F00

/-- The steps of a command so far, the place from which it last began to read, and its descriptor. -/
def Cmd.vxSteps (c : Cmd) : List VxStep := match c.read with | .vx _ l _ => l | _ => []
def Cmd.vxSince (c : Cmd) : Nat := match c.read with | .vx n _ _ => n | _ => 0
def Cmd.vxDesc (c : Cmd) : Option Half := match c.read with | .vx _ _ d => d | _ => none

/-- Results by position of the elements, but for those of a VSCAT that are written already. -/
def Cmd.vxOuts (c : Cmd) (v : Vx) (steps : List VxStep) : Map Elem :=
  vxMap ((if v.f = 0x15 then steps.drop c.wrote else steps).flatMap (·.outs))

/-- The results that elements have given, from the first position on: one for each, or for each that VPACK has selected. -/
def Vx.results (v : Vx) (steps : List VxStep) : Nat := if v.f = 0x18 then (steps.getLast?.map (·.n)).getD 0 else steps.length

/-- The elements that a command has read when its engine stops `cycles` after the first line that it read now. -/
def Cmd.vxTo (c : Cmd) (v : Vx) (cycles : Nat) : List VxStep :=
  c.vxSteps.take (max c.vxSince (v.firstOf c.n (v.lineOf c.n c.vxSince + (cycles - v.lead c.c))))

/-! ## Reading (R340, R341) -/

namespace State
variable (s : State)

/-- Element `j` of a stream. -/
def vxElem (c : Cmd) (v : Vx) (k j : Nat) : Except Stop FVal :=
  let decl := v.decl k
  let w := fmtWidth decl / 8
  let va := (c.opnd k).toNat + j * Vx.stride c.n k * w
  match s.operandBlock c { num := k, base := (c.opnd k).toNat, decl := decl, instr := v.e.fsrc, sparse := v.takesSparse, index := v.isIndex k } va with
  | .ok b => .ok (b.elem (va % 64 / w))
  | .error e => .error e

/-- The block and place of entry `i` of the table. -/
def vxEntry (c : Cmd) (v : Vx) (i : Nat) : Except Stop (Typed × Nat) :=
  let w := fmtWidth v.tableDecl / 8
  let va := c.b.toNat + i * w
  match s.operandBlock c { num := 1, base := c.b.toNat, decl := v.tableDecl, instr := v.e.fsrc, sparse := false } va with
  | .ok b => .ok (b, va % 64 / w)
  | .error e => .error e

/-- The blocks of a contiguous or strided operand must carry one descriptor under DESC (R344, R345): that of its first block, or the fault. -/
def sameDesc (c : Cmd) (v : Vx) (num base : Nat) (decl : BitVec 8) (b0 : Half) (b : Typed) (va : Nat) : Except Stop Unit :=
  if v.e.fsrc || b.b.desc = b0 then .ok ()
  else
    .error (Opnd.bad { num := num, base := base, decl := decl, instr := false, sparse := false } b.b va
      (wd (s.devid * 2 ^ 40 + s.s1Pa c.ltag c.t.unit (va / 64 * 64))) 7)

/-- An index in [0, L), of any format; a value that is no integer is none (R345; log entry 35). -/
def indexIn (l : Nat) : FVal → Option Nat
  | .fin neg m e =>
    let n := if e < 0 then m / 2 ^ e.natAbs else m * 2 ^ e.toNat
    if (neg && m != 0) || (e < 0 && m % 2 ^ e.natAbs != 0) || l ≤ n then none else some n
  | _ => none

/-! ## What each function computes (R342 to R346) -/

/-- 1 for a NaN or a value other than zero. -/
def nonZero (x : FVal) : Bool := x.isNan || !x.isZero

/-- The function of the values a, b, c (R342). `b'` is the signed value of operand B. -/
def vxFun (f : Nat) (rdn : Bool) (op : Nat) (b' : Int) (a b c : FVal) : FVal :=
  match f with
  | 0x00 => fAdd rdn a b
  | 0x01 => fAdd rdn a b.neg
  | 0x02 => fMul a b
  | 0x03 => fFma rdn a b c
  | 0x04 => fMin a b
  | 0x05 => fMax a b
  | 0x06 => a.abs
  | 0x07 => a.neg
  | 0x08 => fDiv (ofInt 1 0) a
  | 0x09 => fRsq a
  | 0x0A => fExp2 a
  | 0x0B => fLog2 a
  | 0x0D => ofInt (if fcmpHolds (BitVec.ofNat 3 op) a b then 1 else 0) 0
  | 0x0E => if nonZero a then b else c
  | 0x10 => a.scale b'
  | _ => a

/-- A reduction takes one more element (R343). -/
def vxReduce (op : Nat) (rdn : Bool) (first : Bool) (acc x : FVal) : FVal :=
  let x := if op = 3 then x.abs else x
  if first then x
  else match op with
    | 0 => fAdd rdn acc x
    | 1 => fMin acc x
    | _ => fMax acc x

/-- What a command carries from element to element: a running value and a count. -/
abbrev VAcc := FVal × Nat

/-- One element of a command other than VTOPK: what it carries on, and what it gives the destination. -/
def vxStep (c : Cmd) (v : Vx) (j : Nat) (st : VAcc) : Except Stop (VAcc × List (Nat × Elem)) :=
  let rd (k j : Nat) : Except Stop FVal := if v.streams.contains k then s.vxElem c v k j else .ok .nan
  let rdn := v.e.rm == 2
  match v.f with
  | 0x0C => do
    match indexIn c.c.toNat (← rd 0 j) with
    | some i => do
      let (b, p) ← s.vxEntry c v i
      .ok (st, [(j, .code ((blockCode b.code b.b.data p).getD 0))])
    | none => .ok (st, [(j, .code (if isInt v.e.fmt then 0 else nanCode (fmtOf v.e.fmt)))])
  | 0x11 => do
    let y := vxReduce (Vx.op c.n) rdn (j = 0) st.1 (← rd 0 j)
    .ok ((y, 0), if j + 1 = Vx.count c.n then [(0, .val y)] else [])
  | 0x12 => do
    let y := vxReduce (Vx.op c.n) rdn (j = 0) st.1 (← rd 0 j)
    .ok ((y, 0), [(j, .val y)])
  | 0x14 => do
    match indexIn c.c.toNat (← rd 0 j) with
    | some i => do
      let (b, p) ← s.vxEntry c v i
      .ok (st, [(j, .val (b.elem p))])
    | none => .ok (st, [(j, .val .nan)])
  | 0x15 => do
    let a ← rd 0 j
    match indexIn c.c.toNat (← rd 1 j) with
    | some i =>
      let va := c.d.toNat + i * (fmtWidth v.e.fmt / 8)
      let pa := s.s1Pa c.ltag c.t.unit (va / 64 * 64)
      match ((s.readBlock pa).psn.find? (·.1 < 8)).map (·.2) with
      | some p => .error (.poison p (wd (va / 64 * 64)) (wd (s.devid * 2 ^ 40 + pa)))
      | none => .ok (st, [(i, .val a)])
    | none => .ok (st, [])
  | 0x16 => .ok (st, [(j, .code (c.a.toNat % 2 ^ fmtWidth v.e.fmt))])
  | 0x17 => .ok (st, [(j, .val (ofInt (c.a.toInt + j * c.b.toInt) 0))])
  | 0x18 => do
    let a ← rd 0 j
    if nonZero (← rd 1 j) then .ok ((st.1, st.2 + 1), [(st.2, .val a)]) else .ok (st, [])
  | 0x19 => do
    if nonZero (← rd 1 j) then do
      let a ← rd 0 st.2
      .ok ((st.1, st.2 + 1), [(j, .val a)])
    else .ok (st, [(j, .val FVal.zero)])
  | f => do
    .ok (st, [(j, .val (vxFun f rdn (Vx.op c.n) c.b.toInt (← rd 0 j) (← rd 1 j) (← rd 2 j)))])

/-- Elements from `j` on, added to those before in reverse; and what stopped it. -/
def vxLoop (c : Cmd) (v : Vx) : Nat → Nat → VAcc → List VxStep → List VxStep × Option Stop
  | 0, _, _, acc => (acc.reverse, none)
  | n + 1, j, st, acc =>
    match s.vxStep c v j st with
    | .ok (st, out) => vxLoop c v n (j + 1) st (⟨st.1, st.2, out, none⟩ :: acc)
    | .error e => (acc.reverse, some e)

/-- The loading of VLUT's table: the descriptor of its first block, or the line that stopped it. -/
def vxTable (c : Cmd) (v : Vx) : Nat → Nat → Option Half → Except (Nat × Stop) Half
  | 0, _, d => .ok (d.getD 0)
  | n + 1, i, d =>
    match s.vxEntry c v i with
    | .error e => .error (i / 16, e)
    | .ok (b, _) =>
      match s.sameDesc c v 1 c.b.toNat v.tableDecl (d.getD b.b.desc) b (c.b.toNat + i * (fmtWidth v.tableDecl / 8)) with
      | .error e => .error (i / 16, e)
      | .ok () => vxTable c v n (i + 1) (some (d.getD b.b.desc))

/-! ## VTOPK (R101, R344) -/

/-- The elements of VTOPK's input from `j` on, added to those before in reverse; their common descriptor; and what stopped it. -/
def vxRank (c : Cmd) (v : Vx) : Nat → Nat → Option Half → List VxStep → List VxStep × Option Half × Option Stop
  | 0, _, d, acc => (acc.reverse, d, none)
  | n + 1, j, d, acc =>
    let w := fmtWidth v.e.sfmt / 8
    let va := c.a.toNat + j * Vx.stride c.n 0 * w
    match s.operandBlock c { num := 0, base := c.a.toNat, decl := v.e.sfmt, instr := v.e.fsrc, sparse := false } va with
    | .error e => (acc.reverse, d, some e)
    | .ok b =>
      match s.sameDesc c v 0 c.a.toNat v.e.sfmt (d.getD b.b.desc) b va with
      | .error e => (acc.reverse, d, some e)
      | .ok () =>
        match (if v.e.x then s.vxElem c v 1 j else .ok (ofInt ((c.b.toNat + j) % 2 ^ 32 : Nat) 0)) with
        | .error e => (acc.reverse, d, some e)
        | .ok g =>
          let idx := match g with | .fin neg m _ => if neg then 2 ^ 32 - m else m | _ => 0
          let i := va % 64 / w
          vxRank c v n (j + 1) (some (d.getD b.b.desc))
            (⟨.nan, 0, [], some ⟨b.elem i, idx % 2 ^ 32, j, (blockCode b.code b.b.data i).getD 0⟩⟩ :: acc)

/-! ## Destination blocks (R339 to R341) -/

/-- The code of an element of the destination, at a position of the output, under a block scale. -/
def vxCode (c : Cmd) (v : Vx) (sc pos : Nat) : Option Elem → Nat
  | none => 0
  | some (.code n) => n
  | some (.val x) =>
    let r := if v.e.rm = 5 then srDraw c.seed (bits c.p7 32 32) (bits c.p7 0 32 + pos) else 0
    convert v.e.fmt v.e.rm.toNat v.e.sat r (x.scale (127 - (sc : Int)))

/-- The scale byte of a destination block (R339, R94). -/
def blockScale (fmt : BitVec 8) (smode scl : Nat) (xs : List FVal) : Nat :=
  if smode = 1 then scl else if smode = 2 then chooseScale fmt xs else 127

/-- Destination block `b` from the elements by position; `desc`: what VLUT and VTOPK give it. -/
def vxBlock (c : Cmd) (v : Vx) (m : Map Elem) (desc : Option Half) (b : Nat) : BlockW :=
  let per := fmtCount v.e.fmt
  let es := (List.range per).map fun i => mget m (b * per + i)
  let sc := blockScale v.e.fmt v.e.smode v.e.scl (es.filterMap fun e => match e with | some (.val x) => some x | _ => none)
  let codes := es.zipIdx.map fun e => vxCode c v sc (b * per + e.2) e.1
  let (data, code) := packBlock v.e.fmt codes
  { pa := s.s1Pa c.ltag c.t.unit (c.d.toNat + 64 * b), data := data, desc := desc.getD (BitVec.ofNat 16 (code.toNat + sc * 256)), psn := [] }

/-- A block of which a command gives some elements, as VSCAT merges it (R345): the elements it receives, under the new descriptor. A sparse block is
written whole. -/
def vxMerge (c : Cmd) (v : Vx) (m : Map Elem) (desc : Option Half) (b : Nat) : BlockW :=
  let per := fmtCount v.e.fmt
  { s.vxBlock c v m desc b with
    mask := if isSparse v.e.fmt then [] else (List.range per).flatMap fun i => List.replicate (fmtWidth v.e.fmt / 8) (mget m (b * per + i)).isSome }

/-- The blocks of int32 values at an address. -/
def wordBlocks (c : Cmd) (va : Nat) (xs : List Nat) : List BlockW :=
  (List.range (ceilDiv xs.length 16)).map fun b =>
    { pa := s.s1Pa c.ltag c.t.unit (va + 64 * b), data := packDense 32 ((xs.drop (16 * b)).take 16), desc := 0x7F05, psn := [] }

/-! ## A whole command -/

/-- Where a command stopped: the line, and what the engine met. -/
def stopped (line : Nat) (blocks : List BlockW) : Stop → CmdResult
  | .fault f => { blocks := blocks, tiles := [], fault := some f, restart := none, steps := line }
  | .poison p va pa =>
    { blocks := blocks, tiles := [], restart := some p, steps := line,
      fault := some { cause := 0x024, detail := wd (p.cause * 2 ^ 48 + p.detail % 2 ^ 48), va := va, pa := pa } }

/-- A command that ended with these blocks. -/
def whole (blocks : List BlockW) : CmdResult := { blocks := blocks, tiles := [], fault := none, restart := none, steps := 0 }

/-- Reads the elements that are left of a command (R158, R177): with those before, its descriptor, and the line, counted from the first that it
reads now, with what stopped it there. -/
def vxRead (c : Cmd) (v : Vx) : EngRead × Option (Nat × Nat × Stop) :=
  let old := c.vxSteps
  let j := old.length
  let n := Vx.count c.n - j
  let line (i : Nat) := v.lead c.c + v.lineOf c.n i - v.lineOf c.n j
  if v.f = 0x13 then
    let r := s.vxRank c v n j c.vxDesc old.reverse
    (.vx j r.1 r.2.1, r.2.2.map fun e => (line r.1.length, v.lineOf c.n r.1.length, e))
  else
    match (if v.f = 0x0C && !v.e.fsrc then (s.vxTable c v c.c.toNat 0 none).map some else .ok none) with
    | .error (l, e) => (.vx j old none, some (l, v.lineOf c.n j, e))
    | .ok desc =>
      let st := match old.getLast? with | some x => (x.acc, x.n) | none => (.nan, 0)
      let r := s.vxLoop c v n j st old.reverse
      (.vx j r.1 desc, r.2.map fun e => (line r.1.length, v.lineOf c.n r.1.length, e))

/-- The merged blocks of VSCAT (R345). -/
def vxScatter (c : Cmd) (v : Vx) (m : Map Elem) : List BlockW := ((m.map fun e => e.1 / fmtCount v.e.fmt).eraseDups).map (s.vxMerge c v m none)

/-- What a command has written when it has read the elements of `steps` alone (R158): destination lines of 256 bytes that hold results of theirs
only; for VSCAN, VPACK and VSCAT all their results; for VRED and VTOPK nothing. At a pre-emption (`halt`, R177) it writes all their results: the
last block, where they do not fill it, takes its descriptor with the rest of them while a source still stands in it (log entry 15). -/
def vxPartial (c : Cmd) (v : Vx) (steps : List VxStep) (desc : Option Half) (halt : Bool) : List BlockW :=
  let m := c.vxOuts v steps
  let n := v.results steps
  let per := fmtCount v.e.fmt
  let all := halt || v.f = 0x12 || v.f = 0x18
  if v.f = 0x11 || v.f = 0x13 then []
  else if v.f = 0x15 then s.vxScatter c v m
  else
    ((List.range (if all then n / per else n * fmtWidth v.e.fmt / 8 / 256 * 4)).drop c.wrote).map (s.vxBlock c v m (desc.map outDesc)) ++
    (if all && n % per != 0 then
      let b := s.vxMerge c v m (desc.map outDesc) (n / per)
      [if halt && (v.sources c).any (fun x => x.va == c.d.toNat) then { b with desc := (s.readBlock b.pa).desc } else b]
    else [])

/-- All of a command's results that are not yet written. -/
def vxFull (c : Cmd) (v : Vx) (steps : List VxStep) (desc : Option Half) : List BlockW :=
  if v.f = 0x13 then
    let rs := (steps.filterMap (·.rank)).foldl (fun l x => Rank.insert v.topK x l) []
    let d := if v.e.fsrc then BitVec.ofNat 16 (v.e.sfmt.toNat + 127 * 256) else outDesc (desc.getD 0)
    (List.range (ceilDiv v.topK (fmtCount v.e.fmt))).map (s.vxBlock c v (vxMap (rs.zipIdx.map fun r => (r.2, .code r.1.code))) (some d)) ++
      s.wordBlocks c c.c.toNat (rs.map (·.idx))
  else
    let m := c.vxOuts v steps
    if v.f = 0x15 then s.vxScatter c v m
    else
      ((List.range (ceilDiv (v.outCount c.n c.c) (fmtCount v.e.fmt))).drop c.wrote).map (s.vxBlock c v m (desc.map outDesc)) ++
      (if v.f = 0x18 then
        [{ pa := s.s1Pa c.ltag c.t.unit c.c.toNat, data := packDense 64 [(steps.getLast?.map (·.n)).getD 0], desc := 0x7F06, psn := [] }] else [])

/-- What a command that has been read writes (R158, R342 to R346). -/
def vxResult (c : Cmd) (v : Vx) (stop : Option (Nat × Nat × Stop)) : CmdResult :=
  match stop with
  | none => whole (s.vxFull c v c.vxSteps c.vxDesc)
  | some (line, at_, e) => stopped line (s.vxPartial c v (c.vxSteps.take (max c.vxSince (v.firstOf c.n at_))) c.vxDesc false) e

/-! ## Issue (R327, R338, R340) -/

/-- Issues a vector command. -/
def vxIssue (t : Thread) (i : Instr) : State :=
  match vxOf i with
  | none => s
  | some v =>
    let c := s.newCmd t .vx i v.e true
    if !v.paramsOk c.n c.c || v.overlapBad c then s.illegal t 3 0
    else
      let rs := v.sources c ++ v.dests c
      match rs.find? fun r => r.va % r.align != 0 || (s.s1Range t r.va r.len).isNone with
      | some r => s.fault t (infoVa 3 (wd r.va) false 0) (wd r.va)
      | none =>
        let entry (d : Bool) (r : VRange) := ((s.s1Range t r.va r.len).getD [], d)
        s.engIssue t v.e.sm c ((v.sources c).map (entry false) ++ (v.dests c).map (entry true)) fun s =>
          s.sched 16 (rankEng t.unit .vx) (.vxStart t.unit)

/-! ## The engine (R168, R176) -/

/-- The first vector command of the unit that has not begun to read. -/
def vxNext (u : Nat) : Option Cmd := (s.unit u).cmds.find? fun c => c.eng == .vx && c.start.isNone && !c.cancelled

/-- The engine reads the first line of its next command, 16 cycles after its issue at the earliest and when the command before it has
read its last (R168); the posts follow R176, or R158 at a fault. -/
def vxBegin (u : Nat) : State :=
  match s.vxNext u with
  | none => s
  | some c =>
    if s.now < c.issued + 16 || s.stopping c.ltag u then s
    else if s.now < (s.unit u).vxFree then s.sched ((s.unit u).vxFree - s.now) (rankEng u .vx) (.vxStart u)
    else match vxOf c.ins with
      | none => s
      | some v =>
        if s.yields c false then s.yield c (.vxStart u) else
        let r := s.vxRead c v
        let c := { c with read := r.1 }
        let res := s.vxResult c v r.2
        let e := match r.2 with
          | some x => x.1 + 1
          | none => v.lines c.n c.c - v.lineOf c.n c.vxSince
        let s := s.onCmd u c.id fun _ => { c with start := some s.now, first := s.now, doneAt := s.now + e + 12, res := some res }
        let s := s.onUnit u fun x => { x with vxFree := s.now + e }
        let s := if r.2.isSome then s.sched (e + 12) (rankEng u .vx) (.engineFault u c.id)
          else (s.sched e (rankEng u .vx) (.consumedPost u c.id)).sched (e + 12) (rankEng u .vx) (.donePost u c.id)
        if (s.vxNext u).isSome then s.sched e (rankEng u .vx) (.vxStart u) else s

end State

/-- VX_START (R168). -/
def execVxStart (unit : Nat) (s : State) : Host.Outcome State Fault Refusal := event (s.vxBegin unit)

/-! ## The instructions (R342 to R346) -/

/-- VADD (R342). -/
def execVadd (e : Ext) (s : State) : Host.Outcome State Fault Refusal := onCur s fun t => s.vxIssue t (.vadd e)
/-- VSUB (R342). -/
def execVsub (e : Ext) (s : State) : Host.Outcome State Fault Refusal := onCur s fun t => s.vxIssue t (.vsub e)
/-- VMUL (R342). -/
def execVmul (e : Ext) (s : State) : Host.Outcome State Fault Refusal := onCur s fun t => s.vxIssue t (.vmul e)
/-- VFMA (R342). -/
def execVfma (e : Ext) (s : State) : Host.Outcome State Fault Refusal := onCur s fun t => s.vxIssue t (.vfma e)
/-- VMIN (R342). -/
def execVmin (e : Ext) (s : State) : Host.Outcome State Fault Refusal := onCur s fun t => s.vxIssue t (.vmin e)
/-- VMAX (R342). -/
def execVmax (e : Ext) (s : State) : Host.Outcome State Fault Refusal := onCur s fun t => s.vxIssue t (.vmax e)
/-- VABS (R342). -/
def execVabs (e : Ext) (s : State) : Host.Outcome State Fault Refusal := onCur s fun t => s.vxIssue t (.vabs e)
/-- VNEG (R342). -/
def execVneg (e : Ext) (s : State) : Host.Outcome State Fault Refusal := onCur s fun t => s.vxIssue t (.vneg e)
/-- VRCP (R342). -/
def execVrcp (e : Ext) (s : State) : Host.Outcome State Fault Refusal := onCur s fun t => s.vxIssue t (.vrcp e)
/-- VRSQ (R342). -/
def execVrsq (e : Ext) (s : State) : Host.Outcome State Fault Refusal := onCur s fun t => s.vxIssue t (.vrsq e)
/-- VEXP2 (R342). -/
def execVexp2 (e : Ext) (s : State) : Host.Outcome State Fault Refusal := onCur s fun t => s.vxIssue t (.vexp2 e)
/-- VLOG2 (R342). -/
def execVlog2 (e : Ext) (s : State) : Host.Outcome State Fault Refusal := onCur s fun t => s.vxIssue t (.vlog2 e)
/-- VLUT (R345). -/
def execVlut (e : Ext) (s : State) : Host.Outcome State Fault Refusal := onCur s fun t => s.vxIssue t (.vlut e)
/-- VCMP (R342). -/
def execVcmp (e : Ext) (s : State) : Host.Outcome State Fault Refusal := onCur s fun t => s.vxIssue t (.vcmp e)
/-- VSEL (R342). -/
def execVsel (e : Ext) (s : State) : Host.Outcome State Fault Refusal := onCur s fun t => s.vxIssue t (.vsel e)
/-- VCVT (R342, R94). -/
def execVcvt (e : Ext) (s : State) : Host.Outcome State Fault Refusal := onCur s fun t => s.vxIssue t (.vcvt e)
/-- VSCALE (R342, R94). -/
def execVscale (e : Ext) (s : State) : Host.Outcome State Fault Refusal := onCur s fun t => s.vxIssue t (.vscale e)
/-- VRED (R343). -/
def execVred (e : Ext) (s : State) : Host.Outcome State Fault Refusal := onCur s fun t => s.vxIssue t (.vred e)
/-- VSCAN (R343). -/
def execVscan (e : Ext) (s : State) : Host.Outcome State Fault Refusal := onCur s fun t => s.vxIssue t (.vscan e)
/-- VTOPK (R344). -/
def execVtopk (e : Ext) (s : State) : Host.Outcome State Fault Refusal := onCur s fun t => s.vxIssue t (.vtopk e)
/-- VGATH (R345). -/
def execVgath (e : Ext) (s : State) : Host.Outcome State Fault Refusal := onCur s fun t => s.vxIssue t (.vgath e)
/-- VSCAT (R345). -/
def execVscat (e : Ext) (s : State) : Host.Outcome State Fault Refusal := onCur s fun t => s.vxIssue t (.vscat e)
/-- VFILL (R342). -/
def execVfill (e : Ext) (s : State) : Host.Outcome State Fault Refusal := onCur s fun t => s.vxIssue t (.vfill e)
/-- VIOTA (R342). -/
def execViota (e : Ext) (s : State) : Host.Outcome State Fault Refusal := onCur s fun t => s.vxIssue t (.viota e)
/-- VPACK (R346). -/
def execVpack (e : Ext) (s : State) : Host.Outcome State Fault Refusal := onCur s fun t => s.vxIssue t (.vpack e)
/-- VUNPK (R346). -/
def execVunpk (e : Ext) (s : State) : Host.Outcome State Fault Refusal := onCur s fun t => s.vxIssue t (.vunpk e)

end Sys2Proof.Machine
end

