-- ==== Sys2Proof/Machine/Matrix.lean ====
section
/-! DEFINITION. The matrix engine: its commands (R348 to R355), what they compute (R95 to R100, R349, R353), when they start (R171, R176)
and the ring latch (R173, R174, R351). -/

namespace Sys2Proof.Machine

/-! ## Fields -/

/-- The FUNC of an MMA, MMAS, MALD, MAST or MAZ (R245) and its fields. -/
structure Mx where
  f : Nat
  e : Ext
  deriving DecidableEq, Repr

def mxOf : Instr → Option Mx
  | .mma e => some ⟨0, e⟩ | .mmas e => some ⟨1, e⟩ | .mald e => some ⟨2, e⟩ | .mast e => some ⟨3, e⟩ | .maz e => some ⟨4, e⟩
  | _ => none

namespace Mx
variable (m : Mx)

def bank : Nat := m.e.sh 0 3
def mode : Nat := m.e.sh 3 2
def tile : Nat := m.e.sh 5 2
def fwd : Bool := m.f ≤ 1 && m.e.sh 7 1 == 1
def latch : Bool := m.f ≤ 1 && m.e.sh 8 1 == 1
def bfmt : BitVec 8 := m.e.shape.extractLsb' 12 8
def tmask : Nat := m.e.sh 3 4
/-- An MMA or MMAS. -/
def product : Bool := m.f ≤ 1
def quad : Bool := m.product && m.mode == 3

/-- Bytes of an element of A, of B, and of the operand of MALD and MAST. -/
def wA : Nat := fmtWidth m.e.fmt / 8
def wB : Nat := fmtWidth m.bfmt / 8

/-- Rows of A on one slab, and columns of B (R349). -/
def rowsA : Nat := if m.mode = 1 then 64 else if m.mode = 2 then 128 else 32
def colsB : Nat := if m.mode = 0 then 128 else if m.mode = 1 then 64 else 32

def kOf (n : Word) : Nat := bits n 0 13
/-- Bytes of a row (R349). -/
def rowBytes (w k : Nat) : Nat := ceilDiv (k * w) 64 * 64

/-- The group size G (R95), also the depth of a K-step (R169). -/
def group : Nat := if m.e.x then 1 else if max m.wA m.wB = 1 then 16 else if max m.wA m.wB = 2 then 8 else 2
/-- K-steps, a binary64 one counted once (R176). -/
def steps (k : Nat) : Nat := ceilDiv k m.group
/-- Cycles of a K-step of binary64 (R169). -/
def stepCycles : Nat := if m.e.x then 8 else 1

/-- The tiles that the command names on a slab: tile, first row, first column (R169, R349, R353). -/
def tiles : List (Nat × Nat × Nat) :=
  if !m.product then ([0, 1, 2, 3].filter fun t => m.tmask / 2 ^ t % 2 = 1).map fun t => (t, 0, 32 * t)
  else if m.mode = 0 then [(0, 0, 0), (1, 0, 32), (2, 0, 64), (3, 0, 96)]
  else if m.mode = 1 then [(0, 0, 0), (1, 0, 32), (2, 32, 0), (3, 32, 32)]
  else if m.mode = 2 then [(0, 0, 0), (1, 32, 0), (2, 64, 0), (3, 96, 0)]
  else [(m.tile, 0, 0)]

/-- The checks of the register operands of MMA and MMAS (R350). -/
def paramsOk (c n : Word) : Bool :=
  let k := kOf n
  bits n 13 51 == 0 && 16 ≤ k && k ≤ 4096 && bits c 48 16 == 0 &&
  bits c 0 24 % 64 == 0 && bits c 24 24 % 64 == 0 && rowBytes m.wA k ≤ bits c 0 24 && rowBytes m.wB k ≤ bits c 24 24 &&
  (!m.fwd || m.colsB * rowBytes m.wB k ≤ 131072)

end Mx

/-- Index of a tile of a bank of a slab. -/
def tileIdx (slab bank t : Nat) : Nat := (slab * 8 + bank) * 4 + t

/-- An unlisted tile: zero, with β = 0 (R100). -/
def TileW.zero (i : Nat) : TileW := { idx := i, data := [], beta := FVal.zero, susp := false }

/-- An element of a tile, row by row. -/
def TileW.at (t : TileW) (i : Nat) : W32 := t.data.getD i 0

/-! ## Operands of MMA and MMAS -/

/-- The earlier of two stops. -/
def earlier : Option (Nat × Stop) → Option (Nat × Stop) → Option (Nat × Stop)
  | some x, some y => if y.1 < x.1 then some y else some x
  | none, y => y
  | x, none => x

/-- Reads `rows` rows of `nb` blocks; `per` elements a block, `g` elements a K-step. -/
def mxRead (get : Nat → Nat → Except Stop Typed) (rows nb per g : Nat) : MxSrc :=
  let all := (List.range rows).map fun i => (List.range nb).map fun b => (b * per / g, get i b)
  { rows := all.map fun r => r.map fun x => match x.2 with | .ok t => t | .error _ => ⟨{ pa := 0, data := [], desc := 0, psn := [] }, 0x60, 127⟩
    bad := (all.flatMap id).foldl (fun a x => match x.2 with | .ok _ => a | .error e => earlier a (some (x.1, e))) none }

namespace MxSrc
variable (x : MxSrc)

def block (i b : Nat) : Option Typed := (x.rows.getD i []).getD b ⟨{ pa := 0, data := [], desc := 0, psn := [] }, 0x60, 127⟩
/-- Element k of a row. -/
def val (per i k : Nat) : FVal := match x.block i (k / per) with | some b => b.elem (k % per) | none => FVal.zero
/-- Element k of a row is present: not left out of a sparse block (R89). -/
def has (per i k : Nat) : Bool :=
  match x.block i (k / per) with
  | some b => (blockCode b.code b.b.data (k % per)).isSome
  | none => false
end MxSrc

namespace State
variable (s : State)

/-- Operand A of a slab's rows from `r0` on. -/
def mxA (c : Cmd) (m : Mx) (r0 rows : Nat) : MxSrc :=
  let k := Mx.kOf c.n
  let o : Opnd := { num := 0, base := c.a.toNat, decl := m.e.fmt, instr := m.e.fsrc, sparse := m.f == 1, mx := true }
  let nb := Mx.rowBytes m.wA k / 64
  mxRead (fun i b => s.operandBlock c { o with blk := some ((r0 + i) * nb + b) } (c.a.toNat + (r0 + i) * bits c.c 0 24 + 64 * b)) rows nb
    (64 / m.wA) m.group

/-- Operand B from S1, or from a ring image (R173). -/
def mxB (c : Cmd) (m : Mx) (img : Option RingImage) : MxSrc :=
  let k := Mx.kOf c.n
  let nb := Mx.rowBytes m.wB k / 64
  let get (i b : Nat) : Except Stop Typed :=
    match img with
    | some g =>
      let x := g.blocks.getD (i * nb + b) ([], 0, [])
      Opnd.typed { num := 4, base := 0, decl := m.bfmt, instr := m.e.fsrc, sparse := m.f == 1, mx := true, blk := some (i * nb + b) }
        { pa := 0, data := x.1, desc := x.2.1, psn := x.2.2 } 0 0
    | none =>
      s.operandBlock c { num := 1, base := c.b.toNat, decl := m.bfmt, instr := m.e.fsrc, sparse := m.f == 1, mx := true, blk := some (i * nb + b) }
        (c.b.toNat + i * bits c.c 24 24 + 64 * b)
  mxRead get m.colsB nb (64 / m.wB) m.group

end State

/-! ## Sums (R96 to R99) -/

/-- The product of two elements; in MMAS, +0 where either is absent (R99). -/
def product (m : Mx) (a b : MxSrc) (i n k : Nat) : FVal :=
  if m.f = 1 && !(a.has (64 / m.wA) i k && b.has (64 / m.wB) n k) then FVal.zero
  else fMul (a.val (64 / m.wA) i k) (b.val (64 / m.wB) n k)

/-- The exact sum of products lo .. lo + n of an output element; −0 only where every product is −0 (R96). -/
def groupSum (f : Nat → FVal) (lo : Nat) : Nat → FVal
  | 0 => FVal.zero
  | 1 => f lo
  | n + 2 => fAdd false (groupSum f lo (n + 1)) (f (lo + n + 1))

/-- A binary32 accumulator after `n` groups, in ascending k, one rounding a group (R96). -/
def acc32 (f : Nat → FVal) (g k : Nat) (acc : W32) : Nat → W32
  | 0 => acc
  | n + 1 =>
    let a := acc32 f g k acc n
    BitVec.ofNat 32 (roundFloat f32 0 false 0 (fAdd false (floatVal f32 a.toNat) (groupSum f (n * g) (min g (k - n * g)))))

/-- A binary64 accumulator after `n` fused multiply-adds (R98). -/
def acc64 (f : Nat → FVal) (acc : Word) : Nat → Word
  | 0 => acc
  | n + 1 => wd (roundFloat f64 0 false 0 (fAdd false (floatVal f64 (acc64 f acc n).toNat) (f n)))

/-! ## The suspect bound (R100) -/

/-- The largest scale and the largest max among the blocks of rows in [k0, k1); blocks whose scale is 255 take no part. -/
def segMax (x : MxSrc) (per r0 k0 k1 : Nat) : Option (Nat × FVal) :=
  let bs := (List.range 32).flatMap fun i => (List.range (ceilDiv k1 per - k0 / per)).filterMap fun b => x.block (r0 + i) (k0 / per + b)
  (bs.filter fun b => !(scaled b.code && b.sc = 255)).foldl (fun a b =>
    let mx := fmtMax b.code
    match a with
    | none => some (b.sc, mx)
    | some (sc, y) => some (max sc b.sc, if fLt y mx then mx else y)) none

/-- β after the segments of L elements below `stop` (R100). -/
def betaAfter (fmt : Fmt) (m : Mx) (a b : MxSrc) (r0 c0 k stop : Nat) (beta : FVal) : FVal :=
  let l := min (64 / m.wA) (64 / m.wB)
  (List.range (ceilDiv stop l)).foldl (fun be j =>
    match segMax a (64 / m.wA) r0 (j * l) (min k (j * l + l)), segMax b (64 / m.wB) c0 (j * l) (min k (j * l + l)) with
    | some (sa, ma), some (sb, mb) =>
      floatVal fmt (roundFloat fmt 3 false 0 (fAdd false be (((fMul ma mb).scale ((sa : Int) + sb - 254)) |> fMul (ofInt l 0))))
    | _, _ => be) beta

/-- A finite element lies beyond the bound (R100). -/
def suspect (fmt : Fmt) (beta : FVal) (codes : List Nat) : Bool :=
  !beta.isInf && codes.any fun n => let v := floatVal fmt n; v.isFin && fLt beta v.abs

/-! ## The time of MMAS (R352) -/

/-- Products of K-step `j` whose elements are both present in a tile. -/
def pairs (m : Mx) (a b : MxSrc) (r0 c0 k j : Nat) : Nat :=
  ((List.range (min m.group (k - j * m.group))).map fun x =>
    let kk := j * m.group + x
    ((List.range 32).filter fun i => a.has (64 / m.wA) (r0 + i) kk).length *
    ((List.range 32).filter fun n => b.has (64 / m.wB) (c0 + n) kk).length).sum

/-- Cycles of the first `n` K-steps (R176, R352); `as` holds the A operand of each slab. -/
def stepTime (m : Mx) (as : List MxSrc) (b : MxSrc) (k n : Nat) : Nat :=
  if m.f = 1 then
    let quarters := as.flatMap fun a => m.tiles.map fun (_, r0, c0) =>
      ((List.range n).map fun j => max 1 (ceilDiv (4 * pairs m a b r0 c0 k j) (1024 * m.group))).sum
    ceilDiv (quarters.foldl max 0 * m.stepCycles) 4
  else n * m.stepCycles

/-! ## What the commands compute -/

namespace State
variable (s : State)

def slabs (u : Nat) : Nat := if s.ganged u then 2 else 1
def tileOf (u i : Nat) : TileW := (mget (s.unit u).tiles i).getD (TileW.zero i)

/-- The tile pair of a binary64 command, or the tile, with new element codes, β and suspect bit (R100, R170). -/
def tilesOf (u : Nat) (x : Bool) (slab bank t : Nat) (codes : List Nat) (beta odd : FVal) (susp : Bool) : List TileW :=
  let i := tileIdx slab bank t
  { s.tileOf u i with data := codes.map fun n => BitVec.ofNat 32 n, beta := beta, susp := susp } ::
  (if x then [{ s.tileOf u (i + 4) with data := codes.map (fun n => BitVec.ofNat 32 (n / 2 ^ 32)), beta := odd, susp := false }] else [])

/-- The code of an element of a tile, or of a binary64 pair (R170). -/
def tileCode (u : Nat) (x : Bool) (slab bank t i : Nat) : Nat :=
  ((s.tileOf u (tileIdx slab bank t)).at i).toNat +
    (if x then ((s.tileOf u (tileIdx slab (bank + 1) t)).at i).toNat * 2 ^ 32 else 0)

/-- A tile after the first `n` groups of a command (R96, R98, R349), where it has added any; `done`: the command's results are final. -/
def mmaTile (c : Cmd) (m : Mx) (a b : MxSrc) (slab n : Nat) (done : Bool) (p : Nat × Nat × Nat) : List TileW :=
  let (t, r0, c0) := p
  let u := c.t.unit
  let k := Mx.kOf c.n
  let fmt := if m.e.x then f64 else f32
  let codes := (List.range 1024).map fun i =>
    let f := product m a b (r0 + i / 32) (c0 + i % 32)
    let old := s.tileCode u m.e.x slab m.bank t i
    if m.e.x then (acc64 f (wd old) n).toNat else (acc32 f m.group k (BitVec.ofNat 32 old) n).toNat
  let was := s.tileOf u (tileIdx slab m.bank t)
  let beta := betaAfter fmt m a b r0 c0 k (min k (n * m.group)) was.beta
  if n = 0 then [] else s.tilesOf u m.e.x slab m.bank t codes beta (.inf false) (was.susp || (done && suspect fmt beta codes))

/-- The number of K-steps that fit in some cycles. -/
def stepsIn (time : Nat → Nat) (cycles : Nat) : Nat → Nat
  | 0 => 0
  | n + 1 => if time (n + 1) ≤ cycles then n + 1 else stepsIn time cycles n

/-- The cycle, from the first K-step, in which the first `n` K-steps of a command are over; `time`: the cycles that they take themselves. A K-step on
LATCH data waits for it (R173). -/
def stepsEnd (c : Cmd) (time : Nat → Nat) (n : Nat) : Nat :=
  match c.waits with
  | some l => (l.take n).zipIdx.foldl (fun x (w, j) => max x (w + (time n - time j))) (time n)
  | none => time n

/-- The cycle in which K-step `j` begins. -/
def stepStart (c : Cmd) (time : Nat → Nat) (j : Nat) : Nat := max (stepsEnd c time j) ((c.waits.getD []).getD j 0)

/-- The cycles of the first K-steps of an MMA or MMAS, without those that it had done before a pre-emption (R177). -/
def mmaTime (c : Cmd) (m : Mx) (as : List MxSrc) (b : MxSrc) (n : Nat) : Nat :=
  stepTime m as b (Mx.kOf c.n) n - stepTime m as b (Mx.kOf c.n) c.kdone

/-- Where an MMA or MMAS stops before its end: at the first K-step whose LATCH data does not come, or that reads a block it cannot use (R158,
R174). -/
def mmaStop (c : Cmd) (m : Mx) (as : List MxSrc) (b : MxSrc) : Option (Nat × Stop) :=
  let bad := earlier (as.foldl (fun z a => earlier z a.bad) none) b.bad
  match c.waits with
  | some l => if l.length < m.steps (Mx.kOf c.n) then earlier (some (l.length, .fault { cause := 0x022, detail := 0, va := 0, pa := 0 })) bad else bad
  | none => bad

/-- An MMA or MMAS whose operands are read: all of it, or what it has done when it stops (R158, R355). `elapsed`: cycles since its first K-step,
where it is cancelled. With the result go the cycles of its K-steps. A stall on the ring ends it after 108,000 cycles (R174). -/
def mmaRun (c : Cmd) (m : Mx) (as : List MxSrc) (b : MxSrc) (elapsed : Option Nat) : CmdResult × Nat :=
  let time := mmaTime c m as b
  let bad := mmaStop c m as b
  let all := m.steps (Mx.kOf c.n)
  let upTo := match bad with | some x => min x.1 all | none => all
  let n := match elapsed with | some cy => stepsIn (stepsEnd c time) cy upTo | none => upTo
  let tiles := as.zipIdx.flatMap fun (a, slab) => m.tiles.flatMap (s.mmaTile c m a b slab n (bad.isNone && elapsed.isNone))
  let dry (j : Nat) : Bool := c.waits.any fun l => j == l.length
  let r : CmdResult := match bad with
    | some (j, e) => { stopped (if dry j then stepsEnd c time j + 108000 else stepStart c time j) [] e with tiles := tiles }
    | none => { blocks := [], tiles := tiles, fault := none, restart := none, steps := 0 }
  (r, stepsEnd c time all)

/-- The cycles, from the first K-step, in which a command reads the B of its K-steps, up to that at which it stops. -/
def mxSent (c : Cmd) (m : Mx) : List Nat :=
  match c.read with
  | .mx as b =>
    let all := m.steps (Mx.kOf c.n)
    (List.range (match mmaStop c m as b with | some x => min x.1 all | none => all)).map (stepStart c (mmaTime c m as b))
  | _ => []

/-! ### MALD, MAST and MAZ (R353) -/

/-- The blocks of a row that hold elements of the selected tiles, in order. -/
def maBlocks (m : Mx) : List Nat :=
  (List.range (2 * m.wA)).filter fun b => m.tiles.any fun p => meets (64 * b) 64 (32 * p.1 * m.wA) (32 * m.wA)

/-- A block of the region of MALD. -/
def maldBlock (c : Cmd) (m : Mx) (row b : Nat) : Except Stop Typed :=
  s.operandBlock c { num := 0, base := c.a.toNat, decl := m.e.fmt, instr := m.e.fsrc, sparse := true, mx := true, blk := some (row * (2 * m.wA) + b) }
    (c.a.toNat + row * c.c.toNat + 64 * b)

/-- The blocks that MALD reads in order, up to the first that it cannot read. -/
def maldRead (c : Cmd) (m : Mx) : List (Nat × Nat) → List (Nat × Nat × Typed) → List (Nat × Nat × Typed) × Option (Nat × Stop)
  | [], acc => (acc.reverse, none)
  | (row, b) :: r, acc =>
    match s.maldBlock c m row b with
    | .ok t => maldRead c m r ((row, b, t) :: acc)
    | .error e => (acc.reverse, some (row, e))

/-- Rows of the region of a unit, and the cycle after the first in which a MALD, MAST or MAZ reads or forms a row: all of them within 16 cycles
(R171). DESIGN CHOICE: the rows are spread evenly over the 16 (log entry 91); the manual does not say in which cycle each comes. -/
def maRows (u : Nat) : Nat := 32 * s.slabs u
def maCycle (u row : Nat) : Nat := row * 16 / s.maRows u

def maOrder (u : Nat) (m : Mx) : List (Nat × Nat) := (List.range (s.maRows u)).flatMap fun r => (maBlocks m).map fun b => (r, b)

/-- MALD of the blocks that it has read (R353): the loaded elements, β and the suspect bits. -/
def maldRun (c : Cmd) (m : Mx) (r : List (Nat × Nat × Typed) × Option (Nat × Stop)) (elapsed : Option Nat) : CmdResult :=
  let u := c.t.unit
  let r : List (Nat × Nat × Typed) × Option (Nat × Stop) := match elapsed with
    | some cy => (r.1.filter fun x => s.maCycle u x.1 < cy, r.2.filter fun x => s.maCycle u x.1 < cy)
    | none => r
  let fmt := if m.e.x then f64 else f32
  let whole := r.2.isNone && elapsed.isNone
  let per := 64 / m.wA
  let new (slab t i : Nat) : Option Nat :=
    let col := 32 * t + i % 32
    (r.1.find? fun x => x.1 == 32 * slab + i / 32 && x.2.1 == col / per).map fun x => roundFloat fmt 0 false 0 (x.2.2.elem (col % per))
  let tiles := (List.range (s.slabs u)).flatMap fun slab => m.tiles.flatMap fun p =>
    let was := s.tileOf u (tileIdx slab m.bank p.1)
    let es := (List.range 1024).map (new slab p.1)
    let mag := es.foldl (fun a e => match e with
      | some n => let v := (floatVal fmt n).abs; if v.isFin && fLt a v then v else a
      | none => a) FVal.zero
    if es.all (·.isNone) then [] else s.tilesOf u m.e.x slab m.bank p.1 (es.zipIdx.map fun e => e.1.getD (s.tileCode u m.e.x slab m.bank p.1 e.2))
      (if whole then mag else if fLt was.beta mag then mag else was.beta) (.inf false) (if whole then false else was.susp)
  match r.2 with
  | some (row, e) => { stopped (s.maCycle u row) [] e with tiles := tiles }
  | none => { blocks := [], tiles := tiles, fault := none, restart := none, steps := 0 }

/-- MAZ (R353). -/
def mazRun (c : Cmd) (m : Mx) (elapsed : Option Nat) : CmdResult :=
  let u := c.t.unit
  let tiles := if elapsed.isSome then [] else
    (List.range (s.slabs u)).flatMap fun slab => m.tiles.flatMap fun p =>
      s.tilesOf u m.e.x slab m.bank p.1 (List.replicate 1024 0) FVal.zero FVal.zero false
  { blocks := [], tiles := tiles, fault := none, restart := none, steps := 0 }

/-- A destination block of MAST (R353): its elements from the tiles, converted. -/
def mastBlock (c : Cmd) (m : Mx) (row b : Nat) : BlockW :=
  let u := c.t.unit
  let per := 64 / m.wA
  let fmt := if m.e.x then f64 else f32
  let ts := m.tiles.map (·.1)
  let xs := (List.range per).map fun j =>
    let col := b * per + j
    (col, floatVal fmt (s.tileCode u m.e.x (row / 32) m.bank (col / 32) (32 * (row % 32) + col % 32)))
  let sc := blockScale m.e.fmt m.e.smode m.e.scl (xs.map (·.2))
  let codes := xs.map fun (col, x) =>
    let pos := row * 32 * ts.length + 32 * ts.findIdx (· == col / 32) + col % 32
    let r := if m.e.rm = 5 then srDraw c.seed (bits c.p7 32 32) (bits c.p7 0 32 + pos) else 0
    convert m.e.fmt m.e.rm.toNat m.e.sat r (x.scale (127 - (sc : Int)))
  { pa := s.s1Pa c.ltag u (c.d.toNat + row * c.c.toNat + 64 * b), data := packDense (fmtWidth m.e.fmt) codes,
    desc := BitVec.ofNat 16 (m.e.fmt.toNat + sc * 256), psn := [] }

/-- MAST (R353). -/
def mastRun (c : Cmd) (m : Mx) (elapsed : Option Nat) : CmdResult :=
  let order := s.maOrder c.t.unit m
  let order : List (Nat × Nat) := match elapsed with | some cy => order.filter fun x => s.maCycle c.t.unit x.1 < cy | none => order
  whole (order.map fun x => s.mastBlock c m x.1 x.2)

/-- What the engine reads for a matrix command. -/
def mxFetch (c : Cmd) (m : Mx) (img : Option RingImage) : EngRead :=
  match m.f with
  | 0 | 1 => .mx ((List.range (s.slabs c.t.unit)).map fun slab => s.mxA c m (slab * m.rowsA) m.rowsA) (s.mxB c m img)
  | 2 => let r := s.maldRead c m (s.maOrder c.t.unit m) []; .mald r.1 r.2
  | _ => .none

/-- What a matrix command does with what was read for it, and the cycles of its K-steps (R176). -/
def mxRun (c : Cmd) (m : Mx) (elapsed : Option Nat) : CmdResult × Nat :=
  match m.f with
  | 0 | 1 => (match c.read with | .mx as b => s.mmaRun c m as b elapsed | _ => (whole [], 0))
  | 2 => (match c.read with | .mald bs bad => s.maldRun c m (bs, bad) elapsed | _ => whole [], 16)
  | 3 => (s.mastRun c m elapsed, 16)
  | _ => (s.mazRun c m elapsed, 16)

/-! ## The ring (R21, R22, R173, R174, R351) -/

/-- The next unit of the gang of a command's crew (R21). -/
def downstream (c : Cmd) : Nat :=
  let size := match s.launch? c.ltag with | some l => l.gsize | none => 1
  if c.crew + 1 < size then c.t.unit + 1 else c.t.unit - c.crew

def slotOf (u i : Nat) : LatchSlot := if i = 0 then (s.unit u).latch0 else (s.unit u).latch1
def setSlot (u i : Nat) (x : LatchSlot) : State := s.onUnit u fun y => if i = 0 then { y with latch0 := x } else { y with latch1 := x }

/-- A latch slot is free from the next cycle on. -/
def emptySlot (u i : Nat) : State := s.setSlot u i { LatchSlot.reset with order := s.now + 1 }

/-- Images on their way to a unit. -/
def inFlight (u : Nat) : Nat := (s.agenda.filter fun e => match e.ev.op with | .ringBArrive v _ => v == u | _ => false).length

/-- Slots of a unit that no data holds or is on its way to. -/
def freeLatch (u : Nat) : Nat := b01 ((s.slotOf u 0).st == .free) + b01 ((s.slotOf u 1).st == .free) - s.inFlight u

/-- The slot whose data a LATCH command takes: the one that arrived first of those filling or full (R173). -/
def takeableSlot (u : Nat) : Option Nat :=
  let ok (i : Nat) := (s.slotOf u i).st == .filling || (s.slotOf u i).st == .full
  if ok 0 && ok 1 then some (if (s.slotOf u 1).order < (s.slotOf u 0).order then 1 else 0)
  else if ok 0 then some 0 else if ok 1 then some 1 else none

/-- Units whose MX has a command that has not taken its first K-step look again. -/
def nudgeMx : State :=
  s.units.foldl (fun s e =>
    if e.2.cmds.any fun c => c.eng == .mx && c.res.isNone && !c.cancelled then s.sched 0 (rankEng e.1 .mx) (.mxStart e.1) else s) s

/-- A stall on the ring has ended the command, or is to end it, after its first K-step (R174). -/
def ranDry (c : Cmd) : Bool := c.latch.isSome && c.res.any fun r => r.fault.any fun f => f.cause == 0x022

/-- The slot of a LATCH command is free again: its consumed post frees it, and a shape that differs (R173, R351). A stall on the ring leaves it as
it is (R174): another command may take it. -/
def freeSlotOf (u : Nat) (c : Cmd) : State :=
  match c.latch with
  | some i => if ranDry c && !c.cancelled then s.setSlot u i { s.slotOf u i with st := .filling } else (s.emptySlot u i).nudgeMx
  | none => s

/-- The image that a forwarding command sends on (R351), its K-steps' data in the cycles `times` after the first. -/
def imageOf (c : Cmd) (m : Mx) (img : Option RingImage) (times : List Nat) : RingImage :=
  let k := Mx.kOf c.n
  let nb := Mx.rowBytes m.wB k / 64
  let g : RingImage := img.getD
    { cb := m.colsB, k := k, wb := 8 * m.wB, cls := fmtClass m.bfmt, src := (0, 0), group := 0, times := [],
      blocks := (List.range (m.colsB * nb)).map fun n =>
        let b := s.readBlock (s.s1Pa c.ltag c.t.unit (c.b.toNat + n / nb * bits c.c 24 24 + 64 * (n % nb)))
        (b.data, b.desc, b.psn) }
  { g with src := (c.t.unit, c.id), group := m.group, times := times }

/-! ## Start (R171, R176) -/

/-- Tiles that a command reads or writes, and those that it writes. -/
def mxTouches (u : Nat) (m : Mx) : List Nat :=
  (List.range (s.slabs u)).flatMap fun slab => m.tiles.flatMap fun p =>
    tileIdx slab m.bank p.1 :: (if m.e.x then [tileIdx slab (m.bank + 1) p.1] else [])
def mxWrites (u : Nat) (c : Cmd) : List Nat :=
  match mxOf c.ins with
  | some m => if m.f = 3 then [] else s.mxTouches u m
  | none => []

/-- An earlier command that has not ended writes a tile that this one touches (R171). -/
def tileHeld (u : Nat) (c : Cmd) (m : Mx) : Bool :=
  ((s.unit u).cmds.takeWhile fun x => x.id != c.id).any fun x => x.eng == .mx && (s.mxWrites u x).any (s.mxTouches u m).contains

def mxStalled (u : Nat) : Option Cmd := (s.unit u).cmds.find? fun c => c.eng == .mx && c.start.isSome && c.res.isNone && !c.cancelled
def mxNext (u : Nat) : Option Cmd := (s.unit u).cmds.find? fun c => c.eng == .mx && c.start.isNone && !c.cancelled

/-- The sub-arrays that a command takes if it starts now, if they are free in time (R171). -/
def mxSubs (u : Nat) (m : Mx) : Option (List Nat) :=
  let ok (i : Nat) := decide ((s.unit u).subFree.getD i 0 ≤ s.now + 14)
  if m.quad then ([0, 1, 2, 3].find? ok).map fun i => [i] else if [0, 1, 2, 3].all ok then some [0, 1, 2, 3] else none

/-- A command with its result: its sub-arrays are free after its last K-step (R171), and its posts follow (R176), or its fault (R158, R351, R353); a
stall that the ring ends has its posts at its end (R174). -/
def mxEnds (u : Nat) (c : Cmd) (m : Mx) (fits : Bool) (r : CmdResult) (len : Nat) : State :=
  let busy := match r.fault with | some _ => r.steps + b01 fits | none => len
  let due := match r.fault with
    | some f => r.steps + (if m.f = 2 then 20 else if c.latch.isSome && f.cause == 0x022 then 0 else 21)
    | none => len + 20
  let s := s.onCmd u c.id fun _ => { c with doneAt := c.first + due, res := some r }
  let s := s.onUnit u fun x => { x with subFree := x.subFree.zipIdx.map fun e => if c.subs.contains e.2 then c.first + busy else e.1 }
  match r.fault with
  | some _ => s.sched (c.first + due - s.now) (rankEng u .mx) (.engineFault u c.id)
  | none =>
    (if c.csem.isSome || m.f ≤ 2 then s.sched (c.first + len - s.now) (rankEng u .mx) (.consumedPost u c.id) else s).sched (c.first + due - s.now)
      (rankEng u .mx) (.donePost u c.id)

/-- The earliest cycle, from the first K-step `first`, of each K-step whose LATCH data comes: two cycles after the data that it reads (R173,
R176). -/
def latchWaits (c : Cmd) (m : Mx) (order first : Nat) (g : RingImage) : List Nat :=
  let k := Mx.kOf c.n
  ((List.range (m.steps k)).map fun j => g.times[(min k ((j + 1) * m.group) - 1) / g.group]?).reduceOption.map fun t => order + t + 2 - first

/-- The command takes its first K-step in cycle `first`; each K-step on LATCH data comes two cycles after the data at the earliest (R173, R176). What
it forwards leaves as it is read (R22), but for what it had sent before a pre-emption (R177). -/
def mxGo (u : Nat) (c : Cmd) (m : Mx) (first : Nat) (slot : Option Nat) : State :=
  let img := match slot with | some i => (s.slotOf u i).img | none => none
  let fits := match img with | some g => g.cb == m.colsB && g.k == Mx.kOf c.n && g.wb == 8 * m.wB | none => true
  let shape : Word := match img with
    | some g => Config.shapeRecord g.cb g.k g.wb g.cls
    | none => 0
  let c := { c with
    first := first, latch := if fits then slot else none, read := if fits then s.mxFetch c m img else .none,
    waits := match slot, img with | some i, some g => some (latchWaits c m (s.slotOf u i).order first g) | _, _ => none }
  let q := if fits then s.mxRun c m none else (stopped 0 [] (.fault { cause := 0x023, detail := shape, va := 0, pa := 0 }), 0)
  let s := match slot with
    | some i => if fits then s.setSlot u i { s.slotOf u i with st := .read } else (s.emptySlot u i).nudgeMx
    | none => s
  let sent := mxSent c m
  let s := if m.fwd && sent != [] && c.kdone = 0 then
      s.sched (first - s.now + 6) rankLate (.ringBArrive (s.downstream c) (s.imageOf c m img sent))
    else s
  s.mxEnds u c m fits q.1 q.2

/-- A forwarding command has stopped after the data of `n` K-steps: no more comes downstream, and a command there that reads it stops where it
ends, and with it what that command forwards in its turn (R158, R173). -/
def cutRing : Nat → State → Cmd → Nat → State
  | 0, s, _, _ => s
  | fuel + 1, s, c, n =>
    let v := s.downstream c
    let mine (g : RingImage) : Bool := g.src == (c.t.unit, c.id) && n < g.times.length
    let cut (g : RingImage) : RingImage := if mine g then { g with times := g.times.take n } else g
    let reads (x : Cmd) : Bool := match x.latch with | some i => (s.slotOf v i).img.any mine | none => false
    let hit := (s.unit v).cmds.filter fun x => x.eng == .mx && x.res.isSome && x.stopAt.isNone && reads x
    let s : State := { s with agenda := s.agenda.filterMap fun e => match e.ev.op with
      | .ringBArrive w g => if w == v && mine g && n == 0 then none else some { e with ev := { e.ev with op := .ringBArrive w (cut g) } }
      | _ => some e }
    let s := s.onUnit v fun y => { y with latch0 := { y.latch0 with img := y.latch0.img.map cut },
                                          latch1 := { y.latch1 with img := y.latch1.img.map cut } }
    hit.foldl (fun s x => match mxOf x.ins, x.latch, x.latch.bind fun i => (s.slotOf v i).img with
      | some m, some i, some g =>
        let y := { x with waits := some (latchWaits x m (s.slotOf v i).order x.first g) }
        let q := s.mxRun y m none
        if some q.1 = x.res then s.onCmd v x.id fun _ => y
        else
          let s := { s with agenda := s.agenda.filter fun e => match e.ev.op with
            | .consumedPost w j => !(w == v && j == x.id)
            | .donePost w j => !(w == v && j == x.id)
            | .engineFault w j => !(w == v && j == x.id)
            | _ => true }
          let s := s.mxEnds v y m true q.1 q.2
          if m.fwd && x.kdone = 0 then cutRing fuel s y (mxSent y m).length else s
      | _, _, _ => s) s

/-- A command that stops sends no more of B than the K-steps that it has begun have read. -/
def stopSending (c : Cmd) : State :=
  match mxOf c.ins with
  | some m =>
    let sent := mxSent c m
    let n := (sent.filter fun t => c.first + t < s.now).length
    if m.fwd && c.res.isSome && c.kdone = 0 && n < sent.length then cutRing 32 s c n else s
  | none => s

/-- A command that has started waits for the ring, or goes on (R173, R174). -/
def mxRing (u : Nat) (c : Cmd) (m : Mx) (fresh : Bool) : State :=
  let slot := if m.latch then s.takeableSlot u else none
  if (m.latch && slot.isNone) || (m.fwd && s.freeLatch (s.downstream c) = 0) then
    if fresh then s.sched (14 + 108000) rankLate (.ringTimeout u c.id) else s
  else
    let c14 := (c.start.getD s.now) + 14
    let first := match slot with
      | some i => max c14 (max s.now ((s.slotOf u i).order + 2))
      | none => max c14 s.now
    let s := s.mxGo u c m first slot
    if (s.mxNext u).isSome then s.sched 0 (rankEng u .mx) (.mxStart u) else s

/-- The MX looks for the command that starts now (R171). -/
def mxBegin (u : Nat) : State :=
  match s.mxStalled u with
  | some c => if s.stopping c.ltag u then s else (match mxOf c.ins with | some m => s.mxRing u c m false | none => s)
  | none =>
    match s.mxNext u with
    | none => s
    | some c =>
      match mxOf c.ins with
      | none => s
      | some m =>
        if s.tileHeld u c m || s.stopping c.ltag u then s
        else match s.mxSubs u m with
          | none =>
            let t := ((s.unit u).subFree.filter fun f => s.now + 14 < f).foldl min (s.now + 65536 + 14)
            s.sched (t - 14 - s.now) (rankEng u .mx) (.mxStart u)
          | some subs =>
            if s.yields c false then s.yield c (.mxStart u) else
            let c := { c with start := some s.now, subs := subs }
            (s.onCmd u c.id fun _ => c).mxRing u c m true

/-! ## Issue (R327, R350, R353) -/

/-- The register checks of a matrix command. -/
def mxParamsOk (c : Cmd) (m : Mx) : Bool :=
  if m.product then m.paramsOk c.c c.n
  else m.f = 4 || (c.c.toNat % 64 == 0 && 128 * m.wA ≤ c.c.toNat)

/-- The operand ranges of a command: address, length, whether it is a destination (R350, R351, R353). -/
def mxRanges (u : Nat) (c : Cmd) (m : Mx) : List (Nat × Nat × Bool) :=
  let k := Mx.kOf c.n
  if m.product then
    (c.a.toNat, (s.slabs u * m.rowsA - 1) * bits c.c 0 24 + Mx.rowBytes m.wA k, false) ::
    (if m.latch then [] else [(c.b.toNat, (m.colsB - 1) * bits c.c 24 24 + Mx.rowBytes m.wB k, false)])
  else if m.f = 4 then []
  else [((if m.f = 2 then c.a else c.d).toNat, (s.maRows u - 1) * c.c.toNat + 128 * m.wA, m.f == 3)]

/-- Issues a matrix command. -/
def mxIssue (t : Thread) (i : Instr) : State :=
  match mxOf i with
  | none => s
  | some m =>
    let c := s.newCmd t .mx i m.e true
    if !mxParamsOk c m then s.illegal t 3 0
    else
      let rs := s.mxRanges t.unit c m
      match rs.find? fun r => r.1 % 64 != 0 || (s.s1Range t r.1 r.2.1).isNone with
      | some r => s.fault t (infoVa 3 (wd r.1) false 0) (wd r.1)
      | none =>
        s.engIssue t m.e.sm c (rs.map fun r => ((s.s1Range t r.1 r.2.1).getD [], r.2.2)) fun s =>
          s.sched 0 (rankEng t.unit .mx) (.mxStart t.unit)

end State

/-- MX_START (R171, R176). -/
def execMxStart (unit : Nat) (s : State) : Host.Outcome State Fault Refusal := event (s.mxBegin unit)

/-- RING_B_ARRIVE (R22, R173): the first line of a forwarded B fills the oldest free slot. -/
def execRingBArrive (unit : Nat) (img : RingImage) (s : State) : Host.Outcome State Fault Refusal :=
  event <|
    let slot : LatchSlot := { st := .filling, img := some img, order := s.now }
    let f0 := (s.slotOf unit 0).st == .free
    let f1 := (s.slotOf unit 1).st == .free
    let first := f0 && !(f1 && (s.slotOf unit 1).order < (s.slotOf unit 0).order)
    (if first then s.setSlot unit 0 slot else if f1 then s.setSlot unit 1 slot else s).nudgeMx

/-- RING_TIMEOUT (R174, R389): a command that has still not taken its first K-step ends; the latch stays as it is. -/
def execRingTimeout (unit : Nat) (id : Nat) (s : State) : Host.Outcome State Fault Refusal :=
  event <| match s.cmd? unit id with
  | some c =>
    if c.res.isSome || c.cancelled || s.stopping c.ltag unit then s
    else
      (s.onCmd unit id fun c => { c with
        doneAt := s.now, res := some (State.stopped 0 [] (.fault { cause := 0x022, detail := wd ((s.unit unit).latchBits s.now), va := 0,
                                                                   pa := 0 })) }).sched 0
          (rankEng unit .mx) (.engineFault unit id)
  | none => s

/-! ## The instructions -/

/-- MMA (R348 to R351). -/
def execMma (e : Ext) (s : State) : Host.Outcome State Fault Refusal := onCur s fun t => s.mxIssue t (.mma e)
/-- MMAS (R348 to R352). -/
def execMmas (e : Ext) (s : State) : Host.Outcome State Fault Refusal := onCur s fun t => s.mxIssue t (.mmas e)
/-- MALD (R353). -/
def execMald (e : Ext) (s : State) : Host.Outcome State Fault Refusal := onCur s fun t => s.mxIssue t (.mald e)
/-- MAST (R353). -/
def execMast (e : Ext) (s : State) : Host.Outcome State Fault Refusal := onCur s fun t => s.mxIssue t (.mast e)
/-- MAZ (R353). -/
def execMaz (e : Ext) (s : State) : Host.Outcome State Fault Refusal := onCur s fun t => s.mxIssue t (.maz e)

/-- MSTAT (R354): long class, read 8 cycles after issue. -/
def execMstat (e : Ext) (s : State) : Host.Outcome State Fault Refusal :=
  onCur s fun t =>
    if e.sh 0 1 = 1 && !s.ganged t.unit then s.illegal t 3 2
    else if t.out.any (·.store) then s.park t .stores
    else s.withEntry t fun id =>
      ((s.onUnit t.unit fun u => { u with mstats := (t.ref, id, e.sh 0 1) :: u.mstats }).sched 8 rankLate (.resultReturn t.ref id [])).done
        (t.take [e.d] none false) 3 e.sm []

/-- MRING (R355): acts 2 cycles after issue. -/
def execMring (e : Ext) (s : State) : Host.Outcome State Fault Refusal :=
  onCur s fun t =>
    let id := s.nextId
    if t.out.any (·.store) then s.park t .stores
    else ((s.fresh.onUnit t.unit fun u => { u with mrings := (id, ⟨t.ref, e.dsem, 1⟩) :: u.mrings }).sched 2 (rankEng t.unit .mx)
      (.donePost t.unit id)).done t 3 e.sm []

end Sys2Proof.Machine
end

