-- ==== Sys2Proof/Machine/Engines.lean ====
section
/-! DEFINITION. The end of engine commands: consumed and done posts (R156 to R160, R172), faults and cancellation (R158, R374, R389). -/

namespace Sys2Proof.Machine

/-- AGENT of an engine in records (R372). -/
def engAgent : EngKind → Nat
  | .vx => 1
  | .mx => 2
  | .tmv => 4

namespace State
variable (s : State)

/-- Writes what a command has done: its blocks, each in one step (R81), and its accumulator tiles. They lie in S1, where nothing is mirrored
(R118, R327). -/
def applyResult (c : Cmd) (r : CmdResult) : State :=
  let s := r.blocks.foldl (fun s b => s.engWrite c.t b none) s
  s.onUnit c.t.unit fun u => { u with tiles := r.tiles.foldl (fun m t => mset m t.idx t) u.tiles }

/-- A command ends with a status: its posts, its ranges, its latch slot; its engine looks for the next (R156, R173). -/
def endCmd (c : Cmd) (status : Nat) : State :=
  let u := c.t.unit
  let s := if c.consumed then s else s.freeSlotOf u c
  let s := s.finish u c.id status
  match c.eng with
  | .mx => (s.onUnit u fun x => { x with mxPost := s.now + 1 }).sched 0 (rankEng u .mx) (.mxStart u)
  | .vx => s.sched 0 (rankEng u .vx) (.vxStart u)
  | .tmv => s

/-- What a command had done in the cycle in which it was cancelled (R158, R355, R374), of what was read for it (R152): the lines of a vector
command before that at which it stops, the groups of a matrix command. -/
def cancelledResult (c : Cmd) (at_ : Nat) : CmdResult :=
  match c.res with
  | none => whole []
  | some r =>
    match vxOf c.ins, mxOf c.ins with
    | some v, _ => whole (s.vxPartial c v (c.vxTo v (if r.fault.isSome then min (at_ - c.first) r.steps else at_ - c.first)) c.vxDesc false)
    | _, some m => (s.mxRun c m (some (at_ - c.first))).1
    | _, _ => whole []

/-- The engine stands free of a command that stops while it works (R168, R171), and looks for the next. -/
def releaseEngine (c : Cmd) : State :=
  let u := c.t.unit
  match c.eng with
  | .vx =>
    if c.start.isSome && (s.unit u).cmds.all fun x => x.eng != .vx || x.id == c.id || x.start.isNone then
      (s.onUnit u fun x => { x with vxFree := min x.vxFree (s.now + 1) }).sched 1 (rankEng u .vx) (.vxStart u)
    else s
  | .mx =>
    if c.res.isSome then
      (s.onUnit u fun x => { x with subFree := x.subFree.zipIdx.map fun e => if c.subs.contains e.2 then min e.1 (s.now + 1) else e.1 }).sched 1
        (rankEng u .mx) (.mxStart u)
    else s
  | .tmv => s

/-- From the cycle in which a cancelled command stops to its posts, as at a fault (R158): 13 cycles after the line and 21 after the K-step,
and no later than it would have ended. -/
def stopDelay (c : Cmd) : Nat :=
  if c.res.isNone then 0 else min (c.doneAt - s.now) (match c.eng with | .vx => 13 | .mx => 21 | .tmv => 0)

/-- A cancelled command stops; its posts follow, those of a tile move once its block in flight is written (R158). -/
def stopCmd (c : Cmd) : State :=
  let d := s.stopDelay c
  let s := ((s.stopSending c).releaseEngine c).onCmd c.t.unit c.id fun c => { c with stopAt := some (s.now, s.now + d) }
  if c.waiting then s else s.sched d (rankEng c.t.unit c.eng) (.engineFault c.t.unit c.id)

/-- A cancelled command ends with CANCELLED (R158, R374); results written already stay. -/
def endCancelled (c : Cmd) (at_ : Nat) : State :=
  (if c.applied then s else s.applyResult c (s.cancelledResult c at_)).endCmd c 5

/-- A command that its engine stopped: data that carries an error restarts the open region of its thread (R374), and so cancels the
command; anything else is a fault with its record (R389). -/
def endFaulted (c : Cmd) (r : CmdResult) (f : EngFault) : State :=
  let f := if ranDry c then { f with detail := wd ((s.unit c.t.unit).latchBits s.now) } else f
  let region := match r.restart, s.ref? c.t with
    | some p, some t => if c.inrgn && t.inrgn then some (t, p) else none
    | _, _ => none
  match region with
  | some (t, p) =>
    let s := s.consume t p f.va f.pa (some (engAgent c.eng, c.pc))
    if (s.ref? c.t).isSome then s else (s.applyResult c r).endCmd c 1
  | none => ((s.applyResult c r).engRecord c (engAgent c.eng) f).endCmd c 1

end State

/-- CONSUMED_POST (R156, R172, R173): once, and only of a command that has met no fault. -/
def execConsumedPost (unit : Nat) (id : Nat) (s : State) : Host.Outcome State Fault Refusal :=
  event <| match s.cmd? unit id with
  | some c => if c.cancelled || c.consumed then s else (s.freeSlotOf unit c).consumed unit id 0
  | none => s

/-- DONE_POST (R156, R160): the results are written, and the post is made no earlier than the cycle after that of the command before it. The
same event lets an MRING act (R355): it frees both latch slots, and a command that reads one is cancelled. -/
def execDonePost (unit : Nat) (id : Nat) (s : State) : Host.Outcome State Fault Refusal :=
  event <| match (s.unit unit).mrings.find? fun m => m.1 == id with
  | some m =>
    let hit (c : Cmd) : Bool := c.eng == .mx && c.latch.isSome && !c.consumed && c.res.isSome
    let s := s.onUnit unit fun u =>
      { u with mrings := u.mrings.filter fun m => m.1 != id,
               cmds := u.cmds.map fun c => if hit c then { c with cancelled := true, latch := none } else c }
    let s := ((s.unit unit).cmds.filter fun c => c.cancelled && c.stopAt.isNone).foldl (fun s c => s.stopCmd c) s
    (((s.emptySlot unit 0).emptySlot unit 1).post m.2 1 0).nudgeMx
  | none =>
    match s.cmd? unit id with
    | some c =>
      match c.cancelled, c.res with
      | false, some r =>
        if !c.applied && s.yields c true then s.yield c (.donePost unit id) else
        let s := if c.applied then s else (s.applyResult c r).onCmd unit id fun c => { c with applied := true }
        if s.prior unit c || (c.eng == .mx && (s.unit unit).mxPost = s.now + 1) then s.sched 1 (rankEng unit c.eng) (.donePost unit id)
        else s.endCmd c 0
      | _, _ => s
    | none => s

/-- ENGINE_FAULT (R158, R374, R389): a command that is cancelled stops; one that a fault or a cancellation has stopped ends with FAULT or
CANCELLED, no earlier than the cycle after the done post of the one before it (R160). -/
def execEngineFault (unit : Nat) (id : Nat) (s : State) : Host.Outcome State Fault Refusal :=
  event <| match s.cmd? unit id with
  | some c =>
    match c.cancelled, c.stopAt with
    | true, none => s.stopCmd c
    | _, _ =>
      if s.prior unit c || (c.eng == .mx && (s.unit unit).mxPost = s.now + 1) then s.sched 1 (rankEng unit c.eng) (.engineFault unit id)
      else if s.yields c true then s.yield c (.engineFault unit id)
      else match c.stopAt with
        | some x => if s.now < x.2 || c.waiting then s else s.endCancelled c x.1
        | none => match c.res with
          | some r => (match r.fault with | some f => s.endFaulted c r f | none => s)
          | none => s
  | none => s

end Sys2Proof.Machine
end

