-- ==== Sys2Proof/Machine/Dispatcher.lean ====
section
/-! DEFINITION. The dispatcher: launch records and their checks (R28 to R34), placement (R35 to R37), crews and their start (R38, R39), the
end of a launch (R52 to R54). -/

namespace Sys2Proof.Machine

/-! ## Launch records (R32) -/

namespace QRec
variable (r : QRec)
def dword (i : Nat) : Word := nget r.dw i 0
def ltag : Nat := bits (r.dword 0) 48 16
def svc : Bool := (r.dword 0).getLsbD 34
def gangs : Nat := bits (r.dword 0) 22 8 + 1
def gsize : Nat := bits (r.dword 0) 16 6
def init : Nat := bits (r.dword 0) 0 8 + 1
def quota : Nat := bits (r.dword 0) 8 8 + 1
def nrange : Nat := bits (r.dword 3) 41 7
def nwin : Nat := bits (r.dword 3) 36 5
def s2sz : Nat := bits (r.dword 3) 27 9
def s3sz : Nat := bits (r.dword 3) 19 8
def s1sz : Nat := bits (r.dword 3) 9 10
/-- The dependence tags; a tag of 0 means none. -/
def deps : List Nat := ((List.range 4).map fun i => bits (r.dword 7) (16 * i) 16).filter (· != 0)

/-- A field of the record is out of its limits (R33, FIELD). -/
def badField : Bool :=
  r.ltag == 0 || (r.dword 0).getLsbD 33 || bits (r.dword 3) 0 9 != 0 || 128 < r.gangs || r.gsize == 0 || 32 < r.gsize ||
  r.quota < r.init || 512 < r.s1sz || 256 < r.s2sz || 128 < r.s3sz || 64 < r.nrange || 16 < r.nwin ||
  (r.dword 1).toNat % 4 != 0 || (r.dword 3).getLsbD 54 ||
  (r.nrange != 0 && (r.dword 4).toNat % 64 != 0) || (r.nwin != 0 && (r.dword 5).toNat % 64 != 0)
end QRec

/-! ## Range entries and reduction windows (R118, R119, R121) -/

/-- A range entry from its four dwords. -/
def rangeOf (d : List Word) : RangeEnt :=
  let w (i : Nat) : Word := d.getD i 0
  { base := (w 0).toNat, limit := (w 1).toNat, offset := w 2, anyw := (w 3).getLsbD 63, writer := bits (w 3) 43 20,
    mirdev := bits (w 3) 31 12, reduce := (w 3).getLsbD 8, mirror := (w 3).getLsbD 7, prof := (w 3).getLsbD 6, a := (w 3).getLsbD 3,
    x := (w 3).getLsbD 2, w := (w 3).getLsbD 1, rd := (w 3).getLsbD 0 }

/-- A bit that R118 shows as zero is set. -/
def rangeZeros (d : List Word) : Bool :=
  let w (i : Nat) : Word := d.getD i 0
  bits (w 0) 0 12 != 0 || bits (w 1) 0 12 != 0 || bits (w 2) 0 12 != 0 || bits (w 3) 9 22 != 0 || bits (w 3) 4 2 != 0

/-- A range entry is malformed on the device `dev` (R119); overlap with another is seen apart. -/
def rangeBad (dev : Nat) (d : List Word) : Bool :=
  let e := rangeOf d
  let lo := e.base + e.offset.toNat
  let hi := e.limit - 1 + e.offset.toNat
  e.limit ≤ e.base || 2 ^ 57 < e.limit || rangeZeros d || 2 ^ 52 ≤ hi ||
  (e.mirror && (e.mirdev == dev || lo / 2 ^ 40 != dev || hi / 2 ^ 40 != dev || 2 ^ 39 ≤ lo % 2 ^ 40 || 2 ^ 39 ≤ hi % 2 ^ 40))

/-- No two of the pairs (first, end) overlap. -/
def disjoint : List (Nat × Nat) → Bool
  | [] => true
  | x :: r => r.all (fun y => !(x.1 < y.2 && y.1 < x.2)) && disjoint r

/-- A reduction window that lies in no range entry with REDUCE, or is not a range of 64-byte blocks (R121). -/
def windowBad (rs : List RangeEnt) (w : Nat × Nat) : Bool :=
  w.1 % 64 != 0 || w.2 % 64 != 0 || w.2 ≤ w.1 || !rs.any fun e => e.reduce && e.base ≤ w.1 && w.2 ≤ e.limit

/-- Groups of `n` dwords. -/
def chunks (n : Nat) (ws : List Word) : Nat → List (List Word)
  | 0 => []
  | k + 1 => ws.take n :: chunks n (ws.drop n) k

namespace State
variable (s : State)

/-- The dwords of a table in HBM; none where it leaves HBM or meets an uncorrectable error (R33). -/
def tableRead (a n : Nat) : Option (List Word) :=
  if 2 ^ 39 < a + 8 * n then none
  else if (List.range n).any fun i => (s.psnAt (a + 8 * i)).isSome then none
  else some ((List.range n).map fun i => (s.load (a + 8 * i) 8).v)

/-- The range entries and windows that a record names; none where a table is refused (R33, TABLE). -/
def tables (r : QRec) : Option (List RangeEnt × List (Nat × Nat)) :=
  match (if r.nrange = 0 then some [] else s.tableRead (r.dword 4).toNat (4 * r.nrange)),
        (if r.nwin = 0 then some [] else s.tableRead (r.dword 5).toNat (2 * r.nwin)) with
  | some rd, some wds =>
    let ds := chunks 4 rd r.nrange
    let rs := ds.map rangeOf
    let ws := (chunks 2 wds r.nwin).map fun d => ((d.getD 0 0).toNat, (d.getD 1 0).toNat)
    if ds.any (rangeBad s.devid) || !disjoint (rs.map fun e => (e.base, e.limit)) || ws.any (windowBad rs) || !disjoint ws then none
    else some (rs, ws)
  | _, _ => none

/-! ## The checks of R33 -/

/-- The status of the launch that a tag names among those that ended most recently (R34). -/
def endedStatus (tag : Nat) : Option Nat := (s.disp.ended.find? fun e => e.1 == tag).map (·.2)

def queuedIn (p tag : Nat) : Bool := (s.lport p).queue.any fun r => r.ltag == tag
/-- A record other than the head of port `p` is queued under the tag. -/
def queuedElse (p tag : Nat) : Bool :=
  (List.range 8).any fun q => if q = p then ((s.lport p).queue.drop 1).any (fun r => r.ltag == tag) else s.queuedIn q tag
/-- A queued or active launch bears the tag (R34). -/
def tagLives (tag : Nat) : Bool := (s.launch? tag).isSome || (List.range 8).any fun q => s.queuedIn q tag

/-- A dependence is on a launch that ended REFUSED or ENDED (R33). -/
def depFails (r : QRec) : Bool :=
  r.deps.any fun t => !s.tagLives t && (match s.endedStatus t with | some st => st != 0 | none => false)

/-- A dependence is satisfied (R34). -/
def depMet (t : Nat) : Bool :=
  match s.launch? t with
  | some l => l.trig
  | none => !s.tagLives t && (match s.endedStatus t with | some st => st == 0 | none => true)

/-- The gangs that fit on idle units (R33, NOFIT): disjoint windows of `g` units that are bound, in units whose stack has the S3. -/
def windowsFit (g s3 : Nat) : Nat :=
  ((List.range 4).map fun st =>
    if 128 < s3 + (s.laneGranules st).length then 0
    else ((List.range 32).foldl (fun (a : Nat × Nat) b =>
      if !s.present (32 * st + b) then (a.1, 0) else if a.2 + 1 = g then (a.1 + 1, 0) else (a.1, a.2 + 1)) (0, 0)).1).sum

/-- The refusal code of the record at the head of a port; 0 where none applies (R33). -/
def refusal (p : Nat) (r : QRec) : Nat :=
  if bits (r.dword 3) 56 8 != 1 then 1
  else if r.badField then 2
  else if r.svc && !r.svcOk then 3
  else if (s.launch? r.ltag).isSome || s.queuedElse p r.ltag then 4
  else if r.deps.any fun t => ((s.lport p).queue.drop 1).any fun q => q.ltag == t then 5
  else if s.depFails r then 6
  else if (s.tables r).isNone then 7
  else if s.windowsFit r.gsize r.s3sz < r.gangs then 8
  else 0

/-! ## Completion (R54) -/

/-- The launch enters the table of the 256 that ended most recently (R34). -/
def recordEnd (tag status : Nat) : State :=
  { s with disp := { s.disp with ended := ((tag, status) :: s.disp.ended).take 256 } }

/-- The completion entry of R54. -/
def completionWords (tag status code : Nat) (tstart : Word) (tend : Nat) (sent recvd : Nat) : List Word :=
  [wd (tag * 2 ^ 48 + status * 2 ^ 40 + code * 2 ^ 32), tstart, wd tend, wd (sent % 2 ^ 32 * 2 ^ 32 + recvd % 2 ^ 32), 0, 0, 0, 0]

/-- The head record leaves its port, which is served last from now on (R31). -/
def popHead (p : Nat) : State :=
  let q := s.lport p
  let s := s.setPort p { q with queue := q.queue.drop 1, headwait := false, placing := false, tabs := none, backing := false, backoff := 2700 }
  { s with disp := { s.disp with rr := (p + 1) % 8 } }

/-- A record is refused (R33, R54). -/
def refuse (p : Nat) (r : QRec) (code : Nat) : State :=
  ((s.popHead p).recordEnd r.ltag 1).completion p (completionWords r.ltag 1 code 0 s.now 0 0)
    (if (r.dword 0).getLsbD 36 then some (bits (r.dword 0) 37 11) else none)

/-! ## Placement (R35, R36) -/

/-- Launches that have a crew in a cluster. -/
def resident (c : Nat) : List Nat := ((s.disp.crews.filter fun x => clusterOf x.unit == c).map (·.ltag)).eraseDups

/-- What a placement asks of each unit: the launch, its initial threads, its allocations, and the level it runs at. -/
structure Ask where
  ltag : Nat
  init : Nat
  svc : Bool
  s1 : Nat
  s2 : Nat
  s3 : Nat
  deriving DecidableEq, Repr

def free? (lvl i n : Nat) : Bool := (s.freeGranules lvl i n).isSome

/-- RESERVE: a unit grants (R35). A unit that is not bound, is draining or is retired does not. -/
def grants (a : Ask) (u : Nat) : Bool :=
  let here := s.disp.crews.filter fun c => c.ltag == a.ltag
  s.present u && !(s.unit u).retired && !(s.unit u).draining &&
  a.init ≤ s.freeSlots u &&
  (a.svc || s.crewLevelSlots u + s.crewFired u + s.toStart u true + a.init ≤ (s.unit u).slotMax) &&
  s.free? 1 u a.s1 &&
  ((s.resident (clusterOf u)).contains a.ltag || (s.resident (clusterOf u)).length < 4) &&
  (here.any (fun c => clusterOf c.unit == clusterOf u) || s.free? 2 (clusterOf u) a.s2) &&
  (here.any (fun c => stackOf c.unit == stackOf u) || s.free? 3 (stackOf u) a.s3) &&
  !here.any fun c => c.unit == u

/-- The first window of `g` units, from the pointer on, whose units all grant and hold no gang of the launch (R35). -/
def findWindow (ok : Nat → Bool) (ptr g : Nat) (taken : List Nat) : Option Nat :=
  ((List.range 128).map fun k => (ptr + k) % 128).find? fun x =>
    x % 32 + g ≤ 32 && s.pkg.lat.getLsbD (x / 32) &&
    (List.range g).all fun i => ok (x + i) && !taken.contains (x + i)

/-- One pass over the gangs: the first unit of each gang's window, with the pointer where the last commit set it; none when some gang
finds no window (R35, R36, R361). -/
def placeGangs (ok : Nat → Bool) (g : Nat) : Nat → Nat → List Nat → List Nat → Nat × Option (List Nat)
  | 0, ptr, _, acc => (ptr, some acc.reverse)
  | n + 1, ptr, taken, acc =>
    match s.findWindow ok ptr g taken with
    | some x => placeGangs ok g n ((x + 1) % 128) (taken ++ (List.range g).map (x + ·)) (x :: acc)
    | none => (ptr, none)

/-! ## Crews (R38, R39) -/

/-- The templates and copy channels of a launch's crew leave a unit: they are cleared as a crew starts, and freed as it ends (R54, R161). -/
def dropCx (tag u : Nat) : State :=
  s.onUnit u fun x => { x with tmpls := x.tmpls.filter fun e => e.1 / 256 != tag, chans := x.chans.filter fun e => e.1 / 64 != tag }

/-- Grants and zeroes `n` granules of a level as segment 0; nothing where `n` is 0 (R38, R103, R115). -/
def grantSeg0 (lvl i n : Nat) : State × List Seg :=
  if n = 0 then (s, [])
  else match s.freeGranules lvl i n with
    | some gs =>
      (gs.foldl (fun s g => (s.zero (levelBase lvl i + g * granule lvl) (granule lvl)).touch (levelBase lvl i + g * granule lvl) (granule lvl) none) s,
       [{ num := 0, len := n * granule lvl, granules := gs }])
    | none => (s, [])

/-- The S2 and S3 allocations of a launch at a unit, where its crew is the first there (R38) and no saved allocation has come back (R50). -/
def grantShared (tag u : Nat) : State :=
  let shared (s : State) (lvl i n : Nat) (has : Bool) (put : Launch → List Seg → Launch) : State :=
    if has then s
    else
      let r := s.grantSeg0 lvl i n
      r.1.onLaunch tag fun l => put l r.2
  match s.launch? tag with
  | none => s
  | some l =>
    let here := s.disp.crews.filter fun c => c.ltag == tag
    let c := clusterOf u
    let st := stackOf u
    let s := shared s 2 c l.s2sz (here.any (fun x => clusterOf x.unit == c) || l.s2.any fun x => x.1 == c) fun l gs => { l with s2 := l.s2 ++ gs.map (c, ·) }
    shared s 3 st l.s3sz (here.any (fun x => stackOf x.unit == st) || l.s3.any fun x => x.1 == st) fun l gs => { l with s3 := l.s3 ++ gs.map (st, ·) }

/-- Creates a crew on a unit at commit (R38): its allocations are granted and zeroed; where no other launch has a crew there, the
accumulator banks are zeroed; its templates and channels are cleared (R161, R162). -/
def createCrew (l : Launch) (gang idx u : Nat) : State :=
  let alone := !s.disp.crews.any fun c => c.unit == u
  let s := s.grantShared l.ltag u
  let r := s.grantSeg0 1 u l.s1sz
  let c : Crew := { ltag := l.ltag, gang := gang, idx := idx, unit := u, ports := [], pats := [], busy := [], s1 := r.2, closed := false,
                    started := false, sent := 0, recvd := 0 }
  let s := if alone then r.1.onUnit u fun x => { x with tiles := [] } else r.1
  ((s.dropCx l.ltag u).setCrew c).sched (max l.s1sz (max (32 * l.s2sz) (128 * l.s3sz))) rankDisp (.crewStart l.ltag u)

/-- The launch of a record (R32). -/
def launchOfRec (p : Nat) (r : QRec) (rs : List RangeEnt) (ws : List (Nat × Nat)) : Launch :=
  { Launch.empty with
    ltag := r.ltag, port := p, det := (r.dword 0).getLsbD 35, svc := r.svc, prio := (r.dword 0).extractLsb' 30 3, gcount := r.gangs,
    gsize := r.gsize, quota := r.quota, init := r.init, pc := r.dword 1, arg := r.dword 2, errp := (r.dword 3).extractLsb' 48 8,
    s1sz := r.s1sz, s2sz := r.s2sz, s3sz := r.s3sz, seed := r.dword 6, vec := bits (r.dword 0) 37 11, vecen := (r.dword 0).getLsbD 36,
    ranges := rs, windows := ws }

/-- Commits every gang of a launch at its window (R35, R38). -/
def commitLaunch (l : Launch) (xs : List Nat) : State :=
  (xs.zipIdx).foldl (fun s (x, g) => (List.range l.gsize).foldl (fun s i => s.createCrew l g i (x + i)) s) (s.setLaunch l)

/-- A placement pass for the head record of a port: all of its gangs, or none and a back-off (R35, R36). -/
def placePass (p : Nat) (r : QRec) : State :=
  match (s.lport p).tabs with
  | none => s
  | some (rs, ws) =>
    let a : Ask := ⟨r.ltag, r.init, r.svc, r.s1sz, r.s2sz, r.s3sz⟩
    let ok := (List.range 128).filter (s.grants a)
    match s.placeGangs ok.contains r.gsize r.gangs s.disp.ptr [] [] with
    | (ptr, some xs) =>
      let s := { s with disp := { s.disp with ptr := ptr } }
      (s.popHead p).commitLaunch (launchOfRec p r rs ws) xs
    | (ptr, none) =>
      let q := s.lport p
      let s := { s with disp := { s.disp with ptr := ptr } }
      (s.setPort p { q with headwait := false, placing := true, backing := true, backoff := min 172800 (2 * q.backoff) }).sched q.backoff
        rankDisp (.backoffExpiry p)

/-- The tables that a record names, as far as they lie in HBM. -/
def tableSpan (r : QRec) : List (Nat × Nat) :=
  [((r.dword 4).toNat, 32 * r.nrange), ((r.dword 5).toNat, 16 * r.nwin)].filter fun x => x.2 != 0 && x.1 + x.2 ≤ 2 ^ 39

/-- The head of a port: refused, waiting on its dependences, or placed (R31, R33 to R36). A record that waits is refused with DEPFAIL
when a dependence of it fails. Its tables are read once no lane test holds them (R398) and no access that reached their banks before waits
(R109); the array ECC reports what it finds (R397). Completion entries that are held go first. -/
def headCheck (p : Nat) : State :=
  let q := s.lport p
  if !q.held.isEmpty then s.writeHeld p (q.held.length + 1)
  else if !s.pkg.disp || q.backing then s
  else match q.queue with
  | [] => s
  | r :: _ =>
    if q.tabs.isNone && ((tableSpan r).any (fun x => s.rangeHeld x.1 x.2) || s.waitsOn (tableSpan r)) then s
    else
    let s := if q.tabs.isNone then s.ueReads 0 0 ((tableSpan r).flatMap fun x => s.poisonedIn x.1 x.2) else s
    let code := if q.tabs.isSome then (if s.depFails r then 6 else 0) else s.refusal p r
    let q := if q.tabs.isSome then q else { q with tabs := s.tables r }
    if code != 0 then s.refuse p r code
    else if !r.deps.all s.depMet then s.setPort p { q with headwait := true }
    else (s.setPort p { q with headwait := false, placing := true }).placePass p r

end State

/-- A posted write of the host: they are performed in their order (R155). -/
def hostPosted : Instr → Bool
  | .hostBar2Write .. | .registerWrite .. | .launchRecordCommit .. | .lpcqhWrite .. | .lpcqbWrite .. | .hbmplaceWrite ..
  | .descriptorWindowWrite .. | .msixUnmask .. => true
  | _ => false

/-- A posted write of the host that came before is still to be performed: it has been looked at in this cycle, and waits for the next (R155,
R398). -/
def State.hostWaits (s : State) : Bool := s.agenda.any fun e => e.rank == State.rankAgain && s.now < e.due && hostPosted e.ev.op

/-- LAUNCH_RECORD_COMMIT (R29, R30): the host writes LPREC7, which acts after the BAR 2 writes that came before it (R155). -/
def execLaunchRecordCommit (port : Nat) (dw7 : Word) (s : State) : Host.Outcome State Fault Refusal :=
  event <| if s.hostWaits then s.sched 1 State.rankAgain (.launchRecordCommit port dw7)
  else (s.regWrite (0x10000 + 0x100 * (port % 8) + 0x38) dw7 (BitVec.allOnes 64))

/-- LPSTAT_READ (R8, R9, R30, R223): the host reads a register through BAR 0, or the half of it that it names; a read of LPSTAT clears
DROPS. A read that BAR 0 does not take is Unsupported Request. It passes no posted write. -/
def execLpstatRead (block off size : Nat) (s : State) : Host.Outcome State Fault Refusal :=
  event <|
    let off := 0x10000 * block + off
    if !s.pkg.hostUp then s
    else if s.hostWaits then s.sched 1 State.rankAgain (.lpstatRead block (off - 0x10000 * block) size)
    else if !s.host.d3hot && barOk off size then
      let r := s.regLoad off size
      { r.2 with host := { r.2.host with reads := some r.1 :: r.2.host.reads } }
    else s.unsupportedRead

/-- LPCQH_WRITE (R54, R155). -/
def execLpcqhWrite (port : Nat) (v : Word) (s : State) : Host.Outcome State Fault Refusal :=
  event <| if s.hostWaits then s.sched 1 State.rankAgain (.lpcqhWrite port v)
  else s.regWrite (0x10000 + 0x100 * (port % 8) + 0x60) v (BitVec.allOnes 64)

/-- LPCQB_WRITE (R54, R155). -/
def execLpcqbWrite (port : Nat) (v : Word) (s : State) : Host.Outcome State Fault Refusal :=
  event <| if s.hostWaits then s.sched 1 State.rankAgain (.lpcqbWrite port v)
  else s.regWrite (0x10000 + 0x100 * (port % 8) + 0x48) v (BitVec.allOnes 64)

/-- LAUNCH_HEAD_CHECK (R31, R33 to R35). -/
def execLaunchHeadCheck (port : Nat) (s : State) : Host.Outcome State Fault Refusal := event (s.headCheck port)

/-- BACKOFF_EXPIRY (R36): another pass, from gang 0. -/
def execBackoffExpiry (port : Nat) (s : State) : Host.Outcome State Fault Refusal :=
  event <|
    let q := s.lport port
    if !q.backing then s
    else match q.queue with
      | r :: _ => if s.pkg.disp && q.held.isEmpty then (s.setPort port { q with backing := false }).placePass port r
          else s.setPort port { q with backing := false }
      | [] => s.setPort port { q with backing := false }

/-- CREW_START (R38, R39). -/
def execCrewStart (ltag : Nat) (unit : Nat) (s : State) : Host.Outcome State Fault Refusal :=
  event <| match s.launch? ltag, s.crew? ltag unit with
  | some l, some c =>
    if c.started || c.closed then s
    else
      let s := s.setCrew { c with started := true }
      let s := (List.range l.init).foldl (fun s i =>
        s.create l c i l.pc l.prio [wd i, wd c.idx, wd c.gang, l.arg] id) s
      (s.onLaunch ltag fun l => { l with tstart := l.tstart.or (some (wd s.now)) }).trigCheck ltag
  | _, _ => s

namespace State
variable (s : State)

/-! ## The end of a launch (R52 to R54) -/

/-- The crews of a launch, those saved among them. -/
def launchCrews (tag : Nat) : List Crew :=
  s.disp.crews.filter (fun c => c.ltag == tag) ++ (s.disp.saved.filter fun v => v.crew.ltag == tag).map (·.crew)
def sentSum (tag : Nat) : Nat := ((s.launchCrews tag).map (·.sent)).sum
def recvdSum (tag : Nat) : Nat := ((s.launchCrews tag).map (·.recvd)).sum

/-- A unit still has engine commands of the launch, or a copy of it in flight (R52). -/
def working (tag u : Nat) : Bool :=
  (s.unit u).cmds.any (fun c => c.ltag == tag) ||
  (s.unit u).chans.any fun e => e.2.st == .run && (e.2.cur.toList ++ e.2.queue).any fun c => c.ltag == tag

/-- The launch is idle on every unit (R52): its crews have started, hold no thread and owe none, and have no work in an engine. While a crew of it
is saved it is not: a saved crew is on no unit, and R52 does not say how a sweep sees it (DESIGN CHOICE: it is waited for, though it holds no
thread and no work; log entry 90). -/
def launchIdle (tag : Nat) : Bool :=
  let cs := s.disp.crews.filter fun c => c.ltag == tag
  cs.all (·.started) && !s.threads.any (fun t => t.ltag == tag) &&
  cs.all (fun c => !(s.firedHandlers c.unit).contains tag && !s.working tag c.unit) &&
  !s.disp.saved.any fun v => v.crew.ltag == tag

/-- One sweep over a launch: it ends when two successive sweeps find it idle with equal sums, the same both times (R52). -/
def sweepOne (tag : Nat) : State :=
  let x := (s.sentSum tag, s.recvdSum tag)
  if s.launchIdle tag && x.1 = x.2 then
    match s.launch? tag with
    | some l => if l.sweep == some x then s.endLaunch tag 0 0 else s.setLaunch { l with sweep := some x }
    | none => s
  else s.onLaunch tag fun l => { l with sweep := none }

/-- Sends the flush of a flow with posted stores of the launch (R54, R208). -/
def launchFlush (tag : Nat) (f : Flow) : State :=
  let t := s.nextTag
  (s.sendReq (stackOf f.unit) { s.blankPkt 0x09 2 f.dst with flow := f } (.launchFlush tag)).onLaunch tag fun l =>
    { l with flushTags := t :: l.flushTags }

/-- Frees what a launch holds: crews with their segments, ports and patterns, S2 and S3, copy channels, barriers, saved images, thread
slots (R54, R194). -/
def freeLaunch (tag : Nat) : State :=
  let us := (s.disp.crews.filter fun c => c.ltag == tag).map (·.unit)
  let s := us.foldl (fun s u => s.dropCx tag u) s
  { s with
    barriers := s.barriers.filter fun b => b.ltag != tag,
    disp := { s.disp with crews := s.disp.crews.filter (fun c => c.ltag != tag), launches := mdel s.disp.launches tag,
                          saved := s.disp.saved.filter fun v => v.crew.ltag != tag } }

/-- Accesses of the launch's ended threads still await their banks, or posted packets of its flows the router (R54, R116, R151). -/
def accessesDue (tag : Nat) (flows : List Flow) : Bool :=
  s.agenda.any fun e => match e.ev.op with
    | .bankAccept a => (s.ref? a.t).isNone && s.disp.crews.any fun c => c.ltag == tag && c.unit == a.t.unit
    | .packetRoute p k => p == 16 && flows.contains k.flow
    | _ => false

/-- The end of a launch (R54): its accesses have been made, its posted remote stores are performed, its engine work is over, what it holds is
freed, and its completion entry is written. -/
def finishLaunch (tag status code : Nat) : State :=
  match s.launch? tag with
  | none => s
  | some l =>
    if s.accessesDue tag l.posted then s.sched 1 rankDisp (.launchEnd tag status code)
    else if !l.posted.isEmpty then
      l.posted.foldl (fun s f => s.launchFlush tag f) (s.setLaunch { l with posted := [] })
    else if !l.flushTags.isEmpty then s
    else if s.disp.crews.any fun c => c.ltag == tag && s.working tag c.unit then s.sched 8 rankDisp (.launchEnd tag status code)
    else
      let ws := completionWords tag status code (l.tstart.getD 0) s.now (s.sentSum tag) (s.recvdSum tag)
      ((s.freeLaunch tag).recordEnd tag status).completion l.port ws (if l.vecen then some l.vec else none)

end State

/-- END_SWEEP (R52). -/
def execEndSweep (s : State) : Host.Outcome State Fault Refusal :=
  event <| s.disp.launches.foldl (fun s l => if l.2.ending.isSome then s else s.sweepOne l.1) s

/-- LAUNCH_END (R54); it comes again once its flushes have been answered. -/
def execLaunchEnd (ltag : Nat) (status code : Nat) (s : State) : Host.Outcome State Fault Refusal :=
  event (s.finishLaunch ltag status code)

end Sys2Proof.Machine
end

