-- ==== Sys2Proof/Machine/Float.lean ====
section
/-! DEFINITION. Scalar floating point (R275 to R277). One-word forms round by RNE. -/

namespace Sys2Proof.Machine

/-- FADD (R275): a + b. -/
def execFadd (sm x : Bool) (d a b : Operand) (s : State) : Host.Outcome State Fault Refusal :=
  onCur s fun t => s.aluDone t 1 sm d (scalarRes x 0 (fAdd false (scalarVal x (t.rd a)) (scalarVal x (t.rd b))))

/-- FADD with RM (R275): a + b. -/
def execFaddExt (sm x : Bool) (rm : BitVec 3) (d a b : Operand) (s : State) : Host.Outcome State Fault Refusal :=
  onCur s fun t => s.aluDone t 3 sm d (scalarRes x rm.toNat (fAdd (rm == 2) (scalarVal x (t.rd a)) (scalarVal x (t.rd b))))

/-- FSUB (R275): a − b. -/
def execFsub (sm x : Bool) (d a b : Operand) (s : State) : Host.Outcome State Fault Refusal :=
  onCur s fun t => s.aluDone t 1 sm d (scalarRes x 0 (fAdd false (scalarVal x (t.rd a)) (scalarVal x (t.rd b)).neg))

/-- FSUB with RM (R275): a − b. -/
def execFsubExt (sm x : Bool) (rm : BitVec 3) (d a b : Operand) (s : State) : Host.Outcome State Fault Refusal :=
  onCur s fun t => s.aluDone t 3 sm d (scalarRes x rm.toNat (fAdd (rm == 2) (scalarVal x (t.rd a)) (scalarVal x (t.rd b)).neg))

/-- FMUL (R275): a × b. -/
def execFmul (sm x : Bool) (d a b : Operand) (s : State) : Host.Outcome State Fault Refusal :=
  onCur s fun t => s.aluDone t 1 sm d (scalarRes x 0 (fMul (scalarVal x (t.rd a)) (scalarVal x (t.rd b))))

/-- FMUL with RM (R275): a × b. -/
def execFmulExt (sm x : Bool) (rm : BitVec 3) (d a b : Operand) (s : State) : Host.Outcome State Fault Refusal :=
  onCur s fun t => s.aluDone t 3 sm d (scalarRes x rm.toNat (fMul (scalarVal x (t.rd a)) (scalarVal x (t.rd b))))

/-- FFMA (R275): a × b + c, rounded once. -/
def execFfma (sm x : Bool) (rm : BitVec 3) (d a b c : Operand) (s : State) : Host.Outcome State Fault Refusal :=
  onCur s fun t => s.aluDone t 3 sm d
    (scalarRes x rm.toNat (fFma (rm == 2) (scalarVal x (t.rd a)) (scalarVal x (t.rd b)) (scalarVal x (t.rd c))))

/-- FDIV (R275): a ÷ b, long class, after 28 cycles. -/
def execFdiv (sm x : Bool) (d a b : Operand) (s : State) : Host.Outcome State Fault Refusal :=
  onCur s fun t => s.longDone t 1 sm d ⟨scalarRes x 0 (fDiv (scalarVal x (t.rd a)) (scalarVal x (t.rd b))), none⟩ 28

/-- FDIV with RM (R275). -/
def execFdivExt (sm x : Bool) (rm : BitVec 3) (d a b : Operand) (s : State) : Host.Outcome State Fault Refusal :=
  onCur s fun t => s.longDone t 3 sm d ⟨scalarRes x rm.toNat (fDiv (scalarVal x (t.rd a)) (scalarVal x (t.rd b))), none⟩ 28

/-- FSQRT (R275): √a, long class, after 28 cycles. -/
def execFsqrt (sm x : Bool) (d a : Operand) (s : State) : Host.Outcome State Fault Refusal :=
  onCur s fun t => s.longDone t 1 sm d ⟨scalarRes x 0 (fSqrt (scalarVal x (t.rd a))), none⟩ 28

/-- FSQRT with RM (R275). -/
def execFsqrtExt (sm x : Bool) (rm : BitVec 3) (d a : Operand) (s : State) : Host.Outcome State Fault Refusal :=
  onCur s fun t => s.longDone t 3 sm d ⟨scalarRes x rm.toNat (fSqrt (scalarVal x (t.rd a))), none⟩ 28

/-- FMIN (R275): the smaller; −0 below +0. -/
def execFmin (sm x : Bool) (d a b : Operand) (s : State) : Host.Outcome State Fault Refusal :=
  onCur s fun t => s.aluDone t 1 sm d (scalarRes x 0 (fMin (scalarVal x (t.rd a)) (scalarVal x (t.rd b))))

/-- FMIN, extended (R275): RM is checked and changes nothing. -/
def execFminExt (sm x : Bool) (rm : BitVec 3) (d a b : Operand) (s : State) : Host.Outcome State Fault Refusal :=
  onCur s fun t => s.aluDone t 3 sm d (scalarRes x rm.toNat (fMin (scalarVal x (t.rd a)) (scalarVal x (t.rd b))))

/-- FMAX (R275): the larger; +0 above −0. -/
def execFmax (sm x : Bool) (d a b : Operand) (s : State) : Host.Outcome State Fault Refusal :=
  onCur s fun t => s.aluDone t 1 sm d (scalarRes x 0 (fMax (scalarVal x (t.rd a)) (scalarVal x (t.rd b))))

/-- FMAX, extended (R275): RM is checked and changes nothing. -/
def execFmaxExt (sm x : Bool) (rm : BitVec 3) (d a b : Operand) (s : State) : Host.Outcome State Fault Refusal :=
  onCur s fun t => s.aluDone t 3 sm d (scalarRes x rm.toNat (fMax (scalarVal x (t.rd a)) (scalarVal x (t.rd b))))

/-- FCVT (R276). -/
def execFcvt (sm sat : Bool) (rm : BitVec 3) (dfm sfm : BitVec 8) (d a : Operand) (s : State) : Host.Outcome State Fault Refusal :=
  onCur s fun t => s.aluDone t 3 sm d (fcvtResult dfm sfm rm.toNat sat (t.rd a))

/-- FCLASS (R277). -/
def execFclass (sm x : Bool) (d a : Operand) (s : State) : Host.Outcome State Fault Refusal :=
  onCur s fun t => s.aluDone t 1 sm d (classOf x (t.rd a))

end Sys2Proof.Machine
end

