-- ==== Sys2Proof/Machine/Crypto.lean ====
section
/-! DEFINITION. SHA-512 and the RSASSA-PSS verification that R228 names: FIPS 180-4, and RFC 8017 with RSA-4096, MGF1-SHA-512 and a salt of 64
bytes (log entry 18). -/

namespace Sys2Proof.Machine

/-! ## SHA-512 -/

/-- The 80 constants of the rounds: the fractions of the cube roots of the first primes. -/
def shaK : List Word :=
  [0x428A2F98D728AE22, 0x7137449123EF65CD, 0xB5C0FBCFEC4D3B2F, 0xE9B5DBA58189DBBC,
   0x3956C25BF348B538, 0x59F111F1B605D019, 0x923F82A4AF194F9B, 0xAB1C5ED5DA6D8118] ++
  [0xD807AA98A3030242, 0x12835B0145706FBE, 0x243185BE4EE4B28C, 0x550C7DC3D5FFB4E2,
   0x72BE5D74F27B896F, 0x80DEB1FE3B1696B1, 0x9BDC06A725C71235, 0xC19BF174CF692694] ++
  [0xE49B69C19EF14AD2, 0xEFBE4786384F25E3, 0x0FC19DC68B8CD5B5, 0x240CA1CC77AC9C65,
   0x2DE92C6F592B0275, 0x4A7484AA6EA6E483, 0x5CB0A9DCBD41FBD4, 0x76F988DA831153B5] ++
  [0x983E5152EE66DFAB, 0xA831C66D2DB43210, 0xB00327C898FB213F, 0xBF597FC7BEEF0EE4,
   0xC6E00BF33DA88FC2, 0xD5A79147930AA725, 0x06CA6351E003826F, 0x142929670A0E6E70] ++
  [0x27B70A8546D22FFC, 0x2E1B21385C26C926, 0x4D2C6DFC5AC42AED, 0x53380D139D95B3DF,
   0x650A73548BAF63DE, 0x766A0ABB3C77B2A8, 0x81C2C92E47EDAEE6, 0x92722C851482353B] ++
  [0xA2BFE8A14CF10364, 0xA81A664BBC423001, 0xC24B8B70D0F89791, 0xC76C51A30654BE30,
   0xD192E819D6EF5218, 0xD69906245565A910, 0xF40E35855771202A, 0x106AA07032BBD1B8] ++
  [0x19A4C116B8D2D0C8, 0x1E376C085141AB53, 0x2748774CDF8EEB99, 0x34B0BCB5E19B48A8,
   0x391C0CB3C5C95A63, 0x4ED8AA4AE3418ACB, 0x5B9CCA4F7763E373, 0x682E6FF3D6B2B8A3] ++
  [0x748F82EE5DEFB2FC, 0x78A5636F43172F60, 0x84C87814A1F0AB72, 0x8CC702081A6439EC,
   0x90BEFFFA23631E28, 0xA4506CEBDE82BDE9, 0xBEF9A3F7B2C67915, 0xC67178F2E372532B] ++
  [0xCA273ECEEA26619C, 0xD186B8C721C0C207, 0xEADA7DD6CDE0EB1E, 0xF57D4F7FEE6ED178,
   0x06F067AA72176FBA, 0x0A637DC5A2C898A6, 0x113F9804BEF90DAE, 0x1B710B35131C471B] ++
  [0x28DB77F523047D84, 0x32CAAB7B40C72493, 0x3C9EBE0A15C9BEBC, 0x431D67C49C100D4C,
   0x4CC5D4BECB3E42B6, 0x597F299CFC657E2A, 0x5FCB6FAB3AD6FAEC, 0x6C44198C4A475817]

/-- The hash before the first block: the fractions of the square roots of the first primes. -/
def shaInit : List Word :=
  [0x6A09E667F3BCC908, 0xBB67AE8584CAA73B, 0x3C6EF372FE94F82B, 0xA54FF53A5F1D36F1,
   0x510E527FADE682D1, 0x9B05688C2B3E6C1F, 0x1F83D9ABFB41BD6B, 0x5BE0CD19137E2179]

/-- A word from 8 bytes, the first the highest. -/
def beWord (bs : List Byte) : Word := leWord bs.reverse
/-- The bytes of a number, the highest first. -/
def natBe (n x : Nat) : List Byte := (natLe n x).reverse

/-- The message with its padding: a one bit, zeros, and its length in bits in 16 bytes. -/
def shaPad (m : List Byte) : List Byte := m ++ [0x80] ++ List.replicate ((239 - m.length % 128) % 128) 0 ++ natBe 16 (8 * m.length)

/-- The first `n` words of the schedule of a block, the latest first. -/
def shaSchedule : Nat → List Word → List Word
  | 0, ws => ws
  | n + 1, ws =>
    let w (i : Nat) : Word := ws.getD (i - 1) 0
    let s0 := (w 15).rotateRight 1 ^^^ (w 15).rotateRight 8 ^^^ (w 15 >>> 7)
    let s1 := (w 2).rotateRight 19 ^^^ (w 2).rotateRight 61 ^^^ (w 2 >>> 6)
    shaSchedule n ((s1 + w 7 + s0 + w 16) :: ws)

/-- One round, with its constant and the word of the schedule. -/
def shaRound (v : List Word) (kw : Word × Word) : List Word :=
  match v with
  | [a, b, c, d, e, f, g, h] =>
    let s1 := e.rotateRight 14 ^^^ e.rotateRight 18 ^^^ e.rotateRight 41
    let t1 := h + s1 + ((e &&& f) ^^^ (~~~e &&& g)) + kw.1 + kw.2
    let s0 := a.rotateRight 28 ^^^ a.rotateRight 34 ^^^ a.rotateRight 39
    let t2 := s0 + ((a &&& b) ^^^ (a &&& c) ^^^ (b &&& c))
    [t1 + t2, a, b, c, d + t1, e, f, g]
  | _ => v

/-- The hash after a block of 128 bytes. -/
def shaBlock (h : List Word) (b : List Byte) : List Word :=
  let ws := ((List.range 16).map fun i => beWord ((b.drop (8 * i)).take 8)).reverse
  let v := (shaK.zip (shaSchedule 64 ws).reverse).foldl shaRound h
  (h.zip v).map fun x => x.1 + x.2

/-- The digest of a byte string. -/
def shaDigest (m : List Byte) : List Byte :=
  let p := shaPad m
  ((List.range (p.length / 128)).foldl (fun h i => shaBlock h ((p.drop (128 * i)).take 128)) shaInit).flatMap fun w => natBe 8 w.toNat

/-- SHA-512, the first byte of the digest in bits 7:0. -/
def sha512 (m : List Byte) : BitVec 512 := BitVec.ofNat 512 (leNat (shaDigest m))

/-! ## RSASSA-PSS -/

/-- x^e mod n, by the bits of `e` from the lowest. -/
def powMod (n : Nat) : Nat → Nat → Nat → Nat
  | 0, _, _ => 1 % n
  | bits + 1, x, e =>
    let r := powMod n bits (x * x % n) (e / 2)
    if e % 2 = 1 then x * r % n else r

/-- MGF1 with SHA-512. -/
def mgf1 (seed : List Byte) (len : Nat) : List Byte :=
  ((List.range ((len + 63) / 64)).flatMap fun i => shaDigest (seed ++ natBe 4 i)).take len

/-- The encoded message of 512 bytes fits the message: EMSA-PSS with 4,095 bits. -/
def pssOk (msg em : List Byte) : Bool :=
  let h := (em.drop 447).take 64
  let db := ((em.take 447).zip (mgf1 h 447)).map fun x => x.1 ^^^ x.2
  let salt := db.drop 383
  (em.headD 0).toNat < 128 && em.getLast? == some 0xBC &&
    (db.take 382).zipIdx.all (fun x => if x.2 = 0 then x.1 &&& 0x7F == 0 else x.1 == 0) && db.getD 382 0 == 1 &&
    h == shaDigest (List.replicate 8 0 ++ shaDigest msg ++ salt)

/-- The signature of a message verifies under a public key of RSA-4096. -/
def pssVerify (key msg sig : List Byte) : Bool :=
  let k := Config.rsaKey key
  let x := leNat sig.reverse
  2 ^ 4095 ≤ k.1 && k.1 < 2 ^ 4096 && sig.length == 512 && x < k.1 &&
    pssOk msg (natBe 512 (powMod k.1 (k.2.log2 + 1) x k.2))

end Sys2Proof.Machine
end

