-- ==== Sys2Proof/Machine/Image.lean ====
section
/-! DEFINITION. The image of a saved crew (R51, R77, R177): what is written into it, and what a restore reads back. -/

namespace Sys2Proof.Machine

/-! ## Layout -/

/-- Bytes of the fixed part of an image, and of a segment in it: its data, its descriptors, padded to 4 KiB. -/
def imageFixed (ganged : Bool) : Nat := if ganged then 0x12A000 else 0x109000
def segImage (len : Nat) : Nat := roundUp (len + len / 32) 4096
def imageSize (ganged : Bool) (segs : List Seg) : Nat := imageFixed ganged + (segs.map fun g => segImage g.len).sum

/-- Segments by number. -/
def insertSeg (g : Seg) : List Seg → List Seg
  | [] => [g]
  | x :: r => if g.num < x.num then g :: x :: r else x :: insertSeg g r
def sortSegs (gs : List Seg) : List Seg := gs.foldl (fun l g => insertSeg g l) []

/-- The segments of an image in ascending number, each with its offset. -/
def segOffsets : Nat → List Seg → List (Seg × Nat)
  | _, [] => []
  | o, g :: r => (g, o) :: segOffsets (o + segImage g.len) r

/-- The offset of a tile's data, and of its β and suspect bit, in an image: the sections of the two slabs. -/
def tileOff (i : Nat) : Nat := (if i < 32 then 0xE8000 else 0x109000) + 4096 * (i % 32)
def betaOff (i : Nat) : Nat := (if i < 32 then 0x108000 else 0x129000) + 16 * (i % 32)
/-- The offset of a ring latch slot. -/
def latchOff (n : Nat) : Nat := 0x24000 + 0x22000 * n

/-! ## The parts of an image as dwords

R51 says what each part holds, and lays out the patterns, the ports, the templates, the queued copies, the latch data and the tiles. Of the header,
the channels, the engine records, the running state of the VX, the state of a latch slot and β it gives no layout: DESIGN CHOICE, the dwords
below (log entry 17). -/

/-- The header: the magic, the crew, the outstanding remote loads (at dword 2), the busy frames, and the segments. -/
def Saved.header (v : Saved) : List Word :=
  [0x53484B49,
   wd (v.crew.ltag * 2 ^ 48 + v.crew.gang * 2 ^ 40 + v.crew.idx * 2 ^ 32 + b01 v.ganged * 2 ^ 31 + v.threads.length),
   wd v.outstanding, wd (v.crew.busy.map (2 ^ ·)).sum, wd v.crew.s1.length] ++
  (segOffsets (imageFixed v.ganged) (sortSegs v.crew.s1)).flatMap fun x => [wd (x.1.num * 2 ^ 32 + x.1.len), wd x.2]

/-- A channel: its range, with its state in the low bits of the base, its watermark; then the block (30 bits) and repeat (16 bits) from which it
goes on, the template (8 bits), and the number of queued copies (10 bits, and one more beside the state). -/
def Chan.words (x : Chan) : List Word :=
  let n := match x.cur with | some c => c.next | none => 0
  let per := match x.cur with | some c => max 1 (Tmpl.blocks c.tmpl) | none => 1
  let st := match x.st with | .idle => 0 | .run => 1 | .stopped => 2
  [x.base ||| wd (st + x.queue.length / 1024 * 4), x.lim, x.wm,
   wd (n % per + n / per * 2 ^ 30 + (x.cur.map (·.num)).getD 0 * 2 ^ 46 + x.queue.length % 1024 * 2 ^ 54)]

/-- A queued copy (R51): the template that its start captured, with its channel and its repeats. -/
def Copy.words (c : Copy) (chan : Nat) : List Word :=
  (c.tmpl.set 6 ((Tmpl.dw c.tmpl 6 &&& ~~~(wd (63 * 2 ^ 24))) ||| wd (chan * 2 ^ 24))).set 7 (wd (c.repeats - 1))

/-- An engine command (R177): its words, its operands as captured, its tag, and how far it has come. -/
def Cmd.words (c : Cmd) : List Word :=
  let ws := encode c.ins
  let w (i : Nat) : Nat := (ws.getD i 0).toNat
  [wd (w 0 + w 1 * 2 ^ 32), wd (w 2), c.d, c.a, c.b, c.c, c.n, c.p7, c.seed,
   wd (c.t.slot + c.t.gen % 2 ^ 32 * 2 ^ 8 + ((c.csem.map fun i => 8 + i.toNat).getD 0) * 2 ^ 40 + ((c.dsem.map fun i => 8 + i.toNat).getD 0) * 2 ^ 44 +
     b01 c.consumed * 2 ^ 48 + b01 c.cancelled * 2 ^ 49 + b01 c.applied * 2 ^ 50 + b01 c.inrgn * 2 ^ 51),
   c.pc, wd c.next, wd c.vxSteps.length, wd c.wrote, wd c.kdone]

/-- A value as a 1,024-bit fixed-point number whose lowest bit weighs 2^−256 (R177). -/
def fixedWords (x : FVal) : List Word :=
  let n : Int := match x with
    | .fin neg m e =>
      let a : Nat := if 0 ≤ e + 256 then m * 2 ^ (e + 256).toNat else m / 2 ^ (-(e + 256)).toNat
      if neg then -(a : Int) else a
    | _ => 0
  (List.range 16).map fun i => BitVec.ofInt 64 (n / 2 ^ (64 * i))

/-- The running state of a vector command that is being read (R177): the next element, the count, the flags of the running value, the value, and
the entries that a VTOPK has selected, a dword each: the code above, the index below. -/
def Cmd.running (c : Cmd) (v : Vx) : List Word :=
  let acc := match c.vxSteps.getLast? with | some x => x.acc | none => FVal.zero
  let n := match c.vxSteps.getLast? with | some x => x.n | none => 0
  let flags := match acc with | .nan => 1 | .inf false => 2 | .inf true => 4 | .fin _ _ _ => 0
  let top := if v.f = 0x13 then (c.vxSteps.filterMap (·.rank)).foldl (fun l x => Rank.insert v.topK x l) [] else []
  [wd c.vxSteps.length, wd n, wd flags] ++ fixedWords acc ++ top.map fun r => wd (r.code * 2 ^ 32 + r.idx)

/-- The state of a latch slot: its state and order of arrival, its shape, its fill. -/
def LatchSlot.words (l : LatchSlot) (now : Nat) : List Word :=
  [wd (l.code now), match l.img with | some g => Config.shapeRecord g.cb g.k g.wb g.cls | none => 0,
   match l.img with | some g => wd (64 * (g.blocks.length * min g.k (g.group * (g.times.filter fun t => l.order + t < now).length) / g.k)) | none => 0,
   wd l.order]

/-- β of a tile as binary64, and its suspect bit. -/
def TileW.bound (t : TileW) : List Word := [wd (roundFloat f64 0 false 0 t.beta), wd (b01 t.susp)]

namespace State
variable (s : State)

/-- Writes dwords at an address. -/
def putWords (a : Nat) (ws : List Word) : State := s.putVals a (ws.map (⟨·, none⟩))

/-! ## Segments -/

/-- Moves the bytes and poison of [src, src + n) to [dst, dst + n) of another range. -/
def copyRange (src dst n : Nat) : State :=
  let cells := s.mem.filter fun c => src ≤ c.1 && c.1 < src + n
  let ps := s.psn.filter fun c => src / 8 ≤ c.1 && c.1 < (src + n) / 8
  { s with mem := cells.foldl (fun m c => wrByte m (dst + (c.1 - src)) c.2) (mclear s.mem dst (dst + n)),
           psn := ps.foldl (fun m c => mset m (dst / 8 + (c.1 - src / 8)) (lodged dst c.2)) (mclear s.psn (dst / 8) ((dst + n) / 8)) }

/-- Saves a segment into an image: data, then descriptors; the poison of a descriptor goes to the dword that holds it. -/
def saveSeg (lvl i : Nat) (g : Seg) (at_ : Nat) : State :=
  g.granules.zipIdx.foldl (fun s (n, k) =>
    let src := levelBase lvl i + n * granule lvl
    let s := s.copyRange src (at_ + k * granule lvl) (granule lvl)
    (List.range (granule lvl / 64)).foldl (fun s b =>
      let d := at_ + g.len + 2 * (k * (granule lvl / 64) + b)
      let s := { s with mem := wrBytes s.mem d (natLe 2 (s.descOf (src + 64 * b)).toNat) }
      match mget s.descPsn ((src + 64 * b) / 64) with
      | some p => { s with psn := mset s.psn (d / 8) (lodged d p) }
      | none => s) s) s

/-- Writes a segment back from an image. -/
def loadSeg (lvl i : Nat) (g : Seg) (at_ : Nat) : State :=
  g.granules.zipIdx.foldl (fun s (n, k) =>
    let dst := levelBase lvl i + n * granule lvl
    let s := (s.copyRange (at_ + k * granule lvl) dst (granule lvl)).touch dst (granule lvl) none
    (List.range (granule lvl / 64)).foldl (fun s b =>
      let d := at_ + g.len + 2 * (k * (granule lvl / 64) + b)
      (s.setDesc (dst + 64 * b) ((s.load d 2).v.setWidth 16)).poisonDesc (dst + 64 * b) (s.psnAt d)) s) s

/-! ## Writing an image -/

/-- Writes the bytes and descriptors of a latch slot's data, with what of them carries an error, and its state. -/
def putLatch (a : Nat) (l : LatchSlot) : State :=
  let s : State := match l.img with
    | some g => g.blocks.zipIdx.foldl (fun s (b, i) =>
        { s with mem := wrBytes (wrBytes s.mem (a + 64 * i) b.1) (a + 0x20000 + 2 * i) (natLe 2 b.2.1.toNat),
                 psn := b.2.2.foldl (fun m e => mset m ((if e.1 < 8 then a + 64 * i + 8 * e.1 else a + 0x20000 + 2 * i) / 8) (lodged a e.2)) s.psn }) s
    | none => s
  s.putWords (a + 0x21000) (l.words s.now)

/-- The commands of an engine among those saved, in issue order (R51). -/
def engRecords (v : Saved) (e : EngKind) (first : Nat) : List (Cmd × Nat) := (v.cmds.filter fun c => c.eng == e).zipIdx first

/-- An offset of an image in a part of which R51 says all that it holds: patterns, ports and channels; templates; the tiles and their β; the
segments. What is not set there is zero. -/
def imageSaid (ganged : Bool) (o : Nat) : Bool :=
  (0x1000 ≤ o && o < 0x2000) || (0x10000 ≤ o && o < 0x14000) || (0xE8000 ≤ o && o < 0x108200) ||
    (0x109000 ≤ o && !(ganged && 0x129200 ≤ o && o < 0x12A000))

/-- The fixed part of an image (R51). What R51 says nothing of is open (log entry 2). -/
def writeImage (v : Saved) : State :=
  let a := v.image
  let s := (Config.imageRest s.free).foldl (fun s c => if c.1 < v.size && !imageSaid v.ganged c.1 then { s with mem := wrByte s.mem (a + c.1) c.2 } else s)
    { s.zero a v.size with free := s.free + 1 }
  let s := s.putWords a v.header
  let s := v.crew.pats.foldl (fun s e => s.putWords (a + 0x1000 + 32 * e.1) [e.2.d0, e.2.hpc, e.2.d2, e.2.fires.setWidth 64]) s
  let s := (List.range 64).foldl (fun s i =>
    let p := v.crew.port i
    s.putVals (a + 0x1400 + 16 * i) [⟨p.word0 true, p.psn⟩, ⟨p.word1, none⟩]) s
  let s := v.chans.foldl (fun s e => s.putWords (a + 0x1800 + 32 * (e.1 % 64)) e.2.words) s
  let s := (engRecords v .mx 0 ++ engRecords v .vx 8 ++ engRecords v .tmv 24).foldl (fun s x => s.putWords (a + 0x2000 + 128 * x.2) x.1.words) s
  let s := match v.cmds.find? fun c => c.eng == .vx && c.res.isNone && !c.vxSteps.isEmpty with
    | some c => (match vxOf c.ins with | some w => s.putWords (a + 0x4000) (c.running w) | none => s)
    | none => s
  let s := v.tmpls.foldl (fun s e => s.putWords (a + 0x10000 + 64 * (e.1 % 256)) e.2) s
  let qs := v.chans.flatMap fun e => e.2.queue.map fun c => (e.1 % 64, c)
  let s := qs.zipIdx.foldl (fun s (x, i) => s.putWords (a + 0x14000 + 64 * i) (x.2.words x.1)) s
  let s := (s.putLatch (a + latchOff 0) v.latch0).putLatch (a + latchOff 1) v.latch1
  let s := v.threads.zipIdx.foldl (fun s (t, i) => s.putVals (a + recordOff i) (t.record (s.replyTags t))) s
  v.tiles.foldl (fun s e =>
    { s with mem := wrBytes s.mem (a + tileOff e.1) (e.2.data.flatMap fun (w : W32) => natLe 4 w.toNat) }.putWords (a + betaOff e.1) e.2.bound) s

/-! ## Reading it back -/

/-- The values of `n` dwords. -/
def getVals (a n : Nat) : List Val := (List.range n).map fun i => s.load (a + 8 * i) 8

/-- A port as its state words give it, poisoned where one of them is (R179, R402). -/
def readPort (a : Nat) (p : Port) : Port :=
  let x := s.load a 8
  let y := s.load (a + 8) 8
  { p with en := x.v.getLsbD 63, pol := x.v.getLsbD 62, depth := bits x.v 48 11, base := bits x.v 6 15 * 64, slo := bits y.v 44 20, ns := bits y.v 36 8,
           q := bits y.v 32 4, head := bits y.v 22 10, tail := bits y.v 12 10, count := bits y.v 1 11, psn := x.psn.or y.psn }

/-- A pattern as it stands in an image. -/
def readPat (a : Nat) (p : Pat) : Pat :=
  let w (i : Nat) : Word := (s.load (a + 8 * i) 8).v
  { p with d0 := w 0, hpc := w 1, d2 := w 2, fires := (w 3).setWidth 32 }

/-- A latch slot with its data as it stands in an image. -/
def readLatch (a : Nat) (l : LatchSlot) : LatchSlot :=
  { l with img := l.img.map fun g => { g with blocks := g.blocks.zipIdx.map fun (_, i) =>
      (rdBytes s.mem (a + 64 * i) 64, (s.load (a + 0x20000 + 2 * i) 2).v.setWidth 16,
        (List.range 9).filterMap fun j => (s.psnAt (if j < 8 then a + 64 * i + 8 * j else a + 0x20000 + 2 * i)).map fun p => (j, p)) } }

/-- A saved crew with what a restore reads in its image: patterns, ports, templates, queued copies, latch data, thread records and tiles. What its
image holds beside them the dispatcher has kept (log entry 17). -/
def readImage (v : Saved) : Saved :=
  let a := v.image
  let tmpl (a : Nat) : List Word := (s.getVals a 8).map (·.v)
  let before (ch : Nat) : Nat := ((v.chans.takeWhile fun e => e.1 != ch).map fun e => e.2.queue.length).sum
  let copy (i : Nat) (c : Copy) : Copy :=
    let w := tmpl (a + 0x14000 + 64 * i)
    { c with tmpl := (w.set 6 ((Tmpl.dw w 6 &&& ~~~(wd (63 * 2 ^ 24))) ||| (Tmpl.dw c.tmpl 6 &&& wd (63 * 2 ^ 24)))).set 7 0,
             repeats := bits (Tmpl.dw w 7) 0 16 + 1 }
  { v with
    crew := { v.crew with pats := v.crew.pats.map fun e => (e.1, s.readPat (a + 0x1000 + 32 * e.1) e.2),
                          ports := v.crew.ports.map fun e => (e.1, s.readPort (a + 0x1400 + 16 * e.1) e.2) },
    tmpls := v.tmpls.map fun e => (e.1, tmpl (a + 0x10000 + 64 * (e.1 % 256))),
    chans := v.chans.map fun e => (e.1, { e.2 with queue := e.2.queue.zipIdx.map fun (c, i) => copy (before e.1 + i) c }),
    latch0 := s.readLatch (a + latchOff 0) v.latch0, latch1 := s.readLatch (a + latchOff 1) v.latch1,
    threads := v.threads.zipIdx.map fun (t, i) => t.ofRecord (s.getVals (a + recordOff i) 256),
    tiles := v.tiles.map fun e => (e.1, { e.2 with data := e.2.data.zipIdx.map fun (_, i) => ((s.load (a + tileOff e.1 + 4 * i) 4).v).setWidth 32 }) }

end State

end Sys2Proof.Machine
end

