-- ==== Sys2Proof/Machine/Ju.lean ====
section
/-! DEFINITION. The join unit and the barrier homes: messages and spawns as they are decided (R181, R195), patterns (R187 to R189), barriers
(R191 to R194, R403). -/

namespace Sys2Proof.Machine

namespace State
variable (s : State)

/-- The number under which a JU is busy in a cycle: it accepts one append or remote spawn (R181). -/
def juKey (u : Nat) : Nat := 60000 + u

/-- The decision on a message or spawn reaches its sender: a post 2 cycles later, or an STS (R291, R298, R401). -/
def decide_ (reply : Option PostTo) (pkt : Option Packet) (status : Nat) : State :=
  let s := match reply with
    | some p => s.postLater 2 p 1 status
    | none => s
  match pkt with
  | some p =>
    let s := if status = 0 then s.cacheReply p.src p.tag 0 0 else s
    s.replyTo p 0x13 (if status = 1 then 9 else status) 0 [] 0
  | none => s

/-- A message of the launch itself is counted as decided, at its target or, where no crew is there, at its sender's unit (R52). -/
def countDecided (own : Bool) (ltag unit sender : Nat) : State :=
  if !own then s else if (s.crew? ltag unit).isSome then s.countRecvd ltag unit else s.countRecvd ltag sender

/-- The status of a message (R181): the first row that applies. -/
def appendStatus (r : AppendReq) (c : Crew) (det own device : Bool) : Nat :=
  let p := c.port r.port
  let full := if p.pol then 1 else 3
  if c.closed || p.closed || !p.en then 2
  else if det && !device && (!own || r.senderWid < p.slo || p.slo + p.ns < r.senderWid) then 2
  else if det && p.q + 1 ≤ (p.det.filter fun m => m.writer == r.senderWid).length then full
  else if p.count = p.depth then full
  else 0

/-- Writes an accepted message into its slot and moves the port on (R179, R181, R184). As which sender a record of the device itself counts in the
ranks and batches of a DET port the manual does not say: DESIGN CHOICE, as writer 0 (log entry 73). -/
def writeMsg (r : AppendReq) (c : Crew) (det own : Bool) : State :=
  let p := c.port r.port
  let slot := if det then ((List.range p.depth).find? fun i => !p.det.any fun m => m.slot == i).getD 0 else p.tail
  let hdr := wd (2 ^ 63 + (r.msg.length - 1) * 2 ^ 60 + r.senderDev * 2 ^ 48 + b01 own * 2 ^ 47 + r.senderWid * 2 ^ 12)
  let s := (List.range 8).foldl (fun s i => s.storeS1 c.ltag c.unit (p.slotOff slot + 8 * i) (r.msg.getD i ⟨0, none⟩)) s
  let s := s.storeS1 c.ltag c.unit (p.hdrOff slot) ⟨hdr, none⟩
  let rank := (mget p.accepted r.senderWid).getD 0
  let p := { p with count := p.count + 1 }
  let p := if det then { p with det := { slot := slot, writer := r.senderWid, rank := rank } :: p.det,
                                accepted := mset p.accepted r.senderWid (rank + 1) }
    else { p with tail := (p.tail + 1) % p.depth }
  s.onCrew c.ltag c.unit fun c => c.setPort r.port p

/-- The record of a port overflow; its copy for an error port that is the overflowing port is dropped (R400, R401). -/
def portOverflow (r : AppendReq) (c : Crew) (own : Bool) : State :=
  let info : RecInfo := { cls := 3, scope := 1, cause := 0x060, ltag := c.ltag, gang := c.gang, crew := c.idx, unit := c.unit, agent := 5,
                          detail := wd (r.port + r.senderDev * 2 ^ 16 + r.senderWid * 2 ^ 28 + b01 own * 2 ^ 48) }
  let errp := match s.launch? c.ltag with | some l => l.errp | none => 0
  if errp.getLsbD 7 && (errp.extractLsb' 0 6).toNat = r.port then
    let s := s.logWords fun seq => recordWords seq s.now info
    { s with pkg := { s.pkg with drops := s.pkg.drops + 1 } }
  else s.record info

/-- A request that another copy of has been decided meanwhile has the cached reply, and is not applied again (R212, R409). -/
def decidedBefore (pkt : Option Packet) : Option State :=
  match pkt with
  | some p => (s.cachedOf p.src p.tag).map fun c => s.replyTo p 0x13 c.status 0 [] 0
  | none => none

/-- Where a message would be written, if its port takes it. -/
def appendExt (r : AppendReq) : List (Nat × Nat) :=
  let device := r.reply.isNone && r.replyPkt.isNone
  let own := !device && r.senderDev == s.devid && r.senderLtag == r.ltag
  match s.crew? r.ltag r.unit with
  | none => []
  | some c =>
    if appendStatus r c (s.isDet r.ltag) own device != 0 then []
    else s.msgExt c r.port (if s.isDet r.ltag then ((List.range (c.port r.port).depth).find? fun i => !(c.port r.port).det.any fun m => m.slot == i).getD 0
      else (c.port r.port).tail)

/-- The JU decides a message (R181). A record of the device itself that a port does not take is dropped and counted (R373). -/
def appendDecide (r : AppendReq) : State :=
  match s.decidedBefore r.replyPkt with
  | some t => t
  | none =>
  let device := r.reply.isNone && r.replyPkt.isNone
  let own := !device && r.senderDev == s.devid && r.senderLtag == r.ltag
  let det := s.isDet r.ltag
  match s.crew? r.ltag r.unit with
  | none => ((if device then { s with pkg := { s.pkg with drops := s.pkg.drops + 1 } } else s).countDecided own r.ltag r.unit
      r.senderUnit).decide_ r.reply r.replyPkt 2
  | some c =>
    let st := appendStatus r c det own device
    let s := s.countDecided own r.ltag r.unit r.senderUnit
    let s := if st = 0 then s.writeMsg r c det own
      else if device then { s with pkg := { s.pkg with drops := s.pkg.drops + 1 } }
      else if st = 1 then s.portOverflow r c own
      else s
    s.decide_ r.reply r.replyPkt st

/-- The JU decides a remote spawn (R195). Before a crew has started its initial threads are not yet there: one that the JU creates in a crew
that is committed and has not started takes the lowest free TID, 0, and the start then gives TID 0 again to an initial thread (DESIGN CHOICE: R39
and R297 do not settle it; log entry 88). -/
def spawnDecide (r : SpawnReq) : State :=
  match s.decidedBefore r.replyPkt with
  | some t => t
  | none =>
  let own := r.senderDev == s.devid && r.senderLtag == r.ltag
  let s := s.countDecided own r.ltag r.unit r.senderUnit
  match s.crew? r.ltag r.unit, s.launch? r.ltag with
  | some c, some l =>
    if c.closed || r.pc.toNat % 4 != 0 || !(l.ranges.any fun e => e.x && e.base ≤ r.pc.toNat && r.pc.toNat < e.limit) ||
        s.noRoom r.ltag r.unit l.svc then s.decide_ r.reply r.replyPkt 2
    else
      let born (t : Thread) : Thread :=
        { t with psn := ((List.range r.args.length).filter r.psn.testBit).foldl (fun m i => mset m (8 + i) ⟨0x041, 0⟩) t.psn }
      (s.create l c (s.freeTid r.ltag r.unit) r.pc (BitVec.ofNat 3 r.prio) r.args born).decide_ r.reply r.replyPkt 0
  | _, _ => s.decide_ r.reply r.replyPkt 2

end State

/-- APPEND_ACCEPT (R109, R181, R401): once the JU is free, and the banks that the message goes to. -/
def execAppendAccept (r : AppendReq) (s : State) : Host.Outcome State Fault Refusal :=
  event <|
    let x := s.appendExt r
    if s.busy.contains (State.juKey r.unit) || s.waitsOn x || x.any (fun b => !s.bankFree b.1) then s.sched 1 1 (.appendAccept r)
    else (x.foldl (fun (s : State) b => s.takeBank b.1) { s with busy := State.juKey r.unit :: s.busy }).appendDecide r

/-- SPAWNR_ACCEPT (R195). -/
def execSpawnrAccept (r : SpawnReq) (s : State) : Host.Outcome State Fault Refusal :=
  event <|
    if s.busy.contains (State.juKey r.unit) then s.sched 1 1 (.spawnrAccept r)
    else { s with busy := State.juKey r.unit :: s.busy }.spawnDecide r

/-! ## Patterns -/

/-- The offset of join frame `i` of the pool: the highest 16 KiB of S1 segment 0 (R188). -/
def frameOff (s1Bytes i : Nat) : Nat := s1Bytes - 16384 + 256 * i

namespace State
variable (s : State)

/-- Candidates of an evaluation, by PRI descending and index ascending (R187). -/
def insertPat (x : Nat × Pat) : List (Nat × Pat) → List (Nat × Pat)
  | [] => [x]
  | y :: r => if y.2.pri < x.2.pri then x :: y :: r else y :: insertPat x r
def candidates (c : Crew) : List (Nat × Pat) :=
  (c.pats.filter fun e => e.2.v && e.2.ports.all fun n => (s.takeable c n).isSome).foldl (fun l e => insertPat e l) []

/-- The lowest free frame of the crew's pool. -/
def freeFrame (c : Crew) : Option Nat := (List.range 64).find? fun i => !c.busy.contains i

/-- Whether a candidate can fire now (R187). -/
def canFire (c : Crew) (p : Pat) : Bool :=
  if p.wake then
    match s.byTid c.ltag c.unit p.wtid with
    | some t => (vget t.sems p.wsem).toNat + p.pend < p.fn + 1
    | none => false
  else (freeFrame c).isSome && !s.noRoom c.ltag c.unit (match s.launch? c.ltag with | some l => l.svc | none => false)

/-- Takes the heads of the member ports into the quarters of a frame, and zeroes those above; `none` when the launch has ended with
PORTDATA (R187, R402). -/
def takeHeads (tag u off : Nat) : State → List (Nat × Nat) → State × Bool
  | s, [] => (s, true)
  | s, (n, q) :: r =>
    match s.crew? tag u with
    | none => (s, false)
    | some c =>
      match s.takeable c n with
      | none => (s, false)
      | some slot =>
        match s.takeMsg c n slot with
        | .lost s => (s, false)
        | .msg s _ dws =>
          takeHeads tag u off ((List.range 8).foldl (fun s i => s.storeS1 tag u (off + 64 * q + 8 * i) (dws.getD i ⟨0, none⟩)) s) r

/-- Zeroes a frame's quarters from `q` on. -/
def zeroQuarters (tag u off q : Nat) : State :=
  (List.range (8 * (4 - q))).foldl (fun s i => s.storeS1 tag u (off + 64 * q + 8 * i) ⟨0, none⟩) s

/-- The firing of a pattern, one indivisible step (R187 to R189): what it starts is due six cycles later. -/
def fire (c : Crew) (idx : Nat) (p : Pat) : State :=
  let frame := (freeFrame c).getD 0
  let off := if p.wake then 256 * p.fboff + 256 * p.ring else frameOff (s.s1Bytes c.ltag) frame
  let r := takeHeads c.ltag c.unit off s p.ports.zipIdx
  if !r.2 then r.1
  else
    let s := r.1.zeroQuarters c.ltag c.unit off p.ports.length
    let q := { p with fires := p.fires + 1, ring := (p.ring + 1) % (p.fn + 1), d0 := if p.one then p.d0 &&& ~~~(wd (2 ^ 63)) else p.d0,
                      pend := p.pend + b01 p.wake }
    let s := s.onCrew c.ltag c.unit fun c =>
      { c with pats := mset c.pats idx q, busy := if p.wake then c.busy else frame :: c.busy }
    if p.wake then s.sched 6 (rankPost p.wsem) (.wakePost c.ltag c.unit idx p.epoch p.wtid p.wsem)
    else s.sched 6 (rankJu c.unit) (.handlerCreate c.ltag c.unit idx frame p.hpc (BitVec.ofNat 3 p.pri))

/-- The slots that a firing takes, and the frame that it fills. -/
def fireExt (c : Crew) (p : Pat) : List (Nat × Nat) :=
  let off := if p.wake then 256 * p.fboff + 256 * p.ring else frameOff (s.s1Bytes c.ltag) ((freeFrame c).getD 0)
  p.ports.flatMap (fun n => match s.takeable c n with | some slot => s.msgExt c n slot | none => []) ++
    ((s.s1Addr c.ltag c.unit off).map fun pa => (pa, 256)).toList

/-- The evaluation of a crew's table: the first candidate that can fire fires (R187), once the accesses that reached its banks before have been
accepted (R109). -/
def evalCrew (tag u : Nat) : State :=
  match s.crew? tag u with
  | some c =>
    if c.closed then s
    else match (s.candidates c).find? fun e => s.canFire c e.2 with
      | some e => if s.waitsOn (s.fireExt c e.2) then s else s.fire c e.1 e.2
      | none => s
  | none => s

/-- Crews by unit and launch tag. -/
def insertCrew (c : Crew) : List Crew → List Crew
  | [] => [c]
  | x :: r => if c.unit < x.unit || (c.unit == x.unit && c.ltag < x.ltag) then c :: x :: r else x :: insertCrew c r

end State

/-- PATTERN_EVALUATION (R187). -/
def execPatternEvaluation (s : State) : Host.Outcome State Fault Refusal :=
  event <| (s.disp.crews.foldl (fun l c => State.insertCrew c l) []).foldl (fun s c => s.evalCrew c.ltag c.unit) s

/-- HANDLER_CREATE (R188): a0 holds the frame's address, a1 the pattern's index; born untriggered. A launch that is ending
starts none (R54). -/
def execHandlerCreate (ltag unit pat frame : Nat) (pc : Word) (pri : BitVec 3) (s : State) : Host.Outcome State Fault Refusal :=
  event <| match s.launch? ltag, s.crew? ltag unit with
  | some l, some c =>
    if l.ending.isSome then s
    else s.create l c (s.freeTid ltag unit) pc pri [State.s1Va (frameOff (s.s1Bytes ltag) frame), wd pat] fun t => { t with frame := some frame }
  | _, _ => s

/-- WAKE_POST (R189): to the live thread with that TID, or to its record in a saved crew (R305). -/
def execWakePost (ltag unit pat epoch tid : Nat) (sem : BitVec 3) (s : State) : Host.Outcome State Fault Refusal :=
  event <|
    let s := s.onCrew ltag unit fun c => { c with pats := c.pats.map fun e =>
      if e.1 == pat && e.2.epoch == epoch then (e.1, { e.2 with pend := e.2.pend - 1 }) else e }
    match s.byTid ltag unit tid with
    | some t => s.post ⟨t.ref, sem, 4⟩ 1 0
    | none => match s.disp.saved.find? fun v => v.crew.ltag == ltag && v.crew.unit == unit with
      | some v => (match v.threads.find? fun t => t.tid == tid with
        | some t => s.post ⟨t.ref, sem, 4⟩ 1 0
        | none => s)
      | none => s

/-! ## Barriers (R191 to R194) -/

/-- Barriers and waiter entries of a home (R192). -/
def barrierRoom : Nat → Nat × Nat
  | 1 => (16, 256)
  | 2 => (64, 1024)
  | _ => (256, 8192)

/-- Puts a barrier among those registered. -/
def putBarrier : List Barrier → Barrier → List Barrier
  | [], b => [b]
  | x :: r, b => if x.pa == b.pa then b :: r else x :: putBarrier r b

namespace State
variable (s : State)

def barrier? (pa : Nat) : Option Barrier := s.barriers.find? fun b => b.pa == pa

/-- The home writes the object (R191). -/
def barrierStore (b : Barrier) (reg : Bool) : State :=
  (s.store b.pa 8 ⟨wd (b.need * 2 ^ 48 + b.arr * 2 ^ 32 + b.gen % 2 ^ 32), none⟩).store (b.pa + 8) 8 ⟨wd (b01 reg * 2 ^ 63), none⟩

/-- Posts the waiters of a barrier after its level's latency (R193, R308). -/
def barrierPosts (b : Barrier) (ws : List (ThreadRef × BitVec 3 × Option Nat)) (status : Nat) : State :=
  ws.foldl (fun s (t, i, own) => s.postLater (levelLatency b.level) ⟨t, i, match own with | some id => barSrc id | none => 3⟩ 1 status) s

/-- Breaks a barrier whose arrivals wait: its waiters are posted BROKEN, with one record (R194, R403). -/
def breakBarrier (b : Barrier) (reinit : Bool) (unit : Nat) : State :=
  (s.barrierPosts b b.waiters 4).record
    { cls := 3, scope := 1, cause := 0x062, ltag := b.ltag, unit := unit, agent := 5,
      detail := wd (b.va.toNat % 2 ^ 57 + b01 (!reinit) * 2 ^ 63) }

def dropBarrier (pa : Nat) : State := { s with barriers := s.barriers.filter fun b => b.pa != pa }

/-- Registers a barrier at its home: its status (R192, R307). -/
def register (t : Thread) (va : Word) (pa need : Nat) : State × Nat :=
  let lvl := va.toNat / 2 ^ 60
  let old := s.barrier? pa
  let s := match old with
    | some b => (if b.arr = 0 then s else s.breakBarrier b true t.unit).dropBarrier pa
    | none => s
  let b : Barrier := { level := lvl, home := inst lvl t.unit, pa := pa, va := va, ltag := t.ltag, need := need, arr := 0, gen := 0, waiters := [] }
  let peers := s.barriers.filter fun x => x.level == b.level && x.home == b.home
  let room := barrierRoom lvl
  if room.1 ≤ peers.length || room.2 < (peers.map fun x => x.need - 1).sum + (need - 1) then
    (if old.isSome then s.store (pa + 8) 8 ⟨0, none⟩ else s, 3)
  else ({ s with barriers := putBarrier s.barriers b }.barrierStore b true, 0)

end State

/-- BARRIER_REGISTER (R191, R192, R307). -/
def execBarrierRegister (t : ThreadRef) (rb : Nat) (va : Word) (need : Nat) (s : State) : Host.Outcome State Fault Refusal :=
  event <| match s.ref? t with
  | some x => (match s.barrierAddr x va with
    | some pa =>
      let r := s.register x va pa need
      r.1.sched (State.levelLatency (va.toNat / 2 ^ 60)) rankLate (.resultReturn t rb [⟨wd r.2, none⟩])
    | none => s.sched 1 rankLate (.resultReturn t rb [⟨3, none⟩]))
  | none => s

/-- BARRIER_ARRIVAL (R193, R308). -/
def execBarrierArrival (t : ThreadRef) (sem : BitVec 3) (va : Word) (pa : Nat) (bwait : Option Nat) (s : State) :
    Host.Outcome State Fault Refusal :=
  event <| match s.barrier? pa with
  | none => s.postLater (State.levelLatency (va.toNat / 2 ^ 60)) ⟨t, sem, match bwait with | some id => barSrc id | none => 3⟩ 1 4
  | some b =>
    let ws := b.waiters ++ [(t, sem, bwait)]
    if b.arr + 1 < b.need then
      let b := { b with arr := b.arr + 1, waiters := ws }
      { s with barriers := putBarrier s.barriers b }.barrierStore b true
    else
      let n := { b with arr := 0, gen := (b.gen + 1) % 2 ^ 32, waiters := [] }
      ({ s with barriers := putBarrier s.barriers n }.barrierStore n true).barrierPosts b ws 0

/-- BARRIER_BROKEN (R194, R403): a write to the object while arrivals wait leaves it unregistered. -/
def execBarrierBroken (pa : Nat) (reinit : Bool) (writer : Option ThreadRef) (s : State) : Host.Outcome State Fault Refusal :=
  event <| match s.barrier? pa with
  | some b =>
    if b.arr = 0 then s
    else
      let unit := match writer with
        | some w => w.unit
        | none => (b.waiters.head?.map fun w => w.1.unit).getD 0
      ((s.breakBarrier b reinit unit).dropBarrier pa).store (pa + 8) 8 ⟨0, none⟩
  | none => s

end Sys2Proof.Machine
end

