-- ==== Sys2Proof/Machine/ThreadEvents.lean ====
section
/-! DEFINITION. Events of threads: posts as they arrive (R68, R303), the debugger (R75, R76, R325), exchanges of fingerprints (R376, R377). -/

namespace Sys2Proof.Machine

namespace State
variable (s : State)

/-- A post arrives (R68, R305, R386). The overflow of a POST is a fault of its issuer, which issues nothing before it (R303): it is raised in the
next cycle, by the post with a count of 0, unless a SEMSET of this one sets the count first (R304). -/
def arrive (p : PostTo) (count status : Nat) : State :=
  if isPost p.src && count = 0 then s.postFault p.src p.sem
  else match s.ref? p.t with
  | some t =>
    if isPost p.src && 65535 < (vget t.sems p.sem).toNat + count then
      let s := s.setThread { t with recent := (s.now, p.sem, count, p.src, true) :: t.recent.filter fun r => r.1 == s.now }
      let s := match s.thread? ((p.src - 16) / 256) ((p.src - 16) % 256) with
        | some x => s.setThread { x with eligRound := max x.eligRound (s.round + 1) }
        | none => s
      s.sched 1 0 (.semPost p 0 0)
    else s.post p count status
  | none => s.post p count status

/-- Every result but a remote load's has returned, and every access is accepted (R75). -/
def localComplete (t : Thread) : Bool := t.rb.all (fun e => e.remote || e.vals.isSome) && t.out.isEmpty

/-- Commits the returned results of a thread that halts; those of remote loads stay outstanding (R75). -/
def haltCommit (t : Thread) : Thread × Option Consumed :=
  let r := commitEntries t (t.rb.filter fun e => e.vals.isSome)
  ({ r.1 with rb := r.1.rb.filter fun e => e.vals.isNone }, r.2)

/-- A thread that a halt is asked of halts at its instruction boundary, when it stands at one (R75). -/
def tryHalt (t : Thread) : State :=
  let stop (w : Option WaitFor) : State :=
    let r := haltCommit t
    match r.2 with
    | some c => s.consume r.1 c.p c.va c.pa
    | none => s.setThread { r.1 with st := .halted, haltReq := false, held := w }
  match t.st with
  | .ready => if localComplete t then stop none else s.park t .switch
  | .parked .switch => if localComplete t && !t.complete then stop (some .switch) else s
  | .parked w => if localComplete t then stop (some w) else s
  | .halted => s.setThread { t with haltReq := false }

end State

/-- SEM_POST (R68, R71, R303, R305). -/
def execSemPost (p : PostTo) (count : Nat) (status : Status) (s : State) : Host.Outcome State Fault Refusal :=
  event (s.arrive p count status)

/-- DEBUG_HALT (R75, R77). -/
def execDebugHalt (t : ThreadRef) (s : State) : Host.Outcome State Fault Refusal :=
  event <| match s.ref? t with
  | some t => (s.setThread { t with haltReq := true }).tryHalt { t with haltReq := true }
  | none => s

/-- DEBUG_RESUME (R75, R325): the thread goes on, or waits again for what it was parked on and has not come while it was halted. -/
def execDebugResume (t : ThreadRef) (s : State) : Host.Outcome State Fault Refusal :=
  event <| match s.ref? t with
  | some t => (match t.st with
    | .halted =>
      let go (st : TState) : Thread := { t with st := st, held := none, eligRound := max t.eligRound (s.round + 1) }
      match t.held with
      | some .switch => if t.complete then s.settle (go .ready) else s.setThread (go (.parked .switch))
      | some w => s.setThread (go (.parked w))
      | none => s.setThread (go .ready)
    | _ => s.setThread { t with haltReq := false })
  | none => s

/-- DEBUG_END (R325): the firmware ends a halted thread under its debug policy. -/
def execDebugEnd (t : ThreadRef) (s : State) : Host.Outcome State Fault Refusal :=
  event <| match s.ref? t with
  | some t => (match t.st with
    | .halted => s.endThread t
    | _ => s)
  | none => s

/-- DEBUG_WRITE (R76): the register it names alone; a main-file register takes no later reply to a remote load. -/
def execDebugWrite (t : ThreadRef) (r : DebugReg) (v : Word) (s : State) : Host.Outcome State Fault Refusal :=
  event <| match s.ref? t with
  | some t => (match r with
    | .operand o => s.setThread (t.primaryOnly r { t.wr o v with rb := t.rb.map fun e => { e with dead := o :: e.dead } })
    | .q i => s.setThread (t.primaryOnly r ({ t with q := nset t.q i.toNat v }.mend r))
    | .sem i => s.setThread (t.primaryOnly r ({ t with sems := vset t.sems i (v.setWidth 16) }.mend r))
    | .special n =>
      if 0x40 ≤ n.toNat then s.onUnit t.unit fun u => u.setSpecial n.toNat v
      else s.setThread (t.primaryOnly r ((t.setSpecial s.now n.toNat v).mend r))
    | .pc => s.setThread { t with pc := v })
  | none => s

/-- FINGERPRINT_EXCHANGE (R376, R377): equal fingerprints let the primary go on; a mismatch restarts the region, or ends the pair
without one or a second time at one PC; a twin whose mill is retired is given up. -/
def execFingerprintExchange (r : ThreadRef) (s : State) : Host.Outcome State Fault Refusal :=
  event <| match s.ref? r with
  | some t => (match t.twin with
    | none => s.wakeEvent t
    | some w =>
      let u := { t with fp := 0, retired := 0, twin := some { w with fp := 0 } }
      if !s.present w.unit || (s.unit w.unit).retired then
        ((s.record { State.recOf t 4 4 0x204 with unit := w.unit }).freeTwin t).wakeEvent { t with twin := none }
      else if t.fp = w.fp then s.wakeEvent { u with exchanged := true, mismatch := none }
      else if !t.inrgn || t.mismatch == some t.pc then s.endContained t 0x203 0 0 t.pc
      else
        let s := s.consume { u with mismatch := some t.pc } ⟨0x202, 0⟩
        if t.st == .halted then s.onRef r fun x => { x with st := .halted, held := none } else s)
  | none => s

end Sys2Proof.Machine
end

