-- ==== Sys2Proof/Machine/Preempt.lean ====
section
/-! DEFINITION. Pre-emption and restore of a gang (R49, R50, R77, R162, R177, R305, R313). -/

namespace Sys2Proof.Machine

namespace State
variable (s : State)

/-! ## Saving -/

/-- The lowest place in the save pool for an image of `n` bytes beside those that it holds. -/
def poolFit (used : List (Nat × Nat)) (n : Nat) : Option Nat :=
  let b := s.disp.savebase.toNat
  let e := min (b + s.disp.savesz.toNat) (2 ^ 39)
  (((b :: used.map fun x => x.1 + x.2).filter fun a => b ≤ a && a + n ≤ e && !used.any fun x => meets a n x.1 x.2).foldl
    (fun (m : Option Nat) a => match m with | some x => some (min x a) | none => some a) none)

def poolUsed : List (Nat × Nat) := s.disp.saved.map fun v => (v.image, v.size)

/-- The images of crews find room together. -/
def poolHolds : List (Nat × Nat) → List Nat → Bool
  | _, [] => true
  | used, n :: r => match s.poolFit used n with
    | some a => poolHolds ((a, n) :: used) r
    | none => false

def gangCrews (tag gang : Nat) : List Crew := s.disp.crews.filter fun c => c.ltag == tag && c.gang == gang

/-- PREEMPTST takes a result, and a request is over. -/
def preemptDone (result : Nat) : State := { s with disp := { s.disp with preBusy := false, preResult := BitVec.ofNat 8 result } }

/-- An event that the thread awaits will come without more of its crew's work: it is waited for. -/
def awaits (t : Thread) : Bool :=
  s.agenda.any fun e => match e.ev.op with
    | .capxComplete r => t.answers r
    | .fingerprintExchange r => t.answers r
    | _ => false

/-- Nothing of a thread but remote loads is outstanding, and it stands at an instruction boundary (R49, R77). -/
def threadAtStop (t : Thread) : Bool :=
  t.rb.all (fun e => e.remote || e.vals.isSome) && t.out.isEmpty && t.taking.all (fun x => x.2.2 ≤ s.now) && t.flushing.isEmpty && !s.awaits t &&
  (match t.st with | .parked .switch => !t.complete | .parked (.fill c _) => c < s.now | _ => true)

/-- Nothing that a crew's threads, homes and JU have begun is still to come (R49): handlers and WAKE posts, its own messages, whose decision is
counted while the crew is in place (R52), and arrivals at barriers, whose homes are in place (R308). -/
def crewQuiet (c : Crew) : Bool :=
  s.agenda.all fun e => match e.ev.op with
    | .handlerCreate l v _ _ _ _ => !(l == c.ltag && v == c.unit)
    | .wakePost l v _ _ _ _ => !(l == c.ltag && v == c.unit)
    | .appendAccept r => !(r.senderLtag == c.ltag && r.senderUnit == c.unit && r.senderDev == s.devid)
    | .spawnrAccept r => !(r.senderLtag == c.ltag && r.senderUnit == c.unit && r.senderDev == s.devid)
    | .barrierArrival r _ _ _ _ => r.unit != c.unit
    | _ => true

/-- A matrix command stalls on the ring after its first K-step, its K-steps so far done (R174, R177). -/
def midStall (x : Cmd) : Bool :=
  ranDry x && x.stopAt.isNone && !x.cancelled && x.res.any fun r => x.first + (r.steps - 108000) ≤ s.now

/-- A command has not begun, stalls on the ring, or has done its work and awaits the posts of the command before it (R160, R177). -/
def cmdAtStop (x : Cmd) : Bool :=
  x.res.isNone || s.midStall x || (match x.stopAt with | some y => y.2 ≤ s.now | none => !x.cancelled && x.doneAt ≤ s.now)

/-- The engines of a crew's unit have reached their stop points (R177), and what the ring brings has come. -/
def enginesAtStop (c : Crew) : Bool :=
  let u := s.unit c.unit
  u.cmds.all (fun x => x.ltag != c.ltag || match x.eng with
    | .tmv => !x.waiting && !x.cancelled
    | _ => s.cmdAtStop x) &&
  u.chans.all (fun e => e.1 / 64 != c.ltag || (!e.2.halt && !e.2.cur.any (·.waiting))) &&
  u.mrings.all (fun m => match s.ref? m.2.t with | some t => t.ltag != c.ltag | none => true) &&
  s.inFlight c.unit = 0 && [u.latch0, u.latch1].all fun l => l.settled s.now

/-- The crew's channels stop at their watermarks, once their blocks in flight are written (R162). -/
def stopChannels (c : Crew) : State :=
  ((s.unit c.unit).chans.filter fun e => e.1 / 64 == c.ltag && e.2.st == .run).foldl (fun s e =>
    (s.setChan c.unit e.1 { e.2 with halt := true }).haltNow c.unit e.1) s

/-- What is due for commands and channels that are saved falls away; a restore starts it again. -/
def purge (u : Nat) (ids : List Nat) (chans : List Nat) : State :=
  { s with agenda := s.agenda.filter fun e => match e.ev.op with
      | .consumedPost v i => !(v == u && ids.contains i)
      | .donePost v i => !(v == u && ids.contains i)
      | .engineFault v i => !(v == u && ids.contains i)
      | .ringTimeout v i => !(v == u && ids.contains i)
      | .tmvBlockDone v i => !(v == u && ids.contains i)
      | .cxBlockWrite v i => !(v == u && chans.contains i)
      | _ => true }

/-- A matrix command that has not taken its first K-step has not started: the slot that it took, its sub-arrays and what it was to forward are as
before (R177). One that stalls on the ring after it goes on from the K-step at which it stops. One that its slot's shape has stopped ends. -/
def unstartMx (x : Cmd) : State :=
  let u := x.t.unit
  match mxOf x.ins with
  | some m =>
    let mid := s.midStall x
    if x.res.isNone || (x.first ≤ s.now && !mid) || x.stopAt.isSome || (m.latch && x.latch.isNone) then s
    else
      let s := s.purge u [x.id] []
      let s := { s with agenda := s.agenda.filter fun e => match e.ev.op with
          | .ringBArrive _ g => mid || g.src != (u, x.id)
          | _ => true }
      let s := match x.latch with | some i => s.setSlot u i { s.slotOf u i with st := .filling } | none => s
      let s := s.onUnit u fun y => { y with subFree := y.subFree.zipIdx.map fun e => if x.subs.contains e.2 then min e.1 (max x.first (s.now + 1)) else e.1 }
      s.onCmd u x.id fun c => { c with
        start := none, first := 0, doneAt := 0, read := .none, res := none, subs := [], latch := none,
        kdone := if mid then ((x.waits.getD []).length) else x.kdone }
  | none => s

/-- A vector command that is being read stops at the line that it reads now: every result of its elements is written, and its next element and
running state are recorded (R177). One that has read its last line runs to its end. -/
def haltVx (x : Cmd) : State :=
  let u := x.t.unit
  match vxOf x.ins with
  | some v =>
    if x.res.isNone || x.stopAt.isSome || x.doneAt ≤ s.now + 13 then s
    else
      let steps := x.vxTo v (s.now + 1 - x.first)
      let bs := s.vxPartial x v steps x.vxDesc true
      let s := bs.foldl (fun s b => s.engWrite x.t b none) (s.purge u [x.id] [])
      let s := s.onUnit u fun y => { y with vxFree := min y.vxFree (s.now + 1) }
      s.onCmd u x.id fun c => { c with start := none, first := 0, doneAt := 0, res := none, read := .vx steps.length steps x.vxDesc,
                                       wrote := if v.f = 0x15 then steps.length else v.results steps / fmtCount v.e.fmt }
  | none => s

/-- The engines and channels of a crew are brought to their stop points (R49, R177). -/
def stopEngines (c : Crew) : State :=
  ((s.unit c.unit).cmds.filter (·.ltag == c.ltag)).foldl (fun s x => match x.eng with
    | .mx => s.unstartMx x
    | .vx => s.haltVx x
    | .tmv => s) (s.stopChannels c)

/-- Commits the returned results of the crew's threads, as at a switch point (R49); data that carries an error is consumed. -/
def commitThreads (tag u : Nat) : State :=
  (s.crewThreads tag u).foldl (fun s t =>
    match t.st with
    | .halted => s
    | _ =>
      let r := haltCommit t
      match r.2 with
      | some c => s.consume r.1 c.p c.va c.pa
      | none => s.setThread r.1) s

/-- The bytes, descriptors and poison of a shared segment, by offset (R49). -/
def captureSeg (lvl i : Nat) (g : Seg) : SharedImg :=
  let at_ (n : Nat) := levelBase lvl i + n * granule lvl
  let part {α : Type} (m : Map α) (unit : Nat) : Map α := g.granules.zipIdx.flatMap fun (n, k) =>
    (m.filter fun c => at_ n / unit ≤ c.1 && c.1 < (at_ n + granule lvl) / unit).map fun c => (k * (granule lvl / unit) + (c.1 - at_ n / unit), c.2)
  { lvl := lvl, seg := g, mem := part s.mem 1, desc := part s.desc 64, psn := part s.psn 8, descPsn := part s.descPsn 64 }

/-- A barrier that lies in one of the segments, with its place there. -/
def barsIn (lvl i : Nat) (gs : List Seg) : List (Nat × Nat × Nat × Barrier) :=
  s.barriers.filterMap fun b => gs.findSome? fun g =>
    g.granules.zipIdx.findSome? fun (n, k) =>
      let a := levelBase lvl i + n * granule lvl
      if a ≤ b.pa && b.pa < a + granule lvl then some (lvl, g.num, k * granule lvl + (b.pa - a), b) else none

/-- A command as it is saved (R177): one that waits for the ring starts afresh at restore. -/
def savedCmd (c : Cmd) : Cmd := if c.res.isNone then { c with start := none } else c

/-- A thread as it is saved: its pair is dissolved (R321), and words that it has fetched are fetched again. -/
def savedThread (t : Thread) : Thread :=
  { t with twin := none, fp := 0, fpq := [], retired := 0, exchanged := false, mismatch := none, fetched := [], taking := [], released := none }

/-- The shared segments that go with the last crew of a launch in its cluster or stack (R49). -/
def sharedOf (l : Launch) (c : Crew) : List (Nat × Nat × Seg) :=
  let rest := s.disp.crews.filter fun x => x.ltag == c.ltag && x.unit != c.unit
  (if rest.any fun x => clusterOf x.unit == clusterOf c.unit then []
   else (l.s2.filter fun x => x.1 == clusterOf c.unit).map fun x => (2, x.1, x.2)) ++
  (if rest.any fun x => stackOf x.unit == stackOf c.unit then []
   else (l.s3.filter fun x => x.1 == stackOf c.unit).map fun x => (3, x.1, x.2))

/-- Saves a crew whose unit is at its stop points, and frees what it held (R49). -/
def saveCrew (l : Launch) (c : Crew) (image : Nat) : State :=
  let u := s.unit c.unit
  let ts := s.crewThreads c.ltag c.unit
  let cmds := u.cmds.filter fun x => x.ltag == c.ltag
  let ids := cmds.map (·.id)
  let chans := u.chans.filter fun e => e.1 / 64 == c.ltag
  let sh := s.sharedOf l c
  let bars := s.barsIn 1 c.unit c.s1 ++ sh.flatMap fun x => s.barsIn x.1 x.2.1 [x.2.2]
  let v : Saved :=
    { crew := c, threads := ts.map savedThread,
      ganged := s.ganged c.unit, image := image, size := imageSize (s.ganged c.unit) c.s1, cmds := cmds.map savedCmd,
      board := u.board.filter fun b => ids.contains b.cmd, tmpls := u.tmpls.filter fun e => e.1 / 256 == c.ltag, chans := chans,
      tiles := u.tiles, latch0 := u.latch0,
      latch1 := u.latch1, shared := sh.map fun x => s.captureSeg x.1 x.2.1 x.2.2, bars := bars }
  let s := s.writeImage v
  let s := (segOffsets (image + imageFixed v.ganged) (sortSegs c.s1)).foldl (fun s x => s.saveSeg 1 c.unit x.1 x.2) s
  let s := (s.purge c.unit ids (chans.map (·.1))).onUnit c.unit fun x =>
    { x with cmds := x.cmds.filter (fun y => !ids.contains y.id), board := x.board.filter (fun b => !ids.contains b.cmd) }
  let s := ts.foldl (fun s t => ((s.dropThread t).raiseGen t.unit t.slot).freeTwin t) (s.dropCx c.ltag c.unit)
  let s := s.onLaunch c.ltag fun l =>
    { l with s2 := l.s2.filter (fun x => !sh.any fun y => y.1 == 2 && y.2.1 == x.1),
             s3 := l.s3.filter (fun x => !sh.any fun y => y.1 == 3 && y.2.1 == x.1) }
  let bs := s.barriers.filter fun b => !bars.any fun y => y.2.2.2.pa == b.pa
  let cs := s.disp.crews.filter fun x => !(x.ltag == c.ltag && x.unit == c.unit)
  let s := { s with barriers := bs, disp := { s.disp with crews := cs, saved := s.disp.saved ++ [v] } }
  (s.sched 0 (rankEng c.unit .vx) (.vxStart c.unit)).nudgeMx

/-- The dispatcher does not reach an image yet: a lane test holds a block of it (R398), or an access that reached its bank before waits (R109). -/
def spanHeld (a n : Nat) : Bool := s.rangeHeld a n || s.waitsOn [(a, n)]

/-- The request is over once no crew of the gang is left to save. -/
def saveOver (tag gang : Nat) : State := if (s.gangCrews tag gang).isEmpty then s.preemptDone 0 else s

end State

/-- PREEMPT_SAVE (R49, R233): every crew of the named gang is closed and its issue and channels stop; a crew that has not started is waited
for. -/
def execPreemptSave (s : State) : Host.Outcome State Fault Refusal :=
  event <|
    let tag := bits s.disp.preempt 32 16
    let gang := bits s.disp.preempt 8 8
    let cs := s.gangCrews tag gang
    match s.launch? tag with
    | none => s.preemptDone 1
    | some l =>
      if l.ending.isSome || !cs.any (fun c => c.idx == bits s.disp.preempt 0 5) then s.preemptDone 1
      else if !cs.all (·.started) then s.sched 8 rankDisp .preemptSave
      else if !s.poolHolds s.poolUsed (cs.map fun c => imageSize (s.ganged c.unit) c.s1) then s.preemptDone 2
      else cs.foldl (fun s c =>
        ((s.setCrew { c with closed := true }).stopEngines c).sched 1 rankDisp (.crewSaved tag gang c.idx)) s

/-- CREW_SAVED (R49, R51, R177): once its threads and engines stand at their stop points, a crew is copied to its image; else it is looked
at again. -/
def execCrewSaved (ltag gang crew : Nat) (s : State) : Host.Outcome State Fault Refusal :=
  event <| match s.launch? ltag, (s.gangCrews ltag gang).find? fun c => c.idx == crew with
  | some l, some c =>
    if l.ending.isSome then s.preemptDone 1
    else if !(s.crewThreads ltag c.unit).all s.threadAtStop || !s.enginesAtStop c || !s.crewQuiet c then s.sched 1 rankLate (.crewSaved ltag gang crew)
    else
      let s := ((s.unit c.unit).cmds.filter fun x => x.ltag == ltag && s.midStall x).foldl (fun s x => s.unstartMx x) (s.commitThreads ltag c.unit)
      if !(s.crewThreads ltag c.unit).all s.threadAtStop then s.sched 1 rankLate (.crewSaved ltag gang crew)
      else match s.poolFit s.poolUsed (imageSize (s.ganged c.unit) c.s1) with
        | some a =>
          if s.spanHeld a (imageSize (s.ganged c.unit) c.s1) then s.sched 1 rankLate (.crewSaved ltag gang crew) else (s.saveCrew l c a).saveOver ltag gang
        | none => s.preemptDone 2
  | _, _ => s.preemptDone 1

namespace State
variable (s : State)

/-! ## Restoring (R50) -/

/-- The saved crews of a gang, by crew index. -/
def insertSaved (v : Saved) : List Saved → List Saved
  | [] => [v]
  | x :: r => if v.crew.idx < x.crew.idx then v :: x :: r else x :: insertSaved v r
def savedGang (tag gang : Nat) : List Saved :=
  (s.disp.saved.filter fun v => v.crew.ltag == tag && v.crew.gang == gang).foldl (fun l v => insertSaved v l) []

/-- Granules of a level that the saved segments of a gang need where crew `i` lands, the crews landing at `x` upwards. -/
def sharedNeed (vs : List Saved) (x i lvl : Nat) : Nat :=
  (vs.zipIdx.map fun (v, j) =>
    if inst lvl (x + j) = inst lvl (x + i) then ((v.shared.filter fun h => h.lvl == lvl).map fun h => h.seg.granules.length).sum else 0).sum

/-- The unit on which a saved crew would land grants (R35, R50, R51): one of the other kind refuses. -/
def restoreGrants (l : Launch) (vs : List Saved) (x : Nat) : Bool :=
  vs.zipIdx.all fun (v, i) =>
    s.ganged (x + i) == v.ganged &&
    s.grants ⟨l.ltag, v.threads.length, l.svc, (v.crew.s1.map fun g => g.granules.length).sum, max l.s2sz (sharedNeed vs x i 2),
      max l.s3sz (sharedNeed vs x i 3)⟩ (x + i)

/-- The window of a restore, from the rotating pointer on (R35, R50). -/
def restoreWindow (l : Launch) (vs : List Saved) : Option Nat :=
  ((List.range 128).map fun k => (s.disp.ptr + k) % 128).find? fun x =>
    x % 32 + vs.length ≤ 32 && s.pkg.lat.getLsbD (x / 32) && s.restoreGrants l vs x

/-- Grants granules again to the S1 segments of a saved crew, and writes them back from the image. -/
def restoreS1 (u at_ : Nat) : State → List (Seg × Nat) → List Seg → State × List Seg
  | s, [], acc => (s, acc.reverse)
  | s, (g, o) :: r, acc =>
    let used := acc.flatMap (·.granules) ++ s.taken 1 u
    let gs := ((List.range 512).filter fun n => !used.contains n).take g.granules.length
    let h := { g with granules := gs }
    restoreS1 u at_ (s.loadSeg 1 u h o) r (h :: acc)

/-- Grants granules to a saved S2 or S3 segment and writes it back; where the launch has a segment of that number there already, that one
stands (R49). -/
def restoreShared (tag u : Nat) (h : SharedImg) : State :=
  let i := inst h.lvl u
  if (s.seg? tag u h.lvl h.seg.num).isSome then s
  else match s.freeGranules h.lvl i h.seg.granules.length with
    | none => s
    | some gs =>
      let g := { h.seg with granules := gs }
      let s := gs.foldl (fun s n => s.zero (levelBase h.lvl i + n * granule h.lvl) (granule h.lvl)) s
      let s := s.onLaunch tag fun l => if h.lvl = 2 then { l with s2 := l.s2 ++ [(i, g)] } else { l with s3 := l.s3 ++ [(i, g)] }
      let pa (o : Nat) := segAddr h.lvl i g o
      let s := gs.foldl (fun s n => s.touch (levelBase h.lvl i + n * granule h.lvl) (granule h.lvl) none) s
      { s with mem := h.mem.foldl (fun m c => wrByte m (pa c.1) c.2) s.mem,
               desc := h.desc.foldl (fun m c => wrDesc m (pa (64 * c.1) / 64) c.2) s.desc,
               psn := h.psn.foldl (fun m c => mset m (pa (8 * c.1) / 8) c.2) s.psn,
               descPsn := h.descPsn.foldl (fun m c => mset m (pa (64 * c.1) / 64) c.2) s.descPsn }

/-- Where the granules of saved segments lie now: (old base, new base, length). -/
def movesOf (lvl old new : Nat) (before now_ : List Seg) : List (Nat × Nat × Nat) :=
  before.flatMap fun g => match now_.find? fun h => h.num == g.num with
    | some h => (g.granules.zip h.granules).map fun p => (levelBase lvl old + p.1 * granule lvl, levelBase lvl new + p.2 * granule lvl, granule lvl)
    | none => []

def moved (ms : List (Nat × Nat × Nat)) (pa : Nat) : Nat :=
  match ms.find? fun m => m.1 ≤ pa && pa < m.1 + m.2.2 with
  | some m => m.2.1 + (pa - m.1)
  | none => pa

/-- A global address of this device, moved. -/
def movedGpa (ms : List (Nat × Nat × Nat)) (dev gpa : Nat) : Nat :=
  if gpa / 2 ^ 40 = dev then dev * 2 ^ 40 + moved ms (gpa % 2 ^ 40) else gpa

/-- What a restored thread waits for: what it met at places of its old unit it looks at again. -/
def movedWait : WaitFor → TState
  | .recv .. => .ready
  | .event _ => .ready
  | .board .. => .parked .plain
  | .mark .. => .parked .plain
  | w => .parked w

/-- A thread as it stands on its new slot (R50): its logical indices stay, PHYSID and its tag are new. -/
def replaceThread (t : Thread) (u : Nat) : State :=
  match s.freeSlot? u with
  | none => s
  | some n =>
    let st : TState := match t.st with
      | .parked w => movedWait w
      | x => x
    let held := match t.held.map movedWait with
      | some (.parked w) => some w
      | _ => none
    let w : Thread := { t with unit := u, slot := n, held := held, gen := (mget (s.unit u).gens n).getD 0, former := t.ref :: t.former, st := st,
                               eligRound := s.round + 1 }
    let s := s.setThread w
    match w.st with
    | .parked .switch => if w.complete then s.sched 0 rankLate (.switchPointCommit w.ref) else s
    | .ready => if w.rb.isEmpty then s else (s.switchPoint w)
    | .halted =>
      (match State.haltCommit w with
       | (u, some c) => (s.consume u c.p c.va c.pa).onRef w.ref fun t => { t with st := .halted }
       | (u, none) => s.setThread u)
    | _ => s

/-- A command or copy belongs to the thread in its new slot. -/
def renamed (ts : List Thread) (r : ThreadRef) : ThreadRef :=
  match ts.find? fun t => t.answers r with
  | some t => t.ref
  | none => r

/-- A channel of a restored crew (R162): one that stopped with a copy goes on with it. One that a fault stopped has none to go on with: DESIGN
CHOICE, the next queued copy starts there, and with none the channel is IDLE and its watermark stays (log entry 45). -/
def resumeChan (u ch : Nat) : State :=
  let x := s.chan u ch
  match x.st, x.cur, x.queue with
  | .stopped, some c, _ => (s.setChan u ch { x with st := .run }).sched (s.copyDelay u c) (rankCx u) (.cxBlockWrite u ch)
  | .stopped, none, c :: r => s.copyGo u ch { x with queue := r } c
  | .stopped, none, [] => s.setChan u ch { x with st := .idle }
  | _, _, _ => s

/-- Starts again what the engines of a restored crew have not done (R177). How long after the restore each does its first work the manual does not
say: DESIGN CHOICE, as long as after the issue of a command, or the start of a copy (log entry 45). -/
def resumeEngines (v : Saved) (u : Nat) : State :=
  let s := v.cmds.foldl (fun s c =>
    if c.cancelled then s.sched 0 (rankEng u c.eng) (.engineFault u c.id)
    else match c.eng, c.res with
      | .tmv, _ => s.sched (s.returnAfter u (tileBlock c.src c.next % 2 ^ 40)) (rankEng u .tmv) (.tmvBlockDone u c.id)
      | _, some r => s.sched 0 (rankEng u c.eng) (if r.fault.isSome then .engineFault u c.id else .donePost u c.id)
      | _, none => s) s
  let s := v.chans.foldl (fun s e => s.resumeChan u e.1) s
  (s.sched 16 (rankEng u .vx) (.vxStart u)).nudgeMx

/-- Restores a crew on a unit (R50, R51, R177); its shared segments have come back. -/
def restoreCrew (l : Launch) (kept : Saved) (u : Nat) : State :=
  let old := kept.crew.unit
  let v := s.readImage kept
  let r := restoreS1 u 0 s (segOffsets (v.image + imageFixed v.ganged) (sortSegs v.crew.s1)) []
  let s := r.1.grantShared l.ltag u
  let s := s.setCrew { v.crew with unit := u, s1 := r.2, closed := false }
  let s := v.threads.foldl (fun s t => s.replaceThread t u) s
  let ts := s.crewThreads l.ltag u
  let ms := movesOf 1 old u v.crew.s1 r.2 ++
    v.shared.flatMap fun h => movesOf h.lvl (inst h.lvl old) (inst h.lvl u) [h.seg] (s.segs l.ltag u h.lvl)
  let piece (p : Nat × Nat × Nat) : Nat × Nat × Nat := (p.1, movedGpa ms s.devid p.2.1, p.2.2)
  let result (r : CmdResult) : CmdResult := { r with fault := r.fault.map fun f => { f with pa := wd (movedGpa ms s.devid f.pa.toNat) } }
  let cmds := v.cmds.map fun c => { c with t := renamed ts c.t, issued := s.now, src := c.src.map piece, dst := c.dst.map piece,
                                           res := c.res.map result }
  let board := v.board.map fun b => { b with ext := b.ext.map fun x => (moved ms x.1, x.2) }
  let copy (c : Copy) : Copy := { c with t := renamed ts c.t }
  let chans := v.chans.map fun e => (e.1, { e.2 with cur := e.2.cur.map copy, queue := e.2.queue.map copy })
  let s := s.onUnit u fun x =>
    { x with cmds := x.cmds ++ cmds, board := x.board ++ board, tmpls := v.tmpls.foldl (fun m e => mset m e.1 e.2) x.tmpls, tiles := v.tiles,
             latch0 := v.latch0, latch1 := v.latch1, chans := chans.foldl (fun m e => mset m e.1 e.2) x.chans }
  let s := v.bars.foldl (fun s y =>
    match s.seg? l.ltag u y.1 y.2.1 with
    | some g => { s with barriers := putBarrier s.barriers { y.2.2.2 with pa := segAddr y.1 (inst y.1 u) g y.2.2.1, home := inst y.1 u } }
    | none => s) s
  s.resumeEngines { v with cmds := cmds } u

/-- Restores every crew of a gang at a window (R50); its images are free. -/
def restoreGang (l : Launch) (vs : List Saved) (x gang : Nat) : State :=
  let s := { s with disp := { s.disp with ptr := (x + 1) % 128 } }
  let s := vs.zipIdx.foldl (fun s (v, i) => v.shared.foldl (fun s h => s.restoreShared l.ltag (x + i) h) s) s
  let s := vs.zipIdx.foldl (fun s (v, i) => s.restoreCrew l v (x + i)) s
  { s with disp := { s.disp with saved := s.disp.saved.filter fun v => !(v.crew.ltag == l.ltag && v.crew.gang == gang) } }.preemptDone 0

end State

/-- PREEMPT_RESTORE (R50, R233): a gang that is not saved, or awaits a reply to a remote load, is not restored. -/
def execPreemptRestore (s : State) : Host.Outcome State Fault Refusal :=
  event <|
    let tag := bits s.disp.preempt 32 16
    let gang := bits s.disp.preempt 8 8
    let vs := s.savedGang tag gang
    if !vs.any (fun v => v.crew.idx == bits s.disp.preempt 0 5) then s.preemptDone 1
    else if vs.any fun v => v.outstanding != 0 then s.preemptDone 3
    else s.sched 0 rankDisp (.crewRestore tag gang)

/-- CREW_RESTORE (R50): the gang takes a reserved window of its size and kind; while no window grants, it is tried again every
microsecond. The array ECC reports what it finds in the images (R397). -/
def execCrewRestore (ltag gang : Nat) (s : State) : Host.Outcome State Fault Refusal :=
  event <|
    let vs := s.savedGang ltag gang
    match s.launch? ltag with
    | none => s.preemptDone 1
    | some l =>
      if vs.isEmpty then s.preemptDone 1
      else match s.restoreWindow l vs with
        | some x =>
          if vs.any fun v => s.spanHeld v.image v.size then s.sched 1 rankDisp (.crewRestore ltag gang)
          else (s.ueReads 0 0 (vs.flatMap fun v => s.poisonedIn v.image v.size)).restoreGang l vs x gang
        | none => s.sched (us 1) rankDisp (.crewRestore ltag gang)

end Sys2Proof.Machine
end

