-- ==== Sys2Proof/Machine/Host.lean ====
section
/-! DEFINITION. Bring-up (R225 to R231), resets, the host port and the firmware mailbox (R222 to R224, R228 to R231), and the vendor's
binding procedure (R16). -/

namespace Sys2Proof.Machine

/-! ## The default binding (R16) -/

/-- The procedure's state: the highest slab bound, plus one; the next logical unit; the bindings, latest first. -/
structure Binding where
  last1 : Nat
  n : Nat
  bound : List (Nat × List Nat)
  deriving DecidableEq, Repr

/-- The lowest `want` adjacent good slabs above the last one that front end `f` reaches. -/
def slabsFor (good : Nat → Bool) (want last1 f : Nat) : Option (List Nat) :=
  (((List.range 3).map fun d => f + d).find? fun x =>
    -- x − 1 is the first slab
    1 ≤ x && last1 < x && x + want - 1 ≤ f + 2 && x + want - 1 ≤ 36 && (List.range want).all fun k => good (x - 1 + k)).map fun x =>
      (List.range want).map fun k => x - 1 + k

/-- One front end of the procedure; none is error GANG. -/
def bindOne (goodFe goodSlab : Nat → Bool) (gangs : List Nat) (b : Option Binding) (f : Nat) : Option Binding :=
  match b with
  | none => none
  | some b =>
    if b.n = 32 || !goodFe f then some b
    else
      let want := if gangs.contains b.n then 2 else 1
      match slabsFor goodSlab want b.last1 f with
      | some xs => some { last1 := xs.getLastD 0 + 1, n := b.n + 1, bound := (f, xs) :: b.bound }
      | none => if want = 2 then none else some b

/-- The vendor's binding of a stack: front ends with their slabs, in order of the logical units; none is error GANG (R16). -/
def vendorBinding (goodFe goodSlab : Nat → Bool) (gangs : List Nat) : Option (List (Nat × List Nat)) :=
  ((List.range 36).foldl (bindOne goodFe goodSlab gangs) (some { last1 := 0, n := 0, bound := [] })).map fun b => b.bound.reverse

/-! ## Images (R228) -/

namespace State
variable (s : State)

/-- The key of a command or image hashes to a slot that the policy allows (R228). -/
def keyAllowed (key : List Byte) : Bool :=
  let h := sha512 key
  (s.pkg.mode != 2 && h == s.pkg.vendor) || (s.pkg.mode != 0 && s.pkg.owner == some h)

/-- An image is accepted (R228). -/
def imageOk (i : Image) : Bool := s.keyAllowed i.key && pssVerify i.key i.body i.sig && s.pkg.minSvn ≤ i.svn

/-- The package firmware runs: its image was verified and measured into M0 (R227). -/
def running : Bool := (mget s.pkg.measures 0).isSome

/-- The firmware extends a measurement of M2 to M7 (R230): the SHA-512 of the old value and what is measured (PRESUMED; log entry 67). -/
def extend (m : Nat) (data : List Byte) : State :=
  if m < 2 || 8 ≤ m then s
  else { s with pkg := { s.pkg with
    measures := mset s.pkg.measures m (sha512 (natLe 64 ((mget s.pkg.measures m).getD 0).toNat ++ data)) } }

/-- Measurement `m` is that of an accepted image (R227, R230), whose firmware extends others as it starts. -/
def measure (m : Nat) (i : Image) : State :=
  i.exts.foldl (fun s e => s.extend e.1 e.2) { s with pkg := { s.pkg with measures := mset s.pkg.measures m (sha512 i.body) } }

/-- The failure cause in BOOTSTAT (R233). -/
def bootCause (c : BitVec 8) : State :=
  { s with pkg := { s.pkg with bootstat := wd (s.pkg.bootstat.toNat % 256 + c.toNat * 256) } }

/-- A mailbox command is over: its result, and its vector (R231, R233). -/
def mbxFinish (r : BitVec 8) : State :=
  { s with host := { s.host with mbxBusy := false, mbxResult := r } }.msi (bits s.host.mbxVec 0 11)

end State

/-- BOOT (R227 to R229): slot A, else slot B; with both refused, recovery mode. -/
def execBoot (slotA slotB : Option Image) (s : State) : Host.Outcome State Fault Refusal :=
  event <|
    let ok (i : Option Image) : Option Image := i.filter s.imageOk
    match ok slotA, ok slotB with
    | some a, _ => { s with pkg := { s.pkg with bootstat := 0, recovery := false } }.measure 0 a
    | none, some b => { s with pkg := { s.pkg with bootstat := 1, recovery := false } }.measure 0 b
    | none, none => { s with pkg := { s.pkg with recovery := true, hostUp := true } }.bootCause (Config.bootCause 0)

/-- HOST_LINK_TRAIN (R222, R227). -/
def execHostLinkTrain (s : State) : Host.Outcome State Fault Refusal :=
  event <| if s.running then { s with pkg := { s.pkg with hostUp := true } } else s

/-- STACK_IMAGE_VERIFY (R227, R228, R380): the harts of each stack start, and read the fuse map. -/
def execStackImageVerify (img : Image) (s : State) : Host.Outcome State Fault Refusal :=
  event <|
    if !s.running then s
    else if s.imageOk img then
      let pos := (List.range 144).foldl (fun m i =>
        let q := (mget m i).getD .reset
        let q : LbPos := { q with febad := Config.feBad i, slbad := Config.slabBad i }
        mset m i q) s.lat.pos
      { s with lat := { s.lat with pos := pos }, pkg := { s.pkg with stew := true } }.measure 1 img
    else s.bootCause (Config.bootCause 1)

/-- Step 3 of bring-up, for an HBM4E stack (bit h) or the binding of a stack (bit 8 + s), has been taken (R227). -/
def State.took (s : State) (b : Nat) : State := { s with pkg := { s.pkg with step3 := s.pkg.step3 ||| BitVec.ofNat 12 (2 ^ b) } }

/-- HBM_TRAIN (R226, R227, R380, R399): LANEMAP takes the repairs found at training. -/
def execHbmTrain (h : Nat) (ok : Bool) (lanes : List (Nat × Half)) (s : State) : Host.Outcome State Fault Refusal :=
  event <|
    if !s.pkg.stew || s.pkg.dead || 8 ≤ h then s
    else
      let log := nget s.pkg.hbmLogs h { arr := [], xfer := [], testing := [], alogn := 0, tlogn := 0, lanemap := [] }
      let log := { log with lanemap := lanes.foldl (fun m e => mset m e.1 (e.2.setWidth 64 &&& 0xBFBF)) [] }
      let bit := BitVec.ofNat 8 (2 ^ h)
      let s := s.took h
      let s := { s with pkg := { s.pkg with hbmLogs := nset s.pkg.hbmLogs h log, hbm := if ok then s.pkg.hbm ||| bit else s.pkg.hbm &&& ~~~bit } }
      if ok then s else s.replace 6

/-- Step 3 of bring-up has been taken on a stack (R227). -/
def State.stackUp (s : State) (st : Nat) : Bool :=
  s.pkg.stew && s.pkg.step3.getLsbD (2 * st) && s.pkg.step3.getLsbD (2 * st + 1) && s.pkg.step3.getLsbD (8 + st)

/-- LINK_TRAIN (R203, R210, R226, R227, R236, R380): the link runs at 2.0 where both sides offer it, else at 1.2; `fibres` has a bit for each
live transmit fibre of each end, and with none at one end the port does not serve (R411). Without a common version the port stays down. The
harts of the port's stack train it after step 3 of bring-up, with the escape lane reserved. -/
def execLinkTrain (p : Nat) (theirs12 theirs20 : Bool) (partnerDev partnerPort : Nat) (fibres : LinkFibres) (s : State) :
    Host.Outcome State Fault Refusal :=
  event <|
    if !s.stackUp (p / 4) || bits (nget s.fab.escbase (p / 4) 0) 0 32 = 0 || s.pkg.dead || 16 ≤ p then s
    else if !theirs12 && !theirs20 then
      (s.record { cls := 4, scope := 4, cause := 0x211, agent := 11, detail := wd p }).replace 5
    else
      let live := ((List.range 8).filter fun f => fibres.tx.testBit f).length
      let rx := BitVec.ofNat 8 fibres.rx
      let serves := live != 0 && rx != 0
      let x : Link := { up := serves, ver20 := theirs20, fibres := live, partnerDev := partnerDev % 4096, partnerPort := partnerPort % 16,
                        replays := (nget s.fab.links p Link.reset).replays, retrains := 0, holding := false, debt := 0, paidAt := 0, rx := rx }
      { s with
        fab := { s.fab with links := nset s.fab.links p x },
        phot := { s.phot with fup := nset s.phot.fup p (BitVec.ofNat 8 fibres.tx) },
        pkg := { s.pkg with opt := (s.pkg.opt &&& ~~~(BitVec.ofNat 16 (2 ^ p))) ||| (if serves then BitVec.ofNat 16 (2 ^ p) else 0) } }

/-- DISP_READY (R227): after the steps of bring-up that come before it on every stack, SAVEBASE, SAVESZ, the escape lanes, DIRBASE and RUFREE
are set, and the dispatcher serves launch ports. -/
def execDispReady (savebase savesz dirbase rufree : Word) (esc : List Word) (s : State) : Host.Outcome State Fault Refusal :=
  event <|
    if !(List.range 4).all s.stackUp || s.pkg.dead then s
    else
      { s with
        disp := { s.disp with savebase := savebase &&& ~~~0xFFFF, savesz := savesz },
        trans := { s.trans with dirbase := dirbase &&& ~~~(0xFFFFF : Word), rufree := rufree },
        fab := { s.fab with escbase := (esc.take 4).zipIdx.foldl (fun v e => nset v e.2 e.1) s.fab.escbase },
        pkg := { s.pkg with disp := true } }

/-- The firmware clears the READY bit of a stack that has a retired part, where no launch holds a unit of it, so that it can be bound again
(R15, R412). -/
def State.clearRetired (s : State) (st : Nat) : State :=
  if ((List.range 36).any fun f => (s.lpos st f).feret || (s.lpos st f).slret) && !s.disp.crews.any (fun c => stackOf c.unit == st) then
    { s with pkg := { s.pkg with lat := s.pkg.lat &&& ~~~(BitVec.ofNat 4 (2 ^ st)) } }
  else s

/-- The vendor firmware writes the binding of its procedure into LBPOS (R16); an error GANG leaves them, and nothing is applied. -/
def State.bindVendor (s : State) (st : Nat) (gangs : List Nat) : Option State :=
  (vendorBinding (fun f => !(s.lpos st f).febad && !(s.lpos st f).feret) (fun f => !(s.lpos st f).slbad && !(s.lpos st f).slret) gangs).map fun bs =>
    let pos := (List.range 36).foldl (fun m f =>
      let q := s.lpos st f
      let q := match bs.find? fun b => b.1 == f with
        | some b => { q with en := true, gang := b.2.length == 2, psel := BitVec.ofNat 2 (b.2.headD 0 + 1 - f) }
        | none => { q with en := false }
      mset m (36 * st + f) q) s.lat.pos
    { s with lat := { s.lat with pos := pos } }

/-- APPLY by the firmware once the stack's harts run (R14 to R20, R227, R412): the vendor's binds by R16, with the gang list that it is given;
an owner build applies what it has written into LBPOS. -/
def execApply (c : BindCommand) (s : State) : Host.Outcome State Fault Refusal :=
  event <|
    if 4 ≤ c.stack || !s.pkg.stew then s
    else
      let s := (s.clearRetired c.stack).took (8 + c.stack)
      match c.gangs with
      | none => s.applyBinding c.stack
      | some gs =>
        -- the registers take no effect before an accepted APPLY (R18); one that finds the bit set is BUSY (R15)
        match s.bindVendor c.stack gs with
        | some s' => s'.applyBinding c.stack
        | none => s

/-- COLD_RESET (R7, R225): every register takes its reset value, and bring-up starts again; fuses stay, and what is to come from outside
still comes. -/
def execColdReset (s : State) : Host.Outcome State Fault Refusal :=
  event { State.reset with
    inputs := s.inputs, free := s.free,
    pkg := { Package.reset with mode := s.pkg.mode, owner := s.pkg.owner, vendor := s.pkg.vendor, minSvn := s.pkg.minSvn } }

/-- FUNCTION_LEVEL_RESET (R222, R223, R409): every launch ends with ENDED, the launch ports are as after reset, and the reply cache is
empty. The function is in D0 (log entry 66). -/
def execFunctionLevelReset (s : State) : Host.Outcome State Fault Refusal :=
  event <|
    let s := s.disp.launches.foldl (fun s l => s.endLaunch l.1 2 0) s
    { s with disp := { s.disp with ports := Vector.replicate 8 .reset }, fab := { s.fab with cache := [] }, host := { s.host with d3hot := false } }

/-! ## The host port (R155, R222, R223, R226) -/

/-- REGISTER_WRITE (R8, R9, R155, R222, R223): a write through BAR 0, after the BAR 2 writes that came before it; or a write to the
configuration space: PowerState, 0 for D0 and 3 for D3hot; the size of BAR 2, 2^n MiB from 1 GiB to 64 GiB; the uncorrectable error status,
W1C. What the PCI Express standard gives these and the manual does not is log entry 66. -/
def execRegisterWrite (r : HostReg) (size : Nat) (data : Word) (s : State) : Host.Outcome State Fault Refusal :=
  event <| if !s.pkg.hostUp then s
  else if s.hostWaits then s.sched 1 State.rankAgain (.registerWrite r size data)
  else match r with
  | .bar0 off => if !s.host.d3hot && barOk off size then s.regStore off size data else s.hostLog
  | .power =>
    if bits data 0 2 = 0 then { s with host := { s.host with d3hot := false } }
    else if bits data 0 2 = 3 then { s with host := { s.host with d3hot := true } } else s
  | .bar2Size => if 10 ≤ data.toNat && data.toNat ≤ 16 then { s with host := { s.host with bar2 := 2 ^ (20 + data.toNat) } } else s
  | .errors => { s with host := { s.host with aer := s.host.aer &&& ~~~(data.setWidth 32) } }

/-- HBMPLACE_WRITE (R110, R111, R155). -/
def execHbmplaceWrite (hi : Bool) (v : Word) (s : State) : Host.Outcome State Fault Refusal :=
  event <| if s.hostWaits then s.sched 1 State.rankAgain (.hbmplaceWrite hi v)
  else s.regWrite (if hi then 0x30058 else 0x30050) v (BitVec.allOnes 64)

/-- DESCRIPTOR_WINDOW_WRITE (R113, R155, R233). -/
def execDescriptorWindowWrite (off size : Nat) (data : Word) (s : State) : Host.Outcome State Fault Refusal :=
  event <| if s.hostWaits then s.sched 1 State.rankAgain (.descriptorWindowWrite off size data)
  else if barOk (0x1000000 + off) size && off < 0x1000000 then s.regStore (0x1000000 + off) size data else s.hostLog

namespace State
variable (s : State)

/-- The HBM addresses of a BAR 2 access, where the function is in D0 and all their stacks serve (R222, R223, R226). -/
def bar2At (off n : Nat) : Option Nat :=
  let a := s.trans.hwinbase.toNat + off
  if s.host.d3hot || s.host.bar2 < off + n || 2 ^ 39 < a + n then none
  else if (List.range (n / 64 + 2)).all fun i => s.pkg.hbm.getLsbD (s.channel (min (a + 64 * i) (a + n - 1)) / 64) then some a else none

/-- The blocks of a range. -/
def blocksOf (a n : Nat) : List Nat := (List.range ((a + n - 1) / 64 - a / 64 + 1)).map fun i => a / 64 * 64 + 64 * i

/-- An access of the host waits: for a posted write that came before (R155), a lane test (R398), or a bank (R109). -/
def hostHeld (a n : Nat) : Bool := s.hostWaits || s.rangeHeld a n || s.waitsOn [(a, n)] false || (blocksOf a n).any fun b => !s.bankFree b

/-- The banks of a range have accepted an access. -/
def takeBanks (a n : Nat) : State := (blocksOf a n).foldl (fun s b => s.takeBank b) s

/-- Bytes written by an agent that writes data only: a dword wholly overwritten is no longer poisoned (R395). -/
def putBytes (a : Nat) (bs : List Byte) : State :=
  let first := (a + 7) / 8
  let last := (a + bs.length) / 8
  { s with mem := wrBytes s.mem a bs, psn := if first < last then mclear s.psn first last else s.psn }

end State

/-- HOST_BAR2_WRITE (R155, R223): data only; one that a stack does not serve is dropped and logged, and one that a lane test or a bank holds
waits (R109, R398). -/
def execHostBar2Write (off : Nat) (data : List Byte) (s : State) : Host.Outcome State Fault Refusal :=
  event <| if !s.pkg.hostUp then s
  else match s.bar2At off data.length with
  | some a => if s.hostHeld a data.length then s.sched 1 State.rankAgain (.hostBar2Write off data) else (s.takeBanks a data.length).putBytes a data
  | none => if s.hostWaits then s.sched 1 State.rankAgain (.hostBar2Write off data) else s.hostLog

/-- The dwords of a host read, the last one short; a poisoned one has an open value, and is reported (R397). -/
def barWords (s : State) (a n : Nat) : State × List (Option Word) :=
  (List.range ((n + 7) / 8)).foldl (fun (s, ws) i =>
    let r := s.eccVal 0 0 (a + 8 * i) (s.load (a + 8 * i) (min 8 (n - 8 * i)))
    (r.1, ws ++ [some (match r.2.psn with | some _ => Config.poisonRead (s.free + i) | none => r.2.v)])) (s, [])

/-- HOST_BAR2_READ (R155, R223): what the host receives stands at the head of the reads, the last dword first. -/
def execHostBar2Read (off n : Nat) (s : State) : Host.Outcome State Fault Refusal :=
  event <| if !s.pkg.hostUp then s
  else match s.bar2At off n with
  | some a =>
    if s.hostHeld a n then s.sched 1 State.rankAgain (.hostBar2Read off n)
    else
      let r := barWords (s.takeBanks a n) a n
      { r.1 with free := r.1.free + (n + 7) / 8, host := { r.1.host with reads := r.2.reverse ++ r.1.host.reads } }
  | none => s.unsupportedRead

/-- MSIX_UNMASK (R155, R224). -/
def execMsixUnmask (vec : Nat) (s : State) : Host.Outcome State Fault Refusal :=
  event <| if s.hostWaits then s.sched 1 State.rankAgain (.msixUnmask vec) else s.msixWrite (vec % 2048) 1 0 (wd (2 ^ 32))

/-! ## Mailbox commands (R228 to R231) -/

/-- OWNERSET and the move of KEYPOL.MODE (R228): the slot is written only while it is empty, by a command signed by a key that the mode
allows; MODE moves only forward, and 0b11 is refused. -/
def execOwnerset (c : KeyCommand) (key sig : List Byte) (s : State) : Host.Outcome State Fault Refusal :=
  event <|
    if !s.host.mbxBusy then s
    else match c with
    | .owner hash =>
      let ok := s.pkg.owner.isNone && s.keyAllowed key && pssVerify key (natLe 64 hash.toNat) sig
      (if ok then { s with pkg := { s.pkg with owner := some hash } } else s).mbxFinish (Config.mbxDone ok)
    | .mode m =>
      let ok := m != 3 && s.pkg.mode.toNat < m.toNat
      (if ok then { s with pkg := { s.pkg with mode := m } } else s).mbxFinish (Config.mbxDone ok)

/-- STAGED_IMAGE (R229, R380): in recovery mode, an accepted image runs, and the BOOT record is written. -/
def execStagedImage (img : Image) (s : State) : Host.Outcome State Fault Refusal :=
  event <|
    if !s.pkg.recovery || !s.host.mbxBusy then s
    else if s.imageOk img then
      (({ s with pkg := { s.pkg with recovery := false } }.measure 0 img).record
        { cls := 5, scope := 5, cause := 0x210, agent := 11, detail := s.pkg.bootstat }).mbxFinish (Config.mbxDone true)
    else s.mbxFinish (Config.mbxDone false)

/-- The bytes of the report before its signature (R230). -/
def attestBody (s : State) : List Byte :=
  let w (v : Word) : List Byte := natLe 8 v.toNat
  let nonce := (List.range 64).map fun i => (mget s.host.mbxData i).getD 0
  let m (i : Nat) : List Byte := natLe 64 ((mget s.pkg.measures i).getD 0).toNat
  let conf := (List.range 4).flatMap (fun st => (List.range 36).flatMap fun f => w (s.latticeReg st (0x100 + 8 * f))) ++
    (List.range 4).flatMap (fun st => w (s.latticeReg st 8)) ++ (List.range 16).map fun p => BitVec.ofNat 8 (b01 (nget s.fab.links p Link.reset).ver20)
  natLe 8 (0x53484B41 + 2 ^ 32) ++ w Config.serial ++ w 0x27000000 ++ w 0x27000100 ++ w 0x7FF ++ w (s.packageReg 0x48) ++ w (wd s.pkg.minSvn) ++
    w 0 ++ nonce ++ (List.range 8).flatMap m ++ natLe 64 (sha512 conf).toNat

/-- ATTEST (R230): the nonce stands at the start of MBXDATA, and the report replaces it. -/
def execAttest (s : State) : Host.Outcome State Fault Refusal :=
  event <|
    if !s.host.mbxBusy then s
    else
      let b := attestBody s
      let r := b ++ natLe 512 (Config.attestSign b).toNat
      let d := r.zipIdx.foldl (fun m e => mset m e.2 e.1) s.host.mbxData
      { s with host := { s.host with mbxData := d } }.mbxFinish (Config.mbxDone true)

end Sys2Proof.Machine
end

