-- ==== Sys2Proof/Machine/Immediate.lean ====
section
/-! DEFINITION. Immediate, move and bit-field forms (R268 to R270). -/

namespace Sys2Proof.Machine

/-- ADDI with imm8 (R268). -/
def execAddi (sm : Bool) (i : BitVec 8) (d a : Operand) (s : State) : Host.Outcome State Fault Refusal :=
  onCur s fun t => s.aluDone t 1 sm d (t.rd a + imm8 i)

/-- ADDI with a literal (R268, R241). -/
def execAddiLit (sm : Bool) (lit : Word) (d a : Operand) (s : State) : Host.Outcome State Fault Refusal :=
  onCur s fun t => s.aluDone t 3 sm d (t.rd a + lit)

/-- MULI with imm8 (R268). -/
def execMuli (sm : Bool) (i : BitVec 8) (d a : Operand) (s : State) : Host.Outcome State Fault Refusal :=
  onCur s fun t => s.aluDone t 1 sm d (t.rd a * imm8 i)

/-- MULI with a literal (R268, R241). -/
def execMuliLit (sm : Bool) (lit : Word) (d a : Operand) (s : State) : Host.Outcome State Fault Refusal :=
  onCur s fun t => s.aluDone t 3 sm d (t.rd a * lit)

/-- ANDI with imm8 (R268). -/
def execAndi (sm : Bool) (i : BitVec 8) (d a : Operand) (s : State) : Host.Outcome State Fault Refusal :=
  onCur s fun t => s.aluDone t 1 sm d (t.rd a &&& imm8 i)

/-- ANDI with a literal (R268, R241). -/
def execAndiLit (sm : Bool) (lit : Word) (d a : Operand) (s : State) : Host.Outcome State Fault Refusal :=
  onCur s fun t => s.aluDone t 3 sm d (t.rd a &&& lit)

/-- ORI with imm8 (R268). -/
def execOri (sm : Bool) (i : BitVec 8) (d a : Operand) (s : State) : Host.Outcome State Fault Refusal :=
  onCur s fun t => s.aluDone t 1 sm d (t.rd a ||| imm8 i)

/-- ORI with a literal (R268, R241). -/
def execOriLit (sm : Bool) (lit : Word) (d a : Operand) (s : State) : Host.Outcome State Fault Refusal :=
  onCur s fun t => s.aluDone t 3 sm d (t.rd a ||| lit)

/-- XORI with imm8 (R268). -/
def execXori (sm : Bool) (i : BitVec 8) (d a : Operand) (s : State) : Host.Outcome State Fault Refusal :=
  onCur s fun t => s.aluDone t 1 sm d (t.rd a ^^^ imm8 i)

/-- XORI with a literal (R268, R241). -/
def execXoriLit (sm : Bool) (lit : Word) (d a : Operand) (s : State) : Host.Outcome State Fault Refusal :=
  onCur s fun t => s.aluDone t 3 sm d (t.rd a ^^^ lit)

/-- MINI with imm8 (R268). -/
def execMini (sm : Bool) (i : BitVec 8) (d a : Operand) (s : State) : Host.Outcome State Fault Refusal :=
  onCur s fun t => s.aluDone t 1 sm d (minOf false (t.rd a) (imm8 i))

/-- MINI with a literal (R268, R241). -/
def execMiniLit (sm : Bool) (lit : Word) (d a : Operand) (s : State) : Host.Outcome State Fault Refusal :=
  onCur s fun t => s.aluDone t 3 sm d (minOf false (t.rd a) (lit))

/-- MAXI with imm8 (R268). -/
def execMaxi (sm : Bool) (i : BitVec 8) (d a : Operand) (s : State) : Host.Outcome State Fault Refusal :=
  onCur s fun t => s.aluDone t 1 sm d (maxOf false (t.rd a) (imm8 i))

/-- MAXI with a literal (R268, R241). -/
def execMaxiLit (sm : Bool) (lit : Word) (d a : Operand) (s : State) : Host.Outcome State Fault Refusal :=
  onCur s fun t => s.aluDone t 3 sm d (maxOf false (t.rd a) (lit))

/-- SHLI (R268). -/
def execShli (sm : Bool) (c : BitVec 6) (d a : Operand) (s : State) : Host.Outcome State Fault Refusal :=
  onCur s fun t => s.aluDone t 1 sm d (t.rd a <<< c.toNat)

/-- SHRI (R268); arithmetic when imm8[6] = 1. -/
def execShri (sm arith : Bool) (c : BitVec 6) (d a : Operand) (s : State) : Host.Outcome State Fault Refusal :=
  onCur s fun t => s.aluDone t 1 sm d (if arith then (t.rd a).sshiftRight c.toNat else t.rd a >>> c.toNat)

/-- ROTI (R268). -/
def execRoti (sm : Bool) (c : BitVec 6) (d a : Operand) (s : State) : Host.Outcome State Fault Refusal :=
  onCur s fun t => s.aluDone t 1 sm d ((t.rd a).rotateLeft c.toNat)

/-- LI with imm8 (R268). -/
def execLi (sm : Bool) (i : BitVec 8) (d : Operand) (s : State) : Host.Outcome State Fault Refusal :=
  onCur s fun t => s.aluDone t 1 sm d (imm8 i)

/-- LI with a literal (R268, R241). -/
def execLiLit (sm : Bool) (lit : Word) (d : Operand) (s : State) : Host.Outcome State Fault Refusal :=
  onCur s fun t => s.aluDone t 3 sm d lit

/-- LEA (R269): a + b × 8, or × 64 with X. -/
def execLea (sm x : Bool) (d a b : Operand) (s : State) : Host.Outcome State Fault Refusal :=
  onCur s fun t => s.aluDone t 1 sm d (t.rd a + t.rd b * (if x then 64 else 8))

/-- BFX (R270): the field at POS of WID bits, zero-extended. -/
def execBfx (sm : Bool) (pos wid1 : BitVec 6) (d a : Operand) (s : State) : Host.Outcome State Fault Refusal :=
  onCur s fun t => s.aluDone t 3 sm d (extractField pos.toNat (wid1.toNat + 1) (t.rd a))

/-- BFI (R270): the low WID bits of a inserted into d at POS. -/
def execBfi (sm : Bool) (pos wid1 : BitVec 6) (d a : Operand) (s : State) : Host.Outcome State Fault Refusal :=
  onCur s fun t => s.aluDone t 3 sm d (insertField pos.toNat (wid1.toNat + 1) (t.rd d) (t.rd a))

/-- MOV (R269). -/
def execMov (sm : Bool) (d a : Operand) (s : State) : Host.Outcome State Fault Refusal :=
  onCur s fun t => s.aluDone t 1 sm d (t.rd a)

/-- PFR (R269): MOV into the operand file. -/
def execPfr (sm : Bool) (d : BitVec 3) (a : Operand) (s : State) : Host.Outcome State Fault Refusal :=
  onCur s fun t => s.aluDone t 1 sm (.opf d) (t.rd a)

end Sys2Proof.Machine
end

