-- ==== Sys2Proof/Machine/Translation.lean ====
section
/-! DEFINITION. Page walks as they end (R125, R388), and the invalidation of translations (R126, R233). -/

namespace Sys2Proof.Machine

namespace State
variable (s : State)

/-- The entries that a cluster keeps when it caches one more: 4,096 of them, the latest first (R125). -/
def cacheEntry (e : TlbEnt) : State :=
  let rest := s.trans.tlb.filter fun x => !(x.cluster == e.cluster && x.root == e.root && x.va == e.va && x.size == e.size)
  let own := (rest.filter fun x => x.cluster == e.cluster).take 4095
  let others := rest.filter fun x => x.cluster != e.cluster
  { s with trans := { s.trans with tlb := e :: own ++ others } }

/-- Every cluster drops the cached entries, and the nodes it has kept, that meet [lo, hi). -/
def dropEntries (lo hi : Nat) : State :=
  { s with trans := { s.trans with tlb := s.trans.tlb.filter fun e => !(e.va < hi && lo < e.va + e.size),
                                   uppers := s.trans.uppers.filter fun u => !(u.va < hi && lo < u.va + nodeSpan u.lvl) } }

/-- A walk ends (R125): its entry is cached, or its access awaits the firmware. It waits while its reads wait at a stack (R226, R398). -/
def walkEnd (cluster root va : Nat) : State :=
  let key := (cluster, root, va)
  let reads := s.walkEntries cluster root va
  if reads.any s.hbmWaits then s.sched 1 rankAgain (.pageWalkEnd cluster root va)
  else
  let x := s.walkStart cluster root va
  let r := s.walkAt va x.1 x.2
  let s := (s.ueReads 0 (4 * cluster) reads).keepUppers cluster root va
  let s := { s with trans := { s.trans with walks := s.trans.walks.filter (· != key) } }
  match r with
  | some (base, size, e, _) => s.cacheEntry { cluster := cluster, root := root, va := base, size := size, entry := e }
  | none => { s with trans := { s.trans with faults := key :: s.trans.faults } }

/-- An access of a thread, or of a copy that runs, awaits the walk. -/
def walkAwaited (cluster root va : Nat) : Bool :=
  s.threads.any (fun t => clusterOf t.unit == cluster && (s.launchOf t).port == root &&
    match t.st with
    | .parked (.walk v _) => v / 4096 * 4096 == va
    | _ => false) ||
  s.units.any fun e => clusterOf e.1 == cluster && e.2.chans.any fun c => c.2.st == .run

end State

/-- PAGE_WALK_END (R122, R125, R388). -/
def execPageWalkEnd (cluster root va : Nat) (s : State) : Host.Outcome State Fault Refusal := event (s.walkEnd cluster root va)

/-- WALK_FAULT_RESOLVE (R125, R388): the firmware writes an entry, and the access repeats its walk; or it delivers TRANSLATION to the
thread, and ends the command of an engine. -/
def execWalkFaultResolve (cluster root va : Nat) (ans : WalkAnswer) (s : State) : Host.Outcome State Fault Refusal :=
  event <|
    let key := (cluster, root, va)
    if !s.trans.faults.contains key then s
    else
      let s := { s with trans := { s.trans with faults := s.trans.faults.filter (· != key) } }
      match ans with
      | .mapped a e => s.store (a / 8 * 8) 8 ⟨e, none⟩
      | .deliver => if s.walkAwaited cluster root va then { s with trans := { s.trans with deliver := key :: s.trans.deliver } } else s

/-- TINV (R126, R233): every cluster drops its entries in [TINVBASE, TINVLIM). -/
def execTinv (s : State) : Host.Outcome State Fault Refusal :=
  event <|
    let s := s.dropEntries s.trans.tinvbase.toNat s.trans.tinvlim.toNat
    { s with trans := { s.trans with tinvBusy := true, tinvAt := s.now } }.sched 512 rankRes .tinvComplete

/-- Accesses that the dropped entries translated are still to be accepted: those of threads, and the tile moves in flight (R126, R233). -/
def State.tinvPending (s : State) : Bool :=
  let lo := s.trans.tinvbase.toNat
  let hi := s.trans.tinvlim.toNat
  let range (a n : Nat) : Bool := a < hi && lo < a + n
  s.agenda.any (fun e => match e.ev.op with
    | .bankAccept a => range a.va.toNat a.size
    | _ => false) ||
  s.units.any fun u => u.2.cmds.any fun c =>
    c.eng == .tmv && c.issued ≤ s.trans.tinvAt &&
      (let rows := bits c.n 0 12 + 1
       let rb := 64 * (bits c.n 12 10 + 1)
       range c.a.toNat ((rows - 1) * bits c.c 0 32 + rb) || range c.d.toNat ((rows - 1) * bits c.c 32 32 + rb))

/-- TINV_COMPLETE (R126, R233): TINVLIM reads zero from now on. -/
def execTinvComplete (s : State) : Host.Outcome State Fault Refusal :=
  event <|
    if !s.trans.tinvBusy || s.now < s.trans.tinvAt + 512 then s
    else if s.tinvPending then s.sched 8 rankRes .tinvComplete
    else { s with trans := { s.trans with tinvBusy := false, tinvlim := 0 } }

end Sys2Proof.Machine
end

