-- ==== Sys2Proof/Machine/Residency.lean ====
section
/-! DEFINITION. The residency unit (R127 to R132, R234, R366 to R368, R415): the directory, splits, collapses, and the commands of service
code (log entry 23 gives the messages of those). -/

namespace Sys2Proof.Machine

/-! ## Page entries -/

/-- A page entry (R123) with the rights of `e`. -/
def entry (e : Word) (res owner pa kind : Nat) : Word := wd (owner * 2 ^ 52 + pa % 2 ^ 52 + bits e 6 4 * 2 ^ 6 + res * 2 ^ 4 + kind * 2 + 1)

/-- Table entries of a page of a KIND (R124). -/
def entries (kind : Nat) : Nat := if kind = 1 || kind = 3 then 16 else if kind = 4 then 128 else 1

/-- A page as a root maps it: its base, size, entry, and the address of its first entry. -/
structure Mapped where
  base : Nat
  size : Nat
  e : Word
  at_ : Nat
  deriving DecidableEq, Repr

/-- Two roots name the same page: the same base and state, or for a REMOTE page the same device (R415). -/
def Mapped.same (x y : Mapped) : Bool :=
  x.base == y.base && x.size == y.size && entRes x.e == entRes y.e &&
    (if entRes x.e = 1 then entPa x.e / 2 ^ 40 == entPa y.e / 2 ^ 40 else entPa x.e == entPa y.e)

namespace State
variable (s : State)

/-- The page at a VA under a root. -/
def mappedBy (root va : Nat) : Option Mapped :=
  match s.walk root va with
  | some (base, size, e, _) => match s.walk root base with
    | some (_, _, _, at_) => some ⟨base, size, e, at_⟩
    | none => none
  | none => none

/-- The pages at a VA under the eight roots, those that share entries once (R415). -/
def mappings (va : Nat) : List Mapped :=
  (List.range 8).foldl (fun l r => match s.mappedBy r va with
    | some m => if l.any (fun x => x.at_ == m.at_) then l else l ++ [m]
    | none => l) []

/-- Those that name the same page as `m`. -/
def samePages (va : Nat) (m : Mapped) : List Mapped := (s.mappings va).filter m.same

/-- The residency unit rewrites the entries of a page, and the clusters drop it from their caches. -/
def writePage (m : Mapped) (e : Word) : State :=
  ((List.range (entries (entKind m.e))).foldl (fun s i => s.store (m.at_ + 8 * i) 8 ⟨e, none⟩) s).dropEntries m.base (m.base + m.size)

/-- Rewrites the page of `m` in every root that names it. -/
def rewritePage (va : Nat) (m : Mapped) (res owner pa : Nat) : State :=
  (s.samePages va m).foldl (fun s x => s.writePage x (entry x.e res owner pa (entKind x.e))) s

/-! ## Nodes and splits (R130, R368) -/

/-- The free nodes at the head of the list, up to `n`. -/
def freeNodes (m : Memory) : Nat → Nat → List Nat
  | 0, _ => []
  | n + 1, a => if a = 0 then [] else a :: freeNodes m n ((leWord (rdBytes m a 8)).toNat / 4096 * 4096)

/-- Takes the head of the free list, its link going into RUFREE (R368). -/
def takeNode : Nat × State :=
  let a := s.trans.rufree.toNat / 4096 * 4096
  (a, { s with trans := { s.trans with rufree := (s.load a 8).v } })

/-- Fills a node with 512 entries. -/
def fillNode (a : Nat) (es : List Word) : State := es.zipIdx.foldl (fun s (e, i) => s.store (a + 8 * i) 8 ⟨e, none⟩) s

/-- A level-3 entry becomes a node of 64 KiB pages (R368). -/
def splitEntry (at_ : Nat) (e : Word) (pa : Nat) : State :=
  let (a, s) := s.takeNode
  let s := s.fillNode a ((List.range 512).map fun i => entry e (entRes e) (entOwner e) (pa + 65536 * (i / 16)) 1)
  s.store at_ 8 ⟨entry e 0 0 (s.devid * 2 ^ 40 + a) 6, none⟩

/-- Nodes that the split of a page takes. -/
def nodesFor (size : Nat) : Nat := if size < 2 ^ 21 then 0 else if size = 2 ^ 30 then 2 else 1

/-- Splits a page around the 64 KiB at a VA (R130). -/
def splitMapped (m : Mapped) (va : Nat) : State :=
  let pa := entPa m.e
  let k := (va - m.base) / 2 ^ 21
  let two (i : Nat) : Word := entry m.e (entRes m.e) (entOwner m.e) (pa + 2 ^ 21 * i) 2
  let s := if m.size = 2 ^ 21 then s.splitEntry m.at_ m.e pa
    else if m.size = 2 ^ 30 then
      let (a, s) := s.takeNode
      let s := s.fillNode a ((List.range 512).map two)
      let s := s.splitEntry (a + 8 * k) (two k) (pa + 2 ^ 21 * k)
      s.store m.at_ 8 ⟨entry m.e 0 0 (s.devid * 2 ^ 40 + a) 6, none⟩
    else
      let s := ((List.range (m.size / 2 ^ 21)).filter (· != k)).foldl (fun s i => s.store (m.at_ + 8 * i) 8 ⟨two i, none⟩) s
      s.splitEntry (m.at_ + 8 * k) (two k) (pa + 2 ^ 21 * k)
  s.dropEntries m.base (m.base + m.size)

/-- Splits a page of 2 MiB or more in every root that names it; none while the free list lacks nodes (R130). -/
def splitPage (va : Nat) (m : Mapped) : Option State :=
  let ms := if m.size < 2 ^ 21 then [] else s.samePages va m
  let need := ms.length * nodesFor m.size
  if (freeNodes s.mem need (s.trans.rufree.toNat / 4096 * 4096)).length < need then none
  else some (ms.foldl (fun s x => s.splitMapped x va) s)

/-! ## The directory (R128, R366, R367) -/

def dirBase : Nat := s.trans.dirbase.toNat / 2 ^ 20 * 2 ^ 20
def slotAt (i : Nat) : Nat := s.dirBase + 64 * i
def slotWord (i k : Nat) : Word := (s.load (s.slotAt i + 8 * k) 8).v
/-- A slot that reads poisoned: what it holds is neither a record nor free (DESIGN CHOICE; log entry 92). -/
def slotBad (i : Nat) : Bool := (s.blockPsn (s.slotAt i)).isSome
def slotFree (i : Nat) : Bool := !s.slotBad i && s.slotWord i 0 == 0
def freeSlots' (n : Nat) : List Nat := ((List.range 16384).filter s.slotFree).take n

/-- A record or holder record of a slot: VA, size, replica count, and the pairs of device and PA. -/
structure DirRec where
  slot : Nat
  va : Nat
  size : Nat
  reps : List (Nat × Nat)
  holder : Bool
  deriving DecidableEq, Repr

def recAt (i : Nat) : DirRec :=
  let d := s.slotWord i 0
  let n := bits d 0 3
  { slot := i, va := bits d 12 45 * 4096, size := kindSize (bits d 9 3), holder := n == 0,
    reps := (List.range (max n 1)).map fun k => let w := s.slotWord i (k + 1); (bits w 52 12, bits w 12 40 * 4096) }

/-- The record of the page, or the holder record of the piece, that covers a VA. -/
def dirFind (va : Nat) (holder : Bool) : Option DirRec :=
  ((List.range 16384).filter fun i => !s.slotBad i && !s.slotFree i).findSome? fun i =>
    let r := s.recAt i
    if r.holder == holder && r.va ≤ va && va < r.va + r.size then some r else none

/-- Writes a slot whole. -/
def writeRec (r : DirRec) : State :=
  let d0 := wd (r.va + kindOf r.size * 2 ^ 9 + if r.holder then 0 else r.reps.length)
  ((d0 :: r.reps.map fun (x : Nat × Nat) => wd (x.1 * 2 ^ 52 + x.2 % 2 ^ 52)) ++ List.replicate (7 - r.reps.length) 0).zipIdx.foldl
    (fun s (w, k) => s.store (s.slotAt r.slot + 8 * k) 8 ⟨w, none⟩) s

def clearRec (i : Nat) : State := (List.range 8).foldl (fun s k => s.store (s.slotAt i + 8 * k) 8 ⟨0, none⟩) s

/-- The pages that a page splits into around the 64 KiB at a VA, by VA: (base, size) (R130). -/
def splitPages (base size va : Nat) : List (Nat × Nat) :=
  (List.range (size / 2 ^ 21)).flatMap fun i =>
    let b := base + 2 ^ 21 * i
    if b ≤ va && va < b + 2 ^ 21 then (List.range 32).map fun k => (b + 65536 * k, 65536) else [(b, 2 ^ 21)]

/-- The owner rewrites the record of a page that splits (R366); none while too few slots are free. -/
def splitRec (r : DirRec) (va : Nat) : Option State :=
  if r.size < 2 ^ 21 then some s
  else
    let ps := splitPages r.va r.size va
    let fs := r.slot :: s.freeSlots' (ps.length - 1)
    if fs.length < ps.length then none
    else some ((ps.zip fs).foldl (fun s (p, i) =>
      s.writeRec { r with slot := i, va := p.1, size := p.2, reps := r.reps.map fun x => (x.1, x.2 + (p.1 - r.va)) }) s)

/-! ## Holds -/

/-- Work that lacks nodes or slots stays parked, and the firmware is notified (R130, R366). -/
def stall' (p : Packet) : State := { s with trans := { s.trans with stalled := s.trans.stalled ++ [p] } }

def addHold (h : Hold) : State :=
  if s.trans.holds.contains h then s else { s with trans := { s.trans with holds := h :: s.trans.holds } }
/-- Releases a hold: the parked accesses go on in the order in which they parked (R129). -/
def release (h : Hold) : State := { s with trans := { s.trans with holds := s.trans.holds.filter (· != h) } }

/-- Accesses to [gpa, gpa + n) that were translated before are still to be accepted: those of threads here, and blocks of tile moves here or on
another device. -/
def pendingAt (gpa n : Nat) : Bool :=
  s.agenda.any (fun e => match e.ev.op with
    | .bankAccept a => meets (s.devid * 2 ^ 40 + a.pa) a.size gpa n
    | _ => false) ||
  s.units.any fun u => u.2.cmds.any fun c => c.eng == .tmv && (c.src ++ c.dst).any fun x => meets x.2.1 (64 * x.2.2) gpa n

/-- The hold on a page as the tables map it. -/
def holdOf (m : Mapped) : Hold := { va := m.base, size := m.size, page := m.base, pageSize := m.size, pa := entPa m.e, write := none }

/-- A residency message changes a page once what was translated before is accepted; new accesses are held till then (R129, R132). -/
def settlePage (p : Packet) (m : Mapped) (k : State → State) : State :=
  if s.pendingAt (entPa m.e) m.size then (s.addHold (holdOf m)).schedRes 1 p else k (s.release (holdOf m))

/-! ## A piece changes state on a device -/

/-- The page at a VA that this device maps as DUPL with that owner (R415). -/
def duplAt (va owner : Nat) : Option Mapped := (s.mappings va).find? fun m => entRes m.e == 2 && entOwner m.e == owner

/-- The page at a VA that this device maps as REMOTE to that device, of that size (R415). -/
def remoteAt (va dev size : Nat) : Option Mapped :=
  (s.mappings va).find? fun m => entRes m.e == 1 && entPa m.e / 2 ^ 40 == dev && m.size == size

/-- The page at a VA under a root, where it is the one whose copy on this device lies at `pa` (R415). -/
def ownPage (root va pa : Nat) : Option Mapped := (s.mappedBy root va).filter fun m => entRes m.e != 1 && entPa m.e == s.devid * 2 ^ 40 + pa

/-- The page at a VA whose copy on this device lies at `pa`, under any root. -/
def ownAt (va pa : Nat) : Option Mapped := (s.mappings va).find? fun m => entRes m.e != 1 && entPa m.e == pa

/-- The piece [va, va + size) of a DUPL page becomes LOCAL, or REMOTE at `remote`, the page having been split if needed; none while the free
list lacks nodes. -/
def pieceTo (va size : Nat) (m : Mapped) (remote : Option Nat) : Option State :=
  let split := if size < m.size then s.splitPage va m else some s
  split.map fun s => match (s.mappings va).find? fun x => entRes x.e == 2 && entPa x.e + m.base == entPa m.e + x.base with
    | some x => (match remote with
      | some pa => s.rewritePage va x 1 0 pa
      | none => s.rewritePage va x 0 0 (entPa x.e))
    | none => s

/-- The DUPL pages of an owner that [va, va + size) meets: one, or those that the page has been split into. -/
def duplIn (va size owner : Nat) : List Mapped :=
  (List.range (max 1 (size / 65536))).foldl (fun l i =>
    let a := va + 65536 * i
    if l.any fun m => m.base ≤ a && a < m.base + m.size then l
    else match s.duplAt a owner with
      | some m => l ++ [m]
      | none => l) []

/-- All of them become LOCAL, or REMOTE in line from `remote`. -/
def piecesTo (va size : Nat) (ms : List Mapped) (remote : Option Nat) : Option State :=
  ms.foldl (fun o m => o.bind fun s =>
    let a := max va m.base
    s.pieceTo a (min size m.size) m (remote.map fun pa => pa + (a - va))) (some s)

/-- A message about the piece of another, back to a device; an answer carries its TAG. -/
def resAbout (dst op dev : Nat) (p : Packet) (pa : Nat) : Packet := { s.resPkt dst op dev p.resSize p.resVa pa with tag := p.tag }

/-! ## Commands (R132, R234) -/

/-- The work in progress on a page, and the one that waits for an answer of a device about it. -/
def workOn (page : Nat) : Option ResWork := s.trans.works.find? fun w => w.page == page && w.await.isEmpty
def workAwaiting (page dev : Nat) : Option ResWork := s.trans.works.find? fun w => w.op != 5 && w.page == page && w.await.contains dev

/-- The part of a COLLAPSE command at its writer that waits for the owner. -/
def writerWork (page dev : Nat) : Option ResWork := s.trans.works.find? fun w => w.op == 5 && w.page == page && w.await.contains dev

/-- A request that came before and is being served: a later copy of it does nothing (R211). -/
def askedBefore (p : Packet) : Bool :=
  p.tag != noTag && s.trans.works.any fun w => match w.asked with
    | some q => q.src == p.src && q.tag == p.tag
    | none => false

/-- A work on a page that meets [va, va + size) is in progress. -/
def workedOn (va size : Nat) : Bool := s.trans.works.any fun w => meets w.page w.size va size

/-- Puts `x` in the place of a work. -/
def putWork (w x : ResWork) : State := { s with trans := { s.trans with works := s.trans.works.map fun y => if y == w then x else y } }

/-- A work is over. The result of a command of this device goes into dword 3 of its entry, and the next is taken; the device that asked for one
has MAPPED with its status (log entry 23). Packets that waited for it are taken up again. -/
def resFinish (w : ResWork) (result : Nat) : State :=
  let s := { s with trans := { s.trans with
    works := s.trans.works.filter (· != w),
    holds := s.trans.holds.filter fun h => !(h.write.isNone && h.va == w.page && h.size == w.size) } }
  let s := match w.asked, w.cmd.entry with
    | some p, _ => s.sendRes { s.resAbout p.src 10 s.devid p p.resPa with status := if result = 0 then 0 else if result = 2 then 3 else 8 }
    | none, some a => s.store (a + 24) 8 ⟨wd result, none⟩
    | none, none => s
  let s := s.trans.asks.foldl (fun (s : State) p => s.schedRes 1 p) { s with trans := { s.trans with asks := [] } }
  s.serveRing s.trans.rcqn

/-- A copy that failed on the way leaves no trace in the record of its page; one without a record is LOCAL again. -/
def resFail (w : ResWork) : State :=
  let s := match (if w.op = 1 then s.dirFind w.page false else none) with
    | some r =>
      let reps := r.reps.filter fun (x : Nat × Nat) => x.1 != w.cmd.dev
      if reps.isEmpty then
        let s := s.clearRec r.slot
        match (s.ownAt w.page (s.devid * 2 ^ 40 + w.src)).filter fun (m : Mapped) => entRes m.e == 2 with
        | some m => s.rewritePage w.page m 0 0 (entPa m.e)
        | none => s
      else s.writeRec { r with reps := reps }
    | none => s
  s.resFinish w 1

/-- An event takes the command of the ring up again. -/
def recmd (i : Instr) (c : ResCmd) : State :=
  { s with trans := { s.trans with cmdDue := true } }.schedEv 8 rankRes { op := i, pkt := none, cmd := some c }

/-- The command of the ring that an event takes up, with the page that its root maps, once no other work on that page is in progress; no page
is result 0x01. A copy goes to the same local physical address on the other device (DESIGN CHOICE: R132 places it nowhere; log entry 24). -/
def resBegin (c : ResCmd) (op : Nat) (i : Instr) (k : State → ResWork → Mapped → State) : State :=
  let s := { s with trans := { s.trans with cmdDue := false } }
  let none_ : ResWork := { cmd := c, asked := none, op := op, page := c.va, size := 0, src := 0, dst := 0, next := 0, await := [] }
  match s.mappedBy c.port c.va with
  | none => s.resFinish none_ 1
  | some m =>
    let w := { none_ with page := m.base, size := m.size, src := entPa m.e % 2 ^ 40, dst := entPa m.e % 2 ^ 40 }
    if s.workedOn m.base m.size then s.recmd i c else k { s with trans := { s.trans with works := w :: s.trans.works } } w m

/-- Devices of the group that may map a page: every other id of the torus, or of the route table (R202). -/
def groupDevices : List Nat :=
  let n := (bits s.fab.grpcfg 44 4 + 1) * (bits s.fab.grpcfg 40 4 + 1) * (bits s.fab.grpcfg 36 4 + 1)
  let ds := match bits s.fab.grpcfg 50 2 with
    | 1 => List.range n
    | 2 => (s.fab.route.filter fun (x : Nat × (Bool × Nat)) => x.2.1).map fun (x : Nat × (Bool × Nat)) => x.1
    | _ => []
  ds.filter (· != s.devid)

/-- Sends the next block of a page that is copied to another device (R207), once its bank accepts the read (R109, R226, R397, R398), or what
follows the last one: a page that was LOCAL is DUPL, owned here, and the device is told of its copy. -/
def copyNext (w : ResWork) : State :=
  let pa := w.src + 64 * w.next
  if 64 * w.next < w.size then
    if s.hbmWaits pa || !s.bankFree pa then ((s.putWork w { w with held := true }).engWaitsAt pa).sched 1 rankAgain .residencyResume
    else
    let r := (s.takeBank pa).eccBlock 0 0 pa (s.readBlock pa)
    let s := r.1
    let b := r.2
    s.sendReq 0 { s.blankPkt 0x03 0 w.cmd.dev with
      opsz := 5, addr := w.dst + 64 * w.next, payload := blockPayload b, poisoned := b.psnBits } (.residency w.page)
  else
    let s := s.putWork w { w with await := [w.cmd.dev] }
    let s := if w.op = 1 then
        match s.ownAt w.page (s.devid * 2 ^ 40 + w.src) with
        | some m => s.rewritePage w.page m 2 s.devid (entPa m.e)
        | none => s
      else s
    s.sendRes (s.resPkt w.cmd.dev (if w.op = 1 then 6 else 7) w.cmd.dev w.size w.page (w.cmd.dev * 2 ^ 40 + w.dst))

/-- A block of the copy has been written: the next follows. -/
def copyWritten (page : Nat) : State :=
  match s.workOn page with
  | some w => let x := { w with next := w.next + 1 }
    (s.putWork w x).copyNext x
  | none => s

/-- The page is held, and what was translated before is accepted, before it is copied (R129, R132); `again` takes the command up later. -/
def copyBegin (w : ResWork) (m : Mapped) (again : State → State) : State :=
  let s := s.addHold (holdOf m)
  if s.pendingAt (entPa m.e) w.size then again { s with trans := { s.trans with works := s.trans.works.filter (· != w) } } else s.copyNext w

/-- The owner of a page, or the one device that holds it, copies it to a device, and its record gains that device (R132, R366). -/
def dupOwned (w : ResWork) (m : Mapped) (again : State → State) : State :=
  let rec? := if entRes m.e = 2 then s.dirFind m.base false else none
  if entRes m.e = 2 && rec?.isNone then s.resFinish w 1
  else
    let reps := match rec? with | some r => r.reps | none => []
    if w.cmd.dev = s.devid || reps.any (fun x => x.1 == w.cmd.dev) then s.resFinish w 0
    else match (match rec? with | some r => some r.slot | none => (s.freeSlots' 1).head?) with
      | none => s.resFinish w 2
      | some slot =>
        if 7 ≤ reps.length then s.resFinish w 2
        else
          let s := if s.pendingAt (entPa m.e) w.size then s
            else s.writeRec { slot := slot, va := m.base, size := m.size, reps := reps ++ [(w.cmd.dev, w.cmd.dev * 2 ^ 40 + w.dst)], holder := false }
          s.copyBegin w m again

/-- An answer to a work: once all have come, it is over. -/
def resAnswered (w : ResWork) (dev : Nat) : State :=
  let x := { w with await := w.await.filter (· != dev) }
  let s := s.putWork w x
  if x.await.isEmpty then s.resFinish x 0 else s

/-- A packet about a page, from the same device, that was sent earlier is still to be performed (R367). -/
def resBehind (p : Packet) : Bool :=
  s.agenda.any fun e => match e.ev.pkt with
    | some q => q.kind == 0x20 && q.src == p.src && q.arr < p.arr && resEvent q.resOp == some e.ev.op
    | none => false

/-- What the residency unit reads to act on a packet: the entries that map its VA, the records that cover it, the head of the free list. -/
def resSpan (p : Packet) : List (Nat × Nat) :=
  (s.mappings p.resVa).map (fun m => (m.at_ / 64 * 64, 64)) ++
    ((s.dirFind p.resVa false).toList ++ (s.dirFind p.resVa true).toList).map (fun r => (s.slotAt r.slot, 64)) ++
    [(s.trans.rufree.toNat / 4096 * 4096, 64)]

/-- Those reads wait: for a lane test (R398), or for an access that reached its bank before (R109). -/
def resHeld (p : Packet) : Bool := (s.resSpan p).any (fun x => s.chanHeld x.1) || s.waitsOn (s.resSpan p)

/-- An answer closes the request with its tag, and comes from the device that was asked; none for one that comes again (R211). -/
def resClose (p : Packet) : Option (State × Packet) :=
  if !p.resAnswer || p.tag = noTag then some (s, p)
  else match mget s.fab.reqs p.tag with
    | some r => if r.what == .res then some (s.closeReq r, { p with src := r.pkt.dst, tag := noTag }) else none
    | none => none

end State

/-- DUP (R132, R234, R366): the device that owns the page, or holds it alone, copies it to a device; where that is another, it is asked to
(log entry 23). -/
def execDup (s : State) : Host.Outcome State Fault Refusal :=
  event <| match s.cmd with
  | none => s
  | some c => s.resBegin c 1 .dup fun s w m =>
    let peer := if entRes m.e = 1 then entPa m.e / 2 ^ 40 else if entRes m.e = 2 then entOwner m.e else s.devid
    if peer = s.devid then
      if s.trans.serving.any fun x => meets x.va x.size m.base m.size then { s with trans := { s.trans with works := s.trans.works.filter (· != w) } }.recmd .dup c
      else s.dupOwned w m fun s => s.recmd .dup c
    else if c.dev = peer then s.resFinish w 0
    else (s.putWork w { w with await := [peer] }).sendRes (s.resPkt peer 6 c.dev m.size m.base (entPa m.e))

/-- MIGRATE (R132, R234): a LOCAL page moves to a device. -/
def execMigrate (s : State) : Host.Outcome State Fault Refusal :=
  event <| match s.cmd with
  | none => s
  | some c => s.resBegin c 2 .migrate fun s w m =>
    if entRes m.e != 0 then s.resFinish w 1 else if c.dev = s.devid then s.resFinish w 0 else s.copyBegin w m fun s => s.recmd .migrate c

/-- COLLAPSE (R132, R234): the owner of a DUPL page is asked to have all of it collapsed, with the named device as writer. -/
def execCollapse (s : State) : Host.Outcome State Fault Refusal :=
  event <| match s.cmd with
  | none => s
  | some c => s.resBegin c 3 .collapse fun s w m =>
    if entRes m.e != 2 then s.resFinish w 0
    else (s.putWork w { w with await := [entOwner m.e] }).sendRes (s.resPkt (entOwner m.e) 8 c.dev m.size m.base (entPa m.e))

/-- SPLIT (R130, R132, R234): the owner of a DUPL page, or this device alone for any other, splits it around its first 64 KiB. -/
def execSplit (s : State) : Host.Outcome State Fault Refusal :=
  event <| match s.cmd with
  | none => s
  | some c => s.resBegin c 4 .split fun s w m =>
    if m.size < 2 ^ 21 then s.resFinish w 0
    else
      let owner := if entRes m.e = 2 then entOwner m.e else s.devid
      (s.putWork w { w with await := [owner] }).sendRes (s.resPkt owner 9 s.devid m.size m.base (entPa m.e))

/-! ## Messages -/

/-- Acts on the packet that the event holds. -/
def onPkt (s : State) (f : Packet → State) : Host.Outcome State Fault Refusal :=
  event <| match s.pkt with
  | some p => f p
  | none => s

/-- Acts on a residency packet, once those of its flow that were sent before it have been performed (R367): it waits for one that waits, and
stays parked behind one that is; and once what it makes the unit read can be read, the array ECC reporting what it finds (R397). -/
def onRes (s : State) (f : State → Packet → State) : Host.Outcome State Fault Refusal :=
  onPkt s fun p =>
    if s.trans.stalled.any fun q => q.src == p.src && q.arr < p.arr then s.stall' p
    else if s.resBehind p || s.resHeld p then s.schedRes 1 p
    else match s.resClose p with
      | some (t, q) => f (t.ueReads 0 0 ((s.resSpan p).map (·.1))) q
      | none => s

namespace State
variable (s : State)

/-- The owner answers from its own mapping, where it keeps no record (R129). -/
def answerMapping (p : Packet) : State :=
  let at_ (res : Nat) : Option Mapped := (s.mappings p.resVa).find? fun m => entRes m.e == res
  match (at_ 0).or (at_ 1) with
  | some m =>
    let pa := entPa m.e + (p.resVa - m.base)
    s.sendRes (s.resAbout p.src 5 (pa / 2 ^ 40) p pa)
  | none => s.sendRes { s.resAbout p.src 5 0 p 0 with status := 8 }

/-- The records of the pieces of [va, va + size), or of the page that covers it. -/
def recsIn (va size : Nat) : List DirRec :=
  (List.range (max 1 (size / 65536))).foldl (fun l i =>
    let a := va + 65536 * i
    if l.any fun (r : DirRec) => r.va ≤ a && a < r.va + r.size then l
    else match s.dirFind a false with
      | some r => l ++ [r]
      | none => l) []

/-- What a request that came during a collapse gets at its end (R367): MOVED, where it asks for no more than was collapsed; any other is taken up
then. -/
def afterCollapse (c : Collapse) (p : Packet) : State :=
  if p.resOp = 1 && c.va ≤ p.resVa && p.resVa + p.resSize ≤ c.va + c.size then
    s.sendRes (s.resAbout p.src 5 c.writer p (c.pa + (p.resVa - c.va)))
  else s.schedRes 1 p

/-- A collapse that the owner serves is served no more. -/
def unserve (c : Collapse) : State :=
  { s with trans := { s.trans with serving := s.trans.serving.filter fun x => !(x.va == c.va && x.size == c.size) } }

/-- The end of a collapse at its owner (R129, R367): each record becomes a holder record, the writer has DONE, later requests have MOVED, and
the slots are zero again. -/
def collapseEnd (c : Collapse) : State :=
  let s := s.unserve c
  let rs := s.recsIn c.va c.size
  let s := rs.foldl (fun s r => s.writeRec { r with reps := [(c.writer, c.pa + (r.va - c.va))], holder := true }) s
  let s := s.sendRes { s.resPkt c.writer 4 c.writer c.size c.va c.pa with tag := c.tag }
  let s := c.later.foldl (fun s p => s.afterCollapse c p) s
  rs.foldl (fun s r => s.clearRec r.slot) s

/-- A collapse that a device could not be asked for fails: its writer has status FAULT, and later requests are taken up (log entry 23). -/
def collapseFail (c : Collapse) : State :=
  let s := (s.unserve c).sendRes { s.resPkt c.writer 5 0 c.size c.va 0 with tag := c.tag, status := 8 }
  c.later.foldl (fun (s : State) p => s.schedRes 1 p) s

/-- The owner collapses the piece that a packet names, of which it has records: one that is larger splits first (R129, R366). -/
def collapsePiece (p : Packet) (rs : List DirRec) : State :=
  let split := match rs with
    | [r] => if p.resSize < r.size then s.splitRec r p.resVa else some s
    | _ => some s
  match split with
  | none => s.stall' p
  | some s =>
    let acks := ((rs.flatMap fun r => r.reps.map (·.1)) ++ [s.devid]).eraseDups.filter (· != p.resDev)
    let c : Collapse := { va := p.resVa, size := p.resSize, writer := p.resDev, pa := p.resPa, acks := acks, later := [], tag := p.tag }
    if acks.isEmpty then s.collapseEnd c
    else
      let s := { s with trans := { s.trans with serving := c :: s.trans.serving } }
      acks.foldl (fun s d => s.sendRes (s.resAbout d 2 p.resDev p p.resPa)) s

/-- A request for a piece that meets one which is being collapsed, or a page that is being copied or moved, waits for the end of that: the owner
serves the requests for a page in the order of their arrival (R129). -/
def whileServing (p : Packet) (k : State) : State :=
  match s.trans.serving.find? fun c => meets c.va c.size p.resVa p.resSize with
  | some c =>
    { s with trans := { s.trans with serving := s.trans.serving.map fun x => if x == c then { x with later := x.later ++ [p] } else x } }
  | none =>
    if s.trans.works.any fun w => (w.op = 1 || w.op = 2) && meets w.page w.size p.resVa p.resSize then
      { s with trans := { s.trans with asks := s.trans.asks ++ [p] } }
    else k

/-- The firmware takes the write that a collapse could not serve, as a walk fault (R129, R388). -/
def writeToFaults (h : Hold) : State :=
  match h.write with
  | none => s
  | some (cl, root, va) =>
    let ts := s.threads.map fun t =>
      if t.st == .parked (.hold va) && clusterOf t.unit == cl && (s.launchOf t).port == root then { t with st := .parked (.walk va 0) } else t
    { s with threads := ts, trans := { s.trans with faults := (cl, root, va / 4096 * 4096) :: s.trans.faults } }

/-- The hold that this device's write has on a piece (R129). -/
def writeHold (p : Packet) : Option Hold := s.trans.holds.find? fun h => h.write.isSome && h.va == p.resVa && h.size == p.resSize

/-- The piece becomes LOCAL, or REMOTE at `remote`: for a write, in the roots that map its page, its hold being released; for a command, in
those that map pages of the owner there, the command's part at its writer being over (R132). The work is stalled while nodes lack. -/
def settlePiece (p : Packet) (remote : Option Nat) : State :=
  match s.writerWork p.resVa p.src, s.writeHold p with
  | some w, _ => (match s.piecesTo p.resVa p.resSize (s.duplIn p.resVa p.resSize p.src) remote with
    | some s => s.resAnswered w p.src
    | none => s.stall' p)
  | none, some h => (match (s.mappings p.resVa).find? fun m => entRes m.e == 2 && entPa m.e + h.page == h.pa + m.base with
    | some m => (match s.pieceTo p.resVa p.resSize m remote with
      | some s => s.release h
      | none => s.stall' p)
    | none => s.release h)
  | none, none => s

end State

/-- RES_COLLAPSE (R129, R366, R367). -/
def execResCollapse (s : State) : Host.Outcome State Fault Refusal :=
  onRes s fun s p => s.whileServing p <|
    match s.recsIn p.resVa p.resSize with
    | [] => (match s.dirFind p.resVa true with
      | some h => (match h.reps with
        | x :: _ => s.sendRes (s.resAbout p.src 5 x.1 p (x.2 + (p.resVa - h.va)))
        | [] => s)
      | none => s.answerMapping p)
    | rs => s.collapsePiece p rs

/-- RES_INVAL (R129 to R131, R415): a piece that is not mapped as DUPL is acknowledged at once. -/
def execResInval (s : State) : Host.Outcome State Fault Refusal :=
  onRes s fun s p =>
    let ms := s.duplIn p.resVa p.resSize p.src
    if ms.any fun m => s.pendingAt (max (entPa m.e) (entPa m.e + p.resVa - m.base)) (min m.size p.resSize) then
      (ms.foldl (fun s m => s.addHold (State.holdOf m)) s).schedRes 1 p
    else match s.piecesTo p.resVa p.resSize ms (some p.resPa) with
      | some s => (ms.foldl (fun s m => s.release (State.holdOf m)) s).sendRes (s.resAbout p.src 3 s.devid p p.resPa)
      | none => (ms.foldl (fun s m => s.addHold (State.holdOf m)) s).stall' p

/-- RES_ACK (R129): of an INVAL, or of a MAPPED that a migration sent. One with a status other than OK ends the collapse, or the command,
without success (log entry 23). -/
def execResAck (s : State) : Host.Outcome State Fault Refusal :=
  onRes s fun s p =>
    match s.trans.serving.find? fun c => c.va == p.resVa && c.size == p.resSize && c.acks.contains p.src with
    | some c =>
      let x := { c with acks := c.acks.filter (· != p.src) }
      if p.status != 0 then s.collapseFail c
      else if x.acks.isEmpty then s.collapseEnd x
      else { s with trans := { s.trans with serving := s.trans.serving.map fun y => if y == c then x else y } }
    | none => match s.workAwaiting p.resVa p.src with
      | some w => if p.status != 0 then s.resFinish w 1 else s.resAnswered w p.src
      | none => s

/-- RES_DONE (R129): the piece is LOCAL, and the writes that were held retry. -/
def execResDone (s : State) : Host.Outcome State Fault Refusal := onRes s fun s p => s.settlePiece p none

/-- RES_MOVED (R129): the piece is REMOTE to the holder it names, or LOCAL where it names this device; one with a status other than OK gives the
write to the firmware, and ends a command without success. -/
def execResMoved (s : State) : Host.Outcome State Fault Refusal :=
  onRes s fun s p =>
    if p.status != 0 then
      match s.writerWork p.resVa p.src, s.writeHold p with
      | some w, _ => s.resFinish w 1
      | none, some h => (s.release h).writeToFaults h
      | none, none => s
    else s.settlePiece p (if p.resDev = s.devid then none else some p.resPa)

/-- RES_DUP (R132, R415): the roots that map the page as REMOTE to the sender now map the new copy as DUPL. One that names another device asks
for the copy: of a page of which the sender has a replica, or which it maps as REMOTE to this device (log entry 23). -/
def execResDup (s : State) : Host.Outcome State Fault Refusal :=
  onRes s fun s p =>
    if p.resDev = s.devid then
      let answer (s : State) : State := s.sendRes (s.resAbout p.src 10 s.devid p p.resPa)
      match s.remoteAt p.resVa p.src p.resSize with
      | some m => s.settlePage p m fun s => answer (s.rewritePage p.resVa m 2 p.src p.resPa)
      | none => answer s
    else if s.askedBefore p then s
    else s.whileServing p <|
      match (s.mappings p.resVa).find? fun m => m.base == p.resVa && entRes m.e != 1 &&
          (entPa m.e == p.resPa || (entRes m.e == 2 && entOwner m.e == s.devid && p.resPa / 2 ^ 40 == p.src)) with
      | none => s.sendRes { s.resAbout p.src 10 s.devid p p.resPa with status := 8 }
      | some m =>
        if s.workedOn m.base m.size then { s with trans := { s.trans with asks := s.trans.asks ++ [p] } }
        else
          let c : ResCmd := { va := p.resVa, dev := p.resDev, port := 0, entry := none }
          let w : ResWork := { cmd := c, asked := some p, op := 1, page := m.base, size := m.size, src := entPa m.e % 2 ^ 40,
                               dst := entPa m.e % 2 ^ 40, next := 0, await := [] }
          { s with trans := { s.trans with works := w :: s.trans.works } }.dupOwned w m fun s => s.schedRes 8 p

/-- RES_MIGRATE (R132, R415): the page is LOCAL here. -/
def execResMigrate (s : State) : Host.Outcome State Fault Refusal :=
  onRes s fun s p =>
    let answer (s : State) : State := s.sendRes (s.resAbout p.src 10 s.devid p p.resPa)
    match s.remoteAt p.resVa p.src p.resSize with
    | some m => s.settlePage p m fun s => answer (s.rewritePage p.resVa m 0 0 p.resPa)
    | none => answer s

/-- RES_COLLAPSE_COMMAND (R129, R132; log entry 23): the owner has the named writer collapse the page; the writer holds it and asks for all of
it, as for a write. Where there is nothing to collapse, or no copy to collapse to, the command is over at once. -/
def execResCollapseCommand (s : State) : Host.Outcome State Fault Refusal :=
  onRes s fun s p =>
    let answer (status : Nat) : State := s.sendRes { s.resAbout p.src 10 s.devid p p.resPa with status := status }
    let c : ResCmd := { va := p.resVa, dev := p.resDev, port := 0, entry := none }
    let w (op dev : Nat) : ResWork := { cmd := c, asked := some p, op := op, page := p.resVa, size := p.resSize, src := 0, dst := 0, next := 0,
                                        await := [dev] }
    if s.askedBefore p then s
    else if p.resDev = s.devid then
      match (s.duplAt p.resVa p.src).or (s.duplAt p.resVa s.devid) with
      | none => answer 0
      | some m =>
        if s.trans.holds.any fun h => h.write.isSome && meets h.page h.pageSize p.resVa p.resSize then s.schedRes 8 p
        else if s.trans.works.any fun x => (x.op = 1 || x.op = 2 || x.op = 5) && meets x.page x.size p.resVa p.resSize then
          { s with trans := { s.trans with asks := s.trans.asks ++ [p] } }
        else
          let s := { s with trans := { s.trans with works := w 5 (entOwner m.e) :: s.trans.works } }
          let s := (s.duplIn p.resVa p.resSize (entOwner m.e)).foldl (fun s x =>
            s.addHold { State.holdOf x with va := p.resVa, size := p.resSize }) s
          s.sendRes (s.resPkt (entOwner m.e) 1 s.devid p.resSize p.resVa (entPa m.e + p.resVa - m.base))
    else match s.dirFind p.resVa false with
      | none => answer 0
      | some r => match r.reps.find? fun x => x.1 == p.resDev with
        | some x => { s with trans := { s.trans with works := w 3 p.resDev :: s.trans.works } }.sendRes
            (s.resPkt p.resDev 8 p.resDev p.resSize p.resVa (x.2 + p.resVa - r.va))
        | none => answer 8

/-- RES_SPLIT (R130, R132, R366): the owner rewrites its record and has every holder split; each holds the page, splits it and answers. The
page is the one whose copy here the packet names, or that this device owns. -/
def execResSplit (s : State) : Host.Outcome State Fault Refusal :=
  onRes s fun s p => s.whileServing p <|
    let after (s1 : State) : State := match s1.dirFind p.resVa false with
      | some r => (match s1.splitRec r p.resVa with
        | none => s1.stall' p
        | some s2 =>
          let s2 := if 2 ^ 21 ≤ r.size then r.reps.foldl (fun s x => s.sendRes (s.resAbout x.1 9 s.devid p x.2)) s2 else s2
          s2.sendRes (s2.resAbout p.src 10 s2.devid p p.resPa))
      | none => s1.sendRes (s1.resAbout p.src 10 s1.devid p p.resPa)
    match (s.mappings p.resVa).find? fun m => entPa m.e == p.resPa || (entRes m.e == 2 && entOwner m.e == s.devid) with
    | none => after s
    | some m => s.settlePage p m fun s => match s.splitPage p.resVa m with
      | none => (s.addHold (State.holdOf m)).stall' p
      | some s1 => after s1

/-- RES_MAPPED (R132, R415): the answer to a command of this device, which a migration follows with the notice to every other device; or such a
notice, by which a page REMOTE to the sender is REMOTE to the device it names. -/
def execResMapped (s : State) : Host.Outcome State Fault Refusal :=
  onRes s fun s p =>
    if p.resAnswer then
      match s.workAwaiting p.resVa p.src with
      | none => s
      | some w =>
        if p.status != 0 then
          if w.op = 1 && w.cmd.dev = p.src then s.resFail w else s.resFinish w (if p.status = 3 then 2 else 1)
        else if w.op = 2 then
          let s := match s.ownPage w.cmd.port w.page w.src with
            | some m => s.rewritePage w.page m 1 0 p.resPa
            | none => s
          let ds := s.groupDevices.filter (· != w.cmd.dev)
          let x := { w with await := ds }
          let s := s.putWork w x
          if ds.isEmpty then s.resFinish x 0 else ds.foldl (fun s d => s.sendRes (s.resAbout d 10 w.cmd.dev p p.resPa)) s
        else s.resAnswered w p.src
    else
      let ack (s : State) : State := s.sendRes (s.resAbout p.src 3 s.devid p p.resPa)
      match s.remoteAt p.resVa p.src p.resSize with
      | some m => if p.resDev = s.devid then ack s else s.settlePage p m fun s => ack (s.rewritePage p.resVa m 1 0 p.resPa)
      | none => ack s

/-- RESIDENCY_RESUME (R130, R366): the stalled work goes on, the copies whose next block waited for its bank, and
the ring whose next command could not be read. -/
def execResidencyResume (s : State) : Host.Outcome State Fault Refusal :=
  event <|
    let ps := s.trans.stalled
    let s := ps.foldl (fun (s : State) p => s.schedRes 0 p) { s with trans := { s.trans with stalled := [] } }
    let s := (s.trans.works.filter (·.held)).foldl (fun s w => (s.putWork w { w with held := false }).copyNext { w with held := false }) s
    s.serveRing s.trans.rcqn

end Sys2Proof.Machine
end

