-- ==== Sys2Proof/Machine/Router.lean ====
section
/-! DEFINITION. The router (R200 to R205, R209, R210, R213 to R218, R364, R418): output queues, combining, transmission, the escape lane
and the loss of crumbs. -/

namespace Sys2Proof

/-! ## The header of a packet (R205) -/

/-- Flits of a packet (R207). -/
def Packet.flits (p : Packet) : Nat := 1 + (8 * p.payload.length - 48 + 63) / 64

/-- Header bits 127:64 and 63:0. -/
def Packet.header1 (p : Packet) : Word :=
  BitVec.ofNat 64 (p.kind * 2 ^ 58 + p.vc * 2 ^ 56 + p.dst * 2 ^ 44 + p.src * 2 ^ 32 + p.tag * 2 ^ 12 + (p.flits - 1) * 2 ^ 8 +
    p.nleaf * 2 ^ 4 + (if p.win then 8 else 0) + p.opsz)
def Packet.header0 (p : Packet) : Word := BitVec.ofNat 64 (p.status * 2 ^ 56 + p.aux * 2 ^ 40 + p.addr)

/-- The atomic operation in AUX (R207). -/
def Packet.op (p : Packet) : Nat := p.aux % 16

/-- A request that may take part in combining (R213). -/
def Packet.combines (p : Packet) : Bool := (p.kind == 4 || p.kind == 5 || p.kind == 6) && p.win && (p.op == 0 || p.op == 8)

/-- The tag of a crumb's merged request (R214). -/
def crumbTag (c : Nat) : Nat := 0x80000 + c

end Sys2Proof

namespace Sys2Proof.Machine

/-! ## Leaves (R214) -/

/-- A leaf: source device, source tag, NOREPLY, addend. -/
structure Leaf where
  src : Nat
  tag : Nat
  noreply : Bool
  addend : Word
  deriving DecidableEq, Repr

/-- The leaf that a payload's two dwords hold. -/
def leafOf (w a : Word) : Leaf := { src := bits w 52 12, tag := bits w 32 20, noreply := w.getLsbD 31, addend := a }
def Leaf.words (l : Leaf) : List Word := [wd (l.src * 2 ^ 52 + l.tag * 2 ^ 32 + b01 l.noreply * 2 ^ 31), l.addend]

/-- The leaves of a request in merge order. -/
def leavesOf (p : Packet) : List Leaf :=
  if p.kind = 6 then (List.range (p.nleaf + 1)).map fun i => leafOf (p.dw (2 * i)) (p.dw (2 * i + 1))
  else [{ src := p.src, tag := p.tag, noreply := p.kind == 5, addend := p.dw 0 }]

namespace State
variable (s : State)

def link (q : Nat) : Link := nget s.fab.links q Link.reset
def setLink (q : Nat) (x : Link) : State := { s with fab := { s.fab with links := nset s.fab.links q x } }

/-- A packet is discarded and logged (R206, R207). -/
def discard (p : Packet) : State := { s with fab := { s.fab with discarded := p :: s.fab.discarded } }

/-- A packet that the router itself sends, 8 cycles through it (R419). -/
def fromRouter (p : Packet) : State := s.sched 8 (rankPort 16) (.packetRoute 16 p)

/-! ## Delivery (R206, R419) -/

/-- Cycles to the acceptance, and from it to the return, of an access by the fabric interface as a requester of a stack (R413, R419). A
requester of the whole stack is in no cluster: every S2 of the stack is another cluster's to it (DESIGN CHOICE: R419 settles S1 alone; log
entry 87). -/
def homeAccept (st pa : Nat) : Nat :=
  (if s.stackAt pa = st then 0 else 45) + match s.space pa with
    | .s1 _ => 20
    | .s2 _ => 24
    | .s3 _ => 48
    | _ => 40
def homeReturn (st pa : Nat) : Nat :=
  let far := s.stackAt pa != st
  let total := match s.space pa with
    | .s1 _ => if far then 138 else 48
    | .s2 _ => if far then 146 else 56
    | .s3 _ => if far then 200 else 110
    | .hbm =>
      let q := pa / 2 ^ 30 % 128
      let local_ := if q < 64 then s.trans.hbmplace0.getLsbD q else s.trans.hbmplace1.getLsbD (q - 64)
      if local_ then (if far then 780 else 620) else 700
    | _ => s.homeAccept st pa
  total - s.homeAccept st pa

/-- R206 gives the KIND. -/
def kindKnown (p : Packet) : Bool := (1 ≤ p.kind && p.kind ≤ 9) || (0x10 ≤ p.kind && p.kind ≤ 0x15) || p.kind = 0x20 || p.kind = 0x30

/-- The event of a packet that reached its device; none of a residency or management packet that does not fit R207, or whose payload came
poisoned (R408). -/
def kindEvent (p : Packet) : Option Instr :=
  match p.kind with
  | 0x01 => some .rd
  | 0x02 => some .wr
  | 0x03 => some .wrn
  | 0x04 => some .atm
  | 0x05 => some .atmp
  | 0x06 => some .matm
  | 0x07 => some .app
  | 0x08 => some .spw
  | 0x09 => some .flu
  | 0x10 => some .rdr
  | 0x11 => some .atr
  | 0x12 => some .matr
  | 0x13 => some .sts
  | 0x14 => some .ack
  | 0x15 => some .retry
  | 0x20 => if p.payload.length < 3 || p.poisoned != 0 then none else resEvent p.resOp
  | 0x30 => if p.payload.length < 3 || p.poisoned != 0 then none else some .mgt
  | _ => none

/-- The answer with a status other than OK to a residency request, with its tag: of a COLLAPSE a MOVED, of an INVAL or a migration's notice an
acknowledgement, of any other MAPPED (log entry 23). -/
def resRefuse (p : Packet) (status : Nat) : State :=
  s.fromRouter { s.resPkt p.src p.resReply s.devid p.resSize p.resVa p.resPa with tag := p.tag, status := status }

/-- A residency packet that does not fit R207 performs nothing: a request is answered with status FAULT; an answer, and a management packet, is
discarded and logged. -/
def unfit (p : Packet) : State := if p.kind != 0x20 || p.resAnswer then s.discard p else s.resRefuse p 8

/-- The packet goes to the fabric interface, 6 cycles, and its access to its bank; a MATR goes to the router itself (R217); a reply to a
unit of another stack than its port's, a message and a remote spawn for one, cross the interposer (R419). -/
def deliver (input : Nat) (i : Instr) (p : Packet) : State :=
  let st := if input < 16 then input / 4 else 0
  let delay :=
    if p.kind = 0x12 then 0
    else if 1 ≤ p.kind && p.kind ≤ 6 then 6 + s.homeAccept st p.addr
    else if 0x10 ≤ p.kind && p.kind ≤ 0x15 then
      match mget s.fab.reqs p.tag with
      | some r => if input < 16 && stackOf r.pkt.flow.unit != st then 51 else 6
      | none => 6
    else if (p.kind = 7 || p.kind = 8) && input < 16 && stackOf (p.aux / 2 ^ 9 % 128) != st then 51
    else 6
  s.fresh.schedPkt delay (rankPort input) i { p with input := input, arr := s.nextId }

/-! ## Queues -/

/-- Puts `x` in the place of the first entry equal to `e`. -/
def putQueued (e x : Queued) : List Queued → List Queued
  | [] => []
  | y :: r => if y == e then x :: r else y :: putQueued e x r

def queueOf (q vc : Nat) : List Queued := s.fab.queues.filter fun e => e.port == q && e.vc == vc
def headOf (q vc : Nat) : Option Queued := s.fab.queues.find? fun e => e.port == q && e.vc == vc

/-- The packets of a VC that came by an input and have not left: its input queue (R200, R218). -/
def inputOf (i vc : Nat) : List Queued := s.fab.queues.filter fun e => e.input == i && e.vc == vc

/-- The lane holds packets of a flow (R218). -/
def laneHas (f : Flow) : Bool := s.fab.lanes.any fun l => l.q.pkt.flow == f

/-! ## The rate of a link (R24, R221) -/

/-- Wavelengths of a fibre on which an enabled ring modulates (R221); at reset all 64. -/
def fibreWaves (q f : Nat) : Nat :=
  if s.phot.rings.any fun (x : Nat × Ring) => x.1 / 68 == 8 * q + f then
    ((List.range 64).filter fun w => (List.range 68).any fun r => (s.ring q f r).men && (s.ring q f r).map == w).length
  else 64

/-- Live wavelengths of a port: those of its transmit fibres that are up. -/
def liveWaves (q : Nat) : Nat := (((List.range 8).filter fun f => (nget s.phot.fup q 0).getLsbD f).map fun f => s.fibreWaves q f).sum

/-- What the packets sent still take of the rate of a port: 243 for a flit, of which each live wavelength pays 5 a cycle, so that 512 of them
carry 2560/243 flits a cycle (R24). -/
def debtOf (q : Nat) : Nat := (s.link q).debt - 5 * s.liveWaves q * (s.now - (s.link q).paidAt)

/-- Cycles until the port can begin another packet; a port with no live wavelength looks again each microsecond. -/
def sendWait (q : Nat) : Nat := if s.liveWaves q = 0 then us 1 else s.debtOf q / (5 * s.liveWaves q)

/-- A head waits for partners (R213, R364). -/
def heldHead (e : Queued) : Bool :=
  s.fab.comb && 0 < s.fab.hold && e.vc == 0 && e.pkt.combines && (s.link e.port).ver20 && e.pkt.nleaf < 15 &&
    match e.headAt with
    | some h => s.now < h + s.fab.hold
    | none => true

/-- Marks the head of an output queue as head from now on, which starts its hold window (R364). -/
def markHead (q vc : Nat) : State :=
  match s.headOf q vc with
  | some e =>
    if e.headAt.isSome then s
    else
      let x := { e with headAt := some s.now }
      let s := { s with fab := { s.fab with queues := putQueued e x s.fab.queues } }
      if s.heldHead x then s.sched s.fab.hold rankLate (.holdExpiry q vc) else s
  | none => s

/-- Marks the head of an input queue as head from now on, which starts its deadlock timer (R218). -/
def markFront (i vc : Nat) : State :=
  match s.inputOf i vc with
  | e :: _ =>
    if e.frontAt.isSome || vc = 3 then s
    else { s with fab := { s.fab with queues := putQueued e { e with frontAt := some s.now } s.fab.queues } }.sched (us s.fab.dltimer) rankLate
      (.deadlockTimer i vc)
  | [] => s

/-- The heads of a port's queues, and of every input queue, are heads from now on. -/
def markAll (q : Nat) : State :=
  let s := [0, 1, 2, 3].foldl (fun s vc => s.markHead q vc) s
  (s.fab.queues.map fun e => (e.input, e.vc)).eraseDups.foldl (fun (s : State) x => s.markFront x.1 x.2) s

/-- The port looks for a packet to send, once its link can send (R418). -/
def kick (q : Nat) : State :=
  let s := s.markAll q
  let more := s.fab.queues.any (fun e => e.port == q) || s.fab.lanes.any fun l => l.q.port == q
  if !more || s.agenda.any (fun e => e.ev.op == .packetTransmit q) then s
  else s.sched (s.sendWait q) rankLate (.packetTransmit q)

/-- The packet joins its output queue. -/
def push (e : Queued) : State := { s with fab := { s.fab with queues := s.fab.queues ++ [e] } }.kick e.port

/-! ## Combining (R213 to R215) -/

def freeCrumb : Option Nat := (List.range 4096).find? fun c => (mget s.fab.crumbs c).isNone && !s.fab.crumbHeld.contains c

/-- A request as a member of a crumb (R215). -/
def memberOf (p : Packet) (input first : Nat) : Member :=
  { src := p.src, tag := p.tag, noreply := p.kind == 5, input := input, first := first, nl := (leavesOf p).length }

/-- The oldest queued request that a request may merge into (R213). -/
def partner (q : Nat) (p : Packet) : Option Queued :=
  if !s.fab.comb || !(s.link q).ver20 || !p.combines then none
  else (s.queueOf q 0).find? fun e =>
    e.pkt.combines && e.pkt.dst == p.dst && e.pkt.addr == p.addr && e.pkt.opsz == p.opsz && e.pkt.op == p.op &&
    (leavesOf e.pkt).length + (leavesOf p).length ≤ 16 && s.freeCrumb.isSome

/-- The later request joins the earlier one under its crumb, a new one if it has none; it keeps its place in the queue (R213, R214). -/
def mergeInto (e : Queued) (p : Packet) (input : Nat) : State :=
  let c := e.crumb.getD (s.freeCrumb.getD 0)
  let old := leavesOf e.pkt
  let cr : Crumb := (mget s.fab.crumbs c).getD
    { op := BitVec.ofNat 2 (b01 (p.op == 8) * 2 + b01 (p.opsz == 3)), dst := p.dst, addr := p.addr, members := [memberOf e.pkt e.input 0],
      addends := old.map (·.addend), psn := e.pkt.poisoned != 0 }
  let all := old ++ leavesOf p
  let cr := { cr with members := cr.members ++ [memberOf p input old.length], addends := all.map (·.addend), psn := cr.psn || p.poisoned != 0 }
  let pk := { e.pkt with kind := 6, vc := 0, src := s.devid, tag := crumbTag c, nleaf := all.length - 1, payload := all.flatMap Leaf.words }
  let s := { s with fab := { s.fab with
    crumbs := mset s.fab.crumbs c cr,
    queues := putQueued e { e with pkt := pk, crumb := some c } s.fab.queues } }
  if all.length = 16 then s.sched 0 rankLate (.holdExpiry e.port 0) else s

/-! ## What cannot be forwarded (R204, R404, R405, R407) -/

/-- A reply of the router for a request: UNREACH, with the tag of the request. -/
def unreach (p : Packet) (kind : Nat) : State :=
  s.fromRouter { s.blankPkt kind 1 p.src with tag := p.tag, opsz := p.opsz, aux := if kind = 0x11 || kind = 0x12 then p.aux else 0, status := 7,
                                              payload := if kind = 0x12 then [0, 0] else if kind = 0x11 then [0] else [] }

/-- The report that a posted packet has been dropped: an STS on its flow, which names its KIND in ADDR, and whether it was a mirror copy (R405,
R406; log entry 30). -/
def dropReport (p : Packet) : State := s.fromRouter { s.blankPkt 0x13 1 p.src with status := 7, addr := p.kind, flow := p.flow, copy := p.copy }

/-- A packet that no route takes: a request is answered UNREACH, a posted packet is dropped and reported on its flow, a residency request
comes back as its answer; any other is dropped. -/
def unroutable (p : Packet) : State :=
  match p.kind with
  | 0x01 => s.unreach p 0x10
  | 0x03 | 0x07 | 0x08 | 0x09 => s.unreach p 0x13
  | 0x04 => s.unreach p 0x11
  | 0x06 => s.unreach p 0x12
  | 0x02 => s.dropReport p
  | 0x05 => if p.win then s.unreach p 0x14 else s.dropReport p
  | 0x20 => if p.resAnswer then s else s.resRefuse p 7
  | _ => s

/-! ## The escape lane (R218, R408) -/

/-- Offset and bytes of the lane of a stack (log entry 6). -/
def laneOf (st : Nat) : Nat × Nat :=
  let w := nget s.fab.escbase st 0
  (bits w 32 32, bits w 0 32)

/-- Where a packet of `len` bytes goes in the ring of a stack; none while it has no room. -/
def lanePlace (st len : Nat) : Option Nat :=
  let ls := s.fab.lanes.filter fun l => l.stack == st
  let at_ := match ls.getLast? with | some l => l.off + l.len | none => 0
  let at_ := if at_ + len ≤ (s.laneOf st).2 then at_ else 0
  if (s.laneOf st).2 < at_ + len || ls.any (fun l => meets l.off l.len at_ len) then none else some at_

/-- Local physical address of an offset in the lane of a stack. -/
def laneAddr (st off : Nat) : Nat := levelBase 3 st + (s.laneOf st).1 + off

/-- Moves a packet into the lane of its port's stack: its header twice, then its payload (R218, R408); false while the lane is full. The port
is the one that the packet is to leave by, whichever input it came by (DESIGN CHOICE: R218 says 'the port's stack' and not which port; log
entry 86). -/
def toLane (e : Queued) : State × Bool :=
  let st := e.port / 4
  let len := roundUp (32 + 8 * e.pkt.payload.length) 64
  match s.lanePlace st len with
  | none => (s, false)
  | some off =>
    let hs := [e.pkt.header0, e.pkt.header1, e.pkt.header0, e.pkt.header1]
    let s := hs.zipIdx.foldl (fun s (w, i) => s.store (s.laneAddr st (off + 8 * i)) 8 ⟨w, none⟩) s
    let s := e.pkt.payload.zipIdx.foldl (fun s (w, i) =>
      s.store (s.laneAddr st (off + 32 + 8 * i)) 8 ⟨w, if e.pkt.poisoned.testBit i then some ⟨0x041, 0⟩ else none⟩) s
    ({ s with fab := { s.fab with lanes := s.fab.lanes ++ [{ stack := st, off := off, len := len, q := { e with headAt := none, frontAt := none } }] } }, true)

/-- The packet as it leaves the lane, on the escape VC, with the payload that S3 holds; none when both copies of its header are lost. -/
def fromLane (l : Lane) : Option Packet :=
  let a := s.laneAddr l.stack l.off
  let bad (i : Nat) : Bool := (s.psnAt (a + 16 * i)).isSome || (s.psnAt (a + 16 * i + 8)).isSome
  if bad 0 && bad 1 then none
  else
    let vs := (List.range l.q.pkt.payload.length).map fun i => s.load (a + 32 + 8 * i) 8
    some { l.q.pkt with vc := 3, payload := vs.map (·.v), poisoned := psnMask vs }

/-! ## Into the output queue -/

/-- The flow's earlier packets still wait at another port than the one it takes now, or the next router has not yet acknowledged them, though
that port has gone down since (R203, R407). -/
def remapped (f : Flow) (q : Nat) : Bool :=
  match s.fab.paths.find? fun e => e.1 == f with
  | some e => e.2.1 != q &&
      (s.now < e.2.2 || s.fab.queues.any (fun x => x.port == e.2.1 && x.pkt.flow == f) ||
        s.fab.lanes.any fun l => l.q.port == e.2.1 && l.q.pkt.flow == f)
  | none => false

/-- A packet of the flow that came before by the same input is still held (R146, R203). -/
def heldBefore (input : Nat) (p : Packet) : Bool :=
  s.agenda.any fun e => match e.ev.op with
    | .packetRoute i q => i == input && q.flow == p.flow && q.arr != 0 && (q.sent < p.sent || (q.sent == p.sent && q.arr < p.arr))
    | _ => false

/-- A flow takes a port; what left by it is acknowledged by a cycle. -/
def takePath (f : Flow) (q until_ : Nat) : State :=
  { s with fab := { s.fab with paths := (f, q, until_) :: s.fab.paths.filter fun e => e.1 != f } }

/-- By when the next router has acknowledged what left by a port of a flow. -/
def ackedBy (f : Flow) (q : Nat) : Nat :=
  match s.fab.paths.find? fun e => e.1 == f && e.2.1 == q with
  | some e => e.2.2
  | none => 0

/-- A packet for a port: into the escape lane behind its flow, into a queued request that it merges with, or to the end of its queue, where a
packet waits whose lane is full, with all of its flow that come later. A packet of a remapped flow waits (R203, R213, R218). -/
def enqueue (input q : Nat) (crumb : Option Nat) (p : Packet) : State :=
  if crumb.isNone && (s.remapped p.flow q || s.heldBefore input p) then s.sched 1 1 (.packetRoute input p)
  else
    let s := s.takePath p.flow q (s.ackedBy p.flow q)
    let e : Queued := { port := q, vc := p.vc, pkt := p, input := input, headAt := none, frontAt := none, crumb := crumb }
    if s.laneHas p.flow then
      let r := s.toLane e
      if r.2 && !s.fab.queues.any (fun x => x.pkt.flow == p.flow) then r.1.kick q else s.push e
    else match if crumb.isNone && p.vc = 0 then s.partner q p else none with
      | some x => s.mergeInto x p input
      | none => s.push e

/-- A packet as a link of version 1.2 carries it: a merged request as one request per leaf, in merge order; no merged reply; and no WIN bit,
without which an ATMP is posted, so that its requester has no ACK for it and sends it again (DESIGN CHOICE: R210 does not say how such a request
completes; log entry 31). -/
def at12 (p : Packet) : List Packet :=
  let plain (p : Packet) : Packet := { p with win := false, vc := if p.kind = 5 && p.vc != 3 then 2 else p.vc }
  if p.kind = 6 then (leavesOf p).map fun l =>
    plain { p with kind := if l.noreply then 5 else 4, src := l.src, tag := l.tag, nleaf := 0, payload := [l.addend, 0] }
  else if p.kind = 0x12 then []
  else [plain p]

def freeCrumbOf (p : Packet) : State :=
  { s with fab := { s.fab with crumbs := if p.src = s.devid && 0x80000 ≤ p.tag then mdel s.fab.crumbs (p.tag - 0x80000) else s.fab.crumbs } }

/-- Forwards a packet by its route (R202 to R204, R210). -/
def forward (input : Nat) (crumb : Option Nat) (p : Packet) : State :=
  match s.routePort p.flow p.dst with
  | none => s.unroutable p
  | some q =>
    if (s.link q).ver20 then s.enqueue input q crumb p
    else if p.kind = 0x12 then s.discard p
    else (at12 p).foldl (fun (s : State) x => s.enqueue input q none x) (if p.kind = 6 then s.freeCrumbOf p else s)

/-! ## Transmission (R418) -/

/-- A packet leaves by a port, which its flits keep busy (R24). The next router's acknowledgement is taken to come after two link hops, 864
cycles (DESIGN CHOICE; log entry 74). -/
def putWire (q : Nat) (p : Packet) : State :=
  let s := s.setLink q { s.link q with debt := s.debtOf q + 243 * p.flits, paidAt := s.now }
  let s := { s with fab := { s.fab with wire := (q, { p with input := 16, arr := 0 }) :: s.fab.wire } }
  if s.fab.paths.any fun e => e.1 == p.flow && e.2.1 == q then s.takePath p.flow q (s.now + 864) else s

/-- The packet leaves by the port, in the form that the version of its link carries (R210). A merged request of this router is kept until its
reply comes, which 4 × RETRYTO bounds (R410). -/
def sendOut (e : Queued) (p : Packet) : State :=
  let q := e.port
  if !(s.link q).ver20 then (at12 p).foldl (fun (s : State) x => s.putWire q x) (if p.kind = 6 then s.freeCrumbOf p else s)
  else
  let s := s.putWire q p
  match e.crumb with
  | some c =>
    let s := s.cancel (.crumbTimeout c)
    let r : Req := { tag := p.tag, pkt := { p with vc := 0 }, sends := 1, sentAt := s.now, what := .none }
    { s with fab := { s.fab with reqs := mset s.fab.reqs p.tag r } }.sched (us (4 * s.fab.retryto)) rankLate (.crumbTimeout c)
  | none => s

/-- Sends the head of a queue. -/
def sendHead (q vc : Nat) : State :=
  match s.headOf q vc with
  | some e => { s with fab := { s.fab with queues := s.fab.queues.erase e } }.sendOut e e.pkt
  | none => s

/-- Both header copies of a packet in the lane are lost: the fatal path (R370, R408). -/
def escLost (l : Lane) : State :=
  (s.record { cls := 5, scope := 5, cause := 0x078, agent := 9, detail := wd (l.stack + l.off * 2 ^ 8) }).fatal

/-- Sends the next packet of the lane for the port. -/
def sendLane (l : Lane) : State :=
  let s1 := { s with fab := { s.fab with lanes := s.fab.lanes.erase l } }
  match s.fromLane l with
  | some p => s1.sendOut l.q p
  | none => s1.escLost l

/-- One packet leaves the port, by the order of R418. -/
def transmit (q : Nat) : State :=
  let x := s.link q
  let ready (vc : Nat) : Bool := match s.headOf q vc with | some e => !s.heldHead e && !s.laneHas e.pkt.flow | none => false
  let turn := s.fab.postedTurn.contains q
  let pick (vc : Nat) : State :=
    let t := if vc = 0 then q :: s.fab.postedTurn.filter (· != q) else if vc = 2 then s.fab.postedTurn.filter (· != q) else s.fab.postedTurn
    { s with fab := { s.fab with postedTurn := t } }.sendHead q vc
  if !x.up || x.holding || s.sendWait q != 0 then s
  else match s.fab.lanes.find? fun l => l.q.port == q with
    | some l => s.sendLane l
    | none =>
      if ready 3 then pick 3
      else if ready 1 then pick 1
      else if ready 2 && (turn || !ready 0) then pick 2
      else if ready 0 then pick 0
      else s

/-- A port that can send looks again; of one that cannot, what became a head is a head from now on (R218, R364). -/
def kickUp (q : Nat) : State := if (s.link q).up && !(s.link q).holding then s.kick q else s.markAll q

/-- The port goes down (R407): what it held moves to another up port of the same direction, or is answered. -/
def portDown (q : Nat) : State :=
  let live := (s.link q).fibres
  let s := s.setLink q { s.link q with up := false, holding := false }
  let s := { s with pkg := { s.pkg with opt := s.pkg.opt &&& ~~~(BitVec.ofNat 16 (2 ^ q)) } }.replace 5
  let s := s.record { cls := 4, scope := 4, cause := 0x076, agent := 9, detail := wd (q + live * 2 ^ 8) }
  let es := s.fab.queues.filter fun e => e.port == q
  let ls := s.fab.lanes.filter fun l => l.q.port == q
  let s := { s with fab := { s.fab with queues := s.fab.queues.filter fun e => e.port != q } }
  let s := ls.foldl (fun s l => match s.routePort l.q.pkt.flow l.q.pkt.dst with
    | some r =>
      let s := { s with fab := { s.fab with
        lanes := s.fab.lanes.map fun y => if y == l then { l with q := { l.q with port := r } } else y } }
      s.kick r
    | none => { s with fab := { s.fab with lanes := s.fab.lanes.erase l } }.unroutable l.q.pkt) s
  es.foldl (fun s e => s.forward e.input e.crumb e.pkt) s

/-! ## Crumbs that are lost (R410) -/

/-- A crumb is lost: recorded, freed, and its index held out of use for 200 µs. -/
def crumbLost (c : Nat) (x : Crumb) : State :=
  let s := (s.cancel (.crumbTimeout c)).cancel (.retryResend (crumbTag c))
  let s := { s with fab := { s.fab with
    crumbs := mdel s.fab.crumbs c, reqs := mdel s.fab.reqs (crumbTag c), crumbHeld := c :: s.fab.crumbHeld } }
  (s.record { cls := 2, scope := 0, cause := 0x077, agent := 9, detail := wd (c + x.addends.length % 16 * 2 ^ 16) }).sched (us 200) rankLate
    (.crumbHoldExpiry c)

/-- One member of a split reply (R217): what it is sent, and the run after its leaves. What comes poisoned leaves poisoned (R408). -/
def memberReply (x : Crumb) (p : Packet) (dup : List (Bool × Word)) (run : Word) (m : Member) : Packet × Word :=
  let n := if x.op.getLsbD 0 then 8 else 4
  let op : AtomOp := if x.op.getLsbD 1 then .fadd else .add
  let ls := ((List.range m.nl).map fun i => (dup.getD (m.first + i) (false, 0), x.addends.getD (m.first + i) 0))
  let fin := ls.foldl (fun r l => if l.1.1 then r else atomNew op n r l.2 0) run
  let base : Packet := { s.blankPkt 0x12 1 m.src with
    tag := m.tag, opsz := if n = 8 then 3 else 2, aux := op.code, status := p.status, addr := if p.status = 8 then p.addr else 0 }
  if m.nl = 1 then
    let d := ls.getD 0 ((false, 0), 0)
    if m.noreply then ({ base with kind := 0x14, opsz := 0, aux := 0 }, fin)
    else ({ base with kind := 0x11, payload := [if d.1.1 then d.1.2 else run], poisoned := b01 (p.poisoned != 0) }, fin)
  else
    let mask := (ls.zipIdx.map fun (l, i) => b01 l.1.1 * 2 ^ i).sum
    let ws := [run, wd mask] ++ (ls.filter fun l => l.1.1).map fun l => l.1.2
    ({ base with payload := ws, poisoned := if p.poisoned = 0 then 0 else 2 ^ ws.length - 1 }, fin)

/-- DUP and C of each leaf of a merged reply (R207). -/
def dupsOf (p : Packet) (n : Nat) : List (Bool × Word) :=
  (List.range n).map fun i =>
    let k := ((List.range i).filter fun j => (p.dw 1).getLsbD j).length
    ((p.dw 1).getLsbD i, p.dw (2 + k))

/-- Splits a merged reply for its crumb, and frees the crumb (R217). -/
def splitMatr (c : Nat) (x : Crumb) (p : Packet) : State :=
  let s := s.cancel (.crumbTimeout c)
  let s := { s with fab := { s.fab with crumbs := mdel s.fab.crumbs c, reqs := mdel s.fab.reqs (crumbTag c) } }
  (x.members.foldl (fun (a : State × Word) m =>
    let r := a.1.memberReply x p (dupsOf p x.addends.length) a.2 m
    (a.1.fromRouter r.1, r.2)) (s, p.dw 0)).1

end State

/-! ## The events of the router -/

/-- PACKET_ROUTE (R200 to R206, R213 to R215). -/
def execPacketRoute (input : Nat) (p : Packet) (s : State) : Host.Outcome State Fault Refusal :=
  event <|
    if !State.kindKnown p then s.discard p
    else if input < 16 && p.arr = 0 then s.fresh.sched 8 (rankPort input) (.packetRoute input { p with arr := s.nextId + 1 })
    else if p.dst != s.devid then s.forward input none p
    else match State.kindEvent p with
      | some i => s.deliver input i p
      | none => s.unfit p

/-- HOLD_EXPIRY (R364): the held head may leave, or waits for what is left of a window that has become longer. -/
def execHoldExpiry (port vc : Nat) (s : State) : Host.Outcome State Fault Refusal :=
  event <| match s.headOf port vc with
  | some e =>
    if s.heldHead e then (match e.headAt with
      | some h => s.sched (h + s.fab.hold - s.now) rankLate (.holdExpiry port vc)
      | none => s)
    else s.kickUp port
  | none => s

/-- PACKET_TRANSMIT (R418): one packet leaves; the port goes on while it has more. -/
def execPacketTransmit (port : Nat) (s : State) : Host.Outcome State Fault Refusal :=
  event <|
    let t := s.transmit port
    if t.fab.wire.length = s.fab.wire.length then t else t.kickUp port

/-- DEADLOCK_TIMER (R218): a head of an input queue that has not advanced for DLTIMER moves into the escape lane, and with it every packet of
its flow behind it; while the lane is full, the timer waits. -/
def execDeadlockTimer (input vc : Nat) (s : State) : Host.Outcome State Fault Refusal :=
  event <| match s.inputOf input vc with
  | e :: _ =>
    match e.frontAt with
    | some h =>
      if vc = 3 then s
      else if s.now < h + us s.fab.dltimer then s.sched (h + us s.fab.dltimer - s.now) rankLate (.deadlockTimer input vc)
      else
        let es := (s.inputOf input vc).filter fun x => x.pkt.flow == e.pkt.flow
        let r := es.foldl (fun (a : State × Bool) x =>
          if !a.2 then a
          else
            let t := a.1.toLane x
            (if t.2 then { t.1 with fab := { t.1.fab with queues := t.1.fab.queues.erase x } } else t.1, t.2)) (s, true)
        let s := r.1.kickUp e.port
        if r.2 then s else s.sched (us 1) rankLate (.deadlockTimer input vc)
    | none => s
  | [] => s

/-- CRUMB_TIMEOUT (R410). -/
def execCrumbTimeout (i : Nat) (s : State) : Host.Outcome State Fault Refusal :=
  event <| match mget s.fab.crumbs i with
  | some x => s.crumbLost i x
  | none => s

/-- CRUMB_HOLD_EXPIRY (R410). -/
def execCrumbHoldExpiry (i : Nat) (s : State) : Host.Outcome State Fault Refusal :=
  event { s with fab := { s.fab with crumbHeld := s.fab.crumbHeld.filter (· != i) } }

/-- MATR (R217, R410): a poisoned crumb is lost, and a reply for no crumb is discarded. -/
def execMatr (s : State) : Host.Outcome State Fault Refusal :=
  onPkt s fun p =>
    if p.tag < 0x80000 then s
    else match mget s.fab.crumbs (p.tag - 0x80000) with
      | some x => if x.psn then s.crumbLost (p.tag - 0x80000) x else s.splitMatr (p.tag - 0x80000) x p
      | none => s

end Sys2Proof.Machine
end

