-- ==== Sys2Proof/Machine/Packets.lean ====
section
/-! DEFINITION. Packets at their home (R206 to R208, R212, R216) and replies at their requester (R211, R404 to R406), with the requests that
are sent again. -/

namespace Sys2Proof.Machine

/-! ## Accesses of a home -/

/-- What a home finds before it performs an access of `n` bytes. -/
inductive HomeChk where
  | go
  | again (delay : Nat)
  | fault (cause : Nat)
  deriving DecidableEq, Repr

/-- Bytes of an access of OPSZ that must be aligned (R205). -/
def opBytes : Nat → Nat
  | 0 => 1 | 1 => 2 | 2 => 4 | 3 => 8 | 4 => 1 | _ => 64

/-- Payload dwords that a write of OPSZ needs (R207). -/
def writeDwords (opsz : Nat) : Nat := if opsz = 5 then 9 else 1

/-- The block that a payload holds (R207). -/
def blockOf (pa : Nat) (p : Packet) (q : Poison) : BlockW :=
  { pa := pa, data := (p.payload.take 8).flatMap fun w => natLe 8 w.toNat, desc := (p.dw 8).setWidth 16,
    psn := (List.range 9).filterMap fun i => if p.poisoned.testBit i then some (i, q) else none }

namespace State
variable (s : State)

/-- The poison of data that comes poisoned over the fabric: that of the storage it stands in (R394, R395). -/
def fabricPoison (pa : Nat) : Poison := ⟨match s.space pa with | .hbm => 0x051 | _ => 0x041, 0⟩

/-- The checks of a home: holes, the register space and misaligned addresses fault (R404, R414); a bank takes one access in a cycle (R109). -/
def homeChk (pa n : Nat) : HomeChk :=
  match s.space pa with
  | .hole => .fault 3
  | .regs => .fault 3
  | sp =>
    if pa % n != 0 then .fault 3
    else if sp == .hbm && (!s.pkg.hbm.getLsbD (s.channel pa / 64) || s.chanHeld pa) then .again 1
    else if !s.bankFree pa then .again 1
    else .go

/-- The reply of a home, after the cycles in which its value returns; a FAULT names the home's CAUSE in ADDR (log entry 30). -/
def homeReply (p : Packet) (delay kind status : Nat) (payload : List Word) (cause : Nat) : State :=
  let r : Packet := { s.blankPkt kind 1 p.src with
    tag := p.tag, opsz := if kind = 0x13 || kind = 0x14 || kind = 0x15 then 0 else p.opsz, status := status,
    aux := if kind = 0x11 || kind = 0x12 then p.aux else 0, addr := cause, payload := payload }
  s.injectAfter delay (if p.input < 16 then p.input / 4 else 0) r

/-- Cycles from acceptance to return for the requester of the packet's port (R419). -/
def replyDelay (p : Packet) : Nat := s.homeReturn (if p.input < 16 then p.input / 4 else 0) p.addr

/-- A posted packet of the flow that came earlier is still to be performed (R146, R208). -/
def earlierPosted (p : Packet) : Bool :=
  s.agenda.any fun e => (e.ev.op == .wr || e.ev.op == .atmp) && match e.ev.pkt with
    | some q => q.flow == p.flow && q.vc != 0 && q.arr < p.arr
    | none => false

/-- A posted packet that could not be performed is noted against its flow (R405). -/
def noteFailed (f : Flow) : State := { s with fab := { s.fab with failed := if s.fab.failed.contains f then s.fab.failed else f :: s.fab.failed } }

/-- The write that a WR or WRN makes at its home. -/
def homeWrite (p : Packet) : State :=
  let psn (i : Nat) : Option Poison := if p.poisoned.testBit i then some (s.fabricPoison p.addr) else none
  if p.opsz = 5 then
    (s.writeBlock (blockOf p.addr p (s.fabricPoison p.addr))).touch p.addr 64 none
  else if p.opsz = 4 then (s.setDesc p.addr ((p.dw 0).setWidth 16)).poisonDesc p.addr (psn 0)
  else (s.store p.addr (opBytes p.opsz) ⟨p.dw 0, psn 0⟩).touch p.addr (opBytes p.opsz) none

/-! ## The reply cache (R212) -/

/-- The cache takes `n` more entries. -/
def cacheRoom (n : Nat) : Bool := (s.fab.cache.filter s.young).length + n ≤ 65536

/-- The value read at a home by OPSZ, with the poison it met; what the array ECC of HBM finds is logged and recorded (R397). -/
def homeRead (p : Packet) : State × List Word × Option Poison :=
  if p.opsz = 5 then
    let r := s.eccBlock 0 0 p.addr (s.readBlock p.addr)
    (r.1, blockPayload r.2, r.2.first)
  else
    let r := s.eccVal 0 0 p.addr
      (if p.opsz = 4 then ⟨(s.descOf p.addr).setWidth 64, mget s.descPsn (p.addr / 64)⟩ else s.load p.addr (opBytes p.opsz))
    (r.1, [r.2.v], r.2.psn)

/-- An atomic request has the layout of R207, and its operands are good: poisoned ones are consumed at the home, which cannot perform it (R395,
R408). -/
def atomOk (p : Packet) : Bool := (p.opsz == 2 || p.opsz == 3) && 2 ≤ p.payload.length && (atomOf p.op).isSome && p.poisoned == 0

/-- Applies an atomic at its home: the old value. -/
def homeAtom (p : Packet) (op : AtomOp) (old : Word) : State :=
  let n := opBytes p.opsz
  (s.store p.addr n ⟨atomNew op n old (p.dw 0) (p.dw 1), none⟩).touch p.addr n none

end State

/-! ## Requests at their home -/

/-- RD (R206, R207, R404). -/
def execRd (s : State) : Host.Outcome State Fault Refusal :=
  onPkt s fun p =>
    if 6 ≤ p.opsz then s.homeReply p 0 0x10 8 [] 3
    else match s.homeChk p.addr (opBytes p.opsz) with
      | .fault c => s.homeReply p 0 0x10 8 [] c
      | .again d => s.schedPkt d 1 .rd p
      | .go =>
        let r := (s.takeBank p.addr).homeRead p
        match r.2.2 with
        | some q => r.1.homeReply p (r.1.replyDelay p) 0x10 8 [] q.cause
        | none => r.1.homeReply p (r.1.replyDelay p) 0x10 0 r.2.1 0

/-- WR (R145, R146, R206, R405): in the order of its flow. -/
def execWr (s : State) : Host.Outcome State Fault Refusal :=
  onPkt s fun p =>
    if 6 ≤ p.opsz || p.payload.length < writeDwords p.opsz then s.discard p
    else if s.earlierPosted p then s.schedPkt 1 1 .wr p
    else match s.homeChk p.addr (opBytes p.opsz) with
      | .fault _ => s.noteFailed p.flow
      | .again d => s.schedPkt d 1 .wr p
      | .go => (s.takeBank p.addr).homeWrite p

/-- WRN (R206, R207). -/
def execWrn (s : State) : Host.Outcome State Fault Refusal :=
  onPkt s fun p =>
    if 6 ≤ p.opsz || p.payload.length < writeDwords p.opsz then s.homeReply p 0 0x13 8 [] 3
    else match s.homeChk p.addr (opBytes p.opsz) with
      | .fault c => s.homeReply p 0 0x13 8 [] c
      | .again d => s.schedPkt d 1 .wrn p
      | .go => ((s.takeBank p.addr).homeWrite p).homeReply p 0 0x13 0 [] 0

/-- ATM (R206, R207, R212): applied once, by the reply cache. -/
def execAtm (s : State) : Host.Outcome State Fault Refusal :=
  onPkt s fun p =>
    match if State.atomOk p then atomOf p.op else none with
    | none => s.homeReply p 0 0x11 8 [0] 3
    | some op =>
      match s.homeChk p.addr (opBytes p.opsz) with
      | .fault c => s.homeReply p 0 0x11 8 [0] c
      | .again d => s.schedPkt d 1 .atm p
      | .go =>
        match s.cachedOf p.src p.tag with
        | some c => s.homeReply p 0 0x11 c.status [c.value] 0
        | none =>
          if !s.cacheRoom 1 then s.homeReply p 0 0x15 6 [] 0
          else
            let r := (s.takeBank p.addr).eccVal 0 0 p.addr (s.load p.addr (opBytes p.opsz))
            let s := r.1
            let old := r.2
            match old.psn with
            | some q => s.homeReply p (s.replyDelay p) 0x11 8 [0] q.cause
            | none => ((s.homeAtom p op old.v).cacheReply p.src p.tag old.v 0).homeReply p (s.replyDelay p) 0x11 0 [old.v] 0

/-- ATMP (R206, R405): in the order of its flow, or acknowledged where WIN is 1 (R208); one that is acknowledged may come again, and then
counts as a replayed atomic (R212; log entry 31). -/
def execAtmp (s : State) : Host.Outcome State Fault Refusal :=
  onPkt s fun p =>
    let fail (s : State) (c : Nat) : State := if p.win then s.homeReply p 0 0x14 8 [] c else s.noteFailed p.flow
    match if State.atomOk p then atomOf p.op else none with
    | none => if p.win || p.poisoned != 0 then fail s 3 else s.discard p
    | some op =>
      if p.vc != 0 && s.earlierPosted p then s.schedPkt 1 1 .atmp p
      else match s.homeChk p.addr (opBytes p.opsz) with
        | .fault c => fail s c
        | .again d => s.schedPkt d 1 .atmp p
        | .go =>
          if p.win && (s.cachedOf p.src p.tag).isSome then s.homeReply p 0 0x14 0 [] 0
          else if p.win && !s.cacheRoom 1 then s.homeReply p 0 0x15 6 [] 0
          else
            let r := (s.takeBank p.addr).eccVal 0 0 p.addr (s.load p.addr (opBytes p.opsz))
            let s := r.1
            let old := r.2
            match old.psn with
            | some q => fail s q.cause
            | none =>
              let s := s.homeAtom p op old.v
              if p.win then (s.cacheReply p.src p.tag old.v 0).homeReply p 0 0x14 0 [] 0 else s

/-- One run over the leaves of a merged request (R216): the state, v if a leaf was applied, and DUP and C of each leaf. -/
def matmRun (pa n : Nat) (op : AtomOp) : State → Option Word → List Leaf → List (Bool × Word) → State × Option Word × List (Bool × Word)
  | s, v, [], ds => (s, v, ds.reverse)
  | s, v, l :: r, ds =>
    match s.cachedOf l.src l.tag with
    | some c => matmRun pa n op s v r ((true, c.value) :: ds)
    | none =>
      let old := (s.load pa n).v
      let s := (s.store pa n ⟨atomNew op n old l.addend 0, none⟩).cacheReply l.src l.tag old 0
      matmRun pa n op s (v.or (some old)) r ((false, 0) :: ds)

/-- MATM (R206, R216, R408). One with more new leaves than the reply cache has room for is answered RETRY whole, though some would fit (DESIGN CHOICE:
R212 speaks of a full cache alone; log entry 31). -/
def execMatm (s : State) : Host.Outcome State Fault Refusal :=
  onPkt s fun p =>
    let n := opBytes p.opsz
    if !(p.opsz == 2 || p.opsz == 3) || !(p.op == 0 || p.op == 8) || p.payload.length < 2 * (p.nleaf + 1) || p.poisoned != 0 then
      s.homeReply p 0 0x12 8 [0, 0] 3
    else match s.homeChk p.addr n with
      | .fault c => s.homeReply p 0 0x12 8 [0, 0] c
      | .again d => s.schedPkt d 1 .matm p
      | .go =>
        let fresh := (leavesOf p).filter fun l => (s.cachedOf l.src l.tag).isNone
        if !s.cacheRoom fresh.length then s.homeReply p 0 0x15 6 [] 0
        else
          let e := (s.takeBank p.addr).eccVal 0 0 p.addr (s.load p.addr n)
          let s := e.1
          let old := e.2
          match old.psn with
          | some q => s.homeReply p (s.replyDelay p) 0x12 8 [0, 0] q.cause
          | none =>
            let r := matmRun p.addr n (if p.op = 8 then .fadd else .add) s none (leavesOf p) []
            let s := if fresh.isEmpty then r.1 else r.1.touch p.addr n none
            let mask := (r.2.2.zipIdx.map fun (d, i) => b01 d.1 * 2 ^ i).sum
            let v := r.2.1.getD ((s.load p.addr n).v)
            s.homeReply p (s.replyDelay p) 0x12 0 ([v, wd mask] ++ (r.2.2.filter fun d => d.1).map fun d => d.2) 0

/-- What a home does with a message or remote spawn: a reply it has, no room for one, an absent unit, or the JU (R212, R417). -/
def State.toJu (s : State) (p : Packet) (ok : Bool) (i : Instr) : State :=
  match s.cachedOf p.src p.tag with
  | some c => s.homeReply p 0 0x13 c.status [] 0
  | none =>
    if !ok then s.homeReply p 0 0x13 8 [] 3
    else if !s.cacheRoom 1 then s.homeReply p 0 0x15 6 [] 0
    else if !s.present (p.aux / 2 ^ 9 % 128) then s.homeReply p 0 0x13 2 [] 0
    else s.sched 0 (rankPort p.input) i

/-- APP (R181, R206, R207, R408): the message carries its poison; a poisoned address is none. -/
def execApp (s : State) : Host.Outcome State Fault Refusal :=
  onPkt s fun p =>
    let len := p.aux % 8 + 1
    let req : AppendReq :=
      { ltag := bits (p.dw 0) 48 16, unit := p.aux / 2 ^ 9 % 128, port := p.aux / 2 ^ 3 % 64,
        msg := (List.range len).map fun i => ⟨p.dw (i + 1), if p.poisoned.testBit (i + 1) then some ⟨0x041, 0⟩ else none⟩,
        senderDev := p.src, senderLtag := 0, senderWid := bits (p.dw 0) 12 20, senderUnit := 0, reply := none, replyPkt := some p }
    s.toJu p (len + 1 ≤ p.payload.length && !p.poisoned.testBit 0) (.appendAccept req)

/-- SPW (R195, R206, R207, R408): the arguments carry their poison; a poisoned address or PC is none. -/
def execSpw (s : State) : Host.Outcome State Fault Refusal :=
  onPkt s fun p =>
    let argc := p.aux / 2 ^ 3 % 8
    let req : SpawnReq :=
      { ltag := bits (p.dw 0) 48 16, unit := p.aux / 2 ^ 9 % 128, pc := p.dw 1, args := (List.range argc).map fun i => p.dw (i + 2),
        prio := p.aux / 2 ^ 6 % 8, senderDev := p.src, senderLtag := 0, senderUnit := 0, reply := none, replyPkt := some p,
        psn := p.poisoned / 4 }
    s.toJu p (argc + 2 ≤ p.payload.length && p.poisoned % 4 == 0) (.spawnrAccept req)

/-- FLU (R208, R405): STS once every earlier packet of the flow has been performed, with FAULT where one could not be. -/
def execFlu (s : State) : Host.Outcome State Fault Refusal :=
  onPkt s fun p =>
    if s.earlierPosted p then s.schedPkt 1 1 .flu p
    else if s.fab.failed.contains p.flow then
      { s with fab := { s.fab with failed := s.fab.failed.filter (· != p.flow) } }.homeReply p 0 0x13 8 [] 3
    else s.homeReply p 0 0x13 0 [] 0

/-- MGT (R207): the firmware is told of a replace request; of any other type the packet is discarded and logged. -/
def execMgt (s : State) : Host.Outcome State Fault Refusal :=
  onPkt s fun p =>
    if bits (p.dw 0) 0 8 = 1 then { s with pkg := { s.pkg with notices := (2 ^ 20 + p.src) :: s.pkg.notices } } else s.discard p

/-! ## The requester (R211) -/

namespace State
variable (s : State)

/-- A request is sent again with its tag (R211). -/
def resend (r : Req) : State :=
  let s := s.cancel (.retryTimeout r.tag)
  let s := { s with fab := { s.fab with reqs := mset s.fab.reqs r.tag { r with sentAt := s.now } } }
  (s.inject (stackOf r.pkt.flow.unit) r.pkt).sched (us s.fab.retryto) rankLate (.retryTimeout r.tag)

/-- Changes a thread that lives or is saved (R305). -/
def onEither (r : ThreadRef) (f : Thread → Thread) : State :=
  match s.ref? r with
  | some t => s.setThread (f t)
  | none => { s with disp := { s.disp with saved := s.disp.saved.map fun v =>
      { v with threads := v.threads.map fun t => if t.answers r then f t else t } } }

/-- The launch of a thread that lives or is saved; zero for none. -/
def tagOf (r : ThreadRef) : Nat :=
  match s.ref? r with
  | some t => t.ltag
  | none => match (s.disp.saved.flatMap (·.threads)).find? fun t => t.answers r with
    | some t => t.ltag
    | none => 0

/-- A thread that an event woke goes on. -/
def wakeRef (r : ThreadRef) : State :=
  match s.ref? r with
  | some t => s.wakeEvent t
  | none => s

/-- A launch that waits for its flushes alone goes on to its end (R54). -/
def flushDone (tag : Nat) : State :=
  (s.disp.launches.filter fun e => e.2.flushTags.contains tag).foldl (fun s e =>
    let l := { e.2 with flushTags := e.2.flushTags.filter (· != tag) }
    let s := s.setLaunch l
    match l.ending with
    | some x => if l.flushTags.isEmpty then s.sched 0 rankDisp (.launchEnd l.ltag x.1 x.2) else s
    | none => s) s

/-- The launches that own a windowed atomic or flush by its tag. -/
def flushOwners (tag : Nat) : List Nat := (s.disp.launches.filter fun e => e.2.flushTags.contains tag).map fun e => e.1

/-- A launch learns that a posted access of it was not performed (R405); one that is ending ends with that CODE. -/
def lostPosted (ltag unit dev kind : Nat) : State :=
  match s.launch? ltag with
  | some l =>
    if l.ending.isSome then
      (s.record { cls := 3, scope := 3, cause := 0x073, ltag := ltag, unit := unit, agent := 9, detail := wd (dev + kind * 2 ^ 16) }).setLaunch
        { l with ending := some (2, 0x73) }
    else s.postLost ltag unit dev kind
  | none => s

/-- The report that a posted packet of a flow was dropped on its way (R405, R406): of a mirror copy, or of a posted access of a launch. -/
def flowLost (p : Packet) : State :=
  let f := p.flow
  let kind := p.addr
  if p.copy then s.noteFailed f
  else match s.disp.launches.find? fun e => e.2.posted.contains f || e.2.flushTags.any fun g =>
      (match mget s.fab.reqs g with | some r => r.pkt.flow == f | none => false) with
    | some e => s.lostPosted e.1 f.unit f.dst kind
    | none => s

/-- The RecInfo of a failed APPEND or SPAWNR (R404). -/
def failRecord (t : ThreadRef) (cause : Nat) (detail : Word) : RecInfo :=
  match s.ref? t with
  | some x => { recOf x 3 1 cause with agent := 9, detail := detail }
  | none => { cls := 3, scope := 1, cause := cause, unit := t.unit, slot := t.slot, agent := 9, detail := detail }

/-- A tile move stops at a block of its remote operand: FAULT, with an ENGXLAT record that names the CAUSE and the home's PA, its VA being 0
(R158, R389, R404); a cancelled one ends (R158). -/
def tileFail (u id blk cause gpa : Nat) : State :=
  match s.cmd? u id with
  | some c =>
    if c.next != blk || !c.waiting then s
    else if c.cancelled then s.finish u id 5
    else
      s.endFaulted c (whole []) { cause := 0x021, detail := wd cause, va := 0, pa := wd gpa }
  | none => s

/-- A block of a tile move's remote source arrives, and is written, though the move has been cancelled or is to stop meanwhile (R158, R177,
R332). -/
def tileArrive (u id blk : Nat) (b : BlockW) : State :=
  match s.cmd? u id with
  | some c =>
    if c.next != blk || !c.waiting || c.inHand.isSome then s
    else
      let s := if blk + 1 = tileBlocks c.src && !c.cancelled then s.consumed u id 0 else s
      (s.onCmd u id fun c => { c with inHand := some b }).tilePut u id
  | none => s

/-- A block of a tile move has been written at its remote destination. -/
def tileWritten (u id blk : Nat) : State :=
  match s.cmd? u id with
  | some c => if c.next != blk || !c.waiting then s else s.tileNext c 1
  | none => s

/-- A block of a copy's remote source arrives, and is written, though the copy has been cancelled or its channel is to stop meanwhile (R158, R164,
R177, R335, R337). -/
def copyArrive (u ch id blk : Nat) (b : BlockW) : State :=
  let x := s.chan u ch
  match x.st, x.cur with
  | .run, some c =>
    if c.id != id || c.next != blk || !c.waiting || c.inHand.isSome then s
    else (s.setChan u ch { x with cur := some { c with inHand := some b } }).copyPut u ch
  | _, _ => s

/-- A copy whose remote source fails stops (R335, R404); a cancelled one ends (R158). -/
def copyLost (u ch id blk cause : Nat) : State :=
  let x := s.chan u ch
  match x.st, x.cur with
  | .run, some c =>
    if c.id != id || c.next != blk || !c.waiting then s
    else if c.cancelled then s.copyEnd u ch 5
    else s.copyFault u ch c cause (Tmpl.srcOf c.tmpl blk)
  | _, _ => s

/-! ### Failures (R404 to R406) -/

/-- A request has failed with a CAUSE and a DETAIL: what its requester sees. -/
def reqFailed (r : Req) (cause : Nat) (detail : Word) : State :=
  let psn : Poison := ⟨cause, detail.toNat⟩
  let open_ : Val := ⟨Config.poisonRead s.free, some psn⟩
  let gpa := r.pkt.dst * 2 ^ 40 + r.pkt.addr
  match r.what with
  | .load t id _ _ _ => ({ s with free := s.free + 1 }.giveResult t id [open_]).wakeRef t
  | .fetch t va => ({ s with free := s.free + 1 }.onRef t fun x => { x with fetched := (va, open_) :: x.fetched }).wakeRef t
  | .flush t f =>
    let s := s.onEither t fun x => { x with posted := x.posted.filter (· != f), flushing := x.flushing.filter (· != r.tag) }
    (s.lostPosted (s.tagOf t) t.unit f.dst r.pkt.kind).nudge t
  | .implicit t f => (s.onEither t (·.flushedOn f)).lostPosted (s.tagOf t) t.unit f.dst r.pkt.kind
  | .winAck t peer =>
    let ls := s.flushOwners r.tag
    let s := s.onEither t fun x => { x with winAck := x.winAck.filter fun w => w.1 != r.tag }
    (ls.foldl (fun s l => s.lostPosted l t.unit peer r.pkt.kind) s).flushDone r.tag
  | .launchFlush l => (s.lostPosted l r.pkt.flow.unit r.pkt.dst r.pkt.kind).flushDone r.tag
  | .msync t f =>
    let s := { s with fab := { s.fab with failed := s.fab.failed.filter (· != r.pkt.flow) } }
    (s.onEither t fun x => { x with flushing := x.flushing.filter (· != r.tag), mirrFail := some ⟨0x074, f.dst⟩ }).nudge t
  | .post p => (s.record (s.failRecord p.t cause detail)).post p 1 1
  | .tmvRead u id blk => s.tileFail u id blk cause gpa
  | .tmvWrite u id blk => s.tileFail u id blk cause gpa
  | .cxRead u ch id blk => s.copyLost u ch id blk cause
  | .residency va => (match s.workOn va with
    | some w => s.resFail w
    | none => s)
  | .res =>
    s.fresh.schedRes 0 { s.resPkt s.devid r.pkt.resReply r.pkt.dst r.pkt.resSize r.pkt.resVa r.pkt.resPa with
      src := r.pkt.dst, status := 8, arr := s.nextId }
  | .none => s

/-- DETAIL of a failed request (R400). -/
def reqDetail (r : Req) : Nat := r.pkt.dst + r.pkt.kind * 2 ^ 16

/-! ### Replies -/

/-- The value of a read reply, with the poison it carries. -/
def replyVal (p : Packet) (size : Nat) (sx : Bool) : Val :=
  ⟨loaded sx size (p.dw 0), if p.poisoned.testBit 0 then some ⟨0x041, 0⟩ else none⟩

/-- The block of a read reply. -/
def replyBlock (p : Packet) : BlockW := blockOf 0 p ⟨0x041, 0⟩

/-- A request has been answered: what its requester gets. -/
def reqDone (r : Req) (p : Packet) : State :=
  match r.what with
  | .load t id size sx _ => (s.giveResult t id [replyVal p (if r.pkt.opsz = 4 then 2 else size) sx]).wakeRef t
  | .fetch t va => (s.onRef t fun x => { x with fetched := (va, replyVal p 4 false) :: x.fetched }).wakeRef t
  | .flush t f =>
    let s := s.onLaunch (s.tagOf t) fun l => { l with posted := l.posted.filter (· != f) }
    (s.onEither t fun x => { x with posted := x.posted.filter (· != f), flushing := x.flushing.filter (· != r.tag) }).nudge t
  | .implicit t f => s.onEither t (·.flushedOn f)
  | .winAck t _ => (s.onEither t fun x => { x with winAck := x.winAck.filter fun w => w.1 != r.tag }).flushDone r.tag
  | .launchFlush _ => s.flushDone r.tag
  | .msync t f =>
    let lost := s.fab.failed.contains r.pkt.flow
    let s := { s with fab := { s.fab with failed := s.fab.failed.filter (· != r.pkt.flow) } }
    (s.onEither t fun x => { x with flushing := x.flushing.filter (· != r.tag),
                                    mirrFail := if lost then some ⟨0x074, f.dst⟩ else x.mirrFail }).nudge t
  | .post q => s.post q 1 (if p.status = 9 then 1 else p.status)
  | .tmvRead u id blk => s.tileArrive u id blk (replyBlock p)
  | .tmvWrite u id blk => s.tileWritten u id blk
  | .cxRead u ch id blk => s.copyArrive u ch id blk (replyBlock p)
  | .residency va => s.copyWritten va
  | .res => s
  | .none => s

/-- A reply at its requester: the first for its tag is taken, any later one is discarded (R211). -/
def takeReply (p : Packet) : State :=
  match mget s.fab.reqs p.tag with
  | none => s
  | some r =>
    if p.status = 6 then (s.cancel (.retryTimeout p.tag)).sched (us 1) rankLate (.retryResend p.tag)
    else
      let t := s.closeReq r
      if p.status = 7 then t.reqFailed r 0x070 (wd (reqDetail r))
      else if p.status = 8 then t.reqFailed r 0x072 (wd (reqDetail r + p.addr % 2 ^ 9 * 2 ^ 32))
      else t.reqDone r p

end State

/-- RDR (R144, R211, R404). -/
def execRdr (s : State) : Host.Outcome State Fault Refusal := onPkt s fun p => s.takeReply p

/-- ATR (R211, R404). -/
def execAtr (s : State) : Host.Outcome State Fault Refusal := onPkt s fun p => s.takeReply p

/-- STS (R208, R211, R401, R404 to R406): an answer, or the report that a posted packet of a flow of this device was dropped. -/
def execSts (s : State) : Host.Outcome State Fault Refusal :=
  onPkt s fun p => if p.status = 7 && (p.addr = 2 || p.addr = 5) then s.flowLost p else s.takeReply p

/-- ACK (R206, R208). -/
def execAck (s : State) : Host.Outcome State Fault Refusal := onPkt s fun p => s.takeReply p

/-- RETRY (R211, R410): the request is sent again after 1 µs. -/
def execRetry (s : State) : Host.Outcome State Fault Refusal :=
  onPkt s fun p => if (mget s.fab.reqs p.tag).isSome then (s.cancel (.retryTimeout p.tag)).sched (us 1) rankLate (.retryResend p.tag) else s

/-- RETRY_RESEND (R211, R410): a merged request goes again from its router, under its crumb. -/
def execRetryResend (tag : Nat) (s : State) : Host.Outcome State Fault Refusal :=
  event <| match mget s.fab.reqs tag with
  | some r => if 0x80000 ≤ tag then s.forward 16 (some (tag - 0x80000)) r.pkt else s.resend r
  | none => s

/-- RETRY_TIMEOUT (R211, R404): sent again, up to twice; the third send's time-out fails the request. -/
def execRetryTimeout (tag : Nat) (s : State) : Host.Outcome State Fault Refusal :=
  event <| match mget s.fab.reqs tag with
  | some r =>
    if r.sends < 3 then s.resend { r with sends := r.sends + 1 }
    else (s.closeReq r).reqFailed r 0x071 (wd (State.reqDetail r + r.sends * 2 ^ 24))
  | none => s

/-- TAG_REUSE (R211). -/
def execTagReuse (tag : Nat) (s : State) : Host.Outcome State Fault Refusal :=
  event { s with fab := { s.fab with cooling := s.fab.cooling.filter (· != tag) } }

end Sys2Proof.Machine
end

