-- ==== Sys2Proof/Machine/Package.lean ====
section
/-! DEFINITION. The links and their optics (R209, R219 to R221, R369, R407, R411), power (R27, R237), errors of storage and of HBM (R394 to
R399), and the retirement of a unit (R412). -/

namespace Sys2Proof.Machine

/-! ## Links -/

namespace State
variable (s : State)

/-- READY.OPT of a port (R226). -/
def setOpt (q : Nat) (on : Bool) : State :=
  let b := BitVec.ofNat 16 (2 ^ q)
  { s with pkg := { s.pkg with opt := if on then s.pkg.opt ||| b else s.pkg.opt &&& ~~~b } }

/-- A retrain begins: the port does not serve (R226), its traffic is held, and a RETRAIN record is written (R407). -/
def retrain (q : Nat) : State :=
  ((s.setLink q { s.link q with holding := true }).setOpt q false).record
    { cls := 2, scope := 0, cause := 0x075, agent := 9, detail := wd (q + ((s.link q).retrains + 1) * 2 ^ 4) }

end State

/-- LINK_REPLAY (R209, R407): counted; the eighth replay of one flit retrains the link. -/
def execLinkReplay (port : Nat) (nth : Nat) (s : State) : Host.Outcome State Fault Refusal :=
  event <|
    if !(s.link port).up then s
    else
      let s := s.setLink port { s.link port with replays := (s.link port).replays + 1 }
      if nth = 8 then s.retrain port else s

/-- RETRAIN_END (R370, R407): the port serves again, unless the package is dead; after three failures in a row the port goes down; after fewer
it retrains again. -/
def execRetrainEnd (port : Nat) (ok : Bool) (s : State) : Host.Outcome State Fault Refusal :=
  event <|
    let x := s.link port
    if !x.up || !x.holding then s
    else if ok then ((s.setLink port { x with holding := false, retrains := 0 }).setOpt port (!s.pkg.dead)).kickUp port
    else if x.retrains + 1 < 3 then (s.setLink port { x with retrains := x.retrains + 1 }).retrain port
    else (s.setLink port { x with retrains := 0 }).portDown port

/-- FIBREDOWN (R411): the port stays up while a transmit fibre is up at each end. A fibre of the far end is recorded there. -/
def execFibredown (port : Nat) (fibre : FibreEnd) (s : State) : Host.Outcome State Fault Refusal :=
  event <|
    let f := nget s.phot.fup port 0
    let x := s.link port
    let bit := BitVec.ofNat 8 (2 ^ fibre.fibre)
    if fibre.far then
      let y := { x with rx := x.rx &&& ~~~bit }
      let s := s.setLink port y
      if y.rx = 0 && y.up then s.portDown port else s
    else if 8 ≤ fibre.fibre || !f.getLsbD fibre.fibre then s
    else
      let s := { s with phot := { s.phot with fup := nset s.phot.fup port (f &&& ~~~bit) } }
      let s := s.setLink port { x with fibres := x.fibres - 1 }
      let s := (s.record { cls := 4, scope := 4, cause := 0x080, agent := 9, detail := wd (port + fibre.fibre * 2 ^ 4) }).replace 5
      if (s.link port).fibres = 0 && (s.link port).up then s.portDown port else s

/-! ## Photonics -/

/-- RING_WRITE (R219 to R221, R369): a write of 4 or 8 bytes as the photonic block accepts it; `hi` says that 4 bytes are bits 63:32. -/
def execRingWrite (port fibre ring : Nat) (size : Nat) (hi : Bool) (data : Word) (s : State) : Host.Outcome State Fault Refusal :=
  event <|
    if 16 ≤ port || 8 ≤ fibre || 68 ≤ ring || !(size == 4 || size == 8) then s
    else s.regStore (0x200000 + 0x10000 * port + 0x1000 + 0x400 * fibre + 8 * ring + if size = 4 && hi then 4 else 0) size data

/-- WAVELENGTH_MOVE (R221): at a flit boundary of the fibre the light of the wavelength has moved. -/
def execWavelengthMove (port fibre wave : Nat) (s : State) : Host.Outcome State Fault Refusal :=
  event { s with phot := { s.phot with light := s.phot.light.filter fun e => !(e.1 == port && e.2.1 == fibre && e.2.2.1 == wave) } }

/-- PD_REFRESH (R219): every photodiode has a new reading. -/
def execPdRefresh (s : State) : Host.Outcome State Fault Refusal :=
  event { s with free := s.free + 1, phot := { s.phot with pd := some s.free } }

/-- TEMP_REFRESH (R219, R237, R369): PHSTAT.TEMP of each port and TELTEMP of each stack have new measurements. -/
def execTempRefresh (s : State) : Host.Outcome State Fault Refusal :=
  event { s with
    free := s.free + 20,
    phot := { s.phot with temp := Vector.ofFn fun p : Fin 16 => Config.measuredTemp (s.free + p.val) },
    pkg := { s.pkg with telTemp := Vector.ofFn fun p : Fin 4 => Config.measuredTemp (s.free + 16 + p.val) } }

/-- RING_RETIRE (R411): the steward firmware retires a ring. -/
def execRingRetire (port fibre ring : Nat) (s : State) : Host.Outcome State Fault Refusal :=
  event ((s.record { cls := 4, scope := 4, cause := 0x081, agent := 11, detail := wd (port + fibre * 2 ^ 4 + ring * 2 ^ 8) }).replace 4)

/-! ## Power -/

/-- POWER_WINDOW (R27, R237): the average of a window of 1 ms, in mW. Above the design power of 4,200 W the mill clock goes down a step; within
it, the manager may raise a lowered clock. Each step is counted, in TELCLK: that count is the telemetry event of the step. How many steps
the manager takes, and when, the manual does not say: DESIGN CHOICE, one at the end of a window, and none below the lowest clock (log entry
68). -/
def execPowerWindow (mw : Nat) (s : State) : Host.Outcome State Fault Refusal :=
  event <|
    let k := s.pkg
    let step (x : BitVec 6) : Package := { k with telpwr := BitVec.ofNat 32 mw, clkStep := x, clkCount := k.clkCount + 1 }
    if 4200000 < mw then
      { s with pkg := if k.clkStep = 63 then { k with telpwr := BitVec.ofNat 32 mw } else step (k.clkStep + 1) }
    else if k.clkStep != 0 && Config.clockRaise k.clkCount.toNat mw then { s with pkg := step (k.clkStep - 1) }
    else { s with pkg := { k with telpwr := BitVec.ofNat 32 mw } }

/-! ## Soft errors (R394 to R396) -/

namespace State
variable (s : State)

/-- An address of S1, S2 or S3. -/
def inSram (pa : Nat) : Bool := match s.space pa with | .s1 _ | .s2 _ | .s3 _ => true | _ => false

/-- A block of HBM is delivered poisoned. -/
def poisonBlock (pa : Nat) (p : Poison) : State :=
  let a := pa / 64 * 8
  { s with psn := (List.range 8).foldl (fun m i => mset m (a + i) p) s.psn, descPsn := mset s.descPsn (pa / 64) p }

/-- An entry of the transfer log (R399), and the entry itself. -/
def logTransfer (pa act tries lane : Nat) : State × Word :=
  let h := s.channel pa / 64
  let w := wd (act * 2 ^ 61 + tries * 2 ^ 58 + lane * 2 ^ 52 + s.channel pa % 64 * 2 ^ 46 + pa / 64 * 64)
  let x := s.hbmLog h
  (s.setHbmLog h { x with xfer := mset x.xfer (x.tlogn % 64) (w, wd s.now), tlogn := x.tlogn + 1 }, w)

end State

namespace Thread
variable (t : Thread)

/-- The vault holds a register of the thread under a number: k1 to k7, a, and those of its resident frames (R59). -/
def inVault (key : Nat) : Bool :=
  if key < 16 then key != 0 else (key - 16) / 16 ≤ t.depth && t.depth < (key - 16) / 16 + t.frames.length

/-- A register with parity (R394). -/
def hasParity : DebugReg → Bool
  | .operand (.main _) => false
  | .operand _ | .q _ => true
  | .special n => n.toNat ≤ 0x13 || n.toNat = 0x40 || n.toNat = 0x41
  | .sem _ => true
  | .pc => false

/-- A buffered value has a parity error (R395). -/
def spoil (id : Nat) : Thread :=
  { t with rb := t.rb.map fun e => if e.id = id then { e with vals := e.vals.map fun vs => vs.map fun v => ⟨v.v, some ⟨0x044, 0⟩⟩ } else e }

end Thread

/-- PATROL_SCRUB (R394 to R396): an error in storage shows, in a patrol read or any other. A corrected one is counted; an uncorrectable one
poisons what it struck. A parity error is found only as its value is consumed, and writes no record. One in state that a whole crew shares
ends the launch (R371), a port's when it is read (R402), a crumb's when its reply comes (R410); the cause in that record is that of an S1
error (DESIGN CHOICE: R371 names none; log entry 76). -/
def execPatrolScrub (tgt : ScrubTarget) (find : ScrubFind) (s : State) : Host.Outcome State Fault Refusal :=
  event <| match find, tgt with
  | .clean, _ => s
  | .corrected, .dword pa => if s.inSram pa then s.memRecord 0 0 1 0x040 pa 0 else s
  | .corrected, .desc pa => if s.inSram pa then s.memRecord 0 0 1 0x040 pa 0 else s
  | .corrected, .vault r key => (match s.ref? r with
    | some t => if t.inVault key then s.record (State.recOf t 1 0 0x042) else s
    | none => s)
  | .corrected, _ => s
  | .uncorrectable, .dword pa =>
    if s.inSram pa then { s with psn := mset s.psn (pa / 8) ⟨0x041, 0⟩ }.memRecord 0 0 3 0x041 pa 0 else s
  | .uncorrectable, .desc pa =>
    if s.inSram pa then { s with descPsn := mset s.descPsn (pa / 64) ⟨0x041, 0⟩ }.memRecord 0 0 3 0x041 pa 0 else s
  | .uncorrectable, .vault r key => (match s.ref? r with
    | some t => if t.inVault key then (s.setThread { t with psn := mset t.psn key ⟨0x043, 0⟩ }).record (State.recOf t 3 0 0x043) else s
    | none => s)
  | .uncorrectable, .parity r g => let g := canonReg g; s.onRef r fun t => if Thread.hasParity g && !t.par.contains g then { t with par := g :: t.par } else t
  | .uncorrectable, .result r id => s.onRef r fun t => t.spoil id
  | .uncorrectable, .port ltag u p => s.onCrew ltag u fun c => c.setPort p { c.port p with psn := some ⟨0x041, 0⟩ }
  | .uncorrectable, .crumb i =>
    { s with fab := { s.fab with crumbs := match mget s.fab.crumbs i with
      | some x => mset s.fab.crumbs i { x with psn := true }
      | none => s.fab.crumbs } }
  | .uncorrectable, .shared ltag u => (match s.crew? ltag u with
    | some c => (s.record { cls := 3, scope := 3, cause := 0x041, ltag := ltag, gang := c.gang, crew := c.idx, unit := u, agent := 8 }).endLaunch
        ltag 2 0x41
    | none => s)

/-! ## HBM (R397, R398) -/

/-- HBM_READ (R397) for a requester: severity 1 is corrected, logged and recorded; severity 2 is delivered poisoned, logged and recorded. -/
def execHbmRead (r : HbmAccess) (sev : Nat) (bit : Nat) (multi : Bool) (s : State) : Host.Outcome State Fault Refusal :=
  event <|
    if 2 ^ 39 ≤ r.pa then s
    else match sev with
    | 1 =>
      let q := s.logArray r.pa 1 bit multi
      q.1.memRecord r.ltag r.unit 1 0x050 (r.pa / 64 * 64) q.2
    | 2 =>
      let q := s.arrayUe r.ltag r.unit r.pa
      q.1.poisonBlock r.pa q.2
    | _ => s

/-- HBM_TRANSFER_RETRY (R398): a transfer that succeeds after 1 to 4 retries is logged; one that fails them all holds its pseudo-channel's
queue for the lane test. -/
def execHbmTransferRetry (r : HbmAccess) (tries : Nat) (ok : Bool) (s : State) : Host.Outcome State Fault Refusal :=
  event <|
    if 2 ^ 39 ≤ r.pa || tries = 0 || 4 < tries then s
    else if ok then
      let q := s.logTransfer r.pa 1 tries 0
      q.1.memRecord r.ltag r.unit 2 0x052 (r.pa / 64 * 64) q.2
    else if tries < 4 then s
    else
      let h := s.channel r.pa / 64
      let x := s.hbmLog h
      let c := s.channel r.pa % 64
      s.setHbmLog h { x with testing := if x.testing.contains c then x.testing else c :: x.testing }

/-- LANE_TEST_END (R398, R399): the failing lane goes to a free spare, and the transfer is retried; else its block is delivered poisoned. The
queue is released. -/
def execLaneTestEnd (r : HbmAccess) (lane : Nat) (retryOk : Bool) (s : State) : Host.Outcome State Fault Refusal :=
  event <|
    let h := s.channel r.pa / 64
    let c := s.channel r.pa % 64
    let x := s.hbmLog h
    if 2 ^ 39 ≤ r.pa || 34 ≤ lane || !x.testing.contains c then s
    else
      let m := (mget x.lanemap c).getD 0
      let spare0 := !m.getLsbD 7
      let spare1 := !m.getLsbD 15
      let free := spare0 || spare1
      let m' : Word := if spare0 then (m &&& ~~~0x3F) ||| wd (0x80 + lane)
        else if spare1 then (m &&& ~~~0x3F00) ||| wd (0x8000 + lane * 2 ^ 8) else m
      let s := s.setHbmLog h { x with testing := x.testing.filter (· != c), lanemap := if free then mset x.lanemap c m' else x.lanemap }
      let degraded (cause : Nat) (w : Word) : RecInfo :=
        { cls := 4, scope := 4, cause := cause, ltag := r.ltag, unit := r.unit, agent := 8, pa := wd (s.devid * 2 ^ 40 + r.pa / 64 * 64), detail := w }
      if free && retryOk then
        let q := s.logTransfer r.pa 2 5 lane
        if m'.getLsbD 7 && m'.getLsbD 15 then (q.1.record (degraded 0x053 q.2)).replace 2
        else q.1.memRecord r.ltag r.unit 2 0x053 (r.pa / 64 * 64) q.2
      else
        let q := s.logTransfer r.pa 3 (if free then 5 else 4) lane
        ((q.1.poisonBlock r.pa ⟨0x054, q.2.toNat⟩).record (degraded 0x054 q.2)).replace 2

/-! ## Retirement (R412) -/

namespace State
variable (s : State)

/-- Each launch with a crew on the unit ends, with an UNITLOST record (R379, R412). -/
def endLaunchesOn (u : Nat) (detail : Word) : State :=
  (s.disp.crews.filter fun c => c.unit == u).foldl (fun s c =>
    (s.record { cls := 3, scope := 3, cause := 0x091, ltag := c.ltag, gang := c.gang, crew := c.idx, unit := u, agent := 11,
                detail := detail }).endLaunch c.ltag 2 0x91) s

/-- The barriers of the unit's S1 break (R403). -/
def breakHome (u : Nat) : State :=
  (s.barriers.filter fun b => b.level == 1 && b.home == u).foldl (fun s b =>
    (if b.arr = 0 then s else s.breakBarrier b false ((b.waiters.head?.map fun w => w.1.unit).getD u)).dropBarrier b.pa) s

/-- The unit stands idle for good. -/
def stopUnit (u : Nat) : State :=
  s.onUnit u fun x => { x with draining := true, retired := true, cmds := [], board := [], chans := [], latch0 := .reset, latch1 := .reset,
                               mrings := [], mstats := [] }

/-- The flag of the retired part (R18, R412). -/
def setRetired (st fe slab : Nat) (isSlab : Bool) : State :=
  let i := 36 * st + if isSlab then slab else fe
  let q := (mget s.lat.pos i).getD .reset
  { s with lat := { s.lat with pos := mset s.lat.pos i (if isSlab then { q with slret := true } else { q with feret := true }) } }

end State

/-- UNIT_RETIRE (R379, R403, R412): the unit drains, its launches end, its barriers break, and it reads absent. -/
def execUnitRetire (stack fe slab : Nat) (isSlab : Bool) (s : State) : Host.Outcome State Fault Refusal :=
  event <|
    let uses (b : UnitBind) : Bool :=
      stackOf b.unit == stack && if isSlab then b.slab == slab || (b.ganged && b.slab + 1 == slab) else b.fe == fe
    let detail := wd (stack + fe * 2 ^ 2 + slab * 2 ^ 8 + if isSlab then 2 ^ 17 else 2 ^ 16)
    if 4 ≤ stack || 36 ≤ fe || 36 ≤ slab then s
    else
      let u := s.lat.units.find? uses
      let s := match u with
        | some b => ((s.endLaunchesOn b.unit detail).breakHome b.unit).stopUnit b.unit
        | none => s
      let s := s.setRetired stack fe slab isSlab
      let s := { s with lat := { s.lat with units := s.lat.units.filter fun b => !uses b } }
      (s.record { cls := 4, scope := 4, cause := 0x090, unit := (u.map (·.unit)).getD 0, agent := 11, detail := detail }).replace
        (if isSlab then 0 else 1)

end Sys2Proof.Machine
end

