-- ==== Sys2Proof/Machine/Dispatch.lean ====
section
/-! DEFINITION. One arm for each step of the table: a direct call of its meaning. -/

namespace Sys2Proof.Machine

def exec (i : Instr) (s : State) : Host.Outcome State Fault Refusal :=
  match i with
  | .boot x1 x2 => Sys2Proof.Machine.execBoot x1 x2 s
  | .stackImageVerify x1 => Sys2Proof.Machine.execStackImageVerify x1 s
  | .hbmTrain x1 x2 x3 => Sys2Proof.Machine.execHbmTrain x1 x2 x3 s
  | .linkTrain x1 x2 x3 x4 x5 x6 => Sys2Proof.Machine.execLinkTrain x1 x2 x3 x4 x5 x6 s
  | .registerWrite x1 x2 x3 => Sys2Proof.Machine.execRegisterWrite x1 x2 x3 s
  | .apply x1 => Sys2Proof.Machine.execApply x1 s
  | .launchRecordCommit x1 x2 => Sys2Proof.Machine.execLaunchRecordCommit x1 x2 s
  | .lpstatRead x1 x2 x3 => Sys2Proof.Machine.execLpstatRead x1 x2 x3 s
  | .lpcqhWrite x1 x2 => Sys2Proof.Machine.execLpcqhWrite x1 x2 s
  | .lpcqbWrite x1 x2 => Sys2Proof.Machine.execLpcqbWrite x1 x2 s
  | .launchHeadCheck x1 => Sys2Proof.Machine.execLaunchHeadCheck x1 s
  | .backoffExpiry x1 => Sys2Proof.Machine.execBackoffExpiry x1 s
  | .crewStart x1 x2 => Sys2Proof.Machine.execCrewStart x1 x2 s
  | .launchEnd x1 x2 x3 => Sys2Proof.Machine.execLaunchEnd x1 x2 x3 s
  | .crewSaved x1 x2 x3 => Sys2Proof.Machine.execCrewSaved x1 x2 x3 s
  | .crewRestore x1 x2 => Sys2Proof.Machine.execCrewRestore x1 x2 s
  | .resultReturn x1 x2 x3 => Sys2Proof.Machine.execResultReturn x1 x2 x3 s
  | .switchPointCommit x1 => Sys2Proof.Machine.execSwitchPointCommit x1 s
  | .bankAccept x1 => Sys2Proof.Machine.execBankAccept x1 s
  | .semPost x1 x2 x3 => Sys2Proof.Machine.execSemPost x1 x2 x3 s
  | .debugHalt x1 => Sys2Proof.Machine.execDebugHalt x1 s
  | .debugResume x1 => Sys2Proof.Machine.execDebugResume x1 s
  | .debugWrite x1 x2 x3 => Sys2Proof.Machine.execDebugWrite x1 x2 x3 s
  | .pageWalkEnd x1 x2 x3 => Sys2Proof.Machine.execPageWalkEnd x1 x2 x3 s
  | .walkFaultResolve x1 x2 x3 x4 => Sys2Proof.Machine.execWalkFaultResolve x1 x2 x3 x4 s
  | .hbmplaceWrite x1 x2 => Sys2Proof.Machine.execHbmplaceWrite x1 x2 s
  | .descriptorWindowWrite x1 x2 x3 => Sys2Proof.Machine.execDescriptorWindowWrite x1 x2 x3 s
  | .hostBar2Write x1 x2 => Sys2Proof.Machine.execHostBar2Write x1 x2 s
  | .hostBar2Read x1 x2 => Sys2Proof.Machine.execHostBar2Read x1 x2 s
  | .msixUnmask x1 => Sys2Proof.Machine.execMsixUnmask x1 s
  | .ownerset x1 x2 x3 => Sys2Proof.Machine.execOwnerset x1 x2 x3 s
  | .stagedImage x1 => Sys2Proof.Machine.execStagedImage x1 s
  | .mxStart x1 => Sys2Proof.Machine.execMxStart x1 s
  | .vxStart x1 => Sys2Proof.Machine.execVxStart x1 s
  | .consumedPost x1 x2 => Sys2Proof.Machine.execConsumedPost x1 x2 s
  | .donePost x1 x2 => Sys2Proof.Machine.execDonePost x1 x2 s
  | .engineFault x1 x2 => Sys2Proof.Machine.execEngineFault x1 x2 s
  | .tmvBlockDone x1 x2 => Sys2Proof.Machine.execTmvBlockDone x1 x2 s
  | .cxBlockWrite x1 x2 => Sys2Proof.Machine.execCxBlockWrite x1 x2 s
  | .ringBArrive x1 x2 => Sys2Proof.Machine.execRingBArrive x1 x2 s
  | .ringTimeout x1 x2 => Sys2Proof.Machine.execRingTimeout x1 x2 s
  | .appendAccept x1 => Sys2Proof.Machine.execAppendAccept x1 s
  | .spawnrAccept x1 => Sys2Proof.Machine.execSpawnrAccept x1 s
  | .handlerCreate x1 x2 x3 x4 x5 x6 => Sys2Proof.Machine.execHandlerCreate x1 x2 x3 x4 x5 x6 s
  | .wakePost x1 x2 x3 x4 x5 x6 => Sys2Proof.Machine.execWakePost x1 x2 x3 x4 x5 x6 s
  | .recvTake x1 => Sys2Proof.Machine.execRecvTake x1 s
  | .barrierRegister x1 x2 x3 x4 => Sys2Proof.Machine.execBarrierRegister x1 x2 x3 x4 s
  | .barrierArrival x1 x2 x3 x4 x5 => Sys2Proof.Machine.execBarrierArrival x1 x2 x3 x4 x5 s
  | .barrierBroken x1 x2 x3 => Sys2Proof.Machine.execBarrierBroken x1 x2 x3 s
  | .syscAnswer x1 x2 => Sys2Proof.Machine.execSyscAnswer x1 x2 s
  | .fingerprintExchange x1 => Sys2Proof.Machine.execFingerprintExchange x1 s
  | .unitRetire x1 x2 x3 x4 => Sys2Proof.Machine.execUnitRetire x1 x2 x3 x4 s
  | .packetRoute x1 x2 => Sys2Proof.Machine.execPacketRoute x1 x2 s
  | .holdExpiry x1 x2 => Sys2Proof.Machine.execHoldExpiry x1 x2 s
  | .deadlockTimer x1 x2 => Sys2Proof.Machine.execDeadlockTimer x1 x2 s
  | .retryResend x1 => Sys2Proof.Machine.execRetryResend x1 s
  | .retryTimeout x1 => Sys2Proof.Machine.execRetryTimeout x1 s
  | .crumbTimeout x1 => Sys2Proof.Machine.execCrumbTimeout x1 s
  | .crumbHoldExpiry x1 => Sys2Proof.Machine.execCrumbHoldExpiry x1 s
  | .linkReplay x1 x2 => Sys2Proof.Machine.execLinkReplay x1 x2 s
  | .retrainEnd x1 x2 => Sys2Proof.Machine.execRetrainEnd x1 x2 s
  | .fibredown x1 x2 => Sys2Proof.Machine.execFibredown x1 x2 s
  | .ringWrite x1 x2 x3 x4 x5 x6 => Sys2Proof.Machine.execRingWrite x1 x2 x3 x4 x5 x6 s
  | .wavelengthMove x1 x2 x3 => Sys2Proof.Machine.execWavelengthMove x1 x2 x3 s
  | .powerWindow x1 => Sys2Proof.Machine.execPowerWindow x1 s
  | .patrolScrub x1 x2 => Sys2Proof.Machine.execPatrolScrub x1 x2 s
  | .hbmRead x1 x2 x3 x4 => Sys2Proof.Machine.execHbmRead x1 x2 x3 x4 s
  | .hbmTransferRetry x1 x2 x3 => Sys2Proof.Machine.execHbmTransferRetry x1 x2 x3 s
  | .laneTestEnd x1 x2 x3 => Sys2Proof.Machine.execLaneTestEnd x1 x2 x3 s
  | .segmentFree x1 x2 => Sys2Proof.Machine.execSegmentFree x1 x2 s
  | .add x1 x2 x3 x4 => Sys2Proof.Machine.execAdd x1 x2 x3 x4 s
  | .sub x1 x2 x3 x4 => Sys2Proof.Machine.execSub x1 x2 x3 x4 s
  | .mul x1 x2 x3 x4 => Sys2Proof.Machine.execMul x1 x2 x3 x4 s
  | .mulh x1 x2 x3 x4 x5 => Sys2Proof.Machine.execMulh x1 x2 x3 x4 x5 s
  | .div x1 x2 x3 x4 x5 => Sys2Proof.Machine.execDiv x1 x2 x3 x4 x5 s
  | .rem x1 x2 x3 x4 x5 => Sys2Proof.Machine.execRem x1 x2 x3 x4 x5 s
  | .and x1 x2 x3 x4 => Sys2Proof.Machine.execAnd x1 x2 x3 x4 s
  | .or x1 x2 x3 x4 => Sys2Proof.Machine.execOr x1 x2 x3 x4 s
  | .xor x1 x2 x3 x4 => Sys2Proof.Machine.execXor x1 x2 x3 x4 s
  | .andn x1 x2 x3 x4 => Sys2Proof.Machine.execAndn x1 x2 x3 x4 s
  | .shl x1 x2 x3 x4 => Sys2Proof.Machine.execShl x1 x2 x3 x4 s
  | .shr x1 x2 x3 x4 x5 => Sys2Proof.Machine.execShr x1 x2 x3 x4 x5 s
  | .rot x1 x2 x3 x4 => Sys2Proof.Machine.execRot x1 x2 x3 x4 s
  | .min x1 x2 x3 x4 x5 => Sys2Proof.Machine.execMin x1 x2 x3 x4 x5 s
  | .max x1 x2 x3 x4 x5 => Sys2Proof.Machine.execMax x1 x2 x3 x4 x5 s
  | .clz x1 x2 x3 => Sys2Proof.Machine.execClz x1 x2 x3 s
  | .ctz x1 x2 x3 => Sys2Proof.Machine.execCtz x1 x2 x3 s
  | .popc x1 x2 x3 => Sys2Proof.Machine.execPopc x1 x2 x3 s
  | .brev x1 x2 x3 => Sys2Proof.Machine.execBrev x1 x2 x3 s
  | .sext x1 x2 x3 x4 => Sys2Proof.Machine.execSext x1 x2 x3 x4 s
  | .zext x1 x2 x3 x4 => Sys2Proof.Machine.execZext x1 x2 x3 x4 s
  | .addi x1 x2 x3 x4 => Sys2Proof.Machine.execAddi x1 x2 x3 x4 s
  | .addiLit x1 x2 x3 x4 => Sys2Proof.Machine.execAddiLit x1 x2 x3 x4 s
  | .muli x1 x2 x3 x4 => Sys2Proof.Machine.execMuli x1 x2 x3 x4 s
  | .muliLit x1 x2 x3 x4 => Sys2Proof.Machine.execMuliLit x1 x2 x3 x4 s
  | .andi x1 x2 x3 x4 => Sys2Proof.Machine.execAndi x1 x2 x3 x4 s
  | .andiLit x1 x2 x3 x4 => Sys2Proof.Machine.execAndiLit x1 x2 x3 x4 s
  | .ori x1 x2 x3 x4 => Sys2Proof.Machine.execOri x1 x2 x3 x4 s
  | .oriLit x1 x2 x3 x4 => Sys2Proof.Machine.execOriLit x1 x2 x3 x4 s
  | .xori x1 x2 x3 x4 => Sys2Proof.Machine.execXori x1 x2 x3 x4 s
  | .xoriLit x1 x2 x3 x4 => Sys2Proof.Machine.execXoriLit x1 x2 x3 x4 s
  | .shli x1 x2 x3 x4 => Sys2Proof.Machine.execShli x1 x2 x3 x4 s
  | .shri x1 x2 x3 x4 x5 => Sys2Proof.Machine.execShri x1 x2 x3 x4 x5 s
  | .roti x1 x2 x3 x4 => Sys2Proof.Machine.execRoti x1 x2 x3 x4 s
  | .mini x1 x2 x3 x4 => Sys2Proof.Machine.execMini x1 x2 x3 x4 s
  | .miniLit x1 x2 x3 x4 => Sys2Proof.Machine.execMiniLit x1 x2 x3 x4 s
  | .maxi x1 x2 x3 x4 => Sys2Proof.Machine.execMaxi x1 x2 x3 x4 s
  | .maxiLit x1 x2 x3 x4 => Sys2Proof.Machine.execMaxiLit x1 x2 x3 x4 s
  | .li x1 x2 x3 => Sys2Proof.Machine.execLi x1 x2 x3 s
  | .liLit x1 x2 x3 => Sys2Proof.Machine.execLiLit x1 x2 x3 s
  | .lea x1 x2 x3 x4 x5 => Sys2Proof.Machine.execLea x1 x2 x3 x4 x5 s
  | .bfx x1 x2 x3 x4 x5 => Sys2Proof.Machine.execBfx x1 x2 x3 x4 x5 s
  | .bfi x1 x2 x3 x4 x5 => Sys2Proof.Machine.execBfi x1 x2 x3 x4 x5 s
  | .mov x1 x2 x3 => Sys2Proof.Machine.execMov x1 x2 x3 s
  | .pfr x1 x2 x3 => Sys2Proof.Machine.execPfr x1 x2 x3 s
  | .cmp x1 x2 x3 x4 x5 => Sys2Proof.Machine.execCmp x1 x2 x3 x4 x5 s
  | .cmpLit x1 x2 x3 x4 x5 => Sys2Proof.Machine.execCmpLit x1 x2 x3 x4 x5 s
  | .fcmp x1 x2 x3 x4 x5 x6 => Sys2Proof.Machine.execFcmp x1 x2 x3 x4 x5 x6 s
  | .br x1 x2 => Sys2Proof.Machine.execBr x1 x2 s
  | .call x1 x2 => Sys2Proof.Machine.execCall x1 x2 s
  | .jmp x1 x2 => Sys2Proof.Machine.execJmp x1 x2 s
  | .callr x1 x2 => Sys2Proof.Machine.execCallr x1 x2 s
  | .ret x1 => Sys2Proof.Machine.execRet x1 s
  | .loop x1 x2 x3 => Sys2Proof.Machine.execLoop x1 x2 x3 s
  | .fadd x1 x2 x3 x4 x5 => Sys2Proof.Machine.execFadd x1 x2 x3 x4 x5 s
  | .faddExt x1 x2 x3 x4 x5 x6 => Sys2Proof.Machine.execFaddExt x1 x2 x3 x4 x5 x6 s
  | .fsub x1 x2 x3 x4 x5 => Sys2Proof.Machine.execFsub x1 x2 x3 x4 x5 s
  | .fsubExt x1 x2 x3 x4 x5 x6 => Sys2Proof.Machine.execFsubExt x1 x2 x3 x4 x5 x6 s
  | .fmul x1 x2 x3 x4 x5 => Sys2Proof.Machine.execFmul x1 x2 x3 x4 x5 s
  | .fmulExt x1 x2 x3 x4 x5 x6 => Sys2Proof.Machine.execFmulExt x1 x2 x3 x4 x5 x6 s
  | .ffma x1 x2 x3 x4 x5 x6 x7 => Sys2Proof.Machine.execFfma x1 x2 x3 x4 x5 x6 x7 s
  | .fdiv x1 x2 x3 x4 x5 => Sys2Proof.Machine.execFdiv x1 x2 x3 x4 x5 s
  | .fdivExt x1 x2 x3 x4 x5 x6 => Sys2Proof.Machine.execFdivExt x1 x2 x3 x4 x5 x6 s
  | .fsqrt x1 x2 x3 x4 => Sys2Proof.Machine.execFsqrt x1 x2 x3 x4 s
  | .fsqrtExt x1 x2 x3 x4 x5 => Sys2Proof.Machine.execFsqrtExt x1 x2 x3 x4 x5 s
  | .fmin x1 x2 x3 x4 x5 => Sys2Proof.Machine.execFmin x1 x2 x3 x4 x5 s
  | .fminExt x1 x2 x3 x4 x5 x6 => Sys2Proof.Machine.execFminExt x1 x2 x3 x4 x5 x6 s
  | .fmax x1 x2 x3 x4 x5 => Sys2Proof.Machine.execFmax x1 x2 x3 x4 x5 s
  | .fmaxExt x1 x2 x3 x4 x5 x6 => Sys2Proof.Machine.execFmaxExt x1 x2 x3 x4 x5 x6 s
  | .fcvt x1 x2 x3 x4 x5 x6 x7 => Sys2Proof.Machine.execFcvt x1 x2 x3 x4 x5 x6 x7 s
  | .fclass x1 x2 x3 x4 => Sys2Proof.Machine.execFclass x1 x2 x3 x4 s
  | .ld x1 x2 x3 x4 x5 x6 x7 => Sys2Proof.Machine.execLd x1 x2 x3 x4 x5 x6 x7 s
  | .ldLit x1 x2 x3 x4 x5 x6 x7 => Sys2Proof.Machine.execLdLit x1 x2 x3 x4 x5 x6 x7 s
  | .st x1 x2 x3 x4 x5 x6 => Sys2Proof.Machine.execSt x1 x2 x3 x4 x5 x6 s
  | .stLit x1 x2 x3 x4 x5 x6 => Sys2Proof.Machine.execStLit x1 x2 x3 x4 x5 x6 s
  | .ldbd x1 x2 x3 x4 => Sys2Proof.Machine.execLdbd x1 x2 x3 x4 s
  | .ldbdLit x1 x2 x3 x4 => Sys2Proof.Machine.execLdbdLit x1 x2 x3 x4 s
  | .stbd x1 x2 x3 x4 => Sys2Proof.Machine.execStbd x1 x2 x3 x4 s
  | .stbdLit x1 x2 x3 x4 => Sys2Proof.Machine.execStbdLit x1 x2 x3 x4 s
  | .fence x1 x2 => Sys2Proof.Machine.execFence x1 x2 s
  | .flushr x1 x2 => Sys2Proof.Machine.execFlushr x1 x2 s
  | .stq x1 x2 x3 x4 => Sys2Proof.Machine.execStq x1 x2 x3 x4 s
  | .stqLit x1 x2 x3 x4 => Sys2Proof.Machine.execStqLit x1 x2 x3 x4 s
  | .qmov x1 x2 x3 => Sys2Proof.Machine.execQmov x1 x2 x3 s
  | .salloc x1 x2 x3 x4 => Sys2Proof.Machine.execSalloc x1 x2 x3 x4 s
  | .sfree x1 x2 => Sys2Proof.Machine.execSfree x1 x2 s
  | .aadd x1 x2 x3 x4 x5 => Sys2Proof.Machine.execAadd x1 x2 x3 x4 x5 s
  | .aand x1 x2 x3 x4 x5 => Sys2Proof.Machine.execAand x1 x2 x3 x4 x5 s
  | .aor x1 x2 x3 x4 x5 => Sys2Proof.Machine.execAor x1 x2 x3 x4 x5 s
  | .axor x1 x2 x3 x4 x5 => Sys2Proof.Machine.execAxor x1 x2 x3 x4 x5 s
  | .amin x1 x2 x3 x4 x5 => Sys2Proof.Machine.execAmin x1 x2 x3 x4 x5 s
  | .amax x1 x2 x3 x4 x5 => Sys2Proof.Machine.execAmax x1 x2 x3 x4 x5 s
  | .axchg x1 x2 x3 x4 x5 => Sys2Proof.Machine.execAxchg x1 x2 x3 x4 x5 s
  | .acas x1 x2 x3 x4 x5 x6 => Sys2Proof.Machine.execAcas x1 x2 x3 x4 x5 x6 s
  | .afadd x1 x2 x3 x4 x5 => Sys2Proof.Machine.execAfadd x1 x2 x3 x4 x5 s
  | .append x1 x2 x3 x4 x5 => Sys2Proof.Machine.execAppend x1 x2 x3 x4 x5 s
  | .spawn x1 x2 x3 x4 x5 x6 x7 x8 x9 => Sys2Proof.Machine.execSpawn x1 x2 x3 x4 x5 x6 x7 x8 x9 s
  | .spawnLit x1 x2 x3 x4 x5 x6 x7 x8 x9 => Sys2Proof.Machine.execSpawnLit x1 x2 x3 x4 x5 x6 x7 x8 x9 s
  | .spawnr x1 x2 x3 x4 x5 x6 x7 => Sys2Proof.Machine.execSpawnr x1 x2 x3 x4 x5 x6 x7 s
  | .spawnrLit x1 x2 x3 x4 x5 x6 x7 => Sys2Proof.Machine.execSpawnrLit x1 x2 x3 x4 x5 x6 x7 s
  | .exit x1 => Sys2Proof.Machine.execExit x1 s
  | .yield x1 => Sys2Proof.Machine.execYield x1 s
  | .setpri x1 x2 x3 => Sys2Proof.Machine.execSetpri x1 x2 x3 s
  | .wait x1 x2 x3 x4 => Sys2Proof.Machine.execWait x1 x2 x3 x4 s
  | .post x1 x2 x3 x4 => Sys2Proof.Machine.execPost x1 x2 x3 x4 s
  | .semset x1 x2 x3 x4 => Sys2Proof.Machine.execSemset x1 x2 x3 x4 s
  | .trig x1 => Sys2Proof.Machine.execTrig x1 s
  | .barinit x1 x2 x3 x4 => Sys2Proof.Machine.execBarinit x1 x2 x3 x4 s
  | .bararr x1 x2 x3 => Sys2Proof.Machine.execBararr x1 x2 x3 s
  | .barwait x1 x2 x3 => Sys2Proof.Machine.execBarwait x1 x2 x3 s
  | .patset x1 x2 x3 x4 x5 => Sys2Proof.Machine.execPatset x1 x2 x3 x4 x5 s
  | .patsetLit x1 x2 x3 x4 x5 => Sys2Proof.Machine.execPatsetLit x1 x2 x3 x4 x5 s
  | .patclr x1 x2 x3 => Sys2Proof.Machine.execPatclr x1 x2 x3 s
  | .portcfg x1 x2 x3 x4 => Sys2Proof.Machine.execPortcfg x1 x2 x3 x4 s
  | .recv x1 x2 x3 x4 x5 => Sys2Proof.Machine.execRecv x1 x2 x3 x4 x5 s
  | .trap x1 x2 => Sys2Proof.Machine.execTrap x1 x2 s
  | .sysc x1 x2 => Sys2Proof.Machine.execSysc x1 x2 s
  | .eret x1 => Sys2Proof.Machine.execEret x1 s
  | .mfs x1 x2 x3 => Sys2Proof.Machine.execMfs x1 x2 x3 s
  | .mts x1 x2 x3 => Sys2Proof.Machine.execMts x1 x2 x3 s
  | .rgn x1 => Sys2Proof.Machine.execRgn x1 s
  | .pair x1 => Sys2Proof.Machine.execPair x1 s
  | .unpair x1 => Sys2Proof.Machine.execUnpair x1 s
  | .msync x1 => Sys2Proof.Machine.execMsync x1 s
  | .clk x1 x2 => Sys2Proof.Machine.execClk x1 x2 s
  | .physid x1 x2 => Sys2Proof.Machine.execPhysid x1 x2 s
  | .capx x1 x2 x3 => Sys2Proof.Machine.execCapx x1 x2 x3 s
  | .halt x1 => Sys2Proof.Machine.execHalt x1 s
  | .portstat x1 x2 x3 x4 => Sys2Proof.Machine.execPortstat x1 x2 x3 x4 s
  | .ill x1 x2 x3 => Sys2Proof.Machine.execIll x1 x2 x3 s
  | .tmv x1 => Sys2Proof.Machine.execTmv x1 s
  | .cxtpl x1 => Sys2Proof.Machine.execCxtpl x1 s
  | .cxgo x1 => Sys2Proof.Machine.execCxgo x1 s
  | .cxwm x1 => Sys2Proof.Machine.execCxwm x1 s
  | .cxstop x1 => Sys2Proof.Machine.execCxstop x1 s
  | .cxrst x1 => Sys2Proof.Machine.execCxrst x1 s
  | .vadd x1 => Sys2Proof.Machine.execVadd x1 s
  | .vsub x1 => Sys2Proof.Machine.execVsub x1 s
  | .vmul x1 => Sys2Proof.Machine.execVmul x1 s
  | .vfma x1 => Sys2Proof.Machine.execVfma x1 s
  | .vmin x1 => Sys2Proof.Machine.execVmin x1 s
  | .vmax x1 => Sys2Proof.Machine.execVmax x1 s
  | .vabs x1 => Sys2Proof.Machine.execVabs x1 s
  | .vneg x1 => Sys2Proof.Machine.execVneg x1 s
  | .vrcp x1 => Sys2Proof.Machine.execVrcp x1 s
  | .vrsq x1 => Sys2Proof.Machine.execVrsq x1 s
  | .vexp2 x1 => Sys2Proof.Machine.execVexp2 x1 s
  | .vlog2 x1 => Sys2Proof.Machine.execVlog2 x1 s
  | .vlut x1 => Sys2Proof.Machine.execVlut x1 s
  | .vcmp x1 => Sys2Proof.Machine.execVcmp x1 s
  | .vsel x1 => Sys2Proof.Machine.execVsel x1 s
  | .vcvt x1 => Sys2Proof.Machine.execVcvt x1 s
  | .vscale x1 => Sys2Proof.Machine.execVscale x1 s
  | .vred x1 => Sys2Proof.Machine.execVred x1 s
  | .vscan x1 => Sys2Proof.Machine.execVscan x1 s
  | .vtopk x1 => Sys2Proof.Machine.execVtopk x1 s
  | .vgath x1 => Sys2Proof.Machine.execVgath x1 s
  | .vscat x1 => Sys2Proof.Machine.execVscat x1 s
  | .vfill x1 => Sys2Proof.Machine.execVfill x1 s
  | .viota x1 => Sys2Proof.Machine.execViota x1 s
  | .vpack x1 => Sys2Proof.Machine.execVpack x1 s
  | .vunpk x1 => Sys2Proof.Machine.execVunpk x1 s
  | .mma x1 => Sys2Proof.Machine.execMma x1 s
  | .mmas x1 => Sys2Proof.Machine.execMmas x1 s
  | .mald x1 => Sys2Proof.Machine.execMald x1 s
  | .mast x1 => Sys2Proof.Machine.execMast x1 s
  | .maz x1 => Sys2Proof.Machine.execMaz x1 s
  | .mstat x1 => Sys2Proof.Machine.execMstat x1 s
  | .mring x1 => Sys2Proof.Machine.execMring x1 s
  | .packetTransmit x1 => Sys2Proof.Machine.execPacketTransmit x1 s
  | .tagReuse x1 => Sys2Proof.Machine.execTagReuse x1 s
  | .capxComplete x1 => Sys2Proof.Machine.execCapxComplete x1 s
  | .dispReady x1 x2 x3 x4 x5 => Sys2Proof.Machine.execDispReady x1 x2 x3 x4 x5 s
  | .ringRetire x1 x2 x3 => Sys2Proof.Machine.execRingRetire x1 x2 x3 s
  | .debugEnd x1 => Sys2Proof.Machine.execDebugEnd x1 s
  | .rd => Sys2Proof.Machine.execRd s
  | .wr => Sys2Proof.Machine.execWr s
  | .wrn => Sys2Proof.Machine.execWrn s
  | .atm => Sys2Proof.Machine.execAtm s
  | .atmp => Sys2Proof.Machine.execAtmp s
  | .matm => Sys2Proof.Machine.execMatm s
  | .app => Sys2Proof.Machine.execApp s
  | .spw => Sys2Proof.Machine.execSpw s
  | .flu => Sys2Proof.Machine.execFlu s
  | .rdr => Sys2Proof.Machine.execRdr s
  | .atr => Sys2Proof.Machine.execAtr s
  | .matr => Sys2Proof.Machine.execMatr s
  | .sts => Sys2Proof.Machine.execSts s
  | .ack => Sys2Proof.Machine.execAck s
  | .retry => Sys2Proof.Machine.execRetry s
  | .mgt => Sys2Proof.Machine.execMgt s
  | .resCollapse => Sys2Proof.Machine.execResCollapse s
  | .resInval => Sys2Proof.Machine.execResInval s
  | .resAck => Sys2Proof.Machine.execResAck s
  | .resDone => Sys2Proof.Machine.execResDone s
  | .resMoved => Sys2Proof.Machine.execResMoved s
  | .resDup => Sys2Proof.Machine.execResDup s
  | .resMigrate => Sys2Proof.Machine.execResMigrate s
  | .resCollapseCommand => Sys2Proof.Machine.execResCollapseCommand s
  | .resSplit => Sys2Proof.Machine.execResSplit s
  | .resMapped => Sys2Proof.Machine.execResMapped s
  | .dup => Sys2Proof.Machine.execDup s
  | .migrate => Sys2Proof.Machine.execMigrate s
  | .collapse => Sys2Proof.Machine.execCollapse s
  | .split => Sys2Proof.Machine.execSplit s
  | .tinv => Sys2Proof.Machine.execTinv s
  | .tinvComplete => Sys2Proof.Machine.execTinvComplete s
  | .preemptSave => Sys2Proof.Machine.execPreemptSave s
  | .preemptRestore => Sys2Proof.Machine.execPreemptRestore s
  | .attest => Sys2Proof.Machine.execAttest s
  | .patternEvaluation => Sys2Proof.Machine.execPatternEvaluation s
  | .coldReset => Sys2Proof.Machine.execColdReset s
  | .functionLevelReset => Sys2Proof.Machine.execFunctionLevelReset s
  | .hostLinkTrain => Sys2Proof.Machine.execHostLinkTrain s
  | .endSweep => Sys2Proof.Machine.execEndSweep s
  | .annulment => Sys2Proof.Machine.execAnnulment s
  | .asyncTrap => Sys2Proof.Machine.execAsyncTrap s
  | .residencyResume => Sys2Proof.Machine.execResidencyResume s
  | .pdRefresh => Sys2Proof.Machine.execPdRefresh s
  | .tempRefresh => Sys2Proof.Machine.execTempRefresh s

end Sys2Proof.Machine
end

