-- ==== Sys2Proof/Machine/Step.lean ====
section
/-! DEFINITION. One step of the machine: what the outside world does, what is due, the next instruction of a mill, or the end of the
cycle (log entry 1). -/

namespace Sys2Proof.Machine

/-- Runs an event on what it acts on. -/
def runEvent (s : State) (e : Event) : Host.Outcome State Fault Refusal := exec e.op { s with pkt := e.pkt, cmd := e.cmd }

/-- The thread issues: an asynchronous fault, an annulment, or the instruction at PC (R253, R386). -/
def issue (s : State) (t : Thread) : Host.Outcome State Fault Refusal :=
  let t := s.takePosition t
  let s := { s.setThread t with cur := (t.unit, t.slot), pkt := none, cmd := none }
  if !t.async.isEmpty then exec .asyncTrap s
  else if t.skipc != 0 then exec .annulment s
  else match s.fetch t with
    | .words ws =>
      match decode ws with
      | .ok i =>
        match s.before t i with
        | .go s => twinned (exec i) s t
        | .stop s => .next s
      | .error e => .next (s.illegal t e.sub e.word)
    | f => .next (s.fetchFails t f)

/-- One step. -/
def step (s : State) : Host.Outcome State Fault Refusal :=
  match s.inputs with
  | e :: r => .next ({ s with inputs := r }.arriveInput e)
  | [] =>
    match s.agenda with
    | e :: r =>
      if e.due ≤ s.now then runEvent { s with agenda := r } e.ev
      else match s.nextIssue with
        | some (s, t) => issue s t
        | none => .next s.tick
    | [] =>
      match s.nextIssue with
      | some (s, t) => issue s t
      | none => .next s.tick

/-- The launch that `withFetchWord` places: one crew of one thread. -/
def oneLaunch : Launch := { Launch.empty with ltag := 1, gsize := 1, quota := 256, s1sz := 1 }
def oneCrew : Crew :=
  { ltag := 1, gang := 0, idx := 0, unit := 0, ports := [], pats := [], busy := [], s1 := [{ num := 0, len := 4096, granules := [0] }],
    closed := false, started := true, sent := 0, recvd := 0 }

/-- `s` with an instruction at the PC of one READY thread, the next to issue: launch 1, its crew on logical unit 0, S1 segment 0 in
granule 0, and PC at its offset 0. Nothing else is due (log entry 11). -/
def State.withFetchWord (s : State) (nbits w : Nat) : State :=
  let s := { s with inputs := [], agenda := [], threads := [], scan := 0, issued := 0 }
  let s := { s with lat := { s.lat with units := [{ unit := 0, fe := 0, slab := 0, ganged := false }] },
                    disp := { s.disp with launches := [(1, oneLaunch)], crews := [oneCrew] },
                    mem := wrBytes s.mem 0xE000000000 (natLe 20 (w % 2 ^ nbits)),
                    psn := mclear s.psn 0x1C00000000 0x1C00000003 }
  s.setThread { s.newThread oneLaunch 0 0 0 0 0 0x1000000000000000 0 with eligRound := s.round }

end Sys2Proof.Machine
end

