-- ==== Sys2Proof/Safety.lean ====
section
/-! DEFINITION. What a safe run is, and the words in which the statements say what an instruction does. -/

namespace Sys2Proof.Machine

/-- A step that answers a next state. -/
def State.steps (s t : State) : Prop := step s = .next t

/-- The state reached in exactly `n` steps, while every step answers a next state. -/
def State.runs : Nat → State → State → Prop
  | 0, s, t => s = t
  | n + 1, s, t => ∃ u, s.steps u ∧ State.runs n u t

/-- A safe state: its next step neither faults nor is refused. -/
def State.safe (s : State) : Prop := ∃ t, s.steps t

/-- What may be due or come from outside: an event of the table that acts without an issuing thread. -/
def eventOp : Instr → Bool
  | .annulment | .asyncTrap => false
  | i => !i.encodable

/-- One thread stands before another in the order of unit and slot. -/
def slotBefore (x y : Thread) : Bool := x.unit < y.unit || (x.unit == y.unit && x.slot < y.slot)

/-- The threads stand in the order of their slots, so that no slot holds two. -/
def slotsRise : List Thread → Bool
  | a :: b :: r => slotBefore a b && slotsRise (b :: r)
  | _ => true

/-- The storage of a state is in its one canonical form, no thread slot holds two threads, and nothing but events is due: what every
step keeps. -/
structure State.Sound (s : State) : Prop where
  mem : Memory.wf s.mem = true
  desc : rising s.desc = true ∧ (s.desc.all fun e => e.2 != 0) = true
  psn : rising s.psn = true
  descPsn : rising s.descPsn = true
  threads : slotsRise s.threads = true
  inputs : (s.inputs.all fun e => eventOp e.op) = true
  agenda : (s.agenda.all fun e => eventOp e.ev.op) = true

end Sys2Proof.Machine

namespace Sys2Proof.Claims

open Sys2Proof Sys2Proof.Machine

/-! ## The words the statements use -/

/-- The thread `t` issues in `s`. -/
abbrev Issues (s : State) (t : Thread) : Prop := s.curThread? = some t

/-- The state in which an instruction of `t` completes: the value that the twin of a paired thread folds is a free value of its own
(log entry 2). -/
def counted (s : State) (t : Thread) : State := { s with free := if t.twin.isSome then s.free + 1 else s.free }

/-- The state with the thread `w` in its slot, and nothing else changed. -/
abbrev put (s : State) (w : Thread) : State := { s with threads := putThread s.threads w }

/-- The instruction has completed with its thread now `w`: its marker is a switch point (R44), and without it nothing but the thread
changes. -/
def ended (s : State) (t w : Thread) (sm : Bool) : State :=
  if sm then (counted s t).switchPoint w else put (counted s t) w

/-- A paired thread stays paired; its twin has no register that differs from the primary's which it had not before (R320). What the twin folds is
left open here (R376). -/
def TwinKept (t w : Thread) : Prop :=
  (t.twin = none → w.twin = none) ∧
  (∀ x, t.twin = some x → ∃ f q o, w.twin = some { x with fp := f, fpq := q, own := o } ∧ ∀ e ∈ o, e ∈ x.own)

/-- A paired thread counts the instruction and folds its values; an unpaired one does neither (R376). How a value is folded is the
model's choice and is left open here. -/
def Folded (t w : Thread) : Prop :=
  (t.twin = none → w.fp = t.fp ∧ w.fpq = t.fpq ∧ w.fpSeen = t.fpSeen ∧ w.retired = t.retired) ∧
  (t.twin ≠ none → w.retired = t.retired + 1) ∧ TwinKept t w

/-- `w` is `t` with its instruction completed and PC at `next`: no register, and nothing else of the thread, has changed. -/
def Stepped (t w : Thread) (next : Word) : Prop :=
  Folded t w ∧ w = { t with pc := next, fetched := [], exchanged := false, fp := w.fp, fpq := w.fpq, fpSeen := w.fpSeen, retired := w.retired,
                            twin := w.twin }

/-- The poison left after a whole write of D (R395): only registers of the vault carry any. -/
def cleansed (t : Thread) : Operand → Map Poison
  | .main i => mdel t.psn (t.vaultKey i)
  | _ => t.psn

/-- The registers outside the vault in which a parity error stands after a whole write of D and of lat (R394, R395). -/
def mended (t : Thread) : Operand → List DebugReg
  | .main _ => t.par.filter (· != .operand .lat)
  | r => (t.par.filter (· != .operand r)).filter (· != .operand .lat)

/-- `w` is `t` with its instruction completed, PC at `next` and the value `v` in D and in lat: every other register, the frames of the
callers, and everything else of the thread is as it was. A buffered result for D or lat is overtaken, and the poison of D is gone. -/
def Wrote (t w : Thread) (d : Operand) (v next : Word) : Prop :=
  Folded t w ∧ (∀ r, w.rd r = if r = .k0 then 0 else if r = d ∨ r = .lat then v else t.rd r) ∧ w.frames.tail = t.frames.tail ∧
  w.rb = t.rb.map (fun e => { e with dead := d :: .lat :: e.dead }) ∧
  w.psn = cleansed t d ∧ w.par = mended t d ∧
  w = { t with pc := next, k := w.k, a := w.a, frames := w.frames, p := w.p, lat := w.lat, psn := w.psn, par := w.par, rb := w.rb,
               fetched := [], exchanged := false, fp := w.fp, fpq := w.fpq, fpSeen := w.fpSeen, retired := w.retired, twin := w.twin }

/-- The instruction of the thread `b` completes without a register result, PC going to `next`. -/
def Completes (i : Instr) (s s' : State) (b : Thread) (sm : Bool) (next : Word) : Prop :=
  ∃ w, exec i s = .next (ended s' b w sm) ∧ Stepped b w next

/-- The ALU-class instruction of the thread `b` completes with `v` in D and in lat, in the state `s'` that its other effects leave. -/
def ComputesIn (i : Instr) (s s' : State) (b : Thread) (sm : Bool) (d : Operand) (v next : Word) : Prop :=
  ∃ w, exec i s = .next (ended s' b w sm) ∧ Wrote b w d v next

/-- The ALU-class instruction completes with `v` in D and in lat. -/
def Computes (i : Instr) (s : State) (t : Thread) (sm : Bool) (d : Operand) (v next : Word) : Prop :=
  ComputesIn i s s t sm d v next

/-- `w` is `t` with its instruction completed and a return-buffer entry taken for `ds`, its values pending, for an access at `va` and `pa`, or for
none. -/
def TookEntry (t w : Thread) (ds : List Operand) (remote : Bool) (next : Word) (va pa : Word := 0) : Prop :=
  Folded t w ∧
  w = { t with rb := t.rb ++ [{ id := t.nextId, dests := ds, dead := [], vals := none, remote := remote, pc := t.pc, va := va, pa := pa }],
               nextId := t.nextId + 1, pc := next, fetched := [], exchanged := false, fp := w.fp, fpq := w.fpq, fpSeen := w.fpSeen,
               retired := w.retired, twin := w.twin }

/-- The long-class instruction completes with an entry for `ds` taken, in the state `s'` that its other effects leave. -/
def TakesEntry (i : Instr) (s s' : State) (t : Thread) (sm : Bool) (ds : List Operand) (next : Word) : Prop :=
  ∃ w, exec i s = .next (ended s' t w sm) ∧ TookEntry t w ds false next

/-- The long-class instruction: with eight entries held a switch point comes first; else it takes an entry, and its value `v` returns
`delay` cycles later. -/
def Returns (i : Instr) (s : State) (t : Thread) (sm : Bool) (d : Operand) (v : Word) (delay : Nat) (next : Word) : Prop :=
  (t.rb.length = 8 → exec i s = .next (s.switchPoint t)) ∧
  (t.rb.length ≠ 8 → ∃ w, exec i s = .next (ended (s.sched delay rankLate (.resultReturn t.ref t.nextId [⟨v, none⟩])) t w sm) ∧
    TookEntry t w [d] false next)

/-- The instruction at PC faults with that TRAPINFO and has no effect. -/
def Faults (i : Instr) (s : State) (t : Thread) (info va : Word) : Prop := exec i s = .next (s.fault t info va)

/-- What a thread's access brings to its bank. -/
def accessOf (s : State) (t : Thread) (kind : AccKind) (n : Nat) (ea : Word) (ret : Bool) (data data2 : Word) (psn : Option Poison)
    (pa : Nat) (mirror : Option Nat) : Access :=
  { t := t.ref, id := t.nextId, rb := if ret then some t.nextId else none, kind := kind, pa := pa, size := n, data := data, data2 := data2,
    retAt := s.now + s.returnAfter t.unit pa, va := ea, pc := t.pc, psn := psn, mirror := mirror, ltag := t.ltag }

/-- A local access leaves for its bank: it is due there after the latency of its place, is outstanding until then, and takes a
return-buffer entry for `d` where it returns a value; the instruction completes. -/
def Leaves (i : Instr) (s : State) (t : Thread) (sm rx : Bool) (acc : Access) (d : Option Operand) (next : Word) : Prop :=
  ∃ w, exec i s = .next (ended (s.sched (s.acceptAfter t.unit acc.pa) (rankMill t.unit) (.bankAccept acc)) t w sm) ∧ Folded t w ∧
    w = { t with
      rb := match d with
        | some d => t.rb ++ [{ id := t.nextId, dests := [d], dead := [], vals := none, remote := false, pc := t.pc, va := acc.va,
                               pa := wd (s.devid * 2 ^ 40 + acc.pa) }]
        | none => t.rb
      nextId := t.nextId + 1
      out := { id := t.nextId, plain := !rx, store := acc.kind.writes, block := acc.pa / 64 } :: t.out
      mirrors := match acc.mirror with
        | some m => if t.mirrors.contains (s.flowTo t m) then t.mirrors else s.flowTo t m :: t.mirrors
        | none => t.mirrors
      copies := if acc.mirror.isSome then t.copies ++ [(t.nextId, none)] else t.copies
      pc := next, fetched := [], exchanged := false, fp := w.fp, fpq := w.fpq, fpSeen := w.fpSeen, retired := w.retired, twin := w.twin }

/-- The mirror device that a range entry names for a write (R135). -/
def mirrorTo : Option RangeEnt → Option Nat
  | some e => if e.mirror then some e.mirdev else none
  | none => none

/-- An event is due at a cycle. -/
def Due (s : State) (at_ : Nat) (op : Instr) : Prop := ∃ e ∈ s.agenda, e.due = at_ ∧ e.ev.op = op

/-- The bytes of memory at local physical addresses. -/
abbrev byteAt (s : State) (pa : Nat) : Byte := rdByte s.mem pa

/-- The block at `pa` has become these 64 bytes with that descriptor, and every other block of memory is as it was. -/
def BlockBecomes (s u : State) (pa : Nat) (data : List Byte) (desc : Half) : Prop :=
  rdBytes u.mem (pa / 64 * 64) 64 = data ∧ u.descOf pa = desc ∧ ∀ a, a / 64 ≠ pa / 64 → byteAt u a = byteAt s a ∧ u.descOf a = s.descOf a

/-- The thread that a post names has taken it. -/
def Posted (s u : State) (p : PostTo) (count status : Nat) : Prop :=
  ∀ x, s.ref? p.t = some x → u.ref? p.t = some (x.post s.now p.sem count p.src status)

/-- The record has been written to the steward log. -/
def Recorded (s u : State) (r : RecInfo) : Prop := recordWords s.pkg.seq s.now r ∈ u.pkg.log

/-- A residency message has been sent: to this device it comes by itself (after 8 cycles: log entry 51), to another it has left for the
router. An answer keeps its tag; a request has one of its own, under which it is outstanding (R211). -/
def Sent (s u : State) (p : Packet) : Prop :=
  if p.dst = s.devid then
    ∃ e ∈ u.agenda, e.due = s.now + 8 ∧ resEvent p.resOp = some e.ev.op ∧
      ∃ n, e.ev.pkt = some { p with arr := n, tag := if p.resAnswer then p.tag else State.noTag }
  else
    ∃ e ∈ u.agenda, s.now + 14 ≤ e.due ∧ ∃ n tag, e.ev.op = .packetRoute 16 { p with sent := s.now, arr := n, tag := tag } ∧
      if p.resAnswer then tag = p.tag else ∃ r, mget u.fab.reqs tag = some r ∧ r.what = .res ∧ r.pkt = { p with tag := tag }

/-- The residency unit acts on the packet of an event, as `p` and in the state `s'`: none of its flow waits before it, what it makes the unit read
can be read, and it is no answer or the first to its request. -/
def ActsOn (s s' : State) (p : Packet) : Prop :=
  ∃ q t, s.pkt = some q ∧ (s.trans.stalled.any fun x => x.src == q.src && x.arr < q.arr) = false ∧ s.resBehind q = false ∧
    s.resHeld q = false ∧ s.resClose q = some (t, p) ∧ s' = t.ueReads 0 0 ((s.resSpan q).map (·.1))

/-- The residency command is over: the ring has none in progress, and its entry has the result. -/
def Finished (s u : State) (c : ResCmd) (result : Nat) : Prop :=
  (u.trans.works.all fun w => w.asked.isSome) = true ∧ (∀ a, c.entry = some a → leNat (rdBytes u.mem (a + 24) 8) = result) ∧ u.threads = s.threads

/-- A packet of this device's own is on its way to the router. -/
def Replied (u : State) (p : Packet) : Prop := ∃ e ∈ u.agenda, ∃ t n, e.ev.op = .packetRoute 16 { p with sent := t, arr := n }

end Sys2Proof.Claims
end

