-- ==== Sys2Proof/Certificates/Slice0/Obligations.lean ====
section
/-! DEFINITION. The statements about the model, for the provers: what each instruction and each event does, what the machine does around
them, and what every step keeps. -/

section
open Sys2Proof Sys2Proof.Machine Sys2Proof.Claims

/-! ## Integer and bit-field instructions -/
/-- R266: what the integer register forms of one word leave in D, and that nothing but D, lat and PC changes. -/
def Obligations.IntegerRegisterForms : Prop :=
  ∀ (s : State) (t : Thread) (sm x : Bool) (d a b : Operand), Issues s t →
    let p := t.rd a
    let q := t.rd b
    let c := q.toNat % 64
    let next := t.pc + 4
    Computes (.add sm d a b) s t sm d (p + q) next ∧
    Computes (.sub sm d a b) s t sm d (p - q) next ∧
    Computes (.mul sm d a b) s t sm d (p * q) next ∧
    Computes (.mulh sm x d a b) s t sm d
      (if x then (p.setWidth 128 * q.setWidth 128).extractLsb' 64 64 else (p.signExtend 128 * q.signExtend 128).extractLsb' 64 64) next ∧
    Computes (.and sm d a b) s t sm d (p &&& q) next ∧
    Computes (.or sm d a b) s t sm d (p ||| q) next ∧
    Computes (.xor sm d a b) s t sm d (p ^^^ q) next ∧
    Computes (.andn sm d a b) s t sm d (p &&& ~~~q) next ∧
    Computes (.shl sm d a b) s t sm d (p <<< c) next ∧
    Computes (.shr sm x d a b) s t sm d (if x then p.sshiftRight c else p >>> c) next ∧
    Computes (.rot sm d a b) s t sm d ((p <<< c) ||| (p >>> (64 - c))) next ∧
    Computes (.min sm x d a b) s t sm d (if x then (if p.ule q then p else q) else (if p.sle q then p else q)) next ∧
    Computes (.max sm x d a b) s t sm d (if x then (if p.ule q then q else p) else (if p.sle q then q else p)) next

/-- R266: DIV and REM are long class and return after 24 cycles; the quotient is truncated towards zero, DIV by zero gives all ones and REM
by zero gives a, and −2^63 by −1 gives −2^63 and 0. R275: FDIV and FSQRT are long class and return after 28 cycles. -/
def Obligations.DivisionsAndRootsReturn : Prop :=
  (∀ (s : State) (t : Thread) (sm x : Bool) (d a b : Operand), Issues s t →
     let p := t.rd a
     let q := t.rd b
     Returns (.div sm x d a b) s t sm d (if q = 0 then 0xFFFFFFFFFFFFFFFF else if x then p.udiv q else p.sdiv q) 24 (t.pc + 4) ∧
     Returns (.rem sm x d a b) s t sm d (if q = 0 then p else if x then p.umod q else p.srem q) 24 (t.pc + 4)) ∧
  (∀ (s : State) (t : Thread) (sm x : Bool) (rm : BitVec 3) (d a b : Operand), Issues s t →
     let p := scalarVal x (t.rd a)
     let q := scalarVal x (t.rd b)
     Returns (.fdiv sm x d a b) s t sm d (scalarRes x 0 (fDiv p q)) 28 (t.pc + 4) ∧
     Returns (.fdivExt sm x rm d a b) s t sm d (scalarRes x rm.toNat (fDiv p q)) 28 (t.pc + 12) ∧
     Returns (.fsqrt sm x d a) s t sm d (scalarRes x 0 (fSqrt p)) 28 (t.pc + 4) ∧
     Returns (.fsqrtExt sm x rm d a) s t sm d (scalarRes x rm.toNat (fSqrt p)) 28 (t.pc + 12))

/-- R267: the unary bit functions. R270: BFX takes the field of WID bits at POS, zero-extended; BFI puts the low WID bits of a there and
keeps the other bits of d. -/
def Obligations.BitForms : Prop :=
  (∀ (s : State) (t : Thread) (sm : Bool) (d a : Operand), Issues s t →
     let p := t.rd a
     let next := t.pc + 4
     (∃ v, Computes (.clz sm d a) s t sm d v next ∧ v.toNat ≤ 64 ∧ (∀ i, 64 ≤ i + v.toNat → p.getLsbD i = false) ∧
       (v.toNat < 64 → p.getLsbD (63 - v.toNat) = true)) ∧
     (∃ v, Computes (.ctz sm d a) s t sm d v next ∧ v.toNat ≤ 64 ∧ (∀ i, i < v.toNat → p.getLsbD i = false) ∧
       (v.toNat < 64 → p.getLsbD v.toNat = true)) ∧
     (∃ v, Computes (.popc sm d a) s t sm d v next ∧ v.toNat = ((List.range 64).filter fun i => p.getLsbD i).length) ∧
     (∃ v, Computes (.brev sm d a) s t sm d v next ∧ ∀ i, i < 64 → v.getLsbD i = p.getLsbD (63 - i)) ∧
     (∀ w : BitVec 2, w ≠ 3 →
       Computes (.sext sm w d a) s t sm d (BitVec.signExtend 64 (p.setWidth (8 * 2 ^ w.toNat))) next ∧
       Computes (.zext sm w d a) s t sm d (BitVec.setWidth 64 (p.setWidth (8 * 2 ^ w.toNat))) next)) ∧
  (∀ (s : State) (t : Thread) (sm : Bool) (pos wid1 : BitVec 6) (d a : Operand), Issues s t → pos.toNat + wid1.toNat + 1 ≤ 64 →
     let p := t.rd a
     let q := t.rd d
     let lo := pos.toNat
     let n := wid1.toNat + 1
     (∃ v, Computes (.bfx sm pos wid1 d a) s t sm d v (t.pc + 12) ∧ ∀ i, v.getLsbD i = (decide (i < n) && p.getLsbD (lo + i))) ∧
     (∃ v, Computes (.bfi sm pos wid1 d a) s t sm d v (t.pc + 12) ∧
       ∀ i, v.getLsbD i = if lo ≤ i ∧ i < lo + n then p.getLsbD (i - lo) else q.getLsbD i))

/-- R268, R269: immediate and move forms, with imm8 or with a literal. -/
def Obligations.ImmediateAndMoveForms : Prop :=
  ∀ (s : State) (t : Thread) (sm x : Bool) (i : BitVec 8) (lit : Word) (c : BitVec 6) (n : BitVec 3) (d a b : Operand), Issues s t →
    let p := t.rd a
    let m : Word := i.signExtend 64
    let one := t.pc + 4
    let three := t.pc + 12
    Computes (.addi sm i d a) s t sm d (p + m) one ∧ Computes (.addiLit sm lit d a) s t sm d (p + lit) three ∧
    Computes (.muli sm i d a) s t sm d (p * m) one ∧ Computes (.muliLit sm lit d a) s t sm d (p * lit) three ∧
    Computes (.andi sm i d a) s t sm d (p &&& m) one ∧ Computes (.andiLit sm lit d a) s t sm d (p &&& lit) three ∧
    Computes (.ori sm i d a) s t sm d (p ||| m) one ∧ Computes (.oriLit sm lit d a) s t sm d (p ||| lit) three ∧
    Computes (.xori sm i d a) s t sm d (p ^^^ m) one ∧ Computes (.xoriLit sm lit d a) s t sm d (p ^^^ lit) three ∧
    Computes (.shli sm c d a) s t sm d (p <<< c.toNat) one ∧
    Computes (.shri sm x c d a) s t sm d (if x then p.sshiftRight c.toNat else p >>> c.toNat) one ∧
    Computes (.roti sm c d a) s t sm d ((p <<< c.toNat) ||| (p >>> (64 - c.toNat))) one ∧
    Computes (.mini sm i d a) s t sm d (if p.sle m then p else m) one ∧
    Computes (.miniLit sm lit d a) s t sm d (if p.sle lit then p else lit) three ∧
    Computes (.maxi sm i d a) s t sm d (if p.sle m then m else p) one ∧
    Computes (.maxiLit sm lit d a) s t sm d (if p.sle lit then lit else p) three ∧
    Computes (.li sm i d) s t sm d m one ∧ Computes (.liLit sm lit d) s t sm d lit three ∧
    Computes (.lea sm x d a b) s t sm d (p + t.rd b * (if x then 64 else 8)) one ∧
    Computes (.mov sm d a) s t sm d p one ∧
    Computes (.pfr sm n a) s t sm (.opf n) p one


/-! ## Compare, branches, calls and loops -/
/-- R248, R271: a comparison that holds sets SKIPC to K; it writes no register and leaves lat. R248: the conditions of FCMP: a NaN is equal
to nothing and below nothing, and UN and OR say whether there is one; the zeros are equal. -/
def Obligations.ComparesSkip : Prop :=
  (∀ (s : State) (t : Thread) (sm dbl : Bool) (cond : BitVec 3) (k : BitVec 2) (a b : Operand) (v : BitVec 7) (lit : Word), Issues s t →
     let holds (p q : Word) : Prop := match cond with
       | 0 => p = q
       | 1 => p ≠ q
       | 2 => p.toInt < q.toInt
       | 3 => q.toInt ≤ p.toInt
       | 4 => p.toNat < q.toNat
       | 5 => q.toNat ≤ p.toNat
       | 6 => p &&& q ≠ 0
       | 7 => p &&& q = 0
     let ends (i : Instr) (words : Nat) (c : Prop) : Prop :=
       (c → Completes i s s { t with skipc := k } sm (t.pc + wd (4 * words))) ∧ (¬c → Completes i s s t sm (t.pc + wd (4 * words)))
     ends (.cmp sm cond k a (.reg b)) 1 (holds (t.rd a) (t.rd b)) ∧
     ends (.cmp sm cond k a (.imm v)) 1 (holds (t.rd a) (v.signExtend 64)) ∧
     ends (.cmpLit sm cond k a lit) 3 (holds (t.rd a) lit) ∧
     ends (.fcmp sm dbl cond k a b) 1 (fcmpHolds cond (scalarVal dbl (t.rd a)) (scalarVal dbl (t.rd b)) = true)) ∧
  (∀ x : FVal,
     (∀ c : BitVec 3, fcmpHolds c .nan x = (c == 1 || c == 6) ∧ fcmpHolds c x .nan = (c == 1 || c == 6)) ∧
     (x ≠ .nan → fcmpHolds 7 x x = true ∧ fcmpHolds 0 x x = true ∧ fcmpHolds 2 x x = false ∧ fcmpHolds 4 x x = false) ∧
     (∀ n m : Bool, ∀ e g : Int, fcmpHolds 0 (.fin n 0 e) (.fin m 0 g) = true ∧ fcmpHolds 2 (.fin n 0 e) (.fin m 0 g) = false) ∧
     (∀ y : FVal, fcmpHolds 3 x y = (fcmpHolds 2 x y || fcmpHolds 0 x y) ∧ fcmpHolds 5 x y = (fcmpHolds 4 x y || fcmpHolds 0 x y) ∧
       fcmpHolds 4 x y = fcmpHolds 2 y x))

/-- R272, R274: BR and JMP go to their targets; LOOP counts down into D and lat, and branches while the counter is not zero. With D = k0 the
value read is zero, the write is discarded and the branch is always taken. A main-file D other than k0 is read from the vault. An annulled
LOOP neither counts nor branches. -/
def Obligations.BranchesAndLoop : Prop :=
  ∀ (s : State) (t : Thread) (sm : Bool) (off : BitVec 22) (o : BitVec 15) (a d : Operand), Issues s t →
    Completes (.br sm off) s s t sm (t.pc + 4 * off.signExtend 64) ∧
    Completes (.jmp sm a) s s t sm (t.rd a) ∧
    Computes (.loop sm o d) s t sm d (t.rd d - 1) (if t.rd d - 1 = 0 then t.pc + 4 else t.pc + 4 * o.signExtend 64) ∧
    (t.rd d = 0 → Computes (.loop sm o d) s t sm d 0xFFFFFFFFFFFFFFFF (t.pc + 4 * o.signExtend 64)) ∧
    (d = .k0 → Computes (.loop sm o d) s t sm d 0xFFFFFFFFFFFFFFFF (t.pc + 4 * o.signExtend 64)) ∧
    (∀ i : BitVec 5, readsVault (.loop sm o (.main i)) = decide (i ≠ 0)) ∧
    (t.skipc ≠ 0 → s.fetch t = .words (encode (.loop sm o d)) →
      let u := { t with skipc := t.skipc - 1, pc := t.pc + 4, fetched := [] }
      exec .annulment s = .next (if sm then s.switchPoint u else put s u))

/-- R60, R273: CALL and CALLR with no result outstanding and a frame free push a frame of zeros, leave the link in its l7 and in lat, and go
to the target; the a and k registers stay. R60, R62: CALL and CALLR with twelve frames resident and an area to spill to store the oldest frame
there, l0 to l7 and o0 to o7, SPILLP rises by 128, and the thread waits until the banks have accepted both blocks. R61, R273: RET with no result
outstanding and a caller's frame resident pops the frame and goes to l7; lat and every k and a register stay. A RET that takes DEPTH below
RGNWD ends the region (R375). R61, R62: RET with one frame resident and an area to fill from loads its two blocks, SPILLP falls by 128, and the
thread waits until the data has returned, twelve cycles later at the earliest; the registers of the frame take what the blocks hold. R60, R61: the
window traps: CALL at depth 65,535 (SUB 0), with no room to spill (SUB 1), RET at depth 0 (SUB 2) and with nothing to fill (SUB 3). None has an
effect. -/
def Obligations.CallsAndReturns : Prop :=
  (∀ (s : State) (t : Thread) (sm : Bool) (off : BitVec 22) (a : Operand), Issues s t → t.rb = [] → t.res < 12 → t.depth < 65535 →
     let b := { t with frames := Frame.zero :: t.frames, depth := t.depth + 1 }
     ComputesIn (.call sm off) s s b sm (.main 23) (t.pc + 4) (t.pc + 4 * off.signExtend 64) ∧
     ComputesIn (.callr sm a) s s b sm (.main 23) (t.pc + 4) (t.rd a) ∧
     (∀ i : BitVec 5, b.rd (.main i) = if i.toNat < 16 then t.rd (.main i) else 0)) ∧
  (∀ (s : State) (t : Thread) (sm : Bool) (off : BitVec 22) (a : Operand) (i : Instr) (target : Word), Issues s t → t.rb = [] → t.res = 12 →
     t.depth < 65535 → t.spillp.toNat + 128 ≤ t.spilllim.toNat → t.spillp.toNat + 128 ≤ s.s1Bytes t.ltag →
     s.frameStall t t.spillp.toNat true = none →
     (i = .call sm off ∧ target = t.pc + 4 * off.signExtend 64) ∨ (i = .callr sm a ∧ target = t.rd a) →
     let u := (s.spill t t.spillp.toNat).1
     let f := t.frames.getLastD Frame.zero
     ∃ b w, Wrote b w (.main 23) (t.pc + 4) target ∧
       exec i s = .next (if sm then (counted u b).switchPoint w else (put (counted u b) w).thenPark t.ref .accepted) ∧
       b.depth = t.depth + 1 ∧ b.frames = Frame.zero :: t.frames.dropLast ∧ b.spillp = t.spillp + 128 ∧ b.k = t.k ∧ b.a = t.a ∧
       ∀ pa, s.s1Addr t.ltag t.unit t.spillp.toNat = some pa → ∀ hi : Bool, ∃ (a : Access) (vs : List Val),
         Due u (s.now + 4) (.bankAccept a) ∧ a.t = t.ref ∧ a.pa = pa + 64 * b01 hi ∧ a.kind = .frame vs ∧
         vs.map (·.v) = (if hi then f.o else f.l).toList) ∧
  (∀ (s : State) (t : Thread) (sm : Bool), Issues s t → t.rb = [] → 1 < t.res → t.depth ≠ 0 → (t.inrgn = true → t.twin = none) →
     let ends := t.inrgn && t.depth ≤ t.rgnwd.toNat
     let b := { t with frames := t.frames.tail, depth := t.depth - 1, psn := clearAbove t.psn (t.depth - 1),
                       inrgn := if ends then false else t.inrgn, restarts := if ends then 0 else t.restarts }
     Completes (.ret sm) s s b sm (t.rd (.main 23)) ∧ b.lat = t.lat ∧ (∀ i : BitVec 5, i.toNat < 16 → b.rd (.main i) = t.rd (.main i))) ∧
  (∀ (s : State) (t : Thread) (sm : Bool), Issues s t → t.rb = [] → t.res = 1 → t.depth ≠ 0 → (t.inrgn = true → t.twin = none) →
     128 ≤ t.spillp.toNat → t.spillp.toNat ≤ s.s1Bytes t.ltag → s.frameStall t (t.spillp.toNat - 128) false = none →
     let off := t.spillp.toNat - 128
     let u := (s.fill t off).1
     ∃ b w, Stepped b w (t.rd (.main 23)) ∧
       exec (.ret sm) s = .next ((put (counted u b) w).thenPark t.ref (.fill (s.now + 12) sm)) ∧
       b.depth = t.depth - 1 ∧ b.frames = [Frame.zero] ∧ b.spillp = t.spillp - 128 ∧ b.lat = t.lat ∧ b.k = t.k ∧ b.a = t.a ∧
       ∀ pa, s.s1Addr t.ltag t.unit off = some pa → ∀ hi : Bool, ∃ a : Access,
         Due u (s.now + 4) (.bankAccept a) ∧ a.t = t.ref ∧ a.pa = pa + 64 * b01 hi ∧ a.kind = .fill hi) ∧
  (∀ (t : Thread) (hi : Bool) (vs : List Val) (i : BitVec 3),
     (t.fillHalf hi vs).rd (.main (i.setWidth 5 + (if hi then 24 else 16))) = (vs.getD i.toNat ⟨0, none⟩).v) ∧
  (∀ (s : State) (t : Thread) (sm : Bool) (off : BitVec 22) (a : Operand), Issues s t → t.rb = [] →
     let traps (i : Instr) (sub : Nat) : Prop := exec i s = .next (s.fault t (infoOf 8 sub t.spillp.toNat 0) 0)
     (t.depth = 65535 → traps (.call sm off) 0 ∧ traps (.callr sm a) 0) ∧
     (t.depth < 65535 → t.res = 12 → (t.spilllim.toNat < t.spillp.toNat + 128 ∨ s.s1Bytes t.ltag < t.spillp.toNat + 128) → traps (.call sm off) 1 ∧ traps (.callr sm a) 1) ∧
     (t.inrgn = false → t.depth = 0 → traps (.ret sm) 2) ∧
     (t.inrgn = false → t.depth ≠ 0 → t.res = 1 → t.spillp.toNat < 128 ∨ s.s1Bytes t.ltag < t.spillp.toNat → traps (.ret sm) 3))

/-- R252: a first word with MAJ 0x7F is ILL whatever its other bits; it is fetched alone, and takes the illegal-instruction trap with no
other effect. The word 0xFFFFFFFF is ILL with LEN 0b11, so that an annulled one advances PC by 20 bytes. -/
def Obligations.IllTraps : Prop :=
  ∀ (s : State) (t : Thread) (w : W32) (r : List W32), majOf w = 0x7F →
    decode (w :: r) = .ok (.ill (w.getLsbD 2) (w.extractLsb' 0 2) (w.extractLsb' 10 22)) ∧
    (s.fetchWord t 0 = .got w none → s.fetch t = .words [w]) ∧
    (Issues s t → ∀ sm len u, Faults (.ill sm len u) s t (infoOf 1 4 0 0) 0) ∧
    decode [0xFFFFFFFF] = .ok (.ill true 3 0x3FFFFF) ∧
    (Issues s t → t.skipc ≠ 0 → s.fetchWord t 0 = .got 0xFFFFFFFF none →
      exec .annulment s = .next (s.switchPoint { t with skipc := t.skipc - 1, pc := t.pc + 20, fetched := [] }))


/-! ## Scalar floating point -/
/-- R275, R276: the floating-point instructions of the ALU class round the exact result once, one-word forms to nearest even. R276: what
FCVT gives where no rounding decides: an integer passes unchanged into its own format (int32 sign-extended), NaN gives integer 0, an
infinity the nearest bound; and the examples of the rule, +2.875 from 0xC0 to 0x05 in the five modes. -/
def Obligations.FloatForms : Prop :=
  (∀ (s : State) (t : Thread) (sm x sat : Bool) (rm : BitVec 3) (dfm sfm : BitVec 8) (d a b c : Operand), Issues s t →
     let p := scalarVal x (t.rd a)
     let q := scalarVal x (t.rd b)
     let r := scalarVal x (t.rd c)
     let one := t.pc + 4
     let three := t.pc + 12
     let m := rm.toNat
     Computes (.fadd sm x d a b) s t sm d (scalarRes x 0 (fAdd false p q)) one ∧
     Computes (.faddExt sm x rm d a b) s t sm d (scalarRes x m (fAdd (m == 2) p q)) three ∧
     Computes (.fsub sm x d a b) s t sm d (scalarRes x 0 (fAdd false p q.neg)) one ∧
     Computes (.fsubExt sm x rm d a b) s t sm d (scalarRes x m (fAdd (m == 2) p q.neg)) three ∧
     Computes (.fmul sm x d a b) s t sm d (scalarRes x 0 (fMul p q)) one ∧
     Computes (.fmulExt sm x rm d a b) s t sm d (scalarRes x m (fMul p q)) three ∧
     Computes (.ffma sm x rm d a b c) s t sm d (scalarRes x m (fFma (m == 2) p q r)) three ∧
     Computes (.fmin sm x d a b) s t sm d (scalarRes x 0 (fMin p q)) one ∧
     Computes (.fminExt sm x rm d a b) s t sm d (scalarRes x m (fMin p q)) three ∧
     Computes (.fmax sm x d a b) s t sm d (scalarRes x 0 (fMax p q)) one ∧
     Computes (.fmaxExt sm x rm d a b) s t sm d (scalarRes x m (fMax p q)) three ∧
     Computes (.fcvt sm sat rm dfm sfm d a) s t sm d (fcvtResult dfm sfm m sat (t.rd a)) three) ∧
  ((∀ (rm : Nat) (sat : Bool) (w : Word), fcvtResult 6 6 rm sat w = w ∧ fcvtResult 5 5 rm sat w = (w.setWidth 32).signExtend 64) ∧
   (∀ (rm : Nat) (sat : Bool) (w : Word), scalarVal false w = .nan → fcvtResult 5 0xC0 rm sat w = 0 ∧ fcvtResult 6 0xC0 rm sat w = 0) ∧
   (∀ (rm : Nat) (sat : Bool) (w : Word), scalarVal true w = .nan → fcvtResult 5 0xC1 rm sat w = 0 ∧ fcvtResult 6 0xC1 rm sat w = 0) ∧
   (∀ (rm : Nat) (sat n : Bool) (w : Word), scalarVal true w = .inf n →
     fcvtResult 5 0xC1 rm sat w = (if n then 0xFFFFFFFF80000000 else 0x7FFFFFFF) ∧
     fcvtResult 6 0xC1 rm sat w = (if n then 0x8000000000000000 else 0x7FFFFFFFFFFFFFFF)) ∧
   (∀ sat : Bool, fcvtResult 5 0xC0 0 sat 0x40380000 = 3 ∧ fcvtResult 5 0xC0 1 sat 0x40380000 = 2 ∧ fcvtResult 5 0xC0 2 sat 0x40380000 = 2 ∧
     fcvtResult 5 0xC0 3 sat 0x40380000 = 3 ∧ fcvtResult 5 0xC0 4 sat 0x40380000 = 3 ∧ fcvtResult 5 0xC0 0 sat 0x7F800000 = 0x7FFFFFFF))

/-- R277: FCLASS writes a mask in which exactly one bit is set, by the sign, the exponent and the fraction of its operand; a binary32
operand is bits 31:0. Its word has major 0x39 and LEN 0b00, with B zero, and X selects binary64. -/
def Obligations.FloatClassMask : Prop :=
  ∀ (s : State) (t : Thread) (sm : Bool) (d a : Operand), Issues s t →
    let p := t.rd a
    let bit (sign expOnes expZero fracZero quiet : Bool) : Nat :=
      if expOnes then (if fracZero then (if sign then 0 else 7) else if quiet then 9 else 8)
      else if expZero then (if fracZero then (if sign then 3 else 4) else if sign then 2 else 5)
      else if sign then 1 else 6
    let e32 : BitVec 8 := p.extractLsb' 23 8
    let e64 : BitVec 11 := p.extractLsb' 52 11
    Computes (.fclass sm false d a) s t sm d
      (1 <<< bit (p.getLsbD 31) (e32 == BitVec.allOnes 8) (e32 == 0) (p.extractLsb' 0 23 == 0) (p.getLsbD 22)) (t.pc + 4) ∧
    Computes (.fclass sm true d a) s t sm d
      (1 <<< bit (p.getLsbD 63) (e64 == BitVec.allOnes 11) (e64 == 0) (p.extractLsb' 0 52 == 0) (p.getLsbD 51)) (t.pc + 4) ∧
    ∀ w : W32, majOf w = 0x39 → w.extractLsb' 0 2 = 0 → (w.extractLsb' 24 7 = 0 → operand? (w.extractLsb' 10 7) = some d →
      operand? (w.extractLsb' 17 7) = some a → decode [w] = .ok (.fclass (w.getLsbD 2) (w.getLsbD 31) d a)) ∧
      (w.extractLsb' 24 7 ≠ 0 → ∀ i, decode [w] ≠ .ok i)


/-! ## Switch points, traps and returns -/
/-- R44: with a result outstanding the thread parks, and nothing else happens; it waits for accesses that no bank has accepted yet as well, and
for flushes, which R44 does not name (log entry 12, DEDUCED). R43, R44: with every result returned the buffered results are
committed in program order, a register taking the value of the last write that no ALU-class result has overtaken, and the thread is READY
from the next round. SWITCH_POINT_COMMIT does this for a thread that parked. -/
def Obligations.SwitchPointsCommit : Prop :=
  (∀ (s : State) (t : Thread), t.complete = false →
     s.switchPoint t = put { s with nextId := s.nextId + 1 } { t with st := .parked .switch, parkSeq := s.nextId }) ∧
  (∀ (s : State) (t : Thread), t.complete = true → t.after = .go → t.mirrFail = none →
     (∀ e ∈ t.rb, ∀ vs, e.vals = some vs → ∀ v ∈ vs, v.psn = none) →
     let writes := t.rb.flatMap fun e => ((e.dests.zip (e.vals.getD [])).filter fun x => !e.dead.contains x.1).map fun x => (x.1, x.2.v)
     ∃ w, s.switchPoint t = put s w ∧
       (∀ r, w.rd r = if r = .k0 then 0 else ((writes.reverse.find? fun x => x.1 == r).map (·.2)).getD (t.rd r)) ∧
       TwinKept t w ∧
       w = { t with k := w.k, a := w.a, frames := w.frames, p := w.p, lat := w.lat, psn := w.psn, par := w.par, rb := [], st := .ready,
                    eligRound := max t.eligRound (s.round + 1), twin := w.twin } ∧
       (∀ r : ThreadRef, s.ref? r = some t → t.st = .parked .switch →
         exec (.switchPointCommit r) s = .next (put s w)))

/-- R42, R44: a result that returns enters its return-buffer entry and changes no register; the thread that waits for nothing else at its
switch point commits in the same cycle. R374, R395: a buffered result that carries poison is consumed at the commit: in a region with
restarts left the thread goes back to RGNPC with SKIPC 0 and nothing buffered, and outside a region it ends. -/
def Obligations.ResultsReturn : Prop :=
  (∀ (s : State) (r : ThreadRef) (id : Nat) (vals : List Val) (t : Thread), s.ref? r = some t → t.st ≠ .halted → s.sallocOf r id = none →
     ((s.unit r.unit).mstats.find? fun m => m.1 == r && m.2.1 == id) = none →
     ∃ w : Thread,
       w = { t with rb := t.rb.map (fun e => if e.id = id ∧ e.vals = none then { e with vals := some vals } else e),
                    fp := w.fp, fpq := w.fpq, twin := w.twin } ∧
       (t.fpq = [] → (∀ x, t.twin = some x → x.fpq = []) → w.fp = t.fp ∧ w.fpq = [] ∧ w.twin = t.twin) ∧
       exec (.resultReturn r id vals) s = .next
         (match (put s w).ref? r with
          | some x => if x.st = .parked .switch ∧ x.complete = true then (put s w).sched 0 rankLate (.switchPointCommit r) else put s w
          | none => put s w)) ∧
  (∀ (s : State) (t : Thread) (e : RbEntry) (d : Operand) (v : Val) (p : Poison), t.complete = true → t.rb = [e] → e.dests = [d] →
     e.vals = some [v] → v.psn = some p → e.dead = [] → d ≠ .k0 →
     (t.inrgn = true → t.parity (.special 0x0F) = none → t.parity (.special 0x10) = none → t.restarts < 3 → t.depth = t.rgnwd.toNat → 0 < t.res →
       ∃ w, (s.switchPoint t).thread? t.unit t.slot = some w ∧ w.pc = t.rgnpc ∧ w.skipc = 0 ∧ w.rb = [] ∧ w.restarts = t.restarts + 1 ∧
         w.st = .ready ∧ ∀ r, w.rd r = t.rd r) ∧
     (t.inrgn = false → (s.switchPoint t).thread? t.unit t.slot = none))

/-- R64, R70, R315: trap entry. With TRAPVEC zero the thread ends. Else TRAPPC, TRAPINFO, TRAPLAT and TRAPST take PC, whose bits 1:0 read zero
(R69), the cause, lat, SKIPC and the mark of a full window, and hold no parity error any more (R395); SKIPC is zero, a frame of zeros is pushed,
and PC is TRAPVEC. No other register changes. R64, R383: an entry at DEPTH 65,535, or with twelve frames resident and no room in the S1
allocation, ends the thread with WINEXH, whatever waits. R45: an instruction that faults waits for the results of the earlier ones, and in this
model for accesses that no bank has accepted yet (log entry 12, DEDUCED); with none outstanding the trap of its PC is taken at once. R315, R317:
TRAP takes the trap with cause 0x0A and its code, and TRAPPC is the next instruction. -/
def Obligations.TrapsAreTaken : Prop :=
  (∀ (s : State) (t : Thread) (r : TrapReq),
     let mended (w : Thread) : Prop := ∀ g, g ∈ w.par ↔ g ∈ t.par ∧ g ∉ ([.special 0x0B, .special 0x0C, .special 0x0D, .special 0x0E] : List DebugReg)
     (t.trapvec = 0 → (s.trapEntry t r).thread? t.unit t.slot = none) ∧
     (t.trapvec ≠ 0 → t.res < 12 → t.depth < 65535 →
       ∃ w, TwinKept t w ∧ mended w ∧ s.trapEntry t r = put s
         { t with trappc := r.pc &&& ~~~3, traplat := t.lat, trapSkip := t.skipc, trapinfo := r.info, trapWin := false, skipc := 0,
                  frames := Frame.zero :: t.frames, depth := t.depth + 1, pc := t.trapvec, st := .ready, after := .go, fetched := [],
                  eligRound := max t.eligRound (s.round + 1), par := w.par, twin := w.twin }) ∧
     (t.trapvec ≠ 0 → t.depth = 65535 ∨ (t.res = 12 ∧ s.s1Bytes t.ltag < t.spillp.toNat + 128) → s.trapEntry t r = s.winexh t t.pc) ∧
     (t.trapvec ≠ 0 → t.res = 12 → t.depth < 65535 → t.spillp.toNat + 128 ≤ s.s1Bytes t.ltag →
       s.frameStall t t.spillp.toNat true = none → ∃ w, s.trapEntry t r = (s.spill t t.spillp.toNat).1.park w .accepted ∧ w.trapWin = true ∧
         w.spillp = t.spillp + 128 ∧ w.frames = Frame.zero :: t.frames.dropLast ∧ w.depth = t.depth + 1 ∧ w.pc = t.trapvec ∧
         w.trappc = r.pc &&& ~~~3 ∧ mended w ∧ w.trapinfo = r.info ∧ w.traplat = t.lat ∧ w.trapSkip = t.skipc ∧ w.skipc = 0)) ∧
  (∀ (s : State) (t : Thread) (info va : Word),
     (t.complete = false → s.fault t info va = put { s with nextId := s.nextId + 1 }
       { t with after := .trap ⟨info, va, t.pc⟩, st := .parked .switch, parkSeq := s.nextId }) ∧
     (t.rb = [] → t.out = [] → t.flushing = [] → t.mirrFail = none → State.entryPsn t = none →
       s.fault t info va = s.trapEntry { t with after := .trap ⟨info, va, t.pc⟩ } ⟨info, va, t.pc⟩)) ∧
  (∀ (s : State) (t : Thread) (sm : Bool) (code : BitVec 8), Issues s t → t.rb = [] → t.out = [] → t.flushing = [] → t.mirrFail = none →
     t.parity (.special 0x0A) = none → t.trapvec ≠ 0 → t.res < 12 → t.depth < 65535 →
     ∃ w v, Stepped t w t.pc ∧ TwinKept t v ∧ exec (.trap sm code) s = .next (put s
       { w with par := v.par, twin := v.twin, trappc := (t.pc + 4) &&& ~~~3, traplat := t.lat, trapSkip := t.skipc, trapinfo := wd (0x0A + code.toNat * 2 ^ 24), trapWin := false,
                skipc := 0, frames := Frame.zero :: t.frames, depth := t.depth + 1, pc := t.trapvec, st := .ready, after := .go,
                fetched := [], eligRound := max t.eligRound (s.round + 1) }))

/-- R64, R316: ERET with a caller's frame resident takes PC from TRAPPC, lat from TRAPLAT and SKIPC from TRAPST.SKIP, and pops the frame;
nothing else changes, but that a paired thread counts it (R376). With one frame resident and an area to fill from it takes the same registers,
loads the two blocks of the caller's frame, SPILLP falls by 128, and the thread waits until the data has returned (R62). R74, R253: an
annulled instruction has no effect but its marker: SKIPC falls by one and PC passes the words that its first word's LEN gives. R386: the
overflows that await a thread's issue are taken as one trap, cause 9, that names the lowest semaphore. -/
def Obligations.EretAnnulmentAndAsyncTraps : Prop :=
  (∀ (s : State) (t : Thread) (sm : Bool), Issues s t → t.rb = [] → 1 < t.res → t.depth ≠ 0 →
     ∃ w v, Stepped t w t.pc ∧ TwinKept t v ∧ exec (.eret sm) s = .next (put s
       { w with pc := t.trappc, lat := t.traplat, skipc := t.trapSkip, frames := t.frames.tail, depth := t.depth - 1,
                psn := clearAbove t.psn (t.depth - 1), par := t.par.filter (· != .operand .lat), twin := v.twin })) ∧
  (∀ (s : State) (t : Thread) (sm : Bool), Issues s t → t.rb = [] → t.res = 1 → t.depth ≠ 0 → 128 ≤ t.spillp.toNat →
     t.spillp.toNat ≤ s.s1Bytes t.ltag → s.frameStall t (t.spillp.toNat - 128) false = none →
     let off := t.spillp.toNat - 128
     let u := (s.fill t off).1
     ∃ w, exec (.eret sm) s = .next (u.park w (.fill (s.now + 12) false)) ∧ w.pc = t.trappc ∧ w.lat = t.traplat ∧ w.skipc = t.trapSkip ∧
       w.frames = [Frame.zero] ∧ w.depth = t.depth - 1 ∧ w.spillp = t.spillp - 128 ∧ w.k = t.k ∧ w.a = t.a ∧
       ∀ pa, s.s1Addr t.ltag t.unit off = some pa → ∀ hi : Bool, ∃ a : Access,
         Due u (s.now + 4) (.bankAccept a) ∧ a.t = t.ref ∧ a.pa = pa + 64 * b01 hi ∧ a.kind = .fill hi) ∧
  (∀ (s : State) (t : Thread) (w : W32) (r : List W32), Issues s t → t.skipc ≠ 0 → s.fetch t = .words (w :: r) →
     let u := { t with skipc := t.skipc - 1, pc := t.pc + wd (4 * lenWords w), fetched := [] }
     exec .annulment s = .next (if w.getLsbD 2 then s.switchPoint u else put s u)) ∧
  (∀ (s : State) (t : Thread), Issues s t → t.async ≠ [] →
     ∃ i n, (i, n) ∈ t.async ∧ (∀ x ∈ t.async, i.toNat ≤ x.1.toNat) ∧
       exec .asyncTrap s = .next (s.fault { t with async := [] } (infoOf 9 i.toNat n 0) 0))


/-! ## Special registers and system instructions -/
/-- R69 to R73, R318: MFS reads every special register that exists; AGESTEP and SCHCFG only at service level, with the privilege trap below
it; any other number is illegal. R69 to R73, R318: MTS writes the writable fields of a register and nothing else; a write of a read-only
register is illegal, one of AGESTEP or SCHCFG below service level takes the privilege trap. -/
def Obligations.SpecialRegisters : Prop :=
  (∀ (s : State) (t : Thread) (sm : Bool) (n : BitVec 7) (d : Operand), Issues s t →
     let reads (k : Nat) (v : Word) : Prop := n.toNat = k → Computes (.mfs sm n d) s t sm d v (t.pc + 4)
     reads 0x00 (wd t.tid) ∧ reads 0x01 (wd t.crew) ∧ reads 0x02 (wd t.gang) ∧ reads 0x03 (wd t.ltag) ∧
     reads 0x04 (wd (t.base.toNat + t.eff.toNat * 2 ^ 8)) ∧ reads 0x05 (wd (t.depth + t.res * 2 ^ 16)) ∧ reads 0x06 t.spillp ∧
     reads 0x07 t.spilllim ∧ reads 0x08 (t.skipc.setWidth 64) ∧ reads 0x09 t.tstat ∧ reads 0x0A t.trapvec ∧ reads 0x0B t.trappc ∧
     reads 0x0C t.trapinfo ∧ reads 0x0D t.traplat ∧ reads 0x0E (wd (t.trapSkip.toNat + b01 t.trapWin * 2 ^ 2)) ∧ reads 0x0F t.rgnpc ∧
     reads 0x10 (t.rgnwd.setWidth 64) ∧ reads 0x11 t.seed ∧ reads 0x12 0x27000100 ∧ reads 0x13 0x7FF ∧
     (∀ i : BitVec 3, reads (0x18 + i.toNat) ((vget t.sems i).setWidth 64)) ∧
     (t.svc = true → reads 0x40 (wd (s.unit t.unit).ageStep) ∧ reads 0x41 (wd (s.unit t.unit).slotMax)) ∧
     (t.svc = false → n.toNat = 0x40 ∨ n.toNat = 0x41 → Faults (.mfs sm n d) s t (wd (2 + n.toNat * 2 ^ 24)) 0) ∧
     ((0x14 ≤ n.toNat ∧ n.toNat ≤ 0x17) ∨ (0x20 ≤ n.toNat ∧ n.toNat ≠ 0x40 ∧ n.toNat ≠ 0x41) → Faults (.mfs sm n d) s t (infoOf 1 3 0 0) 0)) ∧
  (∀ (s : State) (t : Thread) (sm : Bool) (n : BitVec 7) (a : Operand), Issues s t →
     let v := t.rd a
     let writes (k : Nat) (u : Thread) : Prop :=
       n.toNat = k → Completes (.mts sm n a) s s { u with par := t.par.filter (· != .special n) } sm (t.pc + 4)
     writes 0x04 { t with base := v.setWidth 3 } ∧
     writes 0x06 { t with spillp := v &&& 0x1FFF80 } ∧ writes 0x07 { t with spilllim := v &&& 0x1FFF80 } ∧
     writes 0x08 { t with skipc := v.setWidth 2 } ∧
     (t.semerrAt.1 ≠ s.now → writes 0x09 { t with eng := v.setWidth 8, engAt := 0, semerr := t.semerr &&& ~~~(v.extractLsb' 16 8) }) ∧
     writes 0x0A { t with trapvec := v &&& ~~~3 } ∧ writes 0x0B { t with trappc := v &&& ~~~3 } ∧
     writes 0x0C { t with trapinfo := v &&& ~~~0x7E00 } ∧
     writes 0x0D { t with traplat := v } ∧ writes 0x0E { t with trapSkip := v.setWidth 2, trapWin := v.getLsbD 2 } ∧
     (t.svc = true → n.toNat = 0x40 → bits v 0 16 ≠ 0 →
       Completes (.mts sm n a) s (s.onUnit t.unit fun u => { u with ageStep := bits v 0 16 }) t sm (t.pc + 4)) ∧
     (t.svc = true → n.toNat = 0x41 → bits v 0 9 ≠ 0 → bits v 0 9 ≤ 256 →
       Completes (.mts sm n a) s (s.onUnit t.unit fun u => { u with slotMax := bits v 0 9 }) t sm (t.pc + 4)) ∧
     (t.svc = false → n.toNat = 0x40 ∨ n.toNat = 0x41 → Faults (.mts sm n a) s t (wd (2 + n.toNat * 2 ^ 24)) 0) ∧
     (n.toNat < 4 ∨ n.toNat = 5 ∨ (0x0F ≤ n.toNat ∧ n.toNat < 0x40) ∨ 0x41 < n.toNat → Faults (.mts sm n a) s t (infoOf 1 3 0 0) 0))

/-- R301: SETPRI sets BASE to its value, 0 to 7, at either level, and leaves the wait count; the next selection uses it, for EFF is computed
from the thread's BASE as it stands. MTS to PRIO writes BASE in the same way. A value above 7 is illegal. -/
def Obligations.SetpriSetsBase : Prop :=
  ∀ (s : State) (t : Thread) (sm : Bool) (i : BitVec 8) (a : Operand) (b : BitVec 3), Issues s t →
    let v := t.rd a + i.setWidth 64
    (v.toNat ≤ 7 → Completes (.setpri sm i a) s s { t with base := v.setWidth 3 } sm (t.pc + 4)) ∧
    (7 < v.toNat → Faults (.setpri sm i a) s t (infoOf 1 3 0 0) 0) ∧
    Completes (.mts sm 0x04 a) s s { t with base := (t.rd a).setWidth 3, par := t.par.filter (· != .special 0x04) } sm (t.pc + 4) ∧
    (t.yielded = false → s.effOf { t with base := b } = min 7 (b.toNat + t.wait / (s.unit t.unit).ageStep)) ∧
    (t.yielded = true → s.effOf { t with base := b } = min 7 (t.wait / (s.unit t.unit).ageStep))

/-- R319 to R323, R325, R282: RGN opens a region at the next instruction, RGNPC and RGNWD being wholly written (R395); UNPAIR drops the twin;
CLK and PHYSID write their q register alone; QMOV moves it out, but in a launch with DET set it takes the determinism trap; HALT commits and
halts the thread; YIELD is a switch point. R320: PAIR starts a twin in the lowest free slot of the other mill of the pair, 16 cycles and 8 for
each resident frame later; with no mill or slot there, or with SLOTMAX reached, it completes unpaired. R47, R156, R299, R306, R321: EXIT with
its results returned frees the slot, whose generation rises, and the twin's, as UNPAIR does; TRIG sets TRIGD. Both wait for the thread's
accesses to be accepted. -/
def Obligations.ThreadControl : Prop :=
  (∀ (s : State) (t : Thread) (sm : Bool) (q : BitVec 2) (d : Operand), Issues s t →
     let next := t.pc + 4
     (t.rb = [] → Completes (.rgn sm) s (s.closeRegion t)
       { t with rgnpc := next, rgnwd := BitVec.ofNat 16 t.depth, inrgn := true, restarts := 0,
                par := (t.par.filter (· != .special 0x0F)).filter (· != .special 0x10) } sm next) ∧
     Completes (.unpair sm) s (s.freeTwin t) { t with twin := none } sm next ∧
     (t.twin = none → s.freeTwin t = s) ∧
     (∀ w, t.twin = some w → mget ((s.freeTwin t).unit w.unit).gens w.slot = some ((mget (s.unit w.unit).gens w.slot).getD 0 + 1)) ∧
     Completes (.clk sm q) s s { t with q := nset t.q q.toNat (wd s.now), par := t.par.filter (· != .q q) } sm next ∧
     Completes (.physid sm q) s s { t with q := nset t.q q.toNat (s.physid t), par := t.par.filter (· != .q q) } sm next ∧
     (t.det = false → Computes (.qmov sm q d) s t sm d (nget t.q q.toNat 0) next) ∧
     (t.det = true → Faults (.qmov sm q d) s t (wd 7) 0) ∧
     Completes (.yield sm) s s { t with yielded := true } true next ∧
     (t.rb = [] → t.out = [] → t.flushing = [] → t.mirrFail = none →
       ∃ w, Stepped t w next ∧ exec (.halt sm) s = .next (put
         { s with pkg := { s.pkg with notices := (256 * t.unit + t.slot) :: s.pkg.notices } }
         { w with st := .halted, after := .go, haltReq := false, held := none }))) ∧
  (∀ (s : State) (t : Thread) (sm : Bool), Issues s t → t.rb = [] →
     let v := t.unit ^^^ 1
     (t.twin.isSome = true ∨ s.present v = false ∨ s.freeSlots v = 0 ∨ (t.svc = false ∧ s.crewFull v = true) →
       Completes (.pair sm) s s t sm (t.pc + 4)) ∧
     (∀ slot, t.twin = none → s.present v = true → s.freeSlots v ≠ 0 → t.svc = true ∨ s.crewFull v = false → s.freeSlot? v = some slot →
       exec (.pair sm) s = .next (s.park
         { t with pc := t.pc + 4, fetched := [], exchanged := false, twin := some { unit := v, slot := slot, fp := 0 }, fp := 0,
                  fpq := [], fpSeen := t.nextId, retired := 0, mismatch := none }
         (.until (s.now + 16 + 8 * t.res) sm)))) ∧
  (∀ (s : State) (t : Thread) (sm : Bool), Issues s t →
     (t.out ≠ [] → exec (.exit sm) s = .next (s.park t .accepted) ∧ exec (.trig sm) s = .next (s.park t .accepted)) ∧
     (t.rb = [] → t.out = [] → t.flushing = [] → t.mirrFail = none →
       ∃ u, exec (.exit sm) s = .next u ∧ u.thread? t.unit t.slot = none ∧
         (∀ x n, ¬(x = t.unit ∧ n = t.slot) → u.thread? x n = s.thread? x n) ∧
         ((∀ w, t.twin = some w → w.unit ≠ t.unit) →
           mget (u.unit t.unit).gens t.slot = some ((mget (s.unit t.unit).gens t.slot).getD 0 + 1)) ∧
         (∀ w, t.twin = some w → w.unit ≠ t.unit → mget (u.unit w.unit).gens w.slot = some ((mget (s.unit w.unit).gens w.slot).getD 0 + 1))) ∧
     (t.out = [] → Completes (.trig sm) s ((s.setThread { t with trigd := true }).trigCheck t.ltag) { t with trigd := true } sm (t.pc + 4)))

/-- R317: SYSC takes a return-buffer entry for a0 and parks at its switch point until the firmware answers; the answer fills that entry. ABORT
ends the launch with STATUS 2 and the code in a0. R324: CAPX passes the WRITER of the range entry on; the thread waits 400 cycles (R324 says
at most 400: log entry 26, DESIGN CHOICE), and goes on at CAPX_COMPLETE. An address in no entry takes the address trap, a thread that is not
its writer the capability trap. Outside DET, or with ANYW, it changes nothing. -/
def Obligations.ServiceRequests : Prop :=
  (∀ (s : State) (t : Thread) (sm : Bool) (code : BitVec 8) (v : Word), Issues s t →
     (code = 3 → exec (.sysc sm code) s = .next (s.endLaunch t.ltag 2 (bits (vget t.a 0) 0 8))) ∧
     (code ≠ 3 → TakesEntry (.sysc sm code) s (s.serve t code.toNat) { t with inrgn := false, restarts := 0 } true [.main 8] (t.pc + 4)) ∧
     (∀ (r : ThreadRef) (e : RbEntry), s.ref? r = some t → t.rb = [e] → e.dests = [.main 8] → e.vals = none → t.st = .parked .switch →
       t.out = [] → t.flushing = [] →
       ∃ w : Thread, w = { t with rb := [{ e with vals := some [⟨v, none⟩] }], fp := w.fp, fpq := w.fpq, twin := w.twin } ∧
         exec (.syscAnswer r v) s = .next ((put s w).sched 0 rankLate (.switchPointCommit r)))) ∧
  (∀ (s : State) (t : Thread) (sm : Bool) (a b : Operand) (l : Launch), Issues s t → s.launch? t.ltag = some l →
     let va := t.rd a
     let w := (t.rd b).toNat
     let found := l.ranges.find? fun e => e.base ≤ va.toNat && va.toNat < e.limit
     (found = none → Faults (.capx sm a b) s t (infoVa 3 va false 0) va) ∧
     (∀ e, found = some e → l.det = true → e.anyw = false → writerId l t ≠ e.writer ∨ 2 ^ 20 ≤ w →
       Faults (.capx sm a b) s t (infoVa 6 va false 0) va) ∧
     (∀ e, found = some e → l.det = false ∨ e.anyw = true → t.out = [] →
       Completes (.capx sm a b) s s { t with inrgn := false, restarts := 0 } sm (t.pc + 4)) ∧
     (∀ e, found = some e → l.det = true → e.anyw = false → e.writer = writerId l t → w < 2 ^ 20 → t.out = [] →
       ∃ u, exec (.capx sm a b) s = .next (((s.setLaunch { l with ranges := passWriter va.toNat w l.ranges }).park u (.event sm)).sched 400
           rankLate (.capxComplete t.ref)) ∧ Stepped { t with inrgn := false, restarts := 0 } u (t.pc + 4)) ∧
     (∀ r x, s.ref? r = some x → x.st = .parked (.event false) →
       exec (.capxComplete r) s = .next (put s { x with st := .ready, eligRound := max x.eligRound (s.round + 1) })))


/-! ## Memory -/
/-- R102 to R104, R278: what the checks of a load or store answer. An aligned access inside a segment of the crew's S1 passes, at the
address that its granules give; a misaligned one, one beyond its segment or in no segment, and one in a region that does not exist take the
address trap; below service level region 0x4 takes the privilege trap. R118, R120, R133, R278: an access that a range entry maps to this
device: without the right it takes the rights trap; in a DET launch a write by a thread that is not the entry's writer takes the capability
trap. -/
def Obligations.AddressChecks : Prop :=
  (∀ (s : State) (t : Thread) (k : AKind) (n : Nat) (rx : Bool) (va : Word), k = .load ∨ k = .store → n = 1 ∨ n = 2 ∨ n = 4 ∨ n = 8 →
     let bad := Chk.bad (infoVa 3 va false 0) va
     let region := bits va 60 4
     let off := bits va 0 22
     (∀ g, region = 1 → bits va 26 34 = 0 → s.seg? t.ltag t.unit 1 (bits va 22 4) = some g → off + n ≤ g.len → va.toNat % n = 0 →
       t.det = false → s.check t k n rx va = .ok (.here (segAddr 1 t.unit g off)) none) ∧
     (va.toNat % n ≠ 0 → region ≤ 3 → s.check t k n rx va = bad) ∧
     (∀ g, region = 1 → s.seg? t.ltag t.unit 1 (bits va 22 4) = some g → g.len < off + n → s.check t k n rx va = bad) ∧
     (region = 1 → s.seg? t.ltag t.unit 1 (bits va 22 4) = none → s.check t k n rx va = bad) ∧
     (5 ≤ region → region ≤ 14 → s.check t k n rx va = bad) ∧
     (region = 4 → bits va 40 20 = 0 → s.space (bits va 0 40) ≠ .hole →
       (s.space (bits va 0 40) = .regs → regListed (bits va 0 40 - 0xF000000000) = true) → t.svc = false →
       s.check t k n rx va = .bad (infoVa 2 va false 0) va)) ∧
  (∀ (s : State) (t : Thread) (n : Nat) (rx : Bool) (va : Word) (l : Launch) (e : RangeEnt), s.launch? t.ltag = some l →
     bits va 57 7 = 0 → va.toNat % n = 0 → (l.ranges.find? fun e => e.base ≤ va.toNat && va.toNat < e.limit) = some e →
     (e.rd = false → s.check t .load n rx va = .bad (infoVa 4 va false 0) va) ∧
     (e.w = false → s.check t .store n rx va = .bad (infoVa 4 va false 0) va) ∧
     (∀ ret fadd, e.a = false ∨ e.w = false → s.check t (.atomic ret fadd) n rx va = .bad (infoVa 4 va false 0) va) ∧
     (e.w = true → t.det = true → e.anyw = false → e.writer ≠ writerId l t → s.check t .store n rx va = .bad (infoVa 6 va false 0) va) ∧
     (e.rd = true → t.det = false → (va + e.offset).toNat / 2 ^ 40 ≠ s.devid →
       s.check t .load n rx va = .ok (.there ((va + e.offset).toNat / 2 ^ 40) ((va + e.offset).toNat % 2 ^ 40)) (some e)))

/-- R41, R42, R280, R281: a local load that passes its checks and meets no obstacle leaves for its bank and takes a return-buffer entry for
D; with eight entries held the switch point comes first; a failed check is its fault; a second plain access waits for the first (R46). R280
to R282, R135: a local store that passes its checks and meets no obstacle leaves for its bank with its data, takes no entry and leaves lat;
a failed check is its fault. A write of a mirrored range names its mirror device, and its copy takes its place among those of the thread. -/
def Obligations.LocalAccessesLeave : Prop :=
  (∀ (s : State) (t : Thread) (sm rx sx : Bool) (sz : BitVec 2) (off : BitVec 4) (lit : Word) (d a : Operand), Issues s t →
     let n := 2 ^ sz.toNat
     let m : Word := off.signExtend 64
     let form (i : Instr) (kind : AccKind) (k : AKind) (n : Nat) (rx desc : Bool) (ea next : Word) : Prop :=
       (t.rb.length = 8 → exec i s = .next (s.switchPoint t)) ∧
       (∀ info va, t.rb.length ≠ 8 → s.check t k n rx ea = .bad info va → Faults i s t info va) ∧
       (∀ pa r, t.rb.length ≠ 8 → s.check t k n rx ea = .ok (.here pa) r → s.stall t (.here pa) n false rx desc = none →
         Leaves i s t sm rx (accessOf s t kind n ea true 0 0 none pa none) (some d) next) ∧
       (∀ pa r, t.rb.length ≠ 8 → s.check t k n rx ea = .ok (.here pa) r → rx = false → s.plainOut t = true →
         exec i s = .next (s.park t .plain))
     form (.ld sm rx sx sz off d a) (.ld sx) .load n rx false (t.rd a + m * wd n) (t.pc + 4) ∧
     form (.ldLit sm rx sx sz lit d a) (.ld sx) .load n rx false (t.rd a + lit) (t.pc + 12) ∧
     form (.ldbd sm off d a) .ldbd .ldbd 2 false true (t.rd a + m * 64) (t.pc + 4) ∧
     form (.ldbdLit sm lit d a) .ldbd .ldbd 2 false true (t.rd a + lit) (t.pc + 12)) ∧
  (∀ (s : State) (t : Thread) (sm rx : Bool) (sz q : BitVec 2) (off : BitVec 4) (lit : Word) (d a : Operand), Issues s t →
     let n := 2 ^ sz.toNat
     let m : Word := off.signExtend 64
     let form (i : Instr) (kind : AccKind) (k : AKind) (n : Nat) (rx : Bool) (ea data next : Word) (psn : Option Poison) : Prop :=
       (∀ info va, s.check t k n rx ea = .bad info va → Faults i s t info va) ∧
       (∀ pa r, s.check t k n rx ea = .ok (.here pa) r → s.stall t (.here pa) n true rx (kind == .stbd) = none →
         Leaves i s t sm rx (accessOf s t kind n ea false data 0 psn pa (mirrorTo r)) none next)
     form (.st sm rx sz off d a) .st .store n rx (t.rd a + m * wd n) (t.rd d) (t.pc + 4) (t.psnOf d) ∧
     form (.stLit sm rx sz lit d a) .st .store n rx (t.rd a + lit) (t.rd d) (t.pc + 12) (t.psnOf d) ∧
     form (.stbd sm off d a) .stbd .stbd 2 false (t.rd a + m * 64) (t.rd d) (t.pc + 4) (t.psnOf d) ∧
     form (.stbdLit sm lit d a) .stbd .stbd 2 false (t.rd a + lit) (t.rd d) (t.pc + 12) (t.psnOf d) ∧
     form (.stq sm q off a) .st .stq 8 false (t.rd a + m * 8) (nget t.q q.toNat 0) (t.pc + 4) (t.parity (.q q)) ∧
     form (.stqLit sm q lit a) .st .stq 8 false (t.rd a + lit) (nget t.q q.toNat 0) (t.pc + 12) (t.parity (.q q)))

/-- R287: the atomics of 4 or 8 bytes leave for their bank, posted with D = k0 and else returning the old value into an entry; they end an
open region (R375). R287: the new value that an atomic writes, of 8 bytes and of 4: sums wrap, AMIN and AMAX compare signed, ACAS writes
where the old value equals the comparison value. -/
def Obligations.AtomicsLeave : Prop :=
  (∀ (s : State) (t : Thread) (sm x : Bool) (d a b c : Operand) (pa : Nat) (r : Option RangeEnt), Issues s t →
     let n := if x then 8 else 4
     let ret := d != .k0
     let ea := t.rd a
     let low (v : Word) : Word := if x then v else (v.setWidth 32).setWidth 64
     let u := { t with inrgn := false, restarts := 0 }
     let form (i : Instr) (op : AtomOp) (old next : Word) : Prop :=
       (ret = true → t.rb.length ≠ 8) → s.check t (.atomic ret (op == .fadd)) n false ea = .ok (.here pa) r →
       s.stall t (.here pa) n true false false = none →
       Leaves i s u sm false (accessOf s t (.atom op) n ea ret (low (t.rd b)) (low old) none pa (mirrorTo r)) (if ret then some d else none) next
     form (.aadd sm x d a b) .add 0 (t.pc + 4) ∧ form (.aand sm x d a b) .and 0 (t.pc + 4) ∧ form (.aor sm x d a b) .or 0 (t.pc + 4) ∧
     form (.axor sm x d a b) .xor 0 (t.pc + 4) ∧ form (.amin sm x d a b) .min 0 (t.pc + 4) ∧ form (.amax sm x d a b) .max 0 (t.pc + 4) ∧
     form (.axchg sm x d a b) .xchg 0 (t.pc + 4) ∧ form (.afadd sm x d a b) .fadd 0 (t.pc + 4) ∧
     form (.acas sm x d a b c) .cas (t.rd c) (t.pc + 12)) ∧
  (∀ old b c : Word,
     let w (v : Word) : Word := (v.setWidth 32).setWidth 64
     let p : W32 := old.setWidth 32
     let q : W32 := b.setWidth 32
     atomNew .add 8 old b c = old + b ∧ atomNew .and 8 old b c = old &&& b ∧ atomNew .or 8 old b c = old ||| b ∧
     atomNew .xor 8 old b c = old ^^^ b ∧ atomNew .xchg 8 old b c = b ∧ atomNew .cas 8 old b c = (if old = c then b else old) ∧
     atomNew .min 8 old b c = (if b.toInt < old.toInt then b else old) ∧ atomNew .max 8 old b c = (if old.toInt < b.toInt then b else old) ∧
     atomNew .add 4 old b c = (p + q).setWidth 64 ∧ atomNew .and 4 old b c = w (old &&& b) ∧ atomNew .or 4 old b c = w (old ||| b) ∧
     atomNew .xor 4 old b c = w (old ^^^ b) ∧ atomNew .xchg 4 old b c = w b ∧
     atomNew .cas 4 old b c = (if p = c.setWidth 32 then w b else w old) ∧
     atomNew .min 4 old b c = (if q.toInt < p.toInt then w b else w old) ∧ atomNew .max 4 old b c = (if p.toInt < q.toInt then w b else w old))

/-- R81, R137, R280, R281, R287: what an access does as its bank accepts it. A store writes its bytes, little-endian, and no other byte; a
load changes no byte, and its value, zero- or sign-extended, returns at its time; STBD writes a descriptor and no byte; an atomic writes its
new value and returns the old one; a value that HBM holds poisoned returns poisoned (R395). R62: a half of a spilled frame is stored as the
registers stood, and a half of a filled one is loaded into them. An access that meets an accepted one at its bank waits a cycle, and one in a
cycle that is an engine's after three of threads (R109), or at a stack or pseudo-channel that does not serve (R226, R398). -/
def Obligations.BankPerformsAccess : Prop :=
  ∀ (s : State) (acc : Access), s.Sound →
    (s.busy.contains (s.bankOf acc.pa) = true ∨ s.engTurn (s.bankOf acc.pa) = true ∨ s.hbmWaits acc.pa = true →
      exec (.bankAccept acc) s = .next (s.sched 1 1 (.bankAccept acc))) ∧
    (s.busy.contains (s.bankOf acc.pa) = false → s.engTurn (s.bankOf acc.pa) = false → s.hbmWaits acc.pa = false → s.space acc.pa ≠ .regs →
      ∃ u, exec (.bankAccept acc) s = .next u ∧
        let pa := acc.pa
        let n := acc.size
        let old := leNat (rdBytes s.mem pa n)
        let others : Prop := ∀ a, a < pa ∨ pa + n ≤ a → byteAt u a = byteAt s a
        let same : Prop := ∀ a, byteAt u a = byteAt s a
        let returns (v : Word) (p : Option Poison) : Prop := ∀ id, acc.rb = some id → ∃ q, q.isSome = p.isSome ∧
          ((∀ x, p = some x → 2 ^ 39 ≤ pa ∨ x.cause ≠ 0x051) → q = p) ∧ Due u (s.now + (acc.retAt - s.now)) (.resultReturn acc.t id [⟨v, q⟩])
        (n = 1 ∨ n = 2 ∨ n = 4 ∨ n = 8 →
          (acc.kind = .st → others ∧ leNat (rdBytes u.mem pa n) = acc.data.toNat % 2 ^ (8 * n) ∧ u.desc = s.desc) ∧
          (acc.kind = .ld false → same ∧ u.desc = s.desc ∧ returns (wd old) (s.psnAt pa)) ∧
          (acc.kind = .ld true → same ∧ u.desc = s.desc ∧ returns (BitVec.ofInt 64 ((old : Int).bmod (2 ^ (8 * n)))) (s.psnAt pa)) ∧
          (acc.kind = .stbd → same ∧ u.descOf pa = acc.data.setWidth 16 ∧ ∀ a, a / 64 ≠ pa / 64 → u.descOf a = s.descOf a) ∧
          (acc.kind = .ldbd → same ∧ u.desc = s.desc ∧ returns (wd (s.descOf pa).toNat) (mget s.descPsn (pa / 64))) ∧
          (∀ op, acc.kind = .atom op → s.psnAt pa = none →
            others ∧ leNat (rdBytes u.mem pa n) = (atomNew op n (wd old) acc.data acc.data2).toNat % 2 ^ (8 * n) ∧ u.desc = s.desc ∧
            returns (wd old) none)) ∧
        (∀ vs : List Val, acc.kind = .frame vs → vs.length = 8 →
          rdBytes u.mem pa 64 = (vs.flatMap fun v => natLe 8 v.v.toNat) ∧ ∀ a, a < pa ∨ pa + 64 ≤ a → byteAt u a = byteAt s a) ∧
        (∀ hi x, acc.kind = .fill hi → s.ref? acc.t = some x →
          same ∧ u.desc = s.desc ∧ ∃ y, u.ref? acc.t = some y ∧
            (if hi then y.frame0.o else y.frame0.l).toList = (List.range 8).map fun i => wd (leNat (rdBytes s.mem (pa + 8 * i) 8))))

/-- R144 to R146, R206, R287, R288: a store to another device's memory, or a posted atomic, is sent as WR or ATMP, posted, on the thread's flow,
and ends an open region; an addition in a reduction window is a request that is acknowledged. A load, LDBD or returning atomic is sent as RD or
ATM and parks the thread until its reply; a flow with an unflushed posted access to that peer is flushed first. A paired thread exchanges
fingerprints before its store or posted atomic (R376). -/
def Obligations.RemoteAccesses : Prop :=
  ∀ (s : State) (t : Thread) (sm rx sx x : Bool) (sz q : BitVec 2) (off : BitVec 4) (lit : Word) (d a b c : Operand) (dev pa : Nat)
    (r : Option RangeEnt), Issues s t →
    let n := 2 ^ sz.toNat
    let m : Word := off.signExtend 64
    let ea := t.rd a
    let flow : Flow := ⟨s.devid, t.unit, t.slot, dev⟩
    let left (rx : Bool) : Thread :=
      { t with inrgn := false, restarts := 0,
               taking := (State.farBlock dev pa, !rx, s.now + 8) :: t.taking.filter (fun x => s.now < x.2.2),
               posted := if t.posted.contains flow then t.posted else flow :: t.posted, flushed := t.flushed.filter (· != flow) }
    let swaps (i : Instr) : Prop := t.twin ≠ none → t.exchanged = false →
      exec i s = .next ((s.park t (.event false)).sched 8 rankLate (.fingerprintExchange t.ref))
    let stores (i : Instr) (k : AKind) (n : Nat) (rx : Bool) (ea : Word) (opsz : Nat) (v : Word) (psn : Option Poison) (next : Word) : Prop :=
      s.check t k n rx ea = .ok (.there dev pa) r → s.stall t (.there dev pa) n true rx false = none →
      swaps i ∧
      (t.twin = none ∨ t.exchanged = true →
        Completes i s (s.sendPosted t { s.blankPkt 0x02 2 dev with flow := flow, opsz := opsz, addr := pa, payload := [v], poisoned := b01 psn.isSome })
          (left rx) sm next)
    let waits (i : Instr) (u : Thread) : Prop := ∀ f, t.unflushed dev = [f] →
      exec i s = .next ((s.threadReq t { s.blankPkt 0x09 2 f.dst with flow := f } (.implicit t.ref f)).park u (.implicit dev))
    let awaits (i : Instr) (u : Thread) (p : Packet) (n : Nat) (sx : Bool) (ea next : Word) : Prop := t.unflushed dev = [] →
      ∃ w, TookEntry { u with flushed := [] } w [d] true next ea (wd (dev * 2 ^ 40 + pa)) ∧
        let s' := s.threadReq t p (.load t.ref t.nextId n sx dev)
        (sm = true → exec i s = .next (ended s' t w true)) ∧
        (sm = false → exec i s = .next ((put (counted s' t) w).park w (.event false)))
    let loads (i : Instr) (k : AKind) (n : Nat) (rx sx : Bool) (ea : Word) (opsz : Nat) (next : Word) : Prop :=
      t.rb.length ≠ 8 → s.check t k n rx ea = .ok (.there dev pa) r → s.stall t (.there dev pa) n false rx (k == .ldbd) = none → s.plainOut t = false →
      waits i t ∧ awaits i t { s.blankPkt 0x01 0 dev with flow := flow, opsz := opsz, addr := pa } n sx ea next
    let low (v : Word) : Word := if x then v else (v.setWidth 32).setWidth 64
    let atomics (i : Instr) (op : AtomOp) (old next : Word) : Prop :=
      let n := if x then 8 else 4
      let win := s.inWindow t ea && (op == .add || op == .fadd)
      let u := { t with inrgn := false, restarts := 0 }
      let p (kind vc : Nat) : Packet :=
        { s.blankPkt kind vc dev with
          flow := flow, opsz := if x then 3 else 2, aux := op.code, addr := pa, payload := [low (t.rd b), if op = .cas then low old else 0], win := win }
      s.check t (.atomic (d != .k0) (op == .fadd)) n false ea = .ok (.there dev pa) r → s.stall t (.there dev pa) n true false false = none →
      (d = .k0 → swaps i ∧ (t.twin = none ∨ t.exchanged = true →
        (win = false → Completes i s (s.sendPosted t (p 0x05 2)) (left false) sm next) ∧
        (win = true → Completes i s ((s.onLaunch t.ltag fun l => { l with flushTags := s.nextTag :: l.flushTags }).threadReq t (p 0x05 0) (.winAck t.ref dev))
          { left false with winAck := (s.nextTag, dev) :: t.winAck } sm next))) ∧
      (d ≠ .k0 → t.rb.length ≠ 8 → s.plainOut t = false → waits i u ∧ awaits i u (p 0x04 0) n false ea next)
    let cut (v : Word) : Word := wd (v.toNat % 2 ^ (8 * n))
    stores (.st sm rx sz off d a) .store n rx (t.rd a + m * wd n) sz.toNat (cut (t.rd d)) (t.psnOf d) (t.pc + 4) ∧
    stores (.stLit sm rx sz lit d a) .store n rx (t.rd a + lit) sz.toNat (cut (t.rd d)) (t.psnOf d) (t.pc + 12) ∧
    stores (.stbd sm off d a) .stbd 2 false (t.rd a + m * 64) 4 (t.rd d &&& 0xFFFF) (t.psnOf d) (t.pc + 4) ∧
    stores (.stbdLit sm lit d a) .stbd 2 false (t.rd a + lit) 4 (t.rd d &&& 0xFFFF) (t.psnOf d) (t.pc + 12) ∧
    stores (.stq sm q off a) .stq 8 false (t.rd a + m * 8) 3 (nget t.q q.toNat 0) (t.parity (.q q)) (t.pc + 4) ∧
    stores (.stqLit sm q lit a) .stq 8 false (t.rd a + lit) 3 (nget t.q q.toNat 0) (t.parity (.q q)) (t.pc + 12) ∧
    loads (.ld sm rx sx sz off d a) .load n rx sx (t.rd a + m * wd n) sz.toNat (t.pc + 4) ∧
    loads (.ldLit sm rx sx sz lit d a) .load n rx sx (t.rd a + lit) sz.toNat (t.pc + 12) ∧
    loads (.ldbd sm off d a) .ldbd 2 false false (t.rd a + m * 64) 4 (t.pc + 4) ∧
    loads (.ldbdLit sm lit d a) .ldbd 2 false false (t.rd a + lit) 4 (t.pc + 12) ∧
    atomics (.aadd sm x d a b) .add 0 (t.pc + 4) ∧ atomics (.aand sm x d a b) .and 0 (t.pc + 4) ∧ atomics (.aor sm x d a b) .or 0 (t.pc + 4) ∧
    atomics (.axor sm x d a b) .xor 0 (t.pc + 4) ∧ atomics (.amin sm x d a b) .min 0 (t.pc + 4) ∧ atomics (.amax sm x d a b) .max 0 (t.pc + 4) ∧
    atomics (.axchg sm x d a b) .xchg 0 (t.pc + 4) ∧ atomics (.afadd sm x d a b) .fadd 0 (t.pc + 4) ∧
    atomics (.acas sm x d a b c) .cas (t.rd c) (t.pc + 12)

/-- R143, R147, R283, R284, R322: FENCE completes once the thread's accesses are accepted, and at system scope once its posted accesses are
flushed; FLUSHR and MSYNC send a FLU to each peer that has one unflushed and end in a switch point that waits for the answers. R115, R116,
R285, R286: the allocator of a level serves one SALLOC at a time: it zeroes the granted segment, gives it to the crew or launch and returns its
address, or zero where there is none; one that finds it at work waits, and is served when the one before returns. SFREE of an idle segment frees
it, and of segment 0 or of none it takes the address trap. SEGMENT_FREE frees for a thread that waited. -/
def Obligations.FencesFlushesAndScratch : Prop :=
  (∀ (s : State) (t : Thread) (sm : Bool) (scope : BitVec 3) (a : Operand), Issues s t →
     let v := t.rd a
     let peer := bits v 0 12
     let flu (w : ReqWhat) (f : Flow) : State := s.threadReq t { s.blankPkt 0x09 2 f.dst with flow := f } w
     (t.out ≠ [] → exec (.fence sm scope) s = .next (s.park t .accepted) ∧ exec (.msync sm) s = .next (s.park t .accepted)) ∧
     (t.out = [] → scope ≠ 5 ∨ (t.posted = [] ∧ t.winAck = []) → Completes (.fence sm scope) s s t sm (t.pc + 4)) ∧
     (∀ f, t.out = [] → t.posted = [f] → exec (.fence sm 5) s = .next ((flu (.flush t.ref f) f).park t (.flush 4096))) ∧
     (2 ^ 12 ≤ v.toNat → Faults (.flushr sm a) s t (infoVa 3 v false 0) v) ∧
     (v.toNat < 2 ^ 12 → (t.winAck.any fun w => w.2 == peer) = true → exec (.flushr sm a) s = .next (s.park t (.flush (4097 + peer)))) ∧
     (v.toNat < 2 ^ 12 → (t.winAck.any fun w => w.2 == peer) = false → t.postedOn peer = [] ∨ peer = s.devid →
       Completes (.flushr sm a) s s t true (t.pc + 4)) ∧
     (∀ f, v.toNat < 2 ^ 12 → (t.winAck.any fun w => w.2 == peer) = false → t.postedOn peer = [f] → peer ≠ s.devid →
       Completes (.flushr sm a) s (flu (.flush t.ref f) f) { t with flushing := s.nextTag :: t.flushing } true (t.pc + 4)) ∧
     (t.out = [] → t.mirrors = [] → Completes (.msync sm) s s t true (t.pc + 4)) ∧
     (∀ f, t.out = [] → t.mirrors = [f] →
       Completes (.msync sm) s (flu (.msync t.ref f) f) { t with flushing := s.nextTag :: t.flushing, mirrors := [] } true (t.pc + 4))) ∧
  (∀ (s : State) (t : Thread) (sm : Bool) (level : BitVec 2) (d a : Operand), Issues s t →
     let lvl := level.toNat
     let va := t.rd a
     let id := State.segOf va.toNat
     let q : SallocReq := { t := t.ref, id := t.nextId, lvl := lvl, inst := State.inst lvl t.unit, len := va.toNat }
     let atWork := s.disp.sallocs.any fun x => x.lvl == lvl && x.inst == State.inst lvl t.unit
     let queued (u : State) : State := { u with disp := { u.disp with sallocs := u.disp.sallocs ++ [q] } }
     (t.rb.length = 8 → exec (.salloc sm level d a) s = .next (s.switchPoint t)) ∧
     (atWork = true → t.rb.length ≠ 8 → TakesEntry (.salloc sm level d a) s (queued s) t sm [d] (t.pc + 4)) ∧
     (∀ g, atWork = false → s.grant t lvl va.toNat = some g → t.rb.length ≠ 8 →
       TakesEntry (.salloc sm level d a) s
         (queued (((s.zeroSeg lvl (State.inst lvl t.unit) g).addSeg t lvl g).sched (State.levelLatency lvl + ceilDiv g.len (State.zeroRate lvl))
           rankLate (.resultReturn t.ref t.nextId [⟨State.segVa lvl g.num, none⟩]))) t sm [d] (t.pc + 4)) ∧
     (atWork = false → s.grant t lvl va.toNat = none → t.rb.length ≠ 8 →
       TakesEntry (.salloc sm level d a) s
         (queued (s.sched (State.levelLatency lvl) rankLate (.resultReturn t.ref t.nextId [⟨0, none⟩]))) t sm [d] (t.pc + 4)) ∧
     (∀ r vals p x y g, s.ref? p.t = some x → x.st ≠ .halted → p.t = r → s.disp.sallocs = [p, q] → p ≠ q → p.lvl = q.lvl → p.inst = q.inst →
       ((s.unit r.unit).mstats.find? fun m => m.1 == r && m.2.1 == p.id) = none → s.ref? q.t = some y → s.grant y lvl va.toNat = some g →
       ∃ u, exec (.resultReturn r p.id vals) s = .next u ∧ u.disp.sallocs = [q] ∧
         Due u (s.now + (State.levelLatency lvl + ceilDiv g.len (State.zeroRate lvl))) (.resultReturn q.t q.id [⟨State.segVa lvl g.num, none⟩])) ∧
     (id.2 = 0 ∨ id.1 = 0 ∨ 3 < id.1 ∨ va ≠ State.segVa id.1 id.2 ∨ s.seg? t.ltag t.unit id.1 id.2 = none → Faults (.sfree sm a) s t (infoVa 3 va false 0) va) ∧
     (∀ g, 1 ≤ id.1 → id.1 ≤ 3 → va = State.segVa id.1 id.2 → id.2 ≠ 0 → s.seg? t.ltag t.unit id.1 id.2 = some g → t.out = [] →
       (s.segIdle t.unit id.1 g = true → Completes (.sfree sm a) s (s.dropSeg t id.1 id.2) t sm (t.pc + 4)) ∧
       (s.segIdle t.unit id.1 g = false → exec (.sfree sm a) s = .next (s.park t (.segment va.toNat sm)))) ∧
     (∀ r x g, s.ref? r = some x → x.st = .parked (.segment va.toNat sm) → s.seg? x.ltag x.unit id.1 id.2 = some g →
       s.segIdle x.unit id.1 g = true →
       Completes (.segmentFree r va) s (s.dropSeg x id.1 id.2) { x with st := .ready, eligRound := max x.eligRound (s.round + 1) } sm (x.pc + 4)))


/-! ## Messages, threads and synchronisation -/
/-- R289 to R291, R417: APPEND to a port of a present unit of this device delivers its message to that unit's JU six cycles later, which R291
gives for the sender's own unit alone (another's: log entry 28, DEDUCED); to an absent unit the status REFUSED is posted after eight; to
another device it is sent as APP; with the aperture address of a launch port the record joins that port's queue, or is dropped where that is
full, and the post comes after eight cycles (log entry 28, DEDUCED). A malformed handle takes the address trap. It ends an open region, and
writes no register. R179, R181, R401: the JU decides a message for a crew of a launch without DET. With the port closed or not enabled the
sender is posted REFUSED, with a full port FULL or, under POL, FAULT, and neither changes the port. Else the message is accepted: COUNT rises
by one, TAIL moves on, its header is written, no other part of memory than its slot and header changes, and the sender is posted OK. A JU that
is busy, or whose slot's banks have accesses to accept first (R109), decides a cycle later. -/
def Obligations.AppendsReachTheirPort : Prop :=
  (∀ (s : State) (t : Thread) (sm : Bool) (cnt dsem : BitVec 3) (a b : Operand), Issues s t →
     let h := t.rd a
     let i : Instr := .append sm cnt dsem a b
     let msg := (Thread.run b (cnt.toNat + 1)).map fun r => (⟨t.rd r, t.psnOf r⟩ : Val)
     let ltag := if bits h 44 16 = 0 then t.ltag else bits h 44 16
     let own := ltag == t.ltag
     let u := { t with inrgn := false, restarts := 0, appendWait := t.det }
     let here := h.getLsbD 31 = true ∨ bits h 32 12 = s.devid
     (bits h 60 4 ≠ 0 → bits h 60 4 ≠ 15 → Faults i s t (infoVa 3 h false 0) h) ∧
     (bits h 60 4 = 0 → (bits h 14 17 ≠ 0 ∨ h.getLsbD 6 = true) → Faults i s t (infoVa 3 h false 0) h) ∧
     (bits h 60 4 = 0 → bits h 14 17 = 0 → h.getLsbD 6 = false → t.out = [] → (t.det = false ∨ t.appendWait = false) → here →
       (s.present (bits h 7 7) = true →
         Completes i s ((if own then s.countSent t else s).sched 6 (rankJu t.unit) (.appendAccept
           { ltag := ltag, unit := bits h 7 7, port := bits h 0 6, msg := msg, senderDev := s.devid, senderLtag := t.ltag,
             senderWid := writerId (s.launchOf t) t, senderUnit := t.unit, reply := some ⟨t.ref, dsem, 2⟩, replyPkt := none })) u sm (t.pc + 12)) ∧
       (s.present (bits h 7 7) = false →
         Completes i s ((if own then (s.countSent t).countRecvd t.ltag t.unit else s).postLater 8 ⟨t.ref, dsem, 2⟩ 1 2) u sm (t.pc + 12))) ∧
     (bits h 60 4 = 0 → bits h 14 17 = 0 → h.getLsbD 6 = false → t.out = [] → (t.det = false ∨ t.appendWait = false) → ¬here →
       let pkt := { s.blankPkt 0x07 0 (bits h 32 12) with
         flow := ⟨s.devid, t.unit, t.slot, bits h 32 12⟩, aux := bits h 7 7 * 2 ^ 9 + bits h 0 6 * 2 ^ 3 + cnt.toNat,
         payload := wd (ltag * 2 ^ 48 + writerId (s.launchOf t) t * 2 ^ 12) :: msg.map (·.v), poisoned := State.psnMask (⟨0, none⟩ :: msg) }
       Completes i s (s.threadReq t pkt (.post ⟨t.ref, dsem, 2⟩)) u sm (t.pc + 12)) ∧
     (∀ p : Fin 8, h = 0xF000000000010000 + wd (64 * p.val) → t.out = [] → (t.det = false ∨ t.appendWait = false) →
       (∀ v ∈ msg, v.psn = none) → (s.lport p.val).queue.length < 64 →
       let dws := Vector.ofFn fun k : Fin 8 => (msg.getD k.val ⟨0, none⟩).v
       Completes i s ((s.commitRecord p.val ⟨dws, t.svc⟩).postLater 8 ⟨t.ref, dsem, 2⟩ 1 0) u sm (t.pc + 12)) ∧
     (∀ p : Fin 8, h = 0xF000000000010000 + wd (64 * p.val) → t.out = [] → (t.det = false ∨ t.appendWait = false) →
       (∀ v ∈ msg, v.psn = none) → 64 ≤ (s.lport p.val).queue.length → Completes i s (s.postLater 8 ⟨t.ref, dsem, 2⟩ 1 3) u sm (t.pc + 12))) ∧
  (∀ (s : State) (r : AppendReq) (c : Crew) (to_ : PostTo), s.crew? r.ltag r.unit = some c → c.ltag = r.ltag → c.unit = r.unit →
     s.isDet r.ltag = false → r.reply = some to_ → r.replyPkt = none → r.senderLtag ≠ r.ltag → s.Sound →
     let p := c.port r.port
     let hdr := 2 ^ 63 + (r.msg.length - 1) * 2 ^ 60 + r.senderDev * 2 ^ 48 + r.senderWid * 2 ^ 12
     let told (u : State) (status : Nat) : Prop := Due u (s.now + 2) (.semPost to_ 1 status)
     let waits : Bool := s.busy.contains (State.juKey r.unit) || s.waitsOn (s.appendExt r) || (s.appendExt r).any fun x => !s.bankFree x.1
     (waits = true → exec (.appendAccept r) s = .next (s.sched 1 1 (.appendAccept r))) ∧
     (c.closed = true ∨ p.closed = true ∨ p.en = false ∨ p.count = p.depth → s.appendExt r = []) ∧
     (waits = false → ∃ u, exec (.appendAccept r) s = .next u ∧
       (c.closed = true ∨ p.closed = true ∨ p.en = false → told u 2 ∧ u.crew? r.ltag r.unit = some c ∧ u.mem = s.mem) ∧
       (c.closed = false → p.closed = false → p.en = true → p.count = p.depth →
         told u (if p.pol then 1 else 3) ∧ u.crew? r.ltag r.unit = some c ∧ u.mem = s.mem) ∧
       (c.closed = false → p.closed = false → p.en = true → p.count ≠ p.depth →
         told u 0 ∧
         (∃ c', u.crew? r.ltag r.unit = some c' ∧ (c'.port r.port).count = p.count + 1 ∧ (c'.port r.port).tail = (p.tail + 1) % p.depth ∧
           (c'.port r.port).head = p.head ∧ ∀ n, n ≠ r.port → c'.port n = c.port n) ∧
         (∀ pa, s.s1Addr r.ltag r.unit (p.hdrOff p.tail) = some pa → leNat (rdBytes u.mem pa 8) = hdr % 2 ^ 64) ∧
         (∀ a, (∀ k pa, k < 9 → s.s1Addr r.ltag r.unit (if k < 8 then p.slotOff p.tail + 8 * k else p.hdrOff p.tail) = some pa →
           a < pa ∨ pa + 8 ≤ a) → byteAt u a = byteAt s a))))

/-- R195, R296 to R298, R360: SPAWN with no room, or with a TID that lives, writes all ones and creates nothing; else a thread is created in
the lowest free slot, its registers zero but for the arguments in a0 upwards, READY from the next round, and D takes its TID. A PC that is
not aligned takes the address trap. R195, R298: SPAWNR to a present unit of this device reaches that unit's JU six cycles later, and one to
another device is sent as SPW; the JU refuses it where the launch holds no crew there, the PC is not aligned or not executable in the
launch's ranges, or there is no room, and else creates the thread with the lowest free TID, and posts the status. In a crew that has not started the
lowest is 0, which the start gives again (log entry 88, DESIGN CHOICE). -/
def Obligations.SpawnsCreateThreads : Prop :=
  (∀ (s : State) (t : Thread) (sm pexp tiden : Bool) (argc prio : BitVec 3) (tidreq : BitVec 8) (pc : Word) (d a b : Operand) (l : Launch)
     (c : Crew), Issues s t → s.launch? t.ltag = some l → s.crew? t.ltag t.unit = some c → c.unit = t.unit →
     let e := { t with inrgn := false, restarts := 0 }
     let taken := tiden = true ∧ (s.byTid t.ltag t.unit tidreq.toNat).isSome
     let form (i : Instr) (pc next : Word) : Prop :=
       (pc.toNat % 4 ≠ 0 → Faults i s t (infoVa 3 pc false 0) pc) ∧
       (pc.toNat % 4 = 0 → t.out ≠ [] → exec i s = .next (s.park t .accepted)) ∧
       (pc.toNat % 4 = 0 → t.out = [] → s.noRoom t.ltag t.unit t.svc = true ∨ taken → ComputesIn i s s e sm d (BitVec.allOnes 64) next) ∧
       (∀ slot, pc.toNat % 4 = 0 → t.out = [] → s.noRoom t.ltag t.unit t.svc = false → ¬taken → s.freeSlot? t.unit = some slot →
         let tid := if tiden then tidreq.toNat else s.freeTid t.ltag t.unit
         ∃ n, ComputesIn i s (put s n) e sm d (wd tid) next ∧ n.unit = t.unit ∧ n.slot = slot ∧ n.tid = tid ∧ n.ltag = l.ltag ∧ n.pc = pc ∧
           n.base = (if pexp then prio else t.base) ∧ n.trigd = t.trigd ∧ n.svc = l.svc ∧ n.st = .ready ∧ n.eligRound = s.round + 1 ∧
           n.rb = [] ∧ n.depth = 0 ∧ n.res = 1 ∧ n.skipc = 0 ∧
           (∀ i : BitVec 3, vget n.sems i = 0) ∧ (∀ i : Fin 4, n.q[i] = 0) ∧
           (∀ r, n.rd r = match r with
             | .main i => if 8 ≤ i.toNat ∧ i.toNat < 16 ∧ i.toNat - 8 < argc.toNat then t.rd ((Thread.run b argc.toNat).getD (i.toNat - 8) .k0) else 0
             | _ => 0))
     argc.toNat ≤ 4 →
     form (.spawn sm argc prio pexp tidreq tiden d a b) (t.rd a) (t.pc + 12) ∧
     form (.spawnLit sm argc prio pexp tidreq tiden pc d b) pc (t.pc + 20)) ∧
  (∀ (s : State) (t : Thread) (sm : Bool) (argc prio dsem : BitVec 3) (pc : Word) (a b c : Operand), Issues s t →
     let h := t.rd a
     let ltag := if bits h 44 16 = 0 then t.ltag else bits h 44 16
     let form (i : Instr) (pc next : Word) : Prop :=
       (bits h 60 4 ≠ 0 ∨ bits h 14 17 ≠ 0 ∨ bits h 0 7 ≠ 0 → Faults i s t (infoVa 3 h false 0) h) ∧
       (bits h 60 4 = 0 → bits h 14 17 = 0 → bits h 0 7 = 0 → t.out = [] → h.getLsbD 31 = true ∨ bits h 32 12 = s.devid →
         s.present (bits h 7 7) = true →
         Completes i s ((if ltag == t.ltag then s.countSent t else s).sched 6 (rankJu t.unit) (.spawnrAccept
           { ltag := ltag, unit := bits h 7 7, pc := pc, args := (Thread.run b argc.toNat).map t.rd, prio := prio.toNat,
             senderDev := s.devid, senderLtag := t.ltag, senderUnit := t.unit, reply := some ⟨t.ref, dsem, 5⟩, replyPkt := none }))
           { t with inrgn := false, restarts := 0 } sm next) ∧
       (bits h 60 4 = 0 → bits h 14 17 = 0 → bits h 0 7 = 0 → t.out = [] → h.getLsbD 31 = false → bits h 32 12 ≠ s.devid →
         let pkt := { s.blankPkt 0x08 0 (bits h 32 12) with
           flow := ⟨s.devid, t.unit, t.slot, bits h 32 12⟩, aux := bits h 7 7 * 2 ^ 9 + prio.toNat * 2 ^ 6 + argc.toNat * 2 ^ 3,
           payload := wd (ltag * 2 ^ 48) :: pc :: (Thread.run b argc.toNat).map t.rd }
         Completes i s (s.threadReq t pkt (.post ⟨t.ref, dsem, 5⟩)) { t with inrgn := false, restarts := 0 } sm next)
     form (.spawnr sm argc prio dsem a b c) (t.rd c) (t.pc + 12) ∧
     form (.spawnrLit sm argc prio dsem pc a b) pc (t.pc + 20) ∧
     (∀ (r : SpawnReq) (l : Launch) (cr : Crew) (to_ : PostTo) (slot : Nat), s.busy.contains (State.juKey r.unit) = false →
       s.crew? r.ltag r.unit = some cr → s.launch? r.ltag = some l → l.ltag = r.ltag → cr.unit = r.unit → r.reply = some to_ →
       r.replyPkt = none → r.senderLtag ≠ r.ltag → s.freeSlot? r.unit = some slot →
       let allowed := l.ranges.any fun e => e.x && e.base ≤ r.pc.toNat && r.pc.toNat < e.limit
       let refused := cr.closed = true ∨ r.pc.toNat % 4 ≠ 0 ∨ allowed = false ∨ s.noRoom r.ltag r.unit l.svc = true
       ∃ u, exec (.spawnrAccept r) s = .next u ∧
         (refused → u.threads = s.threads ∧ Due u (s.now + 2) (.semPost to_ 1 2)) ∧
         (¬refused → Due u (s.now + 2) (.semPost to_ 1 0) ∧
           ∃ n, u.threads = putThread s.threads n ∧ n.unit = r.unit ∧ n.slot = slot ∧ n.pc = r.pc ∧ n.tid = s.freeTid r.ltag r.unit ∧
             n.base = BitVec.ofNat 3 r.prio ∧ n.trigd = false ∧ n.st = .ready)))

/-- R302 to R304: WAIT takes the SY value from its semaphore where the count holds it, and ends its run; else it parks. POST sends its
count, 2 cycles later, to the thread of the crew with that TID, and its issuer issues no more before the cycle after (log entry 83, DESIGN
CHOICE). A twin's own count takes and falls with the primary's (R320). SEMSET sets the count. Values out of range are illegal. R68, R71, R303,
R386: a post that arrives raises its semaphore's count; the first status that is not OK goes to ENG with the semaphore in ESEM, a later one
sets the semaphore's bit of SEMERR; of those of one cycle that to the lowest semaphore is the first. One that would pass 65,535 leaves the
count and becomes an overflow for the thread's next issue, or, where a POST sent it, a fault of its sender at that POST (R303). A thread
parked in WAIT takes its posts at the end of the cycle (R302). -/
def Obligations.SemaphoresAndPosts : Prop :=
  (∀ (s : State) (t : Thread) (sm : Bool) (sem : BitVec 3) (i : BitVec 8) (cnt : BitVec 16) (a : Operand), Issues s t →
     let v := t.rd a + i.setWidth 64
     let tid := (t.rd a).toNat
     let e := { t with inrgn := false, restarts := 0, holdTo := s.now + 3 }
     let key := twinKey (.sem sem) t.vaultKey
     (65535 < v.toNat → Faults (.wait sm sem i a) s t (infoOf 1 3 0 0) 0 ∧ Faults (.semset sm sem i a) s t (infoOf 1 3 0 0) 0) ∧
     (v.toNat ≤ (vget t.sems sem).toNat →
       Completes (.wait sm sem i a) s s { t with sems := vset t.sems sem (vget t.sems sem - v.setWidth 16), barrierGot := false,
                                                 twin := t.twin.map (Twin.lower key v.toNat) } true (t.pc + 4)) ∧
     (v.toNat ≤ 65535 → (vget t.sems sem).toNat < v.toNat → exec (.wait sm sem i a) s = .next (s.park t (.sem sem v.toNat))) ∧
     (v.toNat ≤ 65535 → t.recent = [] → Completes (.semset sm sem i a) s s { t with sems := vset t.sems sem (v.setWidth 16), par := t.par.filter (· != .sem sem) } sm (t.pc + 4)) ∧
     (255 < tid ∨ cnt = 0 → Faults (.post sm sem cnt a) s t (infoOf 1 3 0 (if cnt = 0 then 2 else 0)) 0) ∧
     (∀ x, tid ≤ 255 → cnt ≠ 0 → t.out = [] → s.byTid t.ltag t.unit tid = some x →
       Completes (.post sm sem cnt a) s (s.postLater 2 ⟨x.ref, sem, 16 + 256 * t.unit + t.slot⟩ cnt.toNat 0) e sm (t.pc + 12)) ∧
     (tid ≤ 255 → cnt ≠ 0 → t.out = [] → s.byTid t.ltag t.unit tid = none → Completes (.post sm sem cnt a) s s e sm (t.pc + 12))) ∧
  (∀ (s : State) (p : PostTo) (count status : Nat) (t : Thread), s.ref? p.t = some t →
     let old := (vget t.sems p.sem).toNat
     (65535 < old + count → 16 ≤ p.src → p.src < 2 ^ 20 → count ≠ 0 →
       ∃ u, exec (.semPost p count status) s = .next u ∧ Due u (s.now + 1) (.semPost p 0 0) ∧
         (p.t = t.ref → ∃ w, u.thread? t.unit t.slot = some w ∧ w.sems = t.sems)) ∧
     (∀ x, 16 ≤ p.src → p.src < 2 ^ 20 → s.thread? ((p.src - 16) / 256) ((p.src - 16) % 256) = some x →
       exec (.semPost p 0 status) s = .next (s.fault { x with pc := x.pc - 12 } (infoOf 9 p.sem.toNat 0 0) 0)) ∧
     (∀ w, w = t.post s.now p.sem count p.src status → p.src < 16 ∨ 2 ^ 20 ≤ p.src ∨ (count ≠ 0 ∧ old + count ≤ 65535) →
       exec (.semPost p count status) s = .next (put s w) ∧
       (old + count ≤ 65535 → (vget w.sems p.sem).toNat = old + count ∧ w.async = t.async) ∧
       (65535 < old + count → w.sems = t.sems ∧ ∃ n, w.async = (p.sem, n) :: t.async) ∧
       (∀ i, i ≠ p.sem → vget w.sems i = vget t.sems i) ∧
       (status = 0 → w.eng = t.eng ∧ w.semerr = t.semerr) ∧
       (status ≠ 0 → t.eng = 0 → w.eng = BitVec.ofNat 8 status ∧ w.esem = p.sem) ∧
       (status ≠ 0 → t.eng ≠ 0 → t.engAt ≠ s.now + 1 ∨ t.esem.toNat ≤ p.sem.toNat →
         w.eng = t.eng ∧ w.esem = t.esem ∧ w.semerr = t.semerr ||| BitVec.ofNat 8 (2 ^ p.sem.toNat)) ∧
       (status ≠ 0 → t.eng ≠ 0 → t.engAt = s.now + 1 → p.sem.toNat < t.esem.toNat →
         w.eng = BitVec.ofNat 8 status ∧ w.esem = p.sem ∧ w.semerr = t.semerr ||| BitVec.ofNat 8 (2 ^ t.esem.toNat)) ∧
       (∀ r, w.rd r = t.rd r) ∧ w.pc = t.pc ∧ w.st = t.st) ∧
     (∀ i v, t.st = .parked (.sem i v) → t.async = [] → v ≤ (vget t.sems i).toNat →
       s.wakeOne t = s.done { t with sems := vset t.sems i (vget t.sems i - BitVec.ofNat 16 v), barrierGot := false,
                                     twin := t.twin.map (Twin.lower (twinKey (.sem i) t.vaultKey) v) } 1 true []))

/-- R191, R307, R308: the barrier instructions at a 16-byte-aligned address in one of the crew's segments reach the barrier's home after the
latency of its level; BARWAIT parks until its own post. Any other address takes the address trap. R191 to R194, R307, R308, R403:
BARRIER_REGISTER writes the object of a barrier that its home has room for, and returns 0, or FULL (3); an arrival before the last is
recorded; the last resets the count, raises the generation and posts every waiter OK; an arrival at no barrier is posted BROKEN; a write to
the object while arrivals wait breaks the barrier and posts its waiters BROKEN. -/
def Obligations.Barriers : Prop :=
  (∀ (s : State) (t : Thread) (sm : Bool) (sem : BitVec 3) (d a b : Operand), Issues s t →
     let va := t.rd a
     let need := (t.rd b).toNat
     let lat := State.levelLatency (va.toNat / 2 ^ 60)
     let e := { t with inrgn := false, restarts := 0 }
     (s.barrierAddr t va = none → Faults (.barinit sm d a b) s t (infoVa 3 va false 0) va ∧ Faults (.bararr sm sem a) s t (infoVa 3 va false 0) va ∧
       Faults (.barwait sm sem a) s t (infoVa 3 va false 0) va) ∧
     (∀ pa, s.barrierAddr t va = some pa →
       (need = 0 ∨ 65535 < need → Faults (.barinit sm d a b) s t (infoOf 1 3 0 0) 0) ∧
       (0 < need → need ≤ 65535 → t.rb.length ≠ 8 →
         TakesEntry (.barinit sm d a b) s (s.sched lat rankLate (.barrierRegister t.ref t.nextId va need)) t sm [d] (t.pc + 12)) ∧
       (t.out = [] → Completes (.bararr sm sem a) s (s.sched lat rankLate (.barrierArrival t.ref sem va pa none)) e sm (t.pc + 4)) ∧
       (t.out = [] → exec (.barwait sm sem a) s =
         .next ((s.sched lat rankLate (.barrierArrival t.ref sem va pa (some s.nextId))).fresh.park
           { e with barId := s.nextId, barrierGot := false } (.barrier sem))))) ∧
  (∀ (s : State) (r : ThreadRef) (sem : BitVec 3) (va : Word) (pa : Nat) (bwait : Option Nat),
     let lat := State.levelLatency (va.toNat / 2 ^ 60)
     let mine : ThreadRef × BitVec 3 × Option Nat := (r, sem, bwait)
     let src (own : Option Nat) : Nat := match own with | some id => barSrc id | none => 3
     (∀ t rb need, s.ref? r = some t → s.barrierAddr t va = some pa → s.barrier? pa = none → need ≠ 0 →
       let lvl := va.toNat / 2 ^ 60
       let peers := s.barriers.filter fun x => x.level == lvl && x.home == State.inst lvl t.unit
       let full := (barrierRoom lvl).1 ≤ peers.length ∨ (barrierRoom lvl).2 < (peers.map fun x => x.need - 1).sum + (need - 1)
       (full → exec (.barrierRegister r rb va need) s = .next (s.sched lat rankLate (.resultReturn r rb [⟨3, none⟩]))) ∧
       (¬full → ∃ u, exec (.barrierRegister r rb va need) s = .next u ∧ Due u (s.now + lat) (.resultReturn r rb [⟨0, none⟩]) ∧
         ∃ b, u.barrier? pa = some b ∧ b.need = need ∧ b.arr = 0 ∧ b.gen = 0 ∧ b.waiters = [])) ∧
     (s.barrier? pa = none → exec (.barrierArrival r sem va pa bwait) s = .next (s.postLater lat ⟨r, sem, src bwait⟩ 1 4)) ∧
     (∀ b, s.barrier? pa = some b → b.arr + 1 < b.need → ∃ u, exec (.barrierArrival r sem va pa bwait) s = .next u ∧
       u.barrier? pa = some { b with arr := b.arr + 1, waiters := b.waiters ++ [mine] } ∧ u.agenda = s.agenda) ∧
     (∀ b, s.barrier? pa = some b → b.need ≤ b.arr + 1 → ∃ u, exec (.barrierArrival r sem va pa bwait) s = .next u ∧
       u.barrier? pa = some { b with arr := 0, gen := (b.gen + 1) % 2 ^ 32, waiters := [] } ∧
       ∀ w ∈ b.waiters ++ [mine], Due u (s.now + State.levelLatency b.level) (.semPost ⟨w.1, w.2.1, src w.2.2⟩ 1 0)) ∧
     (∀ b reinit writer, s.barrier? pa = some b → b.arr ≠ 0 → ∃ u, exec (.barrierBroken pa reinit writer) s = .next u ∧ u.barrier? pa = none ∧
       ∀ w ∈ b.waiters, Due u (s.now + State.levelLatency b.level) (.semPost ⟨w.1, w.2.1, src w.2.2⟩ 1 4)) ∧
     (∀ b ∈ s.barriers, ∀ n writer, b.arr ≠ 0 → meets b.pa 16 pa n = true → Due (s.touch pa n writer) s.now (.barrierBroken b.pa false writer)))

/-- R180, R185, R186, R309 to R311, R314: PORTCFG and PATSET take an image that their rules allow and else are illegal; PATCLR clears V of one
pattern; an image with EN clear leaves the port not enabled; PORTSTAT returns a state word of its port after eight cycles. R187:
PATTERN_EVALUATION fires, for a crew that is open, the first candidate that can fire, candidates being valid patterns whose member ports all
hold a takeable message, once the accesses that reached its banks before are accepted (R109); a crew without one is left alone. R188, R189:
six cycles after a firing HANDLER_CREATE creates the handler, with the frame's address in a0 and the pattern's index in a1, born untriggered,
and WAKE_POST posts the thread that the pattern wakes. -/
def Obligations.PortsAndPatterns : Prop :=
  (∀ (s : State) (t : Thread) (sm w : Bool) (idx : BitVec 5) (port : BitVec 6) (i : BitVec 8) (hpc : Word) (d a b c : Operand) (cr : Crew),
     Issues s t → s.crew? t.ltag t.unit = some cr →
     let d0 := t.rd a
     let d1 := t.rd b
     let v := (t.rd a + i.setWidth 64).toNat
     let sets (k : Instr) (d0 hpc d2 next : Word) : Prop :=
       (s.patRefused t d0 hpc d2 = true → Faults k s t (infoOf 1 3 0 0) 0) ∧
       (s.patRefused t d0 hpc d2 = false →
         let new : Pat := { d0 := d0, hpc := hpc, d2 := d2, fires := 0, pend := 0, ring := 0, epoch := s.nextId }
         Completes k s ((s.setCrew { cr with pats := mset cr.pats idx.toNat new }).fresh) t sm next)
     sets (.patset sm idx a b c) d0 (t.rd b) (t.rd c) (t.pc + 12) ∧
     sets (.patsetLit sm idx hpc a c) d0 hpc (t.rd c) (t.pc + 20) ∧
     (31 < v → Faults (.patclr sm i a) s t (infoOf 1 3 0 0) 0) ∧
     (v ≤ 31 → ∃ cr', Completes (.patclr sm i a) s (s.setCrew cr') t sm (t.pc + 4) ∧
       cr' = { cr with pats := cr.pats.map fun e => if e.1 = v then (e.1, { e.2 with d0 := e.2.d0 &&& 0x7FFFFFFFFFFFFFFF }) else e }) ∧
     (s.portRefused t port.toNat d0 d1 = true → Faults (.portcfg sm port a b) s t (infoOf 1 3 0 0) 0) ∧
     (s.portRefused t port.toNat d0 d1 = false → d0.getLsbD 63 = true →
       let p : Port := { en := true, pol := d0.getLsbD 62, closed := false, depth := bits d0 48 11, base := bits d0 6 15 * 64, slo := bits d1 44 20,
                         ns := bits d1 36 8, q := bits d1 32 4, head := 0, tail := 0, count := 0, det := [], accepted := [], batch := 0, psn := none }
       Completes (.portcfg sm port a b) s (s.setCrew (cr.setPort port.toNat p)) t sm (t.pc + 12)) ∧
     (s.portRefused t port.toNat d0 d1 = false → d0.getLsbD 63 = false →
       let p : Port := { en := false, pol := false, closed := false, depth := 0, base := 0, slo := 0, ns := 0, q := 0, head := 0, tail := 0, count := 0,
                         det := [], accepted := [], batch := 0, psn := none }
       Completes (.portcfg sm port a b) s (s.setCrew (cr.setPort port.toNat p)) t sm (t.pc + 12)) ∧
     (t.rb.length ≠ 8 →
       let p := cr.port port.toNat
       TakesEntry (.portstat sm w port d) s (s.sched 8 rankLate (.resultReturn t.ref t.nextId [⟨if w then p.word1 else p.word0 cr.closed, p.psn⟩]))
         t sm [d] (t.pc + 4))) ∧
  (∀ (s : State) (c : Crew), s.crew? c.ltag c.unit = some c → s.disp.crews = [c] →
     (c.closed = true ∨ s.candidates c = [] → exec .patternEvaluation s = .next s) ∧
     (∀ l e r, c.closed = false → s.candidates c = l ++ e :: r → (∀ x ∈ l, s.canFire c x.2 = false) → s.canFire c e.2 = true →
       exec .patternEvaluation s = .next (if s.waitsOn (s.fireExt c e.2) then s else s.fire c e.1 e.2)) ∧
     (∀ e : Nat × Pat,
       let frame := (State.freeFrame c).getD 0
       let off := if e.2.wake then 256 * e.2.fboff + 256 * e.2.ring else frameOff (s.s1Bytes c.ltag) frame
       (State.takeHeads c.ltag c.unit off s e.2.ports.zipIdx).2 = true →
         Due (s.fire c e.1 e.2) (s.now + 6) (if e.2.wake then .wakePost c.ltag c.unit e.1 e.2.epoch e.2.wtid e.2.wsem
           else .handlerCreate c.ltag c.unit e.1 frame e.2.hpc (BitVec.ofNat 3 e.2.pri))) ∧
     (∀ e ∈ s.candidates c, e.2.v = true ∧ ∀ n ∈ e.2.ports, (s.takeable c n).isSome) ∧
     (∀ l pat frame pc pri, s.launch? c.ltag = some l → l.ending.isSome = true → exec (.handlerCreate c.ltag c.unit pat frame pc pri) s = .next s) ∧
     (∀ l pat frame pc pri slot, s.launch? c.ltag = some l → l.ending = none → s.freeSlot? c.unit = some slot →
       ∃ n, exec (.handlerCreate c.ltag c.unit pat frame pc pri) s = .next (put s n) ∧ n.unit = c.unit ∧ n.slot = slot ∧ n.pc = pc ∧ n.base = pri ∧
         vget n.a 0 = wd (2 ^ 60 + frameOff (s.s1Bytes c.ltag) frame) ∧ vget n.a 1 = wd pat ∧ n.trigd = false ∧ n.frame = some frame ∧
         n.tid = s.freeTid c.ltag c.unit) ∧
     (∀ t pat epoch tid sem, s.byTid c.ltag c.unit tid = some t →
       let s' := s.setCrew { c with pats := c.pats.map fun e =>
         if e.1 = pat ∧ e.2.epoch = epoch then (e.1, { e.2 with pend := e.2.pend - 1 }) else e }
       exec (.wakePost c.ltag c.unit pat epoch tid sem) s = .next (s'.post ⟨t.ref, sem, 4⟩ 1 0)))

/-- R182, R186, R312: RECV of a port that is not enabled, or is a member of a valid pattern, is illegal; with no takeable message it parks;
else the head's header and dwords go to its registers eight cycles later, COUNT falls and HEAD moves on. RECV_TAKE does the same for a
thread that parked. A message whose banks have earlier accesses to accept waits (R109). An error in the port's state ends the launch (R402). -/
def Obligations.ReceiveTakesHead : Prop :=
  ∀ (s : State) (t : Thread) (sm hdr : Bool) (cnt : BitVec 3) (port : BitVec 6) (d : Operand) (c : Crew), Issues s t →
    s.crew? t.ltag t.unit = some c → c.ltag = t.ltag → c.unit = t.unit →
    let i : Instr := .recv sm cnt port hdr d
    let p := c.port port.toNat
    let n := cnt.toNat + 1
    let dws := (List.range 8).map fun k => s.loadS1 c.ltag c.unit (p.slotOff p.head + 8 * k)
    let word := s.loadS1 c.ltag c.unit (p.hdrOff p.head)
    let vals := (if hdr then ⟨word.v, none⟩ :: dws else dws).take n
    let after := (s.storeS1 c.ltag c.unit (p.hdrOff p.head) ⟨word.v &&& 0x7FFFFFFFFFFFFFFF, none⟩).setCrew
      (c.setPort port.toNat { p with head := (p.head + 1) % p.depth, count := p.count - 1 })
    (p.en = false ∨ c.member port.toNat = true → Faults i s t (infoOf 1 3 0 0) 0) ∧
    (p.en = true → c.member port.toNat = false → t.rb.length ≠ 8 → p.psn = none →
      (∀ k, s.takeable c port.toNat = some k → s.waitsOn (s.msgExt c port.toNat k) = true) →
      exec i s = .next (s.park t (.recv port.toNat n hdr d))) ∧
    (p.en = true → c.member port.toNat = false → t.rb.length ≠ 8 → p.psn ≠ none → exec i s = .next (s.portData c port.toNat p.head)) ∧
    (p.en = true → c.member port.toNat = false → t.rb.length ≠ 8 → s.isDet c.ltag = false → c.closed = false → p.count ≠ 0 → word.psn = none →
      p.psn = none → s.waitsOn (s.msgExt c port.toNat p.head) = false →
      TakesEntry i s (after.sched 8 rankLate (.resultReturn t.ref t.nextId vals)) t true (Thread.run d n) (t.pc + 12) ∧
      (∀ r, s.ref? r = some t → t.st = .parked (.recv port.toNat n hdr d) →
        TakesEntry (.recvTake r) s (after.sched 8 rankLate (.resultReturn t.ref t.nextId vals))
          { t with st := .ready, eligRound := max t.eligRound (s.round + 1) } true (Thread.run d n) (t.pc + 12)))


/-! ## Engines and copies -/
/-- R156, R327, R338, R340: a vector command with a parameter out of its rule, or an overlap that R167 forbids, is illegal; one with an
operand that is misaligned or not in one segment of S1 takes the address trap; else, unless the scoreboard, the queue or a store parks it,
it joins the queue of its engine with its operand ranges on the scoreboard, and the engine looks at it after 16 cycles. -/
def Obligations.VectorCommandsIssue : Prop :=
  ∀ (s : State) (t : Thread) (e : Ext) (i : Instr) (v : Vx), Issues s t → vxOf i = some v →
    i ∈ [.vadd e, .vsub e, .vmul e, .vfma e, .vmin e, .vmax e, .vabs e, .vneg e, .vrcp e, .vrsq e, .vexp2 e, .vlog2 e, .vlut e, .vcmp e,
         .vsel e, .vcvt e, .vscale e, .vred e, .vscan e, .vtopk e, .vgath e, .vscat e, .vfill e, .viota e, .vpack e, .vunpk e] →
    let c := s.newCmd t .vx i e true
    let rs := v.sources c ++ v.dests c
    let bad (r : VRange) : Bool := r.va % r.align != 0 || (s.s1Range t r.va r.len).isNone
    let ents := (v.sources c).map (fun r => ((s.s1Range t r.va r.len).getD [], false)) ++
      (v.dests c).map fun r => ((s.s1Range t r.va r.len).getD [], true)
    let legal : Prop := v.paramsOk c.n c.c = true ∧ v.overlapBad c = false
    (c.d = t.rd e.d ∧ c.a = t.rd e.a ∧ c.b = t.rd e.b ∧ c.c = t.rd e.c ∧ c.n = t.rd e.n) ∧
    (¬legal → Faults i s t (infoOf 1 3 0 0) 0) ∧
    (∀ r, legal → rs.find? bad = some r → Faults i s t (infoVa 3 (wd r.va) false 0) (wd r.va)) ∧
    (legal → (∀ r ∈ rs, bad r = false) →
      (∀ w, s.engObstacle t .vx ents = some w → exec i s = .next (s.park t w)) ∧
      (s.engObstacle t .vx ents = none → ∃ s', Completes i s s' t e.sm (t.pc + 12) ∧
        (s'.unit t.unit).cmds = (s.unit t.unit).cmds ++ [c] ∧
        (s'.unit t.unit).board = (s.unit t.unit).board ++ ents.map (fun x => { cmd := c.id, ext := x.1, dest := x.2 }) ∧
        Due s' (s.now + 16) (.vxStart t.unit) ∧ s'.mem = s.mem ∧ s'.threads = s.threads))

/-- R342 to R346: what a vector command gives the destination for element `j`, from the values x, y and z that it reads of its streams; a
reduction or scan takes the element into its running value, as a sum, a minimum, a maximum or a maximum of magnitudes, VPACK and VUNPK count the
elements of a mask that hold. VLUT and VGATH give the table's entry that an index selects, and NaN (VLUT into an integer format 0) where it is out
of range; VSCAT gives an element to the position that its index selects, the last one given to a position wins, and an index out of range gives
none. VTOPK takes each element with its index into the order of R101, keeps the k highest, and gives D their codes and C their indices in that
order. -/
def Obligations.VectorElementValues : Prop :=
  ∀ (s : State) (c : Cmd) (v : Vx) (j : Nat) (st : State.VAcc) (x y z : FVal),
    s.vxElem c v 0 j = .ok x → s.vxElem c v 1 j = .ok y → s.vxElem c v 2 j = .ok z →
    let dn := v.e.rm == 2
    let op := Vx.op c.n
    let gives (f : Nat) (r : FVal) : Prop := v.f = f → s.vxStep c v j st = .ok (st, [(j, .val r)])
    let one := ofInt 1 0
    gives 0x00 (fAdd dn x y) ∧ gives 0x01 (fAdd dn x y.neg) ∧ gives 0x02 (fMul x y) ∧ gives 0x03 (fFma dn x y z) ∧ gives 0x04 (fMin x y) ∧
    gives 0x05 (fMax x y) ∧ gives 0x06 x.abs ∧ gives 0x07 x.neg ∧ gives 0x08 (fDiv one x) ∧ gives 0x09 (fRsq x) ∧ gives 0x0A (fExp2 x) ∧
    gives 0x0B (fLog2 x) ∧ gives 0x0D (if fcmpHolds (BitVec.ofNat 3 op) x y then one else ofInt 0 0) ∧
    gives 0x0E (if x.isNan ∨ ¬x.isZero then y else z) ∧ gives 0x0F x ∧ gives 0x10 (x.scale c.b.toInt) ∧
    gives 0x17 (ofInt (c.a.toInt + j * c.b.toInt) 0) ∧
    (v.f = 0x16 → s.vxStep c v j st = .ok (st, [(j, .code (c.a.toNat % 2 ^ fmtWidth v.e.fmt))])) ∧
    let acc := if j = 0 then (if op = 3 then x.abs else x)
      else if op = 0 then fAdd dn st.1 x else if op = 1 then fMin st.1 x else if op = 2 then fMax st.1 x else fMax st.1 x.abs
    (v.f = 0x12 → op ≤ 3 → s.vxStep c v j st = .ok ((acc, 0), [(j, .val acc)])) ∧
    (v.f = 0x11 → op ≤ 3 → s.vxStep c v j st = .ok ((acc, 0), if j + 1 = Vx.count c.n then [(0, .val acc)] else [])) ∧
    (v.f = 0x14 → State.indexIn c.c.toNat x = none → s.vxStep c v j st = .ok (st, [(j, .val .nan)])) ∧
    (v.f = 0x0C → State.indexIn c.c.toNat x = none →
      s.vxStep c v j st = .ok (st, [(j, .code (if isInt v.e.fmt then 0 else nanCode (fmtOf v.e.fmt)))])) ∧
    (∀ i b p, State.indexIn c.c.toNat x = some i → s.vxEntry c v i = .ok (b, p) →
      (v.f = 0x14 → s.vxStep c v j st = .ok (st, [(j, .val (b.elem p))])) ∧
      (v.f = 0x0C → s.vxStep c v j st = .ok (st, [(j, .code ((blockCode b.code b.b.data p).getD 0))]))) ∧
    (v.f = 0x15 → State.indexIn c.c.toNat y = none → s.vxStep c v j st = .ok (st, [])) ∧
    (∀ i, v.f = 0x15 → State.indexIn c.c.toNat y = some i →
      (s.readBlock (s.s1Pa c.ltag c.t.unit ((c.d.toNat + i * (fmtWidth v.e.fmt / 8)) / 64 * 64))).psn = [] →
      s.vxStep c v j st = .ok (st, [(i, .val x)])) ∧
    (∀ (es : List (Nat × Elem)) (i : Nat), mget (vxMap es) i = (es.reverse.find? fun e => e.1 == i).map (·.2)) ∧
    (∀ (b : Typed) (d : Option Half) (acc : List VxStep) (neg : Bool) (mant : Nat) (ex : Int), v.f = 0x13 →
      let w := fmtWidth v.e.sfmt / 8
      let va := c.a.toNat + j * Vx.stride c.n 0 * w
      let i := va % 64 / w
      let ranked (idx : Nat) : List VxStep × Option Half × Option Stop :=
        ((⟨.nan, 0, [], some ⟨b.elem i, idx, j, (blockCode b.code b.b.data i).getD 0⟩⟩ :: acc).reverse, some (d.getD b.b.desc), none)
      s.operandBlock c { num := 0, base := c.a.toNat, decl := v.e.sfmt, instr := v.e.fsrc, sparse := false } va = .ok b →
      v.e.fsrc = true ∨ d.getD b.b.desc = b.b.desc →
      (v.e.x = false → s.vxRank c v 1 j d acc = ranked ((c.b.toNat + j) % 2 ^ 32)) ∧
      (v.e.x = true → s.vxElem c v 1 j = .ok (.fin neg mant ex) → s.vxRank c v 1 j d acc = ranked ((if neg then 2 ^ 32 - mant else mant) % 2 ^ 32))) ∧
    (∀ (k : Nat) (e : Rank) (l : List Rank),
      Rank.insert k e l = ((l.takeWhile fun o => !e.above o) ++ e :: l.dropWhile fun o => !e.above o).take k) ∧
    (∀ p q : Rank, p.v.isNan = false → q.v.isNan = false → fLt q.v p.v = true → p.above q = true) ∧
    (∀ p q : Rank, p.v.isNan = false → q.v.isNan = true → p.above q = true ∧ q.above p = false) ∧
    (∀ p q : Rank, p.v = q.v → p.idx < q.idx → fLt p.v p.v = false → p.above q = true ∧ q.above p = false) ∧
    (∀ (steps : List VxStep) (d : Half), v.f = 0x13 → v.e.fsrc = false →
      let top := (steps.filterMap (·.rank)).foldl (fun l e => Rank.insert v.topK e l) []
      s.vxFull c v steps (some d) =
        ((List.range (ceilDiv v.topK (fmtCount v.e.fmt))).map
          (s.vxBlock c v (vxMap (top.zipIdx.map fun e => (e.2, .code e.1.code))) (some (outDesc d)))) ++ s.wordBlocks c c.c.toNat (top.map (·.idx))) ∧
    (v.f = 0x18 → y.isNan = false → y.isZero = true → s.vxStep c v j st = .ok (st, [])) ∧
    (v.f = 0x18 → y.isNan = false → y.isZero = false → s.vxStep c v j st = .ok ((st.1, st.2 + 1), [(st.2, .val x)])) ∧
    (v.f = 0x19 → y.isNan = false → y.isZero = true → s.vxStep c v j st = .ok (st, [(j, .val FVal.zero)]))

/-- R168, R171, R176, R158: VX_START and MX_START. The next command begins when its engine is free of the one before: what it computes is
fixed then; its consumed post comes when its last line or K-step has been read, its done post 12 or 20 cycles later; one that meets a fault
ends with ENGINE_FAULT instead. R156 to R160, R172, R389: CONSUMED_POST posts CSEM and frees the sources; DONE_POST writes the results, ends
the command and posts DSEM; ENGINE_FAULT ends it with FAULT and writes the record of its cause. That all sources are read in one step, and all
results written in one, is log entry 15 (DEDUCED). Accesses that reached the banks of its operands before go first, three cycles of them at the
most (R109; log entry 63). A command waits for the end of the one
issued before it to its engine. -/
def Obligations.EnginesRun : Prop :=
  (∀ (s : State) (u : Nat) (c : Cmd), s.cmd? u c.id = some c → s.stopping c.ltag u = false →
     (s.yields c false = true → (∃ v, vxOf c.ins = some v) → s.vxNext u = some c → c.issued + 16 ≤ s.now → (s.unit u).vxFree ≤ s.now →
       exec (.vxStart u) s = .next ((s.onCmd c.t.unit c.id fun d => { d with tries := d.tries + 1 }).sched 1 (rankEng c.t.unit c.eng) (.vxStart u))) ∧
     (∀ v, s.yields c false = false → vxOf c.ins = some v → s.vxNext u = some c → c.issued + 16 ≤ s.now → (s.unit u).vxFree ≤ s.now →
       let q := s.vxRead c v
       let b := { c with read := q.1 }
       let r := s.vxResult b v q.2
       let lines := v.lines c.n c.c - v.lineOf c.n b.vxSince
       let begun (e : Nat) : Cmd := { b with start := some s.now, first := s.now, doneAt := s.now + e + 12, res := some r }
       ∃ w, exec (.vxStart u) s = .next w ∧ w.mem = s.mem ∧ w.threads = s.threads ∧
         (q.2 = none → r.fault = none ∧ w.cmd? u c.id = some (begun lines) ∧ (w.unit u).vxFree = s.now + lines ∧
           Due w (s.now + lines) (.consumedPost u c.id) ∧ Due w (s.now + lines + 12) (.donePost u c.id)) ∧
         (q.2 ≠ none → w.cmd? u c.id = some (begun (r.steps + 1)) ∧ Due w (s.now + r.steps + 13) (.engineFault u c.id))) ∧
     (∀ m subs, mxOf c.ins = some m → m.latch = false → m.fwd = false → s.mxStalled u = none → s.mxNext u = some c → s.tileHeld u c m = false →
       s.mxSubs u m = some subs → s.yields c false = false →
       let s' := s.onCmd u c.id fun _ => { c with start := some s.now, subs := subs }
       let b := { c with start := some s.now, subs := subs, first := s.now + 14, latch := none, waits := none,
                         read := s'.mxFetch { c with start := some s.now, subs := subs } m none }
       let r := s'.mxRun b m none
       let begun (due : Nat) : Cmd := { b with doneAt := s.now + 14 + due, res := some r.1 }
       ∃ w, exec (.mxStart u) s = .next w ∧ w.mem = s.mem ∧ w.threads = s.threads ∧
         (r.1.fault = none → w.cmd? u c.id = some (begun (r.2 + 20)) ∧ Due w (s.now + 14 + r.2 + 20) (.donePost u c.id) ∧
           (c.csem.isSome ∨ m.f ≤ 2 → Due w (s.now + 14 + r.2) (.consumedPost u c.id))) ∧
         (r.1.fault ≠ none → let d := r.1.steps + if m.f = 2 then 20 else 21
           w.cmd? u c.id = some (begun d) ∧ Due w (s.now + 14 + d) (.engineFault u c.id)))) ∧
  (∀ (s : State) (u : Nat) (c : Cmd) (cs ds : BitVec 3), s.Sound → s.cmd? u c.id = some c → c.t.unit = u → c.cancelled = false → c.latch = none →
     c.csem = some cs → c.dsem = some ds → ((s.unit u).mrings.find? fun m => m.1 == c.id) = none →
     let gone (w : State) : Prop := w.cmd? u c.id = none ∧ ∀ b ∈ (w.unit u).board, b.cmd ≠ c.id
     (c.consumed = false → ∃ w, exec (.consumedPost u c.id) s = .next w ∧ Posted s w ⟨c.t, cs, 1⟩ 1 0 ∧ w.mem = s.mem ∧
       w.cmd? u c.id = some { c with consumed := true } ∧ ∀ b ∈ (w.unit u).board, b.cmd = c.id → b.dest = true) ∧
     let held : Prop := s.prior u c = true ∨ (c.eng = .mx ∧ (s.unit u).mxPost = s.now + 1)
     (held → exec (.engineFault u c.id) s = .next (s.sched 1 (rankEng u c.eng) (.engineFault u c.id))) ∧
     (∀ r, held → c.res = some r → c.applied = true → exec (.donePost u c.id) s = .next (s.sched 1 (rankEng u c.eng) (.donePost u c.id))) ∧
     (∀ r, c.applied = false → c.res = some r → s.yields c true = true →
       exec (.donePost u c.id) s = .next ((s.onCmd u c.id fun d => { d with tries := d.tries + 1 }).sched 1 (rankEng u c.eng) (.donePost u c.id))) ∧
     (∀ r b, c.applied = false → s.yields c true = false → c.res = some r → r.blocks = [b] → b.mask = [] → b.data.length = 64 →
       ∃ w, exec (.donePost u c.id) s = .next w ∧ BlockBecomes s w b.pa b.data b.desc ∧
         (held → Due w (s.now + 1) (.donePost u c.id) ∧ ∃ d, w.cmd? u c.id = some d ∧ d.applied = true) ∧
         (¬held → c.consumed = true → Posted s w ⟨c.t, ds, 1⟩ 1 0 ∧ gone w)) ∧
     (∀ r f, ¬held → s.yields c true = false → c.stopAt = none → c.consumed = true → c.res = some r → r.fault = some f → r.restart = none → r.blocks = [] →
       ∃ w, exec (.engineFault u c.id) s = .next w ∧ Posted s w ⟨c.t, ds, 1⟩ 1 1 ∧ gone w ∧ w.mem = s.mem ∧
         Recorded s w { cls := 3, scope := 1, cause := f.cause, ltag := c.ltag, gang := c.gang, crew := c.crew, tid := c.tid, slot := c.t.slot,
                        unit := u, agent := engAgent c.eng, pc := c.pc, va := f.va, pa := f.pa, detail := f.detail }))

/-- R96, R99, R349: what a whole MMA or MMAS in binary32 leaves in a tile: each element of the accumulator takes its products, summed
exactly within a group and rounded once for each group, and an absent element of a sparse operand counts as a product of zero in MMAS. R327,
R350, R353 to R355: the matrix commands issue as the vector ones do, and their engine looks at them at once; MSTAT returns the state of a
slab eight cycles later, and is illegal for a second slab that the unit does not have; MRING acts two cycles after its issue; both wait for
earlier stores. R22, R173, R174, R354, R355: a forwarded B fills the latch slot that has been free longest and leaves the other; an MRING,
as it acts, frees both slots and cancels the commands that read one; a command that has waited the limit of the ring without its first
K-step ends with the cause of the ring's time-out; MSTAT's value is read when it returns. -/
def Obligations.MatrixCommands : Prop :=
  (∀ (s : State) (c : Cmd) (m : Mx) (a b : MxSrc) (slab t r0 c0 i : Nat), m.e.x = false → i < 1024 →
     m.steps (Mx.kOf c.n) ≠ 0 →
     let k := Mx.kOf c.n
     let n := m.steps k
     let f (q : Nat) : FVal :=
       if m.f = 1 ∧ (a.has (64 / m.wA) (r0 + i / 32) q = false ∨ b.has (64 / m.wB) (c0 + i % 32) q = false) then FVal.zero
       else fMul (a.val (64 / m.wA) (r0 + i / 32) q) (b.val (64 / m.wB) (c0 + i % 32) q)
     let idx := tileIdx slab m.bank t
     ∃ w ∈ s.mmaTile c m a b slab n true (t, r0, c0), w.idx = (s.tileOf c.t.unit idx).idx ∧
       w.at i = acc32 f m.group k ((s.tileOf c.t.unit idx).at i) n) ∧
  (∀ (s : State) (t : Thread) (e : Ext) (i : Instr) (m : Mx), Issues s t → mxOf i = some m →
     (i ∈ [.mma e, .mmas e, .mald e, .mast e, .maz e] →
       let c := s.newCmd t .mx i e true
       let rs := s.mxRanges t.unit c m
       let ents := rs.map fun r => ((s.s1Range t r.1 r.2.1).getD [], r.2.2)
       let legal : Prop := State.mxParamsOk c m = true
       let fits : Prop := ∀ r ∈ rs, r.1 % 64 = 0 ∧ (s.s1Range t r.1 r.2.1).isSome = true
       (¬legal → Faults i s t (infoOf 1 3 0 0) 0) ∧
       (legal → ¬fits → ∃ r ∈ rs, Faults i s t (infoVa 3 (wd r.1) false 0) (wd r.1)) ∧
       (legal → fits → s.engObstacle t .mx ents = none → ∃ s', Completes i s s' t e.sm (t.pc + 12) ∧
         (s'.unit t.unit).cmds = (s.unit t.unit).cmds ++ [c] ∧
         (s'.unit t.unit).board = (s.unit t.unit).board ++ ents.map (fun x => { cmd := c.id, ext := x.1, dest := x.2 }) ∧
         Due s' s.now (.mxStart t.unit) ∧ s'.mem = s.mem ∧ s'.threads = s.threads)) ∧
     (e.sh 0 1 = 1 → s.ganged t.unit = false → Faults (.mstat e) s t (infoOf 1 3 0 2) 0) ∧
     (e.sh 0 1 ≠ 1 ∨ s.ganged t.unit = true → t.out.any (·.store) = true → exec (.mstat e) s = .next (s.park t .stores)) ∧
     (t.out.any (·.store) = true → exec (.mring e) s = .next (s.park t .stores)) ∧
     (e.sh 0 1 ≠ 1 ∨ s.ganged t.unit = true → t.out.any (·.store) = false → t.rb.length ≠ 8 →
       TakesEntry (.mstat e) s ((s.onUnit t.unit fun u => { u with mstats := (t.ref, t.nextId, e.sh 0 1) :: u.mstats }).sched 8 rankLate
         (.resultReturn t.ref t.nextId [])) t e.sm [e.d] (t.pc + 12)) ∧
     (t.out.any (·.store) = false → ∃ s', Completes (.mring e) s s' t e.sm (t.pc + 12) ∧ Due s' (s.now + 2) (.donePost t.unit s.nextId) ∧
       (s'.unit t.unit).mrings = (s.nextId, ⟨t.ref, e.dsem, 1⟩) :: (s.unit t.unit).mrings)) ∧
  (∀ (s : State) (u id : Nat) (img : RingImage),
     (let later : Prop := (s.unit u).latch1.st = .free ∧ (s.unit u).latch1.order < (s.unit u).latch0.order
      ∃ w, exec (.ringBArrive u img) s = .next w ∧ w.mem = s.mem ∧ w.threads = s.threads ∧
       ((s.unit u).latch0.st = .free → ¬later → (w.unit u).latch0 = { st := .filling, img := some img, order := s.now } ∧
         (w.unit u).latch1 = (s.unit u).latch1) ∧
       ((s.unit u).latch0.st ≠ .free ∨ later → (s.unit u).latch1.st = .free →
         (w.unit u).latch1 = { st := .filling, img := some img, order := s.now } ∧ (w.unit u).latch0 = (s.unit u).latch0)) ∧
     (∀ c, s.cmd? u id = some c → c.res = none → c.cancelled = false → s.stopping c.ltag u = false →
       ∃ w f, exec (.ringTimeout u id) s = .next w ∧ Due w s.now (.engineFault u id) ∧ f.cause = 0x022 ∧
         f.detail = wd ((s.unit u).latchBits s.now) ∧ (∃ r, r.fault = some f ∧ r.blocks = [] ∧ r.tiles = [] ∧
           w.cmd? u id = some { c with doneAt := s.now, res := some r })) ∧
     (∀ p, s.Sound → (s.unit u).mrings.find? (fun m => m.1 == id) = some (id, p) →
       ∃ w, exec (.donePost u id) s = .next w ∧ Posted s w p 1 0 ∧ (∀ m ∈ (w.unit u).mrings, m.1 ≠ id) ∧
         (w.unit u).latch0 = { LatchSlot.reset with order := s.now + 1 } ∧ (w.unit u).latch1 = { LatchSlot.reset with order := s.now + 1 } ∧
         ∀ c, s.cmd? u c.id = some c → c.eng = .mx → c.latch ≠ none → c.consumed = false → c.res ≠ none →
           ∃ d, w.cmd? u c.id = some d ∧ d.cancelled = true ∧ d.latch = none ∧ d.stopAt ≠ none) ∧
     (∀ r t slab d, r.unit = u → (s.unit u).mstats.find? (fun m => m.1 == r && m.2.1 == id) = some (r, id, slab) → s.ref? r = some t →
       t.rb = [{ id := id, dests := [d], dead := [], vals := none, remote := false, pc := t.pc, va := 0, pa := 0 }] → t.st = .ready →
       t.former = [] → t.fpq = [] → (∀ x, t.twin = some x → x.fpq = []) → t.ref = r → s.sallocOf r id = none →
       ∃ w, exec (.resultReturn r id []) s = .next w ∧ w.ref? r =
         let v : Val := ⟨(s.unit u).mstat s.now slab, none⟩
         some { t with rb := [{ id := id, dests := [d], dead := [], vals := some [v], remote := false, pc := t.pc, va := 0, pa := 0 }] }))

/-- R165, R331, R332: TMV with a field out of its rule is illegal; a misaligned operand, an overlap, or two remote operands take the address
trap; else it joins its engine, unless something parks it. Each TMV_BLOCK_DONE moves one block with its descriptor and changes no other part
of memory, once the banks of both are free (R109; log entry 63); the last ends the command. -/
def Obligations.TileMoves : Prop :=
  ∀ (s : State) (t : Thread) (e : Ext), Issues s t →
    let i : Instr := .tmv e
    let n := t.rd e.n
    let rows := bits n 0 12 + 1
    let rb := 64 * (bits n 12 10 + 1)
    let ss := bits (t.rd e.c) 0 32
    let ds := bits (t.rd e.c) 32 32
    let a := (t.rd e.a).toNat
    let d := (t.rd e.d).toNat
    let legal : Prop := bits n 22 42 = 0 ∧ ss % 64 = 0 ∧ ds % 64 = 0 ∧ (1 < rows → rb ≤ ss ∧ rb ≤ ds)
    let apart : Prop := a / 2 ^ 60 = d / 2 ^ 60 → meets a ((rows - 1) * ss + rb) d ((rows - 1) * ds + rb) = false
    (¬legal → Faults i s t (infoOf 1 3 0 0) 0) ∧
    (legal → a % 64 ≠ 0 → Faults i s t (infoVa 3 (wd a) false 0) (wd a)) ∧
    (legal → a % 64 = 0 → d % 64 ≠ 0 ∨ ¬apart → Faults i s t (infoVa 3 (wd d) false 0) (wd d)) ∧
    (∀ sp dp, legal → a % 64 = 0 → d % 64 = 0 → apart → s.tileTrans t .read (tilePieces a ss rb rows) 0 [] = .inr sp →
      s.tileTrans t .write (tilePieces d ds rb rows) 0 [] = .inr dp →
      let sx := s.rangeExtent t a ((rows - 1) * ss + rb)
      let dx := s.rangeExtent t d ((rows - 1) * ds + rb)
      (s.tileRemote sp = true → s.tileRemote dp = true → Faults i s t (infoVa 3 (wd d) false 0) (wd d)) ∧
      (s.tileRemote sp = false → s.tileRemote dp = false → (∀ o ∈ t.out, o.store = false) → (s.unit t.unit).queued .tmv < queueSize .tmv →
        s.boardHolds t.unit sx false = false → s.boardHolds t.unit dx true = false → (s.unit t.unit).board.length ≤ 62 →
        s.markHolds t.unit (sx ++ dx) = false →
        ∃ s', Completes i s s' t e.sm (t.pc + 12) ∧ (∃ c, (s'.unit t.unit).cmds = (s.unit t.unit).cmds ++ [c] ∧ c.src = sp ∧ c.dst = dp ∧ c.next = 0 ∧
          Due s' (s.now + s.returnAfter t.unit (State.tileBlock sp 0 % 2 ^ 40)) (.tmvBlockDone t.unit c.id)))) ∧
    (∀ u c, s.Sound → s.cmd? u c.id = some c → c.cancelled = false → c.waiting = false → s.stopping c.ltag u = false → c.eng = .tmv →
      let o := State.tileBlock c.src c.next
      let q := State.tileBlock c.dst c.next
      (c.next < State.tileBlocks c.dst → o / 2 ^ 40 = s.devid → s.hbmWaits (o % 2 ^ 40) = true ∨ s.bankFree (o % 2 ^ 40) = false →
        exec (.tmvBlockDone u c.id) s = .next ((s.engWaitsAt (o % 2 ^ 40)).sched 1 1 (.tmvBlockDone u c.id))) ∧
      (c.next < State.tileBlocks c.dst → o / 2 ^ 40 = s.devid → q / 2 ^ 40 = s.devid → State.tileMirrorOf c c.next = none →
        s.hbmWaits (o % 2 ^ 40) = false → s.hbmWaits (q % 2 ^ 40) = false → s.bankFree (o % 2 ^ 40) = true → s.bankFree (q % 2 ^ 40) = true →
        s.bankOf (o % 2 ^ 40) ≠ s.bankOf (q % 2 ^ 40) → (s.readBlock (o % 2 ^ 40)).psn = [] →
        ∃ w, exec (.tmvBlockDone u c.id) s = .next w ∧
          BlockBecomes s w (q % 2 ^ 40) (rdBytes s.mem (o % 2 ^ 40 / 64 * 64) 64) (s.descOf (o % 2 ^ 40)) ∧
          (c.next + 1 < State.tileBlocks c.dst →
            w.cmd? u c.id = some { c with next := c.next + 1, consumed := c.consumed || c.next + 1 == State.tileBlocks c.src, inHand := none } ∧
            Due w (s.now + if c.next % 4 = 3 then 1 else 0) (.tmvBlockDone u c.id) ∧
            (∀ p, c.next + 1 = State.tileBlocks c.src → c.csem = some p → c.consumed = false → Posted s w ⟨c.t, p, 1⟩ 1 0)) ∧
          (∀ ps x, State.tileBlocks c.dst ≤ c.next + 1 → c.dsem = some ps → s.ref? c.t = some x → w.cmd? u c.id = none ∧
            w.ref? c.t = some ((match if c.consumed then none else c.csem with
              | some p => x.post s.now p 1 1 0
              | none => x).post s.now ps 1 1 0))) ∧
      (∀ ps, State.tileBlocks c.dst ≤ c.next → c.consumed = true → c.dsem = some ps → ∃ w, exec (.tmvBlockDone u c.id) s = .next w ∧
        Posted s w ⟨c.t, ps, 1⟩ 1 0 ∧ w.cmd? u c.id = none ∧ w.mem = s.mem))

/-- R161 to R163, R333 to R337: CXTPL sets a template from an image of region 0x1 that keeps its rules, and is illegal for one that does
not; CXGO starts a copy of a valid template on an idle channel, its watermark at the first row; CXWM gives an idle channel a range, with
CHBASE and CHLIM as its operands and CHWM at CHLIM; CXSTOP returns the watermark, after 12 cycles (R337 gives no time: log entry 82, DESIGN
CHOICE), and stops a running channel; CXRST leaves a channel idle with its watermark at CHBASE. A source in the register space is an address fault
at issue (R414). A start waits for what holds its ranges, and on a running channel it is queued; CXSTOP waits for
a block in flight. R162, R164, R335, R389: CX_BLOCK_WRITE writes the next block of the running copy, with the source's descriptor, the
template's or the destination's own by DMODE, changes no other part of memory, and moves the watermark to the block after it, once the banks of
both are free (R109; log entry 63), and the latency of its source's level has passed (R176); the copy's
last block leaves the channel idle with its watermark at CHLIM. An operand that its checks refuse stops the channel, with FAULT posted and a
record written. -/
def Obligations.CopiesRun : Prop :=
  (∀ (s : State) (t : Thread) (e : Ext), Issues s t → (∀ o ∈ t.out, o.store = false) →
     let va := t.rd e.a
     let ch := chanKey t.ltag (e.sh 0 6)
     let x := s.chan t.unit ch
     let waits : Bool := x.st == .run && x.cur.any (·.waiting)
     let y := t.rd e.b
     let next := t.pc + 12
     (bits va 60 4 ≠ 1 → Faults (.cxtpl e) s t (infoVa 3 va false 0) va) ∧
     (∀ pa r, bits va 60 4 = 1 → s.check t .load 64 false va = .ok (.here pa) r → s.stall t (.here pa) 64 false false false = none →
       (s.readBlock pa).psn = [] →
       let dws := (List.range 8).map fun k => leWord (rdBytes s.mem (pa / 64 * 64 + 8 * k) 8)
       (Tmpl.ok dws = false → Faults (.cxtpl e) s t (infoOf 1 3 0 0) 0) ∧
       (Tmpl.ok dws = true → ∃ s', Completes (.cxtpl e) s s' { t with eligRound := max t.eligRound (s.round + 4) } e.sm next ∧
         s'.tmpl t.unit (tmplKey t.ltag (e.sh 0 8)) = dws.set 6 (dws.getD 6 0 ||| 0x80000000) ∧
         (∀ k, k ≠ tmplKey t.ltag (e.sh 0 8) → s'.tmpl t.unit k = s.tmpl t.unit k) ∧ s'.mem = s.mem)) ∧
     (∀ tm g, tm = s.tmpl t.unit (tmplKey t.ltag (bits va 0 8)) → g = chanKey t.ltag (Tmpl.chan tm) →
       (s.startRefused t g va = true → Faults (.cxgo e) s t (infoOf 1 3 0 0) 0) ∧
       (s.startRefused t g va = false → s.copyInRegs t va = true → Faults (.cxgo e) s t (infoVa 3 (wd (Tmpl.src tm)) false 0) (wd (Tmpl.src tm))) ∧
       (∀ w, s.startRefused t g va = false → s.copyInRegs t va = false → s.startHold t g va = some w → exec (.cxgo e) s = .next (s.park t w)) ∧
       (s.startRefused t g va = false → s.copyInRegs t va = false → s.startHold t g va = none → (s.chan t.unit g).halt = false →
         ∃ s' c, Completes (.cxgo e) s s' t e.sm next ∧ c.tmpl = tm ∧ c.repeats = bits va 8 16 + 1 ∧ c.t = t.ref ∧ c.next = 0 ∧
           ((s.chan t.unit g).st = .idle → Due s' (s.now + s.copyDelay t.unit c) (.cxBlockWrite t.unit g) ∧ c.timed = (s.copyLead t.unit c).isSome ∧
             s'.chan t.unit g =
               { s.chan t.unit g with st := .run, held := none, cur := some c, wm := (s.chan t.unit g).base + wd (Tmpl.doff tm) }) ∧
           ((s.chan t.unit g).st = .run → s'.chan t.unit g = { s.chan t.unit g with queue := (s.chan t.unit g).queue ++ [c] }))) ∧
     (x.st ≠ .idle → Faults (.cxwm e) s t (infoOf 1 3 0 0) 0) ∧
     (x.st = .idle → va.toNat % 64 ≠ 0 ∨ y.toNat % 64 ≠ 0 ∨ y.toNat ≤ va.toNat ∨
         (s.vaExtent t.ltag t.unit va.toNat (y.toNat - va.toNat)).isNone = true →
       Faults (.cxwm e) s t (infoVa 3 va false 0) va) ∧
     (x.st = .idle → va.toNat % 64 = 0 → y.toNat % 64 = 0 → va.toNat < y.toNat →
       (s.vaExtent t.ltag t.unit va.toNat (y.toNat - va.toNat)).isSome = true →
       Completes (.cxwm e) s (s.setChan t.unit ch { x with ltag := t.ltag, base := va, lim := y, wm := y }) t e.sm next) ∧
     (t.rb.length ≠ 8 → waits = false → TakesEntry (.cxstop e) s
       ((s.setChan t.unit ch { x with st := if x.st = .run then .stopped else x.st }).sched 12 rankLate
         (.resultReturn t.ref t.nextId [⟨x.wm, none⟩])) t e.sm [e.d] next) ∧
     (t.rb.length ≠ 8 → waits = true → TakesEntry (.cxstop e) s
       (s.setChan t.unit ch { x with halt := true, stops := x.stops ++ [(t.ref, t.nextId)] }) t e.sm [e.d] next) ∧
     (x.cur = none → x.queue = [] → x.halt = false → s.ref? t.ref = some t →
       Completes (.cxrst e) s (s.setChan t.unit ch { x with st := .idle, held := none, cur := none, queue := [], wm := x.base }) t e.sm next) ∧
     (∀ c p, x.cur = some c → x.queue = [] → x.halt = false → c.dsem = some p →
       let s' := (s.setChan t.unit ch { x with st := .idle, held := none, cur := none, queue := [], wm := x.base }).post ⟨c.t, p, 1⟩ 1 5
       ∀ t', s'.ref? t.ref = some t' → Completes (.cxrst e) s s' t' e.sm (t'.pc + 12))) ∧
  (∀ (s : State) (u ch : Nat) (c : Copy), s.Sound →
     let x := s.chan u ch
     let g := s.ghost c.ltag c.gang c.crew c.tid u
     let sva := Tmpl.srcOf c.tmpl c.next
     let dva := x.base + wd (Tmpl.dstOff c.tmpl c.next)
     x.st = .run → x.cur = some c → c.cancelled = false → c.waiting = false → x.halt = false →
     (∀ dpa pa m m', s.engPlace g .write dva = .here dpa m → s.engPlace g .read sva = .here pa m' → c.timed = false →
       exec (.cxBlockWrite u ch) s =
         .next ((s.setChan u ch { x with cur := some { c with timed := true } }).sched (s.returnAfter u pa) (rankCx u) (.cxBlockWrite u ch))) ∧
     (∀ dpa pa m m', s.engPlace g .write dva = .here dpa m → s.engPlace g .read sva = .here pa m' → c.timed = true →
       s.hbmWaits pa = true ∨ s.bankFree pa = false → exec (.cxBlockWrite u ch) s = .next ((s.engWaitsAt pa).sched 1 1 (.cxBlockWrite u ch))) ∧
     (∀ dpa pa m, s.engPlace g .write dva = .here dpa none → s.engPlace g .read sva = .here pa m → c.timed = true → s.hbmWaits dpa = false →
       s.hbmWaits pa = false → s.bankFree dpa = true → s.bankFree pa = true → s.bankOf pa ≠ s.bankOf dpa → (s.readBlock pa).psn = [] →
       ∃ w, exec (.cxBlockWrite u ch) s = .next w ∧
         BlockBecomes s w dpa (rdBytes s.mem (pa / 64 * 64) 64)
           (if Tmpl.dmode c.tmpl = 0 then s.descOf pa else if Tmpl.dmode c.tmpl = 1 then Tmpl.ddesc c.tmpl else s.descOf dpa) ∧
         (c.next + 1 < c.repeats * Tmpl.blocks c.tmpl → w.chan u ch =
           { x with cur := some { c with next := c.next + 1, inHand := none }, wm := x.base + wd (Tmpl.dstOff c.tmpl (c.next + 1)) } ∧
           Due w (s.now + if (c.next + 1) % 4 = 0 then 1 else 0) (.cxBlockWrite u ch)) ∧
         (c.repeats * Tmpl.blocks c.tmpl ≤ c.next + 1 → x.queue = [] → w.chan u ch = { x with st := .idle, cur := none, wm := x.lim } ∧
           ∀ p, c.dsem = some p → Posted s w ⟨c.t, p, 1⟩ 1 0)) ∧
     (∀ cause, s.engPlace g .write dva = .bad cause → ∃ w, exec (.cxBlockWrite u ch) s = .next w ∧ w.mem = s.mem ∧
       w.chan u ch = { x with st := .stopped, cur := none } ∧ (∀ p, c.dsem = some p → Posted s w ⟨c.t, p, 1⟩ 1 1) ∧
       Recorded s w { cls := 3, scope := 1, cause := 0x021, ltag := c.ltag, gang := c.gang, crew := c.crew, tid := c.tid, slot := c.t.slot,
                      unit := u, agent := 3, pc := c.pc, va := dva, pa := s.namedPa g dva, detail := wd cause }))


/-! ## The debugger, pairs, the dispatcher and pre-emption -/
/-- R75, R76, R325: DEBUG_HALT halts a thread at its instruction boundary, with what it waited for kept; one with local results outstanding
halts at its switch point. DEBUG_RESUME lets a halted thread go on, or wait again; DEBUG_WRITE writes the one register that it names, in the
primary of a pair alone: the twin keeps the value that it has (R320); DEBUG_END ends a halted thread. -/
def Obligations.DebuggerEvents : Prop :=
  ∀ (s : State) (r : ThreadRef) (t : Thread) (v : Word), s.ref? r = some t →
    let halted (h : Option WaitFor) : Thread := { t with st := .halted, haltReq := false, held := h }
    (t.rb = [] → t.out = [] → (t.st = .ready → ∃ u, exec (.debugHalt r) s = .next u ∧ u.thread? t.unit t.slot = some (halted none)) ∧
      (∀ w, t.st = .parked w → w ≠ .switch → ∃ u, exec (.debugHalt r) s = .next u ∧ u.thread? t.unit t.slot = some (halted (some w)))) ∧
    (t.st = .ready → t.out ≠ [] → ∃ u n, exec (.debugHalt r) s = .next u ∧
      u.thread? t.unit t.slot = some { t with st := .parked .switch, haltReq := true, parkSeq := n }) ∧
    (∀ w, t.st = .parked w → t.out ≠ [] → ∃ u, exec (.debugHalt r) s = .next u ∧ u.thread? t.unit t.slot = some { t with haltReq := true }) ∧
    (t.st = .halted → ∃ u, exec (.debugHalt r) s = .next u ∧ u.thread? t.unit t.slot = some { t with haltReq := false }) ∧
    (t.st = .halted → t.held = none →
      exec (.debugResume r) s = .next (put s { t with st := .ready, eligRound := max t.eligRound (s.round + 1) })) ∧
    (∀ w, t.st = .halted → t.held = some w → w ≠ .switch →
      exec (.debugResume r) s = .next (put s { t with st := .parked w, held := none, eligRound := max t.eligRound (s.round + 1) })) ∧
    (t.st = .halted → t.held = some .switch → t.complete = false →
      exec (.debugResume r) s = .next (put s { t with st := .parked .switch, held := none, eligRound := max t.eligRound (s.round + 1) })) ∧
    (t.st ≠ .halted → exec (.debugResume r) s = .next (put s { t with haltReq := false })) ∧
    (t.st = .halted → ∃ u, exec (.debugEnd r) s = .next u ∧ u.thread? t.unit t.slot = none) ∧
    (∀ o, ∃ w, exec (.debugWrite r (.operand o) v) s = .next (put s w) ∧
      (∀ x, w.rd x = if x = .k0 then 0 else if x = o then v else t.rd x) ∧ w.pc = t.pc ∧ w.q = t.q ∧ w.sems = t.sems) ∧
    let writes (d : DebugReg) (u : Thread) : Prop := ∃ w, exec (.debugWrite r d v) s = .next (put s w) ∧
      w = { u with par := u.par.filter (· != d), twin := w.twin } ∧ (t.twin = none → w.twin = none)
    (∀ i, writes (.q i) { t with q := nset t.q i.toNat v }) ∧
    (∀ i, writes (.sem i) { t with sems := vset t.sems i (v.setWidth 16) }) ∧
    (∀ (i : BitVec 2) (x : Twin), t.twin = some x → t.depth < 65536 → rising x.own = true →
      let key := 2 ^ 32 + 16 + i.toNat
      let old := (mget x.own key).getD (nget t.q i.toNat 0)
      ∃ w y, exec (.debugWrite r (.q i) v) s = .next (put s w) ∧ w.twin = some y ∧ y.fp = x.fp ∧
        mget y.own key = (if old = v then none else some old) ∧ ∀ k, k ≠ key → mget y.own k = mget x.own k) ∧
    exec (.debugWrite r .pc v) s = .next (put s { t with pc := v }) ∧
    (∀ n : BitVec 7, n.toNat < 0x40 → writes (.special n) (t.setSpecial s.now n.toNat v)) ∧
    (∀ n : BitVec 7, 0x40 ≤ n.toNat → exec (.debugWrite r (.special n) v) s = .next (s.setUnit t.unit ((s.unit t.unit).setSpecial n.toNat v))) ∧
    writes (.special 0x0A) { t with trapvec := v &&& ~~~3 }

/-- R376, R377: at an exchange equal fingerprints let the pair go on; a mismatch restarts the open region with a record of cause 0x202, and
without one ends the thread with cause 0x203; a twin whose mill is gone is given up with a record of cause 0x204. -/
def Obligations.FingerprintsCompare : Prop :=
  ∀ (s : State) (r : ThreadRef) (t : Thread) (w : Twin), s.ref? r = some t → t.twin = some w → t.st = .parked (.event false) →
    let i : Instr := .fingerprintExchange r
    let gone : Prop := s.present w.unit = false ∨ (s.unit w.unit).retired = true
    let woken (x : Thread) : Thread := { x with st := .ready, eligRound := max t.eligRound (s.round + 1) }
    (¬gone → t.fp = w.fp →
      exec i s = .next (put s (woken { t with fp := 0, retired := 0, twin := some { w with fp := 0 }, exchanged := true, mismatch := none }))) ∧
    (¬gone → t.fp ≠ w.fp → t.inrgn = false ∨ t.mismatch = some t.pc → ∃ u, exec i s = .next u ∧ u.thread? t.unit t.slot = none ∧
      Recorded s u { State.recOf t 3 2 0x203 with va := 0, detail := 0, pc := t.pc }) ∧
    (¬gone → t.fp ≠ w.fp → t.inrgn = true → t.parity (.special 0x0F) = none → t.parity (.special 0x10) = none → t.mismatch ≠ some t.pc → t.restarts < 3 → t.depth = t.rgnwd.toNat → 0 < t.res →
      ∃ u x, exec i s = .next u ∧ u.thread? t.unit t.slot = some x ∧ x.pc = t.rgnpc ∧ x.skipc = 0 ∧ x.restarts = t.restarts + 1 ∧
        x.mismatch = some t.pc ∧ x.st = .ready ∧ (∀ o, x.rd o = t.rd o) ∧
        Recorded s u { State.recOf t 2 2 0x202 with detail := 0, restarts := t.restarts + 1 }) ∧
    (gone → ∃ u, exec i s = .next u ∧ u.thread? t.unit t.slot = some (woken { t with twin := none }) ∧
      Recorded s u { State.recOf t 4 4 0x204 with unit := w.unit })

/-- R8, R29, R30, R54: a write of LPREC7 puts the record at the end of its port's queue, or, with 64 queued, drops it, sets OVF and counts it
to at most 255, once the host's earlier writes have acted (R155); a read of LPSTAT answers the register and clears the count, and one that BAR
0 does not take is an unsupported request: that power state D3hot refuses it, and the bit of the AER register that it sets, are log entry 66
(PRESUMED). A write of LPCQH or LPCQB takes effect, and a held completion entry is then written at LPCQT once the ring takes it, and no other
part of memory changes. R31, R33, R35, R36, R38, R54: the check of a port's head record, whose tables are read once, at that check (log entry
44, DEDUCED), when no lane test and no access that came before holds them (R109, R398); what is poisoned there is reported (R397). A record
with a refusal code leaves the queue, and its completion entry has STATUS 1 and that code; one whose dependences are not met waits; one whose
gangs all find windows becomes an active launch whose crews start when their segments have been zeroed; one that does not fit backs off, and
BACKOFF_EXPIRY makes another pass. -/
def Obligations.LaunchPorts : Prop :=
  (∀ (s : State) (p : Nat) (v : Word), p < 8 → s.Sound →
     let q := s.lport p
     let others (u : State) : Prop := ∀ k, k < 8 → k ≠ p → u.lport k = s.lport k
     let rings (i : Instr) (cqb : Word) (cqh : Nat) : Prop :=
       (s.hostWaits = true → exec i s = .next (s.sched 1 1 i)) ∧
       (s.hostWaits = false → q.held = [] → ∃ u, exec i s = .next u ∧ u.lport p = { q with cqb := cqb, cqh := cqh } ∧ others u ∧ u.mem = s.mem) ∧
       (∀ ws, s.hostWaits = false → q.held = [(ws, none)] → ws.length = 8 → cqb.getLsbD 0 = true → (q.cqt + 1) % q.cqn ≠ cqh % q.cqn →
         let a := cqb.toNat / 64 * 64 + 64 * q.cqt
         s.chanHeld a = false → s.waitsOn [(a, 64)] = false →
         ∃ u, exec i s = .next u ∧ u.lport p = { q with cqb := cqb, cqh := cqh, held := [], cqt := (q.cqt + 1) % q.cqn } ∧ others u ∧
           (∀ k, k < 8 → leNat (rdBytes u.mem (a + 8 * k) 8) = (ws.getD k 0).toNat) ∧ ∀ b, b < a ∨ a + 64 ≤ b → byteAt u b = byteAt s b)
     (s.hostWaits = true → exec (.launchRecordCommit p v) s = .next (s.sched 1 1 (.launchRecordCommit p v))) ∧
     (s.hostWaits = false → q.queue.length < 64 → ∃ u, exec (.launchRecordCommit p v) s = .next u ∧ others u ∧ u.mem = s.mem ∧
       u.lport p = { q with win := nset q.win 7 v, queue := q.queue ++ [⟨nset q.win 7 v, true⟩] }) ∧
     (s.hostWaits = false → 64 ≤ q.queue.length → ∃ u, exec (.launchRecordCommit p v) s = .next u ∧ others u ∧
         (u.lport p).queue = q.queue ∧ (u.lport p).ovf = true ∧
       (u.lport p).drops = min 255 (q.drops + 1)) ∧
     (∀ blk off size, s.pkg.hostUp = true → s.hostWaits = true → exec (.lpstatRead blk off size) s = .next (s.sched 1 1 (.lpstatRead blk off size))) ∧
     (s.pkg.hostUp = true → s.hostWaits = false → s.host.d3hot = false →
       ∃ u, exec (.lpstatRead 1 (0x40 + 0x100 * p) 8) s = .next u ∧ u.host.reads = some (s.lpstat p) :: s.host.reads ∧ others u ∧
         (q.dropAt.1 ≠ s.now → u.lport p = { q with drops := 0 })) ∧
     (∀ blk off size, s.pkg.hostUp = true → s.hostWaits = false → s.host.d3hot = true ∨ barOk (0x10000 * blk + off) size = false →
       exec (.lpstatRead blk off size) s = .next { s with host := { s.host with reads := none :: s.host.reads, aer := s.host.aer ||| 0x100000 } }) ∧
     rings (.lpcqhWrite p v) q.cqb v.toNat ∧
     rings (.lpcqbWrite p v) (v &&& ~~~0x3E) q.cqh) ∧
  (∀ (s : State) (p : Nat) (r : QRec) (rest : List QRec), p < 8 →
     let q := s.lport p
     q.queue = r :: rest → q.held = [] → s.pkg.disp = true →
     let held := (State.tableSpan r).any (fun x => s.rangeHeld x.1 x.2) || s.waitsOn (State.tableSpan r)
     let s0 := s.ueReads 0 0 ((State.tableSpan r).flatMap fun x => s.poisonedIn x.1 x.2)
     let vec : Option Nat := if (r.dword 0).getLsbD 36 then some (bits (r.dword 0) 37 11) else none
     let placed (s1 u : State) (rs : List RangeEnt) (ws : List (Nat × Nat)) (xs : List Nat) : Prop :=
       (u.lport p).queue = rest ∧ (∃ l, u.launch? r.ltag = some l ∧ l.ltag = r.ltag ∧ l.port = p ∧ l.pc = r.dword 1 ∧ l.arg = r.dword 2 ∧
         l.gsize = r.gsize ∧ l.init = r.init ∧ l.quota = r.quota ∧ l.ranges = rs ∧ l.windows = ws ∧ l.trig = false ∧ l.ending = none) ∧
       ∀ x ∈ xs, ∀ k, k < r.gsize → Due u (s1.now + max r.s1sz (max (32 * r.s2sz) (128 * r.s3sz))) (.crewStart r.ltag (x + k))
     let backs (u : State) : Prop :=
       (u.lport p).queue = q.queue ∧ (u.lport p).backing = true ∧ (u.lport p).backoff = min 172800 (2 * q.backoff) ∧
         Due u (s.now + q.backoff) (.backoffExpiry p)
     let pass (i : Instr) (s1 : State) : Prop := ∀ rs ws ptr, (s1.lport p).tabs = some (rs, ws) →
       let ok := (List.range 128).filter (s1.grants ⟨r.ltag, r.init, r.svc, r.s1sz, r.s2sz, r.s3sz⟩)
       (∀ xs, s1.placeGangs ok.contains r.gsize r.gangs s1.disp.ptr [] [] = (ptr, some xs) → ∃ u, exec i s = .next u ∧ placed s1 u rs ws xs) ∧
       (s1.placeGangs ok.contains r.gsize r.gangs s1.disp.ptr [] [] = (ptr, none) → ∃ u, exec i s = .next u ∧ backs u)
     (q.backing = false → q.tabs = none → held = true → exec (.launchHeadCheck p) s = .next s) ∧
     (q.backing = false → q.tabs = none → held = false → s0.refusal p r ≠ 0 → q.cqb.getLsbD 0 = false → ∃ u, exec (.launchHeadCheck p) s = .next u ∧
       (u.lport p).queue = rest ∧ u.disp.ended.head? = some (r.ltag, 1) ∧
       (u.lport p).held = [(State.completionWords r.ltag 1 (s0.refusal p r) 0 s.now 0 0, vec)]) ∧
     (q.backing = false → q.tabs = none → held = false → s0.refusal p r = 0 → (r.deps.all s0.depMet) = false →
       ∃ u, exec (.launchHeadCheck p) s = .next u ∧ (u.lport p).queue = q.queue ∧ (u.lport p).headwait = true) ∧
     (q.backing = false → q.tabs = none → held = false → s0.refusal p r = 0 → (r.deps.all s0.depMet) = true →
       pass (.launchHeadCheck p) (s0.setPort p { q with tabs := s0.tables r, headwait := false, placing := true })) ∧
     (q.backing = true → pass (.backoffExpiry p) (s.setPort p { q with backing := false })))

/-- R38, R39: at its start a crew creates the initial threads of its launch, with TIDs from 0, PC at the launch's, and a0 to a3 the TID, the
crew and gang indices and ARG; TSTART is the cycle of the launch's first start. R52, R54: two sweeps in a row that find a launch idle, with
sums of sent and received that are equal and the same, end it with STATUS 0; a sweep that finds it busy forgets the one before. At its end a
launch first has its accesses made, its posted stores performed and its engines finish; then its crews, segments and saved images are freed,
and the completion entry names its status and code. That a crew which has not started is not idle, and that the end waits for the accesses
and the engines, looked at again 1 and 8 cycles later, is log entry 41 (DEDUCED); that a launch with a saved crew is not idle is log entry 90
(DESIGN CHOICE). -/
def Obligations.CrewsStartAndEnd : Prop :=
  (∀ (s : State) (tag u : Nat) (l : Launch) (c : Crew), s.launch? tag = some l → l.ltag = tag → s.crew? tag u = some c → c.started = false → c.closed = false →
     (s.usedSlots u).length + l.init ≤ 256 →
     ∃ w, exec (.crewStart tag u) s = .next w ∧ (∃ m, w.launch? tag = some m ∧ m.tstart = l.tstart.or (some (wd s.now))) ∧
       w.crew? tag u = some { c with started := true } ∧
       ∀ i, i < l.init → ∃ n ∈ w.threads, n.unit = u ∧ n.ltag = l.ltag ∧ n.tid = i ∧ n.pc = l.pc ∧ n.base = l.prio ∧ n.st = .ready ∧
         n.svc = l.svc ∧ vget n.a 0 = wd i ∧ vget n.a 1 = wd c.idx ∧ vget n.a 2 = wd c.gang ∧ vget n.a 3 = l.arg) ∧
  (∀ (s : State) (tag : Nat) (l : Launch), s.launch? tag = some l → l.ltag = tag →
     let sums := (s.sentSum tag, s.recvdSum tag)
     let i : Instr := .endSweep
     (∀ status code, s.accessesDue tag l.posted = true →
       exec (.launchEnd tag status code) s = .next (s.sched 1 rankDisp (.launchEnd tag status code))) ∧
     (∀ status code, s.accessesDue tag l.posted = false → l.posted = [] → l.flushTags = [] → (∀ c ∈ s.disp.crews, c.ltag = tag → s.working tag c.unit = false) →
       (s.lport l.port).held = [] → (s.lport l.port).cqb.getLsbD 0 = false → l.port < 8 → rising s.disp.launches = true →
       ∃ u, exec (.launchEnd tag status code) s = .next u ∧ u.launch? tag = none ∧ (∀ c ∈ u.disp.crews, c.ltag ≠ tag) ∧
         (∀ b ∈ u.barriers, b.ltag ≠ tag) ∧ u.disp.ended.head? = some (tag, status) ∧
         (u.lport l.port).held = [(State.completionWords tag status code (l.tstart.getD 0) s.now sums.1 sums.2, if l.vecen then some l.vec else none)]) ∧
     (∀ status code c, s.accessesDue tag l.posted = false → l.posted = [] → l.flushTags = [] → c ∈ s.disp.crews → c.ltag = tag → s.working tag c.unit = true →
       exec (.launchEnd tag status code) s = .next (s.sched 8 rankDisp (.launchEnd tag status code))) ∧
     (∀ status code f, s.accessesDue tag l.posted = false → l.posted = [f] → ∃ u m, exec (.launchEnd tag status code) s = .next u ∧
         u.launch? tag = some m ∧ m.posted = [] ∧
       m.flushTags = s.nextTag :: l.flushTags) ∧
     (s.disp.launches = [(tag, l)] → l.ending = none →
       (s.launchIdle tag = true → sums.1 = sums.2 → l.sweep ≠ some sums → exec i s = .next (s.setLaunch { l with sweep := some sums })) ∧
       (s.launchIdle tag = false ∨ sums.1 ≠ sums.2 → exec i s = .next (s.setLaunch { l with sweep := none })) ∧
       (s.launchIdle tag = true → sums.1 = sums.2 → l.sweep = some sums → ∃ u m, exec i s = .next u ∧ u.launch? tag = some m ∧
         m.ending = some (0, 0) ∧ Due u s.now (.launchEnd tag 0 0))))

/-- R49, R50, R233: the request in PREEMPT. PREEMPT_SAVE answers 1 for a crew that is not active and 2 where the save pool has no room, and
else closes the crews of the gang and looks at them in the next cycle; CREW_SAVED waits for the stop points of the crew, then puts it, its
threads and its segments into an image, and the request is over with the last crew. PREEMPT_RESTORE answers 1 for a gang that is not saved
and 3 while it awaits a reply; CREW_RESTORE tries for a window that grants, and there restores the gang, its ports and patterns as its image
holds them, and frees its images; what is poisoned there is reported (R397). That CREW_SAVED looks again each cycle, also while a lane test or
an access that came before holds the image (R109, R398), and CREW_RESTORE each microsecond, is log entry 45 (DEDUCED). -/
def Obligations.PreemptionRequests : Prop :=
  ∀ (s : State) (l : Launch),
    let tag := bits s.disp.preempt 32 16
    let gang := bits s.disp.preempt 8 8
    let idx := bits s.disp.preempt 0 5
    let cs := s.gangCrews tag gang
    let vs := s.savedGang tag gang
    let answers (i : Instr) (code : Nat) : Prop :=
      exec i s = .next { s with disp := { s.disp with preBusy := false, preResult := BitVec.ofNat 8 code } }
    let sizes := cs.map fun c => imageSize (s.ganged c.unit) c.s1
    s.launch? tag = some l → l.ending = none →
    ((∀ c ∈ cs, c.idx ≠ idx) → answers .preemptSave 1) ∧
    ((∃ c ∈ cs, c.idx = idx) → (∀ c ∈ cs, c.started = true) → s.poolHolds s.poolUsed sizes = false → answers .preemptSave 2) ∧
    ((∃ c ∈ cs, c.idx = idx) → (∀ c ∈ cs, c.started = true) → s.poolHolds s.poolUsed sizes = true →
      ∃ u, exec .preemptSave s = .next u ∧ u.threads = s.threads ∧ (s.units.all (fun e => e.2.cmds.all fun x => x.eng != .vx) = true → u.mem = s.mem) ∧
        ∀ c ∈ cs, Due u (s.now + 1) (.crewSaved tag gang c.idx) ∧ ∃ d, u.crew? c.ltag c.unit = some d ∧ d.closed = true) ∧
    (∀ c, cs.find? (fun c => c.idx == idx) = some c →
        (s.crewThreads tag c.unit).all s.threadAtStop = false ∨ s.enginesAtStop c = false ∨ s.crewQuiet c = false →
      exec (.crewSaved tag gang idx) s = .next (s.sched 1 rankLate (.crewSaved tag gang idx))) ∧
    (∀ c a, cs.find? (fun c => c.idx == idx) = some c → (s.crewThreads tag c.unit).all s.threadAtStop = true → s.enginesAtStop c = true →
      s.crewQuiet c = true →
      let s1 := ((s.unit c.unit).cmds.filter fun x => x.ltag == tag && s.midStall x).foldl (fun s x => s.unstartMx x) (s.commitThreads tag c.unit)
      let n := imageSize (s1.ganged c.unit) c.s1
      (s1.crewThreads tag c.unit).all s1.threadAtStop = true → s1.poolFit s1.poolUsed n = some a →
      (s1.spanHeld a n = true → exec (.crewSaved tag gang idx) s = .next (s1.sched 1 rankLate (.crewSaved tag gang idx))) ∧
      (s1.spanHeld a n = false → ∃ u v, exec (.crewSaved tag gang idx) s = .next u ∧ u.disp.saved = s1.disp.saved ++ [v] ∧ v.crew = c ∧ v.image = a ∧
        u.crew? tag c.unit = none ∧ u.crewThreads tag c.unit = [] ∧
        (cs = [c] → s1.disp.crews = s.disp.crews → u.disp.preBusy = false ∧ u.disp.preResult = 0))) ∧
    ((∀ v ∈ vs, v.crew.idx ≠ idx) → answers .preemptRestore 1) ∧
    ((∃ v ∈ vs, v.crew.idx = idx) → (∃ v ∈ vs, v.outstanding ≠ 0) → answers .preemptRestore 3) ∧
    ((∃ v ∈ vs, v.crew.idx = idx) → (∀ v ∈ vs, v.outstanding = 0) →
      exec .preemptRestore s = .next (s.sched 0 rankDisp (.crewRestore tag gang))) ∧
    (vs ≠ [] → s.restoreWindow l vs = none → exec (.crewRestore tag gang) s = .next (s.sched 2700 rankDisp (.crewRestore tag gang))) ∧
    (∀ x, vs ≠ [] → s.restoreWindow l vs = some x → vs.any (fun v => s.spanHeld v.image v.size) = true →
      exec (.crewRestore tag gang) s = .next (s.sched 1 rankDisp (.crewRestore tag gang))) ∧
    (∀ x, vs ≠ [] → s.restoreWindow l vs = some x → vs.any (fun v => s.spanHeld v.image v.size) = false →
      let s0 := s.ueReads 0 0 (vs.flatMap fun v => s.poisonedIn v.image v.size)
      ∃ u, exec (.crewRestore tag gang) s = .next u ∧ u.disp.preBusy = false ∧ u.disp.preResult = 0 ∧
      (∀ v ∈ u.disp.saved, ¬(v.crew.ltag = l.ltag ∧ v.crew.gang = gang)) ∧
      ∀ v, vs = [v] → v.crew.ltag = l.ltag → v.shared = [] → let k := s0.readImage v
        (∀ t ∈ k.threads, t.st = .ready ∧ t.rb = []) → ∃ c, u.crew? l.ltag x = some c ∧ c.closed = false ∧
          c.gang = v.crew.gang ∧ c.idx = v.crew.idx ∧ c.ports = k.crew.ports ∧ c.pats = k.crew.pats ∧ c.sent = v.crew.sent ∧ c.recvd = v.crew.recvd)


/-! ## Bring-up, the host, translation and residency -/
/-- R225 to R228, R236, R380, R399: the events of bring-up. BOOT runs the image of slot A if it is accepted, else that of slot B, and measures
it, whose firmware extends M2 to M7 as it starts (how: the model's choice, log entry 67), else recovery mode begins with the host link up; an
image is accepted by its key, its signature (SHA-512 and RSASSA-PSS; how a key lies in its bytes is log entry 18) and its security version.
The host link, the stacks, which then show their fuse map (log entry 47, DEDUCED), HBM, the Pallyn links and the dispatcher come up in their
READY bits, each in its step (R227), a link with a fibre up at each end (R411); the DETAIL of LINKVER is log entry 49 (DESIGN CHOICE). R14,
R17 to R20, R223, R225, R409: APPLY of a valid binding numbers the enabled positions of its stack in their order and sets the stack's READY
bit, and a refused one leaves its code and the units as they were; the vendor firmware first writes the binding of R16 into LBPOS; the
firmware clears that bit before it binds a stack anew that has a retired part and holds no launch (R412; log entry 25). A cold reset leaves
every register at its reset value but for the fuses, and memory as after reset, empty (log entry 4); a function-level reset ends every launch
with STATUS 2 and code 0 (log entry 46, DEDUCED), resets the launch ports and empties the reply cache; the host sets the power state and the
size of BAR 2, and clears errors (log entry 66, PRESUMED). -/
def Obligations.BringUpAndBinding : Prop :=
  (∀ (s : State) (a b : Option Image) (img : Image) (h p dev port : Nat) (fibres : LinkFibres) (ok v12 v20 : Bool) (sb sz db rf : Word),
     let good (i : Option Image) : Prop := ∃ x, i = some x ∧ s.imageOk x = true
     let measured (u : State) (m : Nat) (x : Image) : Prop := mget u.pkg.measures m = some (sha512 x.body) ∧
       ∀ k d, x.exts = [(k, d)] → 2 ≤ k → k < 8 → mget u.pkg.measures k = some (sha512 (natLe 64 ((mget s.pkg.measures k).getD 0).toNat ++ d))
     (∀ x, s.imageOk x = true ↔ s.keyAllowed x.key = true ∧ pssVerify x.key x.body x.sig = true ∧ s.pkg.minSvn ≤ x.svn) ∧
     (∀ x, a = some x → good a → ∃ u, exec (.boot a b) s = .next u ∧ measured u 0 x ∧ u.pkg.bootstat = 0 ∧ u.pkg.recovery = false) ∧
     (∀ x, b = some x → ¬good a → good b → ∃ u, exec (.boot a b) s = .next u ∧ measured u 0 x ∧ u.pkg.bootstat = 1 ∧ u.pkg.recovery = false) ∧
     (¬good a → ¬good b → ∃ u, exec (.boot a b) s = .next u ∧ u.pkg.measures = s.pkg.measures ∧ u.pkg.recovery = true ∧ u.pkg.hostUp = true) ∧
     (s.running = true → exec .hostLinkTrain s = .next { s with pkg := { s.pkg with hostUp := true } }) ∧
     (s.running = true → s.imageOk img = true → ∃ u, exec (.stackImageVerify img) s = .next u ∧ measured u 1 img ∧ u.pkg.stew = true ∧
       ∀ i, i < 144 → ∃ q, mget u.lat.pos i = some q ∧ q.febad = Config.feBad i ∧ q.slbad = Config.slabBad i) ∧
     (s.running = true → s.imageOk img = false → ∃ u, exec (.stackImageVerify img) s = .next u ∧ u.pkg.stew = s.pkg.stew ∧
       bits u.pkg.bootstat 8 8 = (Config.bootCause 1).toNat) ∧
     (s.pkg.stew = true → s.pkg.dead = false → h < 8 → ∃ u, exec (.hbmTrain h ok []) s = .next u ∧
       (∀ i, i < 8 → u.pkg.hbm.getLsbD i = if i = h then ok else s.pkg.hbm.getLsbD i) ∧ (ok = false → u.pkg.replace.getLsbD 6 = true)) ∧
     (s.stackUp (p / 4) = false ∨ bits (nget s.fab.escbase (p / 4) 0) 0 32 = 0 ∨ s.pkg.dead = true ∨ 16 ≤ p →
       exec (.linkTrain p v12 v20 dev port fibres) s = .next s) ∧
     (s.stackUp (p / 4) = true → bits (nget s.fab.escbase (p / 4) 0) 0 32 ≠ 0 → s.pkg.dead = false → p < 16 →
       (v12 = true ∨ v20 = true → ∃ u, exec (.linkTrain p v12 v20 dev port fibres) s = .next u ∧
         (u.link p).ver20 = v20 ∧ (u.link p).fibres = ((List.range 8).filter fun f => fibres.tx.testBit f).length ∧
         ((u.link p).up = true ↔ (∃ f, f < 8 ∧ fibres.tx.testBit f = true) ∧ ∃ f, f < 8 ∧ fibres.rx.testBit f = true) ∧ (u.link p).partnerDev = dev % 4096 ∧
         (∀ k, k < 16 → k ≠ p → u.link k = s.link k) ∧ u.pkg.opt.getLsbD p = (u.link p).up) ∧
       (v12 = false → v20 = false → ∃ u, exec (.linkTrain p v12 v20 dev port fibres) s = .next u ∧ u.link p = s.link p ∧
         u.pkg.replace.getLsbD 5 = true ∧ Recorded s u { cls := 4, scope := 4, cause := 0x211, agent := 11, detail := wd p })) ∧
     ((List.range 4).all s.stackUp = false ∨ s.pkg.dead = true → exec (.dispReady sb sz db rf []) s = .next s) ∧
     ((List.range 4).all s.stackUp = true → s.pkg.dead = false → ∀ e0 e1 e2 e3, ∃ u, exec (.dispReady sb sz db rf [e0, e1, e2, e3]) s = .next u ∧ u.pkg.disp = true ∧
       u.disp.savebase = sb &&& ~~~0xFFFF ∧ u.disp.savesz = sz ∧ u.trans.rufree = rf ∧ u.trans.dirbase = db &&& ~~~(0xFFFFF : Word) ∧
       u.fab.escbase = #v[e0, e1, e2, e3])) ∧
  (∀ (s : State) (st : Nat), st < 4 →
     let r := (s.clearRetired st).took (8 + st)
     ((∀ f, f < 36 → (s.lpos st f).feret = false ∧ (s.lpos st f).slret = false) → s.clearRetired st = s) ∧
     -- the binding that stands in LBPOS of the state `b` is applied
     let applies (gangs : Option (List Nat)) (b : State) : Prop :=
       (b.applyCode st = 0 → s.pkg.dead = false → ∃ u, exec (.apply ⟨st, gangs⟩) s = .next u ∧ u.pkg.lat.getLsbD st = true ∧
         (∀ i e, (b.enabled st)[i]? = some e → ∃ x ∈ u.lat.units, x.unit = 32 * st + i ∧ x.fe = e.1 ∧ x.slab = State.slab1 e.1 e.2 - 1 ∧
           x.ganged = e.2.gang) ∧
         (∀ x ∈ u.lat.units, x.unit / 32 = st → x.unit < 32 * st + (b.enabled st).length) ∧
         (nget u.lat.stat st ⟨false, false, 0, 0, 0⟩).units = (b.enabled st).length ∧
         (nget u.lat.stat st ⟨false, false, 0, 0, 0⟩).short = decide ((b.enabled st).length < 32)) ∧
       (b.applyCode st ≠ 0 → ∃ u, exec (.apply ⟨st, gangs⟩) s = .next u ∧ u.lat.units = s.lat.units ∧ u.pkg.lat = r.pkg.lat ∧
         (nget u.lat.stat st ⟨false, false, 0, 0, 0⟩).code = b.applyCode st)
     (s.pkg.stew = false → ∀ gangs, exec (.apply ⟨st, gangs⟩) s = .next s) ∧
     (s.pkg.stew = true → applies none r ∧ ∀ gs,
       (∀ b, r.bindVendor st gs = some b → applies (some gs) b ∧
         ∃ bs, vendorBinding (fun f => !(s.lpos st f).febad && !(s.lpos st f).feret) (fun f => !(s.lpos st f).slbad && !(s.lpos st f).slret) gs =
           some bs ∧ (b.enabled st).map (·.1) = ((List.range 36).filter fun f => bs.any fun x => x.1 == f)) ∧
       (r.bindVendor st gs = none → exec (.apply ⟨st, some gs⟩) s = .next r)) ∧
     (∃ u, exec .coldReset s = .next u ∧ u.now = 0 ∧ u.threads = [] ∧ u.agenda = [] ∧ u.mem = State.reset.mem ∧ u.units = [] ∧
       u.disp = Dispatcher.reset ∧ u.trans = Translation.reset ∧ u.fab = Fabric.reset ∧ u.phot = Photonics.reset ∧ u.lat = Lattice.reset ∧
       u.host = HostPort.reset ∧ u.pkg = { Package.reset with mode := s.pkg.mode, owner := s.pkg.owner, vendor := s.pkg.vendor,
                                                               minSvn := s.pkg.minSvn }) ∧
     (s.pkg.hostUp = true → s.hostWaits = false → ∀ v : Word,
       (bits v 0 2 = 0 ∨ bits v 0 2 = 3 →
         exec (.registerWrite .power 4 v) s = .next { s with host := { s.host with d3hot := decide (bits v 0 2 = 3) } }) ∧
       (10 ≤ v.toNat → v.toNat ≤ 16 →
         exec (.registerWrite .bar2Size 4 v) s = .next { s with host := { s.host with bar2 := 2 ^ (20 + v.toNat) } }) ∧
       exec (.registerWrite .errors 4 v) s = .next { s with host := { s.host with aer := s.host.aer &&& ~~~(v.setWidth 32) } }) ∧
     (∃ u, exec .functionLevelReset s = .next u ∧ u.fab.cache = [] ∧ (∀ p, p < 8 → u.lport p = LPort.reset) ∧
       ∀ tag l, s.launch? tag = some l → l.ltag = tag → l.ending = none → ∃ m, u.launch? tag = some m ∧ m.ending = some (2, 0)))

/-- R8, R9, R111, R113, R155, R223, R224, R232, R233: accesses of the host. Before its link is up a write does nothing; one that is
misaligned, of another size, or of no listed region, or in D3hot, is dropped and logged (D3hot and the bit of the AER register: log entry 66,
PRESUMED); else it writes its register, or its half alone, once the host's earlier writes have acted. One of memory waits while a lane test, a
bank, or an access that came before holds it (R109, R398). HBMPLACE zeroes the quads whose mode changes. The descriptor window sets
descriptors and no byte; BAR 2 writes bytes and no descriptor; a read that HBM does not serve is Unsupported Request. A vector that is
unmasked sends its pending message. R228 to R231, R380: OWNERSET fills the empty owner slot with the hash that an allowed key signed, and is
refused otherwise; a staged image that is accepted ends recovery mode, is measured, and is recorded; MODE moves only forward, and 0b11 is
refused (by which command: the model's choice, log entry 67); ATTEST replaces the nonce by the report, whose layout is log entry 19 (DESIGN
CHOICE), and leaves the rest of MBXDATA. Each ends its command, with the free mailbox codes of the model (log entry 2). -/
def Obligations.HostAccesses : Prop :=
  (∀ (s : State) (off size : Nat) (v : Word) (data : List Byte), s.Sound →
     let writes (o n : Nat) (f : State → Prop) : Prop :=
       s.pkg.hostUp = true → s.hostWaits = false → s.host.d3hot = false → ∃ u, exec (.registerWrite (.bar0 o) n v) s = .next u ∧ f u
     let logged (u : State) : Prop := u = { s with host := { s.host with log := s.host.log + 1, aer := s.host.aer ||| 0x100000 } }
     (s.pkg.hostUp = false → (∀ r, exec (.registerWrite r size v) s = .next s) ∧ exec (.hostBar2Write off data) s = .next s) ∧
     (s.pkg.hostUp = true → s.hostWaits = true → ∀ r, exec (.registerWrite r size v) s = .next (s.sched 1 1 (.registerWrite r size v))) ∧
     (s.pkg.hostUp = true → s.hostWaits = false → s.host.d3hot = true ∨ barOk off size = false →
       ∃ u, exec (.registerWrite (.bar0 off) size v) s = .next u ∧ logged u) ∧
     (∀ k, k < 8 → writes (0x30000 + 8 * k) 8 fun u => nget u.trans.ptroot k 0 = v ∧ ∀ j, j < 8 → j ≠ k → nget u.trans.ptroot j 0 = nget s.trans.ptroot j 0) ∧
     (∀ k, k < 8 → writes (0x30000 + 8 * k) 4 fun u => nget u.trans.ptroot k 0 = (nget s.trans.ptroot k 0).extractLsb' 32 32 ++ v.setWidth 32) ∧
     writes 0x30040 8 (fun u => u.trans.tinvbase = v) ∧ writes 0x11018 8 (fun u => u.disp.savesz = v) ∧
     writes 0x11010 8 (fun u => u.disp.savebase = v &&& ~~~0xFFFF) ∧ writes 0x100008 8 (fun u => u.fab.portdir = v) ∧
     (s.pkg.replaceAt.1 ≠ s.now → writes 0x10 8 fun u => u.pkg.replace = s.pkg.replace &&& ~~~(v.setWidth 7)) ∧
     (s.hostWaits = true → (∀ hi, exec (.hbmplaceWrite hi v) s = .next (s.sched 1 1 (.hbmplaceWrite hi v))) ∧
       exec (.descriptorWindowWrite off size v) s = .next (s.sched 1 1 (.descriptorWindowWrite off size v)) ∧
       (∀ k, exec (.msixUnmask k) s = .next (s.sched 1 1 (.msixUnmask k))) ∧
       (s.pkg.hostUp = true → exec (.hostBar2Write off data) s = .next (s.sched 1 1 (.hostBar2Write off data)))) ∧
     (s.hostWaits = false → ∀ hi : Bool, ∃ u, exec (.hbmplaceWrite hi v) s = .next u ∧ (if hi then u.trans.hbmplace1 else u.trans.hbmplace0) = v ∧
       ∀ a, let i := a / 2 ^ 30 % 128
         let old := if hi then s.trans.hbmplace1 else s.trans.hbmplace0
         byteAt u a = if a < 2 ^ 39 ∧ i / 64 = b01 hi ∧ old.getLsbD (i % 64) ≠ v.getLsbD (i % 64) then 0 else byteAt s a) ∧
     (∀ w, s.hostWaits = false → w < 0x1000000 → barOk (0x1000000 + w) size = true → ∃ u, exec (.descriptorWindowWrite w size v) s = .next u ∧ u.mem = s.mem ∧
       ∀ k, k < size / 2 → u.descOf (s.trans.dwinbase.toNat + 64 * (w / 2 + k)) = v.extractLsb' (16 * k) 16) ∧
     (∀ a, s.pkg.hostUp = true → s.bar2At off data.length = some a → s.hostHeld a data.length = true →
       exec (.hostBar2Write off data) s = .next (s.sched 1 1 (.hostBar2Write off data))) ∧
     (∀ a, s.pkg.hostUp = true → s.bar2At off data.length = some a → s.hostHeld a data.length = false →
       ∃ u, exec (.hostBar2Write off data) s = .next u ∧
       rdBytes u.mem a data.length = data ∧ (∀ b, b < a ∨ a + data.length ≤ b → byteAt u b = byteAt s b) ∧ u.desc = s.desc) ∧
     (s.pkg.hostUp = true → s.hostWaits = false → s.bar2At off data.length = none → ∃ u, exec (.hostBar2Write off data) s = .next u ∧ logged u) ∧
     (∀ a, s.pkg.hostUp = true → s.bar2At off 8 = some a → s.hostHeld a 8 = true → exec (.hostBar2Read off 8) s = .next (s.sched 1 1 (.hostBar2Read off 8))) ∧
     (∀ a, s.pkg.hostUp = true → s.bar2At off 8 = some a → s.hostHeld a 8 = false → s.psnAt a = none → ∃ u, exec (.hostBar2Read off 8) s = .next u ∧
       u.host.reads = some (leWord (rdBytes s.mem a 8)) :: s.host.reads ∧ u.mem = s.mem) ∧
     (s.pkg.hostUp = true → s.bar2At off size = none → ∃ u, exec (.hostBar2Read off size) s = .next u ∧ u.host.reads = none :: s.host.reads) ∧
     (∀ k, s.hostWaits = false → k < 2048 → ∃ u, exec (.msixUnmask k) s = .next u ∧ (u.msixEnt k).ctrl.getLsbD 0 = false ∧
       (k ∈ s.host.pending → u.host.sent = k :: s.host.sent ∧ k ∉ u.host.pending) ∧ (k ∉ s.host.pending → u.host.sent = s.host.sent))) ∧
  (∀ (s : State) (hash : BitVec 512) (key sig : List Byte) (img : Image), s.host.mbxBusy = true →
     let ended' (u : State) (r : BitVec 8) : Prop := u.host.mbxBusy = false ∧ u.host.mbxResult = r
     (let ok := s.pkg.owner.isNone && s.keyAllowed key && pssVerify key (natLe 64 hash.toNat) sig
      ∃ u, exec (.ownerset (.owner hash) key sig) s = .next u ∧ ended' u (Config.mbxDone ok) ∧ u.pkg.owner = if ok then some hash else s.pkg.owner) ∧
     (∀ m : BitVec 2, let ok := m != 3 && s.pkg.mode.toNat < m.toNat
      ∃ u, exec (.ownerset (.mode m) key sig) s = .next u ∧ ended' u (Config.mbxDone ok) ∧ u.pkg.mode = if ok then m else s.pkg.mode) ∧
     (s.pkg.recovery = true → s.imageOk img = true → ∃ u, exec (.stagedImage img) s = .next u ∧ u.pkg.recovery = false ∧
       mget u.pkg.measures 0 = some (sha512 img.body) ∧ ended' u (Config.mbxDone true) ∧
       Recorded s u { cls := 5, scope := 5, cause := 0x210, agent := 11, detail := s.pkg.bootstat }) ∧
     (s.pkg.recovery = true → s.imageOk img = false → ∃ u, exec (.stagedImage img) s = .next u ∧ u.pkg.recovery = true ∧
       u.pkg.measures = s.pkg.measures ∧ ended' u (Config.mbxDone false)) ∧
     (∃ u, exec .attest s = .next u ∧ ended' u (Config.mbxDone true) ∧
       let report := attestBody s ++ natLe 512 (Config.attestSign (attestBody s)).toNat
       ∀ i, mget u.host.mbxData i = if i < report.length then report[i]? else mget s.host.mbxData i))

/-- R122, R125, R126, R233, R388: a walk reads the entries from the lowest node that its cluster has kept, or from the root; it waits while a stack
holds one of them. A walk that finds an entry caches it for its cluster; one that finds none awaits the firmware, whose answer is an entry that
it writes, or a TRANSLATION fault for whoever awaits it. TINV drops every cached entry and kept node that its range meets, in each cluster, and
no other; R233 has the caches drop them within 512 cycles: here at once, and it is complete, with TINVLIM zero, no earlier than 512 cycles
later and once the accesses it translated are accepted, which is looked at each 8 cycles (log entry 48, DEDUCED). -/
def Obligations.TranslationEvents : Prop :=
  ∀ (s : State) (cl root va : Nat),
    let key := (cl, root, va)
    let i : Instr := .pageWalkEnd cl root va
    let x := s.walkStart cl root va
    ((s.walkEntries cl root va).any s.hbmWaits = true → exec i s = .next (s.sched 1 1 i)) ∧
    ((s.walkEntries cl root va).any s.hbmWaits = false →
      (∀ base size e at_, s.walkAt va x.1 x.2 = some (base, size, e, at_) → ∃ u, exec i s = .next u ∧ key ∉ u.trans.walks ∧
        u.trans.tlb.head? = some { cluster := cl, root := root, va := base, size := size, entry := e } ∧ u.trans.faults = s.trans.faults ∧
        u.mem = s.mem) ∧
      (s.walkAt va x.1 x.2 = none → ∃ u, exec i s = .next u ∧ key ∉ u.trans.walks ∧ u.trans.tlb = s.trans.tlb ∧
        u.trans.faults = key :: s.trans.faults)) ∧
    (key ∈ s.trans.faults →
      (∀ a e, s.Sound → ∃ u, exec (.walkFaultResolve cl root va (.mapped a e)) s = .next u ∧ key ∉ u.trans.faults ∧
        leNat (rdBytes u.mem (a / 8 * 8) 8) = e.toNat ∧ ∀ b, b / 8 ≠ a / 8 → byteAt u b = byteAt s b) ∧
      (∃ u, exec (.walkFaultResolve cl root va .deliver) s = .next u ∧ key ∉ u.trans.faults ∧ u.mem = s.mem ∧
        (s.walkAwaited cl root va = true → u.trans.deliver = key :: s.trans.deliver))) ∧
    (∃ u, exec .tinv s = .next u ∧ u.trans.tinvBusy = true ∧ Due u (s.now + 512) .tinvComplete ∧ u.mem = s.mem ∧
      let lo := s.trans.tinvbase.toNat
      let hi := s.trans.tinvlim.toNat
      (∀ e, e ∈ u.trans.tlb ↔ e ∈ s.trans.tlb ∧ ¬(e.va < hi ∧ lo < e.va + e.size)) ∧
      ∀ n, n ∈ u.trans.uppers ↔ n ∈ s.trans.uppers ∧ ¬(n.va < hi ∧ lo < n.va + nodeSpan n.lvl)) ∧
    (s.trans.tinvBusy = true → s.trans.tinvAt + 512 ≤ s.now →
      (s.tinvPending = true → exec .tinvComplete s = .next (s.sched 8 rankRes .tinvComplete)) ∧
      (s.tinvPending = false → exec .tinvComplete s = .next { s with trans := { s.trans with tinvBusy := false, tinvlim := 0 } }))

/-- R129, R130, R132, R234: the commands of the residency unit. A page that no root maps has result 1, and so has MIGRATE of one that is not
LOCAL, and DUP of a page that this device owns without a record; a copy that is there already, a page that is not DUPL, and one too small to
split have result 0; a record that has no room for one more copy, or no slot, has result 2. DUP and MIGRATE hold the page and, once what was
translated before is accepted, send its first block as soon as its bank takes the read; DUP of a page that another device owns or holds,
COLLAPSE and SPLIT ask the owner. A command waits for another on its page, and DUP for a collapse. The messages and what each is answered are
log entry 23, the result codes of MIGRATE and of a copy that is there already log entry 24 (DESIGN CHOICE). -/
def Obligations.ResidencyCommands : Prop :=
  ∀ (s : State) (c : ResCmd), s.cmd = some c → c.dev < 4096 → s.trans.rcqt = s.trans.rcqh % s.trans.rcqn → s.Sound →
    (∀ w ∈ s.trans.works, w.asked.isSome = true) →
    let ends (i : Instr) (code : Nat) : Prop := ∃ u, exec i s = .next u ∧ Finished s u c code
    let copies (i : Instr) (m : Mapped) : Prop := ∃ u r, exec i s = .next u ∧ mget u.fab.reqs s.nextTag = some r ∧ r.pkt.kind = 3 ∧
      r.pkt.dst = c.dev ∧ r.pkt.opsz = 5 ∧ r.pkt.addr = entPa m.e % 2 ^ 40 ∧ r.what = .residency m.base ∧
      (⟨m.base, m.size, m.base, m.size, entPa m.e, none⟩ : Hold) ∈ u.trans.holds
    let waits (i : Instr) (m : Mapped) : Prop := ∃ u, exec i s = .next u ∧ Due u (s.now + 1) .residencyResume ∧
      (∃ w ∈ u.trans.works, w.cmd = c ∧ w.page = m.base ∧ w.next = 0 ∧ w.held = true) ∧
      (⟨m.base, m.size, m.base, m.size, entPa m.e, none⟩ : Hold) ∈ u.trans.holds
    let asks (i : Instr) (owner op dev : Nat) (m : Mapped) : Prop := ∃ u w, exec i s = .next u ∧ w ∈ u.trans.works ∧ w.cmd = c ∧
      w.await = [owner] ∧ w.page = m.base ∧ Sent s u (s.resPkt owner op dev m.size m.base (entPa m.e))
    let again (i : Instr) : Prop := ∃ u, exec i s = .next u ∧ ∃ e ∈ u.agenda, e.due = s.now + 8 ∧ e.ev.op = i ∧ e.ev.cmd = some c
    (s.mappedBy c.port c.va = none → ends .dup 1 ∧ ends .migrate 1 ∧ ends .collapse 1 ∧ ends .split 1) ∧
    (∀ m, s.mappedBy c.port c.va = some m → 0 < m.size →
      let peer := if entRes m.e = 1 then entPa m.e / 2 ^ 40 else if entRes m.e = 2 then entOwner m.e else s.devid
      let r := s.dirFind m.base false
      let src := entPa m.e % 2 ^ 40
      -- the copy begins, its first block waits for its bank, or the command waits for accesses
      let begins (i : Instr) : Prop :=
        (s.pendingAt (entPa m.e) m.size = true → again i) ∧
        (s.pendingAt (entPa m.e) m.size = false → s.hbmWaits src = true ∨ s.bankFree src = false → waits i m) ∧
        (s.pendingAt (entPa m.e) m.size = false → s.hbmWaits src = false → s.bankFree src = true → copies i m)
      (s.workedOn m.base m.size = true → again .dup ∧ again .migrate ∧ again .collapse ∧ again .split) ∧
      (s.workedOn m.base m.size = false →
        (peer ≠ s.devid → c.dev = peer → ends .dup 0) ∧
        (peer ≠ s.devid → c.dev ≠ peer → asks .dup peer 6 c.dev m) ∧
        (peer = s.devid → (∃ x ∈ s.trans.serving, meets x.va x.size m.base m.size = true) → again .dup) ∧
        (peer = s.devid → (∀ x ∈ s.trans.serving, meets x.va x.size m.base m.size = false) →
          (entRes m.e = 2 → r = none → ends .dup 1) ∧
          (entRes m.e ≠ 2 → c.dev = s.devid → ends .dup 0) ∧
          (entRes m.e ≠ 2 → c.dev ≠ s.devid → s.freeSlots' 1 = [] → ends .dup 2) ∧
          (entRes m.e ≠ 2 → c.dev ≠ s.devid → s.freeSlots' 1 ≠ [] → begins .dup) ∧
          (∀ x, entRes m.e = 2 → r = some x →
            (c.dev = s.devid ∨ c.dev ∈ x.reps.map (·.1) → ends .dup 0) ∧
            (c.dev ≠ s.devid → c.dev ∉ x.reps.map (·.1) → 7 ≤ x.reps.length → ends .dup 2) ∧
            (c.dev ≠ s.devid → c.dev ∉ x.reps.map (·.1) → x.reps.length < 7 → begins .dup))) ∧
        (entRes m.e ≠ 0 → ends .migrate 1) ∧ (entRes m.e = 0 → c.dev = s.devid → ends .migrate 0) ∧
        (entRes m.e = 0 → c.dev ≠ s.devid → begins .migrate) ∧
        (entRes m.e ≠ 2 → ends .collapse 0) ∧ (entRes m.e = 2 → asks .collapse (entOwner m.e) 8 c.dev m) ∧
        (m.size < 2 ^ 21 → ends .split 0) ∧
        (2 ^ 21 ≤ m.size → asks .split (if entRes m.e = 2 then entOwner m.e else s.devid) 9 s.devid m)))

/-- R129, R211, R366, R367, R415: a residency packet waits for those of its flow that came before it and for what it makes the unit read, and an
answer to no open request does nothing. A collapse: COLLAPSE of a piece that meets one which this device collapses, or a page that it copies,
is taken up after that; of one whose holder is recorded it is answered MOVED, as is one of a page that this device maps without a record; of
one on record it sends INVAL to every other copy. INVAL of a piece not mapped as DUPL is acknowledged at once, and else once what was
translated before is accepted, the piece then being REMOTE to the writer. The last ACK ends the collapse with DONE to its writer; one that
failed ends it without; DONE makes the piece LOCAL, MOVED makes it REMOTE to the holder that it names, and each releases the hold, or ends
the writer's part of a COLLAPSE command; a MOVED that failed gives the write to the firmware. R130, R132, R366, R415: the messages of residency
commands. DUP and MIGRATE of a page that this device does not map as REMOTE to their sender change no mapping, and are answered; one that
maps it so takes it as DUPL or LOCAL; DUP that names another device asks this one for the copy. COLLAPSE_COMMAND goes from the owner to the
writer, which holds the page and asks for all of it; SPLIT of a page that is not large is answered at once, and one that lacks nodes is
stalled. The awaited MAPPED ends a command, that of a migration once its notice to the other devices is acknowledged. Stalled work goes on
with RESIDENCY_RESUME, and so does a copy that waits for its bank. The messages of commands are log entry 23 (DESIGN CHOICE), and the time of
one to this device itself log entry 51 (DEDUCED). -/
def Obligations.ResidencyMessages : Prop :=
  (∀ (s : State) (p : Packet) (i : Instr), s.pkt = some p → resEvent p.resOp = some i →
     let early : Bool := s.trans.stalled.any fun q => q.src == p.src && q.arr < p.arr
     (early = true → exec i s = .next (s.stall' p)) ∧
     (early = false → s.resBehind p = true ∨ s.resHeld p = true → exec i s = .next (s.schedPkt 1 rankRes i p)) ∧
     (early = false → s.resBehind p = false → s.resHeld p = false → s.resClose p = none → exec i s = .next s)) ∧
  (∀ (s0 s : State) (p : Packet), s0.Sound → ActsOn s0 s p →
     let piece (c : Collapse) : Prop := c.va = p.resVa ∧ c.size = p.resSize
     let serving := s.trans.serving.find? fun c => meets c.va c.size p.resVa p.resSize
     let busy : Bool := s.trans.works.any fun w => (w.op = 1 || w.op = 2) && meets w.page w.size p.resVa p.resSize
     let idle : Prop := serving = none ∧ busy = false
     let awaited := s.trans.serving.find? fun c => c.va == p.resVa && c.size == p.resSize && c.acks.contains p.src
     let becomes (u : State) (m : Mapped) (res owner pa : Nat) : Prop :=
       leNat (rdBytes u.mem m.at_ 8) = (entry m.e res owner pa (entKind m.e)).toNat ∧ ∀ b, b < m.at_ ∨ m.at_ + 8 ≤ b → byteAt u b = byteAt s b
     let alone (m : Mapped) : Prop := s.mappings p.resVa = [m] ∧ m.base = p.resVa ∧ m.size ≤ p.resSize ∧ entries (entKind m.e) = 1
     (∀ c, serving = some c → ∃ u, exec .resCollapse s0 = .next u ∧ { c with later := c.later ++ [p] } ∈ u.trans.serving ∧ u.mem = s.mem) ∧
     (serving = none → busy = true →
       exec .resCollapse s0 = .next { s with trans := { s.trans with asks := s.trans.asks ++ [p] } }) ∧
     (∀ h x l, idle → s.recsIn p.resVa p.resSize = [] → s.dirFind p.resVa true = some h → h.reps = x :: l → x.1 < 4096 →
       ∃ u, exec .resCollapse s0 = .next u ∧ Sent s u (s.resAbout p.src 5 x.1 p (x.2 + (p.resVa - h.va))) ∧ u.mem = s.mem) ∧
     (∀ rs, idle → s.recsIn p.resVa p.resSize = rs → rs ≠ [] → (∀ r ∈ rs, r.size ≤ p.resSize) → p.resDev ≠ s.devid →
       ∃ u c, exec .resCollapse s0 = .next u ∧ c ∈ u.trans.serving ∧ piece c ∧ c.writer = p.resDev ∧ c.pa = p.resPa ∧ c.tag = p.tag ∧
         c.acks = ((rs.flatMap fun r => r.reps.map (·.1)) ++ [s.devid]).eraseDups.filter (· != p.resDev) ∧
         ∀ d ∈ c.acks, Sent s u (s.resAbout d 2 p.resDev p p.resPa)) ∧
     (idle → s.recsIn p.resVa p.resSize = [] → s.dirFind p.resVa true = none →
       (∀ m, s.mappings p.resVa = [m] → entRes m.e = 0 → ∃ u, exec .resCollapse s0 = .next u ∧ u.mem = s.mem ∧
         let pa := entPa m.e + (p.resVa - m.base)
         pa < 2 ^ 52 → Sent s u (s.resAbout p.src 5 (pa / 2 ^ 40) p pa)) ∧
       (s.mappings p.resVa = [] → ∃ u, exec .resCollapse s0 = .next u ∧ u.mem = s.mem ∧
         Sent s u { s.resAbout p.src 5 0 p 0 with status := 8 })) ∧
     (s.duplIn p.resVa p.resSize p.src = [] → ∃ u, exec .resInval s0 = .next u ∧ Sent s u (s.resAbout p.src 3 s.devid p p.resPa) ∧
       u.mem = s.mem) ∧
     (∀ m, s.duplIn p.resVa p.resSize p.src = [m] → m.base = p.resVa → m.size ≤ p.resSize →
       let h : Hold := ⟨m.base, m.size, m.base, m.size, entPa m.e, none⟩
       (s.pendingAt (entPa m.e) m.size = true → ∃ u, exec .resInval s0 = .next u ∧
         (∃ e ∈ u.agenda, e.due = s.now + 1 ∧ e.ev.op = .resInval ∧ e.ev.pkt = some p) ∧ h ∈ u.trans.holds ∧ u.mem = s.mem) ∧
       (s.pendingAt (entPa m.e) m.size = false → entRes m.e = 2 → alone m → ∃ u, exec .resInval s0 = .next u ∧
         Sent s u (s.resAbout p.src 3 s.devid p p.resPa) ∧ h ∉ u.trans.holds ∧ becomes u m 1 0 p.resPa)) ∧
     (∀ h m, s.writerWork p.resVa p.src = none → s.writeHold p = some h → alone m → entRes m.e = 2 → entPa m.e + h.page = h.pa + m.base →
       (∃ u, exec .resDone s0 = .next u ∧ h ∉ u.trans.holds ∧ becomes u m 0 0 (entPa m.e)) ∧
       (p.status = 0 → p.resDev = s.devid → ∃ u, exec .resMoved s0 = .next u ∧ h ∉ u.trans.holds ∧ becomes u m 0 0 (entPa m.e)) ∧
       (p.status = 0 → p.resDev ≠ s.devid → ∃ u, exec .resMoved s0 = .next u ∧ h ∉ u.trans.holds ∧ becomes u m 1 0 p.resPa)) ∧
     (∀ h, s.writerWork p.resVa p.src = none → s.writeHold p = some h → s.mappings p.resVa = [] →
       exec .resDone s0 = .next (s.release h) ∧ (p.status = 0 → exec .resMoved s0 = .next (s.release h))) ∧
     (∀ w q, s.writerWork p.resVa p.src = some w → w.await = [p.src] → w.asked = some q → s.duplIn p.resVa p.resSize p.src = [] →
       ∃ u, exec .resDone s0 = .next u ∧ Sent s u { s.resAbout q.src 10 s.devid q q.resPa with status := 0 }) ∧
     (s.writerWork p.resVa p.src = none → s.writeHold p = none → exec .resDone s0 = .next s ∧ exec .resMoved s0 = .next s) ∧
     (∀ h cl root va, s.writerWork p.resVa p.src = none → s.writeHold p = some h → h.write = some (cl, root, va) → p.status ≠ 0 →
       ∃ u, exec .resMoved s0 = .next u ∧ h ∉ u.trans.holds ∧ (cl, root, va / 4096 * 4096) ∈ u.trans.faults ∧ u.mem = s.mem) ∧
     (∀ c, awaited = some c → p.status = 0 → c.acks.filter (· != p.src) = [] → c.later = [] → c.writer < 4096 →
       ∃ u, exec .resAck s0 = .next u ∧ Sent s u { s.resPkt c.writer 4 c.writer c.size c.va c.pa with tag := c.tag } ∧
         ∀ x ∈ u.trans.serving, ¬piece x) ∧
     (∀ c, awaited = some c → p.status ≠ 0 → c.later = [] → ∃ u, exec .resAck s0 = .next u ∧ (∀ x ∈ u.trans.serving, ¬piece x) ∧ u.mem = s.mem ∧
       Sent s u { s.resPkt c.writer 5 0 c.size c.va 0 with tag := c.tag, status := 8 }) ∧
     (∀ c, awaited = some c → p.status = 0 → c.acks.filter (· != p.src) ≠ [] → ∃ u, exec .resAck s0 = .next u ∧
       (∃ x ∈ u.trans.serving, piece x ∧ p.src ∉ x.acks) ∧ u.mem = s.mem) ∧
     (∀ w, awaited = none → s.workAwaiting p.resVa p.src = some w → p.status = 0 → w.await.filter (· != p.src) ≠ [] →
       ∃ u, exec .resAck s0 = .next u ∧ { w with await := w.await.filter (· != p.src) } ∈ u.trans.works ∧ u.mem = s.mem)) ∧
  (∀ (s0 s : State) (p : Packet), s0.Sound → ActsOn s0 s p →
     let busy : Bool := s.trans.works.any fun w => (w.op = 1 || w.op = 2) && meets w.page w.size p.resVa p.resSize
     let idle : Prop := (∀ c ∈ s.trans.serving, meets c.va c.size p.resVa p.resSize = false) ∧ busy = false
     let theirs := s.remoteAt p.resVa p.src p.resSize
     let answer (status : Nat) : Packet := { s.resAbout p.src 10 s.devid p p.resPa with status := status }
     let answered (u : State) : Prop := Sent s u (answer 0)
     let rewrites (u : State) (m : Mapped) (res owner : Nat) : Prop := s.samePages p.resVa m = [m] → entries (entKind m.e) = 1 →
       leNat (rdBytes u.mem m.at_ 8) = (entry m.e res owner p.resPa (entKind m.e)).toNat
     let settled (m : Mapped) : Prop := s.pendingAt (entPa m.e) m.size = false
     let asked := (s.mappings p.resVa).find? fun m => m.base == p.resVa && entRes m.e != 1 &&
       (entPa m.e == p.resPa || (entRes m.e == 2 && entOwner m.e == s.devid && p.resPa / 2 ^ 40 == p.src))
     let split := (s.mappings p.resVa).find? fun m => entPa m.e == p.resPa || (entRes m.e == 2 && entOwner m.e == s.devid)
     (theirs = none → (p.resDev = s.devid → ∃ u, exec .resDup s0 = .next u ∧ answered u ∧ u.mem = s.mem) ∧
       ∃ w, exec .resMigrate s0 = .next w ∧ answered w ∧ w.mem = s.mem) ∧
     (∀ m, theirs = some m → settled m →
       (p.resDev = s.devid → ∃ u, exec .resDup s0 = .next u ∧ answered u ∧ rewrites u m 2 p.src) ∧
       ∃ w, exec .resMigrate s0 = .next w ∧ answered w ∧ rewrites w m 0 0) ∧
     (∀ m, theirs = some m → ¬settled m → exec .resMigrate s0 = .next ((s.addHold (State.holdOf m)).schedRes 1 p) ∧
       (p.resDev = s.devid → exec .resDup s0 = .next ((s.addHold (State.holdOf m)).schedRes 1 p))) ∧
     (p.resDev ≠ s.devid → s.askedBefore p = true → exec .resDup s0 = .next s) ∧
     (p.resDev ≠ s.devid → s.askedBefore p = false → idle → asked = none → ∃ u, exec .resDup s0 = .next u ∧ u.mem = s.mem ∧
       Sent s u (answer 8)) ∧
     (∀ m, p.resDev ≠ s.devid → s.askedBefore p = false → idle → asked = some m → s.workedOn m.base m.size = false → entRes m.e = 0 →
       0 < m.size → s.freeSlots' 1 ≠ [] → settled m → s.hbmWaits (entPa m.e % 2 ^ 40) = false → s.bankFree (entPa m.e % 2 ^ 40) = true →
       ∃ u r, exec .resDup s0 = .next u ∧ mget u.fab.reqs s.nextTag = some r ∧
         r.pkt.kind = 3 ∧ r.pkt.dst = p.resDev ∧ r.what = .residency m.base ∧ ∃ w ∈ u.trans.works, w.asked = some p ∧ w.page = m.base) ∧
     (s.askedBefore p = true → exec .resCollapseCommand s0 = .next s) ∧
     (s.askedBefore p = false → p.resDev ≠ s.devid →
       (s.dirFind p.resVa false = none → ∃ u, exec .resCollapseCommand s0 = .next u ∧ Sent s u (answer 0) ∧ u.mem = s.mem) ∧
       (∀ r, s.dirFind p.resVa false = some r → p.resDev ∉ r.reps.map (·.1) →
         ∃ u, exec .resCollapseCommand s0 = .next u ∧ Sent s u (answer 8) ∧ u.mem = s.mem) ∧
       (∀ r pa, s.dirFind p.resVa false = some r → r.reps = [(p.resDev, pa)] → ∃ u, exec .resCollapseCommand s0 = .next u ∧
         (∃ w ∈ u.trans.works, w.asked = some p ∧ w.op = 3 ∧ w.await = [p.resDev]) ∧
         Sent s u (s.resPkt p.resDev 8 p.resDev p.resSize p.resVa (pa + p.resVa - r.va)))) ∧
     (s.askedBefore p = false → p.resDev = s.devid → let d := (s.duplAt p.resVa p.src).or (s.duplAt p.resVa s.devid)
       (d = none → ∃ u, exec .resCollapseCommand s0 = .next u ∧ Sent s u (answer 0) ∧ u.mem = s.mem) ∧
       (∀ m, d = some m → s.trans.holds = [] → s.trans.works = [] → ∃ u, exec .resCollapseCommand s0 = .next u ∧
         (∃ w ∈ u.trans.works, w.asked = some p ∧ w.op = 5 ∧ w.await = [entOwner m.e]) ∧ u.mem = s.mem ∧
         Sent s u (s.resPkt (entOwner m.e) 1 s.devid p.resSize p.resVa (entPa m.e + p.resVa - m.base)))) ∧
     (idle → split = none → s.dirFind p.resVa false = none → ∃ u, exec .resSplit s0 = .next u ∧ answered u ∧ u.mem = s.mem) ∧
     (∀ m, idle → split = some m → settled m →
       (∀ v, (s.release (State.holdOf m)).splitPage p.resVa m = some v → v.dirFind p.resVa false = none →
         ∃ u, exec .resSplit s0 = .next u ∧ answered u ∧ u.mem = v.mem) ∧
       ((s.release (State.holdOf m)).splitPage p.resVa m = none →
         exec .resSplit s0 = .next (((s.release (State.holdOf m)).addHold (State.holdOf m)).stall' p))) ∧
     (∀ w, p.resAnswer = true → s.workAwaiting p.resVa p.src = some w → w.asked = none → (∀ x ∈ s.trans.works, x ≠ w → x.asked.isSome = true) →
       s.trans.rcqt = s.trans.rcqh % s.trans.rcqn →
       (p.status ≠ 0 → ∃ u, exec .resMapped s0 = .next u ∧
         Finished s u w.cmd (if p.status = 3 ∧ ¬(w.op = 1 ∧ w.cmd.dev = p.src) then 2 else 1)) ∧
       (p.status = 0 → w.op ≠ 2 → w.await = [p.src] → ∃ u, exec .resMapped s0 = .next u ∧ Finished s u w.cmd 0) ∧
       (p.status = 0 → w.op = 2 → s.ownPage w.cmd.port w.page w.src = none → w.cmd.dev < 4096 →
         let ds := s.groupDevices.filter (· != w.cmd.dev)
         ∃ u, exec .resMapped s0 = .next u ∧ (ds = [] → Finished s u w.cmd 0) ∧
           (ds ≠ [] → { w with await := ds } ∈ u.trans.works ∧ ∀ d ∈ ds, Sent s u (s.resAbout d 10 w.cmd.dev p p.resPa)))) ∧
     (p.resAnswer = true → s.workAwaiting p.resVa p.src = none → exec .resMapped s0 = .next s) ∧
     (p.resAnswer = false → theirs = none → ∃ u, exec .resMapped s0 = .next u ∧ Sent s u (s.resAbout p.src 3 s.devid p p.resPa) ∧
       u.mem = s.mem) ∧
     (∀ m, p.resAnswer = false → theirs = some m → p.resDev ≠ s.devid → settled m → ∃ u, exec .resMapped s0 = .next u ∧
       Sent s u (s.resAbout p.src 3 s.devid p p.resPa) ∧ rewrites u m 1 0)) ∧
  (∀ (s : State), ∃ u, exec .residencyResume s = .next u ∧ u.trans.stalled = [] ∧
     ((∀ w ∈ s.trans.works, w.held = false) → s.trans.rcqt = s.trans.rcqh % s.trans.rcqn → u.mem = s.mem) ∧
     (∀ q ∈ s.trans.stalled, ∀ i, resEvent q.resOp = some i → ∃ e ∈ u.agenda, e.due = s.now ∧ e.ev.op = i ∧ e.ev.pkt = some q) ∧
     ∀ w, s.trans.works = [w] → w.held = true → 64 * w.next < w.size → s.hbmWaits (w.src + 64 * w.next) = false →
       s.bankFree (w.src + 64 * w.next) = true → ∃ r, mget u.fab.reqs s.nextTag = some r ∧ r.pkt.kind = 3 ∧ r.pkt.dst = w.cmd.dev ∧
         r.pkt.addr = w.dst + 64 * w.next)

/-! ## The fabric and the package -/
/-- R24, R200 to R207, R218, R364, R404, R418, R419: the router. One of no KIND is discarded; one that came by a port is 8 cycles in the
router; then a packet for this device goes to what its KIND names, and one that does not fit its layout performs nothing (a RES request is
answered FAULT, log entry 23, DESIGN CHOICE); one for another device joins the queue of its route's port, once what its flow sent by another
port is acknowledged (R203), and a read or RES request that no route takes is answered UNREACH. A port that can send takes the escape VC
first, then replies; a flit takes 243 parts of the port's rate, of which each live wavelength pays 5 a cycle: these parts, and the 8 cycles of
the router's own answer, are log entry 51 (DEDUCED). A held head leaves at the end of its window; the head of an input queue that has stood
for DLTIMER goes into the escape lane of its port's stack. -/
def Obligations.RouterMoves : Prop :=
  ∀ (s : State) (input : Nat) (p : Packet) (q : Nat), q < 16 →
    let i : Instr := .packetRoute input p
    let sent (u : State) (e : Queued) : Prop := u.fab.wire = (q, { e.pkt with input := 16, arr := 0 }) :: s.fab.wire ∧
      (u.link q).debt = s.debtOf q + 243 * e.pkt.flits ∧ (u.link q).paidAt = s.now
    let can : Prop := (s.link q).up = true ∧ (s.link q).holding = false ∧ s.sendWait q = 0 ∧ s.fab.lanes = [] ∧ (s.link q).ver20 = true
    let here : Prop := State.kindKnown p = true ∧ (16 ≤ input ∨ p.arr ≠ 0)
    (State.kindKnown p = false → ∃ u, exec i s = .next u ∧ u.fab.discarded = p :: s.fab.discarded ∧ u.agenda = s.agenda) ∧
    (State.kindKnown p = true → input < 16 → p.arr = 0 → ∃ u, exec i s = .next u ∧ u.fab.queues = s.fab.queues ∧
      Due u (s.now + 8) (.packetRoute input { p with arr := s.nextId + 1 })) ∧
    (here → p.dst = s.devid → p.kind = 0x30 → p.payload.length < 3 ∨ p.poisoned ≠ 0 → ∃ u, exec i s = .next u ∧ u.fab.discarded = p :: s.fab.discarded ∧
      u.agenda = s.agenda) ∧
    (here → p.dst = s.devid → p.kind = 0x20 → p.payload.length < 3 ∨ p.poisoned ≠ 0 → p.resOp = 1 → ∃ u, exec i s = .next u ∧
      Due u (s.now + 8) (.packetRoute 16 { s.resPkt p.src 5 s.devid p.resSize p.resVa p.resPa with tag := p.tag, status := 8 })) ∧
    (∀ k, here → State.kindEvent p = some k → p.dst = s.devid → ∃ u, exec i s = .next u ∧ u.fab.queues = s.fab.queues ∧
      ∃ e ∈ u.agenda, s.now ≤ e.due ∧ e.ev.op = k ∧ e.ev.pkt = some { p with input := input, arr := s.nextId }) ∧
    (here → p.dst ≠ s.devid → s.routePort p.flow p.dst = some q → (s.link q).ver20 = true →
      s.remapped p.flow q = true ∨ s.heldBefore input p = true → exec i s = .next (s.sched 1 1 i)) ∧
    (here → p.dst ≠ s.devid → s.routePort p.flow p.dst = some q → (s.link q).ver20 = true → s.fab.lanes = [] →
      s.remapped p.flow q = false → s.heldBefore input p = false → (p.vc = 0 → s.partner q p = none) → ∃ u, exec i s = .next u ∧
        ∃ e ∈ u.fab.queues, e.port = q ∧ e.vc = p.vc ∧ e.pkt = p ∧ e.input = input) ∧
    (here → p.kind = 0x01 → p.dst ≠ s.devid → s.routePort p.flow p.dst = none → ∃ u r, exec i s = .next u ∧ Due u (s.now + 8) (.packetRoute 16 r) ∧
      r.kind = 0x10 ∧ r.status = 7 ∧ r.tag = p.tag ∧ r.dst = p.src) ∧
    (here → p.kind = 0x20 → p.resAnswer = false → p.dst ≠ s.devid → s.routePort p.flow p.dst = none → exec i s = .next
      (s.fromRouter { s.resPkt p.src p.resReply s.devid p.resSize p.resVa p.resPa with tag := p.tag, status := 7 })) ∧
    (∀ e, can → s.headOf q 3 = some e → e.crumb = none → ∃ u, exec (.packetTransmit q) s = .next u ∧ sent u e) ∧
    (∀ e, can → s.headOf q 3 = none → s.headOf q 1 = some e → e.crumb = none → ∃ u, exec (.packetTransmit q) s = .next u ∧ sent u e) ∧
    ((s.link q).up = false → exec (.packetTransmit q) s = .next s) ∧
    (∀ vc e h, s.headOf q vc = some e → e.headAt = some h → s.heldHead e = true →
      exec (.holdExpiry q vc) s = .next (s.sched (h + s.fab.hold - s.now) rankLate (.holdExpiry q vc))) ∧
    (∀ vc e, s.headOf q vc = some e → s.heldHead e = false → (s.link q).up = true → (s.link q).holding = false →
      ∃ u, exec (.holdExpiry q vc) s = .next u ∧ ∃ x ∈ u.agenda, x.ev.op = .packetTransmit q) ∧
    (∀ vc e r h, vc ≠ 3 → s.inputOf input vc = e :: r → e.frontAt = some h → s.now < h + us s.fab.dltimer →
      exec (.deadlockTimer input vc) s = .next (s.sched (h + us s.fab.dltimer - s.now) rankLate (.deadlockTimer input vc))) ∧
    (∀ vc e r h off, vc ≠ 3 → s.inputOf input vc = e :: r → e.frontAt = some h → h + us s.fab.dltimer ≤ s.now →
      (s.inputOf input vc).filter (fun x => x.pkt.flow == e.pkt.flow) = [e] →
      s.lanePlace (e.port / 4) (roundUp (32 + 8 * e.pkt.payload.length) 64) = some off →
      ∃ u, exec (.deadlockTimer input vc) s = .next u ∧ u.fab.queues.length + 1 = s.fab.queues.length ∧
        u.fab.lanes = s.fab.lanes ++ [{ stack := e.port / 4, off := off, len := roundUp (32 + 8 * e.pkt.payload.length) 64,
                                        q := { e with headAt := none, frontAt := none } }])

/-- R144, R206 to R208, R212, R405: reads and writes at their home. RD of up to 8 bytes is answered RDR with the bytes there; WR and WRN
write their bytes and no other, and WRN is answered; an access that its home refuses is answered FAULT with the cause, or noted against its
flow where it was posted. A home whose bank is busy takes the access later; a posted packet waits for the earlier ones of its flow, and FLU
for all. MGT of type 1 tells the firmware. That a FAULT reply carries the cause in ADDR is log entry 30 (DESIGN CHOICE); the numbers by which
the model lists what the firmware is told are log entry 64 (DESIGN CHOICE). -/
def Obligations.HomesReadAndWrite : Prop :=
  ∀ (s : State) (p : Packet), s.pkt = some p → s.Sound → p.opsz ≤ 3 →
    let n := 2 ^ p.opsz
    let chk := s.homeChk p.addr n
    let only (u : State) : Prop := (∀ a, a < p.addr ∨ p.addr + n ≤ a → byteAt u a = byteAt s a) ∧ u.desc = s.desc
    let written (u : State) : Prop := only u ∧ leNat (rdBytes u.mem p.addr n) = (p.dw 0).toNat % 2 ^ (8 * n)
    let later (u : State) (d : Nat) (i : Instr) : Prop := u.mem = s.mem ∧ ∃ e ∈ u.agenda, e.due = s.now + d ∧ e.ev.op = i ∧ e.ev.pkt = some p
    let reply (kind status : Nat) (u : State) (payload : List Word) (cause : Nat) : Prop := ∃ r, Replied u r ∧ r.kind = kind ∧ r.vc = 1 ∧
      r.dst = p.src ∧ r.tag = p.tag ∧ r.status = status ∧ r.payload = payload ∧ r.addr = cause
    (chk = .go → s.psnAt p.addr = none → ∃ u, exec .rd s = .next u ∧ u.mem = s.mem ∧ reply 0x10 0 u [wd (leNat (rdBytes s.mem p.addr n))] 0) ∧
    (∀ q, chk = .go → s.psnAt p.addr = some q → ∃ u, exec .rd s = .next u ∧ u.mem = s.mem ∧ reply 0x10 8 u [] q.cause) ∧
    (∀ c, chk = .fault c → ∃ u, exec .rd s = .next u ∧ reply 0x10 8 u [] c) ∧
    (∀ d, chk = .again d → ∃ u, exec .rd s = .next u ∧ later u d .rd) ∧
    (p.payload ≠ [] →
      (chk = .go → ∃ u, exec .wrn s = .next u ∧ written u ∧ reply 0x13 0 u [] 0) ∧
      (∀ c, chk = .fault c → ∃ u, exec .wrn s = .next u ∧ u.mem = s.mem ∧ reply 0x13 8 u [] c) ∧
      (s.earlierPosted p = true → ∃ u, exec .wr s = .next u ∧ later u 1 .wr) ∧
      (s.earlierPosted p = false → chk = .go → ∃ u, exec .wr s = .next u ∧ written u) ∧
      (∀ c, s.earlierPosted p = false → chk = .fault c → ∃ u, exec .wr s = .next u ∧ u.mem = s.mem ∧ p.flow ∈ u.fab.failed)) ∧
    (s.earlierPosted p = true → ∃ u, exec .flu s = .next u ∧ later u 1 .flu) ∧
    (s.earlierPosted p = false → p.flow ∉ s.fab.failed → ∃ u, exec .flu s = .next u ∧ u.mem = s.mem ∧ reply 0x13 0 u [] 0) ∧
    (s.earlierPosted p = false → p.flow ∈ s.fab.failed → ∃ u, exec .flu s = .next u ∧ reply 0x13 8 u [] 3 ∧ p.flow ∉ u.fab.failed) ∧
    (bits (p.dw 0) 0 8 = 1 → ∃ u, exec .mgt s = .next u ∧ u.pkg.notices = (2 ^ 20 + p.src) :: s.pkg.notices) ∧
    (bits (p.dw 0) 0 8 ≠ 1 → ∃ u, exec .mgt s = .next u ∧ u.fab.discarded = p :: s.fab.discarded)

/-- R206, R207, R212, R216: atomics at their home. ATM writes its new value and is answered with the old one; asked again, it is answered
from the reply cache and writes nothing. ATMP is answered only where WIN is 1; MATM applies its leaves in order, and answers V and no DUP.
With no room in the cache they are answered RETRY and not applied; one whose operand came poisoned is answered FAULT and not applied (R408).
-/
def Obligations.HomesApplyAtomics : Prop :=
  ∀ (s : State) (p : Packet) (op : AtomOp), s.pkt = some p → s.Sound → p.opsz = 2 ∨ p.opsz = 3 → 2 ≤ p.payload.length →
    let n := 2 ^ p.opsz
    let old := leWord (rdBytes s.mem p.addr n)
    let only (u : State) : Prop := (∀ a, a < p.addr ∨ p.addr + n ≤ a → byteAt u a = byteAt s a) ∧ u.desc = s.desc
    let holds (u : State) (v : Word) : Prop := only u ∧ leNat (rdBytes u.mem p.addr n) = v.toNat % 2 ^ (8 * n)
    let reply (u : State) (kind : Nat) (payload : List Word) : Prop := ∃ r, Replied u r ∧ r.kind = kind ∧ r.dst = p.src ∧ r.tag = p.tag ∧
      r.payload = payload ∧ r.status = if kind = 0x15 then 6 else 0
    (p.poisoned ≠ 0 → ∃ u r, exec .atm s = .next u ∧ u.mem = s.mem ∧ Replied u r ∧ r.kind = 0x11 ∧ r.dst = p.src ∧ r.tag = p.tag ∧ r.status = 8) ∧
    (s.homeChk p.addr n = .go → s.psnAt p.addr = none → p.poisoned = 0 →
    (atomOf p.op = some op →
      (s.cachedOf p.src p.tag = none → s.cacheRoom 1 = true → ∃ u, exec .atm s = .next u ∧ holds u (atomNew op n old (p.dw 0) (p.dw 1)) ∧
        reply u 0x11 [old] ∧ ∃ c ∈ u.fab.cache, c.src = p.src ∧ c.tag = p.tag ∧ c.value = old) ∧
      (∀ c, s.cachedOf p.src p.tag = some c → c.status = 0 → ∃ u, exec .atm s = .next u ∧ u.mem = s.mem ∧ reply u 0x11 [c.value]) ∧
      (s.cachedOf p.src p.tag = none → s.cacheRoom 1 = false → ∃ u, exec .atm s = .next u ∧ u.mem = s.mem ∧ reply u 0x15 []) ∧
      (p.win = false → p.vc = 0 ∨ s.earlierPosted p = false → ∃ u, exec .atmp s = .next u ∧ holds u (atomNew op n old (p.dw 0) (p.dw 1)) ∧
        u.fab.cache = s.fab.cache ∧ (s.barriers = [] → u.agenda = s.agenda)) ∧
      (p.win = true → p.vc = 0 → s.cachedOf p.src p.tag = none → s.cacheRoom 1 = true → ∃ u, exec .atmp s = .next u ∧
        holds u (atomNew op n old (p.dw 0) (p.dw 1)) ∧ reply u 0x14 [])) ∧
    (p.kind = 6 → p.op = 0 → p.nleaf = 1 → 4 ≤ p.payload.length → s.cacheRoom 2 = true →
      let a := leafOf (p.dw 0) (p.dw 1)
      let b := leafOf (p.dw 2) (p.dw 3)
      (a.src ≠ b.src ∨ a.tag ≠ b.tag) → s.cachedOf a.src a.tag = none → s.cachedOf b.src b.tag = none →
      ∃ u, exec .matm s = .next u ∧ holds u (old + a.addend + b.addend) ∧ reply u 0x12 [old, 0]))

/-- R181, R195, R212, R417: APP and SPW reach the JU of the unit that they name with what they carry; an absent unit is answered REFUSED;
one that was answered before is answered the same again; one whose address or PC came poisoned is answered FAULT (R408). -/
def Obligations.MessagesReachTheirUnit : Prop :=
  ∀ (s : State) (p : Packet), s.pkt = some p →
    let unit := p.aux / 2 ^ 9 % 128
    let told (u : State) (status : Nat) : Prop := ∃ r, Replied u r ∧ r.kind = 0x13 ∧ r.dst = p.src ∧ r.tag = p.tag ∧ r.status = status
    let fresh : Prop := s.cachedOf p.src p.tag = none ∧ s.cacheRoom 1 = true
    (∀ c, s.cachedOf p.src p.tag = some c → ∃ u w, exec .app s = .next u ∧ told u c.status ∧ exec .spw s = .next w ∧ told w c.status) ∧
    (s.cachedOf p.src p.tag = none → (p.poisoned.testBit 0 = true → ∃ u, exec .app s = .next u ∧ told u 8) ∧
      (p.poisoned % 4 ≠ 0 → ∃ u, exec .spw s = .next u ∧ told u 8)) ∧
    (fresh → p.aux % 8 + 2 ≤ p.payload.length → p.poisoned.testBit 0 = false →
      (s.present unit = false → ∃ u, exec .app s = .next u ∧ told u 2) ∧
      (s.present unit = true → ∃ u r, exec .app s = .next u ∧ Due u s.now (.appendAccept r) ∧ r.unit = unit ∧ r.port = p.aux / 2 ^ 3 % 64 ∧
        r.ltag = bits (p.dw 0) 48 16 ∧ r.senderDev = p.src ∧ r.senderWid = bits (p.dw 0) 12 20 ∧ r.replyPkt = some p ∧ r.reply = none ∧
        r.msg.map (·.v) = (List.range (p.aux % 8 + 1)).map fun i => p.dw (i + 1))) ∧
    (fresh → p.aux / 2 ^ 3 % 8 + 2 ≤ p.payload.length → p.poisoned % 4 = 0 →
      (s.present unit = false → ∃ u, exec .spw s = .next u ∧ told u 2) ∧
      (s.present unit = true → ∃ u r, exec .spw s = .next u ∧ Due u s.now (.spawnrAccept r) ∧ r.unit = unit ∧ r.pc = p.dw 1 ∧
        r.prio = p.aux / 2 ^ 6 % 8 ∧ r.ltag = bits (p.dw 0) 48 16 ∧ r.senderDev = p.src ∧ r.replyPkt = some p ∧ r.reply = none ∧
        r.psn = p.poisoned / 4 ∧ r.args = (List.range (p.aux / 2 ^ 3 % 8)).map fun i => p.dw (i + 2)))

/-- R144, R208, R211, R404: replies at their requester. The first reply for a tag closes the request: a load's value, extended, enters its
thread's return buffer, a status is posted, an acknowledged atomic is no longer awaited; the tag cools. UNREACH and FAULT of a load give a
poisoned value. A reply for no request changes nothing. RETRY keeps the request, which is sent again after 1 µs; a time-out sends it again
up to twice, which makes three sends in all, and then fails it: a residency request is then answered FAULT by itself (log entry 23). R217,
R410: MATR for a crumb answers its members in order, each with the running value that its leaf found, and frees the crumb; for no crumb it
does nothing; for a poisoned one the crumb is lost. A lost crumb is recorded, its DETAIL as log entry 54 (DEDUCED) has it, and its index held
for 200 µs. -/
def Obligations.RepliesComplete : Prop :=
  (∀ (s : State) (p : Packet) (r : Req), s.pkt = some p → s.Sound → rising s.fab.reqs = true →
     (p.status = 7 → p.addr ≠ 2 ∧ p.addr ≠ 5) →
     let taken (i : Instr) (post : State → Prop) : Prop := ∃ u, exec i s = .next u ∧ mget u.fab.reqs p.tag = none ∧ p.tag ∈ u.fab.cooling ∧ post u
     let resent (u : State) (q : Req) : Prop := mget u.fab.reqs q.tag = some { q with sentAt := s.now } ∧ Replied u q.pkt ∧
       Due u (s.now + us s.fab.retryto) (.retryTimeout q.tag)
     (mget s.fab.reqs p.tag = none → exec .rdr s = .next s ∧ exec .atr s = .next s ∧ exec .sts s = .next s ∧ exec .ack s = .next s ∧
       exec .retry s = .next s) ∧
     (mget s.fab.reqs p.tag = some r → r.tag = p.tag →
       (∀ i ∈ [Instr.rdr, .atr], ∀ t id n sx dev x, r.what = .load t id n sx dev → r.pkt.opsz ≠ 4 → s.ref? t = some x → x.former = [] → x.st = .ready →
         let vals (v : Val) := x.rb.map fun e => if e.id = id ∧ e.vals = none then { e with vals := some [v] } else e
         (p.status = 0 → p.poisoned = 0 → taken i fun u => ∃ w, u.ref? t = some w ∧ w.rb = vals ⟨loaded sx n (p.dw 0), none⟩) ∧
         (p.status = 7 → taken i fun u => ∃ w v, u.ref? t = some w ∧ w.rb = vals ⟨v, some ⟨0x070, (wd (r.pkt.dst + r.pkt.kind * 2 ^ 16)).toNat⟩⟩)) ∧
       (∀ c, r.what = .post c → p.status ≤ 5 → taken .sts fun u => Posted s u c 1 p.status) ∧
       (∀ t peer x, r.what = .winAck t peer → p.status = 0 → s.ref? t = some x → s.disp.launches = [] →
         taken .ack fun u => ∃ w, u.ref? t = some w ∧ ∀ a ∈ w.winAck, a.1 ≠ p.tag) ∧
       (∃ u, exec .retry s = .next u ∧ mget u.fab.reqs p.tag = some r ∧ Due u (s.now + 2700) (.retryResend p.tag)) ∧
       (p.tag < 0x80000 → ∃ u, exec (.retryResend p.tag) s = .next u ∧ resent u r) ∧
       (r.sends < 3 → ∃ u, exec (.retryTimeout p.tag) s = .next u ∧ resent u { r with sends := r.sends + 1 }) ∧
       (∀ c, 3 ≤ r.sends → r.what = .post c → taken (.retryTimeout p.tag) fun u => Posted s u c 1 1) ∧
       (3 ≤ r.sends → r.what = .res → r.pkt.dst < 4096 → taken (.retryTimeout p.tag) fun u => ∃ e ∈ u.agenda, ∃ q, e.due = s.now ∧
         e.ev.pkt = some q ∧ resEvent r.pkt.resReply = some e.ev.op ∧ q.src = r.pkt.dst ∧ q.status = 8)) ∧
     (∀ tag, ∃ u, exec (.tagReuse tag) s = .next u ∧ tag ∉ u.fab.cooling ∧ u.fab.reqs = s.fab.reqs)) ∧
  (∀ (s : State) (p : Packet) (i : Nat) (x : Crumb), s.pkt = some p → rising s.fab.crumbs = true → mget s.fab.crumbs i = some x →
     let lost (e : Instr) : Prop := ∃ u, exec e s = .next u ∧ mget u.fab.crumbs i = none ∧ i ∈ u.fab.crumbHeld ∧ Due u (s.now + 540000) (.crumbHoldExpiry i) ∧
       Recorded s u { cls := 2, scope := 0, cause := 0x077, agent := 9, detail := wd (i + x.addends.length % 16 * 2 ^ 16) }
     lost (.crumbTimeout i) ∧ (x.psn = true → p.tag = 0x80000 + i → lost .matr) ∧
     (p.tag < 0x80000 → exec .matr s = .next s) ∧
     (∀ m n, x.psn = false → p.tag = 0x80000 + i → x.members = [m, n] → m.nl = 1 → n.nl = 1 → m.first = 0 → n.first = 1 → m.noreply = false →
       n.noreply = false → x.op = 1 → x.addends.length = 2 → p.dw 1 = 0 → p.status = 0 →
       ∃ u a b, exec .matr s = .next u ∧ mget u.fab.crumbs i = none ∧ Due u (s.now + 8) (.packetRoute 16 a) ∧ Due u (s.now + 8) (.packetRoute 16 b) ∧
         a.kind = 0x11 ∧ a.dst = m.src ∧ a.tag = m.tag ∧ a.payload = [p.dw 0] ∧
         b.kind = 0x11 ∧ b.dst = n.src ∧ b.tag = n.tag ∧ b.payload = [p.dw 0 + x.addends.getD 0 0]) ∧
     (∃ u, exec (.crumbHoldExpiry i) s = .next u ∧ i ∉ u.fab.crumbHeld ∧ u.fab.crumbs = s.fab.crumbs))

/-- R209, R219 to R221, R369, R407, R411: links and their optics. Replays are counted, and the eighth of one flit holds the port for a
retrain, in which READY.OPT of the port is 0; a retrain that succeeds lets it go on, unless the package is dead (R370), and the third in a
row that fails takes it down. A fibre that fails, of this end or of the far one, leaves the port up while that end has one left, and the last
takes it down. A ring written with MEN takes the wavelength from the
ring that held it; its light moves at the next flit boundary. The readings of photodiodes and temperatures are free values (log entry 2). -/
def Obligations.LinksAndOptics : Prop :=
  ∀ (s : State) (p f b : Nat), p < 16 → f < 8 → b < 68 →
    let x := s.link p
    (∀ n, x.up = true → ∃ u, exec (.linkReplay p n) s = .next u ∧ (u.link p).replays = x.replays + 1 ∧ (n = 8 → (u.link p).holding = true ∧
        u.pkg.opt.getLsbD p = false ∧
      Recorded s u { cls := 2, scope := 0, cause := 0x075, agent := 9, detail := wd (p + (x.retrains + 1) * 2 ^ 4) }) ∧
      (n ≠ 8 → (u.link p).holding = x.holding)) ∧
    (x.up = true → x.holding = true →
      (∃ u, exec (.retrainEnd p true) s = .next u ∧ (u.link p).holding = false ∧ (u.link p).retrains = 0 ∧ (u.link p).up = true ∧
        u.pkg.opt.getLsbD p = !s.pkg.dead) ∧
      (x.retrains < 2 → ∃ u, exec (.retrainEnd p false) s = .next u ∧ (u.link p).holding = true ∧ (u.link p).retrains = x.retrains + 1) ∧
      (2 ≤ x.retrains → s.fab.queues = [] → s.fab.lanes = [] → ∃ u, exec (.retrainEnd p false) s = .next u ∧ (u.link p).up = false ∧
        u.pkg.opt.getLsbD p = false ∧ u.pkg.replace.getLsbD 5 = true)) ∧
    ((nget s.phot.fup p 0).getLsbD f = true → 1 < x.fibres → ∃ u, exec (.fibredown p ⟨false, f⟩) s = .next u ∧ (u.link p).up = x.up ∧
      (u.link p).fibres = x.fibres - 1 ∧ (nget u.phot.fup p 0).getLsbD f = false ∧
      Recorded s u { cls := 4, scope := 4, cause := 0x080, agent := 9, detail := wd (p + f * 2 ^ 4) }) ∧
    ((nget s.phot.fup p 0).getLsbD f = true → x.fibres = 1 → x.up = true → s.fab.queues = [] → s.fab.lanes = [] →
      ∃ u, exec (.fibredown p ⟨false, f⟩) s = .next u ∧ (u.link p).up = false ∧ u.pkg.opt.getLsbD p = false) ∧
    ((nget s.phot.fup p 0).getLsbD f = false → exec (.fibredown p ⟨false, f⟩) s = .next s) ∧
    (let rx := x.rx &&& ~~~(BitVec.ofNat 8 (2 ^ f))
     (rx ≠ 0 → ∃ u, exec (.fibredown p ⟨true, f⟩) s = .next u ∧ u.link p = { x with rx := rx } ∧ u.phot = s.phot ∧ u.pkg = s.pkg) ∧
     (rx = 0 → x.up = true → s.fab.queues = [] → s.fab.lanes = [] → ∃ u, exec (.fibredown p ⟨true, f⟩) s = .next u ∧
       (u.link p).up = false ∧ u.pkg.opt.getLsbD p = false)) ∧
    (∀ v : Word, (s.ring p f b).men = false → v.getLsbD 47 = true → ∃ u, exec (.ringWrite p f b 8 false v) s = .next u ∧
      u.ring p f b = { men := true, map := bits v 40 6, htr := bits v 0 12 } ∧
      ∀ c, (List.range 68).find? (fun k => k != b && (s.ring p f k).men && (s.ring p f k).map == bits v 40 6) = some c →
        (u.ring p f c).men = false ∧ Due u (s.now + 1) (.wavelengthMove p f (bits v 40 6))) ∧
    (∀ v : Word, (s.ring p f b).men = true → ∃ u, exec (.ringWrite p f b 8 false v) s = .next u ∧
      u.ring p f b = { men := v.getLsbD 47, map := (s.ring p f b).map, htr := bits v 0 12 }) ∧
    (∃ u, exec (.wavelengthMove p f b) s = .next u ∧ ∀ e, e ∈ u.phot.light ↔ e ∈ s.phot.light ∧ ¬(e.1 = p ∧ e.2.1 = f ∧ e.2.2.1 = b)) ∧
    (∃ u, exec .pdRefresh s = .next u ∧ u.phot.pd = some s.free ∧ u.phot.rings = s.phot.rings ∧ u.free = s.free + 1) ∧
    (∃ u, exec .tempRefresh s = .next u ∧ nget u.phot.temp p 0 = Config.measuredTemp (s.free + p) ∧ u.phot.rings = s.phot.rings ∧
      ∀ k, k < 4 → nget u.pkg.telTemp k 0 = Config.measuredTemp (s.free + 16 + k)) ∧
    (∃ u, exec (.ringRetire p f b) s = .next u ∧ u.pkg.replace.getLsbD 4 = true ∧
      Recorded s u { cls := 4, scope := 4, cause := 0x081, agent := 11, detail := wd (p + f * 2 ^ 4 + b * 2 ^ 8) })

/-- R27, R237, R394 to R399, R412: POWER_WINDOW lowers the clock a step above the design power (one step: the model's choice, log entry 68);
a scrub counts what is corrected (the record's DETAIL 0: log entry 49, DESIGN CHOICE) and poisons what is not, a dword, a descriptor, a
register, a port or a crumb; a parity error outside the vault is
noted; an HBM read of severity 1 is logged, of severity 2 also delivered poisoned; a transfer that fails four retries holds its channel for
the lane test, which gives the lane to a free spare and releases the channel. A unit that is retired reads absent. -/
def Obligations.ErrorsOfThePackage : Prop :=
  ∀ (s : State) (mw pa bit lane ltag unit : Nat) (multi : Bool), s.Sound →
    let k := s.pkg
    let r : HbmAccess := ⟨pa, ltag, unit⟩
    let h := s.channel pa / 64
    let c := s.channel pa % 64
    (4200000 < mw → k.clkStep ≠ 63 → ∃ u, exec (.powerWindow mw) s = .next u ∧ u.pkg.clkStep = k.clkStep + 1 ∧ u.pkg.clkCount = k.clkCount + 1 ∧
      u.pkg.telpwr = BitVec.ofNat 32 mw) ∧
    (mw ≤ 4200000 → k.clkStep = 0 → ∃ u, exec (.powerWindow mw) s = .next u ∧ u.pkg.clkStep = 0 ∧ u.pkg.clkCount = k.clkCount ∧
      u.pkg.telpwr = BitVec.ofNat 32 mw) ∧
    (∀ tgt, exec (.patrolScrub tgt .clean) s = .next s) ∧
    (s.inSram pa = true →
      (s.crew? 0 0 = none → ∃ u, exec (.patrolScrub (.dword pa) .corrected) s = .next u ∧ u.psn = s.psn ∧ u.mem = s.mem ∧ u.pkg.ceCount = k.ceCount + 1 ∧
        Recorded s u { cls := 1, scope := 0, cause := 0x040, agent := 8, pa := wd (s.devid * 2 ^ 40 + pa), detail := 0 }) ∧
      (∃ u, exec (.patrolScrub (.dword pa) .uncorrectable) s = .next u ∧ u.psnAt pa = some ⟨0x041, 0⟩ ∧ u.mem = s.mem ∧
        ∀ a, a / 8 ≠ pa / 8 → u.psnAt a = s.psnAt a) ∧
      (∃ u, exec (.patrolScrub (.desc pa) .uncorrectable) s = .next u ∧ mget u.descPsn (pa / 64) = some ⟨0x041, 0⟩ ∧ u.psn = s.psn)) ∧
    (∀ r t i, s.ref? r = some t → t.inVault (t.vaultKey i) = true → ∃ u x,
      exec (.patrolScrub (.vault r (t.vaultKey i)) .uncorrectable) s = .next u ∧
      u.thread? t.unit t.slot = some x ∧ x.psnOf (.main i) = some ⟨0x043, 0⟩ ∧ ∀ o, x.rd o = t.rd o) ∧
    (∀ r t key, s.ref? r = some t → t.inVault key = false → ∀ f, exec (.patrolScrub (.vault r key) f) s = .next s) ∧
    (∀ r t g, s.ref? r = some t → Thread.hasParity (canonReg g) = true → ∃ u x, exec (.patrolScrub (.parity r g) .uncorrectable) s = .next u ∧
      u.thread? t.unit t.slot = some x ∧ canonReg g ∈ x.par ∧ ∀ o, x.rd o = t.rd o) ∧
    (∀ i x, mget s.fab.crumbs i = some x → rising s.fab.crumbs = true → ∃ u, exec (.patrolScrub (.crumb i) .uncorrectable) s = .next u ∧
      mget u.fab.crumbs i = some { x with psn := true } ∧ u.mem = s.mem) ∧
    (∀ l v p c, s.crew? l v = some c → p < 1024 → ∃ u d, exec (.patrolScrub (.port l v p) .uncorrectable) s = .next u ∧
      u.crew? l v = some d ∧ (d.port p).psn = some ⟨0x041, 0⟩ ∧ ∀ q, q ≠ p → d.port q = c.port q) ∧
    (pa < 2 ^ 39 → h < 8 →
      (∃ u, exec (.hbmRead r 1 bit multi) s = .next u ∧ (u.hbmLog h).alogn = (s.hbmLog h).alogn + 1 ∧ u.psn = s.psn ∧ u.mem = s.mem) ∧
      (∃ u, exec (.hbmRead r 2 bit multi) s = .next u ∧ (u.hbmLog h).alogn = (s.hbmLog h).alogn + 1 ∧ u.mem = s.mem ∧
        ∀ a, a / 64 = pa / 64 → (u.psnAt a).isSome = true) ∧
      (∀ n, 0 < n → n ≤ 4 → ∃ u, exec (.hbmTransferRetry r n true) s = .next u ∧ (u.hbmLog h).tlogn = (s.hbmLog h).tlogn + 1) ∧
      (∃ u, exec (.hbmTransferRetry r 4 false) s = .next u ∧ c ∈ (u.hbmLog h).testing) ∧
      (lane < 34 → c ∈ (s.hbmLog h).testing →
        (∃ u, exec (.laneTestEnd r lane true) s = .next u ∧ c ∉ (u.hbmLog h).testing ∧
          (((mget (s.hbmLog h).lanemap c).getD 0).getLsbD 7 = false → ∃ m, mget (u.hbmLog h).lanemap c = some m ∧ m.getLsbD 7 = true ∧
            bits m 0 6 = lane)) ∧
        (∃ u, exec (.laneTestEnd r lane false) s = .next u ∧ c ∉ (u.hbmLog h).testing ∧ u.pkg.replace.getLsbD 2 = true ∧
          ∀ a, a / 64 = pa / 64 → (u.psnAt a).isSome = true))) ∧
    (∀ st fe slab isSlab, st < 4 → fe < 36 → slab < 36 → ∃ u, exec (.unitRetire st fe slab isSlab) s = .next u ∧
      (∀ b ∈ u.lat.units, ¬(b.unit / 32 = st ∧ if isSlab = true then b.slab = slab ∨ (b.ganged = true ∧ b.slab + 1 = slab) else b.fe = fe)) ∧
      u.pkg.replace.getLsbD (if isSlab then 0 else 1) = true ∧
      ∃ q, mget u.lat.pos (36 * st + if isSlab then slab else fe) = some q ∧ if isSlab = true then q.slret = true else q.feret = true)


/-! ## The machine -/
/-- R239 to R243: words written out from the tables of the encoding decode to the instructions they stand for; words with an unassigned
opcode, a reserved field or a reserved operand level are refused with that SUB and that WORD (R247, R382). -/
def Obligations.SpecWordsDecode : Prop :=
  decode [0x02020C00] = .ok (.add false (.main 3) (.main 1) (.main 2)) ∧
  decode [0xFF040484] = .ok (.addi true 0xFF (.main 1) (.main 2)) ∧
  decode [0x000014D2, 0x89ABCDEF, 0x01234567] = .ok (.liLit false 0x0123456789ABCDEF (.main 5)) ∧
  decode [0xFFFFFD10] = .ok (.br false 0x3FFFFF) ∧
  decode [0x00000130] = .ok (.ret false) ∧
  decode [0x36124200] = .ok (.ld false false true 2 3 (.main 16) (.main 9)) ∧
  decode [0x82020D80] = .ok (.fadd false true (.main 3) (.main 1) (.main 2)) ∧
  decode [0x82020E80] = .ok (.aadd false true (.main 3) (.main 1) (.main 2)) ∧
  decode [0x01001728] = .ok (.wait false 5 1 .k0) ∧
  decode [0x00000310] = .ok (.exit false) ∧
  decode [0x07000380] = .ok (.trap false 7) ∧
  decode [0x10000798] = .ok (.mfs false 0x10 (.main 1)) ∧
  decode [0x0A1221F1, 0x05802B00, 0x000C0C00] = .ok (.vadd
    { sm := false, x := false, b := .main 10, a := .main 9, d := .main 8, n := .main 11, c := .k0, sat := false, csem := 2, cen := true,
      dsem := 3, shape := 0xC0, fmt := 0xC0, fsrc := false, rm := 0 }) ∧
  decode [0x000003F8] = .ok (.ill false 0 0) ∧
  decode [0x000003F0] = .error ⟨0, 0⟩ ∧
  decode [0x00000710] = .error ⟨1, 0⟩ ∧
  decode [0x00018000] = .error ⟨2, 0⟩

/-- R239 to R243: the words of every well-formed instruction decode to it, with every operand and every field at every value that its
encoding admits. -/
def Obligations.DecodeEncodeRoundTrip : Prop := ∀ i : Instr, i.wf = true → decode (encode i) = .ok i

/-- What every step keeps, in every state that has it: memory lists rising addresses with no zero byte, descriptors and poison stand in one
order and only where there are any, no thread slot holds two threads, and nothing but events of the table is due. -/
def Obligations.StepKeepsSound : Prop := ∀ s u : State, s.Sound → step s = .next u → u.Sound

/-- Reset has what every step keeps. R7, R30, R69, R73, R201, R219, R223: what the spec gives for reset: no thread and no launch exists,
nothing is due; a mill has AGESTEP 4,096 and SLOTMAX 256; FABCFG has DLTIMER 20 and RETRYTO 30; no link is up; a ring from
0 to 63 modulates its own wavelength and a spare does not; BAR 2 is 1 GiB. That memory, descriptors and poison are empty is the model's
choice, for the spec gives memory no contents at reset (log entries 3 and 4, DESIGN CHOICE). -/
def Obligations.ResetIsSound : Prop :=
  (State.reset.Sound) ∧
  (let s := State.reset
   s.now = 0 ∧ s.mem = [] ∧ s.desc = [] ∧ s.psn = [] ∧ s.threads = [] ∧ s.agenda = [] ∧ s.inputs = [] ∧ s.disp.launches = [] ∧
   s.disp.crews = [] ∧ s.pkg.log = [] ∧ s.fab.dltimer = 20 ∧ s.fab.retryto = 30 ∧ s.fab.comb = false ∧ s.fab.route = [] ∧
   s.host.bar2 = 2 ^ 30 ∧
   (∀ u, (s.unit u).ageStep = 4096 ∧ (s.unit u).slotMax = 256 ∧ (s.unit u).cmds = [] ∧ (s.unit u).chans = []) ∧
   (∀ p, p < 16 → (s.link p).up = false) ∧
   (∀ p f r, (s.ring p f r).men = decide (r < 64) ∧ (r < 64 → (s.ring p f r).map = r)))

/-- No sound state stops the machine: a step answers a next state, never a fault and never a refusal. And each event completes, whatever it
acts on: `exec` of it answers a next state in every state, which is sound if the state was; an annulment and an asynchronous trap stand in
the place of an instruction, and need the thread that issues. -/
def Obligations.MachineNeverStops : Prop :=
  (∀ s : State, s.Sound → ∃ u, step s = .next u) ∧
  (∀ (s : State) (i1 i2 : Option Image) (img : Image) (a b c d e : Nat) (p q : Bool) (lanes : List (Nat × Half)) (v w x y : Word)
      (r : ThreadRef) (vals : List Val) (acc : Access) (pt : PostTo) (st : Status) (g : DebugReg)
      (ans : WalkAnswer) (data data2 : List Byte) (key : KeyCommand) (ring : RingImage) (ar : AppendReq) (sr : SpawnReq) (sem : BitVec 3)
      (o : Option Nat) (writer : Option ThreadRef) (pkt : Packet) (tgt : ScrubTarget) (find : ScrubFind) (ws : List Word)
      (hr : HostReg) (bc : BindCommand) (ha : HbmAccess) (lf : LinkFibres) (fe : FibreEnd),
     ∀ i ∈ ([
       .boot i1 i2, .stackImageVerify img, .hbmTrain a p lanes, .linkTrain a p q b c lf, .registerWrite hr b v, .apply bc,
       .launchRecordCommit a v, .lpstatRead a b c, .lpcqhWrite a v, .lpcqbWrite a v, .launchHeadCheck a, .backoffExpiry a, .crewStart a b,
       .launchEnd a b c, .crewSaved a b c, .crewRestore a b, .resultReturn r a vals, .switchPointCommit r, .bankAccept acc,
       .semPost pt a st, .debugHalt r, .debugResume r, .debugWrite r g v, .pageWalkEnd a b c, .walkFaultResolve a b c ans,
       .hbmplaceWrite p v, .descriptorWindowWrite a b v, .hostBar2Write a data, .hostBar2Read a b, .msixUnmask a, .ownerset key data data2,
       .stagedImage img, .mxStart a, .vxStart a, .consumedPost a b, .donePost a b, .engineFault a b, .tmvBlockDone a b, .cxBlockWrite a b,
       .ringBArrive a ring, .ringTimeout a b, .appendAccept ar, .spawnrAccept sr, .handlerCreate a b c d v sem, .wakePost a b c d e sem,
       .recvTake r, .barrierRegister r a v b, .barrierArrival r sem v a o, .barrierBroken a p writer, .syscAnswer r v,
       .fingerprintExchange r, .unitRetire a b c p, .packetRoute a pkt, .holdExpiry a b, .deadlockTimer a b, .retryResend a,
       .retryTimeout a, .crumbTimeout a, .crumbHoldExpiry a, .linkReplay a b, .retrainEnd a p, .fibredown a fe, .ringWrite a b c d p v,
       .wavelengthMove a b c, .powerWindow a, .patrolScrub tgt find, .hbmRead ha b c p, .hbmTransferRetry ha b p,
       .laneTestEnd ha b p, .segmentFree r v, .packetTransmit a, .tagReuse a, .capxComplete r, .dispReady v w x y ws, .ringRetire a b c,
       .debugEnd r, .rd, .wr, .wrn, .atm, .atmp, .matm, .app, .spw, .flu, .rdr, .atr, .matr, .sts, .ack, .retry, .mgt, .resCollapse,
       .resInval, .resAck, .resDone, .resMoved, .resDup, .resMigrate, .resCollapseCommand, .resSplit, .resMapped, .dup, .migrate,
       .collapse, .split, .tinv, .tinvComplete, .preemptSave, .preemptRestore, .attest, .patternEvaluation, .coldReset,
       .functionLevelReset, .hostLinkTrain, .endSweep, .residencyResume, .pdRefresh, .tempRefresh] : List Instr),
       ∃ u, exec i s = .next u ∧ (s.Sound → u.Sound)) ∧
  (∀ (s : State) (t : Thread), s.curThread? = some t → ∀ i ∈ ([.annulment, .asyncTrap] : List Instr), ∃ u, exec i s = .next u)

/-- R239 to R243, R250, R252, R253, R320, R386: when nothing is due, the thread that issues runs the instruction that the words at its PC decode
to: the step is `exec` of it, in the state in which that thread has taken its issue position and stands as the issuing thread; a twin whose
registers differ from the primary's runs it with its own beside it. Words that decode
to nothing take the illegal-instruction trap; an asynchronous fault or an annulment comes in the instruction's place. -/
def Obligations.StepRunsDecodedInstruction : Prop :=
  ∀ (s s1 : State) (t : Thread), s.inputs = [] → (∀ e ∈ s.agenda, s.now < e.due) → s.nextIssue = some (s1, t) →
    let t' := s1.takePosition t
    let s2 := { s1.setThread t' with cur := (t'.unit, t'.slot), pkt := none, cmd := none }
    Issues s2 t' ∧
    (t'.async ≠ [] → step s = exec .asyncTrap s2) ∧
    (t'.async = [] → t'.skipc ≠ 0 → step s = exec .annulment s2) ∧
    (t'.async = [] → t'.skipc = 0 → ∀ ws, s2.fetch t' = .words ws →
      (∀ i, decode ws = .ok i →
        (∀ s3, s2.before t' i = .go s3 → step s = twinned (exec i) s3 t' ∧
          ((∀ w, t'.twin = some w → w.own = []) → step s = exec i s3)) ∧
        (t'.twin = none → sourcePsn t' i = none → readsVault i = false → step s = exec i s2)) ∧
      (∀ e, decode ws = .error e → step s = .next (s2.illegal t' e.sub e.word)))

/-- R196 to R198, R303: the thread that issues is READY in this round, held no more by its last POST, and has the greatest EFF of its mill's
eligible threads. Issue clears its wait count and records its EFF, and it is due again in the next round. What comes from outside takes its
place among what is due in this cycle (log entry 1). What is due runs before any instruction, the oldest first: the step is `exec` of the
event, with what it acts on, and the event is due no more. An operation that schedules an event adds that event, and takes none away. -/
def Obligations.StepTakesTurns : Prop :=
  (∀ (s s1 : State) (t : Thread), s.nextIssue = some (s1, t) →
     t ∈ s.threads ∧ t.st = .ready ∧ t.eligRound ≤ s.round ∧ t.holdTo ≤ s.now ∧ s1.threads = s.threads ∧ s1.mem = s.mem ∧ s1.agenda = s.agenda ∧
     (∀ x ∈ s.threads, x.unit = t.unit → s.eligible x = true → s.effOf x ≤ s.effOf t) ∧
     ∀ s2 : State, s2.takePosition t =
       { t with eff := BitVec.ofNat 3 (s2.effOf t), wait := 0, yielded := false, released := none, eligRound := s2.round + 1 }) ∧
  ((∀ (s : State) (e : Event) (r : List Event), s.inputs = e :: r →
     step s = .next ({ s with inputs := r }.schedEv 0 (State.inputRank e.op) e)) ∧
   (∀ (s : State) (e : Sched) (r : List Sched), s.inputs = [] → s.agenda = e :: r → e.due ≤ s.now →
     step s = exec e.ev.op { s with agenda := r, pkt := e.ev.pkt, cmd := e.ev.cmd }) ∧
   (∀ (s : State), s.inputs = [] → (∀ e ∈ s.agenda, s.now < e.due) → s.nextIssue = none → ∃ u, step s = .next u ∧ u.now = s.now + 1) ∧
   (∀ (s : State) (delay rank : Nat) (ev : Event) (x : Sched),
     x ∈ (s.schedEv delay rank ev).agenda ↔ x = { due := s.now + delay, rank := rank, seq := s.seq, ev := ev } ∨ x ∈ s.agenda))

end
end

