-- ==== Sys2Proof/Laws/Maps.lean ====
section
/-! SUPPORT. Sparse maps and memory: reading after writing, and that every operation keeps the one canonical form. -/

namespace Sys2Proof.Machine

variable {α : Type}

/-! ## Rising keys -/

theorem rising_cons (k : Nat) (v : α) (m : Map α) : rising ((k, v) :: m) = true ↔ (∀ e ∈ m, k < e.1) ∧ rising m = true := by
  induction m generalizing k v with
  | nil => simp [rising]
  | cons x r ih =>
    obtain ⟨j, w⟩ := x
    rw [rising, Bool.and_eq_true, decide_eq_true_iff, ih]
    constructor
    · rintro ⟨h, h1, h2⟩
      exact ⟨by simpa using ⟨h, fun a b hab => Nat.lt_trans h (h1 _ hab)⟩, h1, h2⟩
    · rintro ⟨h, h1, h2⟩
      exact ⟨h (j, w) List.mem_cons_self, h1, h2⟩

theorem mem_mset {m : Map α} {k : Nat} {v : α} {e : Nat × α} (h : e ∈ mset m k v) : e = (k, v) ∨ e ∈ m := by
  induction m with
  | nil => simpa [mset] using h
  | cons x r ih =>
    obtain ⟨j, w⟩ := x
    simp only [mset] at h
    split at h
    · simpa using h
    · split at h
      · rcases List.mem_cons.1 h with h | h
        · exact .inl h
        · exact .inr (List.mem_cons_of_mem _ h)
      · rcases List.mem_cons.1 h with h | h
        · exact .inr (by simp [h])
        · rcases ih h with h | h
          · exact .inl h
          · exact .inr (List.mem_cons_of_mem _ h)

theorem mem_mdel {m : Map α} {k : Nat} {e : Nat × α} (h : e ∈ mdel m k) : e ∈ m := by
  induction m with
  | nil => simp [mdel] at h
  | cons x r ih =>
    obtain ⟨j, w⟩ := x
    simp only [mdel] at h
    split at h
    · exact List.mem_cons_of_mem _ h
    · rcases List.mem_cons.1 h with h | h
      · exact h ▸ List.mem_cons_self
      · exact List.mem_cons_of_mem _ (ih h)

theorem rising_mset (m : Map α) (k : Nat) (v : α) (h : rising m = true) : rising (mset m k v) = true := by
  induction m with
  | nil => rfl
  | cons x r ih =>
    obtain ⟨j, w⟩ := x
    obtain ⟨h1, h2⟩ := (rising_cons j w r).1 h
    simp only [mset]
    split
    · rename_i hk
      exact (rising_cons ..).2 ⟨by simpa using ⟨hk, fun a b hab => Nat.lt_trans hk (h1 _ hab)⟩, h⟩
    · split
      · rename_i hk; subst hk; exact (rising_cons ..).2 ⟨h1, h2⟩
      · refine (rising_cons ..).2 ⟨fun e he => ?_, ih h2⟩
        rcases mem_mset he with rfl | he
        · show j < k; omega
        · exact h1 _ he

theorem rising_mdel (m : Map α) (k : Nat) (h : rising m = true) : rising (mdel m k) = true := by
  induction m with
  | nil => rfl
  | cons x r ih =>
    obtain ⟨j, w⟩ := x
    obtain ⟨h1, h2⟩ := (rising_cons j w r).1 h
    simp only [mdel]
    split
    · exact h2
    · exact (rising_cons ..).2 ⟨fun e he => h1 _ (mem_mdel he), ih h2⟩

theorem rising_filter (p : Nat × α → Bool) (m : Map α) (h : rising m = true) : rising (m.filter p) = true := by
  induction m with
  | nil => rfl
  | cons x r ih =>
    obtain ⟨j, w⟩ := x
    obtain ⟨h1, h2⟩ := (rising_cons j w r).1 h
    rw [List.filter_cons]
    split
    · exact (rising_cons ..).2 ⟨fun e he => h1 _ (List.mem_filter.1 he).1, ih h2⟩
    · exact ih h2

theorem rising_mclear (m : Map α) (lo hi : Nat) (h : rising m = true) : rising (mclear m lo hi) = true := rising_filter _ m h

/-- Folding operations that keep the keys rising keeps them so. -/
theorem rising_foldl {β : Type} (f : Map α → β → Map α) (hf : ∀ m b, rising m = true → rising (f m b) = true) (l : List β) (m : Map α)
    (h : rising m = true) : rising (l.foldl f m) = true := by
  induction l generalizing m with
  | nil => exact h
  | cons b r ih => exact ih _ (hf _ _ h)

/-! ## Reading after writing -/

theorem mget_mset_self (m : Map α) (k : Nat) (v : α) : mget (mset m k v) k = some v := by
  induction m with
  | nil => simp [mset, mget]
  | cons x r ih =>
    obtain ⟨j, w⟩ := x
    simp only [mset]
    split
    · simp [mget]
    · split
      · simp [mget]
      · rename_i h; simp [mget, h, ih]

theorem mget_mset_other (m : Map α) (k k' : Nat) (v : α) (h : k' ≠ k) : mget (mset m k v) k' = mget m k' := by
  induction m with
  | nil => simp [mset, mget, Ne.symm h]
  | cons x r ih =>
    obtain ⟨j, w⟩ := x
    simp only [mset]
    split
    · simp [mget, Ne.symm h]
    · split
      · rename_i hk; subst hk; simp [mget, Ne.symm h]
      · simp [mget, ih]

theorem mget_none_of_lt (m : Map α) (k : Nat) (h : ∀ e ∈ m, k < e.1) : mget m k = none := by
  induction m with
  | nil => rfl
  | cons x r ih =>
    obtain ⟨j, w⟩ := x
    have := h (j, w) (by simp)
    simp only [mget, show j ≠ k from by simp at this; omega, if_false]
    exact ih fun e he => h e (List.mem_cons_of_mem _ he)

theorem mget_mdel_self (m : Map α) (k : Nat) (h : rising m = true) : mget (mdel m k) k = none := by
  induction m with
  | nil => rfl
  | cons x r ih =>
    obtain ⟨j, w⟩ := x
    obtain ⟨h1, h2⟩ := (rising_cons j w r).1 h
    simp only [mdel]
    split
    · rename_i hk; subst hk; exact mget_none_of_lt _ _ h1
    · rename_i hk; simp [mget, hk, ih h2]

theorem mget_mdel_other (m : Map α) (k k' : Nat) (h : k' ≠ k) : mget (mdel m k) k' = mget m k' := by
  induction m with
  | nil => rfl
  | cons x r ih =>
    obtain ⟨j, w⟩ := x
    simp only [mdel]
    split
    · rename_i hk; subst hk; simp [mget, Ne.symm h]
    · simp [mget, ih]

theorem mget_filter (p : Nat × α → Bool) (m : Map α) (k : Nat) (h : ∀ v, p (k, v) = true) : mget (m.filter p) k = mget m k := by
  induction m with
  | nil => rfl
  | cons x r ih =>
    obtain ⟨j, w⟩ := x
    rw [List.filter_cons]
    split
    · simp [mget, ih]
    · rename_i hp
      have : j ≠ k := fun e => hp (e ▸ h w)
      simp [mget, this, ih]

/-! ## Memory -/

theorem Memory.wf_iff (m : Memory) : Memory.wf m = true ↔ rising m = true ∧ ∀ e ∈ m, e.2 ≠ 0 := by
  simp [Memory.wf, List.all_eq_true]

theorem wrByte_wf (m : Memory) (a : Nat) (b : Byte) (h : Memory.wf m = true) : Memory.wf (wrByte m a b) = true := by
  obtain ⟨h1, h2⟩ := (Memory.wf_iff m).1 h
  unfold wrByte
  split
  · exact (Memory.wf_iff _).2 ⟨rising_mdel _ _ h1, fun e he => h2 _ (mem_mdel he)⟩
  · refine (Memory.wf_iff _).2 ⟨rising_mset _ _ _ h1, fun e he => ?_⟩
    rcases mem_mset he with rfl | he
    · assumption
    · exact h2 _ he

theorem wrBytes_wf (bs : List Byte) (m : Memory) (a : Nat) (h : Memory.wf m = true) : Memory.wf (wrBytes m a bs) = true := by
  induction bs generalizing m a with
  | nil => exact h
  | cons b r ih => exact ih _ _ (wrByte_wf _ _ _ h)

theorem mclear_wf (m : Memory) (lo hi : Nat) (h : Memory.wf m = true) : Memory.wf (mclear m lo hi) = true := by
  obtain ⟨h1, h2⟩ := (Memory.wf_iff m).1 h
  exact (Memory.wf_iff _).2 ⟨rising_mclear _ _ _ h1, fun e he => h2 _ (List.mem_filter.1 he).1⟩

theorem Memory.wf_foldl {β : Type} (f : Memory → β → Memory) (hf : ∀ m b, Memory.wf m = true → Memory.wf (f m b) = true) (l : List β)
    (m : Memory) (h : Memory.wf m = true) : Memory.wf (l.foldl f m) = true := by
  induction l generalizing m with
  | nil => exact h
  | cons b r ih => exact ih _ (hf _ _ h)

/-- A byte reads as it was last written. -/
theorem rdByte_wrByte_self (m : Memory) (a : Nat) (b : Byte) (h : Memory.wf m = true) : rdByte (wrByte m a b) a = b := by
  unfold rdByte wrByte
  split
  · rename_i hb; rw [mget_mdel_self _ _ ((Memory.wf_iff m).1 h).1, hb]; rfl
  · rw [mget_mset_self]; rfl

/-- A write leaves every other byte. -/
theorem rdByte_wrByte_other (m : Memory) (a a' : Nat) (b : Byte) (h : a' ≠ a) : rdByte (wrByte m a b) a' = rdByte m a' := by
  unfold rdByte wrByte
  split
  · rw [mget_mdel_other _ _ _ h]
  · rw [mget_mset_other _ _ _ _ h]

theorem rdByte_wrBytes_outside (bs : List Byte) (m : Memory) (a a' : Nat) (h : a' < a ∨ a + bs.length ≤ a') :
    rdByte (wrBytes m a bs) a' = rdByte m a' := by
  induction bs generalizing m a with
  | nil => rfl
  | cons b r ih =>
    simp only [List.length_cons] at h
    rw [wrBytes, ih _ _ (by omega), rdByte_wrByte_other _ _ _ _ (by omega)]

theorem rdBytes_wrBytes (bs : List Byte) (m : Memory) (a : Nat) (h : Memory.wf m = true) : rdBytes (wrBytes m a bs) a bs.length = bs := by
  induction bs generalizing m a with
  | nil => rfl
  | cons b r ih =>
    rw [List.length_cons, rdBytes, wrBytes, ih _ _ (wrByte_wf _ _ _ h), rdByte_wrBytes_outside _ _ _ _ (by omega),
      rdByte_wrByte_self _ _ _ h]

theorem rdByte_mclear_outside (m : Memory) (lo hi a : Nat) (h : a < lo ∨ hi ≤ a) : rdByte (mclear m lo hi) a = rdByte m a := by
  unfold rdByte mclear
  rw [mget_filter]
  intro v
  simp only [Bool.not_eq_true', Bool.and_eq_false_imp, decide_eq_true_eq, decide_eq_false_iff_not]
  omega

theorem length_natLe (n v : Nat) : (natLe n v).length = n := by
  induction n generalizing v with
  | zero => rfl
  | succ n ih => simp [natLe, ih]

theorem leNat_natLe (n v : Nat) : leNat (natLe n v) = v % 256 ^ n := by
  induction n generalizing v with
  | zero => simp [natLe, leNat, Nat.mod_one]
  | succ n ih =>
    have h8 : (BitVec.ofNat 8 v).toNat = v % 256 := by simp
    rw [natLe, leNat, ih, h8, Nat.pow_succ, Nat.mul_comm (256 ^ n) 256, Nat.mod_mul]

/-! ## Descriptors -/

theorem wrDesc_ok (m : Map Half) (b : Nat) (d : Half) (h : rising m = true ∧ (m.all fun e => e.2 != 0) = true) :
    rising (wrDesc m b d) = true ∧ ((wrDesc m b d).all fun e => e.2 != 0) = true := by
  have h2 : ∀ e ∈ m, e.2 ≠ 0 := by simpa [List.all_eq_true] using h.2
  unfold wrDesc
  split
  · exact ⟨rising_mdel _ _ h.1, by simpa [List.all_eq_true] using fun a b he => h2 (a, b) (mem_mdel he)⟩
  · refine ⟨rising_mset _ _ _ h.1, ?_⟩
    rw [List.all_eq_true]
    intro e he
    rcases mem_mset he with rfl | he
    · simpa
    · simpa using h2 _ he

theorem mclear_desc (m : Map Half) (lo hi : Nat) (h : rising m = true ∧ (m.all fun e => e.2 != 0) = true) :
    rising (mclear m lo hi) = true ∧ ((mclear m lo hi).all fun e => e.2 != 0) = true := by
  have h2 : ∀ e ∈ m, e.2 ≠ 0 := by simpa [List.all_eq_true] using h.2
  refine ⟨rising_mclear _ _ _ h.1, ?_⟩
  rw [List.all_eq_true]
  intro e he
  simpa using h2 _ (List.mem_filter.1 he).1

theorem desc_foldl {β : Type} (f : Map Half → β → Map Half)
    (hf : ∀ m b, (rising m = true ∧ (m.all fun e => e.2 != 0) = true) → rising (f m b) = true ∧ ((f m b).all fun e => e.2 != 0) = true)
    (l : List β) (m : Map Half) (h : rising m = true ∧ (m.all fun e => e.2 != 0) = true) :
    rising (l.foldl f m) = true ∧ ((l.foldl f m).all fun e => e.2 != 0) = true := by
  induction l generalizing m with
  | nil => exact h
  | cons b r ih => exact ih _ (hf _ _ h)

/-- The descriptor of a block reads as it was last written, and every other block's is left. -/
theorem mget_wrDesc (m : Map Half) (b b' : Nat) (d : Half) (h : rising m = true) :
    (mget (wrDesc m b d) b').getD 0 = if b' = b then d else (mget m b').getD 0 := by
  unfold wrDesc
  split
  · rename_i hd
    split
    · rename_i hb; rw [hb, mget_mdel_self _ _ h, hd]; rfl
    · rename_i hb; rw [mget_mdel_other _ _ _ hb]
  · split
    · rename_i hb; rw [hb, mget_mset_self]; rfl
    · rename_i hb; rw [mget_mset_other _ _ _ _ hb]

end Sys2Proof.Machine
end

