-- ==== Sys2Proof/Laws/PerInstr.lean ====
section
/-! SUPPORT. How many words an instruction has: the encoder gives every instruction as many as the LEN of its first word says, and no words
to an event. One lemma for each step of the table. -/

namespace Sys2Proof.Laws.Words

/-- An event has no words; an instruction but ILL has as many as the LEN of its first word says (R239). -/
def Statement (i : Instr) : Prop :=
  (i.encodable = false → encode i = []) ∧
  (i.encodable = true → ∃ w r, encode i = w :: r ∧ (i.isIll = false → r.length + 1 = lenWords w))

theorem statement_event {i : Instr} (h : i.encodable = false) (he : encode i = []) : Statement i :=
  ⟨fun _ => he, fun h' => absurd h' (by simp [h])⟩

/-- Words by LEN (R239). -/
def lenOf (len : BitVec 2) : Nat := if len = 0 then 1 else if len = 3 then 5 else 3

theorem statement_instr {i : Instr} {w : W32} {r : List W32} {len : BitVec 2} (h : i.encodable = true) (he : encode i = w :: r)
    (hw : lenWords w = lenOf len) (hr : r.length + 1 = lenOf len) : Statement i :=
  ⟨fun h' => absurd h (by simp [h']), fun _ => ⟨w, r, he, fun _ => hr.trans hw.symm⟩⟩

theorem statement_ill {i : Instr} {w : W32} {r : List W32} (h : i.encodable = true) (he : encode i = w :: r) (hi : i.isIll = true) :
    Statement i :=
  ⟨fun h' => absurd h (by simp [h']), fun _ => ⟨w, r, he, fun h' => absurd h' (by simp [hi])⟩⟩

theorem lenWords_eq (w : W32) : lenWords w = lenOf (w.extractLsb' 0 2) := by
  unfold lenWords
  generalize w.extractLsb' 0 2 = x
  revert x
  decide

theorem extract_low {n m : Nat} (a : BitVec n) (b : BitVec m) (k : Nat) (h : k ≤ m) :
    (a ++ b).extractLsb' 0 k = b.extractLsb' 0 k := by
  apply BitVec.eq_of_getLsbD_eq
  intro i hi
  have : 0 + i < m := by omega
  simp [BitVec.getLsbD_append, hi]
  omega

theorem lenWords_encLow (a : BitVec 22) (maj : BitVec 7) (s : Bool) (len : BitVec 2) :
    lenWords (a ++ encLow maj s len : BitVec (22 + 10)) = lenOf len := by
  unfold encLow
  rw [lenWords_eq, extract_low _ _ 2 (by omega), extract_low _ _ 2 (by omega)]
  congr 1
  apply BitVec.eq_of_getLsbD_eq
  intro i hi
  simp [hi]

theorem len_encRRR (x : Bool) (b a d maj : BitVec 7) (s : Bool) (len : BitVec 2) : lenWords (encRRR x b a d maj s len) = lenOf len := lenWords_encLow _ maj s _
theorem len_encRRI (i : BitVec 8) (a d maj : BitVec 7) (s : Bool) (len : BitVec 2) : lenWords (encRRI i a d maj s len) = lenOf len := lenWords_encLow _ maj s _
theorem len_encM (i : BitVec 4) (rx sx : Bool) (sz : BitVec 2) (a d maj : BitVec 7) (s : Bool) (len : BitVec 2) : lenWords (encM i rx sx sz a d maj s len) = lenOf len := lenWords_encLow _ maj s _
theorem len_encCMP (x : Bool) (b a : BitVec 7) (k : BitVec 2) (c : BitVec 3) (maj : BitVec 7) (s : Bool) (len : BitVec 2) : lenWords (encCMP x b a k c maj s len) = lenOf len := lenWords_encLow _ maj s _
theorem len_encBR (o : BitVec 22) (maj : BitVec 7) (s : Bool) (len : BitVec 2) : lenWords (encBR o maj s len) = lenOf len := lenWords_encLow _ maj s _
theorem len_encLP (o : BitVec 15) (d maj : BitVec 7) (s : Bool) : lenWords (encLP o d maj s) = lenOf 0 := lenWords_encLow _ maj s _
theorem len_encSY (i : BitVec 8) (a : BitVec 7) (n : BitVec 3) (maj : BitVec 7) (s : Bool) : lenWords (encSY i a n maj s) = lenOf 0 := lenWords_encLow _ maj s _
theorem len_encQM (q : BitVec 2) (d maj : BitVec 7) (s : Bool) : lenWords (encQM q d maj s) = lenOf 0 := lenWords_encLow _ maj s _

theorem boot (slotA slotB : Option Image) : Statement (.boot slotA slotB) := statement_event rfl rfl
theorem stackImageVerify (img : Image) : Statement (.stackImageVerify img) := statement_event rfl rfl
theorem hbmTrain (h : Nat) (ok : Bool) (lanes : List (Nat × Half)) : Statement (.hbmTrain h ok lanes) := statement_event rfl rfl
theorem linkTrain (p : Nat) (theirs12 theirs20 : Bool) (partnerDev partnerPort : Nat) (fibres : LinkFibres) :
    Statement (.linkTrain p theirs12 theirs20 partnerDev partnerPort fibres) :=
  statement_event rfl rfl
theorem registerWrite (r : HostReg) (size : Nat) (data : Word) : Statement (.registerWrite r size data) := statement_event rfl rfl
theorem apply (c : BindCommand) : Statement (.apply c) := statement_event rfl rfl
theorem launchRecordCommit (port : Nat) (dw7 : Word) : Statement (.launchRecordCommit port dw7) := statement_event rfl rfl
theorem lpstatRead (block off size : Nat) : Statement (.lpstatRead block off size) := statement_event rfl rfl
theorem lpcqhWrite (port : Nat) (v : Word) : Statement (.lpcqhWrite port v) := statement_event rfl rfl
theorem lpcqbWrite (port : Nat) (v : Word) : Statement (.lpcqbWrite port v) := statement_event rfl rfl
theorem launchHeadCheck (port : Nat) : Statement (.launchHeadCheck port) := statement_event rfl rfl
theorem backoffExpiry (port : Nat) : Statement (.backoffExpiry port) := statement_event rfl rfl
theorem crewStart (ltag : Nat) (unit : Nat) : Statement (.crewStart ltag unit) := statement_event rfl rfl
theorem launchEnd (ltag : Nat) (status code : Nat) : Statement (.launchEnd ltag status code) := statement_event rfl rfl
theorem crewSaved (ltag gang crew : Nat) : Statement (.crewSaved ltag gang crew) := statement_event rfl rfl
theorem crewRestore (ltag gang : Nat) : Statement (.crewRestore ltag gang) := statement_event rfl rfl
theorem resultReturn (t : ThreadRef) (id : Nat) (vals : List Val) : Statement (.resultReturn t id vals) := statement_event rfl rfl
theorem switchPointCommit (t : ThreadRef) : Statement (.switchPointCommit t) := statement_event rfl rfl
theorem bankAccept (acc : Access) : Statement (.bankAccept acc) := statement_event rfl rfl
theorem semPost (p : PostTo) (count : Nat) (status : Status) : Statement (.semPost p count status) := statement_event rfl rfl
theorem debugHalt (t : ThreadRef) : Statement (.debugHalt t) := statement_event rfl rfl
theorem debugResume (t : ThreadRef) : Statement (.debugResume t) := statement_event rfl rfl
theorem debugWrite (t : ThreadRef) (r : DebugReg) (v : Word) : Statement (.debugWrite t r v) := statement_event rfl rfl
theorem pageWalkEnd (cluster root va : Nat) : Statement (.pageWalkEnd cluster root va) := statement_event rfl rfl
theorem walkFaultResolve (cluster root va : Nat) (ans : WalkAnswer) : Statement (.walkFaultResolve cluster root va ans) := statement_event rfl rfl
theorem hbmplaceWrite (hi : Bool) (v : Word) : Statement (.hbmplaceWrite hi v) := statement_event rfl rfl
theorem descriptorWindowWrite (off size : Nat) (data : Word) : Statement (.descriptorWindowWrite off size data) := statement_event rfl rfl
theorem hostBar2Write (off : Nat) (data : List Byte) : Statement (.hostBar2Write off data) := statement_event rfl rfl
theorem hostBar2Read (off n : Nat) : Statement (.hostBar2Read off n) := statement_event rfl rfl
theorem msixUnmask (vec : Nat) : Statement (.msixUnmask vec) := statement_event rfl rfl
theorem ownerset (c : KeyCommand) (key sig : List Byte) : Statement (.ownerset c key sig) := statement_event rfl rfl
theorem stagedImage (img : Image) : Statement (.stagedImage img) := statement_event rfl rfl
theorem mxStart (unit : Nat) : Statement (.mxStart unit) := statement_event rfl rfl
theorem vxStart (unit : Nat) : Statement (.vxStart unit) := statement_event rfl rfl
theorem consumedPost (unit : Nat) (id : Nat) : Statement (.consumedPost unit id) := statement_event rfl rfl
theorem donePost (unit : Nat) (id : Nat) : Statement (.donePost unit id) := statement_event rfl rfl
theorem engineFault (unit : Nat) (id : Nat) : Statement (.engineFault unit id) := statement_event rfl rfl
theorem tmvBlockDone (unit : Nat) (id : Nat) : Statement (.tmvBlockDone unit id) := statement_event rfl rfl
theorem cxBlockWrite (unit : Nat) (chan : Nat) : Statement (.cxBlockWrite unit chan) := statement_event rfl rfl
theorem ringBArrive (unit : Nat) (img : RingImage) : Statement (.ringBArrive unit img) := statement_event rfl rfl
theorem ringTimeout (unit : Nat) (id : Nat) : Statement (.ringTimeout unit id) := statement_event rfl rfl
theorem appendAccept (r : AppendReq) : Statement (.appendAccept r) := statement_event rfl rfl
theorem spawnrAccept (r : SpawnReq) : Statement (.spawnrAccept r) := statement_event rfl rfl
theorem handlerCreate (ltag unit pat frame : Nat) (pc : Word) (pri : BitVec 3) :
    Statement (.handlerCreate ltag unit pat frame pc pri) :=
  statement_event rfl rfl
theorem wakePost (ltag unit pat epoch tid : Nat) (sem : BitVec 3) : Statement (.wakePost ltag unit pat epoch tid sem) := statement_event rfl rfl
theorem recvTake (t : ThreadRef) : Statement (.recvTake t) := statement_event rfl rfl
theorem barrierRegister (t : ThreadRef) (rb : Nat) (va : Word) (need : Nat) : Statement (.barrierRegister t rb va need) := statement_event rfl rfl
theorem barrierArrival (t : ThreadRef) (sem : BitVec 3) (va : Word) (pa : Nat) (bwait : Option Nat) :
    Statement (.barrierArrival t sem va pa bwait) :=
  statement_event rfl rfl
theorem barrierBroken (pa : Nat) (reinit : Bool) (writer : Option ThreadRef) : Statement (.barrierBroken pa reinit writer) := statement_event rfl rfl
theorem syscAnswer (t : ThreadRef) (v : Word) : Statement (.syscAnswer t v) := statement_event rfl rfl
theorem fingerprintExchange (t : ThreadRef) : Statement (.fingerprintExchange t) := statement_event rfl rfl
theorem unitRetire (stack fe slab : Nat) (isSlab : Bool) : Statement (.unitRetire stack fe slab isSlab) := statement_event rfl rfl
theorem packetRoute (input : Nat) (p : Packet) : Statement (.packetRoute input p) := statement_event rfl rfl
theorem holdExpiry (port : Nat) (vc : Nat) : Statement (.holdExpiry port vc) := statement_event rfl rfl
theorem deadlockTimer (port : Nat) (vc : Nat) : Statement (.deadlockTimer port vc) := statement_event rfl rfl
theorem retryResend (tag : Nat) : Statement (.retryResend tag) := statement_event rfl rfl
theorem retryTimeout (tag : Nat) : Statement (.retryTimeout tag) := statement_event rfl rfl
theorem crumbTimeout (i : Nat) : Statement (.crumbTimeout i) := statement_event rfl rfl
theorem crumbHoldExpiry (i : Nat) : Statement (.crumbHoldExpiry i) := statement_event rfl rfl
theorem linkReplay (port : Nat) (nth : Nat) : Statement (.linkReplay port nth) := statement_event rfl rfl
theorem retrainEnd (port : Nat) (ok : Bool) : Statement (.retrainEnd port ok) := statement_event rfl rfl
theorem fibredown (port : Nat) (fibre : FibreEnd) : Statement (.fibredown port fibre) := statement_event rfl rfl
theorem ringWrite (port fibre ring : Nat) (size : Nat) (hi : Bool) (data : Word) :
    Statement (.ringWrite port fibre ring size hi data) :=
  statement_event rfl rfl
theorem wavelengthMove (port fibre wave : Nat) : Statement (.wavelengthMove port fibre wave) := statement_event rfl rfl
theorem powerWindow (mw : Nat) : Statement (.powerWindow mw) := statement_event rfl rfl
theorem patrolScrub (tgt : ScrubTarget) (find : ScrubFind) : Statement (.patrolScrub tgt find) := statement_event rfl rfl
theorem hbmRead (r : HbmAccess) (sev : Nat) (bit : Nat) (multi : Bool) : Statement (.hbmRead r sev bit multi) := statement_event rfl rfl
theorem hbmTransferRetry (r : HbmAccess) (tries : Nat) (ok : Bool) : Statement (.hbmTransferRetry r tries ok) := statement_event rfl rfl
theorem laneTestEnd (r : HbmAccess) (lane : Nat) (retryOk : Bool) : Statement (.laneTestEnd r lane retryOk) := statement_event rfl rfl
theorem segmentFree (t : ThreadRef) (va : Word) : Statement (.segmentFree t va) := statement_event rfl rfl
theorem add (sm : Bool) (d a b : Operand) : Statement (.add sm d a b) := statement_instr rfl rfl (len_encRRR ..) rfl
theorem sub (sm : Bool) (d a b : Operand) : Statement (.sub sm d a b) := statement_instr rfl rfl (len_encRRR ..) rfl
theorem mul (sm : Bool) (d a b : Operand) : Statement (.mul sm d a b) := statement_instr rfl rfl (len_encRRR ..) rfl
theorem mulh (sm x : Bool) (d a b : Operand) : Statement (.mulh sm x d a b) := statement_instr rfl rfl (len_encRRR ..) rfl
theorem div (sm x : Bool) (d a b : Operand) : Statement (.div sm x d a b) := statement_instr rfl rfl (len_encRRR ..) rfl
theorem rem (sm x : Bool) (d a b : Operand) : Statement (.rem sm x d a b) := statement_instr rfl rfl (len_encRRR ..) rfl
theorem and (sm : Bool) (d a b : Operand) : Statement (.and sm d a b) := statement_instr rfl rfl (len_encRRR ..) rfl
theorem or (sm : Bool) (d a b : Operand) : Statement (.or sm d a b) := statement_instr rfl rfl (len_encRRR ..) rfl
theorem xor (sm : Bool) (d a b : Operand) : Statement (.xor sm d a b) := statement_instr rfl rfl (len_encRRR ..) rfl
theorem andn (sm : Bool) (d a b : Operand) : Statement (.andn sm d a b) := statement_instr rfl rfl (len_encRRR ..) rfl
theorem shl (sm : Bool) (d a b : Operand) : Statement (.shl sm d a b) := statement_instr rfl rfl (len_encRRR ..) rfl
theorem shr (sm x : Bool) (d a b : Operand) : Statement (.shr sm x d a b) := statement_instr rfl rfl (len_encRRR ..) rfl
theorem rot (sm : Bool) (d a b : Operand) : Statement (.rot sm d a b) := statement_instr rfl rfl (len_encRRR ..) rfl
theorem min (sm x : Bool) (d a b : Operand) : Statement (.min sm x d a b) := statement_instr rfl rfl (len_encRRR ..) rfl
theorem max (sm x : Bool) (d a b : Operand) : Statement (.max sm x d a b) := statement_instr rfl rfl (len_encRRR ..) rfl
theorem clz (sm : Bool) (d a : Operand) : Statement (.clz sm d a) := statement_instr rfl rfl (len_encRRR ..) rfl
theorem ctz (sm : Bool) (d a : Operand) : Statement (.ctz sm d a) := statement_instr rfl rfl (len_encRRR ..) rfl
theorem popc (sm : Bool) (d a : Operand) : Statement (.popc sm d a) := statement_instr rfl rfl (len_encRRR ..) rfl
theorem brev (sm : Bool) (d a : Operand) : Statement (.brev sm d a) := statement_instr rfl rfl (len_encRRR ..) rfl
theorem sext (sm : Bool) (w : BitVec 2) (d a : Operand) : Statement (.sext sm w d a) := statement_instr rfl rfl (len_encRRR ..) rfl
theorem zext (sm : Bool) (w : BitVec 2) (d a : Operand) : Statement (.zext sm w d a) := statement_instr rfl rfl (len_encRRR ..) rfl
theorem addi (sm : Bool) (i : BitVec 8) (d a : Operand) : Statement (.addi sm i d a) := statement_instr rfl rfl (len_encRRI ..) rfl
theorem addiLit (sm : Bool) (lit : Word) (d a : Operand) : Statement (.addiLit sm lit d a) := statement_instr rfl rfl (len_encRRI ..) rfl
theorem muli (sm : Bool) (i : BitVec 8) (d a : Operand) : Statement (.muli sm i d a) := statement_instr rfl rfl (len_encRRI ..) rfl
theorem muliLit (sm : Bool) (lit : Word) (d a : Operand) : Statement (.muliLit sm lit d a) := statement_instr rfl rfl (len_encRRI ..) rfl
theorem andi (sm : Bool) (i : BitVec 8) (d a : Operand) : Statement (.andi sm i d a) := statement_instr rfl rfl (len_encRRI ..) rfl
theorem andiLit (sm : Bool) (lit : Word) (d a : Operand) : Statement (.andiLit sm lit d a) := statement_instr rfl rfl (len_encRRI ..) rfl
theorem ori (sm : Bool) (i : BitVec 8) (d a : Operand) : Statement (.ori sm i d a) := statement_instr rfl rfl (len_encRRI ..) rfl
theorem oriLit (sm : Bool) (lit : Word) (d a : Operand) : Statement (.oriLit sm lit d a) := statement_instr rfl rfl (len_encRRI ..) rfl
theorem xori (sm : Bool) (i : BitVec 8) (d a : Operand) : Statement (.xori sm i d a) := statement_instr rfl rfl (len_encRRI ..) rfl
theorem xoriLit (sm : Bool) (lit : Word) (d a : Operand) : Statement (.xoriLit sm lit d a) := statement_instr rfl rfl (len_encRRI ..) rfl
theorem shli (sm : Bool) (c : BitVec 6) (d a : Operand) : Statement (.shli sm c d a) := statement_instr rfl rfl (len_encRRI ..) rfl
theorem shri (sm arith : Bool) (c : BitVec 6) (d a : Operand) : Statement (.shri sm arith c d a) := statement_instr rfl rfl (len_encRRI ..) rfl
theorem roti (sm : Bool) (c : BitVec 6) (d a : Operand) : Statement (.roti sm c d a) := statement_instr rfl rfl (len_encRRI ..) rfl
theorem mini (sm : Bool) (i : BitVec 8) (d a : Operand) : Statement (.mini sm i d a) := statement_instr rfl rfl (len_encRRI ..) rfl
theorem miniLit (sm : Bool) (lit : Word) (d a : Operand) : Statement (.miniLit sm lit d a) := statement_instr rfl rfl (len_encRRI ..) rfl
theorem maxi (sm : Bool) (i : BitVec 8) (d a : Operand) : Statement (.maxi sm i d a) := statement_instr rfl rfl (len_encRRI ..) rfl
theorem maxiLit (sm : Bool) (lit : Word) (d a : Operand) : Statement (.maxiLit sm lit d a) := statement_instr rfl rfl (len_encRRI ..) rfl
theorem li (sm : Bool) (i : BitVec 8) (d : Operand) : Statement (.li sm i d) := statement_instr rfl rfl (len_encRRI ..) rfl
theorem liLit (sm : Bool) (lit : Word) (d : Operand) : Statement (.liLit sm lit d) := statement_instr rfl rfl (len_encRRI ..) rfl
theorem lea (sm x : Bool) (d a b : Operand) : Statement (.lea sm x d a b) := statement_instr rfl rfl (len_encRRR ..) rfl
theorem bfx (sm : Bool) (pos wid1 : BitVec 6) (d a : Operand) : Statement (.bfx sm pos wid1 d a) := statement_instr rfl rfl (len_encRRI ..) rfl
theorem bfi (sm : Bool) (pos wid1 : BitVec 6) (d a : Operand) : Statement (.bfi sm pos wid1 d a) := statement_instr rfl rfl (len_encRRI ..) rfl
theorem mov (sm : Bool) (d a : Operand) : Statement (.mov sm d a) := statement_instr rfl rfl (len_encRRI ..) rfl
theorem pfr (sm : Bool) (d : BitVec 3) (a : Operand) : Statement (.pfr sm d a) := statement_instr rfl rfl (len_encRRI ..) rfl
theorem cmp (sm : Bool) (cond : BitVec 3) (k : BitVec 2) (a : Operand) (b : CmpSrc) : Statement (.cmp sm cond k a b) := by
  cases b <;> exact statement_instr rfl rfl (len_encCMP ..) rfl
theorem cmpLit (sm : Bool) (cond : BitVec 3) (k : BitVec 2) (a : Operand) (lit : Word) :
    Statement (.cmpLit sm cond k a lit) :=
  statement_instr rfl rfl (len_encCMP ..) rfl
theorem fcmp (sm dbl : Bool) (cond : BitVec 3) (k : BitVec 2) (a b : Operand) :
    Statement (.fcmp sm dbl cond k a b) :=
  statement_instr rfl rfl (len_encCMP ..) rfl
theorem br (sm : Bool) (off : BitVec 22) : Statement (.br sm off) := statement_instr rfl rfl (len_encBR ..) rfl
theorem call (sm : Bool) (off : BitVec 22) : Statement (.call sm off) := statement_instr rfl rfl (len_encBR ..) rfl
theorem jmp (sm : Bool) (a : Operand) : Statement (.jmp sm a) := statement_instr rfl rfl (len_encRRR ..) rfl
theorem callr (sm : Bool) (a : Operand) : Statement (.callr sm a) := statement_instr rfl rfl (len_encRRR ..) rfl
theorem ret (sm : Bool) : Statement (.ret sm) := statement_instr rfl rfl (len_encBR ..) rfl
theorem loop (sm : Bool) (off : BitVec 15) (d : Operand) : Statement (.loop sm off d) := statement_instr rfl rfl (len_encLP ..) rfl
theorem fadd (sm x : Bool) (d a b : Operand) : Statement (.fadd sm x d a b) := statement_instr rfl rfl (len_encRRR ..) rfl
theorem faddExt (sm x : Bool) (rm : BitVec 3) (d a b : Operand) : Statement (.faddExt sm x rm d a b) := statement_instr rfl rfl (len_encRRR ..) rfl
theorem fsub (sm x : Bool) (d a b : Operand) : Statement (.fsub sm x d a b) := statement_instr rfl rfl (len_encRRR ..) rfl
theorem fsubExt (sm x : Bool) (rm : BitVec 3) (d a b : Operand) : Statement (.fsubExt sm x rm d a b) := statement_instr rfl rfl (len_encRRR ..) rfl
theorem fmul (sm x : Bool) (d a b : Operand) : Statement (.fmul sm x d a b) := statement_instr rfl rfl (len_encRRR ..) rfl
theorem fmulExt (sm x : Bool) (rm : BitVec 3) (d a b : Operand) : Statement (.fmulExt sm x rm d a b) := statement_instr rfl rfl (len_encRRR ..) rfl
theorem ffma (sm x : Bool) (rm : BitVec 3) (d a b c : Operand) : Statement (.ffma sm x rm d a b c) := statement_instr rfl rfl (len_encRRR ..) rfl
theorem fdiv (sm x : Bool) (d a b : Operand) : Statement (.fdiv sm x d a b) := statement_instr rfl rfl (len_encRRR ..) rfl
theorem fdivExt (sm x : Bool) (rm : BitVec 3) (d a b : Operand) : Statement (.fdivExt sm x rm d a b) := statement_instr rfl rfl (len_encRRR ..) rfl
theorem fsqrt (sm x : Bool) (d a : Operand) : Statement (.fsqrt sm x d a) := statement_instr rfl rfl (len_encRRR ..) rfl
theorem fsqrtExt (sm x : Bool) (rm : BitVec 3) (d a : Operand) : Statement (.fsqrtExt sm x rm d a) := statement_instr rfl rfl (len_encRRR ..) rfl
theorem fmin (sm x : Bool) (d a b : Operand) : Statement (.fmin sm x d a b) := statement_instr rfl rfl (len_encRRR ..) rfl
theorem fminExt (sm x : Bool) (rm : BitVec 3) (d a b : Operand) : Statement (.fminExt sm x rm d a b) := statement_instr rfl rfl (len_encRRR ..) rfl
theorem fmax (sm x : Bool) (d a b : Operand) : Statement (.fmax sm x d a b) := statement_instr rfl rfl (len_encRRR ..) rfl
theorem fmaxExt (sm x : Bool) (rm : BitVec 3) (d a b : Operand) : Statement (.fmaxExt sm x rm d a b) := statement_instr rfl rfl (len_encRRR ..) rfl
theorem fcvt (sm sat : Bool) (rm : BitVec 3) (dfm sfm : BitVec 8) (d a : Operand) :
    Statement (.fcvt sm sat rm dfm sfm d a) :=
  statement_instr rfl rfl (len_encRRR ..) rfl
theorem fclass (sm x : Bool) (d a : Operand) : Statement (.fclass sm x d a) := statement_instr rfl rfl (len_encRRR ..) rfl
theorem ld (sm rx sx : Bool) (sz : BitVec 2) (off : BitVec 4) (d a : Operand) :
    Statement (.ld sm rx sx sz off d a) :=
  statement_instr rfl rfl (len_encM ..) rfl
theorem ldLit (sm rx sx : Bool) (sz : BitVec 2) (off : Word) (d a : Operand) :
    Statement (.ldLit sm rx sx sz off d a) :=
  statement_instr rfl rfl (len_encM ..) rfl
theorem st (sm rx : Bool) (sz : BitVec 2) (off : BitVec 4) (d a : Operand) :
    Statement (.st sm rx sz off d a) :=
  statement_instr rfl rfl (len_encM ..) rfl
theorem stLit (sm rx : Bool) (sz : BitVec 2) (off : Word) (d a : Operand) :
    Statement (.stLit sm rx sz off d a) :=
  statement_instr rfl rfl (len_encM ..) rfl
theorem ldbd (sm : Bool) (off : BitVec 4) (d a : Operand) : Statement (.ldbd sm off d a) := statement_instr rfl rfl (len_encM ..) rfl
theorem ldbdLit (sm : Bool) (off : Word) (d a : Operand) : Statement (.ldbdLit sm off d a) := statement_instr rfl rfl (len_encM ..) rfl
theorem stbd (sm : Bool) (off : BitVec 4) (d a : Operand) : Statement (.stbd sm off d a) := statement_instr rfl rfl (len_encM ..) rfl
theorem stbdLit (sm : Bool) (off : Word) (d a : Operand) : Statement (.stbdLit sm off d a) := statement_instr rfl rfl (len_encM ..) rfl
theorem fence (sm : Bool) (scope : BitVec 3) : Statement (.fence sm scope) := statement_instr rfl rfl (len_encSY ..) rfl
theorem flushr (sm : Bool) (a : Operand) : Statement (.flushr sm a) := statement_instr rfl rfl (len_encRRR ..) rfl
theorem stq (sm : Bool) (q : BitVec 2) (off : BitVec 4) (a : Operand) : Statement (.stq sm q off a) := statement_instr rfl rfl (len_encM ..) rfl
theorem stqLit (sm : Bool) (q : BitVec 2) (off : Word) (a : Operand) : Statement (.stqLit sm q off a) := statement_instr rfl rfl (len_encM ..) rfl
theorem qmov (sm : Bool) (q : BitVec 2) (d : Operand) : Statement (.qmov sm q d) := statement_instr rfl rfl (len_encQM ..) rfl
theorem salloc (sm : Bool) (level : BitVec 2) (d a : Operand) : Statement (.salloc sm level d a) := statement_instr rfl rfl (len_encM ..) rfl
theorem sfree (sm : Bool) (a : Operand) : Statement (.sfree sm a) := statement_instr rfl rfl (len_encRRR ..) rfl
theorem aadd (sm x : Bool) (d a b : Operand) : Statement (.aadd sm x d a b) := statement_instr rfl rfl (len_encRRR ..) rfl
theorem aand (sm x : Bool) (d a b : Operand) : Statement (.aand sm x d a b) := statement_instr rfl rfl (len_encRRR ..) rfl
theorem aor (sm x : Bool) (d a b : Operand) : Statement (.aor sm x d a b) := statement_instr rfl rfl (len_encRRR ..) rfl
theorem axor (sm x : Bool) (d a b : Operand) : Statement (.axor sm x d a b) := statement_instr rfl rfl (len_encRRR ..) rfl
theorem amin (sm x : Bool) (d a b : Operand) : Statement (.amin sm x d a b) := statement_instr rfl rfl (len_encRRR ..) rfl
theorem amax (sm x : Bool) (d a b : Operand) : Statement (.amax sm x d a b) := statement_instr rfl rfl (len_encRRR ..) rfl
theorem axchg (sm x : Bool) (d a b : Operand) : Statement (.axchg sm x d a b) := statement_instr rfl rfl (len_encRRR ..) rfl
theorem acas (sm x : Bool) (d a b c : Operand) : Statement (.acas sm x d a b c) := statement_instr rfl rfl (len_encRRR ..) rfl
theorem afadd (sm x : Bool) (d a b : Operand) : Statement (.afadd sm x d a b) := statement_instr rfl rfl (len_encRRR ..) rfl
theorem append (sm : Bool) (cnt : BitVec 3) (dsem : BitVec 3) (a b : Operand) :
    Statement (.append sm cnt dsem a b) :=
  statement_instr rfl rfl (len_encRRR ..) rfl
theorem spawn (sm : Bool) (argc prio : BitVec 3) (pexp : Bool) (tidreq : BitVec 8) (tiden : Bool) (d a b : Operand) :
    Statement (.spawn sm argc prio pexp tidreq tiden d a b) :=
  statement_instr rfl rfl (len_encRRR ..) rfl
theorem spawnLit (sm : Bool) (argc prio : BitVec 3) (pexp : Bool) (tidreq : BitVec 8) (tiden : Bool) (pc : Word) (d b : Operand) :
    Statement (.spawnLit sm argc prio pexp tidreq tiden pc d b) :=
  statement_instr rfl rfl (len_encRRR ..) rfl
theorem spawnr (sm : Bool) (argc prio dsem : BitVec 3) (a b c : Operand) :
    Statement (.spawnr sm argc prio dsem a b c) :=
  statement_instr rfl rfl (len_encRRR ..) rfl
theorem spawnrLit (sm : Bool) (argc prio dsem : BitVec 3) (pc : Word) (a b : Operand) :
    Statement (.spawnrLit sm argc prio dsem pc a b) :=
  statement_instr rfl rfl (len_encRRR ..) rfl
theorem exit (sm : Bool) : Statement (.exit sm) := statement_instr rfl rfl (len_encBR ..) rfl
theorem yield (sm : Bool) : Statement (.yield sm) := statement_instr rfl rfl (len_encBR ..) rfl
theorem setpri (sm : Bool) (i : BitVec 8) (a : Operand) : Statement (.setpri sm i a) := statement_instr rfl rfl (len_encSY ..) rfl
theorem wait (sm : Bool) (sem : BitVec 3) (i : BitVec 8) (a : Operand) : Statement (.wait sm sem i a) := statement_instr rfl rfl (len_encSY ..) rfl
theorem post (sm : Bool) (dsem : BitVec 3) (cnt : BitVec 16) (a : Operand) :
    Statement (.post sm dsem cnt a) :=
  statement_instr rfl rfl (len_encRRR ..) rfl
theorem semset (sm : Bool) (sem : BitVec 3) (i : BitVec 8) (a : Operand) :
    Statement (.semset sm sem i a) :=
  statement_instr rfl rfl (len_encSY ..) rfl
theorem trig (sm : Bool) : Statement (.trig sm) := statement_instr rfl rfl (len_encBR ..) rfl
theorem barinit (sm : Bool) (d a b : Operand) : Statement (.barinit sm d a b) := statement_instr rfl rfl (len_encRRR ..) rfl
theorem bararr (sm : Bool) (sem : BitVec 3) (a : Operand) : Statement (.bararr sm sem a) := statement_instr rfl rfl (len_encSY ..) rfl
theorem barwait (sm : Bool) (sem : BitVec 3) (a : Operand) : Statement (.barwait sm sem a) := statement_instr rfl rfl (len_encSY ..) rfl
theorem patset (sm : Bool) (idx : BitVec 5) (a b c : Operand) : Statement (.patset sm idx a b c) := statement_instr rfl rfl (len_encRRR ..) rfl
theorem patsetLit (sm : Bool) (idx : BitVec 5) (hpc : Word) (a c : Operand) :
    Statement (.patsetLit sm idx hpc a c) :=
  statement_instr rfl rfl (len_encRRR ..) rfl
theorem patclr (sm : Bool) (i : BitVec 8) (a : Operand) : Statement (.patclr sm i a) := statement_instr rfl rfl (len_encSY ..) rfl
theorem portcfg (sm : Bool) (idx : BitVec 6) (a b : Operand) : Statement (.portcfg sm idx a b) := statement_instr rfl rfl (len_encRRR ..) rfl
theorem recv (sm : Bool) (cnt : BitVec 3) (port : BitVec 6) (hdr : Bool) (d : Operand) :
    Statement (.recv sm cnt port hdr d) :=
  statement_instr rfl rfl (len_encRRR ..) rfl
theorem trap (sm : Bool) (code : BitVec 8) : Statement (.trap sm code) := statement_instr rfl rfl (len_encSY ..) rfl
theorem sysc (sm : Bool) (code : BitVec 8) : Statement (.sysc sm code) := statement_instr rfl rfl (len_encSY ..) rfl
theorem eret (sm : Bool) : Statement (.eret sm) := statement_instr rfl rfl (len_encBR ..) rfl
theorem mfs (sm : Bool) (n : BitVec 7) (d : Operand) : Statement (.mfs sm n d) := statement_instr rfl rfl (len_encRRR ..) rfl
theorem mts (sm : Bool) (n : BitVec 7) (a : Operand) : Statement (.mts sm n a) := statement_instr rfl rfl (len_encRRR ..) rfl
theorem rgn (sm : Bool) : Statement (.rgn sm) := statement_instr rfl rfl (len_encBR ..) rfl
theorem pair (sm : Bool) : Statement (.pair sm) := statement_instr rfl rfl (len_encBR ..) rfl
theorem unpair (sm : Bool) : Statement (.unpair sm) := statement_instr rfl rfl (len_encBR ..) rfl
theorem msync (sm : Bool) : Statement (.msync sm) := statement_instr rfl rfl (len_encBR ..) rfl
theorem clk (sm : Bool) (q : BitVec 2) : Statement (.clk sm q) := statement_instr rfl rfl (len_encQM ..) rfl
theorem physid (sm : Bool) (q : BitVec 2) : Statement (.physid sm q) := statement_instr rfl rfl (len_encQM ..) rfl
theorem capx (sm : Bool) (a b : Operand) : Statement (.capx sm a b) := statement_instr rfl rfl (len_encRRR ..) rfl
theorem halt (sm : Bool) : Statement (.halt sm) := statement_instr rfl rfl (len_encBR ..) rfl
theorem portstat (sm w : Bool) (port : BitVec 6) (d : Operand) : Statement (.portstat sm w port d) := statement_instr rfl rfl (len_encRRI ..) rfl
theorem ill (sm : Bool) (len : BitVec 2) (u : BitVec 22) : Statement (.ill sm len u) := statement_ill rfl rfl rfl
theorem tmv (e : Ext) : Statement (.tmv e) := statement_instr rfl rfl (len_encRRR ..) rfl
theorem cxtpl (e : Ext) : Statement (.cxtpl e) := statement_instr rfl rfl (len_encRRR ..) rfl
theorem cxgo (e : Ext) : Statement (.cxgo e) := statement_instr rfl rfl (len_encRRR ..) rfl
theorem cxwm (e : Ext) : Statement (.cxwm e) := statement_instr rfl rfl (len_encRRR ..) rfl
theorem cxstop (e : Ext) : Statement (.cxstop e) := statement_instr rfl rfl (len_encRRR ..) rfl
theorem cxrst (e : Ext) : Statement (.cxrst e) := statement_instr rfl rfl (len_encRRR ..) rfl
theorem vadd (e : Ext) : Statement (.vadd e) := statement_instr rfl rfl (len_encRRR ..) rfl
theorem vsub (e : Ext) : Statement (.vsub e) := statement_instr rfl rfl (len_encRRR ..) rfl
theorem vmul (e : Ext) : Statement (.vmul e) := statement_instr rfl rfl (len_encRRR ..) rfl
theorem vfma (e : Ext) : Statement (.vfma e) := statement_instr rfl rfl (len_encRRR ..) rfl
theorem vmin (e : Ext) : Statement (.vmin e) := statement_instr rfl rfl (len_encRRR ..) rfl
theorem vmax (e : Ext) : Statement (.vmax e) := statement_instr rfl rfl (len_encRRR ..) rfl
theorem vabs (e : Ext) : Statement (.vabs e) := statement_instr rfl rfl (len_encRRR ..) rfl
theorem vneg (e : Ext) : Statement (.vneg e) := statement_instr rfl rfl (len_encRRR ..) rfl
theorem vrcp (e : Ext) : Statement (.vrcp e) := statement_instr rfl rfl (len_encRRR ..) rfl
theorem vrsq (e : Ext) : Statement (.vrsq e) := statement_instr rfl rfl (len_encRRR ..) rfl
theorem vexp2 (e : Ext) : Statement (.vexp2 e) := statement_instr rfl rfl (len_encRRR ..) rfl
theorem vlog2 (e : Ext) : Statement (.vlog2 e) := statement_instr rfl rfl (len_encRRR ..) rfl
theorem vlut (e : Ext) : Statement (.vlut e) := statement_instr rfl rfl (len_encRRR ..) rfl
theorem vcmp (e : Ext) : Statement (.vcmp e) := statement_instr rfl rfl (len_encRRR ..) rfl
theorem vsel (e : Ext) : Statement (.vsel e) := statement_instr rfl rfl (len_encRRR ..) rfl
theorem vcvt (e : Ext) : Statement (.vcvt e) := statement_instr rfl rfl (len_encRRR ..) rfl
theorem vscale (e : Ext) : Statement (.vscale e) := statement_instr rfl rfl (len_encRRR ..) rfl
theorem vred (e : Ext) : Statement (.vred e) := statement_instr rfl rfl (len_encRRR ..) rfl
theorem vscan (e : Ext) : Statement (.vscan e) := statement_instr rfl rfl (len_encRRR ..) rfl
theorem vtopk (e : Ext) : Statement (.vtopk e) := statement_instr rfl rfl (len_encRRR ..) rfl
theorem vgath (e : Ext) : Statement (.vgath e) := statement_instr rfl rfl (len_encRRR ..) rfl
theorem vscat (e : Ext) : Statement (.vscat e) := statement_instr rfl rfl (len_encRRR ..) rfl
theorem vfill (e : Ext) : Statement (.vfill e) := statement_instr rfl rfl (len_encRRR ..) rfl
theorem viota (e : Ext) : Statement (.viota e) := statement_instr rfl rfl (len_encRRR ..) rfl
theorem vpack (e : Ext) : Statement (.vpack e) := statement_instr rfl rfl (len_encRRR ..) rfl
theorem vunpk (e : Ext) : Statement (.vunpk e) := statement_instr rfl rfl (len_encRRR ..) rfl
theorem mma (e : Ext) : Statement (.mma e) := statement_instr rfl rfl (len_encRRR ..) rfl
theorem mmas (e : Ext) : Statement (.mmas e) := statement_instr rfl rfl (len_encRRR ..) rfl
theorem mald (e : Ext) : Statement (.mald e) := statement_instr rfl rfl (len_encRRR ..) rfl
theorem mast (e : Ext) : Statement (.mast e) := statement_instr rfl rfl (len_encRRR ..) rfl
theorem maz (e : Ext) : Statement (.maz e) := statement_instr rfl rfl (len_encRRR ..) rfl
theorem mstat (e : Ext) : Statement (.mstat e) := statement_instr rfl rfl (len_encRRR ..) rfl
theorem mring (e : Ext) : Statement (.mring e) := statement_instr rfl rfl (len_encRRR ..) rfl
theorem packetTransmit (port : Nat) : Statement (.packetTransmit port) := statement_event rfl rfl
theorem tagReuse (tag : Nat) : Statement (.tagReuse tag) := statement_event rfl rfl
theorem capxComplete (t : ThreadRef) : Statement (.capxComplete t) := statement_event rfl rfl
theorem dispReady (savebase savesz dirbase rufree : Word) (esc : List Word) :
    Statement (.dispReady savebase savesz dirbase rufree esc) :=
  statement_event rfl rfl
theorem ringRetire (port fibre ring : Nat) : Statement (.ringRetire port fibre ring) := statement_event rfl rfl
theorem debugEnd (t : ThreadRef) : Statement (.debugEnd t) := statement_event rfl rfl
theorem rd : Statement .rd := statement_event rfl rfl
theorem wr : Statement .wr := statement_event rfl rfl
theorem wrn : Statement .wrn := statement_event rfl rfl
theorem atm : Statement .atm := statement_event rfl rfl
theorem atmp : Statement .atmp := statement_event rfl rfl
theorem matm : Statement .matm := statement_event rfl rfl
theorem app : Statement .app := statement_event rfl rfl
theorem spw : Statement .spw := statement_event rfl rfl
theorem flu : Statement .flu := statement_event rfl rfl
theorem rdr : Statement .rdr := statement_event rfl rfl
theorem atr : Statement .atr := statement_event rfl rfl
theorem matr : Statement .matr := statement_event rfl rfl
theorem sts : Statement .sts := statement_event rfl rfl
theorem ack : Statement .ack := statement_event rfl rfl
theorem retry : Statement .retry := statement_event rfl rfl
theorem mgt : Statement .mgt := statement_event rfl rfl
theorem resCollapse : Statement .resCollapse := statement_event rfl rfl
theorem resInval : Statement .resInval := statement_event rfl rfl
theorem resAck : Statement .resAck := statement_event rfl rfl
theorem resDone : Statement .resDone := statement_event rfl rfl
theorem resMoved : Statement .resMoved := statement_event rfl rfl
theorem resDup : Statement .resDup := statement_event rfl rfl
theorem resMigrate : Statement .resMigrate := statement_event rfl rfl
theorem resCollapseCommand : Statement .resCollapseCommand := statement_event rfl rfl
theorem resSplit : Statement .resSplit := statement_event rfl rfl
theorem resMapped : Statement .resMapped := statement_event rfl rfl
theorem dup : Statement .dup := statement_event rfl rfl
theorem migrate : Statement .migrate := statement_event rfl rfl
theorem collapse : Statement .collapse := statement_event rfl rfl
theorem split : Statement .split := statement_event rfl rfl
theorem tinv : Statement .tinv := statement_event rfl rfl
theorem tinvComplete : Statement .tinvComplete := statement_event rfl rfl
theorem preemptSave : Statement .preemptSave := statement_event rfl rfl
theorem preemptRestore : Statement .preemptRestore := statement_event rfl rfl
theorem attest : Statement .attest := statement_event rfl rfl
theorem patternEvaluation : Statement .patternEvaluation := statement_event rfl rfl
theorem coldReset : Statement .coldReset := statement_event rfl rfl
theorem functionLevelReset : Statement .functionLevelReset := statement_event rfl rfl
theorem hostLinkTrain : Statement .hostLinkTrain := statement_event rfl rfl
theorem endSweep : Statement .endSweep := statement_event rfl rfl
theorem annulment : Statement .annulment := statement_event rfl rfl
theorem asyncTrap : Statement .asyncTrap := statement_event rfl rfl
theorem residencyResume : Statement .residencyResume := statement_event rfl rfl
theorem pdRefresh : Statement .pdRefresh := statement_event rfl rfl
theorem tempRefresh : Statement .tempRefresh := statement_event rfl rfl

end Sys2Proof.Laws.Words
end

