-- ==== Sys2Proof/Laws/State.lean ====
section
/-! SUPPORT. What each update of the state leaves as it was: one lemma per field and update. -/

namespace Sys2Proof.Machine

/-! ## Updates of the state -/

variable (s : State)

@[simp] theorem State.setThread_now (t : Thread) : (s.setThread t).now = s.now := rfl
@[simp] theorem State.setThread_inputs (t : Thread) : (s.setThread t).inputs = s.inputs := rfl
@[simp] theorem State.setThread_agenda (t : Thread) : (s.setThread t).agenda = s.agenda := rfl
@[simp] theorem State.setThread_seq (t : Thread) : (s.setThread t).seq = s.seq := rfl
@[simp] theorem State.setThread_cur (t : Thread) : (s.setThread t).cur = s.cur := rfl
@[simp] theorem State.setThread_pkt (t : Thread) : (s.setThread t).pkt = s.pkt := rfl
@[simp] theorem State.setThread_cmd (t : Thread) : (s.setThread t).cmd = s.cmd := rfl
@[simp] theorem State.setThread_scan (t : Thread) : (s.setThread t).scan = s.scan := rfl
@[simp] theorem State.setThread_issued (t : Thread) : (s.setThread t).issued = s.issued := rfl
@[simp] theorem State.setThread_busy (t : Thread) : (s.setThread t).busy = s.busy := rfl
@[simp] theorem State.setThread_streak (t : Thread) : (s.setThread t).streak = s.streak := rfl
@[simp] theorem State.setThread_engWaits (t : Thread) : (s.setThread t).engWaits = s.engWaits := rfl
@[simp] theorem State.setThread_free (t : Thread) : (s.setThread t).free = s.free := rfl
@[simp] theorem State.setThread_nextId (t : Thread) : (s.setThread t).nextId = s.nextId := rfl
@[simp] theorem State.setThread_mem (t : Thread) : (s.setThread t).mem = s.mem := rfl
@[simp] theorem State.setThread_desc (t : Thread) : (s.setThread t).desc = s.desc := rfl
@[simp] theorem State.setThread_psn (t : Thread) : (s.setThread t).psn = s.psn := rfl
@[simp] theorem State.setThread_descPsn (t : Thread) : (s.setThread t).descPsn = s.descPsn := rfl
@[simp] theorem State.setThread_units (t : Thread) : (s.setThread t).units = s.units := rfl
@[simp] theorem State.setThread_barriers (t : Thread) : (s.setThread t).barriers = s.barriers := rfl
@[simp] theorem State.setThread_disp (t : Thread) : (s.setThread t).disp = s.disp := rfl
@[simp] theorem State.setThread_trans (t : Thread) : (s.setThread t).trans = s.trans := rfl
@[simp] theorem State.setThread_fab (t : Thread) : (s.setThread t).fab = s.fab := rfl
@[simp] theorem State.setThread_phot (t : Thread) : (s.setThread t).phot = s.phot := rfl
@[simp] theorem State.setThread_lat (t : Thread) : (s.setThread t).lat = s.lat := rfl
@[simp] theorem State.setThread_host (t : Thread) : (s.setThread t).host = s.host := rfl
@[simp] theorem State.setThread_pkg (t : Thread) : (s.setThread t).pkg = s.pkg := rfl

@[simp] theorem State.dropThread_now (t : Thread) : (s.dropThread t).now = s.now := rfl
@[simp] theorem State.dropThread_inputs (t : Thread) : (s.dropThread t).inputs = s.inputs := rfl
@[simp] theorem State.dropThread_agenda (t : Thread) : (s.dropThread t).agenda = s.agenda := rfl
@[simp] theorem State.dropThread_seq (t : Thread) : (s.dropThread t).seq = s.seq := rfl
@[simp] theorem State.dropThread_cur (t : Thread) : (s.dropThread t).cur = s.cur := rfl
@[simp] theorem State.dropThread_pkt (t : Thread) : (s.dropThread t).pkt = s.pkt := rfl
@[simp] theorem State.dropThread_cmd (t : Thread) : (s.dropThread t).cmd = s.cmd := rfl
@[simp] theorem State.dropThread_scan (t : Thread) : (s.dropThread t).scan = s.scan := rfl
@[simp] theorem State.dropThread_issued (t : Thread) : (s.dropThread t).issued = s.issued := rfl
@[simp] theorem State.dropThread_busy (t : Thread) : (s.dropThread t).busy = s.busy := rfl
@[simp] theorem State.dropThread_streak (t : Thread) : (s.dropThread t).streak = s.streak := rfl
@[simp] theorem State.dropThread_engWaits (t : Thread) : (s.dropThread t).engWaits = s.engWaits := rfl
@[simp] theorem State.dropThread_free (t : Thread) : (s.dropThread t).free = s.free := rfl
@[simp] theorem State.dropThread_nextId (t : Thread) : (s.dropThread t).nextId = s.nextId := rfl
@[simp] theorem State.dropThread_mem (t : Thread) : (s.dropThread t).mem = s.mem := rfl
@[simp] theorem State.dropThread_desc (t : Thread) : (s.dropThread t).desc = s.desc := rfl
@[simp] theorem State.dropThread_psn (t : Thread) : (s.dropThread t).psn = s.psn := rfl
@[simp] theorem State.dropThread_descPsn (t : Thread) : (s.dropThread t).descPsn = s.descPsn := rfl
@[simp] theorem State.dropThread_units (t : Thread) : (s.dropThread t).units = s.units := rfl
@[simp] theorem State.dropThread_barriers (t : Thread) : (s.dropThread t).barriers = s.barriers := rfl
@[simp] theorem State.dropThread_disp (t : Thread) : (s.dropThread t).disp = s.disp := rfl
@[simp] theorem State.dropThread_trans (t : Thread) : (s.dropThread t).trans = s.trans := rfl
@[simp] theorem State.dropThread_fab (t : Thread) : (s.dropThread t).fab = s.fab := rfl
@[simp] theorem State.dropThread_phot (t : Thread) : (s.dropThread t).phot = s.phot := rfl
@[simp] theorem State.dropThread_lat (t : Thread) : (s.dropThread t).lat = s.lat := rfl
@[simp] theorem State.dropThread_host (t : Thread) : (s.dropThread t).host = s.host := rfl
@[simp] theorem State.dropThread_pkg (t : Thread) : (s.dropThread t).pkg = s.pkg := rfl

@[simp] theorem State.setUnit_now (u : Nat) (x : UnitSt) : (s.setUnit u x).now = s.now := rfl
@[simp] theorem State.setUnit_inputs (u : Nat) (x : UnitSt) : (s.setUnit u x).inputs = s.inputs := rfl
@[simp] theorem State.setUnit_agenda (u : Nat) (x : UnitSt) : (s.setUnit u x).agenda = s.agenda := rfl
@[simp] theorem State.setUnit_seq (u : Nat) (x : UnitSt) : (s.setUnit u x).seq = s.seq := rfl
@[simp] theorem State.setUnit_cur (u : Nat) (x : UnitSt) : (s.setUnit u x).cur = s.cur := rfl
@[simp] theorem State.setUnit_pkt (u : Nat) (x : UnitSt) : (s.setUnit u x).pkt = s.pkt := rfl
@[simp] theorem State.setUnit_cmd (u : Nat) (x : UnitSt) : (s.setUnit u x).cmd = s.cmd := rfl
@[simp] theorem State.setUnit_scan (u : Nat) (x : UnitSt) : (s.setUnit u x).scan = s.scan := rfl
@[simp] theorem State.setUnit_issued (u : Nat) (x : UnitSt) : (s.setUnit u x).issued = s.issued := rfl
@[simp] theorem State.setUnit_busy (u : Nat) (x : UnitSt) : (s.setUnit u x).busy = s.busy := rfl
@[simp] theorem State.setUnit_streak (u : Nat) (x : UnitSt) : (s.setUnit u x).streak = s.streak := rfl
@[simp] theorem State.setUnit_engWaits (u : Nat) (x : UnitSt) : (s.setUnit u x).engWaits = s.engWaits := rfl
@[simp] theorem State.setUnit_free (u : Nat) (x : UnitSt) : (s.setUnit u x).free = s.free := rfl
@[simp] theorem State.setUnit_nextId (u : Nat) (x : UnitSt) : (s.setUnit u x).nextId = s.nextId := rfl
@[simp] theorem State.setUnit_mem (u : Nat) (x : UnitSt) : (s.setUnit u x).mem = s.mem := rfl
@[simp] theorem State.setUnit_desc (u : Nat) (x : UnitSt) : (s.setUnit u x).desc = s.desc := rfl
@[simp] theorem State.setUnit_psn (u : Nat) (x : UnitSt) : (s.setUnit u x).psn = s.psn := rfl
@[simp] theorem State.setUnit_descPsn (u : Nat) (x : UnitSt) : (s.setUnit u x).descPsn = s.descPsn := rfl
@[simp] theorem State.setUnit_threads (u : Nat) (x : UnitSt) : (s.setUnit u x).threads = s.threads := rfl
@[simp] theorem State.setUnit_barriers (u : Nat) (x : UnitSt) : (s.setUnit u x).barriers = s.barriers := rfl
@[simp] theorem State.setUnit_disp (u : Nat) (x : UnitSt) : (s.setUnit u x).disp = s.disp := rfl
@[simp] theorem State.setUnit_trans (u : Nat) (x : UnitSt) : (s.setUnit u x).trans = s.trans := rfl
@[simp] theorem State.setUnit_fab (u : Nat) (x : UnitSt) : (s.setUnit u x).fab = s.fab := rfl
@[simp] theorem State.setUnit_phot (u : Nat) (x : UnitSt) : (s.setUnit u x).phot = s.phot := rfl
@[simp] theorem State.setUnit_lat (u : Nat) (x : UnitSt) : (s.setUnit u x).lat = s.lat := rfl
@[simp] theorem State.setUnit_host (u : Nat) (x : UnitSt) : (s.setUnit u x).host = s.host := rfl
@[simp] theorem State.setUnit_pkg (u : Nat) (x : UnitSt) : (s.setUnit u x).pkg = s.pkg := rfl

@[simp] theorem State.onUnit_now (u : Nat) (f : UnitSt → UnitSt) : (s.onUnit u f).now = s.now := rfl
@[simp] theorem State.onUnit_inputs (u : Nat) (f : UnitSt → UnitSt) : (s.onUnit u f).inputs = s.inputs := rfl
@[simp] theorem State.onUnit_agenda (u : Nat) (f : UnitSt → UnitSt) : (s.onUnit u f).agenda = s.agenda := rfl
@[simp] theorem State.onUnit_seq (u : Nat) (f : UnitSt → UnitSt) : (s.onUnit u f).seq = s.seq := rfl
@[simp] theorem State.onUnit_cur (u : Nat) (f : UnitSt → UnitSt) : (s.onUnit u f).cur = s.cur := rfl
@[simp] theorem State.onUnit_pkt (u : Nat) (f : UnitSt → UnitSt) : (s.onUnit u f).pkt = s.pkt := rfl
@[simp] theorem State.onUnit_cmd (u : Nat) (f : UnitSt → UnitSt) : (s.onUnit u f).cmd = s.cmd := rfl
@[simp] theorem State.onUnit_scan (u : Nat) (f : UnitSt → UnitSt) : (s.onUnit u f).scan = s.scan := rfl
@[simp] theorem State.onUnit_issued (u : Nat) (f : UnitSt → UnitSt) : (s.onUnit u f).issued = s.issued := rfl
@[simp] theorem State.onUnit_busy (u : Nat) (f : UnitSt → UnitSt) : (s.onUnit u f).busy = s.busy := rfl
@[simp] theorem State.onUnit_streak (u : Nat) (f : UnitSt → UnitSt) : (s.onUnit u f).streak = s.streak := rfl
@[simp] theorem State.onUnit_engWaits (u : Nat) (f : UnitSt → UnitSt) : (s.onUnit u f).engWaits = s.engWaits := rfl
@[simp] theorem State.onUnit_free (u : Nat) (f : UnitSt → UnitSt) : (s.onUnit u f).free = s.free := rfl
@[simp] theorem State.onUnit_nextId (u : Nat) (f : UnitSt → UnitSt) : (s.onUnit u f).nextId = s.nextId := rfl
@[simp] theorem State.onUnit_mem (u : Nat) (f : UnitSt → UnitSt) : (s.onUnit u f).mem = s.mem := rfl
@[simp] theorem State.onUnit_desc (u : Nat) (f : UnitSt → UnitSt) : (s.onUnit u f).desc = s.desc := rfl
@[simp] theorem State.onUnit_psn (u : Nat) (f : UnitSt → UnitSt) : (s.onUnit u f).psn = s.psn := rfl
@[simp] theorem State.onUnit_descPsn (u : Nat) (f : UnitSt → UnitSt) : (s.onUnit u f).descPsn = s.descPsn := rfl
@[simp] theorem State.onUnit_threads (u : Nat) (f : UnitSt → UnitSt) : (s.onUnit u f).threads = s.threads := rfl
@[simp] theorem State.onUnit_barriers (u : Nat) (f : UnitSt → UnitSt) : (s.onUnit u f).barriers = s.barriers := rfl
@[simp] theorem State.onUnit_disp (u : Nat) (f : UnitSt → UnitSt) : (s.onUnit u f).disp = s.disp := rfl
@[simp] theorem State.onUnit_trans (u : Nat) (f : UnitSt → UnitSt) : (s.onUnit u f).trans = s.trans := rfl
@[simp] theorem State.onUnit_fab (u : Nat) (f : UnitSt → UnitSt) : (s.onUnit u f).fab = s.fab := rfl
@[simp] theorem State.onUnit_phot (u : Nat) (f : UnitSt → UnitSt) : (s.onUnit u f).phot = s.phot := rfl
@[simp] theorem State.onUnit_lat (u : Nat) (f : UnitSt → UnitSt) : (s.onUnit u f).lat = s.lat := rfl
@[simp] theorem State.onUnit_host (u : Nat) (f : UnitSt → UnitSt) : (s.onUnit u f).host = s.host := rfl
@[simp] theorem State.onUnit_pkg (u : Nat) (f : UnitSt → UnitSt) : (s.onUnit u f).pkg = s.pkg := rfl

@[simp] theorem State.setLaunch_now (l : Launch) : (s.setLaunch l).now = s.now := rfl
@[simp] theorem State.setLaunch_inputs (l : Launch) : (s.setLaunch l).inputs = s.inputs := rfl
@[simp] theorem State.setLaunch_agenda (l : Launch) : (s.setLaunch l).agenda = s.agenda := rfl
@[simp] theorem State.setLaunch_seq (l : Launch) : (s.setLaunch l).seq = s.seq := rfl
@[simp] theorem State.setLaunch_cur (l : Launch) : (s.setLaunch l).cur = s.cur := rfl
@[simp] theorem State.setLaunch_pkt (l : Launch) : (s.setLaunch l).pkt = s.pkt := rfl
@[simp] theorem State.setLaunch_cmd (l : Launch) : (s.setLaunch l).cmd = s.cmd := rfl
@[simp] theorem State.setLaunch_scan (l : Launch) : (s.setLaunch l).scan = s.scan := rfl
@[simp] theorem State.setLaunch_issued (l : Launch) : (s.setLaunch l).issued = s.issued := rfl
@[simp] theorem State.setLaunch_busy (l : Launch) : (s.setLaunch l).busy = s.busy := rfl
@[simp] theorem State.setLaunch_streak (l : Launch) : (s.setLaunch l).streak = s.streak := rfl
@[simp] theorem State.setLaunch_engWaits (l : Launch) : (s.setLaunch l).engWaits = s.engWaits := rfl
@[simp] theorem State.setLaunch_free (l : Launch) : (s.setLaunch l).free = s.free := rfl
@[simp] theorem State.setLaunch_nextId (l : Launch) : (s.setLaunch l).nextId = s.nextId := rfl
@[simp] theorem State.setLaunch_mem (l : Launch) : (s.setLaunch l).mem = s.mem := rfl
@[simp] theorem State.setLaunch_desc (l : Launch) : (s.setLaunch l).desc = s.desc := rfl
@[simp] theorem State.setLaunch_psn (l : Launch) : (s.setLaunch l).psn = s.psn := rfl
@[simp] theorem State.setLaunch_descPsn (l : Launch) : (s.setLaunch l).descPsn = s.descPsn := rfl
@[simp] theorem State.setLaunch_threads (l : Launch) : (s.setLaunch l).threads = s.threads := rfl
@[simp] theorem State.setLaunch_units (l : Launch) : (s.setLaunch l).units = s.units := rfl
@[simp] theorem State.setLaunch_barriers (l : Launch) : (s.setLaunch l).barriers = s.barriers := rfl
@[simp] theorem State.setLaunch_trans (l : Launch) : (s.setLaunch l).trans = s.trans := rfl
@[simp] theorem State.setLaunch_fab (l : Launch) : (s.setLaunch l).fab = s.fab := rfl
@[simp] theorem State.setLaunch_phot (l : Launch) : (s.setLaunch l).phot = s.phot := rfl
@[simp] theorem State.setLaunch_lat (l : Launch) : (s.setLaunch l).lat = s.lat := rfl
@[simp] theorem State.setLaunch_host (l : Launch) : (s.setLaunch l).host = s.host := rfl
@[simp] theorem State.setLaunch_pkg (l : Launch) : (s.setLaunch l).pkg = s.pkg := rfl

@[simp] theorem State.setCrew_now (c : Crew) : (s.setCrew c).now = s.now := rfl
@[simp] theorem State.setCrew_inputs (c : Crew) : (s.setCrew c).inputs = s.inputs := rfl
@[simp] theorem State.setCrew_agenda (c : Crew) : (s.setCrew c).agenda = s.agenda := rfl
@[simp] theorem State.setCrew_seq (c : Crew) : (s.setCrew c).seq = s.seq := rfl
@[simp] theorem State.setCrew_cur (c : Crew) : (s.setCrew c).cur = s.cur := rfl
@[simp] theorem State.setCrew_pkt (c : Crew) : (s.setCrew c).pkt = s.pkt := rfl
@[simp] theorem State.setCrew_cmd (c : Crew) : (s.setCrew c).cmd = s.cmd := rfl
@[simp] theorem State.setCrew_scan (c : Crew) : (s.setCrew c).scan = s.scan := rfl
@[simp] theorem State.setCrew_issued (c : Crew) : (s.setCrew c).issued = s.issued := rfl
@[simp] theorem State.setCrew_busy (c : Crew) : (s.setCrew c).busy = s.busy := rfl
@[simp] theorem State.setCrew_streak (c : Crew) : (s.setCrew c).streak = s.streak := rfl
@[simp] theorem State.setCrew_engWaits (c : Crew) : (s.setCrew c).engWaits = s.engWaits := rfl
@[simp] theorem State.setCrew_free (c : Crew) : (s.setCrew c).free = s.free := rfl
@[simp] theorem State.setCrew_nextId (c : Crew) : (s.setCrew c).nextId = s.nextId := rfl
@[simp] theorem State.setCrew_mem (c : Crew) : (s.setCrew c).mem = s.mem := rfl
@[simp] theorem State.setCrew_desc (c : Crew) : (s.setCrew c).desc = s.desc := rfl
@[simp] theorem State.setCrew_psn (c : Crew) : (s.setCrew c).psn = s.psn := rfl
@[simp] theorem State.setCrew_descPsn (c : Crew) : (s.setCrew c).descPsn = s.descPsn := rfl
@[simp] theorem State.setCrew_threads (c : Crew) : (s.setCrew c).threads = s.threads := rfl
@[simp] theorem State.setCrew_units (c : Crew) : (s.setCrew c).units = s.units := rfl
@[simp] theorem State.setCrew_barriers (c : Crew) : (s.setCrew c).barriers = s.barriers := rfl
@[simp] theorem State.setCrew_trans (c : Crew) : (s.setCrew c).trans = s.trans := rfl
@[simp] theorem State.setCrew_fab (c : Crew) : (s.setCrew c).fab = s.fab := rfl
@[simp] theorem State.setCrew_phot (c : Crew) : (s.setCrew c).phot = s.phot := rfl
@[simp] theorem State.setCrew_lat (c : Crew) : (s.setCrew c).lat = s.lat := rfl
@[simp] theorem State.setCrew_host (c : Crew) : (s.setCrew c).host = s.host := rfl
@[simp] theorem State.setCrew_pkg (c : Crew) : (s.setCrew c).pkg = s.pkg := rfl

@[simp] theorem State.fresh_now  : (s.fresh).now = s.now := rfl
@[simp] theorem State.fresh_inputs  : (s.fresh).inputs = s.inputs := rfl
@[simp] theorem State.fresh_agenda  : (s.fresh).agenda = s.agenda := rfl
@[simp] theorem State.fresh_seq  : (s.fresh).seq = s.seq := rfl
@[simp] theorem State.fresh_cur  : (s.fresh).cur = s.cur := rfl
@[simp] theorem State.fresh_pkt  : (s.fresh).pkt = s.pkt := rfl
@[simp] theorem State.fresh_cmd  : (s.fresh).cmd = s.cmd := rfl
@[simp] theorem State.fresh_scan  : (s.fresh).scan = s.scan := rfl
@[simp] theorem State.fresh_issued  : (s.fresh).issued = s.issued := rfl
@[simp] theorem State.fresh_busy  : (s.fresh).busy = s.busy := rfl
@[simp] theorem State.fresh_streak  : (s.fresh).streak = s.streak := rfl
@[simp] theorem State.fresh_engWaits  : (s.fresh).engWaits = s.engWaits := rfl
@[simp] theorem State.fresh_free  : (s.fresh).free = s.free := rfl
@[simp] theorem State.fresh_mem  : (s.fresh).mem = s.mem := rfl
@[simp] theorem State.fresh_desc  : (s.fresh).desc = s.desc := rfl
@[simp] theorem State.fresh_psn  : (s.fresh).psn = s.psn := rfl
@[simp] theorem State.fresh_descPsn  : (s.fresh).descPsn = s.descPsn := rfl
@[simp] theorem State.fresh_threads  : (s.fresh).threads = s.threads := rfl
@[simp] theorem State.fresh_units  : (s.fresh).units = s.units := rfl
@[simp] theorem State.fresh_barriers  : (s.fresh).barriers = s.barriers := rfl
@[simp] theorem State.fresh_disp  : (s.fresh).disp = s.disp := rfl
@[simp] theorem State.fresh_trans  : (s.fresh).trans = s.trans := rfl
@[simp] theorem State.fresh_fab  : (s.fresh).fab = s.fab := rfl
@[simp] theorem State.fresh_phot  : (s.fresh).phot = s.phot := rfl
@[simp] theorem State.fresh_lat  : (s.fresh).lat = s.lat := rfl
@[simp] theorem State.fresh_host  : (s.fresh).host = s.host := rfl
@[simp] theorem State.fresh_pkg  : (s.fresh).pkg = s.pkg := rfl

@[simp] theorem State.sched_now (delay rank : Nat) (op : Instr) : (s.sched delay rank op).now = s.now := rfl
@[simp] theorem State.sched_inputs (delay rank : Nat) (op : Instr) : (s.sched delay rank op).inputs = s.inputs := rfl
@[simp] theorem State.sched_cur (delay rank : Nat) (op : Instr) : (s.sched delay rank op).cur = s.cur := rfl
@[simp] theorem State.sched_pkt (delay rank : Nat) (op : Instr) : (s.sched delay rank op).pkt = s.pkt := rfl
@[simp] theorem State.sched_cmd (delay rank : Nat) (op : Instr) : (s.sched delay rank op).cmd = s.cmd := rfl
@[simp] theorem State.sched_scan (delay rank : Nat) (op : Instr) : (s.sched delay rank op).scan = s.scan := rfl
@[simp] theorem State.sched_issued (delay rank : Nat) (op : Instr) : (s.sched delay rank op).issued = s.issued := rfl
@[simp] theorem State.sched_busy (delay rank : Nat) (op : Instr) : (s.sched delay rank op).busy = s.busy := rfl
@[simp] theorem State.sched_streak (delay rank : Nat) (op : Instr) : (s.sched delay rank op).streak = s.streak := rfl
@[simp] theorem State.sched_engWaits (delay rank : Nat) (op : Instr) : (s.sched delay rank op).engWaits = s.engWaits := rfl
@[simp] theorem State.sched_free (delay rank : Nat) (op : Instr) : (s.sched delay rank op).free = s.free := rfl
@[simp] theorem State.sched_nextId (delay rank : Nat) (op : Instr) : (s.sched delay rank op).nextId = s.nextId := rfl
@[simp] theorem State.sched_mem (delay rank : Nat) (op : Instr) : (s.sched delay rank op).mem = s.mem := rfl
@[simp] theorem State.sched_desc (delay rank : Nat) (op : Instr) : (s.sched delay rank op).desc = s.desc := rfl
@[simp] theorem State.sched_psn (delay rank : Nat) (op : Instr) : (s.sched delay rank op).psn = s.psn := rfl
@[simp] theorem State.sched_descPsn (delay rank : Nat) (op : Instr) : (s.sched delay rank op).descPsn = s.descPsn := rfl
@[simp] theorem State.sched_threads (delay rank : Nat) (op : Instr) : (s.sched delay rank op).threads = s.threads := rfl
@[simp] theorem State.sched_units (delay rank : Nat) (op : Instr) : (s.sched delay rank op).units = s.units := rfl
@[simp] theorem State.sched_barriers (delay rank : Nat) (op : Instr) : (s.sched delay rank op).barriers = s.barriers := rfl
@[simp] theorem State.sched_disp (delay rank : Nat) (op : Instr) : (s.sched delay rank op).disp = s.disp := rfl
@[simp] theorem State.sched_trans (delay rank : Nat) (op : Instr) : (s.sched delay rank op).trans = s.trans := rfl
@[simp] theorem State.sched_fab (delay rank : Nat) (op : Instr) : (s.sched delay rank op).fab = s.fab := rfl
@[simp] theorem State.sched_phot (delay rank : Nat) (op : Instr) : (s.sched delay rank op).phot = s.phot := rfl
@[simp] theorem State.sched_lat (delay rank : Nat) (op : Instr) : (s.sched delay rank op).lat = s.lat := rfl
@[simp] theorem State.sched_host (delay rank : Nat) (op : Instr) : (s.sched delay rank op).host = s.host := rfl
@[simp] theorem State.sched_pkg (delay rank : Nat) (op : Instr) : (s.sched delay rank op).pkg = s.pkg := rfl

@[simp] theorem State.schedPkt_now (delay rank : Nat) (op : Instr) (p : Packet) : (s.schedPkt delay rank op p).now = s.now := rfl
@[simp] theorem State.schedPkt_inputs (delay rank : Nat) (op : Instr) (p : Packet) : (s.schedPkt delay rank op p).inputs = s.inputs := rfl
@[simp] theorem State.schedPkt_cur (delay rank : Nat) (op : Instr) (p : Packet) : (s.schedPkt delay rank op p).cur = s.cur := rfl
@[simp] theorem State.schedPkt_pkt (delay rank : Nat) (op : Instr) (p : Packet) : (s.schedPkt delay rank op p).pkt = s.pkt := rfl
@[simp] theorem State.schedPkt_cmd (delay rank : Nat) (op : Instr) (p : Packet) : (s.schedPkt delay rank op p).cmd = s.cmd := rfl
@[simp] theorem State.schedPkt_scan (delay rank : Nat) (op : Instr) (p : Packet) : (s.schedPkt delay rank op p).scan = s.scan := rfl
@[simp] theorem State.schedPkt_issued (delay rank : Nat) (op : Instr) (p : Packet) : (s.schedPkt delay rank op p).issued = s.issued := rfl
@[simp] theorem State.schedPkt_busy (delay rank : Nat) (op : Instr) (p : Packet) : (s.schedPkt delay rank op p).busy = s.busy := rfl
@[simp] theorem State.schedPkt_streak (delay rank : Nat) (op : Instr) (p : Packet) : (s.schedPkt delay rank op p).streak = s.streak := rfl
@[simp] theorem State.schedPkt_engWaits (delay rank : Nat) (op : Instr) (p : Packet) : (s.schedPkt delay rank op p).engWaits = s.engWaits := rfl
@[simp] theorem State.schedPkt_free (delay rank : Nat) (op : Instr) (p : Packet) : (s.schedPkt delay rank op p).free = s.free := rfl
@[simp] theorem State.schedPkt_nextId (delay rank : Nat) (op : Instr) (p : Packet) : (s.schedPkt delay rank op p).nextId = s.nextId := rfl
@[simp] theorem State.schedPkt_mem (delay rank : Nat) (op : Instr) (p : Packet) : (s.schedPkt delay rank op p).mem = s.mem := rfl
@[simp] theorem State.schedPkt_desc (delay rank : Nat) (op : Instr) (p : Packet) : (s.schedPkt delay rank op p).desc = s.desc := rfl
@[simp] theorem State.schedPkt_psn (delay rank : Nat) (op : Instr) (p : Packet) : (s.schedPkt delay rank op p).psn = s.psn := rfl
@[simp] theorem State.schedPkt_descPsn (delay rank : Nat) (op : Instr) (p : Packet) : (s.schedPkt delay rank op p).descPsn = s.descPsn := rfl
@[simp] theorem State.schedPkt_threads (delay rank : Nat) (op : Instr) (p : Packet) : (s.schedPkt delay rank op p).threads = s.threads := rfl
@[simp] theorem State.schedPkt_units (delay rank : Nat) (op : Instr) (p : Packet) : (s.schedPkt delay rank op p).units = s.units := rfl
@[simp] theorem State.schedPkt_barriers (delay rank : Nat) (op : Instr) (p : Packet) : (s.schedPkt delay rank op p).barriers = s.barriers := rfl
@[simp] theorem State.schedPkt_disp (delay rank : Nat) (op : Instr) (p : Packet) : (s.schedPkt delay rank op p).disp = s.disp := rfl
@[simp] theorem State.schedPkt_trans (delay rank : Nat) (op : Instr) (p : Packet) : (s.schedPkt delay rank op p).trans = s.trans := rfl
@[simp] theorem State.schedPkt_fab (delay rank : Nat) (op : Instr) (p : Packet) : (s.schedPkt delay rank op p).fab = s.fab := rfl
@[simp] theorem State.schedPkt_phot (delay rank : Nat) (op : Instr) (p : Packet) : (s.schedPkt delay rank op p).phot = s.phot := rfl
@[simp] theorem State.schedPkt_lat (delay rank : Nat) (op : Instr) (p : Packet) : (s.schedPkt delay rank op p).lat = s.lat := rfl
@[simp] theorem State.schedPkt_host (delay rank : Nat) (op : Instr) (p : Packet) : (s.schedPkt delay rank op p).host = s.host := rfl
@[simp] theorem State.schedPkt_pkg (delay rank : Nat) (op : Instr) (p : Packet) : (s.schedPkt delay rank op p).pkg = s.pkg := rfl

@[simp] theorem State.postLater_now (delay : Nat) (p : PostTo) (count status : Nat) : (s.postLater delay p count status).now = s.now := rfl
@[simp] theorem State.postLater_inputs (delay : Nat) (p : PostTo) (count status : Nat) : (s.postLater delay p count status).inputs = s.inputs := rfl
@[simp] theorem State.postLater_cur (delay : Nat) (p : PostTo) (count status : Nat) : (s.postLater delay p count status).cur = s.cur := rfl
@[simp] theorem State.postLater_pkt (delay : Nat) (p : PostTo) (count status : Nat) : (s.postLater delay p count status).pkt = s.pkt := rfl
@[simp] theorem State.postLater_cmd (delay : Nat) (p : PostTo) (count status : Nat) : (s.postLater delay p count status).cmd = s.cmd := rfl
@[simp] theorem State.postLater_scan (delay : Nat) (p : PostTo) (count status : Nat) : (s.postLater delay p count status).scan = s.scan := rfl
@[simp] theorem State.postLater_issued (delay : Nat) (p : PostTo) (count status : Nat) : (s.postLater delay p count status).issued = s.issued := rfl
@[simp] theorem State.postLater_busy (delay : Nat) (p : PostTo) (count status : Nat) : (s.postLater delay p count status).busy = s.busy := rfl
@[simp] theorem State.postLater_streak (delay : Nat) (p : PostTo) (count status : Nat) : (s.postLater delay p count status).streak = s.streak := rfl
@[simp] theorem State.postLater_engWaits (delay : Nat) (p : PostTo) (count status : Nat) : (s.postLater delay p count status).engWaits = s.engWaits := rfl
@[simp] theorem State.postLater_free (delay : Nat) (p : PostTo) (count status : Nat) : (s.postLater delay p count status).free = s.free := rfl
@[simp] theorem State.postLater_nextId (delay : Nat) (p : PostTo) (count status : Nat) : (s.postLater delay p count status).nextId = s.nextId := rfl
@[simp] theorem State.postLater_mem (delay : Nat) (p : PostTo) (count status : Nat) : (s.postLater delay p count status).mem = s.mem := rfl
@[simp] theorem State.postLater_desc (delay : Nat) (p : PostTo) (count status : Nat) : (s.postLater delay p count status).desc = s.desc := rfl
@[simp] theorem State.postLater_psn (delay : Nat) (p : PostTo) (count status : Nat) : (s.postLater delay p count status).psn = s.psn := rfl
@[simp] theorem State.postLater_descPsn (delay : Nat) (p : PostTo) (count status : Nat) : (s.postLater delay p count status).descPsn = s.descPsn := rfl
@[simp] theorem State.postLater_threads (delay : Nat) (p : PostTo) (count status : Nat) : (s.postLater delay p count status).threads = s.threads := rfl
@[simp] theorem State.postLater_units (delay : Nat) (p : PostTo) (count status : Nat) : (s.postLater delay p count status).units = s.units := rfl
@[simp] theorem State.postLater_barriers (delay : Nat) (p : PostTo) (count status : Nat) : (s.postLater delay p count status).barriers = s.barriers := rfl
@[simp] theorem State.postLater_disp (delay : Nat) (p : PostTo) (count status : Nat) : (s.postLater delay p count status).disp = s.disp := rfl
@[simp] theorem State.postLater_trans (delay : Nat) (p : PostTo) (count status : Nat) : (s.postLater delay p count status).trans = s.trans := rfl
@[simp] theorem State.postLater_fab (delay : Nat) (p : PostTo) (count status : Nat) : (s.postLater delay p count status).fab = s.fab := rfl
@[simp] theorem State.postLater_phot (delay : Nat) (p : PostTo) (count status : Nat) : (s.postLater delay p count status).phot = s.phot := rfl
@[simp] theorem State.postLater_lat (delay : Nat) (p : PostTo) (count status : Nat) : (s.postLater delay p count status).lat = s.lat := rfl
@[simp] theorem State.postLater_host (delay : Nat) (p : PostTo) (count status : Nat) : (s.postLater delay p count status).host = s.host := rfl
@[simp] theorem State.postLater_pkg (delay : Nat) (p : PostTo) (count status : Nat) : (s.postLater delay p count status).pkg = s.pkg := rfl

@[simp] theorem State.setDesc_now (pa : Nat) (d : Half) : (s.setDesc pa d).now = s.now := rfl
@[simp] theorem State.setDesc_inputs (pa : Nat) (d : Half) : (s.setDesc pa d).inputs = s.inputs := rfl
@[simp] theorem State.setDesc_agenda (pa : Nat) (d : Half) : (s.setDesc pa d).agenda = s.agenda := rfl
@[simp] theorem State.setDesc_seq (pa : Nat) (d : Half) : (s.setDesc pa d).seq = s.seq := rfl
@[simp] theorem State.setDesc_cur (pa : Nat) (d : Half) : (s.setDesc pa d).cur = s.cur := rfl
@[simp] theorem State.setDesc_pkt (pa : Nat) (d : Half) : (s.setDesc pa d).pkt = s.pkt := rfl
@[simp] theorem State.setDesc_cmd (pa : Nat) (d : Half) : (s.setDesc pa d).cmd = s.cmd := rfl
@[simp] theorem State.setDesc_scan (pa : Nat) (d : Half) : (s.setDesc pa d).scan = s.scan := rfl
@[simp] theorem State.setDesc_issued (pa : Nat) (d : Half) : (s.setDesc pa d).issued = s.issued := rfl
@[simp] theorem State.setDesc_busy (pa : Nat) (d : Half) : (s.setDesc pa d).busy = s.busy := rfl
@[simp] theorem State.setDesc_streak (pa : Nat) (d : Half) : (s.setDesc pa d).streak = s.streak := rfl
@[simp] theorem State.setDesc_engWaits (pa : Nat) (d : Half) : (s.setDesc pa d).engWaits = s.engWaits := rfl
@[simp] theorem State.setDesc_free (pa : Nat) (d : Half) : (s.setDesc pa d).free = s.free := rfl
@[simp] theorem State.setDesc_nextId (pa : Nat) (d : Half) : (s.setDesc pa d).nextId = s.nextId := rfl
@[simp] theorem State.setDesc_mem (pa : Nat) (d : Half) : (s.setDesc pa d).mem = s.mem := rfl
@[simp] theorem State.setDesc_psn (pa : Nat) (d : Half) : (s.setDesc pa d).psn = s.psn := rfl
@[simp] theorem State.setDesc_threads (pa : Nat) (d : Half) : (s.setDesc pa d).threads = s.threads := rfl
@[simp] theorem State.setDesc_units (pa : Nat) (d : Half) : (s.setDesc pa d).units = s.units := rfl
@[simp] theorem State.setDesc_barriers (pa : Nat) (d : Half) : (s.setDesc pa d).barriers = s.barriers := rfl
@[simp] theorem State.setDesc_disp (pa : Nat) (d : Half) : (s.setDesc pa d).disp = s.disp := rfl
@[simp] theorem State.setDesc_trans (pa : Nat) (d : Half) : (s.setDesc pa d).trans = s.trans := rfl
@[simp] theorem State.setDesc_fab (pa : Nat) (d : Half) : (s.setDesc pa d).fab = s.fab := rfl
@[simp] theorem State.setDesc_phot (pa : Nat) (d : Half) : (s.setDesc pa d).phot = s.phot := rfl
@[simp] theorem State.setDesc_lat (pa : Nat) (d : Half) : (s.setDesc pa d).lat = s.lat := rfl
@[simp] theorem State.setDesc_host (pa : Nat) (d : Half) : (s.setDesc pa d).host = s.host := rfl
@[simp] theorem State.setDesc_pkg (pa : Nat) (d : Half) : (s.setDesc pa d).pkg = s.pkg := rfl

@[simp] theorem State.zero_now (pa n : Nat) : (s.zero pa n).now = s.now := rfl
@[simp] theorem State.zero_inputs (pa n : Nat) : (s.zero pa n).inputs = s.inputs := rfl
@[simp] theorem State.zero_agenda (pa n : Nat) : (s.zero pa n).agenda = s.agenda := rfl
@[simp] theorem State.zero_seq (pa n : Nat) : (s.zero pa n).seq = s.seq := rfl
@[simp] theorem State.zero_cur (pa n : Nat) : (s.zero pa n).cur = s.cur := rfl
@[simp] theorem State.zero_pkt (pa n : Nat) : (s.zero pa n).pkt = s.pkt := rfl
@[simp] theorem State.zero_cmd (pa n : Nat) : (s.zero pa n).cmd = s.cmd := rfl
@[simp] theorem State.zero_scan (pa n : Nat) : (s.zero pa n).scan = s.scan := rfl
@[simp] theorem State.zero_issued (pa n : Nat) : (s.zero pa n).issued = s.issued := rfl
@[simp] theorem State.zero_busy (pa n : Nat) : (s.zero pa n).busy = s.busy := rfl
@[simp] theorem State.zero_streak (pa n : Nat) : (s.zero pa n).streak = s.streak := rfl
@[simp] theorem State.zero_engWaits (pa n : Nat) : (s.zero pa n).engWaits = s.engWaits := rfl
@[simp] theorem State.zero_free (pa n : Nat) : (s.zero pa n).free = s.free := rfl
@[simp] theorem State.zero_nextId (pa n : Nat) : (s.zero pa n).nextId = s.nextId := rfl
@[simp] theorem State.zero_threads (pa n : Nat) : (s.zero pa n).threads = s.threads := rfl
@[simp] theorem State.zero_units (pa n : Nat) : (s.zero pa n).units = s.units := rfl
@[simp] theorem State.zero_barriers (pa n : Nat) : (s.zero pa n).barriers = s.barriers := rfl
@[simp] theorem State.zero_disp (pa n : Nat) : (s.zero pa n).disp = s.disp := rfl
@[simp] theorem State.zero_trans (pa n : Nat) : (s.zero pa n).trans = s.trans := rfl
@[simp] theorem State.zero_fab (pa n : Nat) : (s.zero pa n).fab = s.fab := rfl
@[simp] theorem State.zero_phot (pa n : Nat) : (s.zero pa n).phot = s.phot := rfl
@[simp] theorem State.zero_lat (pa n : Nat) : (s.zero pa n).lat = s.lat := rfl
@[simp] theorem State.zero_host (pa n : Nat) : (s.zero pa n).host = s.host := rfl
@[simp] theorem State.zero_pkg (pa n : Nat) : (s.zero pa n).pkg = s.pkg := rfl

@[simp] theorem State.logWords_now (f : W32 → List Word) : (s.logWords f).now = s.now := rfl
@[simp] theorem State.logWords_inputs (f : W32 → List Word) : (s.logWords f).inputs = s.inputs := rfl
@[simp] theorem State.logWords_agenda (f : W32 → List Word) : (s.logWords f).agenda = s.agenda := rfl
@[simp] theorem State.logWords_seq (f : W32 → List Word) : (s.logWords f).seq = s.seq := rfl
@[simp] theorem State.logWords_cur (f : W32 → List Word) : (s.logWords f).cur = s.cur := rfl
@[simp] theorem State.logWords_pkt (f : W32 → List Word) : (s.logWords f).pkt = s.pkt := rfl
@[simp] theorem State.logWords_cmd (f : W32 → List Word) : (s.logWords f).cmd = s.cmd := rfl
@[simp] theorem State.logWords_scan (f : W32 → List Word) : (s.logWords f).scan = s.scan := rfl
@[simp] theorem State.logWords_issued (f : W32 → List Word) : (s.logWords f).issued = s.issued := rfl
@[simp] theorem State.logWords_busy (f : W32 → List Word) : (s.logWords f).busy = s.busy := rfl
@[simp] theorem State.logWords_streak (f : W32 → List Word) : (s.logWords f).streak = s.streak := rfl
@[simp] theorem State.logWords_engWaits (f : W32 → List Word) : (s.logWords f).engWaits = s.engWaits := rfl
@[simp] theorem State.logWords_free (f : W32 → List Word) : (s.logWords f).free = s.free := rfl
@[simp] theorem State.logWords_nextId (f : W32 → List Word) : (s.logWords f).nextId = s.nextId := rfl
@[simp] theorem State.logWords_mem (f : W32 → List Word) : (s.logWords f).mem = s.mem := rfl
@[simp] theorem State.logWords_desc (f : W32 → List Word) : (s.logWords f).desc = s.desc := rfl
@[simp] theorem State.logWords_psn (f : W32 → List Word) : (s.logWords f).psn = s.psn := rfl
@[simp] theorem State.logWords_descPsn (f : W32 → List Word) : (s.logWords f).descPsn = s.descPsn := rfl
@[simp] theorem State.logWords_threads (f : W32 → List Word) : (s.logWords f).threads = s.threads := rfl
@[simp] theorem State.logWords_units (f : W32 → List Word) : (s.logWords f).units = s.units := rfl
@[simp] theorem State.logWords_barriers (f : W32 → List Word) : (s.logWords f).barriers = s.barriers := rfl
@[simp] theorem State.logWords_disp (f : W32 → List Word) : (s.logWords f).disp = s.disp := rfl
@[simp] theorem State.logWords_trans (f : W32 → List Word) : (s.logWords f).trans = s.trans := rfl
@[simp] theorem State.logWords_fab (f : W32 → List Word) : (s.logWords f).fab = s.fab := rfl
@[simp] theorem State.logWords_phot (f : W32 → List Word) : (s.logWords f).phot = s.phot := rfl
@[simp] theorem State.logWords_lat (f : W32 → List Word) : (s.logWords f).lat = s.lat := rfl
@[simp] theorem State.logWords_host (f : W32 → List Word) : (s.logWords f).host = s.host := rfl

@[simp] theorem State.setPort_now (p : Nat) (x : LPort) : (s.setPort p x).now = s.now := rfl
@[simp] theorem State.setPort_inputs (p : Nat) (x : LPort) : (s.setPort p x).inputs = s.inputs := rfl
@[simp] theorem State.setPort_agenda (p : Nat) (x : LPort) : (s.setPort p x).agenda = s.agenda := rfl
@[simp] theorem State.setPort_seq (p : Nat) (x : LPort) : (s.setPort p x).seq = s.seq := rfl
@[simp] theorem State.setPort_cur (p : Nat) (x : LPort) : (s.setPort p x).cur = s.cur := rfl
@[simp] theorem State.setPort_pkt (p : Nat) (x : LPort) : (s.setPort p x).pkt = s.pkt := rfl
@[simp] theorem State.setPort_cmd (p : Nat) (x : LPort) : (s.setPort p x).cmd = s.cmd := rfl
@[simp] theorem State.setPort_scan (p : Nat) (x : LPort) : (s.setPort p x).scan = s.scan := rfl
@[simp] theorem State.setPort_issued (p : Nat) (x : LPort) : (s.setPort p x).issued = s.issued := rfl
@[simp] theorem State.setPort_busy (p : Nat) (x : LPort) : (s.setPort p x).busy = s.busy := rfl
@[simp] theorem State.setPort_streak (p : Nat) (x : LPort) : (s.setPort p x).streak = s.streak := rfl
@[simp] theorem State.setPort_engWaits (p : Nat) (x : LPort) : (s.setPort p x).engWaits = s.engWaits := rfl
@[simp] theorem State.setPort_free (p : Nat) (x : LPort) : (s.setPort p x).free = s.free := rfl
@[simp] theorem State.setPort_nextId (p : Nat) (x : LPort) : (s.setPort p x).nextId = s.nextId := rfl
@[simp] theorem State.setPort_mem (p : Nat) (x : LPort) : (s.setPort p x).mem = s.mem := rfl
@[simp] theorem State.setPort_desc (p : Nat) (x : LPort) : (s.setPort p x).desc = s.desc := rfl
@[simp] theorem State.setPort_psn (p : Nat) (x : LPort) : (s.setPort p x).psn = s.psn := rfl
@[simp] theorem State.setPort_descPsn (p : Nat) (x : LPort) : (s.setPort p x).descPsn = s.descPsn := rfl
@[simp] theorem State.setPort_threads (p : Nat) (x : LPort) : (s.setPort p x).threads = s.threads := rfl
@[simp] theorem State.setPort_units (p : Nat) (x : LPort) : (s.setPort p x).units = s.units := rfl
@[simp] theorem State.setPort_barriers (p : Nat) (x : LPort) : (s.setPort p x).barriers = s.barriers := rfl
@[simp] theorem State.setPort_trans (p : Nat) (x : LPort) : (s.setPort p x).trans = s.trans := rfl
@[simp] theorem State.setPort_fab (p : Nat) (x : LPort) : (s.setPort p x).fab = s.fab := rfl
@[simp] theorem State.setPort_phot (p : Nat) (x : LPort) : (s.setPort p x).phot = s.phot := rfl
@[simp] theorem State.setPort_lat (p : Nat) (x : LPort) : (s.setPort p x).lat = s.lat := rfl
@[simp] theorem State.setPort_host (p : Nat) (x : LPort) : (s.setPort p x).host = s.host := rfl
@[simp] theorem State.setPort_pkg (p : Nat) (x : LPort) : (s.setPort p x).pkg = s.pkg := rfl

@[simp] theorem State.setThread_threads (t : Thread) : (s.setThread t).threads = putThread s.threads t := rfl
@[simp] theorem State.setUnit_units (u : Nat) (x : UnitSt) : (s.setUnit u x).units = mset s.units u x := rfl
@[simp] theorem State.setDesc_desc (pa : Nat) (d : Half) : (s.setDesc pa d).desc = wrDesc s.desc (pa / 64) d := rfl

/-! ## Updates of a thread -/

section
variable (t : Thread)

@[simp] theorem Thread.wr_unit (r : Operand) (v : Word) : (t.wr r v).unit = t.unit := by
  unfold Thread.wr; repeat' split <;> try rfl
@[simp] theorem Thread.wr_slot (r : Operand) (v : Word) : (t.wr r v).slot = t.slot := by
  unfold Thread.wr; repeat' split <;> try rfl
@[simp] theorem Thread.wr_gen (r : Operand) (v : Word) : (t.wr r v).gen = t.gen := by
  unfold Thread.wr; repeat' split <;> try rfl
@[simp] theorem Thread.wr_ltag (r : Operand) (v : Word) : (t.wr r v).ltag = t.ltag := by
  unfold Thread.wr; repeat' split <;> try rfl
@[simp] theorem Thread.wr_gang (r : Operand) (v : Word) : (t.wr r v).gang = t.gang := by
  unfold Thread.wr; repeat' split <;> try rfl
@[simp] theorem Thread.wr_crew (r : Operand) (v : Word) : (t.wr r v).crew = t.crew := by
  unfold Thread.wr; repeat' split <;> try rfl
@[simp] theorem Thread.wr_tid (r : Operand) (v : Word) : (t.wr r v).tid = t.tid := by
  unfold Thread.wr; repeat' split <;> try rfl
@[simp] theorem Thread.wr_seed (r : Operand) (v : Word) : (t.wr r v).seed = t.seed := by
  unfold Thread.wr; repeat' split <;> try rfl
@[simp] theorem Thread.wr_q (r : Operand) (v : Word) : (t.wr r v).q = t.q := by
  unfold Thread.wr; repeat' split <;> try rfl
@[simp] theorem Thread.wr_sems (r : Operand) (v : Word) : (t.wr r v).sems = t.sems := by
  unfold Thread.wr; repeat' split <;> try rfl
@[simp] theorem Thread.wr_pc (r : Operand) (v : Word) : (t.wr r v).pc = t.pc := by
  unfold Thread.wr; repeat' split <;> try rfl
@[simp] theorem Thread.wr_depth (r : Operand) (v : Word) : (t.wr r v).depth = t.depth := by
  unfold Thread.wr; repeat' split <;> try rfl
@[simp] theorem Thread.wr_spillp (r : Operand) (v : Word) : (t.wr r v).spillp = t.spillp := by
  unfold Thread.wr; repeat' split <;> try rfl
@[simp] theorem Thread.wr_spilllim (r : Operand) (v : Word) : (t.wr r v).spilllim = t.spilllim := by
  unfold Thread.wr; repeat' split <;> try rfl
@[simp] theorem Thread.wr_skipc (r : Operand) (v : Word) : (t.wr r v).skipc = t.skipc := by
  unfold Thread.wr; repeat' split <;> try rfl
@[simp] theorem Thread.wr_eng (r : Operand) (v : Word) : (t.wr r v).eng = t.eng := by
  unfold Thread.wr; repeat' split <;> try rfl
@[simp] theorem Thread.wr_esem (r : Operand) (v : Word) : (t.wr r v).esem = t.esem := by
  unfold Thread.wr; repeat' split <;> try rfl
@[simp] theorem Thread.wr_semerr (r : Operand) (v : Word) : (t.wr r v).semerr = t.semerr := by
  unfold Thread.wr; repeat' split <;> try rfl
@[simp] theorem Thread.wr_semerrAt (r : Operand) (v : Word) : (t.wr r v).semerrAt = t.semerrAt := by
  unfold Thread.wr; repeat' split <;> try rfl
@[simp] theorem Thread.wr_inrgn (r : Operand) (v : Word) : (t.wr r v).inrgn = t.inrgn := by
  unfold Thread.wr; repeat' split <;> try rfl
@[simp] theorem Thread.wr_trigd (r : Operand) (v : Word) : (t.wr r v).trigd = t.trigd := by
  unfold Thread.wr; repeat' split <;> try rfl
@[simp] theorem Thread.wr_svc (r : Operand) (v : Word) : (t.wr r v).svc = t.svc := by
  unfold Thread.wr; repeat' split <;> try rfl
@[simp] theorem Thread.wr_det (r : Operand) (v : Word) : (t.wr r v).det = t.det := by
  unfold Thread.wr; repeat' split <;> try rfl
@[simp] theorem Thread.wr_trapvec (r : Operand) (v : Word) : (t.wr r v).trapvec = t.trapvec := by
  unfold Thread.wr; repeat' split <;> try rfl
@[simp] theorem Thread.wr_trappc (r : Operand) (v : Word) : (t.wr r v).trappc = t.trappc := by
  unfold Thread.wr; repeat' split <;> try rfl
@[simp] theorem Thread.wr_trapinfo (r : Operand) (v : Word) : (t.wr r v).trapinfo = t.trapinfo := by
  unfold Thread.wr; repeat' split <;> try rfl
@[simp] theorem Thread.wr_traplat (r : Operand) (v : Word) : (t.wr r v).traplat = t.traplat := by
  unfold Thread.wr; repeat' split <;> try rfl
@[simp] theorem Thread.wr_trapSkip (r : Operand) (v : Word) : (t.wr r v).trapSkip = t.trapSkip := by
  unfold Thread.wr; repeat' split <;> try rfl
@[simp] theorem Thread.wr_trapWin (r : Operand) (v : Word) : (t.wr r v).trapWin = t.trapWin := by
  unfold Thread.wr; repeat' split <;> try rfl
@[simp] theorem Thread.wr_rgnpc (r : Operand) (v : Word) : (t.wr r v).rgnpc = t.rgnpc := by
  unfold Thread.wr; repeat' split <;> try rfl
@[simp] theorem Thread.wr_rgnwd (r : Operand) (v : Word) : (t.wr r v).rgnwd = t.rgnwd := by
  unfold Thread.wr; repeat' split <;> try rfl
@[simp] theorem Thread.wr_restarts (r : Operand) (v : Word) : (t.wr r v).restarts = t.restarts := by
  unfold Thread.wr; repeat' split <;> try rfl
@[simp] theorem Thread.wr_base (r : Operand) (v : Word) : (t.wr r v).base = t.base := by
  unfold Thread.wr; repeat' split <;> try rfl
@[simp] theorem Thread.wr_eff (r : Operand) (v : Word) : (t.wr r v).eff = t.eff := by
  unfold Thread.wr; repeat' split <;> try rfl
@[simp] theorem Thread.wr_wait (r : Operand) (v : Word) : (t.wr r v).wait = t.wait := by
  unfold Thread.wr; repeat' split <;> try rfl
@[simp] theorem Thread.wr_eligRound (r : Operand) (v : Word) : (t.wr r v).eligRound = t.eligRound := by
  unfold Thread.wr; repeat' split <;> try rfl
@[simp] theorem Thread.wr_yielded (r : Operand) (v : Word) : (t.wr r v).yielded = t.yielded := by
  unfold Thread.wr; repeat' split <;> try rfl
@[simp] theorem Thread.wr_st (r : Operand) (v : Word) : (t.wr r v).st = t.st := by
  unfold Thread.wr; repeat' split <;> try rfl
@[simp] theorem Thread.wr_parkSeq (r : Operand) (v : Word) : (t.wr r v).parkSeq = t.parkSeq := by
  unfold Thread.wr; repeat' split <;> try rfl
@[simp] theorem Thread.wr_rb (r : Operand) (v : Word) : (t.wr r v).rb = t.rb := by
  unfold Thread.wr; repeat' split <;> try rfl
@[simp] theorem Thread.wr_nextId (r : Operand) (v : Word) : (t.wr r v).nextId = t.nextId := by
  unfold Thread.wr; repeat' split <;> try rfl
@[simp] theorem Thread.wr_out (r : Operand) (v : Word) : (t.wr r v).out = t.out := by
  unfold Thread.wr; repeat' split <;> try rfl
@[simp] theorem Thread.wr_engAt (r : Operand) (v : Word) : (t.wr r v).engAt = t.engAt := by
  unfold Thread.wr; repeat' split <;> try rfl
@[simp] theorem Thread.wr_taking (r : Operand) (v : Word) : (t.wr r v).taking = t.taking := by
  unfold Thread.wr; repeat' split <;> try rfl
@[simp] theorem Thread.wr_released (r : Operand) (v : Word) : (t.wr r v).released = t.released := by
  unfold Thread.wr; repeat' split <;> try rfl
@[simp] theorem Thread.wr_holdTo (r : Operand) (v : Word) : (t.wr r v).holdTo = t.holdTo := by
  unfold Thread.wr; repeat' split <;> try rfl
@[simp] theorem Thread.wr_flushed (r : Operand) (v : Word) : (t.wr r v).flushed = t.flushed := by
  unfold Thread.wr; repeat' split <;> try rfl
@[simp] theorem Thread.wr_copies (r : Operand) (v : Word) : (t.wr r v).copies = t.copies := by
  unfold Thread.wr; repeat' split <;> try rfl
@[simp] theorem Thread.wr_barId (r : Operand) (v : Word) : (t.wr r v).barId = t.barId := by
  unfold Thread.wr; repeat' split <;> try rfl
@[simp] theorem Thread.wr_fpq (r : Operand) (v : Word) : (t.wr r v).fpq = t.fpq := by
  unfold Thread.wr; repeat' split <;> try rfl
@[simp] theorem Thread.wr_fpSeen (r : Operand) (v : Word) : (t.wr r v).fpSeen = t.fpSeen := by
  unfold Thread.wr; repeat' split <;> try rfl
@[simp] theorem Thread.wr_after (r : Operand) (v : Word) : (t.wr r v).after = t.after := by
  unfold Thread.wr; repeat' split <;> try rfl
@[simp] theorem Thread.wr_async (r : Operand) (v : Word) : (t.wr r v).async = t.async := by
  unfold Thread.wr; repeat' split <;> try rfl
@[simp] theorem Thread.wr_recent (r : Operand) (v : Word) : (t.wr r v).recent = t.recent := by
  unfold Thread.wr; repeat' split <;> try rfl
@[simp] theorem Thread.wr_flushing (r : Operand) (v : Word) : (t.wr r v).flushing = t.flushing := by
  unfold Thread.wr; repeat' split <;> try rfl
@[simp] theorem Thread.wr_posted (r : Operand) (v : Word) : (t.wr r v).posted = t.posted := by
  unfold Thread.wr; repeat' split <;> try rfl
@[simp] theorem Thread.wr_winAck (r : Operand) (v : Word) : (t.wr r v).winAck = t.winAck := by
  unfold Thread.wr; repeat' split <;> try rfl
@[simp] theorem Thread.wr_mirrors (r : Operand) (v : Word) : (t.wr r v).mirrors = t.mirrors := by
  unfold Thread.wr; repeat' split <;> try rfl
@[simp] theorem Thread.wr_mirrFail (r : Operand) (v : Word) : (t.wr r v).mirrFail = t.mirrFail := by
  unfold Thread.wr; repeat' split <;> try rfl
@[simp] theorem Thread.wr_fetched (r : Operand) (v : Word) : (t.wr r v).fetched = t.fetched := by
  unfold Thread.wr; repeat' split <;> try rfl
@[simp] theorem Thread.wr_frame (r : Operand) (v : Word) : (t.wr r v).frame = t.frame := by
  unfold Thread.wr; repeat' split <;> try rfl
@[simp] theorem Thread.wr_appendWait (r : Operand) (v : Word) : (t.wr r v).appendWait = t.appendWait := by
  unfold Thread.wr; repeat' split <;> try rfl
@[simp] theorem Thread.wr_barrierGot (r : Operand) (v : Word) : (t.wr r v).barrierGot = t.barrierGot := by
  unfold Thread.wr; repeat' split <;> try rfl
@[simp] theorem Thread.wr_haltReq (r : Operand) (v : Word) : (t.wr r v).haltReq = t.haltReq := by
  unfold Thread.wr; repeat' split <;> try rfl
@[simp] theorem Thread.wr_held (r : Operand) (v : Word) : (t.wr r v).held = t.held := by
  unfold Thread.wr; repeat' split <;> try rfl
@[simp] theorem Thread.both_frames (d : DebugReg) : (t.both d).frames = t.frames := rfl
@[simp] theorem Thread.both_twin (d : DebugReg) : (t.both d).twin.isSome = t.twin.isSome := by simp [Thread.both]
@[simp] theorem Thread.wr_twin (r : Operand) (v : Word) : (t.wr r v).twin.isSome = t.twin.isSome := by
  unfold Thread.wr; repeat' split <;> try simp
@[simp] theorem Thread.wr_fp (r : Operand) (v : Word) : (t.wr r v).fp = t.fp := by
  unfold Thread.wr; repeat' split <;> try rfl
@[simp] theorem Thread.wr_retired (r : Operand) (v : Word) : (t.wr r v).retired = t.retired := by
  unfold Thread.wr; repeat' split <;> try rfl
@[simp] theorem Thread.wr_exchanged (r : Operand) (v : Word) : (t.wr r v).exchanged = t.exchanged := by
  unfold Thread.wr; repeat' split <;> try rfl
@[simp] theorem Thread.wr_mismatch (r : Operand) (v : Word) : (t.wr r v).mismatch = t.mismatch := by
  unfold Thread.wr; repeat' split <;> try rfl
@[simp] theorem Thread.wr_former (r : Operand) (v : Word) : (t.wr r v).former = t.former := by
  unfold Thread.wr; repeat' split <;> try rfl

@[simp] theorem Thread.overtake_unit (d : Operand) : (t.overtake d).unit = t.unit := rfl
@[simp] theorem Thread.overtake_slot (d : Operand) : (t.overtake d).slot = t.slot := rfl
@[simp] theorem Thread.overtake_gen (d : Operand) : (t.overtake d).gen = t.gen := rfl
@[simp] theorem Thread.overtake_ltag (d : Operand) : (t.overtake d).ltag = t.ltag := rfl
@[simp] theorem Thread.overtake_gang (d : Operand) : (t.overtake d).gang = t.gang := rfl
@[simp] theorem Thread.overtake_crew (d : Operand) : (t.overtake d).crew = t.crew := rfl
@[simp] theorem Thread.overtake_tid (d : Operand) : (t.overtake d).tid = t.tid := rfl
@[simp] theorem Thread.overtake_seed (d : Operand) : (t.overtake d).seed = t.seed := rfl
@[simp] theorem Thread.overtake_k (d : Operand) : (t.overtake d).k = t.k := rfl
@[simp] theorem Thread.overtake_a (d : Operand) : (t.overtake d).a = t.a := rfl
@[simp] theorem Thread.overtake_frames (d : Operand) : (t.overtake d).frames = t.frames := rfl
@[simp] theorem Thread.overtake_p (d : Operand) : (t.overtake d).p = t.p := rfl
@[simp] theorem Thread.overtake_lat (d : Operand) : (t.overtake d).lat = t.lat := rfl
@[simp] theorem Thread.overtake_q (d : Operand) : (t.overtake d).q = t.q := rfl
@[simp] theorem Thread.overtake_sems (d : Operand) : (t.overtake d).sems = t.sems := rfl
@[simp] theorem Thread.overtake_psn (d : Operand) : (t.overtake d).psn = t.psn := rfl
@[simp] theorem Thread.overtake_pc (d : Operand) : (t.overtake d).pc = t.pc := rfl
@[simp] theorem Thread.overtake_depth (d : Operand) : (t.overtake d).depth = t.depth := rfl
@[simp] theorem Thread.overtake_spillp (d : Operand) : (t.overtake d).spillp = t.spillp := rfl
@[simp] theorem Thread.overtake_spilllim (d : Operand) : (t.overtake d).spilllim = t.spilllim := rfl
@[simp] theorem Thread.overtake_skipc (d : Operand) : (t.overtake d).skipc = t.skipc := rfl
@[simp] theorem Thread.overtake_eng (d : Operand) : (t.overtake d).eng = t.eng := rfl
@[simp] theorem Thread.overtake_esem (d : Operand) : (t.overtake d).esem = t.esem := rfl
@[simp] theorem Thread.overtake_semerr (d : Operand) : (t.overtake d).semerr = t.semerr := rfl
@[simp] theorem Thread.overtake_semerrAt (d : Operand) : (t.overtake d).semerrAt = t.semerrAt := rfl
@[simp] theorem Thread.overtake_inrgn (d : Operand) : (t.overtake d).inrgn = t.inrgn := rfl
@[simp] theorem Thread.overtake_trigd (d : Operand) : (t.overtake d).trigd = t.trigd := rfl
@[simp] theorem Thread.overtake_svc (d : Operand) : (t.overtake d).svc = t.svc := rfl
@[simp] theorem Thread.overtake_det (d : Operand) : (t.overtake d).det = t.det := rfl
@[simp] theorem Thread.overtake_trapvec (d : Operand) : (t.overtake d).trapvec = t.trapvec := rfl
@[simp] theorem Thread.overtake_trappc (d : Operand) : (t.overtake d).trappc = t.trappc := rfl
@[simp] theorem Thread.overtake_trapinfo (d : Operand) : (t.overtake d).trapinfo = t.trapinfo := rfl
@[simp] theorem Thread.overtake_traplat (d : Operand) : (t.overtake d).traplat = t.traplat := rfl
@[simp] theorem Thread.overtake_trapSkip (d : Operand) : (t.overtake d).trapSkip = t.trapSkip := rfl
@[simp] theorem Thread.overtake_trapWin (d : Operand) : (t.overtake d).trapWin = t.trapWin := rfl
@[simp] theorem Thread.overtake_rgnpc (d : Operand) : (t.overtake d).rgnpc = t.rgnpc := rfl
@[simp] theorem Thread.overtake_rgnwd (d : Operand) : (t.overtake d).rgnwd = t.rgnwd := rfl
@[simp] theorem Thread.overtake_restarts (d : Operand) : (t.overtake d).restarts = t.restarts := rfl
@[simp] theorem Thread.overtake_base (d : Operand) : (t.overtake d).base = t.base := rfl
@[simp] theorem Thread.overtake_eff (d : Operand) : (t.overtake d).eff = t.eff := rfl
@[simp] theorem Thread.overtake_wait (d : Operand) : (t.overtake d).wait = t.wait := rfl
@[simp] theorem Thread.overtake_eligRound (d : Operand) : (t.overtake d).eligRound = t.eligRound := rfl
@[simp] theorem Thread.overtake_yielded (d : Operand) : (t.overtake d).yielded = t.yielded := rfl
@[simp] theorem Thread.overtake_st (d : Operand) : (t.overtake d).st = t.st := rfl
@[simp] theorem Thread.overtake_parkSeq (d : Operand) : (t.overtake d).parkSeq = t.parkSeq := rfl
@[simp] theorem Thread.overtake_nextId (d : Operand) : (t.overtake d).nextId = t.nextId := rfl
@[simp] theorem Thread.overtake_out (d : Operand) : (t.overtake d).out = t.out := rfl
@[simp] theorem Thread.overtake_engAt (d : Operand) : (t.overtake d).engAt = t.engAt := rfl
@[simp] theorem Thread.overtake_taking (d : Operand) : (t.overtake d).taking = t.taking := rfl
@[simp] theorem Thread.overtake_released (d : Operand) : (t.overtake d).released = t.released := rfl
@[simp] theorem Thread.overtake_holdTo (d : Operand) : (t.overtake d).holdTo = t.holdTo := rfl
@[simp] theorem Thread.overtake_flushed (d : Operand) : (t.overtake d).flushed = t.flushed := rfl
@[simp] theorem Thread.overtake_copies (d : Operand) : (t.overtake d).copies = t.copies := rfl
@[simp] theorem Thread.overtake_barId (d : Operand) : (t.overtake d).barId = t.barId := rfl
@[simp] theorem Thread.overtake_fpq (d : Operand) : (t.overtake d).fpq = t.fpq := rfl
@[simp] theorem Thread.overtake_fpSeen (d : Operand) : (t.overtake d).fpSeen = t.fpSeen := rfl
@[simp] theorem Thread.overtake_par (d : Operand) : (t.overtake d).par = t.par := rfl
@[simp] theorem Thread.overtake_after (d : Operand) : (t.overtake d).after = t.after := rfl
@[simp] theorem Thread.overtake_async (d : Operand) : (t.overtake d).async = t.async := rfl
@[simp] theorem Thread.overtake_recent (d : Operand) : (t.overtake d).recent = t.recent := rfl
@[simp] theorem Thread.overtake_flushing (d : Operand) : (t.overtake d).flushing = t.flushing := rfl
@[simp] theorem Thread.overtake_posted (d : Operand) : (t.overtake d).posted = t.posted := rfl
@[simp] theorem Thread.overtake_winAck (d : Operand) : (t.overtake d).winAck = t.winAck := rfl
@[simp] theorem Thread.overtake_mirrors (d : Operand) : (t.overtake d).mirrors = t.mirrors := rfl
@[simp] theorem Thread.overtake_mirrFail (d : Operand) : (t.overtake d).mirrFail = t.mirrFail := rfl
@[simp] theorem Thread.overtake_fetched (d : Operand) : (t.overtake d).fetched = t.fetched := rfl
@[simp] theorem Thread.overtake_frame (d : Operand) : (t.overtake d).frame = t.frame := rfl
@[simp] theorem Thread.overtake_appendWait (d : Operand) : (t.overtake d).appendWait = t.appendWait := rfl
@[simp] theorem Thread.overtake_barrierGot (d : Operand) : (t.overtake d).barrierGot = t.barrierGot := rfl
@[simp] theorem Thread.overtake_haltReq (d : Operand) : (t.overtake d).haltReq = t.haltReq := rfl
@[simp] theorem Thread.overtake_held (d : Operand) : (t.overtake d).held = t.held := rfl
@[simp] theorem Thread.overtake_twin (d : Operand) : (t.overtake d).twin = t.twin := rfl
@[simp] theorem Thread.overtake_fp (d : Operand) : (t.overtake d).fp = t.fp := rfl
@[simp] theorem Thread.overtake_retired (d : Operand) : (t.overtake d).retired = t.retired := rfl
@[simp] theorem Thread.overtake_exchanged (d : Operand) : (t.overtake d).exchanged = t.exchanged := rfl
@[simp] theorem Thread.overtake_mismatch (d : Operand) : (t.overtake d).mismatch = t.mismatch := rfl
@[simp] theorem Thread.overtake_former (d : Operand) : (t.overtake d).former = t.former := rfl

@[simp] theorem Thread.alu_unit (d : Operand) (v : Word) : (t.alu d v).unit = t.unit := Thread.wr_unit ..
@[simp] theorem Thread.alu_slot (d : Operand) (v : Word) : (t.alu d v).slot = t.slot := Thread.wr_slot ..
@[simp] theorem Thread.alu_gen (d : Operand) (v : Word) : (t.alu d v).gen = t.gen := Thread.wr_gen ..
@[simp] theorem Thread.alu_ltag (d : Operand) (v : Word) : (t.alu d v).ltag = t.ltag := Thread.wr_ltag ..
@[simp] theorem Thread.alu_gang (d : Operand) (v : Word) : (t.alu d v).gang = t.gang := Thread.wr_gang ..
@[simp] theorem Thread.alu_crew (d : Operand) (v : Word) : (t.alu d v).crew = t.crew := Thread.wr_crew ..
@[simp] theorem Thread.alu_tid (d : Operand) (v : Word) : (t.alu d v).tid = t.tid := Thread.wr_tid ..
@[simp] theorem Thread.alu_seed (d : Operand) (v : Word) : (t.alu d v).seed = t.seed := Thread.wr_seed ..
@[simp] theorem Thread.alu_q (d : Operand) (v : Word) : (t.alu d v).q = t.q := Thread.wr_q ..
@[simp] theorem Thread.alu_sems (d : Operand) (v : Word) : (t.alu d v).sems = t.sems := Thread.wr_sems ..
@[simp] theorem Thread.alu_pc (d : Operand) (v : Word) : (t.alu d v).pc = t.pc := Thread.wr_pc ..
@[simp] theorem Thread.alu_depth (d : Operand) (v : Word) : (t.alu d v).depth = t.depth := Thread.wr_depth ..
@[simp] theorem Thread.alu_spillp (d : Operand) (v : Word) : (t.alu d v).spillp = t.spillp := Thread.wr_spillp ..
@[simp] theorem Thread.alu_spilllim (d : Operand) (v : Word) : (t.alu d v).spilllim = t.spilllim := Thread.wr_spilllim ..
@[simp] theorem Thread.alu_skipc (d : Operand) (v : Word) : (t.alu d v).skipc = t.skipc := Thread.wr_skipc ..
@[simp] theorem Thread.alu_eng (d : Operand) (v : Word) : (t.alu d v).eng = t.eng := Thread.wr_eng ..
@[simp] theorem Thread.alu_esem (d : Operand) (v : Word) : (t.alu d v).esem = t.esem := Thread.wr_esem ..
@[simp] theorem Thread.alu_semerr (d : Operand) (v : Word) : (t.alu d v).semerr = t.semerr := Thread.wr_semerr ..
@[simp] theorem Thread.alu_semerrAt (d : Operand) (v : Word) : (t.alu d v).semerrAt = t.semerrAt := Thread.wr_semerrAt ..
@[simp] theorem Thread.alu_inrgn (d : Operand) (v : Word) : (t.alu d v).inrgn = t.inrgn := Thread.wr_inrgn ..
@[simp] theorem Thread.alu_trigd (d : Operand) (v : Word) : (t.alu d v).trigd = t.trigd := Thread.wr_trigd ..
@[simp] theorem Thread.alu_svc (d : Operand) (v : Word) : (t.alu d v).svc = t.svc := Thread.wr_svc ..
@[simp] theorem Thread.alu_det (d : Operand) (v : Word) : (t.alu d v).det = t.det := Thread.wr_det ..
@[simp] theorem Thread.alu_trapvec (d : Operand) (v : Word) : (t.alu d v).trapvec = t.trapvec := Thread.wr_trapvec ..
@[simp] theorem Thread.alu_trappc (d : Operand) (v : Word) : (t.alu d v).trappc = t.trappc := Thread.wr_trappc ..
@[simp] theorem Thread.alu_trapinfo (d : Operand) (v : Word) : (t.alu d v).trapinfo = t.trapinfo := Thread.wr_trapinfo ..
@[simp] theorem Thread.alu_traplat (d : Operand) (v : Word) : (t.alu d v).traplat = t.traplat := Thread.wr_traplat ..
@[simp] theorem Thread.alu_trapSkip (d : Operand) (v : Word) : (t.alu d v).trapSkip = t.trapSkip := Thread.wr_trapSkip ..
@[simp] theorem Thread.alu_trapWin (d : Operand) (v : Word) : (t.alu d v).trapWin = t.trapWin := Thread.wr_trapWin ..
@[simp] theorem Thread.alu_rgnpc (d : Operand) (v : Word) : (t.alu d v).rgnpc = t.rgnpc := Thread.wr_rgnpc ..
@[simp] theorem Thread.alu_rgnwd (d : Operand) (v : Word) : (t.alu d v).rgnwd = t.rgnwd := Thread.wr_rgnwd ..
@[simp] theorem Thread.alu_restarts (d : Operand) (v : Word) : (t.alu d v).restarts = t.restarts := Thread.wr_restarts ..
@[simp] theorem Thread.alu_base (d : Operand) (v : Word) : (t.alu d v).base = t.base := Thread.wr_base ..
@[simp] theorem Thread.alu_eff (d : Operand) (v : Word) : (t.alu d v).eff = t.eff := Thread.wr_eff ..
@[simp] theorem Thread.alu_wait (d : Operand) (v : Word) : (t.alu d v).wait = t.wait := Thread.wr_wait ..
@[simp] theorem Thread.alu_eligRound (d : Operand) (v : Word) : (t.alu d v).eligRound = t.eligRound := Thread.wr_eligRound ..
@[simp] theorem Thread.alu_yielded (d : Operand) (v : Word) : (t.alu d v).yielded = t.yielded := Thread.wr_yielded ..
@[simp] theorem Thread.alu_st (d : Operand) (v : Word) : (t.alu d v).st = t.st := Thread.wr_st ..
@[simp] theorem Thread.alu_parkSeq (d : Operand) (v : Word) : (t.alu d v).parkSeq = t.parkSeq := Thread.wr_parkSeq ..
@[simp] theorem Thread.alu_nextId (d : Operand) (v : Word) : (t.alu d v).nextId = t.nextId := Thread.wr_nextId ..
@[simp] theorem Thread.alu_out (d : Operand) (v : Word) : (t.alu d v).out = t.out := Thread.wr_out ..
@[simp] theorem Thread.alu_engAt (d : Operand) (v : Word) : (t.alu d v).engAt = t.engAt := Thread.wr_engAt ..
@[simp] theorem Thread.alu_taking (d : Operand) (v : Word) : (t.alu d v).taking = t.taking := Thread.wr_taking ..
@[simp] theorem Thread.alu_released (d : Operand) (v : Word) : (t.alu d v).released = t.released := Thread.wr_released ..
@[simp] theorem Thread.alu_holdTo (d : Operand) (v : Word) : (t.alu d v).holdTo = t.holdTo := Thread.wr_holdTo ..
@[simp] theorem Thread.alu_flushed (d : Operand) (v : Word) : (t.alu d v).flushed = t.flushed := Thread.wr_flushed ..
@[simp] theorem Thread.alu_copies (d : Operand) (v : Word) : (t.alu d v).copies = t.copies := Thread.wr_copies ..
@[simp] theorem Thread.alu_barId (d : Operand) (v : Word) : (t.alu d v).barId = t.barId := Thread.wr_barId ..
@[simp] theorem Thread.alu_fpq (d : Operand) (v : Word) : (t.alu d v).fpq = t.fpq := Thread.wr_fpq ..
@[simp] theorem Thread.alu_fpSeen (d : Operand) (v : Word) : (t.alu d v).fpSeen = t.fpSeen := Thread.wr_fpSeen ..
@[simp] theorem Thread.alu_after (d : Operand) (v : Word) : (t.alu d v).after = t.after := Thread.wr_after ..
@[simp] theorem Thread.alu_async (d : Operand) (v : Word) : (t.alu d v).async = t.async := Thread.wr_async ..
@[simp] theorem Thread.alu_recent (d : Operand) (v : Word) : (t.alu d v).recent = t.recent := Thread.wr_recent ..
@[simp] theorem Thread.alu_flushing (d : Operand) (v : Word) : (t.alu d v).flushing = t.flushing := Thread.wr_flushing ..
@[simp] theorem Thread.alu_posted (d : Operand) (v : Word) : (t.alu d v).posted = t.posted := Thread.wr_posted ..
@[simp] theorem Thread.alu_winAck (d : Operand) (v : Word) : (t.alu d v).winAck = t.winAck := Thread.wr_winAck ..
@[simp] theorem Thread.alu_mirrors (d : Operand) (v : Word) : (t.alu d v).mirrors = t.mirrors := Thread.wr_mirrors ..
@[simp] theorem Thread.alu_mirrFail (d : Operand) (v : Word) : (t.alu d v).mirrFail = t.mirrFail := Thread.wr_mirrFail ..
@[simp] theorem Thread.alu_fetched (d : Operand) (v : Word) : (t.alu d v).fetched = t.fetched := Thread.wr_fetched ..
@[simp] theorem Thread.alu_frame (d : Operand) (v : Word) : (t.alu d v).frame = t.frame := Thread.wr_frame ..
@[simp] theorem Thread.alu_appendWait (d : Operand) (v : Word) : (t.alu d v).appendWait = t.appendWait := Thread.wr_appendWait ..
@[simp] theorem Thread.alu_barrierGot (d : Operand) (v : Word) : (t.alu d v).barrierGot = t.barrierGot := Thread.wr_barrierGot ..
@[simp] theorem Thread.alu_haltReq (d : Operand) (v : Word) : (t.alu d v).haltReq = t.haltReq := Thread.wr_haltReq ..
@[simp] theorem Thread.alu_held (d : Operand) (v : Word) : (t.alu d v).held = t.held := Thread.wr_held ..
@[simp] theorem Thread.alu_twin (d : Operand) (v : Word) : (t.alu d v).twin.isSome = t.twin.isSome := by
  show (((t.overtake d).wr d v).both (.operand .lat)).twin.isSome = _
  rw [Thread.both_twin, Thread.wr_twin]; rfl
@[simp] theorem Thread.alu_fp (d : Operand) (v : Word) : (t.alu d v).fp = t.fp := Thread.wr_fp ..
@[simp] theorem Thread.alu_retired (d : Operand) (v : Word) : (t.alu d v).retired = t.retired := Thread.wr_retired ..
@[simp] theorem Thread.alu_exchanged (d : Operand) (v : Word) : (t.alu d v).exchanged = t.exchanged := Thread.wr_exchanged ..
@[simp] theorem Thread.alu_mismatch (d : Operand) (v : Word) : (t.alu d v).mismatch = t.mismatch := Thread.wr_mismatch ..
@[simp] theorem Thread.alu_former (d : Operand) (v : Word) : (t.alu d v).former = t.former := Thread.wr_former ..

@[simp] theorem Thread.take_unit (dests : List Operand) (vals : Option (List Val)) (remote : Bool) (va pa : Word) :
    (t.take dests vals remote va pa).unit = t.unit := rfl
@[simp] theorem Thread.take_slot (dests : List Operand) (vals : Option (List Val)) (remote : Bool) (va pa : Word) :
    (t.take dests vals remote va pa).slot = t.slot := rfl
@[simp] theorem Thread.take_gen (dests : List Operand) (vals : Option (List Val)) (remote : Bool) (va pa : Word) :
    (t.take dests vals remote va pa).gen = t.gen := rfl
@[simp] theorem Thread.take_ltag (dests : List Operand) (vals : Option (List Val)) (remote : Bool) (va pa : Word) :
    (t.take dests vals remote va pa).ltag = t.ltag := rfl
@[simp] theorem Thread.take_gang (dests : List Operand) (vals : Option (List Val)) (remote : Bool) (va pa : Word) :
    (t.take dests vals remote va pa).gang = t.gang := rfl
@[simp] theorem Thread.take_crew (dests : List Operand) (vals : Option (List Val)) (remote : Bool) (va pa : Word) :
    (t.take dests vals remote va pa).crew = t.crew := rfl
@[simp] theorem Thread.take_tid (dests : List Operand) (vals : Option (List Val)) (remote : Bool) (va pa : Word) :
    (t.take dests vals remote va pa).tid = t.tid := rfl
@[simp] theorem Thread.take_seed (dests : List Operand) (vals : Option (List Val)) (remote : Bool) (va pa : Word) :
    (t.take dests vals remote va pa).seed = t.seed := rfl
@[simp] theorem Thread.take_k (dests : List Operand) (vals : Option (List Val)) (remote : Bool) (va pa : Word) :
    (t.take dests vals remote va pa).k = t.k := rfl
@[simp] theorem Thread.take_a (dests : List Operand) (vals : Option (List Val)) (remote : Bool) (va pa : Word) :
    (t.take dests vals remote va pa).a = t.a := rfl
@[simp] theorem Thread.take_frames (dests : List Operand) (vals : Option (List Val)) (remote : Bool) (va pa : Word) :
    (t.take dests vals remote va pa).frames = t.frames := rfl
@[simp] theorem Thread.take_p (dests : List Operand) (vals : Option (List Val)) (remote : Bool) (va pa : Word) :
    (t.take dests vals remote va pa).p = t.p := rfl
@[simp] theorem Thread.take_lat (dests : List Operand) (vals : Option (List Val)) (remote : Bool) (va pa : Word) :
    (t.take dests vals remote va pa).lat = t.lat := rfl
@[simp] theorem Thread.take_q (dests : List Operand) (vals : Option (List Val)) (remote : Bool) (va pa : Word) :
    (t.take dests vals remote va pa).q = t.q := rfl
@[simp] theorem Thread.take_sems (dests : List Operand) (vals : Option (List Val)) (remote : Bool) (va pa : Word) :
    (t.take dests vals remote va pa).sems = t.sems := rfl
@[simp] theorem Thread.take_psn (dests : List Operand) (vals : Option (List Val)) (remote : Bool) (va pa : Word) :
    (t.take dests vals remote va pa).psn = t.psn := rfl
@[simp] theorem Thread.take_pc (dests : List Operand) (vals : Option (List Val)) (remote : Bool) (va pa : Word) :
    (t.take dests vals remote va pa).pc = t.pc := rfl
@[simp] theorem Thread.take_depth (dests : List Operand) (vals : Option (List Val)) (remote : Bool) (va pa : Word) :
    (t.take dests vals remote va pa).depth = t.depth := rfl
@[simp] theorem Thread.take_spillp (dests : List Operand) (vals : Option (List Val)) (remote : Bool) (va pa : Word) :
    (t.take dests vals remote va pa).spillp = t.spillp := rfl
@[simp] theorem Thread.take_spilllim (dests : List Operand) (vals : Option (List Val)) (remote : Bool) (va pa : Word) :
    (t.take dests vals remote va pa).spilllim = t.spilllim := rfl
@[simp] theorem Thread.take_skipc (dests : List Operand) (vals : Option (List Val)) (remote : Bool) (va pa : Word) :
    (t.take dests vals remote va pa).skipc = t.skipc := rfl
@[simp] theorem Thread.take_eng (dests : List Operand) (vals : Option (List Val)) (remote : Bool) (va pa : Word) :
    (t.take dests vals remote va pa).eng = t.eng := rfl
@[simp] theorem Thread.take_esem (dests : List Operand) (vals : Option (List Val)) (remote : Bool) (va pa : Word) :
    (t.take dests vals remote va pa).esem = t.esem := rfl
@[simp] theorem Thread.take_semerr (dests : List Operand) (vals : Option (List Val)) (remote : Bool) (va pa : Word) :
    (t.take dests vals remote va pa).semerr = t.semerr := rfl
@[simp] theorem Thread.take_semerrAt (dests : List Operand) (vals : Option (List Val)) (remote : Bool) (va pa : Word) :
    (t.take dests vals remote va pa).semerrAt = t.semerrAt := rfl
@[simp] theorem Thread.take_inrgn (dests : List Operand) (vals : Option (List Val)) (remote : Bool) (va pa : Word) :
    (t.take dests vals remote va pa).inrgn = t.inrgn := rfl
@[simp] theorem Thread.take_trigd (dests : List Operand) (vals : Option (List Val)) (remote : Bool) (va pa : Word) :
    (t.take dests vals remote va pa).trigd = t.trigd := rfl
@[simp] theorem Thread.take_svc (dests : List Operand) (vals : Option (List Val)) (remote : Bool) (va pa : Word) :
    (t.take dests vals remote va pa).svc = t.svc := rfl
@[simp] theorem Thread.take_det (dests : List Operand) (vals : Option (List Val)) (remote : Bool) (va pa : Word) :
    (t.take dests vals remote va pa).det = t.det := rfl
@[simp] theorem Thread.take_trapvec (dests : List Operand) (vals : Option (List Val)) (remote : Bool) (va pa : Word) :
    (t.take dests vals remote va pa).trapvec = t.trapvec := rfl
@[simp] theorem Thread.take_trappc (dests : List Operand) (vals : Option (List Val)) (remote : Bool) (va pa : Word) :
    (t.take dests vals remote va pa).trappc = t.trappc := rfl
@[simp] theorem Thread.take_trapinfo (dests : List Operand) (vals : Option (List Val)) (remote : Bool) (va pa : Word) :
    (t.take dests vals remote va pa).trapinfo = t.trapinfo := rfl
@[simp] theorem Thread.take_traplat (dests : List Operand) (vals : Option (List Val)) (remote : Bool) (va pa : Word) :
    (t.take dests vals remote va pa).traplat = t.traplat := rfl
@[simp] theorem Thread.take_trapSkip (dests : List Operand) (vals : Option (List Val)) (remote : Bool) (va pa : Word) :
    (t.take dests vals remote va pa).trapSkip = t.trapSkip := rfl
@[simp] theorem Thread.take_trapWin (dests : List Operand) (vals : Option (List Val)) (remote : Bool) (va pa : Word) :
    (t.take dests vals remote va pa).trapWin = t.trapWin := rfl
@[simp] theorem Thread.take_rgnpc (dests : List Operand) (vals : Option (List Val)) (remote : Bool) (va pa : Word) :
    (t.take dests vals remote va pa).rgnpc = t.rgnpc := rfl
@[simp] theorem Thread.take_rgnwd (dests : List Operand) (vals : Option (List Val)) (remote : Bool) (va pa : Word) :
    (t.take dests vals remote va pa).rgnwd = t.rgnwd := rfl
@[simp] theorem Thread.take_restarts (dests : List Operand) (vals : Option (List Val)) (remote : Bool) (va pa : Word) :
    (t.take dests vals remote va pa).restarts = t.restarts := rfl
@[simp] theorem Thread.take_base (dests : List Operand) (vals : Option (List Val)) (remote : Bool) (va pa : Word) :
    (t.take dests vals remote va pa).base = t.base := rfl
@[simp] theorem Thread.take_eff (dests : List Operand) (vals : Option (List Val)) (remote : Bool) (va pa : Word) :
    (t.take dests vals remote va pa).eff = t.eff := rfl
@[simp] theorem Thread.take_wait (dests : List Operand) (vals : Option (List Val)) (remote : Bool) (va pa : Word) :
    (t.take dests vals remote va pa).wait = t.wait := rfl
@[simp] theorem Thread.take_eligRound (dests : List Operand) (vals : Option (List Val)) (remote : Bool) (va pa : Word) :
    (t.take dests vals remote va pa).eligRound = t.eligRound := rfl
@[simp] theorem Thread.take_yielded (dests : List Operand) (vals : Option (List Val)) (remote : Bool) (va pa : Word) :
    (t.take dests vals remote va pa).yielded = t.yielded := rfl
@[simp] theorem Thread.take_st (dests : List Operand) (vals : Option (List Val)) (remote : Bool) (va pa : Word) :
    (t.take dests vals remote va pa).st = t.st := rfl
@[simp] theorem Thread.take_parkSeq (dests : List Operand) (vals : Option (List Val)) (remote : Bool) (va pa : Word) :
    (t.take dests vals remote va pa).parkSeq = t.parkSeq := rfl
@[simp] theorem Thread.take_out (dests : List Operand) (vals : Option (List Val)) (remote : Bool) (va pa : Word) :
    (t.take dests vals remote va pa).out = t.out := rfl
@[simp] theorem Thread.take_engAt (dests : List Operand) (vals : Option (List Val)) (remote : Bool) (va pa : Word) :
    (t.take dests vals remote va pa).engAt = t.engAt := rfl
@[simp] theorem Thread.take_taking (dests : List Operand) (vals : Option (List Val)) (remote : Bool) (va pa : Word) :
    (t.take dests vals remote va pa).taking = t.taking := rfl
@[simp] theorem Thread.take_released (dests : List Operand) (vals : Option (List Val)) (remote : Bool) (va pa : Word) :
    (t.take dests vals remote va pa).released = t.released := rfl
@[simp] theorem Thread.take_holdTo (dests : List Operand) (vals : Option (List Val)) (remote : Bool) (va pa : Word) :
    (t.take dests vals remote va pa).holdTo = t.holdTo := rfl
@[simp] theorem Thread.take_flushed (dests : List Operand) (vals : Option (List Val)) (remote : Bool) (va pa : Word) :
    (t.take dests vals remote va pa).flushed = t.flushed := rfl
@[simp] theorem Thread.take_copies (dests : List Operand) (vals : Option (List Val)) (remote : Bool) (va pa : Word) :
    (t.take dests vals remote va pa).copies = t.copies := rfl
@[simp] theorem Thread.take_barId (dests : List Operand) (vals : Option (List Val)) (remote : Bool) (va pa : Word) :
    (t.take dests vals remote va pa).barId = t.barId := rfl
@[simp] theorem Thread.take_fpq (dests : List Operand) (vals : Option (List Val)) (remote : Bool) (va pa : Word) :
    (t.take dests vals remote va pa).fpq = t.fpq := rfl
@[simp] theorem Thread.take_fpSeen (dests : List Operand) (vals : Option (List Val)) (remote : Bool) (va pa : Word) :
    (t.take dests vals remote va pa).fpSeen = t.fpSeen := rfl
@[simp] theorem Thread.take_par (dests : List Operand) (vals : Option (List Val)) (remote : Bool) (va pa : Word) :
    (t.take dests vals remote va pa).par = t.par := rfl
@[simp] theorem Thread.take_after (dests : List Operand) (vals : Option (List Val)) (remote : Bool) (va pa : Word) :
    (t.take dests vals remote va pa).after = t.after := rfl
@[simp] theorem Thread.take_async (dests : List Operand) (vals : Option (List Val)) (remote : Bool) (va pa : Word) :
    (t.take dests vals remote va pa).async = t.async := rfl
@[simp] theorem Thread.take_recent (dests : List Operand) (vals : Option (List Val)) (remote : Bool) (va pa : Word) :
    (t.take dests vals remote va pa).recent = t.recent := rfl
@[simp] theorem Thread.take_flushing (dests : List Operand) (vals : Option (List Val)) (remote : Bool) (va pa : Word) :
    (t.take dests vals remote va pa).flushing = t.flushing := rfl
@[simp] theorem Thread.take_posted (dests : List Operand) (vals : Option (List Val)) (remote : Bool) (va pa : Word) :
    (t.take dests vals remote va pa).posted = t.posted := rfl
@[simp] theorem Thread.take_winAck (dests : List Operand) (vals : Option (List Val)) (remote : Bool) (va pa : Word) :
    (t.take dests vals remote va pa).winAck = t.winAck := rfl
@[simp] theorem Thread.take_mirrors (dests : List Operand) (vals : Option (List Val)) (remote : Bool) (va pa : Word) :
    (t.take dests vals remote va pa).mirrors = t.mirrors := rfl
@[simp] theorem Thread.take_mirrFail (dests : List Operand) (vals : Option (List Val)) (remote : Bool) (va pa : Word) :
    (t.take dests vals remote va pa).mirrFail = t.mirrFail := rfl
@[simp] theorem Thread.take_fetched (dests : List Operand) (vals : Option (List Val)) (remote : Bool) (va pa : Word) :
    (t.take dests vals remote va pa).fetched = t.fetched := rfl
@[simp] theorem Thread.take_frame (dests : List Operand) (vals : Option (List Val)) (remote : Bool) (va pa : Word) :
    (t.take dests vals remote va pa).frame = t.frame := rfl
@[simp] theorem Thread.take_appendWait (dests : List Operand) (vals : Option (List Val)) (remote : Bool) (va pa : Word) :
    (t.take dests vals remote va pa).appendWait = t.appendWait := rfl
@[simp] theorem Thread.take_barrierGot (dests : List Operand) (vals : Option (List Val)) (remote : Bool) (va pa : Word) :
    (t.take dests vals remote va pa).barrierGot = t.barrierGot := rfl
@[simp] theorem Thread.take_haltReq (dests : List Operand) (vals : Option (List Val)) (remote : Bool) (va pa : Word) :
    (t.take dests vals remote va pa).haltReq = t.haltReq := rfl
@[simp] theorem Thread.take_held (dests : List Operand) (vals : Option (List Val)) (remote : Bool) (va pa : Word) :
    (t.take dests vals remote va pa).held = t.held := rfl
@[simp] theorem Thread.take_twin (dests : List Operand) (vals : Option (List Val)) (remote : Bool) (va pa : Word) :
    (t.take dests vals remote va pa).twin = t.twin := rfl
@[simp] theorem Thread.take_fp (dests : List Operand) (vals : Option (List Val)) (remote : Bool) (va pa : Word) :
    (t.take dests vals remote va pa).fp = t.fp := rfl
@[simp] theorem Thread.take_retired (dests : List Operand) (vals : Option (List Val)) (remote : Bool) (va pa : Word) :
    (t.take dests vals remote va pa).retired = t.retired := rfl
@[simp] theorem Thread.take_exchanged (dests : List Operand) (vals : Option (List Val)) (remote : Bool) (va pa : Word) :
    (t.take dests vals remote va pa).exchanged = t.exchanged := rfl
@[simp] theorem Thread.take_mismatch (dests : List Operand) (vals : Option (List Val)) (remote : Bool) (va pa : Word) :
    (t.take dests vals remote va pa).mismatch = t.mismatch := rfl
@[simp] theorem Thread.take_former (dests : List Operand) (vals : Option (List Val)) (remote : Bool) (va pa : Word) :
    (t.take dests vals remote va pa).former = t.former := rfl

@[simp] theorem Thread.retire_unit (next : Word) (vs : List Word) (up : Word) : (t.retire next vs up).unit = t.unit := by
  unfold Thread.retire; dsimp only; split <;> rfl
@[simp] theorem Thread.retire_slot (next : Word) (vs : List Word) (up : Word) : (t.retire next vs up).slot = t.slot := by
  unfold Thread.retire; dsimp only; split <;> rfl
@[simp] theorem Thread.retire_gen (next : Word) (vs : List Word) (up : Word) : (t.retire next vs up).gen = t.gen := by
  unfold Thread.retire; dsimp only; split <;> rfl
@[simp] theorem Thread.retire_ltag (next : Word) (vs : List Word) (up : Word) : (t.retire next vs up).ltag = t.ltag := by
  unfold Thread.retire; dsimp only; split <;> rfl
@[simp] theorem Thread.retire_gang (next : Word) (vs : List Word) (up : Word) : (t.retire next vs up).gang = t.gang := by
  unfold Thread.retire; dsimp only; split <;> rfl
@[simp] theorem Thread.retire_crew (next : Word) (vs : List Word) (up : Word) : (t.retire next vs up).crew = t.crew := by
  unfold Thread.retire; dsimp only; split <;> rfl
@[simp] theorem Thread.retire_tid (next : Word) (vs : List Word) (up : Word) : (t.retire next vs up).tid = t.tid := by
  unfold Thread.retire; dsimp only; split <;> rfl
@[simp] theorem Thread.retire_seed (next : Word) (vs : List Word) (up : Word) : (t.retire next vs up).seed = t.seed := by
  unfold Thread.retire; dsimp only; split <;> rfl
@[simp] theorem Thread.retire_k (next : Word) (vs : List Word) (up : Word) : (t.retire next vs up).k = t.k := by
  unfold Thread.retire; dsimp only; split <;> rfl
@[simp] theorem Thread.retire_a (next : Word) (vs : List Word) (up : Word) : (t.retire next vs up).a = t.a := by
  unfold Thread.retire; dsimp only; split <;> rfl
@[simp] theorem Thread.retire_frames (next : Word) (vs : List Word) (up : Word) : (t.retire next vs up).frames = t.frames := by
  unfold Thread.retire; dsimp only; split <;> rfl
@[simp] theorem Thread.retire_p (next : Word) (vs : List Word) (up : Word) : (t.retire next vs up).p = t.p := by
  unfold Thread.retire; dsimp only; split <;> rfl
@[simp] theorem Thread.retire_lat (next : Word) (vs : List Word) (up : Word) : (t.retire next vs up).lat = t.lat := by
  unfold Thread.retire; dsimp only; split <;> rfl
@[simp] theorem Thread.retire_q (next : Word) (vs : List Word) (up : Word) : (t.retire next vs up).q = t.q := by
  unfold Thread.retire; dsimp only; split <;> rfl
@[simp] theorem Thread.retire_sems (next : Word) (vs : List Word) (up : Word) : (t.retire next vs up).sems = t.sems := by
  unfold Thread.retire; dsimp only; split <;> rfl
@[simp] theorem Thread.retire_psn (next : Word) (vs : List Word) (up : Word) : (t.retire next vs up).psn = t.psn := by
  unfold Thread.retire; dsimp only; split <;> rfl
@[simp] theorem Thread.retire_depth (next : Word) (vs : List Word) (up : Word) : (t.retire next vs up).depth = t.depth := by
  unfold Thread.retire; dsimp only; split <;> rfl
@[simp] theorem Thread.retire_spillp (next : Word) (vs : List Word) (up : Word) : (t.retire next vs up).spillp = t.spillp := by
  unfold Thread.retire; dsimp only; split <;> rfl
@[simp] theorem Thread.retire_spilllim (next : Word) (vs : List Word) (up : Word) : (t.retire next vs up).spilllim = t.spilllim := by
  unfold Thread.retire; dsimp only; split <;> rfl
@[simp] theorem Thread.retire_skipc (next : Word) (vs : List Word) (up : Word) : (t.retire next vs up).skipc = t.skipc := by
  unfold Thread.retire; dsimp only; split <;> rfl
@[simp] theorem Thread.retire_eng (next : Word) (vs : List Word) (up : Word) : (t.retire next vs up).eng = t.eng := by
  unfold Thread.retire; dsimp only; split <;> rfl
@[simp] theorem Thread.retire_esem (next : Word) (vs : List Word) (up : Word) : (t.retire next vs up).esem = t.esem := by
  unfold Thread.retire; dsimp only; split <;> rfl
@[simp] theorem Thread.retire_semerr (next : Word) (vs : List Word) (up : Word) : (t.retire next vs up).semerr = t.semerr := by
  unfold Thread.retire; dsimp only; split <;> rfl
@[simp] theorem Thread.retire_semerrAt (next : Word) (vs : List Word) (up : Word) : (t.retire next vs up).semerrAt = t.semerrAt := by
  unfold Thread.retire; dsimp only; split <;> rfl
@[simp] theorem Thread.retire_inrgn (next : Word) (vs : List Word) (up : Word) : (t.retire next vs up).inrgn = t.inrgn := by
  unfold Thread.retire; dsimp only; split <;> rfl
@[simp] theorem Thread.retire_trigd (next : Word) (vs : List Word) (up : Word) : (t.retire next vs up).trigd = t.trigd := by
  unfold Thread.retire; dsimp only; split <;> rfl
@[simp] theorem Thread.retire_svc (next : Word) (vs : List Word) (up : Word) : (t.retire next vs up).svc = t.svc := by
  unfold Thread.retire; dsimp only; split <;> rfl
@[simp] theorem Thread.retire_det (next : Word) (vs : List Word) (up : Word) : (t.retire next vs up).det = t.det := by
  unfold Thread.retire; dsimp only; split <;> rfl
@[simp] theorem Thread.retire_trapvec (next : Word) (vs : List Word) (up : Word) : (t.retire next vs up).trapvec = t.trapvec := by
  unfold Thread.retire; dsimp only; split <;> rfl
@[simp] theorem Thread.retire_trappc (next : Word) (vs : List Word) (up : Word) : (t.retire next vs up).trappc = t.trappc := by
  unfold Thread.retire; dsimp only; split <;> rfl
@[simp] theorem Thread.retire_trapinfo (next : Word) (vs : List Word) (up : Word) : (t.retire next vs up).trapinfo = t.trapinfo := by
  unfold Thread.retire; dsimp only; split <;> rfl
@[simp] theorem Thread.retire_traplat (next : Word) (vs : List Word) (up : Word) : (t.retire next vs up).traplat = t.traplat := by
  unfold Thread.retire; dsimp only; split <;> rfl
@[simp] theorem Thread.retire_trapSkip (next : Word) (vs : List Word) (up : Word) : (t.retire next vs up).trapSkip = t.trapSkip := by
  unfold Thread.retire; dsimp only; split <;> rfl
@[simp] theorem Thread.retire_trapWin (next : Word) (vs : List Word) (up : Word) : (t.retire next vs up).trapWin = t.trapWin := by
  unfold Thread.retire; dsimp only; split <;> rfl
@[simp] theorem Thread.retire_rgnpc (next : Word) (vs : List Word) (up : Word) : (t.retire next vs up).rgnpc = t.rgnpc := by
  unfold Thread.retire; dsimp only; split <;> rfl
@[simp] theorem Thread.retire_rgnwd (next : Word) (vs : List Word) (up : Word) : (t.retire next vs up).rgnwd = t.rgnwd := by
  unfold Thread.retire; dsimp only; split <;> rfl
@[simp] theorem Thread.retire_restarts (next : Word) (vs : List Word) (up : Word) : (t.retire next vs up).restarts = t.restarts := by
  unfold Thread.retire; dsimp only; split <;> rfl
@[simp] theorem Thread.retire_base (next : Word) (vs : List Word) (up : Word) : (t.retire next vs up).base = t.base := by
  unfold Thread.retire; dsimp only; split <;> rfl
@[simp] theorem Thread.retire_eff (next : Word) (vs : List Word) (up : Word) : (t.retire next vs up).eff = t.eff := by
  unfold Thread.retire; dsimp only; split <;> rfl
@[simp] theorem Thread.retire_wait (next : Word) (vs : List Word) (up : Word) : (t.retire next vs up).wait = t.wait := by
  unfold Thread.retire; dsimp only; split <;> rfl
@[simp] theorem Thread.retire_eligRound (next : Word) (vs : List Word) (up : Word) : (t.retire next vs up).eligRound = t.eligRound := by
  unfold Thread.retire; dsimp only; split <;> rfl
@[simp] theorem Thread.retire_yielded (next : Word) (vs : List Word) (up : Word) : (t.retire next vs up).yielded = t.yielded := by
  unfold Thread.retire; dsimp only; split <;> rfl
@[simp] theorem Thread.retire_st (next : Word) (vs : List Word) (up : Word) : (t.retire next vs up).st = t.st := by
  unfold Thread.retire; dsimp only; split <;> rfl
@[simp] theorem Thread.retire_parkSeq (next : Word) (vs : List Word) (up : Word) : (t.retire next vs up).parkSeq = t.parkSeq := by
  unfold Thread.retire; dsimp only; split <;> rfl
@[simp] theorem Thread.retire_rb (next : Word) (vs : List Word) (up : Word) : (t.retire next vs up).rb = t.rb := by
  unfold Thread.retire; dsimp only; split <;> rfl
@[simp] theorem Thread.retire_nextId (next : Word) (vs : List Word) (up : Word) : (t.retire next vs up).nextId = t.nextId := by
  unfold Thread.retire; dsimp only; split <;> rfl
@[simp] theorem Thread.retire_out (next : Word) (vs : List Word) (up : Word) : (t.retire next vs up).out = t.out := by
  unfold Thread.retire; dsimp only; split <;> rfl
@[simp] theorem Thread.retire_engAt (next : Word) (vs : List Word) (up : Word) : (t.retire next vs up).engAt = t.engAt := by
  unfold Thread.retire; dsimp only; split <;> rfl
@[simp] theorem Thread.retire_taking (next : Word) (vs : List Word) (up : Word) : (t.retire next vs up).taking = t.taking := by
  unfold Thread.retire; dsimp only; split <;> rfl
@[simp] theorem Thread.retire_released (next : Word) (vs : List Word) (up : Word) : (t.retire next vs up).released = t.released := by
  unfold Thread.retire; dsimp only; split <;> rfl
@[simp] theorem Thread.retire_holdTo (next : Word) (vs : List Word) (up : Word) : (t.retire next vs up).holdTo = t.holdTo := by
  unfold Thread.retire; dsimp only; split <;> rfl
@[simp] theorem Thread.retire_flushed (next : Word) (vs : List Word) (up : Word) : (t.retire next vs up).flushed = t.flushed := by
  unfold Thread.retire; dsimp only; split <;> rfl
@[simp] theorem Thread.retire_copies (next : Word) (vs : List Word) (up : Word) : (t.retire next vs up).copies = t.copies := by
  unfold Thread.retire; dsimp only; split <;> rfl
@[simp] theorem Thread.retire_barId (next : Word) (vs : List Word) (up : Word) : (t.retire next vs up).barId = t.barId := by
  unfold Thread.retire; dsimp only; split <;> rfl
@[simp] theorem Thread.retire_par (next : Word) (vs : List Word) (up : Word) : (t.retire next vs up).par = t.par := by
  unfold Thread.retire; dsimp only; split <;> rfl
@[simp] theorem Thread.retire_after (next : Word) (vs : List Word) (up : Word) : (t.retire next vs up).after = t.after := by
  unfold Thread.retire; dsimp only; split <;> rfl
@[simp] theorem Thread.retire_async (next : Word) (vs : List Word) (up : Word) : (t.retire next vs up).async = t.async := by
  unfold Thread.retire; dsimp only; split <;> rfl
@[simp] theorem Thread.retire_recent (next : Word) (vs : List Word) (up : Word) : (t.retire next vs up).recent = t.recent := by
  unfold Thread.retire; dsimp only; split <;> rfl
@[simp] theorem Thread.retire_flushing (next : Word) (vs : List Word) (up : Word) : (t.retire next vs up).flushing = t.flushing := by
  unfold Thread.retire; dsimp only; split <;> rfl
@[simp] theorem Thread.retire_posted (next : Word) (vs : List Word) (up : Word) : (t.retire next vs up).posted = t.posted := by
  unfold Thread.retire; dsimp only; split <;> rfl
@[simp] theorem Thread.retire_winAck (next : Word) (vs : List Word) (up : Word) : (t.retire next vs up).winAck = t.winAck := by
  unfold Thread.retire; dsimp only; split <;> rfl
@[simp] theorem Thread.retire_mirrors (next : Word) (vs : List Word) (up : Word) : (t.retire next vs up).mirrors = t.mirrors := by
  unfold Thread.retire; dsimp only; split <;> rfl
@[simp] theorem Thread.retire_mirrFail (next : Word) (vs : List Word) (up : Word) : (t.retire next vs up).mirrFail = t.mirrFail := by
  unfold Thread.retire; dsimp only; split <;> rfl
@[simp] theorem Thread.retire_frame (next : Word) (vs : List Word) (up : Word) : (t.retire next vs up).frame = t.frame := by
  unfold Thread.retire; dsimp only; split <;> rfl
@[simp] theorem Thread.retire_appendWait (next : Word) (vs : List Word) (up : Word) : (t.retire next vs up).appendWait = t.appendWait := by
  unfold Thread.retire; dsimp only; split <;> rfl
@[simp] theorem Thread.retire_barrierGot (next : Word) (vs : List Word) (up : Word) : (t.retire next vs up).barrierGot = t.barrierGot := by
  unfold Thread.retire; dsimp only; split <;> rfl
@[simp] theorem Thread.retire_haltReq (next : Word) (vs : List Word) (up : Word) : (t.retire next vs up).haltReq = t.haltReq := by
  unfold Thread.retire; dsimp only; split <;> rfl
@[simp] theorem Thread.retire_held (next : Word) (vs : List Word) (up : Word) : (t.retire next vs up).held = t.held := by
  unfold Thread.retire; dsimp only; split <;> rfl
@[simp] theorem Thread.retire_mismatch (next : Word) (vs : List Word) (up : Word) : (t.retire next vs up).mismatch = t.mismatch := by
  unfold Thread.retire; dsimp only; split <;> rfl
@[simp] theorem Thread.retire_former (next : Word) (vs : List Word) (up : Word) : (t.retire next vs up).former = t.former := by
  unfold Thread.retire; dsimp only; split <;> rfl
@[simp] theorem Thread.retire_pc (next : Word) (vs : List Word) (up : Word) : (t.retire next vs up).pc = next := by
  unfold Thread.retire; dsimp only; split <;> rfl
@[simp] theorem Thread.retire_fetched (next : Word) (vs : List Word) (up : Word) : (t.retire next vs up).fetched = [] := by
  unfold Thread.retire; dsimp only; split <;> rfl

/-- An unpaired thread that completes an instruction only moves its PC. -/
theorem Thread.retire_unpaired (next : Word) (vs : List Word) (up : Word) (h : t.twin = none) :
    t.retire next vs up = { t with pc := next, fetched := [], exchanged := false } := by
  unfold Thread.retire; dsimp only; rw [h]

end

end Sys2Proof.Machine
end

