-- ==== Sys2Proof/Laws/Registers.lean ====
section
/-! SUPPORT. Reading registers after writing them, and thread slots after filling them. -/

namespace Sys2Proof.Machine

/-! ## Register files -/

theorem vget_vset {α : Type} (v : Vector α 8) (i j : BitVec 3) (x : α) : vget (vset v i x) j = if j = i then x else vget v j := by
  unfold vget vset
  rw [Vector.getElem_set]
  have : (i.toNat = j.toNat) ↔ j = i := ⟨fun h => (BitVec.eq_of_toNat_eq h).symm, fun h => h ▸ rfl⟩
  simp only [this]

theorem nget_nset {α : Type} {n : Nat} (v : Vector α n) (i j : Nat) (x d : α) (hi : i < n) :
    nget (nset v i x) j d = if j = i then x else nget v j d := by
  unfold nget nset
  rw [dif_pos hi]
  split
  · rw [Vector.getElem_set]
    by_cases h : j = i
    · simp [h]
    · simp [h, Ne.symm h]
  · rename_i hj
    rw [if_neg (by rintro rfl; exact hj hi)]

/-- An index of the main file by its group, k, a, l or o, and its place in it. -/
theorem mainIndex_ext (i j : BitVec 5) (h : (i.extractLsb' 3 2).toNat = (j.extractLsb' 3 2).toNat)
    (h' : i.extractLsb' 0 3 = j.extractLsb' 0 3) : i = j := by
  have h2 := congrArg BitVec.toNat h'
  simp only [BitVec.extractLsb'_toNat, Nat.shiftRight_zero, Nat.shiftRight_eq_div_pow] at h h2
  have := i.isLt
  have := j.isLt
  exact BitVec.eq_of_toNat_eq (by omega)

theorem group_lt (i : BitVec 5) : (i.extractLsb' 3 2).toNat < 4 := (i.extractLsb' 3 2).isLt

section
variable (t : Thread)

@[simp] theorem Thread.rd_k0 : t.rd .k0 = 0 := rfl

theorem Frame.get_set (f : Frame) (o o' : Bool) (i j : BitVec 3) (v : Word) :
    (f.set o i v).get o' j = if o' = o ∧ j = i then v else f.get o' j := by
  cases o <;> cases o' <;> simp [Frame.set, Frame.get, vget_vset]

/-- A register reads what was last written to it; k0 reads zero, and a write leaves every other register (R57, R58). -/
theorem Thread.rd_wr (d r : Operand) (v : Word) : (t.wr d v).rd r = if r = .k0 then 0 else if r = d then v else t.rd r := by
  by_cases hr : r = .k0
  · subst hr; rfl
  rw [if_neg hr]
  cases d with
  | opf i =>
    cases r with
    | opf j => simp only [Thread.wr, Thread.rd, vget_vset, Operand.opf.injEq]
    | main j => rw [if_neg (by simp)]; rfl
    | lat => rw [if_neg (by simp)]; rfl
  | lat =>
    cases r with
    | lat => rfl
    | main j => rw [if_neg (by simp)]; rfl
    | opf j => rw [if_neg (by simp)]; rfl
  | main i =>
    cases r with
    | opf j =>
      rw [if_neg (by simp)]
      have : (t.wr (.main i) v).p = t.p := by unfold Thread.wr; dsimp only; repeat' split <;> try rfl
      simp only [Thread.rd, this]
    | lat =>
      rw [if_neg (by simp)]
      have : (t.wr (.main i) v).lat = t.lat := by unfold Thread.wr; dsimp only; repeat' split <;> try rfl
      simp only [Thread.rd, this]
    | main j =>
      have hj : j ≠ 0 := fun h => hr (h ▸ rfl)
      have hi4 := group_lt i
      have hj4 := group_lt j
      have key : ∀ g : Nat, (i.extractLsb' 3 2).toNat = g → (j.extractLsb' 3 2).toNat = g →
          (j.extractLsb' 0 3 = i.extractLsb' 0 3 ↔ (Operand.main j = Operand.main i)) := fun g h1 h2 =>
        ⟨fun h => congrArg _ (mainIndex_ext _ _ (h2.trans h1.symm) h), fun h => by injection h with h; rw [h]⟩
      have ne : (i.extractLsb' 3 2).toNat ≠ (j.extractLsb' 3 2).toNat → ¬(Operand.main j = Operand.main i) :=
        fun h1 h2 => by injection h2 with h2; exact h1 (h2 ▸ rfl)
      simp only [Thread.wr, Thread.rd]
      generalize hgi : (i.extractLsb' 3 2).toNat = gi at *
      generalize hgj : (j.extractLsb' 3 2).toNat = gj at *
      by_cases hg : gi = gj
      · subst hg
        simp only [← key gi rfl rfl]
        match gi, hi4 with
        | 0, _ =>
          by_cases hi : i = 0
          · have hl : ¬(j.extractLsb' 0 3 = i.extractLsb' 0 3) := fun h =>
              hj ((mainIndex_ext j i (hgj.trans hgi.symm) h).trans hi)
            rw [if_pos hi, if_neg hl]; rfl
          · rw [if_neg hi]
            show (if j = 0 then 0 else vget (vset t.k (i.extractLsb' 0 3) v) (j.extractLsb' 0 3)) =
              if j.extractLsb' 0 3 = i.extractLsb' 0 3 then v else if j = 0 then 0 else vget t.k (j.extractLsb' 0 3)
            rw [if_neg hj, if_neg hj, vget_vset]
        | 1, _ => exact vget_vset ..
        | 2, _ =>
          simp only [Thread.frame0, List.headD_cons, Frame.get_set, Thread.both_frames, true_and]
        | 3, _ =>
          simp only [Thread.frame0, List.headD_cons, Frame.get_set, Thread.both_frames, true_and]
      · rw [if_neg (ne hg)]
        match gi, gj, hi4, hj4, hg with
        | 0, 0, _, _, h | 1, 1, _, _, h | 2, 2, _, _, h | 3, 3, _, _, h => exact absurd rfl h
        | 0, 1, _, _, _ | 0, 2, _, _, _ | 0, 3, _, _, _ =>
          by_cases hi : i = 0
          · rw [if_pos hi]; rfl
          · rw [if_neg hi]; rfl
        | 1, 0, _, _, _ | 1, 2, _, _, _ | 1, 3, _, _, _ => rfl
        | 2, 0, _, _, _ | 2, 1, _, _, _ | 3, 0, _, _, _ | 3, 1, _, _, _ => rfl
        | 2, 3, _, _, _ =>
          simp only [Thread.frame0, List.headD_cons, Frame.get_set, Thread.both_frames, Bool.true_eq_false, false_and, if_false]
        | 3, 2, _, _, _ =>
          simp only [Thread.frame0, List.headD_cons, Frame.get_set, Thread.both_frames, Bool.false_eq_true, false_and, if_false]

/-- A frame register's write changes the current frame alone (R59). -/
theorem Thread.frames_tail_wr (d : Operand) (v : Word) : (t.wr d v).frames.tail = t.frames.tail := by
  unfold Thread.wr
  repeat' split <;> try rfl

theorem Thread.rd_overtake (d r : Operand) : (t.overtake d).rd r = t.rd r := by cases r <;> rfl

/-- An ALU-class result reads back from its register and from lat (R65). -/
theorem Thread.rd_alu (d r : Operand) (v : Word) :
    (t.alu d v).rd r = if r = .k0 then 0 else if r = d ∨ r = .lat then v else t.rd r := by
  by_cases hl : r = .lat
  · subst hl; rw [if_neg (by simp), if_pos (.inr rfl)]; rfl
  have : (t.alu d v).rd r = ((t.overtake d).wr d v).rd r := by cases r <;> first | rfl | exact absurd rfl hl
  rw [this, Thread.rd_wr, Thread.rd_overtake]
  simp [hl]

theorem Thread.alu_lat (d : Operand) (v : Word) : (t.alu d v).lat = v := rfl
theorem Thread.alu_frames_tail (d : Operand) (v : Word) : (t.alu d v).frames.tail = t.frames.tail :=
  Thread.frames_tail_wr (t.overtake d) d v
theorem Thread.alu_rb (d : Operand) (v : Word) : (t.alu d v).rb = t.rb.map fun e => { e with dead := d :: .lat :: e.dead } :=
  Thread.wr_rb (t.overtake d) d v

theorem Thread.rd_retire (r : Operand) (next : Word) (vs : List Word) (up : Word) : (t.retire next vs up).rd r = t.rd r := by
  unfold Thread.retire
  dsimp only
  split <;> cases r <;> rfl

theorem Thread.rd_take (r : Operand) (ds : List Operand) (vals : Option (List Val)) (remote : Bool) :
    (t.take ds vals remote).rd r = t.rd r := by cases r <;> rfl

end

/-! ## Thread slots -/

theorem findThread_putThread_self (ts : List Thread) (t : Thread) : findThread (putThread ts t) t.unit t.slot = some t := by
  induction ts with
  | nil => simp [putThread, findThread]
  | cons x r ih =>
    simp only [putThread]
    split
    · simp [findThread]
    · split
      · simp [findThread]
      · rename_i h
        simp only [findThread, List.find?_cons] at ih ⊢
        have : (x.unit == t.unit && x.slot == t.slot) = false := by
          simp only [Bool.and_eq_true, beq_iff_eq, not_and] at h
          simp only [Bool.and_eq_false_imp, beq_iff_eq, beq_eq_false_iff_ne, ne_eq]
          exact fun h1 h2 => h h1.symm h2.symm
        rw [this]
        exact ih

theorem findThread_putThread_other (ts : List Thread) (t : Thread) (u n : Nat) (h : ¬(u = t.unit ∧ n = t.slot)) :
    findThread (putThread ts t) u n = findThread ts u n := by
  have ht : (t.unit == u && t.slot == n) = false := by
    simp only [Bool.and_eq_false_imp, beq_iff_eq, beq_eq_false_iff_ne, ne_eq]
    exact fun h1 h2 => h ⟨h1.symm, h2.symm⟩
  induction ts with
  | nil => simp [putThread, findThread, ht]
  | cons x r ih =>
    simp only [putThread]
    split
    · simp [findThread, ht]
    · split
      · rename_i hx
        have hx' : (x.unit == u && x.slot == n) = false := by
          simp only [Bool.and_eq_true, beq_iff_eq] at hx
          rw [← hx.1, ← hx.2]; exact ht
        simp [findThread, ht, hx']
      · simp only [findThread, List.find?_cons] at ih ⊢
        split
        · rfl
        · exact ih

/-- The slot of a thread that was put there holds it. -/
@[simp] theorem State.thread?_setThread_self (s : State) (t : Thread) : (s.setThread t).thread? t.unit t.slot = some t :=
  findThread_putThread_self ..

/-- Every other slot is left. -/
theorem State.thread?_setThread_other (s : State) (t : Thread) (u n : Nat) (h : ¬(u = t.unit ∧ n = t.slot)) :
    (s.setThread t).thread? u n = s.thread? u n := findThread_putThread_other _ _ _ _ h

/-- A thread that a slot holds names that slot. -/
theorem State.thread?_some (s : State) (u n : Nat) (t : Thread) (h : s.thread? u n = some t) : t.unit = u ∧ t.slot = n := by
  have := List.find?_some h
  simpa using this

end Sys2Proof.Machine
end

