-- ==== Sys2Proof/Laws/Sound.lean ====
section
/-! SUPPORT. Sound states (Safety.lean): the operations that write storage, the thread slots and the agenda keep them so; every other
operation is a chain of these. -/

namespace Sys2Proof.Machine

/-- A state that differs in none of the parts that soundness speaks of. -/
theorem State.Sound.congr {s t : State} (h : s.Sound) (hm : t.mem = s.mem) (hd : t.desc = s.desc) (hp : t.psn = s.psn)
    (hq : t.descPsn = s.descPsn) (ht : t.threads = s.threads) (hi : t.inputs = s.inputs) (ha : t.agenda = s.agenda) : t.Sound :=
  ⟨hm ▸ h.mem, hd ▸ h.desc, hp ▸ h.psn, hq ▸ h.descPsn, ht ▸ h.threads, hi ▸ h.inputs, ha ▸ h.agenda⟩

/-- An update of a sound state that leaves what soundness speaks of. -/
theorem State.Sound.upd {s : State} {now seq scan issued free nextId : Nat} {cur : Nat × Nat} {pkt : Option Packet} {cmd : Option ResCmd}
    {busy : List Nat} {streak : Map Nat} {engWaits : List (Nat × Nat)} {units : Map UnitSt} {barriers : List Barrier} {disp : Dispatcher} {trans : Translation} {fab : Fabric}
    {phot : Photonics} {lat : Lattice} {host : HostPort} {pkg : Package} (h : s.Sound) :
    State.Sound { now := now, inputs := s.inputs, agenda := s.agenda, seq := seq, cur := cur, pkt := pkt, cmd := cmd, scan := scan,
                  issued := issued, busy := busy, streak := streak, engWaits := engWaits, free := free, nextId := nextId, mem := s.mem, desc := s.desc, psn := s.psn,
                  descPsn := s.descPsn, threads := s.threads, units := units, barriers := barriers, disp := disp, trans := trans,
                  fab := fab, phot := phot, lat := lat, host := host, pkg := pkg } :=
  ⟨h.mem, h.desc, h.psn, h.descPsn, h.threads, h.inputs, h.agenda⟩

/-- Both branches of a choice are sound. -/
theorem State.Sound.ite {c : Prop} [Decidable c] {a b : State} (ha : c → a.Sound) (hb : ¬c → b.Sound) : (if c then a else b).Sound := by
  split
  · exact ha ‹_›
  · exact hb ‹_›

/-- What each step of a fold keeps, the fold keeps. -/
theorem State.Sound.foldl {α : Type} {f : State → α → State} {l : List α} {s : State} (h : s.Sound)
    (hf : ∀ s a, s.Sound → (f s a).Sound) : (l.foldl f s).Sound := by
  induction l generalizing s with
  | nil => exact h
  | cons a r ih => exact ih (hf _ _ h)

/-- The same of a fold that carries something beside the state. -/
theorem State.Sound.foldlFst {α β : Type} {f : State × β → α → State × β} {l : List α} {p : State × β} (h : p.1.Sound)
    (hf : ∀ p a, p.1.Sound → (f p a).1.Sound) : (l.foldl f p).1.Sound := by
  induction l generalizing p with
  | nil => exact h
  | cons a r ih => exact ih (hf _ _ h)

/-! ## Thread slots -/

theorem slotsRise_cons (t : Thread) (r : List Thread) :
    slotsRise (t :: r) = true ↔ (∀ x ∈ r, slotBefore t x = true) ∧ slotsRise r = true := by
  induction r generalizing t with
  | nil => simp [slotsRise]
  | cons a r ih =>
    rw [slotsRise, Bool.and_eq_true, ih]
    constructor
    · rintro ⟨h, h1, h2⟩
      refine ⟨fun x hx => ?_, h1, h2⟩
      rcases List.mem_cons.1 hx with rfl | hx
      · exact h
      · have := h1 x hx
        simp only [slotBefore, Bool.or_eq_true, Bool.and_eq_true, decide_eq_true_eq, beq_iff_eq] at h this ⊢
        omega
    · rintro ⟨h, h1, h2⟩
      exact ⟨h a (by simp), h1, h2⟩

theorem mem_putThread {ts : List Thread} {t x : Thread} (h : x ∈ putThread ts t) : x = t ∨ x ∈ ts := by
  induction ts with
  | nil => simpa [putThread] using h
  | cons a r ih =>
    simp only [putThread] at h
    split at h
    · simpa using h
    · split at h
      · rcases List.mem_cons.1 h with h | h
        · exact .inl h
        · exact .inr (List.mem_cons_of_mem _ h)
      · rcases List.mem_cons.1 h with h | h
        · exact .inr (by simp [h])
        · rcases ih h with h | h
          · exact .inl h
          · exact .inr (List.mem_cons_of_mem _ h)

theorem slotsRise_putThread (ts : List Thread) (t : Thread) (h : slotsRise ts = true) : slotsRise (putThread ts t) = true := by
  induction ts with
  | nil => rfl
  | cons a r ih =>
    obtain ⟨h1, h2⟩ := (slotsRise_cons a r).1 h
    simp only [putThread]
    split
    · rename_i hc
      refine (slotsRise_cons ..).2 ⟨fun x hx => ?_, h⟩
      rcases List.mem_cons.1 hx with rfl | hx
      · exact hc
      · have := h1 x hx
        simp only [slotBefore, Bool.or_eq_true, Bool.and_eq_true, decide_eq_true_eq, beq_iff_eq] at hc this ⊢
        omega
    · split
      · rename_i hc
        refine (slotsRise_cons ..).2 ⟨fun x hx => ?_, h2⟩
        have := h1 x hx
        simp only [slotBefore, Bool.or_eq_true, Bool.and_eq_true, decide_eq_true_eq, beq_iff_eq] at hc this ⊢
        omega
      · rename_i hc hd
        refine (slotsRise_cons ..).2 ⟨fun x hx => ?_, ih h2⟩
        rcases mem_putThread hx with rfl | hx
        · simp only [slotBefore, Bool.or_eq_true, Bool.and_eq_true, decide_eq_true_eq, beq_iff_eq] at hc hd ⊢
          omega
        · exact h1 x hx

theorem slotsRise_filter (p : Thread → Bool) (ts : List Thread) (h : slotsRise ts = true) : slotsRise (ts.filter p) = true := by
  induction ts with
  | nil => rfl
  | cons a r ih =>
    obtain ⟨h1, h2⟩ := (slotsRise_cons a r).1 h
    rw [List.filter_cons]
    split
    · exact (slotsRise_cons ..).2 ⟨fun x hx => h1 x (List.mem_filter.1 hx).1, ih h2⟩
    · exact ih h2

theorem slotsRise_map (f : Thread → Thread) (hu : ∀ t, (f t).unit = t.unit) (hs : ∀ t, (f t).slot = t.slot) (ts : List Thread)
    (h : slotsRise ts = true) : slotsRise (ts.map f) = true := by
  induction ts with
  | nil => rfl
  | cons a r ih =>
    obtain ⟨h1, h2⟩ := (slotsRise_cons a r).1 h
    refine (slotsRise_cons ..).2 ⟨fun x hx => ?_, ih h2⟩
    obtain ⟨y, hy, rfl⟩ := List.mem_map.1 hx
    simpa [slotBefore, hu, hs] using h1 y hy

/-! ## The agenda -/

theorem all_insertSched (p : Sched → Bool) (l : List Sched) (e : Sched) (he : p e = true) (h : l.all p = true) :
    (insertSched l e).all p = true := by
  induction l with
  | nil => simpa [insertSched] using he
  | cons x r ih =>
    simp only [List.all_cons, Bool.and_eq_true] at h
    simp only [insertSched]
    split
    · simp [he, h.1, h.2]
    · simp [h.1, ih h.2]

theorem all_filter {α : Type} (p q : α → Bool) (l : List α) (h : l.all p = true) : (l.filter q).all p = true := by
  rw [List.all_eq_true] at h ⊢
  exact fun x hx => h x (List.mem_filter.1 hx).1

/-! ## The operations that touch what soundness speaks of -/

namespace State.Sound
variable {s : State}

theorem setThread (h : s.Sound) (t : Thread) : (s.setThread t).Sound :=
  ⟨h.mem, h.desc, h.psn, h.descPsn, slotsRise_putThread _ _ h.threads, h.inputs, h.agenda⟩

theorem dropThread (h : s.Sound) (t : Thread) : (s.dropThread t).Sound :=
  ⟨h.mem, h.desc, h.psn, h.descPsn, slotsRise_filter _ _ h.threads, h.inputs, h.agenda⟩

theorem schedEv (h : s.Sound) (delay rank : Nat) (ev : Event) (he : eventOp ev.op = true) : (s.schedEv delay rank ev).Sound :=
  ⟨h.mem, h.desc, h.psn, h.descPsn, h.threads, h.inputs, all_insertSched _ _ _ he h.agenda⟩

theorem sched (h : s.Sound) (delay rank : Nat) (op : Instr) (he : eventOp op = true) : (s.sched delay rank op).Sound :=
  h.schedEv _ _ _ he

theorem schedPkt (h : s.Sound) (delay rank : Nat) (op : Instr) (p : Packet) (he : eventOp op = true) : (s.schedPkt delay rank op p).Sound :=
  h.schedEv _ _ _ he

theorem setDesc (h : s.Sound) (pa : Nat) (d : Half) : (s.setDesc pa d).Sound :=
  ⟨h.mem, wrDesc_ok _ _ _ h.desc, h.psn, rising_mdel _ _ h.descPsn, h.threads, h.inputs, h.agenda⟩

theorem store (h : s.Sound) (pa n : Nat) (v : Val) : (s.store pa n v).Sound := by
  have hm := wrBytes_wf (natLe n v.v.toNat) s.mem pa h.mem
  unfold State.store
  dsimp only
  split
  · refine ⟨hm, h.desc, ?_, h.descPsn, h.threads, h.inputs, h.agenda⟩
    dsimp only
    split
    · exact rising_mset _ _ _ h.psn
    · exact rising_mdel _ _ h.psn
  · split
    · exact ⟨hm, h.desc, rising_mset _ _ _ h.psn, h.descPsn, h.threads, h.inputs, h.agenda⟩
    · exact ⟨hm, h.desc, h.psn, h.descPsn, h.threads, h.inputs, h.agenda⟩

theorem poisonDesc (h : s.Sound) (pa : Nat) (p : Option Poison) : (s.poisonDesc pa p).Sound := by
  unfold State.poisonDesc
  split
  · exact ⟨h.mem, h.desc, h.psn, rising_mset _ _ _ h.descPsn, h.threads, h.inputs, h.agenda⟩
  · exact h

theorem zero (h : s.Sound) (pa n : Nat) : (s.zero pa n).Sound :=
  ⟨mclear_wf _ _ _ h.mem, mclear_desc _ _ _ h.desc, rising_mclear _ _ _ h.psn, rising_mclear _ _ _ h.descPsn, h.threads, h.inputs, h.agenda⟩

theorem writeBlock (h : s.Sound) (b : BlockW) : (s.writeBlock b).Sound := by
  have h1 : ({ s with mem := wrBytes s.mem (b.pa / 64 * 64) b.data } : State).Sound :=
    ⟨wrBytes_wf _ _ _ h.mem, h.desc, h.psn, h.descPsn, h.threads, h.inputs, h.agenda⟩
  have h2 := h1.setDesc (b.pa / 64 * 64) b.desc
  refine ⟨h2.mem, h2.desc, ?_, ?_, h2.threads, h2.inputs, h2.agenda⟩
  · exact rising_foldl _ (fun m e hm => rising_mset _ _ _ hm) _ _ (rising_mclear _ _ _ h2.psn)
  · exact rising_foldl _ (fun m e hm => rising_mset _ _ _ hm) _ _ h2.descPsn

end State.Sound

/-- The state right after reset is sound. -/
theorem sound_reset_storage : Memory.wf State.reset.mem = true := rfl

end Sys2Proof.Machine
end

