-- ==== Sys2Proof/Laws/SoundOps.lean ====
section
/-! SUPPORT. Sound states: the named operations of Machine/Ops.lean keep them. -/

namespace Sys2Proof.Machine
namespace State.Sound

theorem msi {s : State} (h : s.Sound) (v : Nat) :
    (s.msi v).Sound := by
  unfold State.msi
  try dsimp only
  repeat' (first
    | with_reducible assumption
    | with_reducible refine State.Sound.foldl ?_ (fun _ _ _ => ?_)
    | with_reducible refine State.Sound.foldlFst ?_ (fun _ _ _ => ?_)
    | with_reducible refine State.Sound.ite (fun _ => ?_) (fun _ => ?_)
    | split
    | fail_if_no_progress with_reducible apply State.Sound.upd)

theorem setLaunch {s : State} (h : s.Sound) (l : Launch) :
    (s.setLaunch l).Sound := by
  unfold State.setLaunch
  try dsimp only
  repeat' (first
    | with_reducible assumption
    | with_reducible refine State.Sound.foldl ?_ (fun _ _ _ => ?_)
    | with_reducible refine State.Sound.foldlFst ?_ (fun _ _ _ => ?_)
    | with_reducible refine State.Sound.ite (fun _ => ?_) (fun _ => ?_)
    | split
    | fail_if_no_progress with_reducible apply State.Sound.upd)

theorem fresh {s : State} (h : s.Sound)  :
    (s.fresh).Sound := by
  unfold State.fresh
  try dsimp only
  repeat' (first
    | with_reducible assumption
    | with_reducible refine State.Sound.foldl ?_ (fun _ _ _ => ?_)
    | with_reducible refine State.Sound.foldlFst ?_ (fun _ _ _ => ?_)
    | with_reducible refine State.Sound.ite (fun _ => ?_) (fun _ => ?_)
    | split
    | fail_if_no_progress with_reducible apply State.Sound.upd)

theorem putVals {s : State} (h : s.Sound) (a : Nat) (vs : List Val) :
    (s.putVals a vs).Sound := by
  unfold State.putVals
  try dsimp only
  repeat' (first
    | with_reducible assumption
    | (show eventOp _ = true; rfl)
    | with_reducible exact True.intro
    | with_reducible apply State.Sound.store
    | with_reducible refine State.Sound.foldl ?_ (fun _ _ _ => ?_)
    | with_reducible refine State.Sound.foldlFst ?_ (fun _ _ _ => ?_)
    | with_reducible refine State.Sound.ite (fun _ => ?_) (fun _ => ?_)
    | split
    | fail_if_no_progress with_reducible apply State.Sound.upd
    | dsimp only)

theorem setCrew {s : State} (h : s.Sound) (c : Crew) :
    (s.setCrew c).Sound := by
  unfold State.setCrew
  try dsimp only
  repeat' (first
    | with_reducible assumption
    | with_reducible refine State.Sound.foldl ?_ (fun _ _ _ => ?_)
    | with_reducible refine State.Sound.foldlFst ?_ (fun _ _ _ => ?_)
    | with_reducible refine State.Sound.ite (fun _ => ?_) (fun _ => ?_)
    | split
    | fail_if_no_progress with_reducible apply State.Sound.upd)

theorem trigCheck {s : State} (h : s.Sound) (tag : Nat) :
    (s.trigCheck tag).Sound := by
  unfold State.trigCheck
  try dsimp only
  repeat' (first
    | with_reducible assumption
    | with_reducible apply State.Sound.setLaunch
    | with_reducible refine State.Sound.foldl ?_ (fun _ _ _ => ?_)
    | with_reducible refine State.Sound.foldlFst ?_ (fun _ _ _ => ?_)
    | with_reducible refine State.Sound.ite (fun _ => ?_) (fun _ => ?_)
    | split)

theorem logWords {s : State} (h : s.Sound) (f : W32 → List Word) :
    (s.logWords f).Sound := by
  unfold State.logWords
  try dsimp only
  repeat' (first
    | with_reducible assumption
    | with_reducible refine State.Sound.foldl ?_ (fun _ _ _ => ?_)
    | with_reducible refine State.Sound.foldlFst ?_ (fun _ _ _ => ?_)
    | with_reducible refine State.Sound.ite (fun _ => ?_) (fun _ => ?_)
    | split
    | fail_if_no_progress with_reducible apply State.Sound.upd)

theorem setUnit {s : State} (h : s.Sound) (u : Nat) (x : UnitSt) :
    (s.setUnit u x).Sound := by
  unfold State.setUnit
  try dsimp only
  repeat' (first
    | with_reducible assumption
    | with_reducible refine State.Sound.foldl ?_ (fun _ _ _ => ?_)
    | with_reducible refine State.Sound.foldlFst ?_ (fun _ _ _ => ?_)
    | with_reducible refine State.Sound.ite (fun _ => ?_) (fun _ => ?_)
    | split
    | fail_if_no_progress with_reducible apply State.Sound.upd)

theorem cancel {s : State} (h : s.Sound) (i : Instr) : (s.cancel i).Sound :=
  ⟨h.mem, h.desc, h.psn, h.descPsn, h.threads, h.inputs, all_filter _ _ _ h.agenda⟩

theorem onCrew {s : State} (h : s.Sound) (tag : Nat) (u : Nat) (f : Crew → Crew) :
    (s.onCrew tag u f).Sound := by
  unfold State.onCrew
  try dsimp only
  repeat' (first
    | with_reducible assumption
    | with_reducible apply State.Sound.setCrew
    | with_reducible refine State.Sound.foldl ?_ (fun _ _ _ => ?_)
    | with_reducible refine State.Sound.foldlFst ?_ (fun _ _ _ => ?_)
    | with_reducible refine State.Sound.ite (fun _ => ?_) (fun _ => ?_)
    | split)

theorem onLaunch {s : State} (h : s.Sound) (tag : Nat) (f : Launch → Launch) :
    (s.onLaunch tag f).Sound := by
  unfold State.onLaunch
  try dsimp only
  repeat' (first
    | with_reducible assumption
    | with_reducible apply State.Sound.setLaunch
    | with_reducible refine State.Sound.foldl ?_ (fun _ _ _ => ?_)
    | with_reducible refine State.Sound.foldlFst ?_ (fun _ _ _ => ?_)
    | with_reducible refine State.Sound.ite (fun _ => ?_) (fun _ => ?_)
    | split)

theorem putRecord {s : State} (h : s.Sound) (v : Saved) (i : Nat) (t : Thread) :
    (s.putRecord v i t).Sound := by
  unfold State.putRecord
  try dsimp only
  repeat' (first
    | with_reducible assumption
    | (show eventOp _ = true; rfl)
    | with_reducible exact True.intro
    | with_reducible apply State.Sound.putVals
    | with_reducible refine State.Sound.foldl ?_ (fun _ _ _ => ?_)
    | with_reducible refine State.Sound.foldlFst ?_ (fun _ _ _ => ?_)
    | with_reducible refine State.Sound.ite (fun _ => ?_) (fun _ => ?_)
    | split
    | fail_if_no_progress with_reducible apply State.Sound.upd
    | dsimp only)

theorem onUnit {s : State} (h : s.Sound) (u : Nat) (f : UnitSt → UnitSt) :
    (s.onUnit u f).Sound := by
  unfold State.onUnit
  try dsimp only
  repeat' (first
    | with_reducible assumption
    | with_reducible apply State.Sound.setUnit)

theorem freeJoinFrame {s : State} (h : s.Sound) (t : Thread) :
    (s.freeJoinFrame t).Sound := by
  unfold State.freeJoinFrame
  try dsimp only
  repeat' (first
    | with_reducible assumption
    | (show eventOp _ = true; rfl)
    | with_reducible exact True.intro
    | with_reducible apply State.Sound.onCrew
    | with_reducible refine State.Sound.foldl ?_ (fun _ _ _ => ?_)
    | with_reducible refine State.Sound.foldlFst ?_ (fun _ _ _ => ?_)
    | with_reducible refine State.Sound.ite (fun _ => ?_) (fun _ => ?_)
    | split
    | fail_if_no_progress with_reducible apply State.Sound.upd
    | dsimp only)

theorem onRef {s : State} (h : s.Sound) (r : ThreadRef) (f : Thread → Thread) :
    (s.onRef r f).Sound := by
  unfold State.onRef
  try dsimp only
  repeat' (first
    | with_reducible assumption
    | with_reducible apply State.Sound.setThread
    | with_reducible refine State.Sound.foldl ?_ (fun _ _ _ => ?_)
    | with_reducible refine State.Sound.foldlFst ?_ (fun _ _ _ => ?_)
    | with_reducible refine State.Sound.ite (fun _ => ?_) (fun _ => ?_)
    | split)

theorem park {s : State} (h : s.Sound) (t : Thread) (w : WaitFor) :
    (s.park t w).Sound := by
  unfold State.park
  try dsimp only
  repeat' (first
    | with_reducible assumption
    | with_reducible apply State.Sound.setThread
    | with_reducible apply State.Sound.fresh)

theorem thenPark {s : State} (h : s.Sound) (r : ThreadRef) (w : WaitFor) :
    (s.thenPark r w).Sound := by
  unfold State.thenPark
  try dsimp only
  repeat' (first
    | with_reducible assumption
    | (show eventOp _ = true; rfl)
    | with_reducible exact True.intro
    | with_reducible apply State.Sound.park
    | with_reducible refine State.Sound.foldl ?_ (fun _ _ _ => ?_)
    | with_reducible refine State.Sound.foldlFst ?_ (fun _ _ _ => ?_)
    | with_reducible refine State.Sound.ite (fun _ => ?_) (fun _ => ?_)
    | split
    | fail_if_no_progress with_reducible apply State.Sound.upd
    | dsimp only)

theorem onSaved {s : State} (h : s.Sound) (r : ThreadRef) (f : Thread → Thread) :
    (s.onSaved r f).Sound := by
  unfold State.onSaved
  try dsimp only
  repeat' (first
    | with_reducible assumption
    | (show eventOp _ = true; rfl)
    | with_reducible exact True.intro
    | with_reducible apply State.Sound.putRecord
    | with_reducible refine State.Sound.foldl ?_ (fun _ _ _ => ?_)
    | with_reducible refine State.Sound.foldlFst ?_ (fun _ _ _ => ?_)
    | with_reducible refine State.Sound.ite (fun _ => ?_) (fun _ => ?_)
    | split
    | fail_if_no_progress with_reducible apply State.Sound.upd
    | dsimp only)

theorem post {s : State} (h : s.Sound) (p : PostTo) (count : Nat) (status : Nat) :
    (s.post p count status).Sound := by
  unfold State.post
  try dsimp only
  repeat' (first
    | with_reducible assumption
    | (show eventOp _ = true; rfl)
    | with_reducible exact True.intro
    | with_reducible apply State.Sound.setThread
    | with_reducible apply State.Sound.onSaved
    | with_reducible refine State.Sound.foldl ?_ (fun _ _ _ => ?_)
    | with_reducible refine State.Sound.foldlFst ?_ (fun _ _ _ => ?_)
    | with_reducible refine State.Sound.ite (fun _ => ?_) (fun _ => ?_)
    | split
    | fail_if_no_progress with_reducible apply State.Sound.upd
    | dsimp only)

theorem raiseGen {s : State} (h : s.Sound) (u : Nat) (n : Nat) :
    (s.raiseGen u n).Sound := by
  unfold State.raiseGen
  try dsimp only
  repeat' (first
    | with_reducible assumption
    | (show eventOp _ = true; rfl)
    | with_reducible exact True.intro
    | with_reducible apply State.Sound.onUnit
    | with_reducible refine State.Sound.foldl ?_ (fun _ _ _ => ?_)
    | with_reducible refine State.Sound.foldlFst ?_ (fun _ _ _ => ?_)
    | with_reducible refine State.Sound.ite (fun _ => ?_) (fun _ => ?_)
    | split
    | fail_if_no_progress with_reducible apply State.Sound.upd
    | dsimp only)

theorem closeReq {s : State} (h : s.Sound) (r : Req) :
    (s.closeReq r).Sound := by
  unfold State.closeReq
  try dsimp only
  repeat' (first
    | with_reducible assumption
    | (show eventOp _ = true; rfl)
    | with_reducible apply State.Sound.cancel
    | with_reducible apply State.Sound.sched
    | with_reducible refine State.Sound.foldl ?_ (fun _ _ _ => ?_)
    | with_reducible refine State.Sound.foldlFst ?_ (fun _ _ _ => ?_)
    | with_reducible refine State.Sound.ite (fun _ => ?_) (fun _ => ?_)
    | split
    | fail_if_no_progress with_reducible apply State.Sound.upd)

theorem injectAfter {s : State} (h : s.Sound) (delay : Nat) (fromStack : Nat) (p : Packet) :
    (s.injectAfter delay fromStack p).Sound := by
  unfold State.injectAfter
  try dsimp only
  repeat' (first
    | with_reducible assumption
    | (show eventOp _ = true; rfl)
    | with_reducible exact True.intro
    | with_reducible apply State.Sound.sched
    | with_reducible apply State.Sound.fresh
    | with_reducible refine State.Sound.foldl ?_ (fun _ _ _ => ?_)
    | with_reducible refine State.Sound.foldlFst ?_ (fun _ _ _ => ?_)
    | with_reducible refine State.Sound.ite (fun _ => ?_) (fun _ => ?_)
    | split
    | fail_if_no_progress with_reducible apply State.Sound.upd
    | dsimp only)

theorem postLater {s : State} (h : s.Sound) (delay : Nat) (p : PostTo) (count : Nat) (status : Nat) :
    (s.postLater delay p count status).Sound := by
  unfold State.postLater
  try dsimp only
  repeat' (first
    | with_reducible assumption
    | (show eventOp _ = true; rfl)
    | with_reducible apply State.Sound.sched)

theorem freeTwin {s : State} (h : s.Sound) (t : Thread) :
    (s.freeTwin t).Sound := by
  unfold State.freeTwin
  try dsimp only
  repeat' (first
    | with_reducible assumption
    | (show eventOp _ = true; rfl)
    | with_reducible exact True.intro
    | with_reducible apply State.Sound.raiseGen
    | with_reducible refine State.Sound.foldl ?_ (fun _ _ _ => ?_)
    | with_reducible refine State.Sound.foldlFst ?_ (fun _ _ _ => ?_)
    | with_reducible refine State.Sound.ite (fun _ => ?_) (fun _ => ?_)
    | split
    | fail_if_no_progress with_reducible apply State.Sound.upd
    | dsimp only)

theorem sendReqAfter {s : State} (h : s.Sound) (delay : Nat) (fromStack : Nat) (p : Packet) (w : ReqWhat) :
    (s.sendReqAfter delay fromStack p w).Sound := by
  unfold State.sendReqAfter
  try dsimp only
  repeat' (first
    | with_reducible assumption
    | (show eventOp _ = true; rfl)
    | with_reducible apply State.Sound.sched
    | with_reducible apply State.Sound.injectAfter
    | with_reducible refine State.Sound.foldl ?_ (fun _ _ _ => ?_)
    | with_reducible refine State.Sound.foldlFst ?_ (fun _ _ _ => ?_)
    | with_reducible refine State.Sound.ite (fun _ => ?_) (fun _ => ?_)
    | split
    | fail_if_no_progress with_reducible apply State.Sound.upd)

theorem exchange {s : State} (h : s.Sound) (t : Thread) :
    (s.exchange t).Sound := by
  unfold State.exchange
  try dsimp only
  repeat' (first
    | with_reducible assumption
    | (show eventOp _ = true; rfl)
    | with_reducible apply State.Sound.sched
    | with_reducible apply State.Sound.park)

theorem errPort {s : State} (h : s.Sound) (r : RecInfo) (ws : List Word) :
    (s.errPort r ws).Sound := by
  unfold State.errPort
  try dsimp only
  repeat' (first
    | with_reducible assumption
    | (show eventOp _ = true; rfl)
    | with_reducible exact True.intro
    | with_reducible apply State.Sound.sched
    | with_reducible refine State.Sound.foldl ?_ (fun _ _ _ => ?_)
    | with_reducible refine State.Sound.foldlFst ?_ (fun _ _ _ => ?_)
    | with_reducible refine State.Sound.ite (fun _ => ?_) (fun _ => ?_)
    | split
    | fail_if_no_progress with_reducible apply State.Sound.upd
    | dsimp only)

theorem cancelRegion {s : State} (h : s.Sound) (t : Thread) :
    (s.cancelRegion t).Sound := by
  unfold State.cancelRegion
  try dsimp only
  repeat' (first
    | with_reducible assumption
    | (show eventOp _ = true; rfl)
    | with_reducible apply State.Sound.onUnit
    | with_reducible apply State.Sound.sched
    | with_reducible refine State.Sound.foldl ?_ (fun _ _ _ => ?_)
    | with_reducible refine State.Sound.foldlFst ?_ (fun _ _ _ => ?_)
    | with_reducible refine State.Sound.ite (fun _ => ?_) (fun _ => ?_))

theorem inject {s : State} (h : s.Sound) (fromStack : Nat) (p : Packet) :
    (s.inject fromStack p).Sound := by
  unfold State.inject
  try dsimp only
  repeat' (first
    | with_reducible assumption
    | with_reducible apply State.Sound.injectAfter)

theorem raiseReplace {s : State} (h : s.Sound)  :
    (s.raiseReplace).Sound := by
  unfold State.raiseReplace
  try dsimp only
  repeat' (first
    | with_reducible assumption
    | (show eventOp _ = true; rfl)
    | with_reducible exact True.intro
    | with_reducible apply State.Sound.msi
    | with_reducible apply State.Sound.inject
    | with_reducible refine State.Sound.foldl ?_ (fun _ _ _ => ?_)
    | with_reducible refine State.Sound.foldlFst ?_ (fun _ _ _ => ?_)
    | with_reducible refine State.Sound.ite (fun _ => ?_) (fun _ => ?_)
    | split
    | fail_if_no_progress with_reducible apply State.Sound.upd
    | dsimp only)

theorem frameAccess {s : State} (h : s.Sound) (t : Thread) (off : Nat) (wr : Bool) (kind : Bool → AccKind) :
    (s.frameAccess t off wr kind).1.Sound := by
  unfold State.frameAccess
  try dsimp only
  repeat' (first
    | with_reducible assumption
    | (show eventOp _ = true; rfl)
    | with_reducible exact True.intro
    | with_reducible apply State.Sound.sched
    | with_reducible refine State.Sound.foldl ?_ (fun _ _ _ => ?_)
    | with_reducible refine State.Sound.foldlFst ?_ (fun _ _ _ => ?_)
    | with_reducible refine State.Sound.ite (fun _ => ?_) (fun _ => ?_)
    | split
    | fail_if_no_progress with_reducible apply State.Sound.upd
    | dsimp only)

theorem frameAccess_eq {s : State} (h : s.Sound) (t : Thread) (off : Nat) (wr : Bool) (kind : Bool → AccKind)  {u_ : State} {x_ : Thread} (e_ : (s.frameAccess t off wr kind) = (u_, x_)) : u_.Sound := by
  have := h.frameAccess t off wr kind
  rw [e_] at this
  exact this

theorem replace {s : State} (h : s.Sound) (bit : Nat) :
    (s.replace bit).Sound := by
  unfold State.replace
  try dsimp only
  repeat' (first
    | with_reducible assumption
    | (show eventOp _ = true; rfl)
    | with_reducible exact True.intro
    | with_reducible apply State.Sound.raiseReplace
    | with_reducible refine State.Sound.foldl ?_ (fun _ _ _ => ?_)
    | with_reducible refine State.Sound.foldlFst ?_ (fun _ _ _ => ?_)
    | with_reducible refine State.Sound.ite (fun _ => ?_) (fun _ => ?_)
    | split
    | fail_if_no_progress with_reducible apply State.Sound.upd
    | dsimp only)

theorem freeSlot {s : State} (h : s.Sound) (t : Thread) :
    (s.freeSlot t).Sound := by
  unfold State.freeSlot
  try dsimp only
  repeat' (first
    | with_reducible assumption
    | (show eventOp _ = true; rfl)
    | with_reducible exact True.intro
    | with_reducible apply State.Sound.freeTwin
    | with_reducible apply State.Sound.raiseGen
    | with_reducible apply State.Sound.dropThread
    | with_reducible apply State.Sound.inject
    | with_reducible apply State.Sound.trigCheck
    | with_reducible refine State.Sound.foldl ?_ (fun _ _ _ => ?_)
    | with_reducible refine State.Sound.foldlFst ?_ (fun _ _ _ => ?_)
    | with_reducible refine State.Sound.ite (fun _ => ?_) (fun _ => ?_)
    | split
    | fail_if_no_progress with_reducible apply State.Sound.upd
    | dsimp only)

theorem sendReq {s : State} (h : s.Sound) (fromStack : Nat) (p : Packet) (w : ReqWhat) :
    (s.sendReq fromStack p w).Sound := by
  unfold State.sendReq
  try dsimp only
  repeat' (first
    | with_reducible assumption
    | with_reducible apply State.Sound.sendReqAfter)

theorem endLaunch {s : State} (h : s.Sound) (tag : Nat) (status : Nat) (code : Nat) :
    (s.endLaunch tag status code).Sound := by
  unfold State.endLaunch
  try dsimp only
  repeat' (first
    | with_reducible assumption
    | (show eventOp _ = true; rfl)
    | with_reducible apply State.Sound.freeSlot
    | with_reducible apply State.Sound.setLaunch
    | with_reducible apply State.Sound.sched
    | with_reducible refine State.Sound.foldl ?_ (fun _ _ _ => ?_)
    | with_reducible refine State.Sound.foldlFst ?_ (fun _ _ _ => ?_)
    | with_reducible refine State.Sound.ite (fun _ => ?_) (fun _ => ?_)
    | split
    | fail_if_no_progress with_reducible apply State.Sound.upd)

theorem clearReplace {s : State} (h : s.Sound) (w : BitVec 7) :
    (s.clearReplace w).Sound := by
  unfold State.clearReplace
  try dsimp only
  repeat' (first
    | with_reducible assumption
    | (show eventOp _ = true; rfl)
    | with_reducible exact True.intro
    | with_reducible apply State.Sound.raiseReplace
    | with_reducible refine State.Sound.foldl ?_ (fun _ _ _ => ?_)
    | with_reducible refine State.Sound.foldlFst ?_ (fun _ _ _ => ?_)
    | with_reducible refine State.Sound.ite (fun _ => ?_) (fun _ => ?_)
    | split
    | fail_if_no_progress with_reducible apply State.Sound.upd
    | dsimp only)

theorem fatal {s : State} (h : s.Sound)  :
    (s.fatal).Sound := by
  unfold State.fatal
  try dsimp only
  repeat' (first
    | with_reducible assumption
    | with_reducible apply State.Sound.endLaunch
    | with_reducible refine State.Sound.foldl ?_ (fun _ _ _ => ?_)
    | with_reducible refine State.Sound.foldlFst ?_ (fun _ _ _ => ?_)
    | with_reducible refine State.Sound.ite (fun _ => ?_) (fun _ => ?_)
    | split
    | fail_if_no_progress with_reducible apply State.Sound.upd)

theorem fill {s : State} (h : s.Sound) (t : Thread) (off : Nat) :
    (s.fill t off).1.Sound := by
  unfold State.fill
  try dsimp only
  repeat' (first
    | with_reducible assumption
    | (show eventOp _ = true; rfl)
    | with_reducible exact True.intro
    | with_reducible apply State.Sound.frameAccess
    | with_reducible refine State.Sound.frameAccess_eq ?_ (by with_reducible assumption)
    | with_reducible refine State.Sound.foldl ?_ (fun _ _ _ => ?_)
    | with_reducible refine State.Sound.foldlFst ?_ (fun _ _ _ => ?_)
    | with_reducible refine State.Sound.ite (fun _ => ?_) (fun _ => ?_)
    | split
    | fail_if_no_progress with_reducible apply State.Sound.upd
    | dsimp only)

theorem fill_eq {s : State} (h : s.Sound) (t : Thread) (off : Nat)  {u_ : State} {x_ : Thread} (e_ : (s.fill t off) = (u_, x_)) : u_.Sound := by
  have := h.fill t off
  rw [e_] at this
  exact this

theorem countCorrected {s : State} (h : s.Sound)  :
    (s.countCorrected).Sound := by
  unfold State.countCorrected
  try dsimp only
  repeat' (first
    | with_reducible assumption
    | with_reducible apply State.Sound.replace
    | with_reducible refine State.Sound.foldl ?_ (fun _ _ _ => ?_)
    | with_reducible refine State.Sound.foldlFst ?_ (fun _ _ _ => ?_)
    | with_reducible refine State.Sound.ite (fun _ => ?_) (fun _ => ?_)
    | split
    | fail_if_no_progress with_reducible apply State.Sound.upd)

theorem popFrame {s : State} (h : s.Sound) (t : Thread) (u : State) (x : Thread) (hx : Machine.popFrame s t = .ok u x) : u.Sound := by
  unfold Machine.popFrame at hx
  split at hx
  · exact nomatch hx
  · split at hx
    · injection hx with hx; exact hx ▸ h
    · split at hx
      · injection hx with hx; exact hx ▸ h.fill _ _
      · exact nomatch hx

theorem spill {s : State} (h : s.Sound) (t : Thread) (off : Nat) :
    (s.spill t off).1.Sound := by
  unfold State.spill
  try dsimp only
  repeat' (first
    | with_reducible assumption
    | (show eventOp _ = true; rfl)
    | with_reducible exact True.intro
    | with_reducible apply State.Sound.frameAccess
    | with_reducible refine State.Sound.frameAccess_eq ?_ (by with_reducible assumption)
    | with_reducible refine State.Sound.foldl ?_ (fun _ _ _ => ?_)
    | with_reducible refine State.Sound.foldlFst ?_ (fun _ _ _ => ?_)
    | with_reducible refine State.Sound.ite (fun _ => ?_) (fun _ => ?_)
    | split
    | fail_if_no_progress with_reducible apply State.Sound.upd
    | dsimp only)

theorem spill_eq {s : State} (h : s.Sound) (t : Thread) (off : Nat)  {u_ : State} {x_ : Thread} (e_ : (s.spill t off) = (u_, x_)) : u_.Sound := by
  have := h.spill t off
  rw [e_] at this
  exact this

theorem pushFrame {s : State} (h : s.Sound) (t : Thread) (check : Bool) (u : State) (x : Thread)
    (hx : Machine.pushFrame s t check = .ok u x) : u.Sound := by
  unfold Machine.pushFrame at hx
  split at hx
  · exact nomatch hx
  · split at hx
    · injection hx with hx; exact hx ▸ h
    · split at hx
      · injection hx with hx; exact hx ▸ h.spill _ _
      · exact nomatch hx

theorem refill {s : State} (h : s.Sound) (t : Thread) :
    (s.refill t).Sound := by
  unfold State.refill
  try dsimp only
  repeat' (first
    | with_reducible assumption
    | (show eventOp _ = true; rfl)
    | with_reducible exact True.intro
    | with_reducible apply State.Sound.park
    | with_reducible apply State.Sound.fill
    | with_reducible refine State.Sound.fill_eq ?_ (by with_reducible assumption)
    | with_reducible refine State.Sound.foldl ?_ (fun _ _ _ => ?_)
    | with_reducible refine State.Sound.foldlFst ?_ (fun _ _ _ => ?_)
    | with_reducible refine State.Sound.ite (fun _ => ?_) (fun _ => ?_)
    | split
    | fail_if_no_progress with_reducible apply State.Sound.upd
    | dsimp only)

theorem record {s : State} (h : s.Sound) (r : RecInfo) :
    (s.record r).Sound := by
  unfold State.record
  try dsimp only
  repeat' (first
    | with_reducible assumption
    | with_reducible apply State.Sound.logWords
    | with_reducible apply State.Sound.countCorrected
    | with_reducible apply State.Sound.errPort
    | with_reducible refine State.Sound.foldl ?_ (fun _ _ _ => ?_)
    | with_reducible refine State.Sound.foldlFst ?_ (fun _ _ _ => ?_)
    | with_reducible refine State.Sound.ite (fun _ => ?_) (fun _ => ?_))

theorem endThread {s : State} (h : s.Sound) (t : Thread) :
    (s.endThread t).Sound := by
  unfold State.endThread
  try dsimp only
  repeat' (first
    | with_reducible assumption
    | with_reducible apply State.Sound.record
    | with_reducible apply State.Sound.freeSlot
    | with_reducible refine State.Sound.foldl ?_ (fun _ _ _ => ?_)
    | with_reducible refine State.Sound.foldlFst ?_ (fun _ _ _ => ?_)
    | with_reducible refine State.Sound.ite (fun _ => ?_) (fun _ => ?_)
    | split
    | fail_if_no_progress with_reducible apply State.Sound.upd)

theorem endContained {s : State} (h : s.Sound) (t : Thread) (cause : Nat) (va : Word) (detail : Word) (pc : Word) :
    (s.endContained t cause va detail pc).Sound := by
  unfold State.endContained
  try dsimp only
  repeat' (first
    | with_reducible assumption
    | with_reducible apply State.Sound.endThread
    | with_reducible apply State.Sound.record)

theorem winexh {s : State} (h : s.Sound) (t : Thread) (pc : Word) :
    (s.winexh t pc).Sound := by
  unfold State.winexh
  try dsimp only
  repeat' (first
    | with_reducible assumption
    | with_reducible apply State.Sound.endContained)

theorem consumeEnd {s : State} (h : s.Sound) (t : Thread) (cause : Nat) (p : Poison) (va : Word) (pa : Word) (by_ : optParam (Option (Nat × Word)) none) :
    (s.consumeEnd t cause p va pa by_).Sound := by
  unfold State.consumeEnd
  try dsimp only
  repeat' (first
    | with_reducible assumption
    | (show eventOp _ = true; rfl)
    | with_reducible exact True.intro
    | with_reducible apply State.Sound.endThread
    | with_reducible apply State.Sound.record
    | with_reducible refine State.Sound.foldl ?_ (fun _ _ _ => ?_)
    | with_reducible refine State.Sound.foldlFst ?_ (fun _ _ _ => ?_)
    | with_reducible refine State.Sound.ite (fun _ => ?_) (fun _ => ?_)
    | split
    | fail_if_no_progress with_reducible apply State.Sound.upd
    | dsimp only)

theorem trapEntry {s : State} (h : s.Sound) (t : Thread) (r : TrapReq) :
    (s.trapEntry t r).Sound := by
  unfold State.trapEntry
  try dsimp only
  repeat' (first
    | with_reducible assumption
    | with_reducible apply State.Sound.park
    | with_reducible apply State.Sound.endContained
    | with_reducible refine State.Sound.pushFrame ?_ _ _ _ _ (by with_reducible assumption)
    | with_reducible apply State.Sound.winexh
    | with_reducible apply State.Sound.setThread
    | with_reducible refine State.Sound.foldl ?_ (fun _ _ _ => ?_)
    | with_reducible refine State.Sound.foldlFst ?_ (fun _ _ _ => ?_)
    | with_reducible refine State.Sound.ite (fun _ => ?_) (fun _ => ?_)
    | split)

theorem trapReturn {s : State} (h : s.Sound) (t : Thread) :
    (s.trapReturn t).Sound := by
  unfold State.trapReturn
  try dsimp only
  repeat' (first
    | with_reducible assumption
    | (show eventOp _ = true; rfl)
    | with_reducible exact True.intro
    | with_reducible refine State.Sound.popFrame ?_ _ _ _ (by with_reducible assumption)
    | with_reducible apply State.Sound.winexh
    | with_reducible apply State.Sound.setThread
    | with_reducible apply State.Sound.park
    | with_reducible refine State.Sound.foldl ?_ (fun _ _ _ => ?_)
    | with_reducible refine State.Sound.foldlFst ?_ (fun _ _ _ => ?_)
    | with_reducible refine State.Sound.ite (fun _ => ?_) (fun _ => ?_)
    | split
    | fail_if_no_progress with_reducible apply State.Sound.upd
    | dsimp only)

theorem regionRestart {s : State} (h : s.Sound) (t : Thread) (p : Poison) (va : Word) (pa : Word) (by_ : optParam (Option (Nat × Word)) none) :
    (s.regionRestart t p va pa by_).Sound := by
  unfold State.regionRestart
  try dsimp only
  repeat' (first
    | with_reducible assumption
    | (show eventOp _ = true; rfl)
    | with_reducible exact True.intro
    | with_reducible apply State.Sound.record
    | with_reducible apply State.Sound.cancelRegion
    | with_reducible apply State.Sound.setThread
    | with_reducible apply State.Sound.refill
    | with_reducible apply State.Sound.winexh
    | with_reducible refine State.Sound.foldl ?_ (fun _ _ _ => ?_)
    | with_reducible refine State.Sound.foldlFst ?_ (fun _ _ _ => ?_)
    | with_reducible refine State.Sound.ite (fun _ => ?_) (fun _ => ?_)
    | split
    | fail_if_no_progress with_reducible apply State.Sound.upd
    | dsimp only)

theorem consume {s : State} (h : s.Sound) (t : Thread) (p : Poison) (va : optParam Word 0) (pa : optParam Word 0) (by_ : optParam (Option (Nat × Word)) none) :
    (s.consume t p va pa by_).Sound := by
  unfold State.consume
  try dsimp only
  repeat' (first
    | with_reducible assumption
    | (show eventOp _ = true; rfl)
    | with_reducible exact True.intro
    | with_reducible apply State.Sound.regionRestart
    | with_reducible apply State.Sound.consumeEnd
    | with_reducible refine State.Sound.foldl ?_ (fun _ _ _ => ?_)
    | with_reducible refine State.Sound.foldlFst ?_ (fun _ _ _ => ?_)
    | with_reducible refine State.Sound.ite (fun _ => ?_) (fun _ => ?_)
    | split
    | fail_if_no_progress with_reducible apply State.Sound.upd
    | dsimp only)

theorem settle {s : State} (h : s.Sound) (t : Thread) :
    (s.settle t).Sound := by
  unfold State.settle
  try dsimp only
  repeat' (first
    | with_reducible assumption
    | (show eventOp _ = true; rfl)
    | with_reducible exact True.intro
    | with_reducible apply State.Sound.consume
    | with_reducible apply State.Sound.refill
    | with_reducible apply State.Sound.setThread
    | with_reducible apply State.Sound.trapEntry
    | with_reducible apply State.Sound.endThread
    | with_reducible apply State.Sound.freeJoinFrame
    | with_reducible refine State.Sound.foldl ?_ (fun _ _ _ => ?_)
    | with_reducible refine State.Sound.foldlFst ?_ (fun _ _ _ => ?_)
    | with_reducible refine State.Sound.ite (fun _ => ?_) (fun _ => ?_)
    | split
    | fail_if_no_progress with_reducible apply State.Sound.upd
    | dsimp only)

theorem switchPoint {s : State} (h : s.Sound) (t : Thread) :
    (s.switchPoint t).Sound := by
  unfold State.switchPoint
  try dsimp only
  repeat' (first
    | with_reducible assumption
    | with_reducible apply State.Sound.settle
    | with_reducible apply State.Sound.park
    | with_reducible refine State.Sound.foldl ?_ (fun _ _ _ => ?_)
    | with_reducible refine State.Sound.foldlFst ?_ (fun _ _ _ => ?_)
    | with_reducible refine State.Sound.ite (fun _ => ?_) (fun _ => ?_))

theorem doneAt {s : State} (h : s.Sound) (t : Thread) (next : Word) (sm : Bool) (vs : List Word) :
    (s.doneAt t next sm vs).Sound := by
  unfold State.doneAt
  try dsimp only
  repeat' (first
    | with_reducible assumption
    | with_reducible apply State.Sound.switchPoint
    | with_reducible apply State.Sound.setThread
    | with_reducible refine State.Sound.foldl ?_ (fun _ _ _ => ?_)
    | with_reducible refine State.Sound.foldlFst ?_ (fun _ _ _ => ?_)
    | with_reducible refine State.Sound.ite (fun _ => ?_) (fun _ => ?_)
    | split
    | fail_if_no_progress with_reducible apply State.Sound.upd)

theorem done {s : State} (h : s.Sound) (t : Thread) (words : Nat) (sm : Bool) (vs : List Word) :
    (s.done t words sm vs).Sound := by
  unfold State.done
  try dsimp only
  repeat' (first
    | with_reducible assumption
    | with_reducible apply State.Sound.doneAt)

theorem raise {s : State} (h : s.Sound) (t : Thread) (r : TrapReq) :
    (s.raise t r).Sound := by
  unfold State.raise
  try dsimp only
  repeat' (first
    | with_reducible assumption
    | with_reducible apply State.Sound.switchPoint)

theorem withEntry {s : State} (h : s.Sound) (t : Thread) (k : Nat → State) (hk : ∀ y0, (k y0).Sound) :
    (s.withEntry t k).Sound := by
  unfold State.withEntry
  try dsimp only
  repeat' (first
    | with_reducible assumption
    | with_reducible apply hk
    | with_reducible apply State.Sound.switchPoint
    | with_reducible refine State.Sound.foldl ?_ (fun _ _ _ => ?_)
    | with_reducible refine State.Sound.foldlFst ?_ (fun _ _ _ => ?_)
    | with_reducible refine State.Sound.ite (fun _ => ?_) (fun _ => ?_))

theorem aluDone {s : State} (h : s.Sound) (t : Thread) (words : Nat) (sm : Bool) (d : Operand) (v : Word) :
    (s.aluDone t words sm d v).Sound := by
  unfold State.aluDone
  try dsimp only
  repeat' (first
    | with_reducible assumption
    | with_reducible apply State.Sound.done)

theorem fault {s : State} (h : s.Sound) (t : Thread) (info : Word) (va : Word) :
    (s.fault t info va).Sound := by
  unfold State.fault
  try dsimp only
  repeat' (first
    | with_reducible assumption
    | with_reducible apply State.Sound.raise)

theorem illegal {s : State} (h : s.Sound) (t : Thread) (sub : Nat) (word : Nat) :
    (s.illegal t sub word).Sound := by
  unfold State.illegal
  try dsimp only
  repeat' (first
    | with_reducible assumption
    | with_reducible apply State.Sound.fault)

theorem longDone {s : State} (h : s.Sound) (t : Thread) (words : Nat) (sm : Bool) (d : Operand) (v : Val) (delay : Nat) :
    (s.longDone t words sm d v delay).Sound := by
  unfold State.longDone
  try dsimp only
  repeat' (first
    | with_reducible assumption
    | (show eventOp _ = true; rfl)
    | with_reducible apply State.Sound.withEntry
    | with_reducible apply State.Sound.done
    | with_reducible apply State.Sound.sched
    | with_reducible refine State.Sound.foldl ?_ (fun _ _ _ => ?_)
    | with_reducible refine State.Sound.foldlFst ?_ (fun _ _ _ => ?_)
    | (intro y hy)
    | (intro y))

end State.Sound
end Sys2Proof.Machine
end

