-- ==== Sys2Proof/Laws/SoundUnits.lean ====
section
/-! SUPPORT. Sound states: the operations on addresses, registers, threads, the join units and the engines keep them. -/

namespace Sys2Proof.Machine
namespace State.Sound

theorem eventOp_resEvent (n : Nat) (i : Instr) (e : resEvent n = some i) : eventOp i = true := by
  unfold resEvent at e
  split at e <;> first | (injection e with e; exact e ▸ rfl) | (injection e)

theorem schedRes {s : State} (h : s.Sound) (delay : Nat) (p : Packet) : (s.schedRes delay p).Sound := by
  unfold State.schedRes
  split
  · exact h.schedPkt _ _ _ _ (eventOp_resEvent _ _ ‹_›)
  · exact h

theorem keepUppers {s : State} (h : s.Sound) (cluster : Nat) (root : Nat) (va : Nat) :
    (s.keepUppers cluster root va).Sound := by
  unfold State.keepUppers
  try dsimp only
  repeat' (first
    | with_reducible assumption
    | (show eventOp _ = true; rfl)
    | with_reducible exact True.intro
    | with_reducible refine State.Sound.foldl ?_ (fun _ _ _ => ?_)
    | with_reducible refine State.Sound.foldlFst ?_ (fun _ _ _ => ?_)
    | with_reducible refine State.Sound.ite (fun _ => ?_) (fun _ => ?_)
    | split
    | fail_if_no_progress with_reducible apply State.Sound.upd
    | dsimp only)

theorem engWaitsAt {s : State} (h : s.Sound) (pa : Nat) :
    (s.engWaitsAt pa).Sound := by
  unfold State.engWaitsAt
  try dsimp only
  repeat' (first
    | with_reducible assumption
    | (show eventOp _ = true; rfl)
    | with_reducible exact True.intro
    | with_reducible refine State.Sound.foldl ?_ (fun _ _ _ => ?_)
    | with_reducible refine State.Sound.foldlFst ?_ (fun _ _ _ => ?_)
    | with_reducible refine State.Sound.ite (fun _ => ?_) (fun _ => ?_)
    | split
    | fail_if_no_progress with_reducible apply State.Sound.upd
    | dsimp only)

theorem takeBank {s : State} (h : s.Sound) (pa : Nat) :
    (s.takeBank pa).Sound := by
  unfold State.takeBank
  try dsimp only
  repeat' (first
    | with_reducible assumption
    | with_reducible refine State.Sound.foldl ?_ (fun _ _ _ => ?_)
    | with_reducible refine State.Sound.foldlFst ?_ (fun _ _ _ => ?_)
    | with_reducible refine State.Sound.ite (fun _ => ?_) (fun _ => ?_)
    | split
    | fail_if_no_progress with_reducible apply State.Sound.upd)

theorem setHbmLog {s : State} (h : s.Sound) (h : Nat) (x : HbmLog) :
    (s.setHbmLog h x).Sound := by
  unfold State.setHbmLog
  try dsimp only
  repeat' (first
    | with_reducible assumption
    | with_reducible refine State.Sound.foldl ?_ (fun _ _ _ => ?_)
    | with_reducible refine State.Sound.foldlFst ?_ (fun _ _ _ => ?_)
    | with_reducible refine State.Sound.ite (fun _ => ?_) (fun _ => ?_)
    | split
    | fail_if_no_progress with_reducible apply State.Sound.upd)

theorem acceptThread {s : State} (h : s.Sound) (b : Nat) :
    (s.acceptThread b).Sound := by
  unfold State.acceptThread
  try dsimp only
  repeat' (first
    | with_reducible assumption
    | (show eventOp _ = true; rfl)
    | with_reducible exact True.intro
    | with_reducible refine State.Sound.foldl ?_ (fun _ _ _ => ?_)
    | with_reducible refine State.Sound.foldlFst ?_ (fun _ _ _ => ?_)
    | with_reducible refine State.Sound.ite (fun _ => ?_) (fun _ => ?_)
    | split
    | fail_if_no_progress with_reducible apply State.Sound.upd
    | dsimp only)

theorem logArray {s : State} (h : s.Sound) (pa : Nat) (sev : Nat) (bit : Nat) (multi : Bool) :
    (s.logArray pa sev bit multi).1.Sound := by
  unfold State.logArray
  try dsimp only
  repeat' (first
    | with_reducible assumption
    | with_reducible apply State.Sound.setHbmLog)

theorem logArray_eq {s : State} (h : s.Sound) (pa : Nat) (sev : Nat) (bit : Nat) (multi : Bool)  {u_ : State} {x_ : Word} (e_ : (s.logArray pa sev bit multi) = (u_, x_)) : u_.Sound := by
  have := h.logArray pa sev bit multi
  rw [e_] at this
  exact this

theorem startWalk {s : State} (h : s.Sound) (cluster : Nat) (root : Nat) (va : Nat) :
    (s.startWalk cluster root va).Sound := by
  unfold State.startWalk
  try dsimp only
  repeat' (first
    | with_reducible assumption
    | (show eventOp _ = true; rfl)
    | with_reducible apply State.Sound.sched
    | with_reducible refine State.Sound.foldl ?_ (fun _ _ _ => ?_)
    | with_reducible refine State.Sound.foldlFst ?_ (fun _ _ _ => ?_)
    | with_reducible refine State.Sound.ite (fun _ => ?_) (fun _ => ?_)
    | split
    | fail_if_no_progress with_reducible apply State.Sound.upd)

theorem sendRes {s : State} (h : s.Sound) (p : Packet) : (s.sendRes p).Sound := by
  unfold State.sendRes
  exact State.Sound.ite (fun _ => h.fresh.schedRes _ _) fun _ => State.Sound.ite (fun _ => h.inject _ _) fun _ => h.sendReq _ _ _

theorem startCollapse {s : State} (h : s.Sound) (cluster : Nat) (root : Nat) (va : Nat) :
    (s.startCollapse cluster root va).Sound := by
  unfold State.startCollapse
  try dsimp only
  repeat' (first
    | with_reducible assumption
    | (show eventOp _ = true; rfl)
    | with_reducible exact True.intro
    | with_reducible apply State.Sound.sendRes
    | with_reducible refine State.Sound.foldl ?_ (fun _ _ _ => ?_)
    | with_reducible refine State.Sound.foldlFst ?_ (fun _ _ _ => ?_)
    | with_reducible refine State.Sound.ite (fun _ => ?_) (fun _ => ?_)
    | split
    | fail_if_no_progress with_reducible apply State.Sound.upd
    | dsimp only)

theorem memRecord {s : State} (h : s.Sound) (ltag : Nat) (unit : Nat) (cls : Nat) (cause : Nat) (pa : Nat) (detail : Word) :
    (s.memRecord ltag unit cls cause pa detail).Sound := by
  unfold State.memRecord
  try dsimp only
  repeat' (first
    | with_reducible assumption
    | (show eventOp _ = true; rfl)
    | with_reducible exact True.intro
    | with_reducible apply State.Sound.record
    | with_reducible refine State.Sound.foldl ?_ (fun _ _ _ => ?_)
    | with_reducible refine State.Sound.foldlFst ?_ (fun _ _ _ => ?_)
    | with_reducible refine State.Sound.ite (fun _ => ?_) (fun _ => ?_)
    | split
    | fail_if_no_progress with_reducible apply State.Sound.upd
    | dsimp only)

theorem arrayUe {s : State} (h : s.Sound) (ltag unit pa : Nat) : (s.arrayUe ltag unit pa).1.Sound := by
  unfold State.arrayUe; dsimp only
  exact (h.logArray _ _ _ _).memRecord _ _ _ _ _ _

theorem arrayUe_eq {s : State} (h : s.Sound) (ltag unit pa : Nat) {u_ : State} {x_ : Poison} (e_ : s.arrayUe ltag unit pa = (u_, x_)) : u_.Sound := by
  have := h.arrayUe ltag unit pa
  rw [e_] at this
  exact this

theorem eccBlock {s : State} (h : s.Sound) (ltag : Nat) (unit : Nat) (pa : Nat) (b : BlockW) :
    (s.eccBlock ltag unit pa b).1.Sound := by
  unfold State.eccBlock
  try dsimp only
  repeat' (first
    | with_reducible assumption
    | (show eventOp _ = true; rfl)
    | with_reducible exact True.intro
    | with_reducible apply State.Sound.arrayUe
    | with_reducible refine State.Sound.arrayUe_eq ?_ (by with_reducible assumption)
    | with_reducible refine State.Sound.foldl ?_ (fun _ _ _ => ?_)
    | with_reducible refine State.Sound.foldlFst ?_ (fun _ _ _ => ?_)
    | with_reducible refine State.Sound.ite (fun _ => ?_) (fun _ => ?_)
    | split
    | fail_if_no_progress with_reducible apply State.Sound.upd
    | dsimp only)

theorem eccBlock_eq {s : State} (h : s.Sound) (ltag : Nat) (unit : Nat) (pa : Nat) (b : BlockW)  {u_ : State} {x_ : BlockW} (e_ : (s.eccBlock ltag unit pa b) = (u_, x_)) : u_.Sound := by
  have := h.eccBlock ltag unit pa b
  rw [e_] at this
  exact this

theorem ueReads {s : State} (h : s.Sound) (ltag : Nat) (unit : Nat) (pas : List Nat) :
    (s.ueReads ltag unit pas).Sound := by
  unfold State.ueReads
  try dsimp only
  repeat' (first
    | with_reducible assumption
    | (show eventOp _ = true; rfl)
    | with_reducible exact True.intro
    | with_reducible apply State.Sound.arrayUe
    | with_reducible refine State.Sound.arrayUe_eq ?_ (by with_reducible assumption)
    | with_reducible refine State.Sound.foldl ?_ (fun _ _ _ => ?_)
    | with_reducible refine State.Sound.foldlFst ?_ (fun _ _ _ => ?_)
    | with_reducible refine State.Sound.ite (fun _ => ?_) (fun _ => ?_)
    | split
    | fail_if_no_progress with_reducible apply State.Sound.upd
    | dsimp only)

theorem eccVal {s : State} (h : s.Sound) (ltag : Nat) (unit : Nat) (pa : Nat) (v : Val) :
    (s.eccVal ltag unit pa v).1.Sound := by
  unfold State.eccVal
  try dsimp only
  repeat' (first
    | with_reducible assumption
    | (show eventOp _ = true; rfl)
    | with_reducible exact True.intro
    | with_reducible apply State.Sound.arrayUe
    | with_reducible refine State.Sound.arrayUe_eq ?_ (by with_reducible assumption)
    | with_reducible refine State.Sound.foldl ?_ (fun _ _ _ => ?_)
    | with_reducible refine State.Sound.foldlFst ?_ (fun _ _ _ => ?_)
    | with_reducible refine State.Sound.ite (fun _ => ?_) (fun _ => ?_)
    | split
    | fail_if_no_progress with_reducible apply State.Sound.upd
    | dsimp only)

theorem eccVal_eq {s : State} (h : s.Sound) (ltag : Nat) (unit : Nat) (pa : Nat) (v : Val)  {u_ : State} {x_ : Val} (e_ : (s.eccVal ltag unit pa v) = (u_, x_)) : u_.Sound := by
  have := h.eccVal ltag unit pa v
  rw [e_] at this
  exact this

theorem deliverWalk {s : State} (h : s.Sound) (t : Thread) (root : Nat) (va : Nat) (kind : Nat) :
    (s.deliverWalk t root va kind).Sound := by
  unfold State.deliverWalk
  try dsimp only
  repeat' (first
    | with_reducible assumption
    | with_reducible apply State.Sound.fault
    | with_reducible refine State.Sound.foldl ?_ (fun _ _ _ => ?_)
    | with_reducible refine State.Sound.foldlFst ?_ (fun _ _ _ => ?_)
    | with_reducible refine State.Sound.ite (fun _ => ?_) (fun _ => ?_)
    | split
    | fail_if_no_progress with_reducible apply State.Sound.upd)

theorem parkOn {s : State} (h : s.Sound) (t : Thread) (w : WaitFor) : (s.parkOn t w).Sound := by
  unfold State.parkOn
  cases w with
  | walk va kind =>
    dsimp only
    split
    · exact h.deliverWalk _ _ _ _
    · exact (h.startWalk _ _ _).park _ _
  | hold va => exact (h.startCollapse _ _ _).park _ _
  | _ => exact h.park _ _

theorem cacheReply {s : State} (h : s.Sound) (src : Nat) (tag : Nat) (value : Word) (status : Nat) :
    (s.cacheReply src tag value status).Sound := by
  unfold State.cacheReply
  try dsimp only
  repeat' (first
    | with_reducible assumption
    | with_reducible refine State.Sound.foldl ?_ (fun _ _ _ => ?_)
    | with_reducible refine State.Sound.foldlFst ?_ (fun _ _ _ => ?_)
    | with_reducible refine State.Sound.ite (fun _ => ?_) (fun _ => ?_)
    | split
    | fail_if_no_progress with_reducible apply State.Sound.upd)

theorem create {s : State} (h : s.Sound) (l : Launch) (c : Crew) (tid : Nat) (pc : Word) (base : BitVec 3) (args : List Word) (f : Thread → Thread) :
    (s.create l c tid pc base args f).Sound := by
  unfold State.create
  try dsimp only
  repeat' (first
    | with_reducible assumption
    | with_reducible apply State.Sound.setThread
    | with_reducible refine State.Sound.foldl ?_ (fun _ _ _ => ?_)
    | with_reducible refine State.Sound.foldlFst ?_ (fun _ _ _ => ?_)
    | with_reducible refine State.Sound.ite (fun _ => ?_) (fun _ => ?_)
    | split)

theorem touch {s : State} (h : s.Sound) (pa : Nat) (n : Nat) (w : Option ThreadRef) :
    (s.touch pa n w).Sound := by
  unfold State.touch
  try dsimp only
  repeat' (first
    | with_reducible assumption
    | (show eventOp _ = true; rfl)
    | with_reducible apply State.Sound.sched
    | with_reducible refine State.Sound.foldl ?_ (fun _ _ _ => ?_)
    | with_reducible refine State.Sound.foldlFst ?_ (fun _ _ _ => ?_)
    | with_reducible refine State.Sound.ite (fun _ => ?_) (fun _ => ?_))

theorem storeS1 {s : State} (h : s.Sound) (tag : Nat) (u : Nat) (off : Nat) (v : Val) :
    (s.storeS1 tag u off v).Sound := by
  unfold State.storeS1
  try dsimp only
  repeat' (first
    | with_reducible assumption
    | (show eventOp _ = true; rfl)
    | with_reducible exact True.intro
    | with_reducible apply State.Sound.touch
    | with_reducible apply State.Sound.store
    | with_reducible refine State.Sound.foldl ?_ (fun _ _ _ => ?_)
    | with_reducible refine State.Sound.foldlFst ?_ (fun _ _ _ => ?_)
    | with_reducible refine State.Sound.ite (fun _ => ?_) (fun _ => ?_)
    | split
    | fail_if_no_progress with_reducible apply State.Sound.upd
    | dsimp only)

theorem sendPosted {s : State} (h : s.Sound) (t : Thread) (p : Packet) :
    (s.sendPosted t p).Sound := by
  unfold State.sendPosted
  try dsimp only
  repeat' (first
    | with_reducible assumption
    | with_reducible apply State.Sound.onLaunch
    | with_reducible apply State.Sound.injectAfter)

theorem threadReq {s : State} (h : s.Sound) (t : Thread) (p : Packet) (w : ReqWhat) :
    (s.threadReq t p w).Sound := by
  unfold State.threadReq
  try dsimp only
  repeat' (first
    | with_reducible assumption
    | with_reducible apply State.Sound.sendReqAfter)

theorem replyTo {s : State} (h : s.Sound) (p : Packet) (kind : Nat) (status : Nat) (aux : Nat) (payload : List Word) (psn : Nat) :
    (s.replyTo p kind status aux payload psn).Sound := by
  unfold State.replyTo
  try dsimp only
  repeat' (first
    | with_reducible assumption
    | with_reducible apply State.Sound.inject)

theorem sendFlush {s : State} (h : s.Sound) (t : Thread) (f : Flow) (w : ReqWhat) :
    (s.sendFlush t f w).Sound := by
  unfold State.sendFlush
  try dsimp only
  repeat' (first
    | with_reducible assumption
    | (show eventOp _ = true; rfl)
    | with_reducible exact True.intro
    | with_reducible apply State.Sound.threadReq
    | with_reducible refine State.Sound.foldl ?_ (fun _ _ _ => ?_)
    | with_reducible refine State.Sound.foldlFst ?_ (fun _ _ _ => ?_)
    | with_reducible refine State.Sound.ite (fun _ => ?_) (fun _ => ?_)
    | split
    | fail_if_no_progress with_reducible apply State.Sound.upd
    | dsimp only)

theorem flushEach {s : State} (h : s.Sound) (t : Thread) (w : Flow → ReqWhat) (fs : List Flow) (tags : List Nat) :
    (s.flushEach t w fs tags).1.Sound := by
  unfold State.flushEach
  exact State.Sound.foldlFst h fun p f hp => hp.sendFlush _ _ _

theorem flushEach_eq {s : State} (h : s.Sound) (t : Thread) (w : Flow → ReqWhat) (fs : List Flow) (tags : List Nat) {u_ : State} {x_ : List Nat}
    (e_ : s.flushEach t w fs tags = (u_, x_)) : u_.Sound := by
  have := h.flushEach t w fs tags
  rw [e_] at this
  exact this

theorem portData {s : State} (h : s.Sound) (c : Crew) (port : Nat) (slot : Nat) :
    (s.portData c port slot).Sound := by
  unfold State.portData
  try dsimp only
  repeat' (first
    | with_reducible assumption
    | with_reducible apply State.Sound.endLaunch
    | with_reducible apply State.Sound.record)

theorem releaseHeld {s : State} (h : s.Sound) (t : Thread) (w : WaitFor) :
    (s.releaseHeld t w).Sound := by
  unfold State.releaseHeld
  try dsimp only
  repeat' (first
    | with_reducible assumption
    | (show eventOp _ = true; rfl)
    | with_reducible exact True.intro
    | with_reducible apply State.Sound.setThread
    | with_reducible refine State.Sound.foldl ?_ (fun _ _ _ => ?_)
    | with_reducible refine State.Sound.foldlFst ?_ (fun _ _ _ => ?_)
    | with_reducible refine State.Sound.ite (fun _ => ?_) (fun _ => ?_)
    | split
    | fail_if_no_progress with_reducible apply State.Sound.upd
    | dsimp only)

theorem followTwin {s : State} (h : s.Sound) (v : State) (old : Thread) (hv : v.Sound) :
    (s.followTwin v old).Sound := by
  unfold State.followTwin
  try dsimp only
  repeat' (first
    | with_reducible assumption
    | (show eventOp _ = true; rfl)
    | with_reducible exact True.intro
    | with_reducible apply State.Sound.setThread
    | with_reducible refine State.Sound.foldl ?_ (fun _ _ _ => ?_)
    | with_reducible refine State.Sound.foldlFst ?_ (fun _ _ _ => ?_)
    | with_reducible refine State.Sound.ite (fun _ => ?_) (fun _ => ?_)
    | split
    | fail_if_no_progress with_reducible apply State.Sound.upd
    | dsimp only)

theorem arriveInput {s : State} (h : s.Sound) (e : Event) (he : eventOp e.op = true) : (s.arriveInput e).Sound := h.schedEv _ _ _ he

theorem ageAll {s : State} (h : s.Sound) : s.ageAll.Sound :=
  ⟨h.mem, h.desc, h.psn, h.descPsn, slotsRise_map _ (fun t => by split <;> rfl) (fun t => by split <;> rfl) _ h.threads,
    h.inputs, h.agenda⟩

theorem wakeCopies {s : State} (h : s.Sound)  :
    (s.wakeCopies).Sound := by
  unfold State.wakeCopies
  try dsimp only
  repeat' (first
    | with_reducible assumption
    | (show eventOp _ = true; rfl)
    | with_reducible exact True.intro
    | with_reducible apply State.Sound.sched
    | with_reducible apply State.Sound.onUnit
    | with_reducible refine State.Sound.foldl ?_ (fun _ _ _ => ?_)
    | with_reducible refine State.Sound.foldlFst ?_ (fun _ _ _ => ?_)
    | with_reducible refine State.Sound.ite (fun _ => ?_) (fun _ => ?_)
    | split
    | fail_if_no_progress with_reducible apply State.Sound.upd
    | dsimp only)

theorem retryHalts {s : State} (h : s.Sound)  :
    (s.retryHalts).Sound := by
  unfold State.retryHalts
  try dsimp only
  repeat' (first
    | with_reducible assumption
    | (show eventOp _ = true; rfl)
    | with_reducible apply State.Sound.sched
    | with_reducible refine State.Sound.foldl ?_ (fun _ _ _ => ?_))

theorem settlePtr {s : State} (h : s.Sound)  :
    (s.settlePtr).Sound := by
  unfold State.settlePtr
  try dsimp only
  repeat' (first
    | with_reducible assumption
    | with_reducible apply State.Sound.onUnit
    | with_reducible refine State.Sound.foldl ?_ (fun _ _ _ => ?_)
    | with_reducible refine State.Sound.foldlFst ?_ (fun _ _ _ => ?_)
    | with_reducible refine State.Sound.ite (fun _ => ?_) (fun _ => ?_))

theorem nextIssue {s : State} (h : s.Sound)  :
    ∀ u x, s.nextIssue = some (u, x) → u.Sound := by
  unfold State.nextIssue
  try dsimp only
  repeat' (first
    | with_reducible assumption
    | with_reducible apply State.Sound.settlePtr
    | with_reducible refine State.Sound.foldl ?_ (fun _ _ _ => ?_)
    | with_reducible refine State.Sound.foldlFst ?_ (fun _ _ _ => ?_)
    | with_reducible refine State.Sound.ite (fun _ => ?_) (fun _ => ?_)
    | split
    | fail_if_no_progress with_reducible apply State.Sound.upd
    | dsimp only
    | (intro _ _ hx; injection hx; done)
    | (intro _ _ hx; injection hx with hx; injection hx with hx _; subst hx))

theorem periodic {s : State} (h : s.Sound)  :
    (s.periodic).Sound := by
  unfold State.periodic
  try dsimp only
  repeat' (first
    | with_reducible assumption
    | (show eventOp _ = true; rfl)
    | with_reducible apply State.Sound.sched
    | with_reducible refine State.Sound.foldl ?_ (fun _ _ _ => ?_)
    | with_reducible refine State.Sound.foldlFst ?_ (fun _ _ _ => ?_)
    | with_reducible refine State.Sound.ite (fun _ => ?_) (fun _ => ?_))

theorem serveHeads {s : State} (h : s.Sound)  :
    (s.serveHeads).Sound := by
  unfold State.serveHeads
  try dsimp only
  repeat' (first
    | with_reducible assumption
    | (show eventOp _ = true; rfl)
    | with_reducible apply State.Sound.sched
    | with_reducible refine State.Sound.foldl ?_ (fun _ _ _ => ?_)
    | with_reducible refine State.Sound.foldlFst ?_ (fun _ _ _ => ?_)
    | with_reducible refine State.Sound.ite (fun _ => ?_) (fun _ => ?_))

theorem takeSem {s : State} (h : s.Sound) (t : Thread) (i : BitVec 3) (v : Nat) :
    (s.takeSem t i v).Sound := by
  unfold State.takeSem
  try dsimp only
  repeat' (first
    | with_reducible assumption
    | with_reducible apply State.Sound.done)

theorem wakeOne {s : State} (h : s.Sound) (t : Thread) :
    (s.wakeOne t).Sound := by
  unfold State.wakeOne
  try dsimp only
  repeat' (first
    | with_reducible assumption
    | (show eventOp _ = true; rfl)
    | with_reducible exact True.intro
    | with_reducible apply State.Sound.setThread
    | with_reducible apply State.Sound.takeSem
    | with_reducible apply State.Sound.sched
    | with_reducible apply State.Sound.switchPoint
    | with_reducible apply State.Sound.releaseHeld
    | with_reducible apply State.Sound.settle
    | with_reducible refine State.Sound.foldl ?_ (fun _ _ _ => ?_)
    | with_reducible refine State.Sound.foldlFst ?_ (fun _ _ _ => ?_)
    | with_reducible refine State.Sound.ite (fun _ => ?_) (fun _ => ?_)
    | split
    | fail_if_no_progress with_reducible apply State.Sound.upd
    | dsimp only)

theorem wakeAll {s : State} (h : s.Sound)  :
    (s.wakeAll).Sound := by
  unfold State.wakeAll
  try dsimp only
  repeat' (first
    | with_reducible assumption
    | (show eventOp _ = true; rfl)
    | with_reducible exact True.intro
    | with_reducible apply State.Sound.wakeCopies
    | with_reducible apply State.Sound.wakeOne
    | with_reducible refine State.Sound.foldl ?_ (fun _ _ _ => ?_)
    | with_reducible refine State.Sound.foldlFst ?_ (fun _ _ _ => ?_)
    | with_reducible refine State.Sound.ite (fun _ => ?_) (fun _ => ?_)
    | split
    | fail_if_no_progress with_reducible apply State.Sound.upd
    | dsimp only)

theorem tick {s : State} (h : s.Sound)  :
    (s.tick).Sound := by
  unfold State.tick
  try dsimp only
  repeat' (first
    | with_reducible assumption
    | (show eventOp _ = true; rfl)
    | with_reducible exact True.intro
    | with_reducible apply State.Sound.ageAll
    | with_reducible apply State.Sound.wakeAll
    | with_reducible apply State.Sound.settlePtr
    | with_reducible apply State.Sound.serveHeads
    | with_reducible apply State.Sound.periodic
    | with_reducible apply State.Sound.retryHalts
    | with_reducible refine State.Sound.foldl ?_ (fun _ _ _ => ?_)
    | with_reducible refine State.Sound.foldlFst ?_ (fun _ _ _ => ?_)
    | with_reducible refine State.Sound.ite (fun _ => ?_) (fun _ => ?_)
    | split
    | fail_if_no_progress with_reducible apply State.Sound.upd
    | dsimp only)

theorem fetchFails {s : State} (h : s.Sound) (t : Thread) (x0 : Fetch) :
    (s.fetchFails t x0).Sound := by
  unfold State.fetchFails
  try dsimp only
  repeat' (first
    | with_reducible assumption
    | (show eventOp _ = true; rfl)
    | with_reducible exact True.intro
    | with_reducible apply State.Sound.fault
    | with_reducible apply State.Sound.parkOn
    | with_reducible apply State.Sound.threadReq
    | with_reducible apply State.Sound.park
    | with_reducible apply State.Sound.eccVal
    | with_reducible refine State.Sound.eccVal_eq ?_ (by with_reducible assumption)
    | with_reducible apply State.Sound.consume
    | with_reducible refine State.Sound.foldl ?_ (fun _ _ _ => ?_)
    | with_reducible refine State.Sound.foldlFst ?_ (fun _ _ _ => ?_)
    | with_reducible refine State.Sound.ite (fun _ => ?_) (fun _ => ?_)
    | split
    | fail_if_no_progress with_reducible apply State.Sound.upd
    | dsimp only)

theorem skipIf {s : State} (h : s.Sound) (t : Thread) (words : Nat) (sm : Bool) (holds : Bool) (k : BitVec 2) :
    (s.skipIf t words sm holds k).Sound := by
  unfold State.skipIf
  try dsimp only
  repeat' (first
    | with_reducible assumption
    | with_reducible apply State.Sound.done)

theorem annul {s : State} (h : s.Sound) (t : Thread) (w : W32) :
    (s.annul t w).Sound := by
  unfold State.annul
  try dsimp only
  repeat' (first
    | with_reducible assumption
    | with_reducible apply State.Sound.switchPoint
    | with_reducible apply State.Sound.setThread
    | with_reducible refine State.Sound.foldl ?_ (fun _ _ _ => ?_)
    | with_reducible refine State.Sound.foldlFst ?_ (fun _ _ _ => ?_)
    | with_reducible refine State.Sound.ite (fun _ => ?_) (fun _ => ?_))

theorem callTo {s : State} (h : s.Sound) (t : Thread) (target : Word) (sm : Bool) :
    (s.callTo t target sm).Sound := by
  unfold State.callTo
  try dsimp only
  repeat' (first
    | with_reducible assumption
    | (show eventOp _ = true; rfl)
    | with_reducible exact True.intro
    | with_reducible apply State.Sound.switchPoint
    | with_reducible apply State.Sound.park
    | with_reducible refine State.Sound.pushFrame ?_ _ _ _ _ (by with_reducible assumption)
    | with_reducible apply State.Sound.fault
    | with_reducible apply State.Sound.doneAt
    | with_reducible apply State.Sound.thenPark
    | with_reducible refine State.Sound.foldl ?_ (fun _ _ _ => ?_)
    | with_reducible refine State.Sound.foldlFst ?_ (fun _ _ _ => ?_)
    | with_reducible refine State.Sound.ite (fun _ => ?_) (fun _ => ?_)
    | split
    | fail_if_no_progress with_reducible apply State.Sound.upd
    | dsimp only)

theorem moveS1 {s : State} (h : s.Sound) (st : Nat) (old new : List UnitBind) : (s.moveS1 st old new).Sound := by
  unfold State.moveS1 moveMap
  refine ⟨Memory.wf_foldl _ (fun m c hm => ?_) _ _ rfl, desc_foldl _ (fun m c hm => ?_) _ _ ⟨rfl, rfl⟩, rising_foldl _ (fun m c hm => ?_) _ _ rfl,
    rising_foldl _ (fun m c hm => ?_) _ _ rfl, h.threads, h.inputs, h.agenda⟩
  · split
    · exact wrByte_wf _ _ _ hm
    · exact hm
  · split
    · exact wrDesc_ok _ _ _ hm
    · exact hm
  · split
    · exact rising_mset _ _ _ hm
    · exact hm
  · split
    · exact rising_mset _ _ _ hm
    · exact hm

theorem mailboxLog {s : State} (h : s.Sound) (i : Nat) :
    (s.mailboxLog i).Sound := by
  unfold State.mailboxLog
  try dsimp only
  repeat' (first
    | with_reducible assumption
    | (show eventOp _ = true; rfl)
    | with_reducible exact True.intro
    | with_reducible apply State.Sound.msi
    | with_reducible refine State.Sound.foldl ?_ (fun _ _ _ => ?_)
    | with_reducible refine State.Sound.foldlFst ?_ (fun _ _ _ => ?_)
    | with_reducible refine State.Sound.ite (fun _ => ?_) (fun _ => ?_)
    | split
    | fail_if_no_progress with_reducible apply State.Sound.upd
    | dsimp only)

theorem setPort {s : State} (h : s.Sound) (p : Nat) (x : LPort) :
    (s.setPort p x).Sound := by
  unfold State.setPort
  try dsimp only
  repeat' (first
    | with_reducible assumption
    | with_reducible refine State.Sound.foldl ?_ (fun _ _ _ => ?_)
    | with_reducible refine State.Sound.foldlFst ?_ (fun _ _ _ => ?_)
    | with_reducible refine State.Sound.ite (fun _ => ?_) (fun _ => ?_)
    | split
    | fail_if_no_progress with_reducible apply State.Sound.upd)

theorem writeHeld {s : State} (h : s.Sound) (p n : Nat) : (s.writeHeld p n).Sound := by
  induction n generalizing s with
  | zero => exact h
  | succ n ih =>
    unfold State.writeHeld
    dsimp only
    split
    · refine State.Sound.ite (fun _ => h) (fun _ => ih ?_)
      split
      · exact ((h.foldl fun s a hs => hs.store _ _ _).setPort _ _).msi _
      · exact (h.foldl fun s a hs => hs.store _ _ _).setPort _ _
    · exact h

theorem serveRing {s : State} (h : s.Sound) (n : Nat) : (s.serveRing n).Sound := by
  induction n generalizing s with
  | zero => exact h
  | succ n ih =>
    unfold State.serveRing
    refine State.Sound.ite (fun _ => h) (fun _ => ?_)
    dsimp only
    refine State.Sound.ite (fun _ => h.sched _ _ _ rfl) (fun _ => ?_)
    split
    · exact (h.ueReads _ _ _).upd.upd.schedEv _ _ _ rfl
    · exact (h.ueReads _ _ _).upd.upd.schedEv _ _ _ rfl
    · exact (h.ueReads _ _ _).upd.upd.schedEv _ _ _ rfl
    · exact (h.ueReads _ _ _).upd.upd.schedEv _ _ _ rfl
    · exact ih ((h.ueReads _ _ _).upd.upd.store _ _ _)

theorem placeWrite {s : State} (h : s.Sound) (hi : Bool) (v : Word) :
    (s.placeWrite hi v).Sound := by
  unfold State.placeWrite
  try dsimp only
  repeat' (first
    | with_reducible assumption
    | with_reducible apply State.Sound.zero
    | with_reducible refine State.Sound.foldl ?_ (fun _ _ _ => ?_)
    | with_reducible refine State.Sound.foldlFst ?_ (fun _ _ _ => ?_)
    | with_reducible refine State.Sound.ite (fun _ => ?_) (fun _ => ?_)
    | split
    | fail_if_no_progress with_reducible apply State.Sound.upd)

theorem commitRecord {s : State} (h : s.Sound) (p : Nat) (r : QRec) :
    (s.commitRecord p r).Sound := by
  unfold State.commitRecord
  try dsimp only
  repeat' (first
    | with_reducible assumption
    | with_reducible apply State.Sound.setPort
    | with_reducible refine State.Sound.foldl ?_ (fun _ _ _ => ?_)
    | with_reducible refine State.Sound.foldlFst ?_ (fun _ _ _ => ?_)
    | with_reducible refine State.Sound.ite (fun _ => ?_) (fun _ => ?_))

theorem sendPending {s : State} (h : s.Sound) (v : Nat) :
    (s.sendPending v).Sound := by
  unfold State.sendPending
  try dsimp only
  repeat' (first
    | with_reducible assumption
    | with_reducible refine State.Sound.foldl ?_ (fun _ _ _ => ?_)
    | with_reducible refine State.Sound.foldlFst ?_ (fun _ _ _ => ?_)
    | with_reducible refine State.Sound.ite (fun _ => ?_) (fun _ => ?_)
    | split
    | fail_if_no_progress with_reducible apply State.Sound.upd)

theorem mailboxWrite {s : State} (h : s.Sound) (o : Nat) (v : Word) (m : Word) (act : Bool) :
    (s.mailboxWrite o v m act).Sound := by
  unfold State.mailboxWrite
  try dsimp only
  repeat' (first
    | with_reducible assumption
    | (show eventOp _ = true; rfl)
    | with_reducible exact True.intro
    | with_reducible apply State.Sound.mailboxLog
    | with_reducible apply State.Sound.msi
    | with_reducible refine State.Sound.foldl ?_ (fun _ _ _ => ?_)
    | with_reducible refine State.Sound.foldlFst ?_ (fun _ _ _ => ?_)
    | with_reducible refine State.Sound.ite (fun _ => ?_) (fun _ => ?_)
    | split
    | fail_if_no_progress with_reducible apply State.Sound.upd
    | dsimp only)

theorem noteUnsupported {s : State} (h : s.Sound)  :
    (s.noteUnsupported).Sound := by
  unfold State.noteUnsupported
  try dsimp only
  repeat' (first
    | with_reducible assumption
    | (show eventOp _ = true; rfl)
    | with_reducible exact True.intro
    | with_reducible refine State.Sound.foldl ?_ (fun _ _ _ => ?_)
    | with_reducible refine State.Sound.foldlFst ?_ (fun _ _ _ => ?_)
    | with_reducible refine State.Sound.ite (fun _ => ?_) (fun _ => ?_)
    | split
    | fail_if_no_progress with_reducible apply State.Sound.upd
    | dsimp only)

theorem descWindow {s : State} (h : s.Sound) (off : Nat) (size : Nat) (v : Word) :
    (s.descWindow off size v).Sound := by
  unfold State.descWindow
  try dsimp only
  repeat' (first
    | with_reducible assumption
    | with_reducible apply State.Sound.setDesc
    | with_reducible refine State.Sound.foldl ?_ (fun _ _ _ => ?_))

theorem setRing {s : State} (h : s.Sound) (p : Nat) (f : Nat) (r : Nat) (x : Ring) :
    (s.setRing p f r x).Sound := by
  unfold State.setRing
  try dsimp only
  repeat' (first
    | with_reducible assumption
    | with_reducible refine State.Sound.foldl ?_ (fun _ _ _ => ?_)
    | with_reducible refine State.Sound.foldlFst ?_ (fun _ _ _ => ?_)
    | with_reducible refine State.Sound.ite (fun _ => ?_) (fun _ => ?_)
    | split
    | fail_if_no_progress with_reducible apply State.Sound.upd)

theorem regLoad {s : State} (h : s.Sound) (off : Nat) (n : Nat) :
    (s.regLoad off n).2.Sound := by
  unfold State.regLoad
  try dsimp only
  repeat' (first
    | with_reducible assumption
    | with_reducible apply State.Sound.setPort
    | with_reducible refine State.Sound.foldl ?_ (fun _ _ _ => ?_)
    | with_reducible refine State.Sound.foldlFst ?_ (fun _ _ _ => ?_)
    | with_reducible refine State.Sound.ite (fun _ => ?_) (fun _ => ?_))

theorem regLoad_eq {s : State} (h : s.Sound) (off : Nat) (n : Nat)  {x_ : Word} {u_ : State} (e_ : (s.regLoad off n) = (x_, u_)) : u_.Sound := by
  have := h.regLoad off n
  rw [e_] at this
  exact this

theorem hostLog {s : State} (h : s.Sound)  :
    (s.hostLog).Sound := by
  unfold State.hostLog
  try dsimp only
  repeat' (first
    | with_reducible assumption
    | (show eventOp _ = true; rfl)
    | with_reducible exact True.intro
    | with_reducible apply State.Sound.noteUnsupported
    | with_reducible refine State.Sound.foldl ?_ (fun _ _ _ => ?_)
    | with_reducible refine State.Sound.foldlFst ?_ (fun _ _ _ => ?_)
    | with_reducible refine State.Sound.ite (fun _ => ?_) (fun _ => ?_)
    | split
    | fail_if_no_progress with_reducible apply State.Sound.upd
    | dsimp only)

theorem msixWrite {s : State} (h : s.Sound) (v : Nat) (h : Nat) (x : Word) (m : Word) :
    (s.msixWrite v h x m).Sound := by
  unfold State.msixWrite
  try dsimp only
  repeat' (first
    | with_reducible assumption
    | with_reducible apply State.Sound.sendPending
    | with_reducible refine State.Sound.foldl ?_ (fun _ _ _ => ?_)
    | with_reducible refine State.Sound.foldlFst ?_ (fun _ _ _ => ?_)
    | with_reducible refine State.Sound.ite (fun _ => ?_) (fun _ => ?_)
    | split
    | fail_if_no_progress with_reducible apply State.Sound.upd)

theorem ringStore {s : State} (h : s.Sound) (p : Nat) (f : Nat) (r : Nat) (v : Word) (m : Word) :
    (s.ringStore p f r v m).Sound := by
  unfold State.ringStore
  try dsimp only
  repeat' (first
    | with_reducible assumption
    | (show eventOp _ = true; rfl)
    | with_reducible apply State.Sound.setRing
    | with_reducible apply State.Sound.sched
    | with_reducible refine State.Sound.foldl ?_ (fun _ _ _ => ?_)
    | with_reducible refine State.Sound.foldlFst ?_ (fun _ _ _ => ?_)
    | with_reducible refine State.Sound.ite (fun _ => ?_) (fun _ => ?_)
    | split
    | fail_if_no_progress with_reducible apply State.Sound.upd)

theorem portWrite {s : State} (h : s.Sound) (p : Nat) (o : Nat) (v : Word) (m : Word) (act : Bool) :
    (s.portWrite p o v m act).Sound := by
  unfold State.portWrite
  try dsimp only
  repeat' (first
    | with_reducible assumption
    | with_reducible apply State.Sound.setPort
    | with_reducible apply State.Sound.commitRecord
    | with_reducible apply State.Sound.writeHeld
    | with_reducible refine State.Sound.foldl ?_ (fun _ _ _ => ?_)
    | with_reducible refine State.Sound.foldlFst ?_ (fun _ _ _ => ?_)
    | with_reducible refine State.Sound.ite (fun _ => ?_) (fun _ => ?_)
    | split)

theorem unsupportedRead {s : State} (h : s.Sound)  :
    (s.unsupportedRead).Sound := by
  unfold State.unsupportedRead
  try dsimp only
  repeat' (first
    | with_reducible assumption
    | (show eventOp _ = true; rfl)
    | with_reducible exact True.intro
    | with_reducible apply State.Sound.noteUnsupported
    | with_reducible refine State.Sound.foldl ?_ (fun _ _ _ => ?_)
    | with_reducible refine State.Sound.foldlFst ?_ (fun _ _ _ => ?_)
    | with_reducible refine State.Sound.ite (fun _ => ?_) (fun _ => ?_)
    | split
    | fail_if_no_progress with_reducible apply State.Sound.upd
    | dsimp only)

theorem dispWrite {s : State} (h : s.Sound) (o : Nat) (v : Word) (m : Word) (act : Bool) :
    (s.dispWrite o v m act).Sound := by
  unfold State.dispWrite
  try dsimp only
  repeat' (first
    | with_reducible assumption
    | (show eventOp _ = true; rfl)
    | with_reducible apply State.Sound.portWrite
    | with_reducible apply State.Sound.sched
    | with_reducible refine State.Sound.foldl ?_ (fun _ _ _ => ?_)
    | with_reducible refine State.Sound.foldlFst ?_ (fun _ _ _ => ?_)
    | with_reducible refine State.Sound.ite (fun _ => ?_) (fun _ => ?_)
    | split
    | fail_if_no_progress with_reducible apply State.Sound.upd)

theorem memoryWrite {s : State} (h : s.Sound) (o : Nat) (v : Word) (m : Word) (act : Bool) :
    (s.memoryWrite o v m act).Sound := by
  unfold State.memoryWrite
  try dsimp only
  repeat' (first
    | with_reducible assumption
    | (show eventOp _ = true; rfl)
    | with_reducible apply State.Sound.sched
    | with_reducible apply State.Sound.placeWrite
    | with_reducible apply State.Sound.serveRing
    | with_reducible refine State.Sound.foldl ?_ (fun _ _ _ => ?_)
    | with_reducible refine State.Sound.foldlFst ?_ (fun _ _ _ => ?_)
    | with_reducible refine State.Sound.ite (fun _ => ?_) (fun _ => ?_)
    | split
    | fail_if_no_progress with_reducible apply State.Sound.upd)

theorem completion {s : State} (h : s.Sound) (p : Nat) (ws : List Word) (vec : Option Nat) :
    (s.completion p ws vec).Sound := by
  unfold State.completion
  try dsimp only
  repeat' (first
    | with_reducible assumption
    | with_reducible apply State.Sound.writeHeld
    | with_reducible apply State.Sound.setPort)

theorem retime {s : State} (h : s.Sound)  :
    (s.retime).Sound := by
  unfold State.retime
  try dsimp only
  repeat' (first
    | with_reducible assumption
    | (show eventOp _ = true; rfl)
    | with_reducible exact True.intro
    | with_reducible apply State.Sound.sched
    | with_reducible refine State.Sound.foldl ?_ (fun _ _ _ => ?_)
    | with_reducible refine State.Sound.foldlFst ?_ (fun _ _ _ => ?_)
    | with_reducible refine State.Sound.ite (fun _ => ?_) (fun _ => ?_)
    | split
    | fail_if_no_progress with_reducible apply State.Sound.upd
    | dsimp only)

theorem fabricWrite {s : State} (h : s.Sound) (o : Nat) (v : Word) (m : Word) :
    (s.fabricWrite o v m).Sound := by
  unfold State.fabricWrite
  try dsimp only
  repeat' (first
    | with_reducible assumption
    | (show eventOp _ = true; rfl)
    | with_reducible exact True.intro
    | with_reducible apply State.Sound.retime
    | with_reducible refine State.Sound.foldl ?_ (fun _ _ _ => ?_)
    | with_reducible refine State.Sound.foldlFst ?_ (fun _ _ _ => ?_)
    | with_reducible refine State.Sound.ite (fun _ => ?_) (fun _ => ?_)
    | split
    | fail_if_no_progress with_reducible apply State.Sound.upd
    | dsimp only)

theorem packageWrite {s : State} (h : s.Sound) (o : Nat) (v : Word) (m : Word) :
    (s.packageWrite o v m).Sound := by
  unfold State.packageWrite
  try dsimp only
  repeat' (first
    | with_reducible assumption
    | (show eventOp _ = true; rfl)
    | with_reducible exact True.intro
    | with_reducible apply State.Sound.clearReplace
    | with_reducible refine State.Sound.foldl ?_ (fun _ _ _ => ?_)
    | with_reducible refine State.Sound.foldlFst ?_ (fun _ _ _ => ?_)
    | with_reducible refine State.Sound.ite (fun _ => ?_) (fun _ => ?_)
    | split
    | fail_if_no_progress with_reducible apply State.Sound.upd
    | dsimp only)

theorem applyBinding {s : State} (h : s.Sound) (st : Nat) :
    (s.applyBinding st).Sound := by
  unfold State.applyBinding
  try dsimp only
  repeat' (first
    | with_reducible assumption
    | (show eventOp _ = true; rfl)
    | with_reducible exact True.intro
    | with_reducible apply State.Sound.record
    | with_reducible apply State.Sound.moveS1
    | with_reducible apply State.Sound.replace
    | with_reducible refine State.Sound.foldl ?_ (fun _ _ _ => ?_)
    | with_reducible refine State.Sound.foldlFst ?_ (fun _ _ _ => ?_)
    | with_reducible refine State.Sound.ite (fun _ => ?_) (fun _ => ?_)
    | split
    | fail_if_no_progress with_reducible apply State.Sound.upd
    | dsimp only)

theorem latticeWrite {s : State} (h : s.Sound) (st : Nat) (o : Nat) (v : Word) (m : Word) :
    (s.latticeWrite st o v m).Sound := by
  unfold State.latticeWrite
  try dsimp only
  repeat' (first
    | with_reducible assumption
    | with_reducible apply State.Sound.applyBinding
    | with_reducible refine State.Sound.foldl ?_ (fun _ _ _ => ?_)
    | with_reducible refine State.Sound.foldlFst ?_ (fun _ _ _ => ?_)
    | with_reducible refine State.Sound.ite (fun _ => ?_) (fun _ => ?_)
    | split
    | fail_if_no_progress with_reducible apply State.Sound.upd)

theorem regWrite {s : State} (h : s.Sound) (o : Nat) (v : Word) (m : Word) :
    (s.regWrite o v m).Sound := by
  unfold State.regWrite
  try dsimp only
  repeat' (first
    | with_reducible assumption
    | with_reducible apply State.Sound.packageWrite
    | with_reducible apply State.Sound.dispWrite
    | with_reducible apply State.Sound.latticeWrite
    | with_reducible apply State.Sound.memoryWrite
    | with_reducible apply State.Sound.mailboxWrite
    | with_reducible apply State.Sound.fabricWrite
    | with_reducible apply State.Sound.ringStore
    | with_reducible apply State.Sound.msixWrite
    | with_reducible apply State.Sound.descWindow
    | with_reducible refine State.Sound.foldl ?_ (fun _ _ _ => ?_)
    | with_reducible refine State.Sound.foldlFst ?_ (fun _ _ _ => ?_)
    | with_reducible refine State.Sound.ite (fun _ => ?_) (fun _ => ?_))

theorem regStore {s : State} (h : s.Sound) (off : Nat) (n : Nat) (v : Word) :
    (s.regStore off n v).Sound := by
  unfold State.regStore
  try dsimp only
  repeat' (first
    | with_reducible assumption
    | with_reducible apply State.Sound.regWrite)

theorem dropSteps {s : State} (h : s.Sound) (u ch : Nat) : (s.dropSteps u ch).Sound :=
  ⟨h.mem, h.desc, h.psn, h.descPsn, h.threads, h.inputs, all_filter _ _ _ h.agenda⟩

theorem tileAgain {s : State} (h : s.Sound) (u : Nat) (id : Nat) (pa : Nat) :
    (s.tileAgain u id pa).Sound := by
  unfold State.tileAgain
  try dsimp only
  repeat' (first
    | with_reducible assumption
    | (show eventOp _ = true; rfl)
    | with_reducible exact True.intro
    | with_reducible apply State.Sound.sched
    | with_reducible apply State.Sound.engWaitsAt
    | with_reducible refine State.Sound.foldl ?_ (fun _ _ _ => ?_)
    | with_reducible refine State.Sound.foldlFst ?_ (fun _ _ _ => ?_)
    | with_reducible refine State.Sound.ite (fun _ => ?_) (fun _ => ?_)
    | split
    | fail_if_no_progress with_reducible apply State.Sound.upd
    | dsimp only)

theorem setChan {s : State} (h : s.Sound) (u : Nat) (c : Nat) (x : Chan) :
    (s.setChan u c x).Sound := by
  unfold State.setChan
  try dsimp only
  repeat' (first
    | with_reducible assumption
    | with_reducible apply State.Sound.onUnit)

theorem copyPost {s : State} (h : s.Sound) (c : Copy) (status : Nat) :
    (s.copyPost c status).Sound := by
  unfold State.copyPost
  try dsimp only
  repeat' (first
    | with_reducible assumption
    | with_reducible apply State.Sound.post
    | with_reducible refine State.Sound.foldl ?_ (fun _ _ _ => ?_)
    | with_reducible refine State.Sound.foldlFst ?_ (fun _ _ _ => ?_)
    | with_reducible refine State.Sound.ite (fun _ => ?_) (fun _ => ?_)
    | split)

theorem accept {s : State} (h : s.Sound) (c : Cmd) (entries : List (List (Nat × Nat) × Bool)) :
    (s.accept c entries).Sound := by
  unfold State.accept
  try dsimp only
  repeat' (first
    | with_reducible assumption
    | with_reducible apply State.Sound.onUnit
    | with_reducible apply State.Sound.fresh)

theorem haltNow {s : State} (h : s.Sound) (u : Nat) (ch : Nat) :
    (s.haltNow u ch).Sound := by
  unfold State.haltNow
  try dsimp only
  repeat' (first
    | with_reducible assumption
    | (show eventOp _ = true; rfl)
    | with_reducible exact True.intro
    | with_reducible apply State.Sound.sched
    | with_reducible apply State.Sound.setChan
    | with_reducible refine State.Sound.foldl ?_ (fun _ _ _ => ?_)
    | with_reducible refine State.Sound.foldlFst ?_ (fun _ _ _ => ?_)
    | with_reducible refine State.Sound.ite (fun _ => ?_) (fun _ => ?_)
    | split
    | fail_if_no_progress with_reducible apply State.Sound.upd
    | dsimp only)

theorem onCmd {s : State} (h : s.Sound) (u : Nat) (id : Nat) (f : Cmd → Cmd) :
    (s.onCmd u id f).Sound := by
  unfold State.onCmd
  try dsimp only
  repeat' (first
    | with_reducible assumption
    | with_reducible apply State.Sound.onUnit)

theorem copyAgain {s : State} (h : s.Sound) (u : Nat) (ch : Nat) (pa : Nat) :
    (s.copyAgain u ch pa).Sound := by
  unfold State.copyAgain
  try dsimp only
  repeat' (first
    | with_reducible assumption
    | (show eventOp _ = true; rfl)
    | with_reducible exact True.intro
    | with_reducible apply State.Sound.sched
    | with_reducible apply State.Sound.engWaitsAt
    | with_reducible refine State.Sound.foldl ?_ (fun _ _ _ => ?_)
    | with_reducible refine State.Sound.foldlFst ?_ (fun _ _ _ => ?_)
    | with_reducible refine State.Sound.ite (fun _ => ?_) (fun _ => ?_)
    | split
    | fail_if_no_progress with_reducible apply State.Sound.upd
    | dsimp only)

theorem consumed {s : State} (h : s.Sound) (u : Nat) (id : Nat) (status : Nat) :
    (s.consumed u id status).Sound := by
  unfold State.consumed
  try dsimp only
  repeat' (first
    | with_reducible assumption
    | with_reducible apply State.Sound.onCmd
    | with_reducible apply State.Sound.onUnit
    | with_reducible apply State.Sound.post
    | with_reducible refine State.Sound.foldl ?_ (fun _ _ _ => ?_)
    | with_reducible refine State.Sound.foldlFst ?_ (fun _ _ _ => ?_)
    | with_reducible refine State.Sound.ite (fun _ => ?_) (fun _ => ?_)
    | split)

theorem copyGo {s : State} (h : s.Sound) (u : Nat) (ch : Nat) (x : Chan) (c : Copy) :
    (s.copyGo u ch x c).Sound := by
  unfold State.copyGo
  try dsimp only
  repeat' (first
    | with_reducible assumption
    | (show eventOp _ = true; rfl)
    | with_reducible exact True.intro
    | with_reducible apply State.Sound.haltNow
    | with_reducible apply State.Sound.sched
    | with_reducible apply State.Sound.setChan
    | with_reducible refine State.Sound.foldl ?_ (fun _ _ _ => ?_)
    | with_reducible refine State.Sound.foldlFst ?_ (fun _ _ _ => ?_)
    | with_reducible refine State.Sound.ite (fun _ => ?_) (fun _ => ?_)
    | split
    | fail_if_no_progress with_reducible apply State.Sound.upd
    | dsimp only)

theorem engWrite {s : State} (h : s.Sound) (t : ThreadRef) (b : BlockW) (mirror : Option Nat) :
    (s.engWrite t b mirror).Sound := by
  unfold State.engWrite
  try dsimp only
  repeat' (first
    | with_reducible assumption
    | (show eventOp _ = true; rfl)
    | with_reducible exact True.intro
    | with_reducible apply State.Sound.touch
    | with_reducible apply State.Sound.writeBlock
    | with_reducible apply State.Sound.onRef
    | with_reducible apply State.Sound.inject
    | with_reducible refine State.Sound.foldl ?_ (fun _ _ _ => ?_)
    | with_reducible refine State.Sound.foldlFst ?_ (fun _ _ _ => ?_)
    | with_reducible refine State.Sound.ite (fun _ => ?_) (fun _ => ?_)
    | split
    | fail_if_no_progress with_reducible apply State.Sound.upd
    | dsimp only)

theorem startCopy {s : State} (h : s.Sound) (t : Thread) (ch : Nat) (v : Word) :
    (s.startCopy t ch v).Sound := by
  unfold State.startCopy
  try dsimp only
  repeat' (first
    | with_reducible assumption
    | (show eventOp _ = true; rfl)
    | with_reducible exact True.intro
    | with_reducible apply State.Sound.fresh
    | with_reducible apply State.Sound.copyGo
    | with_reducible apply State.Sound.dropSteps
    | with_reducible apply State.Sound.setChan
    | with_reducible refine State.Sound.foldl ?_ (fun _ _ _ => ?_)
    | with_reducible refine State.Sound.foldlFst ?_ (fun _ _ _ => ?_)
    | with_reducible refine State.Sound.ite (fun _ => ?_) (fun _ => ?_)
    | split
    | fail_if_no_progress with_reducible apply State.Sound.upd
    | dsimp only)

theorem copyEnd {s : State} (h : s.Sound) (u : Nat) (ch : Nat) (status : Nat) :
    (s.copyEnd u ch status).Sound := by
  unfold State.copyEnd
  try dsimp only
  repeat' (first
    | with_reducible assumption
    | (show eventOp _ = true; rfl)
    | with_reducible exact True.intro
    | with_reducible apply State.Sound.copyPost
    | with_reducible apply State.Sound.copyGo
    | with_reducible apply State.Sound.haltNow
    | with_reducible apply State.Sound.setChan
    | with_reducible refine State.Sound.foldl ?_ (fun _ _ _ => ?_)
    | with_reducible refine State.Sound.foldlFst ?_ (fun _ _ _ => ?_)
    | with_reducible refine State.Sound.ite (fun _ => ?_) (fun _ => ?_)
    | split
    | fail_if_no_progress with_reducible apply State.Sound.upd
    | dsimp only)

theorem copyBlock {s : State} (h : s.Sound) (u : Nat) (ch : Nat) (c : Copy) (dpa : Nat) (mirror : Option Nat) (b : BlockW) :
    (s.copyBlock u ch c dpa mirror b).Sound := by
  unfold State.copyBlock
  try dsimp only
  repeat' (first
    | with_reducible assumption
    | (show eventOp _ = true; rfl)
    | with_reducible exact True.intro
    | with_reducible apply State.Sound.engWrite
    | with_reducible apply State.Sound.takeBank
    | with_reducible apply State.Sound.copyEnd
    | with_reducible apply State.Sound.haltNow
    | with_reducible apply State.Sound.sched
    | with_reducible apply State.Sound.setChan
    | with_reducible refine State.Sound.foldl ?_ (fun _ _ _ => ?_)
    | with_reducible refine State.Sound.foldlFst ?_ (fun _ _ _ => ?_)
    | with_reducible refine State.Sound.ite (fun _ => ?_) (fun _ => ?_)
    | split
    | fail_if_no_progress with_reducible apply State.Sound.upd
    | dsimp only)

theorem finish {s : State} (h : s.Sound) (u : Nat) (id : Nat) (status : Nat) :
    (s.finish u id status).Sound := by
  unfold State.finish
  try dsimp only
  repeat' (first
    | with_reducible assumption
    | with_reducible apply State.Sound.consumed
    | with_reducible apply State.Sound.onUnit
    | with_reducible apply State.Sound.post
    | with_reducible refine State.Sound.foldl ?_ (fun _ _ _ => ?_)
    | with_reducible refine State.Sound.foldlFst ?_ (fun _ _ _ => ?_)
    | with_reducible refine State.Sound.ite (fun _ => ?_) (fun _ => ?_)
    | split)

theorem tileNext {s : State} (h : s.Sound) (c : Cmd) (delay : Nat) :
    (s.tileNext c delay).Sound := by
  unfold State.tileNext
  try dsimp only
  repeat' (first
    | with_reducible assumption
    | (show eventOp _ = true; rfl)
    | with_reducible exact True.intro
    | with_reducible apply State.Sound.finish
    | with_reducible apply State.Sound.sched
    | with_reducible apply State.Sound.onCmd
    | with_reducible refine State.Sound.foldl ?_ (fun _ _ _ => ?_)
    | with_reducible refine State.Sound.foldlFst ?_ (fun _ _ _ => ?_)
    | with_reducible refine State.Sound.ite (fun _ => ?_) (fun _ => ?_)
    | split
    | fail_if_no_progress with_reducible apply State.Sound.upd
    | dsimp only)

theorem tilePut {s : State} (h : s.Sound) (u : Nat) (id : Nat) :
    (s.tilePut u id).Sound := by
  unfold State.tilePut
  try dsimp only
  repeat' (first
    | with_reducible assumption
    | (show eventOp _ = true; rfl)
    | with_reducible exact True.intro
    | with_reducible apply State.Sound.tileAgain
    | with_reducible apply State.Sound.tileNext
    | with_reducible apply State.Sound.engWrite
    | with_reducible apply State.Sound.takeBank
    | with_reducible refine State.Sound.foldl ?_ (fun _ _ _ => ?_)
    | with_reducible refine State.Sound.foldlFst ?_ (fun _ _ _ => ?_)
    | with_reducible refine State.Sound.ite (fun _ => ?_) (fun _ => ?_)
    | split
    | fail_if_no_progress with_reducible apply State.Sound.upd
    | dsimp only)

theorem engWait {s : State} (h : s.Sound) (g : Thread) (x0 : WaitFor) :
    (s.engWait g x0).Sound := by
  unfold State.engWait
  try dsimp only
  repeat' (first
    | with_reducible assumption
    | with_reducible apply State.Sound.startWalk
    | with_reducible apply State.Sound.startCollapse
    | with_reducible refine State.Sound.foldl ?_ (fun _ _ _ => ?_)
    | with_reducible refine State.Sound.foldlFst ?_ (fun _ _ _ => ?_)
    | with_reducible refine State.Sound.ite (fun _ => ?_) (fun _ => ?_)
    | split)

theorem copyWait {s : State} (h : s.Sound) (u : Nat) (ch : Nat) (g : Thread) (w : WaitFor) :
    (s.copyWait u ch g w).Sound := by
  unfold State.copyWait
  try dsimp only
  repeat' (first
    | with_reducible assumption
    | (show eventOp _ = true; rfl)
    | with_reducible exact True.intro
    | with_reducible apply State.Sound.engWait
    | with_reducible apply State.Sound.setChan
    | with_reducible apply State.Sound.fresh
    | with_reducible apply State.Sound.sched
    | with_reducible refine State.Sound.foldl ?_ (fun _ _ _ => ?_)
    | with_reducible refine State.Sound.foldlFst ?_ (fun _ _ _ => ?_)
    | with_reducible refine State.Sound.ite (fun _ => ?_) (fun _ => ?_)
    | split
    | fail_if_no_progress with_reducible apply State.Sound.upd
    | dsimp only)

theorem copyFault {s : State} (h : s.Sound) (u : Nat) (ch : Nat) (c : Copy) (cause : Nat) (va : Word) :
    (s.copyFault u ch c cause va).Sound := by
  unfold State.copyFault
  try dsimp only
  repeat' (first
    | with_reducible assumption
    | (show eventOp _ = true; rfl)
    | with_reducible exact True.intro
    | with_reducible apply State.Sound.haltNow
    | with_reducible apply State.Sound.setChan
    | with_reducible apply State.Sound.record
    | with_reducible apply State.Sound.copyPost
    | with_reducible refine State.Sound.foldl ?_ (fun _ _ _ => ?_)
    | with_reducible refine State.Sound.foldlFst ?_ (fun _ _ _ => ?_)
    | with_reducible refine State.Sound.ite (fun _ => ?_) (fun _ => ?_)
    | split
    | fail_if_no_progress with_reducible apply State.Sound.upd
    | dsimp only)

theorem engRecord {s : State} (h : s.Sound) (c : Cmd) (agent : Nat) (f : EngFault) :
    (s.engRecord c agent f).Sound := by
  unfold State.engRecord
  try dsimp only
  repeat' (first
    | with_reducible assumption
    | with_reducible apply State.Sound.record)

theorem copyPut {s : State} (h : s.Sound) (u : Nat) (ch : Nat) :
    (s.copyPut u ch).Sound := by
  unfold State.copyPut
  try dsimp only
  repeat' (first
    | with_reducible assumption
    | (show eventOp _ = true; rfl)
    | with_reducible exact True.intro
    | with_reducible apply State.Sound.copyAgain
    | with_reducible apply State.Sound.copyBlock
    | with_reducible apply State.Sound.copyEnd
    | with_reducible apply State.Sound.copyFault
    | with_reducible apply State.Sound.haltNow
    | with_reducible apply State.Sound.sched
    | with_reducible apply State.Sound.setChan
    | with_reducible refine State.Sound.foldl ?_ (fun _ _ _ => ?_)
    | with_reducible refine State.Sound.foldlFst ?_ (fun _ _ _ => ?_)
    | with_reducible refine State.Sound.ite (fun _ => ?_) (fun _ => ?_)
    | split
    | fail_if_no_progress with_reducible apply State.Sound.upd
    | dsimp only)

theorem tileStep {s : State} (h : s.Sound) (u : Nat) (id : Nat) :
    (s.tileStep u id).Sound := by
  unfold State.tileStep
  try dsimp only
  repeat' (first
    | with_reducible assumption
    | (show eventOp _ = true; rfl)
    | with_reducible exact True.intro
    | with_reducible apply State.Sound.tilePut
    | with_reducible apply State.Sound.finish
    | with_reducible apply State.Sound.sendReq
    | with_reducible apply State.Sound.onCmd
    | with_reducible apply State.Sound.tileAgain
    | with_reducible apply State.Sound.eccBlock
    | with_reducible refine State.Sound.eccBlock_eq ?_ (by with_reducible assumption)
    | with_reducible apply State.Sound.takeBank
    | with_reducible apply State.Sound.consumed
    | with_reducible refine State.Sound.foldl ?_ (fun _ _ _ => ?_)
    | with_reducible refine State.Sound.foldlFst ?_ (fun _ _ _ => ?_)
    | with_reducible refine State.Sound.ite (fun _ => ?_) (fun _ => ?_)
    | split
    | fail_if_no_progress with_reducible apply State.Sound.upd
    | dsimp only)

theorem copyStep {s : State} (h : s.Sound) (u : Nat) (ch : Nat) :
    (s.copyStep u ch).Sound := by
  unfold State.copyStep
  try dsimp only
  repeat' (first
    | with_reducible assumption
    | (show eventOp _ = true; rfl)
    | with_reducible exact True.intro
    | with_reducible apply State.Sound.copyPut
    | with_reducible apply State.Sound.copyEnd
    | with_reducible apply State.Sound.copyFault
    | with_reducible apply State.Sound.copyWait
    | with_reducible apply State.Sound.sched
    | with_reducible apply State.Sound.setChan
    | with_reducible apply State.Sound.copyAgain
    | with_reducible apply State.Sound.eccBlock
    | with_reducible refine State.Sound.eccBlock_eq ?_ (by with_reducible assumption)
    | with_reducible apply State.Sound.takeBank
    | with_reducible apply State.Sound.sendReq
    | with_reducible refine State.Sound.foldl ?_ (fun _ _ _ => ?_)
    | with_reducible refine State.Sound.foldlFst ?_ (fun _ _ _ => ?_)
    | with_reducible refine State.Sound.ite (fun _ => ?_) (fun _ => ?_)
    | split
    | fail_if_no_progress with_reducible apply State.Sound.upd
    | dsimp only)

theorem tileBad {s : State} (h : s.Sound) (t : Thread) (x0 : Chk) :
    (s.tileBad t x0).Sound := by
  unfold State.tileBad
  try dsimp only
  repeat' (first
    | with_reducible assumption
    | with_reducible apply State.Sound.fault
    | with_reducible apply State.Sound.parkOn
    | with_reducible refine State.Sound.foldl ?_ (fun _ _ _ => ?_)
    | with_reducible refine State.Sound.foldlFst ?_ (fun _ _ _ => ?_)
    | with_reducible refine State.Sound.ite (fun _ => ?_) (fun _ => ?_)
    | split)

theorem dropSeg {s : State} (h : s.Sound) (t : Thread) (lvl : Nat) (num : Nat) :
    (s.dropSeg t lvl num).Sound := by
  unfold State.dropSeg
  try dsimp only
  repeat' (first
    | with_reducible assumption
    | with_reducible apply State.Sound.onCrew
    | with_reducible apply State.Sound.onLaunch
    | with_reducible refine State.Sound.foldl ?_ (fun _ _ _ => ?_)
    | with_reducible refine State.Sound.foldlFst ?_ (fun _ _ _ => ?_)
    | with_reducible refine State.Sound.ite (fun _ => ?_) (fun _ => ?_))

theorem addSeg {s : State} (h : s.Sound) (t : Thread) (lvl : Nat) (g : Seg) :
    (s.addSeg t lvl g).Sound := by
  unfold State.addSeg
  try dsimp only
  repeat' (first
    | with_reducible assumption
    | with_reducible apply State.Sound.onCrew
    | with_reducible apply State.Sound.onLaunch
    | with_reducible refine State.Sound.foldl ?_ (fun _ _ _ => ?_)
    | with_reducible refine State.Sound.foldlFst ?_ (fun _ _ _ => ?_)
    | with_reducible refine State.Sound.ite (fun _ => ?_) (fun _ => ?_))

theorem nudge {s : State} (h : s.Sound) (r : ThreadRef) :
    (s.nudge r).Sound := by
  unfold State.nudge
  try dsimp only
  repeat' (first
    | with_reducible assumption
    | (show eventOp _ = true; rfl)
    | with_reducible apply State.Sound.sched
    | with_reducible refine State.Sound.foldl ?_ (fun _ _ _ => ?_)
    | with_reducible refine State.Sound.foldlFst ?_ (fun _ _ _ => ?_)
    | with_reducible refine State.Sound.ite (fun _ => ?_) (fun _ => ?_)
    | split)

theorem zeroSeg {s : State} (h : s.Sound) (lvl : Nat) (i : Nat) (g : Seg) :
    (s.zeroSeg lvl i g).Sound := by
  unfold State.zeroSeg
  try dsimp only
  repeat' (first
    | with_reducible assumption
    | (show eventOp _ = true; rfl)
    | with_reducible exact True.intro
    | with_reducible apply State.Sound.touch
    | with_reducible apply State.Sound.zero
    | with_reducible refine State.Sound.foldl ?_ (fun _ _ _ => ?_)
    | with_reducible refine State.Sound.foldlFst ?_ (fun _ _ _ => ?_)
    | with_reducible refine State.Sound.ite (fun _ => ?_) (fun _ => ?_)
    | split
    | fail_if_no_progress with_reducible apply State.Sound.upd
    | dsimp only)

theorem allocate {s : State} (h : s.Sound) (q : SallocReq) (t : Thread) :
    (s.allocate q t).Sound := by
  unfold State.allocate
  try dsimp only
  repeat' (first
    | with_reducible assumption
    | (show eventOp _ = true; rfl)
    | with_reducible exact True.intro
    | with_reducible apply State.Sound.sched
    | with_reducible apply State.Sound.addSeg
    | with_reducible apply State.Sound.zeroSeg
    | with_reducible refine State.Sound.foldl ?_ (fun _ _ _ => ?_)
    | with_reducible refine State.Sound.foldlFst ?_ (fun _ _ _ => ?_)
    | with_reducible refine State.Sound.ite (fun _ => ?_) (fun _ => ?_)
    | split
    | fail_if_no_progress with_reducible apply State.Sound.upd
    | dsimp only)

theorem allocateNext {s : State} (h : s.Sound) (lvl inst : Nat) (l : List SallocReq) : (s.allocateNext lvl inst l).Sound := by
  induction l with
  | nil => exact h
  | cons q r ih =>
    unfold State.allocateNext
    refine State.Sound.ite (fun _ => ?_) (fun _ => ih)
    split
    · exact h.allocate _ _
    · exact ih

theorem sallocEnd {s : State} (h : s.Sound) (q : SallocReq) :
    (s.sallocEnd q).Sound := by
  unfold State.sallocEnd
  try dsimp only
  repeat' (first
    | with_reducible assumption
    | (show eventOp _ = true; rfl)
    | with_reducible exact True.intro
    | with_reducible apply State.Sound.allocateNext
    | with_reducible refine State.Sound.foldl ?_ (fun _ _ _ => ?_)
    | with_reducible refine State.Sound.foldlFst ?_ (fun _ _ _ => ?_)
    | with_reducible refine State.Sound.ite (fun _ => ?_) (fun _ => ?_)
    | split
    | fail_if_no_progress with_reducible apply State.Sound.upd
    | dsimp only)

theorem sendCopies {s : State} (h : s.Sound) (t : Thread) :
    (s.sendCopies t).Sound := by
  unfold State.sendCopies
  try dsimp only
  repeat' (first
    | with_reducible assumption
    | (show eventOp _ = true; rfl)
    | with_reducible exact True.intro
    | with_reducible apply State.Sound.inject
    | with_reducible apply State.Sound.setThread
    | with_reducible refine State.Sound.foldl ?_ (fun _ _ _ => ?_)
    | with_reducible refine State.Sound.foldlFst ?_ (fun _ _ _ => ?_)
    | with_reducible refine State.Sound.ite (fun _ => ?_) (fun _ => ?_)
    | split
    | fail_if_no_progress with_reducible apply State.Sound.upd
    | dsimp only)

theorem mirrorCopy {s : State} (h : s.Sound) (a : Access) :
    (s.mirrorCopy a).Sound := by
  unfold State.mirrorCopy
  try dsimp only
  repeat' (first
    | with_reducible assumption
    | (show eventOp _ = true; rfl)
    | with_reducible exact True.intro
    | with_reducible apply State.Sound.sendCopies
    | with_reducible apply State.Sound.inject
    | with_reducible refine State.Sound.foldl ?_ (fun _ _ _ => ?_)
    | with_reducible refine State.Sound.foldlFst ?_ (fun _ _ _ => ?_)
    | with_reducible refine State.Sound.ite (fun _ => ?_) (fun _ => ?_)
    | split
    | fail_if_no_progress with_reducible apply State.Sound.upd
    | dsimp only)

theorem postLost {s : State} (h : s.Sound) (ltag : Nat) (unit : Nat) (dev : Nat) (kind : Nat) :
    (s.postLost ltag unit dev kind).Sound := by
  unfold State.postLost
  try dsimp only
  repeat' (first
    | with_reducible assumption
    | with_reducible apply State.Sound.endLaunch
    | with_reducible apply State.Sound.record)

theorem giveResult {s : State} (h : s.Sound) (r : ThreadRef) (id : Nat) (vals : List Val) :
    (s.giveResult r id vals).Sound := by
  unfold State.giveResult
  try dsimp only
  repeat' (first
    | with_reducible assumption
    | (show eventOp _ = true; rfl)
    | with_reducible exact True.intro
    | with_reducible apply State.Sound.onRef
    | with_reducible apply State.Sound.consume
    | with_reducible apply State.Sound.setThread
    | with_reducible apply State.Sound.nudge
    | with_reducible apply State.Sound.onSaved
    | with_reducible refine State.Sound.foldl ?_ (fun _ _ _ => ?_)
    | with_reducible refine State.Sound.foldlFst ?_ (fun _ _ _ => ?_)
    | with_reducible refine State.Sound.ite (fun _ => ?_) (fun _ => ?_)
    | split
    | fail_if_no_progress with_reducible apply State.Sound.upd
    | dsimp only)

theorem remoteLoad {s : State} (h : s.Sound) (t : Thread) (words : Nat) (sm : Bool) (kind : AccKind) (n : Nat) (ea : Word) (d : Operand) (data : Word) (data2 : Word) (dev : Nat) (pa : Nat) :
    (s.remoteLoad t words sm kind n ea d data data2 dev pa).Sound := by
  unfold State.remoteLoad
  try dsimp only
  repeat' (first
    | with_reducible assumption
    | (show eventOp _ = true; rfl)
    | with_reducible exact True.intro
    | with_reducible apply State.Sound.park
    | with_reducible apply State.Sound.flushEach
    | with_reducible refine State.Sound.flushEach_eq ?_ (by with_reducible assumption)
    | with_reducible apply State.Sound.threadReq
    | with_reducible apply State.Sound.done
    | with_reducible refine State.Sound.foldl ?_ (fun _ _ _ => ?_)
    | with_reducible refine State.Sound.foldlFst ?_ (fun _ _ _ => ?_)
    | with_reducible refine State.Sound.ite (fun _ => ?_) (fun _ => ?_)
    | split
    | fail_if_no_progress with_reducible apply State.Sound.upd
    | dsimp only)

theorem perform {s : State} (h : s.Sound) (a : Access) :
    (s.perform a).1.Sound := by
  unfold State.perform
  try dsimp only
  repeat' (first
    | with_reducible assumption
    | (show eventOp _ = true; rfl)
    | with_reducible exact True.intro
    | with_reducible apply State.Sound.regLoad
    | with_reducible refine State.Sound.regLoad_eq ?_ (by with_reducible assumption)
    | with_reducible apply State.Sound.regStore
    | with_reducible apply State.Sound.eccVal
    | with_reducible refine State.Sound.eccVal_eq ?_ (by with_reducible assumption)
    | with_reducible apply State.Sound.mirrorCopy
    | with_reducible apply State.Sound.touch
    | with_reducible apply State.Sound.store
    | with_reducible apply State.Sound.poisonDesc
    | with_reducible apply State.Sound.setDesc
    | with_reducible apply State.Sound.onRef
    | with_reducible apply State.Sound.postLost
    | with_reducible refine State.Sound.foldl ?_ (fun _ _ _ => ?_)
    | with_reducible refine State.Sound.foldlFst ?_ (fun _ _ _ => ?_)
    | with_reducible refine State.Sound.ite (fun _ => ?_) (fun _ => ?_)
    | split
    | fail_if_no_progress with_reducible apply State.Sound.upd
    | dsimp only)

theorem perform_eq {s : State} (h : s.Sound) (a : Access)  {u_ : State} {x_ : Val} (e_ : (s.perform a) = (u_, x_)) : u_.Sound := by
  have := h.perform a
  rw [e_] at this
  exact this

theorem remoteStore {s : State} (h : s.Sound) (t : Thread) (words : Nat) (sm : Bool) (kind : AccKind) (n : Nat) (rx : Bool) (ea : Word) (data : Word) (data2 : Word) (psn : Option Poison) (dev : Nat) (pa : Nat) :
    (s.remoteStore t words sm kind n rx ea data data2 psn dev pa).Sound := by
  unfold State.remoteStore
  try dsimp only
  repeat' (first
    | with_reducible assumption
    | with_reducible apply State.Sound.exchange
    | with_reducible apply State.Sound.onLaunch
    | with_reducible apply State.Sound.done
    | with_reducible apply State.Sound.threadReq
    | with_reducible apply State.Sound.sendPosted
    | with_reducible refine State.Sound.foldl ?_ (fun _ _ _ => ?_)
    | with_reducible refine State.Sound.foldlFst ?_ (fun _ _ _ => ?_)
    | with_reducible refine State.Sound.ite (fun _ => ?_) (fun _ => ?_)
    | split)

theorem localAccess {s : State} (h : s.Sound) (t : Thread) (words : Nat) (sm : Bool) (kind : AccKind) (n : Nat) (rx : Bool) (ea : Word) (d : Option Operand) (data : Word) (data2 : Word) (psn : Option Poison) (pa : Nat) (mirror : Option Nat) :
    (s.localAccess t words sm kind n rx ea d data data2 psn pa mirror).Sound := by
  unfold State.localAccess
  try dsimp only
  repeat' (first
    | with_reducible assumption
    | (show eventOp _ = true; rfl)
    | with_reducible apply State.Sound.done
    | with_reducible apply State.Sound.sched)

theorem access {s : State} (h : s.Sound) (t : Thread) (words : Nat) (sm : Bool) (kind : AccKind) (ak : AKind) (n : Nat) (rx : Bool) (ea : Word) (d : Option Operand) (data : Word) (data2 : Word) (psn : Option Poison) :
    (s.access t words sm kind ak n rx ea d data data2 psn).Sound := by
  unfold State.access
  try dsimp only
  repeat' (first
    | with_reducible assumption
    | with_reducible apply State.Sound.switchPoint
    | with_reducible apply State.Sound.fault
    | with_reducible apply State.Sound.parkOn
    | with_reducible apply State.Sound.park
    | with_reducible apply State.Sound.localAccess
    | with_reducible apply State.Sound.remoteLoad
    | with_reducible apply State.Sound.remoteStore
    | with_reducible apply State.Sound.done
    | with_reducible apply State.Sound.startCopy
    | with_reducible refine State.Sound.foldl ?_ (fun _ _ _ => ?_)
    | with_reducible refine State.Sound.foldlFst ?_ (fun _ _ _ => ?_)
    | with_reducible refine State.Sound.ite (fun _ => ?_) (fun _ => ?_)
    | split)

theorem countSent {s : State} (h : s.Sound) (t : Thread) :
    (s.countSent t).Sound := by
  unfold State.countSent
  try dsimp only
  repeat' (first
    | with_reducible assumption
    | with_reducible apply State.Sound.onCrew)

theorem countRecvd {s : State} (h : s.Sound) (ltag : Nat) (unit : Nat) :
    (s.countRecvd ltag unit).Sound := by
  unfold State.countRecvd
  try dsimp only
  repeat' (first
    | with_reducible assumption
    | with_reducible apply State.Sound.onCrew)

theorem dispatchMsg {s : State} (h : s.Sound) (t : Thread) (a : Word) (src : Nat) (dsem : BitVec 3) (local_ : Instr) (pkt : Packet) (hi : eventOp local_ = true) :
    (s.dispatchMsg t a src dsem local_ pkt).Sound := by
  unfold State.dispatchMsg
  try dsimp only
  repeat' (first
    | with_reducible assumption
    | with_reducible apply State.Sound.countSent
    | with_reducible apply State.Sound.threadReq
    | with_reducible apply State.Sound.sched
    | with_reducible apply State.Sound.countRecvd
    | with_reducible apply State.Sound.postLater
    | with_reducible refine State.Sound.foldl ?_ (fun _ _ _ => ?_)
    | with_reducible refine State.Sound.foldlFst ?_ (fun _ _ _ => ?_)
    | with_reducible refine State.Sound.ite (fun _ => ?_) (fun _ => ?_))

theorem atomic {s : State} (h : s.Sound) (t : Thread) (words : Nat) (sm : Bool) (x : Bool) (op : AtomOp) (d : Operand) (a : Operand) (b : Word) (c : Word) :
    (s.atomic t words sm x op d a b c).Sound := by
  unfold State.atomic
  try dsimp only
  repeat' (first
    | with_reducible assumption
    | with_reducible apply State.Sound.access)

theorem forgive {s : State} (h : s.Sound) (t : Thread) (sem : BitVec 3) (src : Nat) : (s.forgive t sem src).1.Sound := by
  unfold State.forgive
  split
  · exact ⟨h.mem, h.desc, h.psn, h.descPsn, h.threads, h.inputs, all_filter _ _ _ h.agenda⟩
  · exact h

theorem released {s : State} (h : s.Sound) (t : Thread) (k : State) (hk : k.Sound) :
    (s.released t k).Sound := by
  unfold State.released
  try dsimp only
  repeat' (first
    | with_reducible assumption
    | with_reducible apply State.Sound.park
    | with_reducible refine State.Sound.foldl ?_ (fun _ _ _ => ?_)
    | with_reducible refine State.Sound.foldlFst ?_ (fun _ _ _ => ?_)
    | with_reducible refine State.Sound.ite (fun _ => ?_) (fun _ => ?_))

theorem takeMsg_lost {s : State} (h : s.Sound) (c : Crew) (n slot : Nat) {u : State} (e : s.takeMsg c n slot = .lost u) : u.Sound := by
  unfold State.takeMsg at e
  dsimp only at e
  split at e
  · injection e with e; exact e ▸ h.portData _ _ _
  · exact nomatch e

theorem takeMsg_msg {s : State} (h : s.Sound) (c : Crew) (n slot : Nat) {u : State} {hdr : Word} {dws : List Val}
    (e : s.takeMsg c n slot = .msg u hdr dws) : u.Sound := by
  unfold State.takeMsg at e
  dsimp only at e
  split at e
  · exact nomatch e
  · injection e with e; exact e ▸ (h.storeS1 _ _ _ _).setCrew _

theorem recv {s : State} (h : s.Sound) (t : Thread) (c : Crew) (port slot count : Nat) (hdr : Bool) (d : Operand) :
    (s.recv t c port slot count hdr d).Sound := by
  unfold State.recv
  split
  · exact h.takeMsg_lost _ _ _ ‹_›
  · exact ((h.takeMsg_msg _ _ _ ‹_›).sched _ _ _ rfl).done _ _ _ _

theorem spawn {s : State} (h : s.Sound) (t : Thread) (words : Nat) (sm : Bool) (argc : BitVec 3) (prio : BitVec 3) (pexp : Bool) (tidreq : BitVec 8) (tiden : Bool) (d : Operand) (pc : Word) (b : Operand) :
    (s.spawn t words sm argc prio pexp tidreq tiden d pc b).Sound := by
  unfold State.spawn
  try dsimp only
  repeat' (first
    | with_reducible assumption
    | with_reducible apply State.Sound.fault
    | with_reducible apply State.Sound.released
    | with_reducible apply State.Sound.aluDone
    | with_reducible apply State.Sound.create
    | with_reducible refine State.Sound.foldl ?_ (fun _ _ _ => ?_)
    | with_reducible refine State.Sound.foldlFst ?_ (fun _ _ _ => ?_)
    | with_reducible refine State.Sound.ite (fun _ => ?_) (fun _ => ?_)
    | split)

theorem postFault {s : State} (h : s.Sound) (src : Nat) (sem : BitVec 3) :
    (s.postFault src sem).Sound := by
  unfold State.postFault
  try dsimp only
  repeat' (first
    | with_reducible assumption
    | with_reducible apply State.Sound.fault
    | with_reducible refine State.Sound.foldl ?_ (fun _ _ _ => ?_)
    | with_reducible refine State.Sound.foldlFst ?_ (fun _ _ _ => ?_)
    | with_reducible refine State.Sound.ite (fun _ => ?_) (fun _ => ?_)
    | split)

theorem addPosts {s : State} (h : s.Sound) (sem : BitVec 3) (t : Thread) (l : List (Nat × BitVec 3 × Nat × Nat × Bool)) :
    (State.addPosts sem s t l).1.Sound := by
  induction l generalizing s t with
  | nil => exact h
  | cons p r ih =>
    unfold State.addPosts
    dsimp only
    split
    · exact ih h _
    · split
      · split
        · exact ih (h.forgive _ _ _) _
        · exact ih h _
      · split
        · exact ih h _
        · split
          · exact ih (h.sched _ _ _ rfl) _
          · exact ih h _

theorem spawnr {s : State} (h : s.Sound) (t : Thread) (words : Nat) (sm : Bool) (argc : BitVec 3) (prio : BitVec 3) (dsem : BitVec 3) (a : Operand) (pc : Word) (b : Operand) :
    (s.spawnr t words sm argc prio dsem a pc b).Sound := by
  unfold State.spawnr
  try dsimp only
  repeat' (first
    | with_reducible assumption
    | (show eventOp _ = true; rfl)
    | with_reducible apply State.Sound.fault
    | with_reducible apply State.Sound.released
    | with_reducible apply State.Sound.done
    | with_reducible apply State.Sound.dispatchMsg
    | with_reducible refine State.Sound.foldl ?_ (fun _ _ _ => ?_)
    | with_reducible refine State.Sound.foldlFst ?_ (fun _ _ _ => ?_)
    | with_reducible refine State.Sound.ite (fun _ => ?_) (fun _ => ?_))

theorem outOfRange {s : State} (h : s.Sound) (t : Thread) (word : Nat) :
    (s.outOfRange t word).Sound := by
  unfold State.outOfRange
  try dsimp only
  repeat' (first
    | with_reducible assumption
    | with_reducible apply State.Sound.illegal)

theorem patset {s : State} (h : s.Sound) (t : Thread) (words : Nat) (sm : Bool) (idx : Nat) (d0 : Word) (hpc : Word) (d2 : Word) :
    (s.patset t words sm idx d0 hpc d2).Sound := by
  unfold State.patset
  try dsimp only
  repeat' (first
    | with_reducible assumption
    | with_reducible apply State.Sound.outOfRange
    | with_reducible apply State.Sound.done
    | with_reducible apply State.Sound.fresh
    | with_reducible apply State.Sound.onCrew
    | with_reducible refine State.Sound.foldl ?_ (fun _ _ _ => ?_)
    | with_reducible refine State.Sound.foldlFst ?_ (fun _ _ _ => ?_)
    | with_reducible refine State.Sound.ite (fun _ => ?_) (fun _ => ?_))

theorem userEntry {s : State} (h : s.Sound) (t : Thread) :
    (s.userEntry t).Sound := by
  unfold State.userEntry
  try dsimp only
  repeat' (first
    | with_reducible assumption
    | with_reducible apply State.Sound.logWords)

theorem closeRegion {s : State} (h : s.Sound) (t : Thread) :
    (s.closeRegion t).Sound := by
  unfold State.closeRegion
  try dsimp only
  repeat' (first
    | with_reducible assumption
    | with_reducible apply State.Sound.onUnit)

theorem serve {s : State} (h : s.Sound) (t : Thread) (code : Nat) :
    (s.serve t code).Sound := by
  unfold State.serve
  try dsimp only
  repeat' (first
    | with_reducible assumption
    | (show eventOp _ = true; rfl)
    | with_reducible apply State.Sound.sched
    | with_reducible apply State.Sound.userEntry
    | with_reducible refine State.Sound.foldl ?_ (fun _ _ _ => ?_)
    | with_reducible refine State.Sound.foldlFst ?_ (fun _ _ _ => ?_)
    | with_reducible refine State.Sound.ite (fun _ => ?_) (fun _ => ?_)
    | split)

theorem wakeEvent {s : State} (h : s.Sound) (t : Thread) :
    (s.wakeEvent t).Sound := by
  unfold State.wakeEvent
  try dsimp only
  repeat' (first
    | with_reducible assumption
    | with_reducible apply State.Sound.switchPoint
    | with_reducible apply State.Sound.setThread
    | with_reducible refine State.Sound.foldl ?_ (fun _ _ _ => ?_)
    | with_reducible refine State.Sound.foldlFst ?_ (fun _ _ _ => ?_)
    | with_reducible refine State.Sound.ite (fun _ => ?_) (fun _ => ?_)
    | split)

theorem takeHeads {s : State} (h : s.Sound) (tag u off : Nat) (l : List (Nat × Nat)) : (State.takeHeads tag u off s l).1.Sound := by
  induction l generalizing s with
  | nil => exact h
  | cons p r ih =>
    unfold State.takeHeads
    split
    · exact h
    · split
      · exact h
      · split
        · exact h.takeMsg_lost _ _ _ ‹_›
        · exact ih ((h.takeMsg_msg _ _ _ ‹_›).foldl fun s i hs => hs.storeS1 _ _ _ _)

theorem countDecided {s : State} (h : s.Sound) (own : Bool) (ltag : Nat) (unit : Nat) (sender : Nat) :
    (s.countDecided own ltag unit sender).Sound := by
  unfold State.countDecided
  try dsimp only
  repeat' (first
    | with_reducible assumption
    | with_reducible apply State.Sound.countRecvd
    | with_reducible refine State.Sound.foldl ?_ (fun _ _ _ => ?_)
    | with_reducible refine State.Sound.foldlFst ?_ (fun _ _ _ => ?_)
    | with_reducible refine State.Sound.ite (fun _ => ?_) (fun _ => ?_))

theorem dropBarrier {s : State} (h : s.Sound) (pa : Nat) :
    (s.dropBarrier pa).Sound := by
  unfold State.dropBarrier
  try dsimp only
  repeat' (first
    | with_reducible assumption
    | with_reducible refine State.Sound.foldl ?_ (fun _ _ _ => ?_)
    | with_reducible refine State.Sound.foldlFst ?_ (fun _ _ _ => ?_)
    | with_reducible refine State.Sound.ite (fun _ => ?_) (fun _ => ?_)
    | split
    | fail_if_no_progress with_reducible apply State.Sound.upd)

theorem barrierStore {s : State} (h : s.Sound) (b : Barrier) (reg : Bool) :
    (s.barrierStore b reg).Sound := by
  unfold State.barrierStore
  try dsimp only
  repeat' (first
    | with_reducible assumption
    | with_reducible apply State.Sound.store)

theorem zeroQuarters {s : State} (h : s.Sound) (tag : Nat) (u : Nat) (off : Nat) (q : Nat) :
    (s.zeroQuarters tag u off q).Sound := by
  unfold State.zeroQuarters
  try dsimp only
  repeat' (first
    | with_reducible assumption
    | (show eventOp _ = true; rfl)
    | with_reducible exact True.intro
    | with_reducible apply State.Sound.storeS1
    | with_reducible refine State.Sound.foldl ?_ (fun _ _ _ => ?_)
    | with_reducible refine State.Sound.foldlFst ?_ (fun _ _ _ => ?_)
    | with_reducible refine State.Sound.ite (fun _ => ?_) (fun _ => ?_)
    | split
    | fail_if_no_progress with_reducible apply State.Sound.upd
    | dsimp only)

theorem fire {s : State} (h : s.Sound) (c : Crew) (idx : Nat) (p : Pat) :
    (s.fire c idx p).Sound := by
  unfold State.fire
  try dsimp only
  repeat' (first
    | with_reducible assumption
    | (show eventOp _ = true; rfl)
    | with_reducible apply State.Sound.takeHeads
    | with_reducible apply State.Sound.zeroQuarters
    | with_reducible apply State.Sound.onCrew
    | with_reducible apply State.Sound.sched
    | with_reducible refine State.Sound.foldl ?_ (fun _ _ _ => ?_)
    | with_reducible refine State.Sound.foldlFst ?_ (fun _ _ _ => ?_)
    | with_reducible refine State.Sound.ite (fun _ => ?_) (fun _ => ?_))

theorem writeMsg {s : State} (h : s.Sound) (r : AppendReq) (c : Crew) (det : Bool) (own : Bool) :
    (s.writeMsg r c det own).Sound := by
  unfold State.writeMsg
  try dsimp only
  repeat' (first
    | with_reducible assumption
    | (show eventOp _ = true; rfl)
    | with_reducible exact True.intro
    | with_reducible apply State.Sound.storeS1
    | with_reducible apply State.Sound.onCrew
    | with_reducible refine State.Sound.foldl ?_ (fun _ _ _ => ?_)
    | with_reducible refine State.Sound.foldlFst ?_ (fun _ _ _ => ?_)
    | with_reducible refine State.Sound.ite (fun _ => ?_) (fun _ => ?_)
    | split
    | fail_if_no_progress with_reducible apply State.Sound.upd
    | dsimp only)

theorem decide_ {s : State} (h : s.Sound) (reply : Option PostTo) (pkt : Option Packet) (status : Nat) :
    (s.decide_ reply pkt status).Sound := by
  unfold State.decide_
  try dsimp only
  repeat' (first
    | with_reducible assumption
    | with_reducible apply State.Sound.postLater
    | with_reducible apply State.Sound.cacheReply
    | with_reducible apply State.Sound.replyTo
    | with_reducible refine State.Sound.foldl ?_ (fun _ _ _ => ?_)
    | with_reducible refine State.Sound.foldlFst ?_ (fun _ _ _ => ?_)
    | with_reducible refine State.Sound.ite (fun _ => ?_) (fun _ => ?_)
    | split)

theorem evalCrew {s : State} (h : s.Sound) (tag : Nat) (u : Nat) :
    (s.evalCrew tag u).Sound := by
  unfold State.evalCrew
  try dsimp only
  repeat' (first
    | with_reducible assumption
    | with_reducible apply State.Sound.fire
    | with_reducible refine State.Sound.foldl ?_ (fun _ _ _ => ?_)
    | with_reducible refine State.Sound.foldlFst ?_ (fun _ _ _ => ?_)
    | with_reducible refine State.Sound.ite (fun _ => ?_) (fun _ => ?_)
    | split)

theorem decidedBefore {s : State} (h : s.Sound) (pkt : Option Packet) : ∀ u, s.decidedBefore pkt = some u → u.Sound := by
  intro u e
  unfold State.decidedBefore at e
  split at e
  · obtain ⟨c, _, rfl⟩ := Option.map_eq_some_iff.1 e
    exact h.replyTo _ _ _ _ _ _
  · exact nomatch e

theorem barrierPosts {s : State} (h : s.Sound) (b : Barrier) (ws : List (ThreadRef × BitVec 3 × Option Nat)) (status : Nat) :
    (s.barrierPosts b ws status).Sound := by
  unfold State.barrierPosts
  try dsimp only
  repeat' (first
    | with_reducible assumption
    | (show eventOp _ = true; rfl)
    | with_reducible exact True.intro
    | with_reducible apply State.Sound.postLater
    | with_reducible refine State.Sound.foldl ?_ (fun _ _ _ => ?_)
    | with_reducible refine State.Sound.foldlFst ?_ (fun _ _ _ => ?_)
    | with_reducible refine State.Sound.ite (fun _ => ?_) (fun _ => ?_)
    | split
    | fail_if_no_progress with_reducible apply State.Sound.upd
    | dsimp only)

theorem spawnDecide {s : State} (h : s.Sound) (r : SpawnReq) :
    (s.spawnDecide r).Sound := by
  unfold State.spawnDecide
  try dsimp only
  repeat' (first
    | with_reducible assumption
    | (show eventOp _ = true; rfl)
    | with_reducible exact True.intro
    | with_reducible refine State.Sound.decidedBefore ?_ _ _ (by with_reducible assumption)
    | with_reducible apply State.Sound.countDecided
    | with_reducible apply State.Sound.decide_
    | with_reducible apply State.Sound.create
    | with_reducible refine State.Sound.foldl ?_ (fun _ _ _ => ?_)
    | with_reducible refine State.Sound.foldlFst ?_ (fun _ _ _ => ?_)
    | with_reducible refine State.Sound.ite (fun _ => ?_) (fun _ => ?_)
    | split
    | fail_if_no_progress with_reducible apply State.Sound.upd
    | dsimp only)

theorem portOverflow {s : State} (h : s.Sound) (r : AppendReq) (c : Crew) (own : Bool) :
    (s.portOverflow r c own).Sound := by
  unfold State.portOverflow
  try dsimp only
  repeat' (first
    | with_reducible assumption
    | (show eventOp _ = true; rfl)
    | with_reducible exact True.intro
    | with_reducible apply State.Sound.logWords
    | with_reducible apply State.Sound.record
    | with_reducible refine State.Sound.foldl ?_ (fun _ _ _ => ?_)
    | with_reducible refine State.Sound.foldlFst ?_ (fun _ _ _ => ?_)
    | with_reducible refine State.Sound.ite (fun _ => ?_) (fun _ => ?_)
    | split
    | fail_if_no_progress with_reducible apply State.Sound.upd
    | dsimp only)

theorem breakBarrier {s : State} (h : s.Sound) (b : Barrier) (reinit : Bool) (unit : Nat) :
    (s.breakBarrier b reinit unit).Sound := by
  unfold State.breakBarrier
  try dsimp only
  repeat' (first
    | with_reducible assumption
    | (show eventOp _ = true; rfl)
    | with_reducible exact True.intro
    | with_reducible apply State.Sound.record
    | with_reducible apply State.Sound.barrierPosts
    | with_reducible refine State.Sound.foldl ?_ (fun _ _ _ => ?_)
    | with_reducible refine State.Sound.foldlFst ?_ (fun _ _ _ => ?_)
    | with_reducible refine State.Sound.ite (fun _ => ?_) (fun _ => ?_)
    | split
    | fail_if_no_progress with_reducible apply State.Sound.upd
    | dsimp only)

theorem register {s : State} (h : s.Sound) (t : Thread) (va : Word) (pa : Nat) (need : Nat) :
    (s.register t va pa need).1.Sound := by
  unfold State.register
  try dsimp only
  repeat' (first
    | with_reducible assumption
    | with_reducible apply State.Sound.dropBarrier
    | with_reducible apply State.Sound.breakBarrier
    | with_reducible apply State.Sound.store
    | with_reducible apply State.Sound.barrierStore
    | with_reducible refine State.Sound.foldl ?_ (fun _ _ _ => ?_)
    | with_reducible refine State.Sound.foldlFst ?_ (fun _ _ _ => ?_)
    | with_reducible refine State.Sound.ite (fun _ => ?_) (fun _ => ?_)
    | split
    | fail_if_no_progress with_reducible apply State.Sound.upd)

theorem register_eq {s : State} (h : s.Sound) (t : Thread) (va : Word) (pa : Nat) (need : Nat)  {u_ : State} {x_ : Nat} (e_ : (s.register t va pa need) = (u_, x_)) : u_.Sound := by
  have := h.register t va pa need
  rw [e_] at this
  exact this

theorem appendDecide {s : State} (h : s.Sound) (r : AppendReq) :
    (s.appendDecide r).Sound := by
  unfold State.appendDecide
  try dsimp only
  repeat' (first
    | with_reducible assumption
    | (show eventOp _ = true; rfl)
    | with_reducible exact True.intro
    | with_reducible refine State.Sound.decidedBefore ?_ _ _ (by with_reducible assumption)
    | with_reducible apply State.Sound.decide_
    | with_reducible apply State.Sound.countDecided
    | with_reducible apply State.Sound.writeMsg
    | with_reducible apply State.Sound.portOverflow
    | with_reducible refine State.Sound.foldl ?_ (fun _ _ _ => ?_)
    | with_reducible refine State.Sound.foldlFst ?_ (fun _ _ _ => ?_)
    | with_reducible refine State.Sound.ite (fun _ => ?_) (fun _ => ?_)
    | split
    | fail_if_no_progress with_reducible apply State.Sound.upd
    | dsimp only)

theorem tryHalt {s : State} (h : s.Sound) (t : Thread) :
    (s.tryHalt t).Sound := by
  unfold State.tryHalt
  try dsimp only
  repeat' (first
    | with_reducible assumption
    | with_reducible apply State.Sound.consume
    | with_reducible apply State.Sound.setThread
    | with_reducible apply State.Sound.park
    | with_reducible refine State.Sound.foldl ?_ (fun _ _ _ => ?_)
    | with_reducible refine State.Sound.foldlFst ?_ (fun _ _ _ => ?_)
    | with_reducible refine State.Sound.ite (fun _ => ?_) (fun _ => ?_)
    | split)

theorem arrive {s : State} (h : s.Sound) (p : PostTo) (count : Nat) (status : Nat) :
    (s.arrive p count status).Sound := by
  unfold State.arrive
  try dsimp only
  repeat' (first
    | with_reducible assumption
    | (show eventOp _ = true; rfl)
    | with_reducible exact True.intro
    | with_reducible apply State.Sound.postFault
    | with_reducible apply State.Sound.setThread
    | with_reducible apply State.Sound.sched
    | with_reducible apply State.Sound.post
    | with_reducible refine State.Sound.foldl ?_ (fun _ _ _ => ?_)
    | with_reducible refine State.Sound.foldlFst ?_ (fun _ _ _ => ?_)
    | with_reducible refine State.Sound.ite (fun _ => ?_) (fun _ => ?_)
    | split
    | fail_if_no_progress with_reducible apply State.Sound.upd
    | dsimp only)

theorem yield {s : State} (h : s.Sound) (c : Cmd) (op : Instr) (hi : eventOp op = true) : (s.yield c op).Sound :=
  (h.onCmd _ _ _).sched _ _ _ hi

theorem engIssue {s : State} (h : s.Sound) (t : Thread) (sm : Bool) (c : Cmd) (entries : List (List (Nat × Nat) × Bool)) (go : State → State) (hgo : ∀ y0, y0.Sound → (go y0).Sound) :
    (s.engIssue t sm c entries go).Sound := by
  unfold State.engIssue
  try dsimp only
  repeat' (first
    | with_reducible assumption
    | with_reducible apply hgo
    | with_reducible apply State.Sound.park
    | with_reducible apply State.Sound.done
    | with_reducible apply State.Sound.accept
    | with_reducible refine State.Sound.foldl ?_ (fun _ _ _ => ?_)
    | with_reducible refine State.Sound.foldlFst ?_ (fun _ _ _ => ?_)
    | with_reducible refine State.Sound.ite (fun _ => ?_) (fun _ => ?_)
    | split)

theorem vxBegin {s : State} (h : s.Sound) (u : Nat) :
    (s.vxBegin u).Sound := by
  unfold State.vxBegin
  try dsimp only
  repeat' (first
    | with_reducible assumption
    | (show eventOp _ = true; rfl)
    | with_reducible exact True.intro
    | with_reducible apply State.Sound.sched
    | with_reducible apply State.Sound.yield
    | with_reducible apply State.Sound.onCmd
    | with_reducible apply State.Sound.onUnit
    | with_reducible refine State.Sound.foldl ?_ (fun _ _ _ => ?_)
    | with_reducible refine State.Sound.foldlFst ?_ (fun _ _ _ => ?_)
    | with_reducible refine State.Sound.ite (fun _ => ?_) (fun _ => ?_)
    | split
    | fail_if_no_progress with_reducible apply State.Sound.upd
    | dsimp only)

theorem vxIssue {s : State} (h : s.Sound) (t : Thread) (i : Instr) :
    (s.vxIssue t i).Sound := by
  unfold State.vxIssue
  try dsimp only
  repeat' (first
    | with_reducible assumption
    | (show eventOp _ = true; rfl)
    | with_reducible apply State.Sound.illegal
    | with_reducible apply State.Sound.fault
    | with_reducible apply State.Sound.engIssue
    | with_reducible apply State.Sound.sched
    | with_reducible refine State.Sound.foldl ?_ (fun _ _ _ => ?_)
    | with_reducible refine State.Sound.foldlFst ?_ (fun _ _ _ => ?_)
    | (intro y hy)
    | (intro y)
    | with_reducible refine State.Sound.ite (fun _ => ?_) (fun _ => ?_)
    | split)

theorem nudgeMx {s : State} (h : s.Sound)  :
    (s.nudgeMx).Sound := by
  unfold State.nudgeMx
  try dsimp only
  repeat' (first
    | with_reducible assumption
    | (show eventOp _ = true; rfl)
    | with_reducible apply State.Sound.sched
    | with_reducible refine State.Sound.foldl ?_ (fun _ _ _ => ?_)
    | with_reducible refine State.Sound.foldlFst ?_ (fun _ _ _ => ?_)
    | with_reducible refine State.Sound.ite (fun _ => ?_) (fun _ => ?_))

theorem setSlot {s : State} (h : s.Sound) (u : Nat) (i : Nat) (x : LatchSlot) :
    (s.setSlot u i x).Sound := by
  unfold State.setSlot
  try dsimp only
  repeat' (first
    | with_reducible assumption
    | with_reducible apply State.Sound.onUnit)

theorem mxEnds {s : State} (h : s.Sound) (u : Nat) (c : Cmd) (m : Mx) (fits : Bool) (r : CmdResult) (len : Nat) :
    (s.mxEnds u c m fits r len).Sound := by
  unfold State.mxEnds
  try dsimp only
  repeat' (first
    | with_reducible assumption
    | (show eventOp _ = true; rfl)
    | with_reducible exact True.intro
    | with_reducible apply State.Sound.onCmd
    | with_reducible apply State.Sound.onUnit
    | with_reducible apply State.Sound.sched
    | with_reducible refine State.Sound.foldl ?_ (fun _ _ _ => ?_)
    | with_reducible refine State.Sound.foldlFst ?_ (fun _ _ _ => ?_)
    | with_reducible refine State.Sound.ite (fun _ => ?_) (fun _ => ?_)
    | split
    | fail_if_no_progress with_reducible apply State.Sound.upd
    | dsimp only)

theorem cutRing (n : Nat) {s : State} (h : s.Sound) (c : Cmd) (k : Nat) : (State.cutRing n s c k).Sound := by
  induction n generalizing s c k with
  | zero => exact h
  | succ n ih =>
    unfold State.cutRing
    dsimp only
    refine State.Sound.foldl (State.Sound.onUnit ?_ _ _) fun s x hs => ?_
    · refine ⟨h.mem, h.desc, h.psn, h.descPsn, h.threads, h.inputs, ?_⟩
      refine List.all_eq_true.2 fun e he => ?_
      obtain ⟨y, hy, hm⟩ := List.mem_filterMap.1 he
      have hy := List.all_eq_true.1 h.agenda y hy
      split at hm
      · split at hm
        · exact nomatch hm
        · injection hm with hm; exact hm ▸ rfl
      · injection hm with hm; exact hm ▸ hy
    · split
      · refine State.Sound.ite (fun _ => hs.onCmd _ _ _) fun _ => ?_
        have h2 : ∀ (f : Sched → Bool), State.Sound { s with agenda := s.agenda.filter f } := fun f =>
          ⟨hs.mem, hs.desc, hs.psn, hs.descPsn, hs.threads, hs.inputs, all_filter _ _ _ hs.agenda⟩
        exact State.Sound.ite (fun _ => ih ((h2 _).mxEnds _ _ _ _ _ _) _ _) fun _ => (h2 _).mxEnds _ _ _ _ _ _
      · exact hs

theorem stopSending {s : State} (h : s.Sound) (c : Cmd) : (s.stopSending c).Sound := by
  unfold State.stopSending
  split
  · exact State.Sound.ite (fun _ => cutRing _ h _ _) fun _ => h
  · exact h

theorem emptySlot {s : State} (h : s.Sound) (u : Nat) (i : Nat) :
    (s.emptySlot u i).Sound := by
  unfold State.emptySlot
  try dsimp only
  repeat' (first
    | with_reducible assumption
    | (show eventOp _ = true; rfl)
    | with_reducible exact True.intro
    | with_reducible apply State.Sound.setSlot
    | with_reducible refine State.Sound.foldl ?_ (fun _ _ _ => ?_)
    | with_reducible refine State.Sound.foldlFst ?_ (fun _ _ _ => ?_)
    | with_reducible refine State.Sound.ite (fun _ => ?_) (fun _ => ?_)
    | split
    | fail_if_no_progress with_reducible apply State.Sound.upd
    | dsimp only)

theorem mxGo {s : State} (h : s.Sound) (u : Nat) (c : Cmd) (m : Mx) (first : Nat) (slot : Option Nat) :
    (s.mxGo u c m first slot).Sound := by
  unfold State.mxGo
  try dsimp only
  repeat' (first
    | with_reducible assumption
    | (show eventOp _ = true; rfl)
    | with_reducible exact True.intro
    | with_reducible apply State.Sound.setSlot
    | with_reducible apply State.Sound.nudgeMx
    | with_reducible apply State.Sound.emptySlot
    | with_reducible apply State.Sound.sched
    | with_reducible apply State.Sound.mxEnds
    | with_reducible refine State.Sound.foldl ?_ (fun _ _ _ => ?_)
    | with_reducible refine State.Sound.foldlFst ?_ (fun _ _ _ => ?_)
    | with_reducible refine State.Sound.ite (fun _ => ?_) (fun _ => ?_)
    | split
    | fail_if_no_progress with_reducible apply State.Sound.upd
    | dsimp only)

theorem mxRing {s : State} (h : s.Sound) (u : Nat) (c : Cmd) (m : Mx) (fresh : Bool) :
    (s.mxRing u c m fresh).Sound := by
  unfold State.mxRing
  try dsimp only
  repeat' (first
    | with_reducible assumption
    | (show eventOp _ = true; rfl)
    | with_reducible apply State.Sound.sched
    | with_reducible apply State.Sound.mxGo
    | with_reducible refine State.Sound.foldl ?_ (fun _ _ _ => ?_)
    | with_reducible refine State.Sound.foldlFst ?_ (fun _ _ _ => ?_)
    | with_reducible refine State.Sound.ite (fun _ => ?_) (fun _ => ?_))

theorem freeSlotOf {s : State} (h : s.Sound) (u : Nat) (c : Cmd) :
    (s.freeSlotOf u c).Sound := by
  unfold State.freeSlotOf
  try dsimp only
  repeat' (first
    | with_reducible assumption
    | (show eventOp _ = true; rfl)
    | with_reducible exact True.intro
    | with_reducible apply State.Sound.setSlot
    | with_reducible apply State.Sound.nudgeMx
    | with_reducible apply State.Sound.emptySlot
    | with_reducible refine State.Sound.foldl ?_ (fun _ _ _ => ?_)
    | with_reducible refine State.Sound.foldlFst ?_ (fun _ _ _ => ?_)
    | with_reducible refine State.Sound.ite (fun _ => ?_) (fun _ => ?_)
    | split
    | fail_if_no_progress with_reducible apply State.Sound.upd
    | dsimp only)

theorem mxBegin {s : State} (h : s.Sound) (u : Nat) :
    (s.mxBegin u).Sound := by
  unfold State.mxBegin
  try dsimp only
  repeat' (first
    | with_reducible assumption
    | (show eventOp _ = true; rfl)
    | with_reducible exact True.intro
    | with_reducible apply State.Sound.mxRing
    | with_reducible apply State.Sound.sched
    | with_reducible apply State.Sound.yield
    | with_reducible apply State.Sound.onCmd
    | with_reducible refine State.Sound.foldl ?_ (fun _ _ _ => ?_)
    | with_reducible refine State.Sound.foldlFst ?_ (fun _ _ _ => ?_)
    | with_reducible refine State.Sound.ite (fun _ => ?_) (fun _ => ?_)
    | split
    | fail_if_no_progress with_reducible apply State.Sound.upd
    | dsimp only)

theorem mxIssue {s : State} (h : s.Sound) (t : Thread) (i : Instr) :
    (s.mxIssue t i).Sound := by
  unfold State.mxIssue
  try dsimp only
  repeat' (first
    | with_reducible assumption
    | (show eventOp _ = true; rfl)
    | with_reducible apply State.Sound.illegal
    | with_reducible apply State.Sound.fault
    | with_reducible apply State.Sound.engIssue
    | with_reducible apply State.Sound.sched
    | with_reducible refine State.Sound.foldl ?_ (fun _ _ _ => ?_)
    | with_reducible refine State.Sound.foldlFst ?_ (fun _ _ _ => ?_)
    | (intro y hy)
    | (intro y)
    | with_reducible refine State.Sound.ite (fun _ => ?_) (fun _ => ?_)
    | split)

theorem releaseEngine {s : State} (h : s.Sound) (c : Cmd) :
    (s.releaseEngine c).Sound := by
  unfold State.releaseEngine
  try dsimp only
  repeat' (first
    | with_reducible assumption
    | (show eventOp _ = true; rfl)
    | with_reducible exact True.intro
    | with_reducible apply State.Sound.sched
    | with_reducible apply State.Sound.onUnit
    | with_reducible refine State.Sound.foldl ?_ (fun _ _ _ => ?_)
    | with_reducible refine State.Sound.foldlFst ?_ (fun _ _ _ => ?_)
    | with_reducible refine State.Sound.ite (fun _ => ?_) (fun _ => ?_)
    | split
    | fail_if_no_progress with_reducible apply State.Sound.upd
    | dsimp only)

theorem stopCmd {s : State} (h : s.Sound) (c : Cmd) :
    (s.stopCmd c).Sound := by
  unfold State.stopCmd
  try dsimp only
  repeat' (first
    | with_reducible assumption
    | (show eventOp _ = true; rfl)
    | with_reducible exact True.intro
    | with_reducible apply State.Sound.onCmd
    | with_reducible apply State.Sound.releaseEngine
    | with_reducible apply State.Sound.stopSending
    | with_reducible apply State.Sound.sched
    | with_reducible refine State.Sound.foldl ?_ (fun _ _ _ => ?_)
    | with_reducible refine State.Sound.foldlFst ?_ (fun _ _ _ => ?_)
    | with_reducible refine State.Sound.ite (fun _ => ?_) (fun _ => ?_)
    | split
    | fail_if_no_progress with_reducible apply State.Sound.upd
    | dsimp only)

theorem applyResult {s : State} (h : s.Sound) (c : Cmd) (r : CmdResult) :
    (s.applyResult c r).Sound := by
  unfold State.applyResult
  try dsimp only
  repeat' (first
    | with_reducible assumption
    | with_reducible apply State.Sound.engWrite
    | with_reducible apply State.Sound.onUnit
    | with_reducible refine State.Sound.foldl ?_ (fun _ _ _ => ?_))

theorem endCmd {s : State} (h : s.Sound) (c : Cmd) (status : Nat) :
    (s.endCmd c status).Sound := by
  unfold State.endCmd
  try dsimp only
  repeat' (first
    | with_reducible assumption
    | (show eventOp _ = true; rfl)
    | with_reducible exact True.intro
    | with_reducible apply State.Sound.freeSlotOf
    | with_reducible apply State.Sound.finish
    | with_reducible apply State.Sound.sched
    | with_reducible apply State.Sound.onUnit
    | with_reducible refine State.Sound.foldl ?_ (fun _ _ _ => ?_)
    | with_reducible refine State.Sound.foldlFst ?_ (fun _ _ _ => ?_)
    | with_reducible refine State.Sound.ite (fun _ => ?_) (fun _ => ?_)
    | split
    | fail_if_no_progress with_reducible apply State.Sound.upd
    | dsimp only)

theorem endCancelled {s : State} (h : s.Sound) (c : Cmd) (at_ : Nat) :
    (s.endCancelled c at_).Sound := by
  unfold State.endCancelled
  try dsimp only
  repeat' (first
    | with_reducible assumption
    | (show eventOp _ = true; rfl)
    | with_reducible exact True.intro
    | with_reducible apply State.Sound.endCmd
    | with_reducible apply State.Sound.applyResult
    | with_reducible refine State.Sound.foldl ?_ (fun _ _ _ => ?_)
    | with_reducible refine State.Sound.foldlFst ?_ (fun _ _ _ => ?_)
    | with_reducible refine State.Sound.ite (fun _ => ?_) (fun _ => ?_)
    | split
    | fail_if_no_progress with_reducible apply State.Sound.upd
    | dsimp only)

theorem endFaulted {s : State} (h : s.Sound) (c : Cmd) (r : CmdResult) (f : EngFault) : (s.endFaulted c r f).Sound := by
  unfold State.endFaulted
  dsimp only
  split
  · exact State.Sound.ite (fun _ => h.consume _ _ _ _ _) fun _ => ((h.consume _ _ _ _ _).applyResult _ _).endCmd _ _
  · exact ((h.applyResult _ _).engRecord _ _ _).endCmd _ _

end State.Sound
end Sys2Proof.Machine
end

