-- ==== Sys2Proof/Laws/SoundDevice.lean ====
section
/-! SUPPORT. Sound states: the operations of the dispatcher, pre-emption, the host port, translation, residency and the fabric keep them. -/

namespace Sys2Proof.Machine
namespace State.Sound

theorem recordEnd {s : State} (h : s.Sound) (tag : Nat) (status : Nat) :
    (s.recordEnd tag status).Sound := by
  unfold State.recordEnd
  try dsimp only
  repeat' (first
    | with_reducible assumption
    | with_reducible refine State.Sound.foldl ?_ (fun _ _ _ => ?_)
    | with_reducible refine State.Sound.foldlFst ?_ (fun _ _ _ => ?_)
    | with_reducible refine State.Sound.ite (fun _ => ?_) (fun _ => ?_)
    | split
    | fail_if_no_progress with_reducible apply State.Sound.upd)

theorem popHead {s : State} (h : s.Sound) (p : Nat) :
    (s.popHead p).Sound := by
  unfold State.popHead
  try dsimp only
  repeat' (first
    | with_reducible assumption
    | with_reducible apply State.Sound.setPort
    | with_reducible refine State.Sound.foldl ?_ (fun _ _ _ => ?_)
    | with_reducible refine State.Sound.foldlFst ?_ (fun _ _ _ => ?_)
    | with_reducible refine State.Sound.ite (fun _ => ?_) (fun _ => ?_)
    | split
    | fail_if_no_progress with_reducible apply State.Sound.upd)

theorem grantSeg0 {s : State} (h : s.Sound) (lvl : Nat) (i : Nat) (n : Nat) :
    (s.grantSeg0 lvl i n).1.Sound := by
  unfold State.grantSeg0
  try dsimp only
  repeat' (first
    | with_reducible assumption
    | (show eventOp _ = true; rfl)
    | with_reducible exact True.intro
    | with_reducible apply State.Sound.touch
    | with_reducible apply State.Sound.zero
    | with_reducible refine State.Sound.foldl ?_ (fun _ _ _ => ?_)
    | with_reducible refine State.Sound.foldlFst ?_ (fun _ _ _ => ?_)
    | with_reducible refine State.Sound.ite (fun _ => ?_) (fun _ => ?_)
    | split
    | fail_if_no_progress with_reducible apply State.Sound.upd
    | dsimp only)

theorem grantSeg0_eq {s : State} (h : s.Sound) (lvl : Nat) (i : Nat) (n : Nat)  {u_ : State} {x_ : List Seg} (e_ : (s.grantSeg0 lvl i n) = (u_, x_)) : u_.Sound := by
  have := h.grantSeg0 lvl i n
  rw [e_] at this
  exact this

theorem grantShared {s : State} (h : s.Sound) (tag : Nat) (u : Nat) :
    (s.grantShared tag u).Sound := by
  unfold State.grantShared
  try dsimp only
  repeat' (first
    | with_reducible assumption
    | with_reducible apply State.Sound.grantSeg0
    | with_reducible refine State.Sound.grantSeg0_eq ?_ (by with_reducible assumption)
    | with_reducible apply State.Sound.onLaunch
    | with_reducible refine State.Sound.foldl ?_ (fun _ _ _ => ?_)
    | with_reducible refine State.Sound.foldlFst ?_ (fun _ _ _ => ?_)
    | with_reducible refine State.Sound.ite (fun _ => ?_) (fun _ => ?_)
    | split)

theorem refuse {s : State} (h : s.Sound) (p : Nat) (r : QRec) (code : Nat) :
    (s.refuse p r code).Sound := by
  unfold State.refuse
  try dsimp only
  repeat' (first
    | with_reducible assumption
    | with_reducible apply State.Sound.completion
    | with_reducible apply State.Sound.recordEnd
    | with_reducible apply State.Sound.popHead)

theorem dropCx {s : State} (h : s.Sound) (tag : Nat) (u : Nat) :
    (s.dropCx tag u).Sound := by
  unfold State.dropCx
  try dsimp only
  repeat' (first
    | with_reducible assumption
    | (show eventOp _ = true; rfl)
    | with_reducible exact True.intro
    | with_reducible apply State.Sound.onUnit
    | with_reducible refine State.Sound.foldl ?_ (fun _ _ _ => ?_)
    | with_reducible refine State.Sound.foldlFst ?_ (fun _ _ _ => ?_)
    | with_reducible refine State.Sound.ite (fun _ => ?_) (fun _ => ?_)
    | split
    | fail_if_no_progress with_reducible apply State.Sound.upd
    | dsimp only)

theorem createCrew {s : State} (h : s.Sound) (l : Launch) (gang : Nat) (idx : Nat) (u : Nat) :
    (s.createCrew l gang idx u).Sound := by
  unfold State.createCrew
  try dsimp only
  repeat' (first
    | with_reducible assumption
    | (show eventOp _ = true; rfl)
    | with_reducible exact True.intro
    | with_reducible apply State.Sound.grantShared
    | with_reducible apply State.Sound.grantSeg0
    | with_reducible refine State.Sound.grantSeg0_eq ?_ (by with_reducible assumption)
    | with_reducible apply State.Sound.onUnit
    | with_reducible apply State.Sound.sched
    | with_reducible apply State.Sound.setCrew
    | with_reducible apply State.Sound.dropCx
    | with_reducible refine State.Sound.foldl ?_ (fun _ _ _ => ?_)
    | with_reducible refine State.Sound.foldlFst ?_ (fun _ _ _ => ?_)
    | with_reducible refine State.Sound.ite (fun _ => ?_) (fun _ => ?_)
    | split
    | fail_if_no_progress with_reducible apply State.Sound.upd
    | dsimp only)

theorem freeLaunch {s : State} (h : s.Sound) (tag : Nat) :
    (s.freeLaunch tag).Sound := by
  unfold State.freeLaunch
  try dsimp only
  repeat' (first
    | with_reducible assumption
    | (show eventOp _ = true; rfl)
    | with_reducible exact True.intro
    | with_reducible apply State.Sound.dropCx
    | with_reducible refine State.Sound.foldl ?_ (fun _ _ _ => ?_)
    | with_reducible refine State.Sound.foldlFst ?_ (fun _ _ _ => ?_)
    | with_reducible refine State.Sound.ite (fun _ => ?_) (fun _ => ?_)
    | split
    | fail_if_no_progress with_reducible apply State.Sound.upd
    | dsimp only)

theorem launchFlush {s : State} (h : s.Sound) (tag : Nat) (f : Flow) :
    (s.launchFlush tag f).Sound := by
  unfold State.launchFlush
  try dsimp only
  repeat' (first
    | with_reducible assumption
    | with_reducible apply State.Sound.onLaunch
    | with_reducible apply State.Sound.sendReq)

theorem commitLaunch {s : State} (h : s.Sound) (l : Launch) (xs : List Nat) :
    (s.commitLaunch l xs).Sound := by
  unfold State.commitLaunch
  try dsimp only
  repeat' (first
    | with_reducible assumption
    | with_reducible apply State.Sound.createCrew
    | with_reducible apply State.Sound.setLaunch
    | with_reducible refine State.Sound.foldl ?_ (fun _ _ _ => ?_))

theorem finishLaunch {s : State} (h : s.Sound) (tag : Nat) (status : Nat) (code : Nat) :
    (s.finishLaunch tag status code).Sound := by
  unfold State.finishLaunch
  try dsimp only
  repeat' (first
    | with_reducible assumption
    | (show eventOp _ = true; rfl)
    | with_reducible apply State.Sound.launchFlush
    | with_reducible apply State.Sound.setLaunch
    | with_reducible apply State.Sound.sched
    | with_reducible apply State.Sound.completion
    | with_reducible apply State.Sound.recordEnd
    | with_reducible apply State.Sound.freeLaunch
    | with_reducible refine State.Sound.foldl ?_ (fun _ _ _ => ?_)
    | with_reducible refine State.Sound.foldlFst ?_ (fun _ _ _ => ?_)
    | with_reducible refine State.Sound.ite (fun _ => ?_) (fun _ => ?_)
    | split)

theorem placePass {s : State} (h : s.Sound) (p : Nat) (r : QRec) :
    (s.placePass p r).Sound := by
  unfold State.placePass
  try dsimp only
  repeat' (first
    | with_reducible assumption
    | (show eventOp _ = true; rfl)
    | with_reducible apply State.Sound.commitLaunch
    | with_reducible apply State.Sound.popHead
    | with_reducible apply State.Sound.sched
    | with_reducible apply State.Sound.setPort
    | with_reducible refine State.Sound.foldl ?_ (fun _ _ _ => ?_)
    | with_reducible refine State.Sound.foldlFst ?_ (fun _ _ _ => ?_)
    | with_reducible refine State.Sound.ite (fun _ => ?_) (fun _ => ?_)
    | split
    | fail_if_no_progress with_reducible apply State.Sound.upd)

theorem sweepOne {s : State} (h : s.Sound) (tag : Nat) :
    (s.sweepOne tag).Sound := by
  unfold State.sweepOne
  try dsimp only
  repeat' (first
    | with_reducible assumption
    | with_reducible apply State.Sound.endLaunch
    | with_reducible apply State.Sound.setLaunch
    | with_reducible apply State.Sound.onLaunch
    | with_reducible refine State.Sound.foldl ?_ (fun _ _ _ => ?_)
    | with_reducible refine State.Sound.foldlFst ?_ (fun _ _ _ => ?_)
    | with_reducible refine State.Sound.ite (fun _ => ?_) (fun _ => ?_)
    | split)

theorem headCheck {s : State} (h : s.Sound) (p : Nat) :
    (s.headCheck p).Sound := by
  unfold State.headCheck
  try dsimp only
  repeat' (first
    | with_reducible assumption
    | (show eventOp _ = true; rfl)
    | with_reducible exact True.intro
    | with_reducible apply State.Sound.writeHeld
    | with_reducible apply State.Sound.ueReads
    | with_reducible apply State.Sound.refuse
    | with_reducible apply State.Sound.setPort
    | with_reducible apply State.Sound.placePass
    | with_reducible refine State.Sound.foldl ?_ (fun _ _ _ => ?_)
    | with_reducible refine State.Sound.foldlFst ?_ (fun _ _ _ => ?_)
    | with_reducible refine State.Sound.ite (fun _ => ?_) (fun _ => ?_)
    | split
    | fail_if_no_progress with_reducible apply State.Sound.upd
    | dsimp only)

theorem copyRange {s : State} (h : s.Sound) (src dst n : Nat) : (s.copyRange src dst n).Sound :=
  ⟨Memory.wf_foldl _ (fun m c hm => wrByte_wf _ _ _ hm) _ _ (mclear_wf _ _ _ h.mem), h.desc,
    rising_foldl _ (fun m c hm => rising_mset _ _ _ hm) _ _ (rising_mclear _ _ _ h.psn), h.descPsn, h.threads, h.inputs, h.agenda⟩

/-- Bytes written, however they are spelt. -/
theorem wrBytes {s : State} (h : s.Sound) (a : Nat) (bs : List Byte) : ({ s with mem := Machine.wrBytes s.mem a bs } : State).Sound :=
  ⟨wrBytes_wf _ _ _ h.mem, h.desc, h.psn, h.descPsn, h.threads, h.inputs, h.agenda⟩

theorem saveSeg {s : State} (h : s.Sound) (lvl i : Nat) (g : Seg) (at_ : Nat) : (s.saveSeg lvl i g at_).Sound := by
  unfold State.saveSeg
  refine h.foldl fun s x hs => (hs.copyRange _ _ _).foldl fun s b hb => ?_
  have h1 := hb.wrBytes (at_ + g.len + 2 * (x.2 * (granule lvl / 64) + b)) (natLe 2 (s.descOf (levelBase lvl i + x.1 * granule lvl + 64 * b)).toNat)
  dsimp only
  split
  · exact ⟨h1.mem, h1.desc, rising_mset _ _ _ h1.psn, h1.descPsn, h1.threads, h1.inputs, h1.agenda⟩
  · exact h1

theorem putWords {s : State} (h : s.Sound) (a : Nat) (ws : List Word) :
    (s.putWords a ws).Sound := by
  unfold State.putWords
  try dsimp only
  repeat' (first
    | with_reducible assumption
    | (show eventOp _ = true; rfl)
    | with_reducible exact True.intro
    | with_reducible apply State.Sound.putVals
    | with_reducible refine State.Sound.foldl ?_ (fun _ _ _ => ?_)
    | with_reducible refine State.Sound.foldlFst ?_ (fun _ _ _ => ?_)
    | with_reducible refine State.Sound.ite (fun _ => ?_) (fun _ => ?_)
    | split
    | fail_if_no_progress with_reducible apply State.Sound.upd
    | dsimp only)

theorem loadSeg {s : State} (h : s.Sound) (lvl i : Nat) (g : Seg) (at_ : Nat) : (s.loadSeg lvl i g at_).Sound := by
  unfold State.loadSeg
  exact h.foldl fun s x hs => ((hs.copyRange _ _ _).touch _ _ _).foldl fun s b hb => (hb.setDesc _ _).poisonDesc _ _

theorem putLatch {s : State} (h : s.Sound) (a : Nat) (l : LatchSlot) : (s.putLatch a l).Sound := by
  unfold State.putLatch
  refine State.Sound.putWords ?_ _ _
  split
  · refine h.foldl fun s x hs => ?_
    have h2 := (hs.wrBytes (a + 64 * x.2) x.1.1).wrBytes (a + 0x20000 + 2 * x.2) (natLe 2 x.1.2.1.toNat)
    exact ⟨h2.mem, h2.desc, rising_foldl _ (fun m c hm => rising_mset _ _ _ hm) _ _ h2.psn, h2.descPsn, h2.threads, h2.inputs, h2.agenda⟩
  · exact h

theorem writeImage {s : State} (h : s.Sound) (v : Saved) : (s.writeImage v).Sound := by
  unfold State.writeImage
  dsimp only
  refine State.Sound.foldl ?_ fun s e hs => (hs.wrBytes _ _).putWords _ _
  refine State.Sound.foldl ?_ fun s e hs => hs.putVals _ _
  refine State.Sound.putLatch (State.Sound.putLatch ?_ _ _) _ _
  refine State.Sound.foldl ?_ fun s e hs => hs.putWords _ _
  refine State.Sound.foldl ?_ fun s e hs => hs.putWords _ _
  split <;> (try split) <;> (try with_reducible apply State.Sound.putWords)
  all_goals
    refine State.Sound.foldl ?_ fun s e hs => hs.putWords _ _
    refine State.Sound.foldl ?_ fun s e hs => hs.putWords _ _
    refine State.Sound.foldl ?_ fun s e hs => hs.putVals _ _
    refine State.Sound.foldl ?_ fun s e hs => hs.putWords _ _
    refine State.Sound.putWords ?_ _ _
    refine State.Sound.foldl (h.zero _ _).upd fun s e hs => ?_
    split
    · exact ⟨wrByte_wf _ _ _ hs.mem, hs.desc, hs.psn, hs.descPsn, hs.threads, hs.inputs, hs.agenda⟩
    · exact hs

theorem restoreS1 {s : State} (h : s.Sound) (u at_ : Nat) (l : List (Seg × Nat)) (acc : List Seg) : (State.restoreS1 u at_ s l acc).1.Sound := by
  induction l generalizing s acc with
  | nil => exact h
  | cons p r ih =>
    unfold State.restoreS1
    exact ih (h.loadSeg _ _ _ _) _

theorem purge {s : State} (h : s.Sound) (u : Nat) (ids chans : List Nat) : (s.purge u ids chans).Sound :=
  ⟨h.mem, h.desc, h.psn, h.descPsn, h.threads, h.inputs, all_filter _ _ _ h.agenda⟩

theorem preemptDone {s : State} (h : s.Sound) (result : Nat) :
    (s.preemptDone result).Sound := by
  unfold State.preemptDone
  try dsimp only
  repeat' (first
    | with_reducible assumption
    | with_reducible refine State.Sound.foldl ?_ (fun _ _ _ => ?_)
    | with_reducible refine State.Sound.foldlFst ?_ (fun _ _ _ => ?_)
    | with_reducible refine State.Sound.ite (fun _ => ?_) (fun _ => ?_)
    | split
    | fail_if_no_progress with_reducible apply State.Sound.upd)

theorem unstartMx {s : State} (h : s.Sound) (x : Cmd) : (s.unstartMx x).Sound := by
  unfold State.unstartMx
  dsimp only
  split
  · refine State.Sound.ite (fun _ => h) fun _ => ?_
    have hp := h.purge x.t.unit [x.id] []
    have h1 : ∀ f : Sched → Bool, State.Sound { s.purge x.t.unit [x.id] [] with agenda := (s.purge x.t.unit [x.id] []).agenda.filter f } := fun f =>
      ⟨hp.mem, hp.desc, hp.psn, hp.descPsn, hp.threads, hp.inputs, all_filter _ _ _ hp.agenda⟩
    refine State.Sound.onCmd (State.Sound.onUnit ?_ _ _) _ _ _
    split
    · exact (h1 _).setSlot _ _ _
    · exact h1 _
  · exact h

theorem restoreShared {s : State} (h : s.Sound) (tag u : Nat) (g : SharedImg) : (s.restoreShared tag u g).Sound := by
  unfold State.restoreShared
  dsimp only
  refine State.Sound.ite (fun _ => h) (fun _ => ?_)
  split
  · exact h
  · have h1 : ∀ (f : Launch → Launch) (gs : List Nat), (gs.foldl (fun s n => s.touch (levelBase g.lvl (State.inst g.lvl u) + n * granule g.lvl) (granule g.lvl) none)
        ((gs.foldl (fun s n => s.zero (levelBase g.lvl (State.inst g.lvl u) + n * granule g.lvl) (granule g.lvl)) s).onLaunch tag f)).Sound :=
      fun f gs => ((h.foldl fun s n hs => hs.zero _ _).onLaunch _ _).foldl fun s n hs => hs.touch _ _ _
    exact ⟨Memory.wf_foldl _ (fun m c hm => wrByte_wf _ _ _ hm) _ _ (h1 _ _).mem, desc_foldl _ (fun m c hm => wrDesc_ok _ _ _ hm) _ _ (h1 _ _).desc,
      rising_foldl _ (fun m c hm => rising_mset _ _ _ hm) _ _ (h1 _ _).psn, rising_foldl _ (fun m c hm => rising_mset _ _ _ hm) _ _ (h1 _ _).descPsn,
      (h1 _ _).threads, (h1 _ _).inputs, (h1 _ _).agenda⟩

theorem saveOver {s : State} (h : s.Sound) (tag : Nat) (gang : Nat) :
    (s.saveOver tag gang).Sound := by
  unfold State.saveOver
  try dsimp only
  repeat' (first
    | with_reducible assumption
    | with_reducible apply State.Sound.preemptDone
    | with_reducible refine State.Sound.foldl ?_ (fun _ _ _ => ?_)
    | with_reducible refine State.Sound.foldlFst ?_ (fun _ _ _ => ?_)
    | with_reducible refine State.Sound.ite (fun _ => ?_) (fun _ => ?_))

theorem stopChannels {s : State} (h : s.Sound) (c : Crew) :
    (s.stopChannels c).Sound := by
  unfold State.stopChannels
  try dsimp only
  repeat' (first
    | with_reducible assumption
    | (show eventOp _ = true; rfl)
    | with_reducible exact True.intro
    | with_reducible apply State.Sound.haltNow
    | with_reducible apply State.Sound.setChan
    | with_reducible refine State.Sound.foldl ?_ (fun _ _ _ => ?_)
    | with_reducible refine State.Sound.foldlFst ?_ (fun _ _ _ => ?_)
    | with_reducible refine State.Sound.ite (fun _ => ?_) (fun _ => ?_)
    | split
    | fail_if_no_progress with_reducible apply State.Sound.upd
    | dsimp only)

theorem haltVx {s : State} (h : s.Sound) (x : Cmd) :
    (s.haltVx x).Sound := by
  unfold State.haltVx
  try dsimp only
  repeat' (first
    | with_reducible assumption
    | (show eventOp _ = true; rfl)
    | with_reducible exact True.intro
    | with_reducible apply State.Sound.engWrite
    | with_reducible apply State.Sound.purge
    | with_reducible apply State.Sound.onUnit
    | with_reducible apply State.Sound.onCmd
    | with_reducible refine State.Sound.foldl ?_ (fun _ _ _ => ?_)
    | with_reducible refine State.Sound.foldlFst ?_ (fun _ _ _ => ?_)
    | with_reducible refine State.Sound.ite (fun _ => ?_) (fun _ => ?_)
    | split
    | fail_if_no_progress with_reducible apply State.Sound.upd
    | dsimp only)

theorem resumeChan {s : State} (h : s.Sound) (u : Nat) (ch : Nat) :
    (s.resumeChan u ch).Sound := by
  unfold State.resumeChan
  try dsimp only
  repeat' (first
    | with_reducible assumption
    | (show eventOp _ = true; rfl)
    | with_reducible exact True.intro
    | with_reducible apply State.Sound.sched
    | with_reducible apply State.Sound.setChan
    | with_reducible apply State.Sound.copyGo
    | with_reducible refine State.Sound.foldl ?_ (fun _ _ _ => ?_)
    | with_reducible refine State.Sound.foldlFst ?_ (fun _ _ _ => ?_)
    | with_reducible refine State.Sound.ite (fun _ => ?_) (fun _ => ?_)
    | split
    | fail_if_no_progress with_reducible apply State.Sound.upd
    | dsimp only)

theorem stopEngines {s : State} (h : s.Sound) (c : Crew) :
    (s.stopEngines c).Sound := by
  unfold State.stopEngines
  try dsimp only
  repeat' (first
    | with_reducible assumption
    | (show eventOp _ = true; rfl)
    | with_reducible exact True.intro
    | with_reducible apply State.Sound.unstartMx
    | with_reducible apply State.Sound.haltVx
    | with_reducible apply State.Sound.stopChannels
    | with_reducible refine State.Sound.foldl ?_ (fun _ _ _ => ?_)
    | with_reducible refine State.Sound.foldlFst ?_ (fun _ _ _ => ?_)
    | with_reducible refine State.Sound.ite (fun _ => ?_) (fun _ => ?_)
    | split
    | fail_if_no_progress with_reducible apply State.Sound.upd
    | dsimp only)

theorem saveCrew {s : State} (h : s.Sound) (l : Launch) (c : Crew) (image : Nat) :
    (s.saveCrew l c image).Sound := by
  unfold State.saveCrew
  try dsimp only
  repeat' (first
    | with_reducible assumption
    | (show eventOp _ = true; rfl)
    | with_reducible exact True.intro
    | with_reducible apply State.Sound.writeImage
    | with_reducible apply State.Sound.saveSeg
    | with_reducible apply State.Sound.onUnit
    | with_reducible apply State.Sound.purge
    | with_reducible apply State.Sound.freeTwin
    | with_reducible apply State.Sound.raiseGen
    | with_reducible apply State.Sound.dropThread
    | with_reducible apply State.Sound.dropCx
    | with_reducible apply State.Sound.onLaunch
    | with_reducible apply State.Sound.nudgeMx
    | with_reducible apply State.Sound.sched
    | with_reducible refine State.Sound.foldl ?_ (fun _ _ _ => ?_)
    | with_reducible refine State.Sound.foldlFst ?_ (fun _ _ _ => ?_)
    | with_reducible refine State.Sound.ite (fun _ => ?_) (fun _ => ?_)
    | split
    | fail_if_no_progress with_reducible apply State.Sound.upd
    | dsimp only)

theorem resumeEngines {s : State} (h : s.Sound) (v : Saved) (u : Nat) :
    (s.resumeEngines v u).Sound := by
  unfold State.resumeEngines
  try dsimp only
  repeat' (first
    | with_reducible assumption
    | (show eventOp _ = true; rfl)
    | with_reducible exact True.intro
    | with_reducible apply State.Sound.sched
    | with_reducible apply State.Sound.resumeChan
    | with_reducible apply State.Sound.nudgeMx
    | with_reducible refine State.Sound.foldl ?_ (fun _ _ _ => ?_)
    | with_reducible refine State.Sound.foldlFst ?_ (fun _ _ _ => ?_)
    | with_reducible refine State.Sound.ite (fun _ => ?_) (fun _ => ?_)
    | split
    | fail_if_no_progress with_reducible apply State.Sound.upd
    | dsimp only)

theorem commitThreads {s : State} (h : s.Sound) (tag : Nat) (u : Nat) :
    (s.commitThreads tag u).Sound := by
  unfold State.commitThreads
  try dsimp only
  repeat' (first
    | with_reducible assumption
    | with_reducible apply State.Sound.consume
    | with_reducible apply State.Sound.setThread
    | with_reducible refine State.Sound.foldl ?_ (fun _ _ _ => ?_)
    | with_reducible refine State.Sound.foldlFst ?_ (fun _ _ _ => ?_)
    | with_reducible refine State.Sound.ite (fun _ => ?_) (fun _ => ?_)
    | split)

theorem replaceThread {s : State} (h : s.Sound) (t : Thread) (u : Nat) :
    (s.replaceThread t u).Sound := by
  unfold State.replaceThread
  try dsimp only
  repeat' (first
    | with_reducible assumption
    | (show eventOp _ = true; rfl)
    | with_reducible apply State.Sound.setThread
    | with_reducible apply State.Sound.sched
    | with_reducible apply State.Sound.switchPoint
    | with_reducible apply State.Sound.onRef
    | with_reducible apply State.Sound.consume
    | with_reducible refine State.Sound.foldl ?_ (fun _ _ _ => ?_)
    | with_reducible refine State.Sound.foldlFst ?_ (fun _ _ _ => ?_)
    | with_reducible refine State.Sound.ite (fun _ => ?_) (fun _ => ?_)
    | split)

theorem restoreCrew {s : State} (h : s.Sound) (l : Launch) (v : Saved) (u : Nat) :
    (s.restoreCrew l v u).Sound := by
  unfold State.restoreCrew
  try dsimp only
  repeat' (first
    | with_reducible assumption
    | with_reducible apply State.Sound.restoreS1
    | with_reducible apply State.Sound.restoreShared
    | with_reducible apply State.Sound.grantShared
    | with_reducible apply State.Sound.setCrew
    | with_reducible apply State.Sound.replaceThread
    | with_reducible apply State.Sound.onUnit
    | with_reducible apply State.Sound.resumeEngines
    | with_reducible refine State.Sound.foldl ?_ (fun _ _ _ => ?_)
    | with_reducible refine State.Sound.foldlFst ?_ (fun _ _ _ => ?_)
    | with_reducible refine State.Sound.ite (fun _ => ?_) (fun _ => ?_)
    | split
    | fail_if_no_progress with_reducible apply State.Sound.upd)

theorem restoreGang {s : State} (h : s.Sound) (l : Launch) (vs : List Saved) (x : Nat) (gang : Nat) :
    (s.restoreGang l vs x gang).Sound := by
  unfold State.restoreGang
  try dsimp only
  repeat' (first
    | with_reducible assumption
    | (show eventOp _ = true; rfl)
    | with_reducible exact True.intro
    | with_reducible apply State.Sound.restoreShared
    | with_reducible apply State.Sound.restoreCrew
    | with_reducible apply State.Sound.preemptDone
    | with_reducible refine State.Sound.foldl ?_ (fun _ _ _ => ?_)
    | with_reducible refine State.Sound.foldlFst ?_ (fun _ _ _ => ?_)
    | with_reducible refine State.Sound.ite (fun _ => ?_) (fun _ => ?_)
    | split
    | fail_if_no_progress with_reducible apply State.Sound.upd
    | dsimp only)

theorem took {s : State} (h : s.Sound) (b : Nat) :
    (s.took b).Sound := by
  unfold State.took
  try dsimp only
  repeat' (first
    | with_reducible assumption
    | (show eventOp _ = true; rfl)
    | with_reducible exact True.intro
    | with_reducible refine State.Sound.foldl ?_ (fun _ _ _ => ?_)
    | with_reducible refine State.Sound.foldlFst ?_ (fun _ _ _ => ?_)
    | with_reducible refine State.Sound.ite (fun _ => ?_) (fun _ => ?_)
    | split
    | fail_if_no_progress with_reducible apply State.Sound.upd
    | dsimp only)

theorem putBytes {s : State} (h : s.Sound) (a : Nat) (bs : List Byte) : (s.putBytes a bs).Sound := by
  refine ⟨wrBytes_wf _ _ _ h.mem, h.desc, ?_, h.descPsn, h.threads, h.inputs, h.agenda⟩
  unfold State.putBytes
  dsimp only
  split
  · exact rising_mclear _ _ _ h.psn
  · exact h.psn

theorem bootCause {s : State} (h : s.Sound) (c : BitVec 8) :
    (s.bootCause c).Sound := by
  unfold State.bootCause
  try dsimp only
  repeat' (first
    | with_reducible assumption
    | with_reducible refine State.Sound.foldl ?_ (fun _ _ _ => ?_)
    | with_reducible refine State.Sound.foldlFst ?_ (fun _ _ _ => ?_)
    | with_reducible refine State.Sound.ite (fun _ => ?_) (fun _ => ?_)
    | split
    | fail_if_no_progress with_reducible apply State.Sound.upd)

theorem clearRetired {s : State} (h : s.Sound) (st : Nat) : (s.clearRetired st).Sound := by
  unfold State.clearRetired
  try dsimp only
  repeat' (first
    | with_reducible assumption
    | with_reducible refine State.Sound.ite (fun _ => ?_) (fun _ => ?_)
    | fail_if_no_progress with_reducible apply State.Sound.upd)

theorem mbxFinish {s : State} (h : s.Sound) (r : BitVec 8) :
    (s.mbxFinish r).Sound := by
  unfold State.mbxFinish
  try dsimp only
  repeat' (first
    | with_reducible assumption
    | with_reducible apply State.Sound.msi
    | with_reducible refine State.Sound.foldl ?_ (fun _ _ _ => ?_)
    | with_reducible refine State.Sound.foldlFst ?_ (fun _ _ _ => ?_)
    | with_reducible refine State.Sound.ite (fun _ => ?_) (fun _ => ?_)
    | split
    | fail_if_no_progress with_reducible apply State.Sound.upd)

theorem takeBanks {s : State} (h : s.Sound) (a : Nat) (n : Nat) :
    (s.takeBanks a n).Sound := by
  unfold State.takeBanks
  try dsimp only
  repeat' (first
    | with_reducible assumption
    | (show eventOp _ = true; rfl)
    | with_reducible exact True.intro
    | with_reducible apply State.Sound.takeBank
    | with_reducible refine State.Sound.foldl ?_ (fun _ _ _ => ?_)
    | with_reducible refine State.Sound.foldlFst ?_ (fun _ _ _ => ?_)
    | with_reducible refine State.Sound.ite (fun _ => ?_) (fun _ => ?_)
    | split
    | fail_if_no_progress with_reducible apply State.Sound.upd
    | dsimp only)

theorem bindVendor {s : State} (h : s.Sound) (st : Nat) (gangs : List Nat) : ∀ u, s.bindVendor st gangs = some u → u.Sound := by
  intro u e
  obtain ⟨_, _, rfl⟩ := Option.map_eq_some_iff.1 e
  exact h.upd

theorem extend {s : State} (h : s.Sound) (m : Nat) (data : List Byte) :
    (s.extend m data).Sound := by
  unfold State.extend
  try dsimp only
  repeat' (first
    | with_reducible assumption
    | (show eventOp _ = true; rfl)
    | with_reducible exact True.intro
    | with_reducible refine State.Sound.foldl ?_ (fun _ _ _ => ?_)
    | with_reducible refine State.Sound.foldlFst ?_ (fun _ _ _ => ?_)
    | with_reducible refine State.Sound.ite (fun _ => ?_) (fun _ => ?_)
    | split
    | fail_if_no_progress with_reducible apply State.Sound.upd
    | dsimp only)

theorem measure {s : State} (h : s.Sound) (m : Nat) (i : Image) :
    (s.measure m i).Sound := by
  unfold State.measure
  try dsimp only
  repeat' (first
    | with_reducible assumption
    | with_reducible apply State.Sound.extend
    | with_reducible refine State.Sound.foldl ?_ (fun _ _ _ => ?_)
    | with_reducible refine State.Sound.foldlFst ?_ (fun _ _ _ => ?_)
    | with_reducible refine State.Sound.ite (fun _ => ?_) (fun _ => ?_)
    | split
    | fail_if_no_progress with_reducible apply State.Sound.upd)

theorem barWords {s : State} (h : s.Sound) (a : Nat) (n : Nat) :
    (Sys2Proof.Machine.barWords s a n).1.Sound := by
  unfold Sys2Proof.Machine.barWords
  try dsimp only
  repeat' (first
    | with_reducible assumption
    | (show eventOp _ = true; rfl)
    | with_reducible exact True.intro
    | with_reducible apply State.Sound.eccVal
    | with_reducible refine State.Sound.eccVal_eq ?_ (by with_reducible assumption)
    | with_reducible refine State.Sound.foldl ?_ (fun _ _ _ => ?_)
    | with_reducible refine State.Sound.foldlFst ?_ (fun _ _ _ => ?_)
    | with_reducible refine State.Sound.ite (fun _ => ?_) (fun _ => ?_)
    | split
    | fail_if_no_progress with_reducible apply State.Sound.upd
    | dsimp only)

theorem barWords_eq {s : State} (h : s.Sound) (a : Nat) (n : Nat)  {u_ : State} {x_ : List (Option Word)} (e_ : (Sys2Proof.Machine.barWords s a n) = (u_, x_)) : u_.Sound := by
  have := h.barWords a n
  rw [e_] at this
  exact this

theorem cacheEntry {s : State} (h : s.Sound) (e : TlbEnt) :
    (s.cacheEntry e).Sound := by
  unfold State.cacheEntry
  try dsimp only
  repeat' (first
    | with_reducible assumption
    | with_reducible refine State.Sound.foldl ?_ (fun _ _ _ => ?_)
    | with_reducible refine State.Sound.foldlFst ?_ (fun _ _ _ => ?_)
    | with_reducible refine State.Sound.ite (fun _ => ?_) (fun _ => ?_)
    | split
    | fail_if_no_progress with_reducible apply State.Sound.upd)

theorem dropEntries {s : State} (h : s.Sound) (lo : Nat) (hi : Nat) :
    (s.dropEntries lo hi).Sound := by
  unfold State.dropEntries
  try dsimp only
  repeat' (first
    | with_reducible assumption
    | with_reducible refine State.Sound.foldl ?_ (fun _ _ _ => ?_)
    | with_reducible refine State.Sound.foldlFst ?_ (fun _ _ _ => ?_)
    | with_reducible refine State.Sound.ite (fun _ => ?_) (fun _ => ?_)
    | split
    | fail_if_no_progress with_reducible apply State.Sound.upd)

theorem walkEnd {s : State} (h : s.Sound) (cluster : Nat) (root : Nat) (va : Nat) :
    (s.walkEnd cluster root va).Sound := by
  unfold State.walkEnd
  try dsimp only
  repeat' (first
    | with_reducible assumption
    | (show eventOp _ = true; rfl)
    | with_reducible exact True.intro
    | with_reducible apply State.Sound.sched
    | with_reducible apply State.Sound.keepUppers
    | with_reducible apply State.Sound.ueReads
    | with_reducible apply State.Sound.cacheEntry
    | with_reducible refine State.Sound.foldl ?_ (fun _ _ _ => ?_)
    | with_reducible refine State.Sound.foldlFst ?_ (fun _ _ _ => ?_)
    | with_reducible refine State.Sound.ite (fun _ => ?_) (fun _ => ?_)
    | split
    | fail_if_no_progress with_reducible apply State.Sound.upd
    | dsimp only)

theorem writePage {s : State} (h : s.Sound) (m : Mapped) (e : Word) :
    (s.writePage m e).Sound := by
  unfold State.writePage
  try dsimp only
  repeat' (first
    | with_reducible assumption
    | with_reducible apply State.Sound.dropEntries
    | with_reducible apply State.Sound.store
    | with_reducible refine State.Sound.foldl ?_ (fun _ _ _ => ?_))

theorem clearRec {s : State} (h : s.Sound) (i : Nat) :
    (s.clearRec i).Sound := by
  unfold State.clearRec
  try dsimp only
  repeat' (first
    | with_reducible assumption
    | with_reducible apply State.Sound.store
    | with_reducible refine State.Sound.foldl ?_ (fun _ _ _ => ?_))

theorem whileServing {s : State} (h : s.Sound) (p : Packet) (k : State) (hk : k.Sound) :
    (s.whileServing p k).Sound := by
  unfold State.whileServing
  try dsimp only
  repeat' (first
    | with_reducible assumption
    | (show eventOp _ = true; rfl)
    | with_reducible exact True.intro
    | with_reducible refine State.Sound.foldl ?_ (fun _ _ _ => ?_)
    | with_reducible refine State.Sound.foldlFst ?_ (fun _ _ _ => ?_)
    | with_reducible refine State.Sound.ite (fun _ => ?_) (fun _ => ?_)
    | split
    | fail_if_no_progress with_reducible apply State.Sound.upd
    | dsimp only)

theorem recmd {s : State} (h : s.Sound) (i : Instr) (c : ResCmd) (hi : eventOp i = true) : (s.recmd i c).Sound := h.upd.schedEv _ _ _ hi

theorem unserve {s : State} (h : s.Sound) (c : Collapse) :
    (s.unserve c).Sound := by
  unfold State.unserve
  try dsimp only
  repeat' (first
    | with_reducible assumption
    | (show eventOp _ = true; rfl)
    | with_reducible exact True.intro
    | with_reducible refine State.Sound.foldl ?_ (fun _ _ _ => ?_)
    | with_reducible refine State.Sound.foldlFst ?_ (fun _ _ _ => ?_)
    | with_reducible refine State.Sound.ite (fun _ => ?_) (fun _ => ?_)
    | split
    | fail_if_no_progress with_reducible apply State.Sound.upd
    | dsimp only)

theorem putWork {s : State} (h : s.Sound) (w : ResWork) (x : ResWork) :
    (s.putWork w x).Sound := by
  unfold State.putWork
  try dsimp only
  repeat' (first
    | with_reducible assumption
    | (show eventOp _ = true; rfl)
    | with_reducible exact True.intro
    | with_reducible refine State.Sound.foldl ?_ (fun _ _ _ => ?_)
    | with_reducible refine State.Sound.foldlFst ?_ (fun _ _ _ => ?_)
    | with_reducible refine State.Sound.ite (fun _ => ?_) (fun _ => ?_)
    | split
    | fail_if_no_progress with_reducible apply State.Sound.upd
    | dsimp only)

theorem writeRec {s : State} (h : s.Sound) (r : State.DirRec) :
    (s.writeRec r).Sound := by
  unfold State.writeRec
  try dsimp only
  repeat' (first
    | with_reducible assumption
    | with_reducible apply State.Sound.store
    | with_reducible refine State.Sound.foldl ?_ (fun _ _ _ => ?_))

theorem takeNode {s : State} (h : s.Sound)  :
    (s.takeNode).2.Sound := by
  unfold State.takeNode
  try dsimp only
  repeat' (first
    | with_reducible assumption
    | with_reducible refine State.Sound.foldl ?_ (fun _ _ _ => ?_)
    | with_reducible refine State.Sound.foldlFst ?_ (fun _ _ _ => ?_)
    | with_reducible refine State.Sound.ite (fun _ => ?_) (fun _ => ?_)
    | split
    | fail_if_no_progress with_reducible apply State.Sound.upd)

theorem takeNode_eq {s : State} (h : s.Sound)   {x_ : Nat} {u_ : State} (e_ : (s.takeNode) = (x_, u_)) : u_.Sound := by
  have := h.takeNode 
  rw [e_] at this
  exact this

theorem splitRec {s : State} (h : s.Sound) (r : State.DirRec) (va : Nat) :
    ∀ u, s.splitRec r va = some u → u.Sound := by
  unfold State.splitRec
  try dsimp only
  repeat' (first
    | with_reducible assumption
    | with_reducible apply State.Sound.writeRec
    | with_reducible refine State.Sound.foldl ?_ (fun _ _ _ => ?_)
    | with_reducible refine State.Sound.foldlFst ?_ (fun _ _ _ => ?_)
    | with_reducible refine State.Sound.ite (fun _ => ?_) (fun _ => ?_)
    | split
    | fail_if_no_progress with_reducible apply State.Sound.upd
    | dsimp only
    | (intro _ hx; injection hx; done)
    | (intro _ hx; injection hx with hx; subst hx))

theorem stall' {s : State} (h : s.Sound) (p : Packet) :
    (s.stall' p).Sound := by
  unfold State.stall'
  try dsimp only
  repeat' (first
    | with_reducible assumption
    | with_reducible refine State.Sound.foldl ?_ (fun _ _ _ => ?_)
    | with_reducible refine State.Sound.foldlFst ?_ (fun _ _ _ => ?_)
    | with_reducible refine State.Sound.ite (fun _ => ?_) (fun _ => ?_)
    | split
    | fail_if_no_progress with_reducible apply State.Sound.upd)

theorem writeToFaults {s : State} (h : s.Sound) (hd : Hold) : (s.writeToFaults hd).Sound := by
  unfold State.writeToFaults
  split
  · exact h
  · refine ⟨h.mem, h.desc, h.psn, h.descPsn, slotsRise_map _ (fun t => ?_) (fun t => ?_) _ h.threads, h.inputs, h.agenda⟩
    · split <;> rfl
    · split <;> rfl

theorem addHold {s : State} (h : s.Sound) (h : Hold) :
    (s.addHold h).Sound := by
  unfold State.addHold
  try dsimp only
  repeat' (first
    | with_reducible assumption
    | with_reducible refine State.Sound.foldl ?_ (fun _ _ _ => ?_)
    | with_reducible refine State.Sound.foldlFst ?_ (fun _ _ _ => ?_)
    | with_reducible refine State.Sound.ite (fun _ => ?_) (fun _ => ?_)
    | split
    | fail_if_no_progress with_reducible apply State.Sound.upd)

theorem release {s : State} (h : s.Sound) (h : Hold) :
    (s.release h).Sound := by
  unfold State.release
  try dsimp only
  repeat' (first
    | with_reducible assumption
    | (show eventOp _ = true; rfl)
    | with_reducible exact True.intro
    | with_reducible refine State.Sound.foldl ?_ (fun _ _ _ => ?_)
    | with_reducible refine State.Sound.foldlFst ?_ (fun _ _ _ => ?_)
    | with_reducible refine State.Sound.ite (fun _ => ?_) (fun _ => ?_)
    | split
    | fail_if_no_progress with_reducible apply State.Sound.upd
    | dsimp only)

theorem rewritePage {s : State} (h : s.Sound) (va : Nat) (m : Mapped) (res : Nat) (owner : Nat) (pa : Nat) :
    (s.rewritePage va m res owner pa).Sound := by
  unfold State.rewritePage
  try dsimp only
  repeat' (first
    | with_reducible assumption
    | with_reducible apply State.Sound.writePage
    | with_reducible refine State.Sound.foldl ?_ (fun _ _ _ => ?_))

theorem fillNode {s : State} (h : s.Sound) (a : Nat) (es : List Word) :
    (s.fillNode a es).Sound := by
  unfold State.fillNode
  try dsimp only
  repeat' (first
    | with_reducible assumption
    | with_reducible apply State.Sound.store
    | with_reducible refine State.Sound.foldl ?_ (fun _ _ _ => ?_))

theorem resClose {s : State} (h : s.Sound) (p : Packet) :
    ∀ u x, s.resClose p = some (u, x) → u.Sound := by
  unfold State.resClose
  try dsimp only
  repeat' (first
    | with_reducible assumption
    | (show eventOp _ = true; rfl)
    | with_reducible exact True.intro
    | with_reducible apply State.Sound.closeReq
    | with_reducible refine State.Sound.foldl ?_ (fun _ _ _ => ?_)
    | with_reducible refine State.Sound.foldlFst ?_ (fun _ _ _ => ?_)
    | with_reducible refine State.Sound.ite (fun _ => ?_) (fun _ => ?_)
    | split
    | fail_if_no_progress with_reducible apply State.Sound.upd
    | dsimp only
    | (intro _ hx; injection hx; done)
    | (intro _ _ hx; injection hx; done)
    | (intro _ hx; injection hx with hx; subst hx)
    | (intro _ _ hx; injection hx with hx; injection hx with hx _; subst hx))

theorem settlePage {s : State} (h : s.Sound) (p : Packet) (m : Mapped) (k : State → State) (hk : ∀ y0, y0.Sound → (k y0).Sound) :
    (s.settlePage p m k).Sound := by
  unfold State.settlePage
  try dsimp only
  repeat' (first
    | with_reducible assumption
    | (show eventOp _ = true; rfl)
    | with_reducible exact True.intro
    | with_reducible apply hk
    | with_reducible apply State.Sound.schedRes
    | with_reducible apply State.Sound.addHold
    | with_reducible apply State.Sound.release
    | with_reducible refine State.Sound.foldl ?_ (fun _ _ _ => ?_)
    | with_reducible refine State.Sound.foldlFst ?_ (fun _ _ _ => ?_)
    | with_reducible refine State.Sound.ite (fun _ => ?_) (fun _ => ?_)
    | split
    | fail_if_no_progress with_reducible apply State.Sound.upd
    | dsimp only)

theorem splitEntry {s : State} (h : s.Sound) (at_ : Nat) (e : Word) (pa : Nat) :
    (s.splitEntry at_ e pa).Sound := by
  unfold State.splitEntry
  try dsimp only
  repeat' (first
    | with_reducible assumption
    | with_reducible apply State.Sound.takeNode
    | with_reducible refine State.Sound.takeNode_eq ?_ (by with_reducible assumption)
    | with_reducible apply State.Sound.fillNode
    | with_reducible apply State.Sound.store)

theorem afterCollapse {s : State} (h : s.Sound) (c : Collapse) (p : Packet) :
    (s.afterCollapse c p).Sound := by
  unfold State.afterCollapse
  try dsimp only
  repeat' (first
    | with_reducible assumption
    | (show eventOp _ = true; rfl)
    | with_reducible exact True.intro
    | with_reducible apply State.Sound.sendRes
    | with_reducible apply State.Sound.schedRes
    | with_reducible refine State.Sound.foldl ?_ (fun _ _ _ => ?_)
    | with_reducible refine State.Sound.foldlFst ?_ (fun _ _ _ => ?_)
    | with_reducible refine State.Sound.ite (fun _ => ?_) (fun _ => ?_)
    | split
    | fail_if_no_progress with_reducible apply State.Sound.upd
    | dsimp only)

theorem splitMapped {s : State} (h : s.Sound) (m : Mapped) (va : Nat) :
    (s.splitMapped m va).Sound := by
  unfold State.splitMapped
  try dsimp only
  repeat' (first
    | with_reducible assumption
    | with_reducible apply State.Sound.splitEntry
    | with_reducible apply State.Sound.takeNode
    | with_reducible refine State.Sound.takeNode_eq ?_ (by with_reducible assumption)
    | with_reducible apply State.Sound.fillNode
    | with_reducible apply State.Sound.store
    | with_reducible apply State.Sound.dropEntries
    | with_reducible refine State.Sound.foldl ?_ (fun _ _ _ => ?_)
    | with_reducible refine State.Sound.foldlFst ?_ (fun _ _ _ => ?_)
    | with_reducible refine State.Sound.ite (fun _ => ?_) (fun _ => ?_))

theorem answerMapping {s : State} (h : s.Sound) (p : Packet) :
    (s.answerMapping p).Sound := by
  unfold State.answerMapping
  try dsimp only
  repeat' (first
    | with_reducible assumption
    | with_reducible apply State.Sound.sendRes
    | with_reducible refine State.Sound.foldl ?_ (fun _ _ _ => ?_)
    | with_reducible refine State.Sound.foldlFst ?_ (fun _ _ _ => ?_)
    | with_reducible refine State.Sound.ite (fun _ => ?_) (fun _ => ?_)
    | split)

theorem splitPage {s : State} (h : s.Sound) (va : Nat) (m : Mapped) :
    ∀ u, s.splitPage va m = some u → u.Sound := by
  unfold State.splitPage
  try dsimp only
  repeat' (first
    | with_reducible assumption
    | with_reducible apply State.Sound.splitMapped
    | with_reducible refine State.Sound.foldl ?_ (fun _ _ _ => ?_)
    | with_reducible refine State.Sound.foldlFst ?_ (fun _ _ _ => ?_)
    | with_reducible refine State.Sound.ite (fun _ => ?_) (fun _ => ?_)
    | split
    | fail_if_no_progress with_reducible apply State.Sound.upd
    | dsimp only
    | (intro _ hx; injection hx; done)
    | (intro _ hx; injection hx with hx; subst hx))

theorem collapseFail {s : State} (h : s.Sound) (c : Collapse) :
    (s.collapseFail c).Sound := by
  unfold State.collapseFail
  try dsimp only
  repeat' (first
    | with_reducible assumption
    | (show eventOp _ = true; rfl)
    | with_reducible exact True.intro
    | with_reducible apply State.Sound.sendRes
    | with_reducible apply State.Sound.unserve
    | with_reducible apply State.Sound.schedRes
    | with_reducible refine State.Sound.foldl ?_ (fun _ _ _ => ?_)
    | with_reducible refine State.Sound.foldlFst ?_ (fun _ _ _ => ?_)
    | with_reducible refine State.Sound.ite (fun _ => ?_) (fun _ => ?_)
    | split
    | fail_if_no_progress with_reducible apply State.Sound.upd
    | dsimp only)

theorem resFinish {s : State} (h : s.Sound) (w : ResWork) (result : Nat) :
    (s.resFinish w result).Sound := by
  unfold State.resFinish
  try dsimp only
  repeat' (first
    | with_reducible assumption
    | (show eventOp _ = true; rfl)
    | with_reducible exact True.intro
    | with_reducible apply State.Sound.sendRes
    | with_reducible apply State.Sound.store
    | with_reducible apply State.Sound.schedRes
    | with_reducible apply State.Sound.serveRing
    | with_reducible refine State.Sound.foldl ?_ (fun _ _ _ => ?_)
    | with_reducible refine State.Sound.foldlFst ?_ (fun _ _ _ => ?_)
    | with_reducible refine State.Sound.ite (fun _ => ?_) (fun _ => ?_)
    | split
    | fail_if_no_progress with_reducible apply State.Sound.upd
    | dsimp only)

theorem resBegin {s : State} (h : s.Sound) (c : ResCmd) (op : Nat) (i : Instr) (k : State → ResWork → Mapped → State)
    (hi : eventOp i = true) (hk : ∀ u w m, State.Sound u → (k u w m).Sound) : (s.resBegin c op i k).Sound := by
  unfold State.resBegin
  dsimp only
  split
  · exact h.upd.resFinish _ _
  · exact State.Sound.ite (fun _ => h.upd.recmd _ _ hi) fun _ => hk _ _ _ h.upd.upd

theorem pieceTo {s : State} (h : s.Sound) (va size : Nat) (m : Mapped) (remote : Option Nat) :
    ∀ u, s.pieceTo va size m remote = some u → u.Sound := by
  intro u e
  unfold State.pieceTo at e
  dsimp only at e
  obtain ⟨w, hw, rfl⟩ := Option.map_eq_some_iff.1 e
  have h1 : w.Sound := by
    split at hw
    · exact h.splitPage _ _ _ hw
    · injection hw with hw; exact hw ▸ h
  split
  · split
    · exact h1.rewritePage _ _ _ _ _
    · exact h1.rewritePage _ _ _ _ _
  · exact h1

theorem resFail {s : State} (h : s.Sound) (w : ResWork) :
    (s.resFail w).Sound := by
  unfold State.resFail
  try dsimp only
  repeat' (first
    | with_reducible assumption
    | (show eventOp _ = true; rfl)
    | with_reducible exact True.intro
    | with_reducible apply State.Sound.clearRec
    | with_reducible apply State.Sound.rewritePage
    | with_reducible apply State.Sound.writeRec
    | with_reducible apply State.Sound.resFinish
    | with_reducible refine State.Sound.foldl ?_ (fun _ _ _ => ?_)
    | with_reducible refine State.Sound.foldlFst ?_ (fun _ _ _ => ?_)
    | with_reducible refine State.Sound.ite (fun _ => ?_) (fun _ => ?_)
    | split
    | fail_if_no_progress with_reducible apply State.Sound.upd
    | dsimp only)

theorem piecesTo {s : State} (h : s.Sound) (va size : Nat) (ms : List Mapped) (remote : Option Nat) :
    ∀ u, s.piecesTo va size ms remote = some u → u.Sound := by
  have key : ∀ (ms : List Mapped) (o : Option State), (∀ w, o = some w → w.Sound) → ∀ u, ms.foldl (fun o m => o.bind fun s =>
      let a := max va m.base
      s.pieceTo a (min size m.size) m (remote.map fun pa => pa + (a - va))) o = some u → u.Sound := by
    intro ms
    induction ms with
    | nil => exact fun o ho u e => ho u e
    | cons m r ih =>
      refine fun o ho => ih _ fun w e => ?_
      obtain ⟨x, hx, e⟩ := Option.bind_eq_some_iff.1 e
      exact (ho x hx).pieceTo _ _ _ _ w e
  exact key ms _ fun w e => by injection e with e; exact e ▸ h

theorem collapseEnd {s : State} (h : s.Sound) (c : Collapse) :
    (s.collapseEnd c).Sound := by
  unfold State.collapseEnd
  try dsimp only
  repeat' (first
    | with_reducible assumption
    | (show eventOp _ = true; rfl)
    | with_reducible exact True.intro
    | with_reducible apply State.Sound.unserve
    | with_reducible apply State.Sound.writeRec
    | with_reducible apply State.Sound.sendRes
    | with_reducible apply State.Sound.afterCollapse
    | with_reducible apply State.Sound.clearRec
    | with_reducible refine State.Sound.foldl ?_ (fun _ _ _ => ?_)
    | with_reducible refine State.Sound.foldlFst ?_ (fun _ _ _ => ?_)
    | with_reducible refine State.Sound.ite (fun _ => ?_) (fun _ => ?_)
    | split
    | fail_if_no_progress with_reducible apply State.Sound.upd
    | dsimp only)

theorem resAnswered {s : State} (h : s.Sound) (w : ResWork) (dev : Nat) :
    (s.resAnswered w dev).Sound := by
  unfold State.resAnswered
  try dsimp only
  repeat' (first
    | with_reducible assumption
    | (show eventOp _ = true; rfl)
    | with_reducible exact True.intro
    | with_reducible apply State.Sound.putWork
    | with_reducible apply State.Sound.resFinish
    | with_reducible refine State.Sound.foldl ?_ (fun _ _ _ => ?_)
    | with_reducible refine State.Sound.foldlFst ?_ (fun _ _ _ => ?_)
    | with_reducible refine State.Sound.ite (fun _ => ?_) (fun _ => ?_)
    | split
    | fail_if_no_progress with_reducible apply State.Sound.upd
    | dsimp only)

theorem collapsePiece {s : State} (h : s.Sound) (p : Packet) (rs : List DirRec) : (s.collapsePiece p rs).Sound := by
  unfold State.collapsePiece
  dsimp only
  have fin : ∀ u : State, u.Sound → ∀ (l : List Nat) (c : Collapse) (f : State → Nat → Packet), (if l.isEmpty then u.collapseEnd c
      else l.foldl (fun s d => s.sendRes (f s d)) { u with trans := { u.trans with serving := c :: u.trans.serving } }).Sound :=
    fun u hu l c f => State.Sound.ite (fun _ => hu.collapseEnd _) fun _ => State.Sound.foldl hu.upd fun s d hd => hd.sendRes _
  split
  · exact h.stall' _
  · rename_i o s' e
    refine fin s' ?_ _ _ (fun s d => s.resAbout d 2 p.resDev p p.resPa)
    split at e
    · split at e
      · exact h.splitRec _ _ _ e
      · injection e with e; exact e ▸ h
    · injection e with e; exact e ▸ h

theorem settlePiece {s : State} (h : s.Sound) (p : Packet) (remote : Option Nat) :
    (s.settlePiece p remote).Sound := by
  unfold State.settlePiece
  try dsimp only
  repeat' (first
    | with_reducible assumption
    | (show eventOp _ = true; rfl)
    | with_reducible exact True.intro
    | with_reducible refine State.Sound.piecesTo ?_ _ _ _ _ _ (by with_reducible assumption)
    | with_reducible apply State.Sound.resAnswered
    | with_reducible apply State.Sound.stall'
    | with_reducible refine State.Sound.pieceTo ?_ _ _ _ _ _ (by with_reducible assumption)
    | with_reducible apply State.Sound.release
    | with_reducible refine State.Sound.foldl ?_ (fun _ _ _ => ?_)
    | with_reducible refine State.Sound.foldlFst ?_ (fun _ _ _ => ?_)
    | with_reducible refine State.Sound.ite (fun _ => ?_) (fun _ => ?_)
    | split
    | fail_if_no_progress with_reducible apply State.Sound.upd
    | dsimp only)

theorem copyNext {s : State} (h : s.Sound) (w : ResWork) :
    (s.copyNext w).Sound := by
  unfold State.copyNext
  try dsimp only
  repeat' (first
    | with_reducible assumption
    | (show eventOp _ = true; rfl)
    | with_reducible exact True.intro
    | with_reducible apply State.Sound.sched
    | with_reducible apply State.Sound.engWaitsAt
    | with_reducible apply State.Sound.putWork
    | with_reducible apply State.Sound.eccBlock
    | with_reducible refine State.Sound.eccBlock_eq ?_ (by with_reducible assumption)
    | with_reducible apply State.Sound.takeBank
    | with_reducible apply State.Sound.sendReq
    | with_reducible apply State.Sound.rewritePage
    | with_reducible apply State.Sound.sendRes
    | with_reducible refine State.Sound.foldl ?_ (fun _ _ _ => ?_)
    | with_reducible refine State.Sound.foldlFst ?_ (fun _ _ _ => ?_)
    | with_reducible refine State.Sound.ite (fun _ => ?_) (fun _ => ?_)
    | split
    | fail_if_no_progress with_reducible apply State.Sound.upd
    | dsimp only)

theorem copyWritten {s : State} (h : s.Sound) (page : Nat) :
    (s.copyWritten page).Sound := by
  unfold State.copyWritten
  try dsimp only
  repeat' (first
    | with_reducible assumption
    | (show eventOp _ = true; rfl)
    | with_reducible exact True.intro
    | with_reducible apply State.Sound.copyNext
    | with_reducible apply State.Sound.putWork
    | with_reducible refine State.Sound.foldl ?_ (fun _ _ _ => ?_)
    | with_reducible refine State.Sound.foldlFst ?_ (fun _ _ _ => ?_)
    | with_reducible refine State.Sound.ite (fun _ => ?_) (fun _ => ?_)
    | split
    | fail_if_no_progress with_reducible apply State.Sound.upd
    | dsimp only)

theorem copyBegin {s : State} (h : s.Sound) (w : ResWork) (m : Mapped) (again : State → State) (hagain : ∀ y0, y0.Sound → (again y0).Sound) :
    (s.copyBegin w m again).Sound := by
  unfold State.copyBegin
  try dsimp only
  repeat' (first
    | with_reducible assumption
    | (show eventOp _ = true; rfl)
    | with_reducible exact True.intro
    | with_reducible apply hagain
    | with_reducible apply State.Sound.addHold
    | with_reducible apply State.Sound.copyNext
    | with_reducible refine State.Sound.foldl ?_ (fun _ _ _ => ?_)
    | with_reducible refine State.Sound.foldlFst ?_ (fun _ _ _ => ?_)
    | with_reducible refine State.Sound.ite (fun _ => ?_) (fun _ => ?_)
    | split
    | fail_if_no_progress with_reducible apply State.Sound.upd
    | dsimp only)

theorem dupOwned {s : State} (h : s.Sound) (w : ResWork) (m : Mapped) (again : State → State) (hagain : ∀ y0, y0.Sound → (again y0).Sound) :
    (s.dupOwned w m again).Sound := by
  unfold State.dupOwned
  try dsimp only
  repeat' (first
    | with_reducible assumption
    | (show eventOp _ = true; rfl)
    | with_reducible exact True.intro
    | with_reducible apply hagain
    | with_reducible apply State.Sound.resFinish
    | with_reducible apply State.Sound.writeRec
    | with_reducible apply State.Sound.copyBegin
    | with_reducible refine State.Sound.foldl ?_ (fun _ _ _ => ?_)
    | with_reducible refine State.Sound.foldlFst ?_ (fun _ _ _ => ?_)
    | with_reducible refine State.Sound.ite (fun _ => ?_) (fun _ => ?_)
    | split
    | fail_if_no_progress with_reducible apply State.Sound.upd
    | dsimp only)

theorem setLink {s : State} (h : s.Sound) (q : Nat) (x : Link) :
    (s.setLink q x).Sound := by
  unfold State.setLink
  try dsimp only
  repeat' (first
    | with_reducible assumption
    | with_reducible refine State.Sound.foldl ?_ (fun _ _ _ => ?_)
    | with_reducible refine State.Sound.foldlFst ?_ (fun _ _ _ => ?_)
    | with_reducible refine State.Sound.ite (fun _ => ?_) (fun _ => ?_)
    | split
    | fail_if_no_progress with_reducible apply State.Sound.upd)

theorem discard {s : State} (h : s.Sound) (p : Packet) :
    (s.discard p).Sound := by
  unfold State.discard
  try dsimp only
  repeat' (first
    | with_reducible assumption
    | with_reducible refine State.Sound.foldl ?_ (fun _ _ _ => ?_)
    | with_reducible refine State.Sound.foldlFst ?_ (fun _ _ _ => ?_)
    | with_reducible refine State.Sound.ite (fun _ => ?_) (fun _ => ?_)
    | split
    | fail_if_no_progress with_reducible apply State.Sound.upd)

theorem toLane {s : State} (h : s.Sound) (e : Queued) :
    (s.toLane e).1.Sound := by
  unfold State.toLane
  try dsimp only
  repeat' (first
    | with_reducible assumption
    | with_reducible apply State.Sound.store
    | with_reducible refine State.Sound.foldl ?_ (fun _ _ _ => ?_)
    | with_reducible refine State.Sound.foldlFst ?_ (fun _ _ _ => ?_)
    | with_reducible refine State.Sound.ite (fun _ => ?_) (fun _ => ?_)
    | split
    | fail_if_no_progress with_reducible apply State.Sound.upd)

theorem toLane_eq {s : State} (h : s.Sound) (e : Queued)  {u_ : State} {x_ : Bool} (e_ : (s.toLane e) = (u_, x_)) : u_.Sound := by
  have := h.toLane e
  rw [e_] at this
  exact this

theorem freeCrumbOf {s : State} (h : s.Sound) (p : Packet) :
    (s.freeCrumbOf p).Sound := by
  unfold State.freeCrumbOf
  try dsimp only
  repeat' (first
    | with_reducible assumption
    | with_reducible refine State.Sound.foldl ?_ (fun _ _ _ => ?_)
    | with_reducible refine State.Sound.foldlFst ?_ (fun _ _ _ => ?_)
    | with_reducible refine State.Sound.ite (fun _ => ?_) (fun _ => ?_)
    | split
    | fail_if_no_progress with_reducible apply State.Sound.upd)

theorem deliver {s : State} (h : s.Sound) (input : Nat) (i : Instr) (p : Packet) (hi : eventOp i = true) :
    (s.deliver input i p).Sound := by
  unfold State.deliver
  try dsimp only
  repeat' (first
    | with_reducible assumption
    | with_reducible apply State.Sound.schedPkt
    | with_reducible apply State.Sound.fresh)

theorem takePath {s : State} (h : s.Sound) (f : Flow) (q : Nat) (until_ : Nat) :
    (s.takePath f q until_).Sound := by
  unfold State.takePath
  try dsimp only
  repeat' (first
    | with_reducible assumption
    | (show eventOp _ = true; rfl)
    | with_reducible exact True.intro
    | with_reducible refine State.Sound.foldl ?_ (fun _ _ _ => ?_)
    | with_reducible refine State.Sound.foldlFst ?_ (fun _ _ _ => ?_)
    | with_reducible refine State.Sound.ite (fun _ => ?_) (fun _ => ?_)
    | split
    | fail_if_no_progress with_reducible apply State.Sound.upd
    | dsimp only)

theorem putWire {s : State} (h : s.Sound) (q : Nat) (p : Packet) :
    (s.putWire q p).Sound := by
  unfold State.putWire
  try dsimp only
  repeat' (first
    | with_reducible assumption
    | (show eventOp _ = true; rfl)
    | with_reducible exact True.intro
    | with_reducible apply State.Sound.setLink
    | with_reducible apply State.Sound.takePath
    | with_reducible refine State.Sound.foldl ?_ (fun _ _ _ => ?_)
    | with_reducible refine State.Sound.foldlFst ?_ (fun _ _ _ => ?_)
    | with_reducible refine State.Sound.ite (fun _ => ?_) (fun _ => ?_)
    | split
    | fail_if_no_progress with_reducible apply State.Sound.upd
    | dsimp only)

theorem mergeInto {s : State} (h : s.Sound) (e : Queued) (p : Packet) (input : Nat) :
    (s.mergeInto e p input).Sound := by
  unfold State.mergeInto
  try dsimp only
  repeat' (first
    | with_reducible assumption
    | (show eventOp _ = true; rfl)
    | with_reducible apply State.Sound.sched
    | with_reducible refine State.Sound.foldl ?_ (fun _ _ _ => ?_)
    | with_reducible refine State.Sound.foldlFst ?_ (fun _ _ _ => ?_)
    | with_reducible refine State.Sound.ite (fun _ => ?_) (fun _ => ?_)
    | split
    | fail_if_no_progress with_reducible apply State.Sound.upd)

theorem fromRouter {s : State} (h : s.Sound) (p : Packet) :
    (s.fromRouter p).Sound := by
  unfold State.fromRouter
  try dsimp only
  repeat' (first
    | with_reducible assumption
    | (show eventOp _ = true; rfl)
    | with_reducible apply State.Sound.sched)

theorem resRefuse {s : State} (h : s.Sound) (p : Packet) (status : Nat) :
    (s.resRefuse p status).Sound := by
  unfold State.resRefuse
  try dsimp only
  repeat' (first
    | with_reducible assumption
    | (show eventOp _ = true; rfl)
    | with_reducible exact True.intro
    | with_reducible apply State.Sound.fromRouter
    | with_reducible refine State.Sound.foldl ?_ (fun _ _ _ => ?_)
    | with_reducible refine State.Sound.foldlFst ?_ (fun _ _ _ => ?_)
    | with_reducible refine State.Sound.ite (fun _ => ?_) (fun _ => ?_)
    | split
    | fail_if_no_progress with_reducible apply State.Sound.upd
    | dsimp only)

theorem markFront {s : State} (h : s.Sound) (i : Nat) (vc : Nat) :
    (s.markFront i vc).Sound := by
  unfold State.markFront
  try dsimp only
  repeat' (first
    | with_reducible assumption
    | (show eventOp _ = true; rfl)
    | with_reducible exact True.intro
    | with_reducible apply State.Sound.sched
    | with_reducible refine State.Sound.foldl ?_ (fun _ _ _ => ?_)
    | with_reducible refine State.Sound.foldlFst ?_ (fun _ _ _ => ?_)
    | with_reducible refine State.Sound.ite (fun _ => ?_) (fun _ => ?_)
    | split
    | fail_if_no_progress with_reducible apply State.Sound.upd
    | dsimp only)

theorem markHead {s : State} (h : s.Sound) (q : Nat) (vc : Nat) :
    (s.markHead q vc).Sound := by
  unfold State.markHead
  try dsimp only
  repeat' (first
    | with_reducible assumption
    | (show eventOp _ = true; rfl)
    | with_reducible apply State.Sound.sched
    | with_reducible refine State.Sound.foldl ?_ (fun _ _ _ => ?_)
    | with_reducible refine State.Sound.foldlFst ?_ (fun _ _ _ => ?_)
    | with_reducible refine State.Sound.ite (fun _ => ?_) (fun _ => ?_)
    | split
    | fail_if_no_progress with_reducible apply State.Sound.upd)

theorem unfit {s : State} (h : s.Sound) (p : Packet) :
    (s.unfit p).Sound := by
  unfold State.unfit
  try dsimp only
  repeat' (first
    | with_reducible assumption
    | (show eventOp _ = true; rfl)
    | with_reducible exact True.intro
    | with_reducible apply State.Sound.discard
    | with_reducible apply State.Sound.resRefuse
    | with_reducible refine State.Sound.foldl ?_ (fun _ _ _ => ?_)
    | with_reducible refine State.Sound.foldlFst ?_ (fun _ _ _ => ?_)
    | with_reducible refine State.Sound.ite (fun _ => ?_) (fun _ => ?_)
    | split
    | fail_if_no_progress with_reducible apply State.Sound.upd
    | dsimp only)

theorem markAll {s : State} (h : s.Sound) (q : Nat) :
    (s.markAll q).Sound := by
  unfold State.markAll
  try dsimp only
  repeat' (first
    | with_reducible assumption
    | (show eventOp _ = true; rfl)
    | with_reducible exact True.intro
    | with_reducible apply State.Sound.markHead
    | with_reducible apply State.Sound.markFront
    | with_reducible refine State.Sound.foldl ?_ (fun _ _ _ => ?_)
    | with_reducible refine State.Sound.foldlFst ?_ (fun _ _ _ => ?_)
    | with_reducible refine State.Sound.ite (fun _ => ?_) (fun _ => ?_)
    | split
    | fail_if_no_progress with_reducible apply State.Sound.upd
    | dsimp only)

theorem sendOut {s : State} (h : s.Sound) (e : Queued) (p : Packet) :
    (s.sendOut e p).Sound := by
  unfold State.sendOut
  try dsimp only
  repeat' (first
    | with_reducible assumption
    | (show eventOp _ = true; rfl)
    | with_reducible exact True.intro
    | with_reducible apply State.Sound.putWire
    | with_reducible apply State.Sound.freeCrumbOf
    | with_reducible apply State.Sound.cancel
    | with_reducible apply State.Sound.sched
    | with_reducible refine State.Sound.foldl ?_ (fun _ _ _ => ?_)
    | with_reducible refine State.Sound.foldlFst ?_ (fun _ _ _ => ?_)
    | with_reducible refine State.Sound.ite (fun _ => ?_) (fun _ => ?_)
    | split
    | fail_if_no_progress with_reducible apply State.Sound.upd
    | dsimp only)

theorem sendHead {s : State} (h : s.Sound) (q : Nat) (vc : Nat) :
    (s.sendHead q vc).Sound := by
  unfold State.sendHead
  try dsimp only
  repeat' (first
    | with_reducible assumption
    | with_reducible apply State.Sound.sendOut
    | with_reducible refine State.Sound.foldl ?_ (fun _ _ _ => ?_)
    | with_reducible refine State.Sound.foldlFst ?_ (fun _ _ _ => ?_)
    | with_reducible refine State.Sound.ite (fun _ => ?_) (fun _ => ?_)
    | split
    | fail_if_no_progress with_reducible apply State.Sound.upd)

theorem kick {s : State} (h : s.Sound) (q : Nat) :
    (s.kick q).Sound := by
  unfold State.kick
  try dsimp only
  repeat' (first
    | with_reducible assumption
    | (show eventOp _ = true; rfl)
    | with_reducible exact True.intro
    | with_reducible apply State.Sound.markAll
    | with_reducible apply State.Sound.sched
    | with_reducible refine State.Sound.foldl ?_ (fun _ _ _ => ?_)
    | with_reducible refine State.Sound.foldlFst ?_ (fun _ _ _ => ?_)
    | with_reducible refine State.Sound.ite (fun _ => ?_) (fun _ => ?_)
    | split
    | fail_if_no_progress with_reducible apply State.Sound.upd
    | dsimp only)

theorem push {s : State} (h : s.Sound) (e : Queued) :
    (s.push e).Sound := by
  unfold State.push
  try dsimp only
  repeat' (first
    | with_reducible assumption
    | with_reducible apply State.Sound.kick
    | with_reducible refine State.Sound.foldl ?_ (fun _ _ _ => ?_)
    | with_reducible refine State.Sound.foldlFst ?_ (fun _ _ _ => ?_)
    | with_reducible refine State.Sound.ite (fun _ => ?_) (fun _ => ?_)
    | split
    | fail_if_no_progress with_reducible apply State.Sound.upd)

theorem kickUp {s : State} (h : s.Sound) (q : Nat) :
    (s.kickUp q).Sound := by
  unfold State.kickUp
  try dsimp only
  repeat' (first
    | with_reducible assumption
    | (show eventOp _ = true; rfl)
    | with_reducible exact True.intro
    | with_reducible apply State.Sound.kick
    | with_reducible apply State.Sound.markAll
    | with_reducible refine State.Sound.foldl ?_ (fun _ _ _ => ?_)
    | with_reducible refine State.Sound.foldlFst ?_ (fun _ _ _ => ?_)
    | with_reducible refine State.Sound.ite (fun _ => ?_) (fun _ => ?_)
    | split
    | fail_if_no_progress with_reducible apply State.Sound.upd
    | dsimp only)

theorem unreach {s : State} (h : s.Sound) (p : Packet) (kind : Nat) :
    (s.unreach p kind).Sound := by
  unfold State.unreach
  try dsimp only
  repeat' (first
    | with_reducible assumption
    | with_reducible apply State.Sound.fromRouter)

theorem splitMatr {s : State} (h : s.Sound) (c : Nat) (x : Crumb) (p : Packet) :
    (s.splitMatr c x p).Sound := by
  unfold State.splitMatr
  try dsimp only
  repeat' (first
    | with_reducible assumption
    | with_reducible apply State.Sound.cancel
    | with_reducible apply State.Sound.fromRouter
    | with_reducible refine State.Sound.foldl ?_ (fun _ _ _ => ?_)
    | with_reducible refine State.Sound.foldlFst ?_ (fun _ _ _ => ?_)
    | with_reducible refine State.Sound.ite (fun _ => ?_) (fun _ => ?_)
    | split
    | fail_if_no_progress with_reducible apply State.Sound.upd)

theorem dropReport {s : State} (h : s.Sound) (p : Packet) :
    (s.dropReport p).Sound := by
  unfold State.dropReport
  try dsimp only
  repeat' (first
    | with_reducible assumption
    | (show eventOp _ = true; rfl)
    | with_reducible exact True.intro
    | with_reducible apply State.Sound.fromRouter
    | with_reducible refine State.Sound.foldl ?_ (fun _ _ _ => ?_)
    | with_reducible refine State.Sound.foldlFst ?_ (fun _ _ _ => ?_)
    | with_reducible refine State.Sound.ite (fun _ => ?_) (fun _ => ?_)
    | split
    | fail_if_no_progress with_reducible apply State.Sound.upd
    | dsimp only)

theorem unroutable {s : State} (h : s.Sound) (p : Packet) :
    (s.unroutable p).Sound := by
  unfold State.unroutable
  try dsimp only
  repeat' (first
    | with_reducible assumption
    | (show eventOp _ = true; rfl)
    | with_reducible exact True.intro
    | with_reducible apply State.Sound.unreach
    | with_reducible apply State.Sound.dropReport
    | with_reducible apply State.Sound.resRefuse
    | with_reducible refine State.Sound.foldl ?_ (fun _ _ _ => ?_)
    | with_reducible refine State.Sound.foldlFst ?_ (fun _ _ _ => ?_)
    | with_reducible refine State.Sound.ite (fun _ => ?_) (fun _ => ?_)
    | split
    | fail_if_no_progress with_reducible apply State.Sound.upd
    | dsimp only)

theorem enqueue {s : State} (h : s.Sound) (input : Nat) (q : Nat) (crumb : Option Nat) (p : Packet) :
    (s.enqueue input q crumb p).Sound := by
  unfold State.enqueue
  try dsimp only
  repeat' (first
    | with_reducible assumption
    | (show eventOp _ = true; rfl)
    | with_reducible exact True.intro
    | with_reducible apply State.Sound.sched
    | with_reducible apply State.Sound.takePath
    | with_reducible apply State.Sound.toLane
    | with_reducible refine State.Sound.toLane_eq ?_ (by with_reducible assumption)
    | with_reducible apply State.Sound.kick
    | with_reducible apply State.Sound.push
    | with_reducible apply State.Sound.mergeInto
    | with_reducible refine State.Sound.foldl ?_ (fun _ _ _ => ?_)
    | with_reducible refine State.Sound.foldlFst ?_ (fun _ _ _ => ?_)
    | with_reducible refine State.Sound.ite (fun _ => ?_) (fun _ => ?_)
    | split
    | fail_if_no_progress with_reducible apply State.Sound.upd
    | dsimp only)

theorem forward {s : State} (h : s.Sound) (input : Nat) (crumb : Option Nat) (p : Packet) :
    (s.forward input crumb p).Sound := by
  unfold State.forward
  try dsimp only
  repeat' (first
    | with_reducible assumption
    | with_reducible apply State.Sound.unroutable
    | with_reducible apply State.Sound.enqueue
    | with_reducible apply State.Sound.freeCrumbOf
    | with_reducible apply State.Sound.discard
    | with_reducible refine State.Sound.foldl ?_ (fun _ _ _ => ?_)
    | with_reducible refine State.Sound.foldlFst ?_ (fun _ _ _ => ?_)
    | with_reducible refine State.Sound.ite (fun _ => ?_) (fun _ => ?_)
    | split)

theorem portDown {s : State} (h : s.Sound) (q : Nat) :
    (s.portDown q).Sound := by
  unfold State.portDown
  try dsimp only
  repeat' (first
    | with_reducible assumption
    | with_reducible apply State.Sound.setLink
    | with_reducible apply State.Sound.replace
    | with_reducible apply State.Sound.record
    | with_reducible apply State.Sound.kick
    | with_reducible apply State.Sound.unroutable
    | with_reducible apply State.Sound.forward
    | with_reducible refine State.Sound.foldl ?_ (fun _ _ _ => ?_)
    | with_reducible refine State.Sound.foldlFst ?_ (fun _ _ _ => ?_)
    | with_reducible refine State.Sound.ite (fun _ => ?_) (fun _ => ?_)
    | split
    | fail_if_no_progress with_reducible apply State.Sound.upd)

theorem crumbLost {s : State} (h : s.Sound) (c : Nat) (x : Crumb) :
    (s.crumbLost c x).Sound := by
  unfold State.crumbLost
  try dsimp only
  repeat' (first
    | with_reducible assumption
    | (show eventOp _ = true; rfl)
    | with_reducible apply State.Sound.cancel
    | with_reducible apply State.Sound.sched
    | with_reducible apply State.Sound.record
    | with_reducible refine State.Sound.foldl ?_ (fun _ _ _ => ?_)
    | with_reducible refine State.Sound.foldlFst ?_ (fun _ _ _ => ?_)
    | with_reducible refine State.Sound.ite (fun _ => ?_) (fun _ => ?_)
    | split
    | fail_if_no_progress with_reducible apply State.Sound.upd)

theorem escLost {s : State} (h : s.Sound) (l : Lane) :
    (s.escLost l).Sound := by
  unfold State.escLost
  try dsimp only
  repeat' (first
    | with_reducible assumption
    | with_reducible apply State.Sound.fatal
    | with_reducible apply State.Sound.record)

theorem sendLane {s : State} (h : s.Sound) (l : Lane) :
    (s.sendLane l).Sound := by
  unfold State.sendLane
  try dsimp only
  repeat' (first
    | with_reducible assumption
    | with_reducible apply State.Sound.sendOut
    | with_reducible apply State.Sound.escLost
    | with_reducible refine State.Sound.foldl ?_ (fun _ _ _ => ?_)
    | with_reducible refine State.Sound.foldlFst ?_ (fun _ _ _ => ?_)
    | with_reducible refine State.Sound.ite (fun _ => ?_) (fun _ => ?_)
    | split
    | fail_if_no_progress with_reducible apply State.Sound.upd)

theorem transmit {s : State} (h : s.Sound) (q : Nat) :
    (s.transmit q).Sound := by
  unfold State.transmit
  try dsimp only
  repeat' (first
    | with_reducible assumption
    | with_reducible apply State.Sound.sendHead
    | with_reducible apply State.Sound.sendLane
    | with_reducible refine State.Sound.foldl ?_ (fun _ _ _ => ?_)
    | with_reducible refine State.Sound.foldlFst ?_ (fun _ _ _ => ?_)
    | with_reducible refine State.Sound.ite (fun _ => ?_) (fun _ => ?_)
    | split
    | fail_if_no_progress with_reducible apply State.Sound.upd)

theorem matmRun {s : State} (h : s.Sound) (pa n : Nat) (op : AtomOp) (v : Option Word) (l : List Leaf) (ds : List (Bool × Word)) :
    (Machine.matmRun pa n op s v l ds).1.Sound := by
  induction l generalizing s v ds with
  | nil => exact h
  | cons p r ih =>
    unfold Machine.matmRun
    split
    · exact ih h _ _
    · exact ih ((h.store _ _ _).cacheReply _ _ _ _) _ _

theorem noteFailed {s : State} (h : s.Sound) (f : Flow) :
    (s.noteFailed f).Sound := by
  unfold State.noteFailed
  try dsimp only
  repeat' (first
    | with_reducible assumption
    | with_reducible refine State.Sound.foldl ?_ (fun _ _ _ => ?_)
    | with_reducible refine State.Sound.foldlFst ?_ (fun _ _ _ => ?_)
    | with_reducible refine State.Sound.ite (fun _ => ?_) (fun _ => ?_)
    | split
    | fail_if_no_progress with_reducible apply State.Sound.upd)

theorem onEither {s : State} (h : s.Sound) (r : ThreadRef) (f : Thread → Thread) :
    (s.onEither r f).Sound := by
  unfold State.onEither
  try dsimp only
  repeat' (first
    | with_reducible assumption
    | with_reducible apply State.Sound.setThread
    | with_reducible refine State.Sound.foldl ?_ (fun _ _ _ => ?_)
    | with_reducible refine State.Sound.foldlFst ?_ (fun _ _ _ => ?_)
    | with_reducible refine State.Sound.ite (fun _ => ?_) (fun _ => ?_)
    | split
    | fail_if_no_progress with_reducible apply State.Sound.upd)

theorem homeAtom {s : State} (h : s.Sound) (p : Packet) (op : AtomOp) (old : Word) :
    (s.homeAtom p op old).Sound := by
  unfold State.homeAtom
  try dsimp only
  repeat' (first
    | with_reducible assumption
    | with_reducible apply State.Sound.touch
    | with_reducible apply State.Sound.store)

theorem flushDone {s : State} (h : s.Sound) (tag : Nat) :
    (s.flushDone tag).Sound := by
  unfold State.flushDone
  try dsimp only
  repeat' (first
    | with_reducible assumption
    | (show eventOp _ = true; rfl)
    | with_reducible apply State.Sound.setLaunch
    | with_reducible apply State.Sound.sched
    | with_reducible refine State.Sound.foldl ?_ (fun _ _ _ => ?_)
    | with_reducible refine State.Sound.foldlFst ?_ (fun _ _ _ => ?_)
    | with_reducible refine State.Sound.ite (fun _ => ?_) (fun _ => ?_)
    | split)

theorem homeReply {s : State} (h : s.Sound) (p : Packet) (delay : Nat) (kind : Nat) (status : Nat) (payload : List Word) (cause : Nat) :
    (s.homeReply p delay kind status payload cause).Sound := by
  unfold State.homeReply
  try dsimp only
  repeat' (first
    | with_reducible assumption
    | (show eventOp _ = true; rfl)
    | with_reducible exact True.intro
    | with_reducible apply State.Sound.injectAfter
    | with_reducible refine State.Sound.foldl ?_ (fun _ _ _ => ?_)
    | with_reducible refine State.Sound.foldlFst ?_ (fun _ _ _ => ?_)
    | with_reducible refine State.Sound.ite (fun _ => ?_) (fun _ => ?_)
    | split
    | fail_if_no_progress with_reducible apply State.Sound.upd
    | dsimp only)

theorem toJu {s : State} (h : s.Sound) (p : Packet) (ok : Bool) (i : Instr) (hi : eventOp i = true) :
    (s.toJu p ok i).Sound := by
  unfold State.toJu
  try dsimp only
  repeat' (first
    | with_reducible assumption
    | with_reducible apply State.Sound.homeReply
    | with_reducible apply State.Sound.sched
    | with_reducible refine State.Sound.foldl ?_ (fun _ _ _ => ?_)
    | with_reducible refine State.Sound.foldlFst ?_ (fun _ _ _ => ?_)
    | with_reducible refine State.Sound.ite (fun _ => ?_) (fun _ => ?_)
    | split)

theorem homeWrite {s : State} (h : s.Sound) (p : Packet) :
    (s.homeWrite p).Sound := by
  unfold State.homeWrite
  try dsimp only
  repeat' (first
    | with_reducible assumption
    | (show eventOp _ = true; rfl)
    | with_reducible exact True.intro
    | with_reducible apply State.Sound.touch
    | with_reducible apply State.Sound.writeBlock
    | with_reducible apply State.Sound.poisonDesc
    | with_reducible apply State.Sound.setDesc
    | with_reducible apply State.Sound.store
    | with_reducible refine State.Sound.foldl ?_ (fun _ _ _ => ?_)
    | with_reducible refine State.Sound.foldlFst ?_ (fun _ _ _ => ?_)
    | with_reducible refine State.Sound.ite (fun _ => ?_) (fun _ => ?_)
    | split
    | fail_if_no_progress with_reducible apply State.Sound.upd
    | dsimp only)

theorem resend {s : State} (h : s.Sound) (r : Req) :
    (s.resend r).Sound := by
  unfold State.resend
  try dsimp only
  repeat' (first
    | with_reducible assumption
    | (show eventOp _ = true; rfl)
    | with_reducible apply State.Sound.cancel
    | with_reducible apply State.Sound.sched
    | with_reducible apply State.Sound.inject
    | with_reducible refine State.Sound.foldl ?_ (fun _ _ _ => ?_)
    | with_reducible refine State.Sound.foldlFst ?_ (fun _ _ _ => ?_)
    | with_reducible refine State.Sound.ite (fun _ => ?_) (fun _ => ?_)
    | split
    | fail_if_no_progress with_reducible apply State.Sound.upd)

theorem tileArrive {s : State} (h : s.Sound) (u : Nat) (id : Nat) (blk : Nat) (b : BlockW) :
    (s.tileArrive u id blk b).Sound := by
  unfold State.tileArrive
  try dsimp only
  repeat' (first
    | with_reducible assumption
    | (show eventOp _ = true; rfl)
    | with_reducible exact True.intro
    | with_reducible apply State.Sound.consumed
    | with_reducible apply State.Sound.tilePut
    | with_reducible apply State.Sound.onCmd
    | with_reducible refine State.Sound.foldl ?_ (fun _ _ _ => ?_)
    | with_reducible refine State.Sound.foldlFst ?_ (fun _ _ _ => ?_)
    | with_reducible refine State.Sound.ite (fun _ => ?_) (fun _ => ?_)
    | split
    | fail_if_no_progress with_reducible apply State.Sound.upd
    | dsimp only)

theorem tileWritten {s : State} (h : s.Sound) (u : Nat) (id : Nat) (blk : Nat) :
    (s.tileWritten u id blk).Sound := by
  unfold State.tileWritten
  try dsimp only
  repeat' (first
    | with_reducible assumption
    | (show eventOp _ = true; rfl)
    | with_reducible exact True.intro
    | with_reducible apply State.Sound.tileNext
    | with_reducible refine State.Sound.foldl ?_ (fun _ _ _ => ?_)
    | with_reducible refine State.Sound.foldlFst ?_ (fun _ _ _ => ?_)
    | with_reducible refine State.Sound.ite (fun _ => ?_) (fun _ => ?_)
    | split
    | fail_if_no_progress with_reducible apply State.Sound.upd
    | dsimp only)

theorem copyArrive {s : State} (h : s.Sound) (u : Nat) (ch : Nat) (id : Nat) (blk : Nat) (b : BlockW) :
    (s.copyArrive u ch id blk b).Sound := by
  unfold State.copyArrive
  try dsimp only
  repeat' (first
    | with_reducible assumption
    | (show eventOp _ = true; rfl)
    | with_reducible exact True.intro
    | with_reducible apply State.Sound.copyPut
    | with_reducible apply State.Sound.setChan
    | with_reducible refine State.Sound.foldl ?_ (fun _ _ _ => ?_)
    | with_reducible refine State.Sound.foldlFst ?_ (fun _ _ _ => ?_)
    | with_reducible refine State.Sound.ite (fun _ => ?_) (fun _ => ?_)
    | split
    | fail_if_no_progress with_reducible apply State.Sound.upd
    | dsimp only)

theorem lostPosted {s : State} (h : s.Sound) (ltag : Nat) (unit : Nat) (dev : Nat) (kind : Nat) :
    (s.lostPosted ltag unit dev kind).Sound := by
  unfold State.lostPosted
  try dsimp only
  repeat' (first
    | with_reducible assumption
    | with_reducible apply State.Sound.setLaunch
    | with_reducible apply State.Sound.record
    | with_reducible apply State.Sound.postLost
    | with_reducible refine State.Sound.foldl ?_ (fun _ _ _ => ?_)
    | with_reducible refine State.Sound.foldlFst ?_ (fun _ _ _ => ?_)
    | with_reducible refine State.Sound.ite (fun _ => ?_) (fun _ => ?_)
    | split)

theorem copyLost {s : State} (h : s.Sound) (u : Nat) (ch : Nat) (id : Nat) (blk : Nat) (cause : Nat) :
    (s.copyLost u ch id blk cause).Sound := by
  unfold State.copyLost
  try dsimp only
  repeat' (first
    | with_reducible assumption
    | (show eventOp _ = true; rfl)
    | with_reducible exact True.intro
    | with_reducible apply State.Sound.copyEnd
    | with_reducible apply State.Sound.copyFault
    | with_reducible refine State.Sound.foldl ?_ (fun _ _ _ => ?_)
    | with_reducible refine State.Sound.foldlFst ?_ (fun _ _ _ => ?_)
    | with_reducible refine State.Sound.ite (fun _ => ?_) (fun _ => ?_)
    | split
    | fail_if_no_progress with_reducible apply State.Sound.upd
    | dsimp only)

theorem tileFail {s : State} (h : s.Sound) (u : Nat) (id : Nat) (blk : Nat) (cause : Nat) (gpa : Nat) :
    (s.tileFail u id blk cause gpa).Sound := by
  unfold State.tileFail
  try dsimp only
  repeat' (first
    | with_reducible assumption
    | (show eventOp _ = true; rfl)
    | with_reducible exact True.intro
    | with_reducible apply State.Sound.finish
    | with_reducible apply State.Sound.endFaulted
    | with_reducible refine State.Sound.foldl ?_ (fun _ _ _ => ?_)
    | with_reducible refine State.Sound.foldlFst ?_ (fun _ _ _ => ?_)
    | with_reducible refine State.Sound.ite (fun _ => ?_) (fun _ => ?_)
    | split
    | fail_if_no_progress with_reducible apply State.Sound.upd
    | dsimp only)

theorem flowLost {s : State} (h : s.Sound) (p : Packet) :
    (s.flowLost p).Sound := by
  unfold State.flowLost
  try dsimp only
  repeat' (first
    | with_reducible assumption
    | (show eventOp _ = true; rfl)
    | with_reducible exact True.intro
    | with_reducible apply State.Sound.noteFailed
    | with_reducible apply State.Sound.lostPosted
    | with_reducible refine State.Sound.foldl ?_ (fun _ _ _ => ?_)
    | with_reducible refine State.Sound.foldlFst ?_ (fun _ _ _ => ?_)
    | with_reducible refine State.Sound.ite (fun _ => ?_) (fun _ => ?_)
    | split
    | fail_if_no_progress with_reducible apply State.Sound.upd
    | dsimp only)

theorem homeRead {s : State} (h : s.Sound) (p : Packet) :
    (s.homeRead p).1.Sound := by
  unfold State.homeRead
  try dsimp only
  repeat' (first
    | with_reducible assumption
    | (show eventOp _ = true; rfl)
    | with_reducible exact True.intro
    | with_reducible apply State.Sound.eccBlock
    | with_reducible refine State.Sound.eccBlock_eq ?_ (by with_reducible assumption)
    | with_reducible apply State.Sound.eccVal
    | with_reducible refine State.Sound.eccVal_eq ?_ (by with_reducible assumption)
    | with_reducible refine State.Sound.foldl ?_ (fun _ _ _ => ?_)
    | with_reducible refine State.Sound.foldlFst ?_ (fun _ _ _ => ?_)
    | with_reducible refine State.Sound.ite (fun _ => ?_) (fun _ => ?_)
    | split
    | fail_if_no_progress with_reducible apply State.Sound.upd
    | dsimp only)

theorem homeRead_eq {s : State} (h : s.Sound) (p : Packet)  {u_ : State} {x_ : List Word × Option Poison} (e_ : (s.homeRead p) = (u_, x_)) : u_.Sound := by
  have := h.homeRead p
  rw [e_] at this
  exact this

theorem wakeRef {s : State} (h : s.Sound) (r : ThreadRef) :
    (s.wakeRef r).Sound := by
  unfold State.wakeRef
  try dsimp only
  repeat' (first
    | with_reducible assumption
    | with_reducible apply State.Sound.wakeEvent
    | with_reducible refine State.Sound.foldl ?_ (fun _ _ _ => ?_)
    | with_reducible refine State.Sound.foldlFst ?_ (fun _ _ _ => ?_)
    | with_reducible refine State.Sound.ite (fun _ => ?_) (fun _ => ?_)
    | split)

theorem reqDone {s : State} (h : s.Sound) (r : Req) (p : Packet) :
    (s.reqDone r p).Sound := by
  unfold State.reqDone
  try dsimp only
  repeat' (first
    | with_reducible assumption
    | (show eventOp _ = true; rfl)
    | with_reducible exact True.intro
    | with_reducible apply State.Sound.wakeRef
    | with_reducible apply State.Sound.giveResult
    | with_reducible apply State.Sound.onRef
    | with_reducible apply State.Sound.onLaunch
    | with_reducible apply State.Sound.nudge
    | with_reducible apply State.Sound.onEither
    | with_reducible apply State.Sound.flushDone
    | with_reducible apply State.Sound.post
    | with_reducible apply State.Sound.tileArrive
    | with_reducible apply State.Sound.tileWritten
    | with_reducible apply State.Sound.copyArrive
    | with_reducible apply State.Sound.copyWritten
    | with_reducible refine State.Sound.foldl ?_ (fun _ _ _ => ?_)
    | with_reducible refine State.Sound.foldlFst ?_ (fun _ _ _ => ?_)
    | with_reducible refine State.Sound.ite (fun _ => ?_) (fun _ => ?_)
    | split
    | fail_if_no_progress with_reducible apply State.Sound.upd
    | dsimp only)

theorem reqFailed {s : State} (h : s.Sound) (r : Req) (cause : Nat) (detail : Word) :
    (s.reqFailed r cause detail).Sound := by
  unfold State.reqFailed
  try dsimp only
  repeat' (first
    | with_reducible assumption
    | (show eventOp _ = true; rfl)
    | with_reducible exact True.intro
    | with_reducible apply State.Sound.wakeRef
    | with_reducible apply State.Sound.giveResult
    | with_reducible apply State.Sound.onRef
    | with_reducible apply State.Sound.onEither
    | with_reducible apply State.Sound.nudge
    | with_reducible apply State.Sound.lostPosted
    | with_reducible apply State.Sound.flushDone
    | with_reducible apply State.Sound.post
    | with_reducible apply State.Sound.record
    | with_reducible apply State.Sound.tileFail
    | with_reducible apply State.Sound.copyLost
    | with_reducible apply State.Sound.resFail
    | with_reducible apply State.Sound.schedRes
    | with_reducible apply State.Sound.fresh
    | with_reducible refine State.Sound.foldl ?_ (fun _ _ _ => ?_)
    | with_reducible refine State.Sound.foldlFst ?_ (fun _ _ _ => ?_)
    | with_reducible refine State.Sound.ite (fun _ => ?_) (fun _ => ?_)
    | split
    | fail_if_no_progress with_reducible apply State.Sound.upd
    | dsimp only)

theorem takeReply {s : State} (h : s.Sound) (p : Packet) :
    (s.takeReply p).Sound := by
  unfold State.takeReply
  try dsimp only
  repeat' (first
    | with_reducible assumption
    | (show eventOp _ = true; rfl)
    | with_reducible apply State.Sound.sched
    | with_reducible apply State.Sound.cancel
    | with_reducible apply State.Sound.closeReq
    | with_reducible apply State.Sound.reqFailed
    | with_reducible apply State.Sound.reqDone
    | with_reducible refine State.Sound.foldl ?_ (fun _ _ _ => ?_)
    | with_reducible refine State.Sound.foldlFst ?_ (fun _ _ _ => ?_)
    | with_reducible refine State.Sound.ite (fun _ => ?_) (fun _ => ?_)
    | split)

theorem setRetired {s : State} (h : s.Sound) (st : Nat) (fe : Nat) (slab : Nat) (isSlab : Bool) :
    (s.setRetired st fe slab isSlab).Sound := by
  unfold State.setRetired
  try dsimp only
  repeat' (first
    | with_reducible assumption
    | with_reducible refine State.Sound.foldl ?_ (fun _ _ _ => ?_)
    | with_reducible refine State.Sound.foldlFst ?_ (fun _ _ _ => ?_)
    | with_reducible refine State.Sound.ite (fun _ => ?_) (fun _ => ?_)
    | split
    | fail_if_no_progress with_reducible apply State.Sound.upd)

theorem logTransfer {s : State} (h : s.Sound) (pa : Nat) (act : Nat) (tries : Nat) (lane : Nat) :
    (s.logTransfer pa act tries lane).1.Sound := by
  unfold State.logTransfer
  try dsimp only
  repeat' (first
    | with_reducible assumption
    | with_reducible apply State.Sound.setHbmLog)

theorem logTransfer_eq {s : State} (h : s.Sound) (pa : Nat) (act : Nat) (tries : Nat) (lane : Nat)  {u_ : State} {x_ : Word} (e_ : (s.logTransfer pa act tries lane) = (u_, x_)) : u_.Sound := by
  have := h.logTransfer pa act tries lane
  rw [e_] at this
  exact this

theorem poisonBlock {s : State} (h : s.Sound) (pa : Nat) (p : Poison) : (s.poisonBlock pa p).Sound :=
  ⟨h.mem, h.desc, rising_foldl _ (fun m e hm => rising_mset _ _ _ hm) _ _ h.psn, rising_mset _ _ _ h.descPsn, h.threads, h.inputs, h.agenda⟩

theorem setOpt {s : State} (h : s.Sound) (q : Nat) (on : Bool) :
    (s.setOpt q on).Sound := by
  unfold State.setOpt
  try dsimp only
  repeat' (first
    | with_reducible assumption
    | (show eventOp _ = true; rfl)
    | with_reducible exact True.intro
    | with_reducible refine State.Sound.foldl ?_ (fun _ _ _ => ?_)
    | with_reducible refine State.Sound.foldlFst ?_ (fun _ _ _ => ?_)
    | with_reducible refine State.Sound.ite (fun _ => ?_) (fun _ => ?_)
    | split
    | fail_if_no_progress with_reducible apply State.Sound.upd
    | dsimp only)

theorem stopUnit {s : State} (h : s.Sound) (u : Nat) :
    (s.stopUnit u).Sound := by
  unfold State.stopUnit
  try dsimp only
  repeat' (first
    | with_reducible assumption
    | with_reducible apply State.Sound.onUnit)

theorem endLaunchesOn {s : State} (h : s.Sound) (u : Nat) (detail : Word) :
    (s.endLaunchesOn u detail).Sound := by
  unfold State.endLaunchesOn
  try dsimp only
  repeat' (first
    | with_reducible assumption
    | with_reducible apply State.Sound.endLaunch
    | with_reducible apply State.Sound.record
    | with_reducible refine State.Sound.foldl ?_ (fun _ _ _ => ?_))

theorem breakHome {s : State} (h : s.Sound) (u : Nat) :
    (s.breakHome u).Sound := by
  unfold State.breakHome
  try dsimp only
  repeat' (first
    | with_reducible assumption
    | with_reducible apply State.Sound.dropBarrier
    | with_reducible apply State.Sound.breakBarrier
    | with_reducible refine State.Sound.foldl ?_ (fun _ _ _ => ?_)
    | with_reducible refine State.Sound.foldlFst ?_ (fun _ _ _ => ?_)
    | with_reducible refine State.Sound.ite (fun _ => ?_) (fun _ => ?_))

theorem retrain {s : State} (h : s.Sound) (q : Nat) :
    (s.retrain q).Sound := by
  unfold State.retrain
  try dsimp only
  repeat' (first
    | with_reducible assumption
    | (show eventOp _ = true; rfl)
    | with_reducible exact True.intro
    | with_reducible apply State.Sound.record
    | with_reducible apply State.Sound.setOpt
    | with_reducible apply State.Sound.setLink
    | with_reducible refine State.Sound.foldl ?_ (fun _ _ _ => ?_)
    | with_reducible refine State.Sound.foldlFst ?_ (fun _ _ _ => ?_)
    | with_reducible refine State.Sound.ite (fun _ => ?_) (fun _ => ?_)
    | split
    | fail_if_no_progress with_reducible apply State.Sound.upd
    | dsimp only)

end State.Sound
end Sys2Proof.Machine
end

