-- ==== Sys2Proof/Laws/SoundExec.lean ====
section
/-! SUPPORT. Sound states: each meaning keeps them, one lemma for each. -/

namespace Sys2Proof.Machine
namespace State.Sound

theorem onCur {s : State} (f : Thread → State) (hf : ∀ t, (f t).Sound) : ∀ u, Machine.onCur s f = .next u → u.Sound := by
  intro u e
  unfold Machine.onCur at e
  split at e
  · injection e with e; exact e ▸ hf _
  · injection e

theorem event {s : State} (h : s.Sound) : ∀ u, Machine.event s = .next u → u.Sound := by
  intro u e
  injection e with e
  exact e ▸ h

theorem execSext {s : State} (h : s.Sound) (sm : Bool) (w : BitVec 2) (d : Operand) (a : Operand) :
    ∀ nxt, Machine.execSext sm w d a s = .next nxt → nxt.Sound := by
  unfold Machine.execSext
  refine State.Sound.onCur _ (fun t => ?_)
  try dsimp only
  repeat' (first
    | with_reducible assumption
    | with_reducible apply State.Sound.aluDone)

theorem execAndn {s : State} (h : s.Sound) (sm : Bool) (d : Operand) (a : Operand) (b : Operand) :
    ∀ nxt, Machine.execAndn sm d a b s = .next nxt → nxt.Sound := by
  unfold Machine.execAndn
  refine State.Sound.onCur _ (fun t => ?_)
  try dsimp only
  repeat' (first
    | with_reducible assumption
    | with_reducible apply State.Sound.aluDone)

theorem execShl {s : State} (h : s.Sound) (sm : Bool) (d : Operand) (a : Operand) (b : Operand) :
    ∀ nxt, Machine.execShl sm d a b s = .next nxt → nxt.Sound := by
  unfold Machine.execShl
  refine State.Sound.onCur _ (fun t => ?_)
  try dsimp only
  repeat' (first
    | with_reducible assumption
    | with_reducible apply State.Sound.aluDone)

theorem execClz {s : State} (h : s.Sound) (sm : Bool) (d : Operand) (a : Operand) :
    ∀ nxt, Machine.execClz sm d a s = .next nxt → nxt.Sound := by
  unfold Machine.execClz
  refine State.Sound.onCur _ (fun t => ?_)
  try dsimp only
  repeat' (first
    | with_reducible assumption
    | with_reducible apply State.Sound.aluDone)

theorem execBrev {s : State} (h : s.Sound) (sm : Bool) (d : Operand) (a : Operand) :
    ∀ nxt, Machine.execBrev sm d a s = .next nxt → nxt.Sound := by
  unfold Machine.execBrev
  refine State.Sound.onCur _ (fun t => ?_)
  try dsimp only
  repeat' (first
    | with_reducible assumption
    | with_reducible apply State.Sound.aluDone)

theorem execRot {s : State} (h : s.Sound) (sm : Bool) (d : Operand) (a : Operand) (b : Operand) :
    ∀ nxt, Machine.execRot sm d a b s = .next nxt → nxt.Sound := by
  unfold Machine.execRot
  refine State.Sound.onCur _ (fun t => ?_)
  try dsimp only
  repeat' (first
    | with_reducible assumption
    | with_reducible apply State.Sound.aluDone)

theorem execPopc {s : State} (h : s.Sound) (sm : Bool) (d : Operand) (a : Operand) :
    ∀ nxt, Machine.execPopc sm d a s = .next nxt → nxt.Sound := by
  unfold Machine.execPopc
  refine State.Sound.onCur _ (fun t => ?_)
  try dsimp only
  repeat' (first
    | with_reducible assumption
    | with_reducible apply State.Sound.aluDone)

theorem execMin {s : State} (h : s.Sound) (sm : Bool) (x : Bool) (d : Operand) (a : Operand) (b : Operand) :
    ∀ nxt, Machine.execMin sm x d a b s = .next nxt → nxt.Sound := by
  unfold Machine.execMin
  refine State.Sound.onCur _ (fun t => ?_)
  try dsimp only
  repeat' (first
    | with_reducible assumption
    | with_reducible apply State.Sound.aluDone)

theorem execSub {s : State} (h : s.Sound) (sm : Bool) (d : Operand) (a : Operand) (b : Operand) :
    ∀ nxt, Machine.execSub sm d a b s = .next nxt → nxt.Sound := by
  unfold Machine.execSub
  refine State.Sound.onCur _ (fun t => ?_)
  try dsimp only
  repeat' (first
    | with_reducible assumption
    | with_reducible apply State.Sound.aluDone)

theorem execOr {s : State} (h : s.Sound) (sm : Bool) (d : Operand) (a : Operand) (b : Operand) :
    ∀ nxt, Machine.execOr sm d a b s = .next nxt → nxt.Sound := by
  unfold Machine.execOr
  refine State.Sound.onCur _ (fun t => ?_)
  try dsimp only
  repeat' (first
    | with_reducible assumption
    | with_reducible apply State.Sound.aluDone)

theorem execZext {s : State} (h : s.Sound) (sm : Bool) (w : BitVec 2) (d : Operand) (a : Operand) :
    ∀ nxt, Machine.execZext sm w d a s = .next nxt → nxt.Sound := by
  unfold Machine.execZext
  refine State.Sound.onCur _ (fun t => ?_)
  try dsimp only
  repeat' (first
    | with_reducible assumption
    | with_reducible apply State.Sound.aluDone)

theorem execMax {s : State} (h : s.Sound) (sm : Bool) (x : Bool) (d : Operand) (a : Operand) (b : Operand) :
    ∀ nxt, Machine.execMax sm x d a b s = .next nxt → nxt.Sound := by
  unfold Machine.execMax
  refine State.Sound.onCur _ (fun t => ?_)
  try dsimp only
  repeat' (first
    | with_reducible assumption
    | with_reducible apply State.Sound.aluDone)

theorem execShr {s : State} (h : s.Sound) (sm : Bool) (x : Bool) (d : Operand) (a : Operand) (b : Operand) :
    ∀ nxt, Machine.execShr sm x d a b s = .next nxt → nxt.Sound := by
  unfold Machine.execShr
  refine State.Sound.onCur _ (fun t => ?_)
  try dsimp only
  repeat' (first
    | with_reducible assumption
    | with_reducible apply State.Sound.aluDone)

theorem execMul {s : State} (h : s.Sound) (sm : Bool) (d : Operand) (a : Operand) (b : Operand) :
    ∀ nxt, Machine.execMul sm d a b s = .next nxt → nxt.Sound := by
  unfold Machine.execMul
  refine State.Sound.onCur _ (fun t => ?_)
  try dsimp only
  repeat' (first
    | with_reducible assumption
    | with_reducible apply State.Sound.aluDone)

theorem execXor {s : State} (h : s.Sound) (sm : Bool) (d : Operand) (a : Operand) (b : Operand) :
    ∀ nxt, Machine.execXor sm d a b s = .next nxt → nxt.Sound := by
  unfold Machine.execXor
  refine State.Sound.onCur _ (fun t => ?_)
  try dsimp only
  repeat' (first
    | with_reducible assumption
    | with_reducible apply State.Sound.aluDone)

theorem execCtz {s : State} (h : s.Sound) (sm : Bool) (d : Operand) (a : Operand) :
    ∀ nxt, Machine.execCtz sm d a s = .next nxt → nxt.Sound := by
  unfold Machine.execCtz
  refine State.Sound.onCur _ (fun t => ?_)
  try dsimp only
  repeat' (first
    | with_reducible assumption
    | with_reducible apply State.Sound.aluDone)

theorem execAnd {s : State} (h : s.Sound) (sm : Bool) (d : Operand) (a : Operand) (b : Operand) :
    ∀ nxt, Machine.execAnd sm d a b s = .next nxt → nxt.Sound := by
  unfold Machine.execAnd
  refine State.Sound.onCur _ (fun t => ?_)
  try dsimp only
  repeat' (first
    | with_reducible assumption
    | with_reducible apply State.Sound.aluDone)

theorem execAdd {s : State} (h : s.Sound) (sm : Bool) (d : Operand) (a : Operand) (b : Operand) :
    ∀ nxt, Machine.execAdd sm d a b s = .next nxt → nxt.Sound := by
  unfold Machine.execAdd
  refine State.Sound.onCur _ (fun t => ?_)
  try dsimp only
  repeat' (first
    | with_reducible assumption
    | with_reducible apply State.Sound.aluDone)

theorem execMulh {s : State} (h : s.Sound) (sm : Bool) (x : Bool) (d : Operand) (a : Operand) (b : Operand) :
    ∀ nxt, Machine.execMulh sm x d a b s = .next nxt → nxt.Sound := by
  unfold Machine.execMulh
  refine State.Sound.onCur _ (fun t => ?_)
  try dsimp only
  repeat' (first
    | with_reducible assumption
    | with_reducible apply State.Sound.aluDone)

theorem execDiv {s : State} (h : s.Sound) (sm : Bool) (x : Bool) (d : Operand) (a : Operand) (b : Operand) :
    ∀ nxt, Machine.execDiv sm x d a b s = .next nxt → nxt.Sound := by
  unfold Machine.execDiv
  refine State.Sound.onCur _ (fun t => ?_)
  try dsimp only
  repeat' (first
    | with_reducible assumption
    | with_reducible apply State.Sound.longDone)

theorem execRem {s : State} (h : s.Sound) (sm : Bool) (x : Bool) (d : Operand) (a : Operand) (b : Operand) :
    ∀ nxt, Machine.execRem sm x d a b s = .next nxt → nxt.Sound := by
  unfold Machine.execRem
  refine State.Sound.onCur _ (fun t => ?_)
  try dsimp only
  repeat' (first
    | with_reducible assumption
    | with_reducible apply State.Sound.longDone)

theorem execAddiLit {s : State} (h : s.Sound) (sm : Bool) (lit : Word) (d : Operand) (a : Operand) :
    ∀ nxt, Machine.execAddiLit sm lit d a s = .next nxt → nxt.Sound := by
  unfold Machine.execAddiLit
  refine State.Sound.onCur _ (fun t => ?_)
  try dsimp only
  repeat' (first
    | with_reducible assumption
    | with_reducible apply State.Sound.aluDone)

theorem execPfr {s : State} (h : s.Sound) (sm : Bool) (d : BitVec 3) (a : Operand) :
    ∀ nxt, Machine.execPfr sm d a s = .next nxt → nxt.Sound := by
  unfold Machine.execPfr
  refine State.Sound.onCur _ (fun t => ?_)
  try dsimp only
  repeat' (first
    | with_reducible assumption
    | with_reducible apply State.Sound.aluDone)

theorem execMaxiLit {s : State} (h : s.Sound) (sm : Bool) (lit : Word) (d : Operand) (a : Operand) :
    ∀ nxt, Machine.execMaxiLit sm lit d a s = .next nxt → nxt.Sound := by
  unfold Machine.execMaxiLit
  refine State.Sound.onCur _ (fun t => ?_)
  try dsimp only
  repeat' (first
    | with_reducible assumption
    | with_reducible apply State.Sound.aluDone)

theorem execXori {s : State} (h : s.Sound) (sm : Bool) (i : BitVec 8) (d : Operand) (a : Operand) :
    ∀ nxt, Machine.execXori sm i d a s = .next nxt → nxt.Sound := by
  unfold Machine.execXori
  refine State.Sound.onCur _ (fun t => ?_)
  try dsimp only
  repeat' (first
    | with_reducible assumption
    | with_reducible apply State.Sound.aluDone)

theorem execBfx {s : State} (h : s.Sound) (sm : Bool) (pos : BitVec 6) (wid1 : BitVec 6) (d : Operand) (a : Operand) :
    ∀ nxt, Machine.execBfx sm pos wid1 d a s = .next nxt → nxt.Sound := by
  unfold Machine.execBfx
  refine State.Sound.onCur _ (fun t => ?_)
  try dsimp only
  repeat' (first
    | with_reducible assumption
    | with_reducible apply State.Sound.aluDone)

theorem execShri {s : State} (h : s.Sound) (sm : Bool) (arith : Bool) (c : BitVec 6) (d : Operand) (a : Operand) :
    ∀ nxt, Machine.execShri sm arith c d a s = .next nxt → nxt.Sound := by
  unfold Machine.execShri
  refine State.Sound.onCur _ (fun t => ?_)
  try dsimp only
  repeat' (first
    | with_reducible assumption
    | with_reducible apply State.Sound.aluDone)

theorem execXoriLit {s : State} (h : s.Sound) (sm : Bool) (lit : Word) (d : Operand) (a : Operand) :
    ∀ nxt, Machine.execXoriLit sm lit d a s = .next nxt → nxt.Sound := by
  unfold Machine.execXoriLit
  refine State.Sound.onCur _ (fun t => ?_)
  try dsimp only
  repeat' (first
    | with_reducible assumption
    | with_reducible apply State.Sound.aluDone)

theorem execAddi {s : State} (h : s.Sound) (sm : Bool) (i : BitVec 8) (d : Operand) (a : Operand) :
    ∀ nxt, Machine.execAddi sm i d a s = .next nxt → nxt.Sound := by
  unfold Machine.execAddi
  refine State.Sound.onCur _ (fun t => ?_)
  try dsimp only
  repeat' (first
    | with_reducible assumption
    | with_reducible apply State.Sound.aluDone)

theorem execAndi {s : State} (h : s.Sound) (sm : Bool) (i : BitVec 8) (d : Operand) (a : Operand) :
    ∀ nxt, Machine.execAndi sm i d a s = .next nxt → nxt.Sound := by
  unfold Machine.execAndi
  refine State.Sound.onCur _ (fun t => ?_)
  try dsimp only
  repeat' (first
    | with_reducible assumption
    | with_reducible apply State.Sound.aluDone)

theorem execMiniLit {s : State} (h : s.Sound) (sm : Bool) (lit : Word) (d : Operand) (a : Operand) :
    ∀ nxt, Machine.execMiniLit sm lit d a s = .next nxt → nxt.Sound := by
  unfold Machine.execMiniLit
  refine State.Sound.onCur _ (fun t => ?_)
  try dsimp only
  repeat' (first
    | with_reducible assumption
    | with_reducible apply State.Sound.aluDone)

theorem execMov {s : State} (h : s.Sound) (sm : Bool) (d : Operand) (a : Operand) :
    ∀ nxt, Machine.execMov sm d a s = .next nxt → nxt.Sound := by
  unfold Machine.execMov
  refine State.Sound.onCur _ (fun t => ?_)
  try dsimp only
  repeat' (first
    | with_reducible assumption
    | with_reducible apply State.Sound.aluDone)

theorem execOriLit {s : State} (h : s.Sound) (sm : Bool) (lit : Word) (d : Operand) (a : Operand) :
    ∀ nxt, Machine.execOriLit sm lit d a s = .next nxt → nxt.Sound := by
  unfold Machine.execOriLit
  refine State.Sound.onCur _ (fun t => ?_)
  try dsimp only
  repeat' (first
    | with_reducible assumption
    | with_reducible apply State.Sound.aluDone)

theorem execMuli {s : State} (h : s.Sound) (sm : Bool) (i : BitVec 8) (d : Operand) (a : Operand) :
    ∀ nxt, Machine.execMuli sm i d a s = .next nxt → nxt.Sound := by
  unfold Machine.execMuli
  refine State.Sound.onCur _ (fun t => ?_)
  try dsimp only
  repeat' (first
    | with_reducible assumption
    | with_reducible apply State.Sound.aluDone)

theorem execMini {s : State} (h : s.Sound) (sm : Bool) (i : BitVec 8) (d : Operand) (a : Operand) :
    ∀ nxt, Machine.execMini sm i d a s = .next nxt → nxt.Sound := by
  unfold Machine.execMini
  refine State.Sound.onCur _ (fun t => ?_)
  try dsimp only
  repeat' (first
    | with_reducible assumption
    | with_reducible apply State.Sound.aluDone)

theorem execAndiLit {s : State} (h : s.Sound) (sm : Bool) (lit : Word) (d : Operand) (a : Operand) :
    ∀ nxt, Machine.execAndiLit sm lit d a s = .next nxt → nxt.Sound := by
  unfold Machine.execAndiLit
  refine State.Sound.onCur _ (fun t => ?_)
  try dsimp only
  repeat' (first
    | with_reducible assumption
    | with_reducible apply State.Sound.aluDone)

theorem execLiLit {s : State} (h : s.Sound) (sm : Bool) (lit : Word) (d : Operand) :
    ∀ nxt, Machine.execLiLit sm lit d s = .next nxt → nxt.Sound := by
  unfold Machine.execLiLit
  refine State.Sound.onCur _ (fun t => ?_)
  try dsimp only
  repeat' (first
    | with_reducible assumption
    | with_reducible apply State.Sound.aluDone)

theorem execShli {s : State} (h : s.Sound) (sm : Bool) (c : BitVec 6) (d : Operand) (a : Operand) :
    ∀ nxt, Machine.execShli sm c d a s = .next nxt → nxt.Sound := by
  unfold Machine.execShli
  refine State.Sound.onCur _ (fun t => ?_)
  try dsimp only
  repeat' (first
    | with_reducible assumption
    | with_reducible apply State.Sound.aluDone)

theorem execOri {s : State} (h : s.Sound) (sm : Bool) (i : BitVec 8) (d : Operand) (a : Operand) :
    ∀ nxt, Machine.execOri sm i d a s = .next nxt → nxt.Sound := by
  unfold Machine.execOri
  refine State.Sound.onCur _ (fun t => ?_)
  try dsimp only
  repeat' (first
    | with_reducible assumption
    | with_reducible apply State.Sound.aluDone)

theorem execLea {s : State} (h : s.Sound) (sm : Bool) (x : Bool) (d : Operand) (a : Operand) (b : Operand) :
    ∀ nxt, Machine.execLea sm x d a b s = .next nxt → nxt.Sound := by
  unfold Machine.execLea
  refine State.Sound.onCur _ (fun t => ?_)
  try dsimp only
  repeat' (first
    | with_reducible assumption
    | with_reducible apply State.Sound.aluDone)

theorem execMaxi {s : State} (h : s.Sound) (sm : Bool) (i : BitVec 8) (d : Operand) (a : Operand) :
    ∀ nxt, Machine.execMaxi sm i d a s = .next nxt → nxt.Sound := by
  unfold Machine.execMaxi
  refine State.Sound.onCur _ (fun t => ?_)
  try dsimp only
  repeat' (first
    | with_reducible assumption
    | with_reducible apply State.Sound.aluDone)

theorem execLi {s : State} (h : s.Sound) (sm : Bool) (i : BitVec 8) (d : Operand) :
    ∀ nxt, Machine.execLi sm i d s = .next nxt → nxt.Sound := by
  unfold Machine.execLi
  refine State.Sound.onCur _ (fun t => ?_)
  try dsimp only
  repeat' (first
    | with_reducible assumption
    | with_reducible apply State.Sound.aluDone)

theorem execRoti {s : State} (h : s.Sound) (sm : Bool) (c : BitVec 6) (d : Operand) (a : Operand) :
    ∀ nxt, Machine.execRoti sm c d a s = .next nxt → nxt.Sound := by
  unfold Machine.execRoti
  refine State.Sound.onCur _ (fun t => ?_)
  try dsimp only
  repeat' (first
    | with_reducible assumption
    | with_reducible apply State.Sound.aluDone)

theorem execMuliLit {s : State} (h : s.Sound) (sm : Bool) (lit : Word) (d : Operand) (a : Operand) :
    ∀ nxt, Machine.execMuliLit sm lit d a s = .next nxt → nxt.Sound := by
  unfold Machine.execMuliLit
  refine State.Sound.onCur _ (fun t => ?_)
  try dsimp only
  repeat' (first
    | with_reducible assumption
    | with_reducible apply State.Sound.aluDone)

theorem execBfi {s : State} (h : s.Sound) (sm : Bool) (pos : BitVec 6) (wid1 : BitVec 6) (d : Operand) (a : Operand) :
    ∀ nxt, Machine.execBfi sm pos wid1 d a s = .next nxt → nxt.Sound := by
  unfold Machine.execBfi
  refine State.Sound.onCur _ (fun t => ?_)
  try dsimp only
  repeat' (first
    | with_reducible assumption
    | with_reducible apply State.Sound.aluDone)

theorem execFminExt {s : State} (h : s.Sound) (sm : Bool) (x : Bool) (rm : BitVec 3) (d : Operand) (a : Operand) (b : Operand) :
    ∀ nxt, Machine.execFminExt sm x rm d a b s = .next nxt → nxt.Sound := by
  unfold Machine.execFminExt
  refine State.Sound.onCur _ (fun t => ?_)
  try dsimp only
  repeat' (first
    | with_reducible assumption
    | with_reducible apply State.Sound.aluDone)

theorem execFmul {s : State} (h : s.Sound) (sm : Bool) (x : Bool) (d : Operand) (a : Operand) (b : Operand) :
    ∀ nxt, Machine.execFmul sm x d a b s = .next nxt → nxt.Sound := by
  unfold Machine.execFmul
  refine State.Sound.onCur _ (fun t => ?_)
  try dsimp only
  repeat' (first
    | with_reducible assumption
    | with_reducible apply State.Sound.aluDone)

theorem execFsubExt {s : State} (h : s.Sound) (sm : Bool) (x : Bool) (rm : BitVec 3) (d : Operand) (a : Operand) (b : Operand) :
    ∀ nxt, Machine.execFsubExt sm x rm d a b s = .next nxt → nxt.Sound := by
  unfold Machine.execFsubExt
  refine State.Sound.onCur _ (fun t => ?_)
  try dsimp only
  repeat' (first
    | with_reducible assumption
    | with_reducible apply State.Sound.aluDone)

theorem execFmin {s : State} (h : s.Sound) (sm : Bool) (x : Bool) (d : Operand) (a : Operand) (b : Operand) :
    ∀ nxt, Machine.execFmin sm x d a b s = .next nxt → nxt.Sound := by
  unfold Machine.execFmin
  refine State.Sound.onCur _ (fun t => ?_)
  try dsimp only
  repeat' (first
    | with_reducible assumption
    | with_reducible apply State.Sound.aluDone)

theorem execFfma {s : State} (h : s.Sound) (sm : Bool) (x : Bool) (rm : BitVec 3) (d : Operand) (a : Operand) (b : Operand) (c : Operand) :
    ∀ nxt, Machine.execFfma sm x rm d a b c s = .next nxt → nxt.Sound := by
  unfold Machine.execFfma
  refine State.Sound.onCur _ (fun t => ?_)
  try dsimp only
  repeat' (first
    | with_reducible assumption
    | with_reducible apply State.Sound.aluDone)

theorem execFsub {s : State} (h : s.Sound) (sm : Bool) (x : Bool) (d : Operand) (a : Operand) (b : Operand) :
    ∀ nxt, Machine.execFsub sm x d a b s = .next nxt → nxt.Sound := by
  unfold Machine.execFsub
  refine State.Sound.onCur _ (fun t => ?_)
  try dsimp only
  repeat' (first
    | with_reducible assumption
    | with_reducible apply State.Sound.aluDone)

theorem execFadd {s : State} (h : s.Sound) (sm : Bool) (x : Bool) (d : Operand) (a : Operand) (b : Operand) :
    ∀ nxt, Machine.execFadd sm x d a b s = .next nxt → nxt.Sound := by
  unfold Machine.execFadd
  refine State.Sound.onCur _ (fun t => ?_)
  try dsimp only
  repeat' (first
    | with_reducible assumption
    | with_reducible apply State.Sound.aluDone)

theorem execFmaxExt {s : State} (h : s.Sound) (sm : Bool) (x : Bool) (rm : BitVec 3) (d : Operand) (a : Operand) (b : Operand) :
    ∀ nxt, Machine.execFmaxExt sm x rm d a b s = .next nxt → nxt.Sound := by
  unfold Machine.execFmaxExt
  refine State.Sound.onCur _ (fun t => ?_)
  try dsimp only
  repeat' (first
    | with_reducible assumption
    | with_reducible apply State.Sound.aluDone)

theorem execFmulExt {s : State} (h : s.Sound) (sm : Bool) (x : Bool) (rm : BitVec 3) (d : Operand) (a : Operand) (b : Operand) :
    ∀ nxt, Machine.execFmulExt sm x rm d a b s = .next nxt → nxt.Sound := by
  unfold Machine.execFmulExt
  refine State.Sound.onCur _ (fun t => ?_)
  try dsimp only
  repeat' (first
    | with_reducible assumption
    | with_reducible apply State.Sound.aluDone)

theorem execFclass {s : State} (h : s.Sound) (sm : Bool) (x : Bool) (d : Operand) (a : Operand) :
    ∀ nxt, Machine.execFclass sm x d a s = .next nxt → nxt.Sound := by
  unfold Machine.execFclass
  refine State.Sound.onCur _ (fun t => ?_)
  try dsimp only
  repeat' (first
    | with_reducible assumption
    | with_reducible apply State.Sound.aluDone)

theorem execFaddExt {s : State} (h : s.Sound) (sm : Bool) (x : Bool) (rm : BitVec 3) (d : Operand) (a : Operand) (b : Operand) :
    ∀ nxt, Machine.execFaddExt sm x rm d a b s = .next nxt → nxt.Sound := by
  unfold Machine.execFaddExt
  refine State.Sound.onCur _ (fun t => ?_)
  try dsimp only
  repeat' (first
    | with_reducible assumption
    | with_reducible apply State.Sound.aluDone)

theorem execFcvt {s : State} (h : s.Sound) (sm : Bool) (sat : Bool) (rm : BitVec 3) (dfm : BitVec 8) (sfm : BitVec 8) (d : Operand) (a : Operand) :
    ∀ nxt, Machine.execFcvt sm sat rm dfm sfm d a s = .next nxt → nxt.Sound := by
  unfold Machine.execFcvt
  refine State.Sound.onCur _ (fun t => ?_)
  try dsimp only
  repeat' (first
    | with_reducible assumption
    | with_reducible apply State.Sound.aluDone)

theorem execFmax {s : State} (h : s.Sound) (sm : Bool) (x : Bool) (d : Operand) (a : Operand) (b : Operand) :
    ∀ nxt, Machine.execFmax sm x d a b s = .next nxt → nxt.Sound := by
  unfold Machine.execFmax
  refine State.Sound.onCur _ (fun t => ?_)
  try dsimp only
  repeat' (first
    | with_reducible assumption
    | with_reducible apply State.Sound.aluDone)

theorem execFsqrt {s : State} (h : s.Sound) (sm : Bool) (x : Bool) (d : Operand) (a : Operand) :
    ∀ nxt, Machine.execFsqrt sm x d a s = .next nxt → nxt.Sound := by
  unfold Machine.execFsqrt
  refine State.Sound.onCur _ (fun t => ?_)
  try dsimp only
  repeat' (first
    | with_reducible assumption
    | with_reducible apply State.Sound.longDone)

theorem execFsqrtExt {s : State} (h : s.Sound) (sm : Bool) (x : Bool) (rm : BitVec 3) (d : Operand) (a : Operand) :
    ∀ nxt, Machine.execFsqrtExt sm x rm d a s = .next nxt → nxt.Sound := by
  unfold Machine.execFsqrtExt
  refine State.Sound.onCur _ (fun t => ?_)
  try dsimp only
  repeat' (first
    | with_reducible assumption
    | with_reducible apply State.Sound.longDone)

theorem execFdiv {s : State} (h : s.Sound) (sm : Bool) (x : Bool) (d : Operand) (a : Operand) (b : Operand) :
    ∀ nxt, Machine.execFdiv sm x d a b s = .next nxt → nxt.Sound := by
  unfold Machine.execFdiv
  refine State.Sound.onCur _ (fun t => ?_)
  try dsimp only
  repeat' (first
    | with_reducible assumption
    | with_reducible apply State.Sound.longDone)

theorem execFdivExt {s : State} (h : s.Sound) (sm : Bool) (x : Bool) (rm : BitVec 3) (d : Operand) (a : Operand) (b : Operand) :
    ∀ nxt, Machine.execFdivExt sm x rm d a b s = .next nxt → nxt.Sound := by
  unfold Machine.execFdivExt
  refine State.Sound.onCur _ (fun t => ?_)
  try dsimp only
  repeat' (first
    | with_reducible assumption
    | with_reducible apply State.Sound.longDone)

theorem execLoop {s : State} (h : s.Sound) (sm : Bool) (off : BitVec 15) (d : Operand) :
    ∀ nxt, Machine.execLoop sm off d s = .next nxt → nxt.Sound := by
  unfold Machine.execLoop
  refine State.Sound.onCur _ (fun t => ?_)
  try dsimp only
  repeat' (first
    | with_reducible assumption
    | with_reducible apply State.Sound.doneAt)

theorem execBr {s : State} (h : s.Sound) (sm : Bool) (off : BitVec 22) :
    ∀ nxt, Machine.execBr sm off s = .next nxt → nxt.Sound := by
  unfold Machine.execBr
  refine State.Sound.onCur _ (fun t => ?_)
  try dsimp only
  repeat' (first
    | with_reducible assumption
    | with_reducible apply State.Sound.doneAt)

theorem execFcmp {s : State} (h : s.Sound) (sm : Bool) (dbl : Bool) (cond : BitVec 3) (k : BitVec 2) (a : Operand) (b : Operand) :
    ∀ nxt, Machine.execFcmp sm dbl cond k a b s = .next nxt → nxt.Sound := by
  unfold Machine.execFcmp
  refine State.Sound.onCur _ (fun t => ?_)
  try dsimp only
  repeat' (first
    | with_reducible assumption
    | with_reducible apply State.Sound.skipIf)

theorem execJmp {s : State} (h : s.Sound) (sm : Bool) (a : Operand) :
    ∀ nxt, Machine.execJmp sm a s = .next nxt → nxt.Sound := by
  unfold Machine.execJmp
  refine State.Sound.onCur _ (fun t => ?_)
  try dsimp only
  repeat' (first
    | with_reducible assumption
    | with_reducible apply State.Sound.doneAt)

theorem execCmpLit {s : State} (h : s.Sound) (sm : Bool) (cond : BitVec 3) (k : BitVec 2) (a : Operand) (lit : Word) :
    ∀ nxt, Machine.execCmpLit sm cond k a lit s = .next nxt → nxt.Sound := by
  unfold Machine.execCmpLit
  refine State.Sound.onCur _ (fun t => ?_)
  try dsimp only
  repeat' (first
    | with_reducible assumption
    | with_reducible apply State.Sound.skipIf)

theorem execCmp {s : State} (h : s.Sound) (sm : Bool) (cond : BitVec 3) (k : BitVec 2) (a : Operand) (b : CmpSrc) :
    ∀ nxt, Machine.execCmp sm cond k a b s = .next nxt → nxt.Sound := by
  unfold Machine.execCmp
  refine State.Sound.onCur _ (fun t => ?_)
  try dsimp only
  repeat' (first
    | with_reducible assumption
    | with_reducible apply State.Sound.skipIf)

theorem execAsyncTrap {s : State} (h : s.Sound)  :
    ∀ nxt, Machine.execAsyncTrap s = .next nxt → nxt.Sound := by
  unfold Machine.execAsyncTrap
  refine State.Sound.onCur _ (fun t => ?_)
  try dsimp only
  repeat' (first
    | with_reducible assumption
    | with_reducible apply State.Sound.raise
    | with_reducible refine State.Sound.foldl ?_ (fun _ _ _ => ?_)
    | with_reducible refine State.Sound.foldlFst ?_ (fun _ _ _ => ?_)
    | with_reducible refine State.Sound.ite (fun _ => ?_) (fun _ => ?_)
    | split)

theorem execRet {s : State} (h : s.Sound) (sm : Bool) :
    ∀ nxt, Machine.execRet sm s = .next nxt → nxt.Sound := by
  unfold Machine.execRet
  refine State.Sound.onCur _ (fun t => ?_)
  try dsimp only
  repeat' (first
    | with_reducible assumption
    | (show eventOp _ = true; rfl)
    | with_reducible exact True.intro
    | with_reducible apply State.Sound.switchPoint
    | with_reducible apply State.Sound.exchange
    | with_reducible apply State.Sound.park
    | with_reducible refine State.Sound.popFrame ?_ _ _ _ (by with_reducible assumption)
    | with_reducible apply State.Sound.fault
    | with_reducible apply State.Sound.doneAt
    | with_reducible apply State.Sound.thenPark
    | with_reducible refine State.Sound.foldl ?_ (fun _ _ _ => ?_)
    | with_reducible refine State.Sound.foldlFst ?_ (fun _ _ _ => ?_)
    | with_reducible refine State.Sound.ite (fun _ => ?_) (fun _ => ?_)
    | split
    | fail_if_no_progress with_reducible apply State.Sound.upd
    | dsimp only)

theorem execAnnulment {s : State} (h : s.Sound)  :
    ∀ nxt, Machine.execAnnulment s = .next nxt → nxt.Sound := by
  unfold Machine.execAnnulment
  refine State.Sound.onCur _ (fun t => ?_)
  try dsimp only
  repeat' (first
    | with_reducible assumption
    | with_reducible apply State.Sound.annul
    | with_reducible apply State.Sound.fetchFails
    | with_reducible refine State.Sound.foldl ?_ (fun _ _ _ => ?_)
    | with_reducible refine State.Sound.foldlFst ?_ (fun _ _ _ => ?_)
    | with_reducible refine State.Sound.ite (fun _ => ?_) (fun _ => ?_)
    | split)

theorem execCall {s : State} (h : s.Sound) (sm : Bool) (off : BitVec 22) :
    ∀ nxt, Machine.execCall sm off s = .next nxt → nxt.Sound := by
  unfold Machine.execCall
  refine State.Sound.onCur _ (fun t => ?_)
  try dsimp only
  repeat' (first
    | with_reducible assumption
    | with_reducible apply State.Sound.callTo)

theorem execCallr {s : State} (h : s.Sound) (sm : Bool) (a : Operand) :
    ∀ nxt, Machine.execCallr sm a s = .next nxt → nxt.Sound := by
  unfold Machine.execCallr
  refine State.Sound.onCur _ (fun t => ?_)
  try dsimp only
  repeat' (first
    | with_reducible assumption
    | with_reducible apply State.Sound.callTo)

theorem execIll {s : State} (h : s.Sound) (sm : Bool) (len : BitVec 2) (u : BitVec 22) :
    ∀ nxt, Machine.execIll sm len u s = .next nxt → nxt.Sound := by
  unfold Machine.execIll
  refine State.Sound.onCur _ (fun t => ?_)
  try dsimp only
  repeat' (first
    | with_reducible assumption
    | with_reducible apply State.Sound.illegal)

theorem execSwitchPointCommit {s : State} (h : s.Sound) (t : ThreadRef) :
    ∀ nxt, Machine.execSwitchPointCommit t s = .next nxt → nxt.Sound := by
  unfold Machine.execSwitchPointCommit
  refine State.Sound.event ?_
  try dsimp only
  repeat' (first
    | with_reducible assumption
    | with_reducible apply State.Sound.settle
    | with_reducible refine State.Sound.foldl ?_ (fun _ _ _ => ?_)
    | with_reducible refine State.Sound.foldlFst ?_ (fun _ _ _ => ?_)
    | with_reducible refine State.Sound.ite (fun _ => ?_) (fun _ => ?_)
    | split)

theorem execResultReturn {s : State} (h : s.Sound) (t : ThreadRef) (id : Nat) (vals : List Val) :
    ∀ nxt, Machine.execResultReturn t id vals s = .next nxt → nxt.Sound := by
  unfold Machine.execResultReturn
  refine State.Sound.event ?_
  try dsimp only
  repeat' (first
    | with_reducible assumption
    | (show eventOp _ = true; rfl)
    | with_reducible exact True.intro
    | with_reducible apply State.Sound.sallocEnd
    | with_reducible apply State.Sound.giveResult
    | with_reducible apply State.Sound.onUnit
    | with_reducible refine State.Sound.foldl ?_ (fun _ _ _ => ?_)
    | with_reducible refine State.Sound.foldlFst ?_ (fun _ _ _ => ?_)
    | with_reducible refine State.Sound.ite (fun _ => ?_) (fun _ => ?_)
    | split
    | fail_if_no_progress with_reducible apply State.Sound.upd
    | dsimp only)

theorem execFence {s : State} (h : s.Sound) (sm : Bool) (scope : BitVec 3) :
    ∀ nxt, Machine.execFence sm scope s = .next nxt → nxt.Sound := by
  unfold Machine.execFence
  refine State.Sound.onCur _ (fun t => ?_)
  try dsimp only
  repeat' (first
    | with_reducible assumption
    | (show eventOp _ = true; rfl)
    | with_reducible exact True.intro
    | with_reducible apply State.Sound.park
    | with_reducible apply State.Sound.flushEach
    | with_reducible refine State.Sound.flushEach_eq ?_ (by with_reducible assumption)
    | with_reducible apply State.Sound.done
    | with_reducible refine State.Sound.foldl ?_ (fun _ _ _ => ?_)
    | with_reducible refine State.Sound.foldlFst ?_ (fun _ _ _ => ?_)
    | with_reducible refine State.Sound.ite (fun _ => ?_) (fun _ => ?_)
    | split
    | fail_if_no_progress with_reducible apply State.Sound.upd
    | dsimp only)

theorem execSalloc {s : State} (h : s.Sound) (sm : Bool) (level : BitVec 2) (d : Operand) (a : Operand) :
    ∀ nxt, Machine.execSalloc sm level d a s = .next nxt → nxt.Sound := by
  unfold Machine.execSalloc
  refine State.Sound.onCur _ (fun t => ?_)
  try dsimp only
  repeat' (first
    | with_reducible assumption
    | (show eventOp _ = true; rfl)
    | with_reducible exact True.intro
    | with_reducible apply State.Sound.withEntry
    | with_reducible apply State.Sound.allocate
    | with_reducible apply State.Sound.done
    | with_reducible refine State.Sound.foldl ?_ (fun _ _ _ => ?_)
    | with_reducible refine State.Sound.foldlFst ?_ (fun _ _ _ => ?_)
    | (intro y hy)
    | (intro y)
    | with_reducible refine State.Sound.ite (fun _ => ?_) (fun _ => ?_)
    | split
    | fail_if_no_progress with_reducible apply State.Sound.upd
    | dsimp only)

theorem execSfree {s : State} (h : s.Sound) (sm : Bool) (a : Operand) :
    ∀ nxt, Machine.execSfree sm a s = .next nxt → nxt.Sound := by
  unfold Machine.execSfree
  refine State.Sound.onCur _ (fun t => ?_)
  try dsimp only
  repeat' (first
    | with_reducible assumption
    | with_reducible apply State.Sound.fault
    | with_reducible apply State.Sound.done
    | with_reducible apply State.Sound.dropSeg
    | with_reducible apply State.Sound.park
    | with_reducible refine State.Sound.foldl ?_ (fun _ _ _ => ?_)
    | with_reducible refine State.Sound.foldlFst ?_ (fun _ _ _ => ?_)
    | with_reducible refine State.Sound.ite (fun _ => ?_) (fun _ => ?_)
    | split)

theorem execQmov {s : State} (h : s.Sound) (sm : Bool) (q : BitVec 2) (d : Operand) :
    ∀ nxt, Machine.execQmov sm q d s = .next nxt → nxt.Sound := by
  unfold Machine.execQmov
  refine State.Sound.onCur _ (fun t => ?_)
  try dsimp only
  repeat' (first
    | with_reducible assumption
    | (show eventOp _ = true; rfl)
    | with_reducible exact True.intro
    | with_reducible apply State.Sound.fault
    | with_reducible apply State.Sound.consume
    | with_reducible apply State.Sound.aluDone
    | with_reducible refine State.Sound.foldl ?_ (fun _ _ _ => ?_)
    | with_reducible refine State.Sound.foldlFst ?_ (fun _ _ _ => ?_)
    | with_reducible refine State.Sound.ite (fun _ => ?_) (fun _ => ?_)
    | split
    | fail_if_no_progress with_reducible apply State.Sound.upd
    | dsimp only)

theorem execSegmentFree {s : State} (h : s.Sound) (t : ThreadRef) (va : Word) :
    ∀ nxt, Machine.execSegmentFree t va s = .next nxt → nxt.Sound := by
  unfold Machine.execSegmentFree
  refine State.Sound.event ?_
  try dsimp only
  repeat' (first
    | with_reducible assumption
    | with_reducible apply State.Sound.fault
    | with_reducible apply State.Sound.done
    | with_reducible apply State.Sound.dropSeg
    | with_reducible refine State.Sound.foldl ?_ (fun _ _ _ => ?_)
    | with_reducible refine State.Sound.foldlFst ?_ (fun _ _ _ => ?_)
    | with_reducible refine State.Sound.ite (fun _ => ?_) (fun _ => ?_)
    | split)

theorem execFlushr {s : State} (h : s.Sound) (sm : Bool) (a : Operand) :
    ∀ nxt, Machine.execFlushr sm a s = .next nxt → nxt.Sound := by
  unfold Machine.execFlushr
  refine State.Sound.onCur _ (fun t => ?_)
  try dsimp only
  repeat' (first
    | with_reducible assumption
    | (show eventOp _ = true; rfl)
    | with_reducible exact True.intro
    | with_reducible apply State.Sound.fault
    | with_reducible apply State.Sound.park
    | with_reducible apply State.Sound.flushEach
    | with_reducible refine State.Sound.flushEach_eq ?_ (by with_reducible assumption)
    | with_reducible apply State.Sound.done
    | with_reducible refine State.Sound.foldl ?_ (fun _ _ _ => ?_)
    | with_reducible refine State.Sound.foldlFst ?_ (fun _ _ _ => ?_)
    | with_reducible refine State.Sound.ite (fun _ => ?_) (fun _ => ?_)
    | split
    | fail_if_no_progress with_reducible apply State.Sound.upd
    | dsimp only)

theorem execBankAccept {s : State} (h : s.Sound) (acc : Access) :
    ∀ nxt, Machine.execBankAccept acc s = .next nxt → nxt.Sound := by
  unfold Machine.execBankAccept
  refine State.Sound.event ?_
  try dsimp only
  repeat' (first
    | with_reducible assumption
    | (show eventOp _ = true; rfl)
    | with_reducible exact True.intro
    | with_reducible apply State.Sound.sched
    | with_reducible apply State.Sound.perform
    | with_reducible refine State.Sound.perform_eq ?_ (by with_reducible assumption)
    | with_reducible apply State.Sound.acceptThread
    | with_reducible apply State.Sound.onRef
    | with_reducible apply State.Sound.nudge
    | with_reducible refine State.Sound.foldl ?_ (fun _ _ _ => ?_)
    | with_reducible refine State.Sound.foldlFst ?_ (fun _ _ _ => ?_)
    | with_reducible refine State.Sound.ite (fun _ => ?_) (fun _ => ?_)
    | split
    | fail_if_no_progress with_reducible apply State.Sound.upd
    | dsimp only)

theorem execStqLit {s : State} (h : s.Sound) (sm : Bool) (q : BitVec 2) (off : Word) (a : Operand) :
    ∀ nxt, Machine.execStqLit sm q off a s = .next nxt → nxt.Sound := by
  unfold Machine.execStqLit
  refine State.Sound.onCur _ (fun t => ?_)
  try dsimp only
  repeat' (first
    | with_reducible assumption
    | with_reducible apply State.Sound.access)

theorem execStbd {s : State} (h : s.Sound) (sm : Bool) (off : BitVec 4) (d : Operand) (a : Operand) :
    ∀ nxt, Machine.execStbd sm off d a s = .next nxt → nxt.Sound := by
  unfold Machine.execStbd
  refine State.Sound.onCur _ (fun t => ?_)
  try dsimp only
  repeat' (first
    | with_reducible assumption
    | with_reducible apply State.Sound.access)

theorem execSt {s : State} (h : s.Sound) (sm : Bool) (rx : Bool) (sz : BitVec 2) (off : BitVec 4) (d : Operand) (a : Operand) :
    ∀ nxt, Machine.execSt sm rx sz off d a s = .next nxt → nxt.Sound := by
  unfold Machine.execSt
  refine State.Sound.onCur _ (fun t => ?_)
  try dsimp only
  repeat' (first
    | with_reducible assumption
    | with_reducible apply State.Sound.access)

theorem execLdbd {s : State} (h : s.Sound) (sm : Bool) (off : BitVec 4) (d : Operand) (a : Operand) :
    ∀ nxt, Machine.execLdbd sm off d a s = .next nxt → nxt.Sound := by
  unfold Machine.execLdbd
  refine State.Sound.onCur _ (fun t => ?_)
  try dsimp only
  repeat' (first
    | with_reducible assumption
    | with_reducible apply State.Sound.access)

theorem execLdLit {s : State} (h : s.Sound) (sm : Bool) (rx : Bool) (sx : Bool) (sz : BitVec 2) (off : Word) (d : Operand) (a : Operand) :
    ∀ nxt, Machine.execLdLit sm rx sx sz off d a s = .next nxt → nxt.Sound := by
  unfold Machine.execLdLit
  refine State.Sound.onCur _ (fun t => ?_)
  try dsimp only
  repeat' (first
    | with_reducible assumption
    | with_reducible apply State.Sound.access)

theorem execStq {s : State} (h : s.Sound) (sm : Bool) (q : BitVec 2) (off : BitVec 4) (a : Operand) :
    ∀ nxt, Machine.execStq sm q off a s = .next nxt → nxt.Sound := by
  unfold Machine.execStq
  refine State.Sound.onCur _ (fun t => ?_)
  try dsimp only
  repeat' (first
    | with_reducible assumption
    | with_reducible apply State.Sound.access)

theorem execLd {s : State} (h : s.Sound) (sm : Bool) (rx : Bool) (sx : Bool) (sz : BitVec 2) (off : BitVec 4) (d : Operand) (a : Operand) :
    ∀ nxt, Machine.execLd sm rx sx sz off d a s = .next nxt → nxt.Sound := by
  unfold Machine.execLd
  refine State.Sound.onCur _ (fun t => ?_)
  try dsimp only
  repeat' (first
    | with_reducible assumption
    | with_reducible apply State.Sound.access)

theorem execStbdLit {s : State} (h : s.Sound) (sm : Bool) (off : Word) (d : Operand) (a : Operand) :
    ∀ nxt, Machine.execStbdLit sm off d a s = .next nxt → nxt.Sound := by
  unfold Machine.execStbdLit
  refine State.Sound.onCur _ (fun t => ?_)
  try dsimp only
  repeat' (first
    | with_reducible assumption
    | with_reducible apply State.Sound.access)

theorem execLdbdLit {s : State} (h : s.Sound) (sm : Bool) (off : Word) (d : Operand) (a : Operand) :
    ∀ nxt, Machine.execLdbdLit sm off d a s = .next nxt → nxt.Sound := by
  unfold Machine.execLdbdLit
  refine State.Sound.onCur _ (fun t => ?_)
  try dsimp only
  repeat' (first
    | with_reducible assumption
    | with_reducible apply State.Sound.access)

theorem execStLit {s : State} (h : s.Sound) (sm : Bool) (rx : Bool) (sz : BitVec 2) (off : Word) (d : Operand) (a : Operand) :
    ∀ nxt, Machine.execStLit sm rx sz off d a s = .next nxt → nxt.Sound := by
  unfold Machine.execStLit
  refine State.Sound.onCur _ (fun t => ?_)
  try dsimp only
  repeat' (first
    | with_reducible assumption
    | with_reducible apply State.Sound.access)

theorem execAppend {s : State} (h : s.Sound) (sm : Bool) (cnt : BitVec 3) (dsem : BitVec 3) (a : Operand) (b : Operand) :
    ∀ nxt, Machine.execAppend sm cnt dsem a b s = .next nxt → nxt.Sound := by
  unfold Machine.execAppend
  refine State.Sound.onCur _ (fun t => ?_)
  try dsimp only
  repeat' (first
    | with_reducible assumption
    | (show eventOp _ = true; rfl)
    | with_reducible apply State.Sound.fault
    | with_reducible apply State.Sound.park
    | with_reducible apply State.Sound.consume
    | with_reducible apply State.Sound.done
    | with_reducible apply State.Sound.postLater
    | with_reducible apply State.Sound.commitRecord
    | with_reducible apply State.Sound.dispatchMsg
    | with_reducible refine State.Sound.foldl ?_ (fun _ _ _ => ?_)
    | with_reducible refine State.Sound.foldlFst ?_ (fun _ _ _ => ?_)
    | with_reducible refine State.Sound.ite (fun _ => ?_) (fun _ => ?_)
    | split)

theorem execAcas {s : State} (h : s.Sound) (sm : Bool) (x : Bool) (d : Operand) (a : Operand) (b : Operand) (c : Operand) :
    ∀ nxt, Machine.execAcas sm x d a b c s = .next nxt → nxt.Sound := by
  unfold Machine.execAcas
  refine State.Sound.onCur _ (fun t => ?_)
  try dsimp only
  repeat' (first
    | with_reducible assumption
    | with_reducible apply State.Sound.atomic)

theorem execAor {s : State} (h : s.Sound) (sm : Bool) (x : Bool) (d : Operand) (a : Operand) (b : Operand) :
    ∀ nxt, Machine.execAor sm x d a b s = .next nxt → nxt.Sound := by
  unfold Machine.execAor
  refine State.Sound.onCur _ (fun t => ?_)
  try dsimp only
  repeat' (first
    | with_reducible assumption
    | with_reducible apply State.Sound.atomic)

theorem execAadd {s : State} (h : s.Sound) (sm : Bool) (x : Bool) (d : Operand) (a : Operand) (b : Operand) :
    ∀ nxt, Machine.execAadd sm x d a b s = .next nxt → nxt.Sound := by
  unfold Machine.execAadd
  refine State.Sound.onCur _ (fun t => ?_)
  try dsimp only
  repeat' (first
    | with_reducible assumption
    | with_reducible apply State.Sound.atomic)

theorem execAand {s : State} (h : s.Sound) (sm : Bool) (x : Bool) (d : Operand) (a : Operand) (b : Operand) :
    ∀ nxt, Machine.execAand sm x d a b s = .next nxt → nxt.Sound := by
  unfold Machine.execAand
  refine State.Sound.onCur _ (fun t => ?_)
  try dsimp only
  repeat' (first
    | with_reducible assumption
    | with_reducible apply State.Sound.atomic)

theorem execAxor {s : State} (h : s.Sound) (sm : Bool) (x : Bool) (d : Operand) (a : Operand) (b : Operand) :
    ∀ nxt, Machine.execAxor sm x d a b s = .next nxt → nxt.Sound := by
  unfold Machine.execAxor
  refine State.Sound.onCur _ (fun t => ?_)
  try dsimp only
  repeat' (first
    | with_reducible assumption
    | with_reducible apply State.Sound.atomic)

theorem execAmin {s : State} (h : s.Sound) (sm : Bool) (x : Bool) (d : Operand) (a : Operand) (b : Operand) :
    ∀ nxt, Machine.execAmin sm x d a b s = .next nxt → nxt.Sound := by
  unfold Machine.execAmin
  refine State.Sound.onCur _ (fun t => ?_)
  try dsimp only
  repeat' (first
    | with_reducible assumption
    | with_reducible apply State.Sound.atomic)

theorem execAxchg {s : State} (h : s.Sound) (sm : Bool) (x : Bool) (d : Operand) (a : Operand) (b : Operand) :
    ∀ nxt, Machine.execAxchg sm x d a b s = .next nxt → nxt.Sound := by
  unfold Machine.execAxchg
  refine State.Sound.onCur _ (fun t => ?_)
  try dsimp only
  repeat' (first
    | with_reducible assumption
    | with_reducible apply State.Sound.atomic)

theorem execAmax {s : State} (h : s.Sound) (sm : Bool) (x : Bool) (d : Operand) (a : Operand) (b : Operand) :
    ∀ nxt, Machine.execAmax sm x d a b s = .next nxt → nxt.Sound := by
  unfold Machine.execAmax
  refine State.Sound.onCur _ (fun t => ?_)
  try dsimp only
  repeat' (first
    | with_reducible assumption
    | with_reducible apply State.Sound.atomic)

theorem execAfadd {s : State} (h : s.Sound) (sm : Bool) (x : Bool) (d : Operand) (a : Operand) (b : Operand) :
    ∀ nxt, Machine.execAfadd sm x d a b s = .next nxt → nxt.Sound := by
  unfold Machine.execAfadd
  refine State.Sound.onCur _ (fun t => ?_)
  try dsimp only
  repeat' (first
    | with_reducible assumption
    | with_reducible apply State.Sound.atomic)

theorem execTmvBlockDone {s : State} (h : s.Sound) (unit : Nat) (id : Nat) :
    ∀ nxt, Machine.execTmvBlockDone unit id s = .next nxt → nxt.Sound := by
  unfold Machine.execTmvBlockDone
  refine State.Sound.event ?_
  try dsimp only
  repeat' (first
    | with_reducible assumption
    | with_reducible apply State.Sound.tileStep)

theorem execCxrst {s : State} (h : s.Sound) (e : Ext) :
    ∀ nxt, Machine.execCxrst e s = .next nxt → nxt.Sound := by
  unfold Machine.execCxrst
  refine State.Sound.onCur _ (fun t => ?_)
  try dsimp only
  repeat' (first
    | with_reducible assumption
    | (show eventOp _ = true; rfl)
    | with_reducible exact True.intro
    | with_reducible apply State.Sound.park
    | with_reducible apply State.Sound.haltNow
    | with_reducible apply State.Sound.setChan
    | with_reducible apply State.Sound.copyPost
    | with_reducible apply State.Sound.done
    | with_reducible refine State.Sound.foldl ?_ (fun _ _ _ => ?_)
    | with_reducible refine State.Sound.foldlFst ?_ (fun _ _ _ => ?_)
    | with_reducible refine State.Sound.ite (fun _ => ?_) (fun _ => ?_)
    | split
    | fail_if_no_progress with_reducible apply State.Sound.upd
    | dsimp only)

theorem execCxBlockWrite {s : State} (h : s.Sound) (unit : Nat) (chan : Nat) :
    ∀ nxt, Machine.execCxBlockWrite unit chan s = .next nxt → nxt.Sound := by
  unfold Machine.execCxBlockWrite
  refine State.Sound.event ?_
  try dsimp only
  repeat' (first
    | with_reducible assumption
    | with_reducible apply State.Sound.copyStep)

theorem execCxstop {s : State} (h : s.Sound) (e : Ext) :
    ∀ nxt, Machine.execCxstop e s = .next nxt → nxt.Sound := by
  unfold Machine.execCxstop
  refine State.Sound.onCur _ (fun t => ?_)
  try dsimp only
  repeat' (first
    | with_reducible assumption
    | (show eventOp _ = true; rfl)
    | with_reducible exact True.intro
    | with_reducible apply State.Sound.park
    | with_reducible apply State.Sound.withEntry
    | with_reducible apply State.Sound.done
    | with_reducible apply State.Sound.setChan
    | with_reducible apply State.Sound.longDone
    | with_reducible refine State.Sound.foldl ?_ (fun _ _ _ => ?_)
    | with_reducible refine State.Sound.foldlFst ?_ (fun _ _ _ => ?_)
    | (intro y hy)
    | (intro y)
    | with_reducible refine State.Sound.ite (fun _ => ?_) (fun _ => ?_)
    | split
    | fail_if_no_progress with_reducible apply State.Sound.upd
    | dsimp only)

theorem execCxgo {s : State} (h : s.Sound) (e : Ext) :
    ∀ nxt, Machine.execCxgo e s = .next nxt → nxt.Sound := by
  unfold Machine.execCxgo
  refine State.Sound.onCur _ (fun t => ?_)
  try dsimp only
  repeat' (first
    | with_reducible assumption
    | (show eventOp _ = true; rfl)
    | with_reducible exact True.intro
    | with_reducible apply State.Sound.illegal
    | with_reducible apply State.Sound.fault
    | with_reducible apply State.Sound.park
    | with_reducible apply State.Sound.done
    | with_reducible apply State.Sound.startCopy
    | with_reducible refine State.Sound.foldl ?_ (fun _ _ _ => ?_)
    | with_reducible refine State.Sound.foldlFst ?_ (fun _ _ _ => ?_)
    | with_reducible refine State.Sound.ite (fun _ => ?_) (fun _ => ?_)
    | split
    | fail_if_no_progress with_reducible apply State.Sound.upd
    | dsimp only)

theorem execCxtpl {s : State} (h : s.Sound) (e : Ext) :
    ∀ nxt, Machine.execCxtpl e s = .next nxt → nxt.Sound := by
  unfold Machine.execCxtpl
  refine State.Sound.onCur _ (fun t => ?_)
  try dsimp only
  repeat' (first
    | with_reducible assumption
    | with_reducible apply State.Sound.fault
    | with_reducible apply State.Sound.parkOn
    | with_reducible apply State.Sound.park
    | with_reducible apply State.Sound.consume
    | with_reducible apply State.Sound.done
    | with_reducible apply State.Sound.onUnit
    | with_reducible apply State.Sound.illegal
    | with_reducible refine State.Sound.foldl ?_ (fun _ _ _ => ?_)
    | with_reducible refine State.Sound.foldlFst ?_ (fun _ _ _ => ?_)
    | with_reducible refine State.Sound.ite (fun _ => ?_) (fun _ => ?_)
    | split)

theorem execCxwm {s : State} (h : s.Sound) (e : Ext) :
    ∀ nxt, Machine.execCxwm e s = .next nxt → nxt.Sound := by
  unfold Machine.execCxwm
  refine State.Sound.onCur _ (fun t => ?_)
  try dsimp only
  repeat' (first
    | with_reducible assumption
    | with_reducible apply State.Sound.fault
    | with_reducible apply State.Sound.illegal
    | with_reducible apply State.Sound.park
    | with_reducible apply State.Sound.done
    | with_reducible apply State.Sound.setChan
    | with_reducible refine State.Sound.foldl ?_ (fun _ _ _ => ?_)
    | with_reducible refine State.Sound.foldlFst ?_ (fun _ _ _ => ?_)
    | with_reducible refine State.Sound.ite (fun _ => ?_) (fun _ => ?_))

theorem execTmv {s : State} (h : s.Sound) (e : Ext) :
    ∀ nxt, Machine.execTmv e s = .next nxt → nxt.Sound := by
  unfold Machine.execTmv
  refine State.Sound.onCur _ (fun t => ?_)
  try dsimp only
  repeat' (first
    | with_reducible assumption
    | (show eventOp _ = true; rfl)
    | with_reducible apply State.Sound.illegal
    | with_reducible apply State.Sound.fault
    | with_reducible apply State.Sound.tileBad
    | with_reducible apply State.Sound.park
    | with_reducible apply State.Sound.done
    | with_reducible apply State.Sound.sched
    | with_reducible apply State.Sound.accept
    | with_reducible refine State.Sound.foldl ?_ (fun _ _ _ => ?_)
    | with_reducible refine State.Sound.foldlFst ?_ (fun _ _ _ => ?_)
    | with_reducible refine State.Sound.ite (fun _ => ?_) (fun _ => ?_)
    | split)

theorem execTrig {s : State} (h : s.Sound) (sm : Bool) :
    ∀ nxt, Machine.execTrig sm s = .next nxt → nxt.Sound := by
  unfold Machine.execTrig
  refine State.Sound.onCur _ (fun t => ?_)
  try dsimp only
  repeat' (first
    | with_reducible assumption
    | with_reducible apply State.Sound.released
    | with_reducible apply State.Sound.done
    | with_reducible apply State.Sound.trigCheck
    | with_reducible apply State.Sound.setThread)

theorem execYield {s : State} (h : s.Sound) (sm : Bool) :
    ∀ nxt, Machine.execYield sm s = .next nxt → nxt.Sound := by
  unfold Machine.execYield
  refine State.Sound.onCur _ (fun t => ?_)
  try dsimp only
  repeat' (first
    | with_reducible assumption
    | with_reducible apply State.Sound.done)

theorem execExit {s : State} (h : s.Sound) (sm : Bool) :
    ∀ nxt, Machine.execExit sm s = .next nxt → nxt.Sound := by
  unfold Machine.execExit
  refine State.Sound.onCur _ (fun t => ?_)
  try dsimp only
  repeat' (first
    | with_reducible assumption
    | with_reducible apply State.Sound.released
    | with_reducible apply State.Sound.switchPoint)

theorem execRecvTake {s : State} (h : s.Sound) (t : ThreadRef) :
    ∀ nxt, Machine.execRecvTake t s = .next nxt → nxt.Sound := by
  unfold Machine.execRecvTake
  refine State.Sound.event ?_
  try dsimp only
  repeat' (first
    | with_reducible assumption
    | with_reducible apply State.Sound.recv
    | with_reducible refine State.Sound.foldl ?_ (fun _ _ _ => ?_)
    | with_reducible refine State.Sound.foldlFst ?_ (fun _ _ _ => ?_)
    | with_reducible refine State.Sound.ite (fun _ => ?_) (fun _ => ?_)
    | split)

theorem execBararr {s : State} (h : s.Sound) (sm : Bool) (sem : BitVec 3) (a : Operand) :
    ∀ nxt, Machine.execBararr sm sem a s = .next nxt → nxt.Sound := by
  unfold Machine.execBararr
  refine State.Sound.onCur _ (fun t => ?_)
  try dsimp only
  repeat' (first
    | with_reducible assumption
    | (show eventOp _ = true; rfl)
    | with_reducible apply State.Sound.fault
    | with_reducible apply State.Sound.released
    | with_reducible apply State.Sound.done
    | with_reducible apply State.Sound.sched
    | with_reducible refine State.Sound.foldl ?_ (fun _ _ _ => ?_)
    | with_reducible refine State.Sound.foldlFst ?_ (fun _ _ _ => ?_)
    | with_reducible refine State.Sound.ite (fun _ => ?_) (fun _ => ?_)
    | split)

theorem execSpawnLit {s : State} (h : s.Sound) (sm : Bool) (argc : BitVec 3) (prio : BitVec 3) (pexp : Bool) (tidreq : BitVec 8) (tiden : Bool) (pc : Word) (d : Operand) (b : Operand) :
    ∀ nxt, Machine.execSpawnLit sm argc prio pexp tidreq tiden pc d b s = .next nxt → nxt.Sound := by
  unfold Machine.execSpawnLit
  refine State.Sound.onCur _ (fun t => ?_)
  try dsimp only
  repeat' (first
    | with_reducible assumption
    | with_reducible apply State.Sound.spawn)

theorem execSpawn {s : State} (h : s.Sound) (sm : Bool) (argc : BitVec 3) (prio : BitVec 3) (pexp : Bool) (tidreq : BitVec 8) (tiden : Bool) (d : Operand) (a : Operand) (b : Operand) :
    ∀ nxt, Machine.execSpawn sm argc prio pexp tidreq tiden d a b s = .next nxt → nxt.Sound := by
  unfold Machine.execSpawn
  refine State.Sound.onCur _ (fun t => ?_)
  try dsimp only
  repeat' (first
    | with_reducible assumption
    | with_reducible apply State.Sound.spawn)

theorem execBarwait {s : State} (h : s.Sound) (sm : Bool) (sem : BitVec 3) (a : Operand) :
    ∀ nxt, Machine.execBarwait sm sem a s = .next nxt → nxt.Sound := by
  unfold Machine.execBarwait
  refine State.Sound.onCur _ (fun t => ?_)
  try dsimp only
  repeat' (first
    | with_reducible assumption
    | (show eventOp _ = true; rfl)
    | with_reducible exact True.intro
    | with_reducible apply State.Sound.fault
    | with_reducible apply State.Sound.released
    | with_reducible apply State.Sound.park
    | with_reducible apply State.Sound.fresh
    | with_reducible apply State.Sound.sched
    | with_reducible refine State.Sound.foldl ?_ (fun _ _ _ => ?_)
    | with_reducible refine State.Sound.foldlFst ?_ (fun _ _ _ => ?_)
    | with_reducible refine State.Sound.ite (fun _ => ?_) (fun _ => ?_)
    | split
    | fail_if_no_progress with_reducible apply State.Sound.upd
    | dsimp only)

theorem execSpawnrLit {s : State} (h : s.Sound) (sm : Bool) (argc : BitVec 3) (prio : BitVec 3) (dsem : BitVec 3) (pc : Word) (a : Operand) (b : Operand) :
    ∀ nxt, Machine.execSpawnrLit sm argc prio dsem pc a b s = .next nxt → nxt.Sound := by
  unfold Machine.execSpawnrLit
  refine State.Sound.onCur _ (fun t => ?_)
  try dsimp only
  repeat' (first
    | with_reducible assumption
    | with_reducible apply State.Sound.spawnr)

theorem execSpawnr {s : State} (h : s.Sound) (sm : Bool) (argc : BitVec 3) (prio : BitVec 3) (dsem : BitVec 3) (a : Operand) (b : Operand) (c : Operand) :
    ∀ nxt, Machine.execSpawnr sm argc prio dsem a b c s = .next nxt → nxt.Sound := by
  unfold Machine.execSpawnr
  refine State.Sound.onCur _ (fun t => ?_)
  try dsimp only
  repeat' (first
    | with_reducible assumption
    | with_reducible apply State.Sound.spawnr)

theorem execPortstat {s : State} (h : s.Sound) (sm : Bool) (w : Bool) (port : BitVec 6) (d : Operand) :
    ∀ nxt, Machine.execPortstat sm w port d s = .next nxt → nxt.Sound := by
  unfold Machine.execPortstat
  refine State.Sound.onCur _ (fun t => ?_)
  try dsimp only
  repeat' (first
    | with_reducible assumption
    | with_reducible apply State.Sound.longDone)

theorem execPost {s : State} (h : s.Sound) (sm : Bool) (dsem : BitVec 3) (cnt : BitVec 16) (a : Operand) :
    ∀ nxt, Machine.execPost sm dsem cnt a s = .next nxt → nxt.Sound := by
  unfold Machine.execPost
  refine State.Sound.onCur _ (fun t => ?_)
  try dsimp only
  repeat' (first
    | with_reducible assumption
    | with_reducible apply State.Sound.outOfRange
    | with_reducible apply State.Sound.released
    | with_reducible apply State.Sound.postLater
    | with_reducible apply State.Sound.done
    | with_reducible refine State.Sound.foldl ?_ (fun _ _ _ => ?_)
    | with_reducible refine State.Sound.foldlFst ?_ (fun _ _ _ => ?_)
    | with_reducible refine State.Sound.ite (fun _ => ?_) (fun _ => ?_)
    | split)

theorem execPortcfg {s : State} (h : s.Sound) (sm : Bool) (idx : BitVec 6) (a : Operand) (b : Operand) :
    ∀ nxt, Machine.execPortcfg sm idx a b s = .next nxt → nxt.Sound := by
  unfold Machine.execPortcfg
  refine State.Sound.onCur _ (fun t => ?_)
  try dsimp only
  repeat' (first
    | with_reducible assumption
    | with_reducible apply State.Sound.outOfRange
    | with_reducible apply State.Sound.done
    | with_reducible apply State.Sound.onCrew
    | with_reducible refine State.Sound.foldl ?_ (fun _ _ _ => ?_)
    | with_reducible refine State.Sound.foldlFst ?_ (fun _ _ _ => ?_)
    | with_reducible refine State.Sound.ite (fun _ => ?_) (fun _ => ?_))

theorem execPatclr {s : State} (h : s.Sound) (sm : Bool) (i : BitVec 8) (a : Operand) :
    ∀ nxt, Machine.execPatclr sm i a s = .next nxt → nxt.Sound := by
  unfold Machine.execPatclr
  refine State.Sound.onCur _ (fun t => ?_)
  try dsimp only
  repeat' (first
    | with_reducible assumption
    | with_reducible apply State.Sound.outOfRange
    | with_reducible apply State.Sound.done
    | with_reducible apply State.Sound.onCrew
    | with_reducible refine State.Sound.foldl ?_ (fun _ _ _ => ?_)
    | with_reducible refine State.Sound.foldlFst ?_ (fun _ _ _ => ?_)
    | with_reducible refine State.Sound.ite (fun _ => ?_) (fun _ => ?_))

theorem execBarinit {s : State} (h : s.Sound) (sm : Bool) (d : Operand) (a : Operand) (b : Operand) :
    ∀ nxt, Machine.execBarinit sm d a b s = .next nxt → nxt.Sound := by
  unfold Machine.execBarinit
  refine State.Sound.onCur _ (fun t => ?_)
  try dsimp only
  repeat' (first
    | with_reducible assumption
    | (show eventOp _ = true; rfl)
    | with_reducible apply State.Sound.fault
    | with_reducible apply State.Sound.outOfRange
    | with_reducible apply State.Sound.withEntry
    | with_reducible apply State.Sound.done
    | with_reducible apply State.Sound.sched
    | with_reducible refine State.Sound.foldl ?_ (fun _ _ _ => ?_)
    | with_reducible refine State.Sound.foldlFst ?_ (fun _ _ _ => ?_)
    | (intro y hy)
    | (intro y)
    | with_reducible refine State.Sound.ite (fun _ => ?_) (fun _ => ?_))

theorem execWait {s : State} (h : s.Sound) (sm : Bool) (sem : BitVec 3) (i : BitVec 8) (a : Operand) :
    ∀ nxt, Machine.execWait sm sem i a s = .next nxt → nxt.Sound := by
  unfold Machine.execWait
  refine State.Sound.onCur _ (fun t => ?_)
  try dsimp only
  repeat' (first
    | with_reducible assumption
    | with_reducible apply State.Sound.outOfRange
    | with_reducible apply State.Sound.takeSem
    | with_reducible apply State.Sound.park
    | with_reducible refine State.Sound.foldl ?_ (fun _ _ _ => ?_)
    | with_reducible refine State.Sound.foldlFst ?_ (fun _ _ _ => ?_)
    | with_reducible refine State.Sound.ite (fun _ => ?_) (fun _ => ?_))

theorem execPatsetLit {s : State} (h : s.Sound) (sm : Bool) (idx : BitVec 5) (hpc : Word) (a : Operand) (c : Operand) :
    ∀ nxt, Machine.execPatsetLit sm idx hpc a c s = .next nxt → nxt.Sound := by
  unfold Machine.execPatsetLit
  refine State.Sound.onCur _ (fun t => ?_)
  try dsimp only
  repeat' (first
    | with_reducible assumption
    | with_reducible apply State.Sound.patset)

theorem execSetpri {s : State} (h : s.Sound) (sm : Bool) (i : BitVec 8) (a : Operand) :
    ∀ nxt, Machine.execSetpri sm i a s = .next nxt → nxt.Sound := by
  unfold Machine.execSetpri
  refine State.Sound.onCur _ (fun t => ?_)
  try dsimp only
  repeat' (first
    | with_reducible assumption
    | with_reducible apply State.Sound.outOfRange
    | with_reducible apply State.Sound.done
    | with_reducible refine State.Sound.foldl ?_ (fun _ _ _ => ?_)
    | with_reducible refine State.Sound.foldlFst ?_ (fun _ _ _ => ?_)
    | with_reducible refine State.Sound.ite (fun _ => ?_) (fun _ => ?_))

theorem execSemset {s : State} (h : s.Sound) (sm : Bool) (sem : BitVec 3) (i : BitVec 8) (a : Operand) :
    ∀ nxt, Machine.execSemset sm sem i a s = .next nxt → nxt.Sound := by
  unfold Machine.execSemset
  refine State.Sound.onCur _ (fun t => ?_)
  try dsimp only
  repeat' (first
    | with_reducible assumption
    | (show eventOp _ = true; rfl)
    | with_reducible exact True.intro
    | with_reducible apply State.Sound.outOfRange
    | with_reducible apply State.Sound.addPosts
    | with_reducible refine State.Sound.addPosts_eq ?_ (by with_reducible assumption)
    | with_reducible apply State.Sound.done
    | with_reducible refine State.Sound.foldl ?_ (fun _ _ _ => ?_)
    | with_reducible refine State.Sound.foldlFst ?_ (fun _ _ _ => ?_)
    | with_reducible refine State.Sound.ite (fun _ => ?_) (fun _ => ?_)
    | split
    | fail_if_no_progress with_reducible apply State.Sound.upd
    | dsimp only)

theorem execRecv {s : State} (h : s.Sound) (sm : Bool) (cnt : BitVec 3) (port : BitVec 6) (hdr : Bool) (d : Operand) :
    ∀ nxt, Machine.execRecv sm cnt port hdr d s = .next nxt → nxt.Sound := by
  unfold Machine.execRecv
  refine State.Sound.onCur _ (fun t => ?_)
  try dsimp only
  repeat' (first
    | with_reducible assumption
    | (show eventOp _ = true; rfl)
    | with_reducible exact True.intro
    | with_reducible apply State.Sound.outOfRange
    | with_reducible apply State.Sound.switchPoint
    | with_reducible apply State.Sound.portData
    | with_reducible apply State.Sound.recv
    | with_reducible apply State.Sound.park
    | with_reducible refine State.Sound.foldl ?_ (fun _ _ _ => ?_)
    | with_reducible refine State.Sound.foldlFst ?_ (fun _ _ _ => ?_)
    | with_reducible refine State.Sound.ite (fun _ => ?_) (fun _ => ?_)
    | split
    | fail_if_no_progress with_reducible apply State.Sound.upd
    | dsimp only)

theorem execPatset {s : State} (h : s.Sound) (sm : Bool) (idx : BitVec 5) (a : Operand) (b : Operand) (c : Operand) :
    ∀ nxt, Machine.execPatset sm idx a b c s = .next nxt → nxt.Sound := by
  unfold Machine.execPatset
  refine State.Sound.onCur _ (fun t => ?_)
  try dsimp only
  repeat' (first
    | with_reducible assumption
    | with_reducible apply State.Sound.patset)

theorem execSyscAnswer {s : State} (h : s.Sound) (t : ThreadRef) (v : Word) :
    ∀ nxt, Machine.execSyscAnswer t v s = .next nxt → nxt.Sound := by
  unfold Machine.execSyscAnswer
  refine State.Sound.event ?_
  try dsimp only
  repeat' (first
    | with_reducible assumption
    | with_reducible apply State.Sound.giveResult
    | with_reducible refine State.Sound.foldl ?_ (fun _ _ _ => ?_)
    | with_reducible refine State.Sound.foldlFst ?_ (fun _ _ _ => ?_)
    | with_reducible refine State.Sound.ite (fun _ => ?_) (fun _ => ?_)
    | split)

theorem execPhysid {s : State} (h : s.Sound) (sm : Bool) (q : BitVec 2) :
    ∀ nxt, Machine.execPhysid sm q s = .next nxt → nxt.Sound := by
  unfold Machine.execPhysid
  refine State.Sound.onCur _ (fun t => ?_)
  try dsimp only
  repeat' (first
    | with_reducible assumption
    | with_reducible apply State.Sound.done)

theorem execMsync {s : State} (h : s.Sound) (sm : Bool) :
    ∀ nxt, Machine.execMsync sm s = .next nxt → nxt.Sound := by
  unfold Machine.execMsync
  refine State.Sound.onCur _ (fun t => ?_)
  try dsimp only
  repeat' (first
    | with_reducible assumption
    | (show eventOp _ = true; rfl)
    | with_reducible exact True.intro
    | with_reducible apply State.Sound.park
    | with_reducible apply State.Sound.flushEach
    | with_reducible refine State.Sound.flushEach_eq ?_ (by with_reducible assumption)
    | with_reducible apply State.Sound.done
    | with_reducible refine State.Sound.foldl ?_ (fun _ _ _ => ?_)
    | with_reducible refine State.Sound.foldlFst ?_ (fun _ _ _ => ?_)
    | with_reducible refine State.Sound.ite (fun _ => ?_) (fun _ => ?_)
    | split
    | fail_if_no_progress with_reducible apply State.Sound.upd
    | dsimp only)

theorem execHalt {s : State} (h : s.Sound) (sm : Bool) :
    ∀ nxt, Machine.execHalt sm s = .next nxt → nxt.Sound := by
  unfold Machine.execHalt
  refine State.Sound.onCur _ (fun t => ?_)
  try dsimp only
  repeat' (first
    | with_reducible assumption
    | with_reducible apply State.Sound.switchPoint
    | with_reducible refine State.Sound.foldl ?_ (fun _ _ _ => ?_)
    | with_reducible refine State.Sound.foldlFst ?_ (fun _ _ _ => ?_)
    | with_reducible refine State.Sound.ite (fun _ => ?_) (fun _ => ?_)
    | split
    | fail_if_no_progress with_reducible apply State.Sound.upd)

theorem execSysc {s : State} (h : s.Sound) (sm : Bool) (code : BitVec 8) :
    ∀ nxt, Machine.execSysc sm code s = .next nxt → nxt.Sound := by
  unfold Machine.execSysc
  refine State.Sound.onCur _ (fun t => ?_)
  try dsimp only
  repeat' (first
    | with_reducible assumption
    | with_reducible apply State.Sound.endLaunch
    | with_reducible apply State.Sound.done
    | with_reducible apply State.Sound.serve
    | with_reducible refine State.Sound.foldl ?_ (fun _ _ _ => ?_)
    | with_reducible refine State.Sound.foldlFst ?_ (fun _ _ _ => ?_)
    | with_reducible refine State.Sound.ite (fun _ => ?_) (fun _ => ?_))

theorem execPair {s : State} (h : s.Sound) (sm : Bool) :
    ∀ nxt, Machine.execPair sm s = .next nxt → nxt.Sound := by
  unfold Machine.execPair
  refine State.Sound.onCur _ (fun t => ?_)
  try dsimp only
  repeat' (first
    | with_reducible assumption
    | with_reducible apply State.Sound.switchPoint
    | with_reducible apply State.Sound.done
    | with_reducible apply State.Sound.park
    | with_reducible refine State.Sound.foldl ?_ (fun _ _ _ => ?_)
    | with_reducible refine State.Sound.foldlFst ?_ (fun _ _ _ => ?_)
    | with_reducible refine State.Sound.ite (fun _ => ?_) (fun _ => ?_)
    | split)

theorem execClk {s : State} (h : s.Sound) (sm : Bool) (q : BitVec 2) :
    ∀ nxt, Machine.execClk sm q s = .next nxt → nxt.Sound := by
  unfold Machine.execClk
  refine State.Sound.onCur _ (fun t => ?_)
  try dsimp only
  repeat' (first
    | with_reducible assumption
    | with_reducible apply State.Sound.done)

theorem execRgn {s : State} (h : s.Sound) (sm : Bool) :
    ∀ nxt, Machine.execRgn sm s = .next nxt → nxt.Sound := by
  unfold Machine.execRgn
  refine State.Sound.onCur _ (fun t => ?_)
  try dsimp only
  repeat' (first
    | with_reducible assumption
    | with_reducible apply State.Sound.switchPoint
    | with_reducible apply State.Sound.done
    | with_reducible apply State.Sound.closeRegion
    | with_reducible refine State.Sound.foldl ?_ (fun _ _ _ => ?_)
    | with_reducible refine State.Sound.foldlFst ?_ (fun _ _ _ => ?_)
    | with_reducible refine State.Sound.ite (fun _ => ?_) (fun _ => ?_))

theorem execUnpair {s : State} (h : s.Sound) (sm : Bool) :
    ∀ nxt, Machine.execUnpair sm s = .next nxt → nxt.Sound := by
  unfold Machine.execUnpair
  refine State.Sound.onCur _ (fun t => ?_)
  try dsimp only
  repeat' (first
    | with_reducible assumption
    | (show eventOp _ = true; rfl)
    | with_reducible exact True.intro
    | with_reducible apply State.Sound.done
    | with_reducible apply State.Sound.freeTwin
    | with_reducible refine State.Sound.foldl ?_ (fun _ _ _ => ?_)
    | with_reducible refine State.Sound.foldlFst ?_ (fun _ _ _ => ?_)
    | with_reducible refine State.Sound.ite (fun _ => ?_) (fun _ => ?_)
    | split
    | fail_if_no_progress with_reducible apply State.Sound.upd
    | dsimp only)

theorem execEret {s : State} (h : s.Sound) (sm : Bool) :
    ∀ nxt, Machine.execEret sm s = .next nxt → nxt.Sound := by
  unfold Machine.execEret
  refine State.Sound.onCur _ (fun t => ?_)
  try dsimp only
  repeat' (first
    | with_reducible assumption
    | with_reducible apply State.Sound.switchPoint
    | with_reducible apply State.Sound.park
    | with_reducible apply State.Sound.trapReturn
    | with_reducible refine State.Sound.foldl ?_ (fun _ _ _ => ?_)
    | with_reducible refine State.Sound.foldlFst ?_ (fun _ _ _ => ?_)
    | with_reducible refine State.Sound.ite (fun _ => ?_) (fun _ => ?_)
    | split)

theorem execCapxComplete {s : State} (h : s.Sound) (t : ThreadRef) :
    ∀ nxt, Machine.execCapxComplete t s = .next nxt → nxt.Sound := by
  unfold Machine.execCapxComplete
  refine State.Sound.event ?_
  try dsimp only
  repeat' (first
    | with_reducible assumption
    | with_reducible apply State.Sound.wakeEvent
    | with_reducible refine State.Sound.foldl ?_ (fun _ _ _ => ?_)
    | with_reducible refine State.Sound.foldlFst ?_ (fun _ _ _ => ?_)
    | with_reducible refine State.Sound.ite (fun _ => ?_) (fun _ => ?_)
    | split)

theorem execTrap {s : State} (h : s.Sound) (sm : Bool) (code : BitVec 8) :
    ∀ nxt, Machine.execTrap sm code s = .next nxt → nxt.Sound := by
  unfold Machine.execTrap
  refine State.Sound.onCur _ (fun t => ?_)
  try dsimp only
  repeat' (first
    | with_reducible assumption
    | with_reducible apply State.Sound.raise)

theorem execCapx {s : State} (h : s.Sound) (sm : Bool) (a : Operand) (b : Operand) :
    ∀ nxt, Machine.execCapx sm a b s = .next nxt → nxt.Sound := by
  unfold Machine.execCapx
  refine State.Sound.onCur _ (fun t => ?_)
  try dsimp only
  repeat' (first
    | with_reducible assumption
    | (show eventOp _ = true; rfl)
    | with_reducible apply State.Sound.fault
    | with_reducible apply State.Sound.released
    | with_reducible apply State.Sound.done
    | with_reducible apply State.Sound.sched
    | with_reducible apply State.Sound.park
    | with_reducible apply State.Sound.onLaunch
    | with_reducible refine State.Sound.foldl ?_ (fun _ _ _ => ?_)
    | with_reducible refine State.Sound.foldlFst ?_ (fun _ _ _ => ?_)
    | with_reducible refine State.Sound.ite (fun _ => ?_) (fun _ => ?_)
    | split)

theorem execMts {s : State} (h : s.Sound) (sm : Bool) (n : BitVec 7) (a : Operand) :
    ∀ nxt, Machine.execMts sm n a s = .next nxt → nxt.Sound := by
  unfold Machine.execMts
  refine State.Sound.onCur _ (fun t => ?_)
  try dsimp only
  repeat' (first
    | with_reducible assumption
    | with_reducible apply State.Sound.illegal
    | with_reducible apply State.Sound.fault
    | with_reducible apply State.Sound.done
    | with_reducible apply State.Sound.onUnit
    | with_reducible refine State.Sound.foldl ?_ (fun _ _ _ => ?_)
    | with_reducible refine State.Sound.foldlFst ?_ (fun _ _ _ => ?_)
    | with_reducible refine State.Sound.ite (fun _ => ?_) (fun _ => ?_)
    | split)

theorem execMfs {s : State} (h : s.Sound) (sm : Bool) (n : BitVec 7) (d : Operand) :
    ∀ nxt, Machine.execMfs sm n d s = .next nxt → nxt.Sound := by
  unfold Machine.execMfs
  refine State.Sound.onCur _ (fun t => ?_)
  try dsimp only
  repeat' (first
    | with_reducible assumption
    | (show eventOp _ = true; rfl)
    | with_reducible exact True.intro
    | with_reducible apply State.Sound.illegal
    | with_reducible apply State.Sound.fault
    | with_reducible apply State.Sound.consume
    | with_reducible apply State.Sound.aluDone
    | with_reducible refine State.Sound.foldl ?_ (fun _ _ _ => ?_)
    | with_reducible refine State.Sound.foldlFst ?_ (fun _ _ _ => ?_)
    | with_reducible refine State.Sound.ite (fun _ => ?_) (fun _ => ?_)
    | split
    | fail_if_no_progress with_reducible apply State.Sound.upd
    | dsimp only)

theorem execHandlerCreate {s : State} (h : s.Sound) (ltag : Nat) (unit : Nat) (pat : Nat) (frame : Nat) (pc : Word) (pri : BitVec 3) :
    ∀ nxt, Machine.execHandlerCreate ltag unit pat frame pc pri s = .next nxt → nxt.Sound := by
  unfold Machine.execHandlerCreate
  refine State.Sound.event ?_
  try dsimp only
  repeat' (first
    | with_reducible assumption
    | with_reducible apply State.Sound.create
    | with_reducible refine State.Sound.foldl ?_ (fun _ _ _ => ?_)
    | with_reducible refine State.Sound.foldlFst ?_ (fun _ _ _ => ?_)
    | with_reducible refine State.Sound.ite (fun _ => ?_) (fun _ => ?_)
    | split)

theorem execWakePost {s : State} (h : s.Sound) (ltag : Nat) (unit : Nat) (pat : Nat) (epoch : Nat) (tid : Nat) (sem : BitVec 3) :
    ∀ nxt, Machine.execWakePost ltag unit pat epoch tid sem s = .next nxt → nxt.Sound := by
  unfold Machine.execWakePost
  refine State.Sound.event ?_
  try dsimp only
  repeat' (first
    | with_reducible assumption
    | with_reducible apply State.Sound.onCrew
    | with_reducible apply State.Sound.post
    | with_reducible refine State.Sound.foldl ?_ (fun _ _ _ => ?_)
    | with_reducible refine State.Sound.foldlFst ?_ (fun _ _ _ => ?_)
    | with_reducible refine State.Sound.ite (fun _ => ?_) (fun _ => ?_)
    | split)

theorem execPatternEvaluation {s : State} (h : s.Sound)  :
    ∀ nxt, Machine.execPatternEvaluation s = .next nxt → nxt.Sound := by
  unfold Machine.execPatternEvaluation
  refine State.Sound.event ?_
  try dsimp only
  repeat' (first
    | with_reducible assumption
    | with_reducible apply State.Sound.evalCrew
    | with_reducible refine State.Sound.foldl ?_ (fun _ _ _ => ?_))

theorem execBarrierArrival {s : State} (h : s.Sound) (t : ThreadRef) (sem : BitVec 3) (va : Word) (pa : Nat) (bwait : Option Nat) :
    ∀ nxt, Machine.execBarrierArrival t sem va pa bwait s = .next nxt → nxt.Sound := by
  unfold Machine.execBarrierArrival
  refine State.Sound.event ?_
  try dsimp only
  repeat' (first
    | with_reducible assumption
    | (show eventOp _ = true; rfl)
    | with_reducible exact True.intro
    | with_reducible apply State.Sound.postLater
    | with_reducible apply State.Sound.barrierStore
    | with_reducible apply State.Sound.barrierPosts
    | with_reducible refine State.Sound.foldl ?_ (fun _ _ _ => ?_)
    | with_reducible refine State.Sound.foldlFst ?_ (fun _ _ _ => ?_)
    | with_reducible refine State.Sound.ite (fun _ => ?_) (fun _ => ?_)
    | split
    | fail_if_no_progress with_reducible apply State.Sound.upd
    | dsimp only)

theorem execSpawnrAccept {s : State} (h : s.Sound) (r : SpawnReq) :
    ∀ nxt, Machine.execSpawnrAccept r s = .next nxt → nxt.Sound := by
  unfold Machine.execSpawnrAccept
  refine State.Sound.event ?_
  try dsimp only
  repeat' (first
    | with_reducible assumption
    | (show eventOp _ = true; rfl)
    | with_reducible apply State.Sound.sched
    | with_reducible apply State.Sound.spawnDecide
    | with_reducible refine State.Sound.foldl ?_ (fun _ _ _ => ?_)
    | with_reducible refine State.Sound.foldlFst ?_ (fun _ _ _ => ?_)
    | with_reducible refine State.Sound.ite (fun _ => ?_) (fun _ => ?_)
    | split
    | fail_if_no_progress with_reducible apply State.Sound.upd)

theorem execBarrierBroken {s : State} (h : s.Sound) (pa : Nat) (reinit : Bool) (writer : Option ThreadRef) :
    ∀ nxt, Machine.execBarrierBroken pa reinit writer s = .next nxt → nxt.Sound := by
  unfold Machine.execBarrierBroken
  refine State.Sound.event ?_
  try dsimp only
  repeat' (first
    | with_reducible assumption
    | with_reducible apply State.Sound.store
    | with_reducible apply State.Sound.dropBarrier
    | with_reducible apply State.Sound.breakBarrier
    | with_reducible refine State.Sound.foldl ?_ (fun _ _ _ => ?_)
    | with_reducible refine State.Sound.foldlFst ?_ (fun _ _ _ => ?_)
    | with_reducible refine State.Sound.ite (fun _ => ?_) (fun _ => ?_)
    | split)

theorem execAppendAccept {s : State} (h : s.Sound) (r : AppendReq) :
    ∀ nxt, Machine.execAppendAccept r s = .next nxt → nxt.Sound := by
  unfold Machine.execAppendAccept
  refine State.Sound.event ?_
  try dsimp only
  repeat' (first
    | with_reducible assumption
    | (show eventOp _ = true; rfl)
    | with_reducible exact True.intro
    | with_reducible apply State.Sound.sched
    | with_reducible apply State.Sound.appendDecide
    | with_reducible apply State.Sound.takeBank
    | with_reducible refine State.Sound.foldl ?_ (fun _ _ _ => ?_)
    | with_reducible refine State.Sound.foldlFst ?_ (fun _ _ _ => ?_)
    | with_reducible refine State.Sound.ite (fun _ => ?_) (fun _ => ?_)
    | split
    | fail_if_no_progress with_reducible apply State.Sound.upd
    | dsimp only)

theorem execBarrierRegister {s : State} (h : s.Sound) (t : ThreadRef) (rb : Nat) (va : Word) (need : Nat) :
    ∀ nxt, Machine.execBarrierRegister t rb va need s = .next nxt → nxt.Sound := by
  unfold Machine.execBarrierRegister
  refine State.Sound.event ?_
  try dsimp only
  repeat' (first
    | with_reducible assumption
    | (show eventOp _ = true; rfl)
    | with_reducible apply State.Sound.register
    | with_reducible refine State.Sound.register_eq ?_ (by with_reducible assumption)
    | with_reducible apply State.Sound.sched
    | with_reducible refine State.Sound.foldl ?_ (fun _ _ _ => ?_)
    | with_reducible refine State.Sound.foldlFst ?_ (fun _ _ _ => ?_)
    | with_reducible refine State.Sound.ite (fun _ => ?_) (fun _ => ?_)
    | split)

theorem execDebugWrite {s : State} (h : s.Sound) (t : ThreadRef) (r : DebugReg) (v : Word) :
    ∀ nxt, Machine.execDebugWrite t r v s = .next nxt → nxt.Sound := by
  unfold Machine.execDebugWrite
  refine State.Sound.event ?_
  try dsimp only
  repeat' (first
    | with_reducible assumption
    | with_reducible apply State.Sound.setThread
    | with_reducible apply State.Sound.onUnit
    | with_reducible refine State.Sound.foldl ?_ (fun _ _ _ => ?_)
    | with_reducible refine State.Sound.foldlFst ?_ (fun _ _ _ => ?_)
    | with_reducible refine State.Sound.ite (fun _ => ?_) (fun _ => ?_)
    | split)

theorem execDebugEnd {s : State} (h : s.Sound) (t : ThreadRef) :
    ∀ nxt, Machine.execDebugEnd t s = .next nxt → nxt.Sound := by
  unfold Machine.execDebugEnd
  refine State.Sound.event ?_
  try dsimp only
  repeat' (first
    | with_reducible assumption
    | with_reducible apply State.Sound.endThread
    | with_reducible refine State.Sound.foldl ?_ (fun _ _ _ => ?_)
    | with_reducible refine State.Sound.foldlFst ?_ (fun _ _ _ => ?_)
    | with_reducible refine State.Sound.ite (fun _ => ?_) (fun _ => ?_)
    | split)

theorem execDebugResume {s : State} (h : s.Sound) (t : ThreadRef) :
    ∀ nxt, Machine.execDebugResume t s = .next nxt → nxt.Sound := by
  unfold Machine.execDebugResume
  refine State.Sound.event ?_
  try dsimp only
  repeat' (first
    | with_reducible assumption
    | with_reducible apply State.Sound.settle
    | with_reducible apply State.Sound.setThread
    | with_reducible refine State.Sound.foldl ?_ (fun _ _ _ => ?_)
    | with_reducible refine State.Sound.foldlFst ?_ (fun _ _ _ => ?_)
    | with_reducible refine State.Sound.ite (fun _ => ?_) (fun _ => ?_)
    | split)

theorem execDebugHalt {s : State} (h : s.Sound) (t : ThreadRef) :
    ∀ nxt, Machine.execDebugHalt t s = .next nxt → nxt.Sound := by
  unfold Machine.execDebugHalt
  refine State.Sound.event ?_
  try dsimp only
  repeat' (first
    | with_reducible assumption
    | with_reducible apply State.Sound.tryHalt
    | with_reducible apply State.Sound.setThread
    | with_reducible refine State.Sound.foldl ?_ (fun _ _ _ => ?_)
    | with_reducible refine State.Sound.foldlFst ?_ (fun _ _ _ => ?_)
    | with_reducible refine State.Sound.ite (fun _ => ?_) (fun _ => ?_)
    | split)

theorem execFingerprintExchange {s : State} (h : s.Sound) (r : ThreadRef) :
    ∀ nxt, Machine.execFingerprintExchange r s = .next nxt → nxt.Sound := by
  unfold Machine.execFingerprintExchange
  refine State.Sound.event ?_
  try dsimp only
  repeat' (first
    | with_reducible assumption
    | (show eventOp _ = true; rfl)
    | with_reducible exact True.intro
    | with_reducible apply State.Sound.wakeEvent
    | with_reducible apply State.Sound.freeTwin
    | with_reducible apply State.Sound.record
    | with_reducible apply State.Sound.endContained
    | with_reducible apply State.Sound.consume
    | with_reducible apply State.Sound.onRef
    | with_reducible refine State.Sound.foldl ?_ (fun _ _ _ => ?_)
    | with_reducible refine State.Sound.foldlFst ?_ (fun _ _ _ => ?_)
    | with_reducible refine State.Sound.ite (fun _ => ?_) (fun _ => ?_)
    | split
    | fail_if_no_progress with_reducible apply State.Sound.upd
    | dsimp only)

theorem execSemPost {s : State} (h : s.Sound) (p : PostTo) (count : Nat) (status : Status) :
    ∀ nxt, Machine.execSemPost p count status s = .next nxt → nxt.Sound := by
  unfold Machine.execSemPost
  refine State.Sound.event ?_
  try dsimp only
  repeat' (first
    | with_reducible assumption
    | with_reducible apply State.Sound.arrive)

theorem execVxStart {s : State} (h : s.Sound) (unit : Nat) :
    ∀ nxt, Machine.execVxStart unit s = .next nxt → nxt.Sound := by
  unfold Machine.execVxStart
  refine State.Sound.event ?_
  try dsimp only
  repeat' (first
    | with_reducible assumption
    | with_reducible apply State.Sound.vxBegin)

theorem execVgath {s : State} (h : s.Sound) (e : Ext) :
    ∀ nxt, Machine.execVgath e s = .next nxt → nxt.Sound := by
  unfold Machine.execVgath
  refine State.Sound.onCur _ (fun t => ?_)
  try dsimp only
  repeat' (first
    | with_reducible assumption
    | with_reducible apply State.Sound.vxIssue)

theorem execVsub {s : State} (h : s.Sound) (e : Ext) :
    ∀ nxt, Machine.execVsub e s = .next nxt → nxt.Sound := by
  unfold Machine.execVsub
  refine State.Sound.onCur _ (fun t => ?_)
  try dsimp only
  repeat' (first
    | with_reducible assumption
    | with_reducible apply State.Sound.vxIssue)

theorem execVtopk {s : State} (h : s.Sound) (e : Ext) :
    ∀ nxt, Machine.execVtopk e s = .next nxt → nxt.Sound := by
  unfold Machine.execVtopk
  refine State.Sound.onCur _ (fun t => ?_)
  try dsimp only
  repeat' (first
    | with_reducible assumption
    | with_reducible apply State.Sound.vxIssue)

theorem execVfma {s : State} (h : s.Sound) (e : Ext) :
    ∀ nxt, Machine.execVfma e s = .next nxt → nxt.Sound := by
  unfold Machine.execVfma
  refine State.Sound.onCur _ (fun t => ?_)
  try dsimp only
  repeat' (first
    | with_reducible assumption
    | with_reducible apply State.Sound.vxIssue)

theorem execVadd {s : State} (h : s.Sound) (e : Ext) :
    ∀ nxt, Machine.execVadd e s = .next nxt → nxt.Sound := by
  unfold Machine.execVadd
  refine State.Sound.onCur _ (fun t => ?_)
  try dsimp only
  repeat' (first
    | with_reducible assumption
    | with_reducible apply State.Sound.vxIssue)

theorem execVunpk {s : State} (h : s.Sound) (e : Ext) :
    ∀ nxt, Machine.execVunpk e s = .next nxt → nxt.Sound := by
  unfold Machine.execVunpk
  refine State.Sound.onCur _ (fun t => ?_)
  try dsimp only
  repeat' (first
    | with_reducible assumption
    | with_reducible apply State.Sound.vxIssue)

theorem execVabs {s : State} (h : s.Sound) (e : Ext) :
    ∀ nxt, Machine.execVabs e s = .next nxt → nxt.Sound := by
  unfold Machine.execVabs
  refine State.Sound.onCur _ (fun t => ?_)
  try dsimp only
  repeat' (first
    | with_reducible assumption
    | with_reducible apply State.Sound.vxIssue)

theorem execVpack {s : State} (h : s.Sound) (e : Ext) :
    ∀ nxt, Machine.execVpack e s = .next nxt → nxt.Sound := by
  unfold Machine.execVpack
  refine State.Sound.onCur _ (fun t => ?_)
  try dsimp only
  repeat' (first
    | with_reducible assumption
    | with_reducible apply State.Sound.vxIssue)

theorem execVmin {s : State} (h : s.Sound) (e : Ext) :
    ∀ nxt, Machine.execVmin e s = .next nxt → nxt.Sound := by
  unfold Machine.execVmin
  refine State.Sound.onCur _ (fun t => ?_)
  try dsimp only
  repeat' (first
    | with_reducible assumption
    | with_reducible apply State.Sound.vxIssue)

theorem execViota {s : State} (h : s.Sound) (e : Ext) :
    ∀ nxt, Machine.execViota e s = .next nxt → nxt.Sound := by
  unfold Machine.execViota
  refine State.Sound.onCur _ (fun t => ?_)
  try dsimp only
  repeat' (first
    | with_reducible assumption
    | with_reducible apply State.Sound.vxIssue)

theorem execVneg {s : State} (h : s.Sound) (e : Ext) :
    ∀ nxt, Machine.execVneg e s = .next nxt → nxt.Sound := by
  unfold Machine.execVneg
  refine State.Sound.onCur _ (fun t => ?_)
  try dsimp only
  repeat' (first
    | with_reducible assumption
    | with_reducible apply State.Sound.vxIssue)

theorem execVfill {s : State} (h : s.Sound) (e : Ext) :
    ∀ nxt, Machine.execVfill e s = .next nxt → nxt.Sound := by
  unfold Machine.execVfill
  refine State.Sound.onCur _ (fun t => ?_)
  try dsimp only
  repeat' (first
    | with_reducible assumption
    | with_reducible apply State.Sound.vxIssue)

theorem execVmax {s : State} (h : s.Sound) (e : Ext) :
    ∀ nxt, Machine.execVmax e s = .next nxt → nxt.Sound := by
  unfold Machine.execVmax
  refine State.Sound.onCur _ (fun t => ?_)
  try dsimp only
  repeat' (first
    | with_reducible assumption
    | with_reducible apply State.Sound.vxIssue)

theorem execVlog2 {s : State} (h : s.Sound) (e : Ext) :
    ∀ nxt, Machine.execVlog2 e s = .next nxt → nxt.Sound := by
  unfold Machine.execVlog2
  refine State.Sound.onCur _ (fun t => ?_)
  try dsimp only
  repeat' (first
    | with_reducible assumption
    | with_reducible apply State.Sound.vxIssue)

theorem execVcvt {s : State} (h : s.Sound) (e : Ext) :
    ∀ nxt, Machine.execVcvt e s = .next nxt → nxt.Sound := by
  unfold Machine.execVcvt
  refine State.Sound.onCur _ (fun t => ?_)
  try dsimp only
  repeat' (first
    | with_reducible assumption
    | with_reducible apply State.Sound.vxIssue)

theorem execVscale {s : State} (h : s.Sound) (e : Ext) :
    ∀ nxt, Machine.execVscale e s = .next nxt → nxt.Sound := by
  unfold Machine.execVscale
  refine State.Sound.onCur _ (fun t => ?_)
  try dsimp only
  repeat' (first
    | with_reducible assumption
    | with_reducible apply State.Sound.vxIssue)

theorem execVrsq {s : State} (h : s.Sound) (e : Ext) :
    ∀ nxt, Machine.execVrsq e s = .next nxt → nxt.Sound := by
  unfold Machine.execVrsq
  refine State.Sound.onCur _ (fun t => ?_)
  try dsimp only
  repeat' (first
    | with_reducible assumption
    | with_reducible apply State.Sound.vxIssue)

theorem execVred {s : State} (h : s.Sound) (e : Ext) :
    ∀ nxt, Machine.execVred e s = .next nxt → nxt.Sound := by
  unfold Machine.execVred
  refine State.Sound.onCur _ (fun t => ?_)
  try dsimp only
  repeat' (first
    | with_reducible assumption
    | with_reducible apply State.Sound.vxIssue)

theorem execVrcp {s : State} (h : s.Sound) (e : Ext) :
    ∀ nxt, Machine.execVrcp e s = .next nxt → nxt.Sound := by
  unfold Machine.execVrcp
  refine State.Sound.onCur _ (fun t => ?_)
  try dsimp only
  repeat' (first
    | with_reducible assumption
    | with_reducible apply State.Sound.vxIssue)

theorem execVscat {s : State} (h : s.Sound) (e : Ext) :
    ∀ nxt, Machine.execVscat e s = .next nxt → nxt.Sound := by
  unfold Machine.execVscat
  refine State.Sound.onCur _ (fun t => ?_)
  try dsimp only
  repeat' (first
    | with_reducible assumption
    | with_reducible apply State.Sound.vxIssue)

theorem execVsel {s : State} (h : s.Sound) (e : Ext) :
    ∀ nxt, Machine.execVsel e s = .next nxt → nxt.Sound := by
  unfold Machine.execVsel
  refine State.Sound.onCur _ (fun t => ?_)
  try dsimp only
  repeat' (first
    | with_reducible assumption
    | with_reducible apply State.Sound.vxIssue)

theorem execVexp2 {s : State} (h : s.Sound) (e : Ext) :
    ∀ nxt, Machine.execVexp2 e s = .next nxt → nxt.Sound := by
  unfold Machine.execVexp2
  refine State.Sound.onCur _ (fun t => ?_)
  try dsimp only
  repeat' (first
    | with_reducible assumption
    | with_reducible apply State.Sound.vxIssue)

theorem execVlut {s : State} (h : s.Sound) (e : Ext) :
    ∀ nxt, Machine.execVlut e s = .next nxt → nxt.Sound := by
  unfold Machine.execVlut
  refine State.Sound.onCur _ (fun t => ?_)
  try dsimp only
  repeat' (first
    | with_reducible assumption
    | with_reducible apply State.Sound.vxIssue)

theorem execVscan {s : State} (h : s.Sound) (e : Ext) :
    ∀ nxt, Machine.execVscan e s = .next nxt → nxt.Sound := by
  unfold Machine.execVscan
  refine State.Sound.onCur _ (fun t => ?_)
  try dsimp only
  repeat' (first
    | with_reducible assumption
    | with_reducible apply State.Sound.vxIssue)

theorem execVmul {s : State} (h : s.Sound) (e : Ext) :
    ∀ nxt, Machine.execVmul e s = .next nxt → nxt.Sound := by
  unfold Machine.execVmul
  refine State.Sound.onCur _ (fun t => ?_)
  try dsimp only
  repeat' (first
    | with_reducible assumption
    | with_reducible apply State.Sound.vxIssue)

theorem execVcmp {s : State} (h : s.Sound) (e : Ext) :
    ∀ nxt, Machine.execVcmp e s = .next nxt → nxt.Sound := by
  unfold Machine.execVcmp
  refine State.Sound.onCur _ (fun t => ?_)
  try dsimp only
  repeat' (first
    | with_reducible assumption
    | with_reducible apply State.Sound.vxIssue)

theorem execRingTimeout {s : State} (h : s.Sound) (unit : Nat) (id : Nat) :
    ∀ nxt, Machine.execRingTimeout unit id s = .next nxt → nxt.Sound := by
  unfold Machine.execRingTimeout
  refine State.Sound.event ?_
  try dsimp only
  repeat' (first
    | with_reducible assumption
    | (show eventOp _ = true; rfl)
    | with_reducible apply State.Sound.sched
    | with_reducible apply State.Sound.onCmd
    | with_reducible refine State.Sound.foldl ?_ (fun _ _ _ => ?_)
    | with_reducible refine State.Sound.foldlFst ?_ (fun _ _ _ => ?_)
    | with_reducible refine State.Sound.ite (fun _ => ?_) (fun _ => ?_)
    | split)

theorem execRingBArrive {s : State} (h : s.Sound) (unit : Nat) (img : RingImage) :
    ∀ nxt, Machine.execRingBArrive unit img s = .next nxt → nxt.Sound := by
  unfold Machine.execRingBArrive
  refine State.Sound.event ?_
  try dsimp only
  repeat' (first
    | with_reducible assumption
    | with_reducible apply State.Sound.nudgeMx
    | with_reducible apply State.Sound.setSlot
    | with_reducible refine State.Sound.foldl ?_ (fun _ _ _ => ?_)
    | with_reducible refine State.Sound.foldlFst ?_ (fun _ _ _ => ?_)
    | with_reducible refine State.Sound.ite (fun _ => ?_) (fun _ => ?_))

theorem execMxStart {s : State} (h : s.Sound) (unit : Nat) :
    ∀ nxt, Machine.execMxStart unit s = .next nxt → nxt.Sound := by
  unfold Machine.execMxStart
  refine State.Sound.event ?_
  try dsimp only
  repeat' (first
    | with_reducible assumption
    | with_reducible apply State.Sound.mxBegin)

theorem execMring {s : State} (h : s.Sound) (e : Ext) :
    ∀ nxt, Machine.execMring e s = .next nxt → nxt.Sound := by
  unfold Machine.execMring
  refine State.Sound.onCur _ (fun t => ?_)
  try dsimp only
  repeat' (first
    | with_reducible assumption
    | (show eventOp _ = true; rfl)
    | with_reducible exact True.intro
    | with_reducible apply State.Sound.park
    | with_reducible apply State.Sound.done
    | with_reducible apply State.Sound.sched
    | with_reducible apply State.Sound.onUnit
    | with_reducible apply State.Sound.fresh
    | with_reducible refine State.Sound.foldl ?_ (fun _ _ _ => ?_)
    | with_reducible refine State.Sound.foldlFst ?_ (fun _ _ _ => ?_)
    | with_reducible refine State.Sound.ite (fun _ => ?_) (fun _ => ?_)
    | split
    | fail_if_no_progress with_reducible apply State.Sound.upd
    | dsimp only)

theorem execMstat {s : State} (h : s.Sound) (e : Ext) :
    ∀ nxt, Machine.execMstat e s = .next nxt → nxt.Sound := by
  unfold Machine.execMstat
  refine State.Sound.onCur _ (fun t => ?_)
  try dsimp only
  repeat' (first
    | with_reducible assumption
    | (show eventOp _ = true; rfl)
    | with_reducible exact True.intro
    | with_reducible apply State.Sound.illegal
    | with_reducible apply State.Sound.park
    | with_reducible apply State.Sound.withEntry
    | with_reducible apply State.Sound.done
    | with_reducible apply State.Sound.sched
    | with_reducible apply State.Sound.onUnit
    | with_reducible refine State.Sound.foldl ?_ (fun _ _ _ => ?_)
    | with_reducible refine State.Sound.foldlFst ?_ (fun _ _ _ => ?_)
    | (intro y hy)
    | (intro y)
    | with_reducible refine State.Sound.ite (fun _ => ?_) (fun _ => ?_)
    | split
    | fail_if_no_progress with_reducible apply State.Sound.upd
    | dsimp only)

theorem execMmas {s : State} (h : s.Sound) (e : Ext) :
    ∀ nxt, Machine.execMmas e s = .next nxt → nxt.Sound := by
  unfold Machine.execMmas
  refine State.Sound.onCur _ (fun t => ?_)
  try dsimp only
  repeat' (first
    | with_reducible assumption
    | with_reducible apply State.Sound.mxIssue)

theorem execMma {s : State} (h : s.Sound) (e : Ext) :
    ∀ nxt, Machine.execMma e s = .next nxt → nxt.Sound := by
  unfold Machine.execMma
  refine State.Sound.onCur _ (fun t => ?_)
  try dsimp only
  repeat' (first
    | with_reducible assumption
    | with_reducible apply State.Sound.mxIssue)

theorem execMast {s : State} (h : s.Sound) (e : Ext) :
    ∀ nxt, Machine.execMast e s = .next nxt → nxt.Sound := by
  unfold Machine.execMast
  refine State.Sound.onCur _ (fun t => ?_)
  try dsimp only
  repeat' (first
    | with_reducible assumption
    | with_reducible apply State.Sound.mxIssue)

theorem execMald {s : State} (h : s.Sound) (e : Ext) :
    ∀ nxt, Machine.execMald e s = .next nxt → nxt.Sound := by
  unfold Machine.execMald
  refine State.Sound.onCur _ (fun t => ?_)
  try dsimp only
  repeat' (first
    | with_reducible assumption
    | with_reducible apply State.Sound.mxIssue)

theorem execMaz {s : State} (h : s.Sound) (e : Ext) :
    ∀ nxt, Machine.execMaz e s = .next nxt → nxt.Sound := by
  unfold Machine.execMaz
  refine State.Sound.onCur _ (fun t => ?_)
  try dsimp only
  repeat' (first
    | with_reducible assumption
    | with_reducible apply State.Sound.mxIssue)

theorem execConsumedPost {s : State} (h : s.Sound) (unit : Nat) (id : Nat) :
    ∀ nxt, Machine.execConsumedPost unit id s = .next nxt → nxt.Sound := by
  unfold Machine.execConsumedPost
  refine State.Sound.event ?_
  try dsimp only
  repeat' (first
    | with_reducible assumption
    | with_reducible apply State.Sound.consumed
    | with_reducible apply State.Sound.freeSlotOf
    | with_reducible refine State.Sound.foldl ?_ (fun _ _ _ => ?_)
    | with_reducible refine State.Sound.foldlFst ?_ (fun _ _ _ => ?_)
    | with_reducible refine State.Sound.ite (fun _ => ?_) (fun _ => ?_)
    | split)

theorem execDonePost {s : State} (h : s.Sound) (unit : Nat) (id : Nat) :
    ∀ nxt, Machine.execDonePost unit id s = .next nxt → nxt.Sound := by
  unfold Machine.execDonePost
  refine State.Sound.event ?_
  try dsimp only
  repeat' (first
    | with_reducible assumption
    | (show eventOp _ = true; rfl)
    | with_reducible exact True.intro
    | with_reducible apply State.Sound.onUnit
    | with_reducible apply State.Sound.stopCmd
    | with_reducible apply State.Sound.nudgeMx
    | with_reducible apply State.Sound.post
    | with_reducible apply State.Sound.emptySlot
    | with_reducible apply State.Sound.yield
    | with_reducible apply State.Sound.onCmd
    | with_reducible apply State.Sound.applyResult
    | with_reducible apply State.Sound.sched
    | with_reducible apply State.Sound.endCmd
    | with_reducible refine State.Sound.foldl ?_ (fun _ _ _ => ?_)
    | with_reducible refine State.Sound.foldlFst ?_ (fun _ _ _ => ?_)
    | with_reducible refine State.Sound.ite (fun _ => ?_) (fun _ => ?_)
    | split
    | fail_if_no_progress with_reducible apply State.Sound.upd
    | dsimp only)

theorem execEngineFault {s : State} (h : s.Sound) (unit : Nat) (id : Nat) :
    ∀ nxt, Machine.execEngineFault unit id s = .next nxt → nxt.Sound := by
  unfold Machine.execEngineFault
  refine State.Sound.event ?_
  try dsimp only
  repeat' (first
    | with_reducible assumption
    | (show eventOp _ = true; rfl)
    | with_reducible exact True.intro
    | with_reducible apply State.Sound.stopCmd
    | with_reducible apply State.Sound.sched
    | with_reducible apply State.Sound.yield
    | with_reducible apply State.Sound.endCancelled
    | with_reducible apply State.Sound.endFaulted
    | with_reducible refine State.Sound.foldl ?_ (fun _ _ _ => ?_)
    | with_reducible refine State.Sound.foldlFst ?_ (fun _ _ _ => ?_)
    | with_reducible refine State.Sound.ite (fun _ => ?_) (fun _ => ?_)
    | split
    | fail_if_no_progress with_reducible apply State.Sound.upd
    | dsimp only)

theorem execCrewStart {s : State} (h : s.Sound) (ltag : Nat) (unit : Nat) :
    ∀ nxt, Machine.execCrewStart ltag unit s = .next nxt → nxt.Sound := by
  unfold Machine.execCrewStart
  refine State.Sound.event ?_
  try dsimp only
  repeat' (first
    | with_reducible assumption
    | with_reducible apply State.Sound.setCrew
    | with_reducible apply State.Sound.create
    | with_reducible apply State.Sound.trigCheck
    | with_reducible apply State.Sound.onLaunch
    | with_reducible refine State.Sound.foldl ?_ (fun _ _ _ => ?_)
    | with_reducible refine State.Sound.foldlFst ?_ (fun _ _ _ => ?_)
    | with_reducible refine State.Sound.ite (fun _ => ?_) (fun _ => ?_)
    | split)

theorem execLpstatRead {s : State} (h : s.Sound) (block : Nat) (off : Nat) (size : Nat) :
    ∀ nxt, Machine.execLpstatRead block off size s = .next nxt → nxt.Sound := by
  unfold Machine.execLpstatRead
  refine State.Sound.event ?_
  try dsimp only
  repeat' (first
    | with_reducible assumption
    | (show eventOp _ = true; rfl)
    | with_reducible exact True.intro
    | with_reducible apply State.Sound.sched
    | with_reducible apply State.Sound.regLoad
    | with_reducible refine State.Sound.regLoad_eq ?_ (by with_reducible assumption)
    | with_reducible apply State.Sound.unsupportedRead
    | with_reducible refine State.Sound.foldl ?_ (fun _ _ _ => ?_)
    | with_reducible refine State.Sound.foldlFst ?_ (fun _ _ _ => ?_)
    | with_reducible refine State.Sound.ite (fun _ => ?_) (fun _ => ?_)
    | split
    | fail_if_no_progress with_reducible apply State.Sound.upd
    | dsimp only)

theorem execLaunchEnd {s : State} (h : s.Sound) (ltag : Nat) (status : Nat) (code : Nat) :
    ∀ nxt, Machine.execLaunchEnd ltag status code s = .next nxt → nxt.Sound := by
  unfold Machine.execLaunchEnd
  refine State.Sound.event ?_
  try dsimp only
  repeat' (first
    | with_reducible assumption
    | with_reducible apply State.Sound.finishLaunch)

theorem execBackoffExpiry {s : State} (h : s.Sound) (port : Nat) :
    ∀ nxt, Machine.execBackoffExpiry port s = .next nxt → nxt.Sound := by
  unfold Machine.execBackoffExpiry
  refine State.Sound.event ?_
  try dsimp only
  repeat' (first
    | with_reducible assumption
    | with_reducible apply State.Sound.placePass
    | with_reducible apply State.Sound.setPort
    | with_reducible refine State.Sound.foldl ?_ (fun _ _ _ => ?_)
    | with_reducible refine State.Sound.foldlFst ?_ (fun _ _ _ => ?_)
    | with_reducible refine State.Sound.ite (fun _ => ?_) (fun _ => ?_)
    | split)

theorem execEndSweep {s : State} (h : s.Sound)  :
    ∀ nxt, Machine.execEndSweep s = .next nxt → nxt.Sound := by
  unfold Machine.execEndSweep
  refine State.Sound.event ?_
  try dsimp only
  repeat' (first
    | with_reducible assumption
    | with_reducible apply State.Sound.sweepOne
    | with_reducible refine State.Sound.foldl ?_ (fun _ _ _ => ?_)
    | with_reducible refine State.Sound.foldlFst ?_ (fun _ _ _ => ?_)
    | with_reducible refine State.Sound.ite (fun _ => ?_) (fun _ => ?_))

theorem execLaunchRecordCommit {s : State} (h : s.Sound) (port : Nat) (dw7 : Word) :
    ∀ nxt, Machine.execLaunchRecordCommit port dw7 s = .next nxt → nxt.Sound := by
  unfold Machine.execLaunchRecordCommit
  refine State.Sound.event ?_
  try dsimp only
  repeat' (first
    | with_reducible assumption
    | (show eventOp _ = true; rfl)
    | with_reducible exact True.intro
    | with_reducible apply State.Sound.sched
    | with_reducible apply State.Sound.regWrite
    | with_reducible refine State.Sound.foldl ?_ (fun _ _ _ => ?_)
    | with_reducible refine State.Sound.foldlFst ?_ (fun _ _ _ => ?_)
    | with_reducible refine State.Sound.ite (fun _ => ?_) (fun _ => ?_)
    | split
    | fail_if_no_progress with_reducible apply State.Sound.upd
    | dsimp only)

theorem execLpcqbWrite {s : State} (h : s.Sound) (port : Nat) (v : Word) :
    ∀ nxt, Machine.execLpcqbWrite port v s = .next nxt → nxt.Sound := by
  unfold Machine.execLpcqbWrite
  refine State.Sound.event ?_
  try dsimp only
  repeat' (first
    | with_reducible assumption
    | (show eventOp _ = true; rfl)
    | with_reducible exact True.intro
    | with_reducible apply State.Sound.sched
    | with_reducible apply State.Sound.regWrite
    | with_reducible refine State.Sound.foldl ?_ (fun _ _ _ => ?_)
    | with_reducible refine State.Sound.foldlFst ?_ (fun _ _ _ => ?_)
    | with_reducible refine State.Sound.ite (fun _ => ?_) (fun _ => ?_)
    | split
    | fail_if_no_progress with_reducible apply State.Sound.upd
    | dsimp only)

theorem execLpcqhWrite {s : State} (h : s.Sound) (port : Nat) (v : Word) :
    ∀ nxt, Machine.execLpcqhWrite port v s = .next nxt → nxt.Sound := by
  unfold Machine.execLpcqhWrite
  refine State.Sound.event ?_
  try dsimp only
  repeat' (first
    | with_reducible assumption
    | (show eventOp _ = true; rfl)
    | with_reducible exact True.intro
    | with_reducible apply State.Sound.sched
    | with_reducible apply State.Sound.regWrite
    | with_reducible refine State.Sound.foldl ?_ (fun _ _ _ => ?_)
    | with_reducible refine State.Sound.foldlFst ?_ (fun _ _ _ => ?_)
    | with_reducible refine State.Sound.ite (fun _ => ?_) (fun _ => ?_)
    | split
    | fail_if_no_progress with_reducible apply State.Sound.upd
    | dsimp only)

theorem execLaunchHeadCheck {s : State} (h : s.Sound) (port : Nat) :
    ∀ nxt, Machine.execLaunchHeadCheck port s = .next nxt → nxt.Sound := by
  unfold Machine.execLaunchHeadCheck
  refine State.Sound.event ?_
  try dsimp only
  repeat' (first
    | with_reducible assumption
    | with_reducible apply State.Sound.headCheck)

theorem execPreemptRestore {s : State} (h : s.Sound)  :
    ∀ nxt, Machine.execPreemptRestore s = .next nxt → nxt.Sound := by
  unfold Machine.execPreemptRestore
  refine State.Sound.event ?_
  try dsimp only
  repeat' (first
    | with_reducible assumption
    | (show eventOp _ = true; rfl)
    | with_reducible apply State.Sound.preemptDone
    | with_reducible apply State.Sound.sched
    | with_reducible refine State.Sound.foldl ?_ (fun _ _ _ => ?_)
    | with_reducible refine State.Sound.foldlFst ?_ (fun _ _ _ => ?_)
    | with_reducible refine State.Sound.ite (fun _ => ?_) (fun _ => ?_))

theorem execPreemptSave {s : State} (h : s.Sound)  :
    ∀ nxt, Machine.execPreemptSave s = .next nxt → nxt.Sound := by
  unfold Machine.execPreemptSave
  refine State.Sound.event ?_
  try dsimp only
  repeat' (first
    | with_reducible assumption
    | (show eventOp _ = true; rfl)
    | with_reducible exact True.intro
    | with_reducible apply State.Sound.preemptDone
    | with_reducible apply State.Sound.sched
    | with_reducible apply State.Sound.stopEngines
    | with_reducible apply State.Sound.setCrew
    | with_reducible refine State.Sound.foldl ?_ (fun _ _ _ => ?_)
    | with_reducible refine State.Sound.foldlFst ?_ (fun _ _ _ => ?_)
    | with_reducible refine State.Sound.ite (fun _ => ?_) (fun _ => ?_)
    | split
    | fail_if_no_progress with_reducible apply State.Sound.upd
    | dsimp only)

theorem execCrewSaved {s : State} (h : s.Sound) (ltag : Nat) (gang : Nat) (crew : Nat) :
    ∀ nxt, Machine.execCrewSaved ltag gang crew s = .next nxt → nxt.Sound := by
  unfold Machine.execCrewSaved
  refine State.Sound.event ?_
  try dsimp only
  repeat' (first
    | with_reducible assumption
    | (show eventOp _ = true; rfl)
    | with_reducible exact True.intro
    | with_reducible apply State.Sound.preemptDone
    | with_reducible apply State.Sound.sched
    | with_reducible apply State.Sound.unstartMx
    | with_reducible apply State.Sound.commitThreads
    | with_reducible apply State.Sound.saveOver
    | with_reducible apply State.Sound.saveCrew
    | with_reducible refine State.Sound.foldl ?_ (fun _ _ _ => ?_)
    | with_reducible refine State.Sound.foldlFst ?_ (fun _ _ _ => ?_)
    | with_reducible refine State.Sound.ite (fun _ => ?_) (fun _ => ?_)
    | split
    | fail_if_no_progress with_reducible apply State.Sound.upd
    | dsimp only)

theorem execCrewRestore {s : State} (h : s.Sound) (ltag : Nat) (gang : Nat) :
    ∀ nxt, Machine.execCrewRestore ltag gang s = .next nxt → nxt.Sound := by
  unfold Machine.execCrewRestore
  refine State.Sound.event ?_
  try dsimp only
  repeat' (first
    | with_reducible assumption
    | (show eventOp _ = true; rfl)
    | with_reducible exact True.intro
    | with_reducible apply State.Sound.preemptDone
    | with_reducible apply State.Sound.sched
    | with_reducible apply State.Sound.restoreGang
    | with_reducible apply State.Sound.ueReads
    | with_reducible refine State.Sound.foldl ?_ (fun _ _ _ => ?_)
    | with_reducible refine State.Sound.foldlFst ?_ (fun _ _ _ => ?_)
    | with_reducible refine State.Sound.ite (fun _ => ?_) (fun _ => ?_)
    | split
    | fail_if_no_progress with_reducible apply State.Sound.upd
    | dsimp only)

theorem execDispReady {s : State} (h : s.Sound) (savebase : Word) (savesz : Word) (dirbase : Word) (rufree : Word) (esc : List Word) :
    ∀ nxt, Machine.execDispReady savebase savesz dirbase rufree esc s = .next nxt → nxt.Sound := by
  unfold Machine.execDispReady
  refine State.Sound.event ?_
  try dsimp only
  repeat' (first
    | with_reducible assumption
    | with_reducible refine State.Sound.foldl ?_ (fun _ _ _ => ?_)
    | with_reducible refine State.Sound.foldlFst ?_ (fun _ _ _ => ?_)
    | with_reducible refine State.Sound.ite (fun _ => ?_) (fun _ => ?_)
    | split
    | fail_if_no_progress with_reducible apply State.Sound.upd)

theorem execColdReset {s : State} (h : s.Sound) : ∀ u, Machine.execColdReset s = .next u → u.Sound :=
  State.Sound.event ⟨rfl, ⟨rfl, rfl⟩, rfl, rfl, rfl, h.inputs, rfl⟩

theorem execOwnerset {s : State} (h : s.Sound) (c : KeyCommand) (key sig : List Byte) :
    ∀ nxt, Machine.execOwnerset c key sig s = .next nxt → nxt.Sound := by
  unfold Machine.execOwnerset
  refine State.Sound.event ?_
  try dsimp only
  repeat' (first
    | with_reducible assumption
    | with_reducible exact True.intro
    | with_reducible apply State.Sound.mbxFinish
    | with_reducible refine State.Sound.foldl ?_ (fun _ _ _ => ?_)
    | with_reducible refine State.Sound.foldlFst ?_ (fun _ _ _ => ?_)
    | with_reducible refine State.Sound.ite (fun _ => ?_) (fun _ => ?_)
    | split
    | fail_if_no_progress with_reducible apply State.Sound.upd)

theorem execHostLinkTrain {s : State} (h : s.Sound)  :
    ∀ nxt, Machine.execHostLinkTrain s = .next nxt → nxt.Sound := by
  unfold Machine.execHostLinkTrain
  refine State.Sound.event ?_
  try dsimp only
  repeat' (first
    | with_reducible assumption
    | with_reducible refine State.Sound.foldl ?_ (fun _ _ _ => ?_)
    | with_reducible refine State.Sound.foldlFst ?_ (fun _ _ _ => ?_)
    | with_reducible refine State.Sound.ite (fun _ => ?_) (fun _ => ?_)
    | split
    | fail_if_no_progress with_reducible apply State.Sound.upd)

theorem execAttest {s : State} (h : s.Sound) :
    ∀ nxt, Machine.execAttest s = .next nxt → nxt.Sound := by
  unfold Machine.execAttest
  refine State.Sound.event ?_
  try dsimp only
  repeat' (first
    | with_reducible assumption
    | with_reducible exact True.intro
    | with_reducible apply State.Sound.mbxFinish
    | with_reducible refine State.Sound.foldl ?_ (fun _ _ _ => ?_)
    | with_reducible refine State.Sound.foldlFst ?_ (fun _ _ _ => ?_)
    | with_reducible refine State.Sound.ite (fun _ => ?_) (fun _ => ?_)
    | split
    | fail_if_no_progress with_reducible apply State.Sound.upd)

theorem execMsixUnmask {s : State} (h : s.Sound) (vec : Nat) :
    ∀ nxt, Machine.execMsixUnmask vec s = .next nxt → nxt.Sound := by
  unfold Machine.execMsixUnmask
  refine State.Sound.event ?_
  try dsimp only
  repeat' (first
    | with_reducible assumption
    | (show eventOp _ = true; rfl)
    | with_reducible exact True.intro
    | with_reducible apply State.Sound.sched
    | with_reducible apply State.Sound.msixWrite
    | with_reducible refine State.Sound.foldl ?_ (fun _ _ _ => ?_)
    | with_reducible refine State.Sound.foldlFst ?_ (fun _ _ _ => ?_)
    | with_reducible refine State.Sound.ite (fun _ => ?_) (fun _ => ?_)
    | split
    | fail_if_no_progress with_reducible apply State.Sound.upd
    | dsimp only)

theorem execBoot {s : State} (h : s.Sound) (slotA : Option Image) (slotB : Option Image) :
    ∀ nxt, Machine.execBoot slotA slotB s = .next nxt → nxt.Sound := by
  unfold Machine.execBoot
  refine State.Sound.event ?_
  try dsimp only
  repeat' (first
    | with_reducible assumption
    | with_reducible apply State.Sound.measure
    | with_reducible apply State.Sound.bootCause
    | with_reducible refine State.Sound.foldl ?_ (fun _ _ _ => ?_)
    | with_reducible refine State.Sound.foldlFst ?_ (fun _ _ _ => ?_)
    | with_reducible refine State.Sound.ite (fun _ => ?_) (fun _ => ?_)
    | split
    | fail_if_no_progress with_reducible apply State.Sound.upd)

theorem execStackImageVerify {s : State} (h : s.Sound) (img : Image) :
    ∀ nxt, Machine.execStackImageVerify img s = .next nxt → nxt.Sound := by
  unfold Machine.execStackImageVerify
  refine State.Sound.event ?_
  try dsimp only
  repeat' (first
    | with_reducible assumption
    | with_reducible apply State.Sound.measure
    | with_reducible apply State.Sound.bootCause
    | with_reducible refine State.Sound.foldl ?_ (fun _ _ _ => ?_)
    | with_reducible refine State.Sound.foldlFst ?_ (fun _ _ _ => ?_)
    | with_reducible refine State.Sound.ite (fun _ => ?_) (fun _ => ?_)
    | split
    | fail_if_no_progress with_reducible apply State.Sound.upd)

theorem execHostBar2Write {s : State} (h : s.Sound) (off : Nat) (data : List Byte) :
    ∀ nxt, Machine.execHostBar2Write off data s = .next nxt → nxt.Sound := by
  unfold Machine.execHostBar2Write
  refine State.Sound.event ?_
  try dsimp only
  repeat' (first
    | with_reducible assumption
    | (show eventOp _ = true; rfl)
    | with_reducible exact True.intro
    | with_reducible apply State.Sound.sched
    | with_reducible apply State.Sound.putBytes
    | with_reducible apply State.Sound.takeBanks
    | with_reducible apply State.Sound.hostLog
    | with_reducible refine State.Sound.foldl ?_ (fun _ _ _ => ?_)
    | with_reducible refine State.Sound.foldlFst ?_ (fun _ _ _ => ?_)
    | with_reducible refine State.Sound.ite (fun _ => ?_) (fun _ => ?_)
    | split
    | fail_if_no_progress with_reducible apply State.Sound.upd
    | dsimp only)

theorem execHbmTrain {s : State} (h : s.Sound) (h : Nat) (ok : Bool) (lanes : List (Nat × Half)) :
    ∀ nxt, Machine.execHbmTrain h ok lanes s = .next nxt → nxt.Sound := by
  unfold Machine.execHbmTrain
  refine State.Sound.event ?_
  try dsimp only
  repeat' (first
    | with_reducible assumption
    | (show eventOp _ = true; rfl)
    | with_reducible exact True.intro
    | with_reducible apply State.Sound.took
    | with_reducible apply State.Sound.replace
    | with_reducible refine State.Sound.foldl ?_ (fun _ _ _ => ?_)
    | with_reducible refine State.Sound.foldlFst ?_ (fun _ _ _ => ?_)
    | with_reducible refine State.Sound.ite (fun _ => ?_) (fun _ => ?_)
    | split
    | fail_if_no_progress with_reducible apply State.Sound.upd
    | dsimp only)

theorem execFunctionLevelReset {s : State} (h : s.Sound) :
    ∀ nxt, Machine.execFunctionLevelReset s = .next nxt → nxt.Sound := by
  unfold Machine.execFunctionLevelReset
  refine State.Sound.event ?_
  try dsimp only
  repeat' (first
    | with_reducible assumption
    | with_reducible exact True.intro
    | with_reducible apply State.Sound.endLaunch
    | with_reducible refine State.Sound.foldl ?_ (fun _ _ _ => ?_)
    | with_reducible refine State.Sound.foldlFst ?_ (fun _ _ _ => ?_)
    | with_reducible refine State.Sound.ite (fun _ => ?_) (fun _ => ?_)
    | split
    | fail_if_no_progress with_reducible apply State.Sound.upd)

theorem execLinkTrain {s : State} (h : s.Sound) (p : Nat) (theirs12 : Bool) (theirs20 : Bool) (partnerDev : Nat) (partnerPort : Nat) (fibres : LinkFibres) :
    ∀ nxt, Machine.execLinkTrain p theirs12 theirs20 partnerDev partnerPort fibres s = .next nxt → nxt.Sound := by
  unfold Machine.execLinkTrain
  refine State.Sound.event ?_
  try dsimp only
  repeat' (first
    | with_reducible assumption
    | (show eventOp _ = true; rfl)
    | with_reducible exact True.intro
    | with_reducible apply State.Sound.replace
    | with_reducible apply State.Sound.record
    | with_reducible refine State.Sound.foldl ?_ (fun _ _ _ => ?_)
    | with_reducible refine State.Sound.foldlFst ?_ (fun _ _ _ => ?_)
    | with_reducible refine State.Sound.ite (fun _ => ?_) (fun _ => ?_)
    | split
    | fail_if_no_progress with_reducible apply State.Sound.upd
    | dsimp only)

theorem execStagedImage {s : State} (h : s.Sound) (img : Image) :
    ∀ nxt, Machine.execStagedImage img s = .next nxt → nxt.Sound := by
  unfold Machine.execStagedImage
  refine State.Sound.event ?_
  try dsimp only
  repeat' (first
    | with_reducible assumption
    | with_reducible apply State.Sound.mbxFinish
    | with_reducible apply State.Sound.record
    | with_reducible apply State.Sound.measure
    | with_reducible refine State.Sound.foldl ?_ (fun _ _ _ => ?_)
    | with_reducible refine State.Sound.foldlFst ?_ (fun _ _ _ => ?_)
    | with_reducible refine State.Sound.ite (fun _ => ?_) (fun _ => ?_)
    | split
    | fail_if_no_progress with_reducible apply State.Sound.upd)

theorem execApply {s : State} (h : s.Sound) (c : BindCommand) :
    ∀ nxt, Machine.execApply c s = .next nxt → nxt.Sound := by
  unfold Machine.execApply
  refine State.Sound.event ?_
  try dsimp only
  repeat' (first
    | with_reducible assumption
    | (show eventOp _ = true; rfl)
    | with_reducible exact True.intro
    | with_reducible apply State.Sound.took
    | with_reducible apply State.Sound.clearRetired
    | with_reducible apply State.Sound.applyBinding
    | with_reducible refine State.Sound.bindVendor ?_ _ _ _ (by with_reducible assumption)
    | with_reducible refine State.Sound.foldl ?_ (fun _ _ _ => ?_)
    | with_reducible refine State.Sound.foldlFst ?_ (fun _ _ _ => ?_)
    | with_reducible refine State.Sound.ite (fun _ => ?_) (fun _ => ?_)
    | split
    | fail_if_no_progress with_reducible apply State.Sound.upd
    | dsimp only)

theorem execHbmplaceWrite {s : State} (h : s.Sound) (hi : Bool) (v : Word) :
    ∀ nxt, Machine.execHbmplaceWrite hi v s = .next nxt → nxt.Sound := by
  unfold Machine.execHbmplaceWrite
  refine State.Sound.event ?_
  try dsimp only
  repeat' (first
    | with_reducible assumption
    | (show eventOp _ = true; rfl)
    | with_reducible exact True.intro
    | with_reducible apply State.Sound.sched
    | with_reducible apply State.Sound.regWrite
    | with_reducible refine State.Sound.foldl ?_ (fun _ _ _ => ?_)
    | with_reducible refine State.Sound.foldlFst ?_ (fun _ _ _ => ?_)
    | with_reducible refine State.Sound.ite (fun _ => ?_) (fun _ => ?_)
    | split
    | fail_if_no_progress with_reducible apply State.Sound.upd
    | dsimp only)

theorem execDescriptorWindowWrite {s : State} (h : s.Sound) (off : Nat) (size : Nat) (data : Word) :
    ∀ nxt, Machine.execDescriptorWindowWrite off size data s = .next nxt → nxt.Sound := by
  unfold Machine.execDescriptorWindowWrite
  refine State.Sound.event ?_
  try dsimp only
  repeat' (first
    | with_reducible assumption
    | (show eventOp _ = true; rfl)
    | with_reducible exact True.intro
    | with_reducible apply State.Sound.sched
    | with_reducible apply State.Sound.regStore
    | with_reducible apply State.Sound.hostLog
    | with_reducible refine State.Sound.foldl ?_ (fun _ _ _ => ?_)
    | with_reducible refine State.Sound.foldlFst ?_ (fun _ _ _ => ?_)
    | with_reducible refine State.Sound.ite (fun _ => ?_) (fun _ => ?_)
    | split
    | fail_if_no_progress with_reducible apply State.Sound.upd
    | dsimp only)

theorem execRegisterWrite {s : State} (h : s.Sound) (r : HostReg) (size : Nat) (data : Word) :
    ∀ nxt, Machine.execRegisterWrite r size data s = .next nxt → nxt.Sound := by
  unfold Machine.execRegisterWrite
  refine State.Sound.event ?_
  try dsimp only
  repeat' (first
    | with_reducible assumption
    | (show eventOp _ = true; rfl)
    | with_reducible exact True.intro
    | with_reducible apply State.Sound.sched
    | with_reducible apply State.Sound.regStore
    | with_reducible apply State.Sound.hostLog
    | with_reducible refine State.Sound.foldl ?_ (fun _ _ _ => ?_)
    | with_reducible refine State.Sound.foldlFst ?_ (fun _ _ _ => ?_)
    | with_reducible refine State.Sound.ite (fun _ => ?_) (fun _ => ?_)
    | split
    | fail_if_no_progress with_reducible apply State.Sound.upd)

theorem execHostBar2Read {s : State} (h : s.Sound) (off : Nat) (n : Nat) :
    ∀ nxt, Machine.execHostBar2Read off n s = .next nxt → nxt.Sound := by
  unfold Machine.execHostBar2Read
  refine State.Sound.event ?_
  try dsimp only
  repeat' (first
    | with_reducible assumption
    | (show eventOp _ = true; rfl)
    | with_reducible exact True.intro
    | with_reducible apply State.Sound.sched
    | with_reducible apply State.Sound.barWords
    | with_reducible refine State.Sound.barWords_eq ?_ (by with_reducible assumption)
    | with_reducible apply State.Sound.takeBanks
    | with_reducible apply State.Sound.unsupportedRead
    | with_reducible refine State.Sound.foldl ?_ (fun _ _ _ => ?_)
    | with_reducible refine State.Sound.foldlFst ?_ (fun _ _ _ => ?_)
    | with_reducible refine State.Sound.ite (fun _ => ?_) (fun _ => ?_)
    | split
    | fail_if_no_progress with_reducible apply State.Sound.upd
    | dsimp only)

theorem execWalkFaultResolve {s : State} (h : s.Sound) (cluster : Nat) (root : Nat) (va : Nat) (ans : WalkAnswer) :
    ∀ nxt, Machine.execWalkFaultResolve cluster root va ans s = .next nxt → nxt.Sound := by
  unfold Machine.execWalkFaultResolve
  refine State.Sound.event ?_
  try dsimp only
  repeat' (first
    | with_reducible assumption
    | with_reducible apply State.Sound.store
    | with_reducible refine State.Sound.foldl ?_ (fun _ _ _ => ?_)
    | with_reducible refine State.Sound.foldlFst ?_ (fun _ _ _ => ?_)
    | with_reducible refine State.Sound.ite (fun _ => ?_) (fun _ => ?_)
    | split
    | fail_if_no_progress with_reducible apply State.Sound.upd)

theorem execTinvComplete {s : State} (h : s.Sound)  :
    ∀ nxt, Machine.execTinvComplete s = .next nxt → nxt.Sound := by
  unfold Machine.execTinvComplete
  refine State.Sound.event ?_
  try dsimp only
  repeat' (first
    | with_reducible assumption
    | (show eventOp _ = true; rfl)
    | with_reducible apply State.Sound.sched
    | with_reducible refine State.Sound.foldl ?_ (fun _ _ _ => ?_)
    | with_reducible refine State.Sound.foldlFst ?_ (fun _ _ _ => ?_)
    | with_reducible refine State.Sound.ite (fun _ => ?_) (fun _ => ?_)
    | split
    | fail_if_no_progress with_reducible apply State.Sound.upd)

theorem execTinv {s : State} (h : s.Sound)  :
    ∀ nxt, Machine.execTinv s = .next nxt → nxt.Sound := by
  unfold Machine.execTinv
  refine State.Sound.event ?_
  try dsimp only
  repeat' (first
    | with_reducible assumption
    | (show eventOp _ = true; rfl)
    | with_reducible apply State.Sound.dropEntries
    | with_reducible apply State.Sound.sched
    | with_reducible refine State.Sound.foldl ?_ (fun _ _ _ => ?_)
    | with_reducible refine State.Sound.foldlFst ?_ (fun _ _ _ => ?_)
    | with_reducible refine State.Sound.ite (fun _ => ?_) (fun _ => ?_)
    | split
    | fail_if_no_progress with_reducible apply State.Sound.upd)

theorem execPageWalkEnd {s : State} (h : s.Sound) (cluster : Nat) (root : Nat) (va : Nat) :
    ∀ nxt, Machine.execPageWalkEnd cluster root va s = .next nxt → nxt.Sound := by
  unfold Machine.execPageWalkEnd
  refine State.Sound.event ?_
  try dsimp only
  repeat' (first
    | with_reducible assumption
    | with_reducible apply State.Sound.walkEnd)

theorem onPkt {s : State} (h : s.Sound) (f : Packet → State) (hf : ∀ p, (f p).Sound) : ∀ u, Machine.onPkt s f = .next u → u.Sound := by
  intro u e
  unfold Machine.onPkt at e
  split at e
  · injection e with e; exact e ▸ hf _
  · injection e with e; exact e ▸ h

theorem execSplit {s : State} (h : s.Sound)  :
    ∀ nxt, Machine.execSplit s = .next nxt → nxt.Sound := by
  unfold Machine.execSplit
  refine State.Sound.event ?_
  try dsimp only
  repeat' (first
    | with_reducible assumption
    | (show eventOp _ = true; rfl)
    | with_reducible exact True.intro
    | with_reducible apply State.Sound.resBegin
    | with_reducible apply State.Sound.resFinish
    | with_reducible apply State.Sound.sendRes
    | with_reducible apply State.Sound.putWork
    | with_reducible refine State.Sound.foldl ?_ (fun _ _ _ => ?_)
    | with_reducible refine State.Sound.foldlFst ?_ (fun _ _ _ => ?_)
    | (intro y hy)
    | (intro y)
    | with_reducible refine State.Sound.ite (fun _ => ?_) (fun _ => ?_)
    | split
    | fail_if_no_progress with_reducible apply State.Sound.upd
    | dsimp only)

theorem execCollapse {s : State} (h : s.Sound)  :
    ∀ nxt, Machine.execCollapse s = .next nxt → nxt.Sound := by
  unfold Machine.execCollapse
  refine State.Sound.event ?_
  try dsimp only
  repeat' (first
    | with_reducible assumption
    | (show eventOp _ = true; rfl)
    | with_reducible exact True.intro
    | with_reducible apply State.Sound.resBegin
    | with_reducible apply State.Sound.resFinish
    | with_reducible apply State.Sound.sendRes
    | with_reducible apply State.Sound.putWork
    | with_reducible refine State.Sound.foldl ?_ (fun _ _ _ => ?_)
    | with_reducible refine State.Sound.foldlFst ?_ (fun _ _ _ => ?_)
    | (intro y hy)
    | (intro y)
    | with_reducible refine State.Sound.ite (fun _ => ?_) (fun _ => ?_)
    | split
    | fail_if_no_progress with_reducible apply State.Sound.upd
    | dsimp only)

theorem execResidencyResume {s : State} (h : s.Sound) : ∀ nxt, Machine.execResidencyResume s = .next nxt → nxt.Sound := by
  unfold Machine.execResidencyResume
  refine State.Sound.event (State.Sound.serveRing ?_ _)
  exact (h.upd.foldl fun s p hs => hs.schedRes _ _).foldl fun s w hs => (hs.putWork _ _).copyNext _

theorem execMigrate {s : State} (h : s.Sound)  :
    ∀ nxt, Machine.execMigrate s = .next nxt → nxt.Sound := by
  unfold Machine.execMigrate
  refine State.Sound.event ?_
  try dsimp only
  repeat' (first
    | with_reducible assumption
    | (show eventOp _ = true; rfl)
    | with_reducible exact True.intro
    | with_reducible apply State.Sound.resBegin
    | with_reducible apply State.Sound.resFinish
    | with_reducible apply State.Sound.copyBegin
    | with_reducible apply State.Sound.recmd
    | with_reducible refine State.Sound.foldl ?_ (fun _ _ _ => ?_)
    | with_reducible refine State.Sound.foldlFst ?_ (fun _ _ _ => ?_)
    | (intro y hy)
    | (intro y)
    | with_reducible refine State.Sound.ite (fun _ => ?_) (fun _ => ?_)
    | split
    | fail_if_no_progress with_reducible apply State.Sound.upd
    | dsimp only)

theorem onRes {s : State} (h : s.Sound) (f : State → Packet → State) (hf : ∀ s p, s.Sound → (f s p).Sound) :
    ∀ u, Machine.onRes s f = .next u → u.Sound := by
  unfold Machine.onRes
  refine h.onPkt _ fun p => State.Sound.ite (fun _ => h.stall' _) fun _ => State.Sound.ite (fun _ => h.schedRes _ _) fun _ => ?_
  split
  · exact hf _ _ ((h.resClose p _ _ ‹_›).ueReads _ _ _)
  · exact h

theorem execResAck {s : State} (h : s.Sound)  :
    ∀ nxt, Machine.execResAck s = .next nxt → nxt.Sound := by
  unfold Machine.execResAck
  refine State.Sound.onRes h _ (fun s p h => ?_)
  try dsimp only
  repeat' (first
    | with_reducible assumption
    | (show eventOp _ = true; rfl)
    | with_reducible exact True.intro
    | with_reducible apply State.Sound.collapseFail
    | with_reducible apply State.Sound.collapseEnd
    | with_reducible apply State.Sound.resFinish
    | with_reducible apply State.Sound.resAnswered
    | with_reducible refine State.Sound.foldl ?_ (fun _ _ _ => ?_)
    | with_reducible refine State.Sound.foldlFst ?_ (fun _ _ _ => ?_)
    | with_reducible refine State.Sound.ite (fun _ => ?_) (fun _ => ?_)
    | split
    | fail_if_no_progress with_reducible apply State.Sound.upd
    | dsimp only)

theorem execResMigrate {s : State} (h : s.Sound) : ∀ nxt, Machine.execResMigrate s = .next nxt → nxt.Sound := by
  unfold Machine.execResMigrate
  refine State.Sound.onRes h _ fun s p h => ?_
  dsimp only
  split
  · exact h.settlePage _ _ _ fun s hs => (hs.rewritePage _ _ _ _ _).sendRes _
  · exact h.sendRes _

theorem execResMoved {s : State} (h : s.Sound)  :
    ∀ nxt, Machine.execResMoved s = .next nxt → nxt.Sound := by
  unfold Machine.execResMoved
  refine State.Sound.onRes h _ (fun s p h => ?_)
  try dsimp only
  repeat' (first
    | with_reducible assumption
    | (show eventOp _ = true; rfl)
    | with_reducible exact True.intro
    | with_reducible apply State.Sound.resFinish
    | with_reducible apply State.Sound.writeToFaults
    | with_reducible apply State.Sound.release
    | with_reducible apply State.Sound.settlePiece
    | with_reducible refine State.Sound.foldl ?_ (fun _ _ _ => ?_)
    | with_reducible refine State.Sound.foldlFst ?_ (fun _ _ _ => ?_)
    | with_reducible refine State.Sound.ite (fun _ => ?_) (fun _ => ?_)
    | split
    | fail_if_no_progress with_reducible apply State.Sound.upd
    | dsimp only)

theorem execResCollapseCommand {s : State} (h : s.Sound)  :
    ∀ nxt, Machine.execResCollapseCommand s = .next nxt → nxt.Sound := by
  unfold Machine.execResCollapseCommand
  refine State.Sound.onRes h _ (fun s p h => ?_)
  try dsimp only
  repeat' (first
    | with_reducible assumption
    | (show eventOp _ = true; rfl)
    | with_reducible exact True.intro
    | with_reducible apply State.Sound.sendRes
    | with_reducible apply State.Sound.schedRes
    | with_reducible apply State.Sound.addHold
    | with_reducible refine State.Sound.foldl ?_ (fun _ _ _ => ?_)
    | with_reducible refine State.Sound.foldlFst ?_ (fun _ _ _ => ?_)
    | with_reducible refine State.Sound.ite (fun _ => ?_) (fun _ => ?_)
    | split
    | fail_if_no_progress with_reducible apply State.Sound.upd
    | dsimp only)

theorem execResSplit {s : State} (h : s.Sound) : ∀ nxt, Machine.execResSplit s = .next nxt → nxt.Sound := by
  unfold Machine.execResSplit
  refine State.Sound.onRes h _ fun s p h => h.whileServing _ _ ?_
  dsimp only
  split
  · have hh := h
    split
    · split
      · exact hh.stall' _
      · have h2 := hh.splitRec _ _ _ ‹_›
        exact (State.Sound.ite (fun _ => h2.foldl fun s x hs => hs.sendRes _) fun _ => h2).sendRes _
    · exact hh.sendRes _
  · refine h.settlePage _ _ _ fun s h => ?_
    split
    · exact (h.addHold _).stall' _
    · have hh := h.splitPage _ _ _ ‹_›
      split
      · split
        · exact hh.stall' _
        · have h2 := hh.splitRec _ _ _ ‹_›
          exact (State.Sound.ite (fun _ => h2.foldl fun s x hs => hs.sendRes _) fun _ => h2).sendRes _
      · exact hh.sendRes _

theorem execResInval {s : State} (h : s.Sound)  :
    ∀ nxt, Machine.execResInval s = .next nxt → nxt.Sound := by
  unfold Machine.execResInval
  refine State.Sound.onRes h _ (fun s p h => ?_)
  try dsimp only
  repeat' (first
    | with_reducible assumption
    | (show eventOp _ = true; rfl)
    | with_reducible exact True.intro
    | with_reducible apply State.Sound.schedRes
    | with_reducible apply State.Sound.addHold
    | with_reducible refine State.Sound.piecesTo ?_ _ _ _ _ _ (by with_reducible assumption)
    | with_reducible apply State.Sound.sendRes
    | with_reducible apply State.Sound.release
    | with_reducible apply State.Sound.stall'
    | with_reducible refine State.Sound.foldl ?_ (fun _ _ _ => ?_)
    | with_reducible refine State.Sound.foldlFst ?_ (fun _ _ _ => ?_)
    | with_reducible refine State.Sound.ite (fun _ => ?_) (fun _ => ?_)
    | split
    | fail_if_no_progress with_reducible apply State.Sound.upd
    | dsimp only)

theorem execResDone {s : State} (h : s.Sound)  :
    ∀ nxt, Machine.execResDone s = .next nxt → nxt.Sound := by
  unfold Machine.execResDone
  refine State.Sound.onRes h _ (fun s p h => ?_)
  try dsimp only
  repeat' (first
    | with_reducible assumption
    | (show eventOp _ = true; rfl)
    | with_reducible exact True.intro
    | with_reducible apply State.Sound.settlePiece
    | with_reducible refine State.Sound.foldl ?_ (fun _ _ _ => ?_)
    | with_reducible refine State.Sound.foldlFst ?_ (fun _ _ _ => ?_)
    | with_reducible refine State.Sound.ite (fun _ => ?_) (fun _ => ?_)
    | split
    | fail_if_no_progress with_reducible apply State.Sound.upd
    | dsimp only)

theorem execResDup {s : State} (h : s.Sound) : ∀ nxt, Machine.execResDup s = .next nxt → nxt.Sound := by
  unfold Machine.execResDup
  refine State.Sound.onRes h _ fun s p h => ?_
  dsimp only
  split
  · split
    · exact h.settlePage _ _ _ fun s hs => (hs.rewritePage _ _ _ _ _).sendRes _
    · exact h.sendRes _
  · refine State.Sound.ite (fun _ => h) fun _ => h.whileServing _ _ ?_
    split
    · exact h.sendRes _
    · exact State.Sound.ite (fun _ => h.upd) fun _ => h.upd.dupOwned _ _ _ fun _ hs => hs.schedRes _ _

theorem execResMapped {s : State} (h : s.Sound) : ∀ nxt, Machine.execResMapped s = .next nxt → nxt.Sound := by
  unfold Machine.execResMapped
  refine State.Sound.onRes h _ fun s p h => ?_
  dsimp only
  refine State.Sound.ite (fun _ => ?_) fun _ => ?_
  · split
    · exact h
    · refine State.Sound.ite (fun _ => State.Sound.ite (fun _ => h.resFail _) fun _ => h.resFinish _ _) fun _ =>
        State.Sound.ite (fun _ => ?_) fun _ => h.resAnswered _ _
      split
      · exact State.Sound.ite (fun _ => ((h.rewritePage _ _ _ _ _).putWork _ _).resFinish _ _) fun _ =>
          ((h.rewritePage _ _ _ _ _).putWork _ _).foldl fun s d hd => hd.sendRes _
      · exact State.Sound.ite (fun _ => (h.putWork _ _).resFinish _ _) fun _ => (h.putWork _ _).foldl fun s d hd => hd.sendRes _
  · split
    · exact State.Sound.ite (fun _ => h.sendRes _) fun _ => h.settlePage _ _ _ fun s hs => (hs.rewritePage _ _ _ _ _).sendRes _
    · exact h.sendRes _

theorem execDup {s : State} (h : s.Sound)  :
    ∀ nxt, Machine.execDup s = .next nxt → nxt.Sound := by
  unfold Machine.execDup
  refine State.Sound.event ?_
  try dsimp only
  repeat' (first
    | with_reducible assumption
    | (show eventOp _ = true; rfl)
    | with_reducible exact True.intro
    | with_reducible apply State.Sound.resBegin
    | with_reducible apply State.Sound.recmd
    | with_reducible apply State.Sound.dupOwned
    | with_reducible apply State.Sound.resFinish
    | with_reducible apply State.Sound.sendRes
    | with_reducible apply State.Sound.putWork
    | with_reducible refine State.Sound.foldl ?_ (fun _ _ _ => ?_)
    | with_reducible refine State.Sound.foldlFst ?_ (fun _ _ _ => ?_)
    | (intro y hy)
    | (intro y)
    | with_reducible refine State.Sound.ite (fun _ => ?_) (fun _ => ?_)
    | split
    | fail_if_no_progress with_reducible apply State.Sound.upd
    | dsimp only)

theorem execResCollapse {s : State} (h : s.Sound)  :
    ∀ nxt, Machine.execResCollapse s = .next nxt → nxt.Sound := by
  unfold Machine.execResCollapse
  refine State.Sound.onRes h _ (fun s p h => ?_)
  try dsimp only
  repeat' (first
    | with_reducible assumption
    | (show eventOp _ = true; rfl)
    | with_reducible exact True.intro
    | with_reducible apply State.Sound.whileServing
    | with_reducible apply State.Sound.sendRes
    | with_reducible apply State.Sound.answerMapping
    | with_reducible apply State.Sound.collapsePiece
    | with_reducible refine State.Sound.foldl ?_ (fun _ _ _ => ?_)
    | with_reducible refine State.Sound.foldlFst ?_ (fun _ _ _ => ?_)
    | with_reducible refine State.Sound.ite (fun _ => ?_) (fun _ => ?_)
    | split
    | fail_if_no_progress with_reducible apply State.Sound.upd
    | dsimp only)

theorem execCrumbHoldExpiry {s : State} (h : s.Sound) (i : Nat) :
    ∀ nxt, Machine.execCrumbHoldExpiry i s = .next nxt → nxt.Sound := by
  unfold Machine.execCrumbHoldExpiry
  refine State.Sound.event ?_
  try dsimp only
  repeat' (first
    | with_reducible assumption
    | with_reducible refine State.Sound.foldl ?_ (fun _ _ _ => ?_)
    | with_reducible refine State.Sound.foldlFst ?_ (fun _ _ _ => ?_)
    | with_reducible refine State.Sound.ite (fun _ => ?_) (fun _ => ?_)
    | split
    | fail_if_no_progress with_reducible apply State.Sound.upd)

theorem execDeadlockTimer {s : State} (h : s.Sound) (port : Nat) (vc : Nat) :
    ∀ nxt, Machine.execDeadlockTimer port vc s = .next nxt → nxt.Sound := by
  unfold Machine.execDeadlockTimer
  refine State.Sound.event ?_
  try dsimp only
  repeat' (first
    | with_reducible assumption
    | (show eventOp _ = true; rfl)
    | with_reducible apply State.Sound.toLane
    | with_reducible refine State.Sound.toLane_eq ?_ (by with_reducible assumption)
    | with_reducible apply State.Sound.kickUp
    | with_reducible apply State.Sound.sched
    | with_reducible refine State.Sound.foldl ?_ (fun _ _ _ => ?_)
    | with_reducible refine State.Sound.foldlFst ?_ (fun _ _ _ => ?_)
    | with_reducible refine State.Sound.ite (fun _ => ?_) (fun _ => ?_)
    | split
    | fail_if_no_progress with_reducible apply State.Sound.upd)

theorem execHoldExpiry {s : State} (h : s.Sound) (port : Nat) (vc : Nat) :
    ∀ nxt, Machine.execHoldExpiry port vc s = .next nxt → nxt.Sound := by
  unfold Machine.execHoldExpiry
  refine State.Sound.event ?_
  try dsimp only
  repeat' (first
    | with_reducible assumption
    | (show eventOp _ = true; rfl)
    | with_reducible exact True.intro
    | with_reducible apply State.Sound.sched
    | with_reducible apply State.Sound.kickUp
    | with_reducible refine State.Sound.foldl ?_ (fun _ _ _ => ?_)
    | with_reducible refine State.Sound.foldlFst ?_ (fun _ _ _ => ?_)
    | with_reducible refine State.Sound.ite (fun _ => ?_) (fun _ => ?_)
    | split
    | fail_if_no_progress with_reducible apply State.Sound.upd
    | dsimp only)

theorem eventOp_kindEvent (p : Packet) (i : Instr) (e : State.kindEvent p = some i) : eventOp i = true := by
  unfold State.kindEvent at e
  split at e <;> first | (injection e with e; exact e ▸ rfl) | injection e | skip
  · split at e
    · injection e
    · exact eventOp_resEvent _ _ e
  · split at e
    · injection e
    · injection e with e; exact e ▸ rfl

theorem execPacketRoute {s : State} (h : s.Sound) (input : Nat) (p : Packet) :
    ∀ nxt, Machine.execPacketRoute input p s = .next nxt → nxt.Sound := by
  unfold Machine.execPacketRoute
  refine State.Sound.event ?_
  refine State.Sound.ite (fun _ => h.discard _) fun _ => State.Sound.ite (fun _ => h.fresh.sched _ _ _ rfl) fun _ =>
    State.Sound.ite (fun _ => h.forward _ _ _) fun _ => ?_
  split
  · exact h.deliver _ _ _ (eventOp_kindEvent _ _ ‹_›)
  · exact h.unfit _

theorem execCrumbTimeout {s : State} (h : s.Sound) (i : Nat) :
    ∀ nxt, Machine.execCrumbTimeout i s = .next nxt → nxt.Sound := by
  unfold Machine.execCrumbTimeout
  refine State.Sound.event ?_
  try dsimp only
  repeat' (first
    | with_reducible assumption
    | with_reducible apply State.Sound.crumbLost
    | with_reducible refine State.Sound.foldl ?_ (fun _ _ _ => ?_)
    | with_reducible refine State.Sound.foldlFst ?_ (fun _ _ _ => ?_)
    | with_reducible refine State.Sound.ite (fun _ => ?_) (fun _ => ?_)
    | split)

theorem execMatr {s : State} (h : s.Sound)  :
    ∀ nxt, Machine.execMatr s = .next nxt → nxt.Sound := by
  unfold Machine.execMatr
  refine State.Sound.onPkt h _ (fun p => ?_)
  try dsimp only
  repeat' (first
    | with_reducible assumption
    | with_reducible apply State.Sound.crumbLost
    | with_reducible apply State.Sound.splitMatr
    | with_reducible refine State.Sound.foldl ?_ (fun _ _ _ => ?_)
    | with_reducible refine State.Sound.foldlFst ?_ (fun _ _ _ => ?_)
    | with_reducible refine State.Sound.ite (fun _ => ?_) (fun _ => ?_)
    | split)

theorem execPacketTransmit {s : State} (h : s.Sound) (port : Nat) :
    ∀ nxt, Machine.execPacketTransmit port s = .next nxt → nxt.Sound := by
  unfold Machine.execPacketTransmit
  refine State.Sound.event ?_
  try dsimp only
  repeat' (first
    | with_reducible assumption
    | with_reducible apply State.Sound.transmit
    | with_reducible apply State.Sound.kickUp
    | with_reducible refine State.Sound.foldl ?_ (fun _ _ _ => ?_)
    | with_reducible refine State.Sound.foldlFst ?_ (fun _ _ _ => ?_)
    | with_reducible refine State.Sound.ite (fun _ => ?_) (fun _ => ?_))

theorem execMgt {s : State} (h : s.Sound)  :
    ∀ nxt, Machine.execMgt s = .next nxt → nxt.Sound := by
  unfold Machine.execMgt
  refine State.Sound.onPkt h _ (fun p => ?_)
  try dsimp only
  repeat' (first
    | with_reducible assumption
    | with_reducible apply State.Sound.discard
    | with_reducible refine State.Sound.foldl ?_ (fun _ _ _ => ?_)
    | with_reducible refine State.Sound.foldlFst ?_ (fun _ _ _ => ?_)
    | with_reducible refine State.Sound.ite (fun _ => ?_) (fun _ => ?_)
    | split
    | fail_if_no_progress with_reducible apply State.Sound.upd)

theorem execTagReuse {s : State} (h : s.Sound) (tag : Nat) :
    ∀ nxt, Machine.execTagReuse tag s = .next nxt → nxt.Sound := by
  unfold Machine.execTagReuse
  refine State.Sound.event ?_
  try dsimp only
  repeat' (first
    | with_reducible assumption
    | with_reducible refine State.Sound.foldl ?_ (fun _ _ _ => ?_)
    | with_reducible refine State.Sound.foldlFst ?_ (fun _ _ _ => ?_)
    | with_reducible refine State.Sound.ite (fun _ => ?_) (fun _ => ?_)
    | split
    | fail_if_no_progress with_reducible apply State.Sound.upd)

theorem execRetry {s : State} (h : s.Sound)  :
    ∀ nxt, Machine.execRetry s = .next nxt → nxt.Sound := by
  unfold Machine.execRetry
  refine State.Sound.onPkt h _ (fun p => ?_)
  try dsimp only
  repeat' (first
    | with_reducible assumption
    | (show eventOp _ = true; rfl)
    | with_reducible apply State.Sound.sched
    | with_reducible apply State.Sound.cancel
    | with_reducible refine State.Sound.foldl ?_ (fun _ _ _ => ?_)
    | with_reducible refine State.Sound.foldlFst ?_ (fun _ _ _ => ?_)
    | with_reducible refine State.Sound.ite (fun _ => ?_) (fun _ => ?_))

theorem execFlu {s : State} (h : s.Sound)  :
    ∀ nxt, Machine.execFlu s = .next nxt → nxt.Sound := by
  unfold Machine.execFlu
  refine State.Sound.onPkt h _ (fun p => ?_)
  try dsimp only
  repeat' (first
    | with_reducible assumption
    | (show eventOp _ = true; rfl)
    | with_reducible apply State.Sound.schedPkt
    | with_reducible apply State.Sound.homeReply
    | with_reducible refine State.Sound.foldl ?_ (fun _ _ _ => ?_)
    | with_reducible refine State.Sound.foldlFst ?_ (fun _ _ _ => ?_)
    | with_reducible refine State.Sound.ite (fun _ => ?_) (fun _ => ?_)
    | split
    | fail_if_no_progress with_reducible apply State.Sound.upd)

theorem execSpw {s : State} (h : s.Sound)  :
    ∀ nxt, Machine.execSpw s = .next nxt → nxt.Sound := by
  unfold Machine.execSpw
  refine State.Sound.onPkt h _ (fun p => ?_)
  try dsimp only
  repeat' (first
    | with_reducible assumption
    | (show eventOp _ = true; rfl)
    | with_reducible apply State.Sound.toJu)

theorem execApp {s : State} (h : s.Sound)  :
    ∀ nxt, Machine.execApp s = .next nxt → nxt.Sound := by
  unfold Machine.execApp
  refine State.Sound.onPkt h _ (fun p => ?_)
  try dsimp only
  repeat' (first
    | with_reducible assumption
    | (show eventOp _ = true; rfl)
    | with_reducible apply State.Sound.toJu)

theorem execWrn {s : State} (h : s.Sound)  :
    ∀ nxt, Machine.execWrn s = .next nxt → nxt.Sound := by
  unfold Machine.execWrn
  refine State.Sound.onPkt h _ (fun p => ?_)
  try dsimp only
  repeat' (first
    | with_reducible assumption
    | (show eventOp _ = true; rfl)
    | with_reducible apply State.Sound.homeReply
    | with_reducible apply State.Sound.schedPkt
    | with_reducible apply State.Sound.homeWrite
    | with_reducible apply State.Sound.takeBank
    | with_reducible refine State.Sound.foldl ?_ (fun _ _ _ => ?_)
    | with_reducible refine State.Sound.foldlFst ?_ (fun _ _ _ => ?_)
    | with_reducible refine State.Sound.ite (fun _ => ?_) (fun _ => ?_)
    | split)

theorem execWr {s : State} (h : s.Sound)  :
    ∀ nxt, Machine.execWr s = .next nxt → nxt.Sound := by
  unfold Machine.execWr
  refine State.Sound.onPkt h _ (fun p => ?_)
  try dsimp only
  repeat' (first
    | with_reducible assumption
    | (show eventOp _ = true; rfl)
    | with_reducible apply State.Sound.discard
    | with_reducible apply State.Sound.schedPkt
    | with_reducible apply State.Sound.noteFailed
    | with_reducible apply State.Sound.homeWrite
    | with_reducible apply State.Sound.takeBank
    | with_reducible refine State.Sound.foldl ?_ (fun _ _ _ => ?_)
    | with_reducible refine State.Sound.foldlFst ?_ (fun _ _ _ => ?_)
    | with_reducible refine State.Sound.ite (fun _ => ?_) (fun _ => ?_)
    | split)

theorem execRetryResend {s : State} (h : s.Sound) (tag : Nat) :
    ∀ nxt, Machine.execRetryResend tag s = .next nxt → nxt.Sound := by
  unfold Machine.execRetryResend
  refine State.Sound.event ?_
  try dsimp only
  repeat' (first
    | with_reducible assumption
    | with_reducible apply State.Sound.forward
    | with_reducible apply State.Sound.resend
    | with_reducible refine State.Sound.foldl ?_ (fun _ _ _ => ?_)
    | with_reducible refine State.Sound.foldlFst ?_ (fun _ _ _ => ?_)
    | with_reducible refine State.Sound.ite (fun _ => ?_) (fun _ => ?_)
    | split)

theorem execAtm {s : State} (h : s.Sound)  :
    ∀ nxt, Machine.execAtm s = .next nxt → nxt.Sound := by
  unfold Machine.execAtm
  refine State.Sound.onPkt h _ (fun p => ?_)
  try dsimp only
  repeat' (first
    | with_reducible assumption
    | (show eventOp _ = true; rfl)
    | with_reducible exact True.intro
    | with_reducible apply State.Sound.homeReply
    | with_reducible apply State.Sound.schedPkt
    | with_reducible apply State.Sound.eccVal
    | with_reducible refine State.Sound.eccVal_eq ?_ (by with_reducible assumption)
    | with_reducible apply State.Sound.takeBank
    | with_reducible apply State.Sound.cacheReply
    | with_reducible apply State.Sound.homeAtom
    | with_reducible refine State.Sound.foldl ?_ (fun _ _ _ => ?_)
    | with_reducible refine State.Sound.foldlFst ?_ (fun _ _ _ => ?_)
    | with_reducible refine State.Sound.ite (fun _ => ?_) (fun _ => ?_)
    | split
    | fail_if_no_progress with_reducible apply State.Sound.upd
    | dsimp only)

theorem execMatm {s : State} (h : s.Sound)  :
    ∀ nxt, Machine.execMatm s = .next nxt → nxt.Sound := by
  unfold Machine.execMatm
  refine State.Sound.onPkt h _ (fun p => ?_)
  try dsimp only
  repeat' (first
    | with_reducible assumption
    | (show eventOp _ = true; rfl)
    | with_reducible exact True.intro
    | with_reducible apply State.Sound.homeReply
    | with_reducible apply State.Sound.schedPkt
    | with_reducible apply State.Sound.eccVal
    | with_reducible refine State.Sound.eccVal_eq ?_ (by with_reducible assumption)
    | with_reducible apply State.Sound.takeBank
    | with_reducible apply State.Sound.matmRun
    | with_reducible refine State.Sound.matmRun_eq ?_ (by with_reducible assumption)
    | with_reducible apply State.Sound.touch
    | with_reducible refine State.Sound.foldl ?_ (fun _ _ _ => ?_)
    | with_reducible refine State.Sound.foldlFst ?_ (fun _ _ _ => ?_)
    | with_reducible refine State.Sound.ite (fun _ => ?_) (fun _ => ?_)
    | split
    | fail_if_no_progress with_reducible apply State.Sound.upd
    | dsimp only)

theorem execAtmp {s : State} (h : s.Sound)  :
    ∀ nxt, Machine.execAtmp s = .next nxt → nxt.Sound := by
  unfold Machine.execAtmp
  refine State.Sound.onPkt h _ (fun p => ?_)
  try dsimp only
  repeat' (first
    | with_reducible assumption
    | (show eventOp _ = true; rfl)
    | with_reducible exact True.intro
    | with_reducible apply State.Sound.homeReply
    | with_reducible apply State.Sound.noteFailed
    | with_reducible apply State.Sound.discard
    | with_reducible apply State.Sound.schedPkt
    | with_reducible apply State.Sound.eccVal
    | with_reducible refine State.Sound.eccVal_eq ?_ (by with_reducible assumption)
    | with_reducible apply State.Sound.takeBank
    | with_reducible apply State.Sound.homeAtom
    | with_reducible apply State.Sound.cacheReply
    | with_reducible refine State.Sound.foldl ?_ (fun _ _ _ => ?_)
    | with_reducible refine State.Sound.foldlFst ?_ (fun _ _ _ => ?_)
    | with_reducible refine State.Sound.ite (fun _ => ?_) (fun _ => ?_)
    | split
    | fail_if_no_progress with_reducible apply State.Sound.upd
    | dsimp only)

theorem execRd {s : State} (h : s.Sound)  :
    ∀ nxt, Machine.execRd s = .next nxt → nxt.Sound := by
  unfold Machine.execRd
  refine State.Sound.onPkt h _ (fun p => ?_)
  try dsimp only
  repeat' (first
    | with_reducible assumption
    | (show eventOp _ = true; rfl)
    | with_reducible exact True.intro
    | with_reducible apply State.Sound.homeReply
    | with_reducible apply State.Sound.schedPkt
    | with_reducible apply State.Sound.homeRead
    | with_reducible refine State.Sound.homeRead_eq ?_ (by with_reducible assumption)
    | with_reducible apply State.Sound.takeBank
    | with_reducible refine State.Sound.foldl ?_ (fun _ _ _ => ?_)
    | with_reducible refine State.Sound.foldlFst ?_ (fun _ _ _ => ?_)
    | with_reducible refine State.Sound.ite (fun _ => ?_) (fun _ => ?_)
    | split
    | fail_if_no_progress with_reducible apply State.Sound.upd
    | dsimp only)

theorem execRetryTimeout {s : State} (h : s.Sound) (tag : Nat) :
    ∀ nxt, Machine.execRetryTimeout tag s = .next nxt → nxt.Sound := by
  unfold Machine.execRetryTimeout
  refine State.Sound.event ?_
  try dsimp only
  repeat' (first
    | with_reducible assumption
    | with_reducible apply State.Sound.resend
    | with_reducible apply State.Sound.reqFailed
    | with_reducible apply State.Sound.closeReq
    | with_reducible refine State.Sound.foldl ?_ (fun _ _ _ => ?_)
    | with_reducible refine State.Sound.foldlFst ?_ (fun _ _ _ => ?_)
    | with_reducible refine State.Sound.ite (fun _ => ?_) (fun _ => ?_)
    | split)

theorem execSts {s : State} (h : s.Sound)  :
    ∀ nxt, Machine.execSts s = .next nxt → nxt.Sound := by
  unfold Machine.execSts
  refine State.Sound.onPkt h _ (fun p => ?_)
  try dsimp only
  repeat' (first
    | with_reducible assumption
    | (show eventOp _ = true; rfl)
    | with_reducible exact True.intro
    | with_reducible apply State.Sound.flowLost
    | with_reducible apply State.Sound.takeReply
    | with_reducible refine State.Sound.foldl ?_ (fun _ _ _ => ?_)
    | with_reducible refine State.Sound.foldlFst ?_ (fun _ _ _ => ?_)
    | with_reducible refine State.Sound.ite (fun _ => ?_) (fun _ => ?_)
    | split
    | fail_if_no_progress with_reducible apply State.Sound.upd
    | dsimp only)

theorem execAck {s : State} (h : s.Sound)  :
    ∀ nxt, Machine.execAck s = .next nxt → nxt.Sound := by
  unfold Machine.execAck
  refine State.Sound.onPkt h _ (fun p => ?_)
  try dsimp only
  repeat' (first
    | with_reducible assumption
    | with_reducible apply State.Sound.takeReply)

theorem execRdr {s : State} (h : s.Sound)  :
    ∀ nxt, Machine.execRdr s = .next nxt → nxt.Sound := by
  unfold Machine.execRdr
  refine State.Sound.onPkt h _ (fun p => ?_)
  try dsimp only
  repeat' (first
    | with_reducible assumption
    | with_reducible apply State.Sound.takeReply)

theorem execAtr {s : State} (h : s.Sound)  :
    ∀ nxt, Machine.execAtr s = .next nxt → nxt.Sound := by
  unfold Machine.execAtr
  refine State.Sound.onPkt h _ (fun p => ?_)
  try dsimp only
  repeat' (first
    | with_reducible assumption
    | with_reducible apply State.Sound.takeReply)

theorem execTempRefresh {s : State} (h : s.Sound)  :
    ∀ nxt, Machine.execTempRefresh s = .next nxt → nxt.Sound := by
  unfold Machine.execTempRefresh
  refine State.Sound.event ?_
  try dsimp only
  repeat' (first
    | with_reducible assumption
    | with_reducible refine State.Sound.foldl ?_ (fun _ _ _ => ?_)
    | with_reducible refine State.Sound.foldlFst ?_ (fun _ _ _ => ?_)
    | with_reducible refine State.Sound.ite (fun _ => ?_) (fun _ => ?_)
    | split
    | fail_if_no_progress with_reducible apply State.Sound.upd)

theorem execPowerWindow {s : State} (h : s.Sound) (mw : Nat) :
    ∀ nxt, Machine.execPowerWindow mw s = .next nxt → nxt.Sound := by
  unfold Machine.execPowerWindow
  refine State.Sound.event ?_
  try dsimp only
  repeat' (first
    | with_reducible assumption
    | with_reducible refine State.Sound.foldl ?_ (fun _ _ _ => ?_)
    | with_reducible refine State.Sound.foldlFst ?_ (fun _ _ _ => ?_)
    | with_reducible refine State.Sound.ite (fun _ => ?_) (fun _ => ?_)
    | split
    | fail_if_no_progress with_reducible apply State.Sound.upd)

theorem execWavelengthMove {s : State} (h : s.Sound) (port : Nat) (fibre : Nat) (wave : Nat) :
    ∀ nxt, Machine.execWavelengthMove port fibre wave s = .next nxt → nxt.Sound := by
  unfold Machine.execWavelengthMove
  refine State.Sound.event ?_
  try dsimp only
  repeat' (first
    | with_reducible assumption
    | with_reducible refine State.Sound.foldl ?_ (fun _ _ _ => ?_)
    | with_reducible refine State.Sound.foldlFst ?_ (fun _ _ _ => ?_)
    | with_reducible refine State.Sound.ite (fun _ => ?_) (fun _ => ?_)
    | split
    | fail_if_no_progress with_reducible apply State.Sound.upd)

theorem execPdRefresh {s : State} (h : s.Sound)  :
    ∀ nxt, Machine.execPdRefresh s = .next nxt → nxt.Sound := by
  unfold Machine.execPdRefresh
  refine State.Sound.event ?_
  try dsimp only
  repeat' (first
    | with_reducible assumption
    | with_reducible refine State.Sound.foldl ?_ (fun _ _ _ => ?_)
    | with_reducible refine State.Sound.foldlFst ?_ (fun _ _ _ => ?_)
    | with_reducible refine State.Sound.ite (fun _ => ?_) (fun _ => ?_)
    | split
    | fail_if_no_progress with_reducible apply State.Sound.upd)

theorem execRingRetire {s : State} (h : s.Sound) (port : Nat) (fibre : Nat) (ring : Nat) :
    ∀ nxt, Machine.execRingRetire port fibre ring s = .next nxt → nxt.Sound := by
  unfold Machine.execRingRetire
  refine State.Sound.event ?_
  try dsimp only
  repeat' (first
    | with_reducible assumption
    | with_reducible apply State.Sound.replace
    | with_reducible apply State.Sound.record)

theorem execLaneTestEnd {s : State} (h : s.Sound) (r : HbmAccess) (lane : Nat) (retryOk : Bool) :
    ∀ nxt, Machine.execLaneTestEnd r lane retryOk s = .next nxt → nxt.Sound := by
  unfold Machine.execLaneTestEnd
  refine State.Sound.event ?_
  try dsimp only
  repeat' (first
    | with_reducible assumption
    | with_reducible exact True.intro
    | with_reducible apply State.Sound.setHbmLog
    | with_reducible apply State.Sound.logTransfer
    | with_reducible refine State.Sound.logTransfer_eq ?_ (by with_reducible assumption)
    | with_reducible apply State.Sound.replace
    | with_reducible apply State.Sound.record
    | with_reducible apply State.Sound.memRecord
    | with_reducible apply State.Sound.poisonBlock
    | with_reducible refine State.Sound.foldl ?_ (fun _ _ _ => ?_)
    | with_reducible refine State.Sound.foldlFst ?_ (fun _ _ _ => ?_)
    | with_reducible refine State.Sound.ite (fun _ => ?_) (fun _ => ?_))

theorem execPatrolScrub {s : State} (h : s.Sound) (tgt : ScrubTarget) (find : ScrubFind) :
    ∀ nxt, Machine.execPatrolScrub tgt find s = .next nxt → nxt.Sound := by
  unfold Machine.execPatrolScrub
  refine State.Sound.event ?_
  split
  · exact h
  · exact State.Sound.ite (fun _ => h.memRecord _ _ _ _ _ _) fun _ => h
  · exact State.Sound.ite (fun _ => h.memRecord _ _ _ _ _ _) fun _ => h
  · split
    · exact State.Sound.ite (fun _ => h.record _) fun _ => h
    · exact h
  · exact h
  · refine State.Sound.ite (fun _ => State.Sound.memRecord ?_ _ _ _ _ _ _) fun _ => h
    exact ⟨h.mem, h.desc, rising_mset _ _ _ h.psn, h.descPsn, h.threads, h.inputs, h.agenda⟩
  · refine State.Sound.ite (fun _ => State.Sound.memRecord ?_ _ _ _ _ _ _) fun _ => h
    exact ⟨h.mem, h.desc, h.psn, rising_mset _ _ _ h.descPsn, h.threads, h.inputs, h.agenda⟩
  · split
    · exact State.Sound.ite (fun _ => (h.setThread _).record _) fun _ => h
    · exact h
  · exact h.onRef _ _
  · exact h.onRef _ _
  · exact h.onCrew _ _ _
  · exact h.upd
  · split
    · exact (h.record _).endLaunch _ _ _
    · exact h

theorem execHbmTransferRetry {s : State} (h : s.Sound) (r : HbmAccess) (tries : Nat) (ok : Bool) :
    ∀ nxt, Machine.execHbmTransferRetry r tries ok s = .next nxt → nxt.Sound := by
  unfold Machine.execHbmTransferRetry
  refine State.Sound.event ?_
  try dsimp only
  repeat' (first
    | with_reducible assumption
    | with_reducible exact True.intro
    | with_reducible apply State.Sound.logTransfer
    | with_reducible refine State.Sound.logTransfer_eq ?_ (by with_reducible assumption)
    | with_reducible apply State.Sound.memRecord
    | with_reducible apply State.Sound.setHbmLog
    | with_reducible refine State.Sound.foldl ?_ (fun _ _ _ => ?_)
    | with_reducible refine State.Sound.foldlFst ?_ (fun _ _ _ => ?_)
    | with_reducible refine State.Sound.ite (fun _ => ?_) (fun _ => ?_))

theorem execFibredown {s : State} (h : s.Sound) (port : Nat) (fibre : FibreEnd) :
    ∀ nxt, Machine.execFibredown port fibre s = .next nxt → nxt.Sound := by
  unfold Machine.execFibredown
  refine State.Sound.event ?_
  try dsimp only
  repeat' (first
    | with_reducible assumption
    | (show eventOp _ = true; rfl)
    | with_reducible exact True.intro
    | with_reducible apply State.Sound.setLink
    | with_reducible apply State.Sound.portDown
    | with_reducible apply State.Sound.replace
    | with_reducible apply State.Sound.record
    | with_reducible refine State.Sound.foldl ?_ (fun _ _ _ => ?_)
    | with_reducible refine State.Sound.foldlFst ?_ (fun _ _ _ => ?_)
    | with_reducible refine State.Sound.ite (fun _ => ?_) (fun _ => ?_)
    | split
    | fail_if_no_progress with_reducible apply State.Sound.upd
    | dsimp only)

theorem execHbmRead {s : State} (h : s.Sound) (r : HbmAccess) (sev : Nat) (bit : Nat) (multi : Bool) :
    ∀ nxt, Machine.execHbmRead r sev bit multi s = .next nxt → nxt.Sound := by
  unfold Machine.execHbmRead
  refine State.Sound.event ?_
  try dsimp only
  repeat' (first
    | with_reducible assumption
    | with_reducible exact True.intro
    | with_reducible apply State.Sound.logArray
    | with_reducible refine State.Sound.logArray_eq ?_ (by with_reducible assumption)
    | with_reducible apply State.Sound.memRecord
    | with_reducible apply State.Sound.arrayUe
    | with_reducible refine State.Sound.arrayUe_eq ?_ (by with_reducible assumption)
    | with_reducible apply State.Sound.poisonBlock
    | with_reducible refine State.Sound.foldl ?_ (fun _ _ _ => ?_)
    | with_reducible refine State.Sound.foldlFst ?_ (fun _ _ _ => ?_)
    | with_reducible refine State.Sound.ite (fun _ => ?_) (fun _ => ?_)
    | split)

theorem execRingWrite {s : State} (h : s.Sound) (port : Nat) (fibre : Nat) (ring : Nat) (size : Nat) (hi : Bool) (data : Word) :
    ∀ nxt, Machine.execRingWrite port fibre ring size hi data s = .next nxt → nxt.Sound := by
  unfold Machine.execRingWrite
  refine State.Sound.event ?_
  try dsimp only
  repeat' (first
    | with_reducible assumption
    | with_reducible apply State.Sound.regStore
    | with_reducible refine State.Sound.foldl ?_ (fun _ _ _ => ?_)
    | with_reducible refine State.Sound.foldlFst ?_ (fun _ _ _ => ?_)
    | with_reducible refine State.Sound.ite (fun _ => ?_) (fun _ => ?_))

theorem execUnitRetire {s : State} (h : s.Sound) (stack : Nat) (fe : Nat) (slab : Nat) (isSlab : Bool) :
    ∀ nxt, Machine.execUnitRetire stack fe slab isSlab s = .next nxt → nxt.Sound := by
  unfold Machine.execUnitRetire
  refine State.Sound.event ?_
  try dsimp only
  repeat' (first
    | with_reducible assumption
    | with_reducible apply State.Sound.stopUnit
    | with_reducible apply State.Sound.breakHome
    | with_reducible apply State.Sound.endLaunchesOn
    | with_reducible apply State.Sound.setRetired
    | with_reducible apply State.Sound.replace
    | with_reducible apply State.Sound.record
    | with_reducible refine State.Sound.foldl ?_ (fun _ _ _ => ?_)
    | with_reducible refine State.Sound.foldlFst ?_ (fun _ _ _ => ?_)
    | with_reducible refine State.Sound.ite (fun _ => ?_) (fun _ => ?_)
    | split
    | fail_if_no_progress with_reducible apply State.Sound.upd)

theorem execLinkReplay {s : State} (h : s.Sound) (port : Nat) (nth : Nat) :
    ∀ nxt, Machine.execLinkReplay port nth s = .next nxt → nxt.Sound := by
  unfold Machine.execLinkReplay
  refine State.Sound.event ?_
  try dsimp only
  repeat' (first
    | with_reducible assumption
    | with_reducible apply State.Sound.setLink
    | with_reducible apply State.Sound.retrain
    | with_reducible refine State.Sound.foldl ?_ (fun _ _ _ => ?_)
    | with_reducible refine State.Sound.foldlFst ?_ (fun _ _ _ => ?_)
    | with_reducible refine State.Sound.ite (fun _ => ?_) (fun _ => ?_))

theorem execRetrainEnd {s : State} (h : s.Sound) (port : Nat) (ok : Bool) :
    ∀ nxt, Machine.execRetrainEnd port ok s = .next nxt → nxt.Sound := by
  unfold Machine.execRetrainEnd
  refine State.Sound.event ?_
  try dsimp only
  repeat' (first
    | with_reducible assumption
    | (show eventOp _ = true; rfl)
    | with_reducible exact True.intro
    | with_reducible apply State.Sound.kickUp
    | with_reducible apply State.Sound.setOpt
    | with_reducible apply State.Sound.setLink
    | with_reducible apply State.Sound.retrain
    | with_reducible apply State.Sound.portDown
    | with_reducible refine State.Sound.foldl ?_ (fun _ _ _ => ?_)
    | with_reducible refine State.Sound.foldlFst ?_ (fun _ _ _ => ?_)
    | with_reducible refine State.Sound.ite (fun _ => ?_) (fun _ => ?_)
    | split
    | fail_if_no_progress with_reducible apply State.Sound.upd
    | dsimp only)

end State.Sound
end Sys2Proof.Machine
end

