-- ==== Sys2Proof/Tests/Slice0.lean ====
section
/-! SUPPORT. Tests: ill-formed terms that the checks refuse, words from the encoding tables, single steps whose result the spec gives, and for
each statement states that meet its hypotheses. -/

namespace Sys2Proof.Tests

set_option Elab.async false

open Sys2Proof Sys2Proof.Machine Sys2Proof.Claims

/-! ## Small states -/

/-- One READY thread of launch 1 on unit 0, slot 0. -/
def base : State := State.reset.withFetchWord 32 0
def t0 : Thread := { base.newThread oneLaunch 0 0 0 0 0 0x1000000000000000 0 with eligRound := 0 }
/-- The state in which that thread is `t`, and issues. -/
def on (t : Thread) : State := base.setThread t

theorem issues_on (t : Thread) (h : t.unit = 0 ∧ t.slot = 0) : Issues (on t) t := by
  have := State.thread?_setThread_self base t
  rw [h.1, h.2] at this
  exact this

/-! ## What the statements' hypotheses ask for, met: integer, control and floating point -/

/-- A return-buffer entry still pending for k1. -/
def ent (n : Nat) : RbEntry := { id := n, dests := [.main 1], dead := [], vals := none, remote := false, pc := 0, va := 0, pa := 0 }
/-- Eight entries held. -/
def tFull : Thread := { t0 with rb := (List.range 8).map ent }
/-- `n` resident frames at depth `d`. -/
def tDeep (n d : Nat) : Thread := { t0 with frames := List.replicate n Frame.zero, depth := d }
/-- The state with a word at PC, and the thread as `f` makes it. -/
def atPc (w : Nat) (f : Thread → Thread) : State := (State.reset.withFetchWord 32 w).setThread (f t0)

theorem witness_IntegerRegisterForms : Issues base t0 := by decide
theorem witness_DivisionsAndRootsReturn : (Issues base t0 ∧ t0.rb.length ≠ 8) ∧ Issues (on tFull) tFull ∧ tFull.rb.length = 8 := by decide
theorem witness_BitForms : Issues base t0 ∧ (2 : BitVec 2) ≠ 3 ∧ (63 : BitVec 6).toNat + (0 : BitVec 6).toNat + 1 ≤ 64 := by decide
theorem witness_ImmediateAndMoveForms : Issues base t0 := by decide
theorem witness_ComparesSkip : Issues base t0 ∧ t0.rd (.main 1) = t0.rd (.main 2) ∧ ¬t0.rd (.main 1) ≠ t0.rd (.main 2) ∧
    fcmpHolds 0 (scalarVal true 0) (scalarVal true 0) = true ∧ ¬fcmpHolds 1 (scalarVal true 0) (scalarVal true 0) = true ∧
    FVal.fin false 1 0 ≠ .nan := by decide
theorem witness_BranchesAndLoop : Issues base t0 ∧ t0.rd .k0 = 0 ∧
    (let t := { t0 with skipc := 1 }
     let s := atPc 0x138 fun t => { t with skipc := 1 }
     Issues s t ∧ t.skipc ≠ 0 ∧ s.fetch t = .words (encode (.loop false 0 .k0))) := by decide
theorem witness_CallsAndReturns :
    (Issues (on (tDeep 1 65534)) (tDeep 1 65534) ∧ (tDeep 1 65534).res < 12) ∧
    (let t := { tDeep 12 11 with spilllim := 128 }
     let s := on t
     Issues s t ∧ t.rb = [] ∧ t.res = 12 ∧ t.depth < 65535 ∧ t.spillp.toNat + 128 ≤ t.spilllim.toNat ∧
     t.spillp.toNat + 128 ≤ s.s1Bytes t.ltag ∧ s.frameStall t t.spillp.toNat true = none ∧
     s.s1Addr t.ltag t.unit t.spillp.toNat = some 0xE000000000) ∧
    (let t := tDeep 2 1
     Issues (on t) t ∧ t.rb = [] ∧ 1 < t.res ∧ t.depth ≠ 0 ∧ (t.inrgn = true → t.twin = none)) ∧
    (Issues (on (tDeep 1 65535)) (tDeep 1 65535) ∧ (tDeep 1 65535).res ≠ 12) ∧
    (let t := tDeep 12 11
     let s := on t
     Issues s t ∧ t.depth < 65535 ∧ t.res = 12 ∧ s.frameStall t t.spillp.toNat true = none ∧ t.spilllim.toNat < t.spillp.toNat + 128) ∧
    (t0.inrgn = false ∧ t0.depth = 0) ∧
    (let t := tDeep 1 1
     Issues (on t) t ∧ t.inrgn = false ∧ t.depth ≠ 0 ∧ t.res = 1 ∧ t.spillp.toNat < 128) := by decide
/-- One resident frame of a thread at depth 1, whose caller's frame is in the spill area. -/
def tFill : Thread := { tDeep 1 1 with spillp := 128 }
theorem witness_CallsAndReturns_fill :
    (let t := tFill
     let s := on t
     Issues s t ∧ t.rb = [] ∧ t.res = 1 ∧ t.depth ≠ 0 ∧ t.inrgn = false ∧ 128 ≤ t.spillp.toNat ∧ t.spillp.toNat ≤ s.s1Bytes t.ltag ∧
     s.frameStall t (t.spillp.toNat - 128) false = none ∧ s.s1Addr t.ltag t.unit (t.spillp.toNat - 128) = some 0xE000000000) ∧
    (let t := { tDeep 12 11 with spillp := 4096, spilllim := 0x1FFF80 }
     Issues (on t) t ∧ t.res = 12 ∧ t.spillp.toNat + 128 ≤ t.spilllim.toNat ∧ (on t).s1Bytes t.ltag < t.spillp.toNat + 128) ∧
    (let t := { tDeep 1 1 with spillp := 4224 }
     t.inrgn = false ∧ t.depth ≠ 0 ∧ t.res = 1 ∧ (on t).s1Bytes t.ltag < t.spillp.toNat) := by decide
theorem witness_IllTraps : majOf 0xFFFFFFFF = 0x7F ∧ majOf 0x3F8 = 0x7F ∧
    (let t := { t0 with skipc := 1 }
     let s := atPc 0xFFFFFFFF fun t => { t with skipc := 1 }
     s.fetchWord t 0 = .got 0xFFFFFFFF none ∧ Issues s t ∧ t.skipc ≠ 0) := by decide
theorem witness_FloatForms : Issues base t0 ∧ scalarVal false 0x7FC00000 = .nan ∧ scalarVal true 0x7FF8000000000000 = .nan ∧
    scalarVal true 0xFFF0000000000000 = .inf true := by decide
theorem witness_FloatClassMask : Issues base t0 ∧ majOf 0x1C8 = 0x39 ∧ (0x1C8 : W32).extractLsb' 0 2 = 0 ∧
    (0x1C8 : W32).extractLsb' 24 7 = 0 ∧ operand? ((0x1C8 : W32).extractLsb' 10 7) = some .k0 ∧
    operand? ((0x1C8 : W32).extractLsb' 17 7) = some .k0 ∧
    majOf 0x010001C8 = 0x39 ∧ (0x010001C8 : W32).extractLsb' 0 2 = 0 ∧ (0x010001C8 : W32).extractLsb' 24 7 ≠ 0 := by decide

/-! ## Switch points, traps, special registers, thread control -/

/-- One buffered result for k1, returned. -/
def tDone (p : Option Poison) : Thread := { t0 with rb := [{ ent 0 with vals := some [⟨5, p⟩] }] }
def tVec : Thread := { t0 with trapvec := 0x1000000000000100 }
def r0 : ThreadRef := t0.ref

theorem witness_SwitchPointsCommit : tFull.complete = false ∧
    (let t := tDone none
     t.complete = true ∧ t.after = .go ∧ t.mirrFail = none) ∧
    (let t := { tDone none with st := .parked .switch }
     (on t).ref? r0 = some t ∧ t.st = .parked .switch) := by decide
theorem witness_SwitchPointsCommit_values : ∀ e ∈ (tDone none).rb, ∀ vs, e.vals = some vs → ∀ v ∈ vs, v.psn = none := by
  intro e he vs h v hv
  simp only [tDone, List.mem_singleton] at he
  subst he
  simp at h
  subst h
  simp only [List.mem_singleton] at hv
  subst hv
  rfl
theorem witness_ResultsReturn :
    (base.ref? r0 = some t0 ∧ t0.st ≠ .halted ∧ base.sallocOf r0 0 = none ∧
     ((base.unit r0.unit).mstats.find? fun m => m.1 == r0 && m.2.1 == 0) = none ∧ t0.fpq = [] ∧ t0.twin = none) ∧
    (let t := { tDone (some ⟨0x041, 0⟩) with inrgn := true, restarts := 2 }
     t.complete = true ∧ t.inrgn = true ∧ t.parity (.special 0x0F) = none ∧ t.parity (.special 0x10) = none ∧ t.restarts < 3 ∧
     t.depth = t.rgnwd.toNat ∧ 0 < t.res) ∧
    (tDone (some ⟨0x041, 0⟩)).inrgn = false ∧ Operand.main 1 ≠ .k0 := by decide
theorem witness_TrapsAreTaken : t0.trapvec = 0 ∧ (tVec.trapvec ≠ 0 ∧ tVec.res < 12 ∧ tVec.depth < 65535) ∧
    (let t := { tVec with frames := List.replicate 12 Frame.zero, depth := 11 }
     t.trapvec ≠ 0 ∧ t.res = 12 ∧ t.depth < 65535 ∧ t.spillp.toNat + 128 ≤ (on t).s1Bytes t.ltag ∧
     (on t).frameStall t t.spillp.toNat true = none) ∧
    (let t := { tVec with depth := 65535 }
     t.trapvec ≠ 0 ∧ t.depth = 65535) ∧
    (let t := { tVec with frames := List.replicate 12 Frame.zero, depth := 11, spillp := 4096 }
     t.trapvec ≠ 0 ∧ t.res = 12 ∧ (on t).s1Bytes t.ltag < t.spillp.toNat + 128) ∧
    tFull.complete = false ∧ State.entryPsn tVec = none ∧ tVec.parity (.special 0x0A) = none ∧
    (Issues (on tVec) tVec ∧ tVec.rb = [] ∧ tVec.out = [] ∧ tVec.flushing = [] ∧ tVec.mirrFail = none) := by decide
theorem witness_EretAnnulmentAndAsyncTraps :
    (Issues (on (tDeep 2 1)) (tDeep 2 1) ∧ (tDeep 2 1).rb = [] ∧ 1 < (tDeep 2 1).res ∧ (tDeep 2 1).depth ≠ 0) ∧
    (let t := { t0 with skipc := 3 }
     let s := atPc 4 fun t => { t with skipc := 3 }
     Issues s t ∧ t.skipc ≠ 0 ∧ s.fetch t = .words [4] ∧ (4 : W32).getLsbD 2 = true) ∧
    (let t := { t0 with async := [(3, 1), (2, 7)] }
     Issues (on t) t ∧ t.async ≠ []) := by decide
theorem witness_EretAnnulmentAndAsyncTraps_fill :
    Issues (on tFill) tFill ∧ tFill.rb = [] ∧ tFill.res = 1 ∧ tFill.depth ≠ 0 ∧ 128 ≤ tFill.spillp.toNat ∧
    tFill.spillp.toNat ≤ (on tFill).s1Bytes tFill.ltag ∧ (on tFill).frameStall tFill (tFill.spillp.toNat - 128) false = none ∧
    (on tFill).s1Addr tFill.ltag tFill.unit (tFill.spillp.toNat - 128) = some 0xE000000000 := by decide
theorem witness_SpecialRegisters : (Issues base t0 ∧ t0.svc = false) ∧
    (let t := { t0 with svc := true, semerrAt := (5, 0) }
     let s := on t
     Issues s t ∧ t.svc = true ∧ t.semerrAt.1 ≠ s.now ∧ bits (t.rd (.main 0)) 0 16 = 0) ∧
    (let t := { t0 with svc := true, k := vset t0.k 1 256 }
     Issues (on t) t ∧ t.svc = true ∧ bits (t.rd (.main 1)) 0 9 ≠ 0 ∧ bits (t.rd (.main 1)) 0 9 ≤ 256 ∧ bits (t.rd (.main 1)) 0 16 ≠ 0) ∧
    (0x14 ≤ (0x17 : BitVec 7).toNat ∧ (0x17 : BitVec 7).toNat ≤ 0x17) ∧ (0x20 ≤ (0x7F : BitVec 7).toNat ∧ 0x41 < (0x7F : BitVec 7).toNat) := by
  decide
theorem witness_SetpriSetsBase : Issues base t0 ∧ (t0.rd .k0 + (7 : BitVec 8).setWidth 64).toNat ≤ 7 ∧
    7 < (t0.rd .k0 + (8 : BitVec 8).setWidth 64).toNat ∧ t0.yielded = false ∧ ({ t0 with yielded := true } : Thread).yielded = true := by decide

/-! ## Memory -/

/-- A range entry over the low 4 KiB of region 0 that maps to device `dev`, all rights, no restriction on its writer. -/
def rng (dev : Nat) : RangeEnt :=
  { base := 0, limit := 4096, offset := wd (dev * 2 ^ 40), anyw := true, writer := 0, mirdev := 0, reduce := false, mirror := false,
    prof := false, a := true, x := true, w := true, rd := true }
/-- The state of `t` in a launch with these range entries. -/
def inLaunch (l : Launch) (t : Thread) : State :=
  { on t with disp := { base.disp with launches := [(1, l)] } }
def withRange (e : RangeEnt) (t : Thread) : State := inLaunch { oneLaunch with ranges := [e] } t
/-- A plain access outstanding, not yet accepted. -/
def tOut : Thread := { t0 with out := [{ id := 0, plain := true, store := true, block := 0 }] }
/-- k1 holds `v`. -/
def tK1 (v : Word) : Thread := { t0 with k := vset t0.k 1 v }
/-- Offset `n` of S1 segment 0. -/
def s1At (n : Nat) : Word := wd (2 ^ 60 + n)

theorem witness_ThreadControl : Issues base t0 ∧ t0.rb = [] ∧ t0.det = false ∧ ({ t0 with det := true } : Thread).det = true ∧
    (t0.out = [] ∧ t0.flushing = [] ∧ t0.mirrFail = none ∧ t0.twin = none) ∧
    base.present (t0.unit ^^^ 1) = false ∧ (Issues (on tOut) tOut ∧ tOut.out ≠ []) ∧
    (let s := { base with lat := { base.lat with units := base.lat.units ++ [{ unit := 1, fe := 1, slab := 1, ganged := false }] } }
     Issues s t0 ∧ s.present 1 = true ∧ s.freeSlots 1 ≠ 0 ∧ s.crewFull 1 = false ∧ s.freeSlot? 1 = some 0 ∧
     ({ s with units := [(1, { UnitSt.reset with slotMax := 0 })] } : State).crewFull 1 = true ∧ t0.svc = false ∧
     (let t := { t0 with twin := some { unit := 1, slot := 0, fp := 0 } }
      Issues (s.setThread t) t ∧ t.twin = some { unit := 1, slot := 0, fp := 0 } ∧ (1 : Nat) ≠ t.unit)) := by decide
theorem witness_ServiceRequests : Issues base t0 ∧ (3 : BitVec 8) = 3 ∧ (1 : BitVec 8) ≠ 3 ∧
    (let t := { t0 with rb := [{ ent 0 with dests := [.main 8] }], st := .parked .switch }
     (on t).ref? r0 = some t ∧ t.out = [] ∧ t.flushing = []) ∧
    base.launch? t0.ltag = some oneLaunch ∧
    (oneLaunch.ranges.find? fun e => e.base ≤ (t0.rd .k0).toNat && (t0.rd .k0).toNat < e.limit) = none ∧
    (let l := { oneLaunch with ranges := [{ rng 0 with anyw := false, writer := writerId oneLaunch t0 }], det := true }
     let s := inLaunch l t0
     Issues s t0 ∧ s.launch? t0.ltag = some l ∧ l.det = true ∧
     (l.ranges.find? fun e => e.base ≤ (t0.rd .k0).toNat && (t0.rd .k0).toNat < e.limit) =
       some { rng 0 with anyw := false, writer := writerId oneLaunch t0 } ∧
     writerId oneLaunch t0 = writerId l t0 ∧ (t0.rd .k0).toNat < 2 ^ 20 ∧ t0.out = []) ∧
    (let t := { t0 with st := .parked (.event false) }
     (on t).ref? r0 = some t) := by decide
theorem witness_AddressChecks :
    (let va := s1At 4088
     bits va 60 4 = 1 ∧ bits va 26 34 = 0 ∧ base.seg? t0.ltag t0.unit 1 (bits va 22 4) = some { num := 0, len := 4096, granules := [0] } ∧
     bits va 0 22 + 8 ≤ 4096 ∧ va.toNat % 8 = 0 ∧ t0.det = false) ∧
    ((s1At 1).toNat % 8 ≠ 0 ∧ bits (s1At 1) 60 4 ≤ 3) ∧
    (base.seg? t0.ltag t0.unit 1 (bits (s1At 4096) 22 4) = some { num := 0, len := 4096, granules := [0] } ∧ 4096 < bits (s1At 4096) 0 22 + 8) ∧
    (bits (s1At (2 ^ 22)) 60 4 = 1 ∧ base.seg? t0.ltag t0.unit 1 (bits (s1At (2 ^ 22)) 22 4) = none) ∧
    bits 0x5000000000000000 60 4 = 5 ∧ bits 0xE000000000000000 60 4 = 14 ∧
    (bits 0x4000000000000000 60 4 = 4 ∧ bits 0x4000000000000000 40 20 = 0 ∧ base.space (bits 0x4000000000000000 0 40) ≠ .hole ∧
     base.space (bits 0x4000000000000000 0 40) ≠ .regs ∧ t0.svc = false ∧
     base.space (bits 0x400000F000000000 0 40) = .regs ∧ regListed (bits 0x400000F000000000 0 40 - 0xF000000000) = true) ∧
    (let e := { rng 5 with rd := false, w := false, a := false }
     (withRange e t0).launch? t0.ltag = some { oneLaunch with ranges := [e] } ∧ bits 4088 57 7 = 0 ∧ (4088 : Word).toNat % 8 = 0 ∧
     (([e] : List RangeEnt).find? fun e => e.base ≤ (4088 : Word).toNat && (4088 : Word).toNat < e.limit) = some e) ∧
    ((rng 5).rd = true ∧ ((4088 : Word) + (rng 5).offset).toNat / 2 ^ 40 ≠ (withRange (rng 5) t0).devid) ∧
    (({ t0 with det := true } : Thread).det = true ∧ ({ rng 0 with anyw := false, writer := 7 } : RangeEnt).writer ≠ writerId oneLaunch t0) := by
  decide
theorem witness_LocalAccessesLeave : (Issues (on tFull) tFull ∧ tFull.rb.length = 8) ∧
    (let t := tK1 (s1At 8)
     let s := on t
     Issues s t ∧ t.rb.length ≠ 8 ∧ s.check t .load 8 false (t.rd (.main 1)) = .ok (.here 0xE000000008) none ∧
     s.stall t (.here 0xE000000008) 8 false false false = none ∧ s.check t .store 8 false (t.rd (.main 1)) = .ok (.here 0xE000000008) none ∧
     s.stall t (.here 0xE000000008) 8 true false false = none ∧
     s.check t .load 8 false (t.rd .k0 + 1) = .bad (infoVa 3 1 false 0) 1) ∧
    (let t := { tK1 (s1At 8) with out := tOut.out }
     let s := on t
     s.check t .load 8 false (t.rd (.main 1)) = .ok (.here 0xE000000008) none ∧ s.plainOut t = true) ∧
    (let e := { rng 0 with mirror := true, mirdev := 5 }
     let t := { t0 with out := [{ id := 0, plain := false, store := false, block := 99 }] }
     let s := { withRange e t with pkg := { base.pkg with hbm := 1 } }
     Issues s t ∧ s.check t .store 8 true 0 = .ok (.here 0) (some e) ∧ s.stall t (.here 0) 8 true true false = none ∧ (mirrorTo (some e)).isSome) := by
  decide
theorem witness_AtomicsLeave :
    let t := tK1 (s1At 8)
    let s := on t
    Issues s t ∧ t.rb.length ≠ 8 ∧ s.check t (.atomic true false) 8 false (t.rd (.main 1)) = .ok (.here 0xE000000008) none ∧
    s.check t (.atomic false true) 4 false (t.rd (.main 1)) = .ok (.here 0xE000000008) none ∧
    s.stall t (.here 0xE000000008) 8 true false false = none := by decide

/-- The base state is sound. -/
theorem base_sound : base.Sound := by constructor <;> decide
/-- A store of eight bytes of `t0` on its way to S1. -/
def acc0 : Access := accessOf base t0 .st 8 (s1At 8) false 0x0123456789ABCDEF 0 none 0xE000000008 none

theorem witness_BankPerformsAccess : base.Sound ∧ acc0.size = 8 ∧
    (base.busy.contains (base.bankOf acc0.pa) = false ∧ base.engTurn (base.bankOf acc0.pa) = false ∧ base.hbmWaits acc0.pa = false) ∧
    base.space acc0.pa ≠ .regs ∧ base.space acc0.pa ≠ .hbm ∧
    ({ base with busy := [base.bankOf acc0.pa] } : State).busy.contains (base.bankOf acc0.pa) = true ∧ base.psnAt acc0.pa = none ∧
    (let s := { base with now := 1, engWaits := [(base.bankOf acc0.pa, 0)], streak := [(base.bankOf acc0.pa, 3)] }
     s.engTurn (s.bankOf acc0.pa) = true) ∧ base.hbmWaits 0 = true ∧
    ({ base with psn := [(0x1C00000001, ⟨0x041, 0⟩)] }.psnAt 0xE000000008 = some ⟨0x041, 0⟩ ∧ 2 ^ 39 ≤ 0xE000000008) ∧
    (let t := tDeep 2 1
     (on t).ref? ({ acc0 with t := t.ref, kind := .fill true, size := 64 } : Access).t = some t ∧ (List.replicate 8 (⟨5, none⟩ : Val)).length = 8) :=
  ⟨base_sound, by decide⟩
theorem witness_RemoteAccesses :
    let s := withRange (rng 5) t0
    Issues s t0 ∧ t0.twin = none ∧ s.plainOut t0 = false ∧ t0.rb.length ≠ 8 ∧ t0.unflushed 5 = [] ∧
    (s.check t0 .store 8 false (t0.rd .k0 + (1 : BitVec 4).signExtend 64 * 8) = .ok (.there 5 8) (some (rng 5)) ∧
     s.check t0 .stq 8 false (t0.rd .k0 + 8) = .ok (.there 5 8) (some (rng 5)) ∧ s.stall t0 (.there 5 8) 8 true false false = none) ∧
    (s.check t0 .stbd 2 false (t0.rd .k0 + 64) = .ok (.there 5 64) (some (rng 5)) ∧ s.stall t0 (.there 5 64) 2 true false false = none) ∧
    (s.check t0 .load 8 false (t0.rd .k0 + (1 : BitVec 4).signExtend 64 * 8) = .ok (.there 5 8) (some (rng 5)) ∧
     s.stall t0 (.there 5 8) 8 false false false = none) ∧
    (s.check t0 .ldbd 2 false (t0.rd .k0 + 64) = .ok (.there 5 64) (some (rng 5)) ∧ s.stall t0 (.there 5 64) 2 false false true = none) := by decide
/-- The flow of `t0` to device 5, with a posted access on it that is not flushed. -/
def flow5 : Flow := ⟨0, 0, 0, 5⟩
def tPosted : Thread := { t0 with posted := [flow5] }
/-- A range on device 5 in which additions may combine. -/
def winLaunch : Launch := { oneLaunch with ranges := [{ rng 5 with reduce := true }], windows := [(0, 4096)] }
theorem witness_RemoteAccesses_atomics :
    (let s := withRange (rng 5) t0
     (∀ ret, s.check t0 (.atomic ret false) 8 false (t0.rd .k0) = .ok (.there 5 0) (some (rng 5))) ∧
     (∀ ret, s.check t0 (.atomic ret false) 4 false (t0.rd .k0) = .ok (.there 5 0) (some (rng 5))) ∧
     s.stall t0 (.there 5 0) 8 true false false = none ∧ s.stall t0 (.there 5 0) 4 true false false = none ∧
     (s.inWindow t0 (t0.rd .k0) && true) = false) ∧
    (let s := inLaunch winLaunch t0
     (∀ fadd, s.check t0 (.atomic false fadd) 8 false (t0.rd .k0) = .ok (.there 5 0) (some { rng 5 with reduce := true })) ∧
     s.inWindow t0 (t0.rd .k0) = true) ∧
    (let s := withRange (rng 5) tPosted
     Issues s tPosted ∧ tPosted.unflushed 5 = [flow5] ∧ s.check tPosted .load 8 false 8 = .ok (.there 5 8) (some (rng 5)) ∧
     s.stall tPosted (.there 5 8) 8 false false false = none ∧ s.plainOut tPosted = false) ∧
    (let t := { t0 with twin := some { unit := 1, slot := 0, fp := 0 } }
     let s := withRange (rng 5) t
     Issues s t ∧ t.twin ≠ none ∧ t.exchanged = false ∧ ({ t with exchanged := true } : Thread).exchanged = true ∧
     s.check t .store 8 false 8 = .ok (.there 5 8) (some (rng 5)) ∧ s.stall t (.there 5 8) 8 true false false = none ∧
     (∀ ret, s.check t (.atomic ret false) 8 false 0 = .ok (.there 5 0) (some (rng 5)))) := by decide
theorem witness_FencesFlushesAndScratch : (Issues (on tOut) tOut ∧ tOut.out ≠ []) ∧
    (Issues base t0 ∧ t0.out = [] ∧ t0.posted = [] ∧ t0.winAck = [] ∧ t0.mirrors = []) ∧
    (let t := { t0 with posted := [flow5], mirrors := [flow5], k := vset t0.k 1 5 }
     let s := on t
     Issues s t ∧ t.out = [] ∧ t.posted = [flow5] ∧ (t.rd (.main 1)).toNat < 2 ^ 12 ∧ (t.winAck.any fun w => w.2 == bits (t.rd (.main 1)) 0 12) = false ∧
     t.postedOn (bits (t.rd (.main 1)) 0 12) = [flow5] ∧ bits (t.rd (.main 1)) 0 12 ≠ s.devid ∧ t.mirrors = [flow5] ∧
     ((({ t with winAck := [(3, 5)] } : Thread).winAck.any fun w => w.2 == 5) = true) ∧ t0.postedOn 5 = []) ∧
    2 ^ 12 ≤ ((tK1 4096).rd (.main 1)).toNat ∧ base.disp.sallocs = [] ∧
    (base.grant t0 1 ((tK1 4096).rd (.main 1)).toNat = some { num := 1, len := 4096, granules := [1] } ∧ t0.rb.length ≠ 8 ∧
     base.grant t0 1 (t0.rd .k0).toNat = none) ∧
    ((State.segOf (s1At 0).toNat).2 = 0 ∧ (State.segOf (t0.rd .k0).toNat).1 = 0) ∧
    (let g : Seg := { num := 1, len := 4096, granules := [1] }
     let t := { tK1 (s1At (2 ^ 22)) with st := .parked (.segment (s1At (2 ^ 22)).toNat false) }
     let s := { on t with disp := { base.disp with crews := [{ oneCrew with s1 := oneCrew.s1 ++ [g] }] } }
     Issues s t ∧ State.segOf (t.rd (.main 1)).toNat = (1, 1) ∧ t.rd (.main 1) = State.segVa 1 1 ∧
     s.seg? t.ltag t.unit 1 1 = some g ∧ t.out = [] ∧ s.segIdle t.unit 1 g = true ∧ s.ref? r0 = some t ∧
     t.st = .parked (.segment (t.rd (.main 1)).toNat false)) := by decide +kernel
/-- The SALLOC of 4 KiB of S1 of `t`, at work or waiting. -/
def salloc1 (t : Thread) (id : Nat) : SallocReq := { t := t.ref, id := id, lvl := 1, inst := State.inst 1 t.unit, len := 4096 }
theorem witness_FencesFlushesAndScratch_allocator :
    let t := tK1 4096
    let p := salloc1 t (t.nextId + 1)
    let q := salloc1 t t.nextId
    let s := { on t with disp := { base.disp with sallocs := [p, q] } }
    Issues s t ∧ (s.disp.sallocs.any fun x => x.lvl == 1 && x.inst == State.inst 1 t.unit) = true ∧ t.rb.length ≠ 8 ∧
    s.ref? p.t = some t ∧ t.st ≠ .halted ∧ p.t = r0 ∧ p ≠ q ∧ p.lvl = q.lvl ∧ p.inst = q.inst ∧ s.ref? q.t = some t ∧
    ((s.unit r0.unit).mstats.find? fun m => m.1 == r0 && m.2.1 == p.id) = none ∧
    s.grant t 1 (t.rd (.main 1)).toNat = some { num := 1, len := 4096, granules := [1] } := by decide +kernel

/-! ## Messages, threads and synchronisation -/

/-- The state of `t` with its crew as `c`. -/
def inCrew (c : Crew) (t : Thread) : State := { on t with disp := { base.disp with crews := [c] } }
/-- A port of four slots at S1 offset 0, with `n` messages. -/
def port0 (n : Nat) : Port :=
  { en := true, pol := false, closed := false, depth := 4, base := 0, slo := 0, ns := 0, q := 0, head := 0, tail := n % 4, count := n,
    det := [], accepted := [], batch := 0, psn := none }
def crewOf (p : Port) : Crew := { oneCrew with ports := [(0, p)] }
/-- A message of one dword from another launch to that port. -/
def msg0 : AppendReq :=
  { ltag := 1, unit := 0, port := 0, msg := [⟨7, none⟩], senderDev := 9, senderLtag := 2, senderWid := 3, senderUnit := 0,
    reply := some ⟨r0, 1, 2⟩, replyPkt := none }

theorem witness_AppendsReachTheirPort :
    (let h := (tK1 (2 ^ 31)).rd (.main 1)
     Issues (on (tK1 (2 ^ 31))) (tK1 (2 ^ 31)) ∧ bits h 60 4 = 0 ∧ bits h 14 17 = 0 ∧ h.getLsbD 6 = false ∧ t0.out = [] ∧ t0.det = false ∧
     h.getLsbD 31 = true ∧ base.present (bits h 7 7) = true) ∧
    (bits (2 ^ 31 + 2 ^ 7) 7 7 = 1 ∧ base.present 1 = false) ∧
    (bits (2 ^ 60) 60 4 ≠ 0 ∧ bits (2 ^ 60) 60 4 ≠ 15) ∧ bits (2 ^ 14) 14 17 ≠ 0 ∧ bits (2 ^ 30) 14 17 ≠ 0 ∧ (2 ^ 6 : Word).getLsbD 6 = true ∧
    (let h : Word := 5 * 2 ^ 32
     bits h 60 4 = 0 ∧ bits h 14 17 = 0 ∧ h.getLsbD 6 = false ∧ ¬(h.getLsbD 31 = true ∨ bits h 32 12 = base.devid)) ∧
    (let t := tK1 0xF0000000000101C0
     t.rd (.main 1) = 0xF000000000010000 + wd (64 * (7 : Fin 8).val) ∧ (base.lport 7).queue.length < 64 ∧ t0.psnOf (.main 2) = none) ∧
    (let c := crewOf (port0 3)
     let s := inCrew c t0
     s.crew? 1 0 = some c ∧ c.ltag = 1 ∧ c.unit = 0 ∧ s.isDet 1 = false ∧ msg0.reply = some ⟨r0, 1, 2⟩ ∧ msg0.replyPkt = none ∧
     msg0.senderLtag ≠ 1 ∧ s.busy.contains (State.juKey 0) = false ∧ c.closed = false ∧ (c.port 0).closed = false ∧ (c.port 0).en = true ∧
     (c.port 0).count ≠ (c.port 0).depth ∧ s.s1Addr 1 0 ((c.port 0).slotOff (c.port 0).tail) = some 0xE0000000C0 ∧
     s.s1Addr 1 0 ((c.port 0).hdrOff (c.port 0).tail) = some 0xE000000118) ∧
    ((crewOf (port0 4)).port 0).count = ((crewOf (port0 4)).port 0).depth ∧
    ((crewOf { port0 0 with en := false }).port 0).en = false ∧ ({ oneCrew with closed := true } : Crew).closed = true ∧
    ({ base with busy := [State.juKey 0] } : State).busy.contains (State.juKey 0) = true := by decide
theorem witness_AppendsReachTheirPort_sound : (inCrew (crewOf (port0 3)) t0).Sound := by constructor <;> decide
theorem witness_AppendsReachTheirPort_waits :
    (let s := inCrew (crewOf (port0 3)) t0
     let u := s.sched 1 1 (.bankAccept { acc0 with pa := 0xE0000000C0 })
     s.appendExt msg0 = [(0xE0000000C0, 64), (0xE000000118, 8)] ∧ s.waitsOn (s.appendExt msg0) = false ∧
     ((s.appendExt msg0).any fun x => !s.bankFree x.1) = false ∧ u.waitsOn (u.appendExt msg0) = true ∧
     (let v := { s with busy := [s.bankOf 0xE0000000C0] }
      ((v.appendExt msg0).any fun x => !v.bankFree x.1) = true)) ∧
    (let s := base.setPort 7 { LPort.reset with queue := List.replicate 64 ⟨Vector.replicate 8 0, true⟩ }
     64 ≤ (s.lport 7).queue.length) := by decide +kernel
theorem witness_SpawnsCreateThreads :
    (Issues base t0 ∧ base.launch? t0.ltag = some oneLaunch ∧ base.crew? t0.ltag t0.unit = some oneCrew ∧ oneCrew.unit = t0.unit ∧
     (4 : BitVec 3).toNat ≤ 4 ∧ (0x1000000000000100 : Word).toNat % 4 = 0 ∧ t0.out = [] ∧ base.noRoom t0.ltag t0.unit t0.svc = false ∧
     ¬((true = true) ∧ (base.byTid t0.ltag t0.unit (5 : BitVec 8).toNat).isSome) ∧ base.freeSlot? t0.unit = some 1) ∧
    ((0x1000000000000102 : Word).toNat % 4 ≠ 0) ∧ (Issues (on tOut) tOut ∧ tOut.out ≠ []) ∧
    (base.byTid t0.ltag t0.unit (0 : BitVec 8).toNat).isSome ∧
    (let s := inLaunch { oneLaunch with quota := 1 } t0
     Issues s t0 ∧ s.noRoom t0.ltag t0.unit t0.svc = true) ∧
    (bits (2 ^ 31) 60 4 = 0 ∧ bits (2 ^ 31) 14 17 = 0 ∧ bits (2 ^ 31) 0 7 = 0 ∧ (2 ^ 31 : Word).getLsbD 31 = true ∧
     base.present (bits (2 ^ 31) 7 7) = true ∧ bits (2 ^ 31 + 1) 0 7 ≠ 0) ∧
    (bits (5 * 2 ^ 32) 60 4 = 0 ∧ bits (5 * 2 ^ 32) 14 17 = 0 ∧ bits (5 * 2 ^ 32) 0 7 = 0 ∧ (5 * 2 ^ 32 : Word).getLsbD 31 = false ∧
     bits (5 * 2 ^ 32) 32 12 ≠ base.devid) ∧
    (let l := { oneLaunch with ranges := [rng 0] }
     let s := withRange (rng 0) t0
     s.busy.contains (State.juKey 0) = false ∧ s.crew? 1 0 = some oneCrew ∧ s.launch? 1 = some l ∧ l.ltag = 1 ∧ s.freeSlot? 0 = some 1 ∧
     (l.ranges.any fun e => e.x && e.base ≤ (4092 : Word).toNat && (4092 : Word).toNat < e.limit) = true ∧ oneCrew.closed = false ∧
     s.noRoom 1 0 l.svc = false ∧
     (l.ranges.any fun e => e.x && e.base ≤ (4096 : Word).toNat && (4096 : Word).toNat < e.limit) = false) := by decide +kernel
theorem witness_SemaphoresAndPosts :
    (let t := { t0 with sems := vset t0.sems 2 65535 }
     Issues (on t) t ∧ (t.rd .k0 + (255 : BitVec 8).setWidth 64).toNat ≤ (vget t.sems 2).toNat ∧ t.recent = [] ∧ t.out = []) ∧
    65535 < ((tK1 65536).rd (.main 1)).toNat ∧
    (Issues base t0 ∧ (t0.rd .k0 + (1 : BitVec 8).setWidth 64).toNat ≤ 65535 ∧
     (vget t0.sems 2).toNat < (t0.rd .k0 + (1 : BitVec 8).setWidth 64).toNat) ∧
    255 < ((tK1 256).rd (.main 1)).toNat ∧ (1 : BitVec 16) ≠ 0 ∧ base.byTid t0.ltag t0.unit 0 = some t0 ∧
    base.byTid t0.ltag t0.unit 255 = none ∧
    (base.ref? r0 = some t0 ∧ (vget t0.sems 2).toNat + 65535 ≤ 65535 ∧ 65535 < (vget t0.sems 2).toNat + 65536 ∧ (3 : Nat) < 16 ∧ t0.eng = 0) ∧
    (let t := { t0 with eng := 2, st := .parked (.sem 2 0) }
     (on t).ref? r0 = some t ∧ t.eng ≠ 0 ∧ t.async = [] ∧ 0 ≤ (vget t.sems 2).toNat ∧ t.engAt ≠ (on t).now + 1) ∧
    (let t := { t0 with eng := 2, esem := 5, engAt := 1 }
     (on t).ref? r0 = some t ∧ t.eng ≠ 0 ∧ t.engAt = (on t).now + 1 ∧ (4 : BitVec 3).toNat < t.esem.toNat ∧ ¬(6 : BitVec 3).toNat < t.esem.toNat) ∧
    (let src := 16 + 256 * 0 + 0
     16 ≤ src ∧ src < 2 ^ 20 ∧ base.thread? ((src - 16) / 256) ((src - 16) % 256) = some t0 ∧ (65536 : Nat) ≠ 0) := by decide +kernel

/-- A barrier of two arrivals at S1 offset 16. -/
def bar0 : Barrier := { level := 1, home := 0, pa := 0xE000000010, va := s1At 16, ltag := 1, need := 2, arr := 1, gen := 7, waiters := [(r0, 1, none)] }
theorem witness_Barriers :
    (Issues (on (tK1 (s1At 8))) (tK1 (s1At 8)) ∧ (on (tK1 (s1At 8))).barrierAddr (tK1 (s1At 8)) ((tK1 (s1At 8)).rd (.main 1)) = none) ∧
    (let t := tK1 (s1At 16)
     let s := on t
     Issues s t ∧ s.barrierAddr t (t.rd (.main 1)) = some 0xE000000010 ∧ t.rb.length ≠ 8 ∧ t.out = [] ∧ s.barrier? 0xE000000010 = none ∧
     s.ref? r0 = some t) ∧
    ((t0.rd .k0).toNat = 0 ∧ 65535 < ((tK1 65536).rd (.main 1)).toNat ∧ ((tK1 65535).rd (.main 1)).toNat ≤ 65535) ∧
    (let s := { base with barriers := [bar0] }
     s.barrier? 0xE000000010 = some bar0 ∧ bar0.need ≤ bar0.arr + 1 ∧ bar0.arr ≠ 0 ∧ { bar0 with need := 3 }.arr + 1 < 3) ∧
    (let s := { base with barriers := (List.range 64).map fun i => { bar0 with pa := 0xE000001000 + 16 * i } }
     s.barrier? 0xE000000010 = none ∧
     (barrierRoom 1).1 ≤ (s.barriers.filter fun x => x.level == 1 && x.home == State.inst 1 0).length) := by decide +kernel
theorem witness_Barriers_touched :
    let s := { base with barriers := [bar0] }
    bar0 ∈ s.barriers ∧ bar0.arr ≠ 0 ∧ meets bar0.pa 16 0xE000000018 8 = true := by decide
/-- A pattern on port 0: a handler, or a wake of semaphore 0 of the thread with TID 0 and a frame ring at S1 offset 0. -/
def pat0 : Pat := { d0 := 2 ^ 63, hpc := 0x1000000000000100, d2 := 0, fires := 0, pend := 0, ring := 0, epoch := 0 }
def patW : Pat := { d0 := 2 ^ 63 + 2 ^ 62, hpc := 0, d2 := 0, fires := 0, pend := 0, ring := 0, epoch := 0 }
/-- The launch with four S1 granules, as patterns ask. -/
def bigCrew (p : Port) (pats : Map Pat) : Crew :=
  { crewOf p with pats := pats, s1 := [{ num := 0, len := 16384, granules := [0, 1, 2, 3] }] }
def inBig (c : Crew) (t : Thread) : State :=
  { on t with disp := { base.disp with launches := [(1, { oneLaunch with s1sz := 4 })], crews := [c] } }
theorem witness_PortsAndPatterns :
    (let c := bigCrew (port0 0) []
     let t := { t0 with k := vset (vset t0.k 1 (2 ^ 63)) 2 0x1000000000000100 }
     let s := inBig c t
     Issues s t ∧ s.crew? t.ltag t.unit = some c ∧ s.patRefused t (t.rd (.main 1)) (t.rd (.main 2)) (t.rd .k0) = false ∧
     s.patRefused t (t.rd .k0) (t.rd (.main 2)) (t.rd .k0) = true) ∧
    (31 < ((tK1 32).rd (.main 1)).toNat ∧ ((tK1 31).rd (.main 1)).toNat ≤ 31) ∧
    (let t := tK1 (2 ^ 63 + 4 * 2 ^ 48)
     let s := on t
     Issues s t ∧ s.crew? t.ltag t.unit = some oneCrew ∧ s.portRefused t 0 (t.rd (.main 1)) (t.rd .k0) = false ∧
     (t.rd (.main 1)).getLsbD 63 = true ∧ s.portRefused t 0 (t.rd (.main 1) + 1) (t.rd .k0) = true ∧ t.rb.length ≠ 8) ∧
    (let c := bigCrew (port0 1) [(0, pat0)]
     let s := inBig c t0
     s.crew? c.ltag c.unit = some c ∧ s.disp.crews = [c] ∧ c.closed = false ∧ s.candidates c = [] ++ (0, pat0) :: [] ∧ s.canFire c pat0 = true ∧
     (let off := frameOff (s.s1Bytes c.ltag) ((State.freeFrame c).getD 0)
      (State.takeHeads c.ltag c.unit off s pat0.ports.zipIdx).2 = true) ∧
     s.launch? c.ltag = some { oneLaunch with s1sz := 4 } ∧ s.freeSlot? c.unit = some 1) ∧
    (let c := bigCrew (port0 0) [(0, pat0)]
     (inBig c t0).candidates c = []) ∧
    (let c := bigCrew (port0 1) [(0, patW)]
     let s := inBig c t0
     s.candidates c = [] ++ (0, patW) :: [] ∧ s.canFire c patW = true ∧ s.byTid c.ltag c.unit 0 = some t0 ∧
     (State.takeHeads c.ltag c.unit 0 s patW.ports.zipIdx).2 = true) := by decide +kernel
theorem witness_PortsAndPatterns_more :
    (let s := on t0
     s.portRefused t0 0 (t0.rd .k0) (t0.rd .k0) = false ∧ (t0.rd .k0).getLsbD 63 = false) ∧
    (let c := bigCrew (port0 1) [(0, pat0)]
     let s := inBig c t0
     let u := s.sched 1 1 (.bankAccept { acc0 with pa := 0xE000000000 })
     s.waitsOn (s.fireExt c pat0) = false ∧ u.candidates c = [] ++ (0, pat0) :: [] ∧ u.canFire c pat0 = true ∧ u.waitsOn (u.fireExt c pat0) = true) ∧
    (let c := bigCrew (port0 1) [(0, pat0)]
     let ended : Launch := { oneLaunch with ending := some (0, 0) }
     let s := { on t0 with disp := { base.disp with launches := [(1, ended)], crews := [c] } }
     (s.crew? c.ltag c.unit = some c ∧ s.launch? c.ltag = some ended ∧ ended.ending.isSome = true) ∧
     (inBig c t0).launch? c.ltag = some { oneLaunch with s1sz := 4 } ∧ oneLaunch.ending = none) := by decide +kernel
theorem witness_ReceiveTakesHead :
    (let c := crewOf (port0 1)
     let s := inCrew c t0
     Issues s t0 ∧ s.crew? t0.ltag t0.unit = some c ∧ c.ltag = t0.ltag ∧ c.unit = t0.unit ∧ (c.port 0).en = true ∧ c.member 0 = false ∧
     t0.rb.length ≠ 8 ∧ s.isDet c.ltag = false ∧ c.closed = false ∧ (c.port 0).count ≠ 0 ∧
     (s.loadS1 c.ltag c.unit ((c.port 0).hdrOff (c.port 0).head)).psn = none ∧ (c.port 0).psn = none) ∧
    (let c := crewOf (port0 1)
     let t := { t0 with st := .parked (.recv 0 1 true (.main 1)) }
     (inCrew c t).ref? r0 = some t) ∧
    (let c := crewOf (port0 0)
     (inCrew c t0).takeable c 0 = none) ∧
    ((oneCrew.port 0).en = false ∧ (bigCrew (port0 1) [(0, pat0)]).member 0 = true) := by decide +kernel
theorem witness_ReceiveTakesHead_waits :
    (let c := crewOf (port0 1)
     let s := inCrew c t0
     s.takeable c 0 = some 0 ∧ s.waitsOn (s.msgExt c 0 (c.port 0).head) = false) ∧
    (let c := crewOf (port0 1)
     let s := (inCrew c t0).sched 1 1 (.bankAccept { acc0 with pa := 0xE000000000 })
     ∀ k, s.takeable c 0 = some k → s.waitsOn (s.msgExt c 0 k) = true) ∧
    (let c := crewOf { port0 1 with psn := some ⟨0x041, 0⟩ }
     (inCrew c t0).crew? t0.ltag t0.unit = some c ∧ (c.port 0).en = true ∧ c.member 0 = false ∧ (c.port 0).psn ≠ none) := by
  refine ⟨by decide +kernel, ?_, by decide +kernel⟩
  intro c s k hk
  have h0 : s.takeable c 0 = some 0 := by decide +kernel
  rw [h0] at hk
  cases hk
  decide +kernel

/-! ## Engines and copies -/

/-- An extended instruction on k1 (D), k2 (N) and k3 (A), its other operands k0, with formats binary32. -/
def ext0 : Ext :=
  { sm := false, x := false, b := .k0, a := .k0, d := .main 1, n := .main 2, c := .k0, sat := false, csem := 0, cen := false, dsem := 0,
    shape := 0, fmt := 0xC0, fsrc := false, rm := 0 }
/-- k1, k2 and k3. -/
def tK3 (x y z : Word) : Thread := { t0 with k := vset (vset (vset t0.k 1 x) 2 y) 3 z }
def vFill : Vx := ⟨0x16, ext0⟩
/-- The state with these commands in unit 0's engines. -/
def inUnit (u : UnitSt) (s : State) : State := { s with units := [(0, u)] }
theorem witness_VectorCommandsIssue : Machine.vxOf (.vfill ext0) = some vFill ∧
    (let t := tK3 (s1At 0) 16 0
     let s := on t
     let c := s.newCmd t .vx (.vfill ext0) ext0 true
     let bad (r : VRange) : Bool := r.va % r.align != 0 || (s.s1Range t r.va r.len).isNone
     Issues s t ∧ vFill.paramsOk c.n c.c = true ∧ vFill.overlapBad c = false ∧ (∀ r ∈ vFill.sources c ++ vFill.dests c, bad r = false) ∧
     s.engObstacle t .vx ((vFill.dests c).map fun r => ((s.s1Range t r.va r.len).getD [], true)) = none) ∧
    (let t := tK3 (s1At 0) 0 0
     let c := (on t).newCmd t .vx (.vfill ext0) ext0 true
     ¬(vFill.paramsOk c.n c.c = true ∧ vFill.overlapBad c = false)) ∧
    (let t := tK3 (s1At 8) 16 0
     let s := on t
     let c := s.newCmd t .vx (.vfill ext0) ext0 true
     ((vFill.sources c ++ vFill.dests c).find? fun r => r.va % r.align != 0 || (s.s1Range t r.va r.len).isNone).isSome ∧
     vFill.paramsOk c.n c.c = true ∧ vFill.overlapBad c = false) ∧
    (let t := { tK3 (s1At 0) 16 0 with out := tOut.out }
     let s := on t
     Issues s t ∧ s.engObstacle t .vx [] = some .stores) := by decide +kernel

/-- A command of `t0` to VX with the operand values d, a, b, c and n. -/
def cmd0 (i : Instr) (k : EngKind) (d a b c n : Word) : Cmd :=
  { base.newCmd t0 k i ext0 true with d := d, a := a, b := b, c := c, n := n }
/-- Memory with −1 at S1 offset 0 and binary32 one at offset 64. -/
def sVec : State := { base with mem := wrBytes (wrBytes base.mem 0xE000000000 (natLe 4 0xFFFFFFFF)) 0xE000000040 (natLe 4 0x3F800000) }
def extF : Ext := { ext0 with shape := 0xC0, fsrc := true }
def extD : Ext := { extF with fsrc := false }
theorem witness_VectorElementValues :
    (∀ f ∈ [0, 1, 2, 3, 4, 5, 6, 7, 8, 9, 10, 11, 0x0D, 0x0E, 0x0F, 0x10, 0x11, 0x12, 0x16, 0x17, 0x18, 0x19],
      let c := cmd0 (.vadd extF) .vx (s1At 128) (s1At 64) (s1At 256) (s1At 256) 2
      let v : Vx := ⟨f, extF⟩
      (base.vxElem c v 0 1).toOption.isSome ∧ (base.vxElem c v 1 1).toOption.isSome ∧ (base.vxElem c v 2 1).toOption.isSome) ∧
    (let c := cmd0 (.vgath extF) .vx (s1At 128) (s1At 0) (s1At 256) 4 1
     let v : Vx := ⟨0x14, extF⟩
     sVec.vxElem c v 0 0 = .ok (.fin true 1 0) ∧ State.indexIn 4 (.fin true 1 0) = none) ∧
    (let c := cmd0 (.vpack extF) .vx (s1At 128) (s1At 64) (s1At 64) (s1At 256) 1
     let v : Vx := ⟨0x18, extF⟩
     ((sVec.vxElem c v 1 0).toOption.map fun y => (y.isNan, y.isZero)) = some (false, false)) ∧
    (let c := cmd0 (.vpack extF) .vx (s1At 128) (s1At 64) (s1At 256) (s1At 256) 1
     let v : Vx := ⟨0x18, extF⟩
     ((sVec.vxElem c v 1 0).toOption.map fun y => (y.isNan, y.isZero)) = some (false, true)) ∧
    Vx.op 2 = 0 ∧ 1 + 1 = Vx.count 2 := by decide +kernel
/-- A command whose tables and operands lie in memory that reads as zero: every index selects entry 0. -/
def cTab (i : Instr) (n : Word) : Cmd := cmd0 i .vx (s1At 512) (s1At 256) (s1At 320) 4 n
theorem witness_VectorElementValues_tables :
    (∀ f ∈ [0x0C, 0x14],
      let v : Vx := ⟨f, extF⟩
      (base.vxElem (cTab (.vgath extF) 1) v 0 0).toOption.isSome ∧ (base.vxElem (cTab (.vgath extF) 1) v 1 0).toOption.isSome ∧
      (base.vxElem (cTab (.vgath extF) 1) v 2 0).toOption.isSome ∧
      (((base.vxElem (cTab (.vgath extF) 1) v 0 0).toOption.bind fun x => State.indexIn 4 x) = some 0) ∧
      (base.vxEntry (cTab (.vgath extF) 1) v 0).toOption.isSome) ∧
    (((sVec.vxElem (cmd0 (.vlut extF) .vx (s1At 128) (s1At 0) (s1At 256) 4 1) ⟨0x0C, extF⟩ 0 0).toOption.map fun x => State.indexIn 4 x) = some none) ∧
    (let c := cTab (.vscat extF) 1
     let v : Vx := ⟨0x15, extF⟩
     (base.vxElem c v 0 0).toOption.isSome ∧ ((base.vxElem c v 1 0).toOption.bind fun y => State.indexIn c.c.toNat y) = some 0 ∧
     (base.vxElem c v 2 0).toOption.isSome ∧
     (base.readBlock (base.s1Pa c.ltag c.t.unit ((c.d.toNat + 0 * (fmtWidth v.e.fmt / 8)) / 64 * 64))).psn = []) ∧
    (let c := cmd0 (.vscat extF) .vx (s1At 512) (s1At 256) (s1At 0) 4 1
     let v : Vx := ⟨0x15, extF⟩
     (sVec.vxElem c v 0 0).toOption.isSome ∧ (sVec.vxElem c v 1 0).toOption.isSome ∧ (sVec.vxElem c v 2 0).toOption.isSome ∧
     ((sVec.vxElem c v 1 0).toOption.map fun y => State.indexIn c.c.toNat y) = some none) ∧
    ∀ op ∈ [0, 1, 2, 3], Vx.op (wd (op * 2 ^ 56 + 2)) = op ∧ Vx.count (wd (op * 2 ^ 56 + 2)) = 2 := by decide +kernel
theorem witness_VectorElementValues_topk :
    (let c := cTab (.vtopk extF) 2
     let v : Vx := ⟨0x13, extF⟩
     (base.vxElem c v 0 1).toOption.isSome ∧ (base.vxElem c v 1 1).toOption.isSome ∧ (base.vxElem c v 2 1).toOption.isSome ∧ v.e.x = false ∧ v.e.fsrc = true ∧
     (base.operandBlock c { num := 0, base := c.a.toNat, decl := v.e.sfmt, instr := v.e.fsrc, sparse := false }
       (c.a.toNat + 1 * Vx.stride c.n 0 * (fmtWidth v.e.sfmt / 8))).toOption.isSome) ∧
    (let e := { extF with x := true }
     let c := cmd0 (.vtopk e) .vx (s1At 512) (s1At 256) (s1At 0) 4 2
     let v : Vx := ⟨0x13, e⟩
     v.e.x = true ∧ (sVec.vxElem c v 0 0).toOption.isSome ∧ (sVec.vxElem c v 2 0).toOption.isSome ∧ sVec.vxElem c v 1 0 = .ok (.fin true 1 0)) ∧
    (let v : Vx := ⟨0x13, extD⟩
     v.f = 0x13 ∧ v.e.fsrc = false) ∧
    (let p : Rank := { v := .fin false 2 0, idx := 0, pos := 0, code := 0 }
     let q : Rank := { v := .fin false 1 0, idx := 1, pos := 1, code := 0 }
     p.v.isNan = false ∧ q.v.isNan = false ∧ fLt q.v p.v = true ∧ ({ q with v := .nan } : Rank).v.isNan = true ∧
     p.v = ({ q with v := p.v } : Rank).v ∧ p.idx < q.idx ∧ fLt p.v p.v = false) := by decide +kernel
/-- VFILL of one block, and MAZ of one tile, in unit 0's queues. -/
def cFill : Cmd := { cmd0 (.vfill ext0) .vx (s1At 0) 0 0 0 16 with csem := some 1, dsem := some 2 }
def extM : Ext := { ext0 with shape := 8, fmt := 0 }
def cMaz : Cmd := { cmd0 (.maz extM) .mx 0 0 0 0 0 with dsem := some 2 }
theorem witness_EnginesRun :
    (let s := inUnit { UnitSt.reset with cmds := [cFill] } { base with now := 16 }
     s.cmd? 0 cFill.id = some cFill ∧ s.stopping cFill.ltag 0 = false ∧ Machine.vxOf cFill.ins = some vFill ∧ s.vxNext 0 = some cFill ∧
     cFill.issued + 16 ≤ s.now ∧ (s.unit 0).vxFree ≤ s.now ∧ (s.vxRead cFill vFill).2 = none ∧
     s.yields cFill false = false ∧ s.yields cFill true = false ∧
     (let q : Access := { acc0 with pa := 0xE000000000 }
      let ent (dest : Bool) : BoardEnt := { cmd := cFill.id, ext := [(0xE000000000, 64)], dest := dest }
      let u := (inUnit { UnitSt.reset with cmds := [cFill], board := [ent false, ent true] } { base with now := 16 }).sched 1 1 (.bankAccept q)
      u.yields cFill false = true ∧ u.yields cFill true = true ∧ u.cmd? 0 cFill.id = some cFill ∧ u.vxNext 0 = some cFill ∧ cFill.issued + 16 ≤ u.now)) ∧
    (let c := { cFill with a := 0, ins := .vabs extD, n := 1 }
     let s := inUnit { UnitSt.reset with cmds := [c] } { base with now := 16 }
     (s.vxRead c ⟨6, extD⟩).2.isSome = true) ∧
    (let s := inUnit { UnitSt.reset with cmds := [cMaz] } base
     let m : Mx := ⟨4, extM⟩
     s.cmd? 0 cMaz.id = some cMaz ∧ s.stopping cMaz.ltag 0 = false ∧ Machine.mxOf cMaz.ins = some m ∧ m.latch = false ∧ m.fwd = false ∧ s.mxStalled 0 = none ∧
     s.mxNext 0 = some cMaz ∧ s.tileHeld 0 cMaz m = false ∧ (s.mxSubs 0 m).isSome ∧
     s.yields cMaz false = false ∧
     ((s.onCmd 0 cMaz.id fun _ => { cMaz with start := some 0, subs := (s.mxSubs 0 m).getD [] }).mxRun
       { cMaz with start := some 0, subs := (s.mxSubs 0 m).getD [] } m none).1.fault = none) ∧
    (let b : BlockW := { pa := 0xE000000000, data := List.replicate 64 1, desc := 5, psn := [] }
     let c := { cFill with consumed := true, res := some { blocks := [b], tiles := [], fault := none, restart := none, steps := 1 } }
     let s := inUnit { UnitSt.reset with cmds := [c] } base
     s.cmd? 0 c.id = some c ∧ c.t.unit = 0 ∧ c.cancelled = false ∧ c.latch = none ∧ c.csem = some 1 ∧ c.dsem = some 2 ∧
     ((s.unit 0).mrings.find? fun m => m.1 == c.id) = none ∧ s.prior 0 c = false ∧ c.eng ≠ .mx ∧ c.applied = false ∧ b.mask = [] ∧ b.data.length = 64) ∧
    (let c := { cFill with consumed := true, res := some { blocks := [], tiles := [], fault := some ⟨0x020, 3, 0, 0⟩, restart := none, steps := 0 } }
     let s := inUnit { UnitSt.reset with cmds := [c] } base
     s.cmd? 0 c.id = some c ∧ s.prior 0 c = false ∧ c.stopAt = none ∧ s.yields c true = false) ∧
    (let s := inUnit { UnitSt.reset with cmds := [cFill, { cFill with id := 9 }] } base
     s.cmd? 0 9 = some { cFill with id := 9 } ∧ s.prior 0 { cFill with id := 9 } = true) ∧
    (let c := { cMaz with csem := some 1, applied := true, consumed := true, res := some { blocks := [], tiles := [], fault := none, restart := none, steps := 1 } }
     let s := inUnit { UnitSt.reset with cmds := [c], mxPost := 1 } base
     s.cmd? 0 c.id = some c ∧ c.eng = .mx ∧ (s.unit 0).mxPost = s.now + 1 ∧ c.applied = true ∧ c.res.isSome = true) := by decide +kernel
theorem witness_EnginesRun_sound : (inUnit { UnitSt.reset with cmds := [cFill] } base).Sound := by constructor <;> decide
theorem witness_MatrixCommands :
    (extF.x = false ∧ (1023 : Nat) < 1024) ∧ Machine.mxOf (.maz extM) = some ⟨4, extM⟩ ∧ Machine.mxOf (.mald extF) = some ⟨2, extF⟩ ∧
    (let c := base.newCmd t0 .mx (.maz extM) extM true
     Issues base t0 ∧ State.mxParamsOk c ⟨4, extM⟩ = true ∧ base.mxRanges 0 c ⟨4, extM⟩ = [] ∧ base.engObstacle t0 .mx [] = none) ∧
    (let e := { extF with a := .main 3, c := .main 2, shape := 8 }
     let t := tK3 0 512 8
     let c := (on t).newCmd t .mx (.mald e) e true
     State.mxParamsOk c ⟨2, e⟩ = true ∧ ¬∀ r ∈ (on t).mxRanges 0 c ⟨2, e⟩, r.1 % 64 = 0 ∧ ((on t).s1Range t r.1 r.2.1).isSome = true) ∧
    (let e := { extF with a := .main 3, c := .main 2, shape := 8 }
     let t := tK3 0 1 8
     ¬State.mxParamsOk ((on t).newCmd t .mx (.mald e) e true) ⟨2, e⟩ = true) ∧
    (({ extM with shape := 1 } : Ext).sh 0 1 = 1 ∧ base.ganged t0.unit = false ∧ extM.sh 0 1 ≠ 1 ∧ t0.rb.length ≠ 8 ∧ t0.out.any (·.store) = false ∧
     tOut.out.any (·.store) = true ∧ Mx.steps ⟨0, extM⟩ (Mx.kOf 1) ≠ 0) ∧
    ((base.unit 0).latch0.st = .free ∧
     ((inUnit { UnitSt.reset with latch0 := { st := .full, img := none, order := 0 } } base).unit 0).latch0.st ≠ .free ∧
     ((inUnit { UnitSt.reset with latch0 := { st := .full, img := none, order := 0 } } base).unit 0).latch1.st = .free ∧
     ¬((base.unit 0).latch1.st = .free ∧ (base.unit 0).latch1.order < (base.unit 0).latch0.order) ∧
     (let x := (inUnit { UnitSt.reset with latch0 := { LatchSlot.reset with order := 9 } } base).unit 0
      x.latch0.st = .free ∧ x.latch1.st = .free ∧ x.latch1.order < x.latch0.order)) ∧
    (let s := inUnit { UnitSt.reset with cmds := [cMaz] } base
     s.cmd? 0 cMaz.id = some cMaz ∧ cMaz.res = none ∧ cMaz.cancelled = false ∧ s.stopping cMaz.ltag 0 = false) ∧
    (let s := inUnit { UnitSt.reset with mrings := [(4, ⟨r0, 1, 1⟩)] } base
     (s.unit 0).mrings.find? (fun m => m.1 == 4) = some (4, ⟨r0, 1, 1⟩)) ∧
    (let c := { cMaz with latch := some 0, res := some { blocks := [], tiles := [], fault := none, restart := none, steps := 1 } }
     let s := inUnit { UnitSt.reset with mrings := [(4, ⟨r0, 1, 1⟩)], cmds := [c] } base
     s.cmd? 0 c.id = some c ∧ c.eng = .mx ∧ c.latch ≠ none ∧ c.consumed = false ∧ c.res ≠ none) ∧
    (let t := { t0 with rb := [{ id := 4, dests := [.main 1], dead := [], vals := none, remote := false, pc := t0.pc, va := 0, pa := 0 }] }
     let s := inUnit { UnitSt.reset with mstats := [(r0, 4, 0)] } (on t)
     r0.unit = 0 ∧ (s.unit 0).mstats.find? (fun m => m.1 == r0 && m.2.1 == 4) = some (r0, 4, 0) ∧ s.ref? r0 = some t ∧ t.st = .ready ∧
     t.former = [] ∧ t.fpq = [] ∧ t.twin = none ∧ t.ref = r0 ∧ s.sallocOf r0 4 = none) := by decide +kernel
/-- A tile move of one row of one block, from k3 to k1, with its extents. -/
def extT : Ext := { ext0 with a := .main 3, fmt := 0 }
def tT : Thread := tK3 (s1At 64) 0 (s1At 0)
def cTmv : Cmd :=
  { cmd0 (.tmv extT) .tmv (s1At 64) (s1At 0) 0 0 0 with csem := some 1, dsem := some 2, src := [(0, 0xE000000000, 1)], dst := [(0, 0xE000000040, 1)] }
theorem witness_TileMoves :
    (let s := on tT
     Issues s tT ∧ bits (tT.rd (.main 2)) 22 42 = 0 ∧ bits (tT.rd .k0) 0 32 % 64 = 0 ∧ bits (tT.rd (.main 2)) 0 12 + 1 = 1 ∧
     (tT.rd (.main 3)).toNat % 64 = 0 ∧ (tT.rd (.main 1)).toNat % 64 = 0 ∧
     meets (tT.rd (.main 3)).toNat 64 (tT.rd (.main 1)).toNat 64 = false ∧
     (s.tileTrans tT .read (tilePieces (tT.rd (.main 3)).toNat 0 64 1) 0 []).getRight? = some [(0, 0xE000000000, 1)] ∧
     (s.tileTrans tT .write (tilePieces (tT.rd (.main 1)).toNat 0 64 1) 0 []).getRight? = some [(0, 0xE000000040, 1)] ∧
     s.tileRemote [(0, 0xE000000000, 1)] = false ∧ s.tileRemote [(0, 0xE000000040, 1)] = false ∧ tT.out = [] ∧
     (s.unit tT.unit).queued .tmv < queueSize .tmv ∧
     s.boardHolds tT.unit (s.rangeExtent tT (tT.rd (.main 3)).toNat 64) false = false ∧
     s.boardHolds tT.unit (s.rangeExtent tT (tT.rd (.main 1)).toNat 64) true = false ∧
     (s.unit tT.unit).board.length ≤ 62 ∧ s.markHolds tT.unit (s.rangeExtent tT (tT.rd (.main 3)).toNat 64 ++ s.rangeExtent tT (tT.rd (.main 1)).toNat 64) = false) := by decide +kernel
theorem witness_TileMoves_faults :
    (bits (2 ^ 22) 22 42 ≠ 0 ∧ (s1At 1).toNat % 64 ≠ 0 ∧ meets (s1At 0).toNat 64 (s1At 0).toNat 64 = true) ∧
    (let t := tK3 64 0 0
     let s := withRange (rng 5) t
     Issues s t ∧ (s.tileTrans t .read (tilePieces 0 0 64 1) 0 []).getRight? = some [(0, 5 * 2 ^ 40, 1)] ∧
     (s.tileTrans t .write (tilePieces 64 0 64 1) 0 []).getRight? = some [(0, 5 * 2 ^ 40 + 64, 1)] ∧ s.tileRemote [(0, 5 * 2 ^ 40, 1)] = true ∧
     s.tileRemote [(0, 5 * 2 ^ 40 + 64, 1)] = true) := by decide +kernel
theorem witness_TileMoves_blocks :
    (let s := inUnit { UnitSt.reset with cmds := [cTmv] } base
     s.cmd? 0 cTmv.id = some cTmv ∧ cTmv.cancelled = false ∧ cTmv.waiting = false ∧ s.stopping cTmv.ltag 0 = false ∧ cTmv.eng = .tmv ∧
     cTmv.next < State.tileBlocks cTmv.dst ∧ State.tileBlock cTmv.src 0 / 2 ^ 40 = s.devid ∧ State.tileBlock cTmv.dst 0 / 2 ^ 40 = s.devid ∧
     State.tileMirrorOf cTmv 0 = none ∧ s.hbmWaits (State.tileBlock cTmv.src 0 % 2 ^ 40) = false ∧
     s.hbmWaits (State.tileBlock cTmv.dst 0 % 2 ^ 40) = false ∧ s.bankFree (State.tileBlock cTmv.src 0 % 2 ^ 40) = true ∧
     s.bankFree (State.tileBlock cTmv.dst 0 % 2 ^ 40) = true ∧
     s.bankOf (State.tileBlock cTmv.src 0 % 2 ^ 40) ≠ s.bankOf (State.tileBlock cTmv.dst 0 % 2 ^ 40) ∧
     ({ s with busy := [s.bankOf 0xE000000000] } : State).bankFree (State.tileBlock cTmv.src 0 % 2 ^ 40) = false ∧
     s.hbmWaits (State.tileBlock [(0, 0, 1)] 0 % 2 ^ 40) = true ∧ (s.readBlock (State.tileBlock cTmv.src 0 % 2 ^ 40)).psn = [] ∧ cTmv.next + 1 = State.tileBlocks cTmv.src ∧ cTmv.consumed = false) ∧
    (let c := { cTmv with next := 1, consumed := true }
     let s := inUnit { UnitSt.reset with cmds := [c] } base
     s.cmd? 0 c.id = some c ∧ State.tileBlocks c.dst ≤ c.next) := by decide +kernel
/-- A template of one row of one block from S1 offset 0 for channel 0, and its image at S1 offset 0. -/
def tmpl0 : List Word := [s1At 0, 0, 64 * 2 ^ 32, 1, 0, 64, 2 ^ 31, 0]
def sImg : State := { on tT with mem := wrBytes base.mem 0xE000000010 (natLe 24 (64 * 2 ^ 32 + 2 ^ 64) ++ natLe 8 64) }
/-- A channel with the range of the second and third block of S1. -/
def chan0 : Chan := { Chan.reset with ltag := 1, base := s1At 64, lim := s1At 192, wm := s1At 64 }
def copy0 : Copy :=
  { id := 0, num := 0, waiting := false, tmpl := tmpl0, repeats := 1, t := r0, dsem := some 2, ltag := 1, crew := 0, gang := 0, tid := 0, svc := false, pc := 0, inrgn := false,
    next := 0, cancelled := false }
theorem witness_CopiesRun :
    (let t := tK3 0 0 (s1At 0)
     Issues (on t) t ∧ t.out = [] ∧ bits (t.rd .k0) 60 4 ≠ 1 ∧ bits (t.rd (.main 3)) 60 4 = 1 ∧
     sImg.check t .load 64 false (t.rd (.main 3)) = .ok (.here 0xE000000000) none ∧ sImg.stall t (.here 0xE000000000) 64 false false false = none ∧
     (sImg.readBlock 0xE000000000).psn = [] ∧
     Tmpl.ok ((List.range 8).map fun k => leWord (rdBytes sImg.mem (0xE000000000 + 8 * k) 8)) = true ∧
     Tmpl.ok ((List.range 8).map fun k => leWord (rdBytes base.mem (0xE000000000 + 8 * k) 8)) = false) ∧
    (base.startRefused t0 (chanKey 1 0) 0 = true ∧
     (let s := inUnit { UnitSt.reset with tmpls := [(tmplKey 1 0, tmpl0)], chans := [(chanKey 1 0, chan0)] } base
      s.tmpl 0 (tmplKey 1 0) = tmpl0 ∧ Tmpl.chan tmpl0 = 0 ∧ s.startRefused t0 (chanKey 1 0) 0 = false ∧ s.copyInRegs t0 0 = false ∧ s.startHold t0 (chanKey 1 0) 0 = none ∧
      (s.chan 0 (chanKey 1 0)).halt = false ∧ (s.chan 0 (chanKey 1 0)).st = .idle) ∧
     (let s := inUnit { UnitSt.reset with tmpls := [(tmplKey 1 0, tmpl0)], chans := [(chanKey 1 0, { chan0 with st := .run, cur := some copy0 })] } base
      s.startRefused t0 (chanKey 1 0) 0 = false ∧ s.startHold t0 (chanKey 1 0) 0 = none ∧ (s.chan 0 (chanKey 1 0)).st = .run) ∧
     (let s := inUnit { UnitSt.reset with tmpls := [(tmplKey 1 0, tmpl0)], chans := [(chanKey 1 0, chan0)],
                                          board := [{ cmd := 9, ext := [(0xE000000000, 64)], dest := true }] } base
      s.startRefused t0 (chanKey 1 0) 0 = false ∧ (s.startHold t0 (chanKey 1 0) 0).isSome = true)) ∧
    ((s1At 63).toNat % 64 ≠ 0 ∧
     (let va := s1At 64
      let y := s1At 4096
      va.toNat % 64 = 0 ∧ y.toNat % 64 = 0 ∧ va.toNat < y.toNat ∧ (base.vaExtent 1 0 va.toNat (y.toNat - va.toNat)).isSome = true ∧
      (base.vaExtent 1 0 va.toNat ((s1At 4160).toNat - va.toNat)).isNone = true ∧ (base.chan 0 0).st = .idle)) ∧
    (let s := inUnit { UnitSt.reset with chans := [(chanKey 1 0, { chan0 with st := .run, cur := some copy0 })] } base
     let x := s.chan 0 (chanKey 1 0)
     x.st ≠ .idle ∧ x.cur = some copy0 ∧ x.queue = [] ∧ x.halt = false ∧ copy0.dsem = some 2 ∧ (x.st == .run && x.cur.any (·.waiting)) = false ∧
     ({ copy0 with waiting := true } : Copy).waiting = true) ∧
    ((base.chan 0 0).cur = none ∧ (base.chan 0 0).queue = [] ∧ base.ref? t0.ref = some t0 ∧ t0.rb.length ≠ 8) ∧
    (let x := { chan0 with st := .run, cur := some copy0 }
     let s := inUnit { UnitSt.reset with chans := [(0, x)] } base
     let g := s.ghost 1 0 0 0 0
     s.chan 0 0 = x ∧ copy0.cancelled = false ∧ copy0.waiting = false ∧ x.halt = false ∧
     s.engPlace g .write (x.base + wd (Tmpl.dstOff copy0.tmpl 0)) = .here 0xE000000040 none ∧
     s.engPlace g .read (Tmpl.srcOf copy0.tmpl 0) = .here 0xE000000000 none ∧ s.hbmWaits 0xE000000040 = false ∧
     s.hbmWaits 0xE000000000 = false ∧ s.bankFree 0xE000000040 = true ∧ s.bankFree 0xE000000000 = true ∧ s.bankOf 0xE000000000 ≠ s.bankOf 0xE000000040 ∧
     ({ s with busy := [s.bankOf 0xE000000000] } : State).bankFree 0xE000000000 = false ∧
     copy0.timed = false ∧ ({ copy0 with timed := true } : Copy).timed = true ∧
     (s.readBlock 0xE000000000).psn = [] ∧
     copy0.repeats * Tmpl.blocks copy0.tmpl ≤ copy0.next + 1 ∧
     copy0.next + 1 < { copy0 with repeats := 2 }.repeats * Tmpl.blocks copy0.tmpl ∧
     s.engPlace g .write 0 = .wait (.walk 0 2) ∧ s.engPlace g .write (s1At 4096) = .bad 3) := by decide +kernel
/-- A source in the register space, which the start refuses. -/
def tmplR : List Word := tmpl0.set 0 0x400000F000000000
theorem witness_CopiesRun_registers :
    let s := inUnit { UnitSt.reset with tmpls := [(tmplKey 1 0, tmplR)], chans := [(chanKey 1 0, chan0)] } base
    s.tmpl 0 (tmplKey 1 0) = tmplR ∧ Tmpl.chan tmplR = 0 ∧ s.startRefused t0 (chanKey 1 0) 0 = false ∧ s.copyInRegs t0 0 = true := by decide +kernel

/-! ## The debugger, pairs, the dispatcher and pre-emption -/

theorem witness_DebuggerEvents : (base.ref? r0 = some t0 ∧ t0.rb = [] ∧ t0.out = [] ∧ t0.st = .ready) ∧
    (let t := { t0 with st := .parked (.until 9 false) }
     (on t).ref? r0 = some t ∧ WaitFor.until 9 false ≠ .switch) ∧
    ((on tOut).ref? r0 = some tOut ∧ tOut.st = .ready ∧ tOut.out ≠ []) ∧
    (let t := { t0 with st := .halted }
     (on t).ref? r0 = some t ∧ t.held = none) ∧
    (let t := { t0 with st := .halted, held := some .stores }
     (on t).ref? r0 = some t ∧ WaitFor.stores ≠ .switch) ∧
    (let t := { tOut with st := .halted, held := some .switch }
     (on t).ref? r0 = some t ∧ t.complete = false ∧ (0x3F : BitVec 7).toNat < 0x40 ∧ 0x40 ≤ (0x7F : BitVec 7).toNat) ∧
    (let t := { tOut with st := .parked .stores }
     (on t).ref? r0 = some t ∧ t.out ≠ []) := by decide +kernel
theorem witness_DebuggerEvents_pair :
    let x : Twin := { unit := 1, slot := 0, fp := 5 }
    let t := { t0 with twin := some x }
    (on t).ref? r0 = some t ∧ t.twin = some x ∧ t.depth < 65536 ∧ rising x.own = true := by decide +kernel
/-- A pair whose twin is on unit 1, exchanging fingerprints. -/
def tPair (fp : Word) : Thread := { t0 with twin := some { unit := 1, slot := 0, fp := 5 }, fp := fp, st := .parked (.event false) }
/-- Units 0 and 1 of stack 0 bound. -/
def twoUnits (t : Thread) : State :=
  { on t with lat := { base.lat with units := base.lat.units ++ [{ unit := 1, fe := 1, slab := 1, ganged := false }] } }
theorem witness_FingerprintsCompare :
    ((twoUnits (tPair 5)).ref? r0 = some (tPair 5) ∧ (tPair 5).twin = some { unit := 1, slot := 0, fp := 5 } ∧
     (twoUnits (tPair 5)).present 1 = true ∧ ((twoUnits (tPair 5)).unit 1).retired = false ∧ (tPair 5).fp = 5) ∧
    ((tPair 6).fp ≠ 5 ∧ (tPair 6).inrgn = false) ∧
    (let t := { tPair 6 with inrgn := true, restarts := 2 }
     (twoUnits t).ref? r0 = some t ∧ t.parity (.special 0x0F) = none ∧ t.parity (.special 0x10) = none ∧ t.mismatch ≠ some t.pc ∧ t.restarts < 3 ∧ t.depth = t.rgnwd.toNat ∧ 0 < t.res) ∧
    (on (tPair 5)).present 1 = false := by decide +kernel
/-- Launch port 7 as `q`. -/
def withPort (q : LPort) : State := base.setPort 7 q
theorem witness_LaunchPorts_registers :
    ((base.lport 7).queue.length < 64 ∧ (base.lport 7).held = [] ∧
     ((withPort { LPort.reset with dropAt := (9, 1) }).lport 7).dropAt.1 ≠ base.now) ∧
    64 ≤ ((withPort { LPort.reset with queue := List.replicate 64 ⟨Vector.replicate 8 0, true⟩ }).lport 7).queue.length ∧
    (let q := { LPort.reset with cqb := 0x2001, held := [(List.replicate 8 3, none)], cqt := 63 }
     let s := withPort q
     (s.lport 7).held = [(List.replicate 8 3, none)] ∧ (List.replicate 8 (3 : Word)).length = 8 ∧ (s.lport 7).cqb.getLsbD 0 = true ∧
     ((s.lport 7).cqt + 1) % (s.lport 7).cqn ≠ 1 % (s.lport 7).cqn) ∧
    (let s := withPort { LPort.reset with cqb := 0x2001, held := [(List.replicate 8 3, none)], cqt := 63 }
     s.chanHeld (0x2000 + 64 * 63) = false ∧ s.waitsOn [(0x2000 + 64 * 63, 64)] = false) ∧
    (base.hostWaits = false ∧ ({ base with agenda := [⟨1, 1, 0, ⟨.hostBar2Write 0 [1], none, none⟩⟩] } : State).hostWaits = true) ∧
    (let s := { base with pkg := { base.pkg with hostUp := true } }
     s.pkg.hostUp = true ∧ s.hostWaits = false ∧ s.host.d3hot = false ∧ barOk 0x30001 8 = false ∧
     (s.sched 1 1 (.hostBar2Write 0 [1])).hostWaits = true ∧ ({ s.host with d3hot := true } : HostPort).d3hot = true) := by decide +kernel
theorem witness_LaunchPorts_sound : (withPort { LPort.reset with cqb := 0x2001, held := [(List.replicate 8 3, none)], cqt := 63 }).Sound := by
  constructor <;> decide
/-- A record of launch 2: one gang of one crew of one thread, one S1 granule; and the machine with it at the head of port 7. -/
def rec2 (dep : Nat) : QRec := ⟨#v[wd (2 * 2 ^ 48 + 2 ^ 16), 0x1000000000000000, 0, wd (2 ^ 56 + 2 ^ 9), 0, 0, 0, wd dep], true⟩
def withHead (r : QRec) (q : LPort) : State :=
  { base.setPort 7 { q with queue := [r] } with pkg := { base.pkg with disp := true, lat := 1 } }
theorem witness_LaunchPorts_heads :
    (let r : QRec := ⟨Vector.replicate 8 0, true⟩
     let s := withHead r LPort.reset
     (s.lport 7).queue = [r] ∧ (s.lport 7).held = [] ∧ s.pkg.disp = true ∧ (s.lport 7).backing = false ∧ (s.lport 7).tabs = none ∧
     ((State.tableSpan r).any (fun x => s.rangeHeld x.1 x.2) || s.waitsOn (State.tableSpan r)) = false ∧
     (State.tableSpan r).flatMap (fun x => s.poisonedIn x.1 x.2) = [] ∧ s.refusal 7 r ≠ 0 ∧ (s.lport 7).cqb.getLsbD 0 = false) ∧
    (let r : QRec := ⟨#v[0, 0, 0, wd (2 ^ 41), 0x4000, 0, 0, 0], true⟩
     let s := (withHead r LPort.reset).sched 1 1 (.bankAccept { acc0 with pa := 0x4000 })
     (s.lport 7).queue = [r] ∧ (s.lport 7).held = [] ∧ s.pkg.disp = true ∧ (s.lport 7).tabs = none ∧ State.tableSpan r = [(0x4000, 32)] ∧
     s.waitsOn (State.tableSpan r) = true) ∧
    (let s := withHead (rec2 1) LPort.reset
     State.tableSpan (rec2 1) = [] ∧ s.waitsOn [] = false ∧ s.refusal 7 (rec2 1) = 0 ∧ ((rec2 1).deps.all s.depMet) = false) ∧
    (let s := withHead (rec2 0) LPort.reset
     State.tableSpan (rec2 0) = [] ∧ s.waitsOn [] = false ∧ s.refusal 7 (rec2 0) = 0 ∧ ((rec2 0).deps.all s.depMet) = true ∧
     (let s1 := s.setPort 7 { s.lport 7 with tabs := s.tables (rec2 0), headwait := false, placing := true }
      (s1.lport 7).tabs = some ([], []) ∧
      (let ok := (List.range 128).filter (s1.grants ⟨2, 1, false, 1, 0, 0⟩)
       s1.placeGangs ok.contains 1 1 s1.disp.ptr [] [] = (1, some [0])))) ∧
    (let s := withHead (rec2 0) { LPort.reset with backing := true, tabs := some ([], []) }
     (s.lport 7).backing = true ∧
     (let s1 := { s.setPort 7 { s.lport 7 with backing := false } with lat := Lattice.reset }
      let ok := (List.range 128).filter (s1.grants ⟨2, 1, false, 1, 0, 0⟩)
      (s1.placeGangs ok.contains 1 1 s1.disp.ptr [] []).2 = none)) := by decide +kernel
theorem witness_CrewsStartAndEnd :
    (let c := { oneCrew with started := false }
     let s := inCrew c t0
     s.launch? 1 = some oneLaunch ∧ oneLaunch.ltag = 1 ∧ s.crew? 1 0 = some c ∧ c.started = false ∧ c.closed = false ∧
     (s.usedSlots 0).length + oneLaunch.init ≤ 256) ∧
    (base.accessesDue 1 oneLaunch.posted = false ∧ ({ base with threads := [] }.sched 0 0 (.bankAccept acc0)).accessesDue 1 [] = true ∧
     oneLaunch.posted = [] ∧ oneLaunch.flushTags = [] ∧ (∀ c ∈ base.disp.crews, c.ltag = 1 → base.working 1 c.unit = false) ∧
     (base.lport oneLaunch.port).held = [] ∧ (base.lport oneLaunch.port).cqb.getLsbD 0 = false ∧ oneLaunch.port < 8 ∧
     rising base.disp.launches = true) ∧
    (let s := inUnit { UnitSt.reset with cmds := [cFill] } base
     oneCrew ∈ s.disp.crews ∧ oneCrew.ltag = 1 ∧ s.working 1 oneCrew.unit = true) ∧
    (let f : Flow := ⟨0, 0, 0, 5⟩
     ({ oneLaunch with posted := [f] } : Launch).posted = [f]) ∧
    (base.disp.launches = [(1, oneLaunch)] ∧ oneLaunch.ending = none ∧ base.launchIdle 1 = false) ∧
    (let s := { base with threads := [] }
     s.launchIdle 1 = true ∧ s.sentSum 1 = s.recvdSum 1 ∧ oneLaunch.sweep ≠ some (s.sentSum 1, s.recvdSum 1)) ∧
    (let l := { oneLaunch with sweep := some (0, 0) }
     let s := { inLaunch l t0 with threads := [] }
     s.launchIdle 1 = true ∧ l.sweep = some (s.sentSum 1, s.recvdSum 1)) := by decide +kernel
/-- A request in PREEMPT for gang 0 of launch 1 and the crew `idx`, with a save pool of `n` bytes. -/
def preempts (idx n : Nat) (s : State) : State :=
  { s with disp := { s.disp with preempt := wd (2 ^ 32 + idx), savesz := wd n, preBusy := true } }
def saved0 : Saved :=
  { crew := oneCrew, threads := [t0], ganged := false, image := 0, size := 2 ^ 20, cmds := [], board := [], tmpls := [], chans := [], tiles := [],
    latch0 := LatchSlot.reset, latch1 := LatchSlot.reset, shared := [], bars := [] }
def sSaved (v : Saved) : State :=
  { base with threads := [], disp := { base.disp with crews := [], saved := [v] }, pkg := { base.pkg with disp := true, lat := 1 } }
theorem witness_PreemptionRequests :
    (let s := preempts 1 0 base
     s.launch? (bits s.disp.preempt 32 16) = some oneLaunch ∧ (∀ c ∈ s.gangCrews 1 0, c.idx ≠ bits s.disp.preempt 0 5) ∧
     (∀ v ∈ s.savedGang 1 0, v.crew.idx ≠ bits s.disp.preempt 0 5)) ∧
    (let s := preempts 0 0 base
     (∃ c ∈ s.gangCrews 1 0, c.idx = bits s.disp.preempt 0 5) ∧ (∀ c ∈ s.gangCrews 1 0, c.started = true) ∧
     s.poolHolds s.poolUsed ((s.gangCrews 1 0).map fun c => imageSize (s.ganged c.unit) c.s1) = false) ∧
    (let s := preempts 0 (2 ^ 30) base
     s.poolHolds s.poolUsed ((s.gangCrews 1 0).map fun c => imageSize (s.ganged c.unit) c.s1) = true ∧
     (s.gangCrews 1 0).find? (fun c => c.idx == 0) = some oneCrew ∧ (s.crewThreads 1 0).all s.threadAtStop = true ∧ s.enginesAtStop oneCrew = true ∧ s.crewQuiet oneCrew = true ∧
     (s.units.all (fun e => e.2.cmds.all fun x => x.eng != .vx) = true) ∧
     (let s1 := s.commitThreads 1 0
      (s1.crewThreads 1 0).all s1.threadAtStop = true ∧ s1.poolFit s1.poolUsed (imageSize (s1.ganged 0) oneCrew.s1) = some 0 ∧
      s1.spanHeld 0 (imageSize (s1.ganged 0) oneCrew.s1) = false ∧ s.gangCrews 1 0 = [oneCrew] ∧ s1.disp.crews = s.disp.crews)) ∧
    (let s := preempts 0 (2 ^ 30) (base.setHbmLog 0 { base.hbmLog 0 with testing := [0] })
     (s.gangCrews 1 0).find? (fun c => c.idx == 0) = some oneCrew ∧ (s.crewThreads 1 0).all s.threadAtStop = true ∧ s.enginesAtStop oneCrew = true ∧
     s.crewQuiet oneCrew = true ∧ (s.unit 0).cmds = [] ∧
     (let s1 := s.commitThreads 1 0
      (s1.crewThreads 1 0).all s1.threadAtStop = true ∧ s1.poolFit s1.poolUsed (imageSize (s1.ganged 0) oneCrew.s1) = some 0 ∧
      s1.spanHeld 0 (imageSize (s1.ganged 0) oneCrew.s1) = true)) ∧
    (let s := preempts 0 (2 ^ 30) (on tOut)
     (s.crewThreads 1 0).all s.threadAtStop = false) ∧
    (let s := preempts 0 0 (sSaved { saved0 with threads := [{ t0 with rb := [ent 0] }] })
     (∃ v ∈ s.savedGang 1 0, v.crew.idx = 0) ∧ ∃ v ∈ s.savedGang 1 0, v.outstanding ≠ 0) ∧
    (let s := preempts 0 0 (sSaved saved0)
     (∀ v ∈ s.savedGang 1 0, v.outstanding = 0) ∧ saved0.shared = [] ∧ s.savedGang 1 0 = [saved0] ∧ s.restoreWindow oneLaunch [saved0] = some 0 ∧
     s.spanHeld saved0.image saved0.size = false ∧ s.poisonedIn saved0.image saved0.size = [] ∧
     (∀ t ∈ (s.readImage saved0).threads, t.st = .ready ∧ t.rb = []) ∧
     (let u := s.setHbmLog 0 { s.hbmLog 0 with testing := [0] }
      u.savedGang 1 0 = [saved0] ∧ u.restoreWindow oneLaunch [saved0] = some 0 ∧ u.spanHeld saved0.image saved0.size = true)) ∧
    (let s := preempts 0 0 { sSaved saved0 with lat := Lattice.reset }
     s.restoreWindow oneLaunch (s.savedGang 1 0) = none) := by decide +kernel

/-! ## Bring-up, the host, translation and residency -/

def img0 : Image := ⟨[], 0, [], [], [(2, [])]⟩
/-- The package firmware and the steward run, and the host link is up. -/
def sUp : State := { base with pkg := { base.pkg with hostUp := true, stew := true, measures := [(0, 0)] } }
/-- An image of a sound signature is accepted under the vendor's key: how a key lies in its bytes is a free value (log entry 18). -/
theorem witness_BringUpAndBinding_accepted (key body sig : List Byte) (h : pssVerify key body sig = true) :
    ({ base with pkg := { base.pkg with vendor := sha512 key } } : State).imageOk { img0 with key := key, body := body, sig := sig } = true := by
  simp [State.imageOk, State.keyAllowed, img0, h]
  exact ⟨.inl (by decide), rfl⟩
theorem witness_BringUpAndBinding_refused : ({ base with pkg := { base.pkg with minSvn := 1 } } : State).imageOk img0 = false := by
  simp [State.imageOk, img0]
theorem witness_BringUpAndBinding :
    sUp.running = true ∧ (sUp.pkg.stew = true ∧ sUp.pkg.dead = false ∧ (7 : Nat) < 8 ∧ (15 : Nat) < 16) ∧
    (sUp.stackUp 0 = false ∧ (List.range 4).all sUp.stackUp = false) ∧
    (let s := { sUp with pkg := { sUp.pkg with step3 := 0xFFF }, fab := { sUp.fab with escbase := Vector.replicate 4 4096 } }
     s.stackUp 3 = true ∧ (List.range 4).all s.stackUp = true ∧ bits (nget s.fab.escbase 3 0) 0 32 ≠ 0 ∧ s.pkg.dead = false ∧
     (0x81 : Nat).testBit 7 = true ∧ (0x7F : Nat).testBit 7 = false) ∧
    sUp.hostWaits = false ∧
    ((({ base with pkg := { base.pkg with lat := 1 } } : State).clearRetired 0).applyCode 0 ≠ 0 ∧
      ∀ f < 36, (base.lpos 0 f).feret = false ∧ (base.lpos 0 f).slret = false) ∧
    ((sUp.clearRetired 0).bindVendor 0 []).isSome = true ∧ ((sUp.clearRetired 0).bindVendor 0 [0, 1]).isNone = true ∧ base.pkg.stew = false ∧
    ((base.clearRetired 0).applyCode 0 = 0 ∧ base.pkg.dead = false) ∧
    (base.launch? 1 = some oneLaunch ∧ oneLaunch.ltag = 1 ∧ oneLaunch.ending = none) := by decide +kernel

/-- A node of the page table at 0x10000 of stack 0 that is its own child, and entry `e` at its second place, under root 0. -/
def mapped (e : Word) (s : State) : State :=
  { s with mem := wrBytes (wrBytes s.mem 0x10000 (natLe 8 0x1000D)) 0x10008 (natLe 8 e.toNat),
           trans := { s.trans with ptroot := nset s.trans.ptroot 0 0x10000 } }
/-- All HBM serves. -/
def served (s : State) : State := { s with pkg := { s.pkg with hbm := 255 } }
/-- The directory at 1 MiB, its first slot holding `d0` and `d1`. -/
def withDir (d0 d1 : Nat) (s : State) : State :=
  { s with mem := wrBytes (wrBytes s.mem 0x100000 (natLe 8 d0)) 0x100008 (natLe 8 d1), trans := { s.trans with dirbase := 0x100000 } }

theorem mget_above {α : Type} (m : Map α) (k : Nat) (h : ∀ e ∈ m, e.1 < k) : mget m k = none := by
  induction m with
  | nil => rfl
  | cons x r ih =>
    have := h x (by simp)
    simp only [mget]
    rw [if_neg (by omega)]
    exact ih fun e he => h e (by simp [he])
theorem slotBad_clean (s : State) (i : Nat) (h : s.psn = []) (hd : s.descPsn = []) : s.slotBad i = false := by
  simp [State.slotBad, State.blockPsn, h, hd, mget]
theorem slotFree_above (s : State) (n i : Nat) (hp : s.psn = []) (hd : s.descPsn = []) (hn : n ≤ i) (h : ∀ e ∈ s.mem, e.1 < s.dirBase + 64 * n) :
    s.slotFree i = true := by
  have hb (k : Nat) : rdByte s.mem (s.slotAt i + k) = 0 := by
    unfold rdByte
    rw [mget_above]
    · rfl
    · intro e he
      have := h e he
      unfold State.slotAt
      omega
  simp only [State.slotFree, slotBad_clean s i hp hd, State.slotWord, State.load, rdBytes, Nat.mul_zero, Nat.add_assoc, hb]
  decide
theorem filter_none {α : Type} (p : α → Bool) (l : List α) (h : ∀ i ∈ l, p i = false) : l.filter p = [] := by
  rw [List.filter_eq_nil_iff]
  intro i hi
  rw [h i hi]
  decide
theorem noSlots (s : State) (hp : s.psn = []) (hd : s.descPsn = []) (h : ∀ e ∈ s.mem, e.1 < s.dirBase) (n : Nat) :
    (List.range n).filter (fun i => !s.slotBad i && !s.slotFree i) = [] := by
  refine filter_none _ _ fun i _ => ?_
  simp only [slotFree_above s 0 i hp hd (Nat.zero_le i) fun e he => Nat.lt_of_lt_of_le (h e he) (Nat.le_add_right _ _), Bool.not_true, Bool.and_false]
theorem firstSlot (s : State) (hp : s.psn = []) (hd : s.descPsn = []) (h : ∀ e ∈ s.mem, e.1 < s.dirBase + 64) (h0 : s.slotFree 0 = false) (n : Nat) :
    (List.range (n + 1)).filter (fun i => !s.slotBad i && !s.slotFree i) = [0] := by
  rw [List.range_succ_eq_map, List.filter_cons, h0, slotBad_clean s 0 hp hd, filter_none]
  · rfl
  · intro i hi
    obtain ⟨j, -, rfl⟩ := List.mem_map.mp hi
    simp only [slotFree_above s 1 j.succ hp hd (Nat.succ_le_succ (Nat.zero_le j)) h, Bool.not_true, Bool.and_false]
theorem dirFind_empty (s : State) (va : Nat) (b : Bool) (hp : s.psn = []) (hd : s.descPsn = []) (h : ∀ e ∈ s.mem, e.1 < s.dirBase) :
    s.dirFind va b = none := by
  unfold State.dirFind
  rw [noSlots s hp hd h 16384, List.findSome?_nil]
theorem dirFind_first (s : State) (va : Nat) (b : Bool) (hp : s.psn = []) (hd : s.descPsn = []) (h : ∀ e ∈ s.mem, e.1 < s.dirBase + 64)
    (h0 : s.slotFree 0 = false) :
    s.dirFind va b = if (s.recAt 0).holder == b && (s.recAt 0).va ≤ va && va < (s.recAt 0).va + (s.recAt 0).size then some (s.recAt 0) else none := by
  unfold State.dirFind
  rw [firstSlot s hp hd h h0 16383, List.findSome?_cons, List.findSome?_nil]
  dsimp only
  split
  · rename_i x hx
    exact hx.symm
  · rename_i hx
    exact hx.symm
theorem freeSlots_first (s : State) (h0 : s.slotFree 0 = true) : s.freeSlots' 1 ≠ [] := by
  unfold State.freeSlots'
  rw [show (16384 : Nat) = 16383 + 1 from rfl, List.range_succ_eq_map, List.filter_cons, if_pos h0]
  simp

/-- A directory whose first `n` slots are taken. -/
def fullDir (n : Nat) (s : State) : State := { s with mem := (List.range n).map fun i => (64 * i, 1), trans := { s.trans with dirbase := 0 } }
theorem mget_map (l : List Nat) (i : Nat) (hi : i ∈ l) : mget (l.map fun i => (64 * i, (1 : Byte))) (64 * i) = some 1 := by
  induction l with
  | nil => simp at hi
  | cons x r ih =>
    simp only [List.map_cons, mget]
    split
    · rfl
    · rename_i hne
      rcases List.mem_cons.mp hi with rfl | h
      · exact absurd rfl hne
      · exact ih h
theorem slotTaken (s : State) (i : Nat) (h : mget s.mem (s.slotAt i) = some 1) : s.slotFree i = false := by
  have hb : rdByte s.mem (s.slotAt i + 8 * 0) = 1 := by
    rw [Nat.mul_zero, Nat.add_zero, rdByte, h]
    rfl
  simp only [State.slotFree, State.slotWord, State.load, rdBytes, hb, leWord, leNat, Bool.and_eq_false_iff, beq_eq_false_iff_ne]
  refine .inr fun hx => ?_
  have := congrArg BitVec.toNat hx
  simp only [BitVec.toNat_ofNat, show (1 : Byte).toNat = 1 from rfl, show (0 : Word).toNat = 0 from rfl] at this
  omega
theorem fullDir_taken (s : State) (n i : Nat) (h : i < n) : (fullDir n s).slotFree i = false := by
  refine slotTaken _ _ ?_
  have ha : (fullDir n s).slotAt i = 64 * i := by
    show 0 / 2 ^ 20 * 2 ^ 20 + 64 * i = 64 * i
    omega
  rw [ha]
  exact mget_map _ i (List.mem_range.mpr h)
theorem fullDir_full (s : State) (n : Nat) (h : n = 16384) : (fullDir n s).freeSlots' 1 = [] := by
  unfold State.freeSlots'
  rw [filter_none, List.take_nil]
  intro i hi
  exact fullDir_taken s n i (h ▸ List.mem_range.mp hi)

theorem witness_HostAccesses :
    (base.pkg.hostUp = false ∧ sUp.pkg.hostUp = true ∧ barOk 0x30001 8 = false ∧ barOk 0x30000 2 = false ∧ barOk 0x50000 8 = false) ∧
    sUp.pkg.replaceAt.1 ≠ ({ sUp with now := 9 } : State).now ∧
    (let s := { sUp with trans := { sUp.trans with hbmplace0 := 1 } }
     (0 : Nat) < 2 ^ 39 ∧ 0 / 2 ^ 30 % 128 / 64 = b01 false ∧ s.trans.hbmplace0.getLsbD 0 ≠ (0 : Word).getLsbD 0) ∧
    (0xFFFFFC < 0x1000000 ∧ barOk (0x1000000 + 0xFFFFFC) 4 = true) ∧
    (let s := { sUp with pkg := { sUp.pkg with hbm := 255 } }
     s.pkg.hostUp = true ∧ s.bar2At 16 8 = some 16 ∧ s.psnAt 16 = none ∧ s.hostHeld 16 8 = false ∧
     (let u := s.setHbmLog 0 { s.hbmLog 0 with testing := [0] }
      u.bar2At 16 8 = some 16 ∧ u.hostHeld 16 8 = true) ∧
     (s.sched 1 1 (.hostBar2Write 0 [1])).hostWaits = true ∧ sUp.hostWaits = false ∧ sUp.host.d3hot = false ∧ s.bar2At (2 ^ 30) 8 = none) ∧
    ((2047 : Nat) < 2048 ∧ 2047 ∈ ({ sUp with host := { sUp.host with pending := [2047] } } : State).host.pending ∧ 2047 ∉ sUp.host.pending) ∧
    (let s := { sUp with host := { sUp.host with mbxBusy := true }, pkg := { sUp.pkg with recovery := true } }
     s.host.mbxBusy = true ∧ s.pkg.recovery = true) := by decide +kernel
theorem witness_HostAccesses_sound : sUp.Sound := by constructor <;> decide
theorem witness_TranslationEvents :
    (let found (e : Word) : Option (Nat × Nat × Word × Nat) :=
       let s := served (mapped e base)
       let x := s.walkStart 0 0 4096
       s.walkAt 4096 x.1 x.2
     found 0x203C1 = some (4096, 4096, 0x203C1, 0x10008) ∧ found 0 = none ∧
     ((served (mapped 0x203C1 base)).walkEntries 0 0 4096).any (served (mapped 0x203C1 base)).hbmWaits = false ∧
     ((served (mapped 0 base)).walkEntries 0 0 4096).any (served (mapped 0 base)).hbmWaits = false ∧
     ((mapped 0x203C1 base).walkEntries 0 0 4096).any (mapped 0x203C1 base).hbmWaits = true) ∧
    (let t := { t0 with st := .parked (.walk 4100 0) }
     let s := { on t with trans := { base.trans with faults := [(0, 0, 4096)] } }
     (0, 0, 4096) ∈ s.trans.faults ∧ s.walkAwaited 0 0 4096 = true) ∧
    (let s := { base with now := 512, trans := { base.trans with tinvBusy := true } }
     s.trans.tinvBusy = true ∧ s.trans.tinvAt + 512 ≤ s.now ∧ s.tinvPending = false) ∧
    (let s := { on tOut with now := 512, trans := { base.trans with tinvBusy := true, tinvlim := 4096 } }.sched 0 0 (.bankAccept { acc0 with va := 0 })
     s.tinvPending = true) := by decide +kernel
/-- A residency packet for the page at 4096 from device 5, with operation `op` and device field `dev`. -/
def resP (op dev : Nat) : Packet := { base.resPkt 0 op dev 4096 4096 0x30000 with src := 5 }
/-- The machine with a command for the page at `va` and device `dev` as the residency command that begins. -/
def cmdRes (va dev : Nat) (s : State) : State := { s with cmd := some ⟨va, dev, 0, none⟩ }
/-- The page at 4096 under root 0, and its entry: LOCAL at 0x20000, REMOTE on device 5, DUPL of this device and of device 5. -/
def page (e : Word) : Mapped := ⟨4096, 4096, e, 0x10008⟩
def eLocal : Word := 0x203C1
def eRemote : Word := 0x500000203D1
def eOwn : Word := 0x203E1
def eDupl : Word := 0x203E1 + 2 ^ 52 * 5
/-- A work of this device on that page, which waits for device 5; and one that another device asked for. -/
def work0 : ResWork := ⟨⟨4096, 6, 0, none⟩, none, 3, 4096, 4096, 0, 0, 0, [5], false⟩
/-- A collapse that this device serves for device 5, and the state in which it does. -/
def col0 : Collapse := { va := 4096, size := 4096, writer := 5, pa := 0x30000, acks := [5], later := [], tag := State.noTag }
def serving (c : Collapse) (s : State) : State := { s with trans := { s.trans with serving := [c] } }
theorem witness_ResidencyCommands :
    (let s := cmdRes 4096 5 base
     s.cmd = some ⟨4096, 5, 0, none⟩ ∧ s.trans.rcqt = s.trans.rcqh % s.trans.rcqn ∧ s.mappedBy 0 4096 = none ∧ s.trans.works = []) ∧
    (let m := page eLocal
     let s := cmdRes 4096 5 (mapped m.e base)
     s.mappedBy 0 4096 = some m ∧ 0 < m.size ∧ entRes m.e = 0 ∧ 5 ≠ s.devid ∧ (0 : Nat) = s.devid ∧ m.size < 2 ^ 21 ∧
     s.pendingAt (entPa m.e) m.size = false ∧ s.hbmWaits (entPa m.e % 2 ^ 40) = true ∧ (served s).hbmWaits (entPa m.e % 2 ^ 40) = false ∧
     (served s).bankFree (entPa m.e % 2 ^ 40) = true ∧ (s.sched 0 0 (.bankAccept { acc0 with pa := 0x20000 })).pendingAt (entPa m.e) m.size = true ∧
     (∃ x ∈ (serving col0 s).trans.serving, meets x.va x.size m.base m.size = true) ∧ s.workedOn m.base m.size = false ∧ s.trans.serving = [] ∧
     ({ s with trans := { s.trans with works := [{ work0 with asked := some (resP 6 6) }] } } : State).workedOn m.base m.size = true) ∧
    (let m := page eDupl
     (mapped m.e base).mappedBy 0 4096 = some m ∧ entRes m.e = 2 ∧ entOwner m.e = 5 ∧ entOwner m.e ≠ base.devid) ∧
    (let m := page eRemote
     (mapped m.e base).mappedBy 0 4096 = some m ∧ entRes m.e = 1 ∧ entRes m.e ≠ 2 ∧ entPa m.e / 2 ^ 40 = 5 ∧ 5 ≠ base.devid) ∧
    (let m := page eOwn
     (mapped m.e (withDir 0 0 base)).mappedBy 0 4096 = some m ∧ (mapped m.e (withDir 4097 (5 * 2 ^ 52 + 0x40000) base)).mappedBy 0 4096 = some m ∧
     entRes m.e = 2 ∧ entOwner m.e = base.devid) ∧
    (let m : Mapped := ⟨2 ^ 21, 2 ^ 21, 0x2003C5, 0x10008⟩
     (mapped m.e base).mappedBy 0 (2 ^ 21) = some m ∧ 2 ^ 21 ≤ m.size ∧ base.devid < 4096) := by decide +kernel
theorem witness_ResidencyCommands_sound : (cmdRes 4096 5 (mapped 0x203C1 base)).Sound := by constructor <;> decide +kernel
theorem witness_ResidencyCommands_slots :
    (fullDir 16384 base).freeSlots' 1 = [] ∧ (cmdRes 4096 5 (mapped 0x203C1 (withDir 0 0 base))).freeSlots' 1 ≠ [] :=
  ⟨fullDir_full base 16384 rfl, freeSlots_first _ (by decide +kernel)⟩
/-- The directory with a record of seven replicas of the page at 4096 in its first slot. -/
def sevenReps : State :=
  { base with mem := wrBytes base.mem 0x100000 (natLe 8 4103 ++ (List.range 7).flatMap fun i => natLe 8 ((5 + i) * 2 ^ 52 + 0x40000)),
              trans := { base.trans with dirbase := 0x100000 } }
theorem witness_ResidencyCommands_records :
    (cmdRes 4096 5 (mapped eOwn (withDir 0 0 base))).dirFind 4096 false = none ∧
    ((cmdRes 4096 5 (mapped eOwn (withDir 4097 (5 * 2 ^ 52 + 0x40000) base))).dirFind 4096 false).map (fun x => x.reps.map (·.1)) = some [5] ∧
    ((mapped eOwn sevenReps).dirFind 4096 false).map (fun x => x.reps.length) = some 7 := by
  refine ⟨dirFind_empty _ _ _ rfl rfl (by decide +kernel), ?_, ?_⟩
  · rw [dirFind_first _ _ _ rfl rfl (by decide +kernel) (by decide +kernel)]; decide +kernel
  · rw [dirFind_first _ _ _ rfl rfl (by decide +kernel) (by decide +kernel)]; decide +kernel
/-- The arrival of a packet. -/
def arrived (p : Packet) (s : State) : State := { s with pkt := some p }
/-- The hold of a write of a thread to the DUPL page at 4096. -/
def hold0 : Hold := ⟨4096, 4096, 4096, 4096, 0x20000, some (0, 0, 4100)⟩
def holding (s : State) : State := { s with trans := { s.trans with holds := [hold0] } }
def working (ws : List ResWork) (s : State) : State := { s with trans := { s.trans with works := ws } }
theorem chanHeld_reset (s : State) (hl : s.pkg.hbmLogs = State.reset.pkg.hbmLogs) (pa : Nat) : s.chanHeld pa = false := by
  unfold State.chanHeld
  rw [hl]
  simp only [State.reset, Package.reset, nget]
  split <;> simp
theorem ueReads_clean (s : State) (l u : Nat) (pas : List Nat) (hp : s.psn = []) (hd : s.descPsn = []) : s.ueReads l u pas = s := by
  unfold State.ueReads
  induction pas with
  | nil => rfl
  | cons a r ih =>
    have hb : s.blockPsn a = none := by simp [State.blockPsn, hp, hd, mget]
    rw [List.foldl_cons, if_neg (by simp [hb])]
    exact ih
/-- A packet of residency acts at once in a state that is quiet. -/
theorem actsOn_self (s : State) (q : Packet) (hq : s.pkt = some q) (ht : q.tag = State.noTag) (hs : s.trans.stalled = [])
    (ha : s.agenda.all (fun e => e.rank != State.rankAgain && e.ev.pkt.isNone) = true) (hp : s.psn = []) (hd : s.descPsn = [])
    (hl : s.pkg.hbmLogs = State.reset.pkg.hbmLogs) : ActsOn s s q := by
  have hn := List.all_eq_true.mp ha
  simp only [Bool.and_eq_true, bne_iff_ne, ne_eq, Option.isNone_iff_eq_none] at hn
  refine ⟨q, s, hq, by simp [hs], ?_, ?_, by simp [State.resClose, ht], (ueReads_clean s 0 0 _ hp hd).symm⟩
  · rw [State.resBehind, List.any_eq_false]
    intro e he
    simp [(hn e he).2]
  · rw [State.resHeld, State.waitsOn, Bool.or_eq_false_iff, List.any_eq_false, List.any_eq_false]
    exact ⟨fun x _ => by simp [chanHeld_reset s hl], fun e he => by simp [(hn e he).1]⟩
theorem recsIn_page (s : State) (va : Nat) : s.recsIn va 4096 = (s.dirFind va false).toList := by
  simp only [State.recsIn, show max 1 (4096 / 65536) = 1 from rfl, List.range_one, List.foldl_cons, List.foldl_nil, Nat.mul_zero, Nat.add_zero]
  cases s.dirFind va false <;> rfl
theorem witness_ResidencyMessages_order :
    (let p := { resP 1 5 with arr := 9 }
     let s := { arrived p base with trans := { base.trans with stalled := [resP 2 5] } }
     resEvent p.resOp = some .resCollapse ∧ (s.trans.stalled.any fun q => q.src == p.src && q.arr < p.arr) = true) ∧
    (let p := { resP 1 5 with arr := 9 }
     let s := (arrived p base).schedPkt 1 0 .resInval (resP 2 5)
     (s.trans.stalled.any fun q => q.src == p.src && q.arr < p.arr) = false ∧ s.resBehind p = true ∧ base.resBehind p = false) ∧
    (let p := { resP 3 5 with tag := 7 }
     resEvent p.resOp = some .resAck ∧ (arrived p base).pkt = some p ∧ (arrived p base).resBehind p = false ∧ (arrived p base).resClose p = none) := by
  decide +kernel
/-- An access that reached the head of the free list before holds what a message reads. -/
theorem witness_ResidencyMessages_held :
    let p := resP 2 5
    let s := (arrived p base).sched 1 1 (.bankAccept { acc0 with pa := 8 })
    s.pkt = some p ∧ s.resBehind p = false ∧ s.resHeld p = true := by
  intro p s
  refine ⟨rfl, by decide +kernel, ?_⟩
  rw [State.resHeld, State.resSpan, dirFind_empty s _ _ rfl rfl (by decide +kernel), dirFind_empty s _ _ rfl rfl (by decide +kernel)]
  decide +kernel
/-- A directory whose first slot holds, for the page at 4096, the holder record of device 5 or a record of one replica there. -/
def dirHolder : State := withDir 4096 (5 * 2 ^ 52 + 0x40000) base
def dirRecord : State := withDir 4097 (5 * 2 ^ 52 + 0x40000) base
/-- What the statement asks of a packet and of the state that acts on it. -/
abbrev Acts (p : Packet) (s : State) : Prop := ActsOn (arrived p s) (arrived p s) p
theorem witness_ResidencyMessages_acts :
    Acts (resP 1 5) (serving col0 base) ∧ Acts (resP 1 5) (working [{ work0 with op := 1 }] base) ∧ Acts (resP 1 5) dirHolder ∧
    Acts (resP 1 5) dirRecord ∧ Acts (resP 1 5) (mapped eLocal (withDir 0 0 base)) ∧ Acts (resP 1 5) (withDir 0 0 base) ∧ Acts (resP 2 5) base ∧
    Acts (resP 2 5) (mapped eDupl base) ∧ Acts (resP 2 5) ((mapped eDupl base).sched 0 0 (.bankAccept { acc0 with pa := 0x20000 })) ∧
    Acts (resP 4 5) (holding (mapped eDupl base)) ∧ Acts (resP 5 5) (holding base) ∧ Acts (resP 3 5) (serving col0 base) ∧
    Acts { resP 3 5 with status := 8 } (serving col0 base) ∧ Acts (resP 10 6) (mapped eRemote base) ∧ Acts (resP 8 0) (mapped eRemote base) ∧
    Acts (resP 10 5) (working [work0] base) := by
  refine ⟨?_, ?_, ?_, ?_, ?_, ?_, ?_, ?_, ?_, ?_, ?_, ?_, ?_, ?_, ?_, ?_⟩ <;> exact actsOn_self _ _ rfl rfl rfl (by decide +kernel) rfl rfl rfl
theorem witness_ResidencyMessages_base :
    (let p := resP 1 5
     let s := arrived p (serving col0 base)
     s.pkt = some p ∧ (s.trans.serving.find? fun c => meets c.va c.size p.resVa p.resSize) = some col0 ∧
     (s.trans.serving.find? fun c => c.va == p.resVa && c.size == p.resSize && c.acks.contains p.src) = some col0 ∧ p.status = 0 ∧
     col0.acks.filter (· != p.src) = [] ∧ col0.later = [] ∧ { col0 with acks := [5, 6] }.acks.filter (· != p.src) ≠ [] ∧ col0.writer < 4096) ∧
    (let p := resP 1 5
     let s := arrived p (working [{ work0 with op := 1 }] base)
     (s.trans.works.any fun w => (w.op = 1 || w.op = 2) && meets w.page w.size p.resVa p.resSize) = true ∧ s.trans.serving = []) ∧
    (let p := resP 1 5
     (arrived p (mapped eLocal (withDir 0 0 base))).mappings p.resVa = [page eLocal] ∧ entRes eLocal = 0 ∧ entPa eLocal + (p.resVa - 4096) < 2 ^ 52 ∧
     (withDir 0 0 base).mappings p.resVa = [] ∧ (withDir 0 0 base).trans.works = []) ∧
    (let p := resP 2 5
     let s := arrived p (mapped eDupl base)
     let m := page eDupl
     s.duplIn p.resVa p.resSize p.src = [m] ∧ m.base = p.resVa ∧ m.size ≤ p.resSize ∧ s.pendingAt (entPa m.e) m.size = false ∧ entRes m.e = 2 ∧
     s.mappings p.resVa = [m] ∧ entries (entKind m.e) = 1 ∧
     (let u := s.sched 0 0 (.bankAccept { acc0 with pa := 0x20000 })
      u.duplIn p.resVa p.resSize p.src = [m] ∧ u.pendingAt (entPa m.e) m.size = true)) ∧
    (base.duplIn 4096 4096 5 = [] ∧ base.writerWork 4096 5 = none ∧ base.writeHold (resP 4 5) = none) ∧
    (let p := resP 4 5
     let s := arrived p (holding (mapped eDupl base))
     let m := page eDupl
     s.writerWork p.resVa p.src = none ∧ s.writeHold p = some hold0 ∧ s.mappings p.resVa = [m] ∧ m.base = p.resVa ∧ entRes m.e = 2 ∧
     entPa m.e + hold0.page = hold0.pa + m.base ∧ p.status = 0 ∧ p.resDev ≠ s.devid ∧ (resP 5 0).resDev = s.devid) ∧
    ((arrived (resP 4 5) (holding base)).writeHold (resP 4 5) = some hold0 ∧ (holding base).mappings 4096 = [] ∧
     hold0.write = some (0, 0, 4100) ∧ ({ resP 5 5 with status := 8 } : Packet).status ≠ 0) ∧
    (let w := { work0 with op := 5, asked := some (resP 8 0) }
     let s := arrived (resP 4 5) (working [w] base)
     s.writerWork (resP 4 5).resVa (resP 4 5).src = some w ∧ w.await = [(resP 4 5).src] ∧ s.duplIn 4096 4096 5 = []) ∧
    (let w := { work0 with await := [5, 6] }
     let s := arrived (resP 3 5) (working [w] base)
     s.workAwaiting 4096 5 = some w ∧ w.await.filter (· != 5) ≠ [] ∧ s.trans.serving = [] ∧ (resP 3 5).status = 0) := by decide +kernel
theorem witness_ResidencyMessages_commands :
    (base.remoteAt 4096 5 4096 = none ∧ (resP 6 0).resDev = base.devid ∧ (resP 6 6).resDev ≠ base.devid) ∧
    (let p := resP 8 0
     let s := arrived p (mapped eRemote base)
     let m := page eRemote
     s.remoteAt p.resVa p.src p.resSize = some m ∧ s.samePages p.resVa m = [m] ∧ entries (entKind m.e) = 1 ∧
     s.pendingAt (entPa m.e) m.size = false ∧
     (s.sched 0 0 (.bankAccept { acc0 with pa := 0 })).pendingAt 0 4096 = true) ∧
    (let e : Word := 0x500000203D1
     let s := inUnit { UnitSt.reset with cmds := [{ cTmv with src := [(0, 5 * 2 ^ 40 + 0x20000, 1)] }] } (arrived (resP 8 0) (mapped e base))
     s.remoteAt 4096 5 4096 = some (page e) ∧ s.pendingAt (entPa e) 4096 = true) ∧
    (let p := resP 6 6
     (base.mappings p.resVa).find? (fun m => m.base == p.resVa && entRes m.e != 1 &&
       (entPa m.e == p.resPa || (entRes m.e == 2 && entOwner m.e == base.devid && p.resPa / 2 ^ 40 == p.src))) = none) ∧
    (let p := base.resPkt 0 6 6 4096 4096 0x20000
     let s := arrived { p with src := 5 } (mapped eLocal (withDir 0 0 base))
     (s.mappings p.resVa).find? (fun m => m.base == p.resVa && entRes m.e != 1 &&
       (entPa m.e == p.resPa || (entRes m.e == 2 && entOwner m.e == s.devid && p.resPa / 2 ^ 40 == p.src))) = some (page eLocal) ∧
     p.resDev ≠ s.devid ∧ s.askedBefore p = false ∧ s.workedOn 4096 4096 = false ∧ entRes eLocal = 0 ∧ s.pendingAt (entPa eLocal) 4096 = false ∧
     (served s).hbmWaits (entPa eLocal % 2 ^ 40) = false ∧ (served s).bankFree (entPa eLocal % 2 ^ 40) = true) ∧
    (let p := { resP 6 6 with tag := 9 }
     (arrived p (working [{ work0 with asked := some p }] base)).askedBefore p = true) ∧
    (let p := { base.resPkt 0 9 0 4096 4096 0x20000 with src := 5 }
     let s := arrived p (mapped eLocal (withDir 0 0 base))
     (s.mappings p.resVa).find? (fun m => entPa m.e == p.resPa || (entRes m.e == 2 && entOwner m.e == s.devid)) = some (page eLocal)) ∧
    (let p := { base.resPkt 0 9 0 (2 ^ 21) (2 ^ 21) 0x200000 with src := 5 }
     let m : Mapped := ⟨2 ^ 21, 2 ^ 21, 0x2003C5, 0x10008⟩
     let s := arrived p (mapped m.e base)
     (s.mappings p.resVa).find? (fun m => entPa m.e == p.resPa || (entRes m.e == 2 && entOwner m.e == s.devid)) = some m ∧
     s.pendingAt (entPa m.e) m.size = false ∧ ((s.release (State.holdOf m)).splitPage p.resVa m).isNone = true) ∧
    (let p := { resP 8 0 with src := 0 }
     let s := arrived p (mapped eDupl base)
     ((s.duplAt p.resVa p.src).or (s.duplAt p.resVa s.devid) = none ∧ ((arrived (resP 8 0) (mapped eDupl base)).duplAt 4096 5) = some (page eDupl)) ∧
     s.trans.holds = [] ∧ s.trans.works = []) ∧
    (let p := resP 10 5
     let s := arrived p (working [work0] base)
     p.resAnswer = true ∧ s.workAwaiting p.resVa p.src = some work0 ∧ work0.asked = none ∧ work0.await = [p.src] ∧ s.trans.rcqt = s.trans.rcqh % s.trans.rcqn ∧
     p.status = 0 ∧ work0.op ≠ 2 ∧ { p with status := 3 }.status = 3 ∧ { p with status := 8 }.status ≠ 0) ∧
    (let w := { work0 with op := 2 }
     let s := arrived (resP 10 5) (working [w] base)
     s.workAwaiting 4096 5 = some w ∧ s.ownPage w.cmd.port w.page w.src = none ∧ w.cmd.dev < 4096 ∧
     s.groupDevices.filter (· != w.cmd.dev) = [] ∧
     ({ s with fab := { s.fab with grpcfg := 2 ^ 50 + 2 ^ 44 } } : State).groupDevices.filter (· != w.cmd.dev) = [1]) ∧
    (base.workAwaiting 4096 5 = none ∧ (resP 10 5).resAnswer = true ∧ (resP 10 6).resAnswer = false ∧ (resP 10 6).resDev ≠ base.devid) := by decide +kernel
theorem witness_ResidencyMessages_slots : (arrived (resP 6 6) (mapped eLocal (withDir 0 0 base))).freeSlots' 1 ≠ [] :=
  freeSlots_first _ (by decide +kernel)
theorem witness_ResidencyMessages_directory :
    dirHolder.dirFind 4096 true = some ⟨0, 4096, 4096, [(5, 0x40000)], true⟩ ∧
    (dirRecord.dirFind 4096 true = none ∧ dirRecord.dirFind 4096 false = some ⟨0, 4096, 4096, [(5, 0x40000)], false⟩ ∧
      4096 ≤ (resP 1 5).resSize ∧ (resP 1 5).resDev ≠ dirRecord.devid ∧ dirRecord.trans.serving = [] ∧ dirRecord.trans.works = []) ∧
    ((mapped eLocal (withDir 0 0 base)).dirFind 4096 false = none ∧ (mapped eLocal (withDir 0 0 base)).dirFind 4096 true = none) := by
  refine ⟨?_, ⟨?_, ?_, by decide +kernel⟩, ?_, ?_⟩
  · rw [dirFind_first _ _ _ rfl rfl (by decide +kernel) (by decide +kernel)]; decide +kernel
  · rw [dirFind_first _ _ _ rfl rfl (by decide +kernel) (by decide +kernel)]; decide +kernel
  · rw [dirFind_first _ _ _ rfl rfl (by decide +kernel) (by decide +kernel)]; decide +kernel
  · exact dirFind_empty _ _ _ rfl rfl (by decide +kernel)
  · exact dirFind_empty _ _ _ rfl rfl (by decide +kernel)
theorem witness_ResidencyMessages_records :
    dirHolder.recsIn 4096 4096 = [] ∧ dirRecord.recsIn 4096 4096 = [⟨0, 4096, 4096, [(5, 0x40000)], false⟩] ∧
    (withDir 0 0 base).recsIn 4096 4096 = [] ∧ (withDir 0 0 base).dirFind 4096 true = none ∧ (resP 7 5).resDev ≠ dirRecord.devid ∧
    (5 : Nat) ∈ [((5 : Nat), 0x40000)].map (·.1) ∧ (resP 7 6).resDev ∉ [((5 : Nat), 0x40000)].map (·.1) := by
  refine ⟨?_, ?_, ?_, dirFind_empty _ _ _ rfl rfl (by decide +kernel), by decide +kernel, by decide, by decide +kernel⟩
  · rw [recsIn_page, dirFind_first _ _ _ rfl rfl (by decide +kernel) (by decide +kernel)]; decide +kernel
  · rw [recsIn_page, dirFind_first _ _ _ rfl rfl (by decide +kernel) (by decide +kernel)]; decide +kernel
  · rw [recsIn_page, dirFind_empty _ _ _ rfl rfl (by decide +kernel)]; rfl
theorem witness_ResidencyMessages_split :
    let m := page eLocal
    let s := mapped eLocal (withDir 0 0 base)
    ∃ v, (s.release (State.holdOf m)).splitPage 4096 m = some v ∧ v.dirFind 4096 false = none :=
  ⟨_, rfl, dirFind_empty _ _ _ rfl rfl (by decide +kernel)⟩
theorem witness_ResidencyMessages_resume :
    let w := { work0 with await := [], held := true }
    let s := working [w] (served base)
    s.trans.works = [w] ∧ w.held = true ∧ 64 * w.next < w.size ∧ s.hbmWaits (w.src + 64 * w.next) = false ∧ s.bankFree (w.src + 64 * w.next) = true ∧
    (∀ x ∈ [work0], x.held = false) := by decide +kernel
theorem witness_ResidencyMessages_sound : (arrived (resP 1 5) dirRecord).Sound := by constructor <;> decide +kernel

/-! ## The fabric and the package -/

/-- A packet of KIND `kind` from device 5, flow 5 to `dst`, with these payload dwords. -/
def pk (kind dst : Nat) (payload : List Word) : Packet :=
  { base.blankPkt kind 0 dst with src := 5, tag := 3, opsz := 3, addr := 0xE000000008, payload := payload, flow := ⟨5, 0, 0, dst⟩ }
/-- The fabric in table mode with device 9 behind port 1, and that port as `x`. -/
def fab1 (x : Link) (qs : List Queued) (s : State) : State :=
  { s with fab := { s.fab with grpcfg := 2 ^ 51, portdir := 0x70, route := [(9, true, 1)], links := nset s.fab.links 1 x, queues := qs,
                               escbase := Vector.replicate 4 4096 },
           phot := { s.phot with fup := Vector.replicate 16 0xFF }, pkg := { s.pkg with opt := 2 } }
def linkUp : Link := { Link.reset with up := true, ver20 := true, fibres := 8 }
def queued (vc : Nat) (p : Packet) : Queued := { port := 1, vc := vc, pkt := p, input := 3, headAt := some 0, frontAt := some 0, crumb := none }
/-- Device 5's atomic addition for device 9, which may combine. -/
def comb (p : Packet) : Packet := { p with win := true }
theorem witness_RouterMoves :
    (State.kindKnown (pk 0x3F 9 []) = false ∧ State.kindKnown (pk 1 0 []) = true ∧ (pk 1 0 []).arr = 0 ∧ ({ pk 1 0 [] with arr := 5 } : Packet).arr ≠ 0 ∧
     State.kindEvent (pk 1 0 []) = some .rd ∧ (pk 1 0 []).dst = base.devid ∧ (pk 0x30 0 []).payload.length < 3 ∧ State.kindKnown (pk 0x30 0 []) = true ∧
     ({ pk 0x30 0 [1, 2, 3] with poisoned := 1 } : Packet).poisoned ≠ 0 ∧ (pk 0x20 9 [wd (2 * 2 ^ 60), 0, 0]).resAnswer = false ∧
     base.routePort (pk 0x20 9 [wd (2 * 2 ^ 60), 0, 0]).flow 9 = none ∧
     (pk 0x20 0 [2 ^ 60]).payload.length < 3 ∧ (pk 0x20 0 [2 ^ 60]).resOp = 1 ∧ State.kindKnown (pk 0x20 0 [2 ^ 60]) = true) ∧
    (let s := fab1 linkUp [] base
     State.kindKnown (pk 1 9 []) = true ∧ (9 : Nat) ≠ s.devid ∧ s.routePort (pk 1 9 []).flow 9 = some 1 ∧ (s.link 1).ver20 = true ∧
     s.fab.lanes = [] ∧ s.remapped (pk 1 9 []).flow 1 = false ∧ s.heldBefore 16 (pk 1 9 []) = false ∧
     ({ s with fab := { s.fab with paths := [((pk 1 9 []).flow, 2, 864)] } } : State).remapped (pk 1 9 []).flow 1 = true ∧
     (s.sched 3 0 (.packetRoute 16 { pk 1 9 [] with arr := 1 })).heldBefore 16 { pk 1 9 [] with arr := 2 } = true ∧ s.partner 1 (pk 1 9 []) = none ∧ base.routePort (pk 1 9 []).flow 9 = none) ∧
    (let e := queued 3 (pk 2 9 [1])
     let s := fab1 linkUp [queued 1 (pk 0x10 9 [1]), e] base
     (s.link 1).up = true ∧ (s.link 1).holding = false ∧ s.sendWait 1 = 0 ∧ (s.link 1).ver20 = true ∧ s.fab.lanes = [] ∧ s.headOf 1 3 = some e ∧ e.crumb = none) ∧
    (let e := queued 1 (pk 0x10 9 [1])
     let s := fab1 linkUp [queued 0 (pk 1 9 []), e] base
     s.headOf 1 3 = none ∧ s.headOf 1 1 = some e ∧ s.sendWait 1 = 0) ∧
    ((fab1 Link.reset [] base).link 1).up = false ∧
    (let e := queued 0 (comb (pk 4 9 [1, 0]))
     let s := fab1 linkUp [e] { base with fab := { base.fab with comb := true, hold := 64 } }
     s.headOf 1 0 = some e ∧ e.headAt = some 0 ∧ s.heldHead e = true ∧ { s with now := 64 }.heldHead e = false) ∧
    (let e := queued 0 (pk 1 9 [])
     let s := fab1 linkUp [e] { base with now := us 20 }
     s.inputOf 3 0 = [e] ∧ e.frontAt = some 0 ∧ 0 + us s.fab.dltimer ≤ s.now ∧ base.now < 0 + us base.fab.dltimer ∧
     (s.inputOf 3 0).filter (fun x => x.pkt.flow == e.pkt.flow) = [e] ∧
     s.lanePlace (e.port / 4) (roundUp (32 + 8 * e.pkt.payload.length) 64) = some 0) := by decide +kernel

/-- A posted write of the flow of `p`, earlier than it, that waits for its bank. -/
def behind (p : Packet) (s : State) : State :=
  { s.schedPkt 1 0 .wr { p with kind := 2, vc := 2 } with pkt := some { p with arr := 1 } }
theorem witness_HomesReadAndWrite :
    (let p := pk 1 0 [1]
     let s := arrived p base
     s.pkt = some p ∧ p.opsz ≤ 3 ∧ p.payload ≠ [] ∧ s.homeChk p.addr 8 = .go ∧ s.psnAt p.addr = none ∧ s.earlierPosted p = false ∧
     p.flow ∉ s.fab.failed ∧ p.flow ∈ [p.flow]) ∧
    (let s := { arrived (pk 1 0 [1]) base with psn := [(0x1C00000001, ⟨0x041, 0⟩)] }
     s.homeChk 0xE000000008 8 = .go ∧ s.psnAt 0xE000000008 = some ⟨0x041, 0⟩) ∧
    base.homeChk 0xE000000009 8 = .fault 3 ∧ base.homeChk 0 8 = .again 1 ∧
    (let p := { pk 2 0 [1] with arr := 1 }
     (behind (pk 2 0 [1]) base).pkt = some p ∧ (behind (pk 2 0 [1]) base).earlierPosted p = true) ∧
    bits ((pk 0x30 0 [1]).dw 0) 0 8 = 1 ∧ bits ((pk 0x30 0 [2]).dw 0) 0 8 ≠ 1 := by decide +kernel
theorem witness_HomesReadAndWrite_sound : (arrived (pk 1 0 [1]) base).Sound ∧ (behind (pk 2 0 [1]) base).Sound := by
  constructor <;> constructor <;> decide
def cached0 : Cached := { src := 5, tag := 3, value := 7, status := 0, at_ := 0 }
/-- 65,536 young entries, of which none answers device 5's tag 3. -/
def fullCache : State := { base with fab := { base.fab with cache := List.replicate 65536 { cached0 with tag := 4 } } }
def matm0 : Packet := { pk 6 0 [wd (5 * 2 ^ 52 + 2 ^ 32), 10, wd (6 * 2 ^ 52 + 2 ^ 32), 20] with nleaf := 1, win := true, aux := 0 }
theorem witness_HomesApplyAtomics :
    (let p := pk 4 0 [1, 0]
     let s := arrived p base
     s.pkt = some p ∧ (p.opsz = 2 ∨ p.opsz = 3) ∧ 2 ≤ p.payload.length ∧ s.homeChk p.addr 8 = .go ∧ s.psnAt p.addr = none ∧
     p.poisoned = 0 ∧ ({ p with poisoned := 2 } : Packet).poisoned ≠ 0 ∧
     atomOf p.op = some .add ∧ s.cachedOf p.src p.tag = none ∧ s.cacheRoom 1 = true ∧ p.win = false ∧ p.vc = 0 ∧ (comb p).win = true) ∧
    ({ base with fab := { base.fab with cache := [cached0] } }.cachedOf 5 3 = some cached0) ∧
    (let a := leafOf (matm0.dw 0) (matm0.dw 1)
     let b := leafOf (matm0.dw 2) (matm0.dw 3)
     let s := arrived matm0 base
     matm0.kind = 6 ∧ matm0.op = 0 ∧ matm0.nleaf = 1 ∧ 4 ≤ matm0.payload.length ∧ atomOf matm0.op = some .add ∧ s.cacheRoom 2 = true ∧
     a.src ≠ b.src ∧ s.cachedOf a.src a.tag = none ∧ s.cachedOf b.src b.tag = none) := by decide +kernel
theorem fullCache_none (n : Nat) :
    { base with fab := { base.fab with cache := List.replicate n { cached0 with tag := 4 } } }.cachedOf 5 3 = none := by
  rw [State.cachedOf, List.find?_eq_none]
  intro x hx
  rw [List.eq_of_mem_replicate hx]
  simp [cached0]
theorem fullCache_full (n : Nat) (h : 65536 ≤ n) :
    { base with fab := { base.fab with cache := List.replicate n { cached0 with tag := 4 } } }.cacheRoom 1 = false := by
  rw [State.cacheRoom, List.filter_replicate]
  have hy : State.young { base with fab := { base.fab with cache := List.replicate n { cached0 with tag := 4 } } } { cached0 with tag := 4 } = true :=
    decide_eq_true (show 0 < us 100 by decide)
  rw [if_pos hy, List.length_replicate]
  exact decide_eq_false (Nat.not_le.mpr (Nat.lt_succ_of_le h))
theorem witness_HomesApplyAtomics_full : fullCache.cachedOf 5 3 = none ∧ fullCache.cacheRoom 1 = false :=
  ⟨fullCache_none _, fullCache_full _ (Nat.le_refl _)⟩
theorem witness_HomesApplyAtomics_sound : (arrived (pk 4 0 [1, 0]) base).Sound ∧ (arrived matm0 base).Sound := by
  constructor <;> constructor <;> decide
theorem witness_MessagesReachTheirUnit :
    (let p := { pk 7 0 [0, 5] with aux := 2 ^ 9 }
     let s := arrived p base
     s.pkt = some p ∧ s.cachedOf p.src p.tag = none ∧ s.cacheRoom 1 = true ∧ p.aux % 8 + 2 ≤ p.payload.length ∧
     p.poisoned.testBit 0 = false ∧ p.poisoned % 4 = 0 ∧ (1 : Nat).testBit 0 = true ∧ (2 : Nat) % 4 ≠ 0 ∧
     p.aux / 2 ^ 3 % 8 + 2 ≤ p.payload.length ∧ s.present (p.aux / 2 ^ 9 % 128) = false ∧ s.present (0 / 2 ^ 9 % 128) = true) := by decide +kernel

/-- Request 3, sent `n` times, whose reply goes to `what`; and its reply with this STATUS, arrived at `s`. -/
def req0 (n : Nat) (what : ReqWhat) : Req := { tag := 3, pkt := { pk 1 9 [] with opsz := 3 }, sends := n, sentAt := 0, what := what }
def replied (status n : Nat) (what : ReqWhat) (s : State) : State :=
  { s with pkt := some { pk 0x10 0 [5] with src := 9, status := status, addr := 0 }, fab := { s.fab with reqs := [(3, req0 n what)] } }
theorem witness_RepliesComplete :
    (let t := { t0 with rb := [ent 0] }
     let s := replied 0 1 (.load r0 0 8 false 9) (on t)
     ∃ p, s.pkt = some p ∧ rising s.fab.reqs = true ∧ p.status = 0 ∧ p.poisoned = 0 ∧ mget s.fab.reqs p.tag = some (req0 1 (.load r0 0 8 false 9)) ∧
       (req0 1 (.load r0 0 8 false 9)).pkt.opsz ≠ 4 ∧ s.ref? r0 = some t ∧ t.former = [] ∧ t.st = .ready ∧ p.tag < 0x80000 ∧ mget base.fab.reqs p.tag = none) ∧
    (∃ p, (replied 7 1 (.load r0 0 8 false 9) base).pkt = some p ∧ p.status = 7 ∧ p.addr ≠ 2 ∧ p.addr ≠ 5) ∧
    (∃ p, (replied 2 1 (.post ⟨r0, 1, 9⟩) base).pkt = some p ∧ p.status ≤ 5) ∧
    (req0 1 .none).sends < 3 ∧ 3 ≤ (req0 3 .none).sends ∧ (3 ≤ (req0 3 .res).sends ∧ (req0 3 .res).what = .res ∧ (req0 3 .res).pkt.dst < 4096) ∧ base.disp.launches ≠ [] ∧
    (let s := { replied 0 1 (.winAck r0 9) base with disp := { base.disp with launches := [] } }
     s.disp.launches = [] ∧ s.ref? r0 = some t0) := by
  refine ⟨⟨_, rfl, ?_⟩, ⟨_, rfl, ?_⟩, ⟨_, rfl, ?_⟩, ?_⟩ <;> decide
theorem witness_RepliesComplete_sound : (replied 0 1 (.load r0 0 8 false 9) (on { t0 with rb := [ent 0] })).Sound := by constructor <;> decide
def crumb0 (psn : Bool) : Crumb :=
  { op := 1, dst := 9, addr := 8, psn := psn, addends := [10, 20],
    members := [{ src := 5, tag := 3, noreply := false, input := 1, first := 0, nl := 1 }, { src := 6, tag := 3, noreply := false, input := 2, first := 1, nl := 1 }] }
def withCrumb (psn : Bool) : State :=
  { base with pkt := some { pk 0x12 0 [5, 0] with tag := 0x80000 }, fab := { base.fab with crumbs := [(0, crumb0 psn)] } }
theorem witness_CrumbsSplitReplies :
    (∃ p, (withCrumb false).pkt = some p ∧ rising (withCrumb false).fab.crumbs = true ∧ mget (withCrumb false).fab.crumbs 0 = some (crumb0 false) ∧
      p.tag = 0x80000 + 0 ∧ p.dw 1 = 0 ∧ p.status = 0 ∧ (pk 0x12 0 []).tag < 0x80000) ∧
    (∃ m n, (crumb0 false).members = [m, n] ∧ m.nl = 1 ∧ n.nl = 1 ∧ m.first = 0 ∧ n.first = 1 ∧ m.noreply = false ∧ n.noreply = false) ∧
    (crumb0 false).op = 1 ∧ (crumb0 false).addends.length = 2 ∧ (crumb0 true).psn = true := by
  refine ⟨⟨_, rfl, ?_⟩, ⟨_, _, rfl, ?_⟩, ?_⟩ <;> decide
theorem witness_LinksAndOptics :
    ((fab1 { linkUp with holding := true } [] base).link 1).up = true ∧ ((fab1 { linkUp with holding := true } [] base).link 1).holding = true ∧
    linkUp.retrains < 2 ∧ 2 ≤ { linkUp with retrains := 2 }.retrains ∧ (fab1 linkUp [] base).fab.queues = [] ∧ (fab1 linkUp [] base).fab.lanes = [] ∧
    (let s := { fab1 linkUp [] base with phot := { base.phot with fup := Vector.replicate 16 0xFF } }
     (nget s.phot.fup 1 0).getLsbD 7 = true ∧ 1 < (s.link 1).fibres) ∧
    (let s := { fab1 { linkUp with fibres := 1 } [] base with phot := { base.phot with fup := Vector.replicate 16 0x80 } }
     (nget s.phot.fup 1 0).getLsbD 7 = true ∧ (s.link 1).fibres = 1 ∧ (s.link 1).up = true ∧ s.fab.queues = [] ∧ s.fab.lanes = []) ∧
    ((let f := BitVec.ofNat 8 (2 ^ 7)
      { linkUp with rx := 0xFF }.rx &&& ~~~f ≠ 0 ∧ { linkUp with rx := 0x80 }.rx &&& ~~~f = 0) ∧
     (let s := fab1 { linkUp with rx := 0x80 } [] base
      (s.link 1).rx = 0x80 ∧ (s.link 1).up = true ∧ s.fab.queues = [] ∧ s.fab.lanes = [])) ∧
    (nget base.phot.fup 1 0).getLsbD 7 = false ∧ (base.ring 1 7 67).men = false ∧ (base.ring 1 7 63).men = true ∧
    (wd (2 ^ 47 + 63 * 2 ^ 40)).getLsbD 47 = true ∧
    (List.range 68).find? (fun k => k != 67 && (base.ring 1 7 k).men && (base.ring 1 7 k).map == bits (wd (2 ^ 47 + 63 * 2 ^ 40)) 40 6) = some 63 := by
  decide +kernel
/-- Pseudo-channel 0 of HBM4E stack 0 is in a lane test. -/
def inTest : State := base.setHbmLog 0 { base.hbmLog 0 with testing := [0] }
theorem witness_ErrorsOfThePackage : (base.pkg.clkStep ≠ 63 ∧ base.pkg.clkStep = 0) ∧ base.inSram 0xE000000008 = true ∧ base.ref? r0 = some t0 ∧
    base.channel 0 / 64 < 8 ∧ base.channel (2 ^ 39 - 1) / 64 < 8 ∧ (base.channel 0 % 64) ∈ (inTest.hbmLog (base.channel 0 / 64)).testing ∧
    ((mget (inTest.hbmLog 0).lanemap 0).getD 0).getLsbD 7 = false ∧ t0.inVault (t0.vaultKey 31) = true ∧ t0.inVault 0 = false ∧
    Thread.hasParity (canonReg (.special 0x10)) = true ∧ Thread.hasParity (canonReg (.sem 7)) = true ∧ base.crew? 0 0 = none ∧
    base.crew? 1 0 = some oneCrew ∧ (mget (withCrumb false).fab.crumbs 0 = some (crumb0 false) ∧ rising (withCrumb false).fab.crumbs = true) := by decide +kernel
theorem witness_ErrorsOfThePackage_sound : inTest.Sound := by constructor <;> decide +kernel

/-! ## The machine -/

theorem witness_DecodeEncodeRoundTrip : (Instr.addi true 0xFF (.main 63) .lat).wf = true ∧ (Instr.liLit false 0x0123456789ABCDEF (.main 5)).wf = true := by
  decide
/-- The state with an instruction word, the oldest of a round: the thread at it issues. -/
def atWord (w : Nat) : State := State.reset.withFetchWord 32 w
theorem witness_StepKeepsSound : base.Sound ∧ ∃ u, step base = .next u := ⟨base_sound, _, rfl⟩
theorem witness_MachineNeverStops : base.Sound ∧ base.curThread? = some t0 := ⟨base_sound, by decide⟩
theorem witness_StepTakesTurns :
    (let e : Event := { op := .pdRefresh, pkt := none, cmd := none }
     { base with inputs := [e] }.inputs = e :: [] ∧ (base.sched 0 0 .pdRefresh).agenda.length = 1) ∧
    (State.reset.inputs = [] ∧ State.reset.agenda = [] ∧ State.reset.nextIssue.isNone = true) ∧
    (∃ s1 t, base.nextIssue = some (s1, t)) := by
  refine ⟨by decide, by decide, ?_⟩
  have h : base.nextIssue.isSome = true := by decide +kernel
  obtain ⟨⟨s1, t⟩, h⟩ := Option.isSome_iff_exists.mp h
  exact ⟨s1, t, h⟩
/-- What the statement about a step asks of the state in which a thread is about to issue. -/
theorem witness_StepRunsDecodedInstruction :
    (let s := atWord 0xFFFFFD10
     s.inputs = [] ∧ s.agenda = [] ∧ (s.nextIssue.map fun x => x.2.ref) = some r0 ∧ s.fetch t0 = .words [0xFFFFFD10] ∧
     (decode [0xFFFFFD10]).toOption = some (.br false 0x3FFFFF) ∧ t0.async = [] ∧ t0.skipc = 0 ∧ t0.twin = none ∧
     sourcePsn t0 (.br false 0x3FFFFF) = none ∧ readsVault (.br false 0x3FFFFF) = false) ∧
    (let s := atWord 0xFFFFFD10
     (match s.before t0 (.br false 0x3FFFFF) with | .go _ => true | _ => false) = true ∧
     (let t := { t0 with twin := some { unit := 1, slot := 0, fp := 0 } }
      (match (s.setThread t).before t (.br false 0x3FFFFF) with | .go _ => true | _ => false) = true ∧
      ∀ w, t.twin = some w → w.own = [])) ∧
    ((atWord 0x3F0).fetch t0 = .words [0x3F0] ∧ (decode [0x3F0]).toOption = none) ∧
    ((on { t0 with async := [⟨0, 0⟩] }).nextIssue.map fun x => x.2.async) = some [⟨0, 0⟩] ∧
    ((on { t0 with skipc := 1 }).nextIssue.map fun x => x.2.skipc) = some 1 := by decide +kernel

/-! ## Terms that the checks refuse (R243, R247) -/

theorem test_wf_event : Instr.pdRefresh.wf = false := by decide
theorem test_wf_bits_width : (Instr.sext false 3 (.main 1) (.main 2)).wf = false ∧ (Instr.zext false 3 (.main 1) (.main 2)).wf = false := by decide
theorem test_wf_bit_field : (Instr.bfx false 60 4 (.main 1) (.main 2)).wf = false ∧ (Instr.bfi false 60 3 (.main 1) (.main 2)).wf = true := by decide
theorem test_wf_skip_count : (Instr.cmp false 0 0 .k0 (.imm 0)).wf = false ∧ (Instr.cmpLit false 0 0 .k0 0).wf = false ∧
    (Instr.fcmp false false 0 0 .k0 .k0).wf = false := by decide
theorem test_wf_scalar_rounding : (Instr.ffma false true 5 .k0 .k0 .k0 .k0).wf = false ∧ (Instr.faddExt false true 6 .k0 .k0 .k0).wf = false := by decide
theorem test_wf_fcvt : (Instr.fcvt false false 0 0x40 5 .k0 .k0).wf = false ∧ (Instr.fcvt false false 0 5 0xC8 .k0 .k0).wf = false ∧
    (Instr.fcvt false false 5 5 6 .k0 .k0).wf = false := by decide
theorem test_wf_load_extends : (Instr.ld false false true 3 0 .k0 .k0).wf = false ∧ (Instr.ldLit false false true 3 0 .k0 .k0).wf = false := by decide
theorem test_wf_fence_scope : (Instr.fence false 6).wf = false := by decide
theorem test_wf_salloc_level : (Instr.salloc false 0 .k0 .k0).wf = false := by decide
theorem test_wf_runs : (Instr.append false 7 0 .k0 (.main 25)).wf = false ∧ (Instr.append false 7 0 .k0 (.main 24)).wf = true ∧
    (Instr.recv false 1 0 false .lat).wf = false ∧ (Instr.spawn false 2 0 false 0 false .k0 .k0 (.opf 7)).wf = false := by decide
theorem test_wf_spawn_counts : (Instr.spawn false 5 0 false 0 false .k0 .k0 .k0).wf = false ∧ (Instr.spawnLit false 5 0 false 0 false 0 .k0 .k0).wf = false ∧
    (Instr.spawnr false 5 0 0 .k0 .k0 .k0).wf = false ∧ (Instr.spawnrLit false 0 0 0 0 .k0 (.main 1)).wf = false := by decide
theorem test_wf_spawn_fields : (Instr.spawn false 1 0 false 9 false .k0 .k0 .k0).wf = false ∧ (Instr.spawn false 1 0 false 9 true .k0 .k0 .k0).wf = true ∧
    (Instr.spawn false 1 3 false 0 false .k0 .k0 .k0).wf = false ∧ (Instr.spawn false 1 3 true 0 false .k0 .k0 .k0).wf = true ∧
    (Instr.spawnLit false 1 0 false 9 false 0 .k0 .k0).wf = false ∧ (Instr.spawnLit false 1 3 false 0 false 0 .k0 .k0).wf = false := by decide
theorem test_wf_post_count : (Instr.post false 0 0 .k0).wf = false := by decide
/-- Each engine instruction is well formed with the fields that it has, and not with one that it has not. -/
def plain (d a n : Operand) (shape : BitVec 20) : Ext := { ext0 with d := d, a := a, n := n, shape := shape, fmt := 0 }
def dense (f : BitVec 8) : Ext := { ext0 with a := .main 3, fmt := f, shape := f.setWidth 20 }
theorem test_wf_copies :
    (let e := plain (.main 1) (.main 3) (.main 2) 0
     (Instr.tmv e).wf = true ∧ (Instr.tmv { e with b := .main 1 }).wf = false ∧ (Instr.tmv { e with fmt := 1 }).wf = false) ∧
    (let e := plain .k0 (.main 3) .k0 63
     (Instr.cxtpl { e with shape := 255 }).wf = true ∧ (Instr.cxtpl { e with d := .main 1 }).wf = false ∧
     (Instr.cxgo { e with shape := 0 }).wf = true ∧ (Instr.cxgo { e with shape := 0, dsem := 1 }).wf = false ∧
     (Instr.cxwm { e with b := .main 2 }).wf = true ∧ (Instr.cxwm { e with b := .main 2, shape := 64 }).wf = false) ∧
    (let e := plain .k0 .k0 .k0 63
     (Instr.cxstop { e with d := .main 1 }).wf = true ∧ (Instr.cxstop { e with a := .main 1 }).wf = false ∧
     (Instr.cxrst e).wf = true ∧ (Instr.cxrst { e with cen := true }).wf = false) := by decide
theorem test_wf_vector_fields :
    (let e := dense 0xC0
     (Instr.vadd { e with b := .main 4 }).wf = true ∧ (Instr.vadd { e with x := true }).wf = false ∧ (Instr.vfma e).wf = true ∧
     (Instr.vfma { e with rm := 6 }).wf = false ∧ (Instr.vabs e).wf = true ∧ (Instr.vabs { e with b := .main 1 }).wf = false ∧
     (Instr.vcvt e).wf = true ∧ (Instr.vcvt { e with c := .main 1 }).wf = false ∧ (Instr.vred e).wf = true ∧
     (Instr.vred { e with c := .main 1 }).wf = false ∧ (Instr.vunpk e).wf = true ∧ (Instr.vunpk { e with c := .main 1 }).wf = false) := by decide
theorem test_wf_vector_formats :
    (let e := dense 0xC0
     (Instr.vadd { e with fmt := 6 }).wf = false ∧ (Instr.vgath e).wf = true ∧ (Instr.vgath { e with fmt := 0xC8 }).wf = false ∧
     (Instr.vpack e).wf = true ∧ (Instr.vpack { e with fmt := 0x88 }).wf = false ∧ (Instr.vlut { e with shape := 1 }).wf = true ∧
     (Instr.vlut e).wf = false ∧ (Instr.vtopk e).wf = true ∧ (Instr.vtopk { e with shape := 5 }).wf = false) ∧
    (let e := dense 0x80
     (Instr.vscat e).wf = true ∧ (Instr.vscat { e with shape := 0x20080 }).wf = false ∧ (Instr.vscale { e with shape := 0x20080 }).wf = true ∧
     (Instr.vscale e).wf = false) ∧
    (let e := { dense 0xC0 with a := .k0, shape := 0 }
     (Instr.vfill e).wf = true ∧ (Instr.vfill { e with shape := 1 }).wf = false ∧ (Instr.viota e).wf = true ∧
     (Instr.viota { e with cen := true }).wf = false) := by decide
theorem test_wf_matrix :
    (let e := { plain .k0 (.main 3) (.main 2) 0 with fmt := 0xC0, shape := 0xC0000, b := .main 5, c := .main 4 }
     (Instr.mma e).wf = true ∧ (Instr.mma { e with d := .main 1 }).wf = false ∧ (Instr.mmas e).wf = true ∧
     (Instr.mmas { e with fmt := 0xC1 }).wf = false) ∧
    (let e := { plain .k0 (.main 3) .k0 8 with fmt := 0xC0 }
     (Instr.mald e).wf = true ∧ (Instr.mald { e with b := .main 1 }).wf = false ∧ (Instr.mast { e with a := .k0, d := .main 1 }).wf = true ∧
     (Instr.mast { e with a := .k0, d := .main 1, fmt := 0xC8 }).wf = false) ∧
    (let e := plain .k0 .k0 .k0 8
     (Instr.maz e).wf = true ∧ (Instr.maz { e with shape := 0 }).wf = false ∧ (Instr.mstat { e with d := .main 1, shape := 1 }).wf = true ∧
     (Instr.mstat { e with d := .main 1, shape := 2 }).wf = false ∧ (Instr.mring { e with shape := 0 }).wf = true ∧
     (Instr.mring { e with shape := 0, n := .main 1 }).wf = false) := by decide

/-! ## Words written out from R239 to R246: fields from the top bit down -/

/-- R244's table and the example after R254. -/
theorem test_decode_example : decode [0x90104900] = .ok (.cmp false 2 2 (.main 8) (.imm 0x10)) ∧
    decode [0x000044D2, 0x56789ABC, 0x00001234] = .ok (.liLit false 0x123456789ABC (.main 17)) ∧
    decode [0x1316460C] = .ok (.st true false 3 1 (.main 17) (.main 11)) ∧ decode [0x01102080] = .ok (.addi false 1 (.main 8) (.main 8)) := by decide
/-- RRR: X, B, A, D, MAJ, S, LEN. -/
theorem test_decode_rrr : decode [0b1_0000011_0000010_0000001_0000100_0_00] = .ok (.div false true (.main 1) (.main 2) (.main 3)) ∧
    decode [0b0_0000011_0000010_0100001_0000001_1_00] = .ok (.sub true (.opf 1) (.main 2) (.main 3)) ∧
    decode [0b1_0000011_0000010_1000000_0001011_0_00] = .ok (.shr false true .lat (.main 2) (.main 3)) := by decide
/-- BITS: B holds 0, the width, the function. -/
theorem test_decode_bits : decode [0b0_0000010_0000010_0000001_0001111_0_00] = .ok (.popc false (.main 1) (.main 2)) ∧
    decode [0b0_0010100_0000010_0000001_0001111_0_00] = .ok (.sext false 2 (.main 1) (.main 2)) ∧
    decode [0b0_0001101_0000010_0000001_0001111_0_00] = .ok (.zext false 1 (.main 1) (.main 2)) := by decide
/-- RRI: imm8, A, D; a literal stands for imm8. -/
theorem test_decode_rri : decode [0b01000101_0000010_0000001_0010110_0_00] = .ok (.shri false true 5 (.main 1) (.main 2)) ∧
    decode [0b00000000_0000010_0000001_0010000_0_10, 0xFFFFFFFF, 0x7FFFFFFF] = .ok (.addiLit false 0x7FFFFFFFFFFFFFFF (.main 1) (.main 2)) ∧
    decode [0b00000000_0000010_0000001_0011100_0_10, 0b00_000111_00_000100, 0] = .ok (.bfx false 4 7 (.main 1) (.main 2)) ∧
    decode [0b00000000_0000010_0100011_0011111_0_00] = .ok (.pfr false 3 (.main 2)) := by decide
/-- CMP: I, B, A, 0, K, COND. -/
theorem test_decode_cmp : decode [0b0_0000011_0000010_00_11_101_0100000_0_00] = .ok (.cmp false 5 3 (.main 2) (.reg (.main 3))) ∧
    decode [0b1_0000011_0000010_00_01_110_0100001_0_00] = .ok (.fcmp false true 6 1 (.main 2) (.main 3)) ∧
    decode [0b1_0000000_0000010_00_01_010_0100000_0_10, 0x80, 0] = .ok (.cmpLit false 2 1 (.main 2) 0x80) := by decide
/-- BR, LP and Z. -/
theorem test_decode_control : decode [0b0000000000000000000101_0100011_0_00] = .ok (.call false 5) ∧
    decode [0b111111111111110_0000001_0100111_0_00] = .ok (.loop false 0x7FFE (.main 1)) ∧
    decode [0b0_0000000_0000010_0000000_0100101_0_00] = .ok (.callr false (.main 2)) := by decide
/-- The extended form: N, C, SAT, CSEM, CEN, DSEM, FUNC; SHAPE, FMT, FSRC, RM. -/
theorem test_decode_float : decode [0b1_0000011_0000010_0000001_0110011_0_01, 0b00_0000000_0000100_0_000_0_000_00000000, 3] =
      .ok (.ffma false true 3 (.main 1) (.main 2) (.main 3) (.main 4)) ∧
    decode [0b0_0000000_0000010_0000001_0111000_0_01, 0b00_0000000_0000000_1_000_0_000_00000000, 0b00000000000011000001_00000101_0_001] =
      .ok (.fcvt false true 1 5 0xC1 (.main 1) (.main 2)) ∧
    decode [0b1_0000000_0000010_0000001_0111001_0_00] = .ok (.fclass false true (.main 1) (.main 2)) := by decide
/-- M: imm4, RX, SX, SZ, A, D. -/
theorem test_decode_memory : decode [0b1111_1_1_01_0000010_0000001_1000000_0_00] = .ok (.ld false true true 1 15 (.main 1) (.main 2)) ∧
    decode [0b0000_0_0_11_0000010_0000001_1000001_0_10, 0xFFFFFFF8, 0xFFFFFFFF] = .ok (.stLit false false 3 0xFFFFFFFFFFFFFFF8 (.main 1) (.main 2)) ∧
    decode [0b0011_0_0_01_0000010_0000001_1000010_0_00] = .ok (.ldbd false 3 (.main 1) (.main 2)) ∧
    decode [0b0001_0_0_11_0000010_0000010_1000110_0_00] = .ok (.stq false 2 1 (.main 2)) ∧
    decode [0b0000_0_0_10_0000010_0000001_1001000_0_00] = .ok (.salloc false 2 (.main 1) (.main 2)) := by decide
/-- QM, FENCE's scope in SEM, FLUSHR, SFREE. -/
theorem test_decode_ordering : decode [0b0000000000000_11_0000001_1000111_0_00] = .ok (.qmov false 3 (.main 1)) ∧
    decode [0b00000000_0000000_0000_101_1000100_0_00] = .ok (.fence false 5) ∧
    decode [0b0_0000000_0000010_0000000_1000101_0_00] = .ok (.flushr false (.main 2)) ∧
    decode [0b0_0000000_0000010_0000000_1001001_0_00] = .ok (.sfree false (.main 2)) := by decide
theorem test_decode_atomics : decode [0b1_0000011_0000010_0000000_1010110_0_00] = .ok (.axchg false true .k0 (.main 2) (.main 3)) ∧
    decode [0b0_0000011_0000010_0000001_1010111_0_01, 0b00_0000000_0000100_0_000_0_000_00000000, 0] =
      .ok (.acas false false (.main 1) (.main 2) (.main 3) (.main 4)) := by decide
/-- APPEND, SPAWN and SPAWNR: N their count, SHAPE their other fields (R289, R297, R298). -/
theorem test_decode_messages : decode [0b0_0001000_0000010_0000000_1011001_0_01, 0b00_0000011_0000000_0_000_0_101_00000000, 0] =
      .ok (.append false 3 5 (.main 2) (.main 8)) ∧
    decode [0b0_0001000_0000000_0000001_1100000_0_11, 0b00_0000010_0000000_0_000_0_000_00000000, 0, 0x100, 0] =
      .ok (.spawnLit false 2 0 false 0 false 0x100 (.main 1) (.main 8)) := by decide
/-- SY: imm8, A, 0, SEM. -/
theorem test_decode_sync : decode [0b00000101_0000010_0000_011_1100101_0_00] = .ok (.wait false 3 5 (.main 2)) ∧
    decode [0b00000101_0000010_0000_000_1100100_0_00] = .ok (.setpri false 5 (.main 2)) ∧
    decode [0b00000000_0000010_0000_111_1101010_1_00] = .ok (.bararr true 7 (.main 2)) ∧
    decode [0b0_0000011_0000010_0000001_1101001_0_01, 0, 0] = .ok (.barinit false (.main 1) (.main 2) (.main 3)) := by decide
theorem test_decode_patterns : decode [0b0_0000000_0000010_0000000_1101100_0_11, 0b00_0000000_0000100_0_000_0_000_00000000,
      0b00000000000000011111_00000000_0_000, 0x200, 0] = .ok (.patsetLit false 31 0x200 (.main 2) (.main 4)) ∧
    decode [0b00000101_0000010_0000_000_1101101_0_00] = .ok (.patclr false 5 (.main 2)) := by decide
theorem test_decode_system : decode [0b00001001_0000000_0000_000_1110001_0_00] = .ok (.sysc false 9) ∧
    decode [0b0_0010011_0000010_0000000_1110100_0_00] = .ok (.mts false 0x13 (.main 2)) ∧
    decode [0b0000000000000_10_0000000_1111001_0_00] = .ok (.clk false 2) ∧
    decode [0b01000011_0000000_0000001_1111101_0_00] = .ok (.portstat false true 3 (.main 1)) ∧
    decode [0b0_0000011_0000010_0000000_1111011_0_00] = .ok (.capx false (.main 2) (.main 3)) := by decide
/-- Engines: FUNC chooses within the group. -/
theorem test_decode_engines :
    decode [0b0_0000000_0000010_0000001_0111100_0_01, 0b00_0000101_0000000_0_010_1_001_00000000, 0] =
      .ok (.tmv { ext0 with a := .main 2, d := .main 1, n := .main 5, csem := 2, cen := true, dsem := 1, shape := 0, fmt := 0 }) ∧
    decode [0b0_0000000_0000010_0000000_0111101_0_01, 0b00_0000000_0000000_0_000_0_000_00000000, 0b00000000000000000111_00000000_0_000] =
      .ok (.cxtpl { ext0 with b := .k0, a := .main 2, d := .k0, n := .k0, dsem := 0, shape := 7, fmt := 0 }) ∧
    decode [0b0_0000000_0000000_0000001_0111110_0_01, 0b00_0000010_0000000_0_000_0_000_00010110, 0b00000000000000000000_10000000_0_000] =
      .ok (.vfill { ext0 with b := .k0, a := .k0, d := .main 1, n := .main 2, dsem := 0, shape := 0, fmt := 0x80 }) ∧
    decode [0b0_0000000_0000000_0000000_0111111_0_01, 0b00_0000000_0000000_0_000_0_011_00000100, 0b00000000000000001000_00000000_0_000] =
      .ok (.maz { ext0 with b := .k0, a := .k0, d := .k0, n := .k0, dsem := 3, shape := 8, fmt := 0 }) := by decide
/-- Words that are illegal, with the SUB and the WORD of R382: an unassigned FUNC, a rounding code, a width, an operand run. -/
theorem test_decode_refused : decode [0b0_0000000_0000000_0000000_0111110_0_01, 0x1A, 0] = .error ⟨0, 1⟩ ∧
    decode [0b0_0000000_0000000_0000000_0110011_0_01, 0, 5] = .error ⟨3, 2⟩ ∧
    decode [0b00000000_0000000_0000000_0011010_0_01, 0, 0] = .error ⟨0, 0⟩ := by decide

/-! ## Single steps -/

/-- Register `r` of the issuing thread after one instruction of `t`. -/
def regAfter (i : Instr) (t : Thread) (r : Operand) : Option Word :=
  match exec i (on t) with
  | .next u => u.curThread?.map fun x => x.rd r
  | _ => none
/-- PC and SKIPC after it. -/
def pcAfter (i : Instr) (s : State) : Option (Word × Nat) :=
  match exec i s with
  | .next u => u.curThread?.map fun x => (x.pc, x.skipc.toNat)
  | _ => none

/-- R251: the all-zero word leaves lat zero, and k0 reads zero. -/
theorem test_nop : (decode [0]).toOption = some (.add false .k0 .k0 .k0) ∧ regAfter (.add false .k0 .k0 .k0) { t0 with lat := 5 } .lat = some 0 := by
  decide +kernel
/-- R265, R266: addition wraps; the result is in D and in lat. -/
theorem test_add_wraps : regAfter (.add false (.main 1) (.main 1) (.main 1)) (tK1 0x8000000000000001) (.main 1) = some 2 ∧
    regAfter (.add false .k0 (.main 1) (.main 1)) (tK1 0x8000000000000001) .lat = some 2 ∧
    regAfter (.add false .k0 (.main 1) (.main 1)) (tK1 1) .k0 = some 0 := by decide +kernel
/-- R266: MULH takes the upper half, signed or not. -/
theorem test_mulh : regAfter (.mulh false false (.main 2) (.main 1) (.main 1)) (tK1 0xFFFFFFFFFFFFFFFF) (.main 2) = some 0 ∧
    regAfter (.mulh false true (.main 2) (.main 1) (.main 1)) (tK1 0xFFFFFFFFFFFFFFFF) (.main 2) = some 0xFFFFFFFFFFFFFFFE := by decide +kernel
/-- R266: shift counts are taken mod 64; R267: CLZ of zero is 64. -/
theorem test_shift_and_count : regAfter (.shl false (.main 2) (.main 1) (.main 1)) (tK1 65) (.main 2) = some 130 ∧
    regAfter (.clz false (.main 2) .k0) t0 (.main 2) = some 64 := by decide +kernel
/-- R270: BFX takes WID bits from POS. -/
theorem test_bfx : regAfter (.bfx false 8 7 (.main 2) (.main 1)) (tK1 0x12345678) (.main 2) = some 0x56 ∧
    regAfter (.bfi false 8 7 (.main 1) .k0) (tK1 0x12345678) (.main 1) = some 0x12340078 := by decide +kernel
/-- The example after R254: a0 = 3 is below 16, so the next two instructions are annulled; LI's three words are passed. -/
theorem test_example_skips :
    pcAfter (.cmp false 2 2 (.main 8) (.imm 0x10)) (on { t0 with a := vset t0.a 0 3, pc := 0x400000 }) = some (0x400004, 2) ∧
    pcAfter (.cmp false 2 2 (.main 8) (.imm 0x10)) (on { t0 with a := vset t0.a 0 20, pc := 0x400000 }) = some (0x400004, 0) ∧
    pcAfter .annulment (atPc 0x44D2 fun t => { t with skipc := 2 }) = some (0x100000000000000C, 1) := by decide +kernel
/-- R249, R274: a target is a word offset from the instruction; LOOP counts down and goes on at zero. -/
theorem test_branches : pcAfter (.br false 0x3FFFFF) (on { t0 with pc := 0x400010 }) = some (0x40000C, 0) ∧
    pcAfter (.loop false 0x7FFE (.main 1)) (on { tK1 2 with pc := 0x400010 }) = some (0x400008, 0) ∧
    pcAfter (.loop false 0x7FFE (.main 1)) (on { tK1 1 with pc := 0x400010 }) = some (0x400014, 0) := by decide +kernel
/-- The example of R276: +2.875 to int32 under RNE and RTZ; infinity to the nearest bound. -/
theorem test_fcvt : regAfter (.fcvt false false 0 5 0xC0 (.main 2) (.main 1)) (tK1 0x40380000) (.main 2) = some 3 ∧
    regAfter (.fcvt false false 1 5 0xC0 (.main 2) (.main 1)) (tK1 0x40380000) (.main 2) = some 2 ∧
    regAfter (.fcvt false false 0 5 0xC0 (.main 2) (.main 1)) (tK1 0x7F800000) (.main 2) = some 0x7FFFFFFF := by decide +kernel
/-- R275, R277: 1 + 1 in binary32; FCLASS of −∞ sets bit 0, of a positive subnormal bit 5. -/
theorem test_float : regAfter (.fadd false false (.main 2) (.main 1) (.main 1)) (tK1 0x3F800000) (.main 2) = some 0x40000000 ∧
    regAfter (.fclass false false (.main 2) (.main 1)) (tK1 0xFF800000) (.main 2) = some 1 ∧
    regAfter (.fclass false false (.main 2) (.main 1)) (tK1 1) (.main 2) = some 32 := by decide +kernel
/-- A word placed where the machine fetches next is the first to run. -/
theorem test_step_runs : (match step (State.reset.withFetchWord 32 0x00000310) with | .next u => u.threads.isEmpty | _ => false) = true := by
  decide +kernel

end Sys2Proof.Tests
end

section
/-! SUPPORT. Laws that the statements about launch ports and the host's accesses share: folds of state operations, the agenda, memory after
stores and after zeroing, and the registers of the register space by their blocks. -/

namespace Sys2Proof.Machine

/-! ## Folds -/

/-- A fold of steps that all keep to a reflexive and transitive relation passes the step of each element, before and after which it keeps to
the relation. -/
theorem foldl_passes {σ α : Type} {R : σ → σ → Prop} (hr : ∀ s, R s s) (ht : ∀ {s t u}, R s t → R t u → R s u) {f : σ → α → σ}
    (hf : ∀ s a, R s (f s a)) {l : List α} {a : α} (ha : a ∈ l) (s : σ) : ∃ t, R s t ∧ R (f t a) (l.foldl f s) := by
  have keeps (l : List α) (s : σ) : R s (l.foldl f s) := List.foldlRecOn l f (hr s) fun _ h a _ => ht h (hf _ a)
  obtain ⟨l₁, l₂, rfl⟩ := List.append_of_mem ha
  exact ⟨l₁.foldl f s, keeps l₁ s, by rw [List.foldl_append, List.foldl_cons]; exact keeps l₂ _⟩

/-! ## The agenda -/

theorem mem_insertSched {l : List Sched} {e x : Sched} : x ∈ insertSched l e ↔ x = e ∨ x ∈ l := by
  induction l with
  | nil => simp [insertSched]
  | cons y r ih =>
    simp only [insertSched]
    split
    · exact List.mem_cons
    · rw [List.mem_cons, ih, List.mem_cons]
      exact or_left_comm

theorem State.mem_agenda_sched (s : State) {delay rank : Nat} {op : Instr} {x : Sched} :
    x ∈ (s.sched delay rank op).agenda ↔
      x = { due := s.now + delay, rank := rank, seq := s.seq, ev := { op := op, pkt := none, cmd := none } } ∨ x ∈ s.agenda :=
  mem_insertSched

theorem State.due_sched (s : State) (delay rank : Nat) (op : Instr) : Claims.Due (s.sched delay rank op) (s.now + delay) op :=
  ⟨_, (s.mem_agenda_sched).2 (.inl rfl), rfl, rfl⟩

/-! ## Memory -/

/-- Bytes that two memories hold alike are read alike. -/
theorem rdBytes_congr {m m' : Memory} {a n : Nat} (h : ∀ b, a ≤ b → b < a + n → rdByte m b = rdByte m' b) : rdBytes m a n = rdBytes m' a n := by
  induction n generalizing a with
  | zero => rfl
  | succ n ih => rw [rdBytes, rdBytes, h a (by omega) (by omega), ih fun b h1 h2 => h b (by omega) (by omega)]

theorem mget_filter_none {α : Type} (p : Nat × α → Bool) (m : Map α) (k : Nat) (h : ∀ v, p (k, v) = false) : mget (m.filter p) k = none := by
  induction m with
  | nil => rfl
  | cons x r ih =>
    obtain ⟨j, w⟩ := x
    rw [List.filter_cons]
    split
    · rename_i hp
      have hjk : j ≠ k := fun e => Bool.false_ne_true ((h w).symm.trans (e ▸ hp))
      rw [mget, if_neg hjk, ih]
    · exact ih

/-- A cleared range reads zero, and every other byte as before. -/
theorem rdByte_mclear (m : Memory) (lo hi a : Nat) : rdByte (mclear m lo hi) a = if lo ≤ a ∧ a < hi then 0 else rdByte m a := by
  split
  · rename_i h
    rw [rdByte, mclear, mget_filter_none _ _ _ (by simp [h])]
    rfl
  · exact rdByte_mclear_outside _ _ _ _ (by omega)

namespace State
variable (s : State)

@[simp] theorem store_mem (a n : Nat) (v : Val) : (s.store a n v).mem = wrBytes s.mem a (natLe n v.v.toNat) := by
  unfold store
  split
  · rfl
  · split <;> rfl
@[simp] theorem store_disp (a n : Nat) (v : Val) : (s.store a n v).disp = s.disp := by
  unfold store
  split
  · rfl
  · split <;> rfl

/-- A dword is read as it was stored. -/
theorem leNat_store (h : Memory.wf s.mem = true) (a : Nat) (w : Word) : leNat (rdBytes (s.store a 8 ⟨w, none⟩).mem a 8) = w.toNat := by
  have hr := rdBytes_wrBytes (natLe 8 w.toNat) s.mem a h
  rw [length_natLe] at hr
  rw [store_mem, hr, leNat_natLe]
  exact Nat.mod_eq_of_lt w.isLt

theorem byteAt_store_outside (a : Nat) (w : Word) (b : Nat) (hb : b < a ∨ a + 8 ≤ b) :
    Claims.byteAt (s.store a 8 ⟨w, none⟩) b = Claims.byteAt s b := by
  rw [Claims.byteAt, store_mem]
  exact rdByte_wrBytes_outside _ _ _ _ (by rw [length_natLe]; exact hb)

/-- The dwords `ws` stored one after another, the first at `a + 8 * n`. -/
def storeWords (a n : Nat) (ws : List Word) : State := (ws.zipIdx n).foldl (fun s (w, i) => s.store (a + 8 * i) 8 ⟨w, none⟩) s

theorem storeWords_cons (a n : Nat) (w : Word) (ws : List Word) :
    s.storeWords a n (w :: ws) = (s.store (a + 8 * n) 8 ⟨w, none⟩).storeWords a (n + 1) ws := rfl

theorem storeWords_disp (a n : Nat) (ws : List Word) : (s.storeWords a n ws).disp = s.disp :=
  List.foldlRecOn (motive := fun u : State => u.disp = s.disp) _ _ rfl fun _ h _ _ => (store_disp ..).trans h

theorem byteAt_storeWords_outside (a n : Nat) (ws : List Word) (b : Nat) (hb : b < a + 8 * n ∨ a + 8 * (n + ws.length) ≤ b) :
    Claims.byteAt (s.storeWords a n ws) b = Claims.byteAt s b := by
  induction ws generalizing s n with
  | nil => rfl
  | cons w ws ih =>
    rw [List.length_cons] at hb
    rw [storeWords_cons, ih _ _ (by omega), byteAt_store_outside _ _ _ _ (by omega)]

theorem leNat_storeWords (h : Memory.wf s.mem = true) (a n : Nat) (ws : List Word) (k : Nat) (hk : k < ws.length) :
    leNat (rdBytes (s.storeWords a n ws).mem (a + 8 * (n + k)) 8) = (ws.getD k 0).toNat := by
  induction ws generalizing s n k with
  | nil => exact absurd hk (Nat.not_lt_zero _)
  | cons w ws ih =>
    have hwf : Memory.wf (s.store (a + 8 * n) 8 ⟨w, none⟩).mem = true := by
      rw [store_mem]
      exact wrBytes_wf _ _ _ h
    rw [storeWords_cons]
    cases k with
    | zero =>
      rw [rdBytes_congr fun b _ hb => byteAt_storeWords_outside _ _ _ _ _ (by omega)]
      exact s.leNat_store h _ _
    | succ k =>
      rw [show n + (k + 1) = n + 1 + k by omega, ih _ hwf _ _ (by simpa using hk)]
      rfl

end State

/-! ## Registers (R223, R232) -/

theorem merge_allOnes (old v : Word) : merge old v (BitVec.allOnes 64) = v := by
  rw [merge, BitVec.and_allOnes, BitVec.not_allOnes, BitVec.and_zero, BitVec.zero_or]

/-- A write of bits 31:0 leaves bits 63:32. -/
theorem merge_low (old v : Word) : merge old v 0xFFFFFFFF = old.extractLsb' 32 32 ++ v.setWidth 32 := by
  have hm : (0xFFFFFFFF : Word) = (BitVec.allOnes 32).setWidth 64 := rfl
  apply BitVec.eq_of_getLsbD_eq
  intro i hi
  simp only [merge, hm, BitVec.getLsbD_or, BitVec.getLsbD_and, BitVec.getLsbD_not, BitVec.getLsbD_append, BitVec.getLsbD_extractLsb',
    BitVec.getLsbD_setWidth, BitVec.getLsbD_allOnes, hi, decide_true, Bool.true_and]
  by_cases h : i < 32
  · simp [h]
  · simp [h, show i - 32 < 32 by omega, show 32 + (i - 32) = i by omega]

theorem barOk_iff (off size : Nat) :
    barOk off size = true ↔ (size = 4 ∨ size = 8) ∧ off % size = 0 ∧ off < 0x4000000 ∧ regListed off = true := by
  simp [barOk, and_assoc]

theorem barOk_ptroot (k size : Nat) (hk : k < 8) (hs : size = 4 ∨ size = 8) : barOk (0x30000 + 8 * k) size = true :=
  (barOk_iff ..).2 ⟨hs, by rcases hs with rfl | rfl <;> omega, by omega, by simp [regListed]; omega⟩

namespace State
variable (s : State)

/-! ### Which block takes a write -/

theorem regStore_dword (o : Nat) (v : Word) (h : o % 8 = 0) : s.regStore o 8 v = s.regWrite o v (BitVec.allOnes 64) := by
  rw [regStore, if_pos h, halfMask, if_pos rfl, Nat.div_mul_cancel (Nat.dvd_of_mod_eq_zero h)]

theorem regStore_low (o : Nat) (v : Word) (h : o % 8 = 0) : s.regStore o 4 v = s.regWrite o v 0xFFFFFFFF := by
  rw [regStore, if_pos h, halfMask, if_neg (by decide), if_pos h, Nat.div_mul_cancel (Nat.dvd_of_mod_eq_zero h)]

theorem regWrite_package (o : Nat) (v m : Word) (ho : o < 0x10000) : s.regWrite o v m = s.packageWrite o v m := by
  rw [regWrite, if_pos ho]

theorem regWrite_disp (o : Nat) (v m : Word) (ho : o < 0x10000) : s.regWrite (0x10000 + o) v m = s.dispWrite o v m (m.getLsbD 32) := by
  rw [regWrite, if_neg (by omega), if_pos (by omega), Nat.add_sub_cancel_left]

theorem regWrite_port (p o : Nat) (v m : Word) (hp : p < 8) (ho : o < 0x100) :
    s.regWrite (0x10000 + 0x100 * p + o) v m = s.portWrite p o v m (m.getLsbD 32) := by
  rw [Nat.add_assoc, regWrite_disp _ _ _ _ (by omega)]
  unfold dispWrite
  rw [if_pos (by omega), show (0x100 * p + o) / 0x100 = p by omega, show (0x100 * p + o) % 0x100 = o by omega]

theorem regWrite_memory (o : Nat) (v m : Word) (ho : o < 0x10000) : s.regWrite (0x30000 + o) v m = s.memoryWrite o v m (m.getLsbD 32) := by
  rw [regWrite, if_neg (by omega), if_neg (by omega), if_neg (by omega), if_pos (by omega), Nat.add_sub_cancel_left]

theorem regWrite_window (o : Nat) (v m : Word) (ho : o < 0x1000000) :
    s.regWrite (0x1000000 + o) v m =
      if m.getLsbD 0 then s.descWindow o (if m.getLsbD 32 then 8 else 4) v else s.descWindow (o + 4) 4 (v >>> 32) := by
  rw [regWrite, if_neg (by omega), if_neg (by omega), if_neg (by omega), if_neg (by omega), if_neg (by omega),
    if_neg (by simp; omega), if_neg (by simp; omega), if_neg (by simp; omega), if_pos (by simp; omega), Nat.add_sub_cancel_left]

theorem regRead_port (p o : Nat) (hp : p < 8) (ho : o < 0x100) : s.regRead (0x10000 + 0x100 * p + o) = s.portReg p o := by
  rw [Nat.add_assoc, regRead, if_neg (by omega), if_pos (by omega), Nat.add_sub_cancel_left]
  unfold dispReg
  rw [if_pos (by omega), show (0x100 * p + o) / 0x100 = p by omega, show (0x100 * p + o) % 0x100 = o by omega]

/-! ### A launch port in the dispatcher's table -/

theorem lport_congr {s u : State} (h : u.disp.ports = s.disp.ports) (p : Nat) : u.lport p = s.lport p := by rw [lport, lport, h]

theorem lport_setPort_self {p : Nat} (x : LPort) (hp : p < 8) : (s.setPort p x).lport p = x := by
  simp only [lport, setPort, nget_nset _ _ _ _ _ hp, if_true]

theorem lport_setPort_field {α : Type} (f : LPort → α) {p : Nat} (x : LPort) (hp : p < 8) : f ((s.setPort p x).lport p) = f x :=
  congrArg f (s.lport_setPort_self x hp)

theorem lport_setPort_other {p k : Nat} (x : LPort) (hp : p < 8) (hk : k ≠ p) : (s.setPort p x).lport k = s.lport k := by
  simp only [lport, setPort, nget_nset _ _ _ _ _ hp, if_neg hk]

end State

end Sys2Proof.Machine
end

section
/-! SUPPORT. The registers of a launch port and its completion ring (R29, R30, R54): what a write of each does, and the events that make it. -/

namespace Sys2Proof.Machine

namespace State
variable (s : State)

/-! ## Completion entries (R54) -/

theorem writeHeld_nil {p : Nat} (n : Nat) (h : (s.lport p).held = []) : s.writeHeld p n = s := by
  cases n with
  | zero => rfl
  | succ n => rw [writeHeld, h]

theorem writeHeld_disabled {p : Nat} (n : Nat) (h : (s.lport p).cqb.getLsbD 0 = false) : s.writeHeld p n = s := by
  cases n with
  | zero => rfl
  | succ n =>
    rw [writeHeld]
    split
    · exact if_pos (by rw [h]; rfl)
    · rfl

/-- The address of the entry that LPCQT names. -/
def entryAt (q : LPort) : Nat := q.cqb.toNat / 64 * 64 + 64 * q.cqt

/-- The one entry that a port holds is written at LPCQT, once the ring takes it and nothing holds its block. -/
theorem writeHeld_one {p : Nat} (n : Nat) {ws : List Word} (hp : p < 8) (hh : (s.lport p).held = [(ws, none)])
    (hen : (s.lport p).cqb.getLsbD 0 = true) (hroom : ((s.lport p).cqt + 1) % (s.lport p).cqn ≠ (s.lport p).cqh % (s.lport p).cqn)
    (hc : s.chanHeld (entryAt (s.lport p)) = false) (hw : s.waitsOn [(entryAt (s.lport p), 64)] = false) :
    s.writeHeld p (n + 1) = (s.storeWords (entryAt (s.lport p)) 0 ws).setPort p
      { s.lport p with held := [], cqt := ((s.lport p).cqt + 1) % (s.lport p).cqn } := by
  have hstop : (!(s.lport p).cqb.getLsbD 0 || decide (((s.lport p).cqt + 1) % (s.lport p).cqn = (s.lport p).cqh % (s.lport p).cqn) ||
      s.chanHeld (entryAt (s.lport p)) || s.waitsOn [(entryAt (s.lport p), 64)]) = false := by simp [hen, hroom, hc, hw]
  rw [writeHeld, hh]
  refine (if_neg (by simpa [entryAt] using hstop)).trans (writeHeld_nil _ _ ?_)
  exact congrArg LPort.held (lport_setPort_self _ _ hp)

/-! ## Writes of a port's registers (R29, R30, R54) -/

/-- A write of LPREC7 commits the record of the eight dwords. -/
theorem portWrite_lprec7 (p : Nat) (v : Word) :
    s.portWrite p 0x38 v (BitVec.allOnes 64) true =
      (s.setPort p { s.lport p with win := nset (s.lport p).win 7 v }).commitRecord p ⟨nset (s.lport p).win 7 v, true⟩ := by
  unfold portWrite
  rw [if_pos (by decide), merge_allOnes]
  rfl

theorem commitRecord_room {p : Nat} (r : QRec) (h : (s.lport p).queue.length < 64) :
    s.commitRecord p r = s.setPort p { s.lport p with queue := (s.lport p).queue ++ [r] } := if_neg (by omega)

theorem commitRecord_full {p : Nat} (r : QRec) (h : 64 ≤ (s.lport p).queue.length) :
    s.commitRecord p r = s.setPort p { s.lport p with
      ovf := true, drops := min 255 ((s.lport p).drops + 1),
      dropAt := (s.now, if (s.lport p).dropAt.1 = s.now then (s.lport p).dropAt.2 + 1 else 1) } := if_pos h

theorem portWrite_lpcqh (p : Nat) (v : Word) :
    s.portWrite p 0x60 v (BitVec.allOnes 64) true =
      (s.setPort p { s.lport p with cqh := v.toNat }).writeHeld p ((s.lport p).held.length + 1) := by
  rw [portWrite, if_neg (by decide)]
  simp only [merge_allOnes]

theorem portWrite_lpcqb (p : Nat) (v : Word) :
    s.portWrite p 0x48 v (BitVec.allOnes 64) true =
      (s.setPort p { s.lport p with cqb := v &&& ~~~0x3E }).writeHeld p ((s.lport p).held.length + 1) := by
  rw [portWrite, if_neg (by decide)]
  simp only [merge_allOnes, if_true]

/-! ## The events that write them -/

/-- The other launch ports are as they were. -/
def OtherPorts (s : State) (p : Nat) (u : State) : Prop := ∀ k, k < 8 → k ≠ p → u.lport k = s.lport k

/-- A state whose launch ports are those of `s` but for port `p`, which holds `x`. -/
theorem lport_of_ports {u : State} {p : Nat} {x : LPort} (hp : p < 8) (h : u.disp.ports = (s.setPort p x).disp.ports) :
    u.lport p = x ∧ OtherPorts s p u :=
  ⟨(lport_congr h p).trans (lport_setPort_self _ _ hp), fun k _ hk => (lport_congr h k).trans (lport_setPort_other _ _ hp hk)⟩

theorem setPort_setPort (p : Nat) (x y : LPort) : (s.setPort p x).setPort p y = s.setPort p y := by
  unfold setPort nset
  split
  · simp only [Vector.set_set]
  · rfl

theorem ports_setPort {s u : State} (p : Nat) (x : LPort) (h : u.disp.ports = s.disp.ports) :
    (u.setPort p x).disp.ports = (s.setPort p x).disp.ports := congrArg (nset · p x) h

theorem exec_launchRecordCommit {p : Nat} (v : Word) (hp : p < 8) : exec (.launchRecordCommit p v) s = .next
    (if s.hostWaits then s.sched 1 1 (.launchRecordCommit p v)
     else (s.setPort p { s.lport p with win := nset (s.lport p).win 7 v }).commitRecord p ⟨nset (s.lport p).win 7 v, true⟩) := by
  show Host.Outcome.next _ = _
  rw [Nat.mod_eq_of_lt hp, regWrite_port _ _ _ _ _ hp (by decide)]
  exact congrArg Host.Outcome.next (congrArg _ (portWrite_lprec7 s p v))

/-- With room in the queue the record joins it, and nothing else of the machine changes. -/
theorem exec_launchRecordCommit_room {p : Nat} (v : Word) (hp : p < 8) (hw : s.hostWaits = false) (hroom : (s.lport p).queue.length < 64) :
    exec (.launchRecordCommit p v) s = .next (s.setPort p { s.lport p with
      win := nset (s.lport p).win 7 v, queue := (s.lport p).queue ++ [⟨nset (s.lport p).win 7 v, true⟩] }) := by
  have hport := s.lport_setPort_self { s.lport p with win := nset (s.lport p).win 7 v } hp
  rw [exec_launchRecordCommit _ _ hp, if_neg (by simp [hw]), commitRecord_room _ _ (by rw [hport]; exact hroom), hport, setPort_setPort]

theorem exec_launchRecordCommit_full {p : Nat} (v : Word) (hp : p < 8) (hw : s.hostWaits = false) (hfull : 64 ≤ (s.lport p).queue.length) :
    exec (.launchRecordCommit p v) s = .next (s.setPort p { s.lport p with
      win := nset (s.lport p).win 7 v, ovf := true, drops := min 255 ((s.lport p).drops + 1),
      dropAt := (s.now, if (s.lport p).dropAt.1 = s.now then (s.lport p).dropAt.2 + 1 else 1) }) := by
  have hport := s.lport_setPort_self { s.lport p with win := nset (s.lport p).win 7 v } hp
  rw [exec_launchRecordCommit _ _ hp, if_neg (by simp [hw]), commitRecord_full _ _ (by rw [hport]; exact hfull), hport, setPort_setPort]
  rfl

/-- A write of a register of the completion ring, LPCQB or LPCQH, leaves them `cqb` and `cqh`, and the entries held are tried. -/
def WritesRing (s : State) (p : Nat) (i : Instr) (cqb : Word) (cqh : Nat) : Prop :=
  exec i s = .next (if s.hostWaits then s.sched 1 1 i
    else (s.setPort p { s.lport p with cqb := cqb, cqh := cqh }).writeHeld p ((s.lport p).held.length + 1))

theorem writesRing_lpcqh {p : Nat} (v : Word) (hp : p < 8) : WritesRing s p (.lpcqhWrite p v) (s.lport p).cqb v.toNat := by
  show Host.Outcome.next _ = _
  rw [Nat.mod_eq_of_lt hp, regWrite_port _ _ _ _ _ hp (by decide)]
  exact congrArg Host.Outcome.next (congrArg _ (portWrite_lpcqh s p v))

theorem writesRing_lpcqb {p : Nat} (v : Word) (hp : p < 8) : WritesRing s p (.lpcqbWrite p v) (v &&& ~~~0x3E) (s.lport p).cqh := by
  show Host.Outcome.next _ = _
  rw [Nat.mod_eq_of_lt hp, regWrite_port _ _ _ _ _ hp (by decide)]
  exact congrArg Host.Outcome.next (congrArg _ (portWrite_lpcqb s p v))

section
variable {s} {p : Nat} {i : Instr} {cqb : Word} {cqh : Nat} (hi : WritesRing s p i cqb cqh) (hp : p < 8)
include hi

theorem WritesRing.waits (hw : s.hostWaits = true) : exec i s = .next (s.sched 1 1 i) := by
  rw [hi, if_pos hw]

include hp

theorem WritesRing.takes (hw : s.hostWaits = false) (hh : (s.lport p).held = []) :
    ∃ u, exec i s = .next u ∧ u.lport p = { s.lport p with cqb := cqb, cqh := cqh } ∧ OtherPorts s p u ∧ u.mem = s.mem := by
  obtain ⟨hport, hothers⟩ := lport_of_ports s (x := { s.lport p with cqb := cqb, cqh := cqh }) hp rfl
  refine ⟨_, ?_, hport, hothers, rfl⟩
  rw [hi, if_neg (by simp [hw]), writeHeld_nil _ _ (by rw [hport]; exact hh)]

/-- The entry that waits goes to the ring, whose memory alone changes. -/
theorem WritesRing.writes (hs : s.Sound) (hw : s.hostWaits = false) {ws : List Word} (hh : (s.lport p).held = [(ws, none)])
    (hlen : ws.length = 8) (hen : cqb.getLsbD 0 = true) (hroom : ((s.lport p).cqt + 1) % (s.lport p).cqn ≠ cqh % (s.lport p).cqn)
    (hc : s.chanHeld (cqb.toNat / 64 * 64 + 64 * (s.lport p).cqt) = false)
    (hb : s.waitsOn [(cqb.toNat / 64 * 64 + 64 * (s.lport p).cqt, 64)] = false) :
    let a := cqb.toNat / 64 * 64 + 64 * (s.lport p).cqt
    ∃ u, exec i s = .next u ∧
      u.lport p = { s.lport p with cqb := cqb, cqh := cqh, held := [], cqt := ((s.lport p).cqt + 1) % (s.lport p).cqn } ∧ OtherPorts s p u ∧
      (∀ k, k < 8 → leNat (rdBytes u.mem (a + 8 * k) 8) = (ws.getD k 0).toNat) ∧
      ∀ b, b < a ∨ a + 64 ≤ b → Claims.byteAt u b = Claims.byteAt s b := by
  intro a
  let s1 := s.setPort p { s.lport p with cqb := cqb, cqh := cqh }
  have hq : s1.lport p = { s.lport p with cqb := cqb, cqh := cqh } := lport_setPort_self _ _ hp
  have hrun := s1.writeHeld_one (s.lport p).held.length (ws := ws) hp (by rw [hq]; exact hh) (by rw [hq]; exact hen)
    (by rw [hq]; exact hroom) (by rw [hq]; exact hc) (by rw [hq]; exact hb)
  rw [hq] at hrun
  obtain ⟨hport, hothers⟩ := lport_of_ports s hp (u := s1.writeHeld p ((s.lport p).held.length + 1))
    (x := { s.lport p with cqb := cqb, cqh := cqh, held := [], cqt := ((s.lport p).cqt + 1) % (s.lport p).cqn }) (by
      rw [hrun]
      exact (ports_setPort p _ (congrArg Dispatcher.ports (storeWords_disp ..))).trans (congrArg (·.disp.ports) (setPort_setPort ..)))
  refine ⟨_, ?_, hport, hothers, fun k hk => ?_, fun b hb => ?_⟩
  · rw [hi, if_neg (by simp [hw])]
  · rw [hrun, setPort_mem, ← s1.leNat_storeWords hs.mem a 0 ws k (by omega), Nat.zero_add]
    rfl
  · rw [hrun, Claims.byteAt, setPort_mem]
    exact s1.byteAt_storeWords_outside a 0 ws b (by omega)

end

end State

end Sys2Proof.Machine
end

section
/-! SUPPORT. The check of the head record of a launch port, its refusal, and its placement (R31 to R38). -/

namespace Sys2Proof.Machine

namespace State
variable (s : State)

/-! ## Records of errors in storage (R373, R397) -/

/-- A record that counts no corrected error and names no launch only joins the steward log. -/
theorem record_unported (r : RecInfo) (hc : r.cls ≠ 1) (hl : r.ltag = 0) :
    s.record r = s.logWords fun _ => recordWords s.pkg.seq s.now r := by
  have herr (u : State) (ws : List Word) : u.errPort r ws = u := by
    unfold errPort
    split
    · split
      · exact if_pos (by simp [hl])
      · rfl
    · rfl
  simp [record, hc, herr]

/-- What the array ECC finds for a reader without a launch is logged and recorded, and nothing else changes. -/
theorem arrayUe_eq (pa : Nat) : ∃ k, (s.arrayUe 0 0 pa).1 = { s with pkg := k } := by
  rw [arrayUe, memRecord, record_unported _ _ (by simp) rfl]
  exact ⟨_, rfl⟩

theorem ueReads_eq (pas : List Nat) : ∃ k, s.ueReads 0 0 pas = { s with pkg := k } := by
  refine List.foldlRecOn (motive := fun u : State => ∃ k, u = { s with pkg := k }) _ _ ⟨s.pkg, rfl⟩ fun u hu a _ => ?_
  obtain ⟨k, rfl⟩ := hu
  split
  · exact arrayUe_eq _ _
  · exact ⟨k, rfl⟩

/-! ## The check (R31, R33) -/

/-- The reads of a record's tables that its check makes, with what the array ECC finds reported (R397). -/
def tablesRead (r : QRec) : State := s.ueReads 0 0 ((tableSpan r).flatMap fun x => s.poisonedIn x.1 x.2)

/-- A lane test, or an access that came before, holds a table of the record (R109, R398). -/
def tablesHeld (r : QRec) : Bool := (tableSpan r).any (fun x => s.rangeHeld x.1 x.2) || s.waitsOn (tableSpan r)

theorem lport_ueReads (pas : List Nat) (p : Nat) : (s.ueReads 0 0 pas).lport p = s.lport p := by
  obtain ⟨k, hk⟩ := s.ueReads_eq pas
  rw [hk]
  rfl

theorem ueReads_now (pas : List Nat) : (s.ueReads 0 0 pas).now = s.now := by
  obtain ⟨k, hk⟩ := s.ueReads_eq pas
  rw [hk]

section
variable {s} {p : Nat} {r : QRec} {rest : List QRec} (hq : (s.lport p).queue = r :: rest) (hh : (s.lport p).held = [])
  (hd : s.pkg.disp = true) (hb : (s.lport p).backing = false) (ht : (s.lport p).tabs = none)
include hq hh hd hb ht

/-- The check of a head record whose tables are still to be read: it waits while they are held; else what is read there is reported, and the
record is refused, waits on its dependences, or is placed. -/
theorem headCheck_unread:
    let s0 := s.tablesRead r
    let q := { s.lport p with tabs := s0.tables r }
    s.headCheck p =
      if s.tablesHeld r then s
      else if s0.refusal p r ≠ 0 then s0.refuse p r (s0.refusal p r)
      else if r.deps.all s0.depMet = false then s0.setPort p { q with headwait := true }
      else (s0.setPort p { q with headwait := false, placing := true }).placePass p r := by
  have hn : (s.lport p).tabs.isNone = true := by rw [ht]; rfl
  have hs : (s.lport p).tabs.isSome = false := by rw [ht]; rfl
  unfold headCheck tablesHeld tablesRead
  simp only [hh, hd, hb, hq, hn, hs, List.isEmpty_nil, Bool.not_true, Bool.false_eq_true, Bool.or_self, Bool.true_and, if_false, if_true,
    bne_iff_ne, Bool.not_eq_true']

theorem headCheck_held (h : s.tablesHeld r = true) : s.headCheck p = s := (headCheck_unread hq hh hd hb ht).trans (if_pos h)

theorem headCheck_refused (h : s.tablesHeld r = false) (hc : (s.tablesRead r).refusal p r ≠ 0) :
    s.headCheck p = (s.tablesRead r).refuse p r ((s.tablesRead r).refusal p r) := by
  rw [headCheck_unread hq hh hd hb ht, if_neg (ne_true_of_eq_false h), if_pos hc]

theorem headCheck_depends (h : s.tablesHeld r = false) (hc : (s.tablesRead r).refusal p r = 0)
    (hdep : r.deps.all (s.tablesRead r).depMet = false) :
    s.headCheck p = (s.tablesRead r).setPort p { s.lport p with tabs := (s.tablesRead r).tables r, headwait := true } := by
  rw [headCheck_unread hq hh hd hb ht, if_neg (ne_true_of_eq_false h), if_neg (not_not.2 hc), if_pos hdep]

theorem headCheck_places (h : s.tablesHeld r = false) (hc : (s.tablesRead r).refusal p r = 0)
    (hdep : r.deps.all (s.tablesRead r).depMet = true) :
    s.headCheck p = ((s.tablesRead r).setPort p
      { s.lport p with tabs := (s.tablesRead r).tables r, headwait := false, placing := true }).placePass p r := by
  rw [headCheck_unread hq hh hd hb ht, if_neg (ne_true_of_eq_false h), if_neg (not_not.2 hc), if_neg (ne_false_of_eq_true hdep)]

end

/-! ## A refusal (R33, R54) -/

theorem completion_disabled {p : Nat} (ws : List Word) (vec : Option Nat) (hp : p < 8) (hen : (s.lport p).cqb.getLsbD 0 = false) :
    s.completion p ws vec = s.setPort p { s.lport p with held := (s.lport p).held ++ [(ws, vec)] } :=
  writeHeld_disabled _ _ (by rw [lport_setPort_self _ _ hp]; exact hen)

/-- A port after its head record has left it. -/
def afterHead (q : LPort) : LPort :=
  { q with queue := q.queue.drop 1, headwait := false, placing := false, tabs := none, backing := false, backoff := 2700 }

theorem lport_popHead {p : Nat} (hp : p < 8) : (s.popHead p).lport p = afterHead (s.lport p) := lport_setPort_self _ _ hp

/-- While the ring is not enabled, a refused record leaves its queue, ends, and its completion entry is held. -/
theorem refuse_held {p : Nat} {r : QRec} {rest : List QRec} (code : Nat) (hp : p < 8) (hq : (s.lport p).queue = r :: rest)
    (hh : (s.lport p).held = []) (hen : (s.lport p).cqb.getLsbD 0 = false) :
    ((s.refuse p r code).lport p).queue = rest ∧ (s.refuse p r code).disp.ended.head? = some (r.ltag, 1) ∧
      ((s.refuse p r code).lport p).held =
        [(completionWords r.ltag 1 code 0 s.now 0 0, if (r.dword 0).getLsbD 36 then some (bits (r.dword 0) 37 11) else none)] := by
  have hport : ((s.popHead p).recordEnd r.ltag 1).lport p = afterHead (s.lport p) := s.lport_popHead hp
  rw [refuse, completion_disabled _ _ _ hp (by rw [hport]; exact hen), lport_setPort_self _ _ hp, hport]
  exact ⟨by simp [afterHead, hq], rfl, by simp [afterHead, hh]⟩

/-! ## Placement (R35 to R38) -/

/-- What the creation of the crews of launch `tag` keeps: the cycle, the launch ports, what is due, and the launch but for its shared
allocations. -/
structure Growing (tag : Nat) (s u : State) : Prop where
  now : u.now = s.now
  ports : u.disp.ports = s.disp.ports
  agenda : ∀ e ∈ s.agenda, e ∈ u.agenda
  launch : ∀ l, s.launch? tag = some l → l.ltag = tag → ∃ s2 s3, u.launch? tag = some { l with s2 := s2, s3 := s3 }

namespace Growing
variable {tag : Nat} {s t u : State}

theorem refl (s : State) : Growing tag s s := ⟨rfl, rfl, fun _ h => h, fun l h _ => ⟨l.s2, l.s3, h⟩⟩

theorem trans (h : Growing tag s t) (h' : Growing tag t u) : Growing tag s u where
  now := h'.now.trans h.now
  ports := h'.ports.trans h.ports
  agenda e he := h'.agenda e (h.agenda e he)
  launch l hl htag := by
    obtain ⟨s2, s3, ht⟩ := h.launch l hl htag
    exact h'.launch { l with s2 := s2, s3 := s3 } ht htag

theorem foldl {α : Type} {f : State → α → State} (hf : ∀ s a, Growing tag s (f s a)) (l : List α) (s : State) : Growing tag s (l.foldl f s) :=
  List.foldlRecOn l f (refl s) fun _ h a _ => h.trans (hf _ a)

/-- An update that leaves the dispatcher, what is due and the cycle alone. -/
theorem of_eq (hn : u.now = s.now) (hd : u.disp = s.disp) (ha : u.agenda = s.agenda) : Growing tag s u :=
  ⟨hn, by rw [hd], fun _ h => ha ▸ h, fun l h _ => ⟨l.s2, l.s3, by rw [launch?, hd]; exact h⟩⟩

theorem sched (delay rank : Nat) (op : Instr) : Growing tag s (s.sched delay rank op) :=
  ⟨rfl, rfl, fun _ h => s.mem_agenda_sched.2 (.inr h), fun l h _ => ⟨l.s2, l.s3, h⟩⟩

theorem touch (pa n : Nat) (w : Option ThreadRef) : Growing tag s (s.touch pa n w) := by
  refine foldl (fun u b => ?_) _ _
  split
  · exact sched ..
  · exact refl _

theorem setCrew (c : Crew) : Growing tag s (s.setCrew c) := ⟨rfl, rfl, fun _ h => h, fun l h _ => ⟨l.s2, l.s3, h⟩⟩

/-- The launch takes other shared allocations. -/
theorem onLaunch {f : Launch → Launch} (hf : ∀ l, ∃ s2 s3, f l = { l with s2 := s2, s3 := s3 }) : Growing tag s (s.onLaunch tag f) := by
  unfold State.onLaunch
  split
  · rename_i m hm
    obtain ⟨s2, s3, hfm⟩ := hf m
    refine ⟨rfl, rfl, fun _ h => h, fun l hl htag => ⟨s2, s3, ?_⟩⟩
    obtain rfl : m = l := Option.some.inj (hm.symm.trans hl)
    rw [launch?, State.setLaunch, hfm, ← htag]
    exact mget_mset_self ..
  · exact refl s

theorem grantSeg0 (lvl i n : Nat) : Growing tag s (s.grantSeg0 lvl i n).1 := by
  unfold State.grantSeg0
  split
  · exact refl s
  · split
    · exact foldl (fun u g => (of_eq rfl rfl rfl : Growing tag u (u.zero _ _)).trans (touch ..)) _ _
    · exact refl s

theorem grantShared (v : Nat) : Growing tag s (s.grantShared tag v) := by
  have shared (s : State) (lvl i n : Nat) (has : Bool) {put : Launch → List Seg → Launch}
      (hput : ∀ l gs, ∃ s2 s3, put l gs = { l with s2 := s2, s3 := s3 }) :
      Growing tag s (if has then s else (s.grantSeg0 lvl i n).1.onLaunch tag fun l => put l (s.grantSeg0 lvl i n).2) := by
    split
    · exact refl s
    · exact (grantSeg0 lvl i n).trans (onLaunch fun l => hput l _)
  unfold State.grantShared
  split
  · exact refl s
  · exact (shared s 2 _ _ _ fun l gs => ⟨_, l.s3, rfl⟩).trans (shared _ 3 _ _ _ fun l gs => ⟨l.s2, _, rfl⟩)

theorem onUnit (v : Nat) (f : UnitSt → UnitSt) : Growing tag s (s.onUnit v f) := of_eq rfl rfl rfl

/-- A crew of the launch is created, and its start is due when its segments have been zeroed. -/
theorem createCrew (l : Launch) (gang idx v : Nat) : Growing l.ltag s (s.createCrew l gang idx v) ∧
    Claims.Due (s.createCrew l gang idx v) (s.now + max l.s1sz (max (32 * l.s2sz) (128 * l.s3sz))) (.crewStart l.ltag v) := by
  have granted : Growing l.ltag s ((s.grantShared l.ltag v).grantSeg0 1 v l.s1sz).1 := (grantShared v).trans (grantSeg0 ..)
  have cleared : Growing l.ltag s (if !s.disp.crews.any fun c => c.unit == v then
      ((s.grantShared l.ltag v).grantSeg0 1 v l.s1sz).1.onUnit v fun x => { x with tiles := [] }
      else ((s.grantShared l.ltag v).grantSeg0 1 v l.s1sz).1) := by
    split
    · exact granted.trans (onUnit ..)
    · exact granted
  unfold State.createCrew
  refine ⟨((cleared.trans (onUnit ..)).trans (setCrew _)).trans (sched ..), ?_⟩
  rw [← ((cleared.trans (onUnit v _)).trans (setCrew _)).now]
  exact due_sched ..

end Growing

/-- The units that grant what a record asks of them (R35). -/
def granting (r : QRec) : List Nat := (List.range 128).filter (s.grants ⟨r.ltag, r.init, r.svc, r.s1sz, r.s2sz, r.s3sz⟩)

/-- One pass over the gangs of a record (R35). -/
def passOver (r : QRec) : Nat × Option (List Nat) := s.placeGangs (s.granting r).contains r.gsize r.gangs s.disp.ptr [] []

/-- A port whose head record waits for its next pass (R36). -/
def backedOff (q : LPort) : LPort :=
  { q with headwait := false, placing := true, backing := true, backoff := min 172800 (2 * q.backoff) }

/-- The placement pointer has moved. -/
def movePtr (ptr : Nat) : State := { s with disp := { s.disp with ptr := ptr } }

section
variable {s} {p : Nat} {r : QRec} {rs : List RangeEnt} {ws : List (Nat × Nat)} (ht : (s.lport p).tabs = some (rs, ws))
include ht

theorem placePass_found {ptr : Nat} {xs : List Nat} (h : s.passOver r = (ptr, some xs)) :
    s.placePass p r = ((s.movePtr ptr).popHead p).commitLaunch (launchOfRec p r rs ws) xs := by
  unfold passOver granting at h
  simp only [placePass, ht, h, movePtr]

theorem placePass_none {ptr : Nat} (h : s.passOver r = (ptr, none)) :
    s.placePass p r = ((s.movePtr ptr).setPort p (backedOff (s.lport p))).sched (s.lport p).backoff rankDisp (.backoffExpiry p) := by
  unfold passOver granting at h
  simp only [placePass, ht, h, movePtr, backedOff]

end

section
variable (l : Launch)

theorem commitLaunch_grows (xs : List Nat) : Growing l.ltag (s.setLaunch l) (s.commitLaunch l xs) :=
  Growing.foldl (fun _ _ => Growing.foldl (fun _ _ => (Growing.createCrew ..).1) _ _) _ _

theorem launch_commitLaunch (xs : List Nat) : ∃ s2 s3, (s.commitLaunch l xs).launch? l.ltag = some { l with s2 := s2, s3 := s3 } :=
  (s.commitLaunch_grows l xs).launch l (mget_mset_self ..) rfl

/-- Each crew of a committed launch is due to start when its segments have been zeroed (R38). -/
theorem due_commitLaunch {xs : List Nat} {x k : Nat} (hx : x ∈ xs) (hk : k < l.gsize) :
    Claims.Due (s.commitLaunch l xs) (s.now + max l.s1sz (max (32 * l.s2sz) (128 * l.s3sz))) (.crewStart l.ltag (x + k)) := by
  obtain ⟨g, hg⟩ : ∃ g, (x, g) ∈ xs.zipIdx := by
    obtain ⟨g, hlt, rfl⟩ := List.getElem_of_mem hx
    exact ⟨g, List.mem_zipIdx_iff_getElem?.2 (List.getElem?_eq_getElem hlt)⟩
  obtain ⟨t, hst, htu⟩ := foldl_passes (R := Growing l.ltag) Growing.refl Growing.trans
    (fun _ _ => Growing.foldl (fun _ _ => (Growing.createCrew l _ _ _).1) _ _) hg (s.setLaunch l)
  obtain ⟨t', htt', ht'u⟩ := foldl_passes (R := Growing l.ltag) Growing.refl Growing.trans
    (fun _ _ => (Growing.createCrew l _ _ _).1) (List.mem_range.2 hk) t
  obtain ⟨e, he, hdue, hop⟩ := (Growing.createCrew (s := t') l g k (x + k)).2
  refine ⟨e, htu.agenda e (ht'u.agenda e he), ?_, hop⟩
  rw [hdue, htt'.now, hst.now]
  rfl

end

section
variable {s} {p : Nat} {r : QRec} {rest : List QRec} {rs : List RangeEnt} {ws : List (Nat × Nat)} (hp : p < 8)
  (hq : (s.lport p).queue = r :: rest) (ht : (s.lport p).tabs = some (rs, ws))
include hp ht

include hq in
/-- A record whose gangs all find windows leaves its queue and is an active launch, whose crews are due to start (R35, R38). -/
theorem placePass_places {ptr : Nat} {xs : List Nat} (h : s.passOver r = (ptr, some xs)) :
    ((s.placePass p r).lport p).queue = rest ∧
      (∃ l, (s.placePass p r).launch? r.ltag = some l ∧ l.ltag = r.ltag ∧ l.port = p ∧ l.pc = r.dword 1 ∧ l.arg = r.dword 2 ∧
        l.gsize = r.gsize ∧ l.init = r.init ∧ l.quota = r.quota ∧ l.ranges = rs ∧ l.windows = ws ∧ l.trig = false ∧ l.ending = none) ∧
      ∀ x ∈ xs, ∀ k, k < r.gsize →
        Claims.Due (s.placePass p r) (s.now + max r.s1sz (max (32 * r.s2sz) (128 * r.s3sz))) (.crewStart r.ltag (x + k)) := by
  rw [placePass_found ht h]
  refine ⟨?_, ?_, fun x hx k hk => due_commitLaunch _ _ hx hk⟩
  · rw [lport_congr (commitLaunch_grows _ _ xs).ports p]
    have hport := lport_popHead (s.movePtr ptr) hp
    exact (congrArg LPort.queue hport).trans (by rw [show rest = (s.lport p).queue.drop 1 by rw [hq]; rfl]; rfl)
  · obtain ⟨s2, s3, hl⟩ := launch_commitLaunch ((s.movePtr ptr).popHead p) (launchOfRec p r rs ws) xs
    exact ⟨_, hl, rfl, rfl, rfl, rfl, rfl, rfl, rfl, rfl, rfl, rfl, rfl⟩

/-- A record that does not fit stays at the head of its queue and backs off (R36). -/
theorem placePass_backs {ptr : Nat} (h : s.passOver r = (ptr, none)) :
    ((s.placePass p r).lport p).queue = (s.lport p).queue ∧ ((s.placePass p r).lport p).backing = true ∧
      ((s.placePass p r).lport p).backoff = min 172800 (2 * (s.lport p).backoff) ∧
      Claims.Due (s.placePass p r) (s.now + (s.lport p).backoff) (.backoffExpiry p) := by
  rw [placePass_none ht h]
  have hport : (((s.movePtr ptr).setPort p (backedOff (s.lport p))).sched (s.lport p).backoff rankDisp (.backoffExpiry p)).lport p =
    backedOff (s.lport p) := lport_setPort_self _ _ hp
  rw [hport]
  exact ⟨rfl, rfl, rfl, due_sched ..⟩

end

/-- A back-off that ends makes another pass over the gangs of the head record (R36). -/
theorem exec_backoffExpiry {p : Nat} {r : QRec} {rest : List QRec} (hq : (s.lport p).queue = r :: rest) (hh : (s.lport p).held = [])
    (hd : s.pkg.disp = true) (hb : (s.lport p).backing = true) :
    exec (.backoffExpiry p) s = .next ((s.setPort p { s.lport p with backing := false }).placePass p r) := by
  show Host.Outcome.next _ = _
  simp [hq, hh, hd, hb]

end State

end Sys2Proof.Machine
end

section
/-! The statement about launch ports, O39. -/

namespace Sys2Proof.Machine

namespace State
variable (s : State)

/-! ## Reads of LPSTAT (R8, R9, R30, R223) -/

theorem exec_lpstatRead_waits (blk off size : Nat) (hu : s.pkg.hostUp = true) (hw : s.hostWaits = true) :
    exec (.lpstatRead blk off size) s = .next (s.sched 1 1 (.lpstatRead blk off size)) := by
  show Host.Outcome.next _ = _
  rw [if_neg (by simp [hu]), if_pos hw, Nat.add_sub_cancel_left]
  rfl

theorem exec_lpstatRead_refused (blk off size : Nat) (hu : s.pkg.hostUp = true) (hw : s.hostWaits = false)
    (hr : s.host.d3hot = true ∨ barOk (0x10000 * blk + off) size = false) :
    exec (.lpstatRead blk off size) s = .next s.unsupportedRead := by
  show Host.Outcome.next _ = _
  rw [if_neg (by simp [hu]), if_neg (by simp [hw]), if_neg (by rcases hr with h | h <;> simp [h])]

/-- A read of LPSTAT answers the register and clears DROPS, but for the records dropped in its cycle (R9, R30). -/
theorem exec_lpstatRead_port {p : Nat} (hp : p < 8) (hu : s.pkg.hostUp = true) (hw : s.hostWaits = false) (hd : s.host.d3hot = false) :
    ∃ u, exec (.lpstatRead 1 (0x40 + 0x100 * p) 8) s = .next u ∧ u.host.reads = some (s.lpstat p) :: s.host.reads ∧
      u.lport p = { s.lport p with drops := if (s.lport p).dropAt.1 = s.now then (s.lport p).dropAt.2 else 0 } ∧ OtherPorts s p u := by
  have hoff : 0x10000 * 1 + (0x40 + 0x100 * p) = 0x10000 + 0x100 * p + 0x40 := by omega
  have hbar : barOk (0x10000 + 0x100 * p + 0x40) 8 = true :=
    (barOk_iff ..).2 ⟨.inr rfl, by omega, by omega, by simp [regListed]; omega⟩
  have hload : s.regLoad (0x10000 + 0x100 * p + 0x40) 8 = (s.lpstat p,
      s.setPort p { s.lport p with drops := if (s.lport p).dropAt.1 = s.now then (s.lport p).dropAt.2 else 0 }) := by
    have ho : (0x10000 + 0x100 * p + 0x40) / 8 * 8 = 0x10000 + 0x100 * p + 0x40 := by omega
    have hport : (0x10000 + 0x100 * p + 0x40 - 0x10000) / 0x100 = p := by omega
    have hstat : (decide (0x10000 ≤ 0x10000 + 0x100 * p + 0x40) && decide (0x10000 + 0x100 * p + 0x40 < 0x10800) &&
        decide ((0x10000 + 0x100 * p + 0x40) % 0x100 = 0x40) && (halfMask (0x10000 + 0x100 * p + 0x40) 8).getLsbD 0) = true := by
      simp [halfMask]
      omega
    simp only [regLoad, ho, hport, if_pos hstat, regRead_port _ _ _ hp (show 0x40 < 0x100 by decide), if_true]
    rfl
  obtain ⟨hport, hothers⟩ := lport_of_ports s (x := { s.lport p with
    drops := if (s.lport p).dropAt.1 = s.now then (s.lport p).dropAt.2 else 0 }) hp rfl
  let t := s.setPort p { s.lport p with drops := if (s.lport p).dropAt.1 = s.now then (s.lport p).dropAt.2 else 0 }
  refine ⟨{ t with host := { t.host with reads := some (s.lpstat p) :: t.host.reads } }, ?_, rfl, hport, hothers⟩
  show Host.Outcome.next _ = _
  rw [if_neg (by simp [hu]), if_neg (by simp [hw]), hoff, if_pos (by simp [hd, hbar]), hload]

end State

/-- Settles O39: the registers of a port by what their writes make of its table entry, its head record by the four outcomes of the check. -/
theorem launchPorts : Obligations.LaunchPorts := by
  refine ⟨fun s p v hp hs => ?_, fun s p r rest hp => ?_⟩
  · have hi := s.writesRing_lpcqh v hp
    have hj := s.writesRing_lpcqb v hp
    refine ⟨fun hw => ?_, fun hw hroom => ?_, fun hw hfull => ?_, s.exec_lpstatRead_waits, fun hu hw hd => ?_, s.exec_lpstatRead_refused,
      ⟨hi.waits, hi.takes hp, fun ws hw hh hlen hen hroom hc hb => hi.writes hp hs hw hh hlen hen hroom hc hb⟩,
      ⟨hj.waits, hj.takes hp, fun ws hw hh hlen hen hroom hc hb => hj.writes hp hs hw hh hlen hen hroom hc hb⟩⟩
    · rw [s.exec_launchRecordCommit v hp, if_pos hw]
    · obtain ⟨hport, hothers⟩ := State.lport_of_ports s hp rfl
      exact ⟨_, s.exec_launchRecordCommit_room v hp hw hroom, hothers, rfl, hport⟩
    · obtain ⟨hport, hothers⟩ := State.lport_of_ports s hp rfl
      refine ⟨_, s.exec_launchRecordCommit_full v hp hw hfull, hothers, ?_⟩
      rw [hport]
      exact ⟨rfl, rfl, rfl⟩
    · obtain ⟨u, hu, hreads, hport, hothers⟩ := s.exec_lpstatRead_port hp hu hw hd
      refine ⟨u, hu, hreads, hothers, fun hne => ?_⟩
      rw [hport, if_neg hne]
  · intro q hq hh hd held s0 vec placed backs pass
    have hq0 : s0.lport p = q := s.lport_ueReads _ p
    have hn0 : s0.now = s.now := s.ueReads_now _
    have passes (i : Instr) (s1 : State) (hq1 : (s1.lport p).queue = q.queue) (hb1 : (s1.lport p).backoff = q.backoff)
        (hn : s1.now = s.now) (hi : exec i s = .next (s1.placePass p r)) : pass i s1 := by
      refine fun rs ws ptr ht => ⟨fun xs h => ⟨_, hi, State.placePass_places hp (hq1.trans hq) ht h⟩, fun h => ⟨_, hi, ?_⟩⟩
      have hback := State.placePass_backs hp ht h
      rw [hq1, hb1, hn] at hback
      exact hback
    refine ⟨fun hb ht hheld => ?_, fun hb ht hheld hcode hen => ?_, fun hb ht hheld hcode hdep => ?_, fun hb ht hheld hcode hdep => ?_,
      fun hb => ?_⟩
    · exact congrArg Host.Outcome.next (State.headCheck_held hq hh hd hb ht hheld)
    · have href := s0.refuse_held (s0.refusal p r) hp (by rw [hq0]; exact hq) (by rw [hq0]; exact hh) (by rw [hq0]; exact hen)
      rw [hn0] at href
      exact ⟨_, congrArg Host.Outcome.next (State.headCheck_refused hq hh hd hb ht hheld hcode), href⟩
    · exact ⟨_, congrArg Host.Outcome.next (State.headCheck_depends hq hh hd hb ht hheld hcode hdep),
        s0.lport_setPort_field LPort.queue _ hp, s0.lport_setPort_field LPort.headwait _ hp⟩
    · exact passes _ _ (s0.lport_setPort_field LPort.queue _ hp) (s0.lport_setPort_field LPort.backoff _ hp) hn0
        (congrArg Host.Outcome.next (State.headCheck_places hq hh hd hb ht hheld hcode hdep))
    · exact passes _ _ (s.lport_setPort_field LPort.queue _ hp) (s.lport_setPort_field LPort.backoff _ hp) rfl
        (s.exec_backoffExpiry hq hh hd hb)

end Sys2Proof.Machine
end

section
/-! SUPPORT. The host's accesses (R155, R222 to R224, R233): writes through BAR 0, the placement of quads, the descriptor window, BAR 2 and
MSI-X. -/

namespace Sys2Proof.Machine

namespace State
variable (s : State)

/-! ## Writes through BAR 0 -/

theorem exec_registerWrite_down (r : HostReg) (size : Nat) (v : Word) (hu : s.pkg.hostUp = false) :
    exec (.registerWrite r size v) s = .next s := by
  show Host.Outcome.next _ = _
  rw [if_pos (by simp [hu])]

theorem exec_registerWrite_waits (r : HostReg) (size : Nat) (v : Word) (hu : s.pkg.hostUp = true) (hw : s.hostWaits = true) :
    exec (.registerWrite r size v) s = .next (s.sched 1 1 (.registerWrite r size v)) := by
  show Host.Outcome.next _ = _
  rw [if_neg (by simp [hu]), if_pos hw]
  rfl

theorem exec_registerWrite_bar0 (off size : Nat) (v : Word) (hu : s.pkg.hostUp = true) (hw : s.hostWaits = false) :
    exec (.registerWrite (.bar0 off) size v) s =
      .next (if s.host.d3hot = false ∧ barOk off size = true then s.regStore off size v else s.hostLog) := by
  show Host.Outcome.next _ = _
  rw [if_neg (by simp [hu]), if_neg (by simp [hw])]
  simp

/-- A write that BAR 0 takes is a store of its register. -/
theorem registerWrite_stores {off size : Nat} {v : Word} {f : State → Prop} (hb : barOk off size = true) (hf : f (s.regStore off size v))
    (hu : s.pkg.hostUp = true) (hw : s.hostWaits = false) (hd : s.host.d3hot = false) :
    ∃ u, exec (.registerWrite (.bar0 off) size v) s = .next u ∧ f u :=
  ⟨_, (s.exec_registerWrite_bar0 off size v hu hw).trans (congrArg _ (if_pos ⟨hd, hb⟩)), hf⟩

theorem exec_registerWrite_refused (off size : Nat) (v : Word) (hu : s.pkg.hostUp = true) (hw : s.hostWaits = false)
    (hr : s.host.d3hot = true ∨ barOk off size = false) : exec (.registerWrite (.bar0 off) size v) s = .next s.hostLog := by
  rw [exec_registerWrite_bar0 _ _ _ _ hu hw, if_neg (by rcases hr with h | h <;> simp [h])]

theorem ptroot_memoryWrite (k : Nat) (v m : Word) (act : Bool) (hk : k < 8) :
    (s.memoryWrite (8 * k) v m act).trans.ptroot = nset s.trans.ptroot k (merge (nget s.trans.ptroot k 0) v m) := by
  unfold memoryWrite
  rw [if_pos (by omega), Nat.mul_div_cancel_left _ (by decide)]

theorem ptroot_regStore_dword (k : Nat) (v : Word) (hk : k < 8) :
    (s.regStore (0x30000 + 8 * k) 8 v).trans.ptroot = nset s.trans.ptroot k v := by
  rw [regStore_dword _ _ _ (by omega), regWrite_memory _ _ _ _ (by omega), ptroot_memoryWrite _ _ _ _ _ hk, merge_allOnes]

theorem ptroot_regStore_low (k : Nat) (v : Word) (hk : k < 8) : (s.regStore (0x30000 + 8 * k) 4 v).trans.ptroot =
    nset s.trans.ptroot k ((nget s.trans.ptroot k 0).extractLsb' 32 32 ++ v.setWidth 32) := by
  rw [regStore_low _ _ _ (by omega), regWrite_memory _ _ _ _ (by omega), ptroot_memoryWrite _ _ _ _ _ hk, merge_low]

/-- A W1C write of REPLACE in a cycle in which no event has set a cause clears the bits that it names (R238). -/
theorem replace_clearReplace (w : BitVec 7) (h : s.pkg.replaceAt.1 ≠ s.now) : (s.clearReplace w).pkg.replace = s.pkg.replace &&& ~~~w := by
  have hr : s.replacedNow = (0, 0) := if_neg h
  have hw : w &&& ~~~(0 : BitVec 7) = w := BitVec.and_allOnes
  have hnone : (List.range 7).filter (s.pkg.replace &&& w &&& 0 &&& ~~~(0 : BitVec 7)).getLsbD = [] := by simp
  simp only [clearReplace, hr, hnone, List.foldl_nil, hw]

theorem replace_regStore (v : Word) (h : s.pkg.replaceAt.1 ≠ s.now) :
    (s.regStore 0x10 8 v).pkg.replace = s.pkg.replace &&& ~~~(v.setWidth 7) := by
  rw [regStore_dword _ _ _ rfl, regWrite_package _ _ _ _ (by decide)]
  refine (s.replace_clearReplace _ h).trans ?_
  rw [BitVec.and_allOnes]

/-! ## The placement of quads (R110, R111) -/

theorem byteAt_zero (pa n a : Nat) : Claims.byteAt (s.zero pa n) a = if pa ≤ a ∧ a < pa + n then 0 else Claims.byteAt s a :=
  rdByte_mclear ..

/-- The four quads of a bit of HBMPLACE are zeroed. -/
def zeroQuads (g : Nat) : State := (List.range 4).foldl (fun s j => s.zero ((g + 128 * j) * 2 ^ 30) (2 ^ 30)) s

theorem byteAt_zeroQuads (g a : Nat) (hg : g < 128) :
    Claims.byteAt (s.zeroQuads g) a = if a < 2 ^ 39 ∧ a / 2 ^ 30 % 128 = g then 0 else Claims.byteAt s a := by
  have hfold : s.zeroQuads g = (((s.zero ((g + 128 * 0) * 2 ^ 30) (2 ^ 30)).zero ((g + 128 * 1) * 2 ^ 30) (2 ^ 30)).zero
    ((g + 128 * 2) * 2 ^ 30) (2 ^ 30)).zero ((g + 128 * 3) * 2 ^ 30) (2 ^ 30) := rfl
  rw [hfold, byteAt_zero, byteAt_zero, byteAt_zero, byteAt_zero, ← ite_or, ← ite_or, ← ite_or]
  exact if_congr (by omega) rfl rfl

/-- Of each bit of a list that `c` names the quads are zeroed. -/
theorem byteAt_foldl_zeroQuads (c : Nat → Bool) (b : Nat) (l : List Nat) (hl : ∀ i ∈ l, i + b < 128) (a : Nat) :
    Claims.byteAt (l.foldl (fun s i => if c i then s.zeroQuads (i + b) else s) s) a =
      if a < 2 ^ 39 ∧ ∃ i ∈ l, c i = true ∧ a / 2 ^ 30 % 128 = i + b then 0 else Claims.byteAt s a := by
  induction l generalizing s with
  | nil => simp
  | cons i r ih =>
    rw [List.foldl_cons, ih _ fun j hj => hl j (List.mem_cons_of_mem _ hj)]
    by_cases hc : c i = true
    · rw [if_pos hc, byteAt_zeroQuads _ _ _ (hl i List.mem_cons_self), ← ite_or]
      refine if_congr ?_ rfl rfl
      simp only [List.exists_mem_cons_iff, hc, true_and]
      rw [← and_or_left]
      exact and_congr_right fun _ => or_comm
    · simp [hc]

theorem byteAt_placeWrite (hi : Bool) (v : Word) (a : Nat) :
    let old := if hi then s.trans.hbmplace1 else s.trans.hbmplace0
    Claims.byteAt (s.placeWrite hi v) a =
      if a < 2 ^ 39 ∧ a / 2 ^ 30 % 128 / 64 = b01 hi ∧
        old.getLsbD (a / 2 ^ 30 % 128 % 64) ≠ v.getLsbD (a / 2 ^ 30 % 128 % 64) then 0 else Claims.byteAt s a := by
  intro old
  have hfold := s.byteAt_foldl_zeroQuads (fun i => old.getLsbD i != v.getLsbD i) (if hi then 64 else 0) (List.range 64)
    (fun i h => by have := List.mem_range.1 h; split <;> omega) a
  have hmem : (s.placeWrite hi v).mem = ((List.range 64).foldl (fun s i =>
    if old.getLsbD i != v.getLsbD i then s.zeroQuads (i + if hi then 64 else 0) else s) s).mem := rfl
  rw [Claims.byteAt, hmem]
  refine hfold.trans (if_congr (and_congr_right fun _ => ?_) rfl rfl)
  have hb : (if hi then 64 else 0) = 64 * b01 hi := by cases hi <;> rfl
  simp only [List.mem_range, bne_iff_ne, hb]
  constructor
  · rintro ⟨i, hi64, hne, hg⟩
    obtain rfl : a / 2 ^ 30 % 128 % 64 = i := by omega
    exact ⟨by omega, hne⟩
  · rintro ⟨hg, hne⟩
    exact ⟨_, Nat.mod_lt _ (by decide), hne, by omega⟩

/-! ## The descriptor window (R113, R233) -/

/-- Descriptors `d 0`, `d 1` and on, set in the blocks from `b` on. -/
def setDescs (b : Nat) (d : Nat → Half) (n : Nat) : State := (List.range n).foldl (fun s i => s.setDesc (b + 64 * i) (d i)) s

theorem setDescs_succ (b : Nat) (d : Nat → Half) (n : Nat) : s.setDescs b d (n + 1) = (s.setDescs b d n).setDesc (b + 64 * n) (d n) := by
  rw [setDescs, List.range_succ, List.foldl_append]
  rfl

theorem setDescs_mem (b : Nat) (d : Nat → Half) (n : Nat) : (s.setDescs b d n).mem = s.mem := by
  induction n with
  | zero => rfl
  | succ n ih => rw [setDescs_succ, setDesc_mem, ih]

theorem descOf_setDescs (hs : s.Sound) (b : Nat) (d : Nat → Half) (n k : Nat) (hk : k < n) : (s.setDescs b d n).descOf (b + 64 * k) = d k := by
  induction n with
  | zero => exact absurd hk (Nat.not_lt_zero _)
  | succ n ih =>
    have hsn : (s.setDescs b d n).Sound := State.Sound.foldl hs fun _ _ h => h.setDesc ..
    rw [setDescs_succ, descOf, setDesc_desc, mget_wrDesc _ _ _ _ hsn.desc.1]
    split
    · rw [show k = n by omega]
    · exact ih (by omega)

theorem setDescs_trans (b : Nat) (d : Nat → Half) (n : Nat) : (s.setDescs b d n).trans = s.trans := by
  induction n with
  | zero => rfl
  | succ n ih => rw [setDescs_succ, setDesc_trans, ih]

theorem descWindow_eq (off size : Nat) (v : Word) : s.descWindow off size v =
    s.setDescs (s.trans.dwinbase.toNat + 64 * (off / 2)) (fun i => v.extractLsb' (16 * i) 16) (size / 2) := by
  unfold descWindow
  induction size / 2 with
  | zero => rfl
  | succ n ih =>
    rw [List.range_succ, List.foldl_append, ih, setDescs_succ, List.foldl_cons, List.foldl_nil, setDescs_trans]
    congr 1
    omega

/-- A write of a dword of the window, or of a half of one, is one of the descriptors that it covers. -/
theorem regStore_window {w size : Nat} (v : Word) (hw : w < 0x1000000) (hs : size = 4 ∨ size = 8) (ha : w % size = 0) :
    s.regStore (0x1000000 + w) size v = s.descWindow w size (if w % 8 = 0 then v else v <<< 32 >>> 32) := by
  by_cases h8 : w % 8 = 0
  · rw [if_pos h8]
    rcases hs with rfl | rfl
    · rw [regStore_low _ _ _ (by omega), regWrite_window _ _ _ _ hw]
      rfl
    · rw [regStore_dword _ _ _ (by omega), regWrite_window _ _ _ _ hw]
      rfl
  · obtain rfl : size = 4 := by
      rcases hs with rfl | rfl
      · rfl
      · exact absurd ha h8
    have hlow : (0x1000000 + w) / 8 * 8 = 0x1000000 + (w - 4) := by omega
    have hmask : halfMask (0x1000000 + w) 4 = 0xFFFFFFFF00000000 := by
      rw [halfMask, if_neg (by decide), if_neg (by omega)]
    rw [if_neg h8, regStore, if_neg (by omega), hlow, hmask, regWrite_window _ _ _ _ (by omega), if_neg (by decide),
      Nat.sub_add_cancel (by omega)]

/-- The upper half of a dword brings its two halves of data from bits 63:32. -/
theorem extract_high (v : Word) (k : Nat) (hk : k < 2) : (v <<< 32 >>> 32).extractLsb' (16 * k) 16 = v.extractLsb' (16 * k) 16 := by
  apply BitVec.eq_of_getLsbD_eq
  intro i hi
  simp only [BitVec.getLsbD_extractLsb', BitVec.getLsbD_ushiftRight, BitVec.getLsbD_shiftLeft]
  simp [hi, show 32 + (16 * k + i) < 64 by omega]

theorem descOf_regStore_window (h : s.Sound) {w size : Nat} (v : Word) (hw : w < 0x1000000) (hs : size = 4 ∨ size = 8) (ha : w % size = 0)
    {k : Nat} (hk : k < size / 2) :
    (s.regStore (0x1000000 + w) size v).descOf (s.trans.dwinbase.toNat + 64 * (w / 2 + k)) = v.extractLsb' (16 * k) 16 := by
  rw [regStore_window _ _ hw hs ha, descWindow_eq, show s.trans.dwinbase.toNat + 64 * (w / 2 + k) =
    s.trans.dwinbase.toNat + 64 * (w / 2) + 64 * k by omega, descOf_setDescs _ h _ _ _ _ hk]
  split
  · rfl
  · exact extract_high _ _ (by rcases hs with rfl | rfl <;> omega)

theorem mem_regStore_window {w size : Nat} (v : Word) (hw : w < 0x1000000) (hs : size = 4 ∨ size = 8) (ha : w % size = 0) :
    (s.regStore (0x1000000 + w) size v).mem = s.mem := by
  rw [regStore_window _ _ hw hs ha, descWindow_eq, setDescs_mem]

theorem regWrite_hbmplace (hi : Bool) (v : Word) :
    s.regWrite (if hi then 0x30058 else 0x30050) v (BitVec.allOnes 64) = s.placeWrite hi v := by
  cases hi
  · exact congrArg (s.placeWrite false) (merge_allOnes ..)
  · exact congrArg (s.placeWrite true) (merge_allOnes ..)

theorem exec_hbmplaceWrite (hi : Bool) (v : Word) :
    exec (.hbmplaceWrite hi v) s = .next (if s.hostWaits then s.sched 1 1 (.hbmplaceWrite hi v) else s.placeWrite hi v) := by
  rw [← regWrite_hbmplace]
  rfl

theorem exec_descriptorWindowWrite (off size : Nat) (v : Word) : exec (.descriptorWindowWrite off size v) s = .next
    (if s.hostWaits then s.sched 1 1 (.descriptorWindowWrite off size v)
     else if barOk (0x1000000 + off) size && off < 0x1000000 then s.regStore (0x1000000 + off) size v else s.hostLog) := rfl

/-! ## BAR 2 (R109, R155, R223) -/

/-- The banks of a range take an access: nothing but what the banks have accepted changes. -/
theorem takeBanks_eq (a n : Nat) : ∃ b k, s.takeBanks a n = { s with busy := b, streak := k } := by
  refine List.foldlRecOn (motive := fun u : State => ∃ b k, u = { s with busy := b, streak := k }) _ _ ⟨s.busy, s.streak, rfl⟩
    fun u hu a _ => ?_
  obtain ⟨b, k, rfl⟩ := hu
  exact ⟨_, _, rfl⟩

section
variable {s} {off n : Nat} {data : List Byte} (hu : s.pkg.hostUp = true)

theorem exec_hostBar2Write_down (off : Nat) (data : List Byte) (hu : s.pkg.hostUp = false) :
    exec (.hostBar2Write off data) s = .next s := by
  show Host.Outcome.next _ = _
  rw [if_pos (by simp [hu])]

include hu

theorem exec_hostBar2Write_some {a : Nat} (h : s.bar2At off data.length = some a) : exec (.hostBar2Write off data) s = .next
    (if s.hostHeld a data.length then s.sched 1 1 (.hostBar2Write off data) else (s.takeBanks a data.length).putBytes a data) := by
  show Host.Outcome.next _ = _
  rw [if_neg (by simp [hu]), h]
  rfl

theorem exec_hostBar2Write_none (h : s.bar2At off data.length = none) : exec (.hostBar2Write off data) s = .next
    (if s.hostWaits then s.sched 1 1 (.hostBar2Write off data) else s.hostLog) := by
  show Host.Outcome.next _ = _
  rw [if_neg (by simp [hu]), h]
  rfl

/-- A posted write of the host that came before holds a write of BAR 2, whether or not the stacks serve it (R155). -/
theorem exec_hostBar2Write_waits (hw : s.hostWaits = true) :
    exec (.hostBar2Write off data) s = .next (s.sched 1 1 (.hostBar2Write off data)) := by
  cases h : s.bar2At off data.length with
  | none => rw [exec_hostBar2Write_none hu h, if_pos hw]
  | some a => rw [exec_hostBar2Write_some hu h, if_pos (by simp [hostHeld, hw])]

theorem exec_hostBar2Read_held {a : Nat} (h : s.bar2At off n = some a) (hh : s.hostHeld a n = true) :
    exec (.hostBar2Read off n) s = .next (s.sched 1 1 (.hostBar2Read off n)) := by
  show Host.Outcome.next _ = _
  rw [if_neg (by simp [hu]), h]
  exact congrArg _ (if_pos hh)

theorem exec_hostBar2Read_none (h : s.bar2At off n = none) : exec (.hostBar2Read off n) s = .next s.unsupportedRead := by
  show Host.Outcome.next _ = _
  rw [if_neg (by simp [hu]), h]

/-- A read of a dword without poison answers it. -/
theorem exec_hostBar2Read_dword {a : Nat} (h : s.bar2At off 8 = some a) (hh : s.hostHeld a 8 = false) (hp : s.psnAt a = none) :
    ∃ u, exec (.hostBar2Read off 8) s = .next u ∧ u.host.reads = some (leWord (rdBytes s.mem a 8)) :: s.host.reads ∧ u.mem = s.mem := by
  obtain ⟨b, k, hb⟩ := s.takeBanks_eq a 8
  have hwords : barWords (s.takeBanks a 8) a 8 = (s.takeBanks a 8, [some (leWord (rdBytes s.mem a 8))]) := by
    have hload : (s.takeBanks a 8).load a 8 = ⟨leWord (rdBytes s.mem a 8), none⟩ := by
      rw [hb]
      exact congrArg (Val.mk _) hp
    simp [barWords, eccVal, hload]
  refine ⟨{ s.takeBanks a 8 with free := (s.takeBanks a 8).free + 1, host := { s.host with
    reads := some (leWord (rdBytes s.mem a 8)) :: s.host.reads } }, ?_, rfl, by rw [hb]⟩
  show Host.Outcome.next _ = _
  rw [if_neg (by simp [hu]), h]
  refine congrArg _ ((if_neg (ne_true_of_eq_false hh)).trans ?_)
  rw [hwords, hb]
  rfl

end

/-- The bytes written lie where they were sent, and every other byte and every descriptor is as it was. -/
theorem putBytes_takeBanks (hs : s.Sound) (a : Nat) (data : List Byte) (u : State)
    (hu : u = (s.takeBanks a data.length).putBytes a data) :
    rdBytes u.mem a data.length = data ∧ (∀ b, b < a ∨ a + data.length ≤ b → Claims.byteAt u b = Claims.byteAt s b) ∧ u.desc = s.desc := by
  obtain ⟨b, k, hb⟩ := s.takeBanks_eq a data.length
  have hmem : u.mem = wrBytes s.mem a data := by
    rw [hu, hb]
    rfl
  refine ⟨?_, fun c hc => ?_, ?_⟩
  · rw [hmem]
    exact rdBytes_wrBytes _ _ _ hs.mem
  · rw [Claims.byteAt, hmem]
    exact rdByte_wrBytes_outside _ _ _ _ hc
  · rw [hu, hb]
    rfl

/-! ## MSI-X (R224) -/

theorem exec_msixUnmask (k : Nat) (hk : k < 2048) : exec (.msixUnmask k) s = .next
    (if s.hostWaits then s.sched 1 1 (.msixUnmask k) else s.msixWrite k 1 0 (wd (2 ^ 32))) := by
  show Host.Outcome.next _ = _
  rw [Nat.mod_eq_of_lt hk]
  rfl

theorem exec_msixUnmask_waits (k : Nat) (hw : s.hostWaits = true) : exec (.msixUnmask k) s = .next (s.sched 1 1 (.msixUnmask k)) :=
  congrArg _ (if_pos hw)

/-- An unmasked entry sends its message if one is pending. -/
theorem sendPending_unmasked (k : Nat) (h : (s.msixEnt k).ctrl.getLsbD 0 = false) :
    (s.sendPending k).host.msix = s.host.msix ∧
      (k ∈ s.host.pending → (s.sendPending k).host.sent = k :: s.host.sent ∧ k ∉ (s.sendPending k).host.pending) ∧
      (k ∉ s.host.pending → (s.sendPending k).host.sent = s.host.sent) := by
  unfold sendPending
  by_cases hk : k ∈ s.host.pending
  · rw [if_pos (by rw [h]; simpa using hk)]
    exact ⟨rfl, fun _ => ⟨rfl, by simp⟩, fun hn => absurd hk hn⟩
  · rw [if_neg (by simp [hk])]
    exact ⟨rfl, fun hp => absurd hp hk, fun _ => rfl⟩

/-- A write of 0 to the mask bit alone leaves it 0. -/
theorem mask_clear (w : Word) : ((merge w 0 (wd (2 ^ 32))).extractLsb' 32 32).getLsbD 0 = false := by
  simp [merge, wd]

/-- The entry of a vector after a write of 0 to its mask bit. -/
def unmasked (e : MsixEnt) : MsixEnt :=
  { e with data := (merge (e.ctrl ++ e.data) 0 (wd (2 ^ 32))).extractLsb' 0 32,
           ctrl := (merge (e.ctrl ++ e.data) 0 (wd (2 ^ 32))).extractLsb' 32 32 }

theorem msixWrite_unmask (k : Nat) :
    let u := s.msixWrite k 1 0 (wd (2 ^ 32))
    (u.msixEnt k).ctrl.getLsbD 0 = false ∧ (k ∈ s.host.pending → u.host.sent = k :: s.host.sent ∧ k ∉ u.host.pending) ∧
      (k ∉ s.host.pending → u.host.sent = s.host.sent) := by
  let t : State := { s with host := { s.host with msix := mset s.host.msix k (unmasked (s.msixEnt k)) } }
  have hent (v : State) (hv : v.host.msix = t.host.msix) : (v.msixEnt k).ctrl.getLsbD 0 = false := by
    rw [msixEnt, hv, mget_mset_self]
    exact mask_clear _
  obtain ⟨hmsix, hsent⟩ := t.sendPending_unmasked k (hent t rfl)
  exact ⟨hent _ hmsix, hsent⟩

end State

end Sys2Proof.Machine
end

section
/-! SUPPORT. The commands of the firmware mailbox (R228 to R231), and the statement about the host's accesses, O43. -/

namespace Sys2Proof.Machine

namespace State
variable (s : State)

/-! ## The end of a command (R231, R233) -/

/-- A vector that is signalled changes the host port alone, and there what is pending and what was sent. -/
theorem msi_eq (v : Nat) : ∃ p m, s.msi v = { s with host := { s.host with pending := p, sent := m } } := by
  unfold msi
  simp only
  split
  · exact ⟨_, _, rfl⟩
  · exact ⟨_, _, rfl⟩

theorem mbxFinish_eq (r : BitVec 8) : ∃ p m, s.mbxFinish r =
    { s with host := { s.host with mbxBusy := false, mbxResult := r, pending := p, sent := m } } := by
  obtain ⟨p, m, h⟩ := msi_eq { s with host := { s.host with mbxBusy := false, mbxResult := r } } (bits s.host.mbxVec 0 11)
  exact ⟨p, m, h⟩

/-- The command is over with result `r`. -/
theorem mbxFinish_ends (r : BitVec 8) : (s.mbxFinish r).host.mbxBusy = false ∧ (s.mbxFinish r).host.mbxResult = r := by
  obtain ⟨p, m, h⟩ := s.mbxFinish_eq r
  rw [h]
  exact ⟨rfl, rfl⟩

theorem mbxFinish_pkg (r : BitVec 8) : (s.mbxFinish r).pkg = s.pkg := by
  obtain ⟨p, m, h⟩ := s.mbxFinish_eq r
  rw [h]

theorem mbxFinish_mbxData (r : BitVec 8) : (s.mbxFinish r).host.mbxData = s.host.mbxData := by
  obtain ⟨p, m, h⟩ := s.mbxFinish_eq r
  rw [h]

/-! ## Measurements (R227, R230) -/

/-- An extension changes a measurement of M2 to M7 and nothing else. -/
theorem extend_eq (m : Nat) (data : List Byte) :
    ∃ ms, s.extend m data = { s with pkg := { s.pkg with measures := ms } } ∧ ∀ k, k < 2 → mget ms k = mget s.pkg.measures k := by
  unfold extend
  split
  · exact ⟨s.pkg.measures, rfl, fun _ _ => rfl⟩
  · rename_i h
    have hm : ¬m < 2 := fun hlt => h (by simp [hlt])
    exact ⟨_, rfl, fun k hk => mget_mset_other _ _ _ _ (by omega)⟩

/-- An image is measured, and its firmware extends other measurements; nothing else changes. -/
theorem measure_eq (m : Nat) (i : Image) (hm : m < 2) :
    ∃ ms, s.measure m i = { s with pkg := { s.pkg with measures := ms } } ∧ mget ms m = some (sha512 i.body) := by
  refine List.foldlRecOn (motive := fun u : State => ∃ ms, u = { s with pkg := { s.pkg with measures := ms } } ∧
    mget ms m = some (sha512 i.body)) _ _ ⟨_, rfl, mget_mset_self ..⟩ fun u hu e _ => ?_
  obtain ⟨ms, rfl, hms⟩ := hu
  obtain ⟨ms', he, hkeep⟩ := extend_eq { s with pkg := { s.pkg with measures := ms } } e.1 e.2
  exact ⟨ms', he, (hkeep m hm).trans hms⟩

end State

/-! ## MBXDATA (R230, R233) -/

/-- Bytes set one after another from `n` on are read there, and every other place as before. -/
theorem mget_foldl_mset {α : Type} (bs : List α) (m : Map α) (n i : Nat) :
    mget ((bs.zipIdx n).foldl (fun m e => mset m e.2 e.1) m) i = if n ≤ i ∧ i < n + bs.length then bs[i - n]? else mget m i := by
  induction bs generalizing m n with
  | nil => rw [if_neg (by simp)]; rfl
  | cons b r ih =>
    rw [List.zipIdx_cons, List.foldl_cons, ih, List.length_cons]
    rcases Nat.lt_trichotomy i n with h | rfl | h
    · rw [if_neg (by omega), if_neg (by omega), mget_mset_other _ _ _ _ (by omega)]
    · rw [if_neg (by omega), if_pos (by omega), mget_mset_self, Nat.sub_self]
      rfl
    · rw [mget_mset_other _ _ _ _ (by omega), show i - n = i - (n + 1) + 1 by omega, List.getElem?_cons_succ]
      exact if_congr (by omega) rfl rfl

/-! ## The commands -/

namespace State
variable {s : State} (hb : s.host.mbxBusy = true)
include hb

/-- OWNERSET fills the empty slot with the hash that an allowed key signed (R228). -/
theorem ownerset_owner (hash : BitVec 512) (key sig : List Byte) :
    let ok := s.pkg.owner.isNone && s.keyAllowed key && pssVerify key (natLe 64 hash.toNat) sig
    ∃ u, exec (.ownerset (.owner hash) key sig) s = .next u ∧ (u.host.mbxBusy = false ∧ u.host.mbxResult = Config.mbxDone ok) ∧
      u.pkg.owner = if ok then some hash else s.pkg.owner := by
  refine ⟨_, congrArg Host.Outcome.next (if_neg (by simp [hb])), mbxFinish_ends .., ?_⟩
  rw [mbxFinish_pkg]
  exact apply_ite (fun u : State => u.pkg.owner) ..

/-- MODE moves only forward, and not to 0b11 (R228). -/
theorem ownerset_mode (m : BitVec 2) (key sig : List Byte) :
    let ok := m != 3 && s.pkg.mode.toNat < m.toNat
    ∃ u, exec (.ownerset (.mode m) key sig) s = .next u ∧ (u.host.mbxBusy = false ∧ u.host.mbxResult = Config.mbxDone ok) ∧
      u.pkg.mode = if ok then m else s.pkg.mode := by
  refine ⟨_, congrArg Host.Outcome.next (if_neg (by simp [hb])), mbxFinish_ends .., ?_⟩
  rw [mbxFinish_pkg]
  exact apply_ite (fun u : State => u.pkg.mode) ..

section
variable {img : Image} (hr : s.pkg.recovery = true)
include hr

/-- A staged image that is accepted ends recovery mode, is measured, and is recorded (R229, R380). -/
theorem stagedImage_accepted (hi : s.imageOk img = true) :
    ∃ u, exec (.stagedImage img) s = .next u ∧ u.pkg.recovery = false ∧ mget u.pkg.measures 0 = some (sha512 img.body) ∧
      (u.host.mbxBusy = false ∧ u.host.mbxResult = Config.mbxDone true) ∧
      Claims.Recorded s u { cls := 5, scope := 5, cause := 0x210, agent := 11, detail := s.pkg.bootstat } := by
  obtain ⟨ms, hms, hbody⟩ := measure_eq ({ s with pkg := { s.pkg with recovery := false } } : State) 0 img (by decide)
  have hexec : exec (.stagedImage img) s = .next (((({ s with pkg := { s.pkg with recovery := false } } : State).measure 0 img).record
      { cls := 5, scope := 5, cause := 0x210, agent := 11, detail := s.pkg.bootstat }).mbxFinish (Config.mbxDone true)) := by
    show Host.Outcome.next _ = _
    rw [if_neg (by simp [hb, hr]), if_pos hi]
  rw [record_unported _ _ (by simp) rfl, hms] at hexec
  refine ⟨_, hexec, ?_, ?_, mbxFinish_ends .., ?_⟩
  · rw [mbxFinish_pkg]
    rfl
  · rw [mbxFinish_pkg]
    exact hbody
  · rw [Claims.Recorded, mbxFinish_pkg]
    exact List.mem_cons_self

theorem stagedImage_refused (hi : s.imageOk img = false) :
    ∃ u, exec (.stagedImage img) s = .next u ∧ u.pkg.recovery = true ∧ u.pkg.measures = s.pkg.measures ∧
      (u.host.mbxBusy = false ∧ u.host.mbxResult = Config.mbxDone false) := by
  refine ⟨s.mbxFinish (Config.mbxDone false), ?_, by rw [mbxFinish_pkg, hr], by rw [mbxFinish_pkg], mbxFinish_ends ..⟩
  show Host.Outcome.next _ = _
  rw [if_neg (by simp [hb, hr]), if_neg (by simp [hi])]

end

/-- The report stands at the start of MBXDATA, and what lies beyond it is left (R230). -/
theorem attest_reports :
    ∃ u, exec .attest s = .next u ∧ (u.host.mbxBusy = false ∧ u.host.mbxResult = Config.mbxDone true) ∧
      let report := attestBody s ++ natLe 512 (Config.attestSign (attestBody s)).toNat
      ∀ i, mget u.host.mbxData i = if i < report.length then report[i]? else mget s.host.mbxData i := by
  refine ⟨_, congrArg Host.Outcome.next (if_neg (by simp [hb])), mbxFinish_ends .., fun i => ?_⟩
  have hdata := mget_foldl_mset (attestBody s ++ natLe 512 (Config.attestSign (attestBody s)).toNat) s.host.mbxData 0 i
  simp only [Nat.zero_le, true_and, Nat.zero_add, Nat.sub_zero] at hdata
  rw [mbxFinish_mbxData, ← hdata]

end State

/-- Settles O43: each access by what its store does to the register, the memory or the vector that it names, and each mailbox command by its
two outcomes. -/
theorem hostAccesses : Obligations.HostAccesses := by
  refine ⟨fun s off size v data hs => ?_, fun s hash key sig img hb => ?_⟩
  · refine ⟨fun hu => ⟨fun r => s.exec_registerWrite_down r size v hu, State.exec_hostBar2Write_down off data hu⟩,
      fun hu hw r => s.exec_registerWrite_waits r size v hu hw,
      fun hu hw hr => ⟨_, s.exec_registerWrite_refused off size v hu hw hr, rfl⟩,
      fun k hk => s.registerWrite_stores (barOk_ptroot k 8 hk (.inr rfl)) ?ptroot,
      fun k hk => s.registerWrite_stores (barOk_ptroot k 4 hk (.inl rfl)) ?half,
      s.registerWrite_stores (by decide) (merge_allOnes ..), s.registerWrite_stores (by decide) (merge_allOnes ..),
      s.registerWrite_stores (by decide) ?savebase, s.registerWrite_stores (by decide) (merge_allOnes ..),
      fun hr => s.registerWrite_stores (by decide) ?replace,
      fun hw => ⟨fun hi => (s.exec_hbmplaceWrite hi v).trans (congrArg _ (if_pos hw)),
        (s.exec_descriptorWindowWrite off size v).trans (congrArg _ (if_pos hw)), fun k => s.exec_msixUnmask_waits k hw,
        fun hu => State.exec_hostBar2Write_waits hu hw⟩,
      fun hw hi => ?hbmplace, fun w hw hlt hb => ?window,
      fun a hu ha hh => (State.exec_hostBar2Write_some hu ha).trans (congrArg _ (if_pos hh)),
      fun a hu ha hh => ⟨_, (State.exec_hostBar2Write_some hu ha).trans (congrArg _ (if_neg (ne_true_of_eq_false hh))),
        s.putBytes_takeBanks hs a data _ rfl⟩,
      fun hu hw ha => ⟨_, (State.exec_hostBar2Write_none hu ha).trans (congrArg _ (if_neg (ne_true_of_eq_false hw))), rfl⟩,
      fun a hu ha hh => State.exec_hostBar2Read_held hu ha hh, fun a hu ha hh hp => State.exec_hostBar2Read_dword hu ha hh hp,
      fun hu ha => ⟨_, State.exec_hostBar2Read_none hu ha, rfl⟩,
      fun k hw hk => ⟨_, (s.exec_msixUnmask k hk).trans (congrArg _ (if_neg (ne_true_of_eq_false hw))), s.msixWrite_unmask k⟩⟩
    case ptroot =>
      rw [s.ptroot_regStore_dword k v hk]
      exact ⟨by rw [nget_nset _ _ _ _ _ hk, if_pos rfl], fun j _ hj => by rw [nget_nset _ _ _ _ _ hk, if_neg hj]⟩
    case half => rw [s.ptroot_regStore_low k v hk, nget_nset _ _ _ _ _ hk, if_pos rfl]
    case savebase => exact congrArg (· &&& _) (merge_allOnes ..)
    case replace => exact s.replace_regStore v hr
    case hbmplace =>
      refine ⟨_, (s.exec_hbmplaceWrite hi v).trans (congrArg _ (if_neg (ne_true_of_eq_false hw))), ?_, s.byteAt_placeWrite hi v⟩
      cases hi <;> rfl
    case window =>
      obtain ⟨hsize, halign, -, -⟩ := (barOk_iff ..).1 hb
      have ha : w % size = 0 := by rcases hsize with rfl | rfl <;> omega
      refine ⟨_, (s.exec_descriptorWindowWrite w size v).trans (congrArg _ ((if_neg (ne_true_of_eq_false hw)).trans (if_pos (by simp [hb, hlt])))),
        s.mem_regStore_window v hlt hsize ha, fun k hk => s.descOf_regStore_window hs v hlt hsize ha hk⟩
  · exact ⟨State.ownerset_owner hb hash key sig, fun m => State.ownerset_mode hb m key sig, State.stagedImage_accepted hb,
      State.stagedImage_refused hb, State.attest_reports hb⟩

end Sys2Proof.Machine
end

section
/-! The statement about reset, O57. -/

namespace Sys2Proof.Machine

theorem State.sound_reset : State.reset.Sound := ⟨rfl, ⟨rfl, rfl⟩, rfl, rfl, rfl, rfl, rfl⟩

/-- At reset a ring is as R219 gives it: no register of it has been written. -/
theorem ring_reset (p f r : Nat) : State.reset.ring p f r = Ring.reset r := rfl

/-- After reset no link is up. -/
theorem link_reset {p : Nat} (hp : p < 16) : State.reset.link p = Link.reset := by
  rw [State.link, nget, dif_pos hp]
  exact Vector.getElem_replicate ..

/-- Settles O57: the storage of reset is empty, and its registers are those of the reset record of each block. -/
theorem resetIsSound : Obligations.ResetIsSound := by
  refine ⟨State.sound_reset, rfl, rfl, rfl, rfl, rfl, rfl, rfl, rfl, rfl, rfl, rfl, rfl, rfl, rfl, rfl, fun u => ⟨rfl, rfl, rfl, rfl⟩, fun p hp => ?_,
    fun p f r => ⟨?_, fun hr => ?_⟩⟩
  · rw [link_reset hp]
    rfl
  · rw [ring_reset]
    rfl
  · rw [ring_reset]
    exact Nat.mod_eq_of_lt (by omega)

end Sys2Proof.Machine
end

section
/-! SUPPORT. Errors of the package and their records: what noting an error leaves as it was, poison read where it was laid, the logs of an HBM
stack, and the crew that was put in its place. -/

namespace Sys2Proof.Machine

/-! ## Poison and maps -/

/-- A run of places set to one value reads that value, and every other place reads as before. -/
theorem mget_foldl_mset_run {α : Type} (m : Map α) (a n k : Nat) (v : α) :
    mget ((List.range n).foldl (fun m i => mset m (a + i) v) m) k = if a ≤ k ∧ k < a + n then some v else mget m k := by
  induction n with
  | zero => rw [if_neg (by omega)]; rfl
  | succ n ih =>
    rw [List.range_succ, List.foldl_concat]
    by_cases h : k = a + n
    · rw [h, mget_mset_self, if_pos (by omega)]
    · rw [mget_mset_other _ _ _ _ h, ih]
      exact if_congr (by omega) rfl rfl

theorem find?_putCrew_self (cs : List Crew) (c : Crew) :
    (putCrew cs c).find? (fun x => x.ltag == c.ltag && x.unit == c.unit) = some c := by
  induction cs with
  | nil => simp [putCrew]
  | cons x r ih =>
    simp only [putCrew]
    split
    · simp
    · rename_i h
      exact (List.find?_cons_of_neg (by exact h)).trans ih

namespace State
variable (s : State)

/-- A crew is found where it was put. -/
theorem crew?_setCrew_self (c : Crew) : (s.setCrew c).crew? c.ltag c.unit = some c := find?_putCrew_self ..

/-- A crew that is found has the launch and the unit it was looked for by. -/
theorem crew?_some {s : State} {l v : Nat} {c : Crew} (h : s.crew? l v = some c) : c.ltag = l ∧ c.unit = v := by
  simpa using List.find?_some h

/-- A block that is delivered poisoned is poisoned in each of its dwords (R397). -/
theorem psnAt_poisonBlock (pa a : Nat) (p : Poison) (h : a / 64 = pa / 64) : (s.poisonBlock pa p).psnAt a = some p :=
  (mget_foldl_mset_run ..).trans (if_pos (by omega))

/-! ## Noting an error (R238, R372, R373) -/

/-- `u` is `s` with errors noted: records, counts, requests to replace a part, and the messages about them. Storage, threads, the binding of
units and the logs of the HBM stacks are as they were, no record is lost, and no cause of REPLACE falls. -/
structure Noted (s u : State) : Prop where
  mem : u.mem = s.mem
  psn : u.psn = s.psn
  descPsn : u.descPsn = s.descPsn
  threads : u.threads = s.threads
  lat : u.lat = s.lat
  hbmLogs : u.pkg.hbmLogs = s.pkg.hbmLogs
  log : s.pkg.log ⊆ u.pkg.log
  replace : ∀ b, s.pkg.replace.getLsbD b = true → u.pkg.replace.getLsbD b = true

namespace Noted
variable {s t u : State}

theorem refl (s : State) : Noted s s := ⟨rfl, rfl, rfl, rfl, rfl, rfl, fun _ h => h, fun _ h => h⟩

theorem trans (h : Noted s t) (h' : Noted t u) : Noted s u where
  mem := h'.mem.trans h.mem
  psn := h'.psn.trans h.psn
  descPsn := h'.descPsn.trans h.descPsn
  threads := h'.threads.trans h.threads
  lat := h'.lat.trans h.lat
  hbmLogs := h'.hbmLogs.trans h.hbmLogs
  log := List.Subset.trans h.log h'.log
  replace b hb := h'.replace b (h.replace b hb)

theorem psnAt (h : Noted s u) (a : Nat) : u.psnAt a = s.psnAt a := by rw [State.psnAt, State.psnAt, h.psn]

theorem hbmLog (h : Noted s u) (k : Nat) : u.hbmLog k = s.hbmLog k := by rw [State.hbmLog, State.hbmLog, h.hbmLogs]

theorem thread? (h : Noted s u) (v n : Nat) : u.thread? v n = s.thread? v n := by rw [State.thread?, State.thread?, h.threads]

end Noted

/-- A request to replace a part signals the host and sends a packet, and nothing else changes. -/
theorem raiseReplace_eq : ∃ a q n h, s.raiseReplace = { s with agenda := a, seq := q, nextId := n, host := h } := by
  obtain ⟨p, m, h⟩ := s.msi_eq (bits s.pkg.repcfg 0 11)
  unfold raiseReplace
  simp only [h]
  split
  · exact ⟨_, _, _, _, rfl⟩
  · exact ⟨_, _, _, _, rfl⟩

/-- A cause of REPLACE is set in REPLACE, and besides only what a request changes. -/
theorem replace_eq (bit : Nat) : ∃ a q n h r, s.replace bit =
    { s with agenda := a, seq := q, nextId := n, host := h,
             pkg := { s.pkg with replace := s.pkg.replace ||| BitVec.ofNat 7 (2 ^ bit), replaceAt := r } } := by
  unfold replace
  simp only
  split
  · exact ⟨_, _, _, _, _, rfl⟩
  · obtain ⟨a, q, n, h, e⟩ := raiseReplace_eq { s with pkg := { s.pkg with
      replace := s.pkg.replace ||| BitVec.ofNat 7 (2 ^ bit),
      replaceAt := (s.now, s.replacedNow.1 ||| BitVec.ofNat 7 (2 ^ bit), s.replacedNow.2 ||| BitVec.ofNat 7 (2 ^ bit)) } }
    exact ⟨a, q, n, h, _, e⟩

theorem noted_replace (bit : Nat) : Noted s (s.replace bit) := by
  obtain ⟨a, q, n, h, r, e⟩ := s.replace_eq bit
  rw [e]
  exact ⟨rfl, rfl, rfl, rfl, rfl, rfl, fun _ h => h, fun b hb => by simp [hb]⟩

/-- The cause that an event names is set. -/
theorem replace_getLsbD (bit : Nat) (hb : bit < 7) : (s.replace bit).pkg.replace.getLsbD bit = true := by
  obtain ⟨a, q, n, h, r, e⟩ := s.replace_eq bit
  rw [e]
  simp only [BitVec.getLsbD_or, BitVec.getLsbD_ofNat, Nat.testBit_two_pow_self, hb, decide_true, Bool.and_self, Bool.or_true]

theorem replace_ceCount (bit : Nat) : (s.replace bit).pkg.ceCount = s.pkg.ceCount := by
  obtain ⟨a, q, n, h, r, e⟩ := s.replace_eq bit
  rw [e]

/-- A corrected error is counted, and may set CEHIGH (R238). -/
theorem countCorrected_eq : s.countCorrected = { s with pkg := { s.pkg with ceCount := s.pkg.ceCount + 1 } } ∨
    s.countCorrected = State.replace { s with pkg := { s.pkg with ceCount := s.pkg.ceCount + 1 } } 3 := by
  unfold countCorrected
  simp only
  split
  · exact .inr rfl
  · exact .inl rfl

theorem noted_countCorrected : Noted s s.countCorrected := by
  have counted : Noted s { s with pkg := { s.pkg with ceCount := s.pkg.ceCount + 1 } } :=
    ⟨rfl, rfl, rfl, rfl, rfl, rfl, fun _ h => h, fun _ h => h⟩
  rcases s.countCorrected_eq with h | h <;> rw [h]
  · exact counted
  · exact counted.trans (noted_replace _ 3)

theorem countCorrected_ceCount : s.countCorrected.pkg.ceCount = s.pkg.ceCount + 1 := by
  rcases s.countCorrected_eq with h | h <;> rw [h]
  exact replace_ceCount ..

/-- A record goes to no port, or is on its way to one, or is dropped. -/
theorem errPort_eq (r : RecInfo) (ws : List Word) : ∃ a q d, s.errPort r ws =
    { s with agenda := a, seq := q, pkg := { s.pkg with drops := d } } := by
  unfold errPort
  split
  · split
    · split
      · exact ⟨_, _, _, rfl⟩
      · split
        · exact ⟨_, _, _, rfl⟩
        · exact ⟨_, _, _, rfl⟩
    · exact ⟨_, _, _, rfl⟩
  · exact ⟨_, _, _, rfl⟩

theorem noted_errPort (r : RecInfo) (ws : List Word) : Noted s (s.errPort r ws) := by
  obtain ⟨a, q, d, e⟩ := s.errPort_eq r ws
  rw [e]
  exact ⟨rfl, rfl, rfl, rfl, rfl, rfl, fun _ h => h, fun _ h => h⟩

theorem noted_logWords (f : W32 → List Word) : Noted s (s.logWords f) :=
  ⟨rfl, rfl, rfl, rfl, rfl, rfl, fun _ h => List.mem_cons_of_mem _ h, fun _ h => h⟩

theorem noted_record (r : RecInfo) : Noted s (s.record r) := by
  unfold record
  refine Noted.trans ?_ (noted_errPort ..)
  split
  · exact (noted_logWords ..).trans (noted_countCorrected _)
  · exact noted_logWords ..

theorem noted_memRecord (ltag unit cls cause pa : Nat) (detail : Word) : Noted s (s.memRecord ltag unit cls cause pa detail) :=
  noted_record ..

/-- The record of a corrected error is written and counted, and goes to no port. -/
theorem record_corrected (r : RecInfo) (h : r.cls = 1) :
    s.record r = (s.logWords fun _ => recordWords s.pkg.seq s.now r).countCorrected := by
  simp [record, errPort, h]

/-- The record of a corrected error stands in the steward log, and the error is counted. -/
theorem recorded_corrected (r : RecInfo) (h : r.cls = 1) :
    Claims.Recorded s (s.record r) r ∧ (s.record r).pkg.ceCount = s.pkg.ceCount + 1 := by
  rw [record_corrected _ _ h]
  exact ⟨(noted_countCorrected _).log List.mem_cons_self, countCorrected_ceCount _⟩

/-! ## The logs of an HBM stack (R399) -/

theorem hbmLog_setHbmLog {h : Nat} (x : HbmLog) (hh : h < 8) : (s.setHbmLog h x).hbmLog h = x := by
  simp only [hbmLog, setHbmLog, nget_nset _ _ _ _ _ hh, if_true]

theorem hbmLog_logArray {pa : Nat} (sev bit : Nat) (multi : Bool) (hh : s.channel pa / 64 < 8) :
    ((s.logArray pa sev bit multi).1.hbmLog (s.channel pa / 64)).alogn = (s.hbmLog (s.channel pa / 64)).alogn + 1 :=
  congrArg HbmLog.alogn (s.hbmLog_setHbmLog _ hh)

/-- An entry of the transfer log is one more there, and leaves the lane map and the lane tests of its stack. -/
theorem hbmLog_logTransfer {pa : Nat} (act tries lane : Nat) (hh : s.channel pa / 64 < 8) :
    ((s.logTransfer pa act tries lane).1.hbmLog (s.channel pa / 64)).tlogn = (s.hbmLog (s.channel pa / 64)).tlogn + 1 ∧
    ((s.logTransfer pa act tries lane).1.hbmLog (s.channel pa / 64)).testing = (s.hbmLog (s.channel pa / 64)).testing ∧
    ((s.logTransfer pa act tries lane).1.hbmLog (s.channel pa / 64)).lanemap = (s.hbmLog (s.channel pa / 64)).lanemap := by
  unfold logTransfer
  simp only [hbmLog_setHbmLog _ _ hh, and_self]

end State

end Sys2Proof.Machine
end

section
/-! The statement about errors of memories, stacks, power and units, O53. -/

namespace Sys2Proof.Machine

namespace State
variable (s : State)

/-! ## Power (R27, R237) -/

/-- A window above the design power lowers a clock that is not the lowest by a step. -/
theorem exec_powerWindow_above {mw : Nat} (hmw : 4200000 < mw) (hk : s.pkg.clkStep ≠ 63) : exec (.powerWindow mw) s = .next
    { s with pkg := { s.pkg with telpwr := BitVec.ofNat 32 mw, clkStep := s.pkg.clkStep + 1, clkCount := s.pkg.clkCount + 1 } } := by
  show Host.Outcome.next _ = _
  rw [if_pos hmw, if_neg hk]

/-- A window within the design power leaves a clock that is not lowered. -/
theorem exec_powerWindow_within {mw : Nat} (hmw : mw ≤ 4200000) (hk : s.pkg.clkStep = 0) :
    exec (.powerWindow mw) s = .next { s with pkg := { s.pkg with telpwr := BitVec.ofNat 32 mw } } := by
  show Host.Outcome.next _ = _
  rw [if_neg (by omega), if_neg (by simp [hk])]

/-! ## Soft errors (R394 to R396, R410) -/

section
variable {s} {pa : Nat} (h : s.inSram pa = true)
include h

/-- A corrected error is recorded and counted, and storage keeps its values. -/
theorem scrub_dword_corrected (hc : s.crew? 0 0 = none) : ∃ u, exec (.patrolScrub (.dword pa) .corrected) s = .next u ∧ u.psn = s.psn ∧
    u.mem = s.mem ∧ u.pkg.ceCount = s.pkg.ceCount + 1 ∧
    Claims.Recorded s u { cls := 1, scope := 0, cause := 0x040, agent := 8, pa := wd (s.devid * 2 ^ 40 + pa), detail := 0 } := by
  have noted := s.noted_memRecord 0 0 1 0x040 pa 0
  have hrec : s.memRecord 0 0 1 0x040 pa 0 =
      s.record { cls := 1, scope := 0, cause := 0x040, agent := 8, pa := wd (s.devid * 2 ^ 40 + pa), detail := 0 } := by
    simp only [memRecord, hc]
    rfl
  obtain ⟨hlog, hcount⟩ := s.recorded_corrected
    { cls := 1, scope := 0, cause := 0x040, agent := 8, pa := wd (s.devid * 2 ^ 40 + pa), detail := 0 } rfl
  exact ⟨_, congrArg Host.Outcome.next (if_pos h), noted.psn, noted.mem, hrec ▸ hcount, hrec ▸ hlog⟩

/-- An uncorrectable error of a dword poisons it and no other. -/
theorem scrub_dword_uncorrectable : ∃ u, exec (.patrolScrub (.dword pa) .uncorrectable) s = .next u ∧ u.psnAt pa = some ⟨0x041, 0⟩ ∧
    u.mem = s.mem ∧ ∀ a, a / 8 ≠ pa / 8 → u.psnAt a = s.psnAt a := by
  have noted := noted_memRecord { s with psn := mset s.psn (pa / 8) ⟨0x041, 0⟩ } 0 0 3 0x041 pa 0
  exact ⟨_, congrArg Host.Outcome.next (if_pos h), (noted.psnAt _).trans (mget_mset_self ..), noted.mem,
    fun a ha => (noted.psnAt _).trans (mget_mset_other _ _ _ _ ha)⟩

/-- An uncorrectable error of a descriptor poisons the descriptor alone. -/
theorem scrub_desc_uncorrectable : ∃ u, exec (.patrolScrub (.desc pa) .uncorrectable) s = .next u ∧
    mget u.descPsn (pa / 64) = some ⟨0x041, 0⟩ ∧ u.psn = s.psn := by
  have noted := noted_memRecord { s with descPsn := mset s.descPsn (pa / 64) ⟨0x041, 0⟩ } 0 0 3 0x041 pa 0
  exact ⟨_, congrArg Host.Outcome.next (if_pos h), by rw [noted.descPsn]; exact mget_mset_self .., noted.psn⟩

end

section
variable {s} {r : ThreadRef} {t : Thread} (hr : s.ref? r = some t)
include hr

/-- An uncorrectable error of a register in the vault poisons it: its value reads as before. -/
theorem scrub_vault_uncorrectable {i : BitVec 5} (hv : t.inVault (t.vaultKey i) = true) : ∃ u x,
    exec (.patrolScrub (.vault r (t.vaultKey i)) .uncorrectable) s = .next u ∧
    u.thread? t.unit t.slot = some x ∧ x.psnOf (.main i) = some ⟨0x043, 0⟩ ∧ ∀ o, x.rd o = t.rd o := by
  have hi : i ≠ 0 := by
    rintro rfl
    exact absurd hv (by simp [Thread.inVault, Thread.vaultKey])
  have hexec : exec (.patrolScrub (.vault r (t.vaultKey i)) .uncorrectable) s =
      .next ((s.setThread { t with psn := mset t.psn (t.vaultKey i) ⟨0x043, 0⟩ }).record (recOf t 3 0 0x043)) := by
    show Host.Outcome.next _ = _
    simp only [hr, hv, if_true]
  refine ⟨_, { t with psn := mset t.psn (t.vaultKey i) ⟨0x043, 0⟩ }, hexec,
    ((noted_record _ _).thread? _ _).trans (findThread_putThread_self ..), ?_, fun o => by cases o <;> rfl⟩
  exact (if_neg hi).trans (mget_mset_self ..)

/-- The vault does not hold a register of a frame that is not resident: no error of it shows. -/
theorem scrub_vault_absent {key : Nat} (hv : t.inVault key = false) (f : ScrubFind) : exec (.patrolScrub (.vault r key) f) s = .next s := by
  cases f with
  | clean => rfl
  | corrected | uncorrectable =>
    show Host.Outcome.next _ = _
    simp [hr, hv]

/-- A parity error stands in its register until its value is consumed. -/
theorem scrub_parity {g : DebugReg} (hg : Thread.hasParity (canonReg g) = true) : ∃ u x,
    exec (.patrolScrub (.parity r g) .uncorrectable) s = .next u ∧
    u.thread? t.unit t.slot = some x ∧ canonReg g ∈ x.par ∧ ∀ o, x.rd o = t.rd o := by
  by_cases hp : canonReg g ∈ t.par
  · have hexec : exec (.patrolScrub (.parity r g) .uncorrectable) s = .next (s.setThread t) := by
      show Host.Outcome.next _ = _
      simp [onRef, hr, hp]
    exact ⟨_, t, hexec, thread?_setThread_self .., hp, fun _ => rfl⟩
  · have hexec : exec (.patrolScrub (.parity r g) .uncorrectable) s = .next (s.setThread { t with par := canonReg g :: t.par }) := by
      show Host.Outcome.next _ = _
      simp [onRef, hr, hg, hp]
    exact ⟨_, { t with par := canonReg g :: t.par }, hexec, findThread_putThread_self .., List.mem_cons_self, fun o => by cases o <;> rfl⟩

end

/-- An error of a crumb marks it. -/
theorem scrub_crumb {i : Nat} {x : Crumb} (hx : mget s.fab.crumbs i = some x) :
    ∃ u, exec (.patrolScrub (.crumb i) .uncorrectable) s = .next u ∧ mget u.fab.crumbs i = some { x with psn := true } ∧ u.mem = s.mem := by
  refine ⟨{ s with fab := { s.fab with crumbs := mset s.fab.crumbs i { x with psn := true } } }, ?_, mget_mset_self .., rfl⟩
  show Host.Outcome.next _ = _
  simp only [hx]

/-- An error of a port marks it, and no other port of its crew. -/
theorem scrub_port {l v p : Nat} {c : Crew} (hc : s.crew? l v = some c) :
    ∃ u d, exec (.patrolScrub (.port l v p) .uncorrectable) s = .next u ∧
      u.crew? l v = some d ∧ (d.port p).psn = some ⟨0x041, 0⟩ ∧ ∀ q, q ≠ p → d.port q = c.port q := by
  obtain ⟨rfl, rfl⟩ := crew?_some hc
  refine ⟨_, _, ?_, s.crew?_setCrew_self (c.setPort p { c.port p with psn := some ⟨0x041, 0⟩ }), ?_, fun q hq => ?_⟩
  · show Host.Outcome.next _ = _
    simp only [onCrew, hc]
  · simp only [Crew.port, Crew.setPort, mget_mset_self, Option.getD_some]
  · simp only [Crew.port, Crew.setPort, mget_mset_other _ _ _ _ hq]

/-! ## HBM (R397, R398) -/

section
variable {s} {r : HbmAccess} (hpa : r.pa < 2 ^ 39) (hh : s.channel r.pa / 64 < 8)
include hpa hh

/-- What the array ECC corrects is logged, and the block is delivered as it is. -/
theorem exec_hbmRead_corrected (bit : Nat) (multi : Bool) : ∃ u, exec (.hbmRead r 1 bit multi) s = .next u ∧
    (u.hbmLog (s.channel r.pa / 64)).alogn = (s.hbmLog (s.channel r.pa / 64)).alogn + 1 ∧ u.psn = s.psn ∧ u.mem = s.mem := by
  have noted := (s.logArray r.pa 1 bit multi).1.noted_memRecord r.ltag r.unit 1 0x050 (r.pa / 64 * 64) (s.logArray r.pa 1 bit multi).2
  refine ⟨_, congrArg Host.Outcome.next (if_neg (by omega)), ?_, noted.psn, noted.mem⟩
  exact (congrArg HbmLog.alogn (noted.hbmLog _)).trans (s.hbmLog_logArray _ _ _ hh)

/-- What it does not correct is logged, and the block is delivered poisoned. -/
theorem exec_hbmRead_uncorrectable (bit : Nat) (multi : Bool) : ∃ u, exec (.hbmRead r 2 bit multi) s = .next u ∧
    (u.hbmLog (s.channel r.pa / 64)).alogn = (s.hbmLog (s.channel r.pa / 64)).alogn + 1 ∧ u.mem = s.mem ∧
    ∀ a, a / 64 = r.pa / 64 → (u.psnAt a).isSome = true := by
  have noted : Noted (s.logArray r.pa 2 0 false).1 (s.arrayUe r.ltag r.unit r.pa).1 :=
    noted_memRecord _ r.ltag r.unit 3 0x051 (r.pa / 64 * 64) _
  refine ⟨_, congrArg Host.Outcome.next (if_neg (by omega)), ?_, noted.mem, fun a ha => ?_⟩
  · exact (congrArg HbmLog.alogn (noted.hbmLog _)).trans (s.hbmLog_logArray _ _ _ hh)
  · exact congrArg Option.isSome (psnAt_poisonBlock _ _ _ _ ha)

/-- A transfer that succeeds after one to four retries is logged. -/
theorem exec_hbmTransferRetry_ok {n : Nat} (h0 : 0 < n) (h4 : n ≤ 4) : ∃ u, exec (.hbmTransferRetry r n true) s = .next u ∧
    (u.hbmLog (s.channel r.pa / 64)).tlogn = (s.hbmLog (s.channel r.pa / 64)).tlogn + 1 := by
  have noted := (s.logTransfer r.pa 1 n 0).1.noted_memRecord r.ltag r.unit 2 0x052 (r.pa / 64 * 64) (s.logTransfer r.pa 1 n 0).2
  refine ⟨_, congrArg Host.Outcome.next ((if_neg (by simp; omega)).trans (if_pos rfl)), ?_⟩
  exact (congrArg HbmLog.tlogn (noted.hbmLog _)).trans (s.hbmLog_logTransfer _ _ _ hh).1

/-- A transfer that fails four retries holds its pseudo-channel. -/
theorem exec_hbmTransferRetry_fails : ∃ u, exec (.hbmTransferRetry r 4 false) s = .next u ∧
    s.channel r.pa % 64 ∈ (u.hbmLog (s.channel r.pa / 64)).testing := by
  refine ⟨_, congrArg Host.Outcome.next ((if_neg (by simp; omega)).trans ((if_neg (by simp)).trans (if_neg (by simp)))), ?_⟩
  rw [hbmLog_setHbmLog _ _ hh]
  dsimp only
  split
  · rename_i hc
    exact List.contains_iff_mem.1 hc
  · exact List.mem_cons_self

end

end State

/-! ### The lane test (R398, R399) -/

/-- The lane map of a pseudo-channel with a lane given to its first free spare. -/
def spared (m : Word) (lane : Nat) : Word :=
  if !m.getLsbD 7 then (m &&& ~~~0x3F) ||| wd (0x80 + lane)
  else if !m.getLsbD 15 then (m &&& ~~~0x3F00) ||| wd (0x8000 + lane * 2 ^ 8) else m

/-- A pseudo-channel has a free spare. -/
def spareFree (m : Word) : Bool := !m.getLsbD 7 || !m.getLsbD 15

/-- The logs of an HBM stack when the lane test of a pseudo-channel has ended. -/
def HbmLog.endTest (x : HbmLog) (c lane : Nat) : HbmLog :=
  let m := (mget x.lanemap c).getD 0
  { x with testing := x.testing.filter (· != c), lanemap := if spareFree m then mset x.lanemap c (spared m lane) else x.lanemap }

/-- The first spare, free before, is in use for the lane. -/
theorem spared_first (m : Word) {lane : Nat} (hl : lane < 34) (hm : m.getLsbD 7 = false) :
    (spared m lane).getLsbD 7 = true ∧ bits (spared m lane) 0 6 = lane := by
  rw [spared, if_pos (by rw [hm]; rfl)]
  constructor
  · have hbit : (2 ^ 7 + lane).testBit 7 = true := by
      rw [Nat.testBit_two_pow_add_eq, Nat.testBit_lt_two_pow (by omega)]
      rfl
    rw [BitVec.getLsbD_or, wd, BitVec.getLsbD_ofNat, show 0x80 + lane = 2 ^ 7 + lane from rfl, hbit]
    exact Bool.or_true _
  · have hlow : ((m &&& ~~~0x3F) ||| wd (0x80 + lane)).setWidth 6 = (wd (0x80 + lane)).setWidth 6 := by
      rw [BitVec.setWidth_or, BitVec.setWidth_and, show (~~~0x3F : Word).setWidth 6 = 0#6 from rfl, BitVec.and_zero, BitVec.zero_or]
    calc bits ((m &&& ~~~0x3F) ||| wd (0x80 + lane)) 0 6
        = (((m &&& ~~~0x3F) ||| wd (0x80 + lane)).setWidth 6).toNat := by rw [BitVec.toNat_setWidth, bits, pow_zero, Nat.div_one]
      _ = ((wd (0x80 + lane)).setWidth 6).toNat := congrArg BitVec.toNat hlow
      _ = lane := by
        rw [BitVec.toNat_setWidth, wd, BitVec.toNat_ofNat]
        omega

namespace HbmLog
variable (x : HbmLog) (c lane : Nat)

theorem not_mem_endTest : c ∉ (x.endTest c lane).testing := by simp [endTest]

/-- A first spare that is free goes to the lane. -/
theorem endTest_lanemap {lane : Nat} (hl : lane < 34) (hm : ((mget x.lanemap c).getD 0).getLsbD 7 = false) :
    ∃ m, mget (x.endTest c lane).lanemap c = some m ∧ m.getLsbD 7 = true ∧ bits m 0 6 = lane := by
  refine ⟨spared ((mget x.lanemap c).getD 0) lane, ?_, spared_first _ hl hm⟩
  simp only [endTest, spareFree, hm, Bool.not_false, Bool.true_or, if_true]
  exact mget_mset_self ..

end HbmLog

namespace State

/-- The lane map of a pseudo-channel. -/
def laneMap (s : State) (pa : Nat) : Word := (mget (s.hbmLog (s.channel pa / 64)).lanemap (s.channel pa % 64)).getD 0

/-- The lane test has ended, and the queue of its pseudo-channel is released. -/
def testEnded (s : State) (pa lane : Nat) : State :=
  s.setHbmLog (s.channel pa / 64) ((s.hbmLog (s.channel pa / 64)).endTest (s.channel pa % 64) lane)

/-- A lane test ends in one of two ways: its retry succeeds and is logged; or, whenever the retry fails, it is logged, the block is delivered
poisoned, and the stack is to be replaced. -/
theorem exec_laneTestEnd {s : State} {r : HbmAccess} {lane : Nat} (hpa : r.pa < 2 ^ 39) (hl : lane < 34)
    (hc : s.channel r.pa % 64 ∈ (s.hbmLog (s.channel r.pa / 64)).testing) (ok : Bool) :
    ∃ u act tries, exec (.laneTestEnd r lane ok) s = .next u ∧
      ((ok = true ∧ Noted ((s.testEnded r.pa lane).logTransfer r.pa act tries lane).1 u) ∨
       ∃ p, Noted (((s.testEnded r.pa lane).logTransfer r.pa act tries lane).1.poisonBlock r.pa p) u ∧ u.pkg.replace.getLsbD 2 = true) := by
  have hgo : ¬(decide (2 ^ 39 ≤ r.pa) || decide (34 ≤ lane) ||
      !(s.hbmLog (s.channel r.pa / 64)).testing.contains (s.channel r.pa % 64)) = true := by
    simp [hc]
    omega
  by_cases hok : (spareFree (s.laneMap r.pa) && ok) = true
  · obtain ⟨-, rfl⟩ := Bool.and_eq_true_iff.1 hok
    by_cases hboth : ((spared (s.laneMap r.pa) lane).getLsbD 7 && (spared (s.laneMap r.pa) lane).getLsbD 15) = true
    · exact ⟨_, 2, 5, congrArg Host.Outcome.next ((if_neg hgo).trans ((if_pos hok).trans (if_pos hboth))),
        .inl ⟨rfl, (noted_record _ _).trans (noted_replace _ 2)⟩⟩
    · exact ⟨_, 2, 5, congrArg Host.Outcome.next ((if_neg hgo).trans ((if_pos hok).trans (if_neg hboth))), .inl ⟨rfl, noted_memRecord ..⟩⟩
  · exact ⟨_, 3, _, congrArg Host.Outcome.next ((if_neg hgo).trans (if_neg hok)),
      .inr ⟨_, (noted_record _ _).trans (noted_replace _ 2), replace_getLsbD _ 2 (by decide)⟩⟩

/-- However a lane test ends, the logs of its stack say that it has. -/
theorem hbmLog_testEnded {s u : State} {pa : Nat} (lane act tries : Nat) (hh : s.channel pa / 64 < 8)
    (h : u.pkg.hbmLogs = ((s.testEnded pa lane).logTransfer pa act tries lane).1.pkg.hbmLogs) :
    (u.hbmLog (s.channel pa / 64)).testing = ((s.hbmLog (s.channel pa / 64)).endTest (s.channel pa % 64) lane).testing ∧
    (u.hbmLog (s.channel pa / 64)).lanemap = ((s.hbmLog (s.channel pa / 64)).endTest (s.channel pa % 64) lane).lanemap := by
  obtain ⟨-, htesting, hmap⟩ := (s.testEnded pa lane).hbmLog_logTransfer act tries lane hh
  have hlog := s.hbmLog_setHbmLog ((s.hbmLog (s.channel pa / 64)).endTest (s.channel pa % 64) lane) hh
  rw [hbmLog, h]
  exact ⟨htesting.trans (congrArg HbmLog.testing hlog), hmap.trans (congrArg HbmLog.lanemap hlog)⟩

/-! ## Retirement (R412) -/

/-- The units of a binding that use a part of a stack: a front end, or a slab, of which a ganged unit uses two. -/
def usesPart (st fe slab : Nat) (isSlab : Bool) (b : UnitBind) : Bool :=
  stackOf b.unit == st && if isSlab then b.slab == slab || (b.ganged && b.slab + 1 == slab) else b.fe == fe

theorem usesPart_iff (st fe slab : Nat) (isSlab : Bool) (b : UnitBind) : usesPart st fe slab isSlab b = true ↔
    b.unit / 32 = st ∧ if isSlab = true then b.slab = slab ∨ (b.ganged = true ∧ b.slab + 1 = slab) else b.fe = fe := by
  cases isSlab <;> simp [usesPart, stackOf]

/-- The units that use a part are bound no more. -/
def unbind (s : State) (uses : UnitBind → Bool) : State := { s with lat := { s.lat with units := s.lat.units.filter fun b => !uses b } }

/-- Once its unit has stopped, the part is marked retired, its units are unbound, and its stack is to be replaced. -/
theorem exec_unitRetire (s : State) {st fe slab : Nat} (isSlab : Bool) (hst : st < 4) (hfe : fe < 36) (hsl : slab < 36) : ∃ t r,
    exec (.unitRetire st fe slab isSlab) s =
      .next ((((setRetired t st fe slab isSlab).unbind (usesPart st fe slab isSlab)).record r).replace (if isSlab then 0 else 1)) :=
  ⟨_, _, congrArg Host.Outcome.next (if_neg (by simp; omega))⟩

/-- A part that is retired is flagged, and no unit that uses it is bound. -/
theorem unitRetire_absent (s : State) {st fe slab : Nat} (isSlab : Bool) (hst : st < 4) (hfe : fe < 36) (hsl : slab < 36) :
    ∃ u, exec (.unitRetire st fe slab isSlab) s = .next u ∧
      (∀ b ∈ u.lat.units, ¬(b.unit / 32 = st ∧ if isSlab = true then b.slab = slab ∨ (b.ganged = true ∧ b.slab + 1 = slab) else b.fe = fe)) ∧
      u.pkg.replace.getLsbD (if isSlab then 0 else 1) = true ∧
      ∃ q, mget u.lat.pos (36 * st + if isSlab then slab else fe) = some q ∧ if isSlab = true then q.slret = true else q.feret = true := by
  obtain ⟨t, r, hexec⟩ := s.exec_unitRetire isSlab hst hfe hsl
  have noted : Noted ((setRetired t st fe slab isSlab).unbind (usesPart st fe slab isSlab)) _ :=
    (noted_record _ r).trans (noted_replace _ (if isSlab then 0 else 1))
  refine ⟨_, hexec, fun b hb => ?_, replace_getLsbD _ _ (by cases isSlab <;> decide), ?_⟩
  · rw [noted.lat] at hb
    have hkept := (List.mem_filter.1 hb).2
    rw [← usesPart_iff]
    simpa using hkept
  · rw [noted.lat]
    refine ⟨_, mget_mset_self .., ?_⟩
    cases isSlab <;> rfl

end State

/-- Settles O53: power, scrubs, HBM reads and transfers, lane tests and retirement, each by what its event does; noting an error leaves storage,
threads, bindings and the logs of the HBM stacks. -/
theorem errorsOfThePackage : Obligations.ErrorsOfThePackage := by
  intro s mw pa bit lane ltag unit multi _ k r h c
  refine ⟨fun hmw hk => ⟨_, s.exec_powerWindow_above hmw hk, rfl, rfl, rfl⟩, fun hmw hk => ⟨_, s.exec_powerWindow_within hmw hk, hk, rfl, rfl⟩,
    fun _ => rfl,
    fun hs => ⟨State.scrub_dword_corrected hs, State.scrub_dword_uncorrectable hs, State.scrub_desc_uncorrectable hs⟩,
    fun r t i hr hv => State.scrub_vault_uncorrectable hr hv, fun r t key hr hv f => State.scrub_vault_absent hr hv f,
    fun r t g hr hg => State.scrub_parity hr hg, fun i x hx _ => s.scrub_crumb hx, fun l v p c hc _ => s.scrub_port hc, fun hpa hh => ?hbm,
    fun st fe slab isSlab hst hfe hsl => s.unitRetire_absent isSlab hst hfe hsl⟩
  refine ⟨State.exec_hbmRead_corrected hpa hh bit multi, State.exec_hbmRead_uncorrectable hpa hh bit multi,
    fun n h0 h4 => State.exec_hbmTransferRetry_ok hpa hh h0 h4, State.exec_hbmTransferRetry_fails hpa hh, fun hl hc => ⟨?retried, ?failed⟩⟩
  case retried =>
    obtain ⟨u, act, tries, hexec, hend⟩ := State.exec_laneTestEnd (r := r) hpa hl hc true
    obtain ⟨htesting, hmap⟩ := State.hbmLog_testEnded lane act tries hh (by rcases hend with ⟨-, hn⟩ | ⟨p, hn, -⟩ <;> exact hn.hbmLogs)
    exact ⟨u, hexec, htesting ▸ HbmLog.not_mem_endTest _ _ _, fun hm => hmap ▸ HbmLog.endTest_lanemap _ _ hl hm⟩
  case failed =>
    obtain ⟨u, act, tries, hexec, ⟨hok, -⟩ | ⟨p, hn, hreplace⟩⟩ := State.exec_laneTestEnd (r := r) hpa hl hc false
    · exact absurd hok Bool.false_ne_true
    · obtain ⟨htesting, -⟩ := State.hbmLog_testEnded lane act tries hh hn.hbmLogs
      refine ⟨u, hexec, htesting ▸ HbmLog.not_mem_endTest _ _ _, hreplace, fun a ha => ?_⟩
      exact congrArg Option.isSome ((hn.psnAt a).trans (State.psnAt_poisonBlock _ _ _ _ ha))

end Sys2Proof.Machine
end

section
/-! SUPPORT. Commits (R42 to R44, R374): what writing buffered results back does to a thread, and what a switch point makes of it; and the
statements about them, O11 and O12. -/

namespace Sys2Proof.Machine

open Sys2Proof.Claims (TwinKept)

/-! ## Threads that only their registers tell apart -/

theorem twinKept_refl (t : Thread) : TwinKept t t := ⟨id, fun x h => ⟨x.fp, x.fpq, x.own, h, fun _ h => h⟩⟩

theorem twinKept_trans {t v w : Thread} (h : TwinKept t v) (h' : TwinKept v w) : TwinKept t w := by
  refine ⟨fun hn => h'.1 (h.1 hn), fun x hx => ?_⟩
  obtain ⟨f, q, o, hv, ho⟩ := h.2 x hx
  obtain ⟨f', q', o', hw, ho'⟩ := h'.2 _ hv
  exact ⟨f', q', o', hw, fun e he => ho e (ho' e he)⟩

theorem twinKept_both (t : Thread) (d : DebugReg) : TwinKept t (t.both d) := by
  refine ⟨fun h => by simp [Thread.both, h], fun x hx => ?_⟩
  exact ⟨x.fp, x.fpq, x.own.filter fun e => e.1 != twinKey d t.vaultKey, by simp [Thread.both, hx, Twin.keep],
    fun e he => (List.mem_filter.1 he).1⟩

/-- `w` is `t` but for the values of its registers, and the errors that stand in them. -/
def Thread.Rewritten (t w : Thread) : Prop :=
  TwinKept t w ∧
  w = { t with k := w.k, a := w.a, frames := w.frames, p := w.p, lat := w.lat, psn := w.psn, par := w.par, twin := w.twin }

namespace Thread

theorem Rewritten.refl (t : Thread) : Rewritten t t := ⟨twinKept_refl t, rfl⟩

theorem Rewritten.trans {t v w : Thread} (h : Rewritten t v) (h' : Rewritten v w) : Rewritten t w :=
  ⟨twinKept_trans h.1 h'.1, h'.2.trans (by rw [h.2])⟩

/-- A register's write changes registers alone. -/
theorem rewritten_wr (t : Thread) (d : Operand) (v : Word) : Rewritten t (t.wr d v) := by
  cases d with
  | opf i => exact ⟨twinKept_both t _, rfl⟩
  | lat => exact ⟨twinKept_both t _, rfl⟩
  | main i =>
    have cleansed : Rewritten t { t.both (.operand (.main i)) with psn := mdel t.psn (t.vaultKey i) } := ⟨twinKept_both t _, rfl⟩
    simp only [wr]
    split
    · split
      · exact cleansed
      · exact cleansed.trans ⟨twinKept_refl _, rfl⟩
    all_goals exact cleansed.trans ⟨twinKept_refl _, rfl⟩

/-- Writes a buffered value back; what names k0 is discarded (R58). -/
def wrBack (t : Thread) (x : Operand × Word) : Thread := if x.1 = .k0 then t else t.wr x.1 x.2

theorem rewritten_wrBack (t : Thread) (x : Operand × Word) : Rewritten t (t.wrBack x) := by
  unfold wrBack
  split
  · exact .refl t
  · exact rewritten_wr ..

theorem rd_wrBack (t : Thread) (x : Operand × Word) (r : Operand) :
    (t.wrBack x).rd r = if r = .k0 then 0 else if x.1 = r then x.2 else t.rd r := by
  unfold wrBack
  split
  · rename_i hx
    by_cases hr : r = .k0
    · rw [if_pos hr, hr, rd_k0]
    · rw [if_neg hr, if_neg fun h => hr (h.symm.trans hx)]
  · rw [rd_wr]
    exact if_congr Iff.rfl rfl (if_congr eq_comm rfl rfl)

/-- Values written back one after another: a register has the last that names it. -/
theorem rd_foldl_wrBack (l : List (Operand × Word)) (t : Thread) (r : Operand) :
    (l.foldl wrBack t).rd r = if r = .k0 then 0 else ((l.reverse.find? fun x => x.1 == r).map (·.2)).getD (t.rd r) := by
  induction l using List.reverseRecOn with
  | nil =>
    split
    · rename_i hr
      rw [hr]
      rfl
    · rfl
  | append_singleton l x ih =>
    rw [List.foldl_concat, rd_wrBack, ih, List.reverse_concat, List.find?_cons]
    by_cases hx : x.1 = r
    · simp [hx]
    · rw [if_neg hx, beq_false_of_ne hx]
      split <;> rfl

end Thread

/-! ## Commits (R43) -/

/-- The registers that a buffered result still writes, and their values. -/
def RbEntry.writes (e : RbEntry) : List (Operand × Word) :=
  ((e.dests.zip (e.vals.getD [])).filter fun x => !e.dead.contains x.1).map fun x => (x.1, x.2.v)

/-- No value that a buffered result brings carries poison. -/
def RbEntry.clean (e : RbEntry) : Prop := ∀ vs, e.vals = some vs → ∀ v ∈ vs, v.psn = none

/-- One value of a buffered result is committed, unless one before it has been consumed. -/
def commitValue (e : RbEntry) (c : Thread × Option Consumed) (x : Operand × Val) : Thread × Option Consumed :=
  if c.2.isSome || e.dead.contains x.1 || x.1 == .k0 then c
  else match x.2.psn with
    | some q => ({ c.1 with pc := e.pc }, some ⟨q, e.va, e.pa⟩)
    | none => (c.1.wr x.1 x.2.v, none)

theorem commitEntry_eq (t : Thread) (e : RbEntry) :
    commitEntry t e = (e.dests.zip (e.vals.getD [])).foldl (commitValue e) (t, none) := rfl

theorem commitValue_dead {e : RbEntry} {x : Operand × Val} (c : Thread × Option Consumed) (h : e.dead.contains x.1 = true) :
    commitValue e c x = c := if_pos (by simp only [h, Bool.or_true, Bool.true_or])

theorem commitValue_clean {e : RbEntry} {x : Operand × Val} (t : Thread) (h : e.dead.contains x.1 = false) (hx : x.2.psn = none) :
    commitValue e (t, none) x = (t.wrBack (x.1, x.2.v), none) := by
  unfold commitValue Thread.wrBack
  by_cases hk : x.1 = .k0
  · rw [if_pos (by simp [hk]), if_pos hk]
  · rw [if_neg (by simpa [hk] using h), if_neg hk, hx]

theorem commitValue_poisoned {e : RbEntry} {x : Operand × Val} {q : Poison} (t : Thread) (h : e.dead.contains x.1 = false)
    (hk : x.1 ≠ .k0) (hx : x.2.psn = some q) : commitValue e (t, none) x = ({ t with pc := e.pc }, some ⟨q, e.va, e.pa⟩) := by
  unfold commitValue
  rw [if_neg (by simpa [hk] using h), hx]

theorem foldl_commitValue_clean {e : RbEntry} {l : List (Operand × Val)} (t : Thread) (h : ∀ x ∈ l, x.2.psn = none) :
    l.foldl (commitValue e) (t, none) =
      (((l.filter fun x => !e.dead.contains x.1).map fun x => (x.1, x.2.v)).foldl Thread.wrBack t, none) := by
  induction l generalizing t with
  | nil => rfl
  | cons x l ih =>
    obtain ⟨hx, hl⟩ := List.forall_mem_cons.1 h
    rw [List.foldl_cons, List.filter_cons]
    cases hd : e.dead.contains x.1 with
    | true => rw [commitValue_dead _ hd, ih _ hl]; rfl
    | false => rw [commitValue_clean _ hd hx, ih _ hl]; rfl

theorem commitEntry_clean {e : RbEntry} (t : Thread) (h : e.clean) : commitEntry t e = (e.writes.foldl Thread.wrBack t, none) := by
  refine foldl_commitValue_clean t fun x hx => ?_
  have hv := (List.of_mem_zip hx).2
  cases hvs : e.vals with
  | none => simp [hvs] at hv
  | some vs => exact h vs hvs _ (by simpa [hvs] using hv)

theorem commitEntries_clean {es : List RbEntry} (t : Thread) (h : ∀ e ∈ es, e.clean) :
    commitEntries t es = ((es.flatMap RbEntry.writes).foldl Thread.wrBack t, none) := by
  unfold commitEntries
  induction es generalizing t with
  | nil => rfl
  | cons e es ih =>
    obtain ⟨he, hes⟩ := List.forall_mem_cons.1 h
    rw [List.foldl_cons, List.flatMap_cons, List.foldl_append]
    rw [← ih _ hes, ← commitEntry_clean t he]
    rfl

theorem commitEntries_singleton (t : Thread) (e : RbEntry) : commitEntries t [e] = commitEntry t e := rfl

theorem commitAll_eq (t : Thread) : commitAll t =
    ({ (commitEntries t t.rb).1 with rb := [] }, (commitEntries t t.rb).2.or (t.mirrFail.map fun p => ⟨p, 0, 0⟩)) := rfl

/-- The thread with its buffered results written back. -/
def Thread.writtenBack (t : Thread) : Thread := (t.rb.flatMap RbEntry.writes).foldl Thread.wrBack t

theorem Thread.rewritten_writtenBack (t : Thread) : Rewritten t t.writtenBack :=
  List.foldlRecOn _ _ (.refl t) fun _ h _ _ => h.trans (rewritten_wrBack ..)

/-- The thread that consumes the poison of a result: its PC is that of the result's instruction, and it buffers nothing. -/
def Thread.consuming (t : Thread) (e : RbEntry) : Thread := { t with pc := e.pc, rb := [], mirrFail := none }

namespace State
variable (s : State) {t : Thread}

/-! ## Switch points (R44) -/

theorem switchPoint_parks (h : t.complete = false) : s.switchPoint t = s.park t .switch := if_neg (by simp [h])

theorem switchPoint_settles (h : t.complete = true) : s.switchPoint t = s.settle t := if_pos h

/-- A thread whose results are clean commits them and goes on in the next round. -/
theorem settle_clean (hc : ∀ e ∈ t.rb, e.clean) (hm : t.mirrFail = none) (ha : t.after = .go) :
    s.settle t = s.setThread { t.writtenBack with rb := [], st := .ready, eligRound := max t.eligRound (s.round + 1) } := by
  have helig : t.writtenBack.eligRound = t.eligRound := by rw [t.rewritten_writtenBack.2]
  have hall : commitAll t = ({ t.writtenBack with rb := [] }, none) := by
    rw [commitAll_eq, commitEntries_clean t hc, hm]
    rfl
  simp only [settle, hall, ha, helig]

/-- A poisoned result that stands first in the buffer is consumed, PC being that of its instruction (R374). -/
theorem settle_poisoned {e : RbEntry} {d : Operand} {v : Val} {p : Poison} (hrb : t.rb = [e]) (hds : e.dests = [d])
    (hvs : e.vals = some [v]) (hp : v.psn = some p) (hdead : e.dead = []) (hd : d ≠ .k0) :
    s.settle t = s.consume (t.consuming e) p e.va e.pa := by
  have hone : commitEntry t e = ({ t with pc := e.pc }, some ⟨p, e.va, e.pa⟩) := by
    rw [commitEntry_eq, hds, hvs]
    exact commitValue_poisoned t (by rw [hdead]; rfl) hd hp
  have hall : commitAll t = ({ t with pc := e.pc, rb := [] }, some ⟨p, e.va, e.pa⟩) := by
    rw [commitAll_eq, hrb, commitEntries_singleton, hone]
    rfl
  simp only [settle, hall]
  rfl

/-! ## Poison that is consumed (R374) -/

theorem parity_none {t : Thread} {r : DebugReg} : t.parity r = none ↔ t.par.contains r = false := by
  unfold Thread.parity
  split <;> simp_all

/-- In a region with restarts left and the point to restart from sound, the thread restarts. -/
theorem consume_restarts (p : Poison) (va pa : Word) (hin : t.inrgn = true) (hpc : t.parity (.special 0x0F) = none)
    (hwd : t.parity (.special 0x10) = none) (hr : t.restarts < 3) : s.consume t p va pa = s.regionRestart t p va pa none := by
  unfold consume
  rw [parity_none.1 hpc, parity_none.1 hwd, if_neg (by simp), if_pos hin, if_pos hr]

theorem consume_ends (p : Poison) (va pa : Word) (hin : t.inrgn = false) : s.consume t p va pa = s.consumeEnd t 0x201 p va pa none := by
  unfold consume
  rw [hin]
  rfl

/-- A restart at the depth of the region slides no frame back. -/
theorem regionRestart_same_depth (p : Poison) (va pa : Word) (hd : t.depth = t.rgnwd.toNat) (hres : 0 < t.res) :
    ∃ w, (s.regionRestart t p va pa none).thread? t.unit t.slot = some w ∧ w.pc = t.rgnpc ∧ w.skipc = 0 ∧ w.rb = [] ∧
      w.restarts = t.restarts + 1 ∧ w.st = .ready ∧ ∀ r, w.rd r = t.rd r := by
  unfold regionRestart
  simp only
  rw [if_pos (by simpa [Thread.foldReady, Thread.res, ← hd] using hres)]
  refine ⟨_, findThread_putThread_self .., rfl, rfl, rfl, rfl, rfl, fun r => ?_⟩
  have hn : t.depth - t.rgnwd.toNat = 0 := by omega
  cases r <;> simp [Thread.rd, Thread.frame0, Thread.foldReady, hn]

/-! ## The end of a thread (R299) -/

theorem threads_inject (k : Nat) (p : Packet) : (s.inject k p).threads = s.threads := rfl

theorem threads_trigCheck (tag : Nat) : (s.trigCheck tag).threads = s.threads := by
  unfold trigCheck
  split
  · split
    · rfl
    · split <;> rfl
  · rfl

theorem threads_freeTwin : (s.freeTwin t).threads = s.threads := by
  unfold freeTwin
  split <;> rfl

theorem threads_freeSlot : (s.freeSlot t).threads = (s.dropThread t).threads := by
  unfold freeSlot
  rw [threads_trigCheck]
  refine List.foldlRecOn (motive := fun u : State => u.threads = (s.dropThread t).threads) _ _ (threads_freeTwin _) fun u hu c _ => ?_
  split
  · exact (threads_inject ..).trans hu
  · exact hu

theorem thread?_dropThread : (s.dropThread t).thread? t.unit t.slot = none := by
  refine List.find?_eq_none.2 fun x hx h => ?_
  have hother := (List.mem_filter.1 hx).2
  rw [h] at hother
  exact Bool.false_ne_true hother

theorem thread?_endThread : (s.endThread t).thread? t.unit t.slot = none := by
  unfold endThread
  rw [thread?, threads_freeSlot]
  exact thread?_dropThread _

/-! ## The events -/

theorem exec_switchPointCommit {r : ThreadRef} (hr : s.ref? r = some t) (hst : t.st = .parked .switch) (hc : t.complete = true) :
    exec (.switchPointCommit r) s = .next (s.settle t) := by
  show Host.Outcome.next _ = _
  simp only [hr, hst, hc, if_true]

/-- A result for a thread that is not halted goes into its return-buffer entry, and the thread that waits for nothing else commits. -/
theorem exec_resultReturn {r : ThreadRef} {id : Nat} (vals : List Val) (hr : s.ref? r = some t) (hst : t.st ≠ .halted)
    (hs : s.sallocOf r id = none) (hm : ((s.unit r.unit).mstats.find? fun m => m.1 == r && m.2.1 == id) = none) :
    exec (.resultReturn r id vals) s = .next ((s.setThread (t.gotResult id vals)).nudge r) := by
  have hgives : exec (.resultReturn r id vals) s = .next (s.giveResult r id vals) := by
    show Host.Outcome.next _ = _
    simp only [hs, hm]
  rw [hgives, giveResult, hr]
  simp only
  split
  · rename_i hh
    exact absurd hh hst
  · rfl

/-- A thread parked at a switch point that waits for nothing else commits in this cycle. -/
theorem nudge_eq (r : ThreadRef) : s.nudge r = match s.ref? r with
    | some x => if x.st = .parked .switch ∧ x.complete = true then s.sched 0 rankLate (.switchPointCommit r) else s
    | none => s := by
  cases hr : s.ref? r with
  | none => simp only [nudge, hr]
  | some x =>
    simp only [nudge, hr]
    split
    · rename_i hst
      simp only [hst, true_and]
    · rename_i hst
      exact (if_neg fun h => hst h.1).symm

end State

/-- A thread that folds nothing yet takes a result without folding. -/
theorem Thread.gotResult_nothing_folded {t : Thread} (id : Nat) (vals : List Val) (hq : t.fpq = [])
    (hx : ∀ x, t.twin = some x → x.fpq = []) :
    (t.gotResult id vals).fp = t.fp ∧ (t.gotResult id vals).fpq = [] ∧ (t.gotResult id vals).twin = t.twin := by
  refine ⟨by simp [gotResult, foldResult, foldReady, hq, foldQueue], by simp [gotResult, foldResult, foldReady, hq], ?_⟩
  cases htw : t.twin with
  | none => simp [gotResult, foldResult, foldReady, htw]
  | some x =>
    obtain ⟨u, n, f, q, o⟩ := x
    obtain rfl : q = [] := hx _ htw
    simp [gotResult, foldResult, foldReady, htw, Twin.fill, foldQueue]

/-- Settles O11: with results outstanding the thread parks; without, what it buffered is written back in program order, and registers alone
change. -/
theorem switchPointsCommit : Obligations.SwitchPointsCommit := by
  refine ⟨fun s t h => s.switchPoint_parks h, ?_⟩
  intro s t h ha hm hclean writes
  have hreg := t.rewritten_writtenBack
  have hsettle := s.settle_clean hclean hm ha
  refine ⟨_, (s.switchPoint_settles h).trans hsettle, fun r => ?_, ?_, ?_, fun r hr hst => ?_⟩
  · exact (by cases r <;> rfl : _ = t.writtenBack.rd r).trans (Thread.rd_foldl_wrBack _ t r)
  · exact hreg.1
  · rw [hreg.2]
  · exact (s.exec_switchPointCommit hr hst h).trans (congrArg Host.Outcome.next hsettle)

/-- Settles O12: a result goes into its entry and registers stay; poison that stands first is consumed at the commit, by a restart of the
region or the end of the thread. -/
theorem resultsReturn : Obligations.ResultsReturn := by
  refine ⟨fun s r id vals t hr hst hs hm => ⟨t.gotResult id vals, ?_, Thread.gotResult_nothing_folded id vals, ?_⟩,
    fun s t e d v p h hrb hds hvs hp hdead hd => ?_⟩
  · simp [Thread.gotResult, Thread.foldResult, Thread.foldReady, fillRb]
  · rw [s.exec_resultReturn vals hr hst hs hm, State.nudge_eq]
    rfl
  · rw [s.switchPoint_settles h, s.settle_poisoned hrb hds hvs hp hdead hd]
    refine ⟨fun hin hpc hwd hr hdepth hres => ?_, fun hin => ?_⟩
    · rw [State.consume_restarts (t := t.consuming e) _ _ _ _ hin hpc hwd hr]
      exact State.regionRestart_same_depth (t := t.consuming e) _ _ _ _ hdepth hres
    · rw [State.consume_ends (t := t.consuming e) _ _ _ _ hin]
      exact State.thread?_endThread _

end Sys2Proof.Machine
end

section
/-! SUPPORT. How an instruction completes (R239, R376), and accesses of a thread to a bank of this device (R41, R42, R278, R280 to
R282); and the statement about them, O20. -/

namespace Sys2Proof.Machine

open Sys2Proof.Claims (Issues Faults Leaves Folded Stepped TwinKept accessOf mirrorTo counted ended)

theorem onCur_issues {s : State} {t : Thread} (h : Issues s t) (f : Thread → State) : onCur s f = .next (f t) := by
  rw [onCur, h]

/-! ## The completion of an instruction -/

/-- What a thread folds at a completion changes its fingerprints and what awaits them, and no register. -/
theorem stepped_retire (t : Thread) (next : Word) (vs : List Word) (up : Word) : Stepped t (t.retire next vs up) next := by
  cases htw : t.twin with
  | none =>
    rw [Thread.retire_unpaired _ _ _ _ htw]
    exact ⟨⟨fun _ => ⟨rfl, rfl, rfl, rfl⟩, fun h => absurd htw h, fun _ => htw, fun x hx => by simp [htw] at hx⟩, rfl⟩
  | some x =>
    unfold Thread.retire
    simp only [htw]
    refine ⟨⟨fun h => by simp [htw] at h, fun _ => rfl, fun h => by simp [htw] at h, fun y hy => ?_⟩, rfl⟩
    obtain rfl : x = y := Option.some.inj (htw.symm.trans hy)
    exact ⟨_, _, x.own, rfl, fun _ h => h⟩

/-- An instruction completes in one step. -/
theorem done_ended (s : State) (t : Thread) (words : Nat) (sm : Bool) (vs : List Word) :
    ∃ w, s.done t words sm vs = ended s t w sm ∧ Stepped t w (t.pc + wd (4 * words)) := by
  refine ⟨_, ?_, stepped_retire t _ vs (if t.twin.isSome then Config.twinUpset s.free else 0)⟩
  unfold State.done State.doneAt ended counted
  split <;> rfl

namespace State
variable {s : State} {t : Thread} {i : Instr} {words n pa : Nat} {sm rx : Bool} {kind : AccKind} {k : AKind} {ea : Word}
  {d : Option Operand} {data data2 : Word} {psn : Option Poison} {r : Option RangeEnt}

/-! ## Accesses (R278) -/

/-- A long-class access that finds eight entries held is a switch point first (R44). -/
theorem access_full {d : Operand} (h : t.rb.length = 8) :
    s.access t words sm kind k n rx ea (some d) data data2 psn = s.switchPoint t := if_pos (by simp [h])

section
variable (hd : (d.isSome && t.rb.length == 8) = false)
include hd

theorem access_bad {info va : Word} (hc : s.check t k n rx ea = .bad info va) :
    s.access t words sm kind k n rx ea d data data2 psn = s.fault t info va := by
  unfold access
  rw [if_neg (by simp [hd]), hc]

theorem access_plain (hc : s.check t k n rx ea = .ok (.here pa) r) (hrx : rx = false) (hp : s.plainOut t = true) :
    s.access t words sm kind k n rx ea d data data2 psn = s.park t .plain := by
  have hstall : s.stall t (.here pa) n kind.writes rx (kind == .ldbd || kind == .stbd) = some .plain := if_pos (by simp [hrx, hp])
  unfold access
  rw [if_neg (by simp [hd]), hc]
  simp only [hstall, parkOn]

/-- An access that passes and that nothing holds goes to its bank. -/
theorem access_here (hk : ∀ op, kind ≠ .atom op) (hc : s.check t k n rx ea = .ok (.here pa) r)
    (hs : s.stall t (.here pa) n kind.writes rx (kind == .ldbd || kind == .stbd) = none) :
    s.access t words sm kind k n rx ea d data data2 psn =
      s.localAccess t words sm kind n rx ea d data data2 psn pa (if kind.writes then mirrorDev r else none) := by
  unfold access
  rw [if_neg (by simp [hd]), hc]
  simp only [hs]
  cases kind with
  | atom op => exact absurd rfl (hk op)
  | _ => rfl

end

theorem mirrorDev_eq (r : Option RangeEnt) : mirrorDev r = mirrorTo r := by
  cases r <;> rfl

end State

/-- A thread whose access leaves for a bank: it has an entry for the destination, the access outstanding, and its mirror copy in its place. -/
def Thread.sends (t : Thread) (s : State) (acc : Access) (rx : Bool) (d : Option Operand) : Thread :=
  { t with
    rb := match d with
      | some d => t.rb ++ [{ id := t.nextId, dests := [d], dead := [], vals := none, remote := false, pc := t.pc, va := acc.va,
                             pa := wd (s.devid * 2 ^ 40 + acc.pa) }]
      | none => t.rb
    nextId := t.nextId + 1
    out := { id := t.nextId, plain := !rx, store := acc.kind.writes, block := acc.pa / 64 } :: t.out
    mirrors := match acc.mirror with
      | some m => if t.mirrors.contains (s.flowTo t m) then t.mirrors else s.flowTo t m :: t.mirrors
      | none => t.mirrors
    copies := if acc.mirror.isSome then t.copies ++ [(t.nextId, none)] else t.copies }

namespace State
variable {s : State} {t : Thread} {i : Instr} {words n pa : Nat} {sm rx : Bool} {kind : AccKind} {k : AKind} {ea : Word}
  {d : Option Operand} {data data2 : Word} {psn : Option Poison} {r : Option RangeEnt} {mirror : Option Nat}

theorem localAccess_done : ∃ vs, s.localAccess t words sm kind n rx ea d data data2 psn pa mirror =
    (s.sched (s.acceptAfter t.unit pa) (rankMill t.unit)
      (.bankAccept (accessOf s t kind n ea d.isSome data data2 psn pa mirror))).done
        (t.sends s (accessOf s t kind n ea d.isSome data data2 psn pa mirror) rx d) words sm vs := by
  refine ⟨if kind == .st || kind == .stbd then [ea, data] else [], ?_⟩
  cases d <;> cases mirror <;> rfl

/-- An instruction that is an access to a bank of this device leaves for it. -/
theorem leaves_of_localAccess
    (hi : exec i s = .next (s.localAccess t words sm kind n rx ea d data data2 psn pa mirror)) :
    Leaves i s t sm rx (accessOf s t kind n ea d.isSome data data2 psn pa mirror) d (t.pc + wd (4 * words)) := by
  obtain ⟨vs, hvs⟩ := localAccess_done (s := s) (t := t) (words := words) (n := n) (pa := pa) (sm := sm) (rx := rx) (kind := kind) (ea := ea)
    (d := d) (data := data) (data2 := data2) (psn := psn) (mirror := mirror)
  obtain ⟨w, hw, hfold, heq⟩ := done_ended (s.sched (s.acceptAfter t.unit pa) (rankMill t.unit)
      (.bankAccept (accessOf s t kind n ea d.isSome data data2 psn pa mirror)))
    (t.sends s (accessOf s t kind n ea d.isSome data data2 psn pa mirror) rx d) words sm vs
  exact ⟨w, by rw [hi, hvs, hw]; rfl, hfold, heq⟩

/-- A load of any kind: the switch point of a full buffer, the fault of a failed check, the wait for a plain access, or the way to the bank. -/
theorem load_leaves {ea next : Word} {d : Operand} {desc : Bool} (hw : kind.writes = false) (hk : ∀ op, kind ≠ .atom op)
    (hdesc : (kind == .ldbd || kind == .stbd) = desc) (hnext : t.pc + wd (4 * words) = next)
    (hi : exec i s = .next (s.access t words sm kind k n rx ea (some d) 0 0 none)) :
    (t.rb.length = 8 → exec i s = .next (s.switchPoint t)) ∧
    (∀ info va, t.rb.length ≠ 8 → s.check t k n rx ea = .bad info va → Faults i s t info va) ∧
    (∀ pa r, t.rb.length ≠ 8 → s.check t k n rx ea = .ok (.here pa) r → s.stall t (.here pa) n false rx desc = none →
      Leaves i s t sm rx (accessOf s t kind n ea true 0 0 none pa none) (some d) next) ∧
    (∀ pa r, t.rb.length ≠ 8 → s.check t k n rx ea = .ok (.here pa) r → rx = false → s.plainOut t = true →
      exec i s = .next (s.park t .plain)) := by
  subst hdesc hnext
  refine ⟨fun h => hi.trans (congrArg Host.Outcome.next (access_full h)), fun info va h hc => hi.trans (congrArg Host.Outcome.next (access_bad (by simp [h]) hc)),
    fun pa r h hc hs => ?_, fun pa r h hc hrx hp => hi.trans (congrArg Host.Outcome.next (access_plain (by simp [h]) hc hrx hp))⟩
  rw [access_here (by simp [h]) hk hc (by rw [hw]; exact hs), hw, if_neg Bool.false_ne_true] at hi
  exact leaves_of_localAccess (d := some d) (mirror := none) hi

/-- A store of any kind: the fault of a failed check, or the way to the bank with its data. -/
theorem store_leaves {ea data next : Word} {psn : Option Poison} (hw : kind.writes = true) (hk : ∀ op, kind ≠ .atom op)
    (hdesc : (kind == .ldbd) = false) (hnext : t.pc + wd (4 * words) = next)
    (hi : exec i s = .next (s.access t words sm kind k n rx ea none data 0 psn)) :
    (∀ info va, s.check t k n rx ea = .bad info va → Faults i s t info va) ∧
    (∀ pa r, s.check t k n rx ea = .ok (.here pa) r → s.stall t (.here pa) n true rx (kind == .stbd) = none →
      Leaves i s t sm rx (accessOf s t kind n ea false data 0 psn pa (mirrorTo r)) none next) := by
  subst hnext
  refine ⟨fun info va hc => hi.trans (congrArg Host.Outcome.next (access_bad rfl hc)), fun pa r hc hs => ?_⟩
  rw [access_here rfl hk hc (by rw [hw, hdesc]; exact hs), hw, if_pos rfl, mirrorDev_eq] at hi
  exact leaves_of_localAccess (d := none) (mirror := mirrorTo r) hi

end State

/-- Settles O20: every form is one access of its thread, a load of an entry or a store of its data. -/
theorem localAccessesLeave : Obligations.LocalAccessesLeave := by
  refine ⟨?loads, ?stores⟩
  case loads =>
    intro s t sm rx sx sz off lit d a h n m form
    have hexec (f : Thread → State) : onCur s f = .next (f t) := onCur_issues h f
    exact ⟨State.load_leaves (words := 1) rfl nofun rfl rfl (hexec _), State.load_leaves (words := 3) rfl nofun rfl rfl (hexec _),
      State.load_leaves (words := 1) rfl nofun rfl rfl (hexec _), State.load_leaves (words := 3) rfl nofun rfl rfl (hexec _)⟩
  case stores =>
    intro s t sm rx sz q off lit d a h n m form
    have hexec (f : Thread → State) : onCur s f = .next (f t) := onCur_issues h f
    exact ⟨State.store_leaves (words := 1) rfl nofun rfl rfl (hexec _), State.store_leaves (words := 3) rfl nofun rfl rfl (hexec _),
      State.store_leaves (words := 1) rfl nofun rfl rfl (hexec _), State.store_leaves (words := 3) rfl nofun rfl rfl (hexec _),
      State.store_leaves (words := 1) rfl nofun rfl rfl (hexec _), State.store_leaves (words := 3) rfl nofun rfl rfl (hexec _)⟩

end Sys2Proof.Machine
end

section
/-! SUPPORT. The start of a crew (R38, R39): the slots that its initial threads take. -/

namespace Sys2Proof.Machine

/-! ## Slots -/

/-- A thread put into a slot that holds none is added to the others. -/
theorem putThread_perm {ts : List Thread} {t : Thread} (h : ∀ x ∈ ts, ¬(x.unit = t.unit ∧ x.slot = t.slot)) : (putThread ts t).Perm (t :: ts) := by
  induction ts with
  | nil => exact .refl _
  | cons x r ih =>
    obtain ⟨hx, hr⟩ := List.forall_mem_cons.1 h
    unfold putThread
    split
    · exact .refl _
    · rw [if_neg (by simpa using fun hu hn => hx ⟨hu.symm, hn.symm⟩)]
      exact ((ih hr).cons x).trans (.swap ..)

namespace State
variable {s : State}

/-- A unit with fewer than 256 slots in use has a free one. -/
theorem exists_freeSlot {u : Nat} (h : (s.usedSlots u).length < 256) : ∃ n, s.freeSlot? u = some n ∧ n ∉ s.usedSlots u := by
  cases hf : s.freeSlot? u with
  | some n =>
    have hn := List.find?_some hf
    exact ⟨n, rfl, by simpa using hn⟩
  | none =>
    have hall : List.range 256 ⊆ s.usedSlots u := fun n hn => by simpa using List.find?_eq_none.1 hf n hn
    have hle := (List.nodup_range.subperm hall).length_le
    rw [List.length_range] at hle
    omega

theorem not_mem_usedSlots {u n : Nat} (h : n ∉ s.usedSlots u) : ∀ x ∈ s.threads, ¬(x.unit = u ∧ x.slot = n) := by
  rintro x hx ⟨hu, hn⟩
  refine h (List.mem_append_left _ (List.mem_map.2 ⟨x, ?_, hn⟩))
  exact List.mem_filter.2 ⟨hx, by simp [hu]⟩

theorem length_usedSlots_le {w : State} {t : Thread} {u : Nat} (h : w.threads.Perm (t :: s.threads)) (ht : t.twin = none) :
    (w.usedSlots u).length ≤ (s.usedSlots u).length + 1 := by
  have hfilter := (h.filter fun t => t.unit == u).length_eq
  unfold usedSlots
  rw [List.length_append, List.length_append, List.length_map, List.length_map, hfilter, (h.filterMap _).length_eq,
    List.filterMap_cons_none (by simp [ht]), List.filter_cons]
  split
  · rw [List.length_cons]
    omega
  · omega

/-! ## Initial threads (R39) -/

/-- An initial thread of a crew, on its slot. -/
def initialThread (s : State) (l : Launch) (c : Crew) (slot i : Nat) : Thread :=
  let t := s.newThread l c.gang c.idx c.unit slot i l.pc l.prio
  { t with a := [wd i, wd c.idx, wd c.gang, l.arg].zipIdx.foldl (fun v x => nset v x.2 x.1) t.a }

/-- The next initial thread of a crew is created. -/
def startOne (l : Launch) (c : Crew) (s : State) (i : Nat) : State := s.create l c i l.pc l.prio [wd i, wd c.idx, wd c.gang, l.arg] id

/-- What R39 says of an initial thread. -/
def IsInitial (l : Launch) (c : Crew) (i : Nat) (n : Thread) : Prop :=
  n.unit = c.unit ∧ n.ltag = l.ltag ∧ n.tid = i ∧ n.pc = l.pc ∧ n.base = l.prio ∧ n.st = .ready ∧ n.svc = l.svc ∧
    vget n.a 0 = wd i ∧ vget n.a 1 = wd c.idx ∧ vget n.a 2 = wd c.gang ∧ vget n.a 3 = l.arg

theorem isInitial_initialThread (l : Launch) (c : Crew) (slot i : Nat) : IsInitial l c i (s.initialThread l c slot i) :=
  ⟨rfl, rfl, rfl, rfl, rfl, rfl, rfl, rfl, rfl, rfl, rfl⟩

theorem startOne_perm {l : Launch} {c : Crew} (i : Nat) (h : (s.usedSlots c.unit).length < 256) :
    ∃ n, n.twin = none ∧ IsInitial l c i n ∧ (startOne l c s i).threads.Perm (n :: s.threads) := by
  obtain ⟨slot, hslot, hfree⟩ := exists_freeSlot h
  refine ⟨s.initialThread l c slot i, rfl, isInitial_initialThread .., ?_⟩
  have hstart : startOne l c s i = s.setThread (s.initialThread l c slot i) := by
    unfold startOne create
    rw [hslot]
    rfl
  rw [hstart]
  exact putThread_perm (not_mem_usedSlots hfree)

/-- With a slot for each, every initial thread is created. -/
theorem startAll_threads {l : Launch} {c : Crew} (k : Nat) (h : (s.usedSlots c.unit).length + k ≤ 256) :
    (((List.range k).foldl (startOne l c) s).usedSlots c.unit).length ≤ (s.usedSlots c.unit).length + k ∧
      ∀ i, i < k → ∃ n ∈ ((List.range k).foldl (startOne l c) s).threads, IsInitial l c i n := by
  induction k with
  | zero => exact ⟨Nat.le_refl _, fun i hi => absurd hi (Nat.not_lt_zero _)⟩
  | succ k ih =>
    obtain ⟨hlen, hall⟩ := ih (by omega)
    obtain ⟨n, htwin, hn, hperm⟩ := startOne_perm (l := l) (c := c) (s := (List.range k).foldl (startOne l c) s) k (by omega)
    rw [List.range_succ, List.foldl_concat]
    refine ⟨(length_usedSlots_le hperm htwin).trans (by omega), fun i hi => ?_⟩
    by_cases hik : i = k
    · exact ⟨n, hperm.mem_iff.2 List.mem_cons_self, hik ▸ hn⟩
    · obtain ⟨m, hm, hmi⟩ := hall i (by omega)
      exact ⟨m, hperm.mem_iff.2 (List.mem_cons_of_mem _ hm), hmi⟩

theorem startOne_eq (l : Launch) (c : Crew) (s : State) (i : Nat) : ∃ ts, startOne l c s i = { s with threads := ts } := by
  unfold startOne create
  split
  · exact ⟨s.threads, rfl⟩
  · exact ⟨_, rfl⟩

/-- The creation of threads changes nothing but the threads. -/
theorem startAll_eq (l : Launch) (c : Crew) (s : State) (is : List Nat) : ∃ ts, is.foldl (startOne l c) s = { s with threads := ts } := by
  refine List.foldlRecOn (motive := fun u : State => ∃ ts, u = { s with threads := ts }) _ _ ⟨s.threads, rfl⟩ fun u hu i _ => ?_
  obtain ⟨ts, rfl⟩ := hu
  exact startOne_eq ..

/-- The trigger of a launch, and nothing else of the state, may be set. -/
theorem trigCheck_cases (s : State) (tag : Nat) :
    s.trigCheck tag = s ∨ ∃ l, s.launch? tag = some l ∧ s.trigCheck tag = s.setLaunch { l with trig := true } := by
  unfold trigCheck
  split
  · rename_i l hl
    split
    · exact .inl rfl
    · split
      · exact .inr ⟨l, hl, rfl⟩
      · exact .inl rfl
  · exact .inl rfl

theorem crew?_trigCheck (tag v u : Nat) : (s.trigCheck tag).crew? v u = s.crew? v u := by
  rcases s.trigCheck_cases tag with h | ⟨l, -, h⟩ <;> rw [h]
  rfl

/-- A launch is the same after the check, but for its trigger. -/
theorem launch?_trigCheck {tag : Nat} {l : Launch} (h : s.launch? tag = some l) (htag : l.ltag = tag) :
    ∃ b, (s.trigCheck tag).launch? tag = some { l with trig := b } := by
  rcases s.trigCheck_cases tag with he | ⟨m, hm, he⟩ <;> rw [he]
  · exact ⟨l.trig, h⟩
  · obtain rfl : m = l := Option.some.inj (hm.symm.trans h)
    refine ⟨true, ?_⟩
    rw [← htag]
    exact mget_mset_self ..

/-! ## CREW_START -/

theorem exec_crewStart {tag u : Nat} {l : Launch} {c : Crew} (hl : s.launch? tag = some l) (hc : s.crew? tag u = some c)
    (hs : c.started = false) (hcl : c.closed = false) : exec (.crewStart tag u) s = .next
      ((((List.range l.init).foldl (startOne l c) (s.setCrew { c with started := true })).onLaunch tag fun l =>
        { l with tstart := l.tstart.or (some (wd s.now)) }).trigCheck tag) := by
  obtain ⟨ts, hts⟩ := startAll_eq l c (s.setCrew { c with started := true }) (List.range l.init)
  have hnow : ((List.range l.init).foldl (startOne l c) (s.setCrew { c with started := true })).now = s.now := by rw [hts]; rfl
  rw [← hnow]
  show Host.Outcome.next _ = _
  simp only [hl, hc, hs, hcl]
  rfl

/-- A crew that starts is marked, its launch has a first start, and its initial threads live (R39). -/
theorem crewStart_starts {tag u : Nat} {l : Launch} {c : Crew} (hl : s.launch? tag = some l) (htag : l.ltag = tag)
    (hc : s.crew? tag u = some c) (hs : c.started = false) (hcl : c.closed = false) (hroom : (s.usedSlots u).length + l.init ≤ 256) :
    ∃ w, exec (.crewStart tag u) s = .next w ∧ (∃ m, w.launch? tag = some m ∧ m.tstart = l.tstart.or (some (wd s.now))) ∧
      w.crew? tag u = some { c with started := true } ∧ ∀ i, i < l.init → ∃ n ∈ w.threads, IsInitial l c i n := by
  obtain ⟨hct, rfl⟩ := crew?_some hc
  refine ⟨_, exec_crewStart hl hc hs hcl, ?_⟩
  obtain ⟨ts, hts⟩ := startAll_eq l c (s.setCrew { c with started := true }) (List.range l.init)
  obtain ⟨-, hinit⟩ := startAll_threads (s := s.setCrew { c with started := true }) (l := l) (c := c) l.init hroom
  rw [hts] at hinit ⊢
  have hlaunch : State.launch? { s.setCrew { c with started := true } with threads := ts } tag = some l := hl
  simp only [onLaunch, hlaunch]
  refine ⟨?_, ?_, fun i hi => ?_⟩
  · obtain ⟨b, hb⟩ := launch?_trigCheck (tag := tag) (l := { l with tstart := l.tstart.or (some (wd s.now)) })
      (s := State.setLaunch { s.setCrew { c with started := true } with threads := ts } { l with tstart := l.tstart.or (some (wd s.now)) })
      (by rw [← htag]; exact mget_mset_self ..) htag
    exact ⟨_, hb, rfl⟩
  · rw [crew?_trigCheck, ← hct]
    exact s.crew?_setCrew_self { c with started := true }
  · rw [threads_trigCheck]
    exact hinit i hi

end State

end Sys2Proof.Machine
end

section
/-! SUPPORT. The end of a launch (R52 to R54): LAUNCH_END by what it finds due, and END_SWEEP by what it finds idle; and the statement about
both and the start of a crew, O40. -/

namespace Sys2Proof.Machine

namespace State
variable {s : State} {tag status code : Nat} {l : Launch} (hl : s.launch? tag = some l)

theorem launch?_setLaunch_self {m : Launch} (h : m.ltag = tag) : (s.setLaunch m).launch? tag = some m := h ▸ mget_mset_self ..

section
include hl

theorem onLaunch_eq (f : Launch → Launch) : s.onLaunch tag f = s.setLaunch (f l) := by rw [onLaunch, hl]

/-! ## LAUNCH_END -/

theorem finishLaunch_accesses (ha : s.accessesDue tag l.posted = true) :
    s.finishLaunch tag status code = s.sched 1 rankDisp (.launchEnd tag status code) := by
  simp only [finishLaunch, hl, ha, if_true]

/-- The posted stores of a flow are flushed first. -/
theorem finishLaunch_flushes {f : Flow} (htag : l.ltag = tag) (ha : s.accessesDue tag l.posted = false) (hp : l.posted = [f]) :
    ∃ m, (s.finishLaunch tag status code).launch? tag = some m ∧ m.posted = [] ∧ m.flushTags = s.nextTag :: l.flushTags := by
  have hfinish : s.finishLaunch tag status code = (s.setLaunch { l with posted := [] }).launchFlush tag f := by
    rw [hp] at ha
    simp [finishLaunch, hl, hp, ha]
  have hsent (p : Packet) (w : ReqWhat) (k : Nat) :
      ((s.setLaunch { l with posted := [] }).sendReq k p w).launch? tag = some { l with posted := [] } := launch?_setLaunch_self htag
  refine ⟨{ l with posted := [], flushTags := s.nextTag :: l.flushTags }, ?_, rfl, rfl⟩
  rw [hfinish, launchFlush, onLaunch_eq (hsent ..)]
  exact launch?_setLaunch_self htag

section
variable (ha : s.accessesDue tag l.posted = false) (hp : l.posted = []) (hf : l.flushTags = [])
include ha hp hf

theorem finishLaunch_works {c : Crew} (hc : c ∈ s.disp.crews) (hct : c.ltag = tag) (hw : s.working tag c.unit = true) :
    s.finishLaunch tag status code = s.sched 8 rankDisp (.launchEnd tag status code) := by
  have hany : (s.disp.crews.any fun c => c.ltag == tag && s.working tag c.unit) = true :=
    List.any_eq_true.2 ⟨c, hc, by simp [hct, hw]⟩
  rw [hp] at ha
  simp [finishLaunch, hl, hp, hf, ha, hany]

/-- With nothing left to wait for, a launch is freed and its completion entry is handed to its port. -/
theorem finishLaunch_frees (hw : ∀ c ∈ s.disp.crews, c.ltag = tag → s.working tag c.unit = false) : s.finishLaunch tag status code =
    ((s.freeLaunch tag).recordEnd tag status).completion l.port
      (completionWords tag status code (l.tstart.getD 0) s.now (s.sentSum tag) (s.recvdSum tag)) (if l.vecen then some l.vec else none) := by
  have hany : (s.disp.crews.any fun c => c.ltag == tag && s.working tag c.unit) = false :=
    List.any_eq_false.2 fun c hc => by
      by_cases hct : c.ltag = tag
      · simp [hw c hc hct]
      · simp [hct]
  rw [hp] at ha
  simp [finishLaunch, hl, hp, hf, ha, hany]

end
end

/-- What dropping the templates and channels of a launch's crews leaves. -/
theorem foldl_dropCx_eq (tag : Nat) (us : List Nat) (s : State) : ∃ x, us.foldl (fun s u => s.dropCx tag u) s = { s with units := x } := by
  refine List.foldlRecOn (motive := fun u : State => ∃ x, u = { s with units := x }) _ _ ⟨s.units, rfl⟩ fun u hu _ _ => ?_
  obtain ⟨x, rfl⟩ := hu
  exact ⟨_, rfl⟩

theorem freeLaunch_eq (s : State) (tag : Nat) : ∃ x, s.freeLaunch tag = { s with
    units := x, barriers := s.barriers.filter fun b => b.ltag != tag,
    disp := { s.disp with crews := s.disp.crews.filter (fun c => c.ltag != tag), launches := mdel s.disp.launches tag,
                          saved := s.disp.saved.filter fun v => v.crew.ltag != tag } } := by
  obtain ⟨x, hx⟩ := foldl_dropCx_eq tag ((s.disp.crews.filter fun c => c.ltag == tag).map (·.unit)) s
  exact ⟨x, by rw [freeLaunch, hx]⟩

/-- A launch that is freed and completed, while the ring of its port is not enabled: it is gone, with its crews and barriers, its end is on
record, and its port holds its entry. -/
theorem freed_completed {p : Nat} (ws : List Word) (vec : Option Nat) (hp : p < 8) (hh : (s.lport p).held = [])
    (hen : (s.lport p).cqb.getLsbD 0 = false) (hrise : rising s.disp.launches = true) :
    let u := ((s.freeLaunch tag).recordEnd tag status).completion p ws vec
    u.launch? tag = none ∧ (∀ c ∈ u.disp.crews, c.ltag ≠ tag) ∧ (∀ b ∈ u.barriers, b.ltag ≠ tag) ∧ u.disp.ended.head? = some (tag, status) ∧
      (u.lport p).held = [(ws, vec)] := by
  obtain ⟨x, hx⟩ := s.freeLaunch_eq tag
  have hport : ((s.freeLaunch tag).recordEnd tag status).lport p = s.lport p := by rw [hx]; rfl
  intro u
  have hu : u = ((s.freeLaunch tag).recordEnd tag status).setPort p { s.lport p with held := [(ws, vec)] } :=
    (completion_disabled _ ws vec hp (by rw [hport]; exact hen)).trans (by rw [hport, hh]; rfl)
  rw [hu]
  refine ⟨?_, ?_, ?_, ?_, lport_setPort_field _ LPort.held _ hp⟩
  · rw [hx]
    exact mget_mdel_self _ _ hrise
  · rw [hx]
    exact fun c hc => by simpa using (List.mem_filter.1 hc).2
  · rw [hx]
    exact fun b hb => by simpa using (List.mem_filter.1 hb).2
  · rfl

/-! ## END_SWEEP -/

theorem exec_endSweep_one (h : s.disp.launches = [(tag, l)]) (he : l.ending = none) : exec .endSweep s = .next (s.sweepOne tag) := by
  show Host.Outcome.next _ = _
  simp [h, he]

section
include hl

theorem sweepOne_busy (h : s.launchIdle tag = false ∨ s.sentSum tag ≠ s.recvdSum tag) : s.sweepOne tag = s.setLaunch { l with sweep := none } := by
  unfold sweepOne
  rw [if_neg (by rcases h with h | h <;> simp [h]), onLaunch_eq hl]

variable (hi : s.launchIdle tag = true) (hsum : s.sentSum tag = s.recvdSum tag)
include hi hsum

theorem sweepOne_first (h : l.sweep ≠ some (s.sentSum tag, s.recvdSum tag)) :
    s.sweepOne tag = s.setLaunch { l with sweep := some (s.sentSum tag, s.recvdSum tag) } := by
  unfold sweepOne
  rw [if_pos (by simp [hi, hsum]), hl]
  exact if_neg (by simpa using h)

theorem sweepOne_again (h : l.sweep = some (s.sentSum tag, s.recvdSum tag)) : s.sweepOne tag = s.endLaunch tag 0 0 := by
  unfold sweepOne
  rw [if_pos (by simp [hi, hsum]), hl]
  exact if_pos (by simp [h])

end

/-- A launch with no thread begins to end. -/
theorem endLaunch_idle (hl : s.launch? tag = some l) (htag : l.ltag = tag) (hi : s.launchIdle tag = true) (he : l.ending = none) :
    (s.endLaunch tag status code).launch? tag = some { l with ending := some (status, code) } ∧
      Claims.Due (s.endLaunch tag status code) s.now (.launchEnd tag status code) := by
  have hnone : (s.threads.filter fun t => t.ltag == tag) = [] := by
    have hi' := hi
    simp only [launchIdle, Bool.and_eq_true, Bool.not_eq_true'] at hi'
    obtain ⟨⟨⟨-, hthreads⟩, -⟩, -⟩ := hi'
    exact List.filter_eq_nil_iff.2 fun t ht => by simpa using List.any_eq_false.1 hthreads t ht
  simp only [endLaunch, hl, he, hnone, List.foldl_nil, Option.isSome_none, Bool.false_eq_true, if_false]
  exact ⟨launch?_setLaunch_self htag, due_sched ..⟩

end State

/-- Settles O40: a crew starts with the threads of its launch, one slot each; LAUNCH_END waits for what is due and then frees the launch; two
sweeps that agree end it. -/
theorem crewsStartAndEnd : Obligations.CrewsStartAndEnd := by
  refine ⟨fun s tag u l c hl htag hc hs hcl hroom => ?_, ?_⟩
  · obtain ⟨hct, rfl⟩ := State.crew?_some hc
    exact State.crewStart_starts hl htag hc hs hcl hroom
  intro s tag l hl htag sums i
  refine ⟨fun status code ha => congrArg Host.Outcome.next (State.finishLaunch_accesses hl ha),
    fun status code ha hp hf hw hh hen hport hrise =>
      ⟨_, congrArg Host.Outcome.next (State.finishLaunch_frees hl ha hp hf hw), State.freed_completed _ _ hport hh hen hrise⟩,
    fun status code c ha hp hf hc hct hw => congrArg Host.Outcome.next (State.finishLaunch_works hl ha hp hf hc hct hw),
    fun status code f ha hp => ?_, fun hone he => ?_⟩
  · obtain ⟨m, hm⟩ := State.finishLaunch_flushes (status := status) (code := code) hl htag ha hp
    exact ⟨_, m, rfl, hm⟩
  · have hsweep : exec i s = .next (s.sweepOne tag) := State.exec_endSweep_one hone he
    refine ⟨fun hi hsum h => ?_, fun h => ?_, fun hi hsum h => ?_⟩
    · rw [hsweep, State.sweepOne_first hl hi hsum h]
    · rw [hsweep, State.sweepOne_busy hl h]
    · obtain ⟨hlaunch, hdue⟩ := State.endLaunch_idle (status := 0) (code := 0) hl htag hi he
      exact ⟨_, _, hsweep.trans (congrArg Host.Outcome.next (State.sweepOne_again hl hi hsum h)), hlaunch, rfl, hdue⟩

end Sys2Proof.Machine
end

section
/-! SUPPORT. The request to save a gang (R49, R177, R233): what bringing the engines of its crews to their stop points leaves as it was. -/

namespace Sys2Proof.Machine

theorem mem_of_mget {α : Type} {m : Map α} {k : Nat} {v : α} (h : mget m k = some v) : (k, v) ∈ m := by
  induction m with
  | nil => simp [mget] at h
  | cons e r ih =>
    obtain ⟨j, w⟩ := e
    rw [mget] at h
    split at h
    · rename_i hj
      obtain rfl := Option.some.inj h
      exact hj ▸ List.mem_cons_self
    · exact List.mem_cons_of_mem _ (ih h)

/-- A crew put in its place leaves every other where it was looked for. -/
theorem find?_putCrew_other (cs : List Crew) (c : Crew) {tag v : Nat} (h : ¬(c.ltag = tag ∧ c.unit = v)) :
    (putCrew cs c).find? (fun x => x.ltag == tag && x.unit == v) = cs.find? (fun x => x.ltag == tag && x.unit == v) := by
  have hc : ¬(c.ltag == tag && c.unit == v) = true := by simpa using h
  induction cs with
  | nil => exact List.find?_cons_of_neg hc
  | cons x r ih =>
    rw [putCrew]
    split
    · rename_i hx
      have hkey : x.ltag = c.ltag ∧ x.unit = c.unit := by simpa using hx
      rw [List.find?_cons, List.find?_cons, hkey.1, hkey.2, Bool.eq_false_iff.2 hc]
    · rw [List.find?_cons, List.find?_cons, ih]

/-- A unit runs no command of the VX. -/
def UnitSt.noVx (x : UnitSt) : Prop := (x.cmds.all fun c => c.eng != .vx) = true

namespace State

/-- No unit runs a command of the VX. -/
def noVx (s : State) : Prop := (s.units.all fun e => e.2.cmds.all fun x => x.eng != .vx) = true

/-- A crew of the launch is found on the unit, and is closed. -/
def Closed (s : State) (tag v : Nat) : Prop := ∃ d, s.crew? tag v = some d ∧ d.closed = true

theorem noVx_iff (s : State) : s.noVx ↔ ∀ e ∈ s.units, e.2.noVx := List.all_eq_true

theorem noVx_unit {s : State} (h : s.noVx) (v : Nat) : (s.unit v).noVx := by
  unfold unit
  cases hm : mget s.units v with
  | none => rfl
  | some x => exact s.noVx_iff.1 h _ (mem_of_mget hm)

/-- `u` is `s` on the way of crews to their stop points: threads stand as they did, the looks at crews that are due stay due, closed crews stay
closed, and, given `q`, while no command of a VX runs memory stands. -/
structure Halting (q : Prop) (s u : State) : Prop where
  now : u.now = s.now
  threads : u.threads = s.threads
  agenda : ∀ e ∈ s.agenda, ∀ tag gang k, e.ev.op = .crewSaved tag gang k → e ∈ u.agenda
  closed : ∀ tag v, s.Closed tag v → u.Closed tag v
  calm : q → s.noVx → u.noVx ∧ u.mem = s.mem

namespace Halting
variable {q : Prop} {s t u : State}

theorem refl (s : State) : Halting q s s := ⟨rfl, rfl, fun _ h _ _ _ _ => h, fun _ _ h => h, fun _ h => ⟨h, rfl⟩⟩

theorem trans (h : Halting q s t) (h' : Halting q t u) : Halting q s u where
  now := h'.now.trans h.now
  threads := h'.threads.trans h.threads
  agenda e he tag gang k hop := h'.agenda e (h.agenda e he tag gang k hop) tag gang k hop
  closed tag v hc := h'.closed tag v (h.closed tag v hc)
  calm hq hs := ⟨(h'.calm hq (h.calm hq hs).1).1, (h'.calm hq (h.calm hq hs).1).2.trans (h.calm hq hs).2⟩

theorem foldl {α : Type} {f : State → α → State} {l : List α} (hf : ∀ s, ∀ a ∈ l, Halting q s (f s a)) (s : State) :
    Halting q s (l.foldl f s) := List.foldlRecOn l f (refl s) fun _ h a ha => h.trans (hf _ a ha)

theorem sched (delay rank : Nat) (op : Instr) : Halting q s (s.sched delay rank op) :=
  ⟨rfl, rfl, fun _ h _ _ _ _ => s.mem_agenda_sched.2 (.inr h), fun _ _ h => h, fun _ h => ⟨h, rfl⟩⟩

/-- What is due and no look at a crew may fall away. -/
theorem filter {p : Sched → Bool} (hp : ∀ e tag gang k, e.ev.op = .crewSaved tag gang k → p e = true) :
    Halting q s { s with agenda := s.agenda.filter p } :=
  ⟨rfl, rfl, fun e h _ _ _ hop => List.mem_filter.2 ⟨h, hp e _ _ _ hop⟩, fun _ _ h => h, fun _ h => ⟨h, rfl⟩⟩

theorem purge (v : Nat) (ids chans : List Nat) : Halting q s (s.purge v ids chans) :=
  filter fun e tag gang k hop => by rw [hop]

/-- A unit changes, and no command becomes one of the VX. -/
theorem onUnit {v : Nat} {f : UnitSt → UnitSt} (hf : ∀ x, x.noVx → (f x).noVx) : Halting q s (s.onUnit v f) := by
  refine ⟨rfl, rfl, fun _ h _ _ _ _ => h, fun _ _ h => h, fun _ h => ⟨(noVx_iff _).2 fun e he => ?_, rfl⟩⟩
  rcases mem_mset he with rfl | he
  · exact hf _ (noVx_unit h v)
  · exact s.noVx_iff.1 h e he

theorem onCmd {v id : Nat} {f : Cmd → Cmd} (hf : ∀ c, (f c).eng = c.eng) : Halting q s (s.onCmd v id f) := by
  refine onUnit fun x hx => List.all_eq_true.2 fun c hc => ?_
  obtain ⟨d, hd, rfl⟩ := List.mem_map.1 hc
  have heng : (if d.id == id then f d else d).eng = d.eng := by
    split
    · exact hf d
    · rfl
  rw [heng]
  exact List.all_eq_true.1 hx d hd

theorem setChan (v ch : Nat) (x : Chan) : Halting q s (s.setChan v ch x) := onUnit fun _ h => h

theorem setSlot (v i : Nat) (x : LatchSlot) : Halting q s (s.setSlot v i x) := onUnit fun y hy => by
  split
  · exact hy
  · exact hy

theorem haltNow (v ch : Nat) : Halting q s (s.haltNow v ch) := by
  unfold State.haltNow
  simp only
  split
  · exact (setChan ..).trans (foldl (fun _ _ _ => sched ..) _)
  · exact refl s

theorem stopChannels (c : Crew) : Halting q s (s.stopChannels c) := foldl (fun _ _ _ => (setChan ..).trans (haltNow ..)) _

theorem unstartMx (x : Cmd) : Halting q s (s.unstartMx x) := by
  unfold State.unstartMx
  split
  · simp only
    split
    · exact refl s
    · have cut := (purge (s := s) (q := q) x.t.unit [x.id] []).trans (filter (p := fun e => match e.ev.op with
        | .ringBArrive _ g => s.midStall x || g.src != (x.t.unit, x.id)
        | _ => true) fun e tag gang k hop => by rw [hop])
      refine Halting.trans (Halting.trans ?_ (onUnit ?_)) (onCmd ?_)
      · split
        · exact cut.trans (setSlot ..)
        · exact cut
      · exact fun _ h => h
      · exact fun _ => rfl
  · exact refl s

theorem touch (pa n : Nat) (w : Option ThreadRef) : Halting q s (s.touch pa n w) := by
  refine foldl (fun u b _ => ?_) _
  split
  · exact sched ..
  · exact refl _

/-- A block written by an engine, where memory need not stand. -/
theorem engWrite (hq : ¬q) (r : ThreadRef) (b : BlockW) : Halting q s (s.engWrite r b none) := by
  have written (b : BlockW) : Halting q s (s.writeBlock b) :=
    ⟨by simp [writeBlock], by simp [writeBlock], fun e he _ _ _ _ => by simpa [writeBlock] using he,
      fun _ _ h => by simpa [Closed, crew?, writeBlock] using h, fun h => absurd h hq⟩
  exact (written _).trans (touch ..)

theorem haltVx (hq : ¬q) (x : Cmd) : Halting q s (s.haltVx x) := by
  unfold State.haltVx
  split
  · simp only
    split
    · exact refl s
    · have written (t : State) (bs : List BlockW) : Halting q t (bs.foldl (fun s b => s.engWrite x.t b none) t) :=
        foldl (fun _ b _ => engWrite hq x.t b) t
      refine (((purge ..).trans (written _ _)).trans (onUnit ?_)).trans (onCmd ?_)
      · exact fun _ h => h
      · exact fun _ => rfl
  · exact refl s

/-- Memory stands where none of the crew's commands is one of the VX. -/
theorem stopEngines (c : Crew) : Halting s.noVx s (s.stopEngines c) := by
  refine (stopChannels c).trans (foldl (fun t x hx => ?_) _)
  split
  · exact unstartMx x
  · rename_i heng
    refine haltVx (fun hno => ?_) x
    have := List.all_eq_true.1 (noVx_unit hno c.unit) x (List.mem_filter.1 hx).1
    simp [heng] at this
  · exact refl t

/-- One way after another, each calm where no command of a VX runs as it begins. -/
theorem trans_noVx (h : Halting s.noVx s t) (h' : Halting t.noVx t u) : Halting s.noVx s u :=
  h.trans { h' with calm := fun _ hn => h'.calm hn hn }

theorem setCrew_closed (c : Crew) : Halting q s (s.setCrew { c with closed := true }) := by
  refine ⟨rfl, rfl, fun _ h _ _ _ _ => h, fun tag v h => ?_, fun _ h => ⟨h, rfl⟩⟩
  by_cases hkey : c.ltag = tag ∧ c.unit = v
  · obtain ⟨rfl, rfl⟩ := hkey
    exact ⟨_, crew?_setCrew_self _ _, rfl⟩
  · obtain ⟨d, hd, hclosed⟩ := h
    exact ⟨d, (find?_putCrew_other s.disp.crews { c with closed := true } hkey).trans hd, hclosed⟩

end Halting

/-- A crew is closed, its engines are brought to their stop points, and it is looked at in the next cycle (R49). -/
def closeOne (tag gang : Nat) (s : State) (c : Crew) : State :=
  ((s.setCrew { c with closed := true }).stopEngines c).sched 1 rankDisp (.crewSaved tag gang c.idx)

theorem halting_closeOne (tag gang : Nat) (s : State) (c : Crew) : Halting s.noVx s (closeOne tag gang s c) :=
  ((Halting.setCrew_closed c).trans (Halting.stopEngines c)).trans (Halting.sched ..)

theorem closeOne_looks (tag gang : Nat) (s : State) (c : Crew) :
    Claims.Due (closeOne tag gang s c) (s.now + 1) (.crewSaved tag gang c.idx) ∧ (closeOne tag gang s c).Closed c.ltag c.unit := by
  have hstop := (Halting.setCrew_closed (q := s.noVx) c).trans (Halting.stopEngines (s := s.setCrew { c with closed := true }) c)
  refine ⟨hstop.now ▸ due_sched .., ?_⟩
  exact (Halting.stopEngines c).closed _ _ ⟨_, crew?_setCrew_self _ _, rfl⟩

theorem halting_closeAll (tag gang : Nat) (s : State) (cs : List Crew) : Halting s.noVx s (cs.foldl (closeOne tag gang) s) :=
  List.foldlRecOn cs _ (Halting.refl s) fun _ h c _ => h.trans_noVx (halting_closeOne tag gang _ c)

/-- Every crew of the gang is closed, and looked at in the next cycle. -/
theorem closeAll_looks (tag gang : Nat) {cs : List Crew} {c : Crew} (hc : c ∈ cs) (s : State) :
    Claims.Due (cs.foldl (closeOne tag gang) s) (s.now + 1) (.crewSaved tag gang c.idx) ∧ (cs.foldl (closeOne tag gang) s).Closed c.ltag c.unit := by
  obtain ⟨t, hst, htu⟩ := foldl_passes (R := fun s u => Halting s.noVx s u) (fun s => Halting.refl s) Halting.trans_noVx
    (halting_closeOne tag gang) hc s
  obtain ⟨⟨e, he, hdue, hop⟩, hclosed⟩ := closeOne_looks tag gang t c
  exact ⟨⟨e, htu.agenda e he _ _ _ hop, hst.now ▸ hdue, hop⟩, htu.closed _ _ hclosed⟩

end State
end Sys2Proof.Machine
end

section
/-! SUPPORT. The save of a crew (R49, R51): its image takes it, and its unit and its slots are free of it. -/

namespace Sys2Proof.Machine

namespace State

/-- `u` is `s` with the threads and the dispatcher as they stood. -/
structure Standing (s u : State) : Prop where
  threads : u.threads = s.threads
  disp : u.disp = s.disp

namespace Standing
variable {s t u : State}

theorem refl (s : State) : Standing s s := ⟨rfl, rfl⟩

theorem trans (h : Standing s t) (h' : Standing t u) : Standing s u := ⟨h'.threads.trans h.threads, h'.disp.trans h.disp⟩

theorem foldl {α : Type} {f : State → α → State} {l : List α} (h : Standing s t) (hf : ∀ u a, Standing u (f u a)) : Standing s (l.foldl f t) :=
  List.foldlRecOn l f h fun _ h a _ => h.trans (hf _ a)

/-! ## Storage -/

theorem store (pa n : Nat) (v : Val) : Standing s (s.store pa n v) := by
  unfold State.store
  simp only
  split
  · exact ⟨rfl, rfl⟩
  · split <;> exact ⟨rfl, rfl⟩

theorem putVals (a : Nat) (vs : List Val) : Standing s (s.putVals a vs) := (refl s).foldl fun _ _ => store ..

theorem putWords (a : Nat) (ws : List Word) : Standing s (s.putWords a ws) := putVals ..

theorem saveSeg (lvl i : Nat) (g : Seg) (a : Nat) : Standing s (s.saveSeg lvl i g a) := by
  refine (refl s).foldl fun u _ => foldl (t := u.copyRange _ _ _) ⟨rfl, rfl⟩ fun w _ => ?_
  simp only
  split <;> exact ⟨rfl, rfl⟩

/-! ## An image (R51) -/

theorem putLatch (a : Nat) (l : LatchSlot) : Standing s (s.putLatch a l) := by
  unfold State.putLatch
  refine Standing.trans ?_ (putWords ..)
  split
  · exact (refl s).foldl fun _ _ => ⟨rfl, rfl⟩
  · exact refl s

theorem writeImage (v : Saved) : Standing s (s.writeImage v) := by
  unfold State.writeImage
  extract_lets a zeroed open_ header pats ports chans engines running tmpls copies queued latches threads
  have hopen : Standing s open_ := foldl (t := { s.zero a v.size with free := s.free + 1 }) ⟨rfl, rfl⟩ fun u c => by
    split <;> exact ⟨rfl, rfl⟩
  have hpats : Standing s pats := (hopen.trans (putWords ..)).foldl fun _ _ => putWords ..
  have hports : Standing s ports := hpats.foldl fun _ _ => putVals ..
  have hengines : Standing s engines := (hports.foldl fun _ _ => putWords ..).foldl fun _ _ => putWords ..
  have hrunning : Standing s running := by
    simp only [running]
    split
    · split
      · exact hengines.trans (putWords ..)
      · exact hengines
    · exact hengines
  have hqueued : Standing s queued := (hrunning.foldl fun _ _ => putWords ..).foldl fun _ _ => putWords ..
  have hlatches : Standing s latches := (hqueued.trans (putLatch ..)).trans (putLatch ..)
  have hthreads : Standing s threads := hlatches.foldl fun _ _ => putVals ..
  exact hthreads.foldl fun _ _ => ⟨(putWords ..).threads, (putWords ..).disp⟩

end Standing

/-! ## What a saved crew leaves free (R49) -/

/-- The slots of threads are freed, and those of their twins. -/
def dropAll (s : State) (ts : List Thread) : State := ts.foldl (fun s t => ((s.dropThread t).raiseGen t.unit t.slot).freeTwin t) s

theorem dropAll_cons (s : State) (t : Thread) (ts : List Thread) :
    s.dropAll (t :: ts) = (((s.dropThread t).raiseGen t.unit t.slot).freeTwin t).dropAll ts := by
  rw [dropAll, List.foldl_cons, dropAll]

theorem freeTwin_eq (s : State) (t : Thread) : ∃ x, s.freeTwin t = { s with units := x } := by
  unfold freeTwin
  split
  · exact ⟨_, rfl⟩
  · exact ⟨s.units, rfl⟩

theorem dropOne_eq (s : State) (t : Thread) : ∃ x, ((s.dropThread t).raiseGen t.unit t.slot).freeTwin t =
    { s with units := x, threads := s.threads.filter fun x => !(x.unit == t.unit && x.slot == t.slot) } := by
  obtain ⟨x, hx⟩ := freeTwin_eq ((s.dropThread t).raiseGen t.unit t.slot) t
  exact ⟨x, hx⟩

theorem disp_dropAll (s : State) (ts : List Thread) : (s.dropAll ts).disp = s.disp := by
  refine List.foldlRecOn (motive := fun u : State => u.disp = s.disp) _ _ rfl fun u hu t _ => ?_
  obtain ⟨x, hx⟩ := dropOne_eq u t
  rw [hx]
  exact hu

/-- Only threads in other slots are left. -/
theorem mem_threads_dropAll {s : State} {ts : List Thread} {x : Thread} (h : x ∈ (s.dropAll ts).threads) :
    x ∈ s.threads ∧ ∀ t ∈ ts, ¬(x.unit = t.unit ∧ x.slot = t.slot) := by
  induction ts generalizing s with
  | nil => exact ⟨h, fun _ ht => absurd ht List.not_mem_nil⟩
  | cons t ts ih =>
    rw [dropAll_cons] at h
    obtain ⟨hx, hts⟩ := ih h
    obtain ⟨y, hy⟩ := dropOne_eq s t
    rw [hy] at hx
    obtain ⟨hmem, hother⟩ := List.mem_filter.1 hx
    exact ⟨hmem, List.forall_mem_cons.2 ⟨fun ⟨hu, hn⟩ => by simp [hu, hn] at hother, hts⟩⟩

theorem onLaunch_launches (s : State) (tag : Nat) (f : Launch → Launch) :
    ∃ m, s.onLaunch tag f = { s with disp := { s.disp with launches := m } } := by
  unfold onLaunch
  split
  · exact ⟨_, rfl⟩
  · exact ⟨s.disp.launches, rfl⟩

theorem standing_nudgeMx (s : State) : Standing s s.nudgeMx := by
  refine (Standing.refl s).foldl fun u e => ?_
  split
  · exact ⟨rfl, rfl⟩
  · exact .refl u

/-- A crew that is saved has an image in the dispatcher's keeping; it is on its unit no more, and no thread of it is. -/
theorem saveCrew_saves (s : State) (l : Launch) (c : Crew) (image : Nat) : ∃ v, v.crew = c ∧ v.image = image ∧
    (s.saveCrew l c image).disp.saved = s.disp.saved ++ [v] ∧
    (s.saveCrew l c image).disp.crews = s.disp.crews.filter (fun x => !(x.ltag == c.ltag && x.unit == c.unit)) ∧
    (s.saveCrew l c image).crewThreads c.ltag c.unit = [] := by
  unfold saveCrew
  extract_lets u ts cmds ids chans sh bars v written segs purged dropped shared bs cs old freed
  have hpurged : Standing s purged :=
    (((Standing.writeImage v).foldl fun _ _ => Standing.saveSeg ..) : Standing s segs).trans ⟨rfl, rfl⟩
  have hdropped : dropped = (purged.dropCx c.ltag c.unit).dropAll ts := rfl
  have hdisp : dropped.disp = s.disp := (disp_dropAll ..).trans hpurged.disp
  obtain ⟨m, hm⟩ := dropped.onLaunch_launches c.ltag fun l =>
    { l with s2 := l.s2.filter (fun x => !sh.any fun y => y.1 == 2 && y.2.1 == x.1),
             s3 := l.s3.filter (fun x => !sh.any fun y => y.1 == 3 && y.2.1 == x.1) }
  have hshared : shared = { dropped with disp := { dropped.disp with launches := m } } := hm
  have hlast : Standing freed (freed.sched 0 (rankEng c.unit .vx) (.vxStart c.unit)).nudgeMx :=
    Standing.trans (t := freed.sched 0 (rankEng c.unit .vx) (.vxStart c.unit)) ⟨rfl, rfl⟩ (standing_nudgeMx _)
  refine ⟨v, rfl, rfl, ?_, ?_, ?_⟩
  · rw [hlast.disp]
    simp only [freed, hshared, hdisp]
  · rw [hlast.disp]
    simp only [freed, cs, hshared, hdisp]
  · refine List.filter_eq_nil_iff.2 fun x hx hkey => ?_
    rw [hlast.threads] at hx
    simp only [freed, hshared] at hx
    obtain ⟨hmem, hother⟩ := mem_threads_dropAll (hdropped ▸ hx)
    have hmem' : x ∈ s.threads := hpurged.threads ▸ hmem
    exact hother x (List.mem_filter.2 ⟨hmem', hkey⟩) ⟨rfl, rfl⟩

end State
end Sys2Proof.Machine
end

section
/-! SUPPORT. The restore of a gang (R50, R51, R177), the requests of PREEMPT by their outcomes (R49, R233), and the statement about them, O41. -/

namespace Sys2Proof.Machine

namespace State

/-! ## A restored crew (R50) -/

namespace Standing
variable {s : State}

theorem haltNow (u ch : Nat) : Standing s (s.haltNow u ch) := by
  unfold State.haltNow
  simp only
  split
  · exact foldl (t := s.setChan u ch _) ⟨rfl, rfl⟩ fun _ _ => ⟨rfl, rfl⟩
  · exact refl s

theorem copyGo (u ch : Nat) (x : Chan) (c : Copy) : Standing s (s.copyGo u ch x c) := by
  unfold State.copyGo
  exact ⟨(haltNow u ch).threads, (haltNow u ch).disp⟩

theorem resumeChan (u ch : Nat) : Standing s (s.resumeChan u ch) := by
  unfold State.resumeChan
  simp only
  split
  · exact ⟨rfl, rfl⟩
  · exact copyGo ..
  · exact ⟨rfl, rfl⟩
  · exact refl s

theorem resumeEngines (v : Saved) (u : Nat) : Standing s (s.resumeEngines v u) := by
  unfold State.resumeEngines
  extract_lets resumed channels
  have hresumed : Standing s resumed := (refl s).foldl fun t c => by
    split
    · exact ⟨rfl, rfl⟩
    · split
      · exact ⟨rfl, rfl⟩
      · exact ⟨rfl, rfl⟩
      · exact refl t
  have hchannels : Standing s channels := hresumed.foldl fun _ _ => resumeChan ..
  have hlast : Standing channels (channels.sched 16 (rankEng u .vx) (.vxStart u)) := ⟨rfl, rfl⟩
  exact (hchannels.trans hlast).trans (standing_nudgeMx _)

end Standing

/-- A thread that waits for nothing and buffers nothing takes a new slot, and no more. -/
theorem disp_replaceThread (s : State) {t : Thread} (u : Nat) (hst : t.st = .ready) (hrb : t.rb = []) : (s.replaceThread t u).disp = s.disp := by
  unfold replaceThread
  split
  · rfl
  · simp only [hst, hrb, List.isEmpty_nil, if_true]
    rfl

/-- A restored crew whose threads wait for nothing stands on its new unit, open, as its image holds it. -/
theorem restoreCrew_crew (s : State) (l : Launch) (kept : Saved) (u : Nat) (h : ∀ t ∈ (s.readImage kept).threads, t.st = .ready ∧ t.rb = []) :
    ∃ c, (s.restoreCrew l kept u).crew? kept.crew.ltag u = some c ∧ c.closed = false ∧ c.gang = kept.crew.gang ∧ c.idx = kept.crew.idx ∧
      c.ports = (s.readImage kept).crew.ports ∧ c.pats = (s.readImage kept).crew.pats ∧ c.sent = kept.crew.sent ∧
      c.recvd = kept.crew.recvd := by
  unfold restoreCrew
  extract_lets old v r shared crew placed threads ts ms piece result cmds board copy chans unit bars
  have hthreads : threads.disp = placed.disp :=
    List.foldlRecOn (motive := fun w : State => w.disp = placed.disp) _ _ rfl fun w hw t ht =>
      (disp_replaceThread w u (h t ht).1 (h t ht).2).trans hw
  have hbars : bars.disp = unit.disp :=
    List.foldlRecOn (motive := fun w : State => w.disp = unit.disp) _ _ rfl fun w hw y _ => by
      split
      · exact hw
      · exact hw
  have hdisp := ((Standing.resumeEngines (s := bars) { v with cmds := cmds } u).disp.trans hbars).trans hthreads
  refine ⟨{ v.crew with unit := u, s1 := r.2, closed := false }, ?_, rfl, rfl, rfl, rfl, rfl, rfl, rfl⟩
  rw [crew?, hdisp]
  exact shared.crew?_setCrew_self { v.crew with unit := u, s1 := r.2, closed := false }

theorem readImage_movePtr (s : State) (ptr : Nat) (v : Saved) : (s.movePtr ptr).readImage v = s.readImage v := rfl

/-- A gang whose images are restored is saved no more, and the request is over. -/
theorem restoreGang_over (s : State) (l : Launch) (vs : List Saved) (x gang : Nat) :
    (s.restoreGang l vs x gang).disp.preBusy = false ∧ (s.restoreGang l vs x gang).disp.preResult = 0 ∧
      ∀ v ∈ (s.restoreGang l vs x gang).disp.saved, ¬(v.crew.ltag = l.ltag ∧ v.crew.gang = gang) :=
  ⟨rfl, rfl, fun v hv hgang => by simpa [hgang] using (List.mem_filter.1 hv).2⟩

/-- A gang of one crew and no shared segments is its crew. -/
theorem restoreGang_one (s : State) (l : Launch) {v : Saved} (x gang tag : Nat) (hsh : v.shared = []) :
    (s.restoreGang l [v] x gang).crew? tag x = ((s.movePtr ((x + 1) % 128)).restoreCrew l v x).crew? tag x := by
  unfold restoreGang
  simp only [List.zipIdx_cons, List.zipIdx_nil, List.foldl_cons, List.foldl_nil, hsh]
  rfl

/-- A gang of one crew without shared segments stands again as its image holds it. -/
theorem restoreGang_crew (s : State) (l : Launch) {vs : List Saved} {v : Saved} (x gang : Nat) (hone : vs = [v]) (hsh : v.shared = [])
    (h : ∀ t ∈ (s.readImage v).threads, t.st = .ready ∧ t.rb = []) :
    ∃ c, (s.restoreGang l vs x gang).crew? v.crew.ltag x = some c ∧ c.closed = false ∧ c.gang = v.crew.gang ∧ c.idx = v.crew.idx ∧
      c.ports = (s.readImage v).crew.ports ∧ c.pats = (s.readImage v).crew.pats ∧ c.sent = v.crew.sent ∧ c.recvd = v.crew.recvd := by
  have hcrew := (s.movePtr ((x + 1) % 128)).restoreCrew_crew l v x
  rw [readImage_movePtr] at hcrew
  rw [hone, restoreGang_one _ _ _ _ _ hsh]
  exact hcrew h

/-! ## PREEMPT_SAVE and CREW_SAVED (R49, R233) -/

section
variable {s : State} {l : Launch}

theorem exec_preemptSave (hl : s.launch? (bits s.disp.preempt 32 16) = some l) (he : l.ending = none) :
    let tag := bits s.disp.preempt 32 16
    let gang := bits s.disp.preempt 8 8
    let cs := s.gangCrews tag gang
    exec .preemptSave s = .next
      (if !cs.any (fun c => c.idx == bits s.disp.preempt 0 5) then s.preemptDone 1
       else if !cs.all (·.started) then s.sched 8 rankDisp .preemptSave
       else if !s.poolHolds s.poolUsed (cs.map fun c => imageSize (s.ganged c.unit) c.s1) then s.preemptDone 2
       else cs.foldl (closeOne tag gang) s) := by
  show Host.Outcome.next _ = _
  simp only [hl, he, Option.isSome_none, Bool.false_or]
  rfl

/-- The crew with its results committed, and those of its matrix commands that stall on the ring as they were before they began. -/
def committed (s : State) (tag : Nat) (c : Crew) : State :=
  ((s.unit c.unit).cmds.filter fun x => x.ltag == tag && s.midStall x).foldl (fun s x => s.unstartMx x) (s.commitThreads tag c.unit)

section
variable {tag gang idx : Nat} {c : Crew} (hl : s.launch? tag = some l) (he : l.ending = none)
  (hc : (s.gangCrews tag gang).find? (fun c => c.idx == idx) = some c)
include hl he hc

theorem exec_crewSaved_waits (h : (s.crewThreads tag c.unit).all s.threadAtStop = false ∨ s.enginesAtStop c = false ∨ s.crewQuiet c = false) :
    exec (.crewSaved tag gang idx) s = .next (s.sched 1 rankLate (.crewSaved tag gang idx)) := by
  show Host.Outcome.next _ = _
  simp only [hl, hc, he, Option.isSome_none, Bool.false_eq_true, if_false]
  rw [if_pos (by rcases h with h | h | h <;> simp [h])]

/-- At its stop points a crew goes into its image, as soon as nothing holds it. -/
theorem exec_crewSaved_stopped {a : Nat} (ht : (s.crewThreads tag c.unit).all s.threadAtStop = true) (hen : s.enginesAtStop c = true)
    (hq : s.crewQuiet c = true) (ht1 : ((s.committed tag c).crewThreads tag c.unit).all (s.committed tag c).threadAtStop = true)
    (hfit : (s.committed tag c).poolFit (s.committed tag c).poolUsed (imageSize ((s.committed tag c).ganged c.unit) c.s1) = some a) :
    exec (.crewSaved tag gang idx) s = .next
      (if (s.committed tag c).spanHeld a (imageSize ((s.committed tag c).ganged c.unit) c.s1) then
        (s.committed tag c).sched 1 rankLate (.crewSaved tag gang idx)
       else ((s.committed tag c).saveCrew l c a).saveOver tag gang) := by
  unfold committed at *
  show Host.Outcome.next _ = _
  simp only [hl, hc, he, ht, hen, hq, ht1, hfit, Option.isSome_none, Bool.false_eq_true, if_false, Bool.not_true, Bool.or_self]

end

theorem saveOver_eq (s : State) (tag gang : Nat) : ∃ b r, s.saveOver tag gang = { s with disp := { s.disp with preBusy := b, preResult := r } } := by
  unfold saveOver
  split
  · exact ⟨_, _, rfl⟩
  · exact ⟨s.disp.preBusy, s.disp.preResult, rfl⟩

theorem saveOver_last {s : State} {tag gang : Nat} (h : s.gangCrews tag gang = []) :
    (s.saveOver tag gang).disp.preBusy = false ∧ (s.saveOver tag gang).disp.preResult = 0 := by
  rw [saveOver, h]
  exact ⟨rfl, rfl⟩

/-- A saved crew is on its unit no more; the request is over with the last crew of the gang. -/
theorem saveCrew_over (s : State) (l : Launch) {tag gang : Nat} {c : Crew} (a : Nat) (htag : c.ltag = tag) :
    let u := (s.saveCrew l c a).saveOver tag gang
    ∃ v, u.disp.saved = s.disp.saved ++ [v] ∧ v.crew = c ∧ v.image = a ∧ u.crew? tag c.unit = none ∧ u.crewThreads tag c.unit = [] ∧
      (s.gangCrews tag gang = [c] → u.disp.preBusy = false ∧ u.disp.preResult = 0) := by
  obtain ⟨v, hcrew, himage, hsaved, hcrews, hthreads⟩ := s.saveCrew_saves l c a
  obtain ⟨b, r, hover⟩ := (s.saveCrew l c a).saveOver_eq tag gang
  subst htag
  intro u
  refine ⟨v, ?_, hcrew, himage, ?_, ?_, fun hone => saveOver_last ?_⟩
  · rw [show u = _ from hover]
    exact hsaved
  · rw [show u = _ from hover, crew?, hcrews]
    refine List.find?_eq_none.2 fun x hx hkey => ?_
    have hother := (List.mem_filter.1 hx).2
    rw [hkey] at hother
    exact Bool.false_ne_true hother
  · rw [show u = _ from hover]
    exact hthreads
  · rw [gangCrews, hcrews, List.filter_filter]
    refine List.filter_eq_nil_iff.2 fun x hx hkey => ?_
    obtain ⟨hgang, hother⟩ := Bool.and_eq_true_iff.1 hkey
    have hx1 : x ∈ s.gangCrews c.ltag gang := List.mem_filter.2 ⟨hx, hgang⟩
    rw [hone, List.mem_singleton] at hx1
    simp [hx1] at hother

/-! ## PREEMPT_RESTORE and CREW_RESTORE (R50, R233) -/

theorem exec_preemptRestore (s : State) :
    let tag := bits s.disp.preempt 32 16
    let gang := bits s.disp.preempt 8 8
    let vs := s.savedGang tag gang
    exec .preemptRestore s = .next
      (if !vs.any (fun v => v.crew.idx == bits s.disp.preempt 0 5) then s.preemptDone 1
       else if vs.any fun v => v.outstanding != 0 then s.preemptDone 3
       else s.sched 0 rankDisp (.crewRestore tag gang)) := rfl

section
variable {tag gang : Nat} (hl : s.launch? tag = some l) (hv : s.savedGang tag gang ≠ [])
include hl hv

theorem exec_crewRestore_none (hw : s.restoreWindow l (s.savedGang tag gang) = none) :
    exec (.crewRestore tag gang) s = .next (s.sched 2700 rankDisp (.crewRestore tag gang)) := by
  show Host.Outcome.next _ = _
  simp only [hl, hw, List.isEmpty_iff, hv, if_false]
  rfl

theorem exec_crewRestore_some {x : Nat} (hw : s.restoreWindow l (s.savedGang tag gang) = some x) :
    exec (.crewRestore tag gang) s = .next
      (if (s.savedGang tag gang).any (fun v => s.spanHeld v.image v.size) then s.sched 1 rankDisp (.crewRestore tag gang)
       else (s.ueReads 0 0 ((s.savedGang tag gang).flatMap fun v => s.poisonedIn v.image v.size)).restoreGang l (s.savedGang tag gang) x gang) := by
  show Host.Outcome.next _ = _
  simp only [hl, hw, List.isEmpty_iff, hv, if_false]

end
end
end State

/-- Settles O41: the requests by the outcomes of their checks; a save by what bringing engines to their stop points leaves, a restore by what
comes after a crew has been put on its new unit. -/
theorem preemptionRequests : Obligations.PreemptionRequests := by
  intro s l tag gang idx cs vs answers sizes hl he
  have hsave {u : State} (h : _ = u) := (State.exec_preemptSave hl he).trans (congrArg Host.Outcome.next h)
  have hrestore {u : State} (h : _ = u) := s.exec_preemptRestore.trans (congrArg Host.Outcome.next h)
  have named : (∃ c ∈ cs, c.idx = idx) → ¬(!cs.any fun c => c.idx == idx) = true := fun ⟨c, hc, hi⟩ => by
    simpa using ⟨c, hc, hi⟩
  have namedSaved : (∃ v ∈ vs, v.crew.idx = idx) → ¬(!vs.any fun v => v.crew.idx == idx) = true := fun ⟨v, hv, hi⟩ => by
    simpa using ⟨v, hv, hi⟩
  have started : (∀ c ∈ cs, c.started = true) → ¬(!cs.all (·.started)) = true := fun h => by simpa using h
  refine ⟨fun h => ?_, fun hn hst hp => ?_, fun hn hst hp => ?_, fun c hc h => State.exec_crewSaved_waits hl he hc h,
    ?saved, fun h => ?_, fun hn ho => ?_, fun hn ho => ?_, fun hv hw => State.exec_crewRestore_none hl hv hw,
    fun x hv hw hheld => ?_, fun x hv hw hheld => ?_⟩
  case saved =>
    intro c a hc ht hen hq s1 n ht1 hfit
    have hexec := State.exec_crewSaved_stopped hl he hc ht hen hq ht1 hfit
    have htag : c.ltag = tag := by
      have hkey := (List.mem_filter.1 (List.mem_of_find?_eq_some hc)).2
      simp only [Bool.and_eq_true, beq_iff_eq] at hkey
      exact hkey.1
    refine ⟨fun hheld => hexec.trans (congrArg Host.Outcome.next (if_pos hheld)), fun hheld => ?_⟩
    obtain ⟨v, hsaved, hcrew, himage, hgone, hthreads, hover⟩ := s1.saveCrew_over l (gang := gang) a htag
    refine ⟨_, v, hexec.trans (congrArg Host.Outcome.next (if_neg (ne_true_of_eq_false hheld))), hsaved, hcrew, himage, hgone, hthreads,
      fun hone hsame => hover ?_⟩
    rw [State.gangCrews, hsame]
    exact hone
  · exact hsave (if_pos (by simpa using h))
  · exact hsave ((if_neg (named hn)).trans ((if_neg (started hst)).trans (if_pos (by rw [hp]; rfl))))
  · have hall := State.halting_closeAll tag gang s cs
    exact ⟨_, hsave ((if_neg (named hn)).trans ((if_neg (started hst)).trans (if_neg (by rw [hp]; exact Bool.false_ne_true)))), hall.threads,
      fun hno => (hall.calm hno hno).2, fun c hc => State.closeAll_looks tag gang hc s⟩
  · exact hrestore (if_pos (by simpa using h))
  · exact hrestore ((if_neg (namedSaved hn)).trans (if_pos (by simpa using ho)))
  · exact hrestore ((if_neg (namedSaved hn)).trans (if_neg (by simpa using ho)))
  · exact (State.exec_crewRestore_some hl hv hw).trans (congrArg Host.Outcome.next (if_pos hheld))
  · intro s0
    obtain ⟨hbusy, hresult, hsaved⟩ := s0.restoreGang_over l vs x gang
    refine ⟨_, (State.exec_crewRestore_some hl hv hw).trans (congrArg Host.Outcome.next (if_neg (ne_true_of_eq_false hheld))), hbusy, hresult,
      hsaved, fun v hone htag hsh => ?_⟩
    intro k hready
    rw [← htag]
    exact s0.restoreGang_crew l x gang hone hsh hready

end Sys2Proof.Machine
end

section
/-! SUPPORT. How an instruction that goes to any PC completes (R65, R239, R376): with no register result, and with one of the ALU class. -/

namespace Sys2Proof.Machine

open Sys2Proof.Claims (Stepped Folded TwinKept Wrote Completes Computes cleansed mended counted ended)

/-! ## Twins of which registers fall away -/

/-- A thread whose twin loses registers of its own alone is paired as it was. -/
theorem twinKept_keep {t w : Thread} {p : Nat → Bool} (h : w.twin = t.twin.map (·.keep p)) : TwinKept t w :=
  ⟨fun hn => by rw [h, hn]; rfl, fun x hx => ⟨x.fp, x.fpq, _, by rw [h, hx]; rfl, fun _ he => (List.mem_filter.1 he).1⟩⟩

/-- A pair stays a pair, and a thread alone stays alone. -/
theorem twin_none_iff {t w : Thread} (h : TwinKept t w) : w.twin = none ↔ t.twin = none := by
  refine ⟨fun hw => ?_, h.1⟩
  cases ht : t.twin with
  | none => rfl
  | some x =>
    obtain ⟨f, q, o, hx, -⟩ := h.2 x ht
    simp [hw] at hx

theorem counted_of_twinKept (s : State) {t w : Thread} (h : TwinKept t w) : counted s w = counted s t := by
  have hsome : w.twin.isSome = t.twin.isSome := by
    rw [Bool.eq_iff_iff, Option.isSome_iff_ne_none, Option.isSome_iff_ne_none]
    exact (twin_none_iff h).not
  rw [counted, counted, hsome]

theorem ended_of_twinKept (s : State) {t u : Thread} (w : Thread) (sm : Bool) (h : TwinKept t u) : ended s u w sm = ended s t w sm := by
  rw [ended, ended, counted_of_twinKept s h]

/-- What completes from a thread whose twin has lost registers completes from the thread itself. -/
theorem stepped_of_twinKept {b u w : Thread} {next : Word} (h : Stepped u w next) (hu : u = { b with twin := u.twin }) (hk : TwinKept b u) :
    Stepped b w next := by
  obtain ⟨⟨hunpaired, hpaired, hkept⟩, hw⟩ := h
  rw [hu] at hw hunpaired hpaired
  exact ⟨⟨fun hb => hunpaired (hk.1 hb), fun hb => hpaired (mt (twin_none_iff hk).1 hb), twinKept_trans hk hkept⟩, hw⟩

/-! ## Completions -/

/-- An instruction completes in one step, PC going anywhere. -/
theorem doneAt_ended (s : State) (t : Thread) (next : Word) (sm : Bool) (vs : List Word) :
    ∃ w, s.doneAt t next sm vs = ended s t w sm ∧ Stepped t w next := by
  refine ⟨_, ?_, stepped_retire t next vs (if t.twin.isSome then Config.twinUpset s.free else 0)⟩
  unfold State.doneAt ended counted
  split <;> rfl

theorem Thread.psn_wr (t : Thread) (d : Operand) (v : Word) : (t.wr d v).psn = cleansed t d := by
  cases d with
  | opf i => rfl
  | lat => rfl
  | main i =>
    unfold Thread.wr
    dsimp only
    repeat' split
    all_goals rfl

theorem Thread.par_wr (t : Thread) (d : Operand) (v : Word) : (t.wr d v).par.filter (· != .operand .lat) = mended t d := by
  cases d with
  | opf i => rfl
  | lat => rfl
  | main i =>
    unfold Thread.wr
    dsimp only
    repeat' split
    all_goals rfl

theorem twinKept_alu (t : Thread) (d : Operand) (v : Word) : TwinKept t (t.alu d v) :=
  twinKept_trans ((t.overtake d).rewritten_wr d v).1 (twinKept_both _ (.operand .lat))

/-- An ALU-class result changes registers, and what is buffered for them. -/
theorem Thread.alu_eq (t : Thread) (d : Operand) (v : Word) :
    t.alu d v = { t with k := (t.alu d v).k, a := (t.alu d v).a, frames := (t.alu d v).frames, p := (t.alu d v).p, lat := (t.alu d v).lat,
                         psn := (t.alu d v).psn, par := (t.alu d v).par, rb := (t.alu d v).rb, twin := (t.alu d v).twin } := by
  have h := ((t.overtake d).rewritten_wr d v).2
  unfold Thread.alu Thread.mend Thread.both
  rw [h]
  rfl

/-- A thread that has its ALU-class result completes with it in D and in lat, and all else as it was (R65). -/
theorem wrote_of_stepped {t w : Thread} {d : Operand} {v next : Word} (h : Stepped (t.alu d v) w next) : Wrote t w d v next := by
  obtain ⟨⟨hunpaired, hpaired, hkept⟩, hw⟩ := h
  have htwin := twinKept_alu t d v
  refine ⟨⟨fun hn => ?_, fun hn => ?_, twinKept_trans htwin hkept⟩, fun r => ?_, ?_, ?_, ?_, ?_, ?_⟩
  · simpa using hunpaired (htwin.1 hn)
  · rw [hpaired (mt (twin_none_iff htwin).1 hn), Thread.alu_retired]
  · have hr : w.rd r = (t.alu d v).rd r := by rw [hw]; cases r <;> rfl
    rw [hr, Thread.rd_alu]
  · rw [hw]; exact Thread.alu_frames_tail ..
  · rw [hw]; exact Thread.alu_rb ..
  · rw [hw]; exact (t.overtake d).psn_wr d v
  · rw [hw]; exact (t.overtake d).par_wr d v
  · rw [hw, t.alu_eq d v]

/-- An ALU-class instruction completes with its value, PC going anywhere (R65). -/
theorem doneAt_alu (s : State) (t : Thread) (d : Operand) (v next : Word) (sm : Bool) (vs : List Word) :
    ∃ w, s.doneAt (t.alu d v) next sm vs = ended s t w sm ∧ Wrote t w d v next := by
  obtain ⟨w, hw, hstep⟩ := doneAt_ended s (t.alu d v) next sm vs
  exact ⟨w, hw.trans (ended_of_twinKept s w sm (twinKept_alu t d v)), wrote_of_stepped hstep⟩

/-- An ALU-class instruction completes with its value, PC going to the next instruction (R65, R239). -/
theorem computes_of_aluDone {i : Instr} {s : State} {t : Thread} {words : Nat} {sm : Bool} {d : Operand} {v : Word}
    (h : exec i s = .next (s.aluDone t words sm d v)) : Computes i s t sm d v (t.pc + wd (4 * words)) := by
  rw [State.aluDone, State.done, Thread.alu_pc] at h
  obtain ⟨w, hw, hwrote⟩ := doneAt_alu s t d v (t.pc + wd (4 * words)) sm [v]
  exact ⟨w, h.trans (congrArg Host.Outcome.next hw), hwrote⟩

/-- An instruction with no register result completes, PC going to the next instruction (R239). -/
theorem completes_of_done {i : Instr} {s s' : State} {t : Thread} {words : Nat} {sm : Bool} {vs : List Word}
    (h : exec i s = .next (s'.done t words sm vs)) : Completes i s s' t sm (t.pc + wd (4 * words)) := by
  obtain ⟨w, hw, hstep⟩ := done_ended s' t words sm vs
  exact ⟨w, h.trans (congrArg Host.Outcome.next hw), hstep⟩

end Sys2Proof.Machine
end

section
/-! SUPPORT. The window of a thread (R59 to R62): what pushing and popping a frame does in each case, and the two accesses of a spill or a fill. -/

namespace Sys2Proof.Machine

open Sys2Proof.Claims (Due TwinKept)

/-! ## The accesses of a spill and of a fill (R62) -/

namespace State
variable (s : State) (t : Thread)

/-- A spill or a fill numbers its two accesses and awaits them; nothing else of the thread changes. -/
theorem frameAccess_thread (off : Nat) (wr : Bool) (kind : Bool → AccKind) :
    (s.frameAccess t off wr kind).2 =
      { t with nextId := (s.frameAccess t off wr kind).2.nextId, out := (s.frameAccess t off wr kind).2.out } := by
  unfold frameAccess
  split <;> rfl

theorem spill_thread (off : Nat) : (s.spill t off).2 = { t with nextId := (s.spill t off).2.nextId, out := (s.spill t off).2.out } :=
  frameAccess_thread ..

theorem fill_thread (off : Nat) : (s.fill t off).2 = { t with nextId := (s.fill t off).2.nextId, out := (s.fill t off).2.out } :=
  frameAccess_thread ..

/-- The two accesses are due at the unit's own banks four cycles later, the second 64 bytes above the first. -/
theorem frameAccess_due {off : Nat} (wr : Bool) (kind : Bool → AccKind) {pa : Nat} (h : s.s1Addr t.ltag t.unit off = some pa) (hi : Bool) :
    ∃ a : Access, Due (s.frameAccess t off wr kind).1 (s.now + 4) (.bankAccept a) ∧ a.t = t.ref ∧ a.pa = pa + 64 * b01 hi ∧ a.kind = kind hi := by
  unfold frameAccess
  simp only [h]
  cases hi with
  | false =>
    obtain ⟨e, he, hdue, hop⟩ := s.due_sched 4 (rankMill t.unit) (.bankAccept
      { t := t.ref, id := t.nextId + b01 false, rb := none, kind := kind false, pa := pa + 64 * b01 false, size := 64, data := 0, data2 := 0,
        retAt := s.now + 12, va := s1Va (off + 64 * b01 false), pc := t.pc, psn := none, mirror := none, ltag := t.ltag })
    exact ⟨_, ⟨e, (State.mem_agenda_sched _).2 (.inr he), hdue, hop⟩, rfl, rfl, rfl⟩
  | true => exact ⟨_, State.due_sched _ 4 _ _, rfl, rfl, rfl⟩

/-- A spill stores the oldest resident frame, l and then o. -/
theorem spill_due {off pa : Nat} (h : s.s1Addr t.ltag t.unit off = some pa) (hi : Bool) :
    ∃ (a : Access) (vs : List Val), Due (s.spill t off).1 (s.now + 4) (.bankAccept a) ∧ a.t = t.ref ∧ a.pa = pa + 64 * b01 hi ∧
      a.kind = .frame vs ∧ vs.map (·.v) = (if hi then (t.frames.getLastD Frame.zero).o else (t.frames.getLastD Frame.zero).l).toList := by
  obtain ⟨a, hdue, ht, hpa, hkind⟩ := s.frameAccess_due t true _ h hi
  refine ⟨a, _, hdue, ht, hpa, hkind, ?_⟩
  generalize t.frames.getLastD Frame.zero = f
  have hread (v : Vector Word 8) : (List.range 8).map (fun i => nget v i 0) = v.toList := by
    apply List.ext_getElem
    · simp
    · intro i hi _
      have h8 : i < 8 := by simpa using hi
      simp [nget, h8]
  rw [List.map_map]
  cases hi with
  | false => exact hread f.l
  | true => exact hread f.o

/-- A fill loads the two blocks of a frame. -/
theorem fill_due {off pa : Nat} (h : s.s1Addr t.ltag t.unit off = some pa) (hi : Bool) :
    ∃ a : Access, Due (s.fill t off).1 (s.now + 4) (.bankAccept a) ∧ a.t = t.ref ∧ a.pa = pa + 64 * b01 hi ∧ a.kind = .fill hi :=
  s.frameAccess_due t false .fill h hi

/-- The loads of a fill are the same whatever the thread has folded. -/
theorem fill_retire (off : Nat) (vs : List Word) (up : Word) : (s.fill (t.retire t.pc vs up) off).1 = (s.fill t off).1 := by
  simp only [fill, frameAccess, Thread.ref, Thread.retire_ltag, Thread.retire_unit, Thread.retire_slot, Thread.retire_gen,
    Thread.retire_nextId, Thread.retire_pc]
  split <;> rfl

end State

/-! ## Pushing and popping (R60, R61, R64) -/

/-- The thread with a frame of zeros on those that are resident. -/
def Thread.pushed (t : Thread) : Thread := { t with frames := Frame.zero :: t.frames, depth := t.depth + 1 }

/-- The thread with a frame of zeros in place of the oldest, which a spill stores. -/
def Thread.slidUp (t : Thread) (s : State) : Thread :=
  { t with
    nextId := (s.spill t t.spillp.toNat).2.nextId, out := (s.spill t t.spillp.toNat).2.out,
    frames := Frame.zero :: t.frames.dropLast, depth := t.depth + 1, spillp := t.spillp + 128,
    psn := t.psn.filter fun e => e.1 < 16 || 16 + 16 * (t.depth + 2 - t.res) ≤ e.1,
    twin := t.twin.map (·.keep fun k => k < 16 || 16 + 16 * (t.depth + 2 - t.res) ≤ k) }

/-- The thread with its current frame gone, whose caller's is resident. -/
def Thread.popped (t : Thread) : Thread :=
  { t with frames := t.frames.tail, depth := t.depth - 1, psn := clearAbove t.psn (t.depth - 1), twin := t.twin.map (·.below (t.depth - 1)) }

/-- The thread whose caller's frame is on its way from the spill area. -/
def Thread.slidDown (t : Thread) (s : State) : Thread :=
  { t with
    nextId := (s.fill t (t.spillp.toNat - 128)).2.nextId, out := (s.fill t (t.spillp.toNat - 128)).2.out,
    frames := [Frame.zero], depth := t.depth - 1, spillp := t.spillp - 128, psn := clearAbove t.psn (t.depth - 1),
    twin := t.twin.map (·.below (t.depth - 1)) }

section
variable {s : State} {t : Thread} {check : Bool}

theorem pushFrame_deepest (hd : t.depth = 65535) : pushFrame s t check = .trap 0 := if_pos hd

theorem pushFrame_free (hd : t.depth ≠ 65535) (hres : t.res < 12) : pushFrame s t check = .ok s t.pushed := by
  rw [pushFrame, if_neg hd, if_pos hres]
  rfl

theorem pushFrame_spills (hd : t.depth ≠ 65535) (hres : t.res = 12) (hlim : check = true → t.spillp.toNat + 128 ≤ t.spilllim.toNat)
    (hs1 : t.spillp.toNat + 128 ≤ s.s1Bytes t.ltag) : pushFrame s t check = .ok (s.spill t t.spillp.toNat).1 (t.slidUp s) := by
  rw [pushFrame, if_neg hd, if_neg (by omega), if_pos]
  · simp only
    rw [State.spill_thread]
    rfl
  · cases check with
    | false => simpa using hs1
    | true => simpa using ⟨hlim rfl, hs1⟩

theorem pushFrame_full (hd : t.depth ≠ 65535) (hres : t.res = 12)
    (hfull : check = true ∧ t.spilllim.toNat < t.spillp.toNat + 128 ∨ s.s1Bytes t.ltag < t.spillp.toNat + 128) :
    pushFrame s t check = .trap 1 := by
  rw [pushFrame, if_neg hd, if_neg (by omega), if_neg]
  simp only [Bool.and_eq_true, Bool.or_eq_true, Bool.not_eq_true', decide_eq_true_eq, not_and_or, not_or]
  rcases hfull with ⟨hc, hlim⟩ | hs1
  · exact .inl ⟨by simp [hc], by omega⟩
  · exact .inr (by omega)

theorem popFrame_bottom (hd : t.depth = 0) : popFrame s t = .trap 2 := if_pos hd

theorem popFrame_resident (hd : t.depth ≠ 0) (hres : 1 < t.res) : popFrame s t = .ok s t.popped := by
  rw [popFrame, if_neg hd, if_pos hres]
  rfl

theorem popFrame_fills (hd : t.depth ≠ 0) (hres : t.res = 1) (hp : 128 ≤ t.spillp.toNat) (hs1 : t.spillp.toNat ≤ s.s1Bytes t.ltag) :
    popFrame s t = .ok (s.fill t (t.spillp.toNat - 128)).1 (t.slidDown s) := by
  rw [popFrame, if_neg hd, if_neg (by omega), if_pos (by simp [hp, hs1])]
  simp only
  rw [State.fill_thread]
  rfl

theorem popFrame_empty (hd : t.depth ≠ 0) (hres : t.res = 1) (h : t.spillp.toNat < 128 ∨ s.s1Bytes t.ltag < t.spillp.toNat) :
    popFrame s t = .trap 3 := by
  rw [popFrame, if_neg hd, if_neg (by omega), if_neg (by simp; omega)]

end

theorem Thread.twinKept_popped (t : Thread) : TwinKept t t.popped := twinKept_keep rfl

/-! ## Registers of the frames (R56, R59, R61, R62) -/

/-- The index in the main file of a register of the current frame, l or o. -/
def frameIndex (o : Bool) (j : BitVec 3) : BitVec 5 := j.setWidth 5 + (if o then 24 else 16)

theorem exists_frameIndex : ∀ i : BitVec 5, ¬i.toNat < 16 → ∃ o j, i = frameIndex o j := by decide

theorem Frame.get_zero (o : Bool) (j : BitVec 3) : Frame.zero.get o j = 0 := by
  cases o <;> simp [Frame.get, Frame.zero, vget]

namespace Thread
variable (t : Thread)

theorem rd_frame (o : Bool) (j : BitVec 3) : t.rd (.main (frameIndex o j)) = t.frame0.get o j := by
  have hgroup : ∀ o j, ((frameIndex o j).extractLsb' 3 2).toNat = if o then 3 else 2 := by decide
  have hplace : ∀ o j, (frameIndex o j).extractLsb' 0 3 = j := by decide
  cases o with
  | false => simp only [rd, hgroup, hplace, Bool.false_eq_true, if_false]
  | true => simp only [rd, hgroup, hplace, if_true]

/-- The k and a registers lie in no frame. -/
theorem rd_ka {w : Thread} (hk : w.k = t.k) (ha : w.a = t.a) {i : BitVec 5} (hi : i.toNat < 16) : w.rd (.main i) = t.rd (.main i) := by
  have hgroup : ∀ i : BitVec 5, i.toNat < 16 → (i.extractLsb' 3 2).toNat = 0 ∨ (i.extractLsb' 3 2).toNat = 1 := by decide
  rcases hgroup i hi with h | h
  · simp only [rd, h, hk]
  · simp only [rd, h, ha]

/-- A pushed frame holds zeros, and the k and a registers stay. -/
theorem rd_pushed (i : BitVec 5) : t.pushed.rd (.main i) = if i.toNat < 16 then t.rd (.main i) else 0 := by
  split
  · rename_i hi
    exact t.rd_ka (w := t.pushed) rfl rfl hi
  · rename_i hi
    obtain ⟨o, j, rfl⟩ := exists_frameIndex i hi
    rw [rd_frame]
    exact Frame.get_zero o j

/-- Half of a frame that a fill has read takes the values of the block. -/
theorem rd_fillHalf (hi : Bool) (vs : List Val) (j : BitVec 3) : (t.fillHalf hi vs).rd (.main (frameIndex hi j)) = (vs.getD j.toNat ⟨0, none⟩).v := by
  rw [rd_frame]
  cases hi <;> simp [fillHalf, frame0, Frame.get, vget]

end Thread

end Sys2Proof.Machine
end

section
/-! The statement about calls and returns, O7: CALL, CALLR and RET by what pushing and popping a frame answers. -/

namespace Sys2Proof.Machine

open Sys2Proof.Claims (Issues Wrote ComputesIn TwinKept put counted)

namespace State
variable {s s1 : State} {t u : Thread} {sm : Bool} {target : Word} {sub : Nat}

/-! ## CALL and CALLR (R60, R273) -/

section
variable (hrb : t.rb = [])
include hrb

theorem callTo_trap (hp : pushFrame s t true = .trap sub) : s.callTo t target sm = s.fault t (infoOf 8 sub t.spillp.toNat 0) 0 := by
  unfold callTo
  rw [if_neg (by simp [Thread.pending, hrb]), hp]

theorem callTo_free (hd : t.depth ≠ 65535) (hres : t.res < 12) :
    s.callTo t target sm = s.doneAt (t.pushed.alu (.main 23) (t.pc + 4)) target sm [t.pc + 4] := by
  unfold callTo
  rw [if_neg (by simp [Thread.pending, hrb]), pushFrame_free hd hres]
  have hne : ¬t.res = 12 := by omega
  simp only [hne, if_false, decide_false, Bool.false_and, Bool.false_eq_true]

theorem callTo_spills (hd : t.depth ≠ 65535) (hres : t.res = 12) (hlim : t.spillp.toNat + 128 ≤ t.spilllim.toNat)
    (hs1 : t.spillp.toNat + 128 ≤ s.s1Bytes t.ltag) (hstall : s.frameStall t t.spillp.toNat true = none) :
    s.callTo t target sm =
      let v := (s.spill t t.spillp.toNat).1.doneAt ((t.slidUp s).alu (.main 23) (t.pc + 4)) target sm [t.pc + 4]
      if sm then v else v.thenPark t.ref .accepted := by
  unfold callTo
  rw [if_neg (by simp [Thread.pending, hrb]), pushFrame_spills hd hres (fun _ => hlim) hs1]
  simp only [hres, if_true, hstall]
  cases sm <;> rfl

/-- A call that pushes over resident frames computes its link. -/
theorem computesIn_call {i : Instr} (hi : exec i s = .next (s.callTo t target sm)) (hd : t.depth ≠ 65535) (hres : t.res < 12) :
    ComputesIn i s s t.pushed sm (.main 23) (t.pc + 4) target := by
  obtain ⟨w, hw, hwrote⟩ := doneAt_alu s t.pushed (.main 23) (t.pc + 4) target sm [t.pc + 4]
  exact ⟨w, hi.trans (congrArg Host.Outcome.next ((callTo_free hrb hd hres).trans hw)), hwrote⟩

/-- A call that spills computes its link, and waits unless its marker parks the thread. -/
theorem spills_call {i : Instr} (hi : exec i s = .next (s.callTo t target sm)) (hd : t.depth ≠ 65535) (hres : t.res = 12)
    (hlim : t.spillp.toNat + 128 ≤ t.spilllim.toNat) (hs1 : t.spillp.toNat + 128 ≤ s.s1Bytes t.ltag)
    (hstall : s.frameStall t t.spillp.toNat true = none) :
    let v := (s.spill t t.spillp.toNat).1
    ∃ w, Wrote (t.slidUp s) w (.main 23) (t.pc + 4) target ∧
      exec i s = .next (if sm then (counted v (t.slidUp s)).switchPoint w else (put (counted v (t.slidUp s)) w).thenPark t.ref .accepted) := by
  intro v
  obtain ⟨w, hw, hwrote⟩ := doneAt_alu v (t.slidUp s) (.main 23) (t.pc + 4) target sm [t.pc + 4]
  refine ⟨w, hwrote, hi.trans (congrArg Host.Outcome.next ((callTo_spills hrb hd hres hlim hs1 hstall).trans ?_))⟩
  simp only [v] at hw
  rw [hw]
  cases sm <;> rfl

end

theorem relTarget_eq (pc : Word) (off : BitVec 22) : relTarget pc off = pc + 4 * off.signExtend 64 := by
  rw [relTarget, BitVec.mul_comm]

theorem exec_call (h : Issues s t) (off : BitVec 22) : exec (.call sm off) s = .next (s.callTo t (t.pc + 4 * off.signExtend 64) sm) := by
  rw [← relTarget_eq]
  exact onCur_issues h _

theorem exec_callr (h : Issues s t) (a : Operand) : exec (.callr sm a) s = .next (s.callTo t (t.rd a) sm) := onCur_issues h _

/-! ## RET (R61, R273, R375) -/

/-- A RET that takes DEPTH below RGNWD ends the region in the thread `u` that it leaves. -/
def leaveRegion (t u : Thread) : Thread := if t.inrgn && t.depth ≤ t.rgnwd.toNat then endRegion u else u

theorem leaveRegion_eq (hin : u.inrgn = t.inrgn) (hr : u.restarts = t.restarts) : leaveRegion t u =
    { u with inrgn := if t.inrgn && t.depth ≤ t.rgnwd.toNat then false else t.inrgn,
             restarts := if t.inrgn && t.depth ≤ t.rgnwd.toNat then 0 else t.restarts } := by
  unfold leaveRegion
  split
  · rfl
  · rw [← hin, ← hr]

section
variable (h : Issues s t) (hrb : t.rb = []) (htw : t.inrgn = true → t.twin = none)
include h hrb htw

/-- With no result outstanding, and no pair that leaves its region, RET does what the window answers. -/
theorem exec_ret : exec (.ret sm) s = .next (match popFrame s t with
    | .trap sub => s.fault t (infoOf 8 sub t.spillp.toNat 0) 0
    | .ok s1 u =>
      match if t.res = 1 then s.frameStall t (t.spillp.toNat - 128) false else none with
      | some w => s.park t w
      | none =>
        if 1 < t.res then s1.doneAt (leaveRegion t u) (t.rd (.main 23)) sm []
        else (s1.doneAt (leaveRegion t u) (t.rd (.main 23)) false []).thenPark t.ref (.fill (s.now + 12) sm)) := by
  refine (onCur_issues h _).trans (congrArg Host.Outcome.next ?_)
  simp only
  rw [if_neg (by simp [Thread.pending, hrb]), if_neg]
  · rfl
  · cases hin : t.inrgn with
    | false => simp
    | true => simp [htw hin]

theorem exec_ret_trap (hp : popFrame s t = .trap sub) : exec (.ret sm) s = .next (s.fault t (infoOf 8 sub t.spillp.toNat 0) 0) := by
  rw [exec_ret h hrb htw, hp]

theorem exec_ret_resident (hd : t.depth ≠ 0) (hres : 1 < t.res) :
    exec (.ret sm) s = .next (s.doneAt (leaveRegion t t.popped) (t.rd (.main 23)) sm []) := by
  have hne : ¬t.res = 1 := by omega
  rw [exec_ret h hrb htw, popFrame_resident hd hres]
  simp only [hne, hres, if_false, if_true]

theorem exec_ret_fills (hd : t.depth ≠ 0) (hres : t.res = 1) (hp : 128 ≤ t.spillp.toNat) (hs1 : t.spillp.toNat ≤ s.s1Bytes t.ltag)
    (hstall : s.frameStall t (t.spillp.toNat - 128) false = none) :
    exec (.ret sm) s = .next (((s.fill t (t.spillp.toNat - 128)).1.doneAt (leaveRegion t (t.slidDown s)) (t.rd (.main 23)) false []).thenPark
      t.ref (.fill (s.now + 12) sm)) := by
  rw [exec_ret h hrb htw, popFrame_fills hd hres hp hs1]
  simp only [hres, hstall, if_true, Nat.lt_irrefl, if_false]

end
end State

/-- Settles O7: by what the window answers to a push or a pop, a frame free or resident, one to spill or to fill, or a trap. -/
theorem callsAndReturns : Obligations.CallsAndReturns := by
  refine ⟨?push, ?spill, ?pop, ?fill, fun t hi vs i => t.rd_fillHalf hi vs i, ?traps⟩
  case push =>
    intro s t sm off a h hrb hres hd b
    exact ⟨State.computesIn_call hrb (State.exec_call h off) hd.ne hres, State.computesIn_call hrb (State.exec_callr h a) hd.ne hres, t.rd_pushed⟩
  case spill =>
    intro s t sm off a i target h hrb hres hd hlim hs1 hstall hform u f
    have hi : exec i s = .next (s.callTo t target sm) := by
      rcases hform with ⟨rfl, rfl⟩ | ⟨rfl, rfl⟩
      · exact State.exec_call h off
      · exact State.exec_callr h a
    obtain ⟨w, hwrote, hexec⟩ := State.spills_call hrb hi hd.ne hres hlim hs1 hstall
    exact ⟨t.slidUp s, w, hwrote, hexec, rfl, rfl, rfl, rfl, rfl, fun pa hpa hi => s.spill_due t hpa hi⟩
  case pop =>
    intro s t sm h hrb hres hd htw ends b
    obtain ⟨w, hw, hstep⟩ := doneAt_ended s (State.leaveRegion t t.popped) (t.rd (.main 23)) sm []
    rw [State.leaveRegion_eq (t := t) (u := t.popped) rfl rfl] at hw hstep
    have hkept : TwinKept b { b with twin := t.popped.twin } := twinKept_keep rfl
    refine ⟨⟨w, ?_, stepped_of_twinKept hstep rfl hkept⟩, rfl, fun i hi => t.rd_ka (w := b) rfl rfl hi⟩
    rw [State.exec_ret_resident h hrb htw hd hres, State.leaveRegion_eq (t := t) (u := t.popped) rfl rfl, hw]
    exact congrArg Host.Outcome.next (ended_of_twinKept s w sm hkept)
  case fill =>
    intro s t sm h hrb hres hd htw hp hs1 hstall off u
    obtain ⟨w, hw, hstep⟩ := doneAt_ended u (State.leaveRegion t (t.slidDown s)) (t.rd (.main 23)) false []
    refine ⟨State.leaveRegion t (t.slidDown s), w, hstep, ?_, ?_⟩
    · rw [State.exec_ret_fills h hrb htw hd hres hp hs1 hstall, hw]
      rfl
    · rw [State.leaveRegion_eq (t := t) (u := t.slidDown s) rfl rfl]
      exact ⟨rfl, rfl, rfl, rfl, rfl, rfl, fun pa hpa hi => s.fill_due t hpa hi⟩
  case traps =>
    intro s t sm off a h hrb traps
    have calls {sub : Nat} (hp : pushFrame s t true = .trap sub) : traps (.call sm off) sub ∧ traps (.callr sm a) sub :=
      ⟨(State.exec_call h off).trans (congrArg Host.Outcome.next (State.callTo_trap hrb hp)),
        (State.exec_callr h a).trans (congrArg Host.Outcome.next (State.callTo_trap hrb hp))⟩
    have returns {sub : Nat} (hin : t.inrgn = false) (hp : popFrame s t = .trap sub) : traps (.ret sm) sub :=
      State.exec_ret_trap h hrb (fun hin' => by simp [hin] at hin') hp
    exact ⟨fun hd => calls (pushFrame_deepest hd), fun hd hres hfull => calls (pushFrame_full hd.ne hres (hfull.imp_left fun hl => ⟨rfl, hl⟩)),
      fun hin hd => returns hin (popFrame_bottom hd), fun hin hd hres he => returns hin (popFrame_empty hd hres he)⟩

end Sys2Proof.Machine
end

section
/-! SUPPORT. Trap entry (R64, R70, R315) by what the window answers to its push, and traps that are taken at once (R45); and the statement about
them, O13. -/

namespace Sys2Proof.Machine

open Sys2Proof.Claims (Issues TwinKept put)

/-! ## Registers that trap entry mends (R395) -/

/-- `w` is `t` but for parity errors, and for registers of its own that its twin has lost. -/
def Thread.Remarked (t w : Thread) : Prop := TwinKept t w ∧ w = { t with par := w.par, twin := w.twin }

namespace Thread

theorem Remarked.trans {t v w : Thread} (h : Remarked t v) (h' : Remarked v w) : Remarked t w :=
  ⟨twinKept_trans h.1 h'.1, h'.2.trans (by rw [h.2])⟩

theorem remarked_mend (t : Thread) (g : DebugReg) : Remarked t (t.mend g) := ⟨twinKept_both t g, rfl⟩

theorem remarked_mendTrap (t : Thread) : Remarked t t.mendTrap :=
  (((remarked_mend t _).trans (remarked_mend ..)).trans (remarked_mend ..)).trans (remarked_mend ..)

end Thread

/-- Parity errors stay in every register but those that trap entry writes. -/
theorem Thread.mem_par_mendTrap {t : Thread} {g : DebugReg} :
    g ∈ t.mendTrap.par ↔ g ∈ t.par ∧ g ∉ ([.special 0x0B, .special 0x0C, .special 0x0D, .special 0x0E] : List DebugReg) := by
  simp only [mendTrap, mend, both, List.mem_filter, bne_iff_ne, ne_eq, List.mem_cons, List.not_mem_nil, or_false, not_or, and_assoc]

namespace State
variable {s : State} {t : Thread} {r : TrapReq}

/-! ## The entry -/

theorem trapEntry_no_handler (hv : t.trapvec = 0) : (s.trapEntry t r).thread? t.unit t.slot = none := by
  rw [trapEntry, if_pos hv]
  exact thread?_endThread _

/-- The thread in the handler: `t` before the entry, and `v` with a frame pushed. -/
def entered (s : State) (t v : Thread) (r : TrapReq) : Thread :=
  { v.mendTrap with trappc := r.pc &&& ~~~3, traplat := t.lat, trapSkip := t.skipc, skipc := 0, trapinfo := r.info, trapWin := t.res == 12,
                    pc := t.trapvec, st := .ready, after := .go, fetched := [], eligRound := max t.eligRound (s.round + 1) }

theorem entered_eq (s : State) (t v : Thread) (r : TrapReq) : s.entered t v r =
    { v with par := v.mendTrap.par, twin := v.mendTrap.twin, trappc := r.pc &&& ~~~3, traplat := t.lat, trapSkip := t.skipc, skipc := 0,
             trapinfo := r.info, trapWin := t.res == 12, pc := t.trapvec, st := .ready, after := .go, fetched := [],
             eligRound := max t.eligRound (s.round + 1) } := by
  rw [entered, v.remarked_mendTrap.2]

section
variable (hv : t.trapvec ≠ 0)
include hv

theorem trapEntry_winexh {sub : Nat} (hp : pushFrame s t false = .trap sub) : s.trapEntry t r = s.winexh t t.pc := by
  rw [trapEntry, if_neg hv, hp]

theorem trapEntry_free (hd : t.depth ≠ 65535) (hres : t.res < 12) : s.trapEntry t r = s.setThread (s.entered t t.pushed r) := by
  have hne : ¬t.res = 12 := by omega
  rw [trapEntry, if_neg hv, pushFrame_free hd hres]
  simp only [hne, if_false]
  rfl

theorem trapEntry_spills (hd : t.depth ≠ 65535) (hres : t.res = 12) (hs1 : t.spillp.toNat + 128 ≤ s.s1Bytes t.ltag)
    (hstall : s.frameStall t t.spillp.toNat true = none) :
    s.trapEntry t r = (s.spill t t.spillp.toNat).1.park (s.entered t (t.slidUp s) r) .accepted := by
  rw [trapEntry, if_neg hv, pushFrame_spills hd hres (fun h => absurd h Bool.false_ne_true) hs1]
  simp only [hres, if_true, hstall]
  rw [entered, hres]

end

theorem entryPsn_free (hp : t.parity (.special 0x0A) = none) (hres : t.res < 12) : entryPsn t = none := by
  rw [entryPsn, hp, if_neg (by omega)]
  rfl

theorem commitAll_nil (h : t.rb = []) : commitAll t = (t, t.mirrFail.map fun p => ⟨p, 0, 0⟩) := by
  have hsame : { t with rb := [] } = t := by rw [← h]
  have hnone : commitEntries t t.rb = (t, none) := by rw [h]; rfl
  rw [commitAll_eq, hnone, Option.none_or, hsame]

/-! ## Traps of a thread that waits for nothing (R45) -/

/-- With a result or an access outstanding, the thread parks and takes the trap later. -/
theorem raise_parks (h : t.complete = false) : s.raise t r = put { s with nextId := s.nextId + 1 }
    { t with after := .trap r, st := .parked .switch, parkSeq := s.nextId } := switchPoint_parks s (t := { t with after := .trap r }) h

/-- With nothing outstanding and nothing buffered, the trap is taken at once. -/
theorem raise_enters (hrb : t.rb = []) (hout : t.out = []) (hfl : t.flushing = []) (hm : t.mirrFail = none) (hp : entryPsn t = none) :
    s.raise t r = s.trapEntry { t with after := .trap r } r := by
  have hall : commitAll { t with after := .trap r } = ({ t with after := .trap r }, none) := by
    rw [commitAll_nil (t := { t with after := .trap r }) hrb]
    exact congrArg _ (congrArg _ hm)
  have hp' : entryPsn { t with after := .trap r } = none := hp
  rw [raise, switchPoint_settles _ (by simp [Thread.complete, hrb, hout, hfl])]
  simp only [settle, hall, hp']

/-- TRAP completes, and its trap is that of the next instruction (R315, R317). -/
theorem exec_trap (h : Issues s t) (sm : Bool) (code : BitVec 8) :
    exec (.trap sm code) s = .next (s.raise (t.retire t.pc [] 0) ⟨wd (0x0A + code.toNat * 2 ^ 24), 0, t.pc + 4⟩) :=
  (onCur_issues h _).trans (by simp only [infoOf, Nat.zero_mul, Nat.add_zero])

/-- A thread whose instruction has completed takes a trap at once, into a free frame. -/
theorem raise_retire_free {next : Word} {vs : List Word} {up : Word} (hrb : t.rb = []) (hout : t.out = []) (hfl : t.flushing = [])
    (hm : t.mirrFail = none) (hp : t.parity (.special 0x0A) = none) (hv : t.trapvec ≠ 0) (hres : t.res < 12) (hd : t.depth ≠ 65535) :
    let w := { t.retire next vs up with after := .trap r }
    s.raise (t.retire next vs up) r = s.setThread (s.entered w w.pushed r) := by
  have hparity : (t.retire next vs up).parity (.special 0x0A) = none := by rwa [Thread.parity, Thread.retire_par]
  have hsame : (t.retire next vs up).res = t.res := by rw [Thread.res, Thread.retire_frames, Thread.res]
  rw [raise_enters (by rwa [Thread.retire_rb]) (by rwa [Thread.retire_out]) (by rwa [Thread.retire_flushing]) (by rwa [Thread.retire_mirrFail])
    (entryPsn_free hparity (hsame ▸ hres))]
  exact trapEntry_free (t := { t.retire next vs up with after := .trap r }) (by simpa using hv) (by simpa using hd) (hsame ▸ hres)

end State

/-- Settles O13: the entry by what the push of its frame answers; a fault and TRAP by what the thread waits for. -/
theorem trapsAreTaken : Obligations.TrapsAreTaken := by
  refine ⟨?entry, fun s t info va => ⟨State.raise_parks, State.raise_enters⟩, ?trap⟩
  case entry =>
    intro s t r mended
    refine ⟨State.trapEntry_no_handler, fun hv hres hd => ?_, fun hv hfull => ?_, fun hv hres hd hs1 hstall => ?_⟩
    · refine ⟨t.pushed.mendTrap, t.pushed.remarked_mendTrap.1, fun g => t.pushed.mem_par_mendTrap, (State.trapEntry_free hv hd.ne hres).trans ?_⟩
      rw [State.entered_eq, beq_false_of_ne (show t.res ≠ 12 by omega)]
      rfl
    · by_cases hd : t.depth = 65535
      · exact State.trapEntry_winexh hv (pushFrame_deepest hd)
      · obtain ⟨hres, hs1⟩ := hfull.resolve_left hd
        exact State.trapEntry_winexh hv (pushFrame_full hd hres (.inr hs1))
    · refine ⟨_, State.trapEntry_spills hv hd.ne hres hs1 hstall, ?_⟩
      rw [State.entered_eq, hres]
      exact ⟨rfl, rfl, rfl, rfl, rfl, rfl, fun g => (t.slidUp s).mem_par_mendTrap, rfl, rfl, rfl, rfl⟩
  case trap =>
    intro s t sm code h hrb hout hfl hm hp hv hres hd
    let u : Thread := { t.retire t.pc [] 0 with after := .trap ⟨wd (0x0A + code.toNat * 2 ^ 24), 0, t.pc + 4⟩ }
    have hstep := stepped_retire t t.pc [] 0
    refine ⟨_, u.pushed.mendTrap, hstep, twinKept_trans hstep.1.2.2 u.pushed.remarked_mendTrap.1, (State.exec_trap h sm code).trans ?_⟩
    have hres' : u.res ≠ 12 := by simp only [u, Thread.res, Thread.retire_frames]; exact hres.ne
    rw [State.raise_retire_free hrb hout hfl hm hp hv hres hd.ne, State.entered_eq, beq_false_of_ne hres']
    simp only [Thread.pushed, Thread.retire_lat, Thread.retire_skipc, Thread.retire_trapvec, Thread.retire_frames, Thread.retire_depth,
      Thread.retire_eligRound]
    rfl

end Sys2Proof.Machine
end

section
/-! The statement about returns from traps, annulment and the overflows that await an issue, O14. -/

namespace Sys2Proof.Machine

open Sys2Proof.Claims (Issues)

namespace State
variable {s : State} {t : Thread} {sm : Bool}

/-! ## ERET (R64, R316) -/

/-- The thread that goes on where the trap was taken: `t` in the handler, and `v` with its frame popped. -/
def resumed (t v : Thread) : Thread := { v.mend (.operand .lat) with pc := t.trappc, lat := t.traplat, skipc := t.trapSkip }

theorem trapReturn_resident (hd : t.depth ≠ 0) (hres : 1 < t.res) : s.trapReturn t = s.setThread (resumed t t.popped) := by
  rw [trapReturn, popFrame_resident hd hres]
  exact if_pos hres

theorem trapReturn_fills (hd : t.depth ≠ 0) (hres : t.res = 1) (hp : 128 ≤ t.spillp.toNat) (hs1 : t.spillp.toNat ≤ s.s1Bytes t.ltag) :
    s.trapReturn t = (s.fill t (t.spillp.toNat - 128)).1.park (resumed t (t.slidDown s)) (.fill (s.now + 12) false) := by
  rw [trapReturn, popFrame_fills hd hres hp hs1]
  exact if_neg (by omega)

/-- With no result outstanding, and nothing that holds a fill, ERET returns from the trap. -/
theorem exec_eret (h : Issues s t) (hrb : t.rb = []) (hstall : t.res = 1 → s.frameStall t (t.spillp.toNat - 128) false = none) :
    exec (.eret sm) s = .next (s.trapReturn (t.retire t.pc [] 0)) := by
  refine (onCur_issues h _).trans (congrArg Host.Outcome.next ?_)
  rw [if_neg (by simp [Thread.pending, hrb])]
  split
  · rename_i w hw
    split at hw
    · rename_i hfill
      simp only [Bool.and_eq_true, decide_eq_true_eq] at hfill
      simp [hstall hfill.1.1.1] at hw
    · simp at hw
  · rfl

/-! ## Annulment and overflows (R253, R386) -/

theorem exec_annulment (h : Issues s t) {w : W32} {r : List W32} (hf : s.fetch t = .words (w :: r)) :
    exec .annulment s = .next (s.annul t w) := by
  refine (onCur_issues h _).trans ?_
  simp only [hf]

/-- The overflow that names the lowest semaphore, of those from `x` on. -/
def lowest (x : BitVec 3 × Nat) (r : List (BitVec 3 × Nat)) : BitVec 3 × Nat :=
  r.foldl (fun m e => if e.1.toNat < m.1.toNat then e else m) x

theorem lowest_spec (x : BitVec 3 × Nat) (r : List (BitVec 3 × Nat)) :
    lowest x r ∈ x :: r ∧ ∀ e ∈ x :: r, (lowest x r).1.toNat ≤ e.1.toNat := by
  induction r generalizing x with
  | nil => simp [lowest]
  | cons y r ih =>
    by_cases h : y.1.toNat < x.1.toNat
    · have hstep : lowest x (y :: r) = lowest y r := congrArg (List.foldl _ · r) (if_pos h)
      obtain ⟨hmem, hle⟩ := ih y
      have hy := hle y List.mem_cons_self
      rw [hstep]
      exact ⟨List.mem_cons_of_mem _ hmem, List.forall_mem_cons.2 ⟨by omega, hle⟩⟩
    · have hstep : lowest x (y :: r) = lowest x r := congrArg (List.foldl _ · r) (if_neg h)
      obtain ⟨hmem, hle⟩ := ih x
      obtain ⟨hx, hr⟩ := List.forall_mem_cons.1 hle
      rw [hstep]
      exact ⟨List.mem_cons.2 ((List.mem_cons.1 hmem).imp_right (List.mem_cons_of_mem _)),
        List.forall_mem_cons.2 ⟨hx, List.forall_mem_cons.2 ⟨by omega, hr⟩⟩⟩

theorem exec_asyncTrap (h : Issues s t) {x : BitVec 3 × Nat} {r : List (BitVec 3 × Nat)} (ha : t.async = x :: r) :
    exec .asyncTrap s = .next (s.fault { t with async := [] } (infoOf 9 (lowest x r).1.toNat (lowest x r).2 0) 0) := by
  refine (onCur_issues h _).trans ?_
  simp only [ha]
  rfl

end State

/-- Settles O14: ERET by where the caller's frame lies, an annulment by its marker, the overflows by the lowest of them. -/
theorem eretAnnulmentAndAsyncTraps : Obligations.EretAnnulmentAndAsyncTraps := by
  refine ⟨fun s t sm h hrb hres hd => ?_, fun s t sm h hrb hres hd hp hs1 hstall => ?_, fun s t w r h hskip hf => ?_, fun s t h ha => ?_⟩
  · have hstep := stepped_retire t t.pc [] 0
    have hkept := twinKept_trans hstep.1.2.2 (twinKept_trans (t.retire t.pc [] 0).twinKept_popped (twinKept_both _ (.operand .lat)))
    refine ⟨_, _, hstep, hkept, (State.exec_eret h hrb fun h1 => absurd h1 hres.ne').trans ?_⟩
    rw [State.trapReturn_resident (by simpa using hd) (by simpa [Thread.res] using hres), State.resumed]
    simp only [Thread.popped, Thread.mend, Thread.both, Thread.retire_trappc, Thread.retire_traplat, Thread.retire_trapSkip,
      Thread.retire_frames, Thread.retire_depth, Thread.retire_psn, Thread.retire_par]
    rfl
  · intro off u
    have hreturn : s.trapReturn (t.retire t.pc [] 0) =
        u.park (State.resumed (t.retire t.pc [] 0) ((t.retire t.pc [] 0).slidDown s)) (.fill (s.now + 12) false) := by
      rw [State.trapReturn_fills (by simpa using hd) (by simpa [Thread.res] using hres) (by simpa using hp) (by simpa using hs1),
        Thread.retire_spillp, State.fill_retire]
    refine ⟨_, (State.exec_eret h hrb fun _ => hstall).trans (congrArg Host.Outcome.next hreturn), ?_⟩
    have hpc := t.retire_trappc t.pc [] 0
    have hlat := t.retire_traplat t.pc [] 0
    have hskip := t.retire_trapSkip t.pc [] 0
    have hdepth := t.retire_depth t.pc [] 0
    have hspillp := t.retire_spillp t.pc [] 0
    have hk := t.retire_k t.pc [] 0
    have ha := t.retire_a t.pc [] 0
    generalize t.retire t.pc [] 0 = w at *
    exact ⟨hpc, hlat, hskip, rfl, congrArg (· - 1) hdepth, congrArg (· - 128) hspillp, hk, ha, fun pa hpa hi => s.fill_due t hpa hi⟩
  · exact State.exec_annulment h hf
  · cases hl : t.async with
    | nil => exact absurd hl ha
    | cons x r =>
      obtain ⟨hmem, hle⟩ := State.lowest_spec x r
      exact ⟨_, _, hmem, hle, State.exec_asyncTrap h hl⟩

end Sys2Proof.Machine
end

section
/-! The statement about special registers, O15: MFS and MTS by who may name and write a register (R69, R318). -/

namespace Sys2Proof.Machine

open Sys2Proof.Claims (Issues Faults Completes Computes TwinKept)

/-! ## Who may name and write a special register (R69) -/

theorem specialAcc_service (svc : Bool) {n : Nat} (h : n = 0x40 ∨ n = 0x41) : specialAcc svc n = if svc then .rw else .privilege := by
  rcases h with rfl | rfl <;> rfl

theorem specialAcc_absent (svc : Bool) {n : Nat} (h : (0x14 ≤ n ∧ n ≤ 0x17) ∨ (0x20 ≤ n ∧ n ≠ 0x40 ∧ n ≠ 0x41)) : specialAcc svc n = .illegal := by
  rw [specialAcc, if_neg (by simp; omega), if_neg (by simp; omega), if_neg (by simp; omega)]

theorem specialAcc_not_written (svc : Bool) {n : Nat} (h : n < 4 ∨ n = 5 ∨ (0x0F ≤ n ∧ n < 0x40) ∨ 0x41 < n) :
    specialAcc svc n = .illegal ∨ specialAcc svc n = .ro := by
  rw [specialAcc, if_neg (by simp; omega), if_neg (by simp; omega)]
  split
  · exact .inr rfl
  · exact .inl rfl

/-! ## What a write of a special register leaves -/

section
variable (t : Thread) (now n : Nat) (v : Word)

theorem Thread.setSpecial_pc : (t.setSpecial now n v).pc = t.pc := by
  unfold setSpecial
  split <;> rfl

theorem Thread.setSpecial_par : (t.setSpecial now n v).par = t.par := by
  unfold setSpecial
  split <;> rfl

theorem Thread.setSpecial_twin : (t.setSpecial now n v).twin = t.twin := by
  unfold setSpecial
  split <;> rfl

end

namespace State
variable {s : State} {t u : Thread} {sm : Bool} {n : BitVec 7} {a d : Operand}

/-- TRAPINFO of a register of the service level that is named below it (R69). -/
theorem privilege_info (n : Nat) : infoOf 2 0 n 0 = wd (2 + n * 2 ^ 24) := by simp only [infoOf, Nat.zero_mul, Nat.add_zero]

/-! ## MFS -/

theorem special_sem (s : State) (t : Thread) (i : BitVec 3) : s.special t (0x18 + i.toNat) = (vget t.sems i).setWidth 64 := by
  have h : ∀ j : Fin 8, s.special t (0x18 + j.val) = (vget t.sems (.ofFin j)).setWidth 64 := by
    intro j
    fin_cases j <;> rfl
  exact h i.toFin

section
variable (h : Issues s t)
include h

theorem mfs_reads {k : Nat} {v : Word} (hacc : specialAcc t.svc k = .ro ∨ specialAcc t.svc k = .rw) (hv : s.special t k = v) (hn : n.toNat = k) :
    Computes (.mfs sm n d) s t sm d v (t.pc + 4) := by
  subst hn hv
  refine computes_of_aluDone (words := 1) ((onCur_issues h _).trans ?_)
  rcases hacc with hacc | hacc <;> rw [hacc]

theorem mfs_privilege (hacc : specialAcc t.svc n.toNat = .privilege) : Faults (.mfs sm n d) s t (wd (2 + n.toNat * 2 ^ 24)) 0 := by
  refine (onCur_issues h _).trans ?_
  rw [hacc, ← privilege_info]

theorem mfs_illegal (hacc : specialAcc t.svc n.toNat = .illegal) : Faults (.mfs sm n d) s t (infoOf 1 3 0 0) 0 := by
  refine (onCur_issues h _).trans ?_
  rw [hacc]
  rfl

/-! ## MTS -/

/-- MTS of a thread's register writes its fields, which mends it, and completes. -/
theorem mts_writes {k : Nat} (hacc : specialAcc t.svc k = .rw) (hk : k < 0x40) (hu : t.setSpecial s.now k (t.rd a) = u) (hn : n.toNat = k) :
    Completes (.mts sm n a) s s { u with par := t.par.filter (· != .special n) } sm (t.pc + 4) := by
  subst hn hu
  have hpc := t.setSpecial_pc s.now n.toNat (t.rd a)
  have hpar := t.setSpecial_par s.now n.toNat (t.rd a)
  have hexec : exec (.mts sm n a) s = .next (s.done ((t.setSpecial s.now n.toNat (t.rd a)).mend (.special n)) 1 sm []) := by
    refine (onCur_issues h _).trans ?_
    rw [hacc]
    simp only [if_neg (show ¬0x40 ≤ n.toNat by omega)]
  obtain ⟨w, hw, hstep⟩ := completes_of_done hexec
  have hkept : TwinKept { t.setSpecial s.now n.toNat (t.rd a) with par := (t.setSpecial s.now n.toNat (t.rd a)).par.filter (· != .special n) }
      ((t.setSpecial s.now n.toNat (t.rd a)).mend (.special n)) := twinKept_both _ _
  rw [← hpc, ← hpar]
  exact ⟨w, hw.trans (congrArg Host.Outcome.next (ended_of_twinKept s w sm hkept)), stepped_of_twinKept hstep rfl hkept⟩

/-- MTS of AGESTEP or SCHCFG writes the unit's register, and completes. -/
theorem mts_writes_unit {f : UnitSt → UnitSt} (hacc : specialAcc t.svc n.toNat = .rw) (hn : 0x40 ≤ n.toNat)
    (hf : ∀ x : UnitSt, x.setSpecial n.toNat (t.rd a) = f x) : Completes (.mts sm n a) s (s.onUnit t.unit f) t sm (t.pc + 4) := by
  refine completes_of_done (words := 1) (vs := []) ((onCur_issues h _).trans ?_)
  rw [hacc]
  simp only [if_pos hn, hf]

theorem mts_privilege (hacc : specialAcc t.svc n.toNat = .privilege) : Faults (.mts sm n a) s t (wd (2 + n.toNat * 2 ^ 24)) 0 := by
  refine (onCur_issues h _).trans ?_
  rw [hacc, ← privilege_info]

theorem mts_illegal (hacc : specialAcc t.svc n.toNat = .illegal ∨ specialAcc t.svc n.toNat = .ro) : Faults (.mts sm n a) s t (infoOf 1 3 0 0) 0 := by
  refine (onCur_issues h _).trans ?_
  rcases hacc with hacc | hacc <;> rw [hacc] <;> rfl

end

/-- A write of TSTAT in a cycle in which no post has set a bit of SEMERR clears the bits that it names (R9, R71). -/
theorem setSpecial_tstat {now : Nat} {v : Word} (hat : t.semerrAt.1 ≠ now) : t.setSpecial now 0x09 v =
    { t with eng := v.setWidth 8, engAt := 0, semerr := t.semerr &&& ~~~(v.extractLsb' 16 8) } := by
  show t.setTstat now v = _
  have hones : ~~~(0 : Byte) = BitVec.allOnes 8 := rfl
  simp only [Thread.setTstat, if_neg hat, hones, BitVec.and_allOnes]

end State

theorem UnitSt.setSpecial_ageStep (x : UnitSt) {v : Word} (hv : bits v 0 16 ≠ 0) : x.setSpecial 0x40 v = { x with ageStep := bits v 0 16 } := by
  rw [setSpecial, if_pos rfl, if_neg hv]

theorem UnitSt.setSpecial_slotMax (x : UnitSt) {v : Word} (hv : bits v 0 9 ≠ 0) (hv' : bits v 0 9 ≤ 256) :
    x.setSpecial 0x41 v = { x with slotMax := bits v 0 9 } := by
  rw [setSpecial, if_neg (by decide), if_neg (by simp [hv, hv'])]

/-- Settles O15: each register by its number, with its value and its writable fields as the model's tables have them. -/
theorem specialRegisters : Obligations.SpecialRegisters := by
  refine ⟨?mfs, ?mts⟩
  case mfs =>
    intro s t sm n d h reads
    have fixed {k : Nat} {v : Word} (hacc : specialAcc t.svc k = .ro) (hv : s.special t k = v) : reads k v := State.mfs_reads h (.inl hacc) hv
    have writable {k : Nat} {v : Word} (hacc : specialAcc t.svc k = .rw) (hv : s.special t k = v) : reads k v := State.mfs_reads h (.inr hacc) hv
    have hsem : ∀ (b : Bool) (i : BitVec 3), specialAcc b (0x18 + i.toNat) = .ro := by decide
    refine ⟨fixed rfl rfl, fixed rfl rfl, fixed rfl rfl, fixed rfl rfl, writable rfl rfl, fixed rfl rfl, writable rfl rfl, writable rfl rfl,
      writable rfl rfl, writable rfl rfl, writable rfl rfl, writable rfl rfl, writable rfl rfl, writable rfl rfl, writable rfl rfl,
      fixed rfl rfl, fixed rfl rfl, fixed rfl rfl, fixed rfl rfl, fixed rfl rfl,
      fun i => fixed (hsem _ i) (s.special_sem t i), fun hsvc => ⟨writable ?_ rfl, writable ?_ rfl⟩, fun hsvc hn => State.mfs_privilege h ?_,
      fun hn => State.mfs_illegal h (specialAcc_absent _ hn)⟩
    · rw [specialAcc_service _ (.inl rfl), if_pos hsvc]
    · rw [specialAcc_service _ (.inr rfl), if_pos hsvc]
    · rw [specialAcc_service _ hn, hsvc]; rfl
  case mts =>
    intro s t sm n a h v writes
    have thread {k : Nat} {u : Thread} (hacc : specialAcc t.svc k = .rw) (hu : t.setSpecial s.now k v = u) (hk : k < 0x40 := by decide) :
        writes k u := State.mts_writes h hacc hk hu
    refine ⟨thread rfl rfl, thread rfl rfl, thread rfl rfl, thread rfl rfl, fun hat => thread rfl (State.setSpecial_tstat hat),
      thread rfl rfl, thread rfl rfl, thread rfl rfl, thread rfl rfl, thread rfl rfl, fun hsvc hn hv => ?_,
      fun hsvc hn hv hv' => ?_, fun hsvc hn => State.mts_privilege h ?_, fun hn => State.mts_illegal h (specialAcc_not_written _ hn)⟩
    · refine State.mts_writes_unit h ?_ hn.ge fun x => hn ▸ x.setSpecial_ageStep hv
      rw [specialAcc_service _ (.inl hn), if_pos hsvc]
    · refine State.mts_writes_unit h ?_ (by omega) fun x => hn ▸ x.setSpecial_slotMax hv hv'
      rw [specialAcc_service _ (.inr hn), if_pos hsvc]
    · rw [specialAcc_service _ hn, hsvc]; rfl

end Sys2Proof.Machine
end

section
/-! SUPPORT. Registers written in the primary of a pair alone (R76, R320): the thread but for its twin, and the register that the twin keeps. -/

namespace Sys2Proof.Machine

namespace Thread

/-- What is written in the primary alone changes the twin alone beside it. -/
theorem primaryOnly_eq (t : Thread) (g : DebugReg) (u : Thread) : t.primaryOnly g u = { u with twin := (t.primaryOnly g u).twin } := by
  unfold primaryOnly
  dsimp only
  split <;> rfl

/-- A thread alone gets no twin. -/
theorem primaryOnly_unpaired {t : Thread} (g : DebugReg) (u : Thread) (h : t.twin = none) : t.primaryOnly g u = u := by
  unfold primaryOnly
  simp only [h]

theorem rd_primaryOnly (t : Thread) (g : DebugReg) (u : Thread) (o : Operand) : (t.primaryOnly g u).rd o = u.rd o := by
  rw [t.primaryOnly_eq g u]
  cases o <;> rfl

/-! ## The queue registers among the registers by number -/

/-- Numbering values from `b` on lists each under its place. -/
def numbered (b : Nat) (vs : List Word) : List (Nat × Word) := vs.zipIdx.map fun (v, i) => (b + i, v)

theorem lt_of_mem_numbered {b : Nat} {vs : List Word} {e : Nat × Word} (h : e ∈ numbered b vs) : b ≤ e.1 ∧ e.1 < b + vs.length := by
  obtain ⟨⟨v, i⟩, hx, rfl⟩ := List.mem_map.1 h
  have hi := (List.mem_zipIdx hx).2.1
  exact ⟨Nat.le_add_right .., by simp only; omega⟩

theorem find?_numbered_none {b k : Nat} {vs : List Word} (h : k < b ∨ b + vs.length ≤ k) : (numbered b vs).find? (fun e => e.1 == k) = none := by
  refine List.find?_eq_none.2 fun e he => ?_
  have hlt := lt_of_mem_numbered he
  simp only [beq_iff_eq]
  omega

theorem find?_numbered_some {b i : Nat} {vs : List Word} (h : i < vs.length) :
    (numbered b vs).find? (fun e => e.1 == b + i) = some (b + i, vs[i]) := by
  refine List.find?_eq_some_iff_getElem.2 ⟨beq_self_eq_true _, i, by simpa [numbered] using h, by simp [numbered], fun j hj => ?_⟩
  simp only [numbered, List.getElem_map, List.getElem_zipIdx, Nat.zero_add, Bool.not_eq_true', beq_eq_false_iff_ne]
  omega

/-- The registers of the frames, each under its number in the vault. -/
def numberedFrames (t : Thread) : List (Nat × Word) :=
  t.frames.zipIdx.flatMap fun (f, i) => numbered (16 + 16 * (t.depth - i)) (f.l.toList ++ f.o.toList)

theorem find?_numberedFrames_none (t : Thread) {k : Nat} (h : 32 + 16 * t.depth ≤ k) : t.numberedFrames.find? (fun e => e.1 == k) = none := by
  refine List.find?_eq_none.2 fun e he => ?_
  obtain ⟨x, -, hx⟩ := List.mem_flatMap.1 he
  have hlt := (lt_of_mem_numbered hx).2
  simp only [List.length_append, Vector.length_toList] at hlt
  simp only [beq_iff_eq]
  omega

theorem regList_eq (t : Thread) : t.regList = numbered 0 (t.k.toList ++ t.a.toList) ++ t.numberedFrames ++ numbered (2 ^ 32) (t.p.toList ++ [t.lat]) ++
    numbered (2 ^ 32 + 16) t.q.toList ++ numbered (2 ^ 32 + 24) (t.sems.toList.map (·.setWidth 64)) ++
    [(2 ^ 32 + 70, t.spillp), (2 ^ 32 + 71, t.spilllim)] ++ numbered (2 ^ 32 + 74) [t.trapvec, t.trappc, t.trapinfo, t.traplat] := rfl

/-- A queue register stands under its number: the registers of a window's depth have lower ones. -/
theorem regAt_q (t : Thread) (i : BitVec 2) (hd : t.depth < 65536) : t.regAt (2 ^ 32 + 16 + i.toNat) = some (nget t.q i.toNat 0) := by
  have hi := i.isLt
  have hka := find?_numbered_none (b := 0) (k := 2 ^ 32 + 16 + i.toNat) (vs := t.k.toList ++ t.a.toList) (by simp; omega)
  have hframes := t.find?_numberedFrames_none (k := 2 ^ 32 + 16 + i.toNat) (by omega)
  have hp := find?_numbered_none (b := 2 ^ 32) (k := 2 ^ 32 + 16 + i.toNat) (vs := t.p.toList ++ [t.lat]) (by simp; omega)
  have hq := find?_numbered_some (b := 2 ^ 32 + 16) (i := i.toNat) (vs := t.q.toList) (by simpa using hi)
  rw [regAt, regList_eq]
  simp only [List.find?_append, hka, hframes, hp, hq, Option.none_or, Option.some_or]
  simp [nget, hi]

/-- A queue register written in the primary alone: the twin has the value that it had, as one of its own where it differs. -/
theorem primaryOnly_q {t : Thread} {x : Twin} (i : BitVec 2) (u : Thread) (v : Word) (hx : t.twin = some x) (hd : t.depth < 65536)
    (hu : u.depth = t.depth) (huq : u.q = nset t.q i.toNat v) :
    let key := 2 ^ 32 + 16 + i.toNat
    let old := (mget x.own key).getD (nget t.q i.toNat 0)
    (t.primaryOnly (.q i) u).twin = some { x with own := if old = v then mdel x.own key else mset x.own key old } := by
  have hnew : u.regAt (2 ^ 32 + 16 + i.toNat) = some v := by
    rw [regAt_q u i (hu ▸ hd), huq, nget_nset _ _ _ _ _ i.isLt, if_pos rfl]
  unfold primaryOnly
  simp only [hx, canonReg, twinKey, regAt_q t i hd, hnew]
  rfl

/-- The registers of a twin's own after that write. -/
theorem mget_kept {m : Map Word} (key : Nat) (old v : Word) (hm : rising m = true) :
    mget (if old = v then mdel m key else mset m key old) key = (if old = v then none else some old) ∧
    ∀ k, k ≠ key → mget (if old = v then mdel m key else mset m key old) k = mget m k := by
  split
  · exact ⟨mget_mdel_self m key hm, fun k hk => mget_mdel_other m key k hk⟩
  · exact ⟨mget_mset_self m key old, fun k hk => mget_mset_other m key k old hk⟩

end Thread

end Sys2Proof.Machine
end

section
/-! The statement about the debugger, O37: each event by the state of its thread, and a write by its register. -/

namespace Sys2Proof.Machine

namespace State
variable {s : State} {r : ThreadRef} {t : Thread} {v : Word}

/-! ## DEBUG_HALT (R75) -/

/-- The thread as a halt leaves it, with what it waited for. -/
def haltedWith (t : Thread) (h : Option WaitFor) : Thread := { t with st := .halted, haltReq := false, held := h }

theorem localComplete_nil (hrb : t.rb = []) (hout : t.out = []) : localComplete t = true := by
  rw [localComplete, hrb, hout]
  rfl

theorem localComplete_out (hout : t.out ≠ []) : localComplete t = false := by
  simp [localComplete, hout]

theorem haltCommit_nil (hrb : t.rb = []) : haltCommit t = (t, none) := by
  have hsame : { t with rb := [] } = t := by rw [← hrb]
  have hnone : commitEntries t (t.rb.filter fun e => e.vals.isSome) = (t, none) := by rw [hrb]; rfl
  rw [haltCommit, hnone]
  simp only [hrb, List.filter_nil, hsame]

/-- A ready thread with nothing outstanding halts at its instruction boundary. -/
theorem tryHalt_ready (hst : t.st = .ready) (hrb : t.rb = []) (hout : t.out = []) : s.tryHalt t = s.setThread (haltedWith t none) := by
  unfold tryHalt
  simp only [hst, localComplete_nil hrb hout, haltCommit_nil hrb, if_true]
  rfl

/-- A parked thread with nothing outstanding halts, and what it waited for is kept. -/
theorem tryHalt_parked {w : WaitFor} (hst : t.st = .parked w) (hw : w ≠ .switch) (hrb : t.rb = []) (hout : t.out = []) :
    s.tryHalt t = s.setThread (haltedWith t (some w)) := by
  unfold tryHalt
  cases w with
  | switch => exact absurd rfl hw
  | _ =>
    simp only [hst, localComplete_nil hrb hout, haltCommit_nil hrb, if_true]
    rfl

/-- One with accesses outstanding does not stand at its boundary: a ready one parks, to halt at its switch point. -/
theorem tryHalt_ready_out (hst : t.st = .ready) (hout : t.out ≠ []) : s.tryHalt t = s.park t .switch := by
  unfold tryHalt
  simp only [hst, localComplete_out hout, Bool.false_eq_true, if_false]

theorem tryHalt_parked_out {w : WaitFor} (hst : t.st = .parked w) (hout : t.out ≠ []) : s.tryHalt t = s := by
  unfold tryHalt
  cases w <;> simp only [hst, localComplete_out hout, Bool.false_and, Bool.false_eq_true, if_false]

theorem tryHalt_halted (hst : t.st = .halted) : s.tryHalt t = s.setThread { t with haltReq := false } := by
  unfold tryHalt
  simp only [hst]

/-! ## DEBUG_RESUME and DEBUG_END (R75, R325) -/

/-- The thread as it goes on after a halt, in the state that it had. -/
def goneOn (s : State) (t : Thread) (st : TState) : Thread := { t with st := st, held := none, eligRound := max t.eligRound (s.round + 1) }

section
variable (hr : s.ref? r = some t)
include hr

theorem exec_debugHalt : exec (.debugHalt r) s = .next ((s.setThread { t with haltReq := true }).tryHalt { t with haltReq := true }) := by
  show Host.Outcome.next _ = _
  simp only [hr]

theorem exec_debugResume_ready (hst : t.st = .halted) (hh : t.held = none) : exec (.debugResume r) s = .next (s.setThread (s.goneOn t .ready)) := by
  show Host.Outcome.next _ = _
  simp only [hr, hst, hh]
  rfl

theorem exec_debugResume_parked {w : WaitFor} (hst : t.st = .halted) (hh : t.held = some w) (hw : w = .switch → t.complete = false) :
    exec (.debugResume r) s = .next (s.setThread (s.goneOn t (.parked w))) := by
  show Host.Outcome.next _ = _
  cases w with
  | switch =>
    simp only [hr, hst, hh, hw rfl, Bool.false_eq_true, if_false]
    rfl
  | _ =>
    simp only [hr, hst, hh]
    rfl

theorem exec_debugResume_running (hst : t.st ≠ .halted) : exec (.debugResume r) s = .next (s.setThread { t with haltReq := false }) := by
  show Host.Outcome.next _ = _
  simp only [hr]

theorem exec_debugEnd (hst : t.st = .halted) : exec (.debugEnd r) s = .next (s.endThread t) := by
  show Host.Outcome.next _ = _
  simp only [hr, hst]

/-! ## DEBUG_WRITE (R76) -/

/-- A register of the thread is written in the primary alone. -/
theorem exec_debugWrite_operand (o : Operand) : exec (.debugWrite r (.operand o) v) s =
    .next (s.setThread (t.primaryOnly (.operand o) { t.wr o v with rb := t.rb.map fun e => { e with dead := o :: e.dead } })) := by
  show Host.Outcome.next _ = _
  simp only [hr]

theorem exec_debugWrite_q (i : BitVec 2) : exec (.debugWrite r (.q i) v) s =
    .next (s.setThread (t.primaryOnly (.q i) ({ t with q := nset t.q i.toNat v }.mend (.q i)))) := by
  show Host.Outcome.next _ = _
  simp only [hr]

theorem exec_debugWrite_sem (i : BitVec 3) : exec (.debugWrite r (.sem i) v) s =
    .next (s.setThread (t.primaryOnly (.sem i) ({ t with sems := vset t.sems i (v.setWidth 16) }.mend (.sem i)))) := by
  show Host.Outcome.next _ = _
  simp only [hr]

theorem exec_debugWrite_special {n : BitVec 7} (hn : n.toNat < 0x40) : exec (.debugWrite r (.special n) v) s =
    .next (s.setThread (t.primaryOnly (.special n) ((t.setSpecial s.now n.toNat v).mend (.special n)))) := by
  show Host.Outcome.next _ = _
  simp only [hr, if_neg (show ¬0x40 ≤ n.toNat by omega)]

theorem exec_debugWrite_unit {n : BitVec 7} (hn : 0x40 ≤ n.toNat) : exec (.debugWrite r (.special n) v) s =
    .next (s.setUnit t.unit ((s.unit t.unit).setSpecial n.toNat v)) := by
  show Host.Outcome.next _ = _
  simp only [hr, if_pos hn]
  rfl

theorem exec_debugWrite_pc : exec (.debugWrite r .pc v) s = .next (s.setThread { t with pc := v }) := by
  show Host.Outcome.next _ = _
  simp only [hr]

end

/-- A register mended and written in the primary alone: the rest of the thread is `u`. -/
theorem primaryOnly_mend (t u : Thread) (g : DebugReg) :
    t.primaryOnly g (u.mend g) = { u with par := u.par.filter (· != g), twin := (t.primaryOnly g (u.mend g)).twin } ∧
    (t.twin = none → u.twin = t.twin → (t.primaryOnly g (u.mend g)).twin = none) := by
  refine ⟨t.primaryOnly_eq g (u.mend g), fun hn hu => ?_⟩
  rw [Thread.primaryOnly_unpaired g _ hn]
  exact (twinKept_both u g).1 (hu.trans hn)

end State

/-- Settles O37: each event by what its thread does and waits for; a write by the register that it names. -/
theorem debuggerEvents : Obligations.DebuggerEvents := by
  intro s r t v hr halted
  have hput (u : State) (w : Thread) (hunit : w.unit = t.unit) (hslot : w.slot = t.slot) : (u.setThread w).thread? t.unit t.slot = some w :=
    hunit ▸ hslot ▸ u.thread?_setThread_self w
  have hhalt {u : State} (h : (s.setThread { t with haltReq := true }).tryHalt { t with haltReq := true } = u) : exec (.debugHalt r) s = .next u :=
    (State.exec_debugHalt hr).trans (congrArg Host.Outcome.next h)
  refine ⟨fun hrb hout => ⟨fun hst => ?_, fun w hst hw => ?_⟩, fun hst hout => ?_, fun w hst hout => ?_, fun hst => ?_, fun hst hh => ?_,
    fun w hst hh hw => ?_, fun hst hh hc => ?_, fun hst => State.exec_debugResume_running hr hst, fun hst => ?_, fun o => ?_, ?_⟩
  · exact ⟨_, hhalt (State.tryHalt_ready hst hrb hout), hput _ _ rfl rfl⟩
  · exact ⟨_, hhalt (State.tryHalt_parked hst hw hrb hout), hput _ _ rfl rfl⟩
  · exact ⟨_, _, hhalt (State.tryHalt_ready_out hst hout), hput _ _ rfl rfl⟩
  · exact ⟨_, hhalt (State.tryHalt_parked_out hst hout), hput _ _ rfl rfl⟩
  · exact ⟨_, hhalt (State.tryHalt_halted hst), hput _ _ rfl rfl⟩
  · rw [State.exec_debugResume_ready hr hst hh, State.goneOn, ← hh]
    rfl
  · exact State.exec_debugResume_parked hr hst hh fun h => absurd h hw
  · exact State.exec_debugResume_parked hr hst hh fun _ => hc
  · exact ⟨_, State.exec_debugEnd hr hst, State.thread?_endThread s⟩
  · refine ⟨_, State.exec_debugWrite_operand hr o, fun x => ?_, ?_⟩
    · rw [Thread.rd_primaryOnly]
      exact (by cases x <;> rfl : _ = (t.wr o v).rd x).trans (t.rd_wr o x v)
    · rw [t.primaryOnly_eq]
      exact ⟨t.wr_pc o v, t.wr_q o v, t.wr_sems o v⟩
  · intro writes
    have mended {d : DebugReg} {u : Thread} (hexec : exec (.debugWrite r d v) s = .next (s.setThread (t.primaryOnly d (u.mend d))))
        (hu : u.twin = t.twin) : writes d u :=
      ⟨_, hexec, (State.primaryOnly_mend t u d).1, fun hn => (State.primaryOnly_mend t u d).2 hn hu⟩
    have special {n : BitVec 7} (hn : n.toNat < 0x40) : writes (.special n) (t.setSpecial s.now n.toNat v) :=
      mended (State.exec_debugWrite_special hr hn) (t.setSpecial_twin ..)
    refine ⟨fun i => mended (State.exec_debugWrite_q hr i) rfl, fun i => mended (State.exec_debugWrite_sem hr i) rfl, ?_,
      State.exec_debugWrite_pc hr, fun n hn => special hn, fun n hn => State.exec_debugWrite_unit hr hn, special (n := 0x0A) (by decide)⟩
    intro i x hx hd hown key old
    obtain ⟨hself, hother⟩ := Thread.mget_kept key old v hown
    exact ⟨_, _, State.exec_debugWrite_q hr i, Thread.primaryOnly_q i _ v hx hd rfl rfl, rfl, hself, hother⟩

end Sys2Proof.Machine
end

section
/-! SUPPORT. Threads found by their tags after an update (R159), what leaves the cycle and storage as they were, and the value that a read of
HBM answers (R395, R397). -/

namespace Sys2Proof.Machine

/-! ## Threads by their tags (R159, R305) -/

/-- No slot holds two threads. -/
theorem findThread_of_mem {ts : List Thread} (h : slotsRise ts = true) {x : Thread} (hx : x ∈ ts) : findThread ts x.unit x.slot = some x := by
  induction ts with
  | nil => exact absurd hx List.not_mem_nil
  | cons a r ih =>
    obtain ⟨hbefore, hr⟩ := (slotsRise_cons a r).1 h
    rcases List.mem_cons.1 hx with rfl | hx
    · simp [findThread]
    · have hslot : ¬(a.unit == x.unit && a.slot == x.slot) = true := by
        have := hbefore x hx
        simp only [slotBefore, Bool.or_eq_true, Bool.and_eq_true, decide_eq_true_eq, beq_iff_eq] at this ⊢
        omega
      rw [findThread, List.find?_cons_of_neg (by exact hslot)]
      exact ih hr hx

/-- A thread put in the place of one that is found is found in its stead by what does not tell them apart. -/
theorem find?_putThread {ts : List Thread} (h : slotsRise ts = true) {p : Thread → Bool} {x y : Thread} (hx : ts.find? p = some x)
    (hu : y.unit = x.unit) (hs : y.slot = x.slot) (hp : p y = p x) : (putThread ts y).find? p = some y := by
  have hpy : p y = true := hp.trans (List.find?_some hx)
  induction ts with
  | nil => exact absurd hx (by simp)
  | cons a r ih =>
    obtain ⟨hbefore, hr⟩ := (slotsRise_cons a r).1 h
    rw [putThread, hu, hs]
    cases hpa : p a with
    | true =>
      obtain rfl : a = x := by simpa [hpa] using hx
      simp [hpy]
    | false =>
      rw [List.find?_cons, hpa] at hx
      have := hbefore x (List.mem_of_find?_eq_some hx)
      simp only [slotBefore, Bool.or_eq_true, Bool.and_eq_true, decide_eq_true_eq, beq_iff_eq] at this
      rw [if_neg (by simp; omega), if_neg (by simp; omega), List.find?_cons, hpa]
      exact ih hr hx

namespace State

/-- A thread that changes neither its slot nor its tags is found by them as before. -/
theorem ref?_setThread {s : State} (h : slotsRise s.threads = true) {r : ThreadRef} {x y : Thread} (hr : s.ref? r = some x)
    (hu : y.unit = x.unit) (hs : y.slot = x.slot) (hg : y.gen = x.gen) (hf : y.former = x.former) : (s.setThread y).ref? r = some y := by
  rcases Option.or_eq_some_iff.1 hr with hx | ⟨hnone, hx⟩
  · obtain ⟨hx, hgen⟩ := Option.filter_eq_some_iff.1 hx
    have hy : (s.setThread y).thread? r.unit r.slot = some y := find?_putThread h hx hu hs (by simp [hu, hs])
    exact Option.or_eq_some_iff.2 (.inl (by rw [hy, Option.filter_some, hg, if_pos hgen]))
  · refine Option.or_eq_some_iff.2 (.inr ⟨?_, find?_putThread h hx hu hs (by simp [hf])⟩)
    by_cases hslot : r.unit = y.unit ∧ r.slot = y.slot
    · have hold : s.thread? r.unit r.slot = some x := by
        rw [hslot.1, hslot.2, hu, hs]
        exact findThread_of_mem h (List.mem_of_find?_eq_some hx)
      have hgen : ¬(x.gen == r.gen) = true := fun hgen => by simp [hold, Option.filter_some, hgen] at hnone
      rw [hslot.1, hslot.2, thread?_setThread_self, Option.filter_some, hg, if_neg hgen]
    · rw [thread?_setThread_other _ _ _ _ hslot]
      exact hnone

theorem onRef_some {s : State} {r : ThreadRef} {x : Thread} (hr : s.ref? r = some x) (f : Thread → Thread) :
    s.onRef r f = s.setThread (f x) := by
  rw [onRef, hr]

/-! ## What leaves storage alone -/

/-- `u` is `s` in its cycle, its memory and its descriptors. -/
structure SameStorage (s u : State) : Prop where
  now : u.now = s.now
  mem : u.mem = s.mem
  desc : u.desc = s.desc

namespace SameStorage
variable {s t u : State}

theorem refl (s : State) : SameStorage s s := ⟨rfl, rfl, rfl⟩

theorem trans (h : SameStorage s t) (h' : SameStorage t u) : SameStorage s u :=
  ⟨h'.now.trans h.now, h'.mem.trans h.mem, h'.desc.trans h.desc⟩

theorem foldl {α : Type} {f : State → α → State} (hf : ∀ s a, SameStorage s (f s a)) (l : List α) (s : State) : SameStorage s (l.foldl f s) :=
  List.foldlRecOn l f (refl s) fun _ h a _ => h.trans (hf _ a)

theorem sched (delay rank : Nat) (op : Instr) : SameStorage s (s.sched delay rank op) := ⟨rfl, rfl, rfl⟩

theorem setThread (t : Thread) : SameStorage s (s.setThread t) := ⟨rfl, rfl, rfl⟩

theorem onRef (r : ThreadRef) (f : Thread → Thread) : SameStorage s (s.onRef r f) := by
  unfold State.onRef
  split
  · exact setThread _
  · exact refl s

theorem inject (k : Nat) (p : Packet) : SameStorage s (s.inject k p) := ⟨rfl, rfl, rfl⟩

theorem touch (pa n : Nat) (w : Option ThreadRef) : SameStorage s (s.touch pa n w) := by
  refine foldl (fun u b => ?_) _ _
  split
  · exact sched ..
  · exact refl u

theorem nudge (r : ThreadRef) : SameStorage s (s.nudge r) := by
  rw [nudge_eq]
  split
  · split
    · exact sched ..
    · exact refl s
  · exact refl s

theorem sendCopies (t : Thread) : SameStorage s (s.sendCopies t) := (setThread _).trans (foldl (fun _ _ => inject ..) _ _)

theorem mirrorCopy (a : Access) : SameStorage s (s.mirrorCopy a) := by
  unfold State.mirrorCopy
  split
  · extract_lets v p
    split
    · exact sendCopies _
    · exact inject ..
  · exact refl s

/-! ### Records (R372, R373, R397) -/

theorem countCorrected : SameStorage s s.countCorrected := by
  rcases s.countCorrected_eq with h | h
  · rw [h]
    exact ⟨rfl, rfl, rfl⟩
  · obtain ⟨a, q, n, h', r, e⟩ := State.replace_eq { s with pkg := { s.pkg with ceCount := s.pkg.ceCount + 1 } } 3
    rw [h, e]
    exact ⟨rfl, rfl, rfl⟩

theorem record (r : RecInfo) : SameStorage s (s.record r) := by
  have ported (u : State) (ws : List Word) : SameStorage u (u.errPort r ws) := by
    obtain ⟨a, q, d, e⟩ := u.errPort_eq r ws
    rw [e]
    exact ⟨rfl, rfl, rfl⟩
  have logged (ws : W32 → List Word) : SameStorage s (s.logWords ws) := ⟨rfl, rfl, rfl⟩
  unfold State.record
  refine trans ?_ (ported ..)
  split
  · exact (logged _).trans countCorrected
  · exact logged _

theorem memRecord (ltag unit cls cause pa : Nat) (detail : Word) : SameStorage s (s.memRecord ltag unit cls cause pa detail) := record _

theorem arrayUe (ltag unit pa : Nat) : SameStorage s (s.arrayUe ltag unit pa).1 := by
  have logged : SameStorage s (s.logArray pa 2 0 false).1 := ⟨rfl, rfl, rfl⟩
  exact logged.trans (memRecord ltag unit 3 0x051 (pa / 64 * 64) (s.logArray pa 2 0 false).2)

theorem eccVal (ltag unit pa : Nat) (v : Val) : SameStorage s (s.eccVal ltag unit pa v).1 := by
  unfold State.eccVal
  split
  · split
    · exact arrayUe ..
    · exact refl s
  · exact refl s

end SameStorage

/-! ## The value of a read (R395, R397) -/

section
variable (s : State) (ltag unit pa : Nat) (v : Val)

/-- A read of HBM answers the value that lies there, poisoned where it is poisoned. -/
theorem eccVal_val : (s.eccVal ltag unit pa v).2.v = v.v ∧ (s.eccVal ltag unit pa v).2.psn.isSome = v.psn.isSome := by
  unfold eccVal
  split
  · rename_i p hp
    split
    · exact ⟨rfl, by rw [hp]; rfl⟩
    · exact ⟨rfl, rfl⟩
  · exact ⟨rfl, rfl⟩

/-- Only the poison that the array ECC of HBM reports is named anew. -/
theorem eccVal_psn (h : ∀ x, v.psn = some x → 2 ^ 39 ≤ pa ∨ x.cause ≠ 0x051) : (s.eccVal ltag unit pa v).2.psn = v.psn := by
  unfold eccVal
  split
  · rename_i p hp
    rw [if_neg (by simpa [Nat.not_lt, imp_iff_not_or] using h p hp)]
  · rfl

theorem eccVal_clean (h : v.psn = none) : s.eccVal ltag unit pa v = (s, v) := by
  unfold eccVal
  rw [h]

end

end State

end Sys2Proof.Machine
end

section
/-! What each access does as its bank performs it (R62, R81, R137, R280, R281, R287, R395), and the statement about it, O22. -/

namespace Sys2Proof.Machine

open Sys2Proof.Claims (Due byteAt)

/-! ## Values of fewer than eight bytes (R280) -/

/-- The low `k` bits of a number that has no others. -/
theorem zeroExtend_wd {k v : Nat} (hk : k ≤ 64) (hv : v < 2 ^ k) : zeroExtend k (wd v) = wd v := by
  have hpow : 2 ^ k * 2 ^ (64 - k) = 2 ^ 64 := by rw [← Nat.pow_add, Nat.add_sub_cancel' hk]
  have hshift : v * 2 ^ (64 - k) < 2 ^ 64 := hpow ▸ Nat.mul_lt_mul_of_pos_right hv (Nat.two_pow_pos _)
  have hv64 : v < 2 ^ 64 := Nat.lt_of_lt_of_le hv (Nat.pow_le_pow_right (by decide) hk)
  apply BitVec.eq_of_toNat_eq
  rw [zeroExtend, wd, BitVec.toNat_ushiftRight, BitVec.toNat_shiftLeft, BitVec.toNat_ofNat, Nat.mod_eq_of_lt hv64, Nat.shiftLeft_eq,
    Nat.mod_eq_of_lt hshift, Nat.shiftRight_eq_div_pow, Nat.mul_div_cancel _ (Nat.two_pow_pos _)]

/-- The low `k` bits of a number that has no others, as a two's complement number. -/
theorem signExtend_wd {k v : Nat} (hk0 : 0 < k) (hk : k ≤ 64) (hv : v < 2 ^ k) :
    signExtend k (wd v) = BitVec.ofInt 64 ((v : Int).bmod (2 ^ k)) := by
  have hpow : 2 ^ 64 = 2 ^ (64 - k) * 2 ^ k := by rw [← Nat.pow_add, Nat.sub_add_cancel hk]
  have hv64 : v < 2 ^ 64 := Nat.lt_of_lt_of_le hv (Nat.pow_le_pow_right (by decide) hk)
  have hle : 2 ^ k ≤ 2 ^ 64 := Nat.pow_le_pow_right (by decide) hk
  have heven : 2 ∣ 2 ^ k := Dvd.dvd.pow (Nat.dvd_refl 2) (by omega)
  have hlow := Int.le_bmod (x := v) (Nat.two_pow_pos k)
  have hhigh := Int.bmod_lt (x := v) (Nat.two_pow_pos k)
  have hfits : ((v : Int).bmod (2 ^ k)).bmod (2 ^ 64) = (v : Int).bmod (2 ^ k) := Int.bmod_eq_of_le (by omega) (by omega)
  apply BitVec.eq_of_toInt_eq
  rw [signExtend, BitVec.toInt_sshiftRight, BitVec.toInt_shiftLeft, BitVec.toInt_ofInt, hfits, wd, BitVec.toNat_ofNat, Nat.mod_eq_of_lt hv64,
    Int.shiftRight_eq_div_pow]
  have hscaled : ((v <<< (64 - k) : Nat) : Int).bmod (2 ^ 64) = (2 ^ (64 - k) : Nat) * (v : Int).bmod (2 ^ k) := by
    rw [Nat.shiftLeft_eq, Nat.mul_comm, Nat.cast_mul, hpow]
    exact Int.mod_bmod_mul_of_pos v _ (Nat.two_pow_pos _) heven
  rw [hscaled]
  exact Int.mul_ediv_cancel_left _ (by positivity)

theorem leNat_lt (bs : List Byte) : leNat bs < 2 ^ (8 * bs.length) := by
  induction bs with
  | nil => decide
  | cons b r ih =>
    have hb := b.isLt
    rw [leNat, List.length_cons, Nat.mul_succ, Nat.pow_add]
    omega

@[simp] theorem length_rdBytes (m : Memory) (a n : Nat) : (rdBytes m a n).length = n := by
  induction n generalizing a with
  | zero => rfl
  | succ n ih => rw [rdBytes, List.length_cons, ih]

/-- A load of `n` bytes answers their number, zero-extended or sign-extended (R280). -/
theorem loaded_eq (sx : Bool) {n : Nat} (hn : n = 1 ∨ n = 2 ∨ n = 4 ∨ n = 8) (m : Memory) (a : Nat) :
    loaded sx n (leWord (rdBytes m a n)) =
      if sx then BitVec.ofInt 64 ((leNat (rdBytes m a n) : Int).bmod (2 ^ (8 * n))) else wd (leNat (rdBytes m a n)) := by
  have hlt := leNat_lt (rdBytes m a n)
  rw [length_rdBytes] at hlt
  cases sx with
  | false => exact zeroExtend_wd (by omega) hlt
  | true => exact signExtend_wd (by omega) (by omega) hlt

/-! ## Bytes written (R3) -/

theorem wrBytes_append (m : Memory) (a : Nat) (xs ys : List Byte) : wrBytes m a (xs ++ ys) = wrBytes (wrBytes m a xs) (a + xs.length) ys := by
  induction xs generalizing m a with
  | nil => rfl
  | cons x xs ih => rw [List.cons_append, wrBytes, ih, wrBytes, List.length_cons, Nat.add_assoc, Nat.add_comm 1]

/-- The half of the current frame that a fill has read holds the values of the block (R62). -/
theorem Thread.fillHalf_frame (t : Thread) (hi : Bool) {vs : List Val} (h : vs.length = 8) :
    (if hi then (t.fillHalf hi vs).frame0.o else (t.fillHalf hi vs).frame0.l).toList = vs.map (·.v) := by
  have hread : (Vector.ofFn fun i : Fin 8 => (vs.getD i.val ⟨0, none⟩).v).toList = vs.map (·.v) :=
    List.ext_getElem (by simp [h]) fun i hi _ => by
      have hlt : i < vs.length := by simpa [h] using hi
      simp [hlt]
  cases hi with
  | false => exact hread
  | true => exact hread

namespace State
variable (s : State)

@[simp] theorem store_now (a n : Nat) (v : Val) : (s.store a n v).now = s.now := by
  unfold store
  split
  · rfl
  · split <;> rfl

@[simp] theorem store_desc (a n : Nat) (v : Val) : (s.store a n v).desc = s.desc := by
  unfold store
  split
  · rfl
  · split <;> rfl

/-- Dwords stored one after another are their bytes in a row. -/
theorem putVals_mem (a : Nat) (vs : List Val) : (s.putVals a vs).mem = wrBytes s.mem a (vs.flatMap fun v => natLe 8 v.v.toNat) := by
  have fromPlace (vs : List Val) (k : Nat) (s : State) :
      ((vs.zipIdx k).foldl (fun s (v, i) => s.store (a + 8 * i) 8 v) s).mem = wrBytes s.mem (a + 8 * k) (vs.flatMap fun v => natLe 8 v.v.toNat) := by
    induction vs generalizing k s with
    | nil => rfl
    | cons v vs ih =>
      rw [List.zipIdx_cons, List.foldl_cons, ih, List.flatMap_cons, wrBytes_append, store_mem, length_natLe]
      rfl
  exact fromPlace vs 0 s

/-! ## An access at its bank (R137) -/

section
variable {s} {a : Access} (hmem : s.space a.pa ≠ .regs)
include hmem

theorem perform_ld {sx : Bool} (hk : a.kind = .ld sx) :
    s.perform a = ((s.eccVal a.ltag a.t.unit a.pa (s.load a.pa a.size)).1,
      ⟨loaded sx a.size (leWord (rdBytes s.mem a.pa a.size)), (s.eccVal a.ltag a.t.unit a.pa (s.load a.pa a.size)).2.psn⟩) := by
  unfold perform
  split
  · exact absurd ‹_› hmem
  · rw [hk]
    simp only [(s.eccVal_val a.ltag a.t.unit a.pa (s.load a.pa a.size)).1]
    rfl

theorem perform_st (hk : a.kind = .st) :
    s.perform a = (((s.store a.pa a.size ⟨a.data, a.psn⟩).touch a.pa a.size (some a.t)).mirrorCopy a, ⟨0, none⟩) := by
  unfold perform
  split
  · exact absurd ‹_› hmem
  · rw [hk]

theorem perform_ldbd (hk : a.kind = .ldbd) :
    s.perform a = s.eccVal a.ltag a.t.unit a.pa ⟨wd (s.descOf a.pa).toNat, mget s.descPsn (a.pa / 64)⟩ := by
  unfold perform
  split
  · exact absurd ‹_› hmem
  · rw [hk]

theorem perform_stbd (hk : a.kind = .stbd) :
    s.perform a = (((s.setDesc a.pa (a.data.setWidth 16)).poisonDesc a.pa a.psn).mirrorCopy a, ⟨0, none⟩) := by
  unfold perform
  split
  · exact absurd ‹_› hmem
  · rw [hk]

theorem perform_frame {vs : List Val} (hk : a.kind = .frame vs) :
    s.perform a = ((s.putVals a.pa vs).touch a.pa 64 (some a.t), ⟨0, none⟩) := by
  unfold perform
  split
  · exact absurd ‹_› hmem
  · rw [hk]
    rfl

theorem perform_fill {hi : Bool} (hk : a.kind = .fill hi) :
    s.perform a = (s.onRef a.t (·.fillHalf hi ((List.range 8).map fun i => s.load (a.pa + 8 * i) 8)), ⟨0, none⟩) := by
  unfold perform
  split
  · exact absurd ‹_› hmem
  · rw [hk]

/-- An atomic that reads no poison writes its new value and answers the old one. -/
theorem perform_atom {op : AtomOp} (hk : a.kind = .atom op) (hp : s.psnAt a.pa = none) :
    s.perform a = (((s.store a.pa a.size ⟨atomNew op a.size (leWord (rdBytes s.mem a.pa a.size)) a.data a.data2, none⟩).touch a.pa a.size
      (some a.t)).mirrorCopy a, ⟨leWord (rdBytes s.mem a.pa a.size), none⟩) := by
  unfold perform
  split
  · exact absurd ‹_› hmem
  · rw [hk]
    simp only [eccVal_clean _ _ _ _ (s.load a.pa a.size) hp]
    simp only [load, hp]

end

/-- An access that its bank does not take is tried again in the next cycle (R109, R226, R398). -/
theorem exec_bankAccept_waits {acc : Access} (h : s.busy.contains (s.bankOf acc.pa) = true ∨ s.engTurn (s.bankOf acc.pa) = true ∨
    s.hbmWaits acc.pa = true) : exec (.bankAccept acc) s = .next (s.sched 1 1 (.bankAccept acc)) :=
  congrArg Host.Outcome.next (if_pos (by simpa only [Bool.or_eq_true, or_assoc] using h))

/-- The thread has its access accepted, and one that waited for nothing else commits in this cycle. -/
def accepted (s : State) (acc : Access) (v : Val) : State :=
  let u := s.onRef acc.t fun t => { t with out := t.out.filter fun o => o.id != acc.id }
  (match acc.rb with
    | some id => u.sched (acc.retAt - u.now) rankLate (.resultReturn acc.t id [v])
    | none => u).nudge acc.t

theorem exec_bankAccept {acc : Access} (hb : s.busy.contains (s.bankOf acc.pa) = false) (he : s.engTurn (s.bankOf acc.pa) = false)
    (hh : s.hbmWaits acc.pa = false) :
    exec (.bankAccept acc) s =
      .next (((s.acceptThread (s.bankOf acc.pa)).perform acc).1.accepted acc ((s.acceptThread (s.bankOf acc.pa)).perform acc).2) :=
  congrArg Host.Outcome.next (if_neg (by rw [hb, he, hh]; exact Bool.false_ne_true))

variable {s} {acc : Access} {v : Val}

theorem SameStorage.accepted : SameStorage s (s.accepted acc v) := by
  unfold State.accepted
  refine .trans ?_ (.nudge _)
  split
  · exact (SameStorage.onRef ..).trans (.sched ..)
  · exact .onRef ..

theorem due_nudge {at_ : Nat} {op : Instr} (r : ThreadRef) (h : Due s at_ op) : Due (s.nudge r) at_ op := by
  obtain ⟨e, he, hdue⟩ := h
  refine ⟨e, ?_, hdue⟩
  rw [nudge_eq]
  split
  · split
    · exact (mem_agenda_sched _).2 (.inr he)
    · exact he
  · exact he

/-- A value that the access answers is due at its thread (R42). -/
theorem accepted_returns {id : Nat} (h : acc.rb = some id) :
    Due (s.accepted acc v) (s.now + (acc.retAt - s.now)) (.resultReturn acc.t id [v]) := by
  unfold accepted
  rw [h]
  refine due_nudge _ ?_
  rw [← (SameStorage.onRef (s := s) acc.t _).now]
  exact due_sched ..

theorem threads_nudge (r : ThreadRef) : (s.nudge r).threads = s.threads := by
  rw [nudge_eq]
  split
  · split <;> rfl
  · rfl

/-- Its thread awaits the access no more, and is otherwise as it was. -/
theorem accepted_thread (h : s.Sound) {x : Thread} (hr : s.ref? acc.t = some x) :
    (s.accepted acc v).ref? acc.t = some { x with out := x.out.filter fun o => o.id != acc.id } := by
  have hset := ref?_setThread h.threads (y := { x with out := x.out.filter fun o => o.id != acc.id }) hr rfl rfl rfl rfl
  have hthreads : (s.accepted acc v).threads = (s.setThread { x with out := x.out.filter fun o => o.id != acc.id }).threads := by
    unfold accepted
    rw [threads_nudge, onRef_some hr]
    split <;> rfl
  unfold ref? thread? at hset ⊢
  rw [hthreads]
  exact hset

/-! ## After the access -/

/-- The state after a bank has performed an access. -/
def afterAccess (s : State) (acc : Access) : State := (s.perform acc).1.accepted acc (s.perform acc).2

/-- The value `v` returns at the time of the access, poisoned where `p` is: with `p` itself, unless the array ECC of HBM reports it (R395,
R397). -/
def Answers (s u : State) (acc : Access) (v : Word) (p : Option Poison) : Prop :=
  ∀ id, acc.rb = some id → ∃ q, q.isSome = p.isSome ∧ ((∀ x, p = some x → 2 ^ 39 ≤ acc.pa ∨ x.cause ≠ 0x051) → q = p) ∧
    Due u (s.now + (acc.retAt - s.now)) (.resultReturn acc.t id [⟨v, q⟩])

/-- An access that writes bytes writes no other. -/
theorem afterAccess_written (hs : s.Sound) {bs : List Byte} (hm : (s.perform acc).1.mem = wrBytes s.mem acc.pa bs) :
    rdBytes (s.afterAccess acc).mem acc.pa bs.length = bs ∧
    ∀ a, a < acc.pa ∨ acc.pa + bs.length ≤ a → byteAt (s.afterAccess acc) a = byteAt s a := by
  have hmem : (s.afterAccess acc).mem = wrBytes s.mem acc.pa bs := SameStorage.accepted.mem.trans hm
  unfold byteAt
  rw [hmem]
  exact ⟨rdBytes_wrBytes _ _ _ hs.mem, fun a ha => rdByte_wrBytes_outside _ _ _ _ ha⟩

/-- A store of the low bytes of a value writes them, little-endian, and no other byte (R3, R81). -/
theorem afterAccess_stored (hs : s.Sound) {v : Word} (hm : (s.perform acc).1.mem = wrBytes s.mem acc.pa (natLe acc.size v.toNat)) :
    (∀ a, a < acc.pa ∨ acc.pa + acc.size ≤ a → byteAt (s.afterAccess acc) a = byteAt s a) ∧
    leNat (rdBytes (s.afterAccess acc).mem acc.pa acc.size) = v.toNat % 2 ^ (8 * acc.size) := by
  obtain ⟨hread, hothers⟩ := afterAccess_written hs hm
  rw [length_natLe] at hread hothers
  exact ⟨hothers, by rw [hread, leNat_natLe, Nat.pow_mul]⟩

/-- An access that leaves storage alone changes no byte and no descriptor. -/
theorem afterAccess_same (h : SameStorage s (s.perform acc).1) :
    (∀ a, byteAt (s.afterAccess acc) a = byteAt s a) ∧ (s.afterAccess acc).desc = s.desc := by
  have hsame : SameStorage s (s.afterAccess acc) := h.trans .accepted
  exact ⟨fun a => by rw [byteAt, hsame.mem], hsame.desc⟩

theorem answers_of_perform {v : Word} {p q : Option Poison} (hnow : (s.perform acc).1.now = s.now) (hv : (s.perform acc).2 = ⟨v, q⟩)
    (hsome : q.isSome = p.isSome) (hq : (∀ x, p = some x → 2 ^ 39 ≤ acc.pa ∨ x.cause ≠ 0x051) → q = p) :
    Answers s (s.afterAccess acc) acc v p := by
  intro id hid
  refine ⟨q, hsome, hq, ?_⟩
  have hdue := accepted_returns (s := (s.perform acc).1) (v := (s.perform acc).2) hid
  rw [hnow, hv] at hdue
  rw [afterAccess, hv]
  exact hdue

section
variable (hmem : s.space acc.pa ≠ .regs)
include hmem

theorem afterAccess_st (hs : s.Sound) (hk : acc.kind = .st) :
    (∀ a, a < acc.pa ∨ acc.pa + acc.size ≤ a → byteAt (s.afterAccess acc) a = byteAt s a) ∧
    leNat (rdBytes (s.afterAccess acc).mem acc.pa acc.size) = acc.data.toNat % 2 ^ (8 * acc.size) ∧ (s.afterAccess acc).desc = s.desc := by
  have hstored : SameStorage (s.store acc.pa acc.size ⟨acc.data, acc.psn⟩) (s.perform acc).1 := by
    rw [perform_st hmem hk]
    exact (SameStorage.touch ..).trans (.mirrorCopy _)
  obtain ⟨hothers, hread⟩ := afterAccess_stored hs (hstored.mem.trans (store_mem ..))
  exact ⟨hothers, hread, (hstored.trans .accepted).desc.trans (store_desc ..)⟩

theorem afterAccess_ld {sx : Bool} (hn : acc.size = 1 ∨ acc.size = 2 ∨ acc.size = 4 ∨ acc.size = 8) (hk : acc.kind = .ld sx) :
    ((∀ a, byteAt (s.afterAccess acc) a = byteAt s a) ∧ (s.afterAccess acc).desc = s.desc) ∧
    Answers s (s.afterAccess acc) acc
      (if sx then BitVec.ofInt 64 ((leNat (rdBytes s.mem acc.pa acc.size) : Int).bmod (2 ^ (8 * acc.size)))
        else wd (leNat (rdBytes s.mem acc.pa acc.size))) (s.psnAt acc.pa) := by
  have hperform := perform_ld hmem hk
  have hsame : SameStorage s (s.perform acc).1 := by
    rw [hperform]
    exact .eccVal ..
  rw [← loaded_eq sx hn]
  exact ⟨afterAccess_same hsame, answers_of_perform hsame.now (by rw [hperform]) (s.eccVal_val ..).2 (s.eccVal_psn _ _ _ (s.load acc.pa acc.size))⟩

theorem afterAccess_stbd (hs : s.Sound) (hk : acc.kind = .stbd) :
    (∀ a, byteAt (s.afterAccess acc) a = byteAt s a) ∧ (s.afterAccess acc).descOf acc.pa = acc.data.setWidth 16 ∧
    ∀ a, a / 64 ≠ acc.pa / 64 → (s.afterAccess acc).descOf a = s.descOf a := by
  have hset : (s.setDesc acc.pa (acc.data.setWidth 16)).SameStorage (s.afterAccess acc) := by
    have hpoisoned (u : State) : SameStorage u (u.poisonDesc acc.pa acc.psn) := by
      unfold poisonDesc
      split <;> exact ⟨rfl, rfl, rfl⟩
    refine SameStorage.trans ?_ .accepted
    rw [perform_stbd hmem hk]
    exact (hpoisoned _).trans (.mirrorCopy _)
  have hdesc (a : Nat) : (s.afterAccess acc).descOf a = if a / 64 = acc.pa / 64 then acc.data.setWidth 16 else s.descOf a := by
    rw [descOf, hset.desc]
    exact mget_wrDesc _ _ _ _ hs.desc.1
  exact ⟨fun a => by rw [byteAt, hset.mem]; rfl, by rw [hdesc, if_pos rfl], fun a ha => by rw [hdesc, if_neg ha]⟩

theorem afterAccess_ldbd (hk : acc.kind = .ldbd) :
    ((∀ a, byteAt (s.afterAccess acc) a = byteAt s a) ∧ (s.afterAccess acc).desc = s.desc) ∧
    Answers s (s.afterAccess acc) acc (wd (s.descOf acc.pa).toNat) (mget s.descPsn (acc.pa / 64)) := by
  have hperform := perform_ldbd hmem hk
  have hsame : SameStorage s (s.perform acc).1 := by
    rw [hperform]
    exact .eccVal ..
  obtain ⟨hv, hsome⟩ := s.eccVal_val acc.ltag acc.t.unit acc.pa ⟨wd (s.descOf acc.pa).toNat, mget s.descPsn (acc.pa / 64)⟩
  rw [← hperform] at hv hsome
  refine ⟨afterAccess_same hsame, answers_of_perform hsame.now (congrArg (Val.mk · _) hv) hsome ?_⟩
  rw [hperform]
  exact s.eccVal_psn _ _ _ ⟨wd (s.descOf acc.pa).toNat, mget s.descPsn (acc.pa / 64)⟩

theorem afterAccess_atom (hs : s.Sound) {op : AtomOp} (hk : acc.kind = .atom op) (hp : s.psnAt acc.pa = none) :
    let old := wd (leNat (rdBytes s.mem acc.pa acc.size))
    (∀ a, a < acc.pa ∨ acc.pa + acc.size ≤ a → byteAt (s.afterAccess acc) a = byteAt s a) ∧
    leNat (rdBytes (s.afterAccess acc).mem acc.pa acc.size) = (atomNew op acc.size old acc.data acc.data2).toNat % 2 ^ (8 * acc.size) ∧
    (s.afterAccess acc).desc = s.desc ∧ Answers s (s.afterAccess acc) acc old none := by
  intro old
  have hperform := perform_atom hmem hk hp
  have hstored : SameStorage (s.store acc.pa acc.size ⟨atomNew op acc.size old acc.data acc.data2, none⟩) (s.perform acc).1 := by
    rw [hperform]
    exact (SameStorage.touch ..).trans (.mirrorCopy _)
  obtain ⟨hothers, hread⟩ := afterAccess_stored hs (hstored.mem.trans (store_mem ..))
  exact ⟨hothers, hread, (hstored.trans .accepted).desc.trans (store_desc ..),
    answers_of_perform (hstored.now.trans (store_now ..)) (by rw [hperform]; rfl) rfl fun _ => rfl⟩

theorem afterAccess_frame (hs : s.Sound) {vs : List Val} (hk : acc.kind = .frame vs) (hvs : vs.length = 8) :
    rdBytes (s.afterAccess acc).mem acc.pa 64 = (vs.flatMap fun v => natLe 8 v.v.toNat) ∧
    ∀ a, a < acc.pa ∨ acc.pa + 64 ≤ a → byteAt (s.afterAccess acc) a = byteAt s a := by
  have hlen : (vs.flatMap fun v => natLe 8 v.v.toNat).length = 64 := by simp [length_natLe, hvs]
  have hstored : (s.perform acc).1.mem = wrBytes s.mem acc.pa (vs.flatMap fun v => natLe 8 v.v.toNat) := by
    rw [perform_frame hmem hk]
    exact (SameStorage.touch ..).mem.trans (putVals_mem ..)
  have := afterAccess_written hs hstored
  rwa [hlen] at this

theorem afterAccess_fill (hs : s.Sound) {hi : Bool} {x : Thread} (hk : acc.kind = .fill hi) (hx : s.ref? acc.t = some x) :
    ((∀ a, byteAt (s.afterAccess acc) a = byteAt s a) ∧ (s.afterAccess acc).desc = s.desc) ∧
    ∃ y, (s.afterAccess acc).ref? acc.t = some y ∧
      (if hi then y.frame0.o else y.frame0.l).toList = (List.range 8).map fun i => wd (leNat (rdBytes s.mem (acc.pa + 8 * i) 8)) := by
  have hperform := perform_fill hmem hk
  have hsame : SameStorage s (s.perform acc).1 := by
    rw [hperform]
    exact .onRef ..
  refine ⟨afterAccess_same hsame, _, accepted_thread (x := x.fillHalf hi ((List.range 8).map fun i => s.load (acc.pa + 8 * i) 8)) ?_ ?_, ?_⟩
  · rw [hperform, onRef_some hx]
    exact hs.setThread _
  · rw [hperform, onRef_some hx]
    exact ref?_setThread hs.threads hx rfl rfl rfl rfl
  · have hframe := x.fillHalf_frame hi (vs := (List.range 8).map fun i => s.load (acc.pa + 8 * i) 8) rfl
    rw [List.map_map] at hframe
    exact hframe

end

end State

/-- Settles O22: an access that its bank does not take is tried again, and one that it takes is performed by its kind; what follows, the return of its
value and the commit of its thread, leaves storage alone. -/
theorem bankPerformsAccess : Obligations.BankPerformsAccess := by
  intro s acc hs
  refine ⟨fun h => s.exec_bankAccept_waits h, fun hb he hh hspace => ⟨(s.acceptThread (s.bankOf acc.pa)).afterAccess acc,
    s.exec_bankAccept hb he hh, ?_⟩⟩
  have hs' : (s.acceptThread (s.bankOf acc.pa)).Sound := hs.upd
  have hmem : (s.acceptThread (s.bankOf acc.pa)).space acc.pa ≠ .regs := hspace
  refine ⟨fun hn => ⟨fun hk => State.afterAccess_st hmem hs' hk, fun hk => ?_, fun hk => ?_, fun hk => State.afterAccess_stbd hmem hs' hk,
    fun hk => ?_, fun op hk hp => State.afterAccess_atom hmem hs' hk hp⟩, fun vs hk hvs => State.afterAccess_frame hmem hs' hk hvs,
    fun hi x hk hx => ?_⟩
  · obtain ⟨⟨hsame, hdesc⟩, hreturns⟩ := State.afterAccess_ld hmem hn hk
    exact ⟨hsame, hdesc, hreturns⟩
  · obtain ⟨⟨hsame, hdesc⟩, hreturns⟩ := State.afterAccess_ld hmem hn hk
    exact ⟨hsame, hdesc, hreturns⟩
  · obtain ⟨⟨hsame, hdesc⟩, hreturns⟩ := State.afterAccess_ldbd hmem hk
    exact ⟨hsame, hdesc, hreturns⟩
  · obtain ⟨⟨hsame, hdesc⟩, hy⟩ := State.afterAccess_fill hmem hs' hk hx
    exact ⟨hsame, hdesc, hy⟩

end Sys2Proof.Machine
end

section
/-! The refutation of the statement about matrix commands, O34. Its clause on MRING takes every command on a unit for one of a thread of that
unit. -/

namespace Sys2Proof.Machine

/-- An MMA on LATCH data on unit 0, its K-steps under way, with the tag of a thread of unit 1. `State.restoreCrew` leaves a command so whose thread
had ended when its crew was saved on unit 1: `State.renamed` finds no thread to give it the tag of. -/
def strayCommand : Cmd :=
  { id := 7, eng := .mx, t := ⟨1, 0, 0⟩, ltag := 1, gang := 0, crew := 0, tid := 0,
    ins := .mma { sm := false, x := false, b := .k0, a := .k0, d := .k0, n := .k0, c := .k0, sat := false, csem := 0, cen := false, dsem := 0,
                  shape := 0x100, fmt := 0xC0, fsrc := false, rm := 0 },
    d := 0, a := 0, b := 0, c := 0, n := 16, p7 := 0, seed := 0, csem := none, dsem := some 0, pc := 0, inrgn := false, issued := 0,
    start := some 0, first := 14, consumed := false, doneAt := 100, read := .none,
    res := some { blocks := [], tiles := [], fault := none, restart := none, steps := 0 }, applied := false, wrote := 0, stopAt := none, src := [],
    dst := [], mirror := [], next := 0, waiting := false, cancelled := false, subs := [], latch := some 0 }

/-- Reset, with the command and an MRING that is about to act on unit 0. -/
def strayState : State :=
  { State.reset with units := [(0, { UnitSt.reset with cmds := [strayCommand], mrings := [(4, ⟨⟨0, 0, 0⟩, 0, 1⟩)] })] }

/-- The MRING cancels the command and stops it on unit 1, where it does not stand. -/
theorem strayCommand_stopAt {w : State} (h : exec (.donePost 0 4) strayState = .next w) :
    (w.cmd? 0 strayCommand.id).map (·.stopAt) = some none := by
  cases h
  rfl

/-- Refutes O34: a command that an MRING cancels is stopped on the unit of its thread's tag, which need not be the unit that it stands on. -/
theorem not_matrixCommands : ¬ Obligations.MatrixCommands := by
  rintro ⟨-, -, h⟩
  obtain ⟨-, -, hring, -⟩ := h strayState 0 4 ⟨0, 0, 0, 0, [], (0, 0), 0, []⟩
  obtain ⟨w, hw, -, -, -, -, hstops⟩ := hring _ State.sound_reset.upd rfl
  obtain ⟨d, hd, -, -, hstop⟩ := hstops strayCommand rfl rfl nofun rfl nofun
  have hnone := strayCommand_stopAt hw
  rw [hd] at hnone
  exact hstop (Option.some.inj hnone)

end Sys2Proof.Machine
end

section
/-! The statement about the checks of an access, O19: segments and region 0x4 (R102 to R104), range entries and the rules of a DET launch (R118,
R120, R133), in the order of R278. -/

namespace Sys2Proof.Machine

namespace State
variable (s : State) {t : Thread} {k : AKind} {n : Nat} {rx : Bool} {va : Word}

/-! ## Segments (R103) -/

section
variable (hk : k = .load ∨ k = .store)
include hk

/-- It is neither a fetch nor an access to a descriptor. -/
theorem beq_of_plain : (k == .fetch) = false ∧ (k == .ldbd) = false ∧ (k == .stbd) = false := by
  rcases hk with rfl | rfl <;> exact ⟨rfl, rfl, rfl⟩

theorem regionSeg_misaligned (lvl : Nat) (ha : va.toNat % n ≠ 0) : s.regionSeg t lvl k n va = .bad (infoVa 3 va false 0) va := by
  obtain ⟨hf, hl, hs⟩ := beq_of_plain hk
  unfold regionSeg
  split
  simp only [hf, hl, hs]
  split
  · simp [ha]
  · rfl

theorem regionSeg_beyond {g : Seg} (hg : s.seg? t.ltag t.unit 1 (bits va 22 4) = some g) (hlen : g.len < bits va 0 22 + n) :
    s.regionSeg t 1 k n va = .bad (infoVa 3 va false 0) va := by
  obtain ⟨hf, hl, hs⟩ := beq_of_plain hk
  simp [regionSeg, hf, hl, hs, hg, hlen]

theorem regionSeg_none (hg : s.seg? t.ltag t.unit 1 (bits va 22 4) = none) : s.regionSeg t 1 k n va = .bad (infoVa 3 va false 0) va := by
  obtain ⟨hf, -, -⟩ := beq_of_plain hk
  simp [regionSeg, hf, hg]

theorem regionSeg_inside {g : Seg} (hzero : bits va 26 34 = 0) (hg : s.seg? t.ltag t.unit 1 (bits va 22 4) = some g)
    (hlen : bits va 0 22 + n ≤ g.len) (ha : va.toNat % n = 0) (hdet : t.det = false) :
    s.regionSeg t 1 k n va = .ok (.here (segAddr 1 t.unit g (bits va 0 22))) none := by
  obtain ⟨hf, hl, hs⟩ := beq_of_plain hk
  simp [regionSeg, hf, hl, hs, hg, hzero, Nat.not_lt.2 hlen, ha, detCheck, hdet, inst]

/-! ## Regions (R102, R104) -/

theorem check_misaligned (hr : bits va 60 4 ≤ 3) (ha : va.toNat % n ≠ 0) : s.check t k n rx va = .bad (infoVa 3 va false 0) va := by
  obtain ⟨hf, hl, hs⟩ := beq_of_plain hk
  have hseg (lvl : Nat) := s.regionSeg_misaligned (t := t) hk lvl ha
  obtain h | h | h | h : bits va 60 4 = 0 ∨ bits va 60 4 = 1 ∨ bits va 60 4 = 2 ∨ bits va 60 4 = 3 := by omega
  · simp [check, h, hf, hl, hs, ha]
  all_goals simp only [check, h, hseg]

theorem check_noRegion (hlo : 5 ≤ bits va 60 4) (hhi : bits va 60 4 ≤ 14) : s.check t k n rx va = .bad (infoVa 3 va false 0) va := by
  obtain ⟨hf, -, -⟩ := beq_of_plain hk
  rw [check, hf]
  split
  case h_7 => rfl
  all_goals omega

theorem check_unprivileged (hr : bits va 60 4 = 4) (hzero : bits va 40 20 = 0) (hhole : s.space (bits va 0 40) ≠ .hole)
    (hregs : s.space (bits va 0 40) = .regs → regListed (bits va 0 40 - 0xF000000000) = true) (hsvc : t.svc = false) :
    s.check t k n rx va = .bad (infoVa 2 va false 0) va := by
  obtain ⟨hf, -, -⟩ := beq_of_plain hk
  have hlisted : (s.space (bits va 0 40) == .regs && !regListed (bits va 0 40 - 0xF000000000)) = false := by
    rw [Bool.and_eq_false_imp, beq_iff_eq]
    intro h
    rw [hregs h, Bool.not_true]
  simp [check, hr, hzero, hhole, hlisted, hsvc, hf]

end

/-! ## Range entries (R118, R120, R133) -/

/-- An access of region 0x0 that a range entry maps is checked by the rights of that entry, at the address that it gives. -/
theorem check_range {l : Launch} {e : RangeEnt} (hf : (k == .fetch) = false) (hl : s.launch? t.ltag = some l) (hr : bits va 57 7 = 0)
    (ha : va.toNat % n = 0) (he : (l.ranges.find? fun e => e.base ≤ va.toNat && va.toNat < e.limit) = some e) :
    s.check t k n rx va = s.afterRights t l k n rx va (va + e.offset).toNat (rightsOk k e.rd e.w e.x e.a) (some e) := by
  obtain ⟨h60, h57⟩ : bits va 60 4 = 0 ∧ bits va 57 3 = 0 := by
    unfold bits at *
    omega
  simp [check, h60, h57, hf, ha, region0, hl, he]

variable {l : Launch} {gpa : Nat} {rights : Bool} {r : Option RangeEnt}

theorem afterRights_denied (hf : (k == .fetch) = false) (h : rights = false) :
    s.afterRights t l k n rx va gpa rights r = .bad (infoVa 4 va false 0) va := by
  simp [afterRights, h, hf]

theorem afterRights_detBad {info : Word} (h : rights = true) (hd : detCheck t l k va r = some info) :
    s.afterRights t l k n rx va gpa rights r = .bad info va := by
  simp [afterRights, h, hd]

theorem afterRights_far (h : rights = true) (hd : detCheck t l k va r = none) (hfar : gpa / 2 ^ 40 ≠ s.devid) :
    s.afterRights t l k n rx va gpa rights r = .ok (.there (gpa / 2 ^ 40) (gpa % 2 ^ 40)) r := by
  simp only [afterRights, h, hd, globalCheck, if_neg hfar, Bool.not_true, Bool.false_eq_true, if_false]

theorem detCheck_otherWriter {e : RangeEnt} (hdet : t.det = true) (hw : k.writes = true) (hany : e.anyw = false)
    (hwriter : e.writer ≠ writerId l t) : detCheck t l k va (some e) = some (infoVa 6 va false 0) := by
  simp [detCheck, hdet, hw, hany, hwriter]

theorem detCheck_notDet (hdet : t.det = false) : detCheck t l k va r = none := by
  simp [detCheck, hdet]

end State

/-- Settles O19: the checks in the order of R278, region by region, and for a range entry its rights before the rules of a DET launch. -/
theorem addressChecks : Obligations.AddressChecks := by
  refine ⟨fun s t k n rx va hk _ => ?_, fun s t n rx va l e hl hr ha he => ?_⟩
  · have hseg (h : bits va 60 4 = 1) : s.check t k n rx va = s.regionSeg t 1 k n va := by simp only [State.check, h]
    refine ⟨fun g h hzero hg hlen ha hdet => ?_, fun ha hr => s.check_misaligned hk hr ha, fun g h hg hlen => ?_, fun h hg => ?_,
      fun hlo hhi => s.check_noRegion hk hlo hhi, fun hr hzero hhole hregs hsvc => s.check_unprivileged hk hr hzero hhole hregs hsvc⟩
    · rw [hseg h, s.regionSeg_inside hk hzero hg hlen ha hdet]
    · rw [hseg h, s.regionSeg_beyond hk hg hlen]
    · rw [hseg h, s.regionSeg_none hk hg]
  · have hrange (k : AKind) (hf : (k == .fetch) = false) := s.check_range (rx := rx) hf hl hr ha he
    refine ⟨fun hrd => ?_, fun hw => ?_, fun ret fadd hrw => ?_, fun hw hdet hany hwriter => ?_, fun hrd hdet hfar => ?_⟩
    · exact (hrange _ rfl).trans (s.afterRights_denied rfl hrd)
    · exact (hrange _ rfl).trans (s.afterRights_denied rfl hw)
    · exact (hrange _ rfl).trans (s.afterRights_denied rfl (Bool.and_eq_false_iff.2 hrw))
    · exact (hrange _ rfl).trans (s.afterRights_detBad hw (State.detCheck_otherWriter hdet rfl hany hwriter))
    · exact (hrange _ rfl).trans (s.afterRights_far hrd (State.detCheck_notDet hdet) hfar)

end Sys2Proof.Machine
end

section
/-! SUPPORT. What noting errors and storing leave as they were in the units that translate addresses and keep residency. -/

namespace Sys2Proof.Machine

namespace State
variable (s : State)

/-- What the array ECC finds for a reader of no launch is logged and recorded, and nothing else changes (R397). -/
theorem arrayUe_pkg (unit pa : Nat) : ∃ k, (s.arrayUe 0 unit pa).1 = { s with pkg := k } := by
  rw [arrayUe, memRecord, record_unported _ _ (by simp) rfl]
  exact ⟨_, rfl⟩

theorem ueReads_pkg (unit : Nat) (pas : List Nat) : ∃ k, s.ueReads 0 unit pas = { s with pkg := k } := by
  refine List.foldlRecOn (motive := fun u : State => ∃ k, u = { s with pkg := k }) _ _ ⟨s.pkg, rfl⟩ fun u hu a _ => ?_
  obtain ⟨k, rfl⟩ := hu
  split
  · exact arrayUe_pkg _ _ _
  · exact ⟨k, rfl⟩

theorem eccBlock_pkg (unit pa : Nat) (b : BlockW) : ∃ k, (s.eccBlock 0 unit pa b).1 = { s with pkg := k } := by
  unfold eccBlock
  split
  · exact arrayUe_pkg _ _ _
  · exact ⟨s.pkg, rfl⟩

/-- A store changes memory and its poison. -/
theorem store_eq (a n : Nat) (v : Val) : ∃ p, s.store a n v = { s with mem := wrBytes s.mem a (natLe n v.v.toNat), psn := p } := by
  unfold store
  split
  · exact ⟨_, rfl⟩
  · split
    · exact ⟨_, rfl⟩
    · exact ⟨_, rfl⟩

@[simp] theorem store_trans (a n : Nat) (v : Val) : (s.store a n v).trans = s.trans := by
  obtain ⟨p, e⟩ := s.store_eq a n v
  rw [e]

end State

end Sys2Proof.Machine
end

section
/-! The statement about translation, O44: ends of walks, the answers of the firmware, and TINV (R122, R125, R126, R233, R388). -/

namespace Sys2Proof.Machine

namespace State
variable (s : State) (cl root va : Nat)

/-! ## The end of a walk (R125) -/

theorem walkEnd_waits (h : (s.walkEntries cl root va).any s.hbmWaits = true) : s.walkEnd cl root va = s.sched 1 1 (.pageWalkEnd cl root va) :=
  if_pos h

/-- The state in which a walk that read its entries has ended, before what it found: its nodes are kept, and errors noted. -/
def walkOver (k : Package) (ups : List Upper) : State :=
  { s with pkg := k, trans := { s.trans with uppers := ups, walks := s.trans.walks.filter (· != (cl, root, va)) } }

theorem notMem_walks_walkOver (k : Package) (ups : List Upper) : (cl, root, va) ∉ (s.walkOver cl root va k ups).trans.walks := by
  simp [walkOver]

section
variable {s cl root va} (h : (s.walkEntries cl root va).any s.hbmWaits = false)
include h

/-- A walk that reads its entries ends as what it finds says. -/
theorem walkEnd_found {base size at_ : Nat} {e : Word}
    (hw : s.walkAt va (s.walkStart cl root va).1 (s.walkStart cl root va).2 = some (base, size, e, at_)) :
    ∃ k ups, s.walkEnd cl root va =
      (s.walkOver cl root va k ups).cacheEntry { cluster := cl, root := root, va := base, size := size, entry := e } := by
  obtain ⟨k, hk⟩ := s.ueReads_pkg (4 * cl) (s.walkEntries cl root va)
  refine ⟨k, (s.keepUppers cl root va).trans.uppers, ?_⟩
  unfold walkEnd
  simp only [h, hk, hw, Bool.false_eq_true, if_false]
  rfl

theorem walkEnd_faults (hw : s.walkAt va (s.walkStart cl root va).1 (s.walkStart cl root va).2 = none) :
    ∃ k ups, s.walkEnd cl root va = { s.walkOver cl root va k ups with
      trans := { (s.walkOver cl root va k ups).trans with faults := (cl, root, va) :: s.trans.faults } } := by
  obtain ⟨k, hk⟩ := s.ueReads_pkg (4 * cl) (s.walkEntries cl root va)
  refine ⟨k, (s.keepUppers cl root va).trans.uppers, ?_⟩
  unfold walkEnd
  simp only [h, hk, hw, Bool.false_eq_true, if_false]
  rfl

end

/-! ## The answer of the firmware (R125, R388) -/

/-- The state in which the firmware has answered for the walk. -/
def walkAnswered : State := { s with trans := { s.trans with faults := s.trans.faults.filter (· != (cl, root, va)) } }

theorem notMem_faults_walkAnswered : (cl, root, va) ∉ (s.walkAnswered cl root va).trans.faults := by
  simp [walkAnswered]

variable {s cl root va}

theorem execWalkFaultResolve_mapped (h : (cl, root, va) ∈ s.trans.faults) (a : Nat) (e : Word) :
    exec (.walkFaultResolve cl root va (.mapped a e)) s = .next ((s.walkAnswered cl root va).store (a / 8 * 8) 8 ⟨e, none⟩) :=
  congrArg Host.Outcome.next (if_neg (by simp [h]))

theorem execWalkFaultResolve_deliver (h : (cl, root, va) ∈ s.trans.faults) :
    exec (.walkFaultResolve cl root va .deliver) s = .next (if s.walkAwaited cl root va
      then { s.walkAnswered cl root va with
        trans := { (s.walkAnswered cl root va).trans with deliver := (cl, root, va) :: s.trans.deliver } }
      else s.walkAnswered cl root va) :=
  congrArg Host.Outcome.next (if_neg (by simp [h]))

end State

/-! ## TINV (R126, R233) -/

/-- TINV keeps the cached entries and the nodes that its range does not meet. -/
theorem State.mem_dropEntries (s : State) (lo hi : Nat) :
    (∀ e, e ∈ (s.dropEntries lo hi).trans.tlb ↔ e ∈ s.trans.tlb ∧ ¬(e.va < hi ∧ lo < e.va + e.size)) ∧
    ∀ n, n ∈ (s.dropEntries lo hi).trans.uppers ↔ n ∈ s.trans.uppers ∧ ¬(n.va < hi ∧ lo < n.va + nodeSpan n.lvl) := by
  simp [State.dropEntries, List.mem_filter, imp_iff_not_or]

theorem State.execTinvComplete_due {s : State} (hbusy : s.trans.tinvBusy = true) (hdue : s.trans.tinvAt + 512 ≤ s.now) :
    exec .tinvComplete s = .next (if s.tinvPending then s.sched 8 rankRes .tinvComplete
      else { s with trans := { s.trans with tinvBusy := false, tinvlim := 0 } }) :=
  congrArg Host.Outcome.next (if_neg (by simp [hbusy, hdue]))

/-- Settles O44: a walk by whether its reads wait and by what it finds, the firmware's two answers, TINV by what it drops, and its end by what is
still to be accepted. -/
theorem translationEvents : Obligations.TranslationEvents := by
  intro s cl root va key i x
  refine ⟨fun h => congrArg Host.Outcome.next (s.walkEnd_waits cl root va h), fun h => ⟨fun base size e at_ hw => ?_, fun hw => ?_⟩,
    fun h => ⟨fun a e hs => ?_, ?_⟩, ?_, fun hbusy hdue => ⟨fun hp => ?_, fun hp => ?_⟩⟩
  · obtain ⟨k, ups, hu⟩ := State.walkEnd_found h hw
    exact ⟨_, congrArg Host.Outcome.next hu, s.notMem_walks_walkOver cl root va k ups, rfl, rfl, rfl⟩
  · obtain ⟨k, ups, hu⟩ := State.walkEnd_faults h hw
    exact ⟨_, congrArg Host.Outcome.next hu, s.notMem_walks_walkOver cl root va k ups, rfl, rfl⟩
  · refine ⟨_, State.execWalkFaultResolve_mapped h a e, ?_, State.leNat_store _ hs.mem _ _, fun b hb => ?_⟩
    · rw [State.store_trans]
      exact s.notMem_faults_walkAnswered cl root va
    · exact State.byteAt_store_outside _ _ _ _ (by omega)
  · refine ⟨_, State.execWalkFaultResolve_deliver h, ?_⟩
    have hkey := s.notMem_faults_walkAnswered cl root va
    split
    · exact ⟨hkey, rfl, fun _ => rfl⟩
    · rename_i hawaited
      exact ⟨hkey, rfl, fun hw => absurd hw hawaited⟩
  · exact ⟨_, rfl, rfl, State.due_sched _ 512 _ _, rfl, s.mem_dropEntries _ _⟩
  · rw [State.execTinvComplete_due hbusy hdue, if_pos hp]
  · rw [State.execTinvComplete_due hbusy hdue, if_neg (by simp [hp])]

end Sys2Proof.Machine
end

section
/-! SUPPORT. The operations of the residency unit (R129, R132, R234, R366): what sending a message, ending a work, and taking up a command do to
the rest of the state. -/

namespace Sys2Proof.Machine

open Sys2Proof.Claims (Sent Finished Due)

namespace State
variable (s : State)

/-! ## Messages (R207, R211) -/

theorem kindOf_le (size : Nat) : kindOf size ≤ 5 := by
  unfold kindOf
  split_ifs <;> omega

/-- The OP of a message reads back. -/
theorem resOp_resPkt (dst size va pa : Nat) {op dev : Nat} (hop : op < 16) (hdev : dev < 4096) :
    (s.resPkt dst op dev size va pa).resOp = op := by
  have hkind := kindOf_le size
  show bits (wd (op * 2 ^ 60 + dev * 2 ^ 48 + kindOf size * 2)) 60 4 = op
  simp only [bits, wd, BitVec.toNat_ofNat]
  omega

/-- What is injected is on its way to the router, which it reaches 14 cycles later at the earliest. -/
theorem injected (k : Nat) (p : Packet) : ∃ e ∈ (s.inject k p).agenda, s.now + 14 ≤ e.due ∧
    e.ev.op = .packetRoute 16 { p with sent := s.now, arr := s.nextId + 1 } := by
  have hdue (far : Bool) (last : Nat) : s.now + 14 ≤ s.now + (max (s.now + if far then 59 else 14) last - s.now) := by
    have hfar : 14 ≤ if far then 59 else 14 := by split <;> omega
    omega
  exact ⟨_, (State.mem_agenda_sched _).2 (.inl rfl), hdue _ _, rfl⟩

/-- A request stands under its tag, until it is answered. -/
theorem mget_sendReq (k : Nat) (p : Packet) (what : ReqWhat) : mget (s.sendReq k p what).fab.reqs s.nextTag =
    some { tag := s.nextTag, pkt := { p with tag := s.nextTag }, sends := 1, sentAt := s.now, what := what } :=
  mget_mset_self ..

/-- A message of the residency unit is sent. -/
theorem sent_sendRes {p : Packet} {i : Instr} (hi : resEvent p.resOp = some i) : Sent s (s.sendRes p) p := by
  unfold Sent sendRes
  split
  · have hev : (resEvent { p with arr := s.nextId, tag := if p.resAnswer then p.tag else noTag }.resOp) = some i := hi
    rw [schedRes, hev]
    exact ⟨_, mem_insertSched.2 (.inl rfl), rfl, hi, s.nextId, rfl⟩
  · split
    · obtain ⟨e, he, hdue, hop⟩ := s.injected 0 p
      exact ⟨e, he, hdue, _, p.tag, hop, rfl⟩
    · obtain ⟨e, he, hdue, hop⟩ := injected { s with fab := { s.fab with reqs := (s.sendReq 0 p .res).fab.reqs } } 0 { p with tag := s.nextTag }
      exact ⟨e, (State.mem_agenda_sched _).2 (.inr he), hdue, _, s.nextTag, hop, _, s.mget_sendReq 0 p .res, rfl, rfl⟩

/-- Of the state before, that a message has been sent speaks of the device and the cycle alone. -/
theorem sent_of_same {s v u : State} {p : Packet} (hdev : v.devid = s.devid) (hnow : v.now = s.now) (h : Sent v u p) : Sent s u p := by
  unfold Sent at h ⊢
  rw [← hdev, ← hnow]
  exact h

theorem sendRes_trans (p : Packet) : (s.sendRes p).trans = s.trans := by
  unfold sendRes schedRes
  split
  · split <;> rfl
  · split <;> rfl

/-- Packets taken up again join the agenda, and nothing else changes. -/
theorem foldl_schedRes (d : Nat) (ps : List Packet) :
    ∃ a q, ps.foldl (fun (s : State) p => s.schedRes d p) s = { s with agenda := a, seq := q } := by
  refine List.foldlRecOn (motive := fun u : State => ∃ a q, u = { s with agenda := a, seq := q }) _ _ ⟨_, _, rfl⟩ fun u hu p _ => ?_
  obtain ⟨a, q, rfl⟩ := hu
  unfold schedRes
  split
  · exact ⟨_, _, rfl⟩
  · exact ⟨_, _, rfl⟩

/-! ## Works (R132, R234) -/

theorem mem_putWork {w : ResWork} (x : ResWork) (h : w ∈ s.trans.works) : x ∈ (s.putWork w x).trans.works :=
  List.mem_map.2 ⟨w, h, by simp⟩

theorem addHold_eq (h : Hold) : ∃ hs, h ∈ hs ∧ s.addHold h = { s with trans := { s.trans with holds := hs } } := by
  unfold addHold
  split
  · rename_i hheld
    exact ⟨s.trans.holds, by simpa using hheld, rfl⟩
  · exact ⟨_, List.mem_cons_self, rfl⟩

/-- A record of the directory is memory. -/
theorem writeRec_eq (r : DirRec) : ∃ m p, s.writeRec r = { s with mem := m, psn := p } := by
  refine List.foldlRecOn (motive := fun u : State => ∃ m p, u = { s with mem := m, psn := p }) _ _ ⟨_, _, rfl⟩ fun u hu w _ => ?_
  obtain ⟨m, p, rfl⟩ := hu
  obtain ⟨p', e⟩ := store_eq { s with mem := m, psn := p } (s.slotAt r.slot + 8 * w.2) 8 ⟨w.1, none⟩
  exact ⟨_, p', e⟩

/-- A ring that holds no command is not read. -/
theorem serveRing_empty (h : s.trans.rcqt = s.trans.rcqh % s.trans.rcqn) (n : Nat) : s.serveRing n = s := by
  cases n with
  | zero => rfl
  | succ n => exact if_pos (by simp [h])

/-- Packets that waited for a work are taken up again. -/
def asksUp : State := s.trans.asks.foldl (fun (s : State) p => s.schedRes 1 p) { s with trans := { s.trans with asks := [] } }

theorem asksUp_eq : ∃ a q, s.asksUp = { s with agenda := a, seq := q, trans := { s.trans with asks := [] } } :=
  foldl_schedRes ..

/-- A work and its holds are gone. -/
def dropWork (w : ResWork) : State :=
  { s with trans := { s.trans with
    works := s.trans.works.filter (· != w)
    holds := s.trans.holds.filter fun h => !(h.write.isNone && h.va == w.page && h.size == w.size) } }

/-- A work of this device is over, and its command's entry, where it has one, holds the result. -/
def workOver (w : ResWork) (result : Nat) : State :=
  match w.cmd.entry with
  | some a => (s.dropWork w).store (a + 24) 8 ⟨wd result, none⟩
  | none => s.dropWork w

section
variable (w : ResWork) (result : Nat)

theorem workOver_eq : ∃ m p, s.workOver w result = { s.dropWork w with mem := m, psn := p } := by
  unfold workOver
  split
  · exact ⟨_, store_eq ..⟩
  · exact ⟨_, _, rfl⟩

theorem workOver_trans : (s.workOver w result).trans = (s.dropWork w).trans := by
  obtain ⟨m, p, e⟩ := s.workOver_eq w result
  rw [e]

theorem workOver_threads : (s.workOver w result).threads = s.threads := by
  obtain ⟨m, p, e⟩ := s.workOver_eq w result
  rw [e]
  rfl

theorem leNat_workOver {a : Nat} (hentry : w.cmd.entry = some a) (hmem : Memory.wf s.mem = true) (hresult : result < 2 ^ 64) :
    leNat (rdBytes (s.workOver w result).mem (a + 24) 8) = result := by
  unfold workOver
  simp only [hentry]
  rw [leNat_store _ (by exact hmem)]
  exact Nat.mod_eq_of_lt hresult

/-- A work of this device ends: packets that waited for it are taken up again, and so is the ring. -/
theorem resFinish_own (hasked : w.asked = none) :
    s.resFinish w result = (s.workOver w result).asksUp.serveRing (s.workOver w result).asksUp.trans.rcqn := by
  unfold resFinish workOver asksUp
  rw [hasked]
  cases w.cmd.entry <;> rfl

theorem resFinish_ringEmpty (hasked : w.asked = none) (hring : s.trans.rcqt = s.trans.rcqh % s.trans.rcqn) :
    s.resFinish w result = (s.workOver w result).asksUp := by
  rw [resFinish_own _ _ _ hasked, serveRing_empty]
  obtain ⟨a, q, e⟩ := (s.workOver w result).asksUp_eq
  rw [e, workOver_trans]
  exact hring

end

/-- A command that ends is finished, if no other command of this device is in progress. -/
theorem finished_resFinish {s u : State} {w : ResWork} {result : Nat} (hthreads : u.threads = s.threads) (hmem : Memory.wf u.mem = true)
    (hring : u.trans.rcqt = u.trans.rcqh % u.trans.rcqn) (hasked : w.asked = none)
    (hothers : ∀ x ∈ u.trans.works, x ≠ w → x.asked.isSome = true) (hresult : result < 2 ^ 64) :
    Finished s (u.resFinish w result) w.cmd result := by
  obtain ⟨a, q, e⟩ := (u.workOver w result).asksUp_eq
  rw [resFinish_ringEmpty _ _ _ hasked hring, e]
  refine ⟨?_, fun a ha => u.leNat_workOver w result ha hmem hresult, (u.workOver_threads w result).trans hthreads⟩
  simpa [workOver_trans, dropWork, or_iff_not_imp_left] using hothers

end State

end Sys2Proof.Machine
end

section
/-! SUPPORT. How the residency commands of the ring begin (R132, R234): the page and the work, the question to an owner, and the first block of a
copy. -/

namespace Sys2Proof.Machine

open Sys2Proof.Claims (Sent Finished Due)

namespace State
variable (s : State)

/-! ## The work on a page -/

/-- The work of a command of this device on a page that its root maps. -/
def workFor (c : ResCmd) (op : Nat) (m : Mapped) : ResWork :=
  { cmd := c, asked := none, op := op, page := m.base, size := m.size, src := entPa m.e % 2 ^ 40, dst := entPa m.e % 2 ^ 40, next := 0, await := [] }

/-- The state in which a work is in progress, with memory and its poison as the directory's record of it leaves them. -/
def begun (w : ResWork) (mem : Memory) (psn : Map Poison) : State :=
  { s with mem := mem, psn := psn, trans := { s.trans with cmdDue := false, works := w :: s.trans.works } }

section
variable {s} {c : ResCmd} {op : Nat} {i : Instr} {k : State → ResWork → Mapped → State}

theorem resBegin_unmapped (h : s.mappedBy c.port c.va = none) :
    s.resBegin c op i k = resFinish { s with trans := { s.trans with cmdDue := false } }
      { cmd := c, asked := none, op := op, page := c.va, size := 0, src := 0, dst := 0, next := 0, await := [] } 1 := by
  have h' : ({ s with trans := { s.trans with cmdDue := false } } : State).mappedBy c.port c.va = none := h
  simp only [resBegin, h']

variable {m : Mapped} (h : s.mappedBy c.port c.va = some m)
include h

theorem resBegin_workedOn (hw : s.workedOn m.base m.size = true) :
    s.resBegin c op i k = recmd { s with trans := { s.trans with cmdDue := false } } i c := by
  have h' : ({ s with trans := { s.trans with cmdDue := false } } : State).mappedBy c.port c.va = some m := h
  simp only [resBegin, h']
  exact if_pos hw

theorem resBegin_free (hw : s.workedOn m.base m.size = false) :
    s.resBegin c op i k = k (s.begun (workFor c op m) s.mem s.psn) (workFor c op m) m := by
  have h' : ({ s with trans := { s.trans with cmdDue := false } } : State).mappedBy c.port c.va = some m := h
  simp only [resBegin, h']
  exact if_neg (Bool.eq_false_iff.1 hw)

end

/-- A command that is taken up again is due 8 cycles later. -/
theorem due_recmd (i : Instr) (c : ResCmd) : ∃ e ∈ (s.recmd i c).agenda, e.due = s.now + 8 ∧ e.ev.op = i ∧ e.ev.cmd = some c :=
  ⟨_, mem_insertSched.2 (.inl rfl), rfl, rfl, rfl⟩

/-- A work that asks a device awaits it, and the message is sent. -/
theorem asks_sendRes {w : ResWork} {mem : Memory} {psn : Map Poison} {owner op dev size va pa : Nat} {i : Instr} (hdev : dev < 4096)
    (hop : op < 16) (hi : resEvent op = some i) :
    let u := ((s.begun w mem psn).putWork w { w with await := [owner] }).sendRes (s.resPkt owner op dev size va pa)
    { w with await := [owner] } ∈ u.trans.works ∧ Sent s u (s.resPkt owner op dev size va pa) := by
  intro u
  have hsent := ((s.begun w mem psn).putWork w { w with await := [owner] }).sent_sendRes (p := s.resPkt owner op dev size va pa) (i := i)
    (by rw [resOp_resPkt _ _ _ _ _ hop hdev, hi])
  refine ⟨?_, sent_of_same rfl rfl hsent⟩
  rw [show u.trans = _ from sendRes_trans ..]
  exact mem_putWork _ _ List.mem_cons_self

/-! ## Copies (R132, R207) -/

section
variable {w : ResWork} (h : 64 * w.next < w.size)
include h

/-- A block of a copy waits for its bank. -/
theorem copyNext_waits (hb : s.hbmWaits (w.src + 64 * w.next) = true ∨ s.bankFree (w.src + 64 * w.next) = false) :
    s.copyNext w = ((s.putWork w { w with held := true }).engWaitsAt (w.src + 64 * w.next)).sched 1 rankAgain .residencyResume := by
  have hwaits : (s.hbmWaits (w.src + 64 * w.next) || !s.bankFree (w.src + 64 * w.next)) = true := by simpa using hb
  rw [copyNext, if_pos h, if_pos hwaits]

/-- A block of a copy whose bank takes the read is sent. -/
theorem copyNext_sends (hh : s.hbmWaits (w.src + 64 * w.next) = false) (hb : s.bankFree (w.src + 64 * w.next) = true) :
    ∃ r, mget (s.copyNext w).fab.reqs s.nextTag = some r ∧ r.pkt.kind = 3 ∧ r.pkt.dst = w.cmd.dev ∧ r.pkt.opsz = 5 ∧
      r.pkt.addr = w.dst + 64 * w.next ∧ r.what = .residency w.page ∧ (s.copyNext w).trans = s.trans := by
  have hfree : ¬(s.hbmWaits (w.src + 64 * w.next) || !s.bankFree (w.src + 64 * w.next)) = true := by simp [hh, hb]
  obtain ⟨k, e⟩ := (s.takeBank (w.src + 64 * w.next)).eccBlock_pkg 0 (w.src + 64 * w.next) (s.readBlock (w.src + 64 * w.next))
  rw [copyNext, if_pos h, if_neg hfree]
  simp only [e]
  exact ⟨_, mget_sendReq .., rfl, rfl, rfl, rfl, rfl, rfl⟩

end

end State

end Sys2Proof.Machine
end

section
/-! The statement about residency commands, O45. -/

namespace Sys2Proof.Machine

open Sys2Proof.Claims (Sent Finished Due)

/-- A step that answers a state answers it however that is written. -/
theorem exec_of_eq {i : Instr} {s u v : State} (h : exec i s = .next u) (e : u = v) : exec i s = .next v := e ▸ h

namespace State

/-! ## How a command may go on, in the words of the statement -/

section
variable (s : State) (c : ResCmd) (i : Instr) (m : Mapped)

/-- The command ends with a result. -/
abbrev Ends (code : Nat) : Prop := ∃ u, exec i s = .next u ∧ Finished s u c code

/-- The command is taken up again. -/
abbrev TriedAgain : Prop := ∃ u, exec i s = .next u ∧ ∃ e ∈ u.agenda, e.due = s.now + 8 ∧ e.ev.op = i ∧ e.ev.cmd = some c

/-- The command asks a device. -/
abbrev Asks (owner op dev : Nat) : Prop := ∃ u w, exec i s = .next u ∧ w ∈ u.trans.works ∧ w.cmd = c ∧ w.await = [owner] ∧ w.page = m.base ∧
  Sent s u (s.resPkt owner op dev m.size m.base (entPa m.e))

/-- The page is held, and its first block is sent. -/
abbrev Copies : Prop := ∃ u r, exec i s = .next u ∧ mget u.fab.reqs s.nextTag = some r ∧ r.pkt.kind = 3 ∧ r.pkt.dst = c.dev ∧ r.pkt.opsz = 5 ∧
  r.pkt.addr = entPa m.e % 2 ^ 40 ∧ r.what = .residency m.base ∧ holdOf m ∈ u.trans.holds

/-- The page is held, and its first block waits for its bank. -/
abbrev CopyWaits : Prop := ∃ u, exec i s = .next u ∧ Due u (s.now + 1) .residencyResume ∧
  (∃ w ∈ u.trans.works, w.cmd = c ∧ w.page = m.base ∧ w.next = 0 ∧ w.held = true) ∧ holdOf m ∈ u.trans.holds

/-- The copy begins, its first block waits, or the command waits for accesses to the page. -/
abbrev Begins : Prop :=
  (s.pendingAt (entPa m.e) m.size = true → s.TriedAgain c i) ∧
  (s.pendingAt (entPa m.e) m.size = false →
    s.hbmWaits (entPa m.e % 2 ^ 40) = true ∨ s.bankFree (entPa m.e % 2 ^ 40) = false → s.CopyWaits c i m) ∧
  (s.pendingAt (entPa m.e) m.size = false →
    s.hbmWaits (entPa m.e % 2 ^ 40) = false → s.bankFree (entPa m.e % 2 ^ 40) = true → s.Copies c i m)

end

variable {s : State} {c : ResCmd} {i : Instr} {op : Nat} {k : State → ResWork → Mapped → State} {m : Mapped}

section
variable (hs : s.Sound) (hring : s.trans.rcqt = s.trans.rcqh % s.trans.rcqn) (hothers : ∀ w ∈ s.trans.works, w.asked.isSome = true)
include hs hring hothers

/-- A command of a page that no root maps ends with result 1. -/
theorem ends_unmapped (hexec : exec i s = .next (s.resBegin c op i k)) (h : s.mappedBy c.port c.va = none) : s.Ends c i 1 := by
  refine ⟨_, hexec, ?_⟩
  rw [resBegin_unmapped h]
  exact finished_resFinish rfl hs.mem hring rfl (fun x hx _ => hothers x hx) (by decide)

theorem ends_of_resFinish {code : Nat} (hexec : exec i s = .next ((s.begun (workFor c op m) s.mem s.psn).resFinish (workFor c op m) code))
    (hcode : code < 2 ^ 64) : s.Ends c i code :=
  ⟨_, hexec, finished_resFinish rfl hs.mem hring rfl (fun x hx hne => hothers x ((List.mem_cons.1 hx).resolve_left hne)) hcode⟩

end

/-- A command of a page on which another work is in progress is taken up again. -/
theorem triedAgain_workedOn (hexec : exec i s = .next (s.resBegin c op i k)) (hm : s.mappedBy c.port c.va = some m)
    (hw : s.workedOn m.base m.size = true) : s.TriedAgain c i := by
  refine ⟨_, hexec, ?_⟩
  rw [resBegin_workedOn hm hw]
  exact due_recmd ..

theorem asks_of_sendRes {owner o dev : Nat} {j : Instr} (hdev : dev < 4096) (ho : o < 16) (hj : resEvent o = some j)
    (hexec : exec i s = .next (((s.begun (workFor c op m) s.mem s.psn).putWork (workFor c op m)
      { workFor c op m with await := [owner] }).sendRes (s.resPkt owner o dev m.size m.base (entPa m.e)))) : s.Asks c i m owner o dev := by
  obtain ⟨hw, hsent⟩ := s.asks_sendRes (w := workFor c op m) (mem := s.mem) (psn := s.psn) (owner := owner) (size := m.size) (va := m.base)
    (pa := entPa m.e) hdev ho hj
  exact ⟨_, _, hexec, hw, rfl, rfl, rfl, hsent⟩

/-- A copy begins as its page and the bank of its first block allow. -/
theorem begins_of_copyBegin {mem : Memory} {psn : Map Poison} (hsize : 0 < m.size)
    (hexec : exec i s = .next ((s.begun (workFor c op m) mem psn).copyBegin (workFor c op m) m fun u => u.recmd i c)) : s.Begins c i m := by
  obtain ⟨hds, hheld, e⟩ := (s.begun (workFor c op m) mem psn).addHold_eq (holdOf m)
  rw [copyBegin, e] at hexec
  refine ⟨fun hp => ⟨_, exec_of_eq hexec (if_pos hp), due_recmd ..⟩, fun hp hb => ?_, fun hp hh hb => ?_⟩
  · have hnext := exec_of_eq hexec ((if_neg (Bool.eq_false_iff.1 hp)).trans (copyNext_waits _ hsize hb))
    exact ⟨_, hnext, due_sched .., ⟨_, mem_putWork _ _ List.mem_cons_self, rfl, rfl, rfl, rfl⟩, hheld⟩
  · obtain ⟨r, hr, hkind, hdst, hopsz, haddr, hwhat, htrans⟩ := copyNext_sends (w := workFor c op m)
      { s.begun (workFor c op m) mem psn with trans := { (s.begun (workFor c op m) mem psn).trans with holds := hds } } hsize hh hb
    refine ⟨_, r, exec_of_eq hexec (if_neg (Bool.eq_false_iff.1 hp)), hr, hkind, hdst, hopsz, haddr, hwhat, ?_⟩
    rw [htrans]
    exact hheld

/-! ## DUP (R132, R366) -/

theorem any_fst_beq_iff {l : List (Nat × Nat)} {d : Nat} : (l.any fun x => x.1 == d) = true ↔ d ∈ l.map (·.1) := by
  simp

/-- The device that owns a page, or holds it alone. -/
def peerOf (s : State) (m : Mapped) : Nat :=
  if entRes m.e = 1 then entPa m.e / 2 ^ 40 else if entRes m.e = 2 then entOwner m.e else s.devid

section
variable {u : State} {w : ResWork} {again : State → State}

theorem dupOwned_unrecorded (h2 : entRes m.e = 2) (hr : u.dirFind m.base false = none) : u.dupOwned w m again = u.resFinish w 1 := by
  simp [dupOwned, h2, hr]

section
variable (h2 : entRes m.e ≠ 2)
include h2

theorem dupOwned_alone_there (hdev : w.cmd.dev = u.devid) : u.dupOwned w m again = u.resFinish w 0 := by
  simp [dupOwned, h2, hdev]

theorem dupOwned_alone_full (hdev : w.cmd.dev ≠ u.devid) (hslots : u.freeSlots' 1 = []) : u.dupOwned w m again = u.resFinish w 2 := by
  simp [dupOwned, h2, hdev, hslots]

theorem dupOwned_alone_copies (hdev : w.cmd.dev ≠ u.devid) (hslots : u.freeSlots' 1 ≠ []) : ∃ r : DirRec,
    u.dupOwned w m again = (if u.pendingAt (entPa m.e) w.size then u else u.writeRec r).copyBegin w m again := by
  obtain ⟨slot, l, hl⟩ := List.exists_cons_of_ne_nil hslots
  exact ⟨{ slot := slot, va := m.base, size := m.size, reps := [(w.cmd.dev, w.cmd.dev * 2 ^ 40 + w.dst)], holder := false },
    by simp [dupOwned, h2, hdev, hl]⟩

end

section
variable {r : DirRec} (h2 : entRes m.e = 2) (hr : u.dirFind m.base false = some r)
include h2 hr

theorem dupOwned_recorded_there (hdev : w.cmd.dev = u.devid ∨ w.cmd.dev ∈ r.reps.map (·.1)) : u.dupOwned w m again = u.resFinish w 0 := by
  have hthere : (decide (w.cmd.dev = u.devid) || r.reps.any fun x => x.1 == w.cmd.dev) = true := by
    rw [Bool.or_eq_true, decide_eq_true_eq, any_fst_beq_iff]
    exact hdev
  simp only [dupOwned, h2, hr, hthere, if_true, Option.isNone_some, Bool.and_false, Bool.false_eq_true, if_false]

theorem dupOwned_recorded_full (hdev : w.cmd.dev ≠ u.devid) (hreps : w.cmd.dev ∉ r.reps.map (·.1)) (hfull : 7 ≤ r.reps.length) :
    u.dupOwned w m again = u.resFinish w 2 := by
  have hnot : r.reps.any (fun x => x.1 == w.cmd.dev) = false := Bool.eq_false_iff.2 (mt any_fst_beq_iff.1 hreps)
  simp [dupOwned, h2, hr, hdev, hnot, hfull]

theorem dupOwned_recorded_copies (hdev : w.cmd.dev ≠ u.devid) (hreps : w.cmd.dev ∉ r.reps.map (·.1)) (hroom : r.reps.length < 7) : ∃ r' : DirRec,
    u.dupOwned w m again = (if u.pendingAt (entPa m.e) w.size then u else u.writeRec r').copyBegin w m again := by
  have hnot : r.reps.any (fun x => x.1 == w.cmd.dev) = false := Bool.eq_false_iff.2 (mt any_fst_beq_iff.1 hreps)
  exact ⟨{ slot := r.slot, va := m.base, size := m.size, reps := r.reps ++ [(w.cmd.dev, w.cmd.dev * 2 ^ 40 + w.dst)], holder := false },
    by simp [dupOwned, h2, hr, hdev, hnot, Nat.not_le.2 hroom]⟩

end

end

/-- A DUP that has a record of the page written begins as any copy does. -/
theorem begins_of_writeRec {r : DirRec} (hsize : 0 < m.size)
    (hexec : exec i s = .next ((if (s.begun (workFor c op m) s.mem s.psn).pendingAt (entPa m.e) (workFor c op m).size then
        s.begun (workFor c op m) s.mem s.psn
      else (s.begun (workFor c op m) s.mem s.psn).writeRec r).copyBegin (workFor c op m) m fun u => u.recmd i c)) : s.Begins c i m := by
  split at hexec
  · exact begins_of_copyBegin hsize hexec
  · obtain ⟨mem, psn, e⟩ := (s.begun (workFor c op m) s.mem s.psn).writeRec_eq r
    rw [e] at hexec
    exact begins_of_copyBegin (mem := mem) (psn := psn) hsize hexec

/-! ## The commands -/

section
variable (hc : s.cmd = some c)
include hc

theorem exec_dup : ∃ k, exec .dup s = .next (s.resBegin c 1 .dup k) := by
  rw [show exec .dup s = execDup s from rfl, execDup, hc]
  exact ⟨_, rfl⟩

theorem exec_migrate : ∃ k, exec .migrate s = .next (s.resBegin c 2 .migrate k) := by
  rw [show exec .migrate s = execMigrate s from rfl, execMigrate, hc]
  exact ⟨_, rfl⟩

theorem exec_collapse : ∃ k, exec .collapse s = .next (s.resBegin c 3 .collapse k) := by
  rw [show exec .collapse s = execCollapse s from rfl, execCollapse, hc]
  exact ⟨_, rfl⟩

theorem exec_split : ∃ k, exec .split s = .next (s.resBegin c 4 .split k) := by
  rw [show exec .split s = execSplit s from rfl, execSplit, hc]
  exact ⟨_, rfl⟩

variable (hm : s.mappedBy c.port c.va = some m) (hw : s.workedOn m.base m.size = false)
include hm hw

/-- DUP of a page on which no other work is in progress. -/
theorem exec_dup_free : exec .dup s = .next (
    let u := s.begun (workFor c 1 m) s.mem s.psn
    if s.peerOf m = s.devid then
      if s.trans.serving.any fun x => meets x.va x.size m.base m.size then
        { u with trans := { u.trans with works := u.trans.works.filter (· != workFor c 1 m) } }.recmd .dup c
      else u.dupOwned (workFor c 1 m) m fun u => u.recmd .dup c
    else if c.dev = s.peerOf m then u.resFinish (workFor c 1 m) 0
    else (u.putWork (workFor c 1 m) { workFor c 1 m with await := [s.peerOf m] }).sendRes
      (s.resPkt (s.peerOf m) 6 c.dev m.size m.base (entPa m.e))) := by
  rw [show exec .dup s = execDup s from rfl, execDup, hc]
  exact congrArg Host.Outcome.next (resBegin_free hm hw)

theorem exec_migrate_free : exec .migrate s = .next (
    let u := s.begun (workFor c 2 m) s.mem s.psn
    if entRes m.e != 0 then u.resFinish (workFor c 2 m) 1 else if c.dev = s.devid then u.resFinish (workFor c 2 m) 0
    else u.copyBegin (workFor c 2 m) m fun u => u.recmd .migrate c) := by
  rw [show exec .migrate s = execMigrate s from rfl, execMigrate, hc]
  exact congrArg Host.Outcome.next (resBegin_free hm hw)

theorem exec_collapse_free : exec .collapse s = .next (
    let u := s.begun (workFor c 3 m) s.mem s.psn
    if entRes m.e != 2 then u.resFinish (workFor c 3 m) 0
    else (u.putWork (workFor c 3 m) { workFor c 3 m with await := [entOwner m.e] }).sendRes
      (s.resPkt (entOwner m.e) 8 c.dev m.size m.base (entPa m.e))) := by
  rw [show exec .collapse s = execCollapse s from rfl, execCollapse, hc]
  exact congrArg Host.Outcome.next (resBegin_free hm hw)

theorem exec_split_free : exec .split s = .next (
    let u := s.begun (workFor c 4 m) s.mem s.psn
    let owner := if entRes m.e = 2 then entOwner m.e else s.devid
    if m.size < 2 ^ 21 then u.resFinish (workFor c 4 m) 0
    else (u.putWork (workFor c 4 m) { workFor c 4 m with await := [owner] }).sendRes (s.resPkt owner 9 s.devid m.size m.base (entPa m.e))) := by
  rw [show exec .split s = execSplit s from rfl, execSplit, hc]
  exact congrArg Host.Outcome.next (resBegin_free hm hw)

end

section
variable (hc : s.cmd = some c) (hs : s.Sound) (hring : s.trans.rcqt = s.trans.rcqh % s.trans.rcqn)
  (hothers : ∀ w ∈ s.trans.works, w.asked.isSome = true) (hm : s.mappedBy c.port c.va = some m) (hw : s.workedOn m.base m.size = false)
include hc hs hring hothers hm hw

/-- DUP of a page that this device owns or holds alone, and of which no piece is being collapsed, by its record and the new device. -/
theorem dup_owned (hsize : 0 < m.size) (hpeer : s.peerOf m = s.devid)
    (hserving : ∀ x ∈ s.trans.serving, meets x.va x.size m.base m.size = false) :
    (entRes m.e = 2 → s.dirFind m.base false = none → s.Ends c .dup 1) ∧
    (entRes m.e ≠ 2 → c.dev = s.devid → s.Ends c .dup 0) ∧
    (entRes m.e ≠ 2 → c.dev ≠ s.devid → s.freeSlots' 1 = [] → s.Ends c .dup 2) ∧
    (entRes m.e ≠ 2 → c.dev ≠ s.devid → s.freeSlots' 1 ≠ [] → s.Begins c .dup m) ∧
    (∀ x, entRes m.e = 2 → s.dirFind m.base false = some x →
      (c.dev = s.devid ∨ c.dev ∈ x.reps.map (·.1) → s.Ends c .dup 0) ∧
      (c.dev ≠ s.devid → c.dev ∉ x.reps.map (·.1) → 7 ≤ x.reps.length → s.Ends c .dup 2) ∧
      (c.dev ≠ s.devid → c.dev ∉ x.reps.map (·.1) → x.reps.length < 7 → s.Begins c .dup m)) := by
  have howned := exec_of_eq (exec_dup_free hc hm hw) ((if_pos hpeer).trans (if_neg (by simpa using hserving)))
  have hends {code : Nat} (hcode : code < 2 ^ 64) (e : _ = _) : s.Ends c .dup code :=
    ends_of_resFinish (op := 1) (m := m) hs hring hothers (exec_of_eq howned e) hcode
  refine ⟨fun h2 hr => hends (by decide) (dupOwned_unrecorded h2 hr), fun h2 hd => hends (by decide) (dupOwned_alone_there h2 hd),
    fun h2 hd hslots => hends (by decide) (dupOwned_alone_full h2 hd hslots), fun h2 hd hslots => ?_,
    fun x h2 hr => ⟨fun hd => hends (by decide) (dupOwned_recorded_there h2 hr hd),
      fun hd hreps hfull => hends (by decide) (dupOwned_recorded_full h2 hr hd hreps hfull), fun hd hreps hroom => ?_⟩⟩
  · obtain ⟨r, e⟩ := dupOwned_alone_copies (u := s.begun (workFor c 1 m) s.mem s.psn) (w := workFor c 1 m) h2 hd hslots
    exact begins_of_writeRec (op := 1) (r := r) hsize (exec_of_eq howned e)
  · obtain ⟨r, e⟩ := dupOwned_recorded_copies (u := s.begun (workFor c 1 m) s.mem s.psn) (w := workFor c 1 m) h2 hr hd hreps hroom
    exact begins_of_writeRec (op := 1) (r := r) hsize (exec_of_eq howned e)

/-- DUP of a page that another device owns or holds asks that device, unless it is to have the copy; during a collapse of the page it waits. -/
theorem dup_elsewhere (hdev : c.dev < 4096) :
    (s.peerOf m ≠ s.devid → c.dev = s.peerOf m → s.Ends c .dup 0) ∧
    (s.peerOf m ≠ s.devid → c.dev ≠ s.peerOf m → s.Asks c .dup m (s.peerOf m) 6 c.dev) ∧
    (s.peerOf m = s.devid → (∃ x ∈ s.trans.serving, meets x.va x.size m.base m.size = true) → s.TriedAgain c .dup) := by
  have hfree := exec_dup_free hc hm hw
  refine ⟨fun hp hd => ?_, fun hp hd => ?_, fun hp hx => ?_⟩
  · exact ends_of_resFinish hs hring hothers (exec_of_eq hfree ((if_neg hp).trans (if_pos hd))) (by decide)
  · exact asks_of_sendRes hdev (by decide) rfl (exec_of_eq hfree ((if_neg hp).trans (if_neg hd)))
  · exact ⟨_, exec_of_eq hfree ((if_pos hp).trans (if_pos (List.any_eq_true.2 hx))), due_recmd ..⟩

theorem migrate_free (hsize : 0 < m.size) :
    (entRes m.e ≠ 0 → s.Ends c .migrate 1) ∧ (entRes m.e = 0 → c.dev = s.devid → s.Ends c .migrate 0) ∧
    (entRes m.e = 0 → c.dev ≠ s.devid → s.Begins c .migrate m) := by
  have hfree := exec_migrate_free hc hm hw
  refine ⟨fun h0 => ?_, fun h0 hd => ?_, fun h0 hd => ?_⟩
  · exact ends_of_resFinish hs hring hothers (exec_of_eq hfree (if_pos (bne_iff_ne.2 h0))) (by decide)
  · exact ends_of_resFinish hs hring hothers (exec_of_eq hfree ((if_neg (by simp [h0])).trans (if_pos hd))) (by decide)
  · exact begins_of_copyBegin hsize (exec_of_eq hfree ((if_neg (by simp [h0])).trans (if_neg hd)))

theorem collapse_free (hdev : c.dev < 4096) :
    (entRes m.e ≠ 2 → s.Ends c .collapse 0) ∧ (entRes m.e = 2 → s.Asks c .collapse m (entOwner m.e) 8 c.dev) := by
  have hfree := exec_collapse_free hc hm hw
  refine ⟨fun h2 => ?_, fun h2 => ?_⟩
  · exact ends_of_resFinish hs hring hothers (exec_of_eq hfree (if_pos (bne_iff_ne.2 h2))) (by decide)
  · exact asks_of_sendRes hdev (by decide) rfl (exec_of_eq hfree (if_neg (by simp [h2])))

theorem split_free :
    (m.size < 2 ^ 21 → s.Ends c .split 0) ∧
    (2 ^ 21 ≤ m.size → s.Asks c .split m (if entRes m.e = 2 then entOwner m.e else s.devid) 9 s.devid) := by
  have hfree := exec_split_free hc hm hw
  have hdevid : s.devid < 4096 := Nat.mod_lt _ (by decide)
  refine ⟨fun hsmall => ?_, fun hlarge => ?_⟩
  · exact ends_of_resFinish hs hring hothers (exec_of_eq hfree (if_pos hsmall)) (by decide)
  · exact asks_of_sendRes hdevid (by decide) rfl (exec_of_eq hfree (if_neg (Nat.not_lt.2 hlarge)))

end

end State

open State

/-- Settles O45: a command by what its root maps, by the work in progress on that page, and then each command by what the page's entry and record
allow. -/
theorem residencyCommands : Obligations.ResidencyCommands := by
  intro s c hc hdev hring hs hothers ends copies waits asks again
  obtain ⟨_, hdup⟩ := exec_dup hc
  obtain ⟨_, hmigrate⟩ := exec_migrate hc
  obtain ⟨_, hcollapse⟩ := exec_collapse hc
  obtain ⟨_, hsplit⟩ := exec_split hc
  refine ⟨fun h => ⟨ends_unmapped hs hring hothers hdup h, ends_unmapped hs hring hothers hmigrate h,
    ends_unmapped hs hring hothers hcollapse h, ends_unmapped hs hring hothers hsplit h⟩, fun m hm hsize => ?_⟩
  intro peer r src begins
  refine ⟨fun hw => ⟨triedAgain_workedOn hdup hm hw, triedAgain_workedOn hmigrate hm hw, triedAgain_workedOn hcollapse hm hw,
    triedAgain_workedOn hsplit hm hw⟩, fun hw => ?_⟩
  obtain ⟨hthere, hasks, hcollapsing⟩ := dup_elsewhere hc hs hring hothers hm hw hdev
  obtain ⟨hnotLocal, hhome, hmoves⟩ := migrate_free hc hs hring hothers hm hw hsize
  obtain ⟨hnotDupl, hdupl⟩ := collapse_free hc hs hring hothers hm hw hdev
  obtain ⟨hsmall, hlarge⟩ := split_free hc hs hring hothers hm hw
  exact ⟨hthere, hasks, hcollapsing, dup_owned hc hs hring hothers hm hw hsize, hnotLocal, hhome, hmoves, hnotDupl, hdupl, hsmall, hlarge⟩

end Sys2Proof.Machine
end

section
/-! The refutation of the statement about residency messages, O46. Its clause on an INVAL that waits for accesses names no OP of the packet. A packet that
waits is taken up again as the event of its own OP (`State.schedRes`), which is RES_INVAL for an INVAL alone; the statement asks nothing of the OP. -/

namespace Sys2Proof.Machine

open Sys2Proof.Claims (ActsOn)

/-- An event of the residency unit acts at once, on the packet and in the state that `ActsOn` gives. -/
theorem onRes_of_actsOn {s s' : State} {p : Packet} (h : ActsOn s s' p) (f : State → Packet → State) : onRes s f = .next (f s' p) := by
  obtain ⟨q, t, hpkt, hearly, hbehind, hheld, hclose, rfl⟩ := h
  simp [onRes, onPkt, event, hpkt, hearly, hbehind, hheld, hclose]

/-- RES_INVAL of pages to which accesses are still to be accepted holds them, and its packet is taken up again. -/
theorem execResInval_waits {s s' : State} {p : Packet} (h : ActsOn s s' p)
    (hp : ((s'.duplIn p.resVa p.resSize p.src).any fun m =>
      s'.pendingAt (max (entPa m.e) (entPa m.e + p.resVa - m.base)) (min m.size p.resSize)) = true) :
    exec .resInval s =
      .next (((s'.duplIn p.resVa p.resSize p.src).foldl (fun s m => s.addHold (State.holdOf m)) s').schedRes 1 p) := by
  show execResInval s = _
  rw [execResInval, onRes_of_actsOn h]
  exact congrArg Host.Outcome.next (if_pos hp)

/-- A state acts at once on the packet of its event, when that came by no request, no packet and no waiting access is due, and nothing is poisoned
or under a lane test. -/
theorem actsOn_of_quiet {s : State} {p : Packet} (hpkt : s.pkt = some p) (htag : p.tag = State.noTag) (hstalled : s.trans.stalled = [])
    (hagenda : ∀ e ∈ s.agenda, e.rank ≠ State.rankAgain ∧ e.ev.pkt = none) (hpsn : s.psn = []) (hdescPsn : s.descPsn = [])
    (hlogs : s.pkg.hbmLogs = Package.reset.hbmLogs) : ActsOn s s p := by
  have hchan (pa : Nat) : s.chanHeld pa = false := by
    unfold State.chanHeld
    rw [hlogs]
    simp only [Package.reset, nget]
    split <;> simp
  have hblock (a : Nat) : s.blockPsn a = none := by simp [State.blockPsn, hpsn, hdescPsn, mget]
  have hclean (pas : List Nat) : s.ueReads 0 0 pas = s := List.foldl_fixed' (fun a => if_neg (by simp [hblock])) pas
  refine ⟨p, s, hpkt, by simp [hstalled], ?_, ?_, by simp [State.resClose, htag], (hclean _).symm⟩
  · rw [State.resBehind, List.any_eq_false]
    intro e he
    simp [(hagenda e he).2]
  · rw [State.resHeld, State.waitsOn, Bool.or_eq_false_iff, List.any_eq_false, List.any_eq_false]
    exact ⟨fun x _ => by simp [hchan], fun e he => by simp [(hagenda e he).1]⟩

/-- A COLLAPSE from device 5 for the page at 4096. -/
def collapseMsg : Packet := { State.reset.resPkt 0 1 5 4096 4096 0x30000 with src := 5 }

/-- The page at 4096 as root 0 maps it: DUPL of device 5, with its copy here at 0x20000. -/
def duplPage : Mapped := ⟨4096, 4096, wd (5 * 2 ^ 52 + 0x203E1), 0x10008⟩

/-- A store to that copy, on its way to its bank. -/
def copyStore : Access :=
  { t := ⟨0, 0, 0⟩, id := 0, rb := none, kind := .st, pa := 0x20000, size := 8, data := 0, data2 := 0, retAt := 0, va := 4096, pc := 0,
    psn := none, mirror := none, ltag := 1 }

/-- The COLLAPSE has arrived where that page is mapped, by a node at 0x10000 that is its own child, and the store is still to be accepted. -/
def collapseArrived : State :=
  { State.reset.sched 0 0 (.bankAccept copyStore) with
    pkt := some collapseMsg
    mem := wrBytes (wrBytes [] 0x10000 (natLe 8 0x1000D)) 0x10008 (natLe 8 duplPage.e.toNat)
    trans := { Translation.reset with ptroot := nset Translation.reset.ptroot 0 0x10000 } }

theorem collapseArrived_sound : collapseArrived.Sound := by constructor <;> decide +kernel

theorem collapseArrived_acts : ActsOn collapseArrived collapseArrived collapseMsg :=
  actsOn_of_quiet rfl rfl rfl (by decide +kernel) rfl rfl rfl

/-- RES_INVAL takes the packet up again as the COLLAPSE that it is. -/
theorem resInval_collapseArrived {u : State} (h : exec .resInval collapseArrived = .next u) : ∀ e ∈ u.agenda, e.ev.op ≠ .resInval := by
  rw [execResInval_waits collapseArrived_acts (by decide +kernel)] at h
  obtain rfl := Host.Outcome.next.inj h
  decide +kernel

/-- Refutes O46: RES_INVAL with a COLLAPSE, of a DUPL page to which an access is still to be accepted, makes no RES_INVAL due. -/
theorem not_residencyMessages : ¬ Obligations.ResidencyMessages := by
  rintro ⟨-, h, -, -⟩
  obtain ⟨-, -, -, -, -, -, hinval, -⟩ := h collapseArrived collapseArrived collapseMsg collapseArrived_sound collapseArrived_acts
  obtain ⟨hwaits, -⟩ := hinval duplPage (by decide +kernel) (by decide +kernel) (by decide +kernel)
  obtain ⟨u, hu, ⟨e, he, -, hop, -⟩, -⟩ := hwaits (by decide +kernel)
  exact resInval_collapseArrived hu e he hop

end Sys2Proof.Machine
end

section
/-! SUPPORT. Accesses of a thread to the memory of another device (R144 to R146, R206, R287, R288): the packet that each sends, and what its thread
becomes. -/

namespace Sys2Proof

/-- A load's value is sign-extended (R280). -/
def AccKind.signed : AccKind → Bool
  | .ld sx => sx
  | _ => false

end Sys2Proof

namespace Sys2Proof.Machine

open Sys2Proof.Claims (Issues Stepped Folded Completes TookEntry TakesEntry ended counted put)

/-! ## Return-buffer entries (R42) -/

/-- A thread that completes with a new return-buffer entry has taken it. -/
theorem tookEntry_of_stepped {t w : Thread} {ds : List Operand} {remote : Bool} {va pa next : Word}
    (h : Stepped (t.take ds none remote va pa) w next) : TookEntry t w ds remote next va pa := h

/-- A long-class instruction completes with an entry taken, PC going to the next instruction (R239). -/
theorem takesEntry_of_done {i : Instr} {s s' : State} {t : Thread} {words : Nat} {sm : Bool} {ds : List Operand} {vs : List Word}
    (h : exec i s = .next (s'.done (t.take ds none false) words sm vs)) : TakesEntry i s s' t sm ds (t.pc + wd (4 * words)) := by
  obtain ⟨w, hw, hstep⟩ := done_ended s' (t.take ds none false) words sm vs
  exact ⟨w, h.trans (congrArg Host.Outcome.next hw), tookEntry_of_stepped hstep⟩

/-! ## The low bits of a value (R205) -/

/-- The low bits of a dword are its number modulo their power of two. -/
theorem zeroExtend_eq {k : Nat} (hk : k ≤ 64) (v : Word) : zeroExtend k v = wd (v.toNat % 2 ^ k) := by
  have hpow : 2 ^ 64 = 2 ^ k * 2 ^ (64 - k) := by rw [← Nat.pow_add, Nat.add_sub_cancel' hk]
  have hle : 2 ^ k ≤ 2 ^ 64 := Nat.pow_le_pow_right (by decide) hk
  apply BitVec.eq_of_toNat_eq
  rw [zeroExtend, BitVec.toNat_ushiftRight, BitVec.toNat_shiftLeft, Nat.shiftLeft_eq, Nat.shiftRight_eq_div_pow, hpow, Nat.mul_mod_mul_right,
    Nat.mul_div_cancel _ (Nat.two_pow_pos _), wd, BitVec.toNat_ofNat,
    Nat.mod_eq_of_lt (Nat.lt_of_lt_of_le (Nat.mod_lt _ (Nat.two_pow_pos k)) hle)]

theorem zeroExtend_dword (v : Word) : zeroExtend 64 v = v := by
  rw [zeroExtend_eq (Nat.le_refl 64), Nat.mod_eq_of_lt v.isLt]
  exact BitVec.ofNat_toNat ..

theorem zeroExtend_word (v : Word) : zeroExtend 32 v = (v.setWidth 32).setWidth 64 := by
  rw [zeroExtend_eq (by decide)]
  exact BitVec.eq_of_toNat_eq (by simp [wd])

namespace State
variable (s : State) {t : Thread} {i : Instr} {words n dev pa : Nat} {sm rx : Bool} {kind : AccKind} {k : AKind} {ea data data2 : Word}
  {d : Operand} {psn : Option Poison} {r : Option RangeEnt}

/-! ## Loads (R144, R146) -/

/-- The request of an atomic at another device (R207, R288). -/
def atomPkt (t : Thread) (code vc : Nat) (op : AtomOp) (n : Nat) (ea data data2 : Word) (dev pa : Nat) : Packet :=
  { s.pktOf t code vc dev with
    opsz := n.log2, aux := op.code, addr := pa, payload := [data, if op == AtomOp.cas then data2 else 0],
    win := s.inWindow t ea && (op == AtomOp.add || op == AtomOp.fadd) }

/-- The request of a remote load: RD, or ATM of an atomic (R206, R207). -/
def loadPkt (t : Thread) (kind : AccKind) (n : Nat) (ea data data2 : Word) (dev pa : Nat) : Packet :=
  match kind with
  | .atom op => s.atomPkt t 0x04 0 op n ea data data2 dev pa
  | _ => { s.pktOf t 0x01 0 dev with opsz := opszOf kind n, addr := pa }

/-- The instruction completes with an entry for a remote load, and its thread waits for the reply: at the switch point of its marker, or parked. -/
def awaitReply (t : Thread) (words : Nat) (sm : Bool) (d : Operand) (va pa : Word) : State :=
  let u := s.done { t.take [d] none true va pa with flushed := [] } words sm []
  if sm then u else u.thenPark t.ref (.event false)

theorem ref?_setThread_self (w : Thread) : (s.setThread w).ref? w.ref = some w :=
  Option.or_eq_some_iff.2 (.inl (by
    rw [Thread.ref, thread?_setThread_self, Option.filter_some, if_pos (beq_self_eq_true _)]))

theorem awaitReply_awaits (words : Nat) (sm : Bool) (d : Operand) (va pa : Word) : ∃ w,
    TookEntry { t with flushed := [] } w [d] true (t.pc + wd (4 * words)) va pa ∧
    (sm = true → s.awaitReply t words sm d va pa = ended s t w true) ∧
    (sm = false → s.awaitReply t words sm d va pa = (put (counted s t) w).park w (.event false)) := by
  obtain ⟨w, hw, hstep⟩ := done_ended s { t.take [d] none true va pa with flushed := [] } words sm []
  refine ⟨w, hstep, fun h => ?_, fun h => ?_⟩
  · subst h
    exact hw
  · subst h
    have hput : s.done { t.take [d] none true va pa with flushed := [] } words false [] = put (counted s t) w := hw
    have href : w.ref = t.ref := by rw [hstep.2]; rfl
    have hfound : (put (counted s t) w).ref? t.ref = some w := href ▸ ref?_setThread_self _ w
    rw [awaitReply, if_neg Bool.false_ne_true, hput, thenPark, hfound]

variable {s}

/-- A flow with a posted access that is not flushed is flushed before the load (R146). -/
theorem remoteLoad_flushes {f : Flow} (hp : s.plainOut t = false) (hf : t.unflushed dev = [f]) :
    s.remoteLoad t words sm kind n ea d data data2 dev pa =
      (s.threadReq t { s.blankPkt 0x09 2 f.dst with flow := f } (.implicit t.ref f)).park t (.implicit dev) := by
  unfold remoteLoad
  rw [if_neg (by simp [hp]), if_pos (by simp [hf]), hf]
  rfl

theorem remoteLoad_sends (hp : s.plainOut t = false) (hf : t.unflushed dev = []) :
    s.remoteLoad t words sm kind n ea d data data2 dev pa =
      (s.threadReq t (s.loadPkt t kind n ea data data2 dev pa) (.load t.ref t.nextId n kind.signed dev)).awaitReply t words sm d ea
        (wd (dev * 2 ^ 40 + pa)) := by
  unfold remoteLoad
  rw [if_neg (by simp [hp]), if_neg (by simp [hf])]
  cases kind <;> rfl

section
variable (hc : s.check t k n rx ea = .ok (.there dev pa) r) (hs : s.stall t (.there dev pa) n kind.writes rx false = none)
include hc hs

/-- An access to another device that passes and that nothing holds leaves for the fabric, with or without a value to come. -/
theorem access_load_there (hk : ∀ op, kind ≠ .atom op) (hrb : t.rb.length ≠ 8) :
    s.access t words sm kind k n rx ea (some d) data data2 psn = s.remoteLoad t words sm kind n ea d data data2 dev pa := by
  have hstall : s.stall t (.there dev pa) n kind.writes rx (kind == .ldbd || kind == .stbd) = none := hs
  unfold access
  rw [if_neg (by simp [hrb]), hc]
  simp only [hstall]
  cases kind with
  | atom op => exact absurd rfl (hk op)
  | _ => rfl

theorem access_atom_there {op : AtomOp} (hk : kind = .atom op) (hrb : t.rb.length ≠ 8) :
    s.access t words sm kind k n rx ea (some d) data data2 psn = s.remoteLoad (endRegion t) words sm kind n ea d data data2 dev pa := by
  subst hk
  unfold access
  rw [if_neg (by simp [hrb]), hc]
  have hstall : s.stall t (.there dev pa) n (AccKind.atom op).writes rx (AccKind.atom op == .ldbd || AccKind.atom op == .stbd) = none := hs
  simp only [hstall]
  rfl

theorem access_store_there :
    s.access t words sm kind k n rx ea none data data2 psn = s.remoteStore t words sm kind n rx ea data data2 psn dev pa := by
  have hstall : s.stall t (.there dev pa) n kind.writes rx (kind == .ldbd || kind == .stbd) = none := hs
  unfold access
  rw [if_neg (by simp), hc]
  simp only [hstall]

end

end State

/-! ## Stores and posted atomics (R145, R146, R288, R376) -/

/-- The thread whose posted access to another device has left on its flow: an open region has ended, the access occupies its block until the
fabric interface has taken it, and the flow is unflushed. -/
def Thread.posting (t : Thread) (s : State) (dev pa : Nat) (rx : Bool) : Thread :=
  Thread.postedTo
    { State.endRegion t with taking := (State.farBlock dev pa, !rx, s.now + 8) :: t.taking.filter fun x => s.now < x.2.2 } (s.flowTo t dev)

namespace State
variable {s : State} {t : Thread} {i : Instr} {words n dev pa : Nat} {sm rx : Bool} {kind : AccKind} {k : AKind} {ea data data2 : Word}
  {d : Operand} {psn : Option Poison} {r : Option RangeEnt}

/-- A paired thread exchanges fingerprints first (R376). -/
theorem remoteStore_exchanges (htwin : t.twin ≠ none) (hx : t.exchanged = false) :
    s.remoteStore t words sm kind n rx ea data data2 psn dev pa = s.exchange t :=
  if_pos (by simp [Option.isSome_iff_ne_none.2 htwin, hx])

section
variable (hx : t.twin = none ∨ t.exchanged = true)
include hx

theorem no_exchange : ¬(t.twin.isSome && !t.exchanged) = true := by
  rcases hx with h | h <;> simp [h]

theorem remoteStore_data (hk : ∀ op, kind ≠ .atom op) :
    s.remoteStore t words sm kind n rx ea data data2 psn dev pa =
      (s.sendPosted t { s.pktOf t 0x02 2 dev with
        opsz := opszOf kind n, addr := pa, payload := [if kind == .stbd then data &&& 0xFFFF else zeroExtend (8 * n) data],
        poisoned := b01 psn.isSome }).done (t.posting s dev pa rx) words sm [ea, data] := by
  unfold remoteStore
  rw [if_neg (no_exchange hx)]
  cases kind with
  | atom op => exact absurd rfl (hk op)
  | _ => rfl

theorem remoteStore_atom {op : AtomOp} (hwin : (s.inWindow t ea && (op == .add || op == .fadd)) = false) :
    s.remoteStore t words sm (.atom op) n rx ea data data2 psn dev pa =
      (s.sendPosted t (s.atomPkt t 0x05 2 op n ea data data2 dev pa)).done (t.posting s dev pa rx) words sm [] := by
  have hwin' (l : List (Nat × Bool × Nat)) : (s.inWindow { endRegion t with taking := l } ea && (op == .add || op == .fadd)) = false := hwin
  unfold remoteStore atomPkt
  rw [if_neg (no_exchange hx)]
  simp only [hwin', hwin]
  rfl

/-- An addition in a reduction window is a request that is acknowledged (R288). -/
theorem remoteStore_window {op : AtomOp} (hwin : (s.inWindow t ea && (op == .add || op == .fadd)) = true) :
    s.remoteStore t words sm (.atom op) n rx ea data data2 psn dev pa =
      ((s.onLaunch t.ltag fun l => { l with flushTags := s.nextTag :: l.flushTags }).threadReq t (s.atomPkt t 0x05 0 op n ea data data2 dev pa)
        (.winAck t.ref dev)).done { t.posting s dev pa rx with winAck := (s.nextTag, dev) :: t.winAck } words sm [] := by
  have hwin' (l : List (Nat × Bool × Nat)) : (s.inWindow { endRegion t with taking := l } ea && (op == .add || op == .fadd)) = true := hwin
  unfold remoteStore atomPkt
  rw [if_neg (no_exchange hx)]
  simp only [hwin', hwin]
  rfl

end

end State
end Sys2Proof.Machine
end

section
/-! The statement about accesses to other devices, O23. -/

namespace Sys2Proof.Machine

open Sys2Proof.Claims (Issues Completes TookEntry ended counted put)

namespace State
variable {s : State} {t : Thread} {i : Instr} {words n dev pa : Nat} {sm rx : Bool} {kind : AccKind} {k : AKind} {ea data next : Word}
  {d : Operand} {psn : Option Poison} {r : Option RangeEnt}

/-- A store to another device: the exchange of a paired thread, or WR on the thread's flow. -/
theorem store_there {opsz : Nat} {v : Word} (hk : ∀ op, kind ≠ .atom op) (hw : kind.writes = true) (hop : opszOf kind n = opsz)
    (hv : (if kind == .stbd then data &&& 0xFFFF else zeroExtend (8 * n) data) = v) (hnext : t.pc + wd (4 * words) = next)
    (hi : exec i s = .next (s.access t words sm kind k n rx ea none data 0 psn)) (hc : s.check t k n rx ea = .ok (.there dev pa) r)
    (hs : s.stall t (.there dev pa) n true rx false = none) :
    (t.twin ≠ none → t.exchanged = false → exec i s = .next (s.exchange t)) ∧
    (t.twin = none ∨ t.exchanged = true → Completes i s
      (s.sendPosted t { s.pktOf t 0x02 2 dev with opsz := opsz, addr := pa, payload := [v], poisoned := b01 psn.isSome })
      (t.posting s dev pa rx) sm next) := by
  subst hop hv hnext
  rw [access_store_there hc (by rw [hw]; exact hs)] at hi
  exact ⟨fun htwin hx => hi.trans (congrArg Host.Outcome.next (remoteStore_exchanges htwin hx)),
    fun hx => completes_of_done (hi.trans (congrArg Host.Outcome.next (remoteStore_data hx hk)))⟩

/-- The load `i` of the thread `t`, which goes on as `u`, has an unflushed flow to the device flushed first; else it sends the request `p`, and
awaits `n` bytes for `d`. -/
def LoadsFar (i : Instr) (s : State) (t u : Thread) (sm : Bool) (d : Operand) (dev pa : Nat) (p : Packet) (n : Nat) (sx : Bool)
    (ea next : Word) : Prop :=
  (∀ f, t.unflushed dev = [f] →
    exec i s = .next ((s.threadReq t { s.blankPkt 0x09 2 f.dst with flow := f } (.implicit t.ref f)).park u (.implicit dev))) ∧
  (t.unflushed dev = [] → ∃ w, TookEntry { u with flushed := [] } w [d] true next ea (wd (dev * 2 ^ 40 + pa)) ∧
    (sm = true → exec i s = .next (ended (s.threadReq t p (.load t.ref t.nextId n sx dev)) t w true)) ∧
    (sm = false → exec i s = .next ((put (counted (s.threadReq t p (.load t.ref t.nextId n sx dev)) t) w).park w (.event false))))

theorem loadsFar_of_remoteLoad {data2 : Word} (hp : s.plainOut t = false)
    (hi : exec i s = .next (s.remoteLoad t words sm kind n ea d data data2 dev pa)) :
    LoadsFar i s t t sm d dev pa (s.loadPkt t kind n ea data data2 dev pa) n kind.signed ea (t.pc + wd (4 * words)) := by
  refine ⟨fun f hf => hi.trans (congrArg Host.Outcome.next (remoteLoad_flushes hp hf)), fun hf => ?_⟩
  obtain ⟨w, htook, hmarked, hparked⟩ := (s.threadReq t (s.loadPkt t kind n ea data data2 dev pa)
    (.load t.ref t.nextId n kind.signed dev)).awaitReply_awaits (t := t) words sm d ea (wd (dev * 2 ^ 40 + pa))
  have hsent := hi.trans (congrArg Host.Outcome.next (remoteLoad_sends hp hf))
  exact ⟨w, htook, fun h => hsent.trans (congrArg Host.Outcome.next (hmarked h)), fun h => hsent.trans (congrArg Host.Outcome.next (hparked h))⟩

/-- A load of another device. -/
theorem load_there {p : Packet} {sx : Bool} (hk : ∀ op, kind ≠ .atom op) (hw : kind.writes = false)
    (hpkt : s.loadPkt t kind n ea 0 0 dev pa = p) (hsx : kind.signed = sx) (hnext : t.pc + wd (4 * words) = next)
    (hi : exec i s = .next (s.access t words sm kind k n rx ea (some d) 0 0 none)) (hrb : t.rb.length ≠ 8)
    (hc : s.check t k n rx ea = .ok (.there dev pa) r) (hs : s.stall t (.there dev pa) n false rx false = none) (hp : s.plainOut t = false) :
    LoadsFar i s t t sm d dev pa p n sx ea next := by
  subst hpkt hsx hnext
  rw [access_load_there hc (by rw [hw]; exact hs) hk hrb] at hi
  exact loadsFar_of_remoteLoad hp hi

/-- OPSZ of an access of `2 ^ sz` bytes. -/
theorem loadPkt_ld (sx : Bool) (sz : BitVec 2) : s.loadPkt t (.ld sx) (2 ^ sz.toNat) ea 0 0 dev pa =
    { s.pktOf t 0x01 0 dev with opsz := sz.toNat, addr := pa } := by
  rw [loadPkt, opszOf, Nat.log2_two_pow]
  all_goals exact nofun

/-- The request of an atomic on four or eight bytes, by its operands. -/
theorem atomPkt_eq (code vc : Nat) (op : AtomOp) (x : Bool) (b c : Word) :
    s.atomPkt t code vc op (if x then 8 else 4) ea (zeroExtend (8 * if x then 8 else 4) b) (zeroExtend (8 * if x then 8 else 4) c) dev pa =
      { s.pktOf t code vc dev with
        opsz := if x then 3 else 2, aux := op.code, addr := pa,
        payload := [if x then b else (b.setWidth 32).setWidth 64,
          if op = .cas then if x then c else (c.setWidth 32).setWidth 64 else 0],
        win := s.inWindow t ea && (op == .add || op == .fadd) } := by
  have hdword (v : Word) : zeroExtend (8 * 8) v = v := zeroExtend_dword v
  have hword (v : Word) : zeroExtend (8 * 4) v = (v.setWidth 32).setWidth 64 := zeroExtend_word v
  have hlog8 : Nat.log2 8 = 3 := by decide
  have hlog4 : Nat.log2 4 = 2 := by decide
  cases x
  · simp [atomPkt, hword, hlog4]
  · simp [atomPkt, hdword, hlog8]

section
variable {op : AtomOp} {x : Bool} {a : Operand} {v old : Word} {p : Nat → Nat → Packet}
  (hp : ∀ code vc, s.atomPkt t code vc op (if x then 8 else 4) (t.rd a) (zeroExtend (8 * if x then 8 else 4) v)
    (zeroExtend (8 * if x then 8 else 4) old) dev pa = p code vc)
  (hnext : t.pc + wd (4 * words) = next) (hi : exec i s = .next (s.atomic t words sm x op d a v old))
  (hc : s.check t (.atomic (d != .k0) (op == .fadd)) (if x then 8 else 4) false (t.rd a) = .ok (.there dev pa) r)
  (hs : s.stall t (.there dev pa) (if x then 8 else 4) true false false = none)
include hp hnext hi hc hs

/-- An atomic without a result: the exchange of a paired thread, or ATMP, posted, or in a reduction window acknowledged. -/
theorem postedAtomic_there {u : Thread} (hu : t.posting s dev pa false = u) (hd : d = .k0) :
    (t.twin ≠ none → t.exchanged = false → exec i s = .next (s.exchange t)) ∧
    (t.twin = none ∨ t.exchanged = true →
      ((s.inWindow t (t.rd a) && (op == .add || op == .fadd)) = false →
        Completes i s (s.sendPosted t (p 0x05 2)) u sm next) ∧
      ((s.inWindow t (t.rd a) && (op == .add || op == .fadd)) = true →
        Completes i s ((s.onLaunch t.ltag fun l => { l with flushTags := s.nextTag :: l.flushTags }).threadReq t (p 0x05 0) (.winAck t.ref dev))
          { u with winAck := (s.nextTag, dev) :: t.winAck } sm next)) := by
  subst hd hnext hu
  have hstore := hi.trans (congrArg Host.Outcome.next (access_store_there hc hs))
  refine ⟨fun htwin hx => hstore.trans (congrArg Host.Outcome.next (remoteStore_exchanges htwin hx)), fun hx => ⟨fun hwin => ?_, fun hwin => ?_⟩⟩
  · rw [← hp]
    exact completes_of_done (hstore.trans (congrArg Host.Outcome.next (remoteStore_atom hx hwin)))
  · rw [← hp]
    exact completes_of_done (hstore.trans (congrArg Host.Outcome.next (remoteStore_window hx hwin)))

/-- An atomic with a result is a load that ends an open region first. -/
theorem returningAtomic_there (hd : d ≠ .k0) (hrb : t.rb.length ≠ 8) (hpl : s.plainOut t = false) :
    LoadsFar i s t (endRegion t) sm d dev pa (p 0x04 0) (if x then 8 else 4) false (t.rd a) next := by
  have hret : (d != .k0) = true := by simp [hd]
  have haccess : s.atomic t words sm x op d a v old = s.access t words sm (.atom op) (.atomic (d != .k0) (op == .fadd)) (if x then 8 else 4) false
    (t.rd a) (if (d != .k0) = true then some d else none) (zeroExtend (8 * if x then 8 else 4) v) (zeroExtend (8 * if x then 8 else 4) old) none := rfl
  rw [haccess, if_pos hret, access_atom_there hc hs rfl hrb] at hi
  subst hnext
  have hload := loadsFar_of_remoteLoad (t := endRegion t) hpl hi
  rw [← hp]
  exact ⟨hload.1, hload.2⟩

end

end State

/-- Settles O23: each form is one access of its thread that passes its checks, and is a store, a load, or by D one or the other as an atomic. -/
theorem remoteAccesses : Obligations.RemoteAccesses := by
  intro s t sm rx sx x sz q off lit d a b c dev pa r h n m ea flow left swaps stores waits awaits loads low atomics cut
  have hexec (f : Thread → State) : onCur s f = .next (f t) := onCur_issues h f
  have hlog : opszOf .st n = sz.toNat := Nat.log2_two_pow
  have hcut (v : Word) : (if AccKind.st == .stbd then v &&& 0xFFFF else zeroExtend (8 * n) v) = cut v :=
    zeroExtend_eq (by have := sz.isLt; interval_cases hsz : sz.toNat <;> simp [n, hsz]) v
  have hquarantine (v : Word) : (if AccKind.st == .stbd then v &&& 0xFFFF else zeroExtend (8 * 8) v) = v := zeroExtend_dword v
  have hatomic {i : Instr} {words : Nat} {op : AtomOp} {old next : Word} (hnext : t.pc + wd (4 * words) = next)
      (hi : exec i s = .next (s.atomic t words sm x op d a (t.rd b) old)) : atomics i op old next := fun hc hs =>
    have hp (code vc : Nat) := State.atomPkt_eq (s := s) (t := t) (dev := dev) (pa := pa) (ea := ea) code vc op x (t.rd b) old
    ⟨State.postedAtomic_there hp hnext hi hc hs (u := left false) rfl, fun hd hrb hpl =>
      have hload := State.returningAtomic_there hp hnext hi hc hs hd hrb hpl
      ⟨hload.1, hload.2⟩⟩
  have hone {i : Instr} {op : AtomOp} (hi : exec i s = .next (s.atomic t 1 sm x op d a (t.rd b) 0)) : atomics i op 0 (t.pc + 4) := hatomic rfl hi
  refine ⟨State.store_there (kind := .st) (words := 1) nofun rfl hlog (hcut _) rfl (hexec _),
    State.store_there (kind := .st) (words := 3) nofun rfl hlog (hcut _) rfl (hexec _),
    State.store_there (kind := .stbd) (words := 1) nofun rfl rfl rfl rfl (hexec _),
    State.store_there (kind := .stbd) (words := 3) nofun rfl rfl rfl rfl (hexec _),
    State.store_there (kind := .st) (words := 1) nofun rfl rfl (hquarantine _) rfl (hexec _),
    State.store_there (kind := .st) (words := 3) nofun rfl rfl (hquarantine _) rfl (hexec _),
    State.load_there (kind := .ld sx) (words := 1) nofun rfl (State.loadPkt_ld sx sz) rfl rfl (hexec _),
    State.load_there (kind := .ld sx) (words := 3) nofun rfl (State.loadPkt_ld sx sz) rfl rfl (hexec _),
    State.load_there (kind := .ldbd) (words := 1) nofun rfl rfl rfl rfl (hexec _),
    State.load_there (kind := .ldbd) (words := 3) nofun rfl rfl rfl rfl (hexec _), ?_⟩
  exact ⟨hone (hexec _), hone (hexec _), hone (hexec _), hone (hexec _), hone (hexec _), hone (hexec _), hone (hexec _), hone (hexec _),
    hatomic (words := 3) rfl (hexec _)⟩

end Sys2Proof.Machine
end

section
/-! The statement about fences, flushes and the allocators of scratch memory, O24 (R115, R116, R143, R147, R283 to R286, R322). -/

namespace Sys2Proof.Machine

open Sys2Proof.Claims (Issues Faults Completes TakesEntry Due)

/-- The request of a SALLOC of the thread. -/
def Thread.sallocReq (t : Thread) (lvl len : Nat) : SallocReq :=
  { t := t.ref, id := t.nextId, lvl := lvl, inst := State.inst lvl t.unit, len := len }

namespace State
variable {s : State} {t : Thread} (h : Issues s t)

/-! ## FENCE, FLUSHR and MSYNC (R143, R147, R283, R284, R322) -/

theorem bits_high_ne_zero_iff (v : Word) : (bits v 12 52 != 0) = true ↔ 2 ^ 12 ≤ v.toNat := by
  have := v.isLt
  simp only [bits, bne_iff_ne]
  omega

section
variable (sm : Bool) (scope : BitVec 3) (a : Operand)
include h

theorem exec_fence_waits (ho : t.out ≠ []) : exec (.fence sm scope) s = .next (s.park t .accepted) :=
  (onCur_issues h _).trans (congrArg Host.Outcome.next (if_pos (by simpa using ho)))

/-- A fence completes that is not of system scope, or that finds nothing posted. -/
theorem exec_fence_done (ho : t.out = []) (hp : scope ≠ 5 ∨ (t.posted = [] ∧ t.winAck = [])) :
    exec (.fence sm scope) s = .next (s.done t 1 sm []) := by
  refine (onCur_issues h _).trans (congrArg Host.Outcome.next ?_)
  rw [if_neg (by simp [ho]), if_neg]
  rcases hp with hscope | ⟨hposted, hack⟩
  · exact fun hb => hscope (of_decide_eq_true (Bool.and_eq_true_iff.1 hb).1)
  · simp [hposted, hack]

theorem exec_fence_flushes (ho : t.out = []) {f : Flow} (hp : t.posted = [f]) :
    exec (.fence sm 5) s = .next ((s.sendFlush t f (.flush t.ref f)).park t (.flush 4096)) := by
  refine (onCur_issues h _).trans (congrArg Host.Outcome.next ?_)
  rw [if_neg (by simp [ho]), if_pos (by simp [hp]), hp]
  rfl

theorem exec_msync_waits (ho : t.out ≠ []) : exec (.msync sm) s = .next (s.park t .accepted) :=
  (onCur_issues h _).trans (congrArg Host.Outcome.next (if_pos (by simpa using ho)))

theorem exec_msync (ho : t.out = []) : exec (.msync sm) s = .next ((s.flushEach t (.msync t.ref) t.mirrors t.flushing).1.done
    { t with flushing := (s.flushEach t (.msync t.ref) t.mirrors t.flushing).2, mirrors := [] } 1 true []) :=
  (onCur_issues h _).trans (congrArg Host.Outcome.next (if_neg (by simp [ho])))

theorem exec_flushr_reserved (hv : 2 ^ 12 ≤ (t.rd a).toNat) : Faults (.flushr sm a) s t (infoVa 3 (t.rd a) false 0) (t.rd a) :=
  (onCur_issues h _).trans (congrArg Host.Outcome.next (if_pos ((bits_high_ne_zero_iff _).2 hv)))

section
variable {a} (hv : (t.rd a).toNat < 2 ^ 12)
include hv

/-- FLUSHR waits for the acknowledgements that it has from the peer. -/
theorem exec_flushr_waits (hw : (t.winAck.any fun w => w.2 == bits (t.rd a) 0 12) = true) :
    exec (.flushr sm a) s = .next (s.park t (.flush (4097 + bits (t.rd a) 0 12))) := by
  refine (onCur_issues h _).trans (congrArg Host.Outcome.next ?_)
  rw [if_neg (by rw [bits_high_ne_zero_iff]; omega), if_pos hw]

variable (hw : (t.winAck.any fun w => w.2 == bits (t.rd a) 0 12) = false)
include hw

theorem exec_flushr_own (hp : bits (t.rd a) 0 12 = s.devid) : exec (.flushr sm a) s = .next (s.done t 1 true []) := by
  refine (onCur_issues h _).trans (congrArg Host.Outcome.next ?_)
  rw [if_neg (by rw [bits_high_ne_zero_iff]; omega), if_neg (by simp [hw]), if_neg (by simp [hp])]

theorem exec_flushr_peer (hp : bits (t.rd a) 0 12 ≠ s.devid) : exec (.flushr sm a) s = .next
    ((s.flushEach t (.flush t.ref) (t.postedOn (bits (t.rd a) 0 12)) t.flushing).1.done
      { t with flushing := (s.flushEach t (.flush t.ref) (t.postedOn (bits (t.rd a) 0 12)) t.flushing).2 } 1 true []) := by
  refine (onCur_issues h _).trans (congrArg Host.Outcome.next ?_)
  rw [if_neg (by rw [bits_high_ne_zero_iff]; omega), if_neg (by simp [hw]), if_pos (by simp [hp])]

end

end

/-! ## The allocators (R115, R285) -/

theorem touch_eq (s : State) (pa n : Nat) (w : Option ThreadRef) : ∃ a q, s.touch pa n w = { s with agenda := a, seq := q } := by
  refine List.foldlRecOn (motive := fun u : State => ∃ a q, u = { s with agenda := a, seq := q }) _ _ ⟨_, _, rfl⟩ fun u hu b _ => ?_
  obtain ⟨a, q, rfl⟩ := hu
  split
  · exact ⟨_, _, rfl⟩
  · exact ⟨_, _, rfl⟩

/-- The zeroing of a segment changes storage, and what is due at barriers there. -/
theorem zeroSeg_eq (s : State) (lvl k : Nat) (g : Seg) : ∃ a q m d p r, s.zeroSeg lvl k g =
    { s with agenda := a, seq := q, mem := m, desc := d, psn := p, descPsn := r } := by
  refine List.foldlRecOn (motive := fun u : State => ∃ a q m d p r, u = { s with agenda := a, seq := q, mem := m, desc := d, psn := p, descPsn := r })
    _ _ ⟨_, _, _, _, _, _, rfl⟩ fun u hu b _ => ?_
  obtain ⟨a, q, m, d, p, r, rfl⟩ := hu
  obtain ⟨a', q', e⟩ := touch_eq (State.zero { s with agenda := a, seq := q, mem := m, desc := d, psn := p, descPsn := r }
    (levelBase lvl k + b * granule lvl) (granule lvl)) (levelBase lvl k + b * granule lvl) (granule lvl) none
  exact ⟨a', q', _, _, _, _, e⟩

/-- A segment joins the record of its crew or of its launch. -/
theorem addSeg_eq (s : State) (t : Thread) (lvl : Nat) (g : Seg) : ∃ cs ls, s.addSeg t lvl g =
    { s with disp := { s.disp with crews := cs, launches := ls } } := by
  unfold addSeg onCrew onLaunch
  split
  · split <;> exact ⟨_, _, rfl⟩
  · split <;> exact ⟨_, _, rfl⟩

/-- The allocator that a request is for serves one, or more wait for it. -/
def atWork (s : State) (q : SallocReq) : Bool := s.disp.sallocs.any fun x => x.lvl == q.lvl && x.inst == q.inst

/-- The allocators have other requests. -/
def withSallocs (s : State) (qs : List SallocReq) : State := { s with disp := { s.disp with sallocs := qs } }

/-- What an allocator grants: zeroed, given to the crew or launch, and returned when the zeroing is over. -/
theorem allocate_grants {s : State} {q : SallocReq} {y : Thread} {g : Seg} (hg : s.grant y q.lvl q.len = some g) :
    s.allocate q y = ((s.zeroSeg q.lvl q.inst g).addSeg y q.lvl g).sched (levelLatency q.lvl + ceilDiv g.len (zeroRate q.lvl)) rankLate
      (.resultReturn q.t q.id [⟨segVa q.lvl g.num, none⟩]) := by
  rw [allocate, hg]

theorem allocate_none {s : State} {q : SallocReq} {y : Thread} (hg : s.grant y q.lvl q.len = none) :
    s.allocate q y = s.sched (levelLatency q.lvl) rankLate (.resultReturn q.t q.id [⟨0, none⟩]) := by
  rw [allocate, hg]

/-- The allocation leaves threads, units, the cycle and the allocators' requests alone. -/
theorem allocate_keeps {s : State} {q : SallocReq} {y : Thread} {g : Seg} (hg : s.grant y q.lvl q.len = some g) :
    (s.allocate q y).threads = s.threads ∧ (s.allocate q y).units = s.units ∧ (s.allocate q y).disp.sallocs = s.disp.sallocs ∧
      Due (s.allocate q y) (s.now + (levelLatency q.lvl + ceilDiv g.len (zeroRate q.lvl))) (.resultReturn q.t q.id [⟨segVa q.lvl g.num, none⟩]) := by
  obtain ⟨a, n, m, d, p, r, hz⟩ := s.zeroSeg_eq q.lvl q.inst g
  obtain ⟨cs, ls, ha⟩ := (s.zeroSeg q.lvl q.inst g).addSeg_eq y q.lvl g
  rw [allocate_grants hg, ha, hz]
  exact ⟨rfl, rfl, rfl, due_sched ..⟩

/-- When the one before has returned, the allocator serves the one that waits (R285). -/
theorem sallocEnd_serves {s : State} {p q : SallocReq} {y : Thread} (hqs : s.disp.sallocs = [p, q]) (hpq : p ≠ q) (hl : p.lvl = q.lvl)
    (hi : p.inst = q.inst) (hy : s.ref? q.t = some y) : s.sallocEnd p = (s.withSallocs [q]).allocate q y := by
  have hrest : (s.disp.sallocs.filter fun x => x != p && (s.ref? x.t).isSome) = [q] := by simp [hqs, hy, hpq.symm]
  have hy' : (s.withSallocs [q]).ref? q.t = some y := hy
  unfold sallocEnd
  rw [hrest]
  show (s.withSallocs [q]).allocateNext p.lvl p.inst [q] = _
  rw [allocateNext, if_pos (by simp [hl, hi]), hy']

/-- The result of a SALLOC returns, and the one that waits is served. -/
theorem exec_resultReturn_serves {s : State} {p q : SallocReq} {x y : Thread} {g : Seg} (vals : List Val) (hqs : s.disp.sallocs = [p, q])
    (hpq : p ≠ q) (hl : p.lvl = q.lvl) (hi : p.inst = q.inst) (hx : s.ref? p.t = some x) (hst : x.st ≠ .halted)
    (hm : ((s.unit p.t.unit).mstats.find? fun m => m.1 == p.t && m.2.1 == p.id) = none) (hy : s.ref? q.t = some y)
    (hg : s.grant y q.lvl q.len = some g) :
    exec (.resultReturn p.t p.id vals) s = .next ((((s.withSallocs [q]).allocate q y).setThread (x.gotResult p.id vals)).nudge p.t) := by
  have hof : s.sallocOf p.t p.id = some p := by simp [sallocOf, hqs]
  have hg' : (s.withSallocs [q]).grant y q.lvl q.len = some g := hg
  obtain ⟨hthreads, hunits, -⟩ := allocate_keeps hg'
  have hx' : ((s.withSallocs [q]).allocate q y).ref? p.t = some x := by
    unfold ref? thread? at hx ⊢
    rw [hthreads]
    exact hx
  have hm' : ((((s.withSallocs [q]).allocate q y).unit p.t.unit).mstats.find? fun m => m.1 == p.t && m.2.1 == p.id) = none := by
    rw [unit, hunits]
    exact hm
  show Host.Outcome.next _ = _
  rw [hof]
  simp only [sallocEnd_serves hqs hpq hl hi hy, hm', giveResult, hx']
  split
  · rename_i hh
    exact absurd hh hst
  · rfl

/-- Waking a thread leaves the allocators' requests alone. -/
theorem sallocs_nudge (s : State) (r : ThreadRef) : (s.nudge r).disp.sallocs = s.disp.sallocs := by
  rw [nudge_eq]
  split
  · split <;> rfl
  · rfl

/-- The one that waited is the allocator's only request, and its result is due. -/
theorem serves_next {s : State} {q : SallocReq} {y : Thread} {g : Seg} (hg : s.grant y q.lvl q.len = some g) (x : Thread) (r : ThreadRef) :
    ((((s.withSallocs [q]).allocate q y).setThread x).nudge r).disp.sallocs = [q] ∧
      Due ((((s.withSallocs [q]).allocate q y).setThread x).nudge r) (s.now + (levelLatency q.lvl + ceilDiv g.len (zeroRate q.lvl)))
        (.resultReturn q.t q.id [⟨segVa q.lvl g.num, none⟩]) := by
  obtain ⟨-, -, hqs, hdue⟩ := allocate_keeps (s := s.withSallocs [q]) (y := y) hg
  exact ⟨(sallocs_nudge ..).trans hqs, due_nudge r hdue⟩

/-! ## SALLOC (R115, R285) -/

section
variable (sm : Bool) (level : BitVec 2) (d a : Operand)
include h

theorem exec_salloc_full (hrb : t.rb.length = 8) : exec (.salloc sm level d a) s = .next (s.switchPoint t) :=
  (onCur_issues h _).trans (congrArg Host.Outcome.next (if_pos hrb))

variable (hrb : t.rb.length ≠ 8)
include hrb

theorem exec_salloc_waits (hw : s.atWork (t.sallocReq level.toNat (t.rd a).toNat) = true) : exec (.salloc sm level d a) s = .next
    ((s.withSallocs (s.disp.sallocs ++ [t.sallocReq level.toNat (t.rd a).toNat])).done (t.take [d] none false) 1 sm []) := by
  refine (onCur_issues h _).trans (congrArg Host.Outcome.next ((if_neg hrb).trans ?_))
  unfold atWork at hw
  simp only [Thread.sallocReq] at hw
  simp only [hw, if_true]
  rfl

theorem exec_salloc_served {u : State} (hw : s.atWork (t.sallocReq level.toNat (t.rd a).toNat) = false)
    (hu : s.allocate (t.sallocReq level.toNat (t.rd a).toNat) t = u) : exec (.salloc sm level d a) s = .next
      ((u.withSallocs (u.disp.sallocs ++ [t.sallocReq level.toNat (t.rd a).toNat])).done (t.take [d] none false) 1 sm []) := by
  subst hu
  refine (onCur_issues h _).trans (congrArg Host.Outcome.next ((if_neg hrb).trans ?_))
  unfold atWork at hw
  simp only [Thread.sallocReq] at hw
  simp only [hw, Bool.false_eq_true, if_false]
  rfl

end

/-! ## SFREE (R116, R286) -/

section
variable {sm : Bool} {a : Operand} {lvl num : Nat} (hid : segOf (t.rd a).toNat = (lvl, num))
include h hid

/-- SFREE of what is no segment, or of segment 0, takes the address trap. -/
theorem exec_sfree_faults (hbad : num = 0 ∨ lvl = 0 ∨ 3 < lvl ∨ t.rd a ≠ segVa lvl num ∨ s.seg? t.ltag t.unit lvl num = none) :
    Faults (.sfree sm a) s t (infoVa 3 (t.rd a) false 0) (t.rd a) := by
  have hnone : (if (1 ≤ lvl && lvl ≤ 3 && t.rd a == segVa lvl num && num != 0) = true then s.seg? t.ltag t.unit lvl num else none) = none := by
    split
    · rename_i hok
      simp only [Bool.and_eq_true, decide_eq_true_eq, beq_iff_eq, bne_iff_ne] at hok
      obtain ⟨⟨⟨h1, h3⟩, hva⟩, hnum⟩ := hok
      rcases hbad with hb | hb | hb | hb | hb
      · exact absurd hb hnum
      · omega
      · omega
      · exact absurd hva hb
      · exact hb
    · rfl
  refine (onCur_issues h _).trans (congrArg Host.Outcome.next ?_)
  simp only [hid, hnone]

section
variable {g : Seg} (h1 : 1 ≤ lvl) (h3 : lvl ≤ 3) (hva : t.rd a = segVa lvl num) (hnum : num ≠ 0)
  (hg : s.seg? t.ltag t.unit lvl num = some g) (ho : t.out = [])
include h1 h3 hva hnum hg ho

theorem exec_sfree (sm : Bool) : exec (.sfree sm a) s = .next
    (if s.segIdle t.unit lvl g = true then (s.dropSeg t lvl num).done t 1 sm [] else s.park t (.segment (t.rd a).toNat sm)) := by
  have hsome : (if (1 ≤ lvl && lvl ≤ 3 && t.rd a == segVa lvl num && num != 0) = true then s.seg? t.ltag t.unit lvl num else none) = some g := by
    rw [if_pos (by simp [h1, h3, hva.symm, hnum]), hg]
  refine (onCur_issues h _).trans (congrArg Host.Outcome.next ?_)
  simp only [hid, hsome, ho, List.isEmpty_nil, Bool.and_true]

end

end

/-- A segment that a parked SFREE names is freed once it is idle, and its thread goes on (R116). -/
theorem exec_segmentFree {s : State} {r : ThreadRef} {x : Thread} {va : Word} {sm : Bool} {lvl num : Nat} {g : Seg}
    (hid : segOf va.toNat = (lvl, num)) (hx : s.ref? r = some x) (hst : x.st = .parked (.segment va.toNat sm))
    (hg : s.seg? x.ltag x.unit lvl num = some g) (hidle : s.segIdle x.unit lvl g = true) :
    exec (.segmentFree r va) s = .next
      ((s.dropSeg x lvl num).done { x with st := .ready, eligRound := max x.eligRound (s.round + 1) } 1 sm []) := by
  show Host.Outcome.next _ = _
  simp only [hx, hst, hid, hg, hidle, bne_self_eq_false, Bool.false_eq_true, if_false, if_true]

end State

/-- Settles O24: FENCE, FLUSHR and MSYNC by what is outstanding and posted, SALLOC by whether its allocator is at work and what it grants, SFREE by
what the address names. -/
theorem fencesFlushesAndScratch : Obligations.FencesFlushesAndScratch := by
  refine ⟨fun s t sm scope a h => ?_, fun s t sm level d a h => ?_⟩
  · refine ⟨fun ho => ⟨State.exec_fence_waits h sm scope ho, State.exec_msync_waits h sm ho⟩,
      fun ho hp => completes_of_done (State.exec_fence_done h sm scope ho hp),
      fun f ho hp => State.exec_fence_flushes h sm ho hp, fun hv => State.exec_flushr_reserved h sm a hv, fun hv hw => State.exec_flushr_waits h sm hv hw,
      fun hv hw hp => ?_, fun f hv hw hp hpeer => ?_, fun ho hm => ?_, fun f ho hm => ?_⟩
    · by_cases hpeer : bits (t.rd a) 0 12 = s.devid
      · exact completes_of_done (State.exec_flushr_own h sm hv hw hpeer)
      · have hflush := State.exec_flushr_peer h sm hv hw hpeer
        rw [hp.resolve_right hpeer] at hflush
        exact completes_of_done hflush
    · have hflush := State.exec_flushr_peer h sm hv hw hpeer
      rw [hp] at hflush
      exact completes_of_done hflush
    · have hsync := State.exec_msync h sm ho
      have hsame : { t with flushing := t.flushing, mirrors := [] } = t := by rw [← hm]
      rw [hm] at hsync
      exact completes_of_done (hsync.trans (congrArg (fun x => Host.Outcome.next (s.done x 1 true [])) hsame))
    · have hsync := State.exec_msync h sm ho
      rw [hm] at hsync
      exact completes_of_done hsync
  · refine ⟨fun hrb => State.exec_salloc_full h sm level d a hrb, fun hw hrb => takesEntry_of_done (State.exec_salloc_waits h sm level d a hrb hw),
      fun g hw hg hrb => takesEntry_of_done (State.exec_salloc_served h sm level d a hrb hw (State.allocate_grants hg)),
      fun hw hg hrb => takesEntry_of_done (State.exec_salloc_served h sm level d a hrb hw (State.allocate_none hg)),
      fun r vals p x y g hx hst hr hqs hpq hl hi hm hy hg => ?_, fun hbad => State.exec_sfree_faults h rfl hbad,
      fun g h1 h3 hva hnum hg ho => ⟨fun hidle => ?_, fun hbusy => ?_⟩,
      fun r x g hx hst hg hidle => completes_of_done (State.exec_segmentFree rfl hx hst hg hidle)⟩
    · subst hr
      exact ⟨_, State.exec_resultReturn_serves vals hqs hpq hl hi hx hst hm hy hg, State.serves_next hg (x.gotResult p.id vals) p.t⟩
    · exact completes_of_done ((State.exec_sfree h rfl h1 h3 hva hnum hg ho sm).trans (congrArg Host.Outcome.next (if_pos hidle)))
    · exact (State.exec_sfree h rfl h1 h3 hva hnum hg ho sm).trans (congrArg Host.Outcome.next (if_neg (ne_true_of_eq_false hbusy)))

end Sys2Proof.Machine
end

section
/-! The statement about requests that read or write at their home, O48 (R206 to R208, R212, R405). -/

namespace Sys2Proof.Machine

open Sys2Proof.Claims (Replied byteAt)

/-- A packet event acts on the packet that it holds. -/
theorem onPkt_some {s : State} {p : Packet} (hp : s.pkt = some p) (f : Packet → State) : onPkt s f = .next (f p) := by
  rw [onPkt, hp]
  rfl

/-- Scalar sizes are OPSZ's power of two (R205). -/
theorem opBytes_eq : ∀ {k : Nat}, k ≤ 3 → opBytes k = 2 ^ k
  | 0, _ | 1, _ | 2, _ | 3, _ => rfl

theorem writeDwords_eq {k : Nat} (hk : k ≤ 3) : writeDwords k = 1 := if_neg (by omega)

/-- A write of up to eight bytes with a payload is complete (R207). -/
theorem scalarWrite_complete {p : Packet} (hk : p.opsz ≤ 3) (hl : p.payload ≠ []) :
    ¬(decide (6 ≤ p.opsz) || decide (p.payload.length < writeDwords p.opsz)) = true := by
  have := List.length_pos_iff.2 hl
  rw [writeDwords_eq hk]
  simp only [Bool.or_eq_true, decide_eq_true_eq]
  omega

namespace State
variable (s : State) (p : Packet)

/-! ## What a home answers (R206, R208) -/

/-- A reply to the packet leaves for its source, with these fields. -/
def RepliedTo (u : State) (kind status : Nat) (payload : List Word) (cause : Nat) : Prop :=
  ∃ r, Replied u r ∧ r.kind = kind ∧ r.vc = 1 ∧ r.dst = p.src ∧ r.tag = p.tag ∧ r.status = status ∧ r.payload = payload ∧ r.addr = cause

theorem homeReply_replied (delay kind status : Nat) (payload : List Word) (cause : Nat) :
    RepliedTo p (s.homeReply p delay kind status payload cause) kind status payload cause :=
  ⟨_, ⟨_, (mem_agenda_sched _).2 (.inl rfl), _, _, rfl⟩, rfl, rfl, rfl, rfl, rfl, rfl, rfl⟩

@[simp] theorem homeReply_fab (delay kind status : Nat) (payload : List Word) (cause : Nat) :
    (s.homeReply p delay kind status payload cause).fab = s.fab := rfl

/-- The packet is tried again after `delay` cycles, and nothing else has changed. -/
theorem schedPkt_later (delay rank : Nat) (i : Instr) :
    (s.schedPkt delay rank i p).mem = s.mem ∧ ∃ e ∈ (s.schedPkt delay rank i p).agenda, e.due = s.now + delay ∧ e.ev.op = i ∧ e.ev.pkt = some p :=
  ⟨rfl, _, mem_insertSched.2 (.inl rfl), rfl, rfl, rfl⟩

theorem mem_failed_noteFailed (f : Flow) : f ∈ (s.noteFailed f).fab.failed := by
  show f ∈ if s.fab.failed.contains f then s.fab.failed else f :: s.fab.failed
  split
  · rename_i hf
    exact List.contains_iff_mem.1 hf
  · exact List.mem_cons_self

/-! ## What a home reads (R397) -/

/-- The array ECC of HBM names the poison anew, and keeps its cause. -/
theorem eccVal_cause (ltag unit pa : Nat) {v : Val} {q : Poison} (hv : v.psn = some q) :
    ∃ q', (s.eccVal ltag unit pa v).2.psn = some q' ∧ q'.cause = q.cause := by
  rw [eccVal, hv]
  dsimp only
  split
  · rename_i h
    exact ⟨_, rfl, (of_decide_eq_true (Bool.and_eq_true_iff.1 h).2 : q.cause = 0x051).symm⟩
  · exact ⟨q, hv, rfl⟩

section
variable {p : Packet} (hk : p.opsz ≤ 3)
include hk

theorem homeRead_scalar : s.homeRead p = ((s.eccVal 0 0 p.addr (s.load p.addr (2 ^ p.opsz))).1,
    [(s.eccVal 0 0 p.addr (s.load p.addr (2 ^ p.opsz))).2.v], (s.eccVal 0 0 p.addr (s.load p.addr (2 ^ p.opsz))).2.psn) := by
  rw [homeRead, if_neg (by omega), if_neg (by omega), opBytes_eq hk]

theorem homeRead_mem : (s.homeRead p).1.mem = s.mem := by
  rw [homeRead_scalar s hk]
  exact (SameStorage.eccVal ..).mem

theorem homeRead_clean (hq : s.psnAt p.addr = none) : s.homeRead p = (s, [wd (leNat (rdBytes s.mem p.addr (2 ^ p.opsz)))], none) := by
  rw [homeRead_scalar s hk, eccVal_clean _ _ _ _ (s.load p.addr (2 ^ p.opsz)) hq]
  exact congrArg (fun q => (s, _, q)) hq

theorem homeRead_poisoned {q : Poison} (hq : s.psnAt p.addr = some q) : ∃ q', (s.homeRead p).2.2 = some q' ∧ q'.cause = q.cause := by
  rw [homeRead_scalar s hk]
  exact s.eccVal_cause 0 0 p.addr (v := s.load p.addr (2 ^ p.opsz)) hq

/-! ## What a home writes (R206) -/

/-- A write of up to eight bytes at its home is a store, which breaks a barrier that it meets. -/
theorem homeWrite_scalar : ∃ q, s.homeWrite p = (s.store p.addr (2 ^ p.opsz) ⟨p.dw 0, q⟩).touch p.addr (2 ^ p.opsz) none := by
  unfold homeWrite
  rw [if_neg (by omega), if_neg (by omega), opBytes_eq hk]
  exact ⟨_, rfl⟩

/-- The write of a home writes its bytes, little-endian, and no other byte. -/
theorem homeWrite_stored (hs : s.Sound) :
    ((∀ a, a < p.addr ∨ p.addr + 2 ^ p.opsz ≤ a → byteAt (s.homeWrite p) a = byteAt s a) ∧ (s.homeWrite p).desc = s.desc) ∧
      leNat (rdBytes (s.homeWrite p).mem p.addr (2 ^ p.opsz)) = (p.dw 0).toNat % 2 ^ (8 * 2 ^ p.opsz) := by
  obtain ⟨q, hw⟩ := s.homeWrite_scalar hk
  have hsame := SameStorage.touch (s := s.store p.addr (2 ^ p.opsz) ⟨p.dw 0, q⟩) p.addr (2 ^ p.opsz) none
  have hmem : (s.homeWrite p).mem = wrBytes s.mem p.addr (natLe (2 ^ p.opsz) (p.dw 0).toNat) := by rw [hw, hsame.mem, store_mem]
  refine ⟨⟨fun a ha => ?_, by rw [hw, hsame.desc, store_desc]⟩, ?_⟩
  · rw [byteAt, byteAt, hmem]
    exact rdByte_wrBytes_outside _ _ _ _ (by rwa [length_natLe])
  · have hread := rdBytes_wrBytes (natLe (2 ^ p.opsz) (p.dw 0).toNat) s.mem p.addr hs.mem
    rw [length_natLe] at hread
    rw [hmem, hread, leNat_natLe, Nat.pow_mul]

end

/-! ## The instructions -/

section
variable {s} {p : Packet} (hp : s.pkt = some p)
include hp

section
variable (hk : p.opsz ≤ 3)
include hk

theorem exec_rd_faults {c : Nat} (hc : s.homeChk p.addr (2 ^ p.opsz) = .fault c) : exec .rd s = .next (s.homeReply p 0 0x10 8 [] c) := by
  refine (onPkt_some hp _).trans (congrArg Host.Outcome.next ?_)
  rw [if_neg (by omega), opBytes_eq hk, hc]

theorem exec_rd_waits {d : Nat} (hc : s.homeChk p.addr (2 ^ p.opsz) = .again d) : exec .rd s = .next (s.schedPkt d 1 .rd p) := by
  refine (onPkt_some hp _).trans (congrArg Host.Outcome.next ?_)
  rw [if_neg (by omega), opBytes_eq hk, hc]

/-- A read of good bytes answers them. -/
theorem exec_rd_clean (hc : s.homeChk p.addr (2 ^ p.opsz) = .go) (hq : s.psnAt p.addr = none) :
    exec .rd s = .next ((s.takeBank p.addr).homeReply p ((s.takeBank p.addr).replyDelay p) 0x10 0 [wd (leNat (rdBytes s.mem p.addr (2 ^ p.opsz)))] 0) := by
  have hread : (s.takeBank p.addr).homeRead p = _ := homeRead_clean _ hk hq
  refine (onPkt_some hp _).trans (congrArg Host.Outcome.next ?_)
  rw [if_neg (by omega), opBytes_eq hk, hc]
  simp only [hread]
  rfl

/-- A read that meets poison answers its cause, and leaves memory alone. -/
theorem exec_rd_poisoned {q : Poison} (hc : s.homeChk p.addr (2 ^ p.opsz) = .go) (hq : s.psnAt p.addr = some q) :
    ∃ u : State, u.mem = s.mem ∧ exec .rd s = .next (u.homeReply p (u.replyDelay p) 0x10 8 [] q.cause) := by
  obtain ⟨q', hread, hcause⟩ := homeRead_poisoned (s.takeBank p.addr) hk hq
  refine ⟨_, homeRead_mem (s.takeBank p.addr) hk, (onPkt_some hp _).trans (congrArg Host.Outcome.next ?_)⟩
  rw [if_neg (by omega), opBytes_eq hk, hc]
  simp only [hread, hcause]

section
variable (hl : p.payload ≠ [])
include hl

theorem exec_wrn_faults {c : Nat} (hc : s.homeChk p.addr (2 ^ p.opsz) = .fault c) : exec .wrn s = .next (s.homeReply p 0 0x13 8 [] c) := by
  refine (onPkt_some hp _).trans (congrArg Host.Outcome.next ?_)
  rw [if_neg (scalarWrite_complete hk hl), opBytes_eq hk, hc]

theorem exec_wrn_written (hc : s.homeChk p.addr (2 ^ p.opsz) = .go) :
    exec .wrn s = .next (((s.takeBank p.addr).homeWrite p).homeReply p 0 0x13 0 [] 0) := by
  refine (onPkt_some hp _).trans (congrArg Host.Outcome.next ?_)
  rw [if_neg (scalarWrite_complete hk hl), opBytes_eq hk, hc]

theorem exec_wr_waits (he : s.earlierPosted p = true) : exec .wr s = .next (s.schedPkt 1 1 .wr p) := by
  refine (onPkt_some hp _).trans (congrArg Host.Outcome.next ?_)
  rw [if_neg (scalarWrite_complete hk hl), if_pos he]

variable (he : s.earlierPosted p = false)
include he

theorem exec_wr_fails {c : Nat} (hc : s.homeChk p.addr (2 ^ p.opsz) = .fault c) : exec .wr s = .next (s.noteFailed p.flow) := by
  refine (onPkt_some hp _).trans (congrArg Host.Outcome.next ?_)
  rw [if_neg (scalarWrite_complete hk hl), if_neg (ne_true_of_eq_false he), opBytes_eq hk, hc]

theorem exec_wr_written (hc : s.homeChk p.addr (2 ^ p.opsz) = .go) : exec .wr s = .next ((s.takeBank p.addr).homeWrite p) := by
  refine (onPkt_some hp _).trans (congrArg Host.Outcome.next ?_)
  rw [if_neg (scalarWrite_complete hk hl), if_neg (ne_true_of_eq_false he), opBytes_eq hk, hc]

end

end

theorem exec_flu_waits (he : s.earlierPosted p = true) : exec .flu s = .next (s.schedPkt 1 1 .flu p) :=
  (onPkt_some hp _).trans (congrArg Host.Outcome.next (if_pos he))

/-- FLU is answered that the posted packets of its flow are performed. -/
theorem exec_flu_performed (he : s.earlierPosted p = false) (hf : p.flow ∉ s.fab.failed) : exec .flu s = .next (s.homeReply p 0 0x13 0 [] 0) := by
  refine (onPkt_some hp _).trans (congrArg Host.Outcome.next ?_)
  rw [if_neg (ne_true_of_eq_false he), if_neg (by simpa using hf)]

/-- FLU is answered FAULT once where a posted packet of its flow could not be performed (R405). -/
theorem exec_flu_failed (he : s.earlierPosted p = false) (hf : p.flow ∈ s.fab.failed) : exec .flu s = .next
    ({ s with fab := { s.fab with failed := s.fab.failed.filter (· != p.flow) } }.homeReply p 0 0x13 8 [] 3) := by
  refine (onPkt_some hp _).trans (congrArg Host.Outcome.next ?_)
  rw [if_neg (ne_true_of_eq_false he), if_pos (by simpa using hf)]

theorem exec_mgt : exec .mgt s = .next (if bits (p.dw 0) 0 8 = 1 then
    { s with pkg := { s.pkg with notices := (2 ^ 20 + p.src) :: s.pkg.notices } } else s.discard p) := onPkt_some hp _

end

end State

/-- Settles O48: each request by what its home finds, what it reads and writes there, and the reply that leaves. -/
theorem homesReadAndWrite : Obligations.HomesReadAndWrite := by
  intro s p hp hs hk
  have hbank : (s.takeBank p.addr).Sound := hs.takeBank p.addr
  have hwritten := (s.takeBank p.addr).homeWrite_stored hk hbank
  refine ⟨fun hc hq => ⟨_, State.exec_rd_clean hp hk hc hq, rfl, State.homeReply_replied ..⟩, fun q hc hq => ?_,
    fun c hc => ⟨_, State.exec_rd_faults hp hk hc, State.homeReply_replied ..⟩,
    fun d hc => ⟨_, State.exec_rd_waits hp hk hc, s.schedPkt_later p d 1 .rd⟩,
    fun hl => ⟨fun hc => ⟨_, State.exec_wrn_written hp hk hl hc, hwritten, State.homeReply_replied ..⟩,
      fun c hc => ⟨_, State.exec_wrn_faults hp hk hl hc, rfl, State.homeReply_replied ..⟩,
      fun he => ⟨_, State.exec_wr_waits hp hk hl he, s.schedPkt_later p 1 1 .wr⟩,
      fun he hc => ⟨_, State.exec_wr_written hp hk hl he hc, hwritten⟩,
      fun c he hc => ⟨_, State.exec_wr_fails hp hk hl he hc, rfl, s.mem_failed_noteFailed p.flow⟩⟩,
    fun he => ⟨_, State.exec_flu_waits hp he, s.schedPkt_later p 1 1 .flu⟩,
    fun he hf => ⟨_, State.exec_flu_performed hp he hf, rfl, State.homeReply_replied ..⟩,
    fun he hf => ⟨_, State.exec_flu_failed hp he hf, State.homeReply_replied .., by simp⟩,
    fun h1 => ⟨_, (State.exec_mgt hp).trans (congrArg Host.Outcome.next (if_pos h1)), rfl⟩,
    fun h1 => ⟨_, (State.exec_mgt hp).trans (congrArg Host.Outcome.next (if_neg h1)), rfl⟩⟩
  obtain ⟨u, hmem, hu⟩ := State.exec_rd_poisoned hp hk hc hq
  exact ⟨_, hu, hmem, State.homeReply_replied ..⟩

end Sys2Proof.Machine
end

section
/-! The statement about replies at their requester and at a crumb, O51 (R144, R208, R211, R217, R404, R410). -/

namespace Sys2Proof.Machine

open Sys2Proof.Claims (Replied Due Posted Recorded)

/-! ## A thread that takes a value or a post -/

/-- A value enters the entry of the return buffer that awaits it. -/
theorem Thread.gotResult_rb (t : Thread) (id : Nat) (vals : List Val) :
    (t.gotResult id vals).rb = t.rb.map fun e => if e.id = id ∧ e.vals = none then { e with vals := some vals } else e := by
  show fillRb id vals t.rb = _
  simp only [fillRb, Bool.and_eq_true, beq_iff_eq, Option.isNone_iff_eq_none]

/-- The status of a post leaves the names of its thread. -/
theorem Thread.postStatus_names (t : Thread) (now : Nat) (i : BitVec 3) (status : Nat) :
    (t.postStatus now i status).unit = t.unit ∧ (t.postStatus now i status).slot = t.slot ∧ (t.postStatus now i status).gen = t.gen ∧
      (t.postStatus now i status).former = t.former := by
  unfold postStatus
  split
  · exact ⟨rfl, rfl, rfl, rfl⟩
  · split
    · exact ⟨rfl, rfl, rfl, rfl⟩
    · dsimp only
      split <;> exact ⟨rfl, rfl, rfl, rfl⟩

/-- A post leaves the names of its thread. -/
theorem Thread.post_names (t : Thread) (now : Nat) (i : BitVec 3) (count src status : Nat) :
    (t.post now i count src status).unit = t.unit ∧ (t.post now i count src status).slot = t.slot ∧ (t.post now i count src status).gen = t.gen ∧
      (t.post now i count src status).former = t.former := by
  obtain ⟨hunit, hslot, hgen, hformer⟩ := postStatus_names (t := _) now i status
  refine ⟨hunit.trans ?_, hslot.trans ?_, hgen.trans ?_, hformer.trans ?_⟩
  all_goals split_ifs <;> rfl

/-- The thread with no acknowledgement awaited under the tag of a request. -/
def Thread.acked (x : Thread) (r : Req) : Thread := { x with winAck := x.winAck.filter fun w => w.1 != r.tag }

namespace State
variable (s : State)

/-! ## What leaves the fabric alone -/

theorem putVals_fab (a : Nat) (vs : List Val) : (s.putVals a vs).fab = s.fab := by
  refine List.foldlRecOn (motive := fun u : State => u.fab = s.fab) _ _ rfl fun u hu v _ => ?_
  obtain ⟨q, e⟩ := u.store_eq (a + 8 * v.2) 8 v.1
  exact (congrArg State.fab e).trans hu

theorem putRecord_fab (v : Saved) (i : Nat) (t : Thread) : (s.putRecord v i t).fab = s.fab := (putVals_fab ..).trans (putVals_fab ..)

theorem onSaved_fab (r : ThreadRef) (f : Thread → Thread) : (s.onSaved r f).fab = s.fab := by
  refine List.foldlRecOn (motive := fun u : State => u.fab = s.fab) _ _ rfl fun u hu v _ => ?_
  refine List.foldlRecOn (motive := fun w : State => w.fab = s.fab) _ _ hu fun w hw e _ => ?_
  obtain ⟨t, i⟩ := e
  dsimp only
  split
  · exact (putRecord_fab ..).trans hw
  · exact hw

theorem post_fab (p : PostTo) (count status : Nat) : (s.post p count status).fab = s.fab := by
  unfold post
  split
  · rfl
  · exact onSaved_fab ..

/-- A record of an error that was not corrected joins the log, and may be on its way to the port of its crew. -/
theorem record_eq {r : RecInfo} (hc : r.cls ≠ 1) : ∃ a q k, s.record r = { s with agenda := a, seq := q, pkg := k } := by
  obtain ⟨a, q, d, e⟩ := (s.logWords fun _ => recordWords s.pkg.seq s.now r).errPort_eq r (recordWords s.pkg.seq s.now r)
  unfold record
  dsimp only
  rw [if_neg (by simpa using hc), e]
  exact ⟨_, _, _, rfl⟩

/-! ## The request that a reply ends (R211) -/

/-- A closed request is outstanding no more, and its tag cools. -/
theorem closeReq_closes {u : State} {r : Req} {tag : Nat} (hrise : rising s.fab.reqs = true) (htag : r.tag = tag)
    (hu : u.fab = (s.closeReq r).fab) : mget u.fab.reqs tag = none ∧ tag ∈ u.fab.cooling := by
  subst htag
  rw [hu]
  exact ⟨mget_mdel_self _ _ hrise, List.mem_cons_self⟩

section
variable {s} {p : Packet} {r : Req}

theorem takeReply_none (hr : mget s.fab.reqs p.tag = none) : s.takeReply p = s := by rw [takeReply, hr]

section
variable (hr : mget s.fab.reqs p.tag = some r)
include hr

theorem takeReply_answered (h : p.status ≤ 5) : s.takeReply p = (s.closeReq r).reqDone r p := by
  rw [takeReply, hr]
  dsimp only
  rw [if_neg (by omega), if_neg (by omega), if_neg (by omega)]

theorem takeReply_unreach (h7 : p.status = 7) : s.takeReply p = (s.closeReq r).reqFailed r 0x070 (wd (reqDetail r)) := by
  rw [takeReply, hr]
  simp only [h7, if_true, Nat.reduceEqDiff, if_false]

end

section
variable (hp : s.pkt = some p)
include hp

theorem exec_valueReply {i : Instr} (hi : i ∈ [Instr.rdr, .atr]) : exec i s = .next (s.takeReply p) := by
  rcases List.mem_pair.1 hi with rfl | rfl
  · exact onPkt_some hp _
  · exact onPkt_some hp _

theorem exec_ack : exec .ack s = .next (s.takeReply p) := onPkt_some hp _

/-- A status that is no report of a dropped packet is a reply. -/
theorem exec_sts (hd : p.status = 7 → p.addr ≠ 2 ∧ p.addr ≠ 5) : exec .sts s = .next (s.takeReply p) := by
  refine (onPkt_some hp _).trans (congrArg Host.Outcome.next (if_neg fun h => ?_))
  simp only [Bool.and_eq_true, Bool.or_eq_true, decide_eq_true_eq] at h
  obtain ⟨h7, h2 | h5⟩ := h
  · exact (hd h7).1 h2
  · exact (hd h7).2 h5

theorem exec_retry_none (hr : mget s.fab.reqs p.tag = none) : exec .retry s = .next s :=
  (onPkt_some hp _).trans (congrArg Host.Outcome.next (if_neg (by simp [hr])))

theorem exec_retry (hr : mget s.fab.reqs p.tag = some r) :
    exec .retry s = .next ((s.cancel (.retryTimeout p.tag)).sched (us 1) rankLate (.retryResend p.tag)) :=
  (onPkt_some hp _).trans (congrArg Host.Outcome.next (if_pos (by simp [hr])))

end

/-! ## What the requester gets -/

/-- A reference names by the threads alone. -/
theorem ref?_congr {u : State} (ht : u.threads = s.threads) (t : ThreadRef) : u.ref? t = s.ref? t := by
  rw [ref?, ref?, thread?, thread?, ht]

/-- The value of a thread that is ready enters its return buffer, and wakes nothing. -/
theorem giveResult_ready {t : ThreadRef} {x : Thread} (hs : slotsRise s.threads = true) (hx : s.ref? t = some x) (hst : x.st = .ready) (id : Nat)
    (vals : List Val) : (s.giveResult t id vals).wakeRef t = s.setThread (x.gotResult id vals) := by
  have hset : (s.setThread (x.gotResult id vals)).ref? t = some (x.gotResult id vals) := ref?_setThread hs hx rfl rfl rfl rfl
  have hst' : (x.gotResult id vals).st = .ready := hst
  have hgive : s.giveResult t id vals = s.setThread (x.gotResult id vals) := by
    simp only [giveResult, hx, hst', nudge_eq, hset]
    rfl
  rw [hgive, wakeRef, hset]
  simp only [wakeEvent, hst']

/-- A reply that brings a load's value closes its request, and the value enters the return buffer. -/
theorem takeReply_gives {u : State} {t : ThreadRef} {x : Thread} {id : Nat} {vals : List Val} (hs : slotsRise s.threads = true)
    (hrise : rising s.fab.reqs = true) (htag : r.tag = p.tag) (ht : u.threads = s.threads) (hf : u.fab = (s.closeReq r).fab) (hx : s.ref? t = some x)
    (hst : x.st = .ready) (hreply : s.takeReply p = (u.giveResult t id vals).wakeRef t) :
    mget (s.takeReply p).fab.reqs p.tag = none ∧ p.tag ∈ (s.takeReply p).fab.cooling ∧ ∃ w, (s.takeReply p).ref? t = some w ∧
      w.rb = x.rb.map fun e => if e.id = id ∧ e.vals = none then { e with vals := some vals } else e := by
  have hx' : u.ref? t = some x := (ref?_congr ht t).trans hx
  rw [giveResult_ready (ht ▸ hs) hx' hst] at hreply
  obtain ⟨hnone, hcool⟩ := s.closeReq_closes hrise htag (u := s.takeReply p) (by rw [hreply]; exact hf)
  refine ⟨hnone, hcool, x.gotResult id vals, ?_, x.gotResult_rb id vals⟩
  rw [hreply]
  exact ref?_setThread (ht ▸ hs) hx' rfl rfl rfl rfl

/-- The thread that a post names takes it. -/
theorem posted_post {u : State} (hs : slotsRise s.threads = true) (ht : u.threads = s.threads) (hn : u.now = s.now) (c : PostTo) (count status : Nat) :
    Posted s (u.post c count status) c count status := by
  intro x hx
  have hx' : u.ref? c.t = some x := (ref?_congr ht c.t).trans hx
  obtain ⟨hunit, hslot, hgen, hformer⟩ := x.post_names s.now c.sem count c.src status
  have hpost : u.post c count status = u.setThread (x.post s.now c.sem count c.src status) := by
    simp only [post, hx', hn]
  rw [hpost]
  exact ref?_setThread (ht ▸ hs) hx' hunit hslot hgen hformer

/-- A post ends the request that asked for it. -/
theorem post_closes {u : State} (hs : slotsRise s.threads = true) (hrise : rising s.fab.reqs = true) (htag : r.tag = p.tag) (ht : u.threads = s.threads)
    (hn : u.now = s.now) (hf : u.fab = (s.closeReq r).fab) (c : PostTo) (count status : Nat) :
    mget (u.post c count status).fab.reqs p.tag = none ∧ p.tag ∈ (u.post c count status).fab.cooling ∧
      Posted s (u.post c count status) c count status := by
  obtain ⟨hnone, hcool⟩ := s.closeReq_closes hrise htag ((u.post_fab c count status).trans hf)
  exact ⟨hnone, hcool, posted_post hs ht hn c count status⟩

/-- An acknowledgement ends its request, and is awaited no more. -/
theorem winAck_closes {t : ThreadRef} {x : Thread} (hs : slotsRise s.threads = true) (hrise : rising s.fab.reqs = true) (htag : r.tag = p.tag)
    (hx : s.ref? t = some x) : mget ((s.closeReq r).setThread (x.acked r)).fab.reqs p.tag = none ∧
      p.tag ∈ ((s.closeReq r).setThread (x.acked r)).fab.cooling ∧
      ∃ w, ((s.closeReq r).setThread (x.acked r)).ref? t = some w ∧ ∀ a ∈ w.winAck, a.1 ≠ p.tag := by
  obtain ⟨hnone, hcool⟩ := s.closeReq_closes hrise htag (u := (s.closeReq r).setThread (x.acked r)) rfl
  refine ⟨hnone, hcool, x.acked r, ref?_setThread (s := s.closeReq r) hs hx rfl rfl rfl rfl, fun a ha => ?_⟩
  rw [← htag]
  exact bne_iff_ne.1 (List.mem_filter.1 ha).2

/-- Where no launch stands, none waits for a flush. -/
theorem flushDone_none (hl : s.disp.launches = []) (tag : Nat) : s.flushDone tag = s := by
  rw [flushDone, hl]
  rfl

/-! ## A request that is sent again (R211) -/

/-- The request is outstanding as sent now, it leaves, and its time-out is due. -/
theorem resend_resent (r : Req) : mget (s.resend r).fab.reqs r.tag = some { r with sentAt := s.now } ∧ Replied (s.resend r) r.pkt ∧
    Due (s.resend r) (s.now + us s.fab.retryto) (.retryTimeout r.tag) := by
  refine ⟨mget_mset_self .., ?_, due_sched ..⟩
  obtain ⟨e, he, -, hop⟩ := State.injected _ (stackOf r.pkt.flow.unit) r.pkt
  exact ⟨e, (mem_agenda_sched _).2 (.inr he), _, _, hop⟩

theorem exec_retryResend {tag : Nat} (hr : mget s.fab.reqs tag = some r) (ht : tag < 0x80000) : exec (.retryResend tag) s = .next (s.resend r) := by
  refine congrArg Host.Outcome.next ?_
  simp only [hr, if_neg (show ¬0x80000 ≤ tag by omega)]

theorem exec_retryTimeout_resends {tag : Nat} (hr : mget s.fab.reqs tag = some r) (hn : r.sends < 3) :
    exec (.retryTimeout tag) s = .next (s.resend { r with sends := r.sends + 1 }) := by
  refine congrArg Host.Outcome.next ?_
  simp only [hr, if_pos hn]

theorem exec_retryTimeout_fails {tag : Nat} (hr : mget s.fab.reqs tag = some r) (hn : 3 ≤ r.sends) :
    exec (.retryTimeout tag) s = .next ((s.closeReq r).reqFailed r 0x071 (wd (reqDetail r + r.sends * 2 ^ 24))) := by
  refine congrArg Host.Outcome.next ?_
  simp only [hr, if_neg (show ¬r.sends < 3 by omega)]

end

/-! ## What each request gets -/

section
variable {s} {p : Packet} {r : Req}

/-- A good value of a load is extended. -/
theorem reqDone_load {t : ThreadRef} {id n dev : Nat} {sx : Bool} (hw : r.what = .load t id n sx dev) (ho : r.pkt.opsz ≠ 4) (hg : p.poisoned = 0) :
    s.reqDone r p = (s.giveResult t id [⟨loaded sx n (p.dw 0), none⟩]).wakeRef t := by
  simp only [reqDone, hw, ho, replyVal, hg, Nat.zero_testBit, if_false, Bool.false_eq_true]

/-- A load that fails gets a poisoned value. -/
theorem reqFailed_load {t : ThreadRef} {id n dev cause : Nat} {sx : Bool} {detail : Word} (hw : r.what = .load t id n sx dev) :
    s.reqFailed r cause detail =
      ({ s with free := s.free + 1 }.giveResult t id [⟨Config.poisonRead s.free, some ⟨cause, detail.toNat⟩⟩]).wakeRef t := by
  simp only [reqFailed, hw]

theorem reqDone_post {c : PostTo} (hw : r.what = .post c) (h9 : p.status ≠ 9) : s.reqDone r p = s.post c 1 p.status := by
  simp only [reqDone, hw, h9, if_false]

theorem reqFailed_post {c : PostTo} {cause : Nat} {detail : Word} (hw : r.what = .post c) :
    s.reqFailed r cause detail = (s.record (s.failRecord c.t cause detail)).post c 1 1 := by
  simp only [reqFailed, hw]

/-- The failure of a post is recorded, and changes neither threads nor fabric. -/
theorem record_failRecord (c : ThreadRef) (cause : Nat) (detail : Word) :
    ∃ a q k, s.record (s.failRecord c cause detail) = { s with agenda := a, seq := q, pkg := k } := by
  refine s.record_eq ?_
  unfold failRecord
  split <;> exact of_decide_eq_true rfl

/-- An acknowledged atomic is awaited no more. -/
theorem reqDone_winAck {t : ThreadRef} {peer : Nat} {x : Thread} (hw : r.what = .winAck t peer) (hl : s.disp.launches = []) (hx : s.ref? t = some x) :
    s.reqDone r p = s.setThread (x.acked r) := by
  have hset (y : Thread) : (s.setThread y).disp.launches = [] := hl
  simp only [reqDone, hw, onEither, hx]
  exact flushDone_none (hset _) _

/-- The answer to a residency request is a residency message. -/
theorem resReply_event (p : Packet) : p.resReply < 16 ∧ ∃ i, resEvent p.resReply = some i := by
  unfold Packet.resReply
  split
  · exact ⟨by decide, .resMoved, rfl⟩
  · exact ⟨by decide, .resAck, rfl⟩
  · exact ⟨by decide, .resAck, rfl⟩
  · exact ⟨by decide, .resMapped, rfl⟩

theorem schedRes_eq (s : State) {q : Packet} {i : Instr} (hi : resEvent q.resOp = some i) (delay : Nat) :
    s.schedRes delay q = s.schedPkt delay rankRes i q := by
  rw [schedRes, hi]

theorem schedRes_fab (s : State) (delay : Nat) (q : Packet) : (s.schedRes delay q).fab = s.fab := by
  unfold schedRes
  split <;> rfl

/-- The answer FAULT to a residency request that has failed, as of the device that it went to (log entry 23). -/
def failedReply (s : State) (r : Req) : Packet :=
  { s.resPkt s.devid r.pkt.resReply r.pkt.dst r.pkt.resSize r.pkt.resVa r.pkt.resPa with src := r.pkt.dst, status := 8, arr := s.nextId }

theorem reqFailed_res_eq {cause : Nat} {detail : Word} (hw : r.what = .res) : s.reqFailed r cause detail = s.fresh.schedRes 0 (s.failedReply r) := by
  rw [reqFailed, hw]
  rfl

theorem reqFailed_res_fab {cause : Nat} {detail : Word} (hw : r.what = .res) : (s.reqFailed r cause detail).fab = s.fab := by
  rw [reqFailed_res_eq hw]
  exact schedRes_fab ..

/-- A failed residency request is answered FAULT by itself (log entry 23). -/
theorem reqFailed_res {cause : Nat} {detail : Word} (hw : r.what = .res) (hd : r.pkt.dst < 4096) : ∃ e ∈ (s.reqFailed r cause detail).agenda, ∃ q,
    e.due = s.now ∧ e.ev.pkt = some q ∧ resEvent r.pkt.resReply = some e.ev.op ∧ q.src = r.pkt.dst ∧ q.status = 8 := by
  obtain ⟨hlt, i, hi⟩ := resReply_event r.pkt
  have hop : (s.failedReply r).resOp = r.pkt.resReply := resOp_resPkt s s.devid r.pkt.resSize r.pkt.resVa r.pkt.resPa hlt hd
  rw [reqFailed_res_eq hw, schedRes_eq _ ((congrArg resEvent hop).trans hi)]
  exact ⟨_, mem_insertSched.2 (.inl rfl), _, rfl, rfl, hi, rfl, rfl⟩

end

/-! ## A crumb and its members (R217, R410) -/

section
variable {s} {p : Packet} {i : Nat} {x : Crumb}

/-- A crumb is over, with its request and its time-out. -/
def endCrumb (s : State) (i : Nat) : State :=
  { s.cancel (.crumbTimeout i) with fab := { s.fab with crumbs := mdel s.fab.crumbs i, reqs := mdel s.fab.reqs (crumbTag i) } }

/-- A lost crumb is freed and recorded, and its index is held for 200 µs. -/
theorem crumbLost_lost (hrise : rising s.fab.crumbs = true) : mget (s.crumbLost i x).fab.crumbs i = none ∧ i ∈ (s.crumbLost i x).fab.crumbHeld ∧
    Due (s.crumbLost i x) (s.now + 540000) (.crumbHoldExpiry i) ∧
    Recorded s (s.crumbLost i x) { cls := 2, scope := 0, cause := 0x077, agent := 9, detail := wd (i + x.addends.length % 16 * 2 ^ 16) } := by
  unfold crumbLost
  dsimp only
  rw [record_unported _ _ (by simp) rfl]
  exact ⟨mget_mdel_self _ _ hrise, List.mem_cons_self, due_sched .., List.mem_cons_self⟩

theorem exec_crumbTimeout (hx : mget s.fab.crumbs i = some x) : exec (.crumbTimeout i) s = .next (s.crumbLost i x) := by
  refine congrArg Host.Outcome.next ?_
  simp only [hx]

theorem exec_matr_none (hp : s.pkt = some p) (ht : p.tag < 0x80000) : exec .matr s = .next s :=
  (onPkt_some hp _).trans (congrArg Host.Outcome.next (if_pos ht))

/-- A merged reply for a crumb: a poisoned one is lost, and another is split. -/
theorem exec_matr (hp : s.pkt = some p) (ht : p.tag = 0x80000 + i) (hx : mget s.fab.crumbs i = some x) :
    exec .matr s = .next (if x.psn then s.crumbLost i x else s.splitMatr i x p) := by
  have hi : p.tag - 0x80000 = i := by omega
  refine (onPkt_some hp _).trans (congrArg Host.Outcome.next ?_)
  rw [if_neg (by omega), hi, hx]

/-- A reply that names no leaf as a duplicate. -/
theorem dupsOf_getD_fst (h : p.dw 1 = 0) (n k : Nat) : ((dupsOf p n).getD k (false, 0)).1 = false := by
  by_cases hk : k < n
  · simp [dupsOf, h, hk]
  · simp [dupsOf, hk]

/-- The reply of a member of one leaf that is no duplicate carries the running value, which the leaf's addend then joins. -/
theorem memberReply_leaf (s : State) {m : Member} {dup : List (Bool × Word)} (run : Word) (hop : x.op = 1) (hnl : m.nl = 1) (hno : m.noreply = false)
    (hdup : (dup.getD m.first (false, 0)).1 = false) : ∃ q, s.memberReply x p dup run m = (q, run + x.addends.getD m.first 0) ∧ q.kind = 0x11 ∧
      q.dst = m.src ∧ q.tag = m.tag ∧ q.payload = [run] := by
  have hadd : atomNew .add 8 run (x.addends.getD m.first 0) 0 = run + x.addends.getD m.first 0 := zeroExtend_dword _
  unfold memberReply
  rw [hop, hnl, hno]
  refine ⟨_, Prod.ext rfl ?_, rfl, rfl, rfl, ?_⟩
  · show (if (dup.getD m.first (false, 0)).1 = true then run else atomNew .add 8 run (x.addends.getD m.first 0) 0) = _
    rw [hdup, hadd]
    rfl
  · show [if (dup.getD m.first (false, 0)).1 = true then _ else run] = [run]
    rw [hdup]
    rfl

/-- The members of a crumb are answered in order, the running value passing from one to the next. -/
theorem splitMatr_eq (s : State) (i : Nat) (x : Crumb) (p : Packet) : s.splitMatr i x p = (x.members.foldl (fun (a : State × Word) m =>
    (a.1.fromRouter (a.1.memberReply x p (dupsOf p x.addends.length) a.2 m).1, (a.1.memberReply x p (dupsOf p x.addends.length) a.2 m).2))
      (s.endCrumb i, p.dw 0)).1 := rfl

/-- A crumb of two members of a leaf each answers both, the second with the value that the first left, and is freed. -/
theorem splitMatr_pair {m n : Member} (hrise : rising s.fab.crumbs = true) (hm : x.members = [m, n]) (hop : x.op = 1) (hd : p.dw 1 = 0)
    (hml : m.nl = 1) (hnl : n.nl = 1) (hmo : m.noreply = false) (hno : n.noreply = false) :
    mget (s.splitMatr i x p).fab.crumbs i = none ∧ ∃ a b, Due (s.splitMatr i x p) (s.now + 8) (.packetRoute 16 a) ∧
      Due (s.splitMatr i x p) (s.now + 8) (.packetRoute 16 b) ∧ (a.kind = 0x11 ∧ a.dst = m.src ∧ a.tag = m.tag ∧ a.payload = [p.dw 0]) ∧
      (b.kind = 0x11 ∧ b.dst = n.src ∧ b.tag = n.tag ∧ b.payload = [p.dw 0 + x.addends.getD m.first 0]) := by
  obtain ⟨a, ha, hafields⟩ := memberReply_leaf (p := p) (s.endCrumb i) (p.dw 0) hop hml hmo (dupsOf_getD_fst hd x.addends.length _)
  obtain ⟨b, hb, hbfields⟩ := memberReply_leaf (p := p) ((s.endCrumb i).fromRouter a) (p.dw 0 + x.addends.getD m.first 0) hop hnl hno
    (dupsOf_getD_fst hd x.addends.length _)
  have hsplit : s.splitMatr i x p = ((s.endCrumb i).fromRouter a).fromRouter b := by
    rw [splitMatr_eq, hm, List.foldl_cons, ha, List.foldl_cons, hb]
    rfl
  rw [hsplit]
  obtain ⟨e, he, hdue⟩ : Due ((s.endCrumb i).fromRouter a) (s.now + 8) (.packetRoute 16 a) := due_sched ..
  exact ⟨mget_mdel_self _ _ hrise, a, b, ⟨e, (mem_agenda_sched _).2 (.inr he), hdue⟩, due_sched .., hafields, hbfields⟩

end

end State

/-- Settles O51: a reply by what its request is for, a request that is sent again or fails by its sends, and a merged reply by its crumb. -/
theorem repliesComplete : Obligations.RepliesComplete := by
  refine ⟨fun s p r hp hs hrise hdrop => ⟨fun hr => ?_, fun hr htag => ?_, fun tag => ⟨_, rfl, by simp, rfl⟩⟩,
    fun s p i x hp hrise hx => ⟨⟨_, State.exec_crumbTimeout hx, State.crumbLost_lost hrise⟩, fun hpsn ht => ?_, fun ht => State.exec_matr_none hp ht,
      fun m n hpsn ht hm hml hnl hmf hnf hmo hno hop _ hd _ => ?_, ⟨_, rfl, by simp, rfl⟩⟩⟩
  · have hsame : Host.Outcome.next (s.takeReply p) = (.next s : Host.Outcome State Fault Refusal) := congrArg _ (State.takeReply_none hr)
    exact ⟨(State.exec_valueReply hp (by simp)).trans hsame, (State.exec_valueReply hp (by simp)).trans hsame, (State.exec_sts hp hdrop).trans hsame,
      (State.exec_ack hp).trans hsame, State.exec_retry_none hp hr⟩
  · have hthreads := hs.threads
    refine ⟨fun i hi t id n sx dev x hw ho hx _ hst => ⟨fun h0 hg => ?_, fun h7 => ?_⟩, fun c hw h5 => ?_, fun t peer x hw h0 hx hl => ?_,
      ⟨_, State.exec_retry hp hr, hr, State.due_sched ..⟩, fun ht => ⟨_, State.exec_retryResend hr ht, s.resend_resent r⟩,
      fun hn => ⟨_, State.exec_retryTimeout_resends hr hn, s.resend_resent _⟩, fun c hn hw => ?_, fun hn hw hd => ?_⟩
    · have hreply := (State.takeReply_answered hr (by omega)).trans (State.reqDone_load hw ho hg)
      exact ⟨_, State.exec_valueReply hp hi, State.takeReply_gives (u := s.closeReq r) hthreads hrise htag rfl rfl hx hst hreply⟩
    · have hreply := (State.takeReply_unreach hr h7).trans (State.reqFailed_load hw)
      obtain ⟨hnone, hcool, w, hw, hrb⟩ :=
        State.takeReply_gives (u := { s.closeReq r with free := s.free + 1 }) hthreads hrise htag rfl rfl hx hst hreply
      exact ⟨_, State.exec_valueReply hp hi, hnone, hcool, w, _, hw, hrb⟩
    · have hreply := (State.takeReply_answered hr h5).trans (State.reqDone_post hw (by omega))
      exact ⟨_, (State.exec_sts hp hdrop).trans (congrArg Host.Outcome.next hreply),
        State.post_closes (u := s.closeReq r) hthreads hrise htag rfl rfl rfl c 1 p.status⟩
    · have hreply := (State.takeReply_answered hr (by omega)).trans (State.reqDone_winAck (s := s.closeReq r) (p := p) hw hl hx)
      exact ⟨_, (State.exec_ack hp).trans (congrArg Host.Outcome.next hreply), State.winAck_closes hthreads hrise htag hx⟩
    · obtain ⟨a, q, k, hrec⟩ := (s.closeReq r).record_failRecord c.t 0x071 (wd (State.reqDetail r + r.sends * 2 ^ 24))
      have hfails := State.exec_retryTimeout_fails hr hn
      rw [State.reqFailed_post hw, hrec] at hfails
      exact ⟨_, hfails, State.post_closes (u := { s.closeReq r with agenda := a, seq := q, pkg := k }) hthreads hrise htag rfl rfl rfl c 1 1⟩
    · obtain ⟨hnone, hcool⟩ := s.closeReq_closes hrise htag (State.reqFailed_res_fab (s := s.closeReq r) hw)
      exact ⟨_, State.exec_retryTimeout_fails hr hn, hnone, hcool, State.reqFailed_res hw hd⟩
  · exact ⟨_, (State.exec_matr hp ht hx).trans (congrArg Host.Outcome.next (if_pos hpsn)), State.crumbLost_lost hrise⟩
  · obtain ⟨hnone, a, b, ha, hb, ⟨hak, had, hat, hap⟩, hbk, hbd, hbt, hbp⟩ := State.splitMatr_pair (i := i) hrise hm hop hd hml hnl hmo hno
    rw [hmf] at hbp
    exact ⟨_, a, b, (State.exec_matr hp ht hx).trans (congrArg Host.Outcome.next (if_neg (ne_true_of_eq_false hpsn))), hnone, ha, hb, hak, had, hat, hap,
      hbk, hbd, hbt, hbp⟩

end Sys2Proof.Machine
end

section
/-! The statement about the issue of vector commands, O31: the checks of a command in their order (R327, R338, R340), and how it joins the queue of
its engine (R153, R156). -/

namespace Sys2Proof.Machine

open Sys2Proof.Claims (Issues Faults Completes Due)

namespace State

/-! ## The queue and the scoreboard of a unit (R153, R156) -/

theorem unit_onUnit_self (s : State) (u : Nat) (f : UnitSt → UnitSt) : (s.onUnit u f).unit u = f (s.unit u) :=
  congrArg (fun x : Option UnitSt => x.getD .reset) (mget_mset_self ..)

section
variable {s : State} {t : Thread} {sm : Bool} {c : Cmd} {entries : List (List (Nat × Nat) × Bool)} {go : State → State}

/-- A command joins the queue behind those there, and its operand ranges the scoreboard. -/
theorem unit_accept (s : State) (c : Cmd) (entries : List (List (Nat × Nat) × Bool)) : (s.accept c entries).unit c.t.unit =
    { s.unit c.t.unit with cmds := (s.unit c.t.unit).cmds ++ [c],
                           board := (s.unit c.t.unit).board ++ entries.map fun e => { cmd := c.id, ext := e.1, dest := e.2 } } :=
  unit_onUnit_self ..

theorem engIssue_parks {w : WaitFor} (h : s.engObstacle t c.eng entries = some w) : s.engIssue t sm c entries go = s.park t w := by
  rw [engIssue, h]

theorem engIssue_accepts (h : s.engObstacle t c.eng entries = none) :
    s.engIssue t sm c entries go = (go (s.accept c entries)).done t 3 sm [] := by
  rw [engIssue, h]

end

/-! ## Vector commands at their issue (R327, R338, R340) -/

/-- An operand lies misaligned, or not in one segment of S1. -/
def misplaced (s : State) (t : Thread) (r : VRange) : Bool := r.va % r.align != 0 || (s.s1Range t r.va r.len).isNone

/-- The operand ranges of a vector command for the scoreboard, its destinations marked. -/
def vxEntries (s : State) (t : Thread) (v : Vx) (c : Cmd) : List (List (Nat × Nat) × Bool) :=
  (v.sources c).map (fun r => ((s.s1Range t r.va r.len).getD [], false)) ++ (v.dests c).map fun r => ((s.s1Range t r.va r.len).getD [], true)

section
variable {s : State} {t : Thread} {i : Instr} {v : Vx} {c : Cmd}
variable (hv : vxOf i = some v) (hc : s.newCmd t .vx i v.e true = c)
include hv hc

theorem vxIssue_illegal (h : ¬(v.paramsOk c.n c.c = true ∧ v.overlapBad c = false)) : s.vxIssue t i = s.illegal t 3 0 := by
  have hbad : (!v.paramsOk c.n c.c || v.overlapBad c) = true := by
    by_contra hok
    exact h (by simpa using hok)
  simp only [vxIssue, hv, hc, hbad, if_true]

variable (hparams : v.paramsOk c.n c.c = true) (hoverlap : v.overlapBad c = false)
include hparams hoverlap

theorem vxIssue_misplaced {r : VRange} (hr : (v.sources c ++ v.dests c).find? (s.misplaced t) = some r) :
    s.vxIssue t i = s.fault t (infoVa 3 (wd r.va) false 0) (wd r.va) := by
  unfold misplaced at hr
  simp only [vxIssue, hv, hc, hparams, hoverlap, hr, Bool.not_true, Bool.or_self, Bool.false_eq_true, if_false]

theorem vxIssue_placed (hr : ∀ r ∈ v.sources c ++ v.dests c, s.misplaced t r = false) :
    s.vxIssue t i = s.engIssue t v.e.sm c (s.vxEntries t v c) fun s => s.sched 16 (rankEng t.unit .vx) (.vxStart t.unit) := by
  have hnone : (v.sources c ++ v.dests c).find? (s.misplaced t) = none := List.find?_eq_none.2 fun r hm => by simp [hr r hm]
  unfold misplaced at hnone
  simp only [vxIssue, hv, hc, hparams, hoverlap, hnone, Bool.not_true, Bool.or_self, Bool.false_eq_true, if_false]
  rfl

end

end State

/-- The vector instructions with these fields (R246). -/
def vxInstrs (e : Ext) : List Instr :=
  [.vadd e, .vsub e, .vmul e, .vfma e, .vmin e, .vmax e, .vabs e, .vneg e, .vrcp e, .vrsq e, .vexp2 e, .vlog2 e, .vlut e, .vcmp e,
   .vsel e, .vcvt e, .vscale e, .vred e, .vscan e, .vtopk e, .vgath e, .vscat e, .vfill e, .viota e, .vpack e, .vunpk e]

/-- Each is a function of the vector engine with those fields, and issues as a command. -/
theorem exec_vx {e : Ext} {i : Instr} (hi : i ∈ vxInstrs e) :
    (vxOf i).map (·.e) = some e ∧ ∀ s, exec i s = onCur s fun t => s.vxIssue t i := by
  fin_cases hi
  all_goals exact ⟨rfl, fun _ => rfl⟩

/-- Settles O31: a command by its parameters, the place of its operands, and what holds it. -/
theorem vectorCommandsIssue : Obligations.VectorCommandsIssue := by
  intro s t e i v ht hv hi
  obtain ⟨he, hexec⟩ := exec_vx hi
  obtain rfl : v.e = e := by simpa [hv] using he
  replace hexec := (hexec s).trans (onCur_issues ht _)
  refine ⟨⟨rfl, rfl, rfl, rfl, rfl⟩, fun h => ?_, fun r ⟨hparams, hoverlap⟩ hr => ?_, fun ⟨hparams, hoverlap⟩ hr => ?_⟩
  · exact hexec.trans (congrArg _ (State.vxIssue_illegal hv rfl h))
  · exact hexec.trans (congrArg _ (State.vxIssue_misplaced hv rfl hparams hoverlap hr))
  · have hplaced := State.vxIssue_placed hv rfl hparams hoverlap hr
    refine ⟨fun w hw => hexec.trans (congrArg _ (hplaced.trans (State.engIssue_parks hw))), fun hnone => ?_⟩
    have hunit := s.unit_accept (s.newCmd t .vx i v.e true) (s.vxEntries t v (s.newCmd t .vx i v.e true))
    exact ⟨_, completes_of_done (hexec.trans (congrArg _ (hplaced.trans (State.engIssue_accepts hnone)))), congrArg (·.cmds) hunit,
      congrArg (·.board) hunit, State.due_sched .., rfl, rfl⟩

end Sys2Proof.Machine
end

section
/-! SUPPORT. A post to a thread that lies in an image (R159, R305), which is written into memory, and the events of engines and channels that make
one (R156, R389). -/

namespace Sys2Proof.Machine

/-! ## The semaphores in a thread's record (R51) -/

/-- The counts of semaphores 0 to 3, as the record of a thread holds them. -/
def Thread.semWord (t : Thread) : Word := wd (t.sems.toList.zipIdx.foldl (fun n (v, i) => n + v.toNat * 2 ^ (16 * i)) 0)

/-- They stand in dword 211, behind the vault, PC, SKIPC and the state. -/
theorem Thread.record_sems (t : Thread) (tags : List Nat) : ∃ xs ys, xs.length = 211 ∧ t.record tags = xs ++ ⟨t.semWord, none⟩ :: ys := by
  obtain ⟨ks, fs, x, y, z, ys, hk, hf, hrec⟩ : ∃ ks fs x y z ys, ks.length = 16 ∧ fs.length = 192 ∧
      t.record tags = ks ++ fs ++ x :: y :: z :: ⟨t.semWord, none⟩ :: ys := ⟨_, _, _, _, _, _, by simp, by simp [List.length_flatMap], rfl⟩
  exact ⟨ks ++ fs ++ [x, y, z], ys, by simp [hk, hf], by simp [hrec]⟩

namespace State

section
variable {s : State} {v : Saved} {y : Thread} {p : PostTo}

/-- A value among those written one after another is read as it was written. -/
theorem leNat_putVals (hm : Memory.wf s.mem = true) (a : Nat) (xs ys : List Val) (x : Val) :
    leNat (rdBytes (s.putVals a (xs ++ x :: ys)).mem (a + 8 * xs.length) 8) = x.v.toNat := by
  have hlen : (xs.flatMap fun v => natLe 8 v.v.toNat).length = 8 * xs.length := by simp [List.length_flatMap, length_natLe, Nat.mul_comm]
  have hread := rdBytes_wrBytes (natLe 8 x.v.toNat) _ (a + 8 * xs.length) (wrBytes_wf (xs.flatMap fun v => natLe 8 v.v.toNat) s.mem a hm)
  rw [length_natLe] at hread
  rw [putVals_mem, List.flatMap_append, List.flatMap_cons, wrBytes_append, wrBytes_append, hlen, length_natLe,
    rdBytes_congr fun b _ hb => rdByte_wrBytes_outside _ _ _ _ (.inl hb), hread, leNat_natLe]
  exact Nat.mod_eq_of_lt x.v.isLt

theorem leNat_putRecord_sems (hm : Memory.wf s.mem = true) (v : Saved) (i : Nat) (t : Thread) :
    leNat (rdBytes (s.putRecord v i t).mem (v.image + recordOff i + 8 * 211) 8) = t.semWord.toNat := by
  obtain ⟨xs, ys, hlen, hrec⟩ := t.record_sems (s.replyTags t)
  have hsems := leNat_putVals hm (v.image + recordOff i) xs ys ⟨t.semWord, none⟩
  rw [← hrec, hlen] at hsems
  rw [putRecord, putVals_mem, rdBytes_congr fun b hb _ => rdByte_wrBytes_outside _ _ _ _ (.inr ?_), hsems]
  simp only [List.flatMap_cons, List.flatMap_nil, List.append_nil, length_natLe]
  unfold recordOff at hb
  omega

/-- A post to a thread that lives nowhere, and lies alone in the one image, writes its record there (R305). -/
theorem post_saved (hr : s.ref? p.t = none) (hv : s.disp.saved = [v]) (hy : v.threads = [y]) (ha : y.answers p.t = true) (count status : Nat) :
    ∃ u v', u.mem = s.mem ∧ v'.image = v.image ∧ s.post p count status = State.putRecord u v' 0 (y.post s.now p.sem count p.src status) := by
  obtain ⟨hunit, hslot, hgen, hformer⟩ := y.post_names s.now p.sem count p.src status
  have hanswers : (y.post s.now p.sem count p.src status).answers p.t = true := by
    rw [← ha, Thread.answers, Thread.answers, Thread.ref, Thread.ref, hunit, hslot, hgen, hformer]
  refine ⟨{ s with disp := { s.disp with saved := [{ v with threads := [y.post s.now p.sem count p.src status] }] } },
    { v with threads := [y.post s.now p.sem count p.src status] }, rfl, rfl, ?_⟩
  rw [post, hr]
  simp [onSaved, hv, hy, ha, hanswers]

/-- So it changes memory, where that holds other counts of the semaphores. -/
theorem post_saved_mem (hm : Memory.wf s.mem = true) (hr : s.ref? p.t = none) (hv : s.disp.saved = [v]) (hy : v.threads = [y])
    (ha : y.answers p.t = true) (count status : Nat)
    (hsems : (y.post s.now p.sem count p.src status).semWord.toNat ≠ leNat (rdBytes s.mem (v.image + recordOff 0 + 8 * 211) 8)) :
    (s.post p count status).mem ≠ s.mem := by
  obtain ⟨u, v', hmem, himage, hpost⟩ := post_saved hr hv hy ha count status
  intro hsame
  rw [← hsame, hpost, ← himage, leNat_putRecord_sems (hmem ▸ hm)] at hsems
  exact hsems rfl

end

/-! ## Events that post (R156, R389) -/

section
variable {s : State} {u id : Nat} {c : Cmd}

/-- The consumed post of a command leaves its source ranges free. -/
theorem consumed_posts {i : BitVec 3} (hc : s.cmd? u id = some c) (hi : c.csem = some i) (hn : c.consumed = false) (status : Nat) :
    s.consumed u id status = State.post ((s.onCmd u id fun c => { c with consumed := true }).onUnit u fun x =>
      { x with board := x.board.filter fun b => b.cmd != id || b.dest }) ⟨c.t, i, 1⟩ 1 status := by
  simp only [consumed, hc, hi, hn, Bool.false_eq_true, if_false]

theorem exec_consumedPost (hc : s.cmd? u id = some c) (hcan : c.cancelled = false) (hn : c.consumed = false) (hl : c.latch = none) :
    exec (.consumedPost u id) s = .next (s.consumed u id 0) := by
  show event _ = _
  simp only [hc, hcan, hn, freeSlotOf, hl, Bool.or_self, Bool.false_eq_true, if_false]
  rfl

end

section
variable {s : State} {u ch cause : Nat} {c : Copy}

theorem chan_setChan_self (x : Chan) : (s.setChan u ch x).chan u ch = x := by
  rw [chan, setChan, unit_onUnit_self, mget_mset_self]
  rfl

theorem haltNow_unasked (h : (s.chan u ch).halt = false) : s.haltNow u ch = s := by
  simp only [haltNow, h, Bool.false_and, Bool.false_eq_true, if_false]

/-- A record of an error that was not corrected leaves memory, the threads and the dispatcher. -/
theorem record_keeps {r : RecInfo} (hr : r.cls ≠ 1) :
    (s.record r).mem = s.mem ∧ (s.record r).threads = s.threads ∧ (s.record r).disp = s.disp ∧ (s.record r).now = s.now := by
  obtain ⟨a, q, k, hrec⟩ := record_eq (s := s) hr
  rw [hrec]
  exact ⟨rfl, rfl, rfl, rfl⟩

/-- A copy that faults posts FAULT once its channel has stopped and its record is written. -/
theorem copyFault_posts {i : BitVec 3} (hi : c.dsem = some i) (hh : (s.chan u ch).halt = false) (va : Word) :
    ∃ w, (w.mem = s.mem ∧ w.threads = s.threads ∧ w.disp = s.disp ∧ w.now = s.now) ∧ s.copyFault u ch c cause va = State.post w ⟨c.t, i, 1⟩ 1 1 := by
  simp only [copyFault, copyPost, hi]
  rw [haltNow_unasked (by rw [chan_setChan_self]; exact hh)]
  refine ⟨_, ?_, rfl⟩
  exact record_keeps (show 3 ≠ 1 by decide)

theorem exec_cxBlockWrite_bad {x : Chan} (hx : s.chan u ch = x) (hst : x.st = .run) (hc : x.cur = some c) (hcan : c.cancelled = false)
    (hw : c.waiting = false)
    (hbad : s.engPlace (s.ghost c.ltag c.gang c.crew c.tid u) .write (x.base + wd (Tmpl.dstOff c.tmpl c.next)) = .bad cause) :
    exec (.cxBlockWrite u ch) s = .next (s.copyFault u ch c cause (x.base + wd (Tmpl.dstOff c.tmpl c.next))) := by
  show event _ = _
  subst hx
  simp only [copyStep, hst, hc, hcan, hw, hbad, Bool.false_eq_true, if_false]
  rfl

end

end State

end Sys2Proof.Machine
end

section
/-! The refutations of the statements about the engines, O33, about copies, O36, and about tile moves, O35. O33 and O36 have memory left as it is by
events that post, and a post to a thread that lies in an image is written there (R305). O35 takes every command on a unit for one of a thread of that
unit. -/

namespace Sys2Proof.Machine

/-! ## Posts to a saved thread -/

/-- A thread of slot 0 of unit 0, as its crew was saved. -/
def sleeper : Thread := State.reset.newThread oneLaunch 0 0 0 0 0 0 0

/-- Its crew, with its image at address 0. -/
def asleep : Saved :=
  { crew := oneCrew, threads := [sleeper], ganged := false, image := 0, size := imageSize false oneCrew.s1, cmds := [], board := [], tmpls := [],
    chans := [], tiles := [], latch0 := .reset, latch1 := .reset, shared := [], bars := [] }

/-- Reset, with that crew saved and this unit 0. -/
def whileAsleep (x : UnitSt) : State :=
  { State.reset with units := [(0, x)], disp := { Dispatcher.reset with saved := [asleep] } }

theorem whileAsleep_sound (x : UnitSt) : (whileAsleep x).Sound := State.sound_reset.upd

/-- A post to semaphore 1 of the thread changes a memory that is all zeros. -/
theorem post_sleeper_mem {s : State} (hm : s.mem = []) (ht : s.threads = []) (hd : s.disp.saved = [asleep]) (hn : s.now = 0) (status : Nat)
    (hw : (sleeper.post 0 1 1 1 status).semWord = 0x10000) : (s.post ⟨sleeper.ref, 1, 1⟩ 1 status).mem ≠ s.mem := by
  refine State.post_saved_mem (hm ▸ rfl) (by simp [State.ref?, State.thread?, findThread, ht]) hd rfl rfl 1 status ?_
  rw [hn, hw, hm]
  decide

/-- An MMA of the thread, its posts to come. -/
def lateCommand : Cmd := { strayCommand with t := sleeper.ref, csem := some 1, latch := none }

/-- Refutes O33: the consumed post of a command whose thread lies in an image is written there, and so changes memory. -/
theorem not_enginesRun : ¬ Obligations.EnginesRun := by
  rintro ⟨-, h⟩
  have hc : (whileAsleep { UnitSt.reset with cmds := [lateCommand] }).cmd? 0 lateCommand.id = some lateCommand := rfl
  obtain ⟨hconsumed, -⟩ := h _ 0 lateCommand 1 0 (whileAsleep_sound _) hc rfl rfl rfl rfl rfl rfl
  obtain ⟨w, hw, -, hmem, -⟩ := hconsumed rfl
  rw [State.exec_consumedPost hc rfl rfl rfl, State.consumed_posts hc (i := 1) rfl rfl] at hw
  obtain rfl := Host.Outcome.next.inj hw
  exact post_sleeper_mem rfl rfl rfl rfl 0 (by decide) hmem

/-- A copy of the thread, with a done post to come. -/
def lateCopy : Copy :=
  { id := 0, num := 0, tmpl := [], repeats := 1, t := sleeper.ref, dsem := some 1, ltag := 1, crew := 0, gang := 0, tid := 0, svc := false, pc := 0,
    inrgn := false, next := 0, waiting := false, cancelled := false }

/-- Its channel, of which the range lies in region 0x5, where nothing is. -/
def lateChan : Chan := { Chan.reset with st := .run, base := 0x5000000000000000, cur := some lateCopy }

/-- Refutes O36: the done post of a copy that a fault stops, of a thread that lies in an image, is written there, and so changes memory. -/
theorem not_copiesRun : ¬ Obligations.CopiesRun := by
  rintro ⟨-, h⟩
  obtain ⟨-, -, -, hbad⟩ := h _ 0 0 lateCopy (whileAsleep_sound { UnitSt.reset with chans := [(0, lateChan)] }) rfl rfl rfl rfl rfl
  have hplace : (whileAsleep { UnitSt.reset with chans := [(0, lateChan)] }).engPlace
      ((whileAsleep { UnitSt.reset with chans := [(0, lateChan)] }).ghost lateCopy.ltag lateCopy.gang lateCopy.crew lateCopy.tid 0) .write
      (lateChan.base + wd (Tmpl.dstOff lateCopy.tmpl lateCopy.next)) = .bad 3 := by decide +kernel
  obtain ⟨w, hw, hmem, -⟩ := hbad 3 hplace
  rw [State.exec_cxBlockWrite_bad (x := lateChan) rfl rfl rfl rfl rfl hplace] at hw
  obtain ⟨v, ⟨hvm, hvt, hvd, hvn⟩, hv⟩ := State.copyFault_posts (s := whileAsleep { UnitSt.reset with chans := [(0, lateChan)] }) (u := 0) (ch := 0)
    (cause := 3) (c := lateCopy) (i := 1) rfl rfl (lateChan.base + wd (Tmpl.dstOff lateCopy.tmpl lateCopy.next))
  rw [hv] at hw
  obtain rfl := Host.Outcome.next.inj hw
  exact post_sleeper_mem hvm hvt (congrArg (·.saved) hvd) hvn 1 (by decide) (hmem.trans hvm.symm)

/-! ## Tile moves -/

/-- A tile move of two blocks on unit 0, with the tag of a thread of unit 1, as `State.restoreCrew` can leave it (see `strayCommand`). -/
def strayMove : Cmd := { strayCommand with eng := .tmv, latch := none, src := [(0, 0xE000000000, 2)], dst := [(0, 0xE000001040, 2)] }

/-- It stands on unit 0 while the thread of `State.withFetchWord` issues. -/
def strayMoveState : State := { State.reset.withFetchWord 32 0 with units := [(0, { UnitSt.reset with cmds := [strayMove] })] }

theorem strayMoveState_sound : strayMoveState.Sound := by constructor <;> decide +kernel

/-- Its first block moved, the move goes on on unit 1, where it does not stand. -/
theorem strayMove_next {w : State} (h : exec (.tmvBlockDone 0 strayMove.id) strayMoveState = .next w) :
    (w.cmd? 0 strayMove.id).map (·.next) = some 0 := by
  obtain rfl := Host.Outcome.next.inj h
  decide +kernel

/-- Refutes O35: a tile move goes on on the unit of its thread's tag, which need not be the unit that it stands on. -/
theorem not_tileMoves : ¬ Obligations.TileMoves := by
  intro h
  obtain ⟨t, ht⟩ : ∃ t, strayMoveState.curThread? = some t := ⟨_, rfl⟩
  obtain ⟨-, -, -, -, hblock⟩ := h strayMoveState t
    { sm := false, x := false, b := .k0, a := .k0, d := .k0, n := .k0, c := .k0, sat := false, csem := 0, cen := false, dsem := 0,
      shape := 0, fmt := 0, fsrc := false, rm := 0 } ht
  obtain ⟨-, hmoves, -⟩ := hblock 0 strayMove strayMoveState_sound rfl rfl rfl (by decide +kernel) rfl
  obtain ⟨w, hw, -, hnext, -⟩ := hmoves (by decide +kernel) (by decide +kernel) (by decide +kernel) (by decide +kernel) (by decide +kernel)
    (by decide +kernel) (by decide +kernel) (by decide +kernel) (by decide +kernel) (by decide +kernel)
  obtain ⟨hcmd, -⟩ := hnext (by decide +kernel)
  have hstays := strayMove_next hw
  rw [hcmd] at hstays
  exact absurd hstays (by decide)

end Sys2Proof.Machine
end

section
/-! The statement about messages and remote spawns that come by the fabric, O50 (R181, R195, R212, R408, R417). -/

namespace Sys2Proof.Machine

open Sys2Proof.Claims (Replied Due)

/-- The message that an APP packet brings (R207). -/
def appRequest (p : Packet) : AppendReq :=
  { ltag := bits (p.dw 0) 48 16, unit := p.aux / 2 ^ 9 % 128, port := p.aux / 2 ^ 3 % 64,
    msg := (List.range (p.aux % 8 + 1)).map fun i => ⟨p.dw (i + 1), if p.poisoned.testBit (i + 1) then some ⟨0x041, 0⟩ else none⟩,
    senderDev := p.src, senderLtag := 0, senderWid := bits (p.dw 0) 12 20, senderUnit := 0, reply := none, replyPkt := some p }

/-- The spawn that an SPW packet asks for (R207). -/
def spwRequest (p : Packet) : SpawnReq :=
  { ltag := bits (p.dw 0) 48 16, unit := p.aux / 2 ^ 9 % 128, pc := p.dw 1,
    args := (List.range (p.aux / 2 ^ 3 % 8)).map fun i => p.dw (i + 2), prio := p.aux / 2 ^ 6 % 8, senderDev := p.src, senderLtag := 0,
    senderUnit := 0, reply := none, replyPkt := some p, psn := p.poisoned / 4 }

namespace State
variable {s : State} {p : Packet}

/-! ## A packet for a JU (R212, R417) -/

section
variable {ok : Bool} {i : Instr}

theorem toJu_cached {c : Cached} (h : s.cachedOf p.src p.tag = some c) : s.toJu p ok i = s.homeReply p 0 0x13 c.status [] 0 := by
  rw [toJu, h]

theorem toJu_unfit (h : s.cachedOf p.src p.tag = none) (hok : ok = false) : s.toJu p ok i = s.homeReply p 0 0x13 8 [] 3 := by
  rw [toJu, h, hok]
  rfl

section
variable (h : s.cachedOf p.src p.tag = none ∧ s.cacheRoom 1 = true) (hok : ok = true)
include h hok

theorem toJu_absent (hu : s.present (p.aux / 2 ^ 9 % 128) = false) : s.toJu p ok i = s.homeReply p 0 0x13 2 [] 0 := by
  rw [toJu, h.1, hok, h.2, hu]
  rfl

theorem toJu_present (hu : s.present (p.aux / 2 ^ 9 % 128) = true) : s.toJu p ok i = s.sched 0 (rankPort p.input) i := by
  rw [toJu, h.1, hok, h.2, hu]
  rfl

end
end

section
variable (hp : s.pkt = some p)
include hp

theorem exec_app : exec .app s =
    .next (s.toJu p (p.aux % 8 + 2 ≤ p.payload.length && !p.poisoned.testBit 0) (.appendAccept (appRequest p))) := onPkt_some hp _

theorem exec_spw : exec .spw s =
    .next (s.toJu p (p.aux / 2 ^ 3 % 8 + 2 ≤ p.payload.length && p.poisoned % 4 == 0) (.spawnrAccept (spwRequest p))) := onPkt_some hp _

end

/-- The status that a home answers reaches the packet's source under its tag. -/
theorem homeReply_told (status cause : Nat) : ∃ r, Replied (s.homeReply p 0 0x13 status [] cause) r ∧ r.kind = 0x13 ∧ r.dst = p.src ∧
    r.tag = p.tag ∧ r.status = status := by
  obtain ⟨r, hr, hkind, -, hdst, htag, hstatus, -⟩ := s.homeReply_replied p 0 0x13 status [] cause
  exact ⟨r, hr, hkind, hdst, htag, hstatus⟩

end State

/-- Settles O50: a packet by what the reply cache has of it, by what came poisoned, and by whether its unit is present. -/
theorem messagesReachTheirUnit : Obligations.MessagesReachTheirUnit := by
  intro s p hp unit told fresh
  have answered {i : Instr} {status cause : Nat} (h : exec i s = .next (s.homeReply p 0 0x13 status [] cause)) :
      ∃ u, exec i s = .next u ∧ told u status := ⟨_, h, State.homeReply_told ..⟩
  have happ := State.exec_app hp
  have hspw := State.exec_spw hp
  refine ⟨fun c hc => ?cached, fun hc => ⟨fun hpsn => ?_, fun hpsn => ?_⟩, fun hf hlen hpsn => ⟨fun hu => ?_, fun hu => ?_⟩,
    fun hf hlen hpsn => ⟨fun hu => ?_, fun hu => ?_⟩⟩
  case cached =>
    rw [happ, hspw, State.toJu_cached hc, State.toJu_cached hc]
    exact ⟨_, _, rfl, State.homeReply_told .., rfl, State.homeReply_told ..⟩
  · exact answered (happ.trans (congrArg Host.Outcome.next (State.toJu_unfit hc (by simp [hpsn]))))
  · exact answered (hspw.trans (congrArg Host.Outcome.next (State.toJu_unfit hc (by simp [hpsn]))))
  · exact answered (happ.trans (congrArg Host.Outcome.next (State.toJu_absent hf (by simp [hlen, hpsn]) hu)))
  · refine ⟨_, appRequest p, happ.trans (congrArg Host.Outcome.next (State.toJu_present hf (by simp [hlen, hpsn]) hu)),
      State.due_sched .., rfl, rfl, rfl, rfl, rfl, rfl, rfl, ?_⟩
    exact List.map_map
  · exact answered (hspw.trans (congrArg Host.Outcome.next (State.toJu_absent hf (by simpa [hpsn] using hlen) hu)))
  · exact ⟨_, spwRequest p, hspw.trans (congrArg Host.Outcome.next (State.toJu_present hf (by simpa [hpsn] using hlen) hu)),
      State.due_sched .., rfl, rfl, rfl, rfl, rfl, rfl, rfl, rfl, rfl⟩

end Sys2Proof.Machine
end

section
/-! The statement about RECV, O30 (R109, R182, R186, R312, R402). -/

namespace Sys2Proof.Machine

open Sys2Proof.Claims (Issues Faults TakesEntry)

namespace State
variable {s : State} {t : Thread} {c : Crew} {n slot : Nat}

/-! ## Stores of a JU (R178, R182) -/

theorem storeS1_now (tag u off : Nat) (v : Val) : (s.storeS1 tag u off v).now = s.now := by
  unfold storeS1
  split
  · exact (SameStorage.touch ..).now.trans (store_now ..)
  · rfl

theorem storeS1_disp (tag u off : Nat) (v : Val) : (s.storeS1 tag u off v).disp = s.disp := by
  unfold storeS1
  split
  · rename_i pa _
    obtain ⟨a, q, he⟩ := (s.store pa 8 v).touch_eq pa 8 none
    rw [he]
    exact store_disp ..
  · rfl

/-! ## Taking a message from a port (R182) -/

theorem crewOf_eq (hc : s.crew? t.ltag t.unit = some c) : s.crewOf t = c := by
  rw [crewOf, hc]
  rfl

/-- An open crew of a launch that is not deterministic takes the message at the head of its port. -/
theorem takeable_head (hen : (c.port n).en = true) (hcl : c.closed = false) (hdet : s.isDet c.ltag = false)
    (hcount : (c.port n).count ≠ 0) : s.takeable c n = some (c.port n).head := by
  simp [takeable, hen, hcl, hdet, Port.head?, hcount]

/-- What RECV returns of the message in `slot` of port `n`: its first values, the header before the dwords where it is asked for (R312). -/
def msgVals (s : State) (c : Crew) (n slot count : Nat) (hdr : Bool) : List Val :=
  let dws := (List.range 8).map fun k => s.loadS1 c.ltag c.unit ((c.port n).slotOff slot + 8 * k)
  (if hdr then ⟨(s.loadS1 c.ltag c.unit ((c.port n).hdrOff slot)).v, none⟩ :: dws else dws).take count

/-- The message at the head of port `n` has been taken: V of its header is clear, and the port has moved on. -/
def headTaken (s : State) (c : Crew) (n : Nat) : State :=
  let p := c.port n
  (s.storeS1 c.ltag c.unit (p.hdrOff p.head) ⟨(s.loadS1 c.ltag c.unit (p.hdrOff p.head)).v &&& 0x7FFFFFFFFFFFFFFF, none⟩).setCrew
    (c.setPort n { p with head := (p.head + 1) % p.depth, count := p.count - 1 })

/-- RECV takes the message at the head: its values are due after eight cycles, and a switch point follows. -/
theorem recv_head {count : Nat} {hdr : Bool} {d : Operand} (hdet : s.isDet c.ltag = false) (hp : (c.port n).psn = none)
    (hw : (s.loadS1 c.ltag c.unit ((c.port n).hdrOff (c.port n).head)).psn = none) :
    s.recv t c n (c.port n).head count hdr d =
      ((s.headTaken c n).sched 8 rankLate (.resultReturn t.ref t.nextId (s.msgVals c n (c.port n).head count hdr))).done
        (t.take (Thread.run d count) none false) 3 true [] := by
  have hv : ~~~(wd (2 ^ 63)) = 0x7FFFFFFFFFFFFFFF := by decide
  have hstored (off : Nat) (v : Val) : (s.storeS1 c.ltag c.unit off v).isDet c.ltag = false := by
    rw [isDet, launch?, storeS1_disp]
    exact hdet
  unfold recv takeMsg
  simp only [hw, hp, Option.isSome_none, Bool.or_self, Bool.false_eq_true, if_false, hstored, hv]
  rfl

/-! ## RECV and RECV_TAKE (R312, R402) -/

section
variable {sm hdr : Bool} {cnt : BitVec 3} {port : BitVec 6} {d : Operand} (hc : s.crew? t.ltag t.unit = some c)
include hc

section
variable (h : Issues s t)
include h

theorem recv_illegal (hbad : (c.port port.toNat).en = false ∨ c.member port.toNat = true) :
    Faults (.recv sm cnt port hdr d) s t (infoOf 1 3 0 0) 0 := by
  refine (onCur_issues h _).trans (congrArg Host.Outcome.next ?_)
  rw [crewOf_eq hc]
  exact if_pos (by rcases hbad with hb | hb <;> simp [hb])

variable (hen : (c.port port.toNat).en = true) (hm : c.member port.toNat = false) (hrb : t.rb.length ≠ 8)
include hen hm hrb

theorem recv_portData (hp : (c.port port.toNat).psn ≠ none) :
    exec (.recv sm cnt port hdr d) s = .next (s.portData c port.toNat (c.port port.toNat).head) := by
  refine (onCur_issues h _).trans (congrArg Host.Outcome.next ?_)
  simp only [crewOf_eq hc]
  rw [if_neg (by simp [hen, hm]), if_neg hrb, if_pos (Option.isSome_iff_ne_none.2 hp)]

theorem exec_recv_takes (hp : (c.port port.toNat).psn = none)
    (hsl : ((s.takeable c port.toNat).filter fun k => !s.waitsOn (s.msgExt c port.toNat k)) = some slot) :
    exec (.recv sm cnt port hdr d) s = .next (s.recv t c port.toNat slot (cnt.toNat + 1) hdr d) := by
  refine (onCur_issues h _).trans (congrArg Host.Outcome.next ?_)
  simp only [crewOf_eq hc, hsl]
  rw [if_neg (by simp [hen, hm]), if_neg hrb, if_neg (by simp [hp])]

theorem exec_recv_parks (hp : (c.port port.toNat).psn = none)
    (hsl : ((s.takeable c port.toNat).filter fun k => !s.waitsOn (s.msgExt c port.toNat k)) = none) :
    exec (.recv sm cnt port hdr d) s = .next (s.park t (.recv port.toNat (cnt.toNat + 1) hdr d)) := by
  refine (onCur_issues h _).trans (congrArg Host.Outcome.next ?_)
  simp only [crewOf_eq hc, hsl]
  rw [if_neg (by simp [hen, hm]), if_neg hrb, if_neg (by simp [hp])]

end

theorem exec_recvTake {r : ThreadRef} {count : Nat} (hr : s.ref? r = some t) (hst : t.st = .parked (.recv n count hdr d))
    (hsl : ((s.takeable c n).filter fun k => !s.waitsOn (s.msgExt c n k)) = some slot) : exec (.recvTake r) s = .next
      (s.recv { t with st := .ready, eligRound := max t.eligRound (s.round + 1) } c n slot count hdr d) := by
  show Host.Outcome.next _ = _
  simp only [hr, hst, hc, hsl]

end

end State

/-- Settles O30: RECV by whether its port may be read, and by whether its head may be taken; RECV_TAKE takes what RECV takes. -/
theorem receiveTakesHead : Obligations.ReceiveTakesHead := by
  intro s t sm hdr cnt port d c h hc hltag hunit i p n dws word vals after
  refine ⟨State.recv_illegal hc h, fun hen hm hrb hp hwait => ?parks, State.recv_portData hc h,
    fun hen hm hrb hdet hcl hcount hword hp hw => ?takes⟩
  case parks =>
    exact State.exec_recv_parks hc h hen hm hrb hp (Option.filter_eq_none_iff.2 fun k hk => by simp [hwait k hk])
  case takes =>
    have hhead : ((s.takeable c port.toNat).filter fun slot => !s.waitsOn (s.msgExt c port.toNat slot)) = some p.head := by
      rw [State.takeable_head hen hcl hdet hcount]
      exact Option.filter_some_pos (by simp [p, hw])
    refine ⟨takesEntry_of_done (words := 3) (vs := []) ?_, fun r hr hst => takesEntry_of_done (words := 3) (vs := []) ?_⟩
    · rw [State.exec_recv_takes hc h hen hm hrb hp hhead]
      exact congrArg Host.Outcome.next (State.recv_head hdet hp hword)
    · rw [State.exec_recvTake hc hr hst hhead]
      exact congrArg Host.Outcome.next (State.recv_head hdet hp hword)

end Sys2Proof.Machine
end

section
/-! SUPPORT. The end of a cycle (R40) leaves storage as it was: threads that wake, take a trap, restart a region or end write no memory, and the
cycle is still the same. -/

namespace Sys2Proof.Machine

namespace State.SameStorage
variable {s : State} {t : Thread}

theorem of_if {s : State} {c : Bool} {a b : State} (ha : SameStorage s a) (hb : SameStorage s b) : SameStorage s (if c then a else b) := by
  cases c
  · exact hb
  · exact ha

theorem park (t : Thread) (w : WaitFor) : SameStorage s (s.park t w) := ⟨rfl, rfl, rfl⟩

theorem onUnit (u : Nat) (f : UnitSt → UnitSt) : SameStorage s (s.onUnit u f) := ⟨rfl, rfl, rfl⟩

/-! ## The end of a thread (R299, R383) -/

theorem trigCheck (tag : Nat) : SameStorage s (s.trigCheck tag) := by
  unfold State.trigCheck
  split
  · split
    · exact refl s
    · exact of_if ⟨rfl, rfl, rfl⟩ (refl s)
  · exact refl s

theorem freeTwin (t : Thread) : SameStorage s (s.freeTwin t) := by
  unfold State.freeTwin
  split
  · exact onUnit ..
  · exact refl s

theorem freeSlot (t : Thread) : SameStorage s (s.freeSlot t) := by
  have dropped : SameStorage s ((s.dropThread t).raiseGen t.unit t.slot) := ⟨rfl, rfl, rfl⟩
  refine (dropped.trans (freeTwin t)).trans ((foldl (fun u c => ?_) t.copies _).trans (trigCheck _))
  split
  · exact inject ..
  · exact refl u

theorem endThread (t : Thread) : SameStorage s (s.endThread t) := by
  unfold State.endThread
  dsimp only
  refine SameStorage.trans ?_ (freeSlot _)
  split
  · exact (record _).trans ⟨rfl, rfl, rfl⟩
  · exact ⟨rfl, rfl, rfl⟩

theorem endContained (t : Thread) (cause : Nat) (va detail pc : Word) : SameStorage s (s.endContained t cause va detail pc) :=
  (record _).trans (endThread _)

theorem winexh (t : Thread) (pc : Word) : SameStorage s (s.winexh t pc) := endContained ..

theorem freeJoinFrame (t : Thread) : SameStorage s (s.freeJoinFrame t) := by
  unfold State.freeJoinFrame State.onCrew
  split
  · split
    · exact ⟨rfl, rfl, rfl⟩
    · exact refl s
  · exact refl s

/-! ## The window (R60 to R62) -/

theorem frameAccess (t : Thread) (off : Nat) (wr : Bool) (kind : Bool → AccKind) : SameStorage s (s.frameAccess t off wr kind).1 := by
  unfold State.frameAccess
  split
  · exact refl s
  · exact ⟨rfl, rfl, rfl⟩

theorem pushFrame {check : Bool} {s' : State} {t' : Thread} (h : Machine.pushFrame s t check = .ok s' t') : SameStorage s s' := by
  unfold Machine.pushFrame at h
  split at h
  · cases h
  · split at h
    · cases h
      exact refl s
    · split at h
      · cases h
        exact frameAccess ..
      · cases h

theorem refill (t : Thread) : SameStorage s (s.refill t) := by
  unfold State.refill
  split
  · exact park ..
  · exact (frameAccess t ..).trans (park ..)

/-! ## Traps and uncorrectable data (R64, R315, R374) -/

theorem trapEntry (t : Thread) (r : TrapReq) : SameStorage s (s.trapEntry t r) := by
  unfold State.trapEntry
  split
  · exact endContained ..
  · split
    · exact winexh ..
    · rename_i s' t' hpush
      split
      · exact park ..
      · refine (pushFrame hpush).trans ?_
        dsimp only
        split
        · exact park ..
        · exact setThread _

theorem consumeEnd (t : Thread) (cause : Nat) (p : Poison) (va pa : Word) (by_ : Option (Nat × Word)) :
    SameStorage s (s.consumeEnd t cause p va pa by_) := (record _).trans (endThread _)

theorem cancelRegion (t : Thread) : SameStorage s (s.cancelRegion t) := by
  refine (onUnit t.unit _).trans (foldl (fun u c => ?_) _ _)
  exact of_if (sched ..) (refl u)

theorem regionRestart (t : Thread) (p : Poison) (va pa : Word) (by_ : Option (Nat × Word)) :
    SameStorage s (s.regionRestart t p va pa by_) := by
  unfold State.regionRestart
  extract_lets n d u src v fin back
  have hnoted : SameStorage s v := (cancelRegion u).trans (record _)
  refine hnoted.trans ?_
  split
  · exact setThread _
  · split
    · exact refill _
    · exact winexh ..

theorem consume (t : Thread) (p : Poison) (va pa : Word) (by_ : Option (Nat × Word)) : SameStorage s (s.consume t p va pa by_) := by
  unfold State.consume
  refine of_if (consumeEnd ..) (of_if ?_ (consumeEnd ..))
  split
  · exact regionRestart ..
  · exact consumeEnd ..

/-! ## Commits and completions (R44, R239) -/

theorem settle (t : Thread) : SameStorage s (s.settle t) := by
  unfold State.settle
  extract_lets r
  split
  · exact consume ..
  · split
    · exact refill _
    · exact setThread _
    · split
      · exact consume ..
      · exact trapEntry ..
    · exact (freeJoinFrame _).trans (endThread _)
    · exact setThread _

theorem switchPoint (t : Thread) : SameStorage s (s.switchPoint t) := of_if (settle t) (park ..)

theorem doneAt (t : Thread) (next : Word) (sm : Bool) (vs : List Word) : SameStorage s (s.doneAt t next sm vs) := by
  have counted : SameStorage s (if t.twin.isSome then { s with free := s.free + 1 } else s) := of_if ⟨rfl, rfl, rfl⟩ (refl s)
  exact counted.trans (of_if (switchPoint _) (setThread _))

/-! ## What wakes at the end of a cycle (R40) -/

theorem takeSem (t : Thread) (i : BitVec 3) (v : Nat) : SameStorage s (s.takeSem t i v) := by
  unfold State.takeSem State.done
  exact doneAt ..

/-- A thread whose obstacle is gone goes on by what it was about to do. -/
theorem wakeAfter {ready : State} (hready : SameStorage s ready) (t : Thread) (gone : Bool) :
    SameStorage s (if gone then (match t.after with | .go => ready | _ => s.settle t) else s) := by
  refine of_if ?_ (refl s)
  split
  · exact hready
  · exact settle t

theorem wakeOne (t : Thread) : SameStorage s (s.wakeOne t) := by
  unfold State.wakeOne
  extract_lets ready
  have hready : SameStorage s ready := setThread _
  split
  case h_1 =>
    split
    case h_1 | h_2 => exact of_if hready (of_if (takeSem ..) (refl s))
    case h_3 =>
      refine of_if hready ?_
      split
      · exact of_if (sched ..) (refl s)
      · exact refl s
    case h_4 | h_5 => exact of_if (of_if (switchPoint t) hready) (refl s)
    case h_6 | h_7 => exact wakeAfter (setThread _) t _
    case h_8 => exact of_if (setThread _) (refl s)
    case h_9 => exact of_if (sched ..) (refl s)
    case h_10 => exact wakeAfter hready t _
  case h_2 => exact refl s

theorem wakeCopies : SameStorage s s.wakeCopies := by
  refine foldl (fun u x => foldl (fun v c => ?_) _ _) _ _
  split
  · exact of_if ⟨rfl, rfl, rfl⟩ (refl v)
  · exact refl v

theorem wakeAll : SameStorage s s.wakeAll := by
  refine SameStorage.trans (foldl (fun u x => ?_) _ _) wakeCopies
  split
  · exact wakeOne _
  · exact refl u

theorem ageAll : SameStorage s s.ageAll := ⟨rfl, rfl, rfl⟩

/-! ## What the next cycle begins with (R31, R52, R75, R187) -/

theorem settlePtr : SameStorage s s.settlePtr := by
  unfold State.settlePtr
  split
  · exact refl s
  · exact onUnit ..

theorem retryHalts : SameStorage s s.retryHalts := foldl (fun _ _ => sched ..) _ _

theorem periodic : SameStorage s s.periodic := by
  have swept {u : State} : SameStorage u (((if u.disp.launches.isEmpty then u else u.sched 0 rankDisp .endSweep).sched 0 rankLate .pdRefresh).sched 0
      rankLate .tempRefresh) := (of_if (refl u) (sched ..)).trans ((sched ..).trans (sched ..))
  unfold State.periodic
  extract_lets u
  have hu : SameStorage s u := of_if (sched ..) (refl s)
  split
  · exact hu.trans swept
  · exact hu

theorem serveHeads : SameStorage s s.serveHeads := foldl (fun u _ => of_if (sched ..) (refl u)) _ _

end State.SameStorage

/-- The end of a cycle begins the next. -/
theorem State.tick_now (s : State) : s.tick.now = s.now + 1 := by
  unfold State.tick
  extract_lets u v
  have hcleared : SameStorage u { u with scan := 0, issued := 0, busy := [], streak := s.streak.filter fun e => s.busy.contains e.1,
                                         engWaits := s.engWaits.filter fun w => w.2 == s.now } := ⟨rfl, rfl, rfl⟩
  have hv : SameStorage s v := SameStorage.settlePtr.trans (hcleared.trans (SameStorage.wakeAll.trans .ageAll))
  rw [SameStorage.serveHeads.now, SameStorage.periodic.now, SameStorage.retryHalts.now, ← hv.now]

end Sys2Proof.Machine
end

section
/-! The statement about turns, O60 (R196 to R198, R303): who issues next, and what a step does of what comes from outside and of what is due. -/

namespace Sys2Proof.Machine

namespace State
variable {s : State} {t : Thread}

/-! ## The thread that issues (R198) -/

theorem firstOf_eq_none {p : Nat} {l : List Thread} (h : s.firstOf p l = none) : l = [] := by
  cases l with
  | nil => rfl
  | cons x r =>
    rw [firstOf] at h
    split at h
    · cases h
    · split at h <;> cases h

/-- The first of a list stands in it, and none of the list has a greater EFF. -/
theorem firstOf_spec {p : Nat} {l : List Thread} (h : s.firstOf p l = some t) : t ∈ l ∧ ∀ x ∈ l, s.effOf x ≤ s.effOf t := by
  induction l generalizing t with
  | nil => cases h
  | cons y r ih =>
    rw [firstOf] at h
    split at h
    · rename_i hnone
      obtain rfl := Option.some.inj h
      simp [firstOf_eq_none hnone]
    · rename_i x hx
      obtain ⟨hmem, hmax⟩ := ih hx
      have hstands : s.standsBefore p x y = true ↔ s.effOf y < s.effOf x ∨
          s.effOf x = s.effOf y ∧ (x.slot + 256 - p) % 256 < (y.slot + 256 - p) % 256 := by simp [standsBefore]
      split at h
      · rename_i hb
        obtain rfl := Option.some.inj h
        refine ⟨List.mem_cons_of_mem _ hmem, List.forall_mem_cons.2 ⟨?_, hmax⟩⟩
        rcases hstands.1 hb with hlt | ⟨heq, -⟩
        · exact hlt.le
        · exact heq.ge
      · rename_i hb
        obtain rfl := Option.some.inj h
        have hxy : s.effOf x ≤ s.effOf y := Nat.le_of_not_lt fun hlt => hb (hstands.2 (.inl hlt))
        exact ⟨List.mem_cons_self, List.forall_mem_cons.2 ⟨le_rfl, fun z hz => (hmax z hz).trans hxy⟩⟩

/-- Moving the pointer of a mill changes no thread's EFF. -/
theorem effOf_settlePtr (x : Thread) : s.settlePtr.effOf x = s.effOf x := by
  have hage : (s.settlePtr.unit x.unit).ageStep = (s.unit x.unit).ageStep := by
    unfold settlePtr
    split
    · rfl
    · by_cases hu : x.unit = s.scan
      · rw [hu, unit_onUnit_self]
      · rw [unit, unit, onUnit, setUnit, mget_mset_other _ _ _ _ hu]
  rw [effOf, effOf, hage]

/-- The thread that issues is the first of those that one mill has eligible, and nothing but the scan of the mills moves. -/
theorem nextIssue_first {s1 : State} (h : s.nextIssue = some (s1, t)) :
    (∃ (u : State) (p m : Nat), (∀ x, u.effOf x = s.effOf x) ∧
      u.firstOf p ((s.threads.filter fun x => s.scan ≤ x.unit && s.eligible x).filter fun x => x.unit == m) = some t) ∧
    s1.threads = s.threads ∧ s1.mem = s.mem ∧ s1.agenda = s.agenda := by
  have hptr : s.settlePtr.threads = s.threads ∧ s.settlePtr.mem = s.mem ∧ s.settlePtr.agenda = s.agenda := by
    unfold settlePtr
    split
    · exact ⟨rfl, rfl, rfl⟩
    · exact ⟨rfl, rfl, rfl⟩
  unfold nextIssue at h
  split at h
  · cases h
  · rename_i x r hl
    rw [hl]
    split at h
    · split at h
      · rename_i hfirst
        obtain ⟨rfl, rfl⟩ := Prod.mk.inj (Option.some.inj h)
        exact ⟨⟨s, _, x.unit, fun _ => rfl, hfirst⟩, hptr⟩
      · cases h
    · dsimp only at h
      split at h
      · rename_i hfirst
        obtain ⟨rfl, rfl⟩ := Prod.mk.inj (Option.some.inj h)
        exact ⟨⟨s.settlePtr, _, x.unit, effOf_settlePtr, hfirst⟩, hptr⟩
      · cases h

theorem of_eligible (h : s.eligible t = true) : t.eligRound ≤ s.round ∧ t.holdTo ≤ s.now ∧ t.st = .ready := by
  simp only [eligible, Bool.and_eq_true, decide_eq_true_eq] at h
  obtain ⟨⟨hround, hhold⟩, hmay⟩ := h
  refine ⟨hround, hhold, ?_⟩
  unfold mayIssue at hmay
  split at hmay
  · assumption
  · cases hmay

/-! ## Steps -/

theorem step_input {e : Event} {r : List Event} (h : s.inputs = e :: r) :
    step s = .next ({ s with inputs := r }.schedEv 0 (State.inputRank e.op) e) := by
  rw [step, h]
  rfl

theorem step_due {e : Sched} {r : List Sched} (hi : s.inputs = []) (ha : s.agenda = e :: r) (hdue : e.due ≤ s.now) :
    step s = exec e.ev.op { s with agenda := r, pkt := e.ev.pkt, cmd := e.ev.cmd } := by
  rw [step, hi]
  simp only [ha, if_pos hdue]
  rfl

theorem step_tick (hi : s.inputs = []) (ha : ∀ e ∈ s.agenda, s.now < e.due) (hn : s.nextIssue = none) : step s = .next s.tick := by
  rw [step, hi]
  dsimp only
  split
  · rename_i e r he
    rw [if_neg (Nat.not_le.2 (ha e (he ▸ List.mem_cons_self))), hn]
  · rw [hn]

end State

/-- Settles O60: the thread that issues by how the mill's first is found, and the step by what has come from outside and what is due. -/
theorem stepTakesTurns : Obligations.StepTakesTurns := by
  refine ⟨?issues, ?steps⟩
  case issues =>
    intro s s1 t h
    obtain ⟨⟨u, p, m, heff, hfirst⟩, hthreads, hmem, hagenda⟩ := State.nextIssue_first h
    obtain ⟨ht, hmax⟩ := State.firstOf_spec hfirst
    have hin (x : Thread) : x ∈ (s.threads.filter fun x => s.scan ≤ x.unit && s.eligible x).filter (fun x => x.unit == m) ↔
        x ∈ s.threads ∧ s.scan ≤ x.unit ∧ s.eligible x = true ∧ x.unit = m := by
      simp only [List.mem_filter, Bool.and_eq_true, decide_eq_true_eq, beq_iff_eq, and_assoc]
    obtain ⟨hts, hscan, hel, rfl⟩ := (hin t).1 ht
    obtain ⟨hround, hhold, hready⟩ := State.of_eligible hel
    refine ⟨hts, hready, hround, hhold, hthreads, hmem, hagenda, fun x hx hxu hxe => ?_, fun _ => rfl⟩
    rw [← heff, ← heff]
    exact hmax x ((hin x).2 ⟨hx, hxu ▸ hscan, hxe, hxu⟩)
  case steps =>
    exact ⟨fun s e r h => State.step_input h, fun s e r hi ha hdue => State.step_due hi ha hdue,
      fun s hi ha hn => ⟨_, State.step_tick hi ha hn, s.tick_now⟩, fun s delay rank ev x => mem_insertSched⟩

end Sys2Proof.Machine
end

section
/-! SUPPORT. Barriers at their home (R191 to R194, R403): what stays due beside what is posted, the object of a barrier, and its waiters. -/

namespace Sys2Proof.Machine

open Sys2Proof.Claims (Due)

namespace State

/-! ## What stays due -/

/-- `u` is `s` in its cycle, and what is due in `s` is due in `u`. -/
structure StaysDue (s u : State) : Prop where
  now : u.now = s.now
  agenda : ∀ e ∈ s.agenda, e ∈ u.agenda

namespace StaysDue
variable {s t u : State}

theorem refl (s : State) : StaysDue s s := ⟨rfl, fun _ h => h⟩

theorem trans (h : StaysDue s t) (h' : StaysDue t u) : StaysDue s u := ⟨h'.now.trans h.now, fun e he => h'.agenda e (h.agenda e he)⟩

theorem due (h : StaysDue s u) {at_ : Nat} {op : Instr} (hd : Due s at_ op) : Due u at_ op := by
  obtain ⟨e, he, hdue, hop⟩ := hd
  exact ⟨e, h.agenda e he, hdue, hop⟩

theorem sched (delay rank : Nat) (op : Instr) : StaysDue s (s.sched delay rank op) := ⟨rfl, fun _ h => s.mem_agenda_sched.2 (.inr h)⟩

theorem errPort (r : RecInfo) (ws : List Word) : StaysDue s (s.errPort r ws) := by
  unfold State.errPort
  split
  · split
    · split
      · exact refl s
      · split
        · exact ⟨rfl, fun _ h => h⟩
        · exact sched ..
    · exact refl s
  · exact refl s

/-- A record of an error that was not corrected takes nothing from what is due. -/
theorem record {r : RecInfo} (hc : r.cls ≠ 1) : StaysDue s (s.record r) := by
  unfold State.record
  dsimp only
  rw [if_neg (by simpa using hc)]
  have logged : StaysDue s (s.logWords fun _ => recordWords s.pkg.seq s.now r) := ⟨rfl, fun _ h => h⟩
  exact logged.trans (errPort ..)

/-- What each step of a fold makes due, while every step takes nothing from what is due, is due after it. -/
theorem foldl_due {α : Type} {f : State → α → State} (hf : ∀ s a, StaysDue s (f s a)) {l : List α} {a : α} (ha : a ∈ l) {delay : Nat} {op : Instr}
    (hd : ∀ t : State, Due (f t a) (t.now + delay) op) (s : State) : Due (l.foldl f s) (s.now + delay) op := by
  obtain ⟨t, hst, htu⟩ := foldl_passes refl trans hf ha s
  exact hst.now ▸ htu.due (hd t)

end StaysDue

variable (s : State)

/-! ## The object of a barrier (R191) -/

theorem barrierStore_eq (b : Barrier) (reg : Bool) : ∃ m p, s.barrierStore b reg = { s with mem := m, psn := p } := by
  obtain ⟨p, h⟩ := s.store_eq b.pa 8 ⟨wd (b.need * 2 ^ 48 + b.arr * 2 ^ 32 + b.gen % 2 ^ 32), none⟩
  rw [barrierStore, h]
  exact ⟨_, store_eq _ _ _ _⟩

/-! ## Barriers that are registered (R192) -/

variable {s} {pa : Nat} {b : Barrier}

theorem find?_putBarrier_self (bs : List Barrier) (b : Barrier) : (putBarrier bs b).find? (fun x => x.pa == b.pa) = some b := by
  induction bs with
  | nil => simp [putBarrier]
  | cons x r ih =>
    rw [putBarrier]
    split
    · simp
    · rename_i h
      exact (List.find?_cons_of_neg (by exact h)).trans ih

theorem barrier?_some (h : s.barrier? pa = some b) : b.pa = pa := by simpa using List.find?_some h

/-- The home holds the barrier, and its object says so; what is due, and the cycle, are as they were. -/
def holdsBarrier (s : State) (b : Barrier) : State := { s with barriers := putBarrier s.barriers b }.barrierStore b true

theorem holdsBarrier_eq (s : State) (b : Barrier) :
    ∃ m p, s.holdsBarrier b = { s with barriers := putBarrier s.barriers b, mem := m, psn := p } := barrierStore_eq ..

theorem barrier?_holdsBarrier (h : b.pa = pa) : (s.holdsBarrier b).barrier? pa = some b := by
  obtain ⟨m, p, he⟩ := s.holdsBarrier_eq b
  rw [he, ← h]
  exact find?_putBarrier_self ..

/-! ## The waiters of a barrier (R193, R308) -/

/-- Where the post of an arrival comes from: of a BARWAIT its number tells it. -/
def waiterSrc : Option Nat → Nat
  | some id => barSrc id
  | none => 3

/-- One waiter is posted after the latency of the barrier's level. -/
def postWaiter (b : Barrier) (status : Nat) (s : State) (w : ThreadRef × BitVec 3 × Option Nat) : State :=
  s.postLater (levelLatency b.level) ⟨w.1, w.2.1, waiterSrc w.2.2⟩ 1 status

theorem barrierPosts_eq (s : State) (b : Barrier) (ws : List (ThreadRef × BitVec 3 × Option Nat)) (status : Nat) :
    s.barrierPosts b ws status = ws.foldl (postWaiter b status) s := rfl

theorem barrier?_sched (s : State) (delay rank : Nat) (op : Instr) (pa : Nat) : (s.sched delay rank op).barrier? pa = s.barrier? pa := rfl

theorem due_barrierPosts (s : State) (b : Barrier) {ws : List (ThreadRef × BitVec 3 × Option Nat)} (status : Nat)
    {w : ThreadRef × BitVec 3 × Option Nat} (hw : w ∈ ws) :
    Due (s.barrierPosts b ws status) (s.now + levelLatency b.level) (.semPost ⟨w.1, w.2.1, waiterSrc w.2.2⟩ 1 status) := by
  rw [barrierPosts_eq]
  exact StaysDue.foldl_due (f := postWaiter b status) (fun _ _ => .sched ..) hw (fun _ => due_sched ..) s

theorem barrier?_barrierPosts (s : State) (b : Barrier) (ws : List (ThreadRef × BitVec 3 × Option Nat)) (status pa : Nat) :
    (s.barrierPosts b ws status).barrier? pa = s.barrier? pa :=
  List.foldlRecOn (motive := fun u : State => u.barrier? pa = s.barrier? pa) ws _ rfl fun _ h _ _ => h

end State

end Sys2Proof.Machine
end

section
/-! The statement about barriers, O28. -/

namespace Sys2Proof.Machine

open Sys2Proof.Claims (Issues Faults TakesEntry Completes Due)

namespace State
variable {s : State}

/-! ## BARINIT, BARARR and BARWAIT (R191, R307, R308) -/

section
variable {t : Thread} (h : Issues s t) (sm : Bool) (sem : BitVec 3) (d a b : Operand)
include h

theorem barrier_faults (hva : s.barrierAddr t (t.rd a) = none) : Faults (.barinit sm d a b) s t (infoVa 3 (t.rd a) false 0) (t.rd a) ∧
    Faults (.bararr sm sem a) s t (infoVa 3 (t.rd a) false 0) (t.rd a) ∧ Faults (.barwait sm sem a) s t (infoVa 3 (t.rd a) false 0) (t.rd a) := by
  refine ⟨(onCur_issues h _).trans ?_, (onCur_issues h _).trans ?_, (onCur_issues h _).trans ?_⟩
  · simp only [hva]
    rfl
  · simp only [hva]
  · simp only [hva]

section
variable {pa : Nat} (hva : s.barrierAddr t (t.rd a) = some pa)
include hva

theorem barinit_illegal (hn : (t.rd b).toNat = 0 ∨ 65535 < (t.rd b).toNat) : Faults (.barinit sm d a b) s t (infoOf 1 3 0 0) 0 := by
  refine (onCur_issues h _).trans (congrArg Host.Outcome.next ?_)
  simp only [hva]
  exact (if_neg (by simp)).trans (if_pos (by simpa using hn))

theorem barinit_takes (hn : 0 < (t.rd b).toNat) (hn' : (t.rd b).toNat ≤ 65535) (hrb : t.rb.length ≠ 8) : TakesEntry (.barinit sm d a b) s
    (s.sched (levelLatency ((t.rd a).toNat / 2 ^ 60)) rankLate (.barrierRegister t.ref t.nextId (t.rd a) (t.rd b).toNat)) t sm [d] (t.pc + 12) := by
  refine takesEntry_of_done (words := 3) (vs := []) ((onCur_issues h _).trans (congrArg Host.Outcome.next ?_))
  simp only [hva]
  rw [if_neg (by simp), if_neg (by simp; omega), withEntry, if_neg hrb]

variable (ho : t.out = [])
include ho

theorem bararr_completes : Completes (.bararr sm sem a) s
    (s.sched (levelLatency ((t.rd a).toNat / 2 ^ 60)) rankLate (.barrierArrival t.ref sem (t.rd a) pa none)) (endRegion t) sm (t.pc + 4) := by
  refine completes_of_done (words := 1) (vs := []) (t := endRegion t) ((onCur_issues h _).trans (congrArg Host.Outcome.next ?_))
  simp only [hva]
  exact if_neg (by simp [ho])

theorem barwait_parks : exec (.barwait sm sem a) s =
    .next ((s.sched (levelLatency ((t.rd a).toNat / 2 ^ 60)) rankLate (.barrierArrival t.ref sem (t.rd a) pa (some s.nextId))).fresh.park
      { endRegion t with barId := s.nextId, barrierGot := false } (.barrier sem)) := by
  refine (onCur_issues h _).trans (congrArg Host.Outcome.next ?_)
  simp only [hva]
  exact if_neg (by simp [ho])

end
end

/-! ## BARRIER_REGISTER (R191, R192, R307) -/

/-- The home of a barrier has no room for another of its level with this need. -/
def NoHome (s : State) (lvl home need : Nat) : Prop :=
  let peers := s.barriers.filter fun x => x.level == lvl && x.home == home
  (barrierRoom lvl).1 ≤ peers.length ∨ (barrierRoom lvl).2 < (peers.map fun x => x.need - 1).sum + (need - 1)

/-- The barrier as BARINIT makes it. -/
def newBarrier (t : Thread) (va : Word) (pa need : Nat) : Barrier :=
  { level := va.toNat / 2 ^ 60, home := inst (va.toNat / 2 ^ 60) t.unit, pa := pa, va := va, ltag := t.ltag, need := need, arr := 0, gen := 0,
    waiters := [] }

section
variable {t : Thread} {r : ThreadRef} {va : Word} {pa : Nat} (rb need : Nat) (hr : s.ref? r = some t) (hva : s.barrierAddr t va = some pa)
  (hb : s.barrier? pa = none)
include hr hva hb

theorem exec_barrierRegister_full (hfull : s.NoHome (va.toNat / 2 ^ 60) (inst (va.toNat / 2 ^ 60) t.unit) need) :
    exec (.barrierRegister r rb va need) s =
      .next (s.sched (levelLatency (va.toNat / 2 ^ 60)) rankLate (.resultReturn r rb [⟨3, none⟩])) := by
  have hreg : s.register t va pa need = (s, 3) := by
    unfold register
    rw [hb]
    exact if_pos (by simpa [NoHome] using hfull)
  show Host.Outcome.next _ = _
  simp only [hr, hva, hreg]
  rfl

theorem exec_barrierRegister (hroom : ¬s.NoHome (va.toNat / 2 ^ 60) (inst (va.toNat / 2 ^ 60) t.unit) need) :
    exec (.barrierRegister r rb va need) s =
      .next ((s.holdsBarrier (newBarrier t va pa need)).sched (levelLatency (va.toNat / 2 ^ 60)) rankLate (.resultReturn r rb [⟨0, none⟩])) := by
  have hreg : s.register t va pa need = (s.holdsBarrier (newBarrier t va pa need), 0) := by
    unfold register
    rw [hb]
    exact if_neg (by simpa [NoHome] using hroom)
  show Host.Outcome.next _ = _
  simp only [hr, hva, hreg]
  rfl

end

/-! ## BARRIER_ARRIVAL (R193, R308) -/

section
variable (r : ThreadRef) (sem : BitVec 3) (va : Word) {pa : Nat} (bwait : Option Nat)

theorem exec_barrierArrival_none (hb : s.barrier? pa = none) : exec (.barrierArrival r sem va pa bwait) s =
    .next (s.postLater (levelLatency (va.toNat / 2 ^ 60)) ⟨r, sem, waiterSrc bwait⟩ 1 4) := by
  show Host.Outcome.next _ = _
  simp only [hb]
  rfl

variable {b : Barrier} (hb : s.barrier? pa = some b)
include hb

theorem exec_barrierArrival_waits (hn : b.arr + 1 < b.need) : exec (.barrierArrival r sem va pa bwait) s =
    .next (s.holdsBarrier { b with arr := b.arr + 1, waiters := b.waiters ++ [(r, sem, bwait)] }) := by
  show Host.Outcome.next _ = _
  simp only [hb, if_pos hn]
  rfl

theorem exec_barrierArrival_last (hn : b.need ≤ b.arr + 1) : exec (.barrierArrival r sem va pa bwait) s =
    .next ((s.holdsBarrier { b with arr := 0, gen := (b.gen + 1) % 2 ^ 32, waiters := [] }).barrierPosts b (b.waiters ++ [(r, sem, bwait)]) 0) := by
  show Host.Outcome.next _ = _
  simp only [hb, if_neg (Nat.not_lt.2 hn)]
  rfl

end

/-! ## BARRIER_BROKEN (R194, R403) -/

/-- The unit that the record of a break names: the writer's, or without one the first waiter's. -/
def breakUnit (b : Barrier) : Option ThreadRef → Nat
  | some w => w.unit
  | none => (b.waiters.head?.map fun w => w.1.unit).getD 0

/-- A barrier that breaks is registered no more, and its waiters are posted BROKEN. -/
theorem exec_barrierBroken {pa : Nat} {b : Barrier} (hb : s.barrier? pa = some b) (harr : b.arr ≠ 0) (reinit : Bool) (writer : Option ThreadRef) :
    ∃ u, exec (.barrierBroken pa reinit writer) s = .next u ∧ u.barrier? pa = none ∧ StaysDue (s.barrierPosts b b.waiters 4) u := by
  have broken (unit : Nat) : StaysDue (s.barrierPosts b b.waiters 4) (s.breakBarrier b reinit unit) := .record (show (3 : Nat) ≠ 1 by decide)
  have hexec : exec (.barrierBroken pa reinit writer) s =
      .next (((s.breakBarrier b reinit (breakUnit b writer)).dropBarrier pa).store (pa + 8) 8 ⟨0, none⟩) := by
    show Host.Outcome.next _ = _
    simp only [hb, if_neg harr]
    rfl
  obtain ⟨p, hstore⟩ := ((s.breakBarrier b reinit (breakUnit b writer)).dropBarrier pa).store_eq (pa + 8) 8 ⟨0, none⟩
  refine ⟨_, hexec, ?_, ?_⟩
  · rw [hstore]
    exact List.find?_eq_none.2 fun x hx => by simpa using (List.mem_filter.1 hx).2
  · rw [hstore]
    exact (broken _).trans ⟨rfl, fun _ h => h⟩

/-- A write that meets a barrier while arrivals wait there breaks it in this cycle. -/
theorem touch_breaks {b : Barrier} (hb : b ∈ s.barriers) (harr : b.arr ≠ 0) {pa n : Nat} (hm : meets b.pa 16 pa n = true)
    (writer : Option ThreadRef) : Due (s.touch pa n writer) s.now (.barrierBroken b.pa false writer) := by
  refine StaysDue.foldl_due (delay := 0) (fun u x => ?_) hb (fun u => ?_) s
  · split
    · exact .sched ..
    · exact .refl u
  · rw [if_pos (by simp [harr, hm])]
    exact due_sched ..

end State

/-- Settles O28: the instructions by the address that they name, and each event by what the home has registered there. -/
theorem barriers : Obligations.Barriers := by
  refine ⟨fun s t sm sem d a b h => ?instructions, fun s r sem va pa bwait => ?events⟩
  case instructions =>
    intro va need lat e
    exact ⟨State.barrier_faults h sm sem d a b, fun pa hva => ⟨State.barinit_illegal h sm d a b hva, State.barinit_takes h sm d a b hva,
      State.bararr_completes h sm sem a hva, State.barwait_parks h sm sem a hva⟩⟩
  case events =>
    intro lat mine src
    refine ⟨fun t rb need hr hva hb hneed => ⟨State.exec_barrierRegister_full rb need hr hva hb, fun hroom => ?registers⟩,
      State.exec_barrierArrival_none r sem va bwait, fun b hb hn => ?waits, fun b hb hn => ?last, fun b reinit writer hb harr => ?breaks,
      fun b hb n writer harr hm => State.touch_breaks hb harr hm writer⟩
    case registers =>
      obtain ⟨m, p, he⟩ := s.holdsBarrier_eq (State.newBarrier t va pa need)
      refine ⟨_, State.exec_barrierRegister rb need hr hva hb hroom, ?_, State.newBarrier t va pa need, ?_, rfl, rfl, rfl, rfl⟩
      · rw [he]
        exact State.due_sched ..
      · rw [State.barrier?_sched]
        exact State.barrier?_holdsBarrier rfl
    case waits =>
      have hpa := State.barrier?_some hb
      refine ⟨_, State.exec_barrierArrival_waits r sem va bwait hb hn, State.barrier?_holdsBarrier hpa, ?_⟩
      obtain ⟨m, p, he⟩ := s.holdsBarrier_eq { b with arr := b.arr + 1, waiters := b.waiters ++ [(r, sem, bwait)] }
      rw [he]
    case last =>
      have hpa := State.barrier?_some hb
      refine ⟨_, State.exec_barrierArrival_last r sem va bwait hb hn, ?_, fun w hw => ?_⟩
      · rw [State.barrier?_barrierPosts]
        exact State.barrier?_holdsBarrier hpa
      · obtain ⟨m, p, he⟩ := s.holdsBarrier_eq { b with arr := 0, gen := (b.gen + 1) % 2 ^ 32, waiters := [] }
        rw [he]
        exact State.due_barrierPosts _ b 0 hw
    case breaks =>
      obtain ⟨u, hu, hnone, hdue⟩ := State.exec_barrierBroken hb harr reinit writer
      exact ⟨u, hu, hnone, fun w hw => hdue.due (s.due_barrierPosts b 4 hw)⟩

end Sys2Proof.Machine
end

section
/-! The statement about ports and patterns, O29 (R109, R180, R185 to R189, R309 to R311, R314). -/

namespace Sys2Proof.Machine

open Sys2Proof.Claims (Issues Faults TakesEntry Completes Due put)

namespace State
variable {s : State} {t : Thread} {c : Crew} {words : Nat} {sm : Bool}

/-! ## PATSET, PATCLR, PORTCFG and PORTSTAT (R309 to R311, R314) -/

theorem onCrew_eq {tag u : Nat} (hc : s.crew? tag u = some c) (f : Crew → Crew) : s.onCrew tag u f = s.setCrew (f c) := by
  simp only [onCrew, hc]

/-- The crew with the pattern `idx` set, as PATSET sets it (R185). -/
def withPattern (s : State) (c : Crew) (idx : Nat) (d0 hpc d2 : Word) : State :=
  let p : Pat := { d0 := d0, hpc := hpc, d2 := d2, fires := 0, pend := 0, ring := 0, epoch := s.nextId }
  (s.setCrew { c with pats := mset c.pats idx p }).fresh

/-- The crew with V of the pattern `v` clear, as PATCLR leaves it. -/
def patternCleared (c : Crew) (v : Nat) : Crew :=
  { c with pats := c.pats.map fun e => if e.1 = v then (e.1, { e.2 with d0 := e.2.d0 &&& 0x7FFFFFFFFFFFFFFF }) else e }

/-- The port that an image whose EN is set configures (R180). -/
def configured (d0 d1 : Word) : Port :=
  { en := true, pol := d0.getLsbD 62, closed := false, depth := bits d0 48 11, base := bits d0 6 15 * 64, slo := bits d1 44 20,
    ns := bits d1 36 8, q := bits d1 32 4, head := 0, tail := 0, count := 0, det := [], accepted := [], batch := 0, psn := none }

theorem patset_refused {d0 hpc d2 : Word} (idx : Nat) (hr : s.patRefused t d0 hpc d2 = true) :
    s.patset t words sm idx d0 hpc d2 = s.outOfRange t 0 := if_pos hr

section
variable (hc : s.crew? t.ltag t.unit = some c)
include hc

theorem patset_taken {d0 hpc d2 : Word} (idx : Nat) (hr : s.patRefused t d0 hpc d2 = false) :
    s.patset t words sm idx d0 hpc d2 = (s.withPattern c idx d0 hpc d2).done t words sm [] := by
  rw [patset, if_neg (by simp [hr])]
  dsimp only
  rw [onCrew_eq hc]
  rfl

variable (h : Issues s t)
include h

theorem patclr_completes {i : BitVec 8} {a : Operand} (hv : (t.rd a + i.setWidth 64).toNat ≤ 31) :
    Completes (.patclr sm i a) s (s.setCrew (patternCleared c (t.rd a + i.setWidth 64).toNat)) t sm (t.pc + 4) := by
  have hmask : ~~~(wd (2 ^ 63)) = 0x7FFFFFFFFFFFFFFF := by decide
  refine completes_of_done (words := 1) (vs := []) ((onCur_issues h _).trans (congrArg Host.Outcome.next ?_))
  simp only [syVal, if_neg (Nat.not_lt.2 hv), onCrew_eq hc, hmask, beq_iff_eq]
  rfl

section
variable {port : BitVec 6} {a b : Operand} (hr : s.portRefused t port.toNat (t.rd a) (t.rd b) = false)
include hr

theorem portcfg_enables (hen : (t.rd a).getLsbD 63 = true) : Completes (.portcfg sm port a b) s
    (s.setCrew (c.setPort port.toNat (configured (t.rd a) (t.rd b)))) t sm (t.pc + 12) := by
  refine completes_of_done (words := 3) (vs := []) ((onCur_issues h _).trans (congrArg Host.Outcome.next ?_))
  simp only [hr, hen, onCrew_eq hc]
  rfl

theorem portcfg_disables (hen : (t.rd a).getLsbD 63 = false) : Completes (.portcfg sm port a b) s
    (s.setCrew (c.setPort port.toNat Port.empty)) t sm (t.pc + 12) := by
  refine completes_of_done (words := 3) (vs := []) ((onCur_issues h _).trans (congrArg Host.Outcome.next ?_))
  simp only [hr, hen, onCrew_eq hc]
  rfl

end

theorem portstat_takes {w : Bool} {port : BitVec 6} {d : Operand} (hrb : t.rb.length ≠ 8) : TakesEntry (.portstat sm w port d) s
    (s.sched 8 rankLate (.resultReturn t.ref t.nextId [⟨if w then (c.port port.toNat).word1 else (c.port port.toNat).word0 c.closed,
      (c.port port.toNat).psn⟩])) t sm [d] (t.pc + 4) := by
  refine takesEntry_of_done (words := 1) (vs := []) ((onCur_issues h _).trans (congrArg Host.Outcome.next ?_))
  simp only [crewOf_eq hc]
  rw [longDone, withEntry, if_neg hrb]

end

/-! ## The candidates of an evaluation (R187) -/

theorem mem_insertPat {x e : Nat × Pat} {l : List (Nat × Pat)} (h : e ∈ insertPat x l) : e = x ∨ e ∈ l := by
  induction l with
  | nil => exact .inl (List.mem_singleton.1 h)
  | cons y r ih =>
    rw [insertPat] at h
    split at h
    · exact List.mem_cons.1 h
    · obtain rfl | h := List.mem_cons.1 h
      · exact .inr (List.mem_cons_self ..)
      · exact (ih h).imp_right (List.mem_cons_of_mem _)

theorem mem_candidates {e : Nat × Pat} (h : e ∈ s.candidates c) : e.2.v = true ∧ ∀ n ∈ e.2.ports, (s.takeable c n).isSome := by
  have hmem : e ∈ c.pats.filter fun e => e.2.v && e.2.ports.all fun n => (s.takeable c n).isSome := by
    refine List.foldlRecOn (motive := fun l => e ∈ l → e ∈ c.pats.filter _) _ _ (fun h => absurd h List.not_mem_nil)
      (fun l ih x hx he => ?_) h
    obtain rfl | he := mem_insertPat he
    · exact hx
    · exact ih he
  simpa using (List.mem_filter.1 hmem).2

/-! ## PATTERN_EVALUATION (R187) -/

theorem exec_patternEvaluation (hcs : s.disp.crews = [c]) : exec .patternEvaluation s = .next (s.evalCrew c.ltag c.unit) := by
  show Host.Outcome.next _ = _
  rw [hcs]
  rfl

section
variable (hc : s.crew? c.ltag c.unit = some c)
include hc

theorem evalCrew_alone (h : c.closed = true ∨ s.candidates c = []) : s.evalCrew c.ltag c.unit = s := by
  simp only [evalCrew, hc]
  rcases h with h | h
  · rw [if_pos h]
  · simp [h]

theorem evalCrew_first {l r : List (Nat × Pat)} {e : Nat × Pat} (hcl : c.closed = false) (hl : s.candidates c = l ++ e :: r)
    (hbefore : ∀ x ∈ l, s.canFire c x.2 = false) (he : s.canFire c e.2 = true) :
    s.evalCrew c.ltag c.unit = if s.waitsOn (s.fireExt c e.2) then s else s.fire c e.1 e.2 := by
  have hfind : (s.candidates c).find? (fun e => s.canFire c e.2) = some e :=
    List.find?_eq_some_iff_append.2 ⟨he, l, r, hl, fun x hx => by simp [hbefore x hx]⟩
  simp only [evalCrew, hc, hfind]
  rw [if_neg (by simp [hcl])]

end

/-! ## The message that a firing brings (R188, R189) -/

theorem storeS1s_now {α : Type} (tag u : Nat) (off : α → Nat) (v : α → Val) (l : List α) :
    (l.foldl (fun s i => s.storeS1 tag u (off i) (v i)) s).now = s.now :=
  List.foldlRecOn (motive := fun u : State => u.now = s.now) l _ rfl fun _ h _ _ => (storeS1_now ..).trans h

theorem takeMsg_now {n slot : Nat} {u : State} {hdr : Word} {dws : List Val} (h : s.takeMsg c n slot = .msg u hdr dws) : u.now = s.now := by
  unfold takeMsg at h
  dsimp only at h
  split at h
  · cases h
  · cases h
    exact storeS1_now ..

theorem takeHeads_now {tag u off : Nat} {l : List (Nat × Nat)} {v : State} (h : takeHeads tag u off s l = (v, true)) : v.now = s.now := by
  induction l generalizing s with
  | nil =>
    cases h
    rfl
  | cons x r ih =>
    obtain ⟨n, q⟩ := x
    rw [takeHeads] at h
    split at h
    · cases h
    · split at h
      · cases h
      · split at h
        · cases h
        · rename_i hm
          exact (ih h).trans ((storeS1s_now ..).trans (takeMsg_now hm))

theorem onCrew_now (tag u : Nat) (f : Crew → Crew) : (s.onCrew tag u f).now = s.now := by
  unfold onCrew
  split
  · rfl
  · rfl

theorem due_sched_of_now {u : State} (h : u.now = s.now) (delay rank : Nat) (op : Instr) : Due (u.sched delay rank op) (s.now + delay) op :=
  h ▸ due_sched ..

/-- Where a firing puts the messages of its members: a slot of the ring of a pattern that wakes, or a join frame. -/
def fireOff (s : State) (c : Crew) (p : Pat) : Nat :=
  if p.wake then 256 * p.fboff + 256 * p.ring else frameOff (s.s1Bytes c.ltag) ((freeFrame c).getD 0)

/-- A firing has taken the heads of its members, and the pattern and the pool of frames have moved on. -/
def fired (s : State) (c : Crew) (idx : Nat) (p : Pat) : State :=
  let frame := (freeFrame c).getD 0
  let off := s.fireOff c p
  let q := { p with fires := p.fires + 1, ring := (p.ring + 1) % (p.fn + 1), d0 := if p.one then p.d0 &&& ~~~(wd (2 ^ 63)) else p.d0,
                    pend := p.pend + b01 p.wake }
  ((takeHeads c.ltag c.unit off s p.ports.zipIdx).1.zeroQuarters c.ltag c.unit off p.ports.length).onCrew c.ltag c.unit fun c =>
    { c with pats := mset c.pats idx q, busy := if p.wake then c.busy else frame :: c.busy }

section
variable {e : Nat × Pat} (h : (takeHeads c.ltag c.unit (s.fireOff c e.2) s e.2.ports.zipIdx).2 = true)
include h

theorem fired_now : (s.fired c e.1 e.2).now = s.now :=
  (onCrew_now ..).trans ((storeS1s_now ..).trans (takeHeads_now (Prod.ext rfl h)))

theorem fire_eq : s.fire c e.1 e.2 =
    if e.2.wake then (s.fired c e.1 e.2).sched 6 (rankPost e.2.wsem) (.wakePost c.ltag c.unit e.1 e.2.epoch e.2.wtid e.2.wsem)
    else (s.fired c e.1 e.2).sched 6 (rankJu c.unit)
      (.handlerCreate c.ltag c.unit e.1 ((freeFrame c).getD 0) e.2.hpc (BitVec.ofNat 3 e.2.pri)) := by
  have htaken : ¬(!(takeHeads c.ltag c.unit (s.fireOff c e.2) s e.2.ports.zipIdx).2) = true := by simp [h]
  exact if_neg htaken

theorem due_fire : Due (s.fire c e.1 e.2) (s.now + 6) (if e.2.wake then .wakePost c.ltag c.unit e.1 e.2.epoch e.2.wtid e.2.wsem
    else .handlerCreate c.ltag c.unit e.1 ((freeFrame c).getD 0) e.2.hpc (BitVec.ofNat 3 e.2.pri)) := by
  rw [fire_eq h]
  split
  · exact due_sched_of_now (fired_now h) ..
  · exact due_sched_of_now (fired_now h) ..

end

/-! ## A thread that is created (R195, R296) -/

/-- Argument registers that hold `args` from a0 upwards. -/
def withArgs (v : Vector Word 8) (args : List Word) : Vector Word 8 := args.zipIdx.foldl (fun v (x, i) => nset v i x) v

/-- The thread that `create` makes in `slot`. -/
def created (s : State) (l : Launch) (c : Crew) (slot tid : Nat) (pc : Word) (base : BitVec 3) (args : List Word) : Thread :=
  let n := s.newThread l c.gang c.idx c.unit slot tid pc base
  { n with a := withArgs n.a args }

theorem create_eq {l : Launch} {slot : Nat} (h : s.freeSlot? c.unit = some slot) (tid : Nat) (pc : Word) (base : BitVec 3) (args : List Word)
    (f : Thread → Thread) : s.create l c tid pc base args f = s.setThread (f (s.created l c slot tid pc base args)) := by
  simp only [create, h]
  rfl

/-! ## HANDLER_CREATE and WAKE_POST (R188, R189) -/

section
variable (hc : s.crew? c.ltag c.unit = some c) {l : Launch} (hl : s.launch? c.ltag = some l)
include hc hl

theorem exec_handlerCreate_ending (he : l.ending.isSome = true) (pat frame : Nat) (pc : Word) (pri : BitVec 3) :
    exec (.handlerCreate c.ltag c.unit pat frame pc pri) s = .next s := by
  show Host.Outcome.next _ = _
  simp only [hl, hc, he]
  rfl

theorem exec_handlerCreate (he : l.ending = none) {slot : Nat} (hslot : s.freeSlot? c.unit = some slot) (pat frame : Nat) (pc : Word)
    (pri : BitVec 3) : exec (.handlerCreate c.ltag c.unit pat frame pc pri) s = .next (s.setThread
      { s.created l c slot (s.freeTid c.ltag c.unit) pc pri [s1Va (frameOff (s.s1Bytes c.ltag) frame), wd pat] with frame := some frame }) := by
  show Host.Outcome.next _ = _
  simp only [hl, hc, he]
  exact congrArg Host.Outcome.next ((if_neg Bool.false_ne_true).trans (create_eq hslot ..))

end

/-- The crew whose pattern `pat`, while it is of this epoch, has one post less that is to come. -/
def postTaken (c : Crew) (pat epoch : Nat) : Crew :=
  { c with pats := c.pats.map fun e => if e.1 = pat ∧ e.2.epoch = epoch then (e.1, { e.2 with pend := e.2.pend - 1 }) else e }

theorem exec_wakePost (hc : s.crew? c.ltag c.unit = some c) {tid : Nat} (ht : s.byTid c.ltag c.unit tid = some t) (pat epoch : Nat)
    (sem : BitVec 3) : exec (.wakePost c.ltag c.unit pat epoch tid sem) s = .next ((s.setCrew (postTaken c pat epoch)).post ⟨t.ref, sem, 4⟩ 1 0) := by
  have hthread (c' : Crew) : (s.setCrew c').byTid c.ltag c.unit tid = some t := ht
  show Host.Outcome.next _ = _
  simp only [onCrew_eq hc, hthread, Bool.and_eq_true, beq_iff_eq]
  rfl

end State

/-- Settles O29: the instructions by what refuses them, an evaluation by its first candidate, and the two messages of a firing. -/
theorem portsAndPatterns : Obligations.PortsAndPatterns := by
  refine ⟨fun s t sm w idx port i hpc d a b c cr h hc => ?instructions, fun s c hc hcs => ?firing⟩
  case instructions =>
    refine ⟨⟨fun hr => ?_, fun hr => ?_⟩, ⟨fun hr => ?_, fun hr => ?_⟩, fun hv => ?_, fun hv => ⟨_, State.patclr_completes hc h hv, rfl⟩,
      fun hr => ?_, State.portcfg_enables hc h, State.portcfg_disables hc h, State.portstat_takes hc h⟩
    · exact (onCur_issues h _).trans (congrArg Host.Outcome.next (State.patset_refused idx.toNat hr))
    · exact completes_of_done (words := 3) (vs := []) ((onCur_issues h _).trans (congrArg Host.Outcome.next (State.patset_taken hc idx.toNat hr)))
    · exact (onCur_issues h _).trans (congrArg Host.Outcome.next (State.patset_refused idx.toNat hr))
    · exact completes_of_done (words := 5) (vs := []) ((onCur_issues h _).trans (congrArg Host.Outcome.next (State.patset_taken hc idx.toNat hr)))
    · exact (onCur_issues h _).trans (congrArg Host.Outcome.next (if_pos hv))
    · exact (onCur_issues h _).trans (congrArg Host.Outcome.next (if_pos hr))
  case firing =>
    refine ⟨fun hnone => ?_, fun l e r hcl hl hbefore he => ?_, fun e => State.due_fire, fun e => State.mem_candidates,
      fun l pat frame pc pri hl he => State.exec_handlerCreate_ending hc hl he pat frame pc pri,
      fun l pat frame pc pri slot hl he hslot => ⟨_, State.exec_handlerCreate hc hl he hslot pat frame pc pri, rfl, rfl, rfl, rfl, rfl, rfl, rfl, rfl, rfl⟩,
      fun t pat epoch tid sem ht => State.exec_wakePost hc ht pat epoch sem⟩
    · rw [State.exec_patternEvaluation hcs, State.evalCrew_alone hc hnone]
    · rw [State.exec_patternEvaluation hcs, State.evalCrew_first hc hcl hl hbefore he]

end Sys2Proof.Machine
end

section
/-! SUPPORT. A thread that is created (R195, R296): its argument registers, and the registers that are zero. -/

namespace Sys2Proof.Machine

namespace State

/-! ## Argument registers -/

theorem nget_foldl_nset (args : List Word) (v : Vector Word 8) {k : Nat} (hk : k + args.length ≤ 8) (j : Nat) :
    nget ((args.zipIdx k).foldl (fun v (x, i) => nset v i x) v) j 0 =
      if k ≤ j ∧ j < k + args.length then args.getD (j - k) 0 else nget v j 0 := by
  induction args generalizing v k with
  | nil =>
    rw [if_neg (by simp)]
    rfl
  | cons x r ih =>
    rw [List.length_cons] at hk ⊢
    rw [List.zipIdx_cons, List.foldl_cons, ih _ (by omega), nget_nset _ _ _ _ _ (by omega)]
    obtain hlt | rfl | hgt := Nat.lt_trichotomy j k
    · rw [if_neg (by omega), if_neg (by omega), if_neg (by omega)]
    · rw [if_neg (by omega), if_pos rfl, if_pos (by omega), Nat.sub_self, List.getD_cons_zero]
    · obtain ⟨m, rfl⟩ := Nat.exists_eq_add_of_lt hgt
      rw [show k + m + 1 - k = m + 1 by omega, show k + m + 1 - (k + 1) = m by omega, List.getD_cons_succ]
      by_cases hm : m < r.length
      · rw [if_pos (by omega), if_pos (by omega)]
      · rw [if_neg (by omega), if_neg (by omega), if_neg (by omega)]

theorem vget_withArgs {args : List Word} (hargs : args.length ≤ 8) (i : BitVec 3) :
    vget (withArgs (Vector.replicate 8 0) args) i = if i.toNat < args.length then args.getD i.toNat 0 else 0 := by
  have hget (v : Vector Word 8) : vget v i = nget v i.toNat 0 := (dif_pos i.isLt).symm
  have hzero : nget (Vector.replicate 8 (0 : Word)) i.toNat 0 = 0 := by simp [nget]
  rw [hget, withArgs, nget_foldl_nset args _ (by omega), hzero]
  simp

/-! ## The registers of a thread (R56, R58, R59) -/

/-- Where k, the window and p are zero, a main register reads what its argument register holds, or zero. -/
theorem rd_main_of_zero {t : Thread} (hk : t.k = Vector.replicate 8 0) (hf : t.frames = [Frame.zero]) (i : BitVec 5) :
    t.rd (.main i) = if 8 ≤ i.toNat ∧ i.toNat < 16 then vget t.a (i.extractLsb' 0 3) else 0 := by
  have hgroup : (i.extractLsb' 3 2).toNat = i.toNat / 8 := by
    rw [BitVec.extractLsb'_toNat, Nat.shiftRight_eq_div_pow]
    omega
  have hframe (o : Bool) (j : BitVec 3) : t.frame0.get o j = 0 := by
    cases o <;> simp [Thread.frame0, hf, Frame.get, Frame.zero, vget]
  rw [Thread.rd, hgroup]
  split
  · rename_i h
    have hlt : ¬(8 ≤ i.toNat ∧ i.toNat < 16) := by omega
    rw [if_neg hlt, hk]
    simp [vget]
  · rename_i h
    have ha : 8 ≤ i.toNat ∧ i.toNat < 16 := by omega
    rw [if_pos ha]
  · rename_i h
    have hlt : ¬(8 ≤ i.toNat ∧ i.toNat < 16) := by omega
    rw [hframe, if_neg hlt]
  · have hne : i.toNat / 8 ≠ 1 := by assumption
    have hlt : ¬(8 ≤ i.toNat ∧ i.toNat < 16) := by omega
    rw [hframe, if_neg hlt]

section
variable {s : State} {l : Launch} {c : Crew} {slot tid : Nat} {pc : Word} {base : BitVec 3} {args : List Word}

/-- A thread that is created holds its arguments in a0 upwards, and zero in every other main register. -/
theorem rd_created_main (hargs : args.length ≤ 8) (i : BitVec 5) : (s.created l c slot tid pc base args).rd (.main i) =
    if 8 ≤ i.toNat ∧ i.toNat < 16 ∧ i.toNat - 8 < args.length then args.getD (i.toNat - 8) 0 else 0 := by
  rw [rd_main_of_zero rfl rfl]
  by_cases hi : 8 ≤ i.toNat ∧ i.toNat < 16
  · have hlow : (i.extractLsb' 0 3).toNat = i.toNat - 8 := by
      rw [BitVec.extractLsb'_toNat]
      omega
    rw [if_pos hi]
    refine (vget_withArgs hargs _).trans ?_
    simp only [hlow, hi, true_and]
  · rw [if_neg hi, if_neg (mt (And.imp_right And.left) hi)]

end

/-! ## The operands of a run (R289) -/

theorem length_run (b : Operand) (n : Nat) : (Thread.run b n).length = n := by
  induction n generalizing b with
  | zero => rfl
  | succ n ih => cases b <;> exact congrArg (· + 1) (ih _)

end State

/-- An ALU-class instruction completes with its value in the state that its other effects leave (R65, R239). -/
theorem computesIn_of_aluDone {i : Instr} {s s' : State} {t : Thread} {words : Nat} {sm : Bool} {d : Operand} {v : Word}
    (h : exec i s = .next (s'.aluDone t words sm d v)) : Claims.ComputesIn i s s' t sm d v (t.pc + wd (4 * words)) := by
  rw [State.aluDone, State.done, Thread.alu_pc] at h
  obtain ⟨w, hw, hwrote⟩ := doneAt_alu s' t d v (t.pc + wd (4 * words)) sm [v]
  exact ⟨w, h.trans (congrArg Host.Outcome.next hw), hwrote⟩

end Sys2Proof.Machine
end

section
/-! The statement about SPAWN and SPAWNR, O26 (R195, R296 to R298, R360). -/

namespace Sys2Proof.Machine

open Sys2Proof.Claims (Issues Faults Completes ComputesIn Due put)

namespace State
variable {s : State} {t : Thread}

/-! ## SPAWN (R296, R297) -/

section
variable {words : Nat} {sm pexp tiden : Bool} {argc prio : BitVec 3} {tidreq : BitVec 8} {pc : Word} {d b : Operand}

/-- The thread that SPAWN makes in `slot`: triggered as its parent is, with its parent's values as arguments. -/
def spawned (s : State) (t : Thread) (l : Launch) (c : Crew) (slot tid : Nat) (pc : Word) (base : BitVec 3) (ops : List Operand) : Thread :=
  { s.created l c slot tid pc base (ops.map t.rd) with trigd := t.trigd, psn := argPsn (ops.map t.val) }

/-- A thread that SPAWN makes holds its parent's operands in a0 upwards, and zero in every other main register. -/
theorem rd_spawned_main {l : Launch} {c : Crew} {slot tid : Nat} {base : BitVec 3} {n : Nat} (hn : n ≤ 8) (i : BitVec 5) :
    (s.spawned t l c slot tid pc base (Thread.run b n)).rd (.main i) =
      if 8 ≤ i.toNat ∧ i.toNat < 16 ∧ i.toNat - 8 < n then t.rd ((Thread.run b n).getD (i.toNat - 8) .k0) else 0 := by
  have hlen : ((Thread.run b n).map t.rd).length = n := by rw [List.length_map, length_run]
  have hargs : (s.spawned t l c slot tid pc base (Thread.run b n)).rd (.main i) =
      if 8 ≤ i.toNat ∧ i.toNat < 16 ∧ i.toNat - 8 < n then ((Thread.run b n).map t.rd).getD (i.toNat - 8) 0 else 0 := by
    have hcreated := rd_created_main (s := s) (l := l) (c := c) (slot := slot) (tid := tid) (pc := pc) (base := base) (hlen.trans_le hn) i
    rwa [hlen] at hcreated
  rw [hargs, ← Thread.rd_k0 t, List.getD_map]

theorem spawn_unaligned (hpc : pc.toNat % 4 ≠ 0) :
    s.spawn t words sm argc prio pexp tidreq tiden d pc b = s.fault t (infoVa 3 pc false 0) pc := if_pos (by simpa using hpc)

variable (hpc : pc.toNat % 4 = 0)
include hpc

theorem spawn_waits (ho : t.out ≠ []) : s.spawn t words sm argc prio pexp tidreq tiden d pc b = s.park t .accepted :=
  (if_neg (by simpa using hpc)).trans (if_pos (by simpa using ho))

section
variable (ho : t.out = [])
include ho

theorem spawn_refused (hr : s.noRoom t.ltag t.unit t.svc = true ∨ tiden = true ∧ (s.byTid t.ltag t.unit tidreq.toNat).isSome) :
    s.spawn t words sm argc prio pexp tidreq tiden d pc b = s.aluDone (endRegion t) words sm d (BitVec.allOnes 64) :=
  (if_neg (by simpa using hpc)).trans ((if_neg (by simp [ho])).trans (if_pos (by simpa [endRegion] using hr)))

theorem spawn_creates {l : Launch} {c : Crew} {slot : Nat} (hl : s.launch? t.ltag = some l) (hc : s.crew? t.ltag t.unit = some c)
    (hr : s.noRoom t.ltag t.unit t.svc = false) (ht : ¬(tiden = true ∧ (s.byTid t.ltag t.unit tidreq.toNat).isSome))
    (hslot : s.freeSlot? c.unit = some slot) :
    let tid := if tiden then tidreq.toNat else s.freeTid t.ltag t.unit
    s.spawn t words sm argc prio pexp tidreq tiden d pc b =
      (put s (s.spawned t l c slot tid pc (if pexp then prio else t.base) (Thread.run b argc.toNat))).aluDone (endRegion t) words sm d (wd tid) := by
  refine (if_neg (by simpa using hpc)).trans ((if_neg (by simp [ho])).trans ((if_neg (by simpa [endRegion, hr] using ht)).trans ?_))
  have hl' : s.launch? (endRegion t).ltag = some l := hl
  have hc' : s.crew? (endRegion t).ltag (endRegion t).unit = some c := hc
  simp only [hl', hc', create_eq hslot, List.map_map]
  rfl

end

end

/-! ## SPAWNR (R298) -/

/-- Counting a message of the thread's own launch changes crews alone. -/
theorem countSent_eq (s : State) (t : Thread) : ∃ d, s.countSent t = { s with disp := d } := by
  unfold countSent onCrew
  split
  · exact ⟨_, rfl⟩
  · exact ⟨_, rfl⟩

section
variable {h : Word} {src : Nat} {dsem : BitVec 3} {op : Instr} {pkt : Packet}

theorem handleDev_local (h' : h.getLsbD 31 = true ∨ bits h 32 12 = s.devid) : s.handleDev h = s.devid := by
  unfold handleDev
  split
  · rfl
  · rename_i h31
    exact h'.resolve_left h31

theorem dispatchMsg_local (hdev : s.handleDev h = s.devid) (hp : s.present (bits h 7 7) = true) :
    s.dispatchMsg t h src dsem op pkt = (if handleLtag t h == t.ltag then s.countSent t else s).sched 6 (rankJu t.unit) op := by
  have hsame (u : State) (hu : ∃ d, u = { s with disp := d }) : u.handleDev h = u.devid ∧ u.present (bits h 7 7) = true := by
    obtain ⟨d, rfl⟩ := hu
    exact ⟨hdev, hp⟩
  obtain ⟨hdev', hp'⟩ := hsame (if handleLtag t h == t.ltag then s.countSent t else s) (by
    split
    · exact countSent_eq s t
    · exact ⟨_, rfl⟩)
  unfold dispatchMsg
  simp only [hdev, BEq.rfl, Bool.true_and]
  rw [if_neg (by rw [hdev', bne_self_eq_false]; exact Bool.false_ne_true), if_pos hp']

theorem dispatchMsg_remote (hdev : s.handleDev h ≠ s.devid) :
    s.dispatchMsg t h src dsem op pkt = s.threadReq t pkt (.post ⟨t.ref, dsem, src⟩) := by
  unfold dispatchMsg
  simp [hdev]

end

section
variable {words : Nat} {sm : Bool} {argc prio dsem : BitVec 3} {a b : Operand} {pc : Word}

/-- The bits of a handle below its unit are reserved (R298). -/
theorem handle_low_iff (h : Word) : bits h 0 7 ≠ 0 ↔ h.getLsbD 6 = true ∨ bits h 0 6 ≠ 0 := by
  rw [BitVec.getLsbD, Nat.testBit_eq_decide_div_mod_eq, decide_eq_true_iff]
  simp only [bits]
  omega

theorem handle_bad_iff (h : Word) : (bits h 60 4 != 0 || handleBad h || bits h 0 6 != 0) = true ↔
    bits h 60 4 ≠ 0 ∨ bits h 14 17 ≠ 0 ∨ bits h 0 7 ≠ 0 := by
  simp only [handle_low_iff, handleBad, Bool.or_eq_true, bne_iff_ne]
  tauto

/-- What SPAWNR asks of the JU of a unit of this device (R195). -/
def spawnReq (s : State) (t : Thread) (argc prio dsem : BitVec 3) (h pc : Word) (b : Operand) : SpawnReq :=
  { ltag := handleLtag t h, unit := bits h 7 7, pc := pc, args := (Thread.run b argc.toNat).map t.rd, prio := prio.toNat,
    senderDev := s.devid, senderLtag := t.ltag, senderUnit := t.unit, reply := some ⟨t.ref, dsem, 5⟩, replyPkt := none }

/-- The SPW that SPAWNR sends to another device (R207). -/
def spawnPkt (s : State) (t : Thread) (argc prio : BitVec 3) (h pc : Word) (b : Operand) : Packet :=
  { s.pktOf t 0x08 0 (bits h 32 12) with
    aux := bits h 7 7 * 2 ^ 9 + prio.toNat * 2 ^ 6 + argc.toNat * 2 ^ 3,
    payload := wd (handleLtag t h * 2 ^ 48) :: pc :: (Thread.run b argc.toNat).map t.rd }

theorem spawnr_faults (hbad : bits (t.rd a) 60 4 ≠ 0 ∨ bits (t.rd a) 14 17 ≠ 0 ∨ bits (t.rd a) 0 7 ≠ 0) :
    s.spawnr t words sm argc prio dsem a pc b = s.fault t (infoVa 3 (t.rd a) false 0) (t.rd a) := if_pos ((handle_bad_iff _).2 hbad)

section
variable (h₄ : bits (t.rd a) 60 4 = 0) (h₁₇ : bits (t.rd a) 14 17 = 0) (h₇ : bits (t.rd a) 0 7 = 0) (ho : t.out = [])
include h₄ h₁₇ h₇ ho

theorem spawnr_sends : s.spawnr t words sm argc prio dsem a pc b =
    (s.dispatchMsg t (t.rd a) 5 dsem (.spawnrAccept (s.spawnReq t argc prio dsem (t.rd a) pc b))
      { s.pktOf t 0x08 0 (s.handleDev (t.rd a)) with
        aux := bits (t.rd a) 7 7 * 2 ^ 9 + prio.toNat * 2 ^ 6 + argc.toNat * 2 ^ 3,
        payload := wd (handleLtag t (t.rd a) * 2 ^ 48) :: pc :: (Thread.run b argc.toNat).map t.rd }).done (endRegion t) words sm [] := by
  have hgood : ¬(bits (t.rd a) 60 4 != 0 || handleBad (t.rd a) || bits (t.rd a) 0 6 != 0) = true := by
    simpa [h₄, h₁₇, h₇] using mt (handle_bad_iff (t.rd a)).1
  exact (if_neg hgood).trans (if_neg (by simp [ho]))

theorem spawnr_local (hdev : (t.rd a).getLsbD 31 = true ∨ bits (t.rd a) 32 12 = s.devid) (hp : s.present (bits (t.rd a) 7 7) = true) :
    s.spawnr t words sm argc prio dsem a pc b =
      ((if handleLtag t (t.rd a) == t.ltag then s.countSent t else s).sched 6 (rankJu t.unit)
        (.spawnrAccept (s.spawnReq t argc prio dsem (t.rd a) pc b))).done (endRegion t) words sm [] := by
  rw [spawnr_sends h₄ h₁₇ h₇ ho, dispatchMsg_local (handleDev_local hdev) hp]

theorem spawnr_remote (hdev : (t.rd a).getLsbD 31 = false) (hdev' : bits (t.rd a) 32 12 ≠ s.devid) :
    s.spawnr t words sm argc prio dsem a pc b =
      (s.threadReq t (s.spawnPkt t argc prio (t.rd a) pc b) (.post ⟨t.ref, dsem, 5⟩)).done (endRegion t) words sm [] := by
  have hto : s.handleDev (t.rd a) = bits (t.rd a) 32 12 := if_neg (by rw [hdev]; exact Bool.false_ne_true)
  rw [spawnr_sends h₄ h₁₇ h₇ ho, hto, dispatchMsg_remote (hto ▸ hdev')]
  rfl

end
end

/-! ## SPAWNR_ACCEPT (R195) -/

/-- The JU of a unit takes a request in this cycle. -/
def takenJu (s : State) (u : Nat) : State := { s with busy := juKey u :: s.busy }

/-- The thread with the poisoned arguments of its request poisoned (R408). -/
def argsPoisoned (r : SpawnReq) (t : Thread) : Thread :=
  { t with psn := ((List.range r.args.length).filter r.psn.testBit).foldl (fun m i => mset m (8 + i) ⟨0x041, 0⟩) t.psn }

/-- The JU refuses a request where the crew is closed, the PC is not aligned or not executable in the launch's ranges, or there is no room. -/
def refusesSpawn (s : State) (r : SpawnReq) (l : Launch) (c : Crew) : Bool :=
  c.closed || r.pc.toNat % 4 != 0 || !(l.ranges.any fun e => e.x && e.base ≤ r.pc.toNat && r.pc.toNat < e.limit) || s.noRoom r.ltag r.unit l.svc

section
variable {r : SpawnReq} {l : Launch} {c : Crew} {to_ : PostTo}

theorem refusesSpawn_iff : s.refusesSpawn r l c = true ↔ c.closed = true ∨ r.pc.toNat % 4 ≠ 0 ∨
    (l.ranges.any fun e => e.x && e.base ≤ r.pc.toNat && r.pc.toNat < e.limit) = false ∨ s.noRoom r.ltag r.unit l.svc = true := by
  rw [refusesSpawn]
  simp only [Bool.or_eq_true, bne_iff_ne, Bool.not_eq_true', or_assoc]

variable (hb : s.busy.contains (juKey r.unit) = false) (hc : s.crew? r.ltag r.unit = some c) (hl : s.launch? r.ltag = some l)
  (hreply : r.reply = some to_) (hpkt : r.replyPkt = none) (hsender : r.senderLtag ≠ r.ltag)
include hb hc hl hreply hpkt hsender

theorem exec_spawnrAccept : exec (.spawnrAccept r) s = .next (if s.refusesSpawn r l c then (s.takenJu r.unit).postLater 2 to_ 1 2
    else ((s.takenJu r.unit).create l c (s.freeTid r.ltag r.unit) r.pc (BitVec.ofNat 3 r.prio) r.args (argsPoisoned r)).postLater 2 to_ 1 0) := by
  have hc' : (s.takenJu r.unit).crew? r.ltag r.unit = some c := hc
  have hl' : (s.takenJu r.unit).launch? r.ltag = some l := hl
  have hown : (r.senderDev == (s.takenJu r.unit).devid && r.senderLtag == r.ltag) = false := by simp [hsender]
  refine congrArg Host.Outcome.next ((if_neg (by rw [hb]; exact Bool.false_ne_true)).trans ?_)
  change (s.takenJu r.unit).spawnDecide r = _
  unfold spawnDecide
  simp only [hpkt, decidedBefore, hown, countDecided, Bool.not_false, if_true, hc', hl', hreply, decide_]
  rfl

theorem exec_spawnrAccept_refused (hr : s.refusesSpawn r l c = true) :
    exec (.spawnrAccept r) s = .next ((s.takenJu r.unit).postLater 2 to_ 1 2) := by
  rw [exec_spawnrAccept hb hc hl hreply hpkt hsender, if_pos hr]

theorem exec_spawnrAccept_creates (hr : ¬s.refusesSpawn r l c = true) {slot : Nat} (hslot : s.freeSlot? c.unit = some slot) :
    exec (.spawnrAccept r) s = .next (((s.takenJu r.unit).setThread (argsPoisoned r
      ((s.takenJu r.unit).created l c slot (s.freeTid r.ltag r.unit) r.pc (BitVec.ofNat 3 r.prio) r.args))).postLater 2 to_ 1 0) := by
  have hslot' : (s.takenJu r.unit).freeSlot? c.unit = some slot := hslot
  rw [exec_spawnrAccept hb hc hl hreply hpkt hsender, if_neg hr, create_eq hslot']

end

end State

/-- Settles O26: SPAWN and SPAWNR by what they check, and the JU's decision by what refuses a request. -/
theorem spawnsCreateThreads : Obligations.SpawnsCreateThreads := by
  refine ⟨fun s t sm pexp tiden argc prio tidreq pc d a b l c h hl hc hu => ?spawn, fun s t sm argc prio dsem pc a b c h => ?spawnr⟩
  case spawn =>
    intro e taken form hargc
    have hform {i : Instr} {words : Nat} {pc : Word} (hi : exec i s = .next (s.spawn t words sm argc prio pexp tidreq tiden d pc b)) :
        form i pc (t.pc + wd (4 * words)) := by
      refine ⟨fun hpc => hi.trans (congrArg Host.Outcome.next (State.spawn_unaligned hpc)),
        fun hpc ho => hi.trans (congrArg Host.Outcome.next (State.spawn_waits hpc ho)),
        fun hpc ho hr => computesIn_of_aluDone (t := e) (hi.trans (congrArg Host.Outcome.next (State.spawn_refused hpc ho hr))),
        fun slot hpc ho hr ht hslot => ?_⟩
      have hcreates := State.spawn_creates (words := words) (sm := sm) (pexp := pexp) (argc := argc) (prio := prio) (d := d) (b := b) hpc ho hl hc hr
        ht (hu ▸ hslot)
      refine ⟨_, computesIn_of_aluDone (t := e) (hi.trans (congrArg Host.Outcome.next hcreates)), hu, rfl, rfl, rfl, rfl, rfl, rfl, rfl, rfl, rfl, rfl,
        rfl, rfl, rfl, fun i => Vector.getElem_replicate .., fun i => Vector.getElem_replicate .., fun r => ?_⟩
      cases r with
      | main i => exact State.rd_spawned_main (by omega) i
      | opf i => exact Vector.getElem_replicate ..
      | lat => rfl
    exact ⟨hform (words := 3) (onCur_issues h _), hform (words := 5) (onCur_issues h _)⟩
  case spawnr =>
    intro hd ltag form
    have hform {i : Instr} {words : Nat} {pc : Word} (hi : exec i s = .next (s.spawnr t words sm argc prio dsem a pc b)) :
        form i pc (t.pc + wd (4 * words)) :=
      ⟨fun hbad => hi.trans (congrArg Host.Outcome.next (State.spawnr_faults hbad)),
        fun h₄ h₁₇ h₇ ho hdev hp => completes_of_done (t := State.endRegion t) (vs := [])
          (hi.trans (congrArg Host.Outcome.next (State.spawnr_local h₄ h₁₇ h₇ ho hdev hp))),
        fun h₄ h₁₇ h₇ ho hdev hdev' => completes_of_done (t := State.endRegion t) (vs := [])
          (hi.trans (congrArg Host.Outcome.next (State.spawnr_remote h₄ h₁₇ h₇ ho hdev hdev')))⟩
    refine ⟨hform (words := 3) (onCur_issues h _), hform (words := 5) (onCur_issues h _),
      fun r l cr to_ slot hb hc hl htag hunit hreply hpkt hsender hslot => ?_⟩
    intro allowed refused
    by_cases hr : s.refusesSpawn r l cr = true
    · exact ⟨_, State.exec_spawnrAccept_refused hb hc hl hreply hpkt hsender hr, fun _ => ⟨rfl, State.due_sched ..⟩,
        fun hn => absurd (State.refusesSpawn_iff.1 hr) hn⟩
    · exact ⟨_, State.exec_spawnrAccept_creates hb hc hl hreply hpkt hsender hr (hunit ▸ hslot),
        fun hn => absurd (State.refusesSpawn_iff.2 hn) hr,
        fun _ => ⟨State.due_sched .., _, rfl, hunit, rfl, rfl, rfl, rfl, rfl, rfl⟩⟩

end Sys2Proof.Machine
end

section
/-! SUPPORT. What the router does when a port looks for work (R218, R364, R418): heads of queues are marked, and events fall due; and a link that
was set. -/

namespace Sys2Proof.Machine

/-- A queued packet without the times at which it became a head. -/
def Queued.plain (e : Queued) : Queued := { e with headAt := none, frontAt := none }

/-- Two that differ in those times at most have the same port, VC, packet and input. -/
theorem Queued.fields_of_plain {x e : Queued} (h : x.plain = e.plain) : x.port = e.port ∧ x.vc = e.vc ∧ x.pkt = e.pkt ∧ x.input = e.input := by
  obtain ⟨hport, hvc, hpkt, hinput, -⟩ := Queued.mk.inj h
  exact ⟨hport, hvc, hpkt, hinput⟩

namespace State

theorem map_putQueued (e : Queued) (head front : Option Nat) (l : List Queued) :
    (putQueued e { e with headAt := head, frontAt := front } l).map Queued.plain = l.map Queued.plain := by
  induction l with
  | nil => rfl
  | cons y r ih =>
    rw [putQueued]
    split
    · rename_i hy
      rw [eq_of_beq hy]
      rfl
    · rw [List.map_cons, List.map_cons, ih]

/-- `u` is `s` with some queued packets marked as heads, and what that makes due. -/
structure Marked (s u : State) : Prop where
  eq : ∃ a n qs, u = { s with agenda := a, seq := n, fab := { s.fab with queues := qs } }
  queues : u.fab.queues.map Queued.plain = s.fab.queues.map Queued.plain

namespace Marked
variable {s t u : State}

theorem refl (s : State) : Marked s s := ⟨⟨_, _, _, rfl⟩, rfl⟩

theorem trans (h : Marked s t) (h' : Marked t u) : Marked s u := by
  obtain ⟨⟨a, n, qs, rfl⟩, hq⟩ := h
  obtain ⟨⟨a', n', qs', rfl⟩, hq'⟩ := h'
  exact ⟨⟨a', n', qs', rfl⟩, hq'.trans hq⟩

theorem foldl {α : Type} {f : State → α → State} (hf : ∀ s a, Marked s (f s a)) (l : List α) (s : State) : Marked s (l.foldl f s) :=
  List.foldlRecOn l f (refl s) fun _ h a _ => h.trans (hf _ a)

theorem sched (delay rank : Nat) (op : Instr) : Marked s (s.sched delay rank op) := ⟨⟨_, _, _, rfl⟩, rfl⟩

theorem putQueued (e : Queued) (head front : Option Nat) : Marked s
    { s with fab := { s.fab with queues := State.putQueued e { e with headAt := head, frontAt := front } s.fab.queues } } :=
  ⟨⟨_, _, _, rfl⟩, map_putQueued ..⟩

theorem markHead (q vc : Nat) : Marked s (s.markHead q vc) := by
  unfold State.markHead
  split
  · rename_i e _
    have marked := putQueued (s := s) e (some s.now) e.frontAt
    split
    · exact refl s
    · dsimp only
      split
      · exact marked.trans (sched ..)
      · exact marked
  · exact refl s

theorem markFront (i vc : Nat) : Marked s (s.markFront i vc) := by
  unfold State.markFront
  split
  · rename_i e _ _
    have marked := putQueued (s := s) e e.headAt (some s.now)
    split
    · exact refl s
    · exact marked.trans (sched ..)
  · exact refl s

theorem markAll (q : Nat) : Marked s (s.markAll q) :=
  (foldl (fun _ _ => markHead ..) _ _).trans (foldl (fun _ _ => markFront ..) _ _)

theorem kick (q : Nat) : Marked s (s.kick q) := by
  unfold State.kick
  dsimp only
  split
  · exact markAll q
  · exact (markAll q).trans (sched ..)

theorem kickUp (q : Nat) : Marked s (s.kickUp q) := by
  unfold State.kickUp
  split
  · exact kick q
  · exact markAll q

theorem link (h : Marked s u) (q : Nat) : u.link q = s.link q := by
  obtain ⟨⟨a, n, qs, rfl⟩, -⟩ := h
  rfl

theorem pkg (h : Marked s u) : u.pkg = s.pkg := by
  obtain ⟨⟨a, n, qs, rfl⟩, -⟩ := h
  rfl

theorem wire (h : Marked s u) : u.fab.wire = s.fab.wire := by
  obtain ⟨⟨a, n, qs, rfl⟩, -⟩ := h
  rfl

theorem lanes (h : Marked s u) : u.fab.lanes = s.fab.lanes := by
  obtain ⟨⟨a, n, qs, rfl⟩, -⟩ := h
  rfl

theorem length (h : Marked s u) : u.fab.queues.length = s.fab.queues.length := by
  simpa only [List.length_map] using congrArg List.length h.queues

/-- A packet that was queued is queued, but for its times. -/
theorem queued (h : Marked s u) {e : Queued} (he : e ∈ s.fab.queues) : ∃ x ∈ u.fab.queues, x.plain = e.plain :=
  List.mem_map.1 (h.queues ▸ List.mem_map_of_mem he)

end Marked

variable {s : State}

/-- A packet that joins a queue stands there. -/
theorem push_queued (e : Queued) : ∃ x ∈ (s.push e).fab.queues, x.plain = e.plain :=
  (Marked.kick e.port).queued (List.mem_append_right _ List.mem_cons_self)

/-- A port with a packet in a queue is to transmit. -/
theorem kick_transmits {q : Nat} {e : Queued} (he : e ∈ s.fab.queues) (hq : e.port = q) :
    ∃ x ∈ (s.kick q).agenda, x.ev.op = .packetTransmit q := by
  obtain ⟨y, hy, hplain⟩ := (Marked.markAll q).queued he
  have hport : y.port = e.port := (Queued.fields_of_plain hplain).1
  have hmore : ((s.markAll q).fab.queues.any fun e => e.port == q) = true := List.any_eq_true.2 ⟨y, hy, by simp [hport, hq]⟩
  unfold kick
  dsimp only
  rw [hmore, Bool.true_or, Bool.not_true, Bool.false_or]
  split
  · rename_i hdue
    obtain ⟨x, hx, hop⟩ := List.any_eq_true.1 hdue
    exact ⟨x, hx, eq_of_beq hop⟩
  · exact ⟨_, (mem_agenda_sched _).2 (.inl rfl), rfl⟩

theorem link_setLink_self (s : State) {q : Nat} (x : Link) (hq : q < 16) : (s.setLink q x).link q = x := by
  simp only [link, setLink, nget_nset _ _ _ _ _ hq, if_true]

end State

end Sys2Proof.Machine
end

section
/-! The statement about the router, O47 (R24, R200 to R207, R218, R364, R404, R418, R419). -/

namespace Sys2Proof.Machine

namespace State
variable {s : State}

/-! ## What has been through the router (R200, R206, R419) -/

section
variable {input : Nat} {p : Packet}

theorem exec_packetRoute_unknown (hk : kindKnown p = false) : exec (.packetRoute input p) s = .next (s.discard p) :=
  congrArg Host.Outcome.next (if_pos (by simp [hk]))

theorem exec_packetRoute_enters (hk : kindKnown p = true) (hi : input < 16) (ha : p.arr = 0) : exec (.packetRoute input p) s =
    .next (s.fresh.sched 8 (rankPort input) (.packetRoute input { p with arr := s.nextId + 1 })) := by
  refine congrArg Host.Outcome.next ?_
  rw [if_neg (by simp [hk]), if_pos (by simp [hi, ha])]

section
variable (hk : kindKnown p = true) (ht : 16 ≤ input ∨ p.arr ≠ 0)
include hk ht

theorem exec_packetRoute_unfit (hd : p.dst = s.devid) (he : kindEvent p = none) : exec (.packetRoute input p) s = .next (s.unfit p) := by
  refine congrArg Host.Outcome.next ?_
  rw [if_neg (by simp [hk]), if_neg (by simp; omega), if_neg (by simp [hd]), he]

theorem exec_packetRoute_delivers {i : Instr} (hd : p.dst = s.devid) (he : kindEvent p = some i) :
    exec (.packetRoute input p) s = .next (s.deliver input i p) := by
  refine congrArg Host.Outcome.next ?_
  rw [if_neg (by simp [hk]), if_neg (by simp; omega), if_neg (by simp [hd]), he]

theorem exec_packetRoute_forwards (hd : p.dst ≠ s.devid) : exec (.packetRoute input p) s = .next (s.forward input none p) := by
  refine congrArg Host.Outcome.next ?_
  rw [if_neg (by simp [hk]), if_neg (by simp; omega), if_pos (by simp [hd])]

end
end

/-! ### Packets for this device (R206, R207) -/

section
variable {input : Nat} {p : Packet}

/-- A residency or management packet that is short or came poisoned has no event. -/
theorem kindEvent_misfit (hk : p.kind = 0x20 ∨ p.kind = 0x30) (hbad : p.payload.length < 3 ∨ p.poisoned ≠ 0) : kindEvent p = none := by
  have hcond : (decide (p.payload.length < 3) || p.poisoned != 0) = true := by simpa using hbad
  rcases hk with hk | hk
  all_goals
    rw [kindEvent, hk, hcond]
    rfl

theorem unfit_management (hk : p.kind = 0x30) : s.unfit p = s.discard p := if_pos (by simp [hk])

/-- A COLLAPSE that does not fit is answered MOVED, with status FAULT. -/
theorem unfit_collapse (hk : p.kind = 0x20) (ho : p.resOp = 1) :
    s.unfit p = s.fromRouter { s.resPkt p.src 5 s.devid p.resSize p.resVa p.resPa with tag := p.tag, status := 8 } := by
  have hreply : p.resReply = 5 := by
    rw [Packet.resReply, ho]
    rfl
  rw [unfit, if_neg (by simp [hk, Packet.resAnswer, ho]), resRefuse, hreply]

/-- A packet is delivered as its event, which knows by which input it came. -/
theorem deliver_due (s : State) (input : Nat) (i : Instr) (p : Packet) : ∃ e ∈ (s.deliver input i p).agenda, s.now ≤ e.due ∧ e.ev.op = i ∧
    e.ev.pkt = some { p with input := input, arr := s.nextId } :=
  ⟨_, mem_insertSched.2 (.inl rfl), Nat.le_add_right .., rfl, rfl⟩

/-! ### Packets for another device (R203, R204, R404) -/

theorem forward_unrouted (hr : s.routePort p.flow p.dst = none) : s.forward input none p = s.unroutable p := by rw [forward, hr]

theorem unroutable_read (hk : p.kind = 0x01) : s.unroutable p = s.unreach p 0x10 := by
  rw [unroutable, hk]
  rfl

theorem unroutable_request (hk : p.kind = 0x20) (ha : p.resAnswer = false) : s.unroutable p = s.resRefuse p 7 := by
  rw [unroutable, hk]
  exact if_neg (ne_true_of_eq_false ha)

section
variable {q : Nat} (hr : s.routePort p.flow p.dst = some q) (hv : (s.link q).ver20 = true)
include hr hv

theorem forward_routed : s.forward input none p = s.enqueue input q none p := by
  rw [forward, hr]
  exact if_pos hv

/-- A packet waits while its flow's earlier ones may still overtake it (R203). -/
theorem forward_waits (h : s.remapped p.flow q = true ∨ s.heldBefore input p = true) :
    s.forward input none p = s.sched 1 1 (.packetRoute input p) := by
  rw [forward_routed hr hv, enqueue, if_pos (by simpa using h)]

/-- A packet that nothing holds back, and that finds no partner, joins the end of its queue. -/
theorem forward_pushes (hl : s.fab.lanes = []) (hm : s.remapped p.flow q = false) (hb : s.heldBefore input p = false)
    (hn : p.vc = 0 → s.partner q p = none) : s.forward input none p = (s.takePath p.flow q (s.ackedBy p.flow q)).push
      { port := q, vc := p.vc, pkt := p, input := input, headAt := none, frontAt := none, crumb := none } := by
  have hlane : (s.takePath p.flow q (s.ackedBy p.flow q)).laneHas p.flow = false := by
    show s.fab.lanes.any _ = false
    rw [hl]
    rfl
  have hpartner : (if ((none : Option Nat).isNone && decide (p.vc = 0)) = true
      then (s.takePath p.flow q (s.ackedBy p.flow q)).partner q p else none) = none := by
    split
    · rename_i hvc
      exact hn (by simpa using hvc)
    · rfl
  rw [forward_routed hr hv, enqueue, if_neg (by simp [hm, hb])]
  dsimp only
  rw [if_neg (ne_true_of_eq_false hlane), hpartner]

end
end

/-! ## Transmission (R24, R418) -/

section
variable {q vc : Nat} {e : Queued}

theorem headOf_some (h : s.headOf q vc = some e) : e ∈ s.fab.queues ∧ e.port = q ∧ e.vc = vc :=
  ⟨List.mem_of_find?_eq_some h, by simpa using List.find?_some h⟩

theorem laneHas_none (hl : s.fab.lanes = []) (f : Flow) : s.laneHas f = false := by rw [laneHas, hl, List.any_nil]

/-- A packet of another VC than requests is not held at the head of its queue. -/
theorem heldHead_other (s : State) (h : e.vc ≠ 0) : s.heldHead e = false := by simp [heldHead, h]

/-- What leaves by a port stands on its wire, and its flits join what the port still has to pay. -/
theorem putWire_sent (s : State) (p : Packet) (hq : q < 16) :
    (s.putWire q p).fab.wire = (q, { p with input := 16, arr := 0 }) :: s.fab.wire ∧
    ((s.putWire q p).link q).debt = s.debtOf q + 243 * p.flits ∧ ((s.putWire q p).link q).paidAt = s.now := by
  have hput : (s.putWire q p).fab.wire = (q, { p with input := 16, arr := 0 }) :: s.fab.wire ∧ (s.putWire q p).fab.links =
      (s.setLink q { s.link q with debt := s.debtOf q + 243 * p.flits, paidAt := s.now }).fab.links := by
    unfold putWire
    dsimp only
    split
    · exact ⟨rfl, rfl⟩
    · exact ⟨rfl, rfl⟩
  have hlink : (s.putWire q p).link q = { s.link q with debt := s.debtOf q + 243 * p.flits, paidAt := s.now } :=
    (congrArg (fun l => nget l q Link.reset) hput.2).trans (s.link_setLink_self _ hq)
  exact ⟨hput.1, by rw [hlink], by rw [hlink]⟩

/-- The head of a queue leaves as it is by a link of version 2.0, where it is no merged request. -/
theorem sendHead_plain (hh : s.headOf q vc = some e) (hv : (s.link q).ver20 = true) (hc : e.crumb = none) :
    s.sendHead q vc = { s with fab := { s.fab with queues := s.fab.queues.erase e } }.putWire q e.pkt := by
  obtain ⟨-, hport, -⟩ := headOf_some hh
  rw [sendHead, hh]
  dsimp only
  rw [sendOut, hport, if_neg (by show ¬(!(s.link q).ver20) = true; simp [hv]), hc]

section
variable (hu : (s.link q).up = true) (hh : (s.link q).holding = false) (hw : s.sendWait q = 0) (hl : s.fab.lanes = [])
include hu hh hw hl

/-- A port that can send, with no packet in a lane, sends the escape VC first, and then replies (R418). -/
theorem transmit_sends (hvc : vc = 3 ∨ vc = 1 ∧ s.headOf q 3 = none) (he : s.headOf q vc = some e) : s.transmit q = s.sendHead q vc := by
  have hheld : s.heldHead e = false := s.heldHead_other (by have := (headOf_some he).2.2; omega)
  have hnone : (s.fab.lanes.find? fun l => l.q.port == q) = none := by rw [hl, List.find?_nil]
  unfold transmit
  dsimp only
  rw [if_neg (by simp [hu, hh, hw]), hnone]
  rcases hvc with rfl | ⟨rfl, h3⟩
  · simp only [he, hheld, laneHas_none hl]
    exact if_pos rfl
  · simp only [h3, he, hheld, laneHas_none hl]
    rw [if_neg Bool.false_ne_true]
    exact if_pos rfl

end

theorem transmit_down (hu : (s.link q).up = false) : s.transmit q = s := by
  rw [transmit, hu]
  rfl

theorem exec_packetTransmit_idle (ht : s.transmit q = s) : exec (.packetTransmit q) s = .next s := by
  refine congrArg Host.Outcome.next ?_
  rw [ht]
  exact if_pos rfl

/-- `e` has left by port `q`, which has its flits to pay (R24). -/
def SentBy (s u : State) (q : Nat) (e : Queued) : Prop := u.fab.wire = (q, { e.pkt with input := 16, arr := 0 }) :: s.fab.wire ∧
  (u.link q).debt = s.debtOf q + 243 * e.pkt.flits ∧ (u.link q).paidAt = s.now

/-- A port that sends the head of a queue goes on, and looks for more. -/
theorem exec_packetTransmit_sends (hq : q < 16) (ht : s.transmit q = s.sendHead q vc) (hh : s.headOf q vc = some e) (hv : (s.link q).ver20 = true)
    (hc : e.crumb = none) : ∃ u, exec (.packetTransmit q) s = .next u ∧ s.SentBy u q e := by
  obtain ⟨hwire, hdebt, hpaid⟩ := putWire_sent { s with fab := { s.fab with queues := s.fab.queues.erase e } } e.pkt hq
  rw [sendHead_plain hh hv hc] at ht
  have hmarked := Marked.kickUp (s := s.transmit q) q
  refine ⟨_, congrArg Host.Outcome.next (if_neg (c := (s.transmit q).fab.wire.length = s.fab.wire.length) ?_), ?_⟩
  · rw [ht, hwire]
    exact Nat.succ_ne_self _
  · rw [SentBy, hmarked.wire, hmarked.link, ht]
    exact ⟨hwire, hdebt, hpaid⟩

end

/-! ## Hold windows (R364) -/

section
variable {q vc : Nat} {e : Queued} (hh : s.headOf q vc = some e)
include hh

theorem exec_holdExpiry_held {h : Nat} (ha : e.headAt = some h) (hheld : s.heldHead e = true) :
    exec (.holdExpiry q vc) s = .next (s.sched (h + s.fab.hold - s.now) rankLate (.holdExpiry q vc)) := by
  refine congrArg Host.Outcome.next ?_
  simp only [hh, hheld, ha, if_true]

/-- A head whose window has ended is to be transmitted. -/
theorem exec_holdExpiry_ended (hheld : s.heldHead e = false) (hu : (s.link q).up = true) (hl : (s.link q).holding = false) :
    exec (.holdExpiry q vc) s = .next (s.kick q) := by
  have hkick : s.kickUp q = s.kick q := if_pos (by simp [hu, hl])
  refine congrArg Host.Outcome.next ?_
  simp only [hh, hheld, hkick, Bool.false_eq_true, if_false]

end

/-! ## The escape lane (R218, R408) -/

/-- Stores one after another change memory and its poison. -/
theorem foldl_store_eq {α : Type} {f : State → α → State} (hf : ∀ u x, ∃ a n v, f u x = u.store a n v) (l : List α) (s : State) :
    ∃ m d, l.foldl f s = { s with mem := m, psn := d } := by
  refine List.foldlRecOn (motive := fun u : State => ∃ m d, u = { s with mem := m, psn := d }) _ _ ⟨_, _, rfl⟩ fun u hu x _ => ?_
  obtain ⟨m, d, rfl⟩ := hu
  obtain ⟨a, n, v, hstores⟩ := hf { s with mem := m, psn := d } x
  obtain ⟨d', hstore⟩ := State.store_eq { s with mem := m, psn := d } a n v
  exact ⟨_, _, hstores.trans hstore⟩

/-- A queued packet as it lies in the lane of its port's stack. -/
def laneEntry (e : Queued) (off : Nat) : Lane :=
  { stack := e.port / 4, off := off, len := roundUp (32 + 8 * e.pkt.payload.length) 64, q := e.plain }

/-- The stores of a packet into the lane: its header twice, then its payload. -/
def laneStores (s : State) (e : Queued) (off : Nat) : State :=
  e.pkt.payload.zipIdx.foldl (fun s (w, i) => s.store (s.laneAddr (e.port / 4) (off + 32 + 8 * i)) 8
      ⟨w, if e.pkt.poisoned.testBit i then some ⟨0x041, 0⟩ else none⟩)
    ([e.pkt.header0, e.pkt.header1, e.pkt.header0, e.pkt.header1].zipIdx.foldl (fun s (w, i) =>
      s.store (s.laneAddr (e.port / 4) (off + 8 * i)) 8 ⟨w, none⟩) s)

theorem laneStores_eq (s : State) (e : Queued) (off : Nat) : ∃ m d, s.laneStores e off = { s with mem := m, psn := d } := by
  unfold laneStores
  generalize hu : List.foldl _ s _ = u
  obtain ⟨m, d, rfl⟩ := hu ▸ foldl_store_eq (fun _ _ => ⟨_, _, _, rfl⟩) _ s
  exact foldl_store_eq (s := { s with mem := m, psn := d }) (fun _ _ => ⟨_, _, _, rfl⟩) _

/-- A packet that has room in the lane of its port's stack goes there, and only memory changes besides. -/
theorem toLane_placed {e : Queued} {off : Nat} (hp : s.lanePlace (e.port / 4) (roundUp (32 + 8 * e.pkt.payload.length) 64) = some off) :
    ∃ m d, s.toLane e = ({ s with mem := m, psn := d, fab := { s.fab with lanes := s.fab.lanes ++ [laneEntry e off] } }, true) := by
  have hlane : s.toLane e =
      ({ s.laneStores e off with fab := { (s.laneStores e off).fab with lanes := (s.laneStores e off).fab.lanes ++ [laneEntry e off] } }, true) := by
    unfold toLane
    dsimp only
    rw [hp]
    rfl
  obtain ⟨m, d, hstores⟩ := s.laneStores_eq e off
  rw [hstores] at hlane
  exact ⟨m, d, hlane⟩

section
variable {input vc : Nat} {e : Queued} {r : List Queued} {h : Nat} (hvc : vc ≠ 3) (hi : s.inputOf input vc = e :: r) (hf : e.frontAt = some h)
include hvc hi hf

theorem exec_deadlockTimer_early (ht : s.now < h + us s.fab.dltimer) :
    exec (.deadlockTimer input vc) s = .next (s.sched (h + us s.fab.dltimer - s.now) rankLate (.deadlockTimer input vc)) := by
  refine congrArg Host.Outcome.next ?_
  simp only [hi, hf, hvc, ht, if_true, if_false]

/-- A head that has stood for DLTIMER, and has no packet of its flow behind it, goes into the lane. -/
theorem exec_deadlockTimer_moves {u : State} (ht : h + us s.fab.dltimer ≤ s.now)
    (ho : (s.inputOf input vc).filter (fun x => x.pkt.flow == e.pkt.flow) = [e]) (hu : s.toLane e = (u, true)) :
    exec (.deadlockTimer input vc) s = .next ({ u with fab := { u.fab with queues := u.fab.queues.erase e } }.kickUp e.port) := by
  rw [hi] at ho
  refine congrArg Host.Outcome.next ?_
  simp only [hi, hf, hvc, Nat.not_lt.2 ht, if_false, ho, List.foldl_cons, List.foldl_nil, hu, if_true, Bool.not_true, Bool.false_eq_true]

end

end State

/-- Settles O47: a packet by its KIND, its destination and its route, a port by what heads its queues, and the two timers by how long a head has
stood. -/
theorem routerMoves : Obligations.RouterMoves := by
  intro s input p q hq i sent can here
  refine ⟨fun hk => ⟨_, State.exec_packetRoute_unknown hk, rfl, rfl⟩,
    fun hk hi ha => ⟨_, State.exec_packetRoute_enters hk hi ha, rfl, State.due_sched ..⟩, fun ⟨hk, ht⟩ hd h30 hbad => ?management,
    fun ⟨hk, ht⟩ hd h20 hbad ho => ?collapse,
    fun k ⟨hk, ht⟩ he hd => ⟨_, State.exec_packetRoute_delivers hk ht hd he, rfl, s.deliver_due input k p⟩,
    fun ⟨hk, ht⟩ hd hr hv hw => (State.exec_packetRoute_forwards hk ht hd).trans (congrArg Host.Outcome.next (State.forward_waits hr hv hw)),
    fun ⟨hk, ht⟩ hd hr hv hl hm hb hn => ?queued, fun ⟨hk, ht⟩ h1 hd hr => ?read, fun ⟨hk, ht⟩ h20 ha hd hr => ?residency,
    fun e ⟨hu, hh, hw, hl, hv⟩ h3 hc => State.exec_packetTransmit_sends hq (State.transmit_sends hu hh hw hl (.inl rfl) h3) h3 hv hc,
    fun e ⟨hu, hh, hw, hl, hv⟩ h3 h1 hc => State.exec_packetTransmit_sends hq (State.transmit_sends hu hh hw hl (.inr ⟨rfl, h3⟩) h1) h1 hv hc,
    fun hu => State.exec_packetTransmit_idle (State.transmit_down hu),
    fun vc e h hh ha hheld => State.exec_holdExpiry_held hh ha hheld, fun vc e hh hheld hu hl => ?ended,
    fun vc e r h hvc hi hf ht => State.exec_deadlockTimer_early hvc hi hf ht, fun vc e r h off hvc hi hf ht ho hp => ?lane⟩
  case management =>
    have hexec := State.exec_packetRoute_unfit hk ht hd (State.kindEvent_misfit (.inr h30) hbad)
    rw [State.unfit_management h30] at hexec
    exact ⟨_, hexec, rfl, rfl⟩
  case collapse =>
    have hexec := State.exec_packetRoute_unfit hk ht hd (State.kindEvent_misfit (.inl h20) hbad)
    rw [State.unfit_collapse h20 ho] at hexec
    exact ⟨_, hexec, State.due_sched ..⟩
  case queued =>
    have hexec := State.exec_packetRoute_forwards hk ht hd
    rw [State.forward_pushes hr hv hl hm hb hn] at hexec
    obtain ⟨x, hx, hplain⟩ := State.push_queued (s := s.takePath p.flow q (s.ackedBy p.flow q))
      { port := q, vc := p.vc, pkt := p, input := input, headAt := none, frontAt := none, crumb := none }
    exact ⟨_, hexec, x, hx, Queued.fields_of_plain hplain⟩
  case read =>
    have hexec := State.exec_packetRoute_forwards hk ht hd
    rw [State.forward_unrouted hr, State.unroutable_read h1] at hexec
    exact ⟨_, _, hexec, State.due_sched .., rfl, rfl, rfl, rfl⟩
  case residency =>
    have hexec := State.exec_packetRoute_forwards hk ht hd
    rw [State.forward_unrouted hr, State.unroutable_request h20 ha] at hexec
    exact hexec
  case ended =>
    obtain ⟨hmem, hport, -⟩ := State.headOf_some hh
    exact ⟨_, State.exec_holdExpiry_ended hh hheld hu hl, State.kick_transmits hmem hport⟩
  case lane =>
    obtain ⟨m, d, hlane⟩ := State.toLane_placed hp
    have hmarked := State.Marked.kickUp (s := { s with mem := m, psn := d, fab := { s.fab with
      lanes := s.fab.lanes ++ [State.laneEntry e off], queues := s.fab.queues.erase e } }) e.port
    have hmem : e ∈ s.fab.queues := (List.mem_filter.1 (hi ▸ List.mem_cons_self : e ∈ s.inputOf input vc)).1
    refine ⟨_, State.exec_deadlockTimer_moves hvc hi hf ht ho hlane, ?_, hmarked.lanes⟩
    rw [hmarked.length]
    exact List.length_erase_add_one hmem

end Sys2Proof.Machine
end

section
/-! The statement about atomics at their home, O49 (R206, R207, R212, R216, R408). -/

namespace Sys2Proof.Machine

open Sys2Proof.Claims (Replied byteAt)

/-! ## The low bytes of a value (R205, R287) -/

theorem toNat_zeroExtend {k : Nat} (hk : k ≤ 64) (v : Word) : (zeroExtend k v).toNat = v.toNat % 2 ^ k := by
  rw [zeroExtend_eq hk, wd, BitVec.toNat_ofNat]
  exact Nat.mod_eq_of_lt (Nat.lt_of_lt_of_le (Nat.mod_lt _ (Nat.two_pow_pos k)) (Nat.pow_le_pow_right (by decide) hk))

/-- The low bits of a sum depend on those of its terms alone. -/
theorem toNat_add_mod {k : Nat} (hk : k ≤ 64) (x v : Word) : (x + v).toNat % 2 ^ k = (x.toNat % 2 ^ k + v.toNat) % 2 ^ k := by
  rw [BitVec.toNat_add, Nat.mod_mod_of_dvd _ (Nat.pow_dvd_pow 2 hk), Nat.mod_add_mod]

namespace State
variable {s : State} {p : Packet}

/-! ## What a home stores (R287) -/

/-- `u` holds the low `n` bytes of `v` at `a`, and apart from these bytes the storage of `s`. -/
def HoldsAt (s u : State) (a n : Nat) (v : Word) : Prop :=
  ((∀ b, b < a ∨ a + n ≤ b → byteAt u b = byteAt s b) ∧ u.desc = s.desc) ∧ leNat (rdBytes u.mem a n) = v.toNat % 2 ^ (8 * n)

/-- What stores the low bytes of a value holds it. -/
theorem holdsAt_of_mem {u : State} {a n : Nat} {v : Word} (hs : Memory.wf s.mem = true) (hm : u.mem = wrBytes s.mem a (natLe n v.toNat))
    (hd : u.desc = s.desc) : HoldsAt s u a n v := by
  refine ⟨⟨fun b hb => ?_, hd⟩, ?_⟩
  · rw [byteAt, byteAt, hm]
    exact rdByte_wrBytes_outside _ _ _ _ (by rwa [length_natLe])
  · have hread := rdBytes_wrBytes (natLe n v.toNat) s.mem a hs
    rw [length_natLe] at hread
    rw [hm, hread, leNat_natLe, Nat.pow_mul]

/-- What leaves storage as it is holds it too. -/
theorem HoldsAt.of_sameStorage {t u : State} {a n : Nat} {v : Word} (h : HoldsAt s t a n v) (hu : SameStorage t u) : HoldsAt s u a n v := by
  obtain ⟨⟨hbytes, hdesc⟩, hval⟩ := h
  exact ⟨⟨fun b hb => (congrArg (rdByte · b) hu.mem).trans (hbytes b hb), hu.desc.trans hdesc⟩, by rw [hu.mem]; exact hval⟩

theorem HoldsAt.homeReply {t : State} {a n : Nat} {v : Word} (h : HoldsAt s t a n v) (p : Packet) (delay kind status : Nat) (payload : List Word)
    (cause : Nat) : HoldsAt s (t.homeReply p delay kind status payload cause) a n v := h.of_sameStorage ⟨rfl, rfl, rfl⟩

theorem HoldsAt.cacheReply {t : State} {a n : Nat} {v : Word} (h : HoldsAt s t a n v) (src tag : Nat) (value : Word) (status : Nat) :
    HoldsAt s (t.cacheReply src tag value status) a n v := h.of_sameStorage ⟨rfl, rfl, rfl⟩

/-- An atomic of 4 or 8 bytes at its home writes its new value, and breaks the barriers that it meets. -/
theorem homeAtom_eq (s : State) (hk : p.opsz ≤ 3) (op : AtomOp) (old : Word) : ∃ a q d, s.homeAtom p op old =
    { s with agenda := a, seq := q, psn := d,
             mem := wrBytes s.mem p.addr (natLe (2 ^ p.opsz) (atomNew op (2 ^ p.opsz) old (p.dw 0) (p.dw 1)).toNat) } := by
  obtain ⟨d, hstore⟩ := s.store_eq p.addr (2 ^ p.opsz) ⟨atomNew op (2 ^ p.opsz) old (p.dw 0) (p.dw 1), none⟩
  obtain ⟨a, q, htouch⟩ :=
    touch_eq (s.store p.addr (2 ^ p.opsz) ⟨atomNew op (2 ^ p.opsz) old (p.dw 0) (p.dw 1), none⟩) p.addr (2 ^ p.opsz) none
  unfold homeAtom
  rw [opBytes_eq hk]
  exact ⟨a, q, d, htouch.trans (by rw [hstore])⟩

theorem homeAtom_holdsAt (hs : Memory.wf s.mem = true) (hk : p.opsz ≤ 3) (op : AtomOp) (old : Word) :
    HoldsAt s (s.homeAtom p op old) p.addr (2 ^ p.opsz) (atomNew op (2 ^ p.opsz) old (p.dw 0) (p.dw 1)) := by
  obtain ⟨a, q, d, h⟩ := s.homeAtom_eq hk op old
  rw [h]
  exact holdsAt_of_mem hs rfl rfl

theorem homeAtom_fab (s : State) (hk : p.opsz ≤ 3) (op : AtomOp) (old : Word) : (s.homeAtom p op old).fab = s.fab := by
  obtain ⟨a, q, d, h⟩ := s.homeAtom_eq hk op old
  rw [h]

/-- Where no barrier is registered, a write makes nothing due. -/
theorem touch_unregistered (hb : s.barriers = []) (pa n : Nat) (w : Option ThreadRef) : s.touch pa n w = s := by
  rw [touch, hb]
  rfl

/-- Without a barrier an atomic makes nothing due. -/
theorem homeAtom_agenda (hk : p.opsz ≤ 3) (op : AtomOp) (old : Word) (hb : s.barriers = []) : (s.homeAtom p op old).agenda = s.agenda := by
  obtain ⟨d, hstore⟩ := s.store_eq p.addr (2 ^ p.opsz) ⟨atomNew op (2 ^ p.opsz) old (p.dw 0) (p.dw 1), none⟩
  unfold homeAtom
  dsimp only
  rw [opBytes_eq hk, hstore, touch_unregistered]
  exact hb

/-- A value that carries no poison. -/
theorem load_clean {a n : Nat} {old : Word} (hq : s.psnAt a = none) (hv : leWord (rdBytes s.mem a n) = old) : s.load a n = ⟨old, none⟩ := by
  rw [load, hq, hv]

theorem eccVal_good (s : State) (ltag unit pa : Nat) (old : Word) : s.eccVal ltag unit pa ⟨old, none⟩ = (s, ⟨old, none⟩) :=
  eccVal_clean _ _ _ _ _ rfl

/-! ## The reply cache (R212) -/

/-- What enters the reply cache stands there. -/
theorem mem_cacheReply (s : State) (src tag : Nat) (v : Word) (status : Nat) :
    ∃ c ∈ (s.cacheReply src tag v status).fab.cache, c.src = src ∧ c.tag = tag ∧ c.value = v :=
  ⟨_, List.mem_cons_self, rfl, rfl, rfl⟩

/-- An entry answers no request but its own. -/
theorem cachedOf_cacheReply_other (s : State) {src tag src' tag' : Nat} (h : src ≠ src' ∨ tag ≠ tag') (v : Word) (status : Nat) :
    (s.cacheReply src tag v status).cachedOf src' tag' = s.cachedOf src' tag' := by
  unfold cachedOf cacheReply
  dsimp only
  rw [List.find?_cons_of_neg (by simp; omega), List.find?_filter]
  refine congrArg (s.fab.cache.find? ·) (funext fun c => ?_)
  show decide (s.young c = true ∧ (s.young c && c.src == src' && c.tag == tag') = true) = (s.young c && c.src == src' && c.tag == tag')
  rw [Bool.eq_iff_iff]
  simp only [decide_eq_true_iff, Bool.and_eq_true]
  tauto

/-! ## ATM and ATMP (R206, R212) -/

/-- An atomic whose operand came poisoned is not performed (R408). -/
theorem exec_atm_poisoned (hp : s.pkt = some p) (hb : p.poisoned ≠ 0) : exec .atm s = .next (s.homeReply p 0 0x11 8 [0] 3) := by
  have hok : atomOk p = false := by simp [atomOk, hb]
  refine (onPkt_some hp _).trans (congrArg Host.Outcome.next ?_)
  rw [hok]
  rfl

section
variable {op : AtomOp} (hk : p.opsz = 2 ∨ p.opsz = 3) (hl : 2 ≤ p.payload.length) (ho : atomOf p.op = some op) (hg : p.poisoned = 0)
include hk hl ho hg

theorem atomOk_op : (if atomOk p = true then atomOf p.op else none) = some op := by
  rw [if_pos (by simp [atomOk, hk, hl, ho, hg]), ho]

variable (hp : s.pkt = some p) (hc : s.homeChk p.addr (2 ^ p.opsz) = .go)
include hp hc

theorem exec_atm_cached {c : Cached} (hr : s.cachedOf p.src p.tag = some c) : exec .atm s = .next (s.homeReply p 0 0x11 c.status [c.value] 0) := by
  refine (onPkt_some hp _).trans (congrArg Host.Outcome.next ?_)
  rw [atomOk_op hk hl ho hg, opBytes_eq (by omega)]
  simp only [hc, hr]

variable (hr : s.cachedOf p.src p.tag = none)
include hr

theorem exec_atm_full (hm : s.cacheRoom 1 = false) : exec .atm s = .next (s.homeReply p 0 0x15 6 [] 0) := by
  refine (onPkt_some hp _).trans (congrArg Host.Outcome.next ?_)
  rw [atomOk_op hk hl ho hg, opBytes_eq (by omega)]
  simp only [hc, hr, hm, Bool.not_false, if_true]

variable {old : Word} (hm : s.cacheRoom 1 = true) (hq : s.psnAt p.addr = none) (hv : leWord (rdBytes s.mem p.addr (2 ^ p.opsz)) = old)
include hm hq hv

/-- An atomic is applied, kept in the reply cache, and answered with the value that it found. -/
theorem exec_atm_applied : exec .atm s = .next
    ((((s.takeBank p.addr).homeAtom p op old).cacheReply p.src p.tag old 0).homeReply p ((s.takeBank p.addr).replyDelay p) 0x11 0 [old] 0) := by
  refine (onPkt_some hp _).trans (congrArg Host.Outcome.next ?_)
  rw [atomOk_op hk hl ho hg, opBytes_eq (by omega)]
  simp only [hc, hr, hm, load_clean hq hv, eccVal_good, Bool.not_true, Bool.false_eq_true, if_false]

/-- With WIN an ATMP is kept in the reply cache and acknowledged. -/
theorem exec_atmp_acknowledged (hw : p.win = true) (h0 : p.vc = 0) : exec .atmp s =
    .next ((((s.takeBank p.addr).homeAtom p op old).cacheReply p.src p.tag old 0).homeReply p 0 0x14 0 [] 0) := by
  refine (onPkt_some hp _).trans (congrArg Host.Outcome.next ?_)
  rw [atomOk_op hk hl ho hg, opBytes_eq (by omega)]
  simp only [hc, hr, hm, hw, h0, load_clean hq hv, eccVal_good, Bool.not_true, Bool.false_eq_true, if_false, if_true,
    Option.isSome_none, Bool.and_false, bne_self_eq_false, Bool.false_and]

omit hr hm in
/-- Without WIN an ATMP is applied and nothing more, once the earlier posted ones of its flow are. -/
theorem exec_atmp_posted (hw : p.win = false) (he : p.vc = 0 ∨ s.earlierPosted p = false) :
    exec .atmp s = .next ((s.takeBank p.addr).homeAtom p op old) := by
  have hturn : (p.vc != 0 && s.earlierPosted p) = false := by rcases he with he | he <;> simp [he]
  refine (onPkt_some hp _).trans (congrArg Host.Outcome.next ?_)
  rw [atomOk_op hk hl ho hg, opBytes_eq (by omega)]
  simp only [hc, hw, hturn, load_clean hq hv, eccVal_good, Bool.false_and, Bool.false_eq_true, if_false]

end

/-! ## MATM (R216) -/

/-- A leaf of an AADD64 or AADD32 has been applied to `n` bytes, and is kept in the reply cache with the value that it found. -/
def leafApplied (s : State) (a n : Nat) (l : Leaf) : State :=
  (s.store a n ⟨atomNew .add n (s.load a n).v l.addend 0, none⟩).cacheReply l.src l.tag (s.load a n).v 0

/-- A leaf that is applied stores what it finds with its addend. -/
theorem leafApplied_eq (s : State) (a n : Nat) (l : Leaf) : ∃ d c, s.leafApplied a n l = { s with
    mem := wrBytes s.mem a (natLe n (atomNew .add n (s.load a n).v l.addend 0).toNat), psn := d, fab := { s.fab with cache := c } } := by
  obtain ⟨d, h⟩ := s.store_eq a n ⟨atomNew .add n (s.load a n).v l.addend 0, none⟩
  unfold leafApplied
  rw [h]
  exact ⟨_, _, rfl⟩

theorem leafApplied_holdsAt (hs : Memory.wf s.mem = true) (a n : Nat) (l : Leaf) :
    HoldsAt s (s.leafApplied a n l) a n (atomNew .add n (s.load a n).v l.addend 0) := by
  obtain ⟨d, c, h⟩ := s.leafApplied_eq a n l
  rw [h]
  exact holdsAt_of_mem hs rfl rfl

/-- A leaf that is new leaves another new. -/
theorem cachedOf_leafApplied (s : State) (a n : Nat) {l m : Leaf} (h : l.src ≠ m.src ∨ l.tag ≠ m.tag) :
    (s.leafApplied a n l).cachedOf m.src m.tag = s.cachedOf m.src m.tag := by
  obtain ⟨d, hstore⟩ := s.store_eq a n ⟨atomNew .add n (s.load a n).v l.addend 0, none⟩
  rw [leafApplied, cachedOf_cacheReply_other _ h, hstore]
  rfl

/-- Two leaves, applied one after the other, add both addends. -/
theorem leafApplied_twice (hs : Memory.wf s.mem = true) (a : Nat) {n : Nat} (hn : n ≤ 8) (l m : Leaf) :
    HoldsAt s ((s.leafApplied a n l).leafApplied a n m) a n ((s.load a n).v + l.addend + m.addend) := by
  have hk : 8 * n ≤ 64 := by omega
  obtain ⟨d, c, h⟩ := s.leafApplied_eq a n l
  have hwf : Memory.wf (s.leafApplied a n l).mem = true := by
    rw [h]
    exact wrBytes_wf _ _ _ hs
  obtain ⟨⟨hbytes₁, hdesc₁⟩, hval₁⟩ := leafApplied_holdsAt hs a n l
  obtain ⟨⟨hbytes₂, hdesc₂⟩, hval₂⟩ := leafApplied_holdsAt hwf a n m
  refine ⟨⟨fun b hb => (hbytes₂ b hb).trans (hbytes₁ b hb), hdesc₂.trans hdesc₁⟩, ?_⟩
  have hfound : ((s.leafApplied a n l).load a n).v.toNat % 2 ^ (8 * n) = ((s.load a n).v + l.addend).toNat % 2 ^ (8 * n) := by
    show (BitVec.ofNat 64 (leNat (rdBytes (s.leafApplied a n l).mem a n))).toNat % 2 ^ (8 * n) = _
    rw [hval₁, BitVec.toNat_ofNat, Nat.mod_mod_of_dvd _ (Nat.pow_dvd_pow 2 hk), Nat.mod_mod, atomNew, toNat_zeroExtend hk, Nat.mod_mod]
  rw [hval₂, atomNew, toNat_zeroExtend hk, Nat.mod_mod, toNat_add_mod hk, hfound, ← toNat_add_mod hk]

/-- A new leaf is applied, and is no duplicate. -/
theorem matmRun_new {a n : Nat} {l : Leaf} (h : s.cachedOf l.src l.tag = none) (v : Option Word) (r : List Leaf) (ds : List (Bool × Word)) :
    matmRun a n .add s v (l :: r) ds = matmRun a n .add (s.leafApplied a n l) (v.or (some (s.load a n).v)) r ((false, 0) :: ds) := by
  rw [matmRun, h]
  rfl

/-- Two new leaves are applied in their order, and the first value that was found is kept. -/
theorem matmRun_pair (s : State) (a n : Nat) {l m : Leaf} (hlm : l.src ≠ m.src ∨ l.tag ≠ m.tag) (hl : s.cachedOf l.src l.tag = none)
    (hm : s.cachedOf m.src m.tag = none) : matmRun a n .add s none [l, m] [] =
      ((s.leafApplied a n l).leafApplied a n m, some (s.load a n).v, [(false, 0), (false, 0)]) := by
  rw [matmRun_new hl, matmRun_new ((s.cachedOf_leafApplied a n hlm).trans hm), matmRun, Option.none_or, Option.some_or]
  rfl

/-- The leaves of a merged request of two. -/
theorem leavesOf_pair (h6 : p.kind = 6) (hn : p.nleaf = 1) : leavesOf p = [leafOf (p.dw 0) (p.dw 1), leafOf (p.dw 2) (p.dw 3)] := by
  rw [leavesOf, if_pos h6, hn]
  rfl

/-- The state in which the home of a merged request has its bank and has applied two leaves. -/
def pairApplied (s : State) (p : Packet) (l m : Leaf) : State :=
  (((s.takeBank p.addr).leafApplied p.addr (2 ^ p.opsz) l).leafApplied p.addr (2 ^ p.opsz) m).touch p.addr (2 ^ p.opsz) none

section
variable {old : Word} (hv : leWord (rdBytes s.mem p.addr (2 ^ p.opsz)) = old)
include hv

theorem pairApplied_holdsAt (hs : Memory.wf s.mem = true) (hk : p.opsz ≤ 3) (l m : Leaf) :
    HoldsAt s (s.pairApplied p l m) p.addr (2 ^ p.opsz) (old + l.addend + m.addend) := by
  have hn : 2 ^ p.opsz ≤ 2 ^ 3 := Nat.pow_le_pow_right (by decide) hk
  have hholds := leafApplied_twice (s := s.takeBank p.addr) hs p.addr hn l m
  rw [← hv]
  exact hholds.of_sameStorage (SameStorage.touch p.addr (2 ^ p.opsz) none)

/-- A merged request of two new leaves is applied and answered with the value that it found. -/
theorem exec_matm_pair {l m : Leaf} (hp : s.pkt = some p) (hk : p.opsz = 2 ∨ p.opsz = 3) (hg : p.poisoned = 0)
    (hc : s.homeChk p.addr (2 ^ p.opsz) = .go) (hq : s.psnAt p.addr = none) (ho : p.op = 0) (hlen : 2 * (p.nleaf + 1) ≤ p.payload.length)
    (hls : leavesOf p = [l, m]) (hr : s.cacheRoom 2 = true) (hlm : l.src ≠ m.src ∨ l.tag ≠ m.tag) (hl : s.cachedOf l.src l.tag = none)
    (hm : s.cachedOf m.src m.tag = none) :
    exec .matm s = .next ((s.pairApplied p l m).homeReply p ((s.pairApplied p l m).replyDelay p) 0x12 0 [old, 0] 0) := by
  have hrun := (s.takeBank p.addr).matmRun_pair p.addr (2 ^ p.opsz) hlm hl hm
  have hload : (s.takeBank p.addr).load p.addr (2 ^ p.opsz) = ⟨old, none⟩ := load_clean hq hv
  have hfresh : ([l, m].filter fun x => (s.cachedOf x.src x.tag).isNone) = [l, m] := by simp [hl, hm]
  rw [hload] at hrun
  refine (onPkt_some hp _).trans (congrArg Host.Outcome.next ?_)
  dsimp only
  rw [if_neg (by simp [ho, hg]; omega), opBytes_eq (by omega)]
  simp only [hc, hls, hfresh, List.length_cons, List.length_nil, hr, load_clean hq hv, eccVal_good, ho, hrun,
    if_neg (show ¬(0 = 8) by decide)]
  rfl

end

end State

/-- Settles O49: each atomic by what the reply cache has of it and what its home finds there, and the reply that leaves. -/
theorem homesApplyAtomics : Obligations.HomesApplyAtomics := by
  intro s p op hp hs hk hl n old only holds reply
  have hk3 : p.opsz ≤ 3 := by omega
  have hmem : Memory.wf (s.takeBank p.addr).mem = true := hs.mem
  have replied (u : State) (delay kind : Nat) (payload : List Word) :
      reply (u.homeReply p delay kind (if kind = 0x15 then 6 else 0) payload 0) kind payload := by
    obtain ⟨r, hr, hkind, -, hdst, htag, hstatus, hpayload, -⟩ := u.homeReply_replied p delay kind (if kind = 0x15 then 6 else 0) payload 0
    exact ⟨r, hr, hkind, hdst, htag, hpayload, hstatus⟩
  have applied : State.HoldsAt s ((s.takeBank p.addr).homeAtom p op old) p.addr n (atomNew op n old (p.dw 0) (p.dw 1)) :=
    State.homeAtom_holdsAt hmem hk3 op old
  refine ⟨fun hb => ?poisoned, fun hc hq hg => ⟨fun ho => ⟨fun hr hm => ?atm, fun c hr h0 => ?cached, fun hr hm => ?full, fun hw he => ?posted,
    fun hw h0 hr hm => ?acknowledged⟩, fun h6 ho hn hlen hr hab ha hb => ?merged⟩⟩
  case poisoned =>
    obtain ⟨r, hr, hkind, -, hdst, htag, hstatus, -⟩ := s.homeReply_replied p 0 0x11 8 [0] 3
    exact ⟨_, r, State.exec_atm_poisoned hp hb, rfl, hr, hkind, hdst, htag, hstatus⟩
  case atm =>
    exact ⟨_, State.exec_atm_applied hk hl ho hg hp hc hr hm hq rfl, (applied.cacheReply ..).homeReply .., replied _ _ 0x11 [old],
      State.mem_cacheReply ..⟩
  case cached =>
    have hexec := State.exec_atm_cached hk hl ho hg hp hc hr
    rw [h0] at hexec
    exact ⟨_, hexec, rfl, replied _ _ 0x11 [c.value]⟩
  case full => exact ⟨_, State.exec_atm_full hk hl ho hg hp hc hr hm, rfl, replied _ _ 0x15 []⟩
  case posted =>
    have hfab := State.homeAtom_fab (s.takeBank p.addr) hk3 op old
    exact ⟨_, State.exec_atmp_posted hk hl ho hg hp hc hq rfl hw he, applied, congrArg Fabric.cache hfab,
      State.homeAtom_agenda (s := s.takeBank p.addr) hk3 op old⟩
  case acknowledged =>
    exact ⟨_, State.exec_atmp_acknowledged hk hl ho hg hp hc hr hm hq rfl hw h0, (applied.cacheReply ..).homeReply .., replied _ _ 0x14 []⟩
  case merged =>
    have hexec := State.exec_matm_pair (old := old) rfl hp hk hg hc hq ho (by omega) (State.leavesOf_pair h6 hn) hr hab ha hb
    exact ⟨_, hexec, (State.pairApplied_holdsAt rfl hs.mem hk3 _ _).homeReply .., replied _ _ 0x12 [old, 0]⟩

end Sys2Proof.Machine
end

section
/-! The statement about links and their optics, O52 (R209, R219 to R221, R226, R369, R370, R407, R411). -/

namespace Sys2Proof.Machine

open Sys2Proof.Claims (Recorded Due)

/-! ## Bits of a mask -/

section
variable {n : Nat} (x : BitVec n) {k : Nat} (hk : k < n)
include hk

theorem getLsbD_bit : (BitVec.ofNat n (2 ^ k)).getLsbD k = true := by
  rw [BitVec.getLsbD_ofNat, Nat.testBit_two_pow_self, decide_eq_true hk]
  rfl

theorem getLsbD_or_bit : (x ||| BitVec.ofNat n (2 ^ k)).getLsbD k = true := by
  rw [BitVec.getLsbD_or, getLsbD_bit hk, Bool.or_true]

theorem getLsbD_clear_bit : (x &&& ~~~(BitVec.ofNat n (2 ^ k))).getLsbD k = false := by
  rw [BitVec.getLsbD_and, BitVec.getLsbD_not, getLsbD_bit hk, Bool.not_true, Bool.and_false, Bool.and_false]

end

namespace State
variable {s : State} {p : Nat}

/-! ## READY.OPT (R226) -/

theorem setOpt_getLsbD (s : State) (hp : p < 16) (on : Bool) : (s.setOpt p on).pkg.opt.getLsbD p = on := by
  cases on
  · exact getLsbD_clear_bit _ hp
  · exact getLsbD_or_bit _ hp

/-! ## Records and requests to replace a part (R238, R373) -/

section
variable (s : State) (bit : Nat)

@[simp] theorem replace_fab : (s.replace bit).fab = s.fab := by
  obtain ⟨a, q, n, h, r, e⟩ := s.replace_eq bit
  rw [e]

@[simp] theorem replace_phot : (s.replace bit).phot = s.phot := by
  obtain ⟨a, q, n, h, r, e⟩ := s.replace_eq bit
  rw [e]

@[simp] theorem replace_opt : (s.replace bit).pkg.opt = s.pkg.opt := by
  obtain ⟨a, q, n, h, r, e⟩ := s.replace_eq bit
  rw [e]

end

/-- What is recorded and raises a request, where it names no launch, changes neither the fabric nor the optics. -/
theorem record_replace {r : RecInfo} (s : State) (hc : r.cls ≠ 1) (hl : r.ltag = 0) (bit : Nat) :
    ((s.record r).replace bit).fab = s.fab ∧ ((s.record r).replace bit).phot = s.phot ∧ Recorded s ((s.record r).replace bit) r := by
  have hnoted := noted_replace (s.record r) bit
  rw [record_unported _ _ hc hl] at hnoted ⊢
  rw [replace_fab, replace_phot]
  exact ⟨rfl, rfl, hnoted.log List.mem_cons_self⟩

/-! ## Replays and retrains (R209, R407) -/

/-- A retrain holds the port, which does not serve, and is recorded. -/
theorem retrain_holds (s : State) (hp : p < 16) : (s.retrain p).link p = { s.link p with holding := true } ∧
    (s.retrain p).pkg.opt.getLsbD p = false ∧
    Recorded s (s.retrain p) { cls := 2, scope := 0, cause := 0x075, agent := 9, detail := wd (p + ((s.link p).retrains + 1) * 2 ^ 4) } := by
  unfold retrain
  rw [record_unported _ _ (by simp) rfl]
  exact ⟨s.link_setLink_self _ hp, (s.setLink p _).setOpt_getLsbD hp false, List.mem_cons_self⟩

/-- A port that carried nothing goes down: it does not serve, and is to be replaced. -/
theorem portDown_idle (s : State) (hp : p < 16) (hq : s.fab.queues = []) (hl : s.fab.lanes = []) :
    ((s.portDown p).link p).up = false ∧ (s.portDown p).pkg.opt.getLsbD p = false ∧ (s.portDown p).pkg.replace.getLsbD 5 = true := by
  unfold portDown
  dsimp only
  rw [record_unported _ _ (by simp) rfl]
  simp only [logWords_fab, replace_fab, setLink, hq, hl, List.filter_nil, List.foldl_nil]
  refine ⟨congrArg Link.up (s.link_setLink_self { s.link p with up := false, holding := false } hp), ?_, replace_getLsbD _ 5 (by decide)⟩
  show (State.replace _ 5).pkg.opt.getLsbD p = false
  rw [replace_opt]
  exact getLsbD_clear_bit _ hp

theorem exec_linkReplay {n : Nat} (hu : (s.link p).up = true) : exec (.linkReplay p n) s = .next
    (if n = 8 then (s.setLink p { s.link p with replays := (s.link p).replays + 1 }).retrain p
      else s.setLink p { s.link p with replays := (s.link p).replays + 1 }) :=
  congrArg Host.Outcome.next (if_neg (by simp [hu]))

section
variable (hu : (s.link p).up = true) (hh : (s.link p).holding = true)
include hu hh

theorem exec_retrainEnd_succeeds : exec (.retrainEnd p true) s = .next
    (((s.setLink p { s.link p with holding := false, retrains := 0 }).setOpt p (!s.pkg.dead)).kickUp p) := by
  refine congrArg Host.Outcome.next ?_
  dsimp only
  rw [if_neg (by simp [hu, hh]), if_pos rfl]

/-- A retrain that fails for the first or second time begins again. -/
theorem exec_retrainEnd_again (hr : (s.link p).retrains < 2) : exec (.retrainEnd p false) s = .next
    ((s.setLink p { s.link p with retrains := (s.link p).retrains + 1 }).retrain p) := by
  refine congrArg Host.Outcome.next ?_
  dsimp only
  rw [if_neg (by simp [hu, hh]), if_neg Bool.false_ne_true, if_pos (by omega)]

theorem exec_retrainEnd_fails (hr : 2 ≤ (s.link p).retrains) :
    exec (.retrainEnd p false) s = .next ((s.setLink p { s.link p with retrains := 0 }).portDown p) := by
  refine congrArg Host.Outcome.next ?_
  dsimp only
  rw [if_neg (by simp [hu, hh]), if_neg Bool.false_ne_true, if_neg (by omega)]

end

/-! ## Fibres (R411) -/

section
variable {f : Nat}

/-- A fibre of this end that is down stays so. -/
theorem exec_fibredown_absent (hd : (nget s.phot.fup p 0).getLsbD f = false) : exec (.fibredown p ⟨false, f⟩) s = .next s := by
  refine congrArg Host.Outcome.next ?_
  dsimp only
  rw [if_neg Bool.false_ne_true, if_pos (by rw [hd, Bool.not_false, Bool.or_true])]

/-- The record of a fibre of this end that has failed (R411). -/
def fibreRecord (p f : Nat) : RecInfo := { cls := 4, scope := 4, cause := 0x080, agent := 9, detail := wd (p + f * 2 ^ 4) }

/-- The port has one fibre fewer at this end. -/
def fibreOff (s : State) (p f : Nat) : State :=
  State.setLink { s with phot := { s.phot with fup := nset s.phot.fup p (nget s.phot.fup p 0 &&& ~~~(BitVec.ofNat 8 (2 ^ f))) } } p
    { s.link p with fibres := (s.link p).fibres - 1 }

/-- A fibre of this end has failed, which is recorded, and a part is to be replaced. -/
def fibreLost (s : State) (p f : Nat) : State := ((s.fibreOff p f).record (fibreRecord p f)).replace 5

theorem fibreLost_noted (s : State) : (s.fibreLost p f).fab = (s.fibreOff p f).fab ∧ (s.fibreLost p f).phot = (s.fibreOff p f).phot ∧
    Recorded (s.fibreOff p f) (s.fibreLost p f) (fibreRecord p f) := record_replace (s.fibreOff p f) (by simp [fibreRecord]) rfl 5

/-- A fibre of this end that was up fails, and the last of an up port takes it down. -/
theorem exec_fibredown_near (hf : f < 8) (hd : (nget s.phot.fup p 0).getLsbD f = true) : exec (.fibredown p ⟨false, f⟩) s = .next
    (if (((s.fibreLost p f).link p).fibres = 0 && ((s.fibreLost p f).link p).up) = true then (s.fibreLost p f).portDown p
      else s.fibreLost p f) := by
  refine congrArg Host.Outcome.next ?_
  dsimp only
  rw [if_neg Bool.false_ne_true, if_neg (by rw [hd]; simp; omega)]
  rfl

section
variable (hp : p < 16) (hf : f < 8)
include hp

theorem fibreLost_link (s : State) : (s.fibreLost p f).link p = { s.link p with fibres := (s.link p).fibres - 1 } := by
  rw [link, s.fibreLost_noted.1]
  exact s.link_setLink_self _ hp

include hf

theorem fibreLost_fup (s : State) : (nget (s.fibreLost p f).phot.fup p 0).getLsbD f = false := by
  have hfup : (s.fibreLost p f).phot.fup = nset s.phot.fup p (nget s.phot.fup p 0 &&& ~~~(BitVec.ofNat 8 (2 ^ f))) :=
    congrArg Photonics.fup s.fibreLost_noted.2.1
  rw [hfup, nget_nset _ _ _ _ _ hp, if_pos rfl]
  exact getLsbD_clear_bit _ hf

/-- A fibre that is not the last of its end leaves the port as it is. -/
theorem exec_fibredown_survives (hd : (nget s.phot.fup p 0).getLsbD f = true) (h1 : 1 < (s.link p).fibres) :
    exec (.fibredown p ⟨false, f⟩) s = .next (s.fibreLost p f) := by
  rw [exec_fibredown_near hf hd, if_neg]
  rw [fibreLost_link hp]
  simp
  omega

/-- The last fibre of an up port takes it down. -/
theorem exec_fibredown_last (hd : (nget s.phot.fup p 0).getLsbD f = true) (h1 : (s.link p).fibres = 1) (hu : (s.link p).up = true) :
    exec (.fibredown p ⟨false, f⟩) s = .next ((s.fibreLost p f).portDown p) := by
  rw [exec_fibredown_near hf hd, if_pos]
  rw [fibreLost_link hp]
  simp [h1, hu]

end

/-- The transmit fibres of the far end that are up once it has lost one. -/
def rxLess (s : State) (p f : Nat) : Byte := (s.link p).rx &&& ~~~(BitVec.ofNat 8 (2 ^ f))

theorem exec_fibredown_far_survives (h : s.rxLess p f ≠ 0) :
    exec (.fibredown p ⟨true, f⟩) s = .next (s.setLink p { s.link p with rx := s.rxLess p f }) := by
  refine congrArg Host.Outcome.next ?_
  dsimp only
  rw [if_pos rfl]
  exact if_neg fun hlost => h (of_decide_eq_true (Bool.and_eq_true_iff.1 hlost).1)

theorem exec_fibredown_far_last (h : s.rxLess p f = 0) (hu : (s.link p).up = true) :
    exec (.fibredown p ⟨true, f⟩) s = .next ((s.setLink p { s.link p with rx := s.rxLess p f }).portDown p) := by
  refine congrArg Host.Outcome.next ?_
  dsimp only
  rw [if_pos rfl]
  exact if_pos (Bool.and_eq_true_iff.2 ⟨decide_eq_true h, hu⟩)

end

/-! ## Rings (R219, R221, R369) -/

section
variable {f b : Nat}

theorem ring_setRing_self (s : State) (x : Ring) : (s.setRing p f b x).ring p f b = x := by
  rw [ring, setRing, mget_mset_self]
  rfl

/-- The registers of two rings of a fibre are two. -/
theorem ring_setRing_other (s : State) (x : Ring) {c : Nat} (hc : c ≠ b) : (s.setRing p f b x).ring p f c = s.ring p f c := by
  rw [ring, setRing, mget_mset_other _ _ _ _ (by omega)]
  rfl

section
variable (hp : p < 16) (hf : f < 8) (hb : b < 68)
include hp hf hb

/-- Where the register of a ring lies in the photonic block. -/
theorem regWrite_ring (s : State) (v m : Word) :
    s.regWrite (0x200000 + 0x10000 * p + 0x1000 + 0x400 * f + 8 * b) v m = s.ringStore p f b v m := by
  rw [regWrite, if_neg (by omega), if_neg (by omega), if_neg (by omega), if_neg (by omega), if_neg (by omega), if_neg (by simp; omega),
    if_pos (by simp; omega), if_pos (by simp; omega)]
  congr 1
  · omega
  · omega
  · omega

/-- A write of eight bytes at the photonic block is a write of that ring's register. -/
theorem exec_ringWrite (v : Word) : exec (.ringWrite p f b 8 false v) s = .next (s.ringStore p f b v (BitVec.allOnes 64)) := by
  refine congrArg Host.Outcome.next ?_
  rw [if_neg (by simp; omega), if_neg (by simp), regStore_dword _ _ _ (by omega), Nat.add_zero, regWrite_ring hp hf hb]

end

/-- Whether another ring of the fibre holds a wavelength is not changed by what is written to this one. -/
theorem holds_setRing (s : State) (x : Ring) (w k : Nat) :
    (k != b && ((s.setRing p f b x).ring p f k).men && ((s.setRing p f b x).ring p f k).map == w) =
      (k != b && (s.ring p f k).men && (s.ring p f k).map == w) := by
  by_cases hk : k = b
  · simp [hk]
  · rw [ring_setRing_other s _ hk]

/-- A ring on which MEN stands keeps its MAP, and takes no wavelength. -/
theorem ringStore_kept (v : Word) (hm : (s.ring p f b).men = true) : s.ringStore p f b v (BitVec.allOnes 64) =
    s.setRing p f b { men := v.getLsbD 47, map := (s.ring p f b).map, htr := bits v 0 12 } := by
  unfold ringStore
  simp only [merge_allOnes, hm, if_true, Bool.not_true, Bool.and_false, Bool.false_eq_true, if_false]

/-- A ring on which MEN is set takes its wavelength from the ring that held it, whose light has yet to move. -/
theorem ringStore_takes (v : Word) (hm : (s.ring p f b).men = false) (hv : v.getLsbD 47 = true) :
    (s.ringStore p f b v (BitVec.allOnes 64)).ring p f b = { men := true, map := bits v 40 6, htr := bits v 0 12 } ∧
    ∀ c, (List.range 68).find? (fun k => k != b && (s.ring p f k).men && (s.ring p f k).map == bits v 40 6) = some c →
      ((s.ringStore p f b v (BitVec.allOnes 64)).ring p f c).men = false ∧
      Due (s.ringStore p f b v (BitVec.allOnes 64)) (s.now + 1) (.wavelengthMove p f (bits v 40 6)) := by
  unfold ringStore
  simp only [merge_allOnes, hm, hv, holds_setRing, if_true, if_false, Bool.not_false, Bool.and_true, Bool.false_eq_true]
  cases hfind : (List.range 68).find? fun k => k != b && (s.ring p f k).men && (s.ring p f k).map == bits v 40 6 with
  | none => exact ⟨s.ring_setRing_self _, fun c hc => absurd hc (by simp)⟩
  | some c =>
    have hc : c ≠ b := by
      have hholds := List.find?_some hfind
      simp only [Bool.and_eq_true, bne_iff_ne] at hholds
      exact hholds.1.1
    refine ⟨(ring_setRing_other _ _ (Ne.symm hc)).trans (s.ring_setRing_self _), fun k hk => ?_⟩
    obtain rfl : c = k := Option.some.inj hk
    exact ⟨congrArg Ring.men (ring_setRing_self _ _), due_sched ..⟩

end

end State

/-- Settles O52: a link by its replays and retrains, a fibre by the end that it failed at and by how many are left, a ring by its MEN, and each
refresh by what it reads. -/
theorem linksAndOptics : Obligations.LinksAndOptics := by
  intro s p f b hp hf hb x
  refine ⟨fun n hu => ⟨_, State.exec_linkReplay hu, ?replays⟩,
    fun hu hh => ⟨⟨_, State.exec_retrainEnd_succeeds hu hh, ?succeeds⟩, fun hr => ⟨_, State.exec_retrainEnd_again hu hh hr, ?again⟩,
      fun hr hq hl => ⟨_, State.exec_retrainEnd_fails hu hh hr, State.portDown_idle _ hp hq hl⟩⟩,
    fun hd h1 => ⟨_, State.exec_fibredown_survives hp hf hd h1, ?fibre⟩,
    fun hd h1 hu hq hl => ⟨_, State.exec_fibredown_last hp hf hd h1 hu, ?last⟩,
    fun hd => State.exec_fibredown_absent hd,
    ⟨fun hrx => ⟨_, State.exec_fibredown_far_survives hrx, s.link_setLink_self _ hp, rfl, rfl⟩,
      fun hrx hu hq hl => ⟨_, State.exec_fibredown_far_last hrx hu, ?far⟩⟩,
    fun v hm hv => ⟨_, State.exec_ringWrite hp hf hb v, State.ringStore_takes v hm hv⟩,
    fun v hm => ⟨_, State.exec_ringWrite hp hf hb v, ?kept⟩, ⟨_, rfl, fun e => ?move⟩, ⟨_, rfl, rfl, rfl, rfl⟩, ⟨_, rfl, ?temps⟩,
    ⟨_, rfl, ?retired⟩⟩
  case replays =>
    have hlink := s.link_setLink_self { s.link p with replays := (s.link p).replays + 1 } hp
    by_cases hn : n = 8
    · obtain ⟨hheld, hopt, hrec⟩ := State.retrain_holds (s.setLink p { s.link p with replays := (s.link p).replays + 1 }) hp
      rw [if_pos hn, hheld, hlink]
      rw [hlink] at hrec
      exact ⟨rfl, fun _ => ⟨rfl, hopt, hrec⟩, fun h => absurd hn h⟩
    · rw [if_neg hn, hlink]
      exact ⟨rfl, fun h => absurd h hn, fun _ => rfl⟩
  case succeeds =>
    have hmarked := State.Marked.kickUp (s := (s.setLink p { s.link p with holding := false, retrains := 0 }).setOpt p (!s.pkg.dead)) p
    have hlink : ((s.setLink p { s.link p with holding := false, retrains := 0 }).setOpt p (!s.pkg.dead)).link p = _ := s.link_setLink_self _ hp
    rw [hmarked.link, hmarked.pkg, hlink]
    exact ⟨rfl, rfl, hu, State.setOpt_getLsbD _ hp _⟩
  case again =>
    obtain ⟨hheld, -, -⟩ := State.retrain_holds (s.setLink p { s.link p with retrains := (s.link p).retrains + 1 }) hp
    rw [hheld, s.link_setLink_self _ hp]
    exact ⟨rfl, rfl⟩
  case fibre =>
    rw [State.fibreLost_link hp]
    exact ⟨rfl, rfl, State.fibreLost_fup hp hf s, s.fibreLost_noted.2.2⟩
  case last =>
    have hfab := (s.fibreLost_noted (p := p) (f := f)).1
    obtain ⟨hup, hopt, -⟩ := (s.fibreLost p f).portDown_idle hp ((congrArg Fabric.queues hfab).trans hq) ((congrArg Fabric.lanes hfab).trans hl)
    exact ⟨hup, hopt⟩
  case far =>
    obtain ⟨hup, hopt, -⟩ := (s.setLink p { s.link p with rx := s.rxLess p f }).portDown_idle hp hq hl
    exact ⟨hup, hopt⟩
  case kept => rw [State.ringStore_kept v hm, State.ring_setRing_self]
  case move =>
    simp only [List.mem_filter, Bool.not_eq_true', Bool.and_eq_false_iff, beq_eq_false_iff_ne]
    tauto
  case temps =>
    refine ⟨?_, rfl, fun k hk => ?_⟩
    · simp [nget, hp]
    · simp [nget, hk]
  case retired => exact ⟨State.replace_getLsbD _ 4 (by decide), (State.record_replace _ (by simp) rfl 4).2.2⟩

end Sys2Proof.Machine
end

section
/-! SUPPORT. Bring-up (R225 to R230, R236, R380, R399, R411): images and their measurements, and each event that brings a part of the device up. -/

namespace Sys2Proof.Machine

open Sys2Proof.Claims (Recorded)

/-! ## Bits of a mask, and entries of a map -/

/-- A bit that is set or cleared by a mask reads so, and every other bit reads as before. -/
theorem getLsbD_putBit {n : Nat} (x : BitVec n) {k i : Nat} (hk : k < n) (hi : i < n) (on : Bool) :
    (if on then x ||| BitVec.ofNat n (2 ^ k) else x &&& ~~~(BitVec.ofNat n (2 ^ k))).getLsbD i = if i = k then on else x.getLsbD i := by
  by_cases h : i = k
  · rw [if_pos h, h]
    cases on
    · exact getLsbD_clear_bit x hk
    · exact getLsbD_or_bit x hk
  · have hbit : (BitVec.ofNat n (2 ^ k)).getLsbD i = false := by
      rw [BitVec.getLsbD_ofNat, Nat.testBit_two_pow_of_ne (Ne.symm h), Bool.and_false]
    rw [if_neg h]
    cases on
    · rw [if_neg Bool.false_ne_true, BitVec.getLsbD_and, BitVec.getLsbD_not, hbit, decide_eq_true hi]
      exact Bool.and_true _
    · rw [if_pos rfl, BitVec.getLsbD_or, hbit, Bool.or_false]

/-- A byte made from a number is zero exactly if none of the number's low eight bits is set. -/
theorem ofNat8_ne_zero_iff (x : Nat) : (BitVec.ofNat 8 x != 0) = true ↔ ∃ f, f < 8 ∧ x.testBit f = true := by
  rw [bne_iff_ne, ← not_iff_not, not_not]
  constructor
  · rintro h ⟨f, hf, hx⟩
    have hbit : (BitVec.ofNat 8 x).getLsbD f = true := by rw [BitVec.getLsbD_ofNat, hx, decide_eq_true hf]; rfl
    rw [h] at hbit
    exact Bool.false_ne_true (BitVec.getLsbD_zero.symm.trans hbit)
  · refine fun h => BitVec.eq_of_getLsbD_eq fun f hf => ?_
    rw [BitVec.getLsbD_ofNat, Bool.eq_false_iff.2 fun hx => h ⟨f, hf, hx⟩, Bool.and_false]
    exact BitVec.getLsbD_zero.symm

/-- Entries set one after another at places that differ: each reads as it was set. -/
theorem mget_foldl_mset_keys {α : Type} {key : Nat → Nat} (hkey : Function.Injective key) (val : Map α → Nat → α) (m : Map α) {n i : Nat}
    (hi : i < n) : ∃ m', mget ((List.range n).foldl (fun m i => mset m (key i) (val m i)) m) (key i) = some (val m' i) := by
  induction n with
  | zero => exact absurd hi (by omega)
  | succ n ih =>
    rw [List.range_succ, List.foldl_concat]
    by_cases h : i = n
    · rw [h]
      exact ⟨_, mget_mset_self ..⟩
    · rw [mget_mset_other _ _ _ _ (hkey.ne h)]
      exact ih (by omega)

namespace State
variable {s : State}

/-! ## Images (R228, R230) -/

theorem imageOk_iff (s : State) (x : Image) :
    s.imageOk x = true ↔ s.keyAllowed x.key = true ∧ pssVerify x.key x.body x.sig = true ∧ s.pkg.minSvn ≤ x.svn := by
  rw [imageOk, Bool.and_eq_true, Bool.and_eq_true, decide_eq_true_iff, and_assoc]

theorem extend_measures (s : State) {k : Nat} (hk : 2 ≤ k) (hk8 : k < 8) (d : List Byte) :
    mget (s.extend k d).pkg.measures k = some (sha512 (natLe 64 ((mget s.pkg.measures k).getD 0).toNat ++ d)) := by
  rw [extend, if_neg (by simp; omega)]
  exact mget_mset_self ..

/-- An image stands in its measurement, and what its firmware extends is extended from what stood there. -/
theorem measure_measures (s : State) {m : Nat} (x : Image) (hm : m < 2) : mget (s.measure m x).pkg.measures m = some (sha512 x.body) ∧
    ∀ k d, x.exts = [(k, d)] → 2 ≤ k → k < 8 → mget (s.measure m x).pkg.measures k =
      some (sha512 (natLe 64 ((mget s.pkg.measures k).getD 0).toNat ++ d)) := by
  refine ⟨?_, fun k d hx hk hk8 => ?_⟩
  · obtain ⟨ms, he, hms⟩ := s.measure_eq m x hm
    rw [he]
    exact hms
  · rw [measure, hx]
    refine (extend_measures _ hk hk8 d).trans ?_
    rw [mget_mset_other _ _ _ _ (by omega)]

/-- A measurement leaves the package but for its measurements, and the lattice. -/
theorem measure_frame (s : State) {m : Nat} (x : Image) (hm : m < 2) : (s.measure m x).lat = s.lat ∧ (s.measure m x).pkg.stew = s.pkg.stew ∧
    (s.measure m x).pkg.bootstat = s.pkg.bootstat ∧ (s.measure m x).pkg.recovery = s.pkg.recovery := by
  obtain ⟨ms, he, -⟩ := s.measure_eq m x hm
  rw [he]
  exact ⟨rfl, rfl, rfl, rfl⟩

/-! ## BOOT and the host link (R227 to R229) -/

/-- The package runs an image of slot `slot`, which is yet to be measured. -/
def booted (s : State) (slot : Word) : State := { s with pkg := { s.pkg with bootstat := slot, recovery := false } }

theorem filter_refused {a : Option Image} (h : ¬∃ x, a = some x ∧ s.imageOk x = true) : a.filter s.imageOk = none :=
  Option.filter_eq_none_iff.2 fun x hx hok => h ⟨x, hx, hok⟩

theorem exec_boot_a {x : Image} (b : Option Image) (hx : s.imageOk x = true) : exec (.boot (some x) b) s = .next ((s.booted 0).measure 0 x) := by
  refine congrArg Host.Outcome.next ?_
  dsimp only
  rw [Option.filter_some_pos hx]
  rfl

theorem exec_boot_b {a : Option Image} {x : Image} (ha : ¬∃ x, a = some x ∧ s.imageOk x = true) (hx : s.imageOk x = true) :
    exec (.boot a (some x)) s = .next ((s.booted 1).measure 0 x) := by
  refine congrArg Host.Outcome.next ?_
  dsimp only
  rw [filter_refused ha, Option.filter_some_pos hx]
  rfl

/-- With neither slot accepted recovery mode begins, with the host link up (R229). -/
theorem exec_boot_recovery {a b : Option Image} (ha : ¬∃ x, a = some x ∧ s.imageOk x = true) (hb : ¬∃ x, b = some x ∧ s.imageOk x = true) :
    exec (.boot a b) s = .next (bootCause { s with pkg := { s.pkg with recovery := true, hostUp := true } } (Config.bootCause 0)) := by
  refine congrArg Host.Outcome.next ?_
  dsimp only
  rw [filter_refused ha, filter_refused hb]

/-- An image that runs is measured into M0, and its slot stands in BOOTSTAT. -/
theorem booted_measures (s : State) (slot : Word) (x : Image) :
    (mget ((s.booted slot).measure 0 x).pkg.measures 0 = some (sha512 x.body) ∧
      ∀ k d, x.exts = [(k, d)] → 2 ≤ k → k < 8 → mget ((s.booted slot).measure 0 x).pkg.measures k =
        some (sha512 (natLe 64 ((mget s.pkg.measures k).getD 0).toNat ++ d))) ∧
    ((s.booted slot).measure 0 x).pkg.bootstat = slot ∧ ((s.booted slot).measure 0 x).pkg.recovery = false := by
  obtain ⟨-, -, hboot, hrec⟩ := measure_frame (s.booted slot) x (m := 0) (by decide)
  exact ⟨measure_measures (s.booted slot) x (by decide), hboot, hrec⟩

theorem exec_hostLinkTrain (hr : s.running = true) : exec .hostLinkTrain s = .next { s with pkg := { s.pkg with hostUp := true } } :=
  congrArg Host.Outcome.next (if_pos hr)

/-! ## The stacks (R227, R228, R380) -/

/-- The cause of a failure stands in bits 15:8 of BOOTSTAT (R233). -/
theorem bits_bootCause (s : State) (c : BitVec 8) : bits (s.bootCause c).pkg.bootstat 8 8 = c.toNat := by
  have hc := c.isLt
  have hlow := Nat.mod_lt s.pkg.bootstat.toNat (show 0 < 256 by decide)
  simp only [bootCause, bits, wd, BitVec.toNat_ofNat]
  omega

theorem bootCause_stew (s : State) (c : BitVec 8) : (s.bootCause c).pkg.stew = s.pkg.stew := rfl

/-- A position of the lattice with its fuses read (R18). -/
def fusedPos (m : Map LbPos) (i : Nat) : LbPos := { (mget m i).getD .reset with febad := Config.feBad i, slbad := Config.slabBad i }

theorem mget_fusedPos (m : Map LbPos) {n i : Nat} (hi : i < n) :
    ∃ m', mget ((List.range n).foldl (fun m i => mset m i (fusedPos m i)) m) i = some (fusedPos m' i) :=
  mget_foldl_mset_keys (key := fun i => i) (fun _ _ h => h) fusedPos m hi

/-- The harts of the stacks run, and have read the fuse map. -/
def fused (s : State) : State :=
  { s with lat := { s.lat with pos := (List.range 144).foldl (fun m i => mset m i (fusedPos m i)) s.lat.pos }, pkg := { s.pkg with stew := true } }

theorem exec_stackImageVerify_accepted {img : Image} (hr : s.running = true) (hi : s.imageOk img = true) :
    exec (.stackImageVerify img) s = .next (s.fused.measure 1 img) := by
  refine congrArg Host.Outcome.next ?_
  dsimp only
  rw [if_neg (by simp [hr]), if_pos hi]
  rfl

theorem exec_stackImageVerify_refused {img : Image} (hr : s.running = true) (hi : s.imageOk img = false) :
    exec (.stackImageVerify img) s = .next (s.bootCause (Config.bootCause 1)) := by
  refine congrArg Host.Outcome.next ?_
  dsimp only
  rw [if_neg (by simp [hr]), if_neg (by simp [hi])]

theorem fused_measure_pos (s : State) (img : Image) {i : Nat} (hi : i < 144) :
    ∃ q, mget (s.fused.measure 1 img).lat.pos i = some q ∧ q.febad = Config.feBad i ∧ q.slbad = Config.slabBad i := by
  obtain ⟨hlat, -, -, -⟩ := measure_frame s.fused img (m := 1) (by decide)
  obtain ⟨m, hm⟩ := mget_fusedPos s.lat.pos hi
  rw [hlat]
  simp only [fused]
  exact ⟨fusedPos m i, hm, rfl, rfl⟩

/-! ## HBM (R226, R227, R380) -/

section
variable (s) (bit : Nat)

@[simp] theorem replace_hbm : (s.replace bit).pkg.hbm = s.pkg.hbm := by
  obtain ⟨a, q, n, h, r, e⟩ := s.replace_eq bit
  rw [e]

@[simp] theorem replace_readyLat : (s.replace bit).pkg.lat = s.pkg.lat := by
  obtain ⟨a, q, n, h, r, e⟩ := s.replace_eq bit
  rw [e]

end

/-- An HBM4E stack that trains sets its READY bit; one that does not clears it, and is to be replaced. -/
theorem exec_hbmTrain {h : Nat} {ok : Bool} (hs : s.pkg.stew = true) (hd : s.pkg.dead = false) (hh : h < 8) :
    ∃ u, exec (.hbmTrain h ok []) s = .next u ∧ (∀ i, i < 8 → u.pkg.hbm.getLsbD i = if i = h then ok else s.pkg.hbm.getLsbD i) ∧
      (ok = false → u.pkg.replace.getLsbD 6 = true) := by
  refine ⟨_, congrArg Host.Outcome.next (if_neg (by simp [hs, hd, hh])), fun i hi => ?_, ?_⟩
  · cases ok
    · dsimp only
      rw [if_neg Bool.false_ne_true, replace_hbm]
      exact getLsbD_putBit s.pkg.hbm hh hi false
    · exact getLsbD_putBit s.pkg.hbm hh hi true
  · rintro rfl
    exact replace_getLsbD _ 6 (by decide)

/-! ## Links (R203, R210, R227, R236, R411) -/

section
variable {p : Nat} (v12 v20 : Bool) (dev port : Nat) (fibres : LinkFibres)

theorem linkTrain_early_iff (s : State) (p : Nat) :
    (!s.stackUp (p / 4) || bits (nget s.fab.escbase (p / 4) 0) 0 32 = 0 || s.pkg.dead || 16 ≤ p) = true ↔
      s.stackUp (p / 4) = false ∨ bits (nget s.fab.escbase (p / 4) 0) 0 32 = 0 ∨ s.pkg.dead = true ∨ 16 ≤ p := by
  simp only [Bool.or_eq_true, Bool.not_eq_true', decide_eq_true_eq, or_assoc]

/-- A link is not trained before step 3 of bring-up has been taken on its stack, nor without an escape lane, nor after a fatal error. -/
theorem exec_linkTrain_early (h : s.stackUp (p / 4) = false ∨ bits (nget s.fab.escbase (p / 4) 0) 0 32 = 0 ∨ s.pkg.dead = true ∨ 16 ≤ p) :
    exec (.linkTrain p v12 v20 dev port fibres) s = .next s :=
  congrArg Host.Outcome.next (if_pos ((linkTrain_early_iff s p).2 h))

/-- The record of a link with no common version (R380; its DETAIL: log entry 49). -/
def linkverRecord (p : Nat) : RecInfo := { cls := 4, scope := 4, cause := 0x211, agent := 11, detail := wd p }

/-- A link as training leaves it. -/
def trainedLink (s : State) (p : Nat) (v20 : Bool) (dev port : Nat) (fibres : LinkFibres) : Link :=
  let live := ((List.range 8).filter fun f => fibres.tx.testBit f).length
  let rx := BitVec.ofNat 8 fibres.rx
  { up := live != 0 && rx != 0, ver20 := v20, fibres := live, partnerDev := dev % 4096, partnerPort := port % 16,
    replays := (s.link p).replays, retrains := 0, holding := false, debt := 0, paidAt := 0, rx := rx }

theorem link_setLink_other (s : State) {q k : Nat} (x : Link) (hq : q < 16) (hk : k ≠ q) : (s.setLink q x).link k = s.link k := by
  simp only [link, setLink, nget_nset _ _ _ _ _ hq, if_neg hk]

/-- A link serves with a fibre up at each end (R411). -/
theorem trainedLink_up_iff : (s.trainedLink p v20 dev port fibres).up = true ↔
    (∃ f, f < 8 ∧ fibres.tx.testBit f = true) ∧ ∃ f, f < 8 ∧ fibres.rx.testBit f = true := by
  have hlive : (((List.range 8).filter fun f => fibres.tx.testBit f).length != 0) = true ↔ ∃ f, f < 8 ∧ fibres.tx.testBit f = true := by
    rw [bne_iff_ne, ← Nat.pos_iff_ne_zero, List.length_pos_iff_exists_mem]
    simp only [List.mem_filter, List.mem_range]
  exact (Bool.and_eq_true ..).to_iff.trans (and_congr hlive (ofNat8_ne_zero_iff _))

section
variable (hs : s.stackUp (p / 4) = true) (he : bits (nget s.fab.escbase (p / 4) 0) 0 32 ≠ 0) (hd : s.pkg.dead = false) (hp : p < 16)
include hs he hd hp

theorem linkTrain_not_early :
    ¬(!s.stackUp (p / 4) || bits (nget s.fab.escbase (p / 4) 0) 0 32 = 0 || s.pkg.dead || 16 ≤ p) = true := by
  rw [linkTrain_early_iff, hs, hd]
  rintro (h | h | h | h)
  · exact Bool.false_ne_true h.symm
  · exact he h
  · exact Bool.false_ne_true h
  · omega

theorem exec_linkTrain_trains (hv : v12 = true ∨ v20 = true) : ∃ u, exec (.linkTrain p v12 v20 dev port fibres) s = .next u ∧
    u.link p = s.trainedLink p v20 dev port fibres ∧ (∀ k, k < 16 → k ≠ p → u.link k = s.link k) ∧
    u.pkg.opt.getLsbD p = (s.trainedLink p v20 dev port fibres).up := by
  have hexec : exec (.linkTrain p v12 v20 dev port fibres) s = .next _ := congrArg Host.Outcome.next
    ((if_neg (linkTrain_not_early hs he hd hp)).trans (if_neg (by rcases hv with h | h <;> simp [h])))
  refine ⟨_, hexec, link_setLink_self s _ hp, fun k _ hk => link_setLink_other s _ hp hk, ?_⟩
  show ((s.pkg.opt &&& ~~~(BitVec.ofNat 16 (2 ^ p))) |||
    (if (s.trainedLink p v20 dev port fibres).up then BitVec.ofNat 16 (2 ^ p) else 0)).getLsbD p = _
  rw [BitVec.getLsbD_or, getLsbD_clear_bit _ hp, Bool.false_or]
  cases (s.trainedLink p v20 dev port fibres).up
  · exact BitVec.getLsbD_zero
  · exact getLsbD_bit hp

theorem exec_linkTrain_version : exec (.linkTrain p false false dev port fibres) s = .next ((s.record (linkverRecord p)).replace 5) :=
  congrArg Host.Outcome.next ((if_neg (linkTrain_not_early hs he hd hp)).trans (if_pos rfl))

end

end

/-! ## The dispatcher (R227) -/

theorem exec_dispReady_early {sb sz db rf : Word} {esc : List Word} (h : (List.range 4).all s.stackUp = false ∨ s.pkg.dead = true) :
    exec (.dispReady sb sz db rf esc) s = .next s :=
  congrArg Host.Outcome.next (if_pos (by rcases h with h | h <;> simp [h]))

/-- The dispatcher serves launch ports, and the registers that the firmware gives are set. -/
theorem exec_dispReady {sb sz db rf : Word} {esc : List Word} (hs : (List.range 4).all s.stackUp = true) (hd : s.pkg.dead = false) :
    exec (.dispReady sb sz db rf esc) s = .next { s with
      disp := { s.disp with savebase := sb &&& ~~~0xFFFF, savesz := sz },
      trans := { s.trans with dirbase := db &&& ~~~(0xFFFFF : Word), rufree := rf },
      fab := { s.fab with escbase := (esc.take 4).zipIdx.foldl (fun v e => nset v e.2 e.1) s.fab.escbase },
      pkg := { s.pkg with disp := true } } :=
  congrArg Host.Outcome.next (if_neg (by simp [hs, hd]))

/-- Four registers written in turn hold what was written. -/
theorem foldl_nset_four (v : Vector Word 4) (e0 e1 e2 e3 : Word) :
    ([e0, e1, e2, e3].take 4).zipIdx.foldl (fun v e => nset v e.2 e.1) v = #v[e0, e1, e2, e3] := by
  have hset : ([e0, e1, e2, e3].take 4).zipIdx.foldl (fun v e => nset v e.2 e.1) v = (((v.set 0 e0).set 1 e1).set 2 e2).set 3 e3 := rfl
  rw [hset]
  refine Vector.ext fun i hi => ?_
  interval_cases i <;> simp

end State

end Sys2Proof.Machine
end

section
/-! SUPPORT. The binding of a stack (R14 to R20, R223, R225, R227, R412): what the firmware does before it binds, what an APPLY that is accepted
and one that is refused leave, and the binding that the vendor's procedure writes (R16). -/

namespace Sys2Proof.Machine

namespace State
variable {s b : State} {st : Nat}

/-! ## Before the binding (R15, R227, R412) -/

/-- A stack without a retired part keeps its READY bit until its binding. -/
theorem clearRetired_unretired (h : ∀ f, f < 36 → (s.lpos st f).feret = false ∧ (s.lpos st f).slret = false) : s.clearRetired st = s := by
  have hnone : ((List.range 36).any fun f => (s.lpos st f).feret || (s.lpos st f).slret) = false :=
    List.any_eq_false.2 fun f hf => by simp [h f (List.mem_range.1 hf)]
  rw [clearRetired, hnone, Bool.false_and]
  rfl

/-- The state in which the firmware binds a stack: the stack may have lost its READY bit, and has taken its step of bring-up. -/
def toBind (s : State) (st : Nat) : State := (s.clearRetired st).took (8 + st)

theorem toBind_eq (s : State) (st : Nat) :
    ∃ ready step, s.toBind st = { s with pkg := { s.pkg with lat := ready, step3 := step } } := by
  unfold toBind clearRetired
  split
  · exact ⟨_, _, rfl⟩
  · exact ⟨_, _, rfl⟩

@[simp] theorem toBind_lat (s : State) (st : Nat) : (s.toBind st).lat = s.lat := by
  obtain ⟨_, _, h⟩ := s.toBind_eq st
  rw [h]

theorem toBind_units (s : State) (st : Nat) : (s.toBind st).lat.units = s.lat.units := by rw [toBind_lat]

@[simp] theorem toBind_dead (s : State) (st : Nat) : (s.toBind st).pkg.dead = s.pkg.dead := by
  obtain ⟨_, _, h⟩ := s.toBind_eq st
  rw [h]

@[simp] theorem toBind_lpos (s : State) (st f : Nat) : (s.toBind st).lpos st f = s.lpos st f := by rw [lpos, toBind_lat, lpos]

/-! ## APPLY (R227) -/

/-- Before the harts of the stacks run, nothing is bound. -/
theorem exec_apply_early (h : s.pkg.stew = false) (c : BindCommand) : exec (.apply c) s = .next s :=
  congrArg Host.Outcome.next (if_pos (by rw [h, Bool.not_false, Bool.or_true]))

section
variable (hst : st < 4) (hs : s.pkg.stew = true)
include hst hs

theorem apply_runs : ¬(4 ≤ st || !s.pkg.stew) = true := by
  rw [hs, decide_eq_false (by omega)]
  exact Bool.false_ne_true

/-- An owner build applies what it has written into LBPOS. -/
theorem exec_apply_owner : exec (.apply ⟨st, none⟩) s = .next ((s.toBind st).applyBinding st) :=
  congrArg Host.Outcome.next (if_neg (apply_runs hst hs))

/-- The vendor's firmware applies the binding of R16. -/
theorem exec_apply_vendor {gs : List Nat} (hb : (s.toBind st).bindVendor st gs = some b) :
    exec (.apply ⟨st, some gs⟩) s = .next (b.applyBinding st) := by
  rw [toBind] at hb
  refine congrArg Host.Outcome.next ((if_neg (apply_runs hst hs)).trans ?_)
  dsimp only
  rw [hb]

/-- A gang list that the vendor's procedure cannot bind applies nothing. -/
theorem exec_apply_gang {gs : List Nat} (hb : (s.toBind st).bindVendor st gs = none) :
    exec (.apply ⟨st, some gs⟩) s = .next (s.toBind st) := by
  rw [toBind] at hb
  refine congrArg Host.Outcome.next ((if_neg (apply_runs hst hs)).trans ?_)
  dsimp only
  rw [hb]
  rfl

end

/-! ## A binding that is accepted (R14, R17, R19, R223) -/

/-- The units of a stack, numbered in the order of its enabled positions (R14). -/
def boundUnits (s : State) (st : Nat) : List UnitBind := (s.enabled st).zipIdx.map fun (e, i) =>
  { unit := 32 * st + i, fe := e.1, slab := slab1 e.1 e.2 - 1, ganged := e.2.gang }

/-- LBSTAT of a stack that is bound (R19). -/
def boundStat (s : State) (st : Nat) : LbStat :=
  { bound := true, short := (s.enabled st).length < 32, units := (s.enabled st).length,
    ganged := ((s.enabled st).filter fun e => e.2.gang).length, code := 0 }

theorem mem_boundUnits {x : UnitBind} : x ∈ s.boundUnits st ↔ ∃ i e, (s.enabled st)[i]? = some e ∧
    ({ unit := 32 * st + i, fe := e.1, slab := slab1 e.1 e.2 - 1, ganged := e.2.gang } : UnitBind) = x := by
  rw [boundUnits, List.mem_map]
  constructor
  · rintro ⟨⟨e, i⟩, he, hx⟩
    exact ⟨i, e, List.mem_zipIdx_iff_getElem?.1 he, hx⟩
  · rintro ⟨i, e, he, hx⟩
    exact ⟨(e, i), List.mem_zipIdx_iff_getElem?.2 he, hx⟩

/-- A request to replace a part leaves the lattice and its READY bits. -/
theorem lattice_if_replace (s : State) (c : Bool) (bit : Nat) :
    (if c then s.replace bit else s).lat = s.lat ∧ (if c then s.replace bit else s).pkg.lat = s.pkg.lat := by
  cases c
  · exact ⟨rfl, rfl⟩
  · exact ⟨(noted_replace s bit).lat, replace_readyLat s bit⟩

/-- What an accepted APPLY leaves in the lattice: the units of the stack are those of the binding, and its READY bit is set. -/
theorem applyBinding_lattice (hc : s.applyCode st = 0) :
    (s.applyBinding st).lat.units = (s.lat.units.filter fun x => x.unit / 32 != st) ++ s.boundUnits st ∧
    (s.applyBinding st).lat.stat = nset s.lat.stat st (s.boundStat st) ∧
    (s.applyBinding st).pkg.lat = if s.pkg.dead then s.pkg.lat else s.pkg.lat ||| BitVec.ofNat 4 (2 ^ st) := by
  unfold applyBinding
  rw [if_neg (by simp [hc])]
  dsimp only
  split
  · obtain ⟨hfe, hfe'⟩ := lattice_if_replace _ _ 1
    obtain ⟨hslab, hslab'⟩ := lattice_if_replace _ _ 0
    rw [hfe, hfe', hslab, hslab']
    exact ⟨rfl, rfl, rfl⟩
  · exact ⟨rfl, rfl, rfl⟩

/-- A valid binding numbers the enabled positions in their order and sets the stack's READY bit. -/
theorem applyBinding_accepted (hst : st < 4) (hc : s.applyCode st = 0) (hd : s.pkg.dead = false) :
    (s.applyBinding st).pkg.lat.getLsbD st = true ∧
    (∀ i e, (s.enabled st)[i]? = some e → ∃ x ∈ (s.applyBinding st).lat.units, x.unit = 32 * st + i ∧ x.fe = e.1 ∧
      x.slab = slab1 e.1 e.2 - 1 ∧ x.ganged = e.2.gang) ∧
    (∀ x ∈ (s.applyBinding st).lat.units, x.unit / 32 = st → x.unit < 32 * st + (s.enabled st).length) ∧
    nget (s.applyBinding st).lat.stat st ⟨false, false, 0, 0, 0⟩ = s.boundStat st := by
  obtain ⟨hunits, hstat, hready⟩ := applyBinding_lattice hc
  rw [hunits, hstat, hready, hd]
  refine ⟨getLsbD_or_bit _ hst, fun i e he => ?_, fun x hx hxst => ?_, ?_⟩
  · exact ⟨_, List.mem_append_right _ (mem_boundUnits.2 ⟨i, e, he, rfl⟩), rfl, rfl, rfl, rfl⟩
  · rcases List.mem_append.1 hx with hx | hx
    · exact absurd hxst (by simpa using (List.mem_filter.1 hx).2)
    · obtain ⟨i, e, he, rfl⟩ := mem_boundUnits.1 hx
      exact Nat.add_lt_add_left (List.getElem?_eq_some_iff.1 he).1 _
  · rw [nget_nset _ _ _ _ _ hst, if_pos rfl]

/-! ## A binding that is refused (R20, R380) -/

/-- A refused binding leaves its code, and units and READY bits as they were. -/
theorem applyBinding_refused (hst : st < 4) (hc : s.applyCode st ≠ 0) :
    (s.applyBinding st).lat.units = s.lat.units ∧ (s.applyBinding st).pkg.lat = s.pkg.lat ∧
    (nget (s.applyBinding st).lat.stat st ⟨false, false, 0, 0, 0⟩).code = s.applyCode st := by
  have hcode (x : LbStat) : nget (nset s.lat.stat st x) st ⟨false, false, 0, 0, 0⟩ = x := by rw [nget_nset _ _ _ _ _ hst, if_pos rfl]
  unfold applyBinding
  rw [if_pos (by simp [hc])]
  dsimp only
  split
  · exact ⟨rfl, rfl, congrArg LbStat.code (hcode _)⟩
  · rw [record_unported _ _ (by simp) rfl]
    exact ⟨rfl, rfl, congrArg LbStat.code (hcode _)⟩

/-! ## The vendor's binding (R16) -/

/-- A position of LBPOS as the vendor's binding sets it. -/
def vendorPos (s : State) (st : Nat) (bs : List (Nat × List Nat)) (f : Nat) : LbPos :=
  match bs.find? fun x => x.1 == f with
  | some x => { s.lpos st f with en := true, gang := x.2.length == 2, psel := BitVec.ofNat 2 (x.2.headD 0 + 1 - f) }
  | none => { s.lpos st f with en := false }

theorem vendorPos_en (s : State) (st : Nat) (bs : List (Nat × List Nat)) (f : Nat) :
    (s.vendorPos st bs f).en = bs.any fun x => x.1 == f := by
  rw [← List.isSome_find?]
  unfold vendorPos
  split
  · rename_i h
    rw [h]
    rfl
  · rename_i h
    rw [h]
    rfl

theorem bindVendor_def (s : State) (st : Nat) (gs : List Nat) : s.bindVendor st gs =
    (vendorBinding (fun f => !(s.lpos st f).febad && !(s.lpos st f).feret) (fun f => !(s.lpos st f).slbad && !(s.lpos st f).slret) gs).map fun bs =>
      { s with lat := { s.lat with pos := (List.range 36).foldl (fun m f => mset m (36 * st + f) (s.vendorPos st bs f)) s.lat.pos } } := rfl

/-- The vendor's firmware writes LBPOS alone, each position of the stack by its binding. -/
theorem bindVendor_eq {gs : List Nat} (h : s.bindVendor st gs = some b) : ∃ bs pos,
    vendorBinding (fun f => !(s.lpos st f).febad && !(s.lpos st f).feret) (fun f => !(s.lpos st f).slbad && !(s.lpos st f).slret) gs = some bs ∧
    b = { s with lat := { s.lat with pos := pos } } ∧ ∀ f, f < 36 → b.lpos st f = s.vendorPos st bs f := by
  rw [bindVendor_def] at h
  obtain ⟨bs, hbs, rfl⟩ := Option.map_eq_some_iff.1 h
  refine ⟨bs, _, hbs, rfl, fun f hf => ?_⟩
  obtain ⟨_, hpos⟩ := mget_foldl_mset_keys (key := fun f => 36 * st + f) (fun _ _ h => Nat.add_left_cancel h)
    (fun _ f => s.vendorPos st bs f) s.lat.pos hf
  rw [lpos]
  dsimp only
  rw [hpos]
  rfl

/-- The enabled positions are those whose EN bit is set. -/
theorem enabled_positions (s : State) (st : Nat) : (s.enabled st).map (·.1) = (List.range 36).filter fun f => (s.lpos st f).en := by
  rw [enabled, List.filter_map, List.map_map]
  exact List.map_id _

/-- The positions that the vendor's binding enables are those that its procedure binds. -/
theorem enabled_bindVendor {bs : List (Nat × List Nat)} (h : ∀ f, f < 36 → b.lpos st f = s.vendorPos st bs f) :
    (b.enabled st).map (·.1) = (List.range 36).filter fun f => bs.any fun x => x.1 == f := by
  rw [enabled_positions]
  refine List.filter_congr fun f hf => ?_
  rw [h f (List.mem_range.1 hf), vendorPos_en]

end State

end Sys2Proof.Machine
end

section
/-! SUPPORT. The resets and the host's configuration writes (R222, R223, R225, R409): a launch that begins to end for whatever cause, by what
freeing its threads leaves of it. -/

namespace Sys2Proof.Machine

namespace State
variable {s : State} {tag status code : Nat} {l : Launch}

/-! ## The end of a launch (R54, R299) -/

theorem launch?_setLaunch_other {m : Launch} {k : Nat} (h : k ≠ m.ltag) : (s.setLaunch m).launch? k = s.launch? k := mget_mset_other _ _ _ _ h

theorem freeTwin_disp (s : State) (t : Thread) : (s.freeTwin t).disp = s.disp := by
  unfold freeTwin
  split
  · rfl
  · rfl

/-- A thread's slot is freed, and then its launch may be triggered. -/
theorem freeSlot_eq (s : State) (t : Thread) : ∃ u : State, s.freeSlot t = u.trigCheck t.ltag ∧ u.disp = s.disp := by
  refine ⟨_, rfl, List.foldlRecOn (motive := fun u : State => u.disp = s.disp) _ _ (freeTwin_disp _ _) fun u hu c _ => ?_⟩
  split
  · exact hu
  · exact hu

/-- Freeing a thread touches the entry of its launch alone, and leaves the launch's tag. -/
theorem launch?_freeSlot {t : Thread} (hl : s.launch? t.ltag = some l) :
    (∀ k, k ≠ l.ltag → (s.freeSlot t).launch? k = s.launch? k) ∧ ∃ m, (s.freeSlot t).launch? t.ltag = some m ∧ m.ltag = l.ltag := by
  obtain ⟨u, he, hu⟩ := s.freeSlot_eq t
  have hlaunch (k : Nat) : u.launch? k = s.launch? k := congrArg (fun d : Dispatcher => mget d.launches k) hu
  rw [he]
  rcases u.trigCheck_cases t.ltag with h | ⟨m, hm, h⟩ <;> rw [h]
  · exact ⟨fun k _ => hlaunch k, l, (hlaunch _).trans hl, rfl⟩
  · obtain rfl : m = l := Option.some.inj (hm.symm.trans ((hlaunch _).trans hl))
    refine ⟨fun k hk => (launch?_setLaunch_other (m := { m with trig := true }) hk).trans (hlaunch k), ?_⟩
    by_cases htag : m.ltag = t.ltag
    · exact ⟨_, launch?_setLaunch_self (m := { m with trig := true }) htag, rfl⟩
    · exact ⟨m, (launch?_setLaunch_other (m := { m with trig := true }) (Ne.symm htag)).trans hm, rfl⟩

/-- Freeing threads of a launch touches the entry of that launch alone. -/
theorem launch?_freeSlots {ts : List Thread} (hts : ∀ t ∈ ts, t.ltag = tag) (hl : s.launch? tag = some l) {k : Nat} (hk : k ≠ l.ltag) :
    (ts.foldl (fun u t => u.freeSlot t) s).launch? k = s.launch? k := by
  suffices h : (ts.foldl (fun u t => u.freeSlot t) s).launch? k = s.launch? k ∧
      ∃ m, (ts.foldl (fun u t => u.freeSlot t) s).launch? tag = some m ∧ m.ltag = l.ltag from h.1
  refine List.foldlRecOn (motive := fun u : State => u.launch? k = s.launch? k ∧ ∃ m, u.launch? tag = some m ∧ m.ltag = l.ltag) _ _
    ⟨rfl, l, hl, rfl⟩ fun u hu t ht => ?_
  obtain ⟨hsame, m, hm, htag⟩ := hu
  obtain rfl := hts t ht
  obtain ⟨hother, n, hn, hntag⟩ := launch?_freeSlot hm
  exact ⟨(hother k (htag ▸ hk)).trans hsame, n, hn, hntag.trans htag⟩

/-- A launch that begins to end: its entry says so, and every other entry is as it was. -/
theorem launch?_endLaunch (hl : s.launch? tag = some l) (he : l.ending = none) :
    (s.endLaunch tag status code).launch? l.ltag = some { l with ending := some (status, code) } ∧
    ∀ k, k ≠ l.ltag → (s.endLaunch tag status code).launch? k = s.launch? k := by
  simp only [endLaunch, hl, he, Option.isSome_none, Bool.false_eq_true, if_false]
  refine ⟨launch?_setLaunch_self (m := { l with ending := some (status, code) }) rfl, fun k hk => ?_⟩
  refine (launch?_setLaunch_other (m := { l with ending := some (status, code) }) hk).trans ?_
  exact launch?_freeSlots (fun t ht => by simpa using (List.mem_filter.1 ht).2) hl hk

/-- A launch that is absent, or ends already, is not ended again. -/
theorem endLaunch_not (h : ∀ l, s.launch? tag = some l → l.ending ≠ none) : s.endLaunch tag status code = s := by
  unfold endLaunch
  split
  · rename_i l hl
    exact if_pos (Option.isSome_iff_ne_none.2 (h l hl))
  · rfl

/-! ## FUNCTION_LEVEL_RESET (R222, R223, R409) -/

/-- The entry at `tag` is as it was, or of a launch that ends so. -/
def EndsSo (tag status code : Nat) (s u : State) : Prop :=
  u.launch? tag = s.launch? tag ∨ ∃ m, u.launch? tag = some m ∧ m.ending = some (status, code)

theorem EndsSo.trans {t u : State} (h : EndsSo tag status code s t) (h' : EndsSo tag status code t u) : EndsSo tag status code s u := by
  rcases h' with h' | h'
  · rw [EndsSo, h']
    exact h
  · exact .inr h'

theorem endsSo_endLaunch (s : State) (x : Nat) : EndsSo tag status code s (s.endLaunch x status code) := by
  by_cases h : ∃ l, s.launch? x = some l ∧ l.ending = none
  · obtain ⟨l, hl, he⟩ := h
    obtain ⟨hself, hother⟩ := launch?_endLaunch (status := status) (code := code) hl he
    by_cases htag : tag = l.ltag
    · exact .inr ⟨_, htag ▸ hself, rfl⟩
    · exact .inl (hother tag htag)
  · rw [endLaunch_not fun l hl he => h ⟨l, hl, he⟩]
    exact .inl rfl

/-- Every launch ends, with STATUS 2 and code 0 (log entry 46). -/
theorem launches_end (hl : s.launch? tag = some l) (htag : l.ltag = tag) (he : l.ending = none) :
    ∃ m, (s.disp.launches.foldl (fun u x => u.endLaunch x.1 status code) s).launch? tag = some m ∧ m.ending = some (status, code) := by
  obtain ⟨t, hst, htu⟩ := foldl_passes (R := EndsSo tag status code) (fun _ => .inl rfl) EndsSo.trans
    (fun u (x : Nat × Launch) => endsSo_endLaunch u x.1) (mem_of_mget hl) s
  have hended : ∃ m, (t.endLaunch tag status code).launch? tag = some m ∧ m.ending = some (status, code) := by
    rcases hst with h | ⟨m, hm, hme⟩
    · obtain ⟨hself, -⟩ := launch?_endLaunch (status := status) (code := code) (h.trans hl) he
      exact ⟨_, htag ▸ hself, rfl⟩
    · rw [endLaunch_not fun n hn hne => by rw [Option.some.inj (hn.symm.trans hm), hme] at hne; exact absurd hne (by simp)]
      exact ⟨m, hm, hme⟩
  rcases htu with h | h
  · rw [h]
    exact hended
  · exact h

theorem exec_functionLevelReset : ∃ u, exec .functionLevelReset s = .next u ∧ u.fab.cache = [] ∧ (∀ p, p < 8 → u.lport p = LPort.reset) ∧
    ∀ tag l, s.launch? tag = some l → l.ltag = tag → l.ending = none → ∃ m, u.launch? tag = some m ∧ m.ending = some (2, 0) := by
  refine ⟨_, rfl, rfl, fun p hp => ?_, fun tag l hl htag he => launches_end hl htag he⟩
  rw [lport, nget, dif_pos hp]
  exact Vector.getElem_replicate ..

/-! ## Configuration writes (R222, R223; log entry 66) -/

section
variable (hu : s.pkg.hostUp = true) (hw : s.hostWaits = false) {size : Nat} (v : Word)
include hu hw

theorem exec_registerWrite_power (h : bits v 0 2 = 0 ∨ bits v 0 2 = 3) : exec (.registerWrite .power size v) s =
    .next { s with host := { s.host with d3hot := decide (bits v 0 2 = 3) } } := by
  refine congrArg Host.Outcome.next ?_
  dsimp only
  rw [if_neg (by simp [hu]), if_neg (by simp [hw])]
  rcases h with h | h
  · rw [if_pos h, h]
    rfl
  · rw [if_neg (by omega), if_pos h, h]
    rfl

theorem exec_registerWrite_bar2Size (hlo : 10 ≤ v.toNat) (hhi : v.toNat ≤ 16) : exec (.registerWrite .bar2Size size v) s =
    .next { s with host := { s.host with bar2 := 2 ^ (20 + v.toNat) } } := by
  refine congrArg Host.Outcome.next ?_
  dsimp only
  rw [if_neg (by simp [hu]), if_neg (by simp [hw]), if_pos (by simp [hlo, hhi])]

theorem exec_registerWrite_errors : exec (.registerWrite .errors size v) s =
    .next { s with host := { s.host with aer := s.host.aer &&& ~~~(v.setWidth 32) } } := by
  refine congrArg Host.Outcome.next ?_
  dsimp only
  rw [if_neg (by simp [hu]), if_neg (by simp [hw])]

end

end State

end Sys2Proof.Machine
end

section
/-! The statement about bring-up, binding and the resets, O42 (R14 to R20, R222 to R230, R236, R380, R399, R409, R411, R412). -/

namespace Sys2Proof.Machine

namespace State
variable {s r b : State} {st : Nat}

/-- An APPLY that binds as `b` has it: bound by its numbers with the READY bit set, or refused with its code, as the statement has it. -/
theorem applies_of_exec {gangs : Option (List Nat)} (hst : st < 4) (hexec : exec (.apply ⟨st, gangs⟩) s = .next (b.applyBinding st))
    (hdead : b.pkg.dead = s.pkg.dead) (hunits : b.lat.units = s.lat.units) (hready : b.pkg.lat = r.pkg.lat) :
    (b.applyCode st = 0 → s.pkg.dead = false → ∃ u, exec (.apply ⟨st, gangs⟩) s = .next u ∧ u.pkg.lat.getLsbD st = true ∧
      (∀ i e, (b.enabled st)[i]? = some e → ∃ x ∈ u.lat.units, x.unit = 32 * st + i ∧ x.fe = e.1 ∧ x.slab = slab1 e.1 e.2 - 1 ∧
        x.ganged = e.2.gang) ∧
      (∀ x ∈ u.lat.units, x.unit / 32 = st → x.unit < 32 * st + (b.enabled st).length) ∧
      (nget u.lat.stat st ⟨false, false, 0, 0, 0⟩).units = (b.enabled st).length ∧
      (nget u.lat.stat st ⟨false, false, 0, 0, 0⟩).short = decide ((b.enabled st).length < 32)) ∧
    (b.applyCode st ≠ 0 → ∃ u, exec (.apply ⟨st, gangs⟩) s = .next u ∧ u.lat.units = s.lat.units ∧ u.pkg.lat = r.pkg.lat ∧
      (nget u.lat.stat st ⟨false, false, 0, 0, 0⟩).code = b.applyCode st) := by
  refine ⟨fun hc hd => ?_, fun hc => ?_⟩
  · obtain ⟨hbit, hnumbered, hno, hstat⟩ := applyBinding_accepted hst hc (hdead.trans hd)
    exact ⟨_, hexec, hbit, hnumbered, hno, congrArg LbStat.units hstat, congrArg LbStat.short hstat⟩
  · obtain ⟨hu, hl, hcode⟩ := applyBinding_refused hst hc
    exact ⟨_, hexec, hu.trans hunits, hl.trans hready, hcode⟩

end State

/-- Settles O42: each event of bring-up by what it waits for and what it brings up, APPLY by the code of its binding, and the resets by what they
leave. -/
theorem bringUpAndBinding : Obligations.BringUpAndBinding := by
  refine ⟨fun s a b img h p dev port fibres ok v12 v20 sb sz db rf => ?bringUp, fun s st hst => ?binding⟩
  case bringUp =>
    refine ⟨s.imageOk_iff, ?slotA, ?slotB, fun ha hb => ⟨_, State.exec_boot_recovery ha hb, rfl, rfl, rfl⟩, State.exec_hostLinkTrain,
      fun hr hi => ⟨_, State.exec_stackImageVerify_accepted hr hi, State.measure_measures s.fused img (by decide), ?stew,
        fun i hi => State.fused_measure_pos s img hi⟩,
      fun hr hi => ⟨_, State.exec_stackImageVerify_refused hr hi, s.bootCause_stew _, s.bits_bootCause _⟩, State.exec_hbmTrain,
      State.exec_linkTrain_early v12 v20 dev port fibres, fun hs he hd hp => ⟨fun hv => ?trains, ?version⟩, State.exec_dispReady_early,
      fun hs hd e0 e1 e2 e3 => ?ready⟩
    case slotA =>
      rintro x rfl ⟨y, hy, hok⟩
      obtain rfl := Option.some.inj hy
      exact ⟨_, State.exec_boot_a b hok, s.booted_measures 0 x⟩
    case slotB =>
      rintro x rfl ha ⟨y, hy, hok⟩
      obtain rfl := Option.some.inj hy
      exact ⟨_, State.exec_boot_b ha hok, s.booted_measures 1 x⟩
    case stew =>
      obtain ⟨-, hstew, -, -⟩ := s.fused.measure_frame img (m := 1) (by decide)
      exact hstew
    case trains =>
      obtain ⟨u, hexec, hlink, hothers, hopt⟩ := State.exec_linkTrain_trains v12 v20 dev port fibres hs he hd hp hv
      refine ⟨u, hexec, ?_⟩
      rw [hlink]
      exact ⟨rfl, rfl, State.trainedLink_up_iff v20 dev port fibres, rfl, hothers, hopt⟩
    case version =>
      rintro rfl rfl
      obtain ⟨hfab, -, hrec⟩ := s.record_replace (r := State.linkverRecord p) (by simp [State.linkverRecord]) rfl 5
      exact ⟨_, State.exec_linkTrain_version dev port fibres hs he hd hp, congrArg (fun f : Fabric => nget f.links p Link.reset) hfab,
        State.replace_getLsbD _ 5 (by decide), hrec⟩
    case ready => exact ⟨_, State.exec_dispReady hs hd, rfl, rfl, rfl, rfl, rfl, State.foldl_nset_four ..⟩
  case binding =>
    refine ⟨State.clearRetired_unretired, fun hs gangs => State.exec_apply_early hs _, fun hs => ⟨?owner, fun gs => ⟨fun b hb => ?vendor, ?gang⟩⟩,
      ⟨_, rfl, rfl, rfl, rfl, rfl, rfl, rfl, rfl, rfl, rfl, rfl, rfl, rfl⟩,
      fun hu hw v => ⟨State.exec_registerWrite_power hu hw v, State.exec_registerWrite_bar2Size hu hw v, State.exec_registerWrite_errors hu hw v⟩,
      State.exec_functionLevelReset⟩
    case owner =>
      exact State.applies_of_exec hst (State.exec_apply_owner hst hs) (s.toBind_dead st) (s.toBind_units st) rfl
    case vendor =>
      have hexec := State.exec_apply_vendor hst hs hb
      obtain ⟨bs, pos, hbs, rfl, hpos⟩ := State.bindVendor_eq (s := s.toBind st) hb
      simp only [State.toBind_lpos] at hbs
      exact ⟨State.applies_of_exec hst hexec (s.toBind_dead st) (s.toBind_units st) rfl, bs, hbs, State.enabled_bindVendor hpos⟩
    case gang => exact State.exec_apply_gang hst hs

end Sys2Proof.Machine
end

section
/-! SUPPORT. The fields of the words that the encoder writes (R239 to R243), and the formats of the decoder on them. -/

namespace Sys2Proof

section Low
variable (h : BitVec 22) (maj : BitVec 7) (s : Bool) (len : BitVec 2)

theorem len_low : (h ++ encLow maj s len : BitVec (22 + 10)).extractLsb' 0 2 = len := by
  unfold encLow
  iterate 2 rw [BitVec.extractLsb'_append_eq_of_add_le (by decide)]
  exact BitVec.extractLsb'_eq_self

theorem majOf_low : majOf (h ++ encLow maj s len : BitVec (22 + 10)) = maj.toNat := by
  unfold majOf encLow
  rw [BitVec.extractLsb'_append_eq_of_add_le (by decide)]
  iterate 2 rw [BitVec.extractLsb'_append_eq_of_le (by decide)]
  rw [BitVec.extractLsb'_eq_self]

theorem markOf_low : markOf (h ++ encLow maj s len : BitVec (22 + 10)) = s := by
  unfold markOf encLow
  rw [BitVec.getLsbD_append, if_pos (by decide), BitVec.getLsbD_append, if_neg (by decide), BitVec.getLsbD_append,
    if_pos (by decide)]
  simp

end Low

/-! A field that lies inside another one. -/

theorem extract_inside (w : W32) (p n k m : Nat) (h : k + m ≤ n) :
    w.extractLsb' (p + k) m = (w.extractLsb' p n).extractLsb' k m := by
  apply BitVec.eq_of_getLsbD_eq
  intro i hi
  simp only [BitVec.getLsbD_extractLsb', hi, decide_true, Bool.true_and, Nat.add_assoc, decide_eq_true (show k + i < n by omega)]

theorem bit_inside (w : W32) (p n k : Nat) (h : k < n) : w.getLsbD (p + k) = (w.extractLsb' p n).getLsbD k := by
  simp only [BitVec.getLsbD_extractLsb', decide_eq_true h, Bool.true_and]

section RRR
variable (x : Bool) (b a d maj : BitVec 7) (s : Bool) (len : BitVec 2)
@[simp] theorem len_encRRR : (encRRR x b a d maj s len).extractLsb' 0 2 = len := len_low _ maj s len
@[simp] theorem majOf_encRRR : majOf (encRRR x b a d maj s len) = maj.toNat := majOf_low _ maj s len
@[simp] theorem markOf_encRRR : markOf (encRRR x b a d maj s len) = s := markOf_low _ maj s len
@[simp] theorem fX_encRRR : fX (encRRR x b a d maj s len) = x := by
  unfold fX encRRR
  iterate 4 rw [BitVec.getLsbD_append, if_neg (by decide)]
  simp
@[simp] theorem fB_encRRR : fB (encRRR x b a d maj s len) = b := by
  unfold fB encRRR
  iterate 3 rw [BitVec.extractLsb'_append_eq_of_le (by decide)]
  rw [BitVec.extractLsb'_append_eq_of_add_le (by decide), BitVec.extractLsb'_eq_self]
@[simp] theorem fA_encRRR : fA (encRRR x b a d maj s len) = a := by
  unfold fA encRRR
  iterate 2 rw [BitVec.extractLsb'_append_eq_of_le (by decide)]
  rw [BitVec.extractLsb'_append_eq_of_add_le (by decide), BitVec.extractLsb'_eq_self]
@[simp] theorem fD_encRRR : fD (encRRR x b a d maj s len) = d := by
  unfold fD encRRR
  rw [BitVec.extractLsb'_append_eq_of_le (by decide)]
  rw [BitVec.extractLsb'_append_eq_of_add_le (by decide), BitVec.extractLsb'_eq_self]
/-- BITS: FUNC, the width and the zero bits of B (R267). -/
@[simp] theorem bitsFn_encRRR : (encRRR x b a d maj s len).extractLsb' 24 3 = b.extractLsb' 0 3 := by
  rw [extract_inside _ 24 7 0 3 (by decide)]
  exact congrArg _ (fB_encRRR ..)
@[simp] theorem bitsWidth_encRRR : (encRRR x b a d maj s len).extractLsb' 27 2 = b.extractLsb' 3 2 := by
  rw [extract_inside _ 24 7 3 2 (by decide)]
  exact congrArg _ (fB_encRRR ..)
@[simp] theorem bitsZero_encRRR : (encRRR x b a d maj s len).extractLsb' 29 2 = b.extractLsb' 5 2 := by
  rw [extract_inside _ 24 7 5 2 (by decide)]
  exact congrArg _ (fB_encRRR ..)
end RRR

section RRI
variable (i : BitVec 8) (a d maj : BitVec 7) (s : Bool) (len : BitVec 2)
@[simp] theorem len_encRRI : (encRRI i a d maj s len).extractLsb' 0 2 = len := len_low _ maj s len
@[simp] theorem majOf_encRRI : majOf (encRRI i a d maj s len) = maj.toNat := majOf_low _ maj s len
@[simp] theorem markOf_encRRI : markOf (encRRI i a d maj s len) = s := markOf_low _ maj s len
@[simp] theorem fI_encRRI : fI (encRRI i a d maj s len) = i := by
  unfold fI encRRI
  iterate 3 rw [BitVec.extractLsb'_append_eq_of_le (by decide)]
  exact BitVec.extractLsb'_eq_self
@[simp] theorem fA_encRRI : fA (encRRI i a d maj s len) = a := by
  unfold fA encRRI
  iterate 2 rw [BitVec.extractLsb'_append_eq_of_le (by decide)]
  rw [BitVec.extractLsb'_append_eq_of_add_le (by decide), BitVec.extractLsb'_eq_self]
@[simp] theorem fD_encRRI : fD (encRRI i a d maj s len) = d := by
  unfold fD encRRI
  rw [BitVec.extractLsb'_append_eq_of_le (by decide)]
  rw [BitVec.extractLsb'_append_eq_of_add_le (by decide), BitVec.extractLsb'_eq_self]
/-- The shift count, port or index in the low six bits of imm8, and the bits above it. -/
@[simp] theorem immLow_encRRI : (encRRI i a d maj s len).extractLsb' 24 6 = i.extractLsb' 0 6 := by
  rw [extract_inside _ 24 8 0 6 (by decide)]
  exact congrArg _ (fI_encRRI ..)
@[simp] theorem immTop_encRRI : (encRRI i a d maj s len).extractLsb' 30 2 = i.extractLsb' 6 2 := by
  rw [extract_inside _ 24 8 6 2 (by decide)]
  exact congrArg _ (fI_encRRI ..)
@[simp] theorem immBit6_encRRI : (encRRI i a d maj s len).getLsbD 30 = i.getLsbD 6 := by
  rw [bit_inside _ 24 8 6 (by decide)]
  exact congrArg (BitVec.getLsbD · 6) (fI_encRRI ..)
@[simp] theorem fX_encRRI : fX (encRRI i a d maj s len) = i.getLsbD 7 := by
  unfold fX
  rw [bit_inside _ 24 8 7 (by decide)]
  exact congrArg (BitVec.getLsbD · 7) (fI_encRRI ..)
end RRI

section M
variable (i : BitVec 4) (rx sx : Bool) (sz : BitVec 2) (a d maj : BitVec 7) (s : Bool) (len : BitVec 2)
@[simp] theorem len_encM : (encM i rx sx sz a d maj s len).extractLsb' 0 2 = len := len_low _ maj s len
@[simp] theorem majOf_encM : majOf (encM i rx sx sz a d maj s len) = maj.toNat := majOf_low _ maj s len
@[simp] theorem markOf_encM : markOf (encM i rx sx sz a d maj s len) = s := markOf_low _ maj s len
@[simp] theorem fImm4_encM : fImm4 (encM i rx sx sz a d maj s len) = i := by
  unfold fImm4 encM
  iterate 6 rw [BitVec.extractLsb'_append_eq_of_le (by decide)]
  exact BitVec.extractLsb'_eq_self
@[simp] theorem fRX_encM : fRX (encM i rx sx sz a d maj s len) = rx := by
  unfold fRX encM
  iterate 5 rw [BitVec.getLsbD_append, if_neg (by decide)]
  rw [BitVec.getLsbD_append, if_pos (by decide)]
  simp
@[simp] theorem fSX_encM : fSX (encM i rx sx sz a d maj s len) = sx := by
  unfold fSX encM
  iterate 4 rw [BitVec.getLsbD_append, if_neg (by decide)]
  rw [BitVec.getLsbD_append, if_pos (by decide)]
  simp
@[simp] theorem fSZ_encM : fSZ (encM i rx sx sz a d maj s len) = sz := by
  unfold fSZ encM
  iterate 3 rw [BitVec.extractLsb'_append_eq_of_le (by decide)]
  rw [BitVec.extractLsb'_append_eq_of_add_le (by decide), BitVec.extractLsb'_eq_self]
@[simp] theorem fA_encM : fA (encM i rx sx sz a d maj s len) = a := by
  unfold fA encM
  iterate 2 rw [BitVec.extractLsb'_append_eq_of_le (by decide)]
  rw [BitVec.extractLsb'_append_eq_of_add_le (by decide), BitVec.extractLsb'_eq_self]
@[simp] theorem fD_encM : fD (encM i rx sx sz a d maj s len) = d := by
  unfold fD encM
  rw [BitVec.extractLsb'_append_eq_of_le (by decide)]
  rw [BitVec.extractLsb'_append_eq_of_add_le (by decide), BitVec.extractLsb'_eq_self]
/-- STQ has the register number of q in the low two bits of D, the others zero (R282). -/
@[simp] theorem qOf_encM : (encM i rx sx sz a d maj s len).extractLsb' 10 2 = d.extractLsb' 0 2 := by
  rw [extract_inside _ 10 7 0 2 (by decide)]
  exact congrArg _ (fD_encM ..)
@[simp] theorem qZero_encM : (encM i rx sx sz a d maj s len).extractLsb' 12 5 = d.extractLsb' 2 5 := by
  rw [extract_inside _ 10 7 2 5 (by decide)]
  exact congrArg _ (fD_encM ..)
end M

section CMP
variable (x : Bool) (b a : BitVec 7) (k : BitVec 2) (c : BitVec 3) (maj : BitVec 7) (s : Bool) (len : BitVec 2)
@[simp] theorem len_encCMP : (encCMP x b a k c maj s len).extractLsb' 0 2 = len := len_low _ maj s len
@[simp] theorem majOf_encCMP : majOf (encCMP x b a k c maj s len) = maj.toNat := majOf_low _ maj s len
@[simp] theorem markOf_encCMP : markOf (encCMP x b a k c maj s len) = s := markOf_low _ maj s len
@[simp] theorem fX_encCMP : fX (encCMP x b a k c maj s len) = x := by
  unfold fX encCMP
  iterate 6 rw [BitVec.getLsbD_append, if_neg (by decide)]
  simp
@[simp] theorem fB_encCMP : fB (encCMP x b a k c maj s len) = b := by
  unfold fB encCMP
  iterate 5 rw [BitVec.extractLsb'_append_eq_of_le (by decide)]
  rw [BitVec.extractLsb'_append_eq_of_add_le (by decide), BitVec.extractLsb'_eq_self]
@[simp] theorem fA_encCMP : fA (encCMP x b a k c maj s len) = a := by
  unfold fA encCMP
  iterate 4 rw [BitVec.extractLsb'_append_eq_of_le (by decide)]
  rw [BitVec.extractLsb'_append_eq_of_add_le (by decide), BitVec.extractLsb'_eq_self]
@[simp] theorem zero_encCMP : (encCMP x b a k c maj s len).extractLsb' 15 2 = 0 := by
  unfold encCMP
  iterate 3 rw [BitVec.extractLsb'_append_eq_of_le (by decide)]
  rw [BitVec.extractLsb'_append_eq_of_add_le (by decide), BitVec.extractLsb'_eq_self]
@[simp] theorem skip_encCMP : (encCMP x b a k c maj s len).extractLsb' 13 2 = k := by
  unfold encCMP
  iterate 2 rw [BitVec.extractLsb'_append_eq_of_le (by decide)]
  rw [BitVec.extractLsb'_append_eq_of_add_le (by decide), BitVec.extractLsb'_eq_self]
@[simp] theorem cond_encCMP : (encCMP x b a k c maj s len).extractLsb' 10 3 = c := by
  unfold encCMP
  rw [BitVec.extractLsb'_append_eq_of_le (by decide)]
  rw [BitVec.extractLsb'_append_eq_of_add_le (by decide), BitVec.extractLsb'_eq_self]
end CMP

section BR
variable (o : BitVec 22) (maj : BitVec 7) (s : Bool) (len : BitVec 2)
@[simp] theorem len_encBR : (encBR o maj s len).extractLsb' 0 2 = len := len_low _ maj s len
@[simp] theorem majOf_encBR : majOf (encBR o maj s len) = maj.toNat := majOf_low _ maj s len
@[simp] theorem markOf_encBR : markOf (encBR o maj s len) = s := markOf_low _ maj s len
@[simp] theorem off_encBR : (encBR o maj s len).extractLsb' 10 22 = o := by
  unfold encBR
  rw [BitVec.extractLsb'_append_eq_of_le (by decide)]
  exact BitVec.extractLsb'_eq_self
end BR

section LP
variable (o : BitVec 15) (d maj : BitVec 7) (s : Bool)
@[simp] theorem len_encLP : (encLP o d maj s).extractLsb' 0 2 = 0 := len_low _ maj s 0
@[simp] theorem majOf_encLP : majOf (encLP o d maj s) = maj.toNat := majOf_low _ maj s 0
@[simp] theorem markOf_encLP : markOf (encLP o d maj s) = s := markOf_low _ maj s 0
@[simp] theorem off_encLP : (encLP o d maj s).extractLsb' 17 15 = o := by
  unfold encLP
  iterate 2 rw [BitVec.extractLsb'_append_eq_of_le (by decide)]
  exact BitVec.extractLsb'_eq_self
@[simp] theorem fD_encLP : fD (encLP o d maj s) = d := by
  unfold fD encLP
  rw [BitVec.extractLsb'_append_eq_of_le (by decide)]
  rw [BitVec.extractLsb'_append_eq_of_add_le (by decide), BitVec.extractLsb'_eq_self]
end LP

section SY
variable (i : BitVec 8) (a : BitVec 7) (n : BitVec 3) (maj : BitVec 7) (s : Bool)
@[simp] theorem len_encSY : (encSY i a n maj s).extractLsb' 0 2 = 0 := len_low _ maj s 0
@[simp] theorem majOf_encSY : majOf (encSY i a n maj s) = maj.toNat := majOf_low _ maj s 0
@[simp] theorem markOf_encSY : markOf (encSY i a n maj s) = s := markOf_low _ maj s 0
@[simp] theorem fI_encSY : fI (encSY i a n maj s) = i := by
  unfold fI encSY
  iterate 4 rw [BitVec.extractLsb'_append_eq_of_le (by decide)]
  exact BitVec.extractLsb'_eq_self
@[simp] theorem fA_encSY : fA (encSY i a n maj s) = a := by
  unfold fA encSY
  iterate 3 rw [BitVec.extractLsb'_append_eq_of_le (by decide)]
  rw [BitVec.extractLsb'_append_eq_of_add_le (by decide), BitVec.extractLsb'_eq_self]
@[simp] theorem zero_encSY : (encSY i a n maj s).extractLsb' 13 4 = 0 := by
  unfold encSY
  iterate 2 rw [BitVec.extractLsb'_append_eq_of_le (by decide)]
  rw [BitVec.extractLsb'_append_eq_of_add_le (by decide), BitVec.extractLsb'_eq_self]
@[simp] theorem sem_encSY : (encSY i a n maj s).extractLsb' 10 3 = n := by
  unfold encSY
  rw [BitVec.extractLsb'_append_eq_of_le (by decide)]
  rw [BitVec.extractLsb'_append_eq_of_add_le (by decide), BitVec.extractLsb'_eq_self]
/-- TRAP and SYSC have nothing but a code in imm8 (R314, R317). -/
@[simp] theorem codeOnly_encSY : (encSY i 0 0 maj s).extractLsb' 10 14 = 0 := by
  rw [← BitVec.extractLsb'_append_extractLsb'_eq_extractLsb' (start₂ := 17) (start₁ := 10) (len₁ := 7) (len₂ := 7) rfl,
    ← BitVec.extractLsb'_append_extractLsb'_eq_extractLsb' (start₂ := 13) (start₁ := 10) (len₁ := 3) (len₂ := 4) rfl,
    zero_encSY, sem_encSY, show (encSY i 0 0 maj s).extractLsb' 17 7 = 0 from fA_encSY ..]
  rfl
end SY

section QM
variable (q : BitVec 2) (d maj : BitVec 7) (s : Bool)
@[simp] theorem len_encQM : (encQM q d maj s).extractLsb' 0 2 = 0 := len_low _ maj s 0
@[simp] theorem majOf_encQM : majOf (encQM q d maj s) = maj.toNat := majOf_low _ maj s 0
@[simp] theorem markOf_encQM : markOf (encQM q d maj s) = s := markOf_low _ maj s 0
@[simp] theorem zero_encQM : (encQM q d maj s).extractLsb' 19 13 = 0 := by
  unfold encQM
  iterate 2 rw [BitVec.extractLsb'_append_eq_of_le (by decide)]
  rw [BitVec.extractLsb'_append_eq_of_le (by decide)]
  exact BitVec.extractLsb'_eq_self
@[simp] theorem q_encQM : (encQM q d maj s).extractLsb' 17 2 = q := by
  unfold encQM
  iterate 2 rw [BitVec.extractLsb'_append_eq_of_le (by decide)]
  rw [BitVec.extractLsb'_append_eq_of_add_le (by decide), BitVec.extractLsb'_eq_self]
@[simp] theorem fD_encQM : fD (encQM q d maj s) = d := by
  unfold fD encQM
  rw [BitVec.extractLsb'_append_eq_of_le (by decide)]
  rw [BitVec.extractLsb'_append_eq_of_add_le (by decide), BitVec.extractLsb'_eq_self]
end QM

/-! ### Words 1 and 2, the literal, and the operands -/

section Ext
variable (n c : BitVec 7) (sat : Bool) (csem : BitVec 3) (cen : Bool) (dsem : BitVec 3) (func : BitVec 8)
  (shape : BitVec 20) (fmt : BitVec 8) (fsrc : Bool) (rm : BitVec 3)

@[simp] theorem zero_encExt1 : (encExt1 n c sat csem cen dsem func).extractLsb' 30 2 = 0 := by
  unfold encExt1
  iterate 7 rw [BitVec.extractLsb'_append_eq_of_le (by decide)]
  exact BitVec.extractLsb'_eq_self

@[simp] theorem ext12_enc : ext12 (encExt1 n c sat csem cen dsem func) (encExt2 shape fmt fsrc rm) =
    { n := n, c := c, sat := sat, csem := csem, cen := cen, dsem := dsem, func := func, shape := shape, fmt := fmt,
      fsrc := fsrc, rm := rm } := by
  unfold ext12 encExt1 encExt2
  congr 1
  · iterate 6 rw [BitVec.extractLsb'_append_eq_of_le (by decide)]
    rw [BitVec.extractLsb'_append_eq_of_add_le (by decide), BitVec.extractLsb'_eq_self]
  · iterate 5 rw [BitVec.extractLsb'_append_eq_of_le (by decide)]
    rw [BitVec.extractLsb'_append_eq_of_add_le (by decide), BitVec.extractLsb'_eq_self]
  · iterate 4 rw [BitVec.getLsbD_append, if_neg (by decide)]
    rw [BitVec.getLsbD_append, if_pos (by decide)]
    simp
  · iterate 3 rw [BitVec.extractLsb'_append_eq_of_le (by decide)]
    rw [BitVec.extractLsb'_append_eq_of_add_le (by decide), BitVec.extractLsb'_eq_self]
  · iterate 2 rw [BitVec.getLsbD_append, if_neg (by decide)]
    rw [BitVec.getLsbD_append, if_pos (by decide)]
    simp
  · rw [BitVec.extractLsb'_append_eq_of_le (by decide)]
    rw [BitVec.extractLsb'_append_eq_of_add_le (by decide), BitVec.extractLsb'_eq_self]
  · rw [BitVec.extractLsb'_append_eq_of_add_le (by decide), BitVec.extractLsb'_eq_self]
  · iterate 3 rw [BitVec.extractLsb'_append_eq_of_le (by decide)]
    exact BitVec.extractLsb'_eq_self
  · iterate 2 rw [BitVec.extractLsb'_append_eq_of_le (by decide)]
    rw [BitVec.extractLsb'_append_eq_of_add_le (by decide), BitVec.extractLsb'_eq_self]
  · rw [BitVec.getLsbD_append, if_neg (by decide), BitVec.getLsbD_append, if_pos (by decide)]
    simp
  · rw [BitVec.extractLsb'_append_eq_of_add_le (by decide), BitVec.extractLsb'_eq_self]
end Ext

@[simp] theorem litOf_halves (l : Word) : litOf (l.extractLsb' 0 32) (l.extractLsb' 32 32) = l :=
  (BitVec.extractLsb'_append_extractLsb'_eq_extractLsb' rfl).trans BitVec.extractLsb'_eq_self

@[simp] theorem operand?_enc (r : Operand) : operand? r.enc = some r := by
  cases r with
  | main i => revert i; decide
  | opf i => revert i; decide
  | lat => decide

@[simp] theorem opnd_enc (r : Operand) (word : Nat) (k : Operand → Dec) : opnd r.enc word k = k r := by
  simp [opnd]

@[simp] theorem need_true (sub word : Nat) (k : Dec) : need true sub word k = k := rfl

theorem checked_of_legal {i : Instr} (h : i.illegal = none) : checked i = .ok i := by
  simp [checked, h]

theorem Instr.legal_of_wf {i : Instr} (h : i.wf = true) : i.illegal = none := by
  simp only [Instr.wf, Bool.and_eq_true, Option.isNone_iff_eq_none] at h
  exact h.2

/-! The decoders of the formats on the words of their own format. -/

section Formats
variable {x : Bool} {d a b : Operand} {maj : BitVec 7} {s : Bool} {len : BitVec 2}

@[simp] theorem decRRR_enc (k : Bool → Operand → Operand → Operand → Instr) :
    decRRR true (encRRR x b.enc a.enc d.enc maj s len) k = checked (k x d a b) := by
  simp [decRRR]

@[simp] theorem decRRR_enc_noX (free : Bool) (k : Bool → Operand → Operand → Operand → Instr) :
    decRRR free (encRRR false b.enc a.enc d.enc maj s len) k = checked (k false d a b) := by
  simp [decRRR]

@[simp] theorem decRR_enc (k : Bool → Operand → Operand → Instr) :
    decRR (encRRR x 0 a.enc d.enc maj s len) k = checked (k x d a) := by
  simp [decRR]

@[simp] theorem decA_enc (k : Operand → Instr) : decA (encRRR false 0 a.enc 0 maj s len) k = checked (k a) := by
  simp [decA]

@[simp] theorem decRRI_enc (i : BitVec 8) (k : BitVec 8 → Operand → Operand → Instr) :
    decRRI (encRRI i a.enc d.enc maj s len) k = checked (k i d a) := by
  simp [decRRI]

@[simp] theorem decSY_enc (i : BitVec 8) (n : BitVec 3) (k : BitVec 3 → BitVec 8 → Operand → Instr) :
    decSY (encSY i a.enc n maj s) k = checked (k n i a) := by
  simp [decSY]

@[simp] theorem decZ_enc (i : Instr) : decZ (encBR 0 maj s len) i = checked i := by
  simp [decZ]

theorem decode_one {w : W32} (hm : majOf w ≠ 0x7F) (hl : w.extractLsb' 0 2 = 0) : decode [w] = decodeOne w := by
  simp [decode, hm, hl]
theorem decode_lit {w : W32} (l : Word) (hm : majOf w ≠ 0x7F) (hl : w.extractLsb' 0 2 = 2) :
    decode (w :: encLit l) = decodeLit w l := by
  simp [decode, encLit, hm, hl]
theorem decode_ext {w w1 w2 : W32} (hm : majOf w ≠ 0x7F) (hl : w.extractLsb' 0 2 = 1) :
    decode [w, w1, w2] = decodeExt w w1 w2 := by
  simp [decode, hm, hl]
theorem decode_extLit {w w1 w2 : W32} (l : Word) (hm : majOf w ≠ 0x7F) (hl : w.extractLsb' 0 2 = 3) :
    decode ([w, w1, w2] ++ encLit l) = decodeExtLit w w1 w2 l := by
  simp [decode, encLit, hm, hl]
end Formats

end Sys2Proof
end

section
/-! SUPPORT. One-word instructions decode to themselves, but for the checks on their field values. -/

namespace Sys2Proof

/-- The words of an instruction decode to it, but for the checks on its field values. -/
def RoundTrips (i : Instr) : Prop := decode (encode i) = checked i

theorem toNat_ne_ill {m : BitVec 7} (h : m ≠ 0x7F) : m.toNat ≠ 0x7F := fun he => h (BitVec.eq_of_toNat_eq he)

theorem need_eq {ok : Bool} {sub word : Nat} {k r : Dec} (h : ok = true) (hk : k = r) : need ok sub word k = r := by
  rw [h, need_true, hk]
theorem opnd_eq {f : BitVec 7} {word : Nat} {k : Operand → Dec} {r : Dec} {o : Operand} (h : f = o.enc) (hk : k o = r) :
    opnd f word k = r := by
  rw [h, opnd_enc, hk]

section Pieces
variable {p q : Nat} (hi : BitVec p) (lo : BitVec q)
theorem extract_lowPiece : (hi ++ lo).extractLsb' 0 q = lo := by
  rw [BitVec.extractLsb'_append_eq_of_add_le (by omega), BitVec.extractLsb'_eq_self]
theorem extract_highPiece : (hi ++ lo).extractLsb' q p = hi := by
  rw [BitVec.extractLsb'_append_eq_of_le (Nat.le_refl q), Nat.sub_self, BitVec.extractLsb'_eq_self]
end Pieces

theorem roundTrips_one {i : Instr} {w : W32} {m : BitVec 7} (he : encode i = [w]) (hm : majOf w = m.toNat)
    (hl : w.extractLsb' 0 2 = 0) (hn : m ≠ 0x7F) (hd : decodeOne w = checked i) : RoundTrips i := by
  rw [RoundTrips, he, decode_one (hm ▸ toNat_ne_ill hn) hl, hd]

section Flag
variable (f : Bool) (c : BitVec 6)
/-- The flag that stands above a count of six bits, and the zero bit above the flag. -/
theorem flagBit : ((0 : BitVec 1) ++ BitVec.ofBool f ++ c).getLsbD 6 = f := by
  rw [BitVec.getLsbD_append, if_neg (by decide), BitVec.getLsbD_append, if_pos (by decide)]
  simp
theorem flagBit_top : ((0 : BitVec 1) ++ BitVec.ofBool f ++ c).getLsbD 7 = false := by
  rw [BitVec.getLsbD_append, if_neg (by decide), BitVec.getLsbD_append, if_neg (by decide)]
  simp
end Flag

section Bits
variable (w : BitVec 2) (fn : BitVec 3)
theorem bitsFn_append : ((0 : BitVec 2) ++ w ++ fn : BitVec 7).extractLsb' 0 3 = fn := by
  rw [BitVec.extractLsb'_append_eq_of_add_le (by decide), BitVec.extractLsb'_eq_self]
theorem bitsWidth_append : ((0 : BitVec 2) ++ w ++ fn : BitVec 7).extractLsb' 3 2 = w := by
  rw [BitVec.extractLsb'_append_eq_of_le (by decide), BitVec.extractLsb'_append_eq_of_add_le (by decide),
    BitVec.extractLsb'_eq_self]
theorem bitsZero_append : ((0 : BitVec 2) ++ w ++ fn : BitVec 7).extractLsb' 5 2 = 0 := by
  iterate 2 rw [BitVec.extractLsb'_append_eq_of_le (by decide)]
  exact BitVec.extractLsb'_eq_self
end Bits

theorem roundTrips_shli (s : Bool) (c : BitVec 6) (d a : Operand) : RoundTrips (.shli s c d a) := by
  refine roundTrips_one rfl (majOf_encRRI ..) (len_encRRI ..) (by decide) ?_
  rw [decodeOne, majOf_encRRI, markOf_encRRI]
  refine need_eq (by rw [immTop_encRRI, extract_highPiece (0 : BitVec 2) c]; rfl) ((decRRI_enc _ _).trans ?_)
  rw [immLow_encRRI, extract_lowPiece (0 : BitVec 2) c]


theorem roundTrips_roti (s : Bool) (c : BitVec 6) (d a : Operand) : RoundTrips (.roti s c d a) := by
  refine roundTrips_one rfl (majOf_encRRI ..) (len_encRRI ..) (by decide) ?_
  rw [decodeOne, majOf_encRRI, markOf_encRRI]
  refine need_eq (by rw [immTop_encRRI, extract_highPiece (0 : BitVec 2) c]; rfl) ((decRRI_enc _ _).trans ?_)
  rw [immLow_encRRI, extract_lowPiece (0 : BitVec 2) c]


theorem roundTrips_shri (s ar : Bool) (c : BitVec 6) (d a : Operand) : RoundTrips (.shri s ar c d a) := by
  refine roundTrips_one rfl (majOf_encRRI ..) (len_encRRI ..) (by decide) ?_
  rw [decodeOne, majOf_encRRI, markOf_encRRI]
  refine need_eq (by rw [fX_encRRI, flagBit_top]; rfl) ((decRRI_enc _ _).trans ?_)
  rw [immLow_encRRI, immBit6_encRRI, extract_lowPiece _ c, flagBit]


theorem roundTrips_portstat (s w : Bool) (p : BitVec 6) (d : Operand) : RoundTrips (.portstat s w p d) := by
  refine roundTrips_one rfl (majOf_encRRI ..) (len_encRRI ..) (by decide) ?_
  rw [decodeOne, majOf_encRRI, markOf_encRRI]
  refine need_eq (by rw [fA_encRRI, fX_encRRI, flagBit_top]; rfl) (opnd_eq (fD_encRRI ..) ?_)
  rw [immLow_encRRI, immBit6_encRRI, extract_lowPiece _ p, flagBit]


theorem roundTrips_li (s : Bool) (i : BitVec 8) (d : Operand) : RoundTrips (.li s i d) := by
  refine roundTrips_one rfl (majOf_encRRI ..) (len_encRRI ..) (by decide) ?_
  rw [decodeOne, majOf_encRRI, markOf_encRRI]
  refine need_eq (by rw [fA_encRRI]; rfl) (opnd_eq (fD_encRRI ..) ?_)
  rw [fI_encRRI]


theorem roundTrips_mov (s : Bool) (d a : Operand) : RoundTrips (.mov s d a) := by
  refine roundTrips_one rfl (majOf_encRRI ..) (len_encRRI ..) (by decide) ?_
  rw [decodeOne, majOf_encRRI, markOf_encRRI]
  exact need_eq (by rw [fI_encRRI]; rfl) (decRRI_enc _ _)


theorem roundTrips_pfr (s : Bool) (d : BitVec 3) (a : Operand) : RoundTrips (.pfr s d a) := by
  refine roundTrips_one rfl (majOf_encRRI ..) (len_encRRI ..) (by decide) ?_
  rw [decodeOne, majOf_encRRI, markOf_encRRI]
  exact need_eq (by rw [fI_encRRI]; rfl) (opnd_eq (fD_encRRI ..) (opnd_eq (fA_encRRI ..) rfl))


theorem roundTrips_cmp (s : Bool) (c : BitVec 3) (k : BitVec 2) (a : Operand) (b : CmpSrc) : RoundTrips (.cmp s c k a b) := by
  cases b with
  | reg b =>
    refine roundTrips_one rfl (majOf_encCMP ..) (len_encCMP ..) (by decide) ?_
    rw [decodeOne, majOf_encCMP, markOf_encCMP]
    refine need_eq (by rw [zero_encCMP]; rfl) (opnd_eq (fA_encCMP ..) ?_)
    rw [fX_encCMP, fB_encCMP, skip_encCMP, cond_encCMP]
    exact opnd_enc ..
  | imm v =>
    refine roundTrips_one rfl (majOf_encCMP ..) (len_encCMP ..) (by decide) ?_
    rw [decodeOne, majOf_encCMP, markOf_encCMP]
    refine need_eq (by rw [zero_encCMP]; rfl) (opnd_eq (fA_encCMP ..) ?_)
    rw [fX_encCMP, fB_encCMP, skip_encCMP, cond_encCMP]
    rfl


theorem roundTrips_fcmp (s x : Bool) (c : BitVec 3) (k : BitVec 2) (a b : Operand) : RoundTrips (.fcmp s x c k a b) := by
  refine roundTrips_one rfl (majOf_encCMP ..) (len_encCMP ..) (by decide) ?_
  rw [decodeOne, majOf_encCMP, markOf_encCMP]
  refine need_eq (by rw [zero_encCMP]; rfl) (opnd_eq (fA_encCMP ..) (opnd_eq (fB_encCMP ..) ?_))
  rw [fX_encCMP, skip_encCMP, cond_encCMP]


theorem roundTrips_loop (s : Bool) (o : BitVec 15) (d : Operand) : RoundTrips (.loop s o d) := by
  refine roundTrips_one rfl (majOf_encLP ..) (len_encLP ..) (by decide) ?_
  rw [decodeOne, majOf_encLP, markOf_encLP]
  refine opnd_eq (fD_encLP ..) ?_
  rw [off_encLP]


theorem roundTrips_ld (s rx sx : Bool) (sz : BitVec 2) (o : BitVec 4) (d a : Operand) : RoundTrips (.ld s rx sx sz o d a) := by
  refine roundTrips_one rfl (majOf_encM ..) (len_encM ..) (by decide) ?_
  rw [decodeOne, majOf_encM, markOf_encM]
  refine opnd_eq (fD_encM ..) (opnd_eq (fA_encM ..) ?_)
  rw [fImm4_encM, fRX_encM, fSX_encM, fSZ_encM]


theorem roundTrips_st (s rx : Bool) (sz : BitVec 2) (o : BitVec 4) (d a : Operand) : RoundTrips (.st s rx sz o d a) := by
  refine roundTrips_one rfl (majOf_encM ..) (len_encM ..) (by decide) ?_
  rw [decodeOne, majOf_encM, markOf_encM]
  refine need_eq (by rw [fSX_encM]; rfl) (opnd_eq (fD_encM ..) (opnd_eq (fA_encM ..) ?_))
  rw [fImm4_encM, fRX_encM, fSZ_encM]


theorem roundTrips_ldbd (s : Bool) (o : BitVec 4) (d a : Operand) : RoundTrips (.ldbd s o d a) := by
  refine roundTrips_one rfl (majOf_encM ..) (len_encM ..) (by decide) ?_
  rw [decodeOne, majOf_encM, markOf_encM]
  refine need_eq (by rw [fSX_encM, fRX_encM]; rfl) (need_eq (by rw [fSZ_encM]; rfl)
    (opnd_eq (fD_encM ..) (opnd_eq (fA_encM ..) ?_)))
  rw [fImm4_encM]


theorem roundTrips_stbd (s : Bool) (o : BitVec 4) (d a : Operand) : RoundTrips (.stbd s o d a) := by
  refine roundTrips_one rfl (majOf_encM ..) (len_encM ..) (by decide) ?_
  rw [decodeOne, majOf_encM, markOf_encM]
  refine need_eq (by rw [fSX_encM, fRX_encM]; rfl) (need_eq (by rw [fSZ_encM]; rfl)
    (opnd_eq (fD_encM ..) (opnd_eq (fA_encM ..) ?_)))
  rw [fImm4_encM]


theorem roundTrips_salloc (s : Bool) (l : BitVec 2) (d a : Operand) : RoundTrips (.salloc s l d a) := by
  refine roundTrips_one rfl (majOf_encM ..) (len_encM ..) (by decide) ?_
  rw [decodeOne, majOf_encM, markOf_encM]
  refine need_eq (by rw [fSX_encM, fRX_encM, fImm4_encM]; rfl) (opnd_eq (fD_encM ..) (opnd_eq (fA_encM ..) ?_))
  rw [fSZ_encM]


theorem roundTrips_stq (s : Bool) (q : BitVec 2) (o : BitVec 4) (a : Operand) : RoundTrips (.stq s q o a) := by
  refine roundTrips_one rfl (majOf_encM ..) (len_encM ..) (by decide) ?_
  rw [decodeOne, majOf_encM, markOf_encM]
  refine need_eq (by rw [fSX_encM, fRX_encM, qZero_encM, extract_highPiece (0 : BitVec 5) q]; rfl)
    (need_eq (by rw [fSZ_encM]; rfl) (opnd_eq (fA_encM ..) ?_))
  rw [fImm4_encM, qOf_encM, extract_lowPiece (0 : BitVec 5) q]


theorem roundTrips_fence (s : Bool) (sc : BitVec 3) : RoundTrips (.fence s sc) := by
  refine roundTrips_one rfl (majOf_encSY ..) (len_encSY ..) (by decide) ?_
  rw [decodeOne, majOf_encSY, markOf_encSY]
  refine need_eq (by rw [fI_encSY, fA_encSY, zero_encSY]; rfl) ?_
  rw [sem_encSY]


theorem roundTrips_trap (s : Bool) (c : BitVec 8) : RoundTrips (.trap s c) := by
  refine roundTrips_one rfl (majOf_encSY ..) (len_encSY ..) (by decide) ?_
  rw [decodeOne, majOf_encSY, markOf_encSY]
  refine need_eq (by rw [codeOnly_encSY]; rfl) ?_
  rw [fI_encSY]


theorem roundTrips_sysc (s : Bool) (c : BitVec 8) : RoundTrips (.sysc s c) := by
  refine roundTrips_one rfl (majOf_encSY ..) (len_encSY ..) (by decide) ?_
  rw [decodeOne, majOf_encSY, markOf_encSY]
  refine need_eq (by rw [codeOnly_encSY]; rfl) ?_
  rw [fI_encSY]


theorem roundTrips_qmov (s : Bool) (q : BitVec 2) (d : Operand) : RoundTrips (.qmov s q d) := by
  refine roundTrips_one rfl (majOf_encQM ..) (len_encQM ..) (by decide) ?_
  rw [decodeOne, majOf_encQM, markOf_encQM]
  refine need_eq (by rw [zero_encQM]; rfl) (opnd_eq (fD_encQM ..) ?_)
  rw [q_encQM]


theorem roundTrips_clk (s : Bool) (q : BitVec 2) : RoundTrips (.clk s q) := by
  refine roundTrips_one rfl (majOf_encQM ..) (len_encQM ..) (by decide) ?_
  rw [decodeOne, majOf_encQM, markOf_encQM]
  refine need_eq (by rw [zero_encQM, fD_encQM]; rfl) ?_
  rw [q_encQM]


theorem roundTrips_physid (s : Bool) (q : BitVec 2) : RoundTrips (.physid s q) := by
  refine roundTrips_one rfl (majOf_encQM ..) (len_encQM ..) (by decide) ?_
  rw [decodeOne, majOf_encQM, markOf_encQM]
  refine need_eq (by rw [zero_encQM, fD_encQM]; rfl) ?_
  rw [q_encQM]


theorem roundTrips_mfs (s : Bool) (n : BitVec 7) (d : Operand) : RoundTrips (.mfs s n d) := by
  refine roundTrips_one rfl (majOf_encRRR ..) (len_encRRR ..) (by decide) ?_
  rw [decodeOne, majOf_encRRR, markOf_encRRR]
  refine need_eq (by rw [fA_encRRR, fX_encRRR]; rfl) (opnd_eq (fD_encRRR ..) ?_)
  rw [fB_encRRR]


theorem roundTrips_mts (s : Bool) (n : BitVec 7) (a : Operand) : RoundTrips (.mts s n a) := by
  refine roundTrips_one rfl (majOf_encRRR ..) (len_encRRR ..) (by decide) ?_
  rw [decodeOne, majOf_encRRR, markOf_encRRR]
  refine need_eq (by rw [fD_encRRR, fX_encRRR]; rfl) (opnd_eq (fA_encRRR ..) ?_)
  rw [fB_encRRR]


theorem roundTrips_capx (s : Bool) (a b : Operand) : RoundTrips (.capx s a b) := by
  refine roundTrips_one rfl (majOf_encRRR ..) (len_encRRR ..) (by decide) ?_
  rw [decodeOne, majOf_encRRR, markOf_encRRR]
  exact need_eq (by rw [fD_encRRR, fX_encRRR]; rfl) (opnd_eq (fA_encRRR ..) (opnd_eq (fB_encRRR ..) rfl))


/-- MAJ 0x7F is ILL whatever the other bits and words are (R252). -/
theorem decode_ill {w : W32} (h : majOf w = 0x7F) (r : List W32) :
    decode (w :: r) = .ok (.ill (markOf w) (w.extractLsb' 0 2) (w.extractLsb' 10 22)) := if_pos h

theorem roundTrips_ill (s : Bool) (l : BitVec 2) (u : BitVec 22) : RoundTrips (.ill s l u) := by
  refine (decode_ill (majOf_encBR u 0x7F s l) []).trans ?_
  rw [markOf_encBR, len_encBR, off_encBR]
  exact (checked_of_legal rfl).symm

theorem roundTrips_clz (s : Bool) (d a : Operand) : RoundTrips (.clz s d a) := by
  refine roundTrips_one rfl (majOf_encRRR ..) (len_encRRR ..) (by decide) ?_
  rw [decodeOne, majOf_encRRR]
  refine need_eq (by rw [bitsFn_encRRR]; rfl) (need_eq (by rw [fX_encRRR, bitsZero_encRRR, bitsFn_encRRR, bitsWidth_encRRR]; rfl)
    (opnd_eq (fD_encRRR ..) (opnd_eq (fA_encRRR ..) ?_)))
  rw [bitsFn_encRRR, markOf_encRRR]
  rfl

theorem roundTrips_ctz (s : Bool) (d a : Operand) : RoundTrips (.ctz s d a) := by
  refine roundTrips_one rfl (majOf_encRRR ..) (len_encRRR ..) (by decide) ?_
  rw [decodeOne, majOf_encRRR]
  refine need_eq (by rw [bitsFn_encRRR]; rfl) (need_eq (by rw [fX_encRRR, bitsZero_encRRR, bitsFn_encRRR, bitsWidth_encRRR]; rfl)
    (opnd_eq (fD_encRRR ..) (opnd_eq (fA_encRRR ..) ?_)))
  rw [bitsFn_encRRR, markOf_encRRR]
  rfl

theorem roundTrips_popc (s : Bool) (d a : Operand) : RoundTrips (.popc s d a) := by
  refine roundTrips_one rfl (majOf_encRRR ..) (len_encRRR ..) (by decide) ?_
  rw [decodeOne, majOf_encRRR]
  refine need_eq (by rw [bitsFn_encRRR]; rfl) (need_eq (by rw [fX_encRRR, bitsZero_encRRR, bitsFn_encRRR, bitsWidth_encRRR]; rfl)
    (opnd_eq (fD_encRRR ..) (opnd_eq (fA_encRRR ..) ?_)))
  rw [bitsFn_encRRR, markOf_encRRR]
  rfl

theorem roundTrips_brev (s : Bool) (d a : Operand) : RoundTrips (.brev s d a) := by
  refine roundTrips_one rfl (majOf_encRRR ..) (len_encRRR ..) (by decide) ?_
  rw [decodeOne, majOf_encRRR]
  refine need_eq (by rw [bitsFn_encRRR]; rfl) (need_eq (by rw [fX_encRRR, bitsZero_encRRR, bitsFn_encRRR, bitsWidth_encRRR]; rfl)
    (opnd_eq (fD_encRRR ..) (opnd_eq (fA_encRRR ..) ?_)))
  rw [bitsFn_encRRR, markOf_encRRR]
  rfl

theorem roundTrips_sext (s : Bool) (w : BitVec 2) (d a : Operand) : RoundTrips (.sext s w d a) := by
  refine roundTrips_one rfl (majOf_encRRR ..) (len_encRRR ..) (by decide) ?_
  rw [decodeOne, majOf_encRRR]
  refine need_eq (by rw [bitsFn_encRRR, bitsFn_append]; rfl)
    (need_eq (by rw [fX_encRRR, bitsZero_encRRR, bitsFn_encRRR, bitsFn_append, bitsZero_append]; rfl) (opnd_eq (fD_encRRR ..) (opnd_eq (fA_encRRR ..) ?_)))
  rw [bitsFn_encRRR, bitsWidth_encRRR, markOf_encRRR, bitsFn_append, bitsWidth_append]
  rfl

theorem roundTrips_zext (s : Bool) (w : BitVec 2) (d a : Operand) : RoundTrips (.zext s w d a) := by
  refine roundTrips_one rfl (majOf_encRRR ..) (len_encRRR ..) (by decide) ?_
  rw [decodeOne, majOf_encRRR]
  refine need_eq (by rw [bitsFn_encRRR, bitsFn_append]; rfl)
    (need_eq (by rw [fX_encRRR, bitsZero_encRRR, bitsFn_encRRR, bitsFn_append, bitsZero_append]; rfl) (opnd_eq (fD_encRRR ..) (opnd_eq (fA_encRRR ..) ?_)))
  rw [bitsFn_encRRR, bitsWidth_encRRR, markOf_encRRR, bitsFn_append, bitsWidth_append]
  rfl

theorem roundTrips_oneWord (i : Instr) (h : (encode i).length = 1) : RoundTrips i := by
  cases i with
  | mulh | div | rem | shr | min | max | lea | fadd | fsub | fmul | fdiv | fmin | fmax | aadd | aand | aor | axor | amin
  | amax | axchg | afadd =>
    refine roundTrips_one rfl (majOf_encRRR ..) (len_encRRR ..) (by decide) ?_
    rw [decodeOne, majOf_encRRR, markOf_encRRR]
    exact decRRR_enc _
  | add | sub | mul | and | or | xor | andn | shl | rot =>
    refine roundTrips_one rfl (majOf_encRRR ..) (len_encRRR ..) (by decide) ?_
    rw [decodeOne, majOf_encRRR, markOf_encRRR]
    exact decRRR_enc_noX _ _
  | addi | muli | andi | ori | xori | mini | maxi =>
    refine roundTrips_one rfl (majOf_encRRI ..) (len_encRRI ..) (by decide) ?_
    rw [decodeOne, majOf_encRRI, markOf_encRRI]
    exact decRRI_enc _ _
  | jmp | callr | flushr | sfree =>
    refine roundTrips_one rfl (majOf_encRRR ..) (len_encRRR ..) (by decide) ?_
    rw [decodeOne, majOf_encRRR, markOf_encRRR]
    exact decA_enc _
  | fsqrt | fclass =>
    refine roundTrips_one rfl (majOf_encRRR ..) (len_encRRR ..) (by decide) ?_
    rw [decodeOne, majOf_encRRR, markOf_encRRR]
    exact decRR_enc _
  | ret | exit | yield | trig | eret | rgn | pair | unpair | msync | halt =>
    refine roundTrips_one rfl (majOf_encBR ..) (len_encBR ..) (by decide) ?_
    rw [decodeOne, majOf_encBR, markOf_encBR]
    exact decZ_enc _
  | wait | semset =>
    refine roundTrips_one rfl (majOf_encSY ..) (len_encSY ..) (by decide) ?_
    rw [decodeOne, majOf_encSY, markOf_encSY]
    exact decSY_enc _ _ _
  | setpri | bararr | barwait | patclr =>
    refine roundTrips_one rfl (majOf_encSY ..) (len_encSY ..) (by decide) ?_
    rw [decodeOne, majOf_encSY, markOf_encSY]
    exact need_eq (by simp) (decSY_enc _ _ _)
  | br | call =>
    refine roundTrips_one rfl (majOf_encBR ..) (len_encBR ..) (by decide) ?_
    rw [decodeOne, majOf_encBR, markOf_encBR, off_encBR]
    rfl
  | shli => exact roundTrips_shli ..
  | roti => exact roundTrips_roti ..
  | shri => exact roundTrips_shri ..
  | portstat => exact roundTrips_portstat ..
  | li => exact roundTrips_li ..
  | mov => exact roundTrips_mov ..
  | pfr => exact roundTrips_pfr ..
  | cmp => exact roundTrips_cmp ..
  | fcmp => exact roundTrips_fcmp ..
  | loop => exact roundTrips_loop ..
  | ld => exact roundTrips_ld ..
  | st => exact roundTrips_st ..
  | ldbd => exact roundTrips_ldbd ..
  | stbd => exact roundTrips_stbd ..
  | salloc => exact roundTrips_salloc ..
  | stq => exact roundTrips_stq ..
  | fence => exact roundTrips_fence ..
  | trap => exact roundTrips_trap ..
  | sysc => exact roundTrips_sysc ..
  | qmov => exact roundTrips_qmov ..
  | clk => exact roundTrips_clk ..
  | physid => exact roundTrips_physid ..
  | mfs => exact roundTrips_mfs ..
  | mts => exact roundTrips_mts ..
  | capx => exact roundTrips_capx ..
  | ill => exact roundTrips_ill ..
  | clz => exact roundTrips_clz ..
  | ctz => exact roundTrips_ctz ..
  | popc => exact roundTrips_popc ..
  | brev => exact roundTrips_brev ..
  | sext => exact roundTrips_sext ..
  | zext => exact roundTrips_zext ..
  | _ => nomatch h

end Sys2Proof
end

section
/-! SUPPORT. Instructions of three and of five words decode to themselves, but for the checks on their field values. -/

namespace Sys2Proof

theorem Instr.encodable_of_wf {i : Instr} (h : i.wf = true) : i.encodable = true := (Bool.and_eq_true_iff.1 h).1

theorem roundTrips_lit {i : Instr} {w : W32} {m : BitVec 7} {l : Word} (he : encode i = w :: encLit l) (hm : majOf w = m.toNat)
    (hl : w.extractLsb' 0 2 = 2) (hn : m ≠ 0x7F) (hd : decodeLit w l = checked i) : RoundTrips i := by
  rw [RoundTrips, he, decode_lit l (hm ▸ toNat_ne_ill hn) hl, hd]

section BitField
variable (p wid : BitVec 6)
theorem bitField_pos : ((0 : BitVec 50) ++ wid ++ (0 : BitVec 2) ++ p : Word).extractLsb' 0 6 = p := by
  rw [BitVec.extractLsb'_append_eq_of_add_le (by decide), BitVec.extractLsb'_eq_self]
theorem bitField_gap : ((0 : BitVec 50) ++ wid ++ (0 : BitVec 2) ++ p : Word).extractLsb' 6 2 = 0 := by
  rw [BitVec.extractLsb'_append_eq_of_le (by decide), BitVec.extractLsb'_append_eq_of_add_le (by decide),
    BitVec.extractLsb'_eq_self]
theorem bitField_width : ((0 : BitVec 50) ++ wid ++ (0 : BitVec 2) ++ p : Word).extractLsb' 8 6 = wid := by
  iterate 2 rw [BitVec.extractLsb'_append_eq_of_le (by decide)]
  rw [BitVec.extractLsb'_append_eq_of_add_le (by decide), BitVec.extractLsb'_eq_self]
theorem bitField_top : ((0 : BitVec 50) ++ wid ++ (0 : BitVec 2) ++ p : Word).extractLsb' 14 18 = 0 := by
  iterate 3 rw [BitVec.extractLsb'_append_eq_of_le (by decide)]
  rfl
theorem bitField_high : ((0 : BitVec 50) ++ wid ++ (0 : BitVec 2) ++ p : Word).extractLsb' 32 32 = 0 := by
  iterate 3 rw [BitVec.extractLsb'_append_eq_of_le (by decide)]
  rfl
end BitField

theorem roundTrips_ext {i : Instr} {w w1 w2 : W32} {m : BitVec 7} (he : encode i = [w, w1, w2]) (hm : majOf w = m.toNat)
    (hl : w.extractLsb' 0 2 = 1) (hn : m ≠ 0x7F) (hd : decodeExt w w1 w2 = checked i) : RoundTrips i := by
  rw [RoundTrips, he, decode_ext (hm ▸ toNat_ne_ill hn) hl, hd]

theorem roundTrips_extLit {i : Instr} {w w1 w2 : W32} {m : BitVec 7} {l : Word} (he : encode i = [w, w1, w2] ++ encLit l)
    (hm : majOf w = m.toNat) (hl : w.extractLsb' 0 2 = 3) (hn : m ≠ 0x7F) (hd : decodeExtLit w w1 w2 l = checked i) :
    RoundTrips i := by
  rw [RoundTrips, he, decode_extLit l (hm ▸ toNat_ne_ill hn) hl, hd]

theorem toNat_zero_append_lt {p q : Nat} (x : BitVec q) : ((0 : BitVec p) ++ x).toNat < 2 ^ q := by
  simp [BitVec.toNat_append, x.isLt]

theorem toNat_append_lt {p q k : Nat} {hi : BitVec p} (lo : BitVec q) (h : hi.toNat < 2 ^ k) : (hi ++ lo).toNat < 2 ^ (k + q) := by
  rw [BitVec.toNat_append, Nat.shiftLeft_eq, ← Nat.shiftLeft_eq, ← Nat.shiftLeft_add_eq_or_of_lt lo.isLt, Nat.shiftLeft_eq, Nat.pow_add]
  calc hi.toNat * 2 ^ q + lo.toNat < hi.toNat * 2 ^ q + 2 ^ q := Nat.add_lt_add_left lo.isLt _
    _ = (hi.toNat + 1) * 2 ^ q := by ring
    _ ≤ 2 ^ k * 2 ^ q := Nat.mul_le_mul_right _ h

/-- The checks on word 1 of an instruction with a count in the low three bits of N (R243). -/
theorem zero1_count {e : Ext12} {c dsem : Bool} (hn : e.n.extractLsb' 3 4 = 0) (hc : c = true ∨ e.c = 0) (hs : e.sat = false)
    (hcs : e.csem = 0) (hce : e.cen = false) (hd : dsem = true ∨ e.dsem = 0) (hf : e.func = 0) : e.zero1 true c false dsem = true := by
  simp only [Ext12.zero1, hn, hs, hcs, hce, hf]
  simpa using ⟨hc, hd⟩

/-- The checks on word 2 of an instruction with `n` bits of SHAPE (R243). -/
theorem zero2_shape {e : Ext12} {n : Nat} {fmt : Bool} (hs : e.shape.toNat < 2 ^ n) (hf : fmt = true ∨ e.fmt = 0) (hfs : e.fsrc = false)
    (hr : fmt = true ∨ e.rm = 0) : e.zero2 n fmt fmt = true := by
  simp only [Ext12.zero2, hs, hfs]
  simpa using ⟨hf, hr⟩

section Engine
variable {maj : BitVec 7} {func : BitVec 8} (e : Ext)
/-- The words of an engine instruction give back all its fields (R326). -/
theorem decExt_encEngine (k : Ext → Instr) :
    decExt (encRRR e.x e.b.enc e.a.enc e.d.enc maj e.sm 1) (encExt1 e.n.enc e.c.enc e.sat e.csem e.cen e.dsem func)
      { n := e.n.enc, c := e.c.enc, sat := e.sat, csem := e.csem, cen := e.cen, dsem := e.dsem, func := func,
        shape := e.shape, fmt := e.fmt, fsrc := e.fsrc, rm := e.rm } k = checked (k e) := by
  simp [decExt]
end Engine

/-- A floating-point instruction in its extended form gives back its operands (R275). -/
theorem decFext_enc {x : Bool} {b a d : Operand} {maj : BitVec 7} {s : Bool} {rm : BitVec 3}
    (k : Bool → Operand → Operand → Operand → Instr) :
    decFext (encRRR x b.enc a.enc d.enc maj s 1) (encExt1 0 0 false 0 false 0 0)
      { n := 0, c := 0, sat := false, csem := 0, cen := false, dsem := 0, func := 0, shape := 0, fmt := 0, fsrc := false, rm := rm } k =
      checked (k x d a b) := by
  refine need_eq (by rw [zero_encExt1]; rfl) (need_eq rfl (decRRR_enc _))

/-! The fields of SHAPE that SPAWN uses (R294): the priority, whether it is given, the TID, whether it is given. -/

section SpawnShape
variable (te pe : Bool) (tq : BitVec 8) (pr : BitVec 3)
theorem spawnShape_lt : ((0 : BitVec 7) ++ BitVec.ofBool te ++ tq ++ BitVec.ofBool pe ++ pr : BitVec 20).toNat < 2 ^ 13 :=
  toNat_append_lt _ (toNat_append_lt _ (toNat_append_lt _ (toNat_zero_append_lt (BitVec.ofBool te))))
theorem spawnShape_prio : ((0 : BitVec 7) ++ BitVec.ofBool te ++ tq ++ BitVec.ofBool pe ++ pr : BitVec 20).extractLsb' 0 3 = pr := by
  rw [BitVec.extractLsb'_append_eq_of_add_le (by decide), BitVec.extractLsb'_eq_self]
theorem spawnShape_given : ((0 : BitVec 7) ++ BitVec.ofBool te ++ tq ++ BitVec.ofBool pe ++ pr : BitVec 20).getLsbD 3 = pe := by
  rw [BitVec.getLsbD_append, if_neg (by decide), BitVec.getLsbD_append, if_pos (by decide)]
  simp
theorem spawnShape_tid : ((0 : BitVec 7) ++ BitVec.ofBool te ++ tq ++ BitVec.ofBool pe ++ pr : BitVec 20).extractLsb' 4 8 = tq := by
  iterate 2 rw [BitVec.extractLsb'_append_eq_of_le (by decide)]
  rw [BitVec.extractLsb'_append_eq_of_add_le (by decide), BitVec.extractLsb'_eq_self]
theorem spawnShape_tidGiven : ((0 : BitVec 7) ++ BitVec.ofBool te ++ tq ++ BitVec.ofBool pe ++ pr : BitVec 20).getLsbD 12 = te := by
  iterate 3 rw [BitVec.getLsbD_append, if_neg (by decide)]
  rw [BitVec.getLsbD_append, if_pos (by decide)]
  simp
end SpawnShape

/-! The fields of SHAPE that RECV uses (R310): the port, and whether the header is wanted. -/

section RecvShape
variable (hd : Bool) (p : BitVec 6)
theorem recvShape_lt : ((0 : BitVec 13) ++ BitVec.ofBool hd ++ p : BitVec 20).toNat < 2 ^ 7 :=
  toNat_append_lt _ (toNat_zero_append_lt (BitVec.ofBool hd))
theorem recvShape_head : ((0 : BitVec 13) ++ BitVec.ofBool hd ++ p : BitVec 20).getLsbD 6 = hd := by
  rw [BitVec.getLsbD_append, if_neg (by decide), BitVec.getLsbD_append, if_pos (by decide)]
  simp
end RecvShape

theorem roundTrips_threeWords (i : Instr) (h : (encode i).length = 3) : RoundTrips i := by
  cases i with
  | addiLit | muliLit | andiLit | oriLit | xoriLit | miniLit | maxiLit =>
    refine roundTrips_lit rfl (majOf_encRRI ..) (len_encRRI ..) (by decide) ?_
    rw [decodeLit, majOf_encRRI, markOf_encRRI]
    exact need_eq (by rw [fI_encRRI]; rfl) (decRRI_enc _ _)
  | bfx s p wid | bfi s p wid =>
    refine roundTrips_lit rfl (majOf_encRRI ..) (len_encRRI ..) (by decide) ?_
    rw [decodeLit, majOf_encRRI, markOf_encRRI]
    refine need_eq (by rw [bitField_gap, bitField_top]; rfl) (need_eq (by rw [bitField_high]; rfl)
      (need_eq (by rw [fI_encRRI]; rfl) ((decRRI_enc _ _).trans ?_)))
    rw [bitField_pos, bitField_width]
  | liLit =>
    refine roundTrips_lit rfl (majOf_encRRI ..) (len_encRRI ..) (by decide) ?_
    rw [decodeLit, majOf_encRRI, markOf_encRRI]
    exact need_eq (by rw [fI_encRRI, fA_encRRI]; rfl) (opnd_eq (fD_encRRI ..) rfl)
  | cmpLit =>
    refine roundTrips_lit rfl (majOf_encCMP ..) (len_encCMP ..) (by decide) ?_
    rw [decodeLit, majOf_encCMP, markOf_encCMP]
    refine need_eq (by rw [zero_encCMP, fB_encCMP]; rfl) (need_eq (fX_encCMP ..) (opnd_eq (fA_encCMP ..) ?_))
    rw [skip_encCMP, cond_encCMP]
  | ldLit =>
    refine roundTrips_lit rfl (majOf_encM ..) (len_encM ..) (by decide) ?_
    rw [decodeLit, majOf_encM, markOf_encM]
    refine need_eq (by rw [fImm4_encM]; rfl) (opnd_eq (fD_encM ..) (opnd_eq (fA_encM ..) ?_))
    rw [fRX_encM, fSX_encM, fSZ_encM]
  | stLit =>
    refine roundTrips_lit rfl (majOf_encM ..) (len_encM ..) (by decide) ?_
    rw [decodeLit, majOf_encM, markOf_encM]
    refine need_eq (by rw [fImm4_encM, fSX_encM]; rfl) (opnd_eq (fD_encM ..) (opnd_eq (fA_encM ..) ?_))
    rw [fRX_encM, fSZ_encM]
  | ldbdLit | stbdLit =>
    refine roundTrips_lit rfl (majOf_encM ..) (len_encM ..) (by decide) ?_
    rw [decodeLit, majOf_encM, markOf_encM]
    exact need_eq (by rw [fImm4_encM, fSX_encM, fRX_encM]; rfl) (need_eq (by rw [fSZ_encM]; rfl)
      (opnd_eq (fD_encM ..) (opnd_eq (fA_encM ..) rfl)))
  | stqLit s q =>
    refine roundTrips_lit rfl (majOf_encM ..) (len_encM ..) (by decide) ?_
    rw [decodeLit, majOf_encM, markOf_encM]
    refine need_eq (by rw [fImm4_encM, fSX_encM, fRX_encM, qZero_encM, extract_highPiece (0 : BitVec 5) q]; rfl)
      (need_eq (by rw [fSZ_encM]; rfl) (opnd_eq (fA_encM ..) ?_))
    rw [qOf_encM, extract_lowPiece (0 : BitVec 5) q]
  | tmv | cxtpl | cxgo | cxwm | cxstop | cxrst | vadd | vsub | vmul | vfma | vmin | vmax | vabs | vneg | vrcp | vrsq | vexp2 | vlog2
  | vlut | vcmp | vsel | vcvt | vscale | vred | vscan | vtopk | vgath | vscat | vfill | viota | vpack | vunpk | mma | mmas
  | mald | mast | maz | mstat | mring =>
    refine roundTrips_ext rfl (majOf_encRRR ..) (len_encRRR ..) (by decide) ?_
    rw [decodeExt, majOf_encRRR, ext12_enc]
    exact decExt_encEngine _ _
  | faddExt | fsubExt | fmulExt | fdivExt | fminExt | fmaxExt =>
    refine roundTrips_ext rfl (majOf_encRRR ..) (len_encRRR ..) (by decide) ?_
    rw [decodeExt, majOf_encRRR, markOf_encRRR, ext12_enc]
    exact decFext_enc _
  | fsqrtExt =>
    refine roundTrips_ext rfl (majOf_encRRR ..) (len_encRRR ..) (by decide) ?_
    rw [decodeExt, majOf_encRRR, markOf_encRRR, ext12_enc]
    exact need_eq (by rw [zero_encExt1]; rfl) (need_eq rfl (decRR_enc _))
  | ffma | acas =>
    refine roundTrips_ext rfl (majOf_encRRR ..) (len_encRRR ..) (by decide) ?_
    rw [decodeExt, majOf_encRRR, markOf_encRRR, ext12_enc]
    exact need_eq (by rw [zero_encExt1]; rfl) (need_eq rfl ((opnd_enc ..).trans (decRRR_enc _)))
  | fcvt s sat rm t f =>
    refine roundTrips_ext rfl (majOf_encRRR ..) (len_encRRR ..) (by decide) ?_
    rw [decodeExt, majOf_encRRR, markOf_encRRR, ext12_enc]
    refine need_eq (by rw [fX_encRRR]; rfl) (need_eq (by rw [zero_encExt1]; rfl)
      (need_eq (zero2_shape (toNat_zero_append_lt (p := 12) f) (.inl rfl) rfl (.inl rfl)) ((decRR_enc _).trans ?_)))
    rw [extract_lowPiece (0 : BitVec 12) f]
  | barinit =>
    refine roundTrips_ext rfl (majOf_encRRR ..) (len_encRRR ..) (by decide) ?_
    rw [decodeExt, majOf_encRRR, markOf_encRRR, ext12_enc]
    exact need_eq (by rw [zero_encExt1]; rfl) (need_eq rfl (decRRR_enc_noX _ _))
  | append s n =>
    refine roundTrips_ext rfl (majOf_encRRR ..) (len_encRRR ..) (by decide) ?_
    rw [decodeExt, majOf_encRRR, markOf_encRRR, ext12_enc]
    refine need_eq (Bool.and_eq_true_iff.2 ⟨by rw [zero_encExt1]; rfl,
      zero1_count (extract_highPiece (0 : BitVec 4) n) (.inr rfl) rfl rfl rfl (.inl rfl) rfl⟩)
      (need_eq rfl (need_eq (by rw [fD_encRRR, fX_encRRR]; rfl) (opnd_eq (fA_encRRR ..) (opnd_eq (fB_encRRR ..) ?_))))
    rw [extract_lowPiece (0 : BitVec 4) n]
  | spawn s n pr pe tq te =>
    refine roundTrips_ext rfl (majOf_encRRR ..) (len_encRRR ..) (by decide) ?_
    rw [decodeExt, majOf_encRRR, markOf_encRRR, ext12_enc]
    refine need_eq (Bool.and_eq_true_iff.2 ⟨by rw [zero_encExt1]; rfl,
      zero1_count (extract_highPiece (0 : BitVec 4) n) (.inr rfl) rfl rfl rfl (.inr rfl) rfl⟩)
      (need_eq (zero2_shape (spawnShape_lt te pe tq pr) (.inr rfl) rfl (.inr rfl)) ((decRRR_enc_noX _ _).trans ?_))
    rw [extract_lowPiece (0 : BitVec 4) n, spawnShape_prio, spawnShape_given, spawnShape_tid, spawnShape_tidGiven]
  | spawnr s n pr =>
    refine roundTrips_ext rfl (majOf_encRRR ..) (len_encRRR ..) (by decide) ?_
    rw [decodeExt, majOf_encRRR, markOf_encRRR, ext12_enc]
    refine need_eq (Bool.and_eq_true_iff.2 ⟨by rw [zero_encExt1]; rfl,
      zero1_count (extract_highPiece (0 : BitVec 4) n) (.inl rfl) rfl rfl rfl (.inl rfl) rfl⟩)
      (need_eq (zero2_shape (toNat_zero_append_lt (p := 17) pr) (.inr rfl) rfl (.inr rfl)) (need_eq (by rw [fD_encRRR, fX_encRRR]; rfl)
        (opnd_eq (fA_encRRR ..) (opnd_eq (fB_encRRR ..) ((opnd_enc ..).trans ?_)))))
    rw [extract_lowPiece (0 : BitVec 4) n, extract_lowPiece (0 : BitVec 17) pr]
  | post s ds c =>
    refine roundTrips_ext rfl (majOf_encRRR ..) (len_encRRR ..) (by decide) ?_
    rw [decodeExt, majOf_encRRR, markOf_encRRR, ext12_enc]
    refine need_eq (by rw [zero_encExt1]; rfl) (need_eq (zero2_shape (toNat_zero_append_lt (p := 4) c) (.inr rfl) rfl (.inr rfl))
      (need_eq (by rw [fD_encRRR, fB_encRRR, fX_encRRR]; rfl) (opnd_eq (fA_encRRR ..) ?_)))
    rw [extract_lowPiece (0 : BitVec 4) c]
  | patset s i =>
    refine roundTrips_ext rfl (majOf_encRRR ..) (len_encRRR ..) (by decide) ?_
    rw [decodeExt, majOf_encRRR, markOf_encRRR, ext12_enc]
    refine need_eq (by rw [zero_encExt1]; rfl) (need_eq (zero2_shape (toNat_zero_append_lt (p := 15) i) (.inr rfl) rfl (.inr rfl))
      (need_eq (by rw [fD_encRRR, fX_encRRR]; rfl) (opnd_eq (fA_encRRR ..) (opnd_eq (fB_encRRR ..) ((opnd_enc ..).trans ?_)))))
    rw [extract_lowPiece (0 : BitVec 15) i]
  | portcfg s i =>
    refine roundTrips_ext rfl (majOf_encRRR ..) (len_encRRR ..) (by decide) ?_
    rw [decodeExt, majOf_encRRR, markOf_encRRR, ext12_enc]
    refine need_eq (by rw [zero_encExt1]; rfl) (need_eq (zero2_shape (toNat_zero_append_lt (p := 14) i) (.inr rfl) rfl (.inr rfl))
      (need_eq (by rw [fD_encRRR, fX_encRRR]; rfl) (opnd_eq (fA_encRRR ..) (opnd_eq (fB_encRRR ..) ?_))))
    rw [extract_lowPiece (0 : BitVec 14) i]
  | recv s n p hd =>
    refine roundTrips_ext rfl (majOf_encRRR ..) (len_encRRR ..) (by decide) ?_
    rw [decodeExt, majOf_encRRR, markOf_encRRR, ext12_enc]
    refine need_eq (Bool.and_eq_true_iff.2 ⟨by rw [zero_encExt1]; rfl,
      zero1_count (extract_highPiece (0 : BitVec 4) n) (.inr rfl) rfl rfl rfl (.inr rfl) rfl⟩)
      (need_eq (zero2_shape (recvShape_lt hd p) (.inr rfl) rfl (.inr rfl)) (need_eq (by rw [fA_encRRR, fB_encRRR, fX_encRRR]; rfl)
        (opnd_eq (fD_encRRR ..) ?_)))
    rw [extract_lowPiece (0 : BitVec 4) n, extract_lowPiece _ p, recvShape_head]
  | cmp s c k a b => cases b <;> nomatch h
  | _ => nomatch h

theorem roundTrips_fiveWords (i : Instr) (h : (encode i).length = 5) : RoundTrips i := by
  cases i with
  | spawnLit s n pr pe tq te =>
    refine roundTrips_extLit rfl (majOf_encRRR ..) (len_encRRR ..) (by decide) ?_
    rw [decodeExtLit, majOf_encRRR, markOf_encRRR, ext12_enc]
    refine need_eq (Bool.and_eq_true_iff.2 ⟨by rw [zero_encExt1]; rfl,
      zero1_count (extract_highPiece (0 : BitVec 4) n) (.inr rfl) rfl rfl rfl (.inr rfl) rfl⟩)
      (need_eq (zero2_shape (spawnShape_lt te pe tq pr) (.inr rfl) rfl (.inr rfl)) (need_eq (by rw [fA_encRRR, fX_encRRR]; rfl)
        (opnd_eq (fD_encRRR ..) (opnd_eq (fB_encRRR ..) ?_))))
    rw [extract_lowPiece (0 : BitVec 4) n, spawnShape_prio, spawnShape_given, spawnShape_tid, spawnShape_tidGiven]
  | spawnrLit s n pr =>
    refine roundTrips_extLit rfl (majOf_encRRR ..) (len_encRRR ..) (by decide) ?_
    rw [decodeExtLit, majOf_encRRR, markOf_encRRR, ext12_enc]
    refine need_eq (Bool.and_eq_true_iff.2 ⟨by rw [zero_encExt1]; rfl,
      zero1_count (extract_highPiece (0 : BitVec 4) n) (.inr rfl) rfl rfl rfl (.inl rfl) rfl⟩)
      (need_eq (zero2_shape (toNat_zero_append_lt (p := 17) pr) (.inr rfl) rfl (.inr rfl)) (need_eq (by rw [fD_encRRR, fX_encRRR]; rfl)
        (opnd_eq (fA_encRRR ..) (opnd_eq (fB_encRRR ..) ?_))))
    rw [extract_lowPiece (0 : BitVec 4) n, extract_lowPiece (0 : BitVec 17) pr]
  | patsetLit s i =>
    refine roundTrips_extLit rfl (majOf_encRRR ..) (len_encRRR ..) (by decide) ?_
    rw [decodeExtLit, majOf_encRRR, markOf_encRRR, ext12_enc]
    refine need_eq (by rw [zero_encExt1]; rfl) (need_eq (zero2_shape (toNat_zero_append_lt (p := 15) i) (.inr rfl) rfl (.inr rfl))
      (need_eq (by rw [fD_encRRR, fB_encRRR, fX_encRRR]; rfl) (opnd_eq (fA_encRRR ..) ((opnd_enc ..).trans ?_))))
    rw [extract_lowPiece (0 : BitVec 15) i]
  | cmp s c k a b => cases b <;> nomatch h
  | _ => nomatch h

/-- The words of every encodable instruction decode to it, but for the checks on its field values. -/
theorem roundTrips_of_encodable {i : Instr} (h : i.encodable = true) : RoundTrips i := by
  cases i with
  | mulh | div | rem | shr | min | max | lea | fadd | fsub | fmul | fdiv | fmin | fmax | aadd | aand | aor | axor
  | amin | amax | axchg | afadd | add | sub | mul | and | or | xor | andn | shl | rot | addi | muli | andi | ori
  | xori | mini | maxi | jmp | callr | flushr | sfree | fsqrt | fclass | ret | exit | yield | trig | eret | rgn
  | pair | unpair | msync | halt | wait | semset | setpri | bararr | barwait | patclr | br | call | shli | roti
  | shri | portstat | li | mov | pfr | fcmp | loop | ld | st | ldbd | stbd | salloc | stq | fence | trap | sysc
  | qmov | clk | physid | mfs | mts | capx | ill | clz | ctz | popc | brev | sext | zext => exact roundTrips_oneWord _ rfl
  | cmp => exact roundTrips_cmp ..
  | addiLit | muliLit | andiLit | oriLit | xoriLit | miniLit | maxiLit | bfx | bfi | liLit | cmpLit | ldLit | stLit
  | ldbdLit | stbdLit | stqLit | tmv | cxtpl | cxgo | cxwm | cxstop | cxrst | vadd | vsub | vmul | vfma | vmin
  | vmax | vabs | vneg | vrcp | vrsq | vexp2 | vlog2 | vlut | vcmp | vsel | vcvt | vscale | vred | vscan | vtopk
  | vgath | vscat | vfill | viota | vpack | vunpk | mma | mmas | mald | mast | maz | mstat | mring | faddExt
  | fsubExt | fmulExt | fdivExt | fminExt | fmaxExt | fsqrtExt | ffma | acas | fcvt | barinit | append | spawn
  | spawnr | post | patset | portcfg | recv => exact roundTrips_threeWords _ rfl
  | spawnLit | spawnrLit | patsetLit => exact roundTrips_fiveWords _ rfl
  | _ => nomatch h

end Sys2Proof
end

section
/-! The statement about the encoder and the decoder, O55. -/

namespace Sys2Proof.Machine
/-- Settles O55: an instruction whose fields pass the checks is given back, and every encodable one is given back but for the checks. -/
theorem decodeEncodeRoundTrip : Obligations.DecodeEncodeRoundTrip := fun _ h =>
  (roundTrips_of_encodable (Instr.encodable_of_wf h)).trans (checked_of_legal (Instr.legal_of_wf h))
end Sys2Proof.Machine
end

section
/-! SUPPORT. Every step of the table keeps sound states, an event answers a next state whatever it acts on, and an instruction does for
its thread. -/

namespace Sys2Proof.Machine
open Sys2Proof.Claims

/-- Each meaning keeps sound states: one case for each step of the table. -/
theorem State.Sound.exec {s : State} (h : s.Sound) (i : Instr) : ∀ u, exec i s = .next u → u.Sound := by
  cases i with
  | boot => exact h.execBoot _ _
  | stackImageVerify => exact h.execStackImageVerify _
  | hbmTrain => exact h.execHbmTrain _ _ _
  | linkTrain => exact h.execLinkTrain _ _ _ _ _ _
  | registerWrite => exact h.execRegisterWrite _ _ _
  | apply => exact h.execApply _
  | launchRecordCommit => exact h.execLaunchRecordCommit _ _
  | lpstatRead => exact h.execLpstatRead _ _ _
  | lpcqhWrite => exact h.execLpcqhWrite _ _
  | lpcqbWrite => exact h.execLpcqbWrite _ _
  | launchHeadCheck => exact h.execLaunchHeadCheck _
  | backoffExpiry => exact h.execBackoffExpiry _
  | crewStart => exact h.execCrewStart _ _
  | launchEnd => exact h.execLaunchEnd _ _ _
  | crewSaved => exact h.execCrewSaved _ _ _
  | crewRestore => exact h.execCrewRestore _ _
  | resultReturn => exact h.execResultReturn _ _ _
  | switchPointCommit => exact h.execSwitchPointCommit _
  | bankAccept => exact h.execBankAccept _
  | semPost => exact h.execSemPost _ _ _
  | debugHalt => exact h.execDebugHalt _
  | debugResume => exact h.execDebugResume _
  | debugWrite => exact h.execDebugWrite _ _ _
  | pageWalkEnd => exact h.execPageWalkEnd _ _ _
  | walkFaultResolve => exact h.execWalkFaultResolve _ _ _ _
  | hbmplaceWrite => exact h.execHbmplaceWrite _ _
  | descriptorWindowWrite => exact h.execDescriptorWindowWrite _ _ _
  | hostBar2Write => exact h.execHostBar2Write _ _
  | hostBar2Read => exact h.execHostBar2Read _ _
  | msixUnmask => exact h.execMsixUnmask _
  | ownerset => exact h.execOwnerset _ _ _
  | stagedImage => exact h.execStagedImage _
  | mxStart => exact h.execMxStart _
  | vxStart => exact h.execVxStart _
  | consumedPost => exact h.execConsumedPost _ _
  | donePost => exact h.execDonePost _ _
  | engineFault => exact h.execEngineFault _ _
  | tmvBlockDone => exact h.execTmvBlockDone _ _
  | cxBlockWrite => exact h.execCxBlockWrite _ _
  | ringBArrive => exact h.execRingBArrive _ _
  | ringTimeout => exact h.execRingTimeout _ _
  | appendAccept => exact h.execAppendAccept _
  | spawnrAccept => exact h.execSpawnrAccept _
  | handlerCreate => exact h.execHandlerCreate _ _ _ _ _ _
  | wakePost => exact h.execWakePost _ _ _ _ _ _
  | recvTake => exact h.execRecvTake _
  | barrierRegister => exact h.execBarrierRegister _ _ _ _
  | barrierArrival => exact h.execBarrierArrival _ _ _ _ _
  | barrierBroken => exact h.execBarrierBroken _ _ _
  | syscAnswer => exact h.execSyscAnswer _ _
  | fingerprintExchange => exact h.execFingerprintExchange _
  | unitRetire => exact h.execUnitRetire _ _ _ _
  | packetRoute => exact h.execPacketRoute _ _
  | holdExpiry => exact h.execHoldExpiry _ _
  | deadlockTimer => exact h.execDeadlockTimer _ _
  | retryResend => exact h.execRetryResend _
  | retryTimeout => exact h.execRetryTimeout _
  | crumbTimeout => exact h.execCrumbTimeout _
  | crumbHoldExpiry => exact h.execCrumbHoldExpiry _
  | linkReplay => exact h.execLinkReplay _ _
  | retrainEnd => exact h.execRetrainEnd _ _
  | fibredown => exact h.execFibredown _ _
  | ringWrite => exact h.execRingWrite _ _ _ _ _ _
  | wavelengthMove => exact h.execWavelengthMove _ _ _
  | powerWindow => exact h.execPowerWindow _
  | patrolScrub => exact h.execPatrolScrub _ _
  | hbmRead => exact h.execHbmRead _ _ _ _
  | hbmTransferRetry => exact h.execHbmTransferRetry _ _ _
  | laneTestEnd => exact h.execLaneTestEnd _ _ _
  | segmentFree => exact h.execSegmentFree _ _
  | add => exact h.execAdd _ _ _ _
  | sub => exact h.execSub _ _ _ _
  | mul => exact h.execMul _ _ _ _
  | mulh => exact h.execMulh _ _ _ _ _
  | div => exact h.execDiv _ _ _ _ _
  | rem => exact h.execRem _ _ _ _ _
  | and => exact h.execAnd _ _ _ _
  | or => exact h.execOr _ _ _ _
  | xor => exact h.execXor _ _ _ _
  | andn => exact h.execAndn _ _ _ _
  | shl => exact h.execShl _ _ _ _
  | shr => exact h.execShr _ _ _ _ _
  | rot => exact h.execRot _ _ _ _
  | min => exact h.execMin _ _ _ _ _
  | max => exact h.execMax _ _ _ _ _
  | clz => exact h.execClz _ _ _
  | ctz => exact h.execCtz _ _ _
  | popc => exact h.execPopc _ _ _
  | brev => exact h.execBrev _ _ _
  | sext => exact h.execSext _ _ _ _
  | zext => exact h.execZext _ _ _ _
  | addi => exact h.execAddi _ _ _ _
  | addiLit => exact h.execAddiLit _ _ _ _
  | muli => exact h.execMuli _ _ _ _
  | muliLit => exact h.execMuliLit _ _ _ _
  | andi => exact h.execAndi _ _ _ _
  | andiLit => exact h.execAndiLit _ _ _ _
  | ori => exact h.execOri _ _ _ _
  | oriLit => exact h.execOriLit _ _ _ _
  | xori => exact h.execXori _ _ _ _
  | xoriLit => exact h.execXoriLit _ _ _ _
  | shli => exact h.execShli _ _ _ _
  | shri => exact h.execShri _ _ _ _ _
  | roti => exact h.execRoti _ _ _ _
  | mini => exact h.execMini _ _ _ _
  | miniLit => exact h.execMiniLit _ _ _ _
  | maxi => exact h.execMaxi _ _ _ _
  | maxiLit => exact h.execMaxiLit _ _ _ _
  | li => exact h.execLi _ _ _
  | liLit => exact h.execLiLit _ _ _
  | lea => exact h.execLea _ _ _ _ _
  | bfx => exact h.execBfx _ _ _ _ _
  | bfi => exact h.execBfi _ _ _ _ _
  | mov => exact h.execMov _ _ _
  | pfr => exact h.execPfr _ _ _
  | cmp => exact h.execCmp _ _ _ _ _
  | cmpLit => exact h.execCmpLit _ _ _ _ _
  | fcmp => exact h.execFcmp _ _ _ _ _ _
  | br => exact h.execBr _ _
  | call => exact h.execCall _ _
  | jmp => exact h.execJmp _ _
  | callr => exact h.execCallr _ _
  | ret => exact h.execRet _
  | loop => exact h.execLoop _ _ _
  | fadd => exact h.execFadd _ _ _ _ _
  | faddExt => exact h.execFaddExt _ _ _ _ _ _
  | fsub => exact h.execFsub _ _ _ _ _
  | fsubExt => exact h.execFsubExt _ _ _ _ _ _
  | fmul => exact h.execFmul _ _ _ _ _
  | fmulExt => exact h.execFmulExt _ _ _ _ _ _
  | ffma => exact h.execFfma _ _ _ _ _ _ _
  | fdiv => exact h.execFdiv _ _ _ _ _
  | fdivExt => exact h.execFdivExt _ _ _ _ _ _
  | fsqrt => exact h.execFsqrt _ _ _ _
  | fsqrtExt => exact h.execFsqrtExt _ _ _ _ _
  | fmin => exact h.execFmin _ _ _ _ _
  | fminExt => exact h.execFminExt _ _ _ _ _ _
  | fmax => exact h.execFmax _ _ _ _ _
  | fmaxExt => exact h.execFmaxExt _ _ _ _ _ _
  | fcvt => exact h.execFcvt _ _ _ _ _ _ _
  | fclass => exact h.execFclass _ _ _ _
  | ld => exact h.execLd _ _ _ _ _ _ _
  | ldLit => exact h.execLdLit _ _ _ _ _ _ _
  | st => exact h.execSt _ _ _ _ _ _
  | stLit => exact h.execStLit _ _ _ _ _ _
  | ldbd => exact h.execLdbd _ _ _ _
  | ldbdLit => exact h.execLdbdLit _ _ _ _
  | stbd => exact h.execStbd _ _ _ _
  | stbdLit => exact h.execStbdLit _ _ _ _
  | fence => exact h.execFence _ _
  | flushr sm => exact h.execFlushr sm _
  | stq => exact h.execStq _ _ _ _
  | stqLit => exact h.execStqLit _ _ _ _
  | qmov => exact h.execQmov _ _ _
  | salloc => exact h.execSalloc _ _ _ _
  | sfree => exact h.execSfree _ _
  | aadd => exact h.execAadd _ _ _ _ _
  | aand => exact h.execAand _ _ _ _ _
  | aor => exact h.execAor _ _ _ _ _
  | axor => exact h.execAxor _ _ _ _ _
  | amin => exact h.execAmin _ _ _ _ _
  | amax => exact h.execAmax _ _ _ _ _
  | axchg => exact h.execAxchg _ _ _ _ _
  | acas => exact h.execAcas _ _ _ _ _ _
  | afadd => exact h.execAfadd _ _ _ _ _
  | append => exact h.execAppend _ _ _ _ _
  | spawn => exact h.execSpawn _ _ _ _ _ _ _ _ _
  | spawnLit => exact h.execSpawnLit _ _ _ _ _ _ _ _ _
  | spawnr => exact h.execSpawnr _ _ _ _ _ _ _
  | spawnrLit => exact h.execSpawnrLit _ _ _ _ _ _ _
  | exit sm => exact h.execExit sm
  | yield sm => exact h.execYield sm
  | setpri => exact h.execSetpri _ _ _
  | wait sm => exact h.execWait sm _ _ _
  | post => exact h.execPost _ _ _ _
  | semset => exact h.execSemset _ _ _ _
  | trig => exact h.execTrig _
  | barinit => exact h.execBarinit _ _ _ _
  | bararr => exact h.execBararr _ _ _
  | barwait sm => exact h.execBarwait sm _ _
  | patset => exact h.execPatset _ _ _ _ _
  | patsetLit => exact h.execPatsetLit _ _ _ _ _
  | patclr => exact h.execPatclr _ _ _
  | portcfg => exact h.execPortcfg _ _ _ _
  | recv sm => exact h.execRecv sm _ _ _ _
  | trap sm => exact h.execTrap sm _
  | sysc sm => exact h.execSysc sm _
  | eret sm => exact h.execEret sm
  | mfs => exact h.execMfs _ _ _
  | mts => exact h.execMts _ _ _
  | rgn => exact h.execRgn _
  | pair => exact h.execPair _
  | unpair => exact h.execUnpair _
  | msync sm => exact h.execMsync sm
  | clk => exact h.execClk _ _
  | physid => exact h.execPhysid _ _
  | capx => exact h.execCapx _ _ _
  | halt sm => exact h.execHalt sm
  | portstat => exact h.execPortstat _ _ _ _
  | ill sm len u => exact h.execIll sm len u
  | tmv => exact h.execTmv _
  | cxtpl => exact h.execCxtpl _
  | cxgo => exact h.execCxgo _
  | cxwm => exact h.execCxwm _
  | cxstop => exact h.execCxstop _
  | cxrst => exact h.execCxrst _
  | vadd => exact h.execVadd _
  | vsub => exact h.execVsub _
  | vmul => exact h.execVmul _
  | vfma => exact h.execVfma _
  | vmin => exact h.execVmin _
  | vmax => exact h.execVmax _
  | vabs => exact h.execVabs _
  | vneg => exact h.execVneg _
  | vrcp => exact h.execVrcp _
  | vrsq => exact h.execVrsq _
  | vexp2 => exact h.execVexp2 _
  | vlog2 => exact h.execVlog2 _
  | vlut => exact h.execVlut _
  | vcmp => exact h.execVcmp _
  | vsel => exact h.execVsel _
  | vcvt => exact h.execVcvt _
  | vscale => exact h.execVscale _
  | vred => exact h.execVred _
  | vscan => exact h.execVscan _
  | vtopk => exact h.execVtopk _
  | vgath => exact h.execVgath _
  | vscat => exact h.execVscat _
  | vfill => exact h.execVfill _
  | viota => exact h.execViota _
  | vpack => exact h.execVpack _
  | vunpk => exact h.execVunpk _
  | mma => exact h.execMma _
  | mmas => exact h.execMmas _
  | mald => exact h.execMald _
  | mast => exact h.execMast _
  | maz => exact h.execMaz _
  | mstat => exact h.execMstat _
  | mring => exact h.execMring _
  | packetTransmit => exact h.execPacketTransmit _
  | tagReuse => exact h.execTagReuse _
  | capxComplete => exact h.execCapxComplete _
  | dispReady => exact h.execDispReady _ _ _ _ _
  | ringRetire => exact h.execRingRetire _ _ _
  | debugEnd => exact h.execDebugEnd _
  | rd => exact h.execRd
  | wr => exact h.execWr
  | wrn => exact h.execWrn
  | atm => exact h.execAtm
  | atmp => exact h.execAtmp
  | matm => exact h.execMatm
  | app => exact h.execApp
  | spw => exact h.execSpw
  | flu => exact h.execFlu
  | rdr => exact h.execRdr
  | atr => exact h.execAtr
  | matr => exact h.execMatr
  | sts => exact h.execSts
  | ack => exact h.execAck
  | retry => exact h.execRetry
  | mgt => exact h.execMgt
  | resCollapse => exact h.execResCollapse
  | resInval => exact h.execResInval
  | resAck => exact h.execResAck
  | resDone => exact h.execResDone
  | resMoved => exact h.execResMoved
  | resDup => exact h.execResDup
  | resMigrate => exact h.execResMigrate
  | resCollapseCommand => exact h.execResCollapseCommand
  | resSplit => exact h.execResSplit
  | resMapped => exact h.execResMapped
  | dup => exact h.execDup
  | migrate => exact h.execMigrate
  | collapse => exact h.execCollapse
  | split => exact h.execSplit
  | tinv => exact h.execTinv
  | tinvComplete => exact h.execTinvComplete
  | preemptSave => exact h.execPreemptSave
  | preemptRestore => exact h.execPreemptRestore
  | attest => exact h.execAttest
  | patternEvaluation => exact h.execPatternEvaluation
  | coldReset => exact h.execColdReset
  | functionLevelReset => exact h.execFunctionLevelReset
  | hostLinkTrain => exact h.execHostLinkTrain
  | endSweep => exact h.execEndSweep
  | annulment => exact h.execAnnulment
  | asyncTrap => exact h.execAsyncTrap
  | residencyResume => exact h.execResidencyResume
  | pdRefresh => exact h.execPdRefresh
  | tempRefresh => exact h.execTempRefresh

/-- An event of the table completes, whatever it acts on. -/
theorem exec_next_of_eventOp {i : Instr} (h : eventOp i = true) (s : State) : ∃ u, exec i s = .next u := by
  cases i with
  | add | sub | mul | mulh | div | rem | and | or | xor | andn | shl | shr | rot | min | max | clz | ctz | popc | brev | sext | zext
  | addi | addiLit | muli | muliLit | andi | andiLit | ori | oriLit | xori | xoriLit | shli | shri | roti | mini | miniLit | maxi
  | maxiLit | li | liLit | lea | bfx | bfi | mov | pfr | cmp | cmpLit | fcmp | br | call | jmp | callr | ret | loop | fadd | faddExt
  | fsub | fsubExt | fmul | fmulExt | ffma | fdiv | fdivExt | fsqrt | fsqrtExt | fmin | fminExt | fmax | fmaxExt | fcvt | fclass | ld
  | ldLit | st | stLit | ldbd | ldbdLit | stbd | stbdLit | fence | flushr | stq | stqLit | qmov | salloc | sfree | aadd | aand | aor
  | axor | amin | amax | axchg | acas | afadd | append | spawn | spawnLit | spawnr | spawnrLit | exit | yield | setpri | wait | post
  | semset | trig | barinit | bararr | barwait | patset | patsetLit | patclr | portcfg | recv | trap | sysc | eret | mfs | mts | rgn
  | pair | unpair | msync | clk | physid | capx | halt | portstat | ill | tmv | cxtpl | cxgo | cxwm | cxstop | cxrst | vadd | vsub | vmul
  | vfma | vmin | vmax | vabs | vneg | vrcp | vrsq | vexp2 | vlog2 | vlut | vcmp | vsel | vcvt | vscale | vred | vscan | vtopk | vgath
  | vscat | vfill | viota | vpack | vunpk | mma | mmas | mald | mast | maz | mstat | mring |
    annulment | asyncTrap => nomatch h
  | _ => exact ⟨_, rfl⟩

/-- With a thread that issues, every instruction completes, and so does what stands in its place. -/
theorem exec_next_of_issues {s : State} {t : Thread} (h : Issues s t) (i : Instr) : ∃ u, exec i s = .next u := by
  cases i with
  | add | sub | mul | mulh | div | rem | and | or | xor | andn | shl | shr | rot | min | max | clz | ctz | popc | brev | sext | zext
  | addi | addiLit | muli | muliLit | andi | andiLit | ori | oriLit | xori | xoriLit | shli | shri | roti | mini | miniLit | maxi
  | maxiLit | li | liLit | lea | bfx | bfi | mov | pfr | cmp | cmpLit | fcmp | br | call | jmp | callr | ret | loop | fadd | faddExt
  | fsub | fsubExt | fmul | fmulExt | ffma | fdiv | fdivExt | fsqrt | fsqrtExt | fmin | fminExt | fmax | fmaxExt | fcvt | fclass | ld
  | ldLit | st | stLit | ldbd | ldbdLit | stbd | stbdLit | fence | flushr | stq | stqLit | qmov | salloc | sfree | aadd | aand | aor
  | axor | amin | amax | axchg | acas | afadd | append | spawn | spawnLit | spawnr | spawnrLit | exit | yield | setpri | wait | post
  | semset | trig | barinit | bararr | barwait | patset | patsetLit | patclr | portcfg | recv | trap | sysc | eret | mfs | mts | rgn
  | pair | unpair | msync | clk | physid | capx | halt | portstat | ill | tmv | cxtpl | cxgo | cxwm | cxstop | cxrst | vadd | vsub | vmul
  | vfma | vmin | vmax | vabs | vneg | vrcp | vrsq | vexp2 | vlog2 | vlut | vcmp | vsel | vcvt | vscale | vred | vscan | vtopk | vgath
  | vscat | vfill | viota | vpack | vunpk | mma | mmas | mald | mast | maz | mstat | mring |
    annulment | asyncTrap => exact ⟨_, onCur_issues h _⟩
  | _ => exact ⟨_, rfl⟩

end Sys2Proof.Machine
end

section
/-! SUPPORT. What a step does when nothing is due: the thread that issues, and what comes in the place of its instruction. -/

namespace Sys2Proof.Machine
open Sys2Proof.Claims

namespace State
variable {s s1 : State} {t : Thread}

/-- The state in which a thread issues: it has taken its issue position, and nothing is acted on but it (R196 to R198). -/
def issuing (s : State) (t : Thread) : State :=
  { s.setThread (s.takePosition t) with cur := (t.unit, t.slot), pkt := none, cmd := none }

theorem issues_issuing (s : State) (t : Thread) : Issues (s.issuing t) (s.takePosition t) := s.thread?_setThread_self (s.takePosition t)

/-- A thread stays the one that issues when it is put back changed. -/
theorem issues_setThread (u : State) (w : Thread) (h : u.cur = (w.unit, w.slot)) : Issues (u.setThread w) w := by
  rw [Issues, curThread?, setThread_cur, h]
  exact u.thread?_setThread_self w

theorem putThread_putThread_self (ts : List Thread) (t : Thread) : putThread (putThread ts t) t = putThread ts t := by
  induction ts with
  | nil => simp [putThread]
  | cons x r ih =>
    by_cases hlt : (t.unit < x.unit || (t.unit == x.unit && t.slot < x.slot)) = true
    · rw [show putThread (x :: r) t = t :: x :: r from if_pos hlt]
      simp [putThread]
    · by_cases heq : (t.unit == x.unit && t.slot == x.slot) = true
      · rw [show putThread (x :: r) t = t :: r from (if_neg hlt).trans (if_pos heq)]
        simp [putThread]
      · simp only [putThread, if_neg hlt, if_neg heq, ih]

/-- Putting the thread that issues back as it is changes nothing. -/
theorem setThread_issuing (s : State) (t : Thread) : (s.issuing t).setThread (s.takePosition t) = s.issuing t := by
  simp only [issuing, setThread, putThread_putThread_self]

theorem step_issue (hi : s.inputs = []) (ha : ∀ e ∈ s.agenda, s.now < e.due) (hn : s.nextIssue = some (s1, t)) :
    step s = issue s1 t := by
  rw [step, hi]
  dsimp only
  split
  · rename_i e r he
    rw [if_neg (Nat.not_le.2 (ha e (he ▸ List.mem_cons_self))), hn]
  · rw [hn]

/-! What comes at an issue, by the state of the thread (R253, R386, R239). -/

theorem issue_async (h : t.async ≠ []) : issue s t = exec .asyncTrap (s.issuing t) :=
  if_pos (by simpa [takePosition] using h)

theorem issue_annulled (ha : t.async = []) (hk : t.skipc ≠ 0) : issue s t = exec .annulment (s.issuing t) :=
  (if_neg (by simp [takePosition, ha])).trans (if_pos (by simpa [takePosition] using hk))

/-- What follows the fetch. -/
def afterFetch (s : State) (t : Thread) : Fetch → Host.Outcome State Fault Refusal
  | .words ws => match decode ws with
    | .ok i => match s.before t i with
      | .go u => twinned (exec i) u t
      | .stop u => .next u
    | .error e => .next (s.illegal t e.sub e.word)
  | f => .next (s.fetchFails t f)

theorem issue_fetch (ha : t.async = []) (hk : t.skipc = 0) :
    issue s t = (s.issuing t).afterFetch (s.takePosition t) ((s.issuing t).fetch (s.takePosition t)) := by
  refine (if_neg (by simp [takePosition, ha])).trans ((if_neg (by simp [takePosition, hk])).trans ?_)
  rfl

/-- An instruction that goes on to its meaning does so in the state with its thread as the hold of a vault read leaves it (R57). -/
theorem before_go {i : Instr} {u : State} (h : s.before t i = .go u) :
    u = s.setThread (if readsVault i then { t with eligRound := s.round + 2 } else t) := by
  unfold before at h
  split at h
  · cases h
  · dsimp only at h
    split at h
    · cases h
    · cases h
      rfl

/-- An unpaired thread whose instruction reads neither poison nor the vault goes on as it is (R57, R374, R376). -/
theorem before_unpaired {i : Instr} (htw : t.twin = none) (hp : sourcePsn t i = none) (hv : readsVault i = false) :
    s.before t i = .go (s.setThread t) := by
  simp [before, htw, hv, hp]

theorem issues_before {i : Instr} {u : State} (hc : s.cur = (t.unit, t.slot)) (h : s.before t i = .go u) : ∃ w, Issues u w := by
  rw [before_go h]
  exact ⟨_, issues_setThread s _ (by split <;> exact hc)⟩

/-- An instruction that completes does so beside its twin's too (R320). -/
theorem twinned_next {run : State → Host.Outcome State Fault Refusal} (h : ∃ u, run s = .next u) : ∃ u, twinned run s t = .next u := by
  obtain ⟨u, hu⟩ := h
  unfold twinned
  split
  · exact ⟨u, hu⟩
  · rw [hu]
    split
    · exact ⟨u, rfl⟩
    · dsimp only
      split
      · exact ⟨_, rfl⟩
      · exact ⟨u, rfl⟩

theorem afterFetch_next (hc : s.cur = (t.unit, t.slot)) (f : Fetch) : ∃ u, s.afterFetch t f = .next u := by
  unfold afterFetch
  split
  · split
    · rename_i i _
      split
      · rename_i hb
        obtain ⟨w, hw⟩ := issues_before hc hb
        exact twinned_next (exec_next_of_issues hw i)
      · exact ⟨_, rfl⟩
    · exact ⟨_, rfl⟩
  · exact ⟨_, rfl⟩

theorem issue_next (s : State) (t : Thread) : ∃ u, issue s t = .next u := by
  by_cases ha : t.async = []
  · by_cases hk : t.skipc = 0
    · rw [issue_fetch ha hk]
      exact afterFetch_next rfl _
    · rw [issue_annulled ha hk]
      exact exec_next_of_issues (s.issues_issuing t) _
  · rw [issue_async ha]
    exact exec_next_of_issues (s.issues_issuing t) _

namespace Sound

theorem issuing (h : s.Sound) (t : Thread) : (s.issuing t).Sound := (h.setThread (s.takePosition t)).upd

theorem before_stop {i : Instr} {u : State} (h : s.Sound) (hb : s.before t i = .stop u) : u.Sound := by
  unfold State.before at hb
  split at hb
  · cases hb
    exact h.exchange t
  · dsimp only at hb
    split at hb
    · cases hb
      exact h.consume _ _
    · cases hb

theorem twinned {run : State → Host.Outcome State Fault Refusal} (hrun : ∀ {v : State}, v.Sound → ∀ u, run v = .next u → u.Sound)
    (h : s.Sound) (t : Thread) : ∀ u, twinned run s t = .next u → u.Sound := by
  unfold Machine.twinned
  intro u hu
  split at hu
  · exact hrun h u hu
  · split at hu
    · exact hrun h u hu
    · split at hu
      · rename_i x hx
        split at hu
        · rename_i v hv
          injection hu with hu
          exact hu ▸ (hrun h x hx).followTwin v t (hrun (h.onRef ..) v hv)
        · injection hu with hu
          exact hu ▸ hrun h x hx
      · exact hrun h u hu

theorem afterFetch (h : s.Sound) (t : Thread) (f : Fetch) : ∀ u, s.afterFetch t f = .next u → u.Sound := by
  unfold State.afterFetch
  intro u hu
  split at hu
  · split at hu
    · rename_i i _
      split at hu
      · rename_i v hb
        have hv : v.Sound := before_go hb ▸ h.setThread _
        exact hv.twinned (fun hw => hw.exec i) t u hu
      · rename_i hb
        cases hu
        exact h.before_stop hb
    · cases hu
      exact h.illegal ..
  · cases hu
    exact h.fetchFails ..

theorem issue (h : s.Sound) (t : Thread) : ∀ u, issue s t = .next u → u.Sound := by
  by_cases ha : t.async = []
  · by_cases hk : t.skipc = 0
    · rw [issue_fetch ha hk]
      exact (h.issuing t).afterFetch _ _
    · rw [issue_annulled ha hk]
      exact (h.issuing t).exec _
  · rw [issue_async ha]
    exact (h.issuing t).exec _

end Sound

/-- What a step runs: what comes from outside, the oldest event that is due, the instruction of the thread that issues, or the end of the
cycle. -/
theorem step_cases (s : State) :
    (∃ e r, s.inputs = e :: r ∧ step s = .next ({ s with inputs := r }.schedEv 0 (inputRank e.op) e)) ∨
    (∃ e r, s.inputs = [] ∧ s.agenda = e :: r ∧ step s = exec e.ev.op { s with agenda := r, pkt := e.ev.pkt, cmd := e.ev.cmd }) ∨
    (∃ s1 t, s.nextIssue = some (s1, t) ∧ step s = Machine.issue s1 t) ∨ step s = .next s.tick := by
  cases hi : s.inputs with
  | cons e r => exact .inl ⟨e, r, rfl, step_input hi⟩
  | nil =>
    refine .inr ?_
    rw [step, hi]
    dsimp only
    split
    · rename_i e r he
      split
      · exact .inl ⟨e, r, rfl, he, rfl⟩
      · split
        · rename_i s1 t hn
          exact .inr (.inl ⟨s1, t, hn, rfl⟩)
        · exact .inr (.inr rfl)
    · split
      · rename_i s1 t hn
        exact .inr (.inl ⟨s1, t, hn, rfl⟩)
      · exact .inr (.inr rfl)

end State

end Sys2Proof.Machine
end

section
/-! The statements about what every step keeps, O56 and O58, and about the step that runs an instruction, O59. -/

namespace Sys2Proof.Machine
open Sys2Proof.Claims

/-- Settles O56: what comes from outside and what is due are events of the table, and each meaning keeps sound states. -/
theorem stepKeepsSound : Obligations.StepKeepsSound := by
  intro s u hs hu
  obtain ⟨e, r, hi, h⟩ | ⟨e, r, -, ha, h⟩ | ⟨s1, t, hn, h⟩ | h := s.step_cases
  all_goals rw [h] at hu
  · cases hu
    have hall := hs.inputs
    rw [hi, List.all_cons, Bool.and_eq_true] at hall
    have hs' : ({ s with inputs := r } : State).Sound := ⟨hs.mem, hs.desc, hs.psn, hs.descPsn, hs.threads, hall.2, hs.agenda⟩
    exact hs'.schedEv _ _ _ hall.1
  · have hall := hs.agenda
    rw [ha, List.all_cons, Bool.and_eq_true] at hall
    have hs' : ({ s with agenda := r, pkt := e.ev.pkt, cmd := e.ev.cmd } : State).Sound :=
      ⟨hs.mem, hs.desc, hs.psn, hs.descPsn, hs.threads, hs.inputs, hall.2⟩
    exact hs'.exec _ u hu
  · exact (hs.nextIssue s1 t hn).issue t u hu
  · cases hu
    exact hs.tick

/-- Settles O58: what is due in a sound state is an event, every event answers a next state, and an instruction does for its thread. -/
theorem machineNeverStops : Obligations.MachineNeverStops := by
  refine ⟨fun s hs => ?steps, ?events, fun s t ht i _ => exec_next_of_issues ht i⟩
  case steps =>
    obtain ⟨e, r, -, h⟩ | ⟨e, r, -, ha, h⟩ | ⟨s1, t, -, h⟩ | h := s.step_cases
    all_goals rw [h]
    · exact ⟨_, rfl⟩
    · have hall := hs.agenda
      rw [ha, List.all_cons, Bool.and_eq_true] at hall
      exact exec_next_of_eventOp hall.1 _
    · exact State.issue_next s1 t
    · exact ⟨_, rfl⟩
  case events =>
    intro s
    intros
    rename_i i hi
    have hev : eventOp i = true := by
      refine List.all_eq_true.1 ?_ i hi
      rfl
    obtain ⟨u, hu⟩ := exec_next_of_eventOp hev s
    exact ⟨u, hu, fun hs => hs.exec i u hu⟩

/-- Settles O59: the issue of a thread by its asynchronous faults, its annulment count and the words at its PC. -/
theorem stepRunsDecodedInstruction : Obligations.StepRunsDecodedInstruction := by
  intro s s1 t hi ha hn
  have hstep : step s = issue s1 t := State.step_issue hi ha hn
  refine ⟨s1.issues_issuing t, fun h => hstep.trans (State.issue_async h), fun h hk => hstep.trans (State.issue_annulled h hk),
    fun h hk ws hws => ⟨fun i hd => ⟨fun s3 hb => ?goes, fun htw hp hv => ?plain⟩, fun e he => ?bad⟩⟩
  all_goals
    have hissue := hstep.trans (State.issue_fetch h hk)
    rw [show (s1.issuing t).fetch (s1.takePosition t) = .words ws from hws] at hissue
  · have hrun : step s = twinned (exec i) s3 (s1.takePosition t) := by
      rw [hissue, State.afterFetch]
      simp only [hd, show (s1.issuing t).before (s1.takePosition t) i = .go s3 from hb]
    refine ⟨hrun, fun hown => ?_⟩
    rw [hrun, twinned]
    split
    · rfl
    · rename_i w hw
      rw [hown w hw]
      rfl
  · have hb : (s1.issuing t).before (s1.takePosition t) i = .go (s1.issuing t) := by
      rw [State.before_unpaired htw hp hv, State.setThread_issuing]
    rw [hissue, State.afterFetch]
    simp only [hd, hb, twinned, htw]
    rfl
  · rw [hissue, State.afterFetch]
    simp only [he]
    rfl

end Sys2Proof.Machine
end

section
/-! SUPPORT. What the integer functions of the model give (R266 to R270): the shared meanings as arithmetic on machine words, bit by bit where
the rule says it so. -/

namespace Sys2Proof.Machine

/-! ## Products, quotients, minima -/

theorem mulHigh_unsigned (p q : Word) : mulHigh true p q = (p.setWidth 128 * q.setWidth 128).extractLsb' 64 64 := by
  apply BitVec.eq_of_toNat_eq
  have hp := p.isLt
  have hq := q.isLt
  have hlt : p.toNat * q.toNat < 2 ^ 128 := by
    calc p.toNat * q.toNat < 2 ^ 64 * 2 ^ 64 := Nat.mul_lt_mul'' hp hq
      _ = 2 ^ 128 := by norm_num
  rw [BitVec.extractLsb'_toNat, BitVec.toNat_mul, BitVec.toNat_setWidth, BitVec.toNat_setWidth,
    Nat.mod_eq_of_lt (show p.toNat < 2 ^ 128 by omega), Nat.mod_eq_of_lt (show q.toNat < 2 ^ 128 by omega),
    Nat.mod_eq_of_lt hlt, Nat.shiftRight_eq_div_pow]
  simp [mulHigh, wd]

/-- Bits 127:64 of an integer of 128 bits. -/
theorem extractHigh_ofInt (z : Int) : (BitVec.ofInt 128 z).extractLsb' 64 64 = BitVec.ofInt 64 (z / 2 ^ 64) := by
  apply BitVec.eq_of_toNat_eq
  rw [BitVec.extractLsb'_toNat, BitVec.toNat_ofInt, BitVec.toNat_ofInt, Nat.shiftRight_eq_div_pow]
  omega

theorem mulHigh_signed (p q : Word) : mulHigh false p q = (p.signExtend 128 * q.signExtend 128).extractLsb' 64 64 := by
  have hprod : p.signExtend 128 * q.signExtend 128 = BitVec.ofInt 128 (p.toInt * q.toInt) := by
    rw [BitVec.ofInt_mul]
    rfl
  rw [hprod, extractHigh_ofInt, mulHigh, if_neg (by decide), Int.fdiv_eq_ediv_of_nonneg _ (by norm_num)]

theorem mulHigh_eq (x : Bool) (p q : Word) : mulHigh x p q =
    if x then (p.setWidth 128 * q.setWidth 128).extractLsb' 64 64 else (p.signExtend 128 * q.signExtend 128).extractLsb' 64 64 := by
  cases x with
  | true => exact mulHigh_unsigned p q
  | false => exact mulHigh_signed p q

theorem rotateLeft_eq (p : Word) {c : Nat} (h : c < 64) : p.rotateLeft c = (p <<< c) ||| (p >>> (64 - c)) := by
  rw [BitVec.rotateLeft_def, Nat.mod_eq_of_lt h]

theorem minOf_eq (x : Bool) (p q : Word) : minOf x p q = if x then (if p.ule q then p else q) else (if p.sle q then p else q) := by
  cases x with
  | true => simp only [minOf, if_pos, BitVec.ule_eq_not_ult]; cases q.ult p <;> rfl
  | false => simp only [minOf, BitVec.sle_eq_not_slt]; cases q.slt p <;> rfl

theorem maxOf_eq (x : Bool) (p q : Word) : maxOf x p q = if x then (if p.ule q then q else p) else (if p.sle q then q else p) := by
  cases x with
  | true =>
    have h : p.ult q = true ∨ p = q ∨ p.ule q = false := by
      simp only [BitVec.ult, BitVec.ule, decide_eq_true_eq, decide_eq_false_iff_not, ← BitVec.toNat_inj]
      omega
    obtain h | rfl | h := h
    · have hle : p.ule q = true := by simp only [BitVec.ult, BitVec.ule, decide_eq_true_eq] at h ⊢; omega
      simp [maxOf, h, hle]
    · simp [maxOf]
    · have hlt : p.ult q = false := by
        simp only [BitVec.ult, BitVec.ule, decide_eq_false_iff_not] at h ⊢; omega
      simp [maxOf, h, hlt]
  | false =>
    have h : p.slt q = true ∨ p = q ∨ p.sle q = false := by
      simp only [BitVec.slt, BitVec.sle, decide_eq_true_eq, decide_eq_false_iff_not, ← BitVec.toInt_inj]
      omega
    obtain h | rfl | h := h
    · have hle : p.sle q = true := by simp only [BitVec.slt, BitVec.sle, decide_eq_true_eq] at h ⊢; omega
      simp [maxOf, h, hle]
    · simp [maxOf]
    · have hlt : p.slt q = false := by
        simp only [BitVec.slt, BitVec.sle, decide_eq_false_iff_not] at h ⊢; omega
      simp [maxOf, h, hlt]

theorem ofInt_tdiv (p q : Word) : BitVec.ofInt 64 (p.toInt.tdiv q.toInt) = p.sdiv q := by
  apply BitVec.eq_of_toInt_eq
  rw [BitVec.toInt_ofInt, BitVec.toInt_sdiv]

theorem divide_eq (x : Bool) (p q : Word) : divide x p q = if q = 0 then 0xFFFFFFFFFFFFFFFF else if x then p.udiv q else p.sdiv q := by
  unfold divide
  split
  · rfl
  · split
    · apply BitVec.eq_of_toNat_eq
      have := p.isLt
      have := Nat.div_le_self p.toNat q.toNat
      rw [wd, BitVec.toNat_ofNat, Nat.mod_eq_of_lt (by omega)]
      exact (BitVec.toNat_udiv ..).symm
    · exact ofInt_tdiv p q

theorem remainder_eq (x : Bool) (p q : Word) : remainder x p q = if q = 0 then p else if x then p.umod q else p.srem q := by
  unfold remainder
  split
  · rfl
  · rename_i hq
    rw [divide_eq, if_neg hq]
    cases x with
    | true =>
      apply BitVec.eq_of_toNat_eq
      have hdiv : (p.udiv q).toNat = p.toNat / q.toNat := BitVec.toNat_udiv ..
      have hmod : (p.umod q).toNat = p.toNat % q.toNat := BitVec.toNat_umod ..
      have hlt := p.isLt
      have hsum := Nat.div_add_mod p.toNat q.toNat
      rw [if_pos rfl, if_pos rfl, BitVec.toNat_sub, BitVec.toNat_mul, hdiv, hmod]
      generalize q.toNat * (p.toNat / q.toNat) = m at hsum ⊢
      omega
    | false =>
      have hrem : p.srem q = BitVec.ofInt 64 (p.toInt.tmod q.toInt) := by
        rw [← BitVec.toInt_srem, BitVec.ofInt_toInt]
      rw [if_neg (by decide), if_neg (by decide), hrem, Int.tmod_def, Int.sub_eq_add_neg, BitVec.ofInt_add, BitVec.ofInt_neg,
        BitVec.ofInt_mul, BitVec.ofInt_toInt, BitVec.ofInt_toInt, ofInt_tdiv, BitVec.sub_eq_add_neg]

/-! ## Bits -/

/-- A mask of the low `n` bits. -/
theorem getLsbD_fieldMask (n i : Nat) (h : n ≤ 64) : (fieldMask n).getLsbD i = decide (i < n) := by
  rw [fieldMask, wd, BitVec.getLsbD_ofNat, Nat.testBit_two_pow_sub_one]
  by_cases hi : i < n
  · simp [hi, show i < 64 by omega]
  · simp [hi]

theorem getLsbD_extractField (pos n i : Nat) (p : Word) (h : n ≤ 64) :
    (extractField pos n p).getLsbD i = (decide (i < n) && p.getLsbD (pos + i)) := by
  rw [extractField, BitVec.getLsbD_and, BitVec.getLsbD_ushiftRight, getLsbD_fieldMask n i h, Bool.and_comm]

theorem getLsbD_insertField (pos n i : Nat) (d p : Word) (h : pos + n ≤ 64) :
    (insertField pos n d p).getLsbD i = if pos ≤ i ∧ i < pos + n then p.getLsbD (i - pos) else d.getLsbD i := by
  by_cases hi : i < 64
  · simp only [insertField, BitVec.getLsbD_or, BitVec.getLsbD_and, BitVec.getLsbD_not, BitVec.getLsbD_shiftLeft,
      getLsbD_fieldMask n _ (show n ≤ 64 by omega), hi, decide_true, Bool.true_and]
    by_cases hlo : pos ≤ i
    · by_cases hhi : i < pos + n
      · simp [hlo, hhi, show ¬i < pos by omega, show i - pos < n by omega]
      · simp [hhi, show ¬i < pos by omega, show ¬i - pos < n by omega]
    · simp [hlo, show i < pos by omega]
  · rw [if_neg (by omega), BitVec.getLsbD_of_ge _ _ (by omega), BitVec.getLsbD_of_ge _ _ (by omega)]

/-- A sign extension from bit `n - 1`, by a shift up and an arithmetic shift down. -/
theorem signExtend_eq (n : Nat) (p : Word) (hn : 0 < n) (h : n ≤ 64) : signExtend n p = BitVec.signExtend 64 (p.setWidth n) := by
  apply BitVec.eq_of_getLsbD_eq
  intro i hi
  simp only [signExtend, BitVec.getLsbD_sshiftRight, BitVec.getLsbD_signExtend, BitVec.getLsbD_shiftLeft, BitVec.msb_eq_getLsbD_last,
    BitVec.getLsbD_setWidth, hi, decide_true, Bool.true_and]
  by_cases hin : i < n
  · simp [hin, hi, show 64 - n + i < 64 by omega]
  · simp [hin, show ¬64 - n + i < 64 by omega, show 63 - (64 - n) = n - 1 by omega, show ¬63 < 64 - n by omega,
      show n - 1 < n by omega, show ¬64 ≤ i by omega]

theorem zeroExtend_eq_setWidth (n : Nat) (p : Word) (h : n ≤ 64) : zeroExtend n p = BitVec.setWidth 64 (p.setWidth n) := by
  rw [zeroExtend_eq h]
  exact BitVec.eq_of_toNat_eq (by simp [wd])

/-! ## Counts of bits (R267) -/

theorem wd_toNat_small {n : Nat} (h : n < 2 ^ 64) : (wd n).toNat = n := by
  rw [wd, BitVec.toNat_ofNat, Nat.mod_eq_of_lt h]

theorem toNat_ne_zero {p : Word} (h : p ≠ 0) : p.toNat ≠ 0 := fun h0 => h (BitVec.eq_of_toNat_eq h0)

theorem leadingZeros_spec (p : Word) : (leadingZeros p).toNat ≤ 64 ∧ (∀ i, 64 ≤ i + (leadingZeros p).toNat → p.getLsbD i = false) ∧
    ((leadingZeros p).toNat < 64 → p.getLsbD (63 - (leadingZeros p).toNat) = true) := by
  by_cases hp : p = 0
  · subst hp
    refine ⟨by decide, fun i _ => by simp, fun h => absurd h (by decide)⟩
  · have hlog : p.toNat.log2 < 64 := (Nat.log2_lt (toNat_ne_zero hp)).2 p.isLt
    have hv : (leadingZeros p).toNat = 63 - p.toNat.log2 := by
      rw [leadingZeros, if_neg hp, wd_toNat_small (by omega)]
    rw [hv]
    refine ⟨by omega, fun i hi => ?_, fun _ => ?_⟩
    · rw [BitVec.getLsbD]
      exact Nat.testBit_lt_two_pow (Nat.lt_of_lt_of_le Nat.lt_log2_self (Nat.pow_le_pow_right (by decide) (by omega)))
    · rw [BitVec.getLsbD, show 63 - (63 - p.toNat.log2) = p.toNat.log2 by omega]
      exact Nat.testBit_log2 (toNat_ne_zero hp)

/-- A number and its negative have the lowest set bit in common, and no other. -/
theorem and_neg_eq_twoPow {p : Word} {k : Nat} (hk : p.getLsbD k = true) (hlow : ∀ j, j < k → p.getLsbD j = false) :
    p &&& (0 - p) = BitVec.twoPow 64 k := by
  have hk64 : k < 64 := BitVec.lt_of_getLsbD hk
  apply BitVec.eq_of_getLsbD_eq
  intro i hi
  rw [show 0 - p = -p from BitVec.zero_sub .., BitVec.getLsbD_and, BitVec.getLsbD_neg, BitVec.getLsbD_twoPow, decide_eq_true hi, decide_eq_true hk64,
    Bool.true_and, Bool.true_and]
  obtain hlt | rfl | hgt := Nat.lt_trichotomy i k
  · simp [hlow i hlt, Nat.ne_of_gt hlt]
  · have hno : ¬∃ j < i, p.getLsbD j = true := fun ⟨j, hj, hb⟩ => by simp [hlow j hj] at hb
    simp only [hk, decide_eq_false hno]
    simp
  · have hyes : ∃ j < i, p.getLsbD j = true := ⟨k, hgt, hk⟩
    simp only [decide_eq_true hyes, decide_eq_false (Nat.ne_of_lt hgt)]
    simp

theorem trailingZeros_spec (p : Word) : (trailingZeros p).toNat ≤ 64 ∧ (∀ i, i < (trailingZeros p).toNat → p.getLsbD i = false) ∧
    ((trailingZeros p).toNat < 64 → p.getLsbD (trailingZeros p).toNat = true) := by
  by_cases hp : p = 0
  · subst hp
    refine ⟨by decide, fun i _ => by simp, fun h => absurd h (by decide)⟩
  · have hex : ∃ k, p.getLsbD k = true := ⟨_, Nat.testBit_log2 (toNat_ne_zero hp)⟩
    have hk : p.getLsbD (Nat.find hex) = true := Nat.find_spec hex
    have hlow : ∀ j, j < Nat.find hex → p.getLsbD j = false := fun j hj => by simpa using Nat.find_min hex hj
    have hk64 : Nat.find hex < 64 := BitVec.lt_of_getLsbD hk
    have hv : (trailingZeros p).toNat = Nat.find hex := by
      rw [trailingZeros, if_neg hp, and_neg_eq_twoPow hk hlow, BitVec.toNat_twoPow_of_lt hk64, Nat.log2_two_pow,
        wd_toNat_small (by omega)]
    rw [hv]
    exact ⟨by omega, hlow, fun _ => hk⟩

theorem countOnes_eq (n v : Nat) : countOnes n v = ((List.range n).filter fun i => v.testBit i).length := by
  induction n generalizing v with
  | zero => rfl
  | succ n ih =>
    rw [countOnes, ih, List.range_succ_eq_map, List.filter_cons, List.filter_map, Nat.testBit_zero]
    have hshift : ((fun i => v.testBit i) ∘ Nat.succ) = fun i => (v / 2).testBit i := funext fun i => Nat.testBit_succ v i
    rw [hshift]
    obtain h | h := Nat.mod_two_eq_zero_or_one v
    · simp [h]
    · simp [h, Nat.add_comm]

theorem popCount_toNat (p : Word) : (popCount p).toNat = ((List.range 64).filter fun i => p.getLsbD i).length := by
  have hle : countOnes 64 p.toNat ≤ 64 := by
    rw [countOnes_eq]
    exact (List.length_filter_le ..).trans (by simp)
  rw [popCount, wd_toNat_small (by omega), countOnes_eq]
  rfl

theorem getLsbD_reverseBits (p : Word) (i : Nat) (h : i < 64) : (reverseBits p).getLsbD i = p.getLsbD (63 - i) := by
  rw [reverseBits, BitVec.getLsbD_reverse, BitVec.getMsbD, decide_eq_true h, Bool.true_and]

end Sys2Proof.Machine
end

section
/-! The statements about the integer, immediate, move and bit-field forms, O1 to O4. -/

namespace Sys2Proof.Machine
open Sys2Proof.Claims

section
variable {i : Instr} {s : State} {t : Thread} {sm : Bool} {d : Operand} {v : Word}

theorem computes_of_oneWord (h : exec i s = .next (s.aluDone t 1 sm d v)) : Computes i s t sm d v (t.pc + 4) := computes_of_aluDone h

theorem computes_of_threeWords (h : exec i s = .next (s.aluDone t 3 sm d v)) : Computes i s t sm d v (t.pc + 12) := computes_of_aluDone h

/-- A long-class instruction waits at a switch point where the buffer is full, and else takes an entry and has its value due (R42). -/
theorem returns_of_longDone {words delay : Nat} (h : exec i s = .next (s.longDone t words sm d ⟨v, none⟩ delay)) :
    Returns i s t sm d v delay (t.pc + wd (4 * words)) := by
  refine ⟨fun hfull => h.trans (congrArg Host.Outcome.next (if_pos hfull)), fun hfree => ?_⟩
  obtain ⟨w, hw, hstep⟩ := done_ended (s.sched delay rankLate (.resultReturn t.ref t.nextId [⟨v, none⟩])) (t.take [d] none false) words sm []
  exact ⟨w, h.trans (congrArg Host.Outcome.next ((if_neg hfree).trans hw)), tookEntry_of_stepped hstep⟩

theorem returns_of_oneWord {delay : Nat} (h : exec i s = .next (s.longDone t 1 sm d ⟨v, none⟩ delay)) :
    Returns i s t sm d v delay (t.pc + 4) := returns_of_longDone h

theorem returns_of_threeWords {delay : Nat} (h : exec i s = .next (s.longDone t 3 sm d ⟨v, none⟩ delay)) :
    Returns i s t sm d v delay (t.pc + 12) := returns_of_longDone h

end

/-- Settles O1: each form completes with what its meaning computes, which is the arithmetic on machine words. -/
theorem integerRegisterForms : Obligations.IntegerRegisterForms := by
  intro s t sm x d a b h p q c next
  have hc : c < 64 := Nat.mod_lt _ (by decide)
  rw [← mulHigh_eq, ← minOf_eq, ← maxOf_eq, ← rotateLeft_eq p hc]
  exact ⟨computes_of_oneWord (onCur_issues h _), computes_of_oneWord (onCur_issues h _), computes_of_oneWord (onCur_issues h _),
    computes_of_oneWord (onCur_issues h _), computes_of_oneWord (onCur_issues h _), computes_of_oneWord (onCur_issues h _),
    computes_of_oneWord (onCur_issues h _), computes_of_oneWord (onCur_issues h _), computes_of_oneWord (onCur_issues h _),
    computes_of_oneWord (onCur_issues h _), computes_of_oneWord (onCur_issues h _), computes_of_oneWord (onCur_issues h _),
    computes_of_oneWord (onCur_issues h _)⟩

/-- Settles O2: each takes an entry and has the value of its meaning due, which is the division on machine words. -/
theorem divisionsAndRootsReturn : Obligations.DivisionsAndRootsReturn := by
  refine ⟨fun s t sm x d a b h => ?_, fun s t sm x rm d a b h => ?_⟩
  · dsimp only
    rw [← divide_eq, ← remainder_eq]
    exact ⟨returns_of_oneWord (onCur_issues h _), returns_of_oneWord (onCur_issues h _)⟩
  · exact ⟨returns_of_oneWord (onCur_issues h _), returns_of_threeWords (onCur_issues h _), returns_of_oneWord (onCur_issues h _),
      returns_of_threeWords (onCur_issues h _)⟩

/-- Settles O3: each unary function and each field form by the bits of its value. -/
theorem bitForms : Obligations.BitForms := by
  refine ⟨fun s t sm d a h => ⟨?clz, ?ctz, ?popc, ?brev, fun w hw => ?ext⟩, fun s t sm pos wid1 d a h hfit => ⟨?bfx, ?bfi⟩⟩
  case clz => exact ⟨_, computes_of_oneWord (onCur_issues h _), leadingZeros_spec _⟩
  case ctz => exact ⟨_, computes_of_oneWord (onCur_issues h _), trailingZeros_spec _⟩
  case popc => exact ⟨_, computes_of_oneWord (onCur_issues h _), popCount_toNat _⟩
  case brev => exact ⟨_, computes_of_oneWord (onCur_issues h _), getLsbD_reverseBits _⟩
  case ext =>
    have hwidth : 0 < extWidth w ∧ extWidth w ≤ 64 := by
      revert w
      decide
    rw [show 8 * 2 ^ w.toNat = extWidth w from rfl, ← signExtend_eq _ _ hwidth.1 hwidth.2, ← zeroExtend_eq_setWidth _ _ hwidth.2]
    exact ⟨computes_of_oneWord (onCur_issues h _), computes_of_oneWord (onCur_issues h _)⟩
  case bfx =>
    exact ⟨_, computes_of_threeWords (onCur_issues h _), fun i => getLsbD_extractField _ _ i _ (by omega)⟩
  case bfi =>
    exact ⟨_, computes_of_threeWords (onCur_issues h _), fun i => getLsbD_insertField _ _ i _ _ (by omega)⟩

/-- Settles O4: each form completes with what its meaning computes. -/
theorem immediateAndMoveForms : Obligations.ImmediateAndMoveForms := by
  intro s t sm x i lit c n d a b h p m one three
  have hmin (q : Word) : minOf false p q = if p.sle q then p else q := minOf_eq false p q
  have hmax (q : Word) : maxOf false p q = if p.sle q then q else p := maxOf_eq false p q
  rw [← hmin, ← hmin, ← hmax, ← hmax, ← rotateLeft_eq p c.isLt]
  exact ⟨computes_of_oneWord (onCur_issues h _), computes_of_threeWords (onCur_issues h _), computes_of_oneWord (onCur_issues h _),
    computes_of_threeWords (onCur_issues h _), computes_of_oneWord (onCur_issues h _), computes_of_threeWords (onCur_issues h _),
    computes_of_oneWord (onCur_issues h _), computes_of_threeWords (onCur_issues h _), computes_of_oneWord (onCur_issues h _),
    computes_of_threeWords (onCur_issues h _), computes_of_oneWord (onCur_issues h _), computes_of_oneWord (onCur_issues h _),
    computes_of_oneWord (onCur_issues h _), computes_of_oneWord (onCur_issues h _), computes_of_threeWords (onCur_issues h _),
    computes_of_oneWord (onCur_issues h _), computes_of_threeWords (onCur_issues h _), computes_of_oneWord (onCur_issues h _),
    computes_of_threeWords (onCur_issues h _), computes_of_oneWord (onCur_issues h _), computes_of_oneWord (onCur_issues h _),
    computes_of_oneWord (onCur_issues h _)⟩

end Sys2Proof.Machine
end

section
/-! SUPPORT. The conditions of comparisons (R248), and how a comparison completes (R271). -/

namespace Sys2Proof.Machine
open Sys2Proof.Claims

/-! ## The order of values -/

theorem fOrd_self (x : FVal) : fOrd x x = 0 := by
  cases x with
  | nan => rfl
  | inf n => simp [fOrd]
  | fin n m e => simp [fOrd]

theorem fOrd_zeros (n m : Bool) (e g : Int) : fOrd (.fin n 0 e) (.fin m 0 g) = 0 := by
  cases n <;> cases m <;> simp [fOrd, atExp, signed]

theorem fLt_nan (x : FVal) : fLt .nan x = false ∧ fLt x .nan = false := by simp [fLt, FVal.isNan]

theorem fEq_nan (x : FVal) : fEq .nan x = false ∧ fEq x .nan = false := by simp [fEq, FVal.isNan]

/-- With a NaN the conditions NE and UN hold, and no other (R248). -/
theorem fcmpHolds_nan (c : BitVec 3) (x : FVal) :
    fcmpHolds c .nan x = (c == 1 || c == 6) ∧ fcmpHolds c x .nan = (c == 1 || c == 6) := by
  obtain ⟨hlt, hlt'⟩ := fLt_nan x
  obtain ⟨heq, heq'⟩ := fEq_nan x
  have hc : c = 0 ∨ c = 1 ∨ c = 2 ∨ c = 3 ∨ c = 4 ∨ c = 5 ∨ c = 6 ∨ c = 7 := by
    revert c
    decide
  obtain rfl | rfl | rfl | rfl | rfl | rfl | rfl | rfl := hc
  all_goals simp [fcmpHolds, hlt, hlt', heq, heq', FVal.isNan]

theorem fcmpHolds_self {x : FVal} (h : x ≠ .nan) :
    fcmpHolds 7 x x = true ∧ fcmpHolds 0 x x = true ∧ fcmpHolds 2 x x = false ∧ fcmpHolds 4 x x = false := by
  have hn : x.isNan = false := by
    cases x with
    | nan => exact absurd rfl h
    | inf => rfl
    | fin => rfl
  simp [fcmpHolds, fEq, fLt, hn, fOrd_self]

theorem fcmpHolds_zeros (n m : Bool) (e g : Int) :
    fcmpHolds 0 (.fin n 0 e) (.fin m 0 g) = true ∧ fcmpHolds 2 (.fin n 0 e) (.fin m 0 g) = false := by
  simp [fcmpHolds, fEq, fLt, fOrd_zeros, FVal.isNan]

/-! ## The conditions of CMP -/

/-- What each condition of CMP asks (R248). -/
theorem cmpHolds_iff (c : BitVec 3) (p q : Word) : cmpHolds c p q = true ↔ match c with
    | 0 => p = q
    | 1 => p ≠ q
    | 2 => p.toInt < q.toInt
    | 3 => q.toInt ≤ p.toInt
    | 4 => p.toNat < q.toNat
    | 5 => q.toNat ≤ p.toNat
    | 6 => p &&& q ≠ 0
    | 7 => p &&& q = 0 := by
  have hc : c = 0 ∨ c = 1 ∨ c = 2 ∨ c = 3 ∨ c = 4 ∨ c = 5 ∨ c = 6 ∨ c = 7 := by
    revert c
    decide
  obtain rfl | rfl | rfl | rfl | rfl | rfl | rfl | rfl := hc
  all_goals simp [cmpHolds, BitVec.slt, BitVec.ult]

section
variable {i : Instr} {s : State} {t : Thread} {words : Nat} {sm holds : Bool} {k : BitVec 2}

/-- A comparison completes with SKIPC at K where it holds, and with the thread as it was where it does not (R253, R271). -/
theorem completes_of_skipIf (h : exec i s = .next (s.skipIf t words sm holds k)) :
    (holds = true → Completes i s s { t with skipc := k } sm (t.pc + wd (4 * words))) ∧
    (¬holds = true → Completes i s s t sm (t.pc + wd (4 * words))) := by
  unfold State.skipIf at h
  refine ⟨fun hh => ?_, fun hh => ?_⟩
  · rw [if_pos hh] at h
    exact completes_of_done h
  · rw [if_neg hh] at h
    exact completes_of_done h

end

end Sys2Proof.Machine
end

section
/-! The statements about comparisons, branches, loops and ILL, O5, O6 and O8. -/

namespace Sys2Proof.Machine
open Sys2Proof.Claims

/-- Settles O5: a comparison completes by whether its condition holds; the conditions of FCMP by the exact order of values. -/
theorem comparesSkip : Obligations.ComparesSkip := by
  refine ⟨fun s t sm dbl cond k a b v lit h => ?_, fun x => ⟨fun c => fcmpHolds_nan c x, fcmpHolds_self, fcmpHolds_zeros,
    fun y => ⟨rfl, rfl, rfl⟩⟩⟩
  intro holds ends
  have hiff (p q : Word) : cmpHolds cond p q = true ↔ holds p q := (cmpHolds_iff cond p q).trans (by rfl)
  have hends {i : Instr} {words : Nat} {p q : Word} (hi : exec i s = .next (s.skipIf t words sm (cmpHolds cond p q) k)) :
      ends i words (holds p q) := by
    obtain ⟨hyes, hno⟩ := completes_of_skipIf hi
    exact ⟨fun hh => hyes ((hiff p q).2 hh), fun hh => hno (mt (hiff p q).1 hh)⟩
  exact ⟨hends (onCur_issues h _), hends (onCur_issues h _), hends (onCur_issues h _), completes_of_skipIf (onCur_issues h _)⟩

/-- An annulled instruction of which the fetch gives the words lets PC pass it, and its marker is honoured (R253). -/
theorem exec_annulment {s : State} {t : Thread} {w : W32} {r : List W32} (h : Issues s t) (hf : s.fetch t = .words (w :: r)) :
    exec .annulment s = .next (s.annul t w) := by
  refine (onCur_issues h _).trans ?_
  simp only [hf]

/-- An instruction with no register result completes, PC going anywhere. -/
theorem completes_of_doneAt {i : Instr} {s : State} {t : Thread} {sm : Bool} {next : Word} {vs : List Word}
    (h : exec i s = .next (s.doneAt t next sm vs)) : Completes i s s t sm next := by
  obtain ⟨w, hw, hstep⟩ := doneAt_ended s t next sm vs
  exact ⟨w, h.trans (congrArg Host.Outcome.next hw), hstep⟩

/-- LOOP counts down into D and lat, and goes back while the counter is not zero (R274). -/
theorem computes_loop {s : State} {t : Thread} (h : Issues s t) (sm : Bool) (o : BitVec 15) (d : Operand) :
    Computes (.loop sm o d) s t sm d (t.rd d - 1) (if t.rd d - 1 = 0 then t.pc + 4 else t.pc + 4 * o.signExtend 64) := by
  obtain ⟨w, hw, hwrote⟩ := doneAt_alu s t d (t.rd d - 1) (if t.rd d - 1 = 0 then t.pc + 4 else relTarget t.pc o) sm [t.rd d - 1]
  rw [relTarget, BitVec.mul_comm] at hwrote
  exact ⟨w, (onCur_issues h _).trans (congrArg Host.Outcome.next hw), hwrote⟩

/-- A counter of zero wraps (R274). -/
theorem computes_loop_wraps {s : State} {t : Thread} (h : Issues s t) (sm : Bool) (o : BitVec 15) {d : Operand} (hd : t.rd d = 0) :
    Computes (.loop sm o d) s t sm d 0xFFFFFFFFFFFFFFFF (t.pc + 4 * o.signExtend 64) := by
  have hloop := computes_loop h sm o d
  rw [hd] at hloop
  exact hloop

/-- Settles O6: the targets of BR and JMP, the counter of LOOP, and the annulment of its one word. -/
theorem branchesAndLoop : Obligations.BranchesAndLoop := by
  intro s t sm off o a d h
  refine ⟨?br, completes_of_doneAt (onCur_issues h _), computes_loop h sm o d, computes_loop_wraps h sm o,
    fun hd => computes_loop_wraps h sm o (hd ▸ rfl), fun i => ?vault, fun hk hf => ?annulled⟩
  case br =>
    rw [← State.relTarget_eq]
    exact completes_of_doneAt (onCur_issues h _)
  case vault =>
    change (i != 0 || false) = decide (i ≠ 0)
    simp [bne, BEq.beq]
  case annulled =>
    refine (exec_annulment h hf).trans ?_
    simp only [State.annul, markOf_encLP, Laws.Words.len_encLP]
    rfl

/-- Settles O8: ILL by its first word alone, which is fetched alone; where it issues it traps, and where it is annulled PC passes the words of
its LEN. -/
theorem illTraps : Obligations.IllTraps := by
  intro s t w r hw
  refine ⟨decode_ill hw r, fun hf => ?_, fun h sm len u => ?_, rfl, fun h hk hf => ?_⟩
  · simp [State.fetch, hf, hw]
  · exact onCur_issues h _
  · refine (exec_annulment (w := 0xFFFFFFFF) (r := []) h ?_).trans ?_
    · simp only [State.fetch, hf]
      exact if_pos (by simpa using Or.inl hk)
    · rfl

end Sys2Proof.Machine
end

section
/-! SUPPORT. FCVT where no rounding decides (R276), and the class of an operand by its fields (R277). -/

namespace Sys2Proof.Machine
open Sys2Proof.Claims

/-! ## FCVT -/

theorem fcvtResult_same (rm : Nat) (sat : Bool) (w : Word) :
    fcvtResult 6 6 rm sat w = w ∧ fcvtResult 5 5 rm sat w = (w.setWidth 32).signExtend 64 :=
  ⟨rfl, signExtend_eq 32 w (by decide) (by decide)⟩

/-- The value of a source in binary32 and in binary64 is that of a scalar operand (R276). -/
theorem fcvtSource_float (w : Word) : fcvtSource 0xC0 w = scalarVal false w ∧ fcvtSource 0xC1 w = scalarVal true w := by
  refine ⟨?_, ?_⟩
  · change floatVal f32 (w.toNat % 2 ^ 32) = floatVal f32 (w.toNat / 2 ^ 0 % 2 ^ 32)
    rw [Nat.pow_zero, Nat.div_one]
  · change floatVal f64 (w.toNat % 2 ^ 64) = floatVal f64 w.toNat
    rw [Nat.mod_eq_of_lt w.isLt]

/-- A conversion to an integer format, by what the source's value converts to. -/
theorem fcvtResult_toInt {src : BitVec 8} (h5 : src ≠ 5) (h6 : src ≠ 6) (rm : Nat) (sat : Bool) {w : Word} {x : FVal}
    (hx : fcvtSource src w = x) :
    fcvtResult 5 src rm sat w = signExtend 32 (wd (toIntCode (-(2 ^ 31)) (2 ^ 31 - 1) 32 rm 0 x)) ∧
    fcvtResult 6 src rm sat w = wd (toIntCode (-(2 ^ 63)) (2 ^ 63 - 1) 64 rm 0 x) := by
  subst hx
  simp only [fcvtResult, show ¬(5 : BitVec 8) = src from fun h => h5 h.symm, show ¬(6 : BitVec 8) = src from fun h => h6 h.symm]
  exact ⟨rfl, rfl⟩

theorem toIntCode_nan (lo hi : Int) (w rm r : Nat) (hlo : lo ≤ 0) (hhi : 0 ≤ hi) : toIntCode lo hi w rm r .nan = 0 := by
  simp only [toIntCode]
  rw [min_eq_right hhi, max_eq_right hlo]
  simp

theorem toIntCode_inf (lo hi : Int) (w rm r : Nat) (n : Bool) (h : lo ≤ hi) :
    toIntCode lo hi w rm r (.inf n) = ((if n then lo else hi) % 2 ^ w).toNat := by
  cases n
  · simp [toIntCode, max_eq_right h]
  · simp [toIntCode, min_eq_right h]

theorem fcvtResult_nan {src : BitVec 8} (h5 : src ≠ 5) (h6 : src ≠ 6) (rm : Nat) (sat : Bool) {w : Word}
    (hx : fcvtSource src w = .nan) : fcvtResult 5 src rm sat w = 0 ∧ fcvtResult 6 src rm sat w = 0 := by
  obtain ⟨h32, h64⟩ := fcvtResult_toInt h5 h6 rm sat hx
  rw [h32, h64, toIntCode_nan _ _ _ _ _ (by norm_num) (by norm_num), toIntCode_nan _ _ _ _ _ (by norm_num) (by norm_num)]
  exact ⟨rfl, rfl⟩

theorem fcvtResult_inf {src : BitVec 8} (h5 : src ≠ 5) (h6 : src ≠ 6) (rm : Nat) (sat n : Bool) {w : Word}
    (hx : fcvtSource src w = .inf n) :
    fcvtResult 5 src rm sat w = (if n then 0xFFFFFFFF80000000 else 0x7FFFFFFF) ∧
    fcvtResult 6 src rm sat w = (if n then 0x8000000000000000 else 0x7FFFFFFFFFFFFFFF) := by
  obtain ⟨h32, h64⟩ := fcvtResult_toInt h5 h6 rm sat hx
  rw [h32, h64, toIntCode_inf _ _ _ _ _ _ (by norm_num), toIntCode_inf _ _ _ _ _ _ (by norm_num)]
  cases n
  · exact ⟨by decide, by decide⟩
  · exact ⟨by decide, by decide⟩

/-! ## FCLASS -/

/-- The bit of the class mask by the operand's fields (R277). -/
def classBit (sign expOnes expZero fracZero quiet : Bool) : Nat :=
  if expOnes then (if fracZero then (if sign then 0 else 7) else if quiet then 9 else 8)
  else if expZero then (if fracZero then (if sign then 3 else 4) else if sign then 2 else 5)
  else if sign then 1 else 6

/-- The class of an ordinal `o`, in a format of `n` exponents and `h` fractions, is that of its exponent and its fraction. -/
theorem class_of_ordinal {h n o : Nat} (ho : o < n * h) (sign quiet : Bool) :
    (if (n - 1) * h < o then (if quiet then 9 else 8) else if o = (n - 1) * h then (if sign then 0 else 7)
     else if o = 0 then (if sign then 3 else 4) else if o < h then (if sign then 2 else 5) else if sign then 1 else 6) =
    classBit sign (o / h == n - 1) (o / h == 0) (o % h == 0) quiet := by
  have hh : 0 < h := Nat.pos_of_ne_zero fun h0 => by simp [h0] at ho
  have hdiv : o / h < n := Nat.div_lt_of_lt_mul (by rwa [Nat.mul_comm])
  have hmod : o % h < h := Nat.mod_lt _ hh
  have hsum : h * (o / h) + o % h = o := Nat.div_add_mod o h
  generalize he : o / h = e at *
  generalize hf : o % h = f at *
  by_cases htop : e = n - 1
  · have hprod : (n - 1) * h = h * e := by rw [htop, Nat.mul_comm]
    by_cases hz : f = 0
    · rw [if_neg (by omega), if_pos (by omega)]
      simp [classBit, htop, hz]
    · rw [if_pos (by omega)]
      simp [classBit, htop, hz]
  · have hlt : o < (n - 1) * h := by
      calc o < h * e + h := by omega
        _ = h * (e + 1) := by ring
        _ ≤ h * (n - 1) := Nat.mul_le_mul_left h (by omega)
        _ = (n - 1) * h := Nat.mul_comm ..
    have hones : (e == n - 1) = false := by simpa using htop
    rw [if_neg (by omega), if_neg (by omega)]
    by_cases hlow : e = 0
    · subst hlow
      rw [Nat.mul_zero, Nat.zero_add] at hsum
      subst hsum
      by_cases hz : f = 0
      · simp [classBit, hones, hz]
      · simp [classBit, hones, hz, hmod]
    · have hle : h ≤ h * e := Nat.le_mul_of_pos_right h (Nat.pos_of_ne_zero hlow)
      rw [if_neg (by omega), if_neg (by omega)]
      simp [classBit, hones, hlow]

theorem getLsbD_eq_decide (p : Word) (i : Nat) : p.getLsbD i = decide (p.toNat / 2 ^ i % 2 = 1) := Nat.testBit_eq_decide_div_mod_eq

/-- A field of a dword is a given one where its number is. -/
theorem extract_beq (p : Word) (lo n : Nat) (v : BitVec n) : (p.extractLsb' lo n == v) = (p.toNat / 2 ^ lo % 2 ^ n == v.toNat) := by
  rw [Bool.eq_iff_iff, beq_iff_eq, beq_iff_eq, ← BitVec.toNat_inj, BitVec.extractLsb'_toNat, Nat.shiftRight_eq_div_pow]

/-- Fields of a number are fields of any of its low parts that holds them. -/
theorem beq_congr_iff {a b c d : Nat} (h : a = b ↔ c = d) : (a == b) = (c == d) := by
  rw [Bool.eq_iff_iff, beq_iff_eq, beq_iff_eq, h]

theorem classOf_single (p : Word) : classOf false p = wd (2 ^ classBit (p.getLsbD 31) (p.extractLsb' 23 8 == BitVec.allOnes 8)
    (p.extractLsb' 23 8 == 0) (p.extractLsb' 0 23 == 0) (p.getLsbD 22)) := by
  have hclass := class_of_ordinal (show bits p 0 32 % 2 ^ 31 < 256 * 2 ^ 23 by omega) (decide (bits p 0 32 / 2 ^ 31 = 1))
    (decide (bits p 0 32 % 2 ^ 31 / 2 ^ 22 % 2 = 1))
  simp only [decide_eq_true_eq] at hclass
  refine (congrArg (fun k => wd (2 ^ k)) hclass).trans ?_
  have hbits : bits p 0 32 = p.toNat % 2 ^ 32 := by rw [bits, Nat.pow_zero, Nat.div_one]
  rw [extract_beq, extract_beq, extract_beq, getLsbD_eq_decide, getLsbD_eq_decide, hbits]
  congr 3
  · exact decide_eq_decide.2 (by omega)
  · exact beq_congr_iff (by rw [BitVec.toNat_allOnes]; omega)
  · exact beq_congr_iff (by rw [show (0 : BitVec 8).toNat = 0 from rfl]; omega)
  · exact beq_congr_iff (by rw [show (0 : BitVec 23).toNat = 0 from rfl]; omega)
  · exact decide_eq_decide.2 (by omega)

theorem classOf_double (p : Word) : classOf true p = wd (2 ^ classBit (p.getLsbD 63) (p.extractLsb' 52 11 == BitVec.allOnes 11)
    (p.extractLsb' 52 11 == 0) (p.extractLsb' 0 52 == 0) (p.getLsbD 51)) := by
  have hclass := class_of_ordinal (show p.toNat % 2 ^ 63 < 2048 * 2 ^ 52 by omega) (decide (p.toNat / 2 ^ 63 = 1))
    (decide (p.toNat % 2 ^ 63 / 2 ^ 51 % 2 = 1))
  simp only [decide_eq_true_eq] at hclass
  refine (congrArg (fun k => wd (2 ^ k)) hclass).trans ?_
  have hlt := p.isLt
  rw [extract_beq, extract_beq, extract_beq, getLsbD_eq_decide, getLsbD_eq_decide]
  congr 3
  · exact decide_eq_decide.2 (by omega)
  · exact beq_congr_iff (by rw [BitVec.toNat_allOnes]; omega)
  · exact beq_congr_iff (by rw [show (0 : BitVec 11).toNat = 0 from rfl]; omega)
  · exact beq_congr_iff (by rw [show (0 : BitVec 52).toNat = 0 from rfl]; omega)
  · exact decide_eq_decide.2 (by omega)

theorem one_shiftLeft_eq_wd (n : Nat) : ((1 <<< n : Nat) : Word) = wd (2 ^ n) := by
  rw [Nat.one_shiftLeft]
  rfl

theorem opnd_of_operand? {f : BitVec 7} {word : Nat} {k : Operand → Dec} {r : Operand} (h : operand? f = some r) :
    opnd f word k = k r := by
  rw [opnd, h]

/-- The word of FCLASS has B zero (R277). -/
theorem decodeOne_fclass {w : W32} (h : majOf w = 0x39) : decodeOne w = decRR w fun x d a => .fclass (markOf w) x d a := by
  rw [decodeOne, h]
  rfl

end Sys2Proof.Machine
end

section
/-! The statements about scalar floating point, O9 and O10. -/

namespace Sys2Proof.Machine
open Sys2Proof.Claims

/-- Settles O9: each form completes with its rounded result; FCVT by what its source's value is. -/
theorem floatForms : Obligations.FloatForms := by
  refine ⟨fun s t sm x sat rm dfm sfm d a b c h => ?_, fcvtResult_same,
    fun rm sat w hw => fcvtResult_nan (by decide) (by decide) rm sat ((fcvtSource_float w).1.trans hw),
    fun rm sat w hw => fcvtResult_nan (by decide) (by decide) rm sat ((fcvtSource_float w).2.trans hw),
    fun rm sat n w hw => fcvtResult_inf (by decide) (by decide) rm sat n ((fcvtSource_float w).2.trans hw), by decide⟩
  have hm : (rm.toNat == 2) = (rm == 2) := by
    revert rm
    decide
  intro p q r one three m
  rw [show (m == 2) = (rm == 2) from hm]
  exact ⟨computes_of_oneWord (onCur_issues h _), computes_of_threeWords (onCur_issues h _), computes_of_oneWord (onCur_issues h _),
    computes_of_threeWords (onCur_issues h _), computes_of_oneWord (onCur_issues h _), computes_of_threeWords (onCur_issues h _),
    computes_of_threeWords (onCur_issues h _), computes_of_oneWord (onCur_issues h _), computes_of_threeWords (onCur_issues h _),
    computes_of_oneWord (onCur_issues h _), computes_of_threeWords (onCur_issues h _), computes_of_threeWords (onCur_issues h _)⟩

/-- Settles O10: the mask by the operand's class, and the word by the row of the table. -/
theorem floatClassMask : Obligations.FloatClassMask := by
  intro s t sm d a h
  refine ⟨?single, ?double, fun w hm hl => ?word⟩
  case single =>
    rw [one_shiftLeft_eq_wd]
    exact classOf_single (t.rd a) ▸ computes_of_oneWord (i := .fclass sm false d a) (onCur_issues h _)
  case double =>
    rw [one_shiftLeft_eq_wd]
    exact classOf_double (t.rd a) ▸ computes_of_oneWord (i := .fclass sm true d a) (onCur_issues h _)
  case word =>
    have hdec : decode [w] = decRR w fun x d a => .fclass (markOf w) x d a := by
      rw [decode_one (by rw [hm]; decide) hl, decodeOne_fclass hm]
    rw [hdec, decRR]
    refine ⟨fun hb hd ha => ?_, fun hb i => ?_⟩
    · exact need_eq (by simpa [fB] using hb)
        ((opnd_of_operand? hd).trans ((opnd_of_operand? ha).trans (checked_of_legal rfl)))
    · rw [need, if_neg (by simpa [fB] using hb)]
      exact nofun

end Sys2Proof.Machine
end

section
/-! The statement about words of the tables, O54. -/

namespace Sys2Proof.Machine

/-- Settles O54: each word by its row. -/
theorem specWordsDecode : Obligations.SpecWordsDecode :=
  ⟨rfl, rfl, rfl, rfl, rfl, rfl, rfl, rfl, rfl, rfl, rfl, rfl, rfl, rfl, rfl, rfl, rfl⟩

end Sys2Proof.Machine
end

section
/-! SUPPORT. Completions of a thread whose twin loses registers of its own (R320), and the end of a thread in its slot and its twin's (R156,
R299, R321). -/

namespace Sys2Proof.Machine
open Sys2Proof.Claims

section
variable {i : Instr} {s s' : State} {b u : Thread} {words : Nat} {sm : Bool} {vs : List Word}

/-- An instruction without a register result completes for the thread as it is but for what its twin has lost. -/
theorem completes_of_kept (hu : u = { b with twin := u.twin }) (hk : TwinKept b u) (h : exec i s = .next (s'.done u words sm vs)) :
    Completes i s s' b sm (b.pc + wd (4 * words)) := by
  obtain ⟨w, hw, hstep⟩ := completes_of_done h
  have hpc : u.pc = b.pc := by rw [hu]
  rw [hpc] at hstep
  exact ⟨w, hw.trans (congrArg Host.Outcome.next (ended_of_twinKept s' w sm hk)), stepped_of_twinKept hstep hu hk⟩

/-- A register outside the vault that an instruction has written whole is free of errors (R395). -/
theorem completes_of_mend {r : DebugReg} (h : exec i s = .next (s'.done (b.mend r) words sm vs)) :
    Completes i s s' { b with par := b.par.filter (· != r) } sm (b.pc + wd (4 * words)) :=
  completes_of_kept (u := b.mend r) rfl (twinKept_both b r) h

/-- The one-word instruction without a register result. -/
theorem completes_of_oneWord (h : exec i s = .next (s'.done b 1 sm vs)) : Completes i s s' b sm (b.pc + 4) := completes_of_done h

end

namespace State
variable (s : State) (t : Thread)

/-! ## What leaves the units and the threads -/

theorem units_record (r : RecInfo) : (s.record r).units = s.units := by
  have counted (u : State) : u.countCorrected.units = u.units := by
    rcases u.countCorrected_eq with h | h
    · rw [h]
    · rw [h]
      obtain ⟨a, q, n, k, r, e⟩ := replace_eq { u with pkg := { u.pkg with ceCount := u.pkg.ceCount + 1 } } 3
      rw [e]
  have ported (u : State) (ws : List Word) : (u.errPort r ws).units = u.units := by
    obtain ⟨a, q, d, e⟩ := u.errPort_eq r ws
    rw [e]
  unfold record
  refine (ported _ _).trans ?_
  split
  · exact counted _
  · rfl

theorem units_trigCheck (tag : Nat) : (s.trigCheck tag).units = s.units := by
  rcases trigCheck_cases s tag with h | ⟨l, -, h⟩ <;> rw [h]
  rfl

theorem freeJoinFrame_eq : ∃ d, s.freeJoinFrame t = { s with disp := d } := by
  unfold freeJoinFrame onCrew
  split
  · split
    · exact ⟨_, rfl⟩
    · exact ⟨s.disp, rfl⟩
  · exact ⟨s.disp, rfl⟩

/-! ## The slots of a thread that ends -/

theorem units_freeSlot : (s.freeSlot t).units = ((s.raiseGen t.unit t.slot).freeTwin t).units := by
  unfold freeSlot
  rw [units_trigCheck]
  refine List.foldlRecOn (motive := fun u : State => u.units = _) _ _ ?_ fun u hu c _ => ?_
  · unfold freeTwin
    split <;> rfl
  · split
    · exact hu
    · exact hu

/-- The end of a thread frees its slot in the state that its record leaves. -/
theorem endThread_eq : ∃ u : State, s.endThread t = u.freeSlot t ∧ u.threads = s.threads ∧ u.units = s.units := by
  unfold endThread
  refine ⟨_, rfl, ?_, ?_⟩
  · dsimp only
    split
    · exact (noted_record _ _).threads
    · rfl
  · dsimp only
    split
    · exact units_record _ _
    · rfl

theorem unit_congr {u v : State} (h : u.units = v.units) (x : Nat) : u.unit x = v.unit x := by rw [unit, unit, h]

theorem thread?_dropThread_other {x n : Nat} (h : ¬(x = t.unit ∧ n = t.slot)) : (s.dropThread t).thread? x n = s.thread? x n := by
  unfold thread? findThread
  rw [dropThread, List.find?_filter]
  refine List.find?_congr fun y _ => ?_
  by_cases hy : y.unit = x ∧ y.slot = n
  · obtain ⟨rfl, rfl⟩ := hy
    simpa [imp_iff_not_or] using h
  · have hmiss : (y.unit == x && y.slot == n) = false := by simpa using hy
    simp only [hmiss, Bool.false_eq_true, and_false, decide_false]

theorem thread?_endThread_other {x n : Nat} (h : ¬(x = t.unit ∧ n = t.slot)) : (s.endThread t).thread? x n = s.thread? x n := by
  obtain ⟨u, hend, hthreads, -⟩ := s.endThread_eq t
  rw [hend, thread?, threads_freeSlot]
  refine (u.thread?_dropThread_other t h).trans ?_
  rw [thread?, thread?, hthreads]

/-- The generation of a slot. -/
def genOf (u n : Nat) : Nat := (mget (s.unit u).gens n).getD 0

theorem gens_raiseGen_self (u n : Nat) : mget ((s.raiseGen u n).unit u).gens n = some (s.genOf u n + 1) := by
  rw [raiseGen, unit_onUnit_self]
  exact mget_mset_self ..

theorem unit_raiseGen_other {u v : Nat} (n : Nat) (h : v ≠ u) : (s.raiseGen u n).unit v = s.unit v := by
  rw [raiseGen, onUnit, setUnit, unit, mget_mset_other _ _ _ _ h]
  rfl

/-- The slot of a thread that ends has the next generation, unless its twin has a slot of the same unit. -/
theorem gens_endThread (h : ∀ w, t.twin = some w → w.unit ≠ t.unit) :
    mget ((s.endThread t).unit t.unit).gens t.slot = some (s.genOf t.unit t.slot + 1) := by
  obtain ⟨u, hend, -, hunits⟩ := s.endThread_eq t
  rw [hend, unit_congr (u.units_freeSlot t), genOf, ← unit_congr hunits]
  unfold freeTwin
  split
  · rename_i w hw
    rw [unit_raiseGen_other _ _ (h w hw).symm]
    exact gens_raiseGen_self ..
  · exact gens_raiseGen_self ..

theorem gens_freeTwin {w : Twin} (h : t.twin = some w) : mget ((s.freeTwin t).unit w.unit).gens w.slot = some (s.genOf w.unit w.slot + 1) := by
  unfold freeTwin
  rw [h]
  exact gens_raiseGen_self ..

/-- The slot of its twin has the next generation too. -/
theorem gens_endThread_twin {w : Twin} (hw : t.twin = some w) (h : w.unit ≠ t.unit) :
    mget ((s.endThread t).unit w.unit).gens w.slot = some (s.genOf w.unit w.slot + 1) := by
  obtain ⟨u, hend, -, hunits⟩ := s.endThread_eq t
  rw [hend, unit_congr (u.units_freeSlot t), gens_freeTwin _ t hw, genOf, genOf, unit_raiseGen_other _ _ h, unit_congr hunits]

end State

end Sys2Proof.Machine
end

section
/-! The statement about priorities, O16. -/

namespace Sys2Proof.Machine
open Sys2Proof.Claims

/-- Settles O16: SETPRI and MTS to PRIO write BASE and nothing else, and EFF is computed from BASE as it stands. -/
theorem setpriSetsBase : Obligations.SetpriSetsBase := by
  intro s t sm i a b h v
  have hexec : exec (.setpri sm i a) s = .next (if 7 < v.toNat then s.outOfRange t 0 else s.done { t with base := v.setWidth 3 } 1 sm []) :=
    onCur_issues h _
  refine ⟨fun hv => ?_, fun hv => ?_, State.mts_writes (k := 4) h rfl (by decide) rfl rfl, fun hy => ?_, fun hy => ?_⟩
  · rw [if_neg (Nat.not_lt.2 hv)] at hexec
    exact completes_of_oneWord (b := { t with base := v.setWidth 3 }) hexec
  · rw [if_pos hv] at hexec
    exact hexec
  · simp only [State.effOf, hy, Bool.false_eq_true, if_false]
  · simp only [State.effOf, hy, if_true, Nat.zero_add]

end Sys2Proof.Machine
end

section
/-! The statement about the control of threads, O17: regions, pairs, clock and identity, halts and ends (R319 to R325, R299, R306). -/

namespace Sys2Proof.Machine
open Sys2Proof.Claims

/-- A thread as RGN leaves it (R319). -/
def Thread.openRegion (t : Thread) : Thread :=
  { (t.mend (.special 0x0F)).mend (.special 0x10) with rgnpc := t.pc + 4, rgnwd := BitVec.ofNat 16 t.depth, inrgn := true, restarts := 0 }

namespace State
variable {s : State} {t : Thread} {sm : Bool}

/-- With every local access accepted, an instruction that waits for them goes on (R295). -/
theorem released_nil (h : t.out = []) (k : State) : s.released t k = k := if_neg (by simp [h])

theorem released_parks (h : t.out ≠ []) (k : State) : s.released t k = s.park t .accepted := if_pos (by simpa using h)

/-- A thread with nothing to commit is halted, or ends, by what follows the commit. -/
theorem switchPoint_halts (hrb : t.rb = []) (hout : t.out = []) (hfl : t.flushing = []) (hm : t.mirrFail = none) :
    s.switchPoint { t with after := .halt } = s.setThread { t with st := .halted, after := .go, haltReq := false, held := none } := by
  have hall : commitAll { t with after := .halt } = ({ t with after := .halt }, none) := by
    rw [commitAll_nil (t := { t with after := .halt }) hrb, hm]
    rfl
  rw [switchPoint_settles _ (by simp [Thread.complete, hrb, hout, hfl])]
  simp only [settle, hall]

theorem switchPoint_exits (hrb : t.rb = []) (hout : t.out = []) (hfl : t.flushing = []) (hm : t.mirrFail = none) :
    s.switchPoint { t with after := .exit } = (s.freeJoinFrame t).endThread { t with after := .exit } := by
  have hall : commitAll { t with after := .exit } = ({ t with after := .exit }, none) := by
    rw [commitAll_nil (t := { t with after := .exit }) hrb, hm]
    rfl
  rw [switchPoint_settles _ (by simp [Thread.complete, hrb, hout, hfl])]
  simp only [settle, hall]
  rfl

section
variable (h : Issues s t)
include h

/-! ## Regions and q registers -/

/-- RGN opens a region at the next instruction (R319, R395). -/
theorem rgn_completes (hrb : t.rb = []) : Completes (.rgn sm) s (s.closeRegion t)
    { t with rgnpc := t.pc + 4, rgnwd := BitVec.ofNat 16 t.depth, inrgn := true, restarts := 0,
             par := (t.par.filter (· != .special 0x0F)).filter (· != .special 0x10) } sm (t.pc + 4) := by
  have hkept : TwinKept t (t.openRegion) := twinKept_trans (twinKept_both t (.special 0x0F)) (twinKept_both (t.mend (.special 0x0F)) (.special 0x10))
  have hexec : exec (.rgn sm) s = .next (if t.pending then s.switchPoint t else (s.closeRegion t).done t.openRegion 1 sm []) := onCur_issues h _
  rw [if_neg (by simp [Thread.pending, hrb])] at hexec
  exact completes_of_kept (b := { t with
    rgnpc := t.pc + 4, rgnwd := BitVec.ofNat 16 t.depth, inrgn := true, restarts := 0,
    par := (t.par.filter (· != .special 0x0F)).filter (· != .special 0x10) }) rfl hkept hexec

/-- QMOV moves a q register out, but not in a launch with DET (R282). -/
theorem qmov_computes (hdet : t.det = false) (q : BitVec 2) (d : Operand) :
    Computes (.qmov sm q d) s t sm d (nget t.q q.toNat 0) (t.pc + 4) :=
  computes_of_oneWord ((onCur_issues h _).trans (congrArg Host.Outcome.next (if_neg (by simp [hdet]))))

theorem qmov_faults (hdet : t.det = true) (q : BitVec 2) (d : Operand) : Faults (.qmov sm q d) s t (wd 7) 0 :=
  (onCur_issues h _).trans (congrArg Host.Outcome.next (if_pos hdet))

/-! ## PAIR (R320) -/

/-- Without a mill, a slot or room for it, PAIR completes with the thread as it was. -/
theorem pair_refused (hrb : t.rb = []) (hno : t.twin.isSome = true ∨ s.present (t.unit ^^^ 1) = false ∨ s.freeSlots (t.unit ^^^ 1) = 0 ∨
    (t.svc = false ∧ s.crewFull (t.unit ^^^ 1) = true)) : Completes (.pair sm) s s t sm (t.pc + 4) := by
  have hcond : (t.twin.isSome || !s.present (t.unit ^^^ 1) || s.freeSlots (t.unit ^^^ 1) = 0 || (!t.svc && s.crewFull (t.unit ^^^ 1))) = true := by
    simpa [or_assoc] using hno
  exact completes_of_oneWord ((onCur_issues h _).trans (congrArg Host.Outcome.next
    ((if_neg (by simp [Thread.pending, hrb])).trans (if_pos hcond))))

/-- The twin starts in a free slot, both threads parked until its frames are there. -/
theorem pair_starts {slot : Nat} (hrb : t.rb = []) (htw : t.twin = none) (hp : s.present (t.unit ^^^ 1) = true)
    (hf : s.freeSlots (t.unit ^^^ 1) ≠ 0) (hroom : t.svc = true ∨ s.crewFull (t.unit ^^^ 1) = false)
    (hslot : s.freeSlot? (t.unit ^^^ 1) = some slot) : exec (.pair sm) s = .next (s.park
      { t with pc := t.pc + 4, fetched := [], exchanged := false, twin := some { unit := t.unit ^^^ 1, slot := slot, fp := 0 }, fp := 0,
               fpq := [], fpSeen := t.nextId, retired := 0, mismatch := none } (.until (s.now + 16 + 8 * t.res) sm)) := by
  have hcond : ¬(t.twin.isSome || !s.present (t.unit ^^^ 1) || s.freeSlots (t.unit ^^^ 1) = 0 || (!t.svc && s.crewFull (t.unit ^^^ 1))) = true := by
    rcases hroom with hr | hr <;> simp [htw, hp, hf, hr]
  refine (onCur_issues h _).trans (congrArg Host.Outcome.next ((if_neg (by simp [Thread.pending, hrb])).trans ((if_neg hcond).trans ?_)))
  simp only [hslot]

/-! ## HALT, EXIT and TRIG -/

/-- HALT halts the thread at its next instruction, and tells the firmware (R325). -/
theorem halt_halts (hrb : t.rb = []) (hout : t.out = []) (hfl : t.flushing = []) (hm : t.mirrFail = none) :
    ∃ w, Stepped t w (t.pc + 4) ∧ exec (.halt sm) s = .next (put
      { s with pkg := { s.pkg with notices := (256 * t.unit + t.slot) :: s.pkg.notices } }
      { w with st := .halted, after := .go, haltReq := false, held := none }) := by
  refine ⟨t.retire (t.pc + 4) [] 0, stepped_retire t (t.pc + 4) [] 0, (onCur_issues h _).trans (congrArg Host.Outcome.next ?_)⟩
  exact switchPoint_halts (t := t.retire (t.pc + 4) [] 0) (by simp [hrb]) (by simp [hout]) (by simp [hfl]) (by simp [hm])

/-- EXIT, its accesses accepted and its results returned, ends the thread (R299). -/
theorem exit_ends (hrb : t.rb = []) (hout : t.out = []) (hfl : t.flushing = []) (hm : t.mirrFail = none) :
    exec (.exit sm) s = .next ((s.freeJoinFrame t).endThread { endRegion t with after := .exit }) := by
  refine (onCur_issues h _).trans (congrArg Host.Outcome.next ((released_nil hout _).trans ?_))
  exact switchPoint_exits (t := endRegion t) hrb hout hfl hm

/-- EXIT frees the thread's slot and its twin's, and touches no other thread (R156, R299, R321). -/
theorem exit_frees (hrb : t.rb = []) (hout : t.out = []) (hfl : t.flushing = []) (hm : t.mirrFail = none) :
    ∃ u, exec (.exit sm) s = .next u ∧ u.thread? t.unit t.slot = none ∧
      (∀ x n, ¬(x = t.unit ∧ n = t.slot) → u.thread? x n = s.thread? x n) ∧
      ((∀ w, t.twin = some w → w.unit ≠ t.unit) →
        mget (u.unit t.unit).gens t.slot = some ((mget (s.unit t.unit).gens t.slot).getD 0 + 1)) ∧
      (∀ w, t.twin = some w → w.unit ≠ t.unit → mget (u.unit w.unit).gens w.slot = some ((mget (s.unit w.unit).gens w.slot).getD 0 + 1)) := by
  obtain ⟨d, hd⟩ := s.freeJoinFrame_eq t
  refine ⟨_, exit_ends h hrb hout hfl hm, thread?_endThread (t := { endRegion t with after := .exit }) _,
    fun x n hx => ?_, fun htw => ?_, fun w hw hu => ?_⟩
  · rw [hd]
    exact thread?_endThread_other _ { endRegion t with after := .exit } hx
  · rw [hd]
    exact gens_endThread _ { endRegion t with after := .exit } htw
  · rw [hd]
    exact gens_endThread_twin _ { endRegion t with after := .exit } hw hu

end

end State

/-- Settles O17: each instruction by what it does to its thread, to its twin's slot, and to the threads of the other slots. -/
theorem threadControl : Obligations.ThreadControl := by
  refine ⟨fun s t sm q d h => ?_, fun s t sm h hrb => ⟨State.pair_refused h hrb, fun slot => State.pair_starts h hrb⟩, fun s t sm h =>
    ⟨fun hout => ⟨?exitParks, ?trigParks⟩, State.exit_frees h, fun hout => ?trig⟩⟩
  · refine ⟨State.rgn_completes h, completes_of_oneWord (onCur_issues h _), fun htw => ?untwinned, fun w hw => s.gens_freeTwin t hw,
      completes_of_mend (b := { t with q := nset t.q q.toNat (wd s.now) }) (words := 1) (onCur_issues h _),
      completes_of_mend (b := { t with q := nset t.q q.toNat (s.physid t) }) (words := 1) (onCur_issues h _),
      fun hdet => State.qmov_computes h hdet q d, fun hdet => State.qmov_faults h hdet q d, completes_of_oneWord (onCur_issues h _),
      State.halt_halts h⟩
    case untwinned => rw [State.freeTwin, htw]
  case exitParks => exact (onCur_issues h _).trans (congrArg Host.Outcome.next (State.released_parks hout _))
  case trigParks => exact (onCur_issues h _).trans (congrArg Host.Outcome.next (State.released_parks hout _))
  case trig => exact completes_of_oneWord ((onCur_issues h _).trans (congrArg Host.Outcome.next (State.released_nil hout _)))

end Sys2Proof.Machine
end

section
/-! The statement about service calls and capabilities, O18 (R317, R324). -/

namespace Sys2Proof.Machine
open Sys2Proof.Claims

/-- A thread of which the slot holds the first that a predicate finds is found in its new form, where the predicate takes that too. -/
theorem find?_putThread_of_slot {ts : List Thread} {p : Thread → Bool} {x y : Thread} (hslot : findThread ts x.unit x.slot = some x)
    (hx : ts.find? p = some x) (hu : y.unit = x.unit) (hs : y.slot = x.slot) (hp : p y = true) : (putThread ts y).find? p = some y := by
  induction ts with
  | nil => exact absurd hx (by simp)
  | cons a r ih =>
    rw [putThread, hu, hs]
    split
    · exact List.find?_cons_of_pos hp
    · split
      · exact List.find?_cons_of_pos hp
      · rename_i hother
        have hpass : ¬(a.unit == x.unit && a.slot == x.slot) = true := by
          rw [Bool.beq_comm (a := a.unit), Bool.beq_comm (a := a.slot)]
          exact hother
        have hpa : ¬p a = true := fun hpa => by
          obtain rfl : a = x := by simpa [hpa] using hx
          simp at hpass
        rw [findThread, List.find?_cons_of_neg (by exact hpass)] at hslot
        rw [List.find?_cons_of_neg hpa] at hx ⊢
        exact ih hslot hx

namespace State
variable {s : State} {t : Thread}

/-- A thread that stands in its slot is found by its tags in its new form. -/
theorem ref?_setThread_of_slot {r : ThreadRef} {y : Thread} (hslot : s.thread? t.unit t.slot = some t) (hr : s.ref? r = some t)
    (hu : y.unit = t.unit) (hs : y.slot = t.slot) (hg : y.gen = t.gen) (hf : y.former = t.former) : (s.setThread y).ref? r = some y := by
  rcases Option.or_eq_some_iff.1 hr with hx | ⟨hnone, hx⟩
  · obtain ⟨hx, hgen⟩ := Option.filter_eq_some_iff.1 hx
    obtain ⟨hru, hrs⟩ := s.thread?_some _ _ _ hx
    refine Option.or_eq_some_iff.2 (.inl ?_)
    rw [← hru, ← hrs, ← hu, ← hs, thread?_setThread_self, Option.filter_some, hg, if_pos hgen]
  · refine Option.or_eq_some_iff.2 (.inr ⟨?_, find?_putThread_of_slot hslot hx hu hs ?_⟩)
    · by_cases hsame : r.unit = y.unit ∧ r.slot = y.slot
      · rw [hsame.1, hsame.2, hu, hs, hslot] at hnone
        rw [hsame.1, hsame.2, thread?_setThread_self, Option.filter_some, hg]
        rw [Option.filter_some] at hnone
        split at hnone
        · exact absurd hnone (Option.some_ne_none t)
        · rename_i hgen
          exact if_neg hgen
      · rw [thread?_setThread_other _ _ _ _ hsame]
        exact hnone
    · rw [hf]
      exact List.find?_some (p := fun x : Thread => x.former.contains r) hx

/-- The answer of a service call enters the return buffer, and the thread that waits for nothing else commits (R317). -/
theorem exec_syscAnswer {r : ThreadRef} {e : RbEntry} (v : Word) (hslot : s.thread? t.unit t.slot = some t) (hr : s.ref? r = some t)
    (hrb : t.rb = [e]) (hds : e.dests = [.main 8]) (hv : e.vals = none) (hst : t.st = .parked .switch) (hout : t.out = []) (hfl : t.flushing = []) :
    exec (.syscAnswer r v) s = .next ((s.setThread (t.gotResult e.id [⟨v, none⟩])).sched 0 rankLate (.switchPointCommit r)) := by
  have hfind : (t.rb.reverse.find? fun e => e.dests == [Operand.main 8] && e.vals.isNone) = some e := by
    simp [hrb, hds, hv]
  have hset : (s.setThread (t.gotResult e.id [⟨v, none⟩])).ref? r = some (t.gotResult e.id [⟨v, none⟩]) :=
    ref?_setThread_of_slot hslot hr rfl rfl rfl rfl
  have hst' : (t.gotResult e.id [⟨v, none⟩]).st = .parked .switch := hst
  have hdone : (t.gotResult e.id [⟨v, none⟩]).complete = true := by
    have hout' : (t.gotResult e.id [⟨v, none⟩]).out = [] := hout
    have hfl' : (t.gotResult e.id [⟨v, none⟩]).flushing = [] := hfl
    simp [Thread.complete, t.gotResult_rb, hrb, hv, hout', hfl']
  show Host.Outcome.next _ = _
  simp only [hr, hfind, giveResult, hst', nudge_eq, hset, hdone, and_self, if_true]

section
variable (h : Issues s t)
include h

/-- SYSC of any call but ABORT takes an entry for a0, and waits at its switch point (R317). -/
theorem sysc_takesEntry (sm : Bool) {code : BitVec 8} (hc : code ≠ 3) :
    TakesEntry (.sysc sm code) s (s.serve t code.toNat) { t with inrgn := false, restarts := 0 } true [.main 8] (t.pc + 4) :=
  takesEntry_of_done (t := endRegion t) (words := 1) (vs := []) ((onCur_issues h _).trans (congrArg Host.Outcome.next (if_neg hc)))

/-! ## CAPX -/

/-- What CAPX makes of the range entry that holds its address (R324). -/
theorem exec_capx (sm : Bool) (a b : Operand) {l : Launch} {e : RangeEnt} (hl : s.launch? t.ltag = some l)
    (hfound : (l.ranges.find? fun e => e.base ≤ (t.rd a).toNat && (t.rd a).toNat < e.limit) = some e) :
    exec (.capx sm a b) s = .next (if !l.det || e.anyw then s.released t (s.done (endRegion t) 1 sm [])
      else if writerId l t != e.writer || 2 ^ 20 ≤ (t.rd b).toNat then s.fault t (infoVa 6 (t.rd a) false 0) (t.rd a)
      else s.released t (((s.setLaunch { l with ranges := passWriter (t.rd a).toNat (t.rd b).toNat l.ranges }).park
        ((endRegion t).retire (t.pc + 4) [] 0) (.event sm)).sched 400 rankLate (.capxComplete t.ref))) := by
  have hof : s.launchOf t = l := by rw [launchOf, hl]; rfl
  have hon (f : Launch → Launch) : s.onLaunch t.ltag f = s.setLaunch (f l) := by rw [onLaunch, hl]
  refine (onCur_issues h _).trans ?_
  simp only [hof, hfound, hon]

/-- An address in no entry takes the address trap. -/
theorem capx_noEntry (sm : Bool) (a b : Operand) {l : Launch} (hl : s.launch? t.ltag = some l)
    (hfound : (l.ranges.find? fun e => e.base ≤ (t.rd a).toNat && (t.rd a).toNat < e.limit) = none) :
    Faults (.capx sm a b) s t (infoVa 3 (t.rd a) false 0) (t.rd a) := by
  have hof : s.launchOf t = l := by rw [launchOf, hl]; rfl
  refine (onCur_issues h _).trans ?_
  simp only [hof, hfound]

end

end State

/-- Settles O18: SYSC by its code, its answer by the entry that waits for it, and CAPX by the range entry of its address. -/
theorem serviceRequests : Obligations.ServiceRequests := by
  refine ⟨fun s t sm code v h => ⟨fun hc => ?abort, State.sysc_takesEntry h sm, fun r e hr hrb hds hv hst hout hfl => ?answer⟩,
    fun s t sm a b l h hl => ⟨State.capx_noEntry h sm a b hl, fun e he hdet hany hbad => ?trap, fun e he hfree hout => ?free,
      fun e he hdet hany hwr hw hout => ?passes, fun r x hr hst => ?complete⟩⟩
  case abort => exact (onCur_issues h _).trans (congrArg Host.Outcome.next (if_pos hc))
  case answer =>
    obtain ⟨hunit, hslot⟩ := s.thread?_some _ _ _ h
    refine ⟨t.gotResult e.id [⟨v, none⟩], ?_, State.exec_syscAnswer v (by rw [hunit, hslot]; exact h) hr hrb hds hv hst hout hfl⟩
    have hbuf : (t.gotResult e.id [⟨v, none⟩]).rb = [{ e with vals := some [⟨v, none⟩] }] := by
      simp [t.gotResult_rb, hrb, hv]
    rw [← hbuf]
    rfl
  case trap =>
    have hexec := State.exec_capx h sm a b hl he
    have hcond : (writerId l t != e.writer || decide (2 ^ 20 ≤ (t.rd b).toNat)) = true := by simpa using hbad
    rw [if_neg (by simp [hdet, hany]), if_pos hcond] at hexec
    exact hexec
  case free =>
    have hexec := State.exec_capx h sm a b hl he
    rw [if_pos (by simpa using hfree), State.released_nil hout] at hexec
    exact completes_of_oneWord (b := State.endRegion t) hexec
  case passes =>
    have hexec := State.exec_capx h sm a b hl he
    rw [if_neg (by simp [hdet, hany]), if_neg (by simpa [hwr] using hw), State.released_nil hout] at hexec
    exact ⟨_, hexec, stepped_retire (State.endRegion t) (t.pc + 4) [] 0⟩
  case complete =>
    show Host.Outcome.next _ = _
    simp only [hr, State.wakeEvent, hst]
    rfl

end Sys2Proof.Machine
end

section
/-! The statement about atomics, O21 (R287). -/

namespace Sys2Proof.Machine
open Sys2Proof.Claims

/-! ## New values -/

theorem slt_signExtend_dword (p q : Word) : (signExtend 64 p).slt (signExtend 64 q) = true ↔ p.toInt < q.toInt := by
  rw [signExtend_eq 64 p (by decide) (by decide), signExtend_eq 64 q (by decide) (by decide)]
  simp [BitVec.slt]

theorem slt_signExtend_word (p q : Word) :
    (signExtend 32 p).slt (signExtend 32 q) = true ↔ (p.setWidth 32 : W32).toInt < (q.setWidth 32 : W32).toInt := by
  rw [signExtend_eq 32 p (by decide) (by decide), signExtend_eq 32 q (by decide) (by decide), BitVec.slt, decide_eq_true_iff,
    BitVec.toInt_signExtend_of_le (by decide), BitVec.toInt_signExtend_of_le (by decide)]

theorem zeroExtend_word_inj (p q : Word) : zeroExtend 32 p = zeroExtend 32 q ↔ (p.setWidth 32 : W32) = q.setWidth 32 := by
  rw [zeroExtend_word, zeroExtend_word]
  refine ⟨fun h => ?_, fun h => congrArg _ h⟩
  have hback := congrArg (BitVec.setWidth 32) h
  simpa using hback

/-- The new value of 8 bytes (R287). -/
theorem atomNew_dword (old b c : Word) :
    atomNew .add 8 old b c = old + b ∧ atomNew .and 8 old b c = old &&& b ∧ atomNew .or 8 old b c = old ||| b ∧
    atomNew .xor 8 old b c = old ^^^ b ∧ atomNew .xchg 8 old b c = b ∧ atomNew .cas 8 old b c = (if old = c then b else old) ∧
    atomNew .min 8 old b c = (if b.toInt < old.toInt then b else old) ∧ atomNew .max 8 old b c = (if old.toInt < b.toInt then b else old) := by
  have hext (v : Word) : zeroExtend (8 * 8) v = v := zeroExtend_dword v
  have hlt (p q : Word) : (signExtend (8 * 8) p).slt (signExtend (8 * 8) q) = true ↔ p.toInt < q.toInt := slt_signExtend_dword p q
  simp only [atomNew, hext, hlt, and_self]

/-- The new value of 4 bytes: of the low words, zero-extended. -/
theorem atomNew_word (old b c : Word) :
    let w (v : Word) : Word := (v.setWidth 32).setWidth 64
    let p : W32 := old.setWidth 32
    let q : W32 := b.setWidth 32
    atomNew .add 4 old b c = (p + q).setWidth 64 ∧ atomNew .and 4 old b c = w (old &&& b) ∧ atomNew .or 4 old b c = w (old ||| b) ∧
    atomNew .xor 4 old b c = w (old ^^^ b) ∧ atomNew .xchg 4 old b c = w b ∧
    atomNew .cas 4 old b c = (if p = c.setWidth 32 then w b else w old) ∧
    atomNew .min 4 old b c = (if q.toInt < p.toInt then w b else w old) ∧ atomNew .max 4 old b c = (if p.toInt < q.toInt then w b else w old) := by
  intro w p q
  have hext (v : Word) : zeroExtend (8 * 4) v = w v := zeroExtend_word v
  have hlt (u v : Word) : (signExtend (8 * 4) u).slt (signExtend (8 * 4) v) = true ↔ (u.setWidth 32 : W32).toInt < (v.setWidth 32 : W32).toInt :=
    slt_signExtend_word u v
  have hsame : zeroExtend (8 * 4) old = zeroExtend (8 * 4) c ↔ p = c.setWidth 32 := zeroExtend_word_inj old c
  have hsum : w (old + b) = (p + q).setWidth 64 := congrArg (BitVec.setWidth 64) (BitVec.setWidth_add old b (by decide))
  refine ⟨(hext _).trans hsum, hext _, hext _, hext _, hext _, ?_, ?_, ?_⟩
  · exact (congrArg (zeroExtend (8 * 4)) (if_congr hsame rfl rfl)).trans ((apply_ite _ _ _ _).trans (by rw [hext, hext]))
  · exact (congrArg (zeroExtend (8 * 4)) (if_congr (hlt b old) rfl rfl)).trans ((apply_ite _ _ _ _).trans (by rw [hext, hext]))
  · exact (congrArg (zeroExtend (8 * 4)) (if_congr (hlt old b) rfl rfl)).trans ((apply_ite _ _ _ _).trans (by rw [hext, hext]))

/-! ## The way to the bank -/

namespace State
variable {s : State} {t : Thread} {words n pa : Nat} {sm rx : Bool} {op : AtomOp} {k : AKind} {ea : Word} {d : Option Operand}
  {data data2 : Word} {psn : Option Poison} {r : Option RangeEnt}

/-- An atomic that passes and that nothing holds ends its region and goes to its bank (R375). -/
theorem access_atom_here (hd : (d.isSome && t.rb.length == 8) = false) (hc : s.check t k n rx ea = .ok (.here pa) r)
    (hs : s.stall t (.here pa) n true rx false = none) : s.access t words sm (.atom op) k n rx ea d data data2 psn =
      s.localAccess (endRegion t) words sm (.atom op) n rx ea d data data2 psn pa (mirrorTo r) := by
  have hs' : s.stall t (.here pa) n (AccKind.atom op).writes rx (AccKind.atom op == .ldbd || AccKind.atom op == .stbd) = none := hs
  unfold access
  rw [if_neg (by simp [hd]), hc]
  simp only [hs', mirrorDev_eq]
  rfl

/-- An atomic of 4 or 8 bytes leaves for its bank with its operands, and returns the old value where it has a destination. -/
theorem leaves_of_atomic {i : Instr} {x : Bool} {d a : Operand} {b c next : Word} (hnext : t.pc + wd (4 * words) = next)
    (hi : exec i s = .next (s.atomic t words sm x op d a b c)) (hrb : (d != .k0) = true → t.rb.length ≠ 8)
    (hc : s.check t (.atomic (d != .k0) (op == .fadd)) (if x then 8 else 4) false (t.rd a) = .ok (.here pa) r)
    (hs : s.stall t (.here pa) (if x then 8 else 4) true false false = none) :
    Leaves i s { t with inrgn := false, restarts := 0 } sm false
      (accessOf s t (.atom op) (if x then 8 else 4) (t.rd a) (d != .k0) (if x then b else (b.setWidth 32).setWidth 64)
        (if x then c else (c.setWidth 32).setWidth 64) none pa (mirrorTo r)) (if d != .k0 then some d else none) next := by
  have hlow (v : Word) : zeroExtend (8 * if x then 8 else 4) v = if x then v else (v.setWidth 32).setWidth 64 := by
    cases x
    · exact zeroExtend_word v
    · exact zeroExtend_dword v
  have hret : (if d != .k0 then some d else none : Option Operand).isSome = (d != .k0) := by
    cases d != .k0 <;> rfl
  have hfree : ((if d != .k0 then some d else none : Option Operand).isSome && t.rb.length == 8) = false := by
    rw [hret]
    cases hk : d != .k0 with
    | false => rfl
    | true => simpa using hrb hk
  rw [atomic, access_atom_here hfree hc hs, hlow, hlow] at hi
  have hleaves := leaves_of_localAccess (t := endRegion t) hi
  rw [hret] at hleaves
  subst hnext
  exact hleaves

end State

/-- Settles O21: each atomic leaves by the one path of its kind, and its new value is computed on its own width. -/
theorem atomicsLeave : Obligations.AtomicsLeave := by
  refine ⟨fun s t sm x d a b c pa r h => ?_, fun old b c => ?_⟩
  · intro n ret ea low u form
    have leaves {i : Instr} {words : Nat} {op : AtomOp} {old next : Word} (hnext : t.pc + wd (4 * words) = next)
        (hi : exec i s = .next (s.atomic t words sm x op d a (t.rd b) old)) : form i op old next :=
      fun hrb hc hs => State.leaves_of_atomic hnext hi hrb hc hs
    exact ⟨leaves rfl (onCur_issues h _), leaves rfl (onCur_issues h _), leaves rfl (onCur_issues h _), leaves rfl (onCur_issues h _),
      leaves rfl (onCur_issues h _), leaves rfl (onCur_issues h _), leaves rfl (onCur_issues h _), leaves rfl (onCur_issues h _),
      leaves rfl (onCur_issues h _)⟩
  · obtain ⟨hadd, hand, hor, hxor, hxchg, hcas, hmin, hmax⟩ := atomNew_dword old b c
    exact ⟨hadd, hand, hor, hxor, hxchg, hcas, hmin, hmax, atomNew_word old b c⟩

end Sys2Proof.Machine
end

section
/-! SUPPORT. Records that stand in the steward log (R373), and the end and the restart of a thread, which lose none; and the statement about
exchanges of fingerprints, O38 (R376, R377). -/

namespace Sys2Proof.Machine
open Sys2Proof.Claims

/-- A thread that restarts its region, before its window slides back (R374). -/
def Thread.restarting (t : Thread) : Thread :=
  { t with rb := [], skipc := 0, restarts := t.restarts + 1, mirrFail := none, flushing := [], after := .go, fpq := t.fpq.filter (·.v.isSome),
           twin := t.twin.map Twin.dropAwaited }.foldReady

namespace State
variable (s : State) (t : Thread)

/-! ## Records that stand in the log -/

/-- A record stands in the log once it is written. -/
theorem recorded_record (r : RecInfo) : Recorded s (s.record r) r := by
  have hlogged : recordWords s.pkg.seq s.now r ∈ (s.logWords fun _ => recordWords s.pkg.seq s.now r).pkg.log := List.mem_cons_self
  unfold Recorded record
  refine (noted_errPort _ _ _).log ?_
  split
  · exact (noted_countCorrected _).log hlogged
  · exact hlogged

theorem pkg_freeTwin : (s.freeTwin t).pkg = s.pkg := by
  obtain ⟨us, h⟩ := s.freeTwin_eq t
  rw [h]

theorem pkg_freeSlot : (s.freeSlot t).pkg = s.pkg := by
  have htrig (u : State) (tag : Nat) : (u.trigCheck tag).pkg = u.pkg := by
    rcases trigCheck_cases u tag with h | ⟨l, -, h⟩ <;> rw [h]
    rfl
  unfold freeSlot
  rw [htrig]
  refine List.foldlRecOn (motive := fun u : State => u.pkg = s.pkg) _ _ (pkg_freeTwin _ t) fun u hu c _ => ?_
  split
  · exact hu
  · exact hu

/-- The end of a thread loses no record. -/
theorem log_endThread : s.pkg.log ⊆ (s.endThread t).pkg.log := by
  unfold endThread
  dsimp only
  rw [pkg_freeSlot]
  dsimp only
  split
  · exact (noted_record _ _).log
  · exact List.Subset.refl _

/-- A thread that ends with a contained error is gone, and its record written (R383). -/
theorem endContained_ends (cause : Nat) (va detail pc : Word) :
    (s.endContained t cause va detail pc).thread? t.unit t.slot = none ∧
      Recorded s (s.endContained t cause va detail pc) { recOf t 3 2 cause with va := va, detail := detail, pc := pc } :=
  ⟨thread?_endThread _, log_endThread _ _ (recorded_record ..)⟩

/-! ## A restart at the depth of the region -/

theorem cancelRegion_notes : (s.cancelRegion t).pkg = s.pkg ∧ (s.cancelRegion t).now = s.now := by
  refine List.foldlRecOn (motive := fun u : State => u.pkg = s.pkg ∧ u.now = s.now) _ _ ⟨rfl, rfl⟩ fun u hu c _ => ?_
  split
  · exact hu
  · exact hu

/-- A restart that slides no frame back: the thread is at its RGNPC with its registers as they were, and the record is written (R374). -/
theorem regionRestart_restarts (p : Poison) (va pa : Word) (hd : t.depth = t.rgnwd.toNat) (hres : 0 < t.res) :
    ∃ w, (s.regionRestart t p va pa).thread? t.unit t.slot = some w ∧ w.pc = t.rgnpc ∧ w.skipc = 0 ∧ w.restarts = t.restarts + 1 ∧
      w.mismatch = t.mismatch ∧ w.st = .ready ∧ (∀ r, w.rd r = t.rd r) ∧
      Recorded s (s.regionRestart t p va pa) { recOf t 2 2 p.cause with
        agent := agentOf p, va := va, pa := pa, detail := wd p.detail, restarts := t.restarts + 1 } := by
  obtain ⟨hpkg, hnow⟩ := s.cancelRegion_notes t.restarting
  unfold regionRestart
  simp only
  rw [if_pos (by simpa [Thread.foldReady, Thread.res, ← hd] using hres)]
  refine ⟨_, findThread_putThread_self .., rfl, rfl, rfl, rfl, rfl, fun r => ?_, ?_⟩
  · have hn : t.depth - t.rgnwd.toNat = 0 := by omega
    cases r <;> simp [Thread.rd, Thread.frame0, Thread.foldReady, hn]
  · have hrec := recorded_record (s.cancelRegion t.restarting) { recOf t 2 2 p.cause with
      agent := agentOf p, va := va, pa := pa, detail := wd p.detail, restarts := t.restarts + 1 }
    unfold Recorded at hrec ⊢
    rw [hpkg, hnow] at hrec
    exact hrec

end State

/-- Settles O38: what an exchange finds decides, a mill that is gone, equal fingerprints, or a mismatch within or outside a region. -/
theorem fingerprintsCompare : Obligations.FingerprintsCompare := by
  intro s r t w hr htw hst i gone woken
  have hcond : (!s.present w.unit || (s.unit w.unit).retired) = true ↔ gone := by simp [gone]
  refine ⟨fun hg hfp => ?same, fun hg hfp hout => ?ends, fun hg hfp hin hpc hwd hm hrest hd hres => ?restarts, fun hg => ?gone⟩
  case same =>
    show Host.Outcome.next _ = _
    simp only [hr, htw, if_neg (mt hcond.1 hg), if_pos hfp, State.wakeEvent, hst]
    rfl
  case ends =>
    have hno : (!t.inrgn || t.mismatch == some t.pc) = true := by simpa using hout
    refine ⟨s.endContained t 0x203 0 0 t.pc, ?_, s.endContained_ends t 0x203 0 0 t.pc⟩
    show Host.Outcome.next _ = _
    simp only [hr, htw, if_neg (mt hcond.1 hg), if_neg hfp, if_pos hno]
  case restarts =>
    have hno : ¬(!t.inrgn || t.mismatch == some t.pc) = true := by simpa [hin] using hm
    have hlive : ¬(t.st == .halted) = true := by simp [hst]
    let u : Thread := { t with fp := 0, retired := 0, twin := some { w with fp := 0 }, mismatch := some t.pc }
    have hconsume : s.consume u ⟨0x202, 0⟩ = s.regionRestart u ⟨0x202, 0⟩ 0 0 := s.consume_restarts _ _ _ hin hpc hwd hrest
    obtain ⟨x, hx, hxpc, hskip, hcount, hmis, hready, hrd, hrec⟩ := s.regionRestart_restarts u ⟨0x202, 0⟩ 0 0 hd hres
    refine ⟨s.regionRestart u ⟨0x202, 0⟩ 0 0, x, ?_, hx, hxpc, hskip, hcount, hmis, hready, hrd, hrec⟩
    rw [← hconsume]
    show Host.Outcome.next _ = _
    simp only [hr, htw, if_neg (mt hcond.1 hg), if_neg hfp, if_neg hno, if_neg hlive, u]
  case gone =>
    obtain ⟨a, q, k, hrec⟩ := s.record_eq (r := { State.recOf t 4 4 0x204 with unit := w.unit }) (by simp [State.recOf])
    obtain ⟨us, hfree⟩ := (s.record { State.recOf t 4 4 0x204 with unit := w.unit }).freeTwin_eq t
    have hround : ((s.record { State.recOf t 4 4 0x204 with unit := w.unit }).freeTwin t).round = s.round := by
      rw [hfree, hrec]
      rfl
    refine ⟨((s.record { State.recOf t 4 4 0x204 with unit := w.unit }).freeTwin t).setThread (woken { t with twin := none }), ?_,
      findThread_putThread_self .., ?_⟩
    · show Host.Outcome.next _ = _
      simp only [hr, htw, if_pos (hcond.2 hg), State.wakeEvent, hst, hround]
      rfl
    · have hkept := s.recorded_record { State.recOf t 4 4 0x204 with unit := w.unit }
      unfold Recorded at hkept ⊢
      rw [← State.pkg_freeTwin _ t] at hkept
      exact hkept

end Sys2Proof.Machine
end

section
/-! SUPPORT. What a post does to its thread (R68, R71, R386). -/

namespace Sys2Proof.Machine
open Sys2Proof.Claims

namespace Thread
variable (t : Thread) (now : Nat) (i : BitVec 3) (count src status : Nat)

/-- `w` has the operands, the PC and the state of `t`, all of which a post leaves. -/
def SameCourse (t w : Thread) : Prop :=
  (∀ r, w.rd r = t.rd r) ∧ w.pc = t.pc ∧ w.st = t.st

/-- A post counted, before its status is recorded. -/
def countPost : Thread :=
  let old := (vget t.sems i).toNat
  let t := { t with recent := (now, i, count, src, 65536 ≤ old + count) :: t.recent.filter fun r => r.1 == now }
  let t := { t with twin := t.twin.map (Twin.raise (twinKey (.sem i) t.vaultKey) count) }
  let t := if old + count < 65536 then { t with sems := vset t.sems i (BitVec.ofNat 16 (old + count)) }
    else { t with async := (i, infoSrc src) :: t.async }
  if src = 2 then { t with appendWait := false }
    else if src = barSrc t.barId && old + count < 65536 then { t with barrierGot := true } else t

theorem post_eq : t.post now i count src status = (t.countPost now i count src).postStatus now i status := rfl

theorem countPost_sems : (t.countPost now i count src).sems =
    if (vget t.sems i).toNat + count < 65536 then vset t.sems i (BitVec.ofNat 16 ((vget t.sems i).toNat + count)) else t.sems := by
  unfold countPost
  dsimp only
  split_ifs <;> rfl

theorem countPost_async : (t.countPost now i count src).async =
    if (vget t.sems i).toNat + count < 65536 then t.async else (i, infoSrc src) :: t.async := by
  unfold countPost
  dsimp only
  split_ifs <;> rfl

/-- A count leaves the status of earlier posts. -/
theorem countPost_status : (t.countPost now i count src).eng = t.eng ∧ (t.countPost now i count src).esem = t.esem ∧
    (t.countPost now i count src).engAt = t.engAt ∧ (t.countPost now i count src).semerr = t.semerr := by
  unfold countPost
  dsimp only
  split_ifs <;> exact ⟨rfl, rfl, rfl, rfl⟩

theorem countPost_same : SameCourse t (t.countPost now i count src) := by
  unfold countPost
  dsimp only
  split_ifs <;> exact ⟨fun r => by cases r <;> rfl, rfl, rfl⟩

/-! ## The status of a post (R71) -/

/-- A status changes nothing but TSTAT. -/
theorem postStatus_same : SameCourse t (t.postStatus now i status) ∧ (t.postStatus now i status).sems = t.sems ∧
    (t.postStatus now i status).async = t.async := by
  unfold postStatus
  dsimp only
  split_ifs <;> exact ⟨⟨fun r => by cases r <;> rfl, rfl, rfl⟩, rfl, rfl⟩

variable {t now i status}

theorem postStatus_ok : t.postStatus now i 0 = t := if_pos rfl

theorem postStatus_first (hs : status ≠ 0) (he : t.eng = 0) :
    t.postStatus now i status = { t with eng := BitVec.ofNat 8 status, esem := i, engAt := now + 1 } :=
  (if_neg hs).trans (if_pos he)

/-- A later status, or one to a higher semaphore, is noted in SEMERR alone. -/
theorem postStatus_later (hs : status ≠ 0) (he : t.eng ≠ 0) (hat : t.engAt ≠ now + 1 ∨ t.esem.toNat ≤ i.toNat) :
    (t.postStatus now i status).eng = t.eng ∧ (t.postStatus now i status).esem = t.esem ∧
      (t.postStatus now i status).semerr = t.semerr ||| BitVec.ofNat 8 (2 ^ i.toNat) := by
  have hfirst : ¬(t.engAt = now + 1 && i.toNat < t.esem.toNat) = true := by
    simp only [Bool.and_eq_true, decide_eq_true_eq, not_and, Nat.not_lt]
    exact fun h => hat.resolve_left (fun hne => hne h)
  unfold postStatus
  dsimp only
  rw [if_neg hs, if_neg he, if_neg hfirst, if_neg hfirst]
  exact ⟨rfl, rfl, rfl⟩

/-- A status of the same cycle to a lower semaphore takes the place of the first. -/
theorem postStatus_lower (hs : status ≠ 0) (he : t.eng ≠ 0) (hat : t.engAt = now + 1) (hi : i.toNat < t.esem.toNat) :
    (t.postStatus now i status).eng = BitVec.ofNat 8 status ∧ (t.postStatus now i status).esem = i ∧
      (t.postStatus now i status).semerr = t.semerr ||| BitVec.ofNat 8 (2 ^ t.esem.toNat) := by
  have hfirst : (t.engAt = now + 1 && i.toNat < t.esem.toNat) = true := by simp [hat, hi]
  unfold postStatus
  dsimp only
  rw [if_neg hs, if_neg he, if_pos hfirst, if_pos hfirst]
  exact ⟨rfl, rfl, rfl⟩

end Thread

end Sys2Proof.Machine
end

section
/-! The statement about semaphores and posts, O27 (R302 to R304). -/

namespace Sys2Proof.Machine
open Sys2Proof.Claims

namespace State
variable {s : State} {t : Thread} {sm : Bool} {sem : BitVec 3}

section
variable (h : Issues s t)
include h

/-! ## WAIT and SEMSET -/

theorem exec_wait (sm : Bool) (sem : BitVec 3) (i : BitVec 8) (a : Operand) : exec (.wait sm sem i a) s =
    .next (if 65535 < (t.rd a + i.setWidth 64).toNat then s.outOfRange t 0
      else if (t.rd a + i.setWidth 64).toNat ≤ (vget t.sems sem).toNat then s.takeSem t sem (t.rd a + i.setWidth 64).toNat
      else s.park t (.sem sem (t.rd a + i.setWidth 64).toNat)) := onCur_issues h _

/-- WAIT takes its value from a count that holds it (R302, R320). -/
theorem wait_takes {i : BitVec 8} {a : Operand} (hv : (t.rd a + i.setWidth 64).toNat ≤ (vget t.sems sem).toNat) :
    Completes (.wait sm sem i a) s s
      { t with
        sems := vset t.sems sem (vget t.sems sem - (t.rd a + i.setWidth 64).setWidth 16), barrierGot := false,
        twin := t.twin.map (Twin.lower (twinKey (.sem sem) t.vaultKey) (t.rd a + i.setWidth 64).toNat) } true (t.pc + 4) := by
  have hlt := (vget t.sems sem).isLt
  have hexec := exec_wait h sm sem i a
  rw [if_neg (by omega), if_pos hv, takeSem, BitVec.ofNat_toNat] at hexec
  exact completes_of_oneWord (b := { t with
    sems := vset t.sems sem (vget t.sems sem - (t.rd a + i.setWidth 64).setWidth 16), barrierGot := false,
    twin := t.twin.map (Twin.lower (twinKey (.sem sem) t.vaultKey) (t.rd a + i.setWidth 64).toNat) }) hexec

/-- SEMSET sets the count, where no post has come in its cycle (R304). -/
theorem semset_sets {i : BitVec 8} {a : Operand} (hv : (t.rd a + i.setWidth 64).toNat ≤ 65535) (hrec : t.recent = []) :
    Completes (.semset sm sem i a) s s
      { t with sems := vset t.sems sem ((t.rd a + i.setWidth 64).setWidth 16), par := t.par.filter (· != .sem sem) } sm (t.pc + 4) := by
  have hexec : exec (.semset sm sem i a) s =
      .next (s.done { t.mend (.sem sem) with sems := vset t.sems sem ((t.rd a + i.setWidth 64).setWidth 16) } 1 sm []) := by
    refine (onCur_issues h _).trans (congrArg Host.Outcome.next ((if_neg (Nat.not_lt.2 hv)).trans ?_))
    rw [hrec]
    rfl
  exact completes_of_mend (words := 1) (b := { t with sems := vset t.sems sem ((t.rd a + i.setWidth 64).setWidth 16) }) hexec

/-! ## POST -/

/-- POST sends its count to the thread with its TID, if there is one, and its issuer waits (R303). -/
theorem exec_post {a : Operand} {cnt : BitVec 16} (htid : (t.rd a).toNat ≤ 255) (hcnt : cnt ≠ 0) (hout : t.out = []) :
    exec (.post sm sem cnt a) s = .next ((match s.byTid t.ltag t.unit (t.rd a).toNat with
      | some x => s.postLater 2 ⟨x.ref, sem, 16 + 256 * t.unit + t.slot⟩ cnt.toNat 0
      | none => s).done { t with inrgn := false, restarts := 0, holdTo := s.now + 3 } 3 sm []) := by
  have hrange : ¬(255 < (t.rd a).toNat || cnt = 0) = true := by simpa using And.intro htid hcnt
  refine (onCur_issues h _).trans (congrArg Host.Outcome.next ((if_neg hrange).trans ((released_nil hout _).trans ?_)))
  cases s.byTid t.ltag t.unit (t.rd a).toNat <;> rfl

theorem post_completes {a : Operand} {cnt : BitVec 16} {u : State} (htid : (t.rd a).toNat ≤ 255) (hcnt : cnt ≠ 0) (hout : t.out = [])
    (hu : (match s.byTid t.ltag t.unit (t.rd a).toNat with
      | some x => s.postLater 2 ⟨x.ref, sem, 16 + 256 * t.unit + t.slot⟩ cnt.toNat 0
      | none => s) = u) :
    Completes (.post sm sem cnt a) s u { t with inrgn := false, restarts := 0, holdTo := s.now + 3 } sm (t.pc + 12) := by
  have hexec := exec_post (sm := sm) (sem := sem) h htid hcnt hout
  rw [hu] at hexec
  exact completes_of_done (t := { t with inrgn := false, restarts := 0, holdTo := s.now + 3 }) hexec

end

/-! ## The arrival of a post -/

theorem isPost_iff (src : Nat) : isPost src = true ↔ 16 ≤ src ∧ src < 2 ^ 20 := by simp [isPost]

/-- A post that would pass the largest count, where a POST sent it, comes back to that in the next cycle and leaves the counts (R303, R386). -/
theorem semPost_overflows {p : PostTo} {count : Nat} (status : Nat) (hr : s.ref? p.t = some t) (hover : 65535 < (vget t.sems p.sem).toNat + count)
    (hsrc : 16 ≤ p.src) (hsrc' : p.src < 2 ^ 20) (hcount : count ≠ 0) :
    ∃ u, exec (.semPost p count status) s = .next u ∧ Due u (s.now + 1) (.semPost p 0 0) ∧
      ∃ w, u.thread? t.unit t.slot = some w ∧ w.sems = t.sems := by
  let y : Thread := { t with recent := (s.now, p.sem, count, p.src, true) :: t.recent.filter fun r => r.1 == s.now }
  have hpost := (isPost_iff p.src).2 ⟨hsrc, hsrc'⟩
  have hexec : exec (.semPost p count status) s = .next ((match (s.setThread y).thread? ((p.src - 16) / 256) ((p.src - 16) % 256) with
      | some x => (s.setThread y).setThread { x with eligRound := max x.eligRound ((s.setThread y).round + 1) }
      | none => s.setThread y).sched 1 0 (.semPost p 0 0)) := by
    show Host.Outcome.next (s.arrive p count status) = _
    unfold arrive
    rw [if_neg (by simp [hcount]), hr]
    exact congrArg Host.Outcome.next (if_pos (by simpa [hpost] using hover))
  refine ⟨_, hexec, ?_⟩
  split
  · rename_i x hx
    obtain ⟨hxu, hxs⟩ := (s.setThread y).thread?_some _ _ _ hx
    refine ⟨due_sched .., ?_⟩
    let z : Thread := { x with eligRound := max x.eligRound ((s.setThread y).round + 1) }
    show ∃ w, ((s.setThread y).setThread z).thread? t.unit t.slot = some w ∧ _
    by_cases hsame : t.unit = x.unit ∧ t.slot = x.slot
    · have hy : (s.setThread y).thread? t.unit t.slot = some y := s.thread?_setThread_self y
      rw [hsame.1, hsame.2, hxu, hxs, hx] at hy
      obtain rfl := Option.some.inj hy
      exact ⟨_, thread?_setThread_self .., rfl⟩
    · exact ⟨y, (thread?_setThread_other (s.setThread y) z _ _ hsame).trans (s.thread?_setThread_self y), rfl⟩
  · exact ⟨due_sched .., y, s.thread?_setThread_self y, rfl⟩

/-- The overflow of a POST is a fault of its sender at that POST (R303). -/
theorem semPost_faults {p : PostTo} {x : Thread} (status : Nat) (hsrc : 16 ≤ p.src) (hsrc' : p.src < 2 ^ 20)
    (hx : s.thread? ((p.src - 16) / 256) ((p.src - 16) % 256) = some x) :
    exec (.semPost p 0 status) s = .next (s.fault { x with pc := x.pc - 12 } (infoOf 9 p.sem.toNat 0 0) 0) := by
  have hpost := (isPost_iff p.src).2 ⟨hsrc, hsrc'⟩
  show Host.Outcome.next (s.arrive p 0 status) = _
  rw [arrive, if_pos (by simp [hpost]), postFault, hx]

/-- Any other post is taken by its thread (R68). -/
theorem semPost_posts {p : PostTo} {count : Nat} (status : Nat) (hr : s.ref? p.t = some t)
    (hsrc : p.src < 16 ∨ 2 ^ 20 ≤ p.src ∨ (count ≠ 0 ∧ (vget t.sems p.sem).toNat + count ≤ 65535)) :
    exec (.semPost p count status) s = .next (s.setThread (t.post s.now p.sem count p.src status)) := by
  have hany : isPost p.src = true → count ≠ 0 ∧ (vget t.sems p.sem).toNat + count ≤ 65535 := fun hp => by
    obtain ⟨hlo, hhi⟩ := (isPost_iff p.src).1 hp
    exact (hsrc.resolve_left (by omega)).resolve_left (by omega)
  have hpost : s.post p count status = s.setThread (t.post s.now p.sem count p.src status) := by rw [post, hr]
  have hcount : ¬(isPost p.src && count = 0) = true := by
    simpa using fun hp => (hany hp).1
  have hover : ¬(isPost p.src && 65535 < (vget t.sems p.sem).toNat + count) = true := by
    simpa using fun hp => (hany hp).2
  show Host.Outcome.next (s.arrive p count status) = _
  rw [arrive, if_neg hcount, hr]
  exact congrArg Host.Outcome.next ((if_neg hover).trans hpost)

/-- A thread parked in WAIT takes the posts that its count has, at the end of the cycle (R302). -/
theorem wakeOne_sem {i : BitVec 3} {v : Nat} (hst : t.st = .parked (.sem i v)) (hasync : t.async = []) (hv : v ≤ (vget t.sems i).toNat) :
    s.wakeOne t = s.takeSem t i v := by
  have hclear : s.clear t (.sem i v) = true := by simpa [clear] using hv
  simp only [wakeOne, hst, hasync, hclear, List.isEmpty_nil, Bool.not_true, Bool.false_eq_true, if_false, if_true]

end State

/-- Settles O27: the instructions by their values in range, and a post by where it came from and by the status it bears. -/
theorem semaphoresAndPosts : Obligations.SemaphoresAndPosts := by
  refine ⟨fun s t sm sem i cnt a h => ?issued, fun s p count status t hr => ?arrives⟩
  case issued =>
    intro v tid e key
    refine ⟨fun hv => ⟨?waitFaults, ?semsetFaults⟩, State.wait_takes h, fun hv hless => ?parks, State.semset_sets h, fun hbad => ?postFaults,
      fun x htid hcnt hout hx => State.post_completes h htid hcnt hout (by rw [hx]),
      fun htid hcnt hout hx => State.post_completes h htid hcnt hout (by rw [hx])⟩
    case waitFaults => exact (State.exec_wait h sm sem i a).trans (congrArg Host.Outcome.next (if_pos hv))
    case semsetFaults => exact (onCur_issues h _).trans (congrArg Host.Outcome.next (if_pos hv))
    case parks =>
      exact (State.exec_wait h sm sem i a).trans (congrArg Host.Outcome.next ((if_neg (Nat.not_lt.2 hv)).trans (if_neg (Nat.not_le.2 hless))))
    case postFaults => exact (onCur_issues h _).trans (congrArg Host.Outcome.next (if_pos (by simpa using hbad)))
  case arrives =>
    intro old
    refine ⟨fun hover hsrc hsrc' hcount => ?_, fun x hsrc hsrc' hx => State.semPost_faults status hsrc hsrc' hx, fun w hw hsrc => ?taken,
      fun i v hst hasync hv => State.wakeOne_sem hst hasync hv⟩
    · obtain ⟨u, hexec, hdue, hkept⟩ := State.semPost_overflows status hr hover hsrc hsrc' hcount
      exact ⟨u, hexec, hdue, fun _ => hkept⟩
    · subst hw
      have hsems := t.countPost_sems s.now p.sem count p.src
      have hasync := t.countPost_async s.now p.sem count p.src
      obtain ⟨heng, hesem, hengAt, hsemerr⟩ := t.countPost_status s.now p.sem count p.src
      obtain ⟨hrd, hpc, hst⟩ := t.countPost_same s.now p.sem count p.src
      obtain ⟨⟨hrd', hpc', hst'⟩, hsems', hasync'⟩ := (t.countPost s.now p.sem count p.src).postStatus_same s.now p.sem status
      rw [Thread.post_eq]
      rw [← hsems'] at hsems
      rw [← hasync'] at hasync
      refine ⟨State.semPost_posts status hr hsrc, fun hle => ?_, fun hover => ?_, fun j hj => ?_, fun hok => ?_, fun hs he => ?_,
        fun hs he hat => ?_, fun hs he hat hlow => ?_, fun r => (hrd' r).trans (hrd r), hpc'.trans hpc, hst'.trans hst⟩
      · have hlt : (vget t.sems p.sem).toNat + count < 65536 := Nat.lt_succ_of_le hle
        rw [hsems, hasync, if_pos hlt, if_pos hlt, vget_vset, if_pos rfl, BitVec.toNat_ofNat, Nat.mod_eq_of_lt hlt]
        exact ⟨rfl, rfl⟩
      · have hlt : ¬(vget t.sems p.sem).toNat + count < 65536 := by omega
        rw [hsems, hasync, if_neg hlt, if_neg hlt]
        exact ⟨rfl, _, rfl⟩
      · rw [hsems]
        split
        · rw [vget_vset, if_neg hj]
        · rfl
      · subst hok
        rw [Thread.postStatus_ok]
        exact ⟨heng, hsemerr⟩
      · rw [Thread.postStatus_first hs (heng.trans he)]
        exact ⟨rfl, rfl⟩
      · rw [← heng, ← hesem, ← hsemerr]
        exact Thread.postStatus_later hs (heng ▸ he) (by rwa [hengAt, hesem])
      · rw [← hesem, ← hsemerr]
        exact Thread.postStatus_lower hs (heng ▸ he) (hengAt.trans hat) (by rwa [hesem])

end Sys2Proof.Machine
end

section
/-! SUPPORT. APPEND: what its handle decides, and the message that it sends (R289 to R291, R417). -/

namespace Sys2Proof.Machine
open Sys2Proof.Claims

/-! ## Handles (R290, R232) -/

theorem handleBad_iff (h : Word) : handleBad h = true ↔ bits h 14 17 ≠ 0 ∨ h.getLsbD 6 = true := by simp [handleBad]

/-- The handle of a port of a unit is no aperture address. -/
theorem apertureOf_none {h : Word} (hk : bits h 60 4 = 0) : apertureOf h = none := by
  have hlt := h.isLt
  refine List.find?_eq_none.2 fun p _ => ?_
  simp only [bits, beq_iff_eq] at hk ⊢
  omega

/-- The aperture addresses of the launch ports. -/
theorem aperture_address (p : Fin 8) : bits (0xF000000000010000 + wd (64 * p.val)) 60 4 = 15 ∧
    apertureOf (0xF000000000010000 + wd (64 * p.val)) = some p.val := by
  revert p
  decide

/-- The message of an APPEND: the registers from `b` on (R289). -/
def Thread.message (t : Thread) (cnt : BitVec 3) (b : Operand) : List Val := (Thread.run b (cnt.toNat + 1)).map t.val

/-- The thread of an APPEND: out of its region, and in a launch with DET awaiting the post (R375). -/
def Thread.appended (t : Thread) : Thread := { t with inrgn := false, restarts := 0, appendWait := t.det }

namespace State
variable {s : State} {t : Thread} {sm : Bool} {cnt dsem : BitVec 3} {a b : Operand}

/-- What APPEND asks of the JU of a unit of this device (R291). -/
def appendReq (s : State) (t : Thread) (cnt dsem : BitVec 3) (h : Word) (b : Operand) : AppendReq :=
  { ltag := handleLtag t h, unit := bits h 7 7, port := bits h 0 6, msg := t.message cnt b, senderDev := s.devid, senderLtag := t.ltag,
    senderWid := s.widOf t, senderUnit := t.unit, reply := some ⟨t.ref, dsem, 2⟩, replyPkt := none }

/-- The APP that APPEND sends to a device (R207). -/
def appendPkt (s : State) (t : Thread) (cnt : BitVec 3) (h : Word) (b : Operand) (dev : Nat) : Packet :=
  { s.pktOf t 0x07 0 dev with
    aux := bits h 7 7 * 2 ^ 9 + bits h 0 6 * 2 ^ 3 + cnt.toNat,
    payload := wd (handleLtag t h * 2 ^ 48 + s.widOf t * 2 ^ 12) :: (t.message cnt b).map (·.v),
    poisoned := psnMask (⟨0, none⟩ :: t.message cnt b) }

/-- The record that an APPEND to a launch port commits (R31). -/
def appendRecord (t : Thread) (cnt : BitVec 3) (b : Operand) : QRec :=
  ⟨Vector.ofFn fun k : Fin 8 => ((t.message cnt b).getD k.val ⟨0, none⟩).v, t.svc⟩

/-- A message to an absent unit is refused on its behalf (R417). -/
theorem dispatchMsg_absent {h : Word} {src : Nat} {op : Instr} {pkt : Packet} (hdev : s.handleDev h = s.devid)
    (hp : s.present (bits h 7 7) = false) : s.dispatchMsg t h src dsem op pkt =
      (if handleLtag t h == t.ltag then (s.countSent t).countRecvd t.ltag t.unit else s).postLater 8 ⟨t.ref, dsem, src⟩ 1 2 := by
  unfold dispatchMsg
  simp only [hdev, BEq.rfl, Bool.true_and]
  cases handleLtag t h == t.ltag with
  | false =>
    simp only [Bool.false_eq_true, if_false]
    rw [if_neg (by simp [hdev]), if_neg (by simp [hp])]
  | true =>
    obtain ⟨hdev', hp'⟩ : (s.countSent t).handleDev h = (s.countSent t).devid ∧ (s.countSent t).present (bits h 7 7) = false := by
      obtain ⟨d, hd⟩ := countSent_eq s t
      rw [hd]
      exact ⟨hdev, hp⟩
    simp only [if_true]
    rw [if_neg (by simp [hdev']), if_neg (by simp [hp'])]

section
variable (h : Issues s t)
include h

/-- An APPEND whose handle is malformed takes the address trap (R290). -/
theorem append_faults (hbad : (bits (t.rd a) 60 4 ≠ 0 ∧ bits (t.rd a) 60 4 ≠ 15) ∨ (bits (t.rd a) 60 4 = 0 ∧ handleBad (t.rd a) = true)) :
    Faults (.append sm cnt dsem a b) s t (infoVa 3 (t.rd a) false 0) (t.rd a) := by
  refine (onCur_issues h _).trans (congrArg Host.Outcome.next (if_pos ?_))
  rcases hbad with ⟨h0, h15⟩ | ⟨h0, hb⟩
  · simp [h0, h15]
  · simp [h0, hb]

section
variable (hout : t.out = []) (hwait : t.det = false ∨ t.appendWait = false)
include hout hwait

/-- To a port of a unit the message is sent (R291). -/
theorem exec_append_message (h4 : bits (t.rd a) 60 4 = 0) (hgood : handleBad (t.rd a) = false) : exec (.append sm cnt dsem a b) s = .next
    ((s.dispatchMsg t (t.rd a) 2 dsem (.appendAccept (s.appendReq t cnt dsem (t.rd a) b))
      (s.appendPkt t cnt (t.rd a) b (s.handleDev (t.rd a)))).done t.appended 3 sm []) := by
  have hheld : ¬(t.det && t.appendWait) = true := by rcases hwait with hw | hw <;> simp [hw]
  refine (onCur_issues h _).trans (congrArg Host.Outcome.next ((if_neg (by simp [h4, hgood])).trans
    ((if_neg (by simp [hout])).trans ((if_neg hheld).trans ?_))))
  rw [apertureOf_none h4]
  rfl

theorem append_local (h4 : bits (t.rd a) 60 4 = 0) (hgood : handleBad (t.rd a) = false)
    (hhere : (t.rd a).getLsbD 31 = true ∨ bits (t.rd a) 32 12 = s.devid) (hp : s.present (bits (t.rd a) 7 7) = true) :
    Completes (.append sm cnt dsem a b) s ((if handleLtag t (t.rd a) == t.ltag then s.countSent t else s).sched 6 (rankJu t.unit)
      (.appendAccept (s.appendReq t cnt dsem (t.rd a) b))) t.appended sm (t.pc + 12) := by
  have hexec := exec_append_message (sm := sm) (cnt := cnt) (dsem := dsem) (b := b) h hout hwait h4 hgood
  rw [dispatchMsg_local (handleDev_local hhere) hp] at hexec
  exact completes_of_done (t := t.appended) hexec

theorem append_refused (h4 : bits (t.rd a) 60 4 = 0) (hgood : handleBad (t.rd a) = false)
    (hhere : (t.rd a).getLsbD 31 = true ∨ bits (t.rd a) 32 12 = s.devid) (hp : s.present (bits (t.rd a) 7 7) = false) :
    Completes (.append sm cnt dsem a b) s
      ((if handleLtag t (t.rd a) == t.ltag then (s.countSent t).countRecvd t.ltag t.unit else s).postLater 8 ⟨t.ref, dsem, 2⟩ 1 2)
      t.appended sm (t.pc + 12) := by
  have hexec := exec_append_message (sm := sm) (cnt := cnt) (dsem := dsem) (b := b) h hout hwait h4 hgood
  rw [dispatchMsg_absent (handleDev_local hhere) hp] at hexec
  exact completes_of_done (t := t.appended) hexec

theorem append_remote (h4 : bits (t.rd a) 60 4 = 0) (hgood : handleBad (t.rd a) = false)
    (hfar : ¬((t.rd a).getLsbD 31 = true ∨ bits (t.rd a) 32 12 = s.devid)) :
    Completes (.append sm cnt dsem a b) s (s.threadReq t (s.appendPkt t cnt (t.rd a) b (bits (t.rd a) 32 12)) (.post ⟨t.ref, dsem, 2⟩))
      t.appended sm (t.pc + 12) := by
  obtain ⟨h31, hdev⟩ := not_or.1 hfar
  have hto : s.handleDev (t.rd a) = bits (t.rd a) 32 12 := if_neg h31
  have hexec := exec_append_message (sm := sm) (cnt := cnt) (dsem := dsem) (b := b) h hout hwait h4 hgood
  rw [dispatchMsg_remote (hto ▸ hdev), hto] at hexec
  exact completes_of_done (t := t.appended) hexec

/-- To a launch port the record is committed, or dropped where its queue is full (R31, R291). -/
theorem append_record {p : Fin 8} (hp : t.rd a = 0xF000000000010000 + wd (64 * p.val)) (hpsn : ∀ v ∈ t.message cnt b, v.psn = none) :
    Completes (.append sm cnt dsem a b) s
      ((if 64 ≤ (s.lport p.val).queue.length then s else s.commitRecord p.val (appendRecord t cnt b)).postLater 8 ⟨t.ref, dsem, 2⟩ 1
        (if 64 ≤ (s.lport p.val).queue.length then 3 else 0)) t.appended sm (t.pc + 12) := by
  obtain ⟨h4, hap⟩ := aperture_address p
  rw [← hp] at h4 hap
  have hheld : ¬(t.det && t.appendWait) = true := by rcases hwait with hw | hw <;> simp [hw]
  have hclean : (t.message cnt b).findSome? (·.psn) = none := List.findSome?_eq_none_iff.2 hpsn
  have hrec : (⟨Vector.ofFn fun i : Fin 8 => ((List.range 8).map fun i => ((t.message cnt b).getD i ⟨0, none⟩).v).getD i.val 0, t.svc⟩ : QRec) =
      appendRecord t cnt b := by
    refine congrArg (QRec.mk · t.svc) (congrArg Vector.ofFn (funext fun i => ?_))
    rw [List.getD_eq_getElem _ _ (by simp), List.getElem_map, List.getElem_range]
  have hexec : exec (.append sm cnt dsem a b) s = .next
      (((if 64 ≤ (s.lport p.val).queue.length then s else s.commitRecord p.val (appendRecord t cnt b)).postLater 8 ⟨t.ref, dsem, 2⟩ 1
        (if 64 ≤ (s.lport p.val).queue.length then 3 else 0)).done t.appended 3 sm []) := by
    refine (onCur_issues h _).trans (congrArg Host.Outcome.next ((if_neg (by simp [h4, hap])).trans
      ((if_neg (by simp [hout])).trans ((if_neg hheld).trans ?_))))
    rw [hap, ← hrec]
    change (match (t.message cnt b).findSome? (·.psn) with | some q => s.consume (endRegion t) q | none => _) = _
    rw [hclean]
    simp only
    rfl
  exact completes_of_done (t := t.appended) hexec

end
end

end State

end Sys2Proof.Machine
end

section
/-! SUPPORT. The JU's decision on a message: the stores of the message and what they leave, and the port moving on (R179, R181, R401). -/

namespace Sys2Proof.Machine
open Sys2Proof.Claims

namespace State
variable {s : State}

/-! ## Stores to segment 0 of a crew's S1 -/

theorem storeS1_mem (tag u off : Nat) (v : Val) : (s.storeS1 tag u off v).mem = match s.s1Addr tag u off with
    | some pa => wrBytes s.mem pa (natLe 8 v.v.toNat)
    | none => s.mem := by
  cases hpa : s.s1Addr tag u off with
  | some pa =>
    obtain ⟨a, q, he⟩ := (s.store pa 8 v).touch_eq pa 8 none
    simp only [storeS1, hpa, he, store_mem]
  | none => simp only [storeS1, hpa]

theorem byteAt_storeS1_outside {tag u off a : Nat} (v : Val) (h : ∀ pa, s.s1Addr tag u off = some pa → a < pa ∨ pa + 8 ≤ a) :
    byteAt (s.storeS1 tag u off v) a = byteAt s a := by
  rw [byteAt, storeS1_mem]
  split
  · rename_i pa hpa
    exact rdByte_wrBytes_outside _ _ _ _ (by rw [length_natLe]; exact h pa hpa)
  · rfl

theorem leNat_storeS1 (hwf : Memory.wf s.mem = true) {tag u off pa : Nat} (v : Val) (h : s.s1Addr tag u off = some pa) :
    leNat (rdBytes (s.storeS1 tag u off v).mem pa 8) = v.v.toNat := by
  have hr := rdBytes_wrBytes (natLe 8 v.v.toNat) s.mem pa hwf
  rw [length_natLe] at hr
  rw [storeS1_mem, h]
  refine (congrArg leNat hr).trans ?_
  rw [leNat_natLe]
  exact Nat.mod_eq_of_lt v.v.isLt

theorem s1Addr_congr {u : State} (h : u.disp = s.disp) (tag v off : Nat) : u.s1Addr tag v off = s.s1Addr tag v off := by
  simp only [s1Addr, seg?, segs, crew?, launch?, h]

/-- Stores to segment 0 leave the dispatcher's keeping, the canonical form of memory, and every byte outside them. -/
theorem storeS1s_leave {α : Type} (tag u : Nat) (off : α → Nat) (v : α → Val) (l : List α) (hwf : Memory.wf s.mem = true) :
    (l.foldl (fun s i => s.storeS1 tag u (off i) (v i)) s).disp = s.disp ∧
    Memory.wf (l.foldl (fun s i => s.storeS1 tag u (off i) (v i)) s).mem = true ∧
    ∀ a, (∀ i ∈ l, ∀ pa, s.s1Addr tag u (off i) = some pa → a < pa ∨ pa + 8 ≤ a) →
      byteAt (l.foldl (fun s i => s.storeS1 tag u (off i) (v i)) s) a = byteAt s a := by
  refine ⟨?_, ?_, fun a ha => ?_⟩
  · exact List.foldlRecOn (motive := fun x : State => x.disp = s.disp) l _ rfl fun _ h _ _ => (storeS1_disp ..).trans h
  · refine List.foldlRecOn (motive := fun x : State => Memory.wf x.mem = true) l _ hwf fun x h i _ => ?_
    rw [storeS1_mem]
    split
    · exact wrBytes_wf _ _ _ h
    · exact h
  · refine (List.foldlRecOn (motive := fun x : State => x.disp = s.disp ∧ byteAt x a = byteAt s a) l _ ⟨rfl, rfl⟩ fun x h i hi => ?_).2
    obtain ⟨hdisp, hbyte⟩ := h
    exact ⟨(storeS1_disp ..).trans hdisp,
      (byteAt_storeS1_outside _ fun pa hpa => ha i hi pa ((s1Addr_congr hdisp ..).symm.trans hpa)).trans hbyte⟩

end State

/-! ## The port of a crew -/

theorem Crew.port_setPort_self (c : Crew) (n : Nat) (p : Port) : (c.setPort n p).port n = p := by
  rw [port, setPort, mget_mset_self]
  rfl

theorem Crew.port_setPort_other (c : Crew) {n m : Nat} (p : Port) (h : m ≠ n) : (c.setPort n p).port m = c.port m := by
  rw [port, setPort, mget_mset_other _ _ _ _ h]
  rfl

/-- A port with a message more at its tail (R179). -/
def Port.queued (p : Port) : Port := { p with count := p.count + 1, tail := (p.tail + 1) % p.depth }

/-- The header of a message (R184), of a sender of another launch. -/
def appendHeader (r : AppendReq) : Nat := 2 ^ 63 + (r.msg.length - 1) * 2 ^ 60 + r.senderDev * 2 ^ 48 + r.senderWid * 2 ^ 12

section
variable {r : AppendReq} {c : Crew}

/-! ## The status of a message (R181) -/

theorem appendStatus_closed (h : c.closed = true ∨ (c.port r.port).closed = true ∨ (c.port r.port).en = false) :
    State.appendStatus r c false false false = 2 := if_pos (by simpa [or_assoc] using h)

section
variable (hc : c.closed = false) (hp : (c.port r.port).closed = false) (hen : (c.port r.port).en = true)
include hc hp hen

theorem appendStatus_full (h : (c.port r.port).count = (c.port r.port).depth) :
    State.appendStatus r c false false false = if (c.port r.port).pol = true then 1 else 3 := by
  simp [State.appendStatus, hc, hp, hen, h]

theorem appendStatus_taken (h : (c.port r.port).count ≠ (c.port r.port).depth) : State.appendStatus r c false false false = 0 := by
  simp [State.appendStatus, hc, hp, hen, h]

end

theorem appendStatus_refused (h : c.closed = true ∨ (c.port r.port).closed = true ∨ (c.port r.port).en = false ∨
    (c.port r.port).count = (c.port r.port).depth) : State.appendStatus r c false false false ≠ 0 := by
  by_cases hclosed : c.closed = true ∨ (c.port r.port).closed = true ∨ (c.port r.port).en = false
  · rw [appendStatus_closed hclosed]
    decide
  · obtain ⟨hc, hp, hen⟩ : c.closed = false ∧ (c.port r.port).closed = false ∧ (c.port r.port).en = true := by simpa using hclosed
    rw [appendStatus_full hc hp hen (by simpa [hc, hp, hen] using h)]
    split <;> decide

end

namespace State
variable {s : State} {r : AppendReq} {c : Crew} {to_ : PostTo}

/-- What a port overflow records changes neither memory, nor crews, nor the cycle (R401). -/
theorem portOverflow_eq (s : State) (r : AppendReq) (c : Crew) (own : Bool) : ∃ a q k, s.portOverflow r c own =
    { s with agenda := a, seq := q, pkg := k } := by
  unfold portOverflow
  extract_lets info errp logged
  have hcls : info.cls ≠ 1 := by simp [info]
  split
  · exact ⟨s.agenda, s.seq, _, rfl⟩
  · exact record_eq s hcls

/-- The dwords of a message stored in the slot at the tail of its port, and with them its header (R179, R184). -/
def bodyStored (s : State) (r : AppendReq) (c : Crew) : State :=
  (List.range 8).foldl (fun s i => s.storeS1 c.ltag c.unit ((c.port r.port).slotOff (c.port r.port).tail + 8 * i) (r.msg.getD i ⟨0, none⟩)) s

def messageStored (s : State) (r : AppendReq) (c : Crew) : State :=
  (s.bodyStored r c).storeS1 c.ltag c.unit ((c.port r.port).hdrOff (c.port r.port).tail) ⟨wd (appendHeader r), none⟩

/-- The stores of a message leave its header behind its dwords, the crews as they were, and every other byte. -/
theorem messageStored_leaves (s : State) (r : AppendReq) (c : Crew) (hwf : Memory.wf s.mem = true) :
    (s.messageStored r c).now = s.now ∧ (s.messageStored r c).disp = s.disp ∧
    (∀ pa, s.s1Addr c.ltag c.unit ((c.port r.port).hdrOff (c.port r.port).tail) = some pa →
      leNat (rdBytes (s.messageStored r c).mem pa 8) = appendHeader r % 2 ^ 64) ∧
    (∀ a, (∀ k pa, k < 9 → s.s1Addr c.ltag c.unit (if k < 8 then (c.port r.port).slotOff (c.port r.port).tail + 8 * k
      else (c.port r.port).hdrOff (c.port r.port).tail) = some pa → a < pa ∨ pa + 8 ≤ a) → byteAt (s.messageStored r c) a = byteAt s a) := by
  obtain ⟨hdisp, hwf', hbytes⟩ := storeS1s_leave (s := s) c.ltag c.unit (fun i => (c.port r.port).slotOff (c.port r.port).tail + 8 * i)
    (fun i => r.msg.getD i ⟨0, none⟩) (List.range 8) hwf
  have hbody : (s.bodyStored r c).now = s.now := storeS1s_now ..
  refine ⟨(storeS1_now ..).trans hbody, (storeS1_disp ..).trans hdisp, fun pa hpa => ?_, fun a ha => ?_⟩
  · refine (leNat_storeS1 hwf' _ ((s1Addr_congr hdisp ..).trans hpa)).trans ?_
    exact BitVec.toNat_ofNat ..
  · have hhdr : byteAt (s.messageStored r c) a = byteAt (s.bodyStored r c) a := byteAt_storeS1_outside _ fun pa hpa =>
      ha 8 pa (by decide) (by rw [if_neg (by decide)]; exact (s1Addr_congr hdisp ..).symm.trans hpa)
    refine hhdr.trans (hbytes a fun i hi pa hpa => ?_)
    have hi' := List.mem_range.1 hi
    exact ha i pa (by omega) (by rw [if_pos hi']; exact hpa)

/-- A message that is accepted is stored, and its port moves on (R181). -/
theorem writeMsg_eq (hc : s.crew? c.ltag c.unit = some c) :
    s.writeMsg r c false false = (s.messageStored r c).setCrew (c.setPort r.port (c.port r.port).queued) := by
  have hdisp : (s.messageStored r c).disp = s.disp := (storeS1_disp ..).trans
    (List.foldlRecOn (motive := fun x : State => x.disp = s.disp) _ _ rfl fun _ h _ _ => (storeS1_disp ..).trans h)
  have hcrew : (s.messageStored r c).crew? c.ltag c.unit = some c := by
    rw [crew?, hdisp]
    exact hc
  rw [← onCrew_eq hcrew fun c => c.setPort r.port _]
  have hhdr : 2 ^ 63 + (r.msg.length - 1) * 2 ^ 60 + r.senderDev * 2 ^ 48 + b01 false * 2 ^ 47 + r.senderWid * 2 ^ 12 = appendHeader r := by
    have hown : b01 false * 2 ^ 47 = 0 := Nat.zero_mul _
    rw [hown, Nat.add_zero, appendHeader]
  unfold writeMsg
  simp only [hhdr, Bool.false_eq_true, if_false]
  rfl

section
variable (hc : s.crew? r.ltag r.unit = some c) (hdet : s.isDet r.ltag = false) (hreply : r.reply = some to_)
  (hsender : r.senderLtag ≠ r.ltag)
include hc hdet hreply hsender

/-- The JU's decision: the status of the message, by which it is written or not, and the post to its sender (R181). -/
theorem appendDecide_eq (hpkt : r.replyPkt = none) : s.appendDecide r = (if appendStatus r c false false false = 0 then s.writeMsg r c false false
    else if appendStatus r c false false false = 1 then s.portOverflow r c false else s).postLater 2 to_ 1
      (appendStatus r c false false false) := by
  have hown : (r.senderDev == s.devid && r.senderLtag == r.ltag) = false := by simp [hsender]
  unfold appendDecide
  simp only [hpkt, decidedBefore, hreply, Option.isNone_some, Option.isNone_none, Bool.false_and, Bool.not_false, Bool.true_and, hown,
    countDecided, if_true, hc, hdet, decide_, Bool.false_eq_true, if_false]

theorem appendExt_refused (h : appendStatus r c false false false ≠ 0) : s.appendExt r = [] := by
  have hown : (r.senderDev == s.devid && r.senderLtag == r.ltag) = false := by simp [hsender]
  unfold appendExt
  simp only [hreply, Option.isNone_some, Bool.false_and, Bool.not_false, Bool.true_and, hown, hc, hdet]
  exact if_pos (by simpa using h)

end

end State

end Sys2Proof.Machine
end

section
/-! The statement about messages to ports, O25. -/

namespace Sys2Proof.Machine
open Sys2Proof.Claims

namespace State
variable {s : State} {r : AppendReq} {c : Crew} {to_ : PostTo}

theorem crew?_postLater (s : State) (delay : Nat) (p : PostTo) (count status tag u : Nat) :
    (s.postLater delay p count status).crew? tag u = s.crew? tag u := rfl

/-- The JU and the banks of a message hold it for a cycle (R109, R181). -/
def appendWaits (s : State) (r : AppendReq) : Bool :=
  s.busy.contains (juKey r.unit) || s.waitsOn (s.appendExt r) || (s.appendExt r).any fun x => !s.bankFree x.1

theorem exec_appendAccept_waits (h : s.appendWaits r = true) : exec (.appendAccept r) s = .next (s.sched 1 1 (.appendAccept r)) :=
  congrArg Host.Outcome.next (if_pos h)

/-- A message that nothing holds is decided, in a state in which the JU and its banks are busy. -/
theorem exec_appendAccept_decides (h : s.appendWaits r = false) :
    ∃ b k, exec (.appendAccept r) s = .next (State.appendDecide { s with busy := b, streak := k } r) := by
  have hbanks : ∃ b k, (s.appendExt r).foldl (fun (s : State) b => s.takeBank b.1) { s with busy := juKey r.unit :: s.busy } =
      { s with busy := b, streak := k } := by
    refine List.foldlRecOn (motive := fun u : State => ∃ b k, u = { s with busy := b, streak := k }) _ _ ⟨_, _, rfl⟩ fun u hu x _ => ?_
    obtain ⟨b, k, rfl⟩ := hu
    exact ⟨_, _, rfl⟩
  obtain ⟨b, k, hb⟩ := hbanks
  refine ⟨b, k, congrArg Host.Outcome.next ((if_neg (ne_true_of_eq_false h)).trans ?_)⟩
  rw [hb]

section
variable (hc : s.crew? r.ltag r.unit = some c) (hdet : s.isDet r.ltag = false) (hreply : r.reply = some to_) (hpkt : r.replyPkt = none)
  (hsender : r.senderLtag ≠ r.ltag)
include hc hdet hreply hpkt hsender

/-- A message that is refused changes neither its crew nor memory, and its sender is told (R181, R401). -/
theorem appendDecide_refuses {status : Nat} (hs : appendStatus r c false false false = status) (hne : status ≠ 0) :
    Due (s.appendDecide r) (s.now + 2) (.semPost to_ 1 status) ∧ (s.appendDecide r).crew? r.ltag r.unit = some c ∧
      (s.appendDecide r).mem = s.mem := by
  rw [appendDecide_eq hc hdet hreply hsender hpkt, hs, if_neg hne]
  split
  · obtain ⟨a, q, k, he⟩ := s.portOverflow_eq r c false
    rw [he]
    exact ⟨due_sched .., hc, rfl⟩
  · exact ⟨due_sched .., hc, rfl⟩

/-- A message that is accepted is stored in its slot, and its port has it at its tail. -/
theorem appendDecide_accepts (htag : c.ltag = r.ltag) (hunit : c.unit = r.unit) (hs : appendStatus r c false false false = 0) :
    s.appendDecide r = ((s.messageStored r c).setCrew (c.setPort r.port (c.port r.port).queued)).postLater 2 to_ 1 0 := by
  rw [appendDecide_eq hc hdet hreply hsender hpkt, hs, if_pos rfl, writeMsg_eq (by rw [htag, hunit]; exact hc)]

end

end State

/-- Settles O25: APPEND by its handle; the JU's decision by the status of the message. -/
theorem appendsReachTheirPort : Obligations.AppendsReachTheirPort := by
  refine ⟨fun s t sm cnt dsem a b h => ?appends, fun s r c to_ hc htag hunit hdet hreply hpkt hsender hsound => ?decides⟩
  case appends =>
    intro hd i msg ltag own u here
    have good (h17 : bits hd 14 17 = 0) (h6 : hd.getLsbD 6 = false) : handleBad hd = false := by
      rw [handleBad, h17, h6]
      rfl
    refine ⟨fun h0 h15 => State.append_faults h (.inl ⟨h0, h15⟩), fun h0 hbad => State.append_faults h (.inr ⟨h0, (handleBad_iff _).2 hbad⟩),
      fun h0 h17 h6 hout hwait hhere => ⟨State.append_local h hout hwait h0 (good h17 h6) hhere,
        State.append_refused h hout hwait h0 (good h17 h6) hhere⟩,
      fun h0 h17 h6 hout hwait hfar => State.append_remote h hout hwait h0 (good h17 h6) hfar,
      fun p hp hout hwait hpsn hlen => ?_, fun p hp hout hwait hpsn hlen => ?_⟩
    · have hrec := State.append_record (sm := sm) (dsem := dsem) h hout hwait hp hpsn
      rw [if_neg (Nat.not_le.2 hlen), if_neg (Nat.not_le.2 hlen)] at hrec
      exact hrec
    · have hrec := State.append_record (sm := sm) (dsem := dsem) h hout hwait hp hpsn
      rw [if_pos hlen, if_pos hlen] at hrec
      exact hrec
  case decides =>
    intro p hdr told waits
    have hword : hdr = appendHeader r := by simp only [hdr, appendHeader]
    clear_value hdr
    subst hword
    refine ⟨State.exec_appendAccept_waits, fun hbad => State.appendExt_refused hc hdet hreply hsender (appendStatus_refused hbad),
      fun hwaits => ?_⟩
    obtain ⟨b, k, hexec⟩ := State.exec_appendAccept_decides hwaits
    let v : State := { s with busy := b, streak := k }
    have hcv : v.crew? r.ltag r.unit = some c := hc
    have hdetv : v.isDet r.ltag = false := hdet
    refine ⟨v.appendDecide r, hexec, fun hclosed => ?_, fun hc0 hp0 hen hfull => ?_, fun hc0 hp0 hen hroom => ?_⟩
    · exact State.appendDecide_refuses hcv hdetv hreply hpkt hsender (appendStatus_closed hclosed) (by decide)
    · exact State.appendDecide_refuses hcv hdetv hreply hpkt hsender (appendStatus_full hc0 hp0 hen hfull) (by split <;> decide)
    · obtain ⟨hnow, -, hhdr, hbytes⟩ := v.messageStored_leaves r c hsound.mem
      rw [State.appendDecide_accepts hcv hdetv hreply hpkt hsender htag hunit (appendStatus_taken hc0 hp0 hen hroom)]
      refine ⟨?_, ⟨c.setPort r.port p.queued, ?_, ?_, ?_, ?_, fun n hn => c.port_setPort_other _ hn⟩, fun pa hpa => ?_, fun x hx => ?_⟩
      · have hdue := State.due_sched ((v.messageStored r c).setCrew (c.setPort r.port p.queued)) 2 (rankPost to_.sem) (.semPost to_ 1 0)
        rw [State.setCrew_now, hnow] at hdue
        exact hdue
      · rw [State.crew?_postLater, ← htag, ← hunit]
        exact (v.messageStored r c).crew?_setCrew_self (c.setPort r.port p.queued)
      · rw [Crew.port_setPort_self]
        rfl
      · rw [Crew.port_setPort_self]
        rfl
      · rw [Crew.port_setPort_self]
        rfl
      · rw [State.postLater_mem, State.setCrew_mem]
        exact hhdr pa (by rw [htag, hunit]; exact hpa)
      · rw [byteAt, State.postLater_mem, State.setCrew_mem]
        exact hbytes x fun k pa hk hpa => hx k pa hk (by rw [htag, hunit] at hpa; exact hpa)

end Sys2Proof.Machine
end

section
/-! SUPPORT. What an element of a vector command gives, by the function of the command (R342 to R346). -/

namespace Sys2Proof.Machine

/-! ## The streams of a function (R342, R344 to R346) -/

theorem Vx.streams_of_one {v : Vx} (h : (6 ≤ v.f ∧ v.f ≤ 0x0C) ∨ (0x0F ≤ v.f ∧ v.f ≤ 0x12) ∨ v.f = 0x14) : v.streams = [0] := by
  unfold streams
  rw [if_neg (by simp; omega), if_neg (by omega), if_neg (by simp; omega), if_pos (by simp; omega)]

theorem Vx.streams_of_three {v : Vx} (h : v.f = 3 ∨ v.f = 0x0E) : v.streams = [0, 1, 2] := if_pos (by simpa using h)

theorem Vx.streams_of_two {v : Vx} (h : v.f ≤ 2 ∨ v.f = 4 ∨ v.f = 5 ∨ v.f = 0x0D ∨ v.f = 0x15 ∨ v.f = 0x18 ∨ v.f = 0x19) : v.streams = [0, 1] := by
  unfold streams
  rw [if_neg (by simp; omega), if_neg (by omega), if_neg (by simp; omega), if_neg (by simp; omega)]

namespace State
variable {s : State} {c : Cmd} {v : Vx} {j : Nat} {st : VAcc} {x y z : FVal}

/-- What a function reads of a stream: the element of one that it has, and else nothing. -/
def vxIn (s : State) (c : Cmd) (v : Vx) (k j : Nat) : Except Stop FVal := if v.streams.contains k then s.vxElem c v k j else .ok .nan

/-- The value that is read of a stream. -/
theorem vxIn_eq {k : Nat} (h : s.vxElem c v k j = .ok x) : s.vxIn c v k j = .ok (if v.streams.contains k then x else .nan) := by
  unfold vxIn
  split
  · exact h
  · rfl

/-! ## The functions of one element (R342) -/

/-- A function of the values of one element gives its value to the same position. -/
theorem vxStep_fun (hlt : v.f < 0x11) (hlut : v.f ≠ 0x0C) (hx : s.vxIn c v 0 j = .ok x) (hy : s.vxIn c v 1 j = .ok y) (hz : s.vxIn c v 2 j = .ok z) :
    s.vxStep c v j st = .ok (st, [(j, .val (vxFun v.f (v.e.rm == 2) (Vx.op c.n) c.b.toInt x y z))]) := by
  unfold vxIn at hx hy hz
  unfold vxStep
  split
  case h_10 => simp only [hx, hy, hz]; rfl
  all_goals omega

section
variable {r : FVal} (hx : s.vxElem c v 0 j = .ok x) (hy : s.vxElem c v 1 j = .ok y) (hz : s.vxElem c v 2 j = .ok z)
include hx hy hz

/-- A function of one stream. -/
theorem vxStep_fun_one (hf : (6 ≤ v.f ∧ v.f ≤ 0x0B) ∨ v.f = 0x0F ∨ v.f = 0x10)
    (hr : vxFun v.f (v.e.rm == 2) (Vx.op c.n) c.b.toInt x .nan .nan = r) : s.vxStep c v j st = .ok (st, [(j, .val r)]) := by
  have hs : v.streams = [0] := Vx.streams_of_one (by omega)
  have hstep := vxStep_fun (st := st) (by omega) (by omega) (vxIn_eq hx) (vxIn_eq hy) (vxIn_eq hz)
  rw [hs] at hstep
  exact hr ▸ hstep

/-- A function of two streams. -/
theorem vxStep_fun_two (hf : v.f ≤ 2 ∨ v.f = 4 ∨ v.f = 5 ∨ v.f = 0x0D)
    (hr : vxFun v.f (v.e.rm == 2) (Vx.op c.n) c.b.toInt x y .nan = r) : s.vxStep c v j st = .ok (st, [(j, .val r)]) := by
  have hs : v.streams = [0, 1] := Vx.streams_of_two (by omega)
  have hstep := vxStep_fun (st := st) (by omega) (by omega) (vxIn_eq hx) (vxIn_eq hy) (vxIn_eq hz)
  rw [hs] at hstep
  exact hr ▸ hstep

/-- A function of three streams. -/
theorem vxStep_fun_three (hf : v.f = 3 ∨ v.f = 0x0E)
    (hr : vxFun v.f (v.e.rm == 2) (Vx.op c.n) c.b.toInt x y z = r) : s.vxStep c v j st = .ok (st, [(j, .val r)]) := by
  have hs : v.streams = [0, 1, 2] := Vx.streams_of_three hf
  have hstep := vxStep_fun (st := st) (by omega) (by omega) (vxIn_eq hx) (vxIn_eq hy) (vxIn_eq hz)
  rw [hs] at hstep
  exact hr ▸ hstep

end

/-! ## Functions that read no stream (R342) -/

theorem vxStep_fill (hf : v.f = 0x16) : s.vxStep c v j st = .ok (st, [(j, .code (c.a.toNat % 2 ^ fmtWidth v.e.fmt))]) := by
  simp only [vxStep, hf]

theorem vxStep_iota (hf : v.f = 0x17) : s.vxStep c v j st = .ok (st, [(j, .val (ofInt (c.a.toInt + j * c.b.toInt) 0))]) := by
  simp only [vxStep, hf]

/-! ## Reductions and scans (R343) -/

section
variable (hx : s.vxElem c v 0 j = .ok x)
include hx

theorem vxStep_scan (hf : v.f = 0x12) : s.vxStep c v j st =
    .ok ((vxReduce (Vx.op c.n) (v.e.rm == 2) (j = 0) st.1 x, 0), [(j, .val (vxReduce (Vx.op c.n) (v.e.rm == 2) (j = 0) st.1 x))]) := by
  have hs : v.streams = [0] := Vx.streams_of_one (by omega)
  simp only [vxStep, hf, hs, List.contains_cons, BEq.rfl, Bool.true_or, if_true, hx]
  rfl

theorem vxStep_reduce (hf : v.f = 0x11) : s.vxStep c v j st =
    .ok ((vxReduce (Vx.op c.n) (v.e.rm == 2) (j = 0) st.1 x, 0),
      if j + 1 = Vx.count c.n then [(0, .val (vxReduce (Vx.op c.n) (v.e.rm == 2) (j = 0) st.1 x))] else []) := by
  have hs : v.streams = [0] := Vx.streams_of_one (by omega)
  simp only [vxStep, hf, hs, List.contains_cons, BEq.rfl, Bool.true_or, if_true, hx]
  rfl

/-! ## Tables (R345) -/

theorem vxStep_gather (hf : v.f = 0x14) : (indexIn c.c.toNat x = none → s.vxStep c v j st = .ok (st, [(j, .val .nan)])) ∧
    (∀ i b p, indexIn c.c.toNat x = some i → s.vxEntry c v i = .ok (b, p) → s.vxStep c v j st = .ok (st, [(j, .val (b.elem p))])) := by
  have hs : v.streams = [0] := Vx.streams_of_one (by omega)
  simp only [vxStep, hf, hs, List.contains_cons, BEq.rfl, Bool.true_or, if_true, hx]
  refine ⟨fun hi => ?_, fun i b p hi he => ?_⟩
  · simp only [bind, Except.bind, hi]
  · simp only [bind, Except.bind, hi, he]

theorem vxStep_lookup (hf : v.f = 0x0C) : (indexIn c.c.toNat x = none →
      s.vxStep c v j st = .ok (st, [(j, .code (if isInt v.e.fmt then 0 else nanCode (fmtOf v.e.fmt)))])) ∧
    (∀ i b p, indexIn c.c.toNat x = some i → s.vxEntry c v i = .ok (b, p) →
      s.vxStep c v j st = .ok (st, [(j, .code ((blockCode b.code b.b.data p).getD 0))])) := by
  have hs : v.streams = [0] := Vx.streams_of_one (by omega)
  simp only [vxStep, hf, hs, List.contains_cons, BEq.rfl, Bool.true_or, if_true, hx]
  refine ⟨fun hi => ?_, fun i b p hi he => ?_⟩
  · simp only [bind, Except.bind, hi]
  · simp only [bind, Except.bind, hi, he]

variable (hy : s.vxElem c v 1 j = .ok y)
include hy

theorem vxStep_scatter (hf : v.f = 0x15) : (indexIn c.c.toNat y = none → s.vxStep c v j st = .ok (st, [])) ∧
    (∀ i, indexIn c.c.toNat y = some i →
      (s.readBlock (s.s1Pa c.ltag c.t.unit ((c.d.toNat + i * (fmtWidth v.e.fmt / 8)) / 64 * 64))).psn = [] →
      s.vxStep c v j st = .ok (st, [(i, .val x)])) := by
  have hs : v.streams = [0, 1] := Vx.streams_of_two (by omega)
  simp only [vxStep, hf, hs, List.contains_cons, BEq.rfl, Bool.true_or, Bool.or_true, if_true, hx, hy]
  refine ⟨fun hi => ?_, fun i hi hpsn => ?_⟩
  · simp only [bind, Except.bind, hi]
  · simp only [bind, Except.bind, hi, hpsn, List.find?_nil, Option.map_none]

/-! ## Masks (R346) -/

theorem vxStep_pack (hf : v.f = 0x18) : s.vxStep c v j st = if nonZero y then .ok ((st.1, st.2 + 1), [(st.2, .val x)]) else .ok (st, []) := by
  have hs : v.streams = [0, 1] := Vx.streams_of_two (by omega)
  simp only [vxStep, hf, hs, List.contains_cons, BEq.rfl, Bool.true_or, Bool.or_true, if_true, hx, hy]
  rfl

omit hx in
theorem vxStep_unpack_zero (hf : v.f = 0x19) (hn : nonZero y = false) : s.vxStep c v j st = .ok (st, [(j, .val FVal.zero)]) := by
  have hs : v.streams = [0, 1] := Vx.streams_of_two (by omega)
  simp only [vxStep, hf, hs, List.contains_cons, BEq.rfl, Bool.true_or, Bool.or_true, if_true, hy]
  exact if_neg (by simp [hn])

end

end State

end Sys2Proof.Machine
end

section
/-! SUPPORT. Results by position, and the order of VTOPK (R101, R344, R345); and the statement about the values of elements, O32. -/

namespace Sys2Proof.Machine
open Sys2Proof.Claims

/-- The last element given to a position wins (R345). -/
theorem mget_vxMap (es : List (Nat × Elem)) (i : Nat) : mget (vxMap es) i = (es.reverse.find? fun e => e.1 == i).map (·.2) := by
  unfold vxMap
  induction es using List.reverseRecOn with
  | nil => rfl
  | append_singleton es e ih =>
    rw [List.foldl_concat, List.reverse_concat, List.find?_cons]
    by_cases he : e.1 = i
    · rw [← he, mget_mset_self, beq_self_eq_true]
      rfl
    · rw [mget_mset_other _ _ _ _ (Ne.symm he), beq_false_of_ne he, ih]

/-! ## The order of ranks (R101) -/

/-- An element goes behind those that it does not stand above, and the list is cut. -/
theorem Rank.insert_eq (k : Nat) (e : Rank) (l : List Rank) :
    Rank.insert k e l = ((l.takeWhile fun o => !e.above o) ++ e :: l.dropWhile fun o => !e.above o).take k := by
  induction l generalizing k with
  | nil => cases k <;> simp [Rank.insert]
  | cons o l ih =>
    cases k with
    | zero => rfl
    | succ k =>
      rw [Rank.insert, if_neg (Nat.succ_ne_zero k)]
      cases ha : e.above o with
      | true => simp [ha]
      | false => simp [ha, ih]

section
variable {p q : Rank}

theorem Rank.above_of_fLt (hp : p.v.isNan = false) (hq : q.v.isNan = false) (h : fLt q.v p.v = true) : p.above q = true := by
  simp [Rank.above, hp, hq, h]

/-- NaN stands below every number. -/
theorem Rank.above_nan (hp : p.v.isNan = false) (hq : q.v.isNan = true) : p.above q = true ∧ q.above p = false := by
  simp [Rank.above, hp, hq]

/-- Of equal values that with the lower index stands above. -/
theorem Rank.above_of_idx (hv : p.v = q.v) (hi : p.idx < q.idx) (hlt : fLt p.v p.v = false) : p.above q = true ∧ q.above p = false := by
  have hlt' : fLt q.v q.v = false := hv ▸ hlt
  have hne : ¬q.idx < p.idx ∧ ¬q.idx = p.idx := by omega
  cases hn : q.v.isNan <;> simp [Rank.above, hv, hn, hi, hlt', hne]

end

theorem ofInt_natCast (n : Nat) : ofInt n 0 = .fin false n 0 := by
  rw [ofInt, decide_eq_false (by omega), Int.natAbs_natCast]

namespace State
variable {s : State} {c : Cmd} {v : Vx} {j : Nat}

/-- What a reduction does with one more element, by its OP (R343). -/
theorem vxReduce_eq {op : Nat} (h : op ≤ 3) (rdn : Bool) (j : Nat) (a x : FVal) : vxReduce op rdn (j = 0) a x =
    if j = 0 then (if op = 3 then x.abs else x)
    else if op = 0 then fAdd rdn a x else if op = 1 then fMin a x else if op = 2 then fMax a x else fMax a x.abs := by
  have hop : op = 0 ∨ op = 1 ∨ op = 2 ∨ op = 3 := by omega
  by_cases hj : j = 0
  · simp [vxReduce, hj]
  · obtain rfl | rfl | rfl | rfl := hop
    all_goals simp [vxReduce, hj]

/-- The element `j` of VTOPK's input, ranked with its index. -/
def rankedElem (v : Vx) (j idx : Nat) (b : Typed) (va : Nat) : VxStep :=
  ⟨.nan, 0, [], some ⟨b.elem (va % 64 / (fmtWidth v.e.sfmt / 8)), idx, j, (blockCode b.code b.b.data (va % 64 / (fmtWidth v.e.sfmt / 8))).getD 0⟩⟩

/-- VTOPK takes an element with its index, which the stream of indices has or the position gives (R344). -/
theorem vxRank_one {b : Typed} {d : Option Half} {neg : Bool} {mant : Nat} {ex : Int} (acc : List VxStep)
    (hb : s.operandBlock c { num := 0, base := c.a.toNat, decl := v.e.sfmt, instr := v.e.fsrc, sparse := false }
      (c.a.toNat + j * Vx.stride c.n 0 * (fmtWidth v.e.sfmt / 8)) = .ok b)
    (hd : v.e.fsrc = true ∨ d.getD b.b.desc = b.b.desc)
    (hg : (if v.e.x then s.vxElem c v 1 j else .ok (ofInt ((c.b.toNat + j) % 2 ^ 32 : Nat) 0)) = .ok (.fin neg mant ex)) :
    s.vxRank c v 1 j d acc = ((rankedElem v j ((if neg then 2 ^ 32 - mant else mant) % 2 ^ 32) b
      (c.a.toNat + j * Vx.stride c.n 0 * (fmtWidth v.e.sfmt / 8)) :: acc).reverse, some (d.getD b.b.desc), none) := by
  have hsame : s.sameDesc c v 0 c.a.toNat v.e.sfmt (d.getD b.b.desc) b (c.a.toNat + j * Vx.stride c.n 0 * (fmtWidth v.e.sfmt / 8)) = .ok () := by
    refine if_pos ?_
    rcases hd with hd | hd
    · rw [hd, Bool.true_or]
    · rw [hd, decide_eq_true rfl, Bool.or_true]
  simp only [vxRank, hb, hsame, hg, rankedElem]

end State

/-- Settles O32: an element by the function of its command; VTOPK by the order of its ranks. -/
theorem vectorElementValues : Obligations.VectorElementValues := by
  intro s c v j st x y z hx hy hz dn op gives one
  have hone {f : Nat} {r : FVal} (hf : (6 ≤ f ∧ f ≤ 0x0B) ∨ f = 0x0F ∨ f = 0x10)
      (hr : State.vxFun f dn op c.b.toInt x .nan .nan = r) : gives f r :=
    fun hv => State.vxStep_fun_one hx hy hz (hv ▸ hf) (hv ▸ hr)
  have htwo {f : Nat} {r : FVal} (hf : f ≤ 2 ∨ f = 4 ∨ f = 5 ∨ f = 0x0D) (hr : State.vxFun f dn op c.b.toInt x y .nan = r) : gives f r :=
    fun hv => State.vxStep_fun_two hx hy hz (hv ▸ hf) (hv ▸ hr)
  have hthree {f : Nat} {r : FVal} (hf : f = 3 ∨ f = 0x0E) (hr : State.vxFun f dn op c.b.toInt x y z = r) : gives f r :=
    fun hv => State.vxStep_fun_three hx hy hz (hv ▸ hf) (hv ▸ hr)
  refine ⟨htwo (by decide) rfl, htwo (by decide) rfl, htwo (by decide) rfl, hthree (by decide) rfl, htwo (by decide) rfl, htwo (by decide) rfl,
    hone (by decide) rfl, hone (by decide) rfl, hone (by decide) rfl, hone (by decide) rfl, hone (by decide) rfl, hone (by decide) rfl,
    htwo (by decide) ?compares, hthree (by decide) ?selects, hone (by decide) rfl, hone (by decide) rfl, State.vxStep_iota, State.vxStep_fill, ?_⟩
  case compares =>
    show ofInt (if fcmpHolds (BitVec.ofNat 3 op) x y then 1 else 0) 0 = _
    split <;> rfl
  case selects =>
    show (if State.nonZero x = true then y else z) = _
    exact if_congr (by simp [State.nonZero]) rfl rfl
  intro acc
  have hacc (hop : op ≤ 3) : State.vxReduce op dn (j = 0) st.1 x = acc := State.vxReduce_eq hop dn j st.1 x
  refine ⟨fun hf hop => ?scan, fun hf hop => ?reduce, fun hf => (State.vxStep_gather hx hf).1, fun hf => (State.vxStep_lookup hx hf).1,
    fun i b p hi he => ⟨fun hf => (State.vxStep_gather hx hf).2 i b p hi he, fun hf => (State.vxStep_lookup hx hf).2 i b p hi he⟩,
    fun hf => (State.vxStep_scatter hx hy hf).1, fun i hf => (State.vxStep_scatter hx hy hf).2 i, mget_vxMap,
    fun b d acc neg mant ex hf => ?ranks, Rank.insert_eq, fun p q => Rank.above_of_fLt, fun p q => Rank.above_nan, fun p q => Rank.above_of_idx,
    fun steps d hf hsrc => ?topk, fun hf hn h0 => ?packNone, fun hf hn h0 => ?packs, fun hf hn h0 => ?unpacks⟩
  case scan =>
    have hstep := State.vxStep_scan (st := st) hx hf
    rw [hacc hop] at hstep
    exact hstep
  case reduce =>
    have hstep := State.vxStep_reduce (st := st) hx hf
    rw [hacc hop] at hstep
    exact hstep
  case ranks =>
    intro w va i ranked hb hd
    refine ⟨fun hext => ?_, fun hext hg => State.vxRank_one acc hb hd (by rw [hext]; exact hg)⟩
    have hstep := State.vxRank_one (ex := 0) (neg := false) (mant := (c.b.toNat + j) % 2 ^ 32) acc hb hd (by
      rw [hext, ofInt_natCast]
      rfl)
    rw [if_neg Bool.false_ne_true, Nat.mod_mod] at hstep
    exact hstep
  case topk =>
    rw [State.vxFull, if_pos hf]
    simp only [hsrc, Bool.false_eq_true, if_false, Option.getD_some]
  case packNone => rw [State.vxStep_pack hx hy hf, if_neg (by simp [State.nonZero, hn, h0])]
  case packs => rw [State.vxStep_pack hx hy hf, if_pos (by simp [State.nonZero, h0])]
  case unpacks => exact State.vxStep_unpack_zero hy hf (by simp [State.nonZero, hn, h0])

end Sys2Proof.Machine
end
